-- ==== Sys2Proof/Word.lean ====
section
/-! DEFINITION. The word types of the CS6120 model and the sparse store that holds every addressed thing in it.

All multi-byte structures are little-endian (R8). -/

namespace Sys2Proof

/-- One byte. -/
abbrev Byte := BitVec 8
/-- A 16-bit word: MIDs, statuses, weight-set identifiers. -/
abbrev W16 := BitVec 16
/-- A register (R26) or an FP32 bit pattern. -/
abbrev W32 := BitVec 32
/-- A 64-bit word. -/
abbrev W64 := BitVec 64
/-- A device-range address (R254). -/
abbrev Addr := BitVec 48

/-- Sparse data by key: (key, value) pairs with keys strictly rising and no pair that equals what an
unlisted key reads as. -/
abbrev Store (α : Type) := List (Nat × α)

end Sys2Proof
end

