-- ==== Sys2Proof/Syntax.lean ====
section
/-! DEFINITION. The commands of the block: one constructor of `Instr` for each row of spec/opcode_table.json, with the
operands the row's rule needs. A register write carries the writer's MID and leadership token (R33, R37). What the
outside world decides (bit errors, readings, image bytes, host memory words, trained widths) is an operand too. -/

namespace Sys2Proof

/-- The two halves of the device (R14). -/
inductive Half where
  | north | south
  deriving DecidableEq, Repr

/-- The control pages of BAR0 (R38). Host, ring and fetch ports, referee replicas and bridge ends come in pairs. -/
inductive Page where
  | cap
  | cc (h : Half) | wsc (h : Half) | mig (h : Half) | d2d (h : Half) | rf (h : Half)
  | hp (i : Fin 2) | rg (i : Fin 2) | eth (i : Fin 2)
  | pmu | thm | sec | dbg | fus | aon
  | die (n : Fin 8) | bm (n : Fin 16) | mbx (m : Fin 64) | chan (c : Fin 512) | tile (p : Fin 1056)
  deriving DecidableEq, Repr

/-- The header of a register write: the writer's MID (R37) and the token it carries (R33; ignored for MIDs that are
no control complex). -/
structure Wr where
  mid : W16
  token : W32
  deriving DecidableEq, Repr

/-- Service classes (R135): the code 3 is invalid and stands in raw descriptors only. -/
inductive Class where
  | sustained | frame | bulk
  deriving DecidableEq, Repr

/-- A task descriptor, field by field as R135 lays it out. `rsvd` is set when a reserved bit is not 0. -/
structure Desc where
  kind : BitVec 4
  cls : BitVec 2
  steal : Bool
  nodl : Bool
  deps : Byte
  stolen : Bool
  deadline : W32
  channel : BitVec 9
  cch : Half
  seq : W32
  mepoch : W16
  wset : W16
  pprAddr : W16
  vectors : Byte
  partials : Byte
  outGran : W16
  inRef : Addr
  outRef : Addr
  auxRef : Addr
  kernel : W16
  succAddr : W16
  succCnt : Byte
  srSeed : W32
  reqBase : Addr
  tmpl : W16
  rsvd : Bool
  deriving DecidableEq, Repr

/-- The request fields of a descriptor (R137). -/
structure ReqFields where
  cls : BitVec 2
  nodl : Bool
  deadline : W32
  channel : BitVec 9
  cch : Half
  seq : W32
  mepoch : W16
  reqBase : Addr
  deriving DecidableEq, Repr

/-- A signal (R139): a logical tile, a template and the ending task's request fields. -/
structure Signal where
  ltile : BitVec 10
  tmpl : W16
  req : ReqFields
  deriving DecidableEq, Repr

/-- A row frame on a refill row bus (R199), with the MID of its sender (R62). -/
structure RowFrame where
  ltile : BitVec 10
  bank : Bool
  sub : Fin 8
  row : Fin 128
  bseq : Byte
  poison : Bool
  restore : Bool
  data : BitVec 1024
  sender : W16
  deriving DecidableEq, Repr

/-- A scale frame (R199): the bytes of one scale block (R209). -/
structure ScaleFrame where
  ltile : BitVec 10
  bank : Bool
  poison : Bool
  bytes : List Byte
  sender : W16
  deriving DecidableEq, Repr

/-- A TASK_END message (R142). -/
structure EndMsg where
  channel : BitVec 9
  seq : W32
  tmpl : W16
  cch : Half
  status : W16
  poison : Bool
  rally : Option (Nat × Nat × Nat)
  deriving DecidableEq, Repr

/-- The two units of a tile that run tasks (R145). -/
inductive TileUnit where
  | array | vector
  deriving DecidableEq, Repr

/-- One stored output of a kernel or of the outside: device-range address, bytes, poison. -/
structure RangeWrite where
  addr : Addr
  bytes : List Byte
  poison : Bool
  deriving DecidableEq, Repr

/-- One adapter weight block of a tuning step (R105, R106): 32 gradients, where the BF16 weights and the BI8 moment
blocks (32 bytes and a scale byte) lie. -/
structure TuneBlock where
  grads : List W32
  wAddr : Addr
  mAddr : Addr
  uAddr : Addr
  deriving DecidableEq, Repr

/-- What a vector or tuning kernel did (its program is Flobutik's own, R224): its status, its output writes, its
NaN and overflow counts (R102) and its tuning blocks. -/
structure KernelResult where
  status : W16
  writes : List RangeWrite
  nans : Nat
  ovfs : Nat
  tune : List TuneBlock
  deriving DecidableEq, Repr

/-- The result of a calibration (R123, R126): largest trims in 1/64 step, and the first failing converter with its
kind (0 offset, 1 gain, 2 residual). -/
structure CalResult where
  offMax : BitVec 7
  gainMax : BitVec 7
  fail : Option (Fin 260 × Fin 3)
  deriving DecidableEq, Repr

/-- A command of four 64-bit words: weight-store (R189), range (R263) or compression (R288). -/
structure Cmd4 where
  q0 : W64
  q1 : W64
  q2 : W64
  q3 : W64
  deriving DecidableEq, Repr

/-- The path that carries a range or compression command: an engine page or a channel page (R265, R289). -/
inductive Path where
  | mig (h : Half)
  | chan (c : Fin 512)
  deriving DecidableEq, Repr

/-- What a code-word sense brought (R166, R167): bit errors in the code word, whether the decoder corrects it when
the count passes 160, and whether the transfer across the bond kept its parity. -/
structure SenseResult where
  bits : Nat
  corrects : Bool
  bondOk : Bool
  deriving DecidableEq, Repr

/-- A storage error met by a read (R271): none, correctable, or detected and not corrected, with its address. -/
structure ReadError where
  addr : Addr
  correctable : Bool
  deriving DecidableEq, Repr

/-- The arguments of FETCH (R326) with the bytes its source gives (R238): the header and the manifest as read. -/
structure FetchArgs where
  handle : W16
  source : Byte
  ref : W64
  length : W64
  runEarly : Bool
  keepT1 : Bool
  store : Bool
  header : List Byte
  manifest : List Byte
  deriving DecidableEq, Repr

/-- A firmware mailbox request's envelope: the mailbox, the requesting MID and the TAG (R326). -/
structure Env where
  mbx : Fin 64
  mid : W16
  tag : W32
  deriving DecidableEq, Repr

/-- The arguments of ADAPTER_BIND (R326). -/
structure BindArgs where
  channel : W16
  handle : W16
  slot : Byte
  rank : Byte
  aRef : W64
  bRef : W64
  alpha : W32
  tuneRef : W64
  deriving DecidableEq, Repr

/-- What a plan holds in a form that only its publisher's tools produce (R224, R227): for each plan tile the bytes of its
table frames (templates, records and successor lists, with plan tile indices in LTILE), and the rally buffer's place. -/
structure PlaceArgs where
  tables : List (W16 × List Byte)
  buffer : Addr
  pages : Nat
  deriving DecidableEq, Repr

/-- A ring packet (R339). -/
structure RingPkt where
  ty : BitVec 4
  poison : Bool
  dir : Bool
  dst : BitVec 5
  src : BitVec 5
  toHost : Bool
  bar0 : Bool
  port : BitVec 3
  len : Byte
  mid : W16
  tag : BitVec 14
  addr : W64
  cplStatus : BitVec 3
  bytes : BitVec 13
  hops : BitVec 5
  eseq : W16
  vc : BitVec 2
  rsvd : Bool
  payload : List W32
  deriving DecidableEq, Repr

/-- The DLP fields of a ring flit (R338) and whether its CRC passed after FEC. -/
structure Flit where
  crcOk : Bool
  fseq : BitVec 12
  ack : BitVec 12
  nak : Bool
  cvc : BitVec 2
  credits : BitVec 12
  deriving DecidableEq, Repr

/-- The sources of a wake (R389) with what LAST_WAKE records of them (R405). -/
structure WakeSrc where
  source : BitVec 4
  port : BitVec 3
  node : BitVec 5
  half : Half
  tile : Option (Fin 1056)
  deriving DecidableEq, Repr

/-- A configuration write of a host (R325, R332): the power state and bus mastering of a function. -/
structure ConfigWrite where
  port : Fin 2
  function : Fin 16
  d3hot : Bool
  busMaster : Bool
  deriving DecidableEq, Repr

/-- What the start-up sequence meets in the outside world: which areas fail and their versions (R413), board-memory
channels that fail training with the capacity and rate of the others (R281, R415), units that fail self-test with the
number of the test, and the time that steps 1 to 9 take. -/
structure BootWorld where
  aOk : Bool
  bOk : Bool
  aVersion : W32
  bVersion : W32
  bmFail : List (Fin 16)
  bmMib : W16
  bmMts : BitVec 14
  bistFail : List (Page × Fin 6)
  planeFail : List (Fin 8 × Fin 192)
  timeUs : W32
  deriving DecidableEq, Repr

/-- An entry of a locked table as written (R36): a Mailbox Binding Table entry (R324) or a Remote Admin Table entry
(R347). -/
inductive TableEntry where
  | mbt (m : Fin 64) (data : W64)
  | admin (i : Fin 8) (data : W32)
  deriving DecidableEq, Repr

/-- A reading of a thermal sensor: its two diodes in 0.125 °C units (R434). -/
structure SensorReading where
  a : Int
  b : Int
  deriving DecidableEq, Repr

/-- The commands of the block, one constructor for each row of the opcode table, in its order. -/
inductive Instr where
  /-- REGISTER_WRITE (R30). A write to a register that has no row of its own, checked for size, alignment, admitted MID, EPOCH and LOCK, then stored. -/
  | registerWrite (w : Wr) (off : BitVec 26) (size : Nat) (data : W64)
  /-- BAR0_RESERVED_WRITE (R39). A write to a BAR0 offset that lies in no page is discarded and ACCESS_DENIED KIND 0 is recorded on the SEC page. -/
  | bar0ReservedWrite (w : Wr) (off : BitVec 26) (data : W32)
  /-- ABSENT_UNIT_PAGE_WRITE (R39). A write other than EVT_CLR to the page of an absent unit is discarded and ACCESS_DENIED KIND 1 is recorded. -/
  | absentUnitPageWrite (w : Wr) (off : BitVec 26) (data : W32)
  /-- COUNTER_LATCH_READ (R75). A read of the low word of a 64-bit counter or timer pair latches the high word for the next read. -/
  | counterLatchRead (mid : W16) (off : BitVec 26)
  /-- EN_WRITE (R31). A write of BLK_CTRL.EN requests ON or OFF and moves BLK_STATE by the transition table. -/
  | enWrite (w : Wr) (page : Page) (en : Bool)
  /-- START_SEQUENCE_COMPLETE (R31). A block's start sequence ends and the block goes to ON, or to STOPPING if EN holds 0. -/
  | startSequenceComplete (page : Page)
  /-- STOP_SEQUENCE_COMPLETE (R31). A block's stop sequence ends and the block goes to OFF, or restarts from RESTART_PENDING. -/
  | stopSequenceComplete (page : Page)
  /-- EVT_CLR_WRITE (R28). A write to EVT_CLR clears the named EVT_RAW bits, except bits set in the same cycle. -/
  | evtClrWrite (w : Wr) (page : Page) (clear : W32) (setNow : W32)
  /-- FENCE_REQ (R438). A write of FENCE.REQ fences the unit, or keeps an existing fence and adds the cause. -/
  | fenceReq (w : Wr) (page : Page)
  /-- FENCE_RELEASE (R438). A write of FENCE.RELEASE ends a fence once the repair path of every cause has completed, or is ignored. -/
  | fenceRelease (w : Wr) (page : Page) (bistFail : List (Page × Fin 6))
  /-- LOCK_SET (R12). A write of 1 to LOCK locks every RWL field and locked table of the page until device reset. -/
  | lockSet (w : Wr) (page : Page)
  /-- LOCKED_TABLE_ENTRY_WRITE (R36). A write of a locked-table entry is checked when VALID is 1 and is stored valid or invalid. -/
  | lockedTableEntryWrite (w : Wr) (entry : TableEntry)
  /-- TABLE_ERROR (R36). A locked-table entry reads back uncorrectable, is treated as VALID 0 and TABLE_ERROR is raised. -/
  | tableError (entry : TableEntry)
  /-- BAR2_READ (R41). A host read through BAR2 is translated to a device-range read and checked for ownership and poison. -/
  | bar2Read (mid : W16) (off : BitVec 36) (len : Nat) (err : Option ReadError)
  /-- BAR2_WRITE (R41). A host write through BAR2 is translated to a device-range write and checked for ownership and fenced homes. -/
  | bar2Write (mid : W16) (off : BitVec 36) (bytes : List Byte) (poison : Bool)
  /-- DBG_RESET (R45). A write of DBG_RESET with GO and KEY 0xD5E7 resets the device with RESET_CAUSE 5. -/
  | dbgReset (w : Wr) (data : W32)
  /-- DBG_WAKE (R45). A write of DBG_WAKE.GO is wake source 10 for every domain below RUN. -/
  | dbgWake (w : Wr) (data : W32)
  /-- DEBUG_SESSION_OPEN (R45). A debug session opens on the debug pins and SESSION is raised. -/
  | debugSessionOpen
  /-- BANK_WRITE_COMMAND (R61). A BANK_WR_CMD write with GO copies tag and configuration to the target bank and makes it WRITE_HELD or WRITING, or is refused. -/
  | bankWriteCommand (w : Wr) (tile : Fin 1056) (data : W32)
  /-- REFILL_ROW_FRAME (R64). A row frame from a refill row bus is stored in its bank with checksum bits, column sums and refresh credit, or refused. -/
  | refillRowFrame (f : RowFrame)
  /-- SCALE_FRAME (R211). A scale frame is checked against its bank and its codes are stored in the bank table, or the bank is marked skewed. -/
  | scaleFrame (f : ScaleFrame)
  /-- PASS_START (R52). At a slot boundary a subarray starts a pass, skips an all-zero plane, or holds for temperature, calibration or sag limits. -/
  | passStart (tile : Fin 1056) (sub : Fin 8)
  /-- PASS_END (R111). A pass ends, its codes are checked by checksum and reference columns and handed to the shift-add or retried. -/
  | passEnd (tile : Fin 1056) (sub : Fin 8) (errs : List (Nat × Nat))
  /-- REFRESH_SLOT (R119). A subarray's refresh slot comes due and one row is read-restored, or deferred behind a row write. -/
  | refreshSlot (tile : Fin 1056) (i : Fin 16) (rowArriving : Bool)
  /-- REFRESH_DEFER_LIMIT (R120). After 256 consecutive deferrals the refresh takes the slot and the arriving row waits 8 ns. -/
  | refreshDeferLimit (tile : Fin 1056) (i : Fin 16)
  /-- REFRESH_LATE (R121). A sweep not complete 1,800 µs after its first row fences the bank with REPAIR_HOLD, or the tile on a second event. -/
  | refreshLate (tile : Fin 1056) (i : Fin 16)
  /-- CALIBRATION_DUE (R124). A subarray's calibration age reaches 9,600 µs or its temperature moves 4.0 °C, so its calibration becomes due. -/
  | calibrationDue (tile : Fin 1056) (i : Fin 16)
  /-- CAL_DUE_LATE (R124). A due calibration reaches its hard limit of age or temperature and starts at the next pass boundary. -/
  | calDueLate (tile : Fin 1056) (i : Fin 16)
  /-- CALIBRATION_START (R123). A due calibration starts when its subarray is idle or between vectors. -/
  | calibrationStart (tile : Fin 1056) (i : Fin 16)
  /-- CALIBRATION_END (R123). A calibration ends, new trims are loaded and the subarray is released, or a converter fails. -/
  | calibrationEnd (tile : Fin 1056) (i : Fin 16) (r : CalResult)
  /-- REPAIR_REWRITE (R116). A REPAIR_CMD GO with MODE 0 rewrites a fenced bank from the source of its last refill, then verifies it. -/
  | repairRewrite (w : Wr) (tile : Fin 1056) (bank : Bool)
  /-- REPAIR_TEST_CLEAR (R116). A REPAIR_CMD GO with MODE 1 writes and sweeps test patterns and leaves the bank EMPTY or FAILED. -/
  | repairTestClear (w : Wr) (tile : Fin 1056) (bank : Bool)
  /-- REPAIR_END (R116). A repair's verification ends with the bank READY or EMPTY, or FAILED and the tile fenced, and REPAIR_DONE is raised. -/
  | repairEnd (tile : Fin 1056) (clean : Bool)
  /-- REPAIR_HOLD_EXPIRE (R115). No REPAIR_CMD arrives within 100 µs of a fence, REPAIR_HOLD clears and the waiting tasks fail with BANK_MISS. -/
  | repairHoldExpire (tile : Fin 1056) (bank : Bool)
  /-- COLSUM_SWEEP_START (R89). At the task boundary after a bank becomes READY with scales, the column-sum sweep runs its four passes per subarray. -/
  | colsumSweepStart (tile : Fin 1056) (bank : Bool)
  /-- COLSUM_SWEEP_END (R89). The sweep ends, ZPC entries are formed and column totals are compared with the write-time sums. -/
  | colsumSweepEnd (tile : Fin 1056) (bank : Bool) (errs : List (Fin 8 × Fin 4 × Nat × Nat))
  /-- SUBST_CMD (R127). A SUBST_CMD write with GO makes a bench tile take over a failed tile's logical number, or is refused. -/
  | substCmd (w : Wr) (tile : Fin 1056) (data : W32)
  /-- BENCH_SUBSTITUTION_START (R128). The control complex starts a bench substitution after a tile is fenced. -/
  | benchSubstitutionStart (failed : Fin 1056)
  /-- DEQUE_TRANSFER (R160). A fenced tile's router moves its deque entries to the bench tile, or they end with TILE_LOST. -/
  | dequeTransfer (failed : Fin 1056) (ok : Bool)
  /-- PAIR_HEARTBEAT (R130). The tiles of a Sustained pair exchange a heartbeat every 2 µs. -/
  | pairHeartbeat (tile : Fin 1056)
  /-- PAIR_HEARTBEAT_LOST (R131). Three missed heartbeats declare a silent primary lost. -/
  | pairHeartbeatLost (mirror : Fin 1056)
  /-- TAKE (R131). A TAKE message makes the mirror the primary, its shadow entries runnable and MIRROR_SWITCH raised. -/
  | take (mirror : Fin 1056)
  /-- MIRROR_REFORM (R131). Within 1 ms the control complex forms a new mirror from a bench or repaired tile and LOST returns to 0. -/
  | mirrorReform (survivor : Fin 1056) (fresh : Fin 1056)
  /-- TASK_POST (R138). A root task or shadow entry arrives at a tile, is checked and takes a POSTED slot. -/
  | taskPost (tile : Fin 1056) (d : Desc) (shadow : Bool) (poster : Half)
  /-- SIGNAL (R140). A signal arrives at a tile and lowers DEPS of a waiting entry or builds a new task, or goes to the spill queue. -/
  | signal (tile : Fin 1056) (sig : Signal)
  /-- SIGNAL_RETURN (R139). A signal whose logical tile no tile serves returns to the control complex, which purges the request as UNIT_FENCED. -/
  | signalReturn (sig : Signal)
  /-- TASK_SELECT (R145). The array or vector unit takes the best-ranked READY task. -/
  | taskSelect (tile : Fin 1056) (unit : TileUnit)
  /-- CIM_VECTOR_END (R84). A CIM task's vector completes on its bank and the post-processor forms, requantises and emits its outputs. -/
  | cimVectorEnd (tile : Fin 1056)
  /-- ADAPTER_VALUES (R103). Adapter values arrive for a held vector, are checked by TAG and stage 9 proceeds. -/
  | adapterValues (tile : Fin 1056) (tag : Byte) (vals : List W32) (poison : Bool)
  /-- TASK_END (R141). A task ends with a status, writes poison over its extent if failed, sends its signals and TASK_END. -/
  | taskEnd (tile : Fin 1056) (unit : TileUnit) (r : KernelResult)
  /-- TIME_LIMIT (R147). A vector task that runs more than VEC_LIMIT local clocks is stopped and ends with TIME_LIMIT. -/
  | timeLimit (tile : Fin 1056)
  /-- TASK_END_MESSAGE (R142). A TASK_END message is counted at a control complex, which purges and completes the request at its declared count. -/
  | taskEndMessage (cc : Half) (msg : EndMsg)
  /-- PURGE (R142). A PURGE message removes a request's remaining entries from a tile and records them as DESC_INVALID. -/
  | purge (tile : Fin 1056) (channel : BitVec 9) (seq : W32)
  /-- CREDIT_RETURN (R148). A freed POSTED slot returns its credit to the control complex that posted into it. -/
  | creditReturn (tile : Fin 1056) (poster : Half)
  /-- STEAL_PROBE_SEND (R152). An idle tile that meets the probe conditions draws a victim and sends a probe. -/
  | stealProbeSend (thief : Fin 1056)
  /-- STEAL_PROBE (R153). A probe arrives at a victim, which answers GRANT with a stealable task or DENY. -/
  | stealProbe (victim : Fin 1056) (thief : Fin 1056)
  /-- STEAL_GRANT (R154). A grant arrives at the thief, which places the task in a STOLEN slot, or returns to the victim. -/
  | stealGrant (victim : Fin 1056) (thief : BitVec 10) (d : Desc) (age : Nat)
  /-- STEAL_DENY (R154). A denial arrives at the thief, which doubles its backoff. -/
  | stealDeny (thief : Fin 1056)
  /-- STEAL_BACKOFF_EXPIRE (R154). The thief's backoff period ends and it may probe again. -/
  | stealBackoffExpire (thief : Fin 1056)
  /-- WS_READ_REFILL (R200). A READ_REFILL command reads code words and delivers their rows or scale blocks to tiles by route descriptor. -/
  | wsReadRefill (w : Wr) (half : Half) (cmd : Cmd4)
  /-- WS_READ_COPY (R189). A READ_COPY command reads code words into a device-range destination. -/
  | wsReadCopy (w : Wr) (half : Half) (cmd : Cmd4)
  /-- WS_PROGRAM (R171). A PROGRAM command programs code words from a device-range source, or is refused. -/
  | wsProgram (w : Wr) (half : Half) (cmd : Cmd4)
  /-- WS_ERASE (R178). An ERASE command queues a block erase behind its intent record. -/
  | wsErase (w : Wr) (half : Half) (cmd : Cmd4)
  /-- WS_STATUS_POP (R190). A read of STS3 removes the head status entry of a WSC. -/
  | wsStatusPop (mid : W16) (half : Half)
  /-- CODE_WORD_READ_END (R166). A code-word sense completes and the code word is decoded, checked, classed and delivered. -/
  | codeWordReadEnd (half : Half) (id : Nat) (r : SenseResult)
  /-- SENSE_TIMEOUT (R187). A sense that does not complete within 100 µs is sensed again, or the plane is fenced on the second failure. -/
  | senseTimeout (half : Half) (id : Nat)
  /-- WEAK_HEAD_READ (R170). A read of WEAK_HEAD_HI by a control complex removes the head entry of the weak FIFO. -/
  | weakHeadRead (mid : W16) (half : Half)
  /-- PROGRAM_CW_DONE (R173). A code word's program verifies after its loops. -/
  | programCwDone (half : Half) (id : Nat) (loops : Nat)
  /-- PROGRAM_LOOP_LIMIT (R174). A program not verified after 25 loops fails, the block is retired and PROG_FAIL is raised. -/
  | programLoopLimit (half : Half) (id : Nat)
  /-- INTENT_RECORD_PROGRAMMED (R178). An erase-intent record programs with status OK and its erases start. -/
  | intentRecordProgrammed (die : Fin 8)
  /-- ERASE_SUSPEND_HOLD_EXPIRE (R176). An erase reaches 300 µs of progress and a held suspend begins. -/
  | eraseSuspendHoldExpire (half : Half) (id : Nat)
  /-- ERASE_RESUME (R176). A suspended erase resumes when its plane's queue empties or after 100 µs suspended. -/
  | eraseResume (half : Half) (id : Nat)
  /-- ERASE_BREAK (R177). A repair read meets a held suspend and breaks the erase, leaving the block partially erased. -/
  | eraseBreak (half : Half) (id : Nat)
  /-- ERASE_VERIFY (R178). An erase verifies and its done record is programmed. -/
  | eraseVerify (half : Half) (id : Nat) (pulses : Nat)
  /-- ERASE_PROGRESS_LIMIT (R175). An erase exceeds 3.0 ms of progress and ends WS_ERASE_FAIL with the block retired. -/
  | eraseProgressLimit (half : Half) (id : Nat)
  /-- INTENT_SCAN (R179). A WSC reads its dies' intent logs at start-up, records partially erased blocks and sets SCAN_DONE. -/
  | intentScan (half : Half)
  /-- PLANE_FENCE_REQ (R187). A PLANE_FENCE_REQ write with GO fences the named plane. -/
  | planeFenceReq (w : Wr) (die : Fin 8) (data : W32)
  /-- LOOP_MAX_CLR (R193). A write of LOOP_MAX.CLR clears the recorded loop maxima. -/
  | loopMaxClr (w : Wr) (half : Half)
  /-- ID_READ (R182). An ID_CMD with OP 0 reads an identity-row field into ID_DATA. -/
  | idRead (w : Wr) (field : BitVec 6)
  /-- ID_PROGRAM_FIELD (R182). An ID_CMD with OP 1 programs an identity-row field from ID_DATA, or is refused with a reason. -/
  | idProgramField (w : Wr) (field : BitVec 6)
  /-- ID_CMD_INVALID_OP (R182). An ID_CMD with OP 2 or 3 ends with FIELD_INVALID. -/
  | idCmdInvalidOp (w : Wr) (data : W32)
  /-- FIRMWARE_FETCH_MISS (R184). A firmware fetch misses the code-word buffer and reads the code word from the running boot area. -/
  | firmwareFetchMiss (cc : Half) (cw : BitVec 11) (r : SenseResult) (dup : SenseResult)
  /-- RALLY_JOIN (R201). An admitted request joins the FORMING rally of its instance at the lowest free slot, or waits. -/
  | rallyJoin (ctx : Fin 16) (chan : Fin 512) (seq : W32)
  /-- RALLY_GATHER_EXPIRE (R201). GATHER elapses since the first member joined a FORMING rally. -/
  | rallyGatherExpire (ctx : Fin 16)
  /-- RALLY_FLIP (R204). The sequencer flips a rally to the next chunk, sends FLIP signals, issues the next bank writes and opens gates. -/
  | rallyFlip (ctx : Fin 16) (computeNs : Nat) (refillNs : Nat)
  /-- RESTORE_HOLD_EXPIRE (R217). A flip waiting for RESTORE rows proceeds after 40 µs with the rows still poisoned. -/
  | restoreHoldExpire (ctx : Fin 16)
  /-- SECOND_SOURCE_READ (R216). After an uncorrectable refill code word the sequencer reads the rows from a second source and sends them with RESTORE. -/
  | secondSourceRead (ctx : Fin 16) (cwa : BitVec 25) (frames : List RowFrame)
  /-- SEQUENCER_TAKEOVER (R196). When the home control complex is fenced, the other resumes its rally sequencers within 20 µs. -/
  | sequencerTakeover (fenced : Half)
  /-- HELD_CHUNK_SWITCH (R215). A held chunk programmed into the weight store switches source at the next FORMING rally's first flip. -/
  | heldChunkSwitch (ctx : Fin 16) (chunk : Nat)
  /-- FETCH (R238). A FETCH command checks an image's trust, allocates a version and lands the image in T1. -/
  | fetch (env : Env) (a : FetchArgs)
  /-- ACTIVATE (R227). An ACTIVATE command picks a plan, assigns tiles and loads a version as ACTIVE. -/
  | activate (env : Env) (handle : W16) (sustained : Bool) (place : PlaceArgs)
  /-- REPLACE (R242). A REPLACE command starts a shadow, in-place or streamed replacement of a handle's weights. -/
  | replace (env : Env) (handle : W16) (mode : Byte) (holdUs : W32) (pinMs : W16)
  /-- RELOCATE (R248). A RELOCATE command programs a whole version into fresh blocks. -/
  | relocate (env : Env) (handle : W16)
  /-- RETIRE (R247). A RETIRE command makes a version RETIRING or RETIRED. -/
  | retire (env : Env) (handle : W16) (which : Byte)
  /-- SOURCE_RELEASE (R239). A SOURCE_RELEASE command frees the kept T1 copy and source reference of a version. -/
  | sourceRelease (env : Env) (handle : W16) (which : Byte)
  /-- ADAPTER_BIND (R250). An ADAPTER_BIND command attaches a channel's adapter to a slot of a handle. -/
  | adapterBind (env : Env) (a : BindArgs)
  /-- ADAPTER_UNBIND (R250). An ADAPTER_UNBIND command detaches a channel's adapter from a slot. -/
  | adapterUnbind (env : Env) (channel : W16) (handle : W16) (slot : Byte)
  /-- MANIFEST_CHUNK_LANDED (R231). A manifest chunk lands, is hashed and programmed, or is fetched again. -/
  | manifestChunkLanded (handle : BitVec 10) (chunk : Nat) (bytes : List Byte) (poison : Bool)
  /-- FETCH_SOURCE_TIMEOUT (R238). A fetch source that stops answering for 100 ms ends the FETCH with IMG_FETCH_FAIL. -/
  | fetchSourceTimeout (handle : BitVec 10)
  /-- MANIFEST_CHUNK_VERIFIED (R240). A programmed manifest chunk is read back and hashed, moving the version towards VERIFIED. -/
  | manifestChunkVerified (handle : BitVec 10) (epoch : W32) (chunk : Nat) (ok : Bool)
  /-- SHADOW_SWITCH (R243). When every shadow bank is READY the new version becomes ACTIVE and the old RETIRING. -/
  | shadowSwitch (handle : BitVec 10)
  /-- PIN_WINDOW_EXPIRE (R243). The pin window ends and PIN to the old epoch fails with EPOCH_GONE. -/
  | pinWindowExpire (handle : BitVec 10)
  /-- HUDDLE_LAYER_REWRITE (R244). Once every request has passed a layer and the previous layer's writes have completed, that layer is rewritten. -/
  | huddleLayerRewrite (handle : BitVec 10)
  /-- HUDDLE_SWITCH (R244). The last layer is READY, the switch is made and the huddle opens. -/
  | huddleSwitch (handle : BitVec 10)
  /-- VERSION_RETIRED (R247). A RETIRING version's references reach 0 and it becomes RETIRED with its resources freed. -/
  | versionRetired (handle : BitVec 10)
  /-- IMG_REVOKED (R233). A programmed REVOKE field moves every version signed under that slot to RETIRING. -/
  | imgRevoked (slot : Fin 8)
  /-- BLOCK_RELOCATE (R248). The leader relocates a weak or remapped block into a free block and switches the placement map. -/
  | blockRelocate (old : BitVec 25) (new : BitVec 25)
  /-- IMG_DAMAGED (R249). A manifest chunk cannot be recovered and the version is marked DAMAGED. -/
  | imgDamaged (handle : BitVec 10) (epoch : W32)
  /-- ALLOC (R264). An ALLOC range command allocates pages with class, tier and owner. -/
  | alloc (mid : W16) (token : W32) (path : Path) (cmd : Cmd4)
  /-- FREE (R255). A FREE range command releases pages and clears their flags and marks. -/
  | free (mid : W16) (token : W32) (path : Path) (cmd : Cmd4)
  /-- MOVE (R266). A MOVE range command starts giving pages a new home. -/
  | move (mid : W16) (token : W32) (path : Path) (cmd : Cmd4)
  /-- GIVE (R262). A GIVE range command changes a page's owner along an allowed transition. -/
  | give (mid : W16) (token : W32) (path : Path) (cmd : Cmd4)
  /-- QUERY (R265). A QUERY range command returns a page's home-table entry. -/
  | query (mid : W16) (token : W32) (path : Path) (cmd : Cmd4)
  /-- T2_REGISTER (R258). A T2_REGISTER command adds host frames to a function's T2 pool. -/
  | t2Register (mid : W16) (token : W32) (path : Path) (cmd : Cmd4)
  /-- T2_RELEASE (R258). A T2_RELEASE command returns free host frames to the host. -/
  | t2Release (mid : W16) (token : W32) (path : Path) (cmd : Cmd4)
  /-- SET_TABLE_FRAMES (R257). A SET_TABLE_FRAMES command sets a tile's TBL_FRAMES after moving its T0 quarters out. -/
  | setTableFrames (mid : W16) (token : W32) (path : Path) (cmd : Cmd4)
  /-- RANGE_STATUS_POP (R265). A read of STS7 or RSTS7 removes the head range status entry. -/
  | rangeStatusPop (mid : W16) (path : Path)
  /-- MOVE_COPY_ROUND_END (R266). A copy round of a move ends and another round starts or the move seeks to commit. -/
  | moveCopyRoundEnd (id : Nat)
  /-- MOVE_COMMIT (R269). A move sets COMMITTING if VERSION is unchanged, or is decided again against the new home. -/
  | moveCommit (id : Nat)
  /-- MOVE_DRAIN_END (R266). The last dirty lines are copied, the entry is written with the new home and held accesses resume. -/
  | moveDrainEnd (id : Nat) (holdNs : Nat)
  /-- TRANSLATOR_MISS (R260). A range translator misses and fetches the home-table entry. -/
  | translatorMiss (client : Nat) (addr : Addr)
  /-- T2_READ_ERROR (R258). A T2 read completes with an error or reaches its timeout and delivers poisoned data. -/
  | t2ReadError (addr : Addr) (granules : Nat)
  /-- COMPRESS (R284). A COMPRESS command stores blocks in the smallest allowed mode and writes their index entries. -/
  | compress (mid : W16) (token : W32) (path : Path) (cmd : Cmd4)
  /-- EXPAND (R291). An EXPAND command decodes stored blocks into 512-byte destinations, or writes poisoned zeros. -/
  | expand (mid : W16) (token : W32) (path : Path) (cmd : Cmd4)
  /-- LOAD_TABLE (R286). A LOAD_TABLE command checks a Huffman table and holds until earlier commands of the channel end. -/
  | loadTable (mid : W16) (token : W32) (path : Path) (cmd : Cmd4)
  /-- LOAD_TABLE_COMMIT (R286). The commands holding a load have ended and both slot copies are written with GEN advanced. -/
  | loadTableCommit (chan : Fin 512)
  /-- ZSTATUS_POP (R290). A read of ZSTS3 removes the head compression status entry. -/
  | zstatusPop (mid : W16) (path : Path)
  /-- CHAN_ASSIGN (R301). A CHAN_ASSIGN write binds a channel to a function and resets its cursors, records, reservation and slots. -/
  | chanAssign (w : Wr) (chan : Fin 512) (data : W32)
  /-- DOORBELL (R307). A doorbell write is accepted and sets CUR_DB, or is discarded with DB_REJECT. -/
  | doorbell (mid : W16) (chan : Fin 512) (value : W32)
  /-- DESCRIPTOR_READ (R308). The device reads a posted descriptor when the window and store allow, checks it and admits the request. -/
  | descriptorRead (chan : Fin 512) (line : BitVec 512)
  /-- INPUT_COPY_END (R304). The input copy to REQ_BASE ends and the request's root tasks are posted. -/
  | inputCopyEnd (chan : Fin 512) (seq : W32)
  /-- OUTPUT_TRANSFER_END (R311). A request's output transfer ends and its completion is assigned. -/
  | outputTransferEnd (chan : Fin 512) (seq : W32) (fail : Bool)
  /-- COMPLETION_WRITE (R312). An assigned completion is written to the completion queue once there is room and HOLD is 0. -/
  | completionWrite (chan : Fin 512)
  /-- CQ_HEAD_WRITE (R312). A CQ_HEAD write frees completion records, or is discarded if it moves back or past CUR_POST. -/
  | cqHeadWrite (w : Wr) (chan : Fin 512) (value : W32)
  /-- CANCEL (R313). A CANCEL write cancels a request and reports the outcome in CANCEL_STAT. -/
  | cancel (w : Wr) (chan : Fin 512) (seq : W32)
  /-- HOLD_WRITE (R315). A CHAN_CTRL.HOLD write holds or releases a channel's descriptor reads and completion writes. -/
  | holdWrite (w : Wr) (chan : Fin 512) (hold : Bool)
  /-- HELD (R315). Completion writes already issued have left the device and HELD becomes 1. -/
  | held (chan : Fin 512)
  /-- REPLAY (R316). A REPLAY write arranges that held completions are written again when HOLD next clears. -/
  | replay (w : Wr) (chan : Fin 512)
  /-- SQ_DISCARD (R316). An SQ_DISCARD write sets CUR_DB to CUR_ACCEPT. -/
  | sqDiscard (w : Wr) (chan : Fin 512)
  /-- FUNCTION_LEVEL_RESET (R315). An FLR or link loss of a function sets HOLD and FLR_HELD on its channels. -/
  | functionLevelReset (function : W16)
  /-- RESV_SUSTAINED (R318). A RESV_CMD GO with CLASS 0 requests a Sustained reservation. -/
  | resvSustained (w : Wr) (chan : Fin 512) (grade : BitVec 3) (handle : BitVec 10)
  /-- RESV_FRAME (R318). A RESV_CMD GO with CLASS 1 requests a Frame reservation. -/
  | resvFrame (w : Wr) (chan : Fin 512) (grade : BitVec 3) (handle : BitVec 10)
  /-- RESV_RELEASE (R318). A RESV_CMD GO with CLASS 2 releases the reservation. -/
  | resvRelease (w : Wr) (chan : Fin 512)
  /-- RESV_INVALID_CLASS (R318). A RESV_CMD GO with CLASS 3 is refused with reason 3. -/
  | resvInvalidClass (w : Wr) (chan : Fin 512) (grade : BitVec 3) (handle : BitVec 10)
  /-- RESV_DONE (R318). The leader decides a pending reservation and grants or refuses it. -/
  | resvDone (chan : Fin 512)
  /-- RESV_PERIOD_START (R320). A reservation period begins and RESV_LEFT is refilled. -/
  | resvPeriodStart (chan : Fin 512)
  /-- RESERVATION_REVOCATION (R322). Tiles stop serving a set and the leader revokes Frame reservations and posts notices. -/
  | reservationRevocation (tile : Fin 1056)
  /-- COALESCE_TIMER_EXPIRE (R328). COAL_US passes since the first uninterrupted completion and the channel's interrupt is sent. -/
  | coalesceTimerExpire (chan : Fin 512)
  /-- MBX_SEND (R325). An MBX_SEND.GO write queues the composed message toward the peer, or raises SEND_FULL. -/
  | mbxSend (mid : W16) (mbx : Fin 64)
  /-- MBX_RECV_POP (R325). An MBX_RECV.POP write removes the reader's head message. -/
  | mbxRecvPop (mid : W16) (mbx : Fin 64)
  /-- MAILBOX_INVALID (R326). A firmware mailbox message with an unknown OP or nonzero reserved byte is answered MBX_INVALID. -/
  | mailboxInvalid (env : Env) (op : W16)
  /-- ID_PROGRAM (R326). An ID_PROGRAM mailbox command asks firmware to program an identity-row field. -/
  | idProgram (env : Env) (field : Byte) (data : BitVec 384)
  /-- HOST_LINK_UP (R332). A host port trains at the widest width and rate its lanes allow. -/
  | hostLinkUp (port : Fin 2) (lanes : Byte) (rate : BitVec 3)
  /-- HOST_LINK_DOWN (R334). A host link leaves L0 other than by a power state and acts as an FLR of every function. -/
  | hostLinkDown (port : Fin 2)
  /-- PERST (R406). PERST_L of a host port resets that port only and acts as link loss. -/
  | perst (port : Fin 2)
  /-- CPL_TIMEOUT (R335). A request the device issued reaches its completion timeout. -/
  | cplTimeout (port : Fin 2)
  /-- BAR4_ACCESS (R347). A host access through BAR4 is sent as a ring packet to another node's BAR0. -/
  | bar4Access (mid : W16) (off : BitVec 31) (write : Bool) (data : W32)
  /-- RING_FLIT (R338). A flit arrives on a ring link, is checked and acknowledged, or dropped and NAKed. -/
  | ringFlit (port : Fin 2) (f : Flit) (pkts : List RingPkt)
  /-- RING_REPLAY (R338). A NAK makes the sender replay flits from its replay buffer, retraining after four replays. -/
  | ringReplay (port : Fin 2) (count : Nat)
  /-- RING_PACKET (R339). A ring packet is received whole and delivered, forwarded or dropped. -/
  | ringPacket (port : Fin 2) (p : RingPkt)
  /-- E2E_ACK (R340). An E2E_ACK releases the source's kept packets up to its ESEQ. -/
  | e2eAck (port : Fin 2) (src : BitVec 5) (vc : BitVec 2) (eseq : W16)
  /-- E2E_DROP (R340). Packets to a node that left the ring are unacknowledged for 1 ms and are dropped. -/
  | e2eDrop (dst : BitVec 5)
  /-- RING_BREAK (R346). The ring becomes a chain and sources resend unacknowledged packets the other way. -/
  | ringBreak (port : Fin 2)
  /-- ENUM_START (R343). No BEACON reaches the head within 1 ms of training and it sends ENUM. -/
  | enumStart
  /-- ENUM (R343). An ENUM packet gives a node its ID, which answers JOIN_ACK and passes ENUM on, or is EXCLUDED. -/
  | enum (port : Fin 2) (nextId : BitVec 6) (ringId : W32)
  /-- ENUM_RETURN_TIMEOUT (R343). ENUM does not return within 1 ms and the head sends a second ENUM out of Ring A. -/
  | enumReturnTimeout
  /-- JOIN_ACK (R343). A JOIN_ACK reaches the head with a node's ID and serial. -/
  | joinAck (node : BitVec 5) (serial : BitVec 128)
  /-- ENUM_DONE (R343). An ENUM_DONE packet gives each node the ring map and sets STATE to JOINED. -/
  | enumDone (closed : Bool) (nodes : List (BitVec 5 × BitVec 128))
  /-- JOIN (R344). A JOIN reaches the head, which gives the node an ID and announces the new map. -/
  | join (serial : BitVec 128)
  /-- BEACON_SEND (R344). Every 100 µs a node sends a BEACON to the head. -/
  | beaconSend
  /-- BEACON (R344). A BEACON arrives and updates the receiver's map. -/
  | beacon (node : BitVec 5) (serial : BitVec 128) (seed : W64) (head : Bool) (closed : Bool) (nodes : List (BitVec 5 × BitVec 128))
  /-- LEAVE_WRITE (R345). A RING_CTRL.LEAVE write closes or reopens the device's bypass. -/
  | leaveWrite (w : Wr) (port : Fin 2) (leave : Bool)
  /-- REENUM (R344). A REENUM write at the head renumbers the ring. -/
  | reenum (w : Wr) (port : Fin 2)
  /-- WAKE_GO (R349). A WAKE_GO write sends a WAKE ordered set toward WAKE_NODE. -/
  | wakeGo (w : Wr) (port : Fin 2) (node : BitVec 5)
  /-- WAKE_RELAY (R349). A WAKE_RELAY packet makes a node send WAKE toward a node beyond it. -/
  | wakeRelay (port : Fin 2) (node : BitVec 5)
  /-- WAKE_ORDERED_SET (R349). A listener at OFF accepts two good WAKE repetitions naming it and wakes. -/
  | wakeOrderedSet (port : Fin 2) (first : W32) (second : W32)
  /-- BYPASS_CHANGE (R345). The bypass opens or closes and the links on either side retrain. -/
  | bypassChange
  /-- RING_LINK_TRAINED (R346). A ring link retrains to its partner and held traffic resumes. -/
  | ringLinkTrained (port : Fin 2) (lanes : Byte)
  /-- RDMA_READ_RESPONSE (R353). An RDMA READ response lands image payload for a manifest chunk. -/
  | rdmaReadResponse (port : Fin 2) (qpn : BitVec 24) (psn : BitVec 24) (bytes : List Byte)
  /-- RDMA_READ_RESTART (R353). A missing or out-of-sequence response restarts the READ after 4 ms. -/
  | rdmaReadRestart (port : Fin 2) (qpn : BitVec 24)
  /-- CONGESTION_NOTIFICATION (R353). A congestion notification halves a queue pair's rate. -/
  | congestionNotification (port : Fin 2) (qpn : BitVec 24)
  /-- RATE_INCREASE (R353). Each 55 µs without notification raises the queue pair's rate by 1/16 of line rate. -/
  | rateIncrease (port : Fin 2) (qpn : BitVec 24)
  /-- RX_DROP (R351). An unsupported frame or RoCEv2 request arriving at an image fetch port is dropped and counted. -/
  | rxDrop (port : Fin 2)
  /-- ETH_LINK (R354). An Ethernet port's link goes up or down. -/
  | ethLink (port : Fin 2) (up : Bool)
  /-- LEASE_RENEW_SEND (R358). Every 25 µs the leader sends RENEW to both replicas. -/
  | leaseRenewSend
  /-- RENEW (R358). A replica grants a RENEW from the holder before EXP and extends EXP. -/
  | renew (replica : Half) (from_ : Half) (token : W32)
  /-- LEASE_EXPIRE (R358). The device timer reaches EXP without renewal and the lease lapses. -/
  | leaseExpire
  /-- STALE_WRITE_GATE (R359). A leader-role write issued at or past EXP is discarded and counted. -/
  | staleWriteGate (cc : Half)
  /-- REFEREE_POLL (R358). Every 25 µs the follower reads HOLDER, TOKEN and EXP from both replicas. -/
  | refereePoll (cc : Half)
  /-- REPLICA_EXCHANGE (R357). The replicas exchange lease state every 1 µs over the always-on link. -/
  | replicaExchange
  /-- PARTITION (R360). A replica that hears nothing for 3 µs enters PARTITIONED state. -/
  | partition (replica : Half)
  /-- PARTITION_ALONE (R360). After 150 µs partitioned the TIEBRK replica may grant a new lease alone. -/
  | partitionAlone (replica : Half)
  /-- REJOIN (R360). The always-on link returns and the replicas reconcile and leave PARTITIONED. -/
  | rejoin
  /-- ACQUIRE (R361). An ACQUIRE is granted after the guard, making the sender holder with TOKEN raised. -/
  | acquire (replica : Half) (from_ : Half)
  /-- TAKEOVER_GUARD_END (R361). The 20 µs guard after expiry ends and the follower sends ACQUIRE. -/
  | takeoverGuardEnd (cc : Half)
  /-- TOKEN_ANNOUNCE (R363). The new leader broadcasts its token to every shared page. -/
  | tokenAnnounce (cc : Half)
  /-- YIELD (R364). A CC_CTRL.YIELD write starts a handoff of leadership. -/
  | yield (w : Wr) (cc : Half)
  /-- CC_HEARTBEAT (R367). Each control complex sends a heartbeat every 1 µs on every path. -/
  | ccHeartbeat (cc : Half)
  /-- PEER_LOST (R367). Three consecutive heartbeats missed on every path declare the other control complex lost. -/
  | peerLost (lost : Half)
  /-- CC_WATCHDOG_EXPIRE (R367). A control complex's watchdog expires and its half is fenced. -/
  | ccWatchdogExpire (cc : Half)
  /-- HALF_FENCE (R367). A half is fenced, mirrors take over, dispatch moves and the lease is expired. -/
  | halfFence (half : Half) (cause : BitVec 4)
  /-- HALF_LOSS_COMPLETIONS (R367). The survivor completes every request with a task on the fenced half with TILE_LOST. -/
  | halfLossCompletions (half : Half)
  /-- HALF_RETURN (R372). A fenced half restarts, self-tests, loads its shadow and rejoins as follower. -/
  | halfReturn (half : Half) (failed : List Page)
  /-- MIG_ENGINE_FENCE (R370). A fenced migration engine's entries move to the other keeper and its moves revert. -/
  | migEngineFence (half : Half)
  /-- GROUP_FENCED (R371). A bridge lane group is fenced for a replay or training failure. -/
  | groupFenced (group : Fin 2) (training : Bool)
  /-- BRIDGE_RETRAIN (R371). Every 10 ms the device tries to retrain a fenced bridge group and restores it on success. -/
  | bridgeRetrain (group : Fin 2) (ok : Bool)
  /-- REPLICA_RESTART (R373). A silent replica is restarted by the AON domain and reloads lease state from its peer. -/
  | replicaRestart (replica : Half) (ok : Bool)
  /-- LEADERLESS (R373). The lease lapses while no new lease can be granted and LEADERLESS is set. -/
  | leaderless
  /-- FW_UPDATE (R374). A FW_UPDATE mailbox command starts a live firmware update, or is refused. -/
  | fwUpdate (env : Env) (ref : W64) (length : W64)
  /-- FW_UPDATE_STEP_END (R375). A step of the live update completes and the next step begins. -/
  | fwUpdateStepEnd
  /-- FW_FAILED (R376). A restarted control complex fails verification or shadow load and is restarted from the old area. -/
  | fwFailed (cc : Half)
  /-- SAG_WARN (R377). A core supply falls below −6.0 % and the pass limit and interrupt apply. -/
  | sagWarn (half : Half) (depth : Byte)
  /-- SAG_CLEAR (R377). Both core supplies stay above −5.0 % for 100 µs and the limit is removed. -/
  | sagClear
  /-- SAG_RESET (R377). A core supply falls below −11.0 % and the device resets except the AON domain. -/
  | sagReset (half : Half) (depth : Byte)
  /-- RAIL_LOSS (R428). A non-core rail falls 8 % below nominal for 1 µs and the device resets. -/
  | railLoss (aon : Bool)
  /-- SAG_MIN_CLR (R381). A write of SAG_MIN.CLR clears the recorded sag minima. -/
  | sagMinClr (w : Wr)
  /-- PF_VOTE_WRITE (R387). A PF_VOTE write sets or frees the writer's floor slot, or is refused at 16 slots. -/
  | pfVoteWrite (w : Wr) (floorN : BitVec 3) (floorS : BitVec 3)
  /-- PWR_CMD_OFF (R394). A PWR_CMD write with OP 1 and GO takes the device to OFF, or is refused. -/
  | pwrCmdOff (w : Wr)
  /-- PWR_CMD_INVALID (R404). A PWR_CMD GO with another OP is refused with REASON 5. -/
  | pwrCmdInvalid (w : Wr) (op : BitVec 4)
  /-- TILE_IDLE_ENTRY (R384). A tile without work enters IDLE. -/
  | tileIdleEntry (tile : Fin 1056)
  /-- TILE_DWELL_EXPIRE (R384). A tile idle for PWR_DWELL.TILE_US drops to its target level. -/
  | tileDwellExpire (tile : Fin 1056)
  /-- HALF_DWELL_EXPIRE (R384). A half idle for PWR_DWELL.HALF_US with no floor drops to its target level. -/
  | halfDwellExpire (half : Half)
  /-- LEVEL_ENTRY_COMPLETE (R384). An entry to a power level completes and any wake that arrived during it starts the exit. -/
  | levelEntryComplete (dom : Half ⊕ Fin 1056)
  /-- WAKE (R389). A wake source wakes the domains it needs and the AON domain records it. -/
  | wake (src : WakeSrc)
  /-- LEVEL_EXIT_COMPLETE (R390). An exit completes, the domain is at RUN and held accesses proceed. -/
  | levelExitComplete (dom : Half ⊕ Fin 1056)
  /-- WAKE_AT_REACHED (R389). The device timer reaches WAKE_AT and wakes the device. -/
  | wakeAtReached
  /-- POWER_SAMPLE (R397). Every 100 µs the PMU samples rail power and adjusts CAP_LEVEL. -/
  | powerSample (centiwatts : Nat)
  /-- THERMAL_SENSOR_READING (R434). A thermal sensor gives a fresh reading every 20 µs, checked for failure and fed to throttle, hold and trip. -/
  | thermalSensorReading (sensor : Fin 48) (r : SensorReading)
  /-- BOOST_CHANGE (R396). A tile enters or leaves RUN-BOOST as its conditions change. -/
  | boostChange (tile : Fin 1056)
  /-- THM_MAX_CLR (R436). A write of THM_MAX.CLR clears the recorded maximum. -/
  | thmMaxClr (w : Wr)
  /-- STATE_SAVE (R392). At entry to REST or OFF the hardware saves settings, tables and locks into always-on SRAM. -/
  | stateSave
  /-- STATE_RESTORE (R392). At exit the saved groups are restored in order, LOCK bits last. -/
  | stateRestore (bad : List (Fin 6))
  /-- POWER_ON_RESET (R406). Core and AON supplies reach power-good and the whole device resets. -/
  | powerOnReset
  /-- EXTERNAL_RESET (R406). RESET_L held low for 10 µs resets the device except AON. -/
  | externalReset
  /-- BOTH_CC_LOST_RESET (R406). Both halves fenced or both watchdogs expired within 1 ms resets the device. -/
  | bothCcLostReset
  /-- THERMAL_TRIP (R435). A sensor at 120.0 °C asserts THERMTRIP_L and resets the device. -/
  | thermalTrip (sensor : Fin 48)
  /-- RESET_RELEASE (R408). The reset source's condition clears and the internal reset is released. -/
  | resetRelease
  /-- START_UP_SEQUENCE (R409). Start-up loads fuses, verifies firmware, trains memory, self-tests, leases, restores and sets the capability page ON. -/
  | startUpSequence (world : BootWorld)
  /-- BOARD_MEMORY_TRAINING (R281). A board-memory channel trains and reaches ON, or is fenced. -/
  | boardMemoryTraining (n : Fin 16) (ok : Bool) (mib : W16) (mts : BitVec 14)
  /-- FIRST_LEASE (R417). The TIEBRK half's control complex acquires the first lease without the guard. -/
  | firstLease
  /-- FIRST_LEASE_FALLBACK (R417). No lease 5 ms after its self-test, the other control complex sends ACQUIRE. -/
  | firstLeaseFallback
  /-- VERSION_RESTORE (R418). A stored version's signature is checked and it returns in its recorded state. -/
  | versionRestore (handle : BitVec 10) (sigOk : Bool)
  /-- RING_SETTLE_TIMEOUT (R419). No ring port trains within 10 ms of EN and the device runs standalone. -/
  | ringSettleTimeout
  /-- RECOV_CMD (R414). A RECOV_CMD.GO write programs a host image into a boot area and verifies it, then resets or fails. -/
  | recovCmd (w : Wr) (image : List Byte) (readOk : Bool) (programOk : Bool)
  /-- ID_DONE (R182). An identity-row program started by ID_CMD finishes its code word, ID_STAT goes from BUSY to DONE and ID_DONE is raised. -/
  | idDone
  /-- DEBUG_SESSION_CLOSE (R45). A debug session on the debug pins closes and DBG_STAT.SESSION returns to 0. -/
  | debugSessionClose
  /-- CA_PARITY (R281). A board-memory channel detects a command/address parity error, counts it, raises CA_PARITY and fences the channel with CAUSE 7 on a second error within 1 ms. -/
  | caParity (n : Fin 16)
  /-- LINK_RETURN_TO_L0 (R334). A host link returns from L1, L1.2, L0p or D3hot to L0 at full width, and the completion and interrupt writes that waited are sent. -/
  | linkReturnToL0 (port : Fin 2)
  /-- CONFIGURATION_REQUEST (R325). A host configuration write changes a function's power state (D0, D3hot) or bus mastering, and the mailbox PEER_STATE of its host ends moves between UP and ASLEEP. -/
  | configurationRequest (c : ConfigWrite)
  deriving DecidableEq, Repr

end Sys2Proof
end

