-- ==== Sys2Proof/Decode.lean ====
section
/-! DEFINITION. Decoding. The commands of this block reach it as register writes, packets and events: the opcode table
gives no row any bits, so that no word spells a command. -/

namespace Sys2Proof

/-- The command that a word spells by the opcode table's bits. The table gives bits to no row: none. -/
def decodeTableWord (_nbits _w : Nat) : Option Instr := none

end Sys2Proof
end

