-- ==== Sys2Proof/Config.lean ====
section
/-! DEFINITION. What the spec leaves open: free values (opaque: no proof can see what they are) and the constants an
implementation fixes. -/

namespace Sys2Proof

/-- A fresh value the spec does not fix, by draw number (the state's counter `free`): the values of the steal
generator (R152), a rally's draw among equal choices, and the like. -/
opaque Config.freeNat : Nat → Nat
/-- A free word, by draw number. -/
opaque Config.freeWord : Nat → W32
/-- A free byte, by draw number. -/
opaque Config.freeByte : Nat → Byte

/-- BLK_VER of a page, by its type code: the spec gives no layout versions (R26). -/
opaque Config.blkVer : Nat → W32

/-- Microseconds as device-timer ticks of 16 ns, rounded up (R314). -/
def ticks (us : Nat) : Nat := (us * 125 + 1) / 2

/-- One second in ticks. -/
def second : Nat := 62500000

end Sys2Proof
end

