-- ==== Sys2Proof/Machine/Regs.lean ====
section
/-! DEFINITION. The register map: one constant per named field of every register table of spec/ (made from the
tables themselves), with its offset in the page, its bits, its access code (R10) and its reset value, and the list
of the fields of each kind of page. Reserved bits have no field: they read 0 and ignore writes (R13). A reset value
the spec calls fuse, board, strap or per block is 0 here; such a field is computed where it is read. -/

namespace Sys2Proof

/-- The access codes of R10. -/
inductive Access where
  | ro | rw | w1c | w1s | wo | rwl
  deriving DecidableEq, Repr

/-- One register field: byte offset of the register in its page, lowest bit, width, access, reset value, and how
many consecutive registers repeat it. -/
structure Field where
  off : Nat
  lo : Nat
  width : Nat
  acc : Access
  reset : Nat
  count : Nat
  deriving DecidableEq, Repr

namespace Reg

/-! The D2D page (R17). -/
def D2D_D2D_STAT_GROUP_UP : Field := ⟨0x100, 0, 2, .ro, 0, 1⟩
def D2D_D2D_STAT_GROUP_FENCED : Field := ⟨0x100, 2, 2, .ro, 0, 1⟩
def D2D_D2D_STAT_HALF_RATE : Field := ⟨0x100, 4, 1, .ro, 0, 1⟩
def D2D_D2D_RETRAIN_ATTEMPTS : Field := ⟨0x104, 0, 16, .ro, 0, 1⟩
def D2D_D2D_RETRAIN_RESTORED : Field := ⟨0x104, 16, 16, .ro, 0, 1⟩
def D2D_D2D_REPLAY_CNT_COUNT : Field := ⟨0x108, 0, 32, .ro, 0, 1⟩
def D2D_D2D_ERR_REC_GROUP : Field := ⟨0x10C, 0, 1, .ro, 0, 1⟩
def D2D_D2D_ERR_REC_KIND : Field := ⟨0x10C, 1, 2, .ro, 0, 1⟩
def D2D_D2D_ERR_REC_VALID : Field := ⟨0x10C, 31, 1, .w1c, 0, 1⟩
def D2D_D2D_TX_GIB_GIB : Field := ⟨0x110, 0, 32, .ro, 0, 1⟩

/-- The fields of a D2D page. -/
def fieldsD2d : List Field :=
  [D2D_D2D_STAT_GROUP_UP, D2D_D2D_STAT_GROUP_FENCED, D2D_D2D_STAT_HALF_RATE, D2D_D2D_RETRAIN_ATTEMPTS,
   D2D_D2D_RETRAIN_RESTORED, D2D_D2D_REPLAY_CNT_COUNT, D2D_D2D_ERR_REC_GROUP, D2D_D2D_ERR_REC_KIND,
   D2D_D2D_ERR_REC_VALID, D2D_D2D_TX_GIB_GIB]

/-! Every control page (R26). -/
def BLK_ID_TYPE : Field := ⟨0x000, 0, 16, .ro, 0, 1⟩
def BLK_ID_INSTANCE : Field := ⟨0x000, 16, 11, .ro, 0, 1⟩
def BLK_ID_HALF : Field := ⟨0x000, 27, 1, .ro, 0, 1⟩
def BLK_VER_MINOR : Field := ⟨0x004, 0, 16, .ro, 0, 1⟩
def BLK_VER_MAJOR : Field := ⟨0x004, 16, 16, .ro, 0, 1⟩
def BLK_CAP_PRESENT : Field := ⟨0x008, 0, 1, .ro, 0, 1⟩
def BLK_CAP_SHARED : Field := ⟨0x008, 1, 1, .ro, 0, 1⟩
def BLK_CAP_BENCH : Field := ⟨0x008, 2, 1, .ro, 0, 1⟩
def BLK_CTRL_EN : Field := ⟨0x010, 0, 1, .rw, 0, 1⟩
def BLK_STATE_STATE : Field := ⟨0x014, 0, 3, .ro, 0, 1⟩
def EVT_RAW_RAW : Field := ⟨0x018, 0, 32, .ro, 0, 1⟩
def EVT_EN_EN : Field := ⟨0x01C, 0, 32, .rw, 0, 1⟩
def EVT_CLR_CLR : Field := ⟨0x020, 0, 32, .wo, 0, 1⟩
def EVT_STAT_STAT : Field := ⟨0x024, 0, 32, .ro, 0, 1⟩
def FENCE_FENCED : Field := ⟨0x028, 0, 1, .ro, 0, 1⟩
def FENCE_CAUSE : Field := ⟨0x028, 4, 4, .ro, 0, 1⟩
def FENCE_REQ : Field := ⟨0x028, 8, 1, .wo, 0, 1⟩
def FENCE_RELEASE : Field := ⟨0x028, 9, 1, .wo, 0, 1⟩
def FENCE_COUNT : Field := ⟨0x028, 16, 8, .ro, 0, 1⟩
def EPOCH_TOKEN : Field := ⟨0x02C, 0, 32, .ro, 0, 1⟩
def LOCK_LOCK : Field := ⟨0x030, 0, 1, .w1s, 0, 1⟩

/-- The fields of a ANY page. -/
def fieldsAny : List Field :=
  [BLK_ID_TYPE, BLK_ID_INSTANCE, BLK_ID_HALF, BLK_VER_MINOR,
   BLK_VER_MAJOR, BLK_CAP_PRESENT, BLK_CAP_SHARED, BLK_CAP_BENCH,
   BLK_CTRL_EN, BLK_STATE_STATE, EVT_RAW_RAW, EVT_EN_EN,
   EVT_CLR_CLR, EVT_STAT_STAT, FENCE_FENCED, FENCE_CAUSE,
   FENCE_REQ, FENCE_RELEASE, FENCE_COUNT, EPOCH_TOKEN,
   LOCK_LOCK]

/-! The CAP page (R42). -/
def CAP_SIZE_LOGIC_DIES : Field := ⟨0x100, 0, 32, .ro, 2, 1⟩
def CAP_SIZE_PHYS_TILES : Field := ⟨0x104, 0, 32, .ro, 1056, 1⟩
def CAP_SIZE_ACTIVE_TILES : Field := ⟨0x108, 0, 32, .ro, 1024, 1⟩
def CAP_SIZE_BENCH_TILES : Field := ⟨0x10C, 0, 32, .ro, 32, 1⟩
def CAP_SIZE_WEIGHT_DIES : Field := ⟨0x110, 0, 32, .ro, 8, 1⟩
def CAP_SIZE_WS_RAW_MIB : Field := ⟨0x114, 0, 32, .ro, 393216, 1⟩
def CAP_SIZE_WS_IMAGE_MIB : Field := ⟨0x118, 0, 32, .ro, 327680, 1⟩
def CAP_SIZE_SUSTAINED_MAX : Field := ⟨0x11C, 0, 32, .ro, 16, 1⟩
def CAP_SIZE_CHANNELS : Field := ⟨0x120, 0, 32, .ro, 512, 1⟩
def CAP_SIZE_MAILBOXES : Field := ⟨0x124, 0, 32, .ro, 64, 1⟩
def CAP_SIZE_BM_CHANNELS : Field := ⟨0x128, 0, 32, .ro, 16, 1⟩
def CAP_SIZE_BM_MIB : Field := ⟨0x12C, 0, 32, .ro, 0, 1⟩
def CAP_SIZE_HOST_PORTS : Field := ⟨0x130, 0, 32, .ro, 2, 1⟩
def CAP_SIZE_FETCH_PORTS : Field := ⟨0x134, 0, 32, .ro, 2, 1⟩
def CAP_SIZE_RING_PORTS : Field := ⟨0x138, 0, 32, .ro, 2, 1⟩
def CAP_SIZE_DEQUE_SLOTS : Field := ⟨0x13C, 0, 32, .ro, 256, 1⟩
def CAP_SIZE_SIZE_CLASS : Field := ⟨0x140, 0, 32, .ro, 0, 1⟩

/-- The fields of a CAP page. -/
def fieldsCap : List Field :=
  [CAP_SIZE_LOGIC_DIES, CAP_SIZE_PHYS_TILES, CAP_SIZE_ACTIVE_TILES, CAP_SIZE_BENCH_TILES,
   CAP_SIZE_WEIGHT_DIES, CAP_SIZE_WS_RAW_MIB, CAP_SIZE_WS_IMAGE_MIB, CAP_SIZE_SUSTAINED_MAX,
   CAP_SIZE_CHANNELS, CAP_SIZE_MAILBOXES, CAP_SIZE_BM_CHANNELS, CAP_SIZE_BM_MIB,
   CAP_SIZE_HOST_PORTS, CAP_SIZE_FETCH_PORTS, CAP_SIZE_RING_PORTS, CAP_SIZE_DEQUE_SLOTS,
   CAP_SIZE_SIZE_CLASS]

/-! The SEC page (R44, R420, R324). -/
def SEC_LW_REC_MID_MID : Field := ⟨0x100, 0, 16, .ro, 0, 1⟩
def SEC_LW_REC_MID_VALID : Field := ⟨0x100, 31, 1, .w1c, 0, 1⟩
def SEC_LW_REC_OFF_OFFSET : Field := ⟨0x104, 0, 26, .ro, 0, 1⟩
def SEC_LW_REC_DATA_DATA : Field := ⟨0x108, 0, 32, .ro, 0, 1⟩
def SEC_LW_CNT_COUNT : Field := ⟨0x10C, 0, 16, .ro, 0, 1⟩
def SEC_AD_REC_MID_MID : Field := ⟨0x110, 0, 16, .ro, 0, 1⟩
def SEC_AD_REC_MID_KIND : Field := ⟨0x110, 16, 2, .ro, 0, 1⟩
def SEC_AD_REC_MID_VALID : Field := ⟨0x110, 31, 1, .w1c, 0, 1⟩
def SEC_AD_REC_ADDR_LO_ADDR : Field := ⟨0x114, 0, 32, .ro, 0, 1⟩
def SEC_AD_REC_ADDR_HI_ADDR : Field := ⟨0x118, 0, 16, .ro, 0, 1⟩
def SEC_AD_CNT_COUNT : Field := ⟨0x11C, 0, 16, .ro, 0, 1⟩
def SEC_SEC_ENG_STAT_SIG_BUSY : Field := ⟨0x120, 0, 3, .ro, 0, 1⟩
def SEC_SEC_ENG_STAT_HASH_BUSY : Field := ⟨0x120, 4, 4, .ro, 0, 1⟩
def SEC_SIG_CNT_COUNT : Field := ⟨0x124, 0, 32, .ro, 0, 1⟩
def SEC_SIG_FAIL_CNT_COUNT : Field := ⟨0x128, 0, 16, .ro, 0, 1⟩
def SEC_BOOT_STAT_STAGE : Field := ⟨0x600, 0, 4, .ro, 0, 1⟩
def SEC_BOOT_STAT_MODE : Field := ⟨0x600, 4, 2, .ro, 0, 1⟩
def SEC_BOOT_STAT_MODE_REFUSED : Field := ⟨0x600, 6, 1, .ro, 0, 1⟩
def SEC_BOOT_STAT_AREA : Field := ⟨0x600, 7, 1, .ro, 0, 1⟩
def SEC_BOOT_STAT_FALLBACK : Field := ⟨0x600, 8, 1, .ro, 0, 1⟩
def SEC_BOOT_STAT_A_BAD : Field := ⟨0x600, 9, 1, .ro, 0, 1⟩
def SEC_BOOT_STAT_B_BAD : Field := ⟨0x600, 10, 1, .ro, 0, 1⟩
def SEC_BOOT_STAT_RESTORED : Field := ⟨0x600, 11, 1, .ro, 0, 1⟩
def SEC_BIST_STAT_FAIL : Field := ⟨0x604, 0, 6, .ro, 0, 1⟩
def SEC_BIST_STAT_TILES_FENCED : Field := ⟨0x604, 8, 8, .ro, 0, 1⟩
def SEC_BOOT_TIME_US : Field := ⟨0x608, 0, 32, .ro, 0, 1⟩
def SEC_BIST_FAIL_REC_PAGE : Field := ⟨0x60C, 0, 13, .ro, 0, 1⟩
def SEC_BIST_FAIL_REC_TEST : Field := ⟨0x60C, 13, 3, .ro, 0, 1⟩
def SEC_BIST_FAIL_REC_VALID : Field := ⟨0x60C, 31, 1, .w1c, 0, 1⟩
def SEC_RECOV_ADDR_LO_ADDR : Field := ⟨0x610, 0, 32, .rw, 0, 1⟩
def SEC_RECOV_ADDR_HI_ADDR : Field := ⟨0x614, 0, 32, .rw, 0, 1⟩
def SEC_RECOV_LEN_BYTES : Field := ⟨0x618, 0, 26, .rw, 0, 1⟩
def SEC_RECOV_CMD_GO : Field := ⟨0x61C, 31, 1, .wo, 0, 1⟩
def SEC_RECOV_STAT_STATE : Field := ⟨0x620, 0, 3, .ro, 0, 1⟩
def SEC_RECOV_STAT_REASON : Field := ⟨0x620, 4, 4, .ro, 0, 1⟩

/-- The fields of a SEC page, part 0. -/
def fieldsSec0 : List Field :=
  [SEC_LW_REC_MID_MID, SEC_LW_REC_MID_VALID, SEC_LW_REC_OFF_OFFSET, SEC_LW_REC_DATA_DATA,
   SEC_LW_CNT_COUNT, SEC_AD_REC_MID_MID, SEC_AD_REC_MID_KIND, SEC_AD_REC_MID_VALID,
   SEC_AD_REC_ADDR_LO_ADDR, SEC_AD_REC_ADDR_HI_ADDR, SEC_AD_CNT_COUNT, SEC_SEC_ENG_STAT_SIG_BUSY,
   SEC_SEC_ENG_STAT_HASH_BUSY, SEC_SIG_CNT_COUNT, SEC_SIG_FAIL_CNT_COUNT, SEC_BOOT_STAT_STAGE,
   SEC_BOOT_STAT_MODE, SEC_BOOT_STAT_MODE_REFUSED, SEC_BOOT_STAT_AREA, SEC_BOOT_STAT_FALLBACK,
   SEC_BOOT_STAT_A_BAD, SEC_BOOT_STAT_B_BAD, SEC_BOOT_STAT_RESTORED, SEC_BIST_STAT_FAIL]

/-- The fields of a SEC page, part 1. -/
def fieldsSec1 : List Field :=
  [SEC_BIST_STAT_TILES_FENCED, SEC_BOOT_TIME_US, SEC_BIST_FAIL_REC_PAGE, SEC_BIST_FAIL_REC_TEST,
   SEC_BIST_FAIL_REC_VALID, SEC_RECOV_ADDR_LO_ADDR, SEC_RECOV_ADDR_HI_ADDR, SEC_RECOV_LEN_BYTES,
   SEC_RECOV_CMD_GO, SEC_RECOV_STAT_STATE, SEC_RECOV_STAT_REASON]

/-- The fields of a SEC page. -/
def fieldsSec : List Field := fieldsSec0 ++ fieldsSec1

/-! The DBG page (R45). -/
def DBG_DBG_STAT_DEBUG_LOCK : Field := ⟨0x100, 0, 1, .ro, 0, 1⟩
def DBG_DBG_STAT_SESSION : Field := ⟨0x100, 1, 1, .ro, 0, 1⟩
def DBG_DBG_RESET_KEY : Field := ⟨0x104, 0, 16, .wo, 0, 1⟩
def DBG_DBG_RESET_GO : Field := ⟨0x104, 31, 1, .wo, 0, 1⟩
def DBG_DBG_WAKE_GO : Field := ⟨0x108, 31, 1, .wo, 0, 1⟩
def DBG_DBG_SESS_CNT_COUNT : Field := ⟨0x10C, 0, 16, .ro, 0, 1⟩

/-- The fields of a DBG page. -/
def fieldsDbg : List Field :=
  [DBG_DBG_STAT_DEBUG_LOCK, DBG_DBG_STAT_SESSION, DBG_DBG_RESET_KEY, DBG_DBG_RESET_GO,
   DBG_DBG_WAKE_GO, DBG_DBG_SESS_CNT_COUNT]

/-! The FUS page (R46). -/
def FUS_FUS_STAT_LOADED : Field := ⟨0x100, 0, 1, .ro, 0, 1⟩
def FUS_FUS_STAT_ERR : Field := ⟨0x100, 1, 1, .ro, 0, 1⟩
def FUS_FUS_BIN_SIZE_CLASS : Field := ⟨0x104, 0, 8, .ro, 0, 1⟩
def FUS_FUS_BIN_REV : Field := ⟨0x104, 8, 8, .ro, 0, 1⟩
def FUS_FUS_BENCH_SEL_INDEX : Field := ⟨0x108, 0, 5, .rw, 0, 1⟩
def FUS_FUS_BENCH_PHYS : Field := ⟨0x10C, 0, 11, .ro, 0, 1⟩
def FUS_FUS_BENCH_VALID : Field := ⟨0x10C, 31, 1, .ro, 0, 1⟩
def FUS_FUS_TILE_EN_EN : Field := ⟨0x200, 0, 32, .ro, 0, 33⟩

/-- The fields of a FUS page. -/
def fieldsFus : List Field :=
  [FUS_FUS_STAT_LOADED, FUS_FUS_STAT_ERR, FUS_FUS_BIN_SIZE_CLASS, FUS_FUS_BIN_REV,
   FUS_FUS_BENCH_SEL_INDEX, FUS_FUS_BENCH_PHYS, FUS_FUS_BENCH_VALID, FUS_FUS_TILE_EN_EN]

/-! The TILE page (R76, R109, R134, R162). -/
def TILE_ARRAY_CFG_SKIP_EN : Field := ⟨0x100, 0, 1, .rw, 1, 1⟩
def TILE_ARRAY_STAT_SEL_BANK : Field := ⟨0x104, 0, 1, .ro, 0, 1⟩
def TILE_ARRAY_STAT_RUNNING : Field := ⟨0x104, 1, 1, .ro, 0, 1⟩
def TILE_ARRAY_STAT_THERM_HOLD : Field := ⟨0x104, 2, 1, .ro, 0, 1⟩
def TILE_ARRAY_STAT_CAL_WAIT : Field := ⟨0x104, 3, 1, .ro, 0, 1⟩
def TILE_BANKA_TAG_WSET : Field := ⟨0x110, 0, 16, .ro, 0, 1⟩
def TILE_BANKA_TAG_MEPOCH : Field := ⟨0x110, 16, 16, .ro, 0, 1⟩
def TILE_BANKA_CFG_WFMT : Field := ⟨0x114, 0, 2, .ro, 0, 1⟩
def TILE_BANKA_CFG_FOLD : Field := ⟨0x114, 2, 2, .ro, 0, 1⟩
def TILE_BANKA_CFG_ROWS : Field := ⟨0x114, 8, 8, .ro, 0, 1⟩
def TILE_BANKA_STATE_STATE : Field := ⟨0x118, 0, 3, .ro, 0, 1⟩
def TILE_BANKA_STATE_ROWS_DONE : Field := ⟨0x118, 8, 8, .ro, 0, 1⟩
def TILE_BANKA_STATE_POISON_ROWS : Field := ⟨0x118, 16, 11, .ro, 0, 1⟩
def TILE_BANKA_POISON_FIRST_ROW : Field := ⟨0x11C, 0, 10, .ro, 0, 1⟩
def TILE_BANKA_POISON_FIRST_VALID : Field := ⟨0x11C, 31, 1, .ro, 0, 1⟩
def TILE_BANKB_TAG_ALL : Field := ⟨0x120, 0, 32, .ro, 0, 1⟩
def TILE_BANKB_CFG_ALL : Field := ⟨0x124, 0, 32, .ro, 0, 1⟩
def TILE_BANKB_STATE_ALL : Field := ⟨0x128, 0, 32, .ro, 0, 1⟩
def TILE_BANKB_POISON_FIRST_ALL : Field := ⟨0x12C, 0, 32, .ro, 0, 1⟩
def TILE_BANK_WR_TAG_WSET : Field := ⟨0x130, 0, 16, .rw, 0, 1⟩
def TILE_BANK_WR_TAG_MEPOCH : Field := ⟨0x130, 16, 16, .rw, 0, 1⟩
def TILE_BANK_WR_CMD_BANK : Field := ⟨0x134, 0, 1, .rw, 0, 1⟩
def TILE_BANK_WR_CMD_WFMT : Field := ⟨0x134, 1, 2, .rw, 0, 1⟩
def TILE_BANK_WR_CMD_FOLD : Field := ⟨0x134, 3, 2, .rw, 0, 1⟩
def TILE_BANK_WR_CMD_ROWS : Field := ⟨0x134, 8, 8, .rw, 0, 1⟩
def TILE_BANK_WR_CMD_GO : Field := ⟨0x134, 31, 1, .wo, 0, 1⟩
def TILE_WR_REJECT_REASON : Field := ⟨0x138, 0, 4, .ro, 0, 1⟩
def TILE_WR_REJECT_MID : Field := ⟨0x138, 16, 16, .ro, 0, 1⟩
def TILE_PASS_CNT_LO_COUNT : Field := ⟨0x140, 0, 32, .ro, 0, 1⟩
def TILE_PASS_CNT_HI_COUNT : Field := ⟨0x144, 0, 32, .ro, 0, 1⟩
def TILE_SKIP_CNT_LO_COUNT : Field := ⟨0x148, 0, 32, .ro, 0, 1⟩
def TILE_SKIP_CNT_HI_COUNT : Field := ⟨0x14C, 0, 32, .ro, 0, 1⟩
def TILE_FLIP_CNT_COUNT : Field := ⟨0x150, 0, 32, .ro, 0, 1⟩
def TILE_ROW_WR_CNT_COUNT : Field := ⟨0x154, 0, 32, .ro, 0, 1⟩
def TILE_OVERRANGE_CNT_COUNT : Field := ⟨0x158, 0, 16, .ro, 0, 1⟩
def TILE_BANK_MISS_CNT_COUNT : Field := ⟨0x15C, 0, 16, .ro, 0, 1⟩
def TILE_THERM_HOLD_CNT_COUNT : Field := ⟨0x160, 0, 16, .ro, 0, 1⟩
def TILE_PP_CFG_SWEEP_EN : Field := ⟨0x200, 0, 1, .rw, 1, 1⟩
def TILE_PP_STAT_RUNNING : Field := ⟨0x204, 0, 1, .ro, 0, 1⟩
def TILE_PP_STAT_HOLDING : Field := ⟨0x204, 1, 1, .ro, 0, 1⟩
def TILE_PP_STAT_SWEEP : Field := ⟨0x204, 2, 1, .ro, 0, 1⟩
def TILE_TBL_WR_BASE_BASE : Field := ⟨0x208, 0, 8, .rw, 0, 1⟩
def TILE_BANKA_TBL_BASE : Field := ⟨0x210, 0, 8, .ro, 0, 1⟩
def TILE_BANKA_TBL_SCALES_DONE : Field := ⟨0x210, 8, 1, .ro, 0, 1⟩
def TILE_BANKA_TBL_ZPC_VALID : Field := ⟨0x210, 9, 1, .ro, 0, 1⟩
def TILE_BANKA_TBL_COLSUM_BAD : Field := ⟨0x210, 10, 1, .ro, 0, 1⟩
def TILE_BANKB_TBL_ALL : Field := ⟨0x214, 0, 32, .ro, 0, 1⟩
def TILE_LAST_STATS_COUNT_COUNT : Field := ⟨0x220, 0, 32, .ro, 0, 1⟩
def TILE_LAST_STATS_CLIP_CLIP : Field := ⟨0x224, 0, 32, .ro, 0, 1⟩
def TILE_LAST_STATS_SSE_SSE : Field := ⟨0x228, 0, 32, .ro, 0, 1⟩
def TILE_LAST_STATS_SSV_SSV : Field := ⟨0x22C, 0, 32, .ro, 0, 1⟩
def TILE_RERUN_CNT_COUNT : Field := ⟨0x230, 0, 32, .ro, 0, 1⟩
def TILE_ACC_SAT_CNT_COUNT : Field := ⟨0x234, 0, 16, .ro, 0, 1⟩
def TILE_SKEW_REC_EXPECTED : Field := ⟨0x238, 0, 8, .ro, 0, 1⟩
def TILE_SKEW_REC_FOUND : Field := ⟨0x238, 8, 8, .ro, 0, 1⟩
def TILE_SKEW_REC_STREAM : Field := ⟨0x238, 16, 2, .ro, 0, 1⟩
def TILE_SKEW_REC_FIELD : Field := ⟨0x238, 18, 1, .ro, 0, 1⟩
def TILE_SKEW_REC_VALID : Field := ⟨0x238, 31, 1, .w1c, 0, 1⟩
def TILE_SKEW_CNT_COUNT : Field := ⟨0x23C, 0, 16, .ro, 0, 1⟩
def TILE_COLSUM_REC_BANK : Field := ⟨0x240, 0, 1, .ro, 0, 1⟩
def TILE_COLSUM_REC_SUBARRAY : Field := ⟨0x240, 1, 3, .ro, 0, 1⟩
def TILE_COLSUM_REC_COLUMN : Field := ⟨0x240, 4, 10, .ro, 0, 1⟩
def TILE_COLSUM_REC_VALID : Field := ⟨0x240, 31, 1, .w1c, 0, 1⟩
def TILE_VEC_EXC_CNT_NAN : Field := ⟨0x244, 0, 16, .ro, 0, 1⟩
def TILE_VEC_EXC_CNT_OVF : Field := ⟨0x244, 16, 16, .ro, 0, 1⟩
def TILE_SCALE_BAD_CNT_COUNT : Field := ⟨0x248, 0, 16, .ro, 0, 1⟩
def TILE_SR_STATE_STATE : Field := ⟨0x24C, 0, 32, .ro, 0, 1⟩
def TILE_INTEG_STAT_SUBF_A : Field := ⟨0x300, 0, 8, .ro, 0, 1⟩
def TILE_INTEG_STAT_SUBF_B : Field := ⟨0x300, 8, 8, .ro, 0, 1⟩
def TILE_INTEG_STAT_HOLD_A : Field := ⟨0x300, 16, 1, .ro, 0, 1⟩
def TILE_INTEG_STAT_HOLD_B : Field := ⟨0x300, 17, 1, .ro, 0, 1⟩
def TILE_INTEG_STAT_CAL_BUSY : Field := ⟨0x300, 18, 1, .ro, 0, 1⟩
def TILE_INTEG_STAT_CAL_SUB : Field := ⟨0x300, 19, 4, .ro, 0, 1⟩
def TILE_CSUM_REC_BANK : Field := ⟨0x304, 0, 1, .ro, 0, 1⟩
def TILE_CSUM_REC_SUBARRAY : Field := ⟨0x304, 1, 3, .ro, 0, 1⟩
def TILE_CSUM_REC_ROW_GROUP : Field := ⟨0x304, 4, 2, .ro, 0, 1⟩
def TILE_CSUM_REC_PLANE : Field := ⟨0x304, 6, 4, .ro, 0, 1⟩
def TILE_CSUM_REC_RETRY_OK : Field := ⟨0x304, 10, 1, .ro, 0, 1⟩
def TILE_CSUM_REC_OVR : Field := ⟨0x304, 11, 1, .ro, 0, 1⟩
def TILE_CSUM_REC_REF : Field := ⟨0x304, 12, 1, .ro, 0, 1⟩
def TILE_CSUM_REC_VALID : Field := ⟨0x304, 31, 1, .w1c, 0, 1⟩
def TILE_CSUM_DELTA_DELTA : Field := ⟨0x308, 0, 18, .ro, 0, 1⟩
def TILE_CSUM_TRANS_CNT_COUNT : Field := ⟨0x30C, 0, 32, .ro, 0, 1⟩
def TILE_CSUM_PERSIST_CNT_COUNT : Field := ⟨0x310, 0, 16, .ro, 0, 1⟩
def TILE_REPAIR_CMD_BANK : Field := ⟨0x314, 0, 1, .rw, 0, 1⟩
def TILE_REPAIR_CMD_MODE : Field := ⟨0x314, 1, 1, .rw, 0, 1⟩
def TILE_REPAIR_CMD_GO : Field := ⟨0x314, 31, 1, .wo, 0, 1⟩
def TILE_REPAIR_STAT_STATE : Field := ⟨0x318, 0, 3, .ro, 0, 1⟩
def TILE_REPAIR_STAT_BANK : Field := ⟨0x318, 3, 1, .ro, 0, 1⟩
def TILE_REPAIR_STAT_RECENT : Field := ⟨0x318, 8, 8, .ro, 0, 1⟩
def TILE_REPAIR_CNT_COUNT : Field := ⟨0x31C, 0, 16, .ro, 0, 1⟩
def TILE_REF_STAT_SWEEP_US : Field := ⟨0x320, 0, 12, .ro, 0, 1⟩
def TILE_REF_STAT_SLOW : Field := ⟨0x320, 12, 1, .ro, 0, 1⟩
def TILE_REF_DEFER_MAX_SLOTS : Field := ⟨0x324, 0, 9, .ro, 0, 1⟩
def TILE_REF_LATE_CNT_COUNT : Field := ⟨0x328, 0, 16, .ro, 0, 1⟩
def TILE_CAL_AGE_AGE_US : Field := ⟨0x330, 0, 14, .ro, 0, 1⟩
def TILE_CAL_TEMP_AT_CAL : Field := ⟨0x334, 0, 16, .ro, 0, 1⟩
def TILE_CAL_TEMP_NOW : Field := ⟨0x334, 16, 16, .ro, 0, 1⟩
def TILE_CAL_CNT_COUNT : Field := ⟨0x338, 0, 32, .ro, 0, 1⟩
def TILE_CAL_TRIM_OFFSET_MAX : Field := ⟨0x33C, 0, 7, .ro, 0, 1⟩
def TILE_CAL_TRIM_GAIN_MAX : Field := ⟨0x33C, 8, 7, .ro, 0, 1⟩
def TILE_CAL_FAIL_REC_BANK : Field := ⟨0x340, 0, 1, .ro, 0, 1⟩
def TILE_CAL_FAIL_REC_SUBARRAY : Field := ⟨0x340, 1, 3, .ro, 0, 1⟩
def TILE_CAL_FAIL_REC_CONVERTER : Field := ⟨0x340, 4, 9, .ro, 0, 1⟩
def TILE_CAL_FAIL_REC_KIND : Field := ⟨0x340, 13, 2, .ro, 0, 1⟩
def TILE_CAL_FAIL_REC_VALID : Field := ⟨0x340, 31, 1, .w1c, 0, 1⟩
def TILE_BENCH_MAP_LOGICAL : Field := ⟨0x350, 0, 11, .ro, 0x7FF, 1⟩
def TILE_BENCH_MAP_ASSIGNED : Field := ⟨0x350, 11, 1, .ro, 0, 1⟩
def TILE_BENCH_MAP_REPLACED : Field := ⟨0x350, 12, 11, .ro, 0x7FF, 1⟩
def TILE_SUBST_CMD_FROM : Field := ⟨0x354, 0, 11, .rw, 0, 1⟩
def TILE_SUBST_CMD_GO : Field := ⟨0x354, 31, 1, .wo, 0, 1⟩
def TILE_MIRROR_MAP_PEER : Field := ⟨0x358, 0, 11, .ro, 0, 1⟩
def TILE_MIRROR_MAP_VALID : Field := ⟨0x358, 11, 1, .ro, 0, 1⟩
def TILE_MIRROR_MAP_ROLE : Field := ⟨0x358, 12, 1, .ro, 0, 1⟩
def TILE_MIRROR_MAP_LOST : Field := ⟨0x358, 13, 1, .ro, 0, 1⟩
def TILE_DQ_CFG_STEAL_EN : Field := ⟨0x400, 0, 1, .rw, 1, 1⟩
def TILE_DQ_CFG_GIVE_EN : Field := ⟨0x400, 1, 1, .rw, 1, 1⟩
def TILE_DQ_CFG_RADIUS : Field := ⟨0x400, 2, 3, .rw, 4, 1⟩
def TILE_DQ_CFG_BO_MIN : Field := ⟨0x400, 8, 4, .rw, 0, 1⟩
def TILE_DQ_CFG_BO_MAX : Field := ⟨0x400, 12, 4, .rw, 5, 1⟩
def TILE_DQ_STAT_POSTED : Field := ⟨0x404, 0, 8, .ro, 0, 1⟩
def TILE_DQ_STAT_STOLEN : Field := ⟨0x404, 8, 5, .ro, 0, 1⟩
def TILE_DQ_STAT_SPAWN : Field := ⟨0x404, 13, 7, .ro, 0, 1⟩
def TILE_DQ_STAT_CTX : Field := ⟨0x404, 20, 3, .ro, 0, 1⟩
def TILE_DQ_STAT_VEC_BUSY : Field := ⟨0x404, 23, 1, .ro, 0, 1⟩
def TILE_DQ_STAT_PROBE : Field := ⟨0x404, 24, 1, .ro, 0, 1⟩
def TILE_DQ_STAT_SPILLING : Field := ⟨0x404, 25, 1, .ro, 0, 1⟩
def TILE_TMPL_CFG_BASE : Field := ⟨0x408, 0, 8, .rw, 0, 1⟩
def TILE_TMPL_CFG_COUNT : Field := ⟨0x408, 8, 9, .rw, 0, 1⟩
def TILE_VEC_LIMIT_CLOCKS : Field := ⟨0x40C, 0, 24, .rw, 32768, 1⟩
def TILE_TASK_CNT_LO_COUNT : Field := ⟨0x410, 0, 32, .ro, 0, 1⟩
def TILE_TASK_CNT_HI_COUNT : Field := ⟨0x414, 0, 32, .ro, 0, 1⟩
def TILE_TASK_FAIL_CNT_COUNT : Field := ⟨0x418, 0, 16, .ro, 0, 1⟩
def TILE_TASK_FAIL_REC_STATUS : Field := ⟨0x41C, 0, 16, .ro, 0, 1⟩
def TILE_TASK_FAIL_REC_CHANNEL : Field := ⟨0x41C, 16, 9, .ro, 0, 1⟩
def TILE_TASK_FAIL_REC_KIND : Field := ⟨0x41C, 25, 3, .ro, 0, 1⟩
def TILE_TASK_FAIL_REC_VALID : Field := ⟨0x41C, 31, 1, .w1c, 0, 1⟩
def TILE_TASK_FAIL_SEQ_SEQ : Field := ⟨0x420, 0, 32, .ro, 0, 1⟩
def TILE_STEAL_PROBE_CNT_COUNT : Field := ⟨0x424, 0, 32, .ro, 0, 1⟩
def TILE_STEAL_GRANT_CNT_COUNT : Field := ⟨0x428, 0, 32, .ro, 0, 1⟩
def TILE_STEAL_DENY_CNT_COUNT : Field := ⟨0x42C, 0, 32, .ro, 0, 1⟩
def TILE_STEAL_GIVEN_CNT_COUNT : Field := ⟨0x430, 0, 32, .ro, 0, 1⟩
def TILE_PREEMPT_CNT_COUNT : Field := ⟨0x434, 0, 32, .ro, 0, 1⟩
def TILE_SPILL_CNT_COUNT : Field := ⟨0x438, 0, 32, .ro, 0, 1⟩
def TILE_DQ_HWM_POSTED : Field := ⟨0x43C, 0, 8, .ro, 0, 1⟩
def TILE_DQ_HWM_STOLEN : Field := ⟨0x43C, 8, 5, .ro, 0, 1⟩
def TILE_DQ_HWM_SPAWN : Field := ⟨0x43C, 13, 7, .ro, 0, 1⟩

/-- The fields of a TILE page, part 0. -/
def fieldsTile0 : List Field :=
  [TILE_ARRAY_CFG_SKIP_EN, TILE_ARRAY_STAT_SEL_BANK, TILE_ARRAY_STAT_RUNNING, TILE_ARRAY_STAT_THERM_HOLD,
   TILE_ARRAY_STAT_CAL_WAIT, TILE_BANKA_TAG_WSET, TILE_BANKA_TAG_MEPOCH, TILE_BANKA_CFG_WFMT,
   TILE_BANKA_CFG_FOLD, TILE_BANKA_CFG_ROWS, TILE_BANKA_STATE_STATE, TILE_BANKA_STATE_ROWS_DONE,
   TILE_BANKA_STATE_POISON_ROWS, TILE_BANKA_POISON_FIRST_ROW, TILE_BANKA_POISON_FIRST_VALID, TILE_BANKB_TAG_ALL,
   TILE_BANKB_CFG_ALL, TILE_BANKB_STATE_ALL, TILE_BANKB_POISON_FIRST_ALL, TILE_BANK_WR_TAG_WSET,
   TILE_BANK_WR_TAG_MEPOCH, TILE_BANK_WR_CMD_BANK, TILE_BANK_WR_CMD_WFMT, TILE_BANK_WR_CMD_FOLD]

/-- The fields of a TILE page, part 1. -/
def fieldsTile1 : List Field :=
  [TILE_BANK_WR_CMD_ROWS, TILE_BANK_WR_CMD_GO, TILE_WR_REJECT_REASON, TILE_WR_REJECT_MID,
   TILE_PASS_CNT_LO_COUNT, TILE_PASS_CNT_HI_COUNT, TILE_SKIP_CNT_LO_COUNT, TILE_SKIP_CNT_HI_COUNT,
   TILE_FLIP_CNT_COUNT, TILE_ROW_WR_CNT_COUNT, TILE_OVERRANGE_CNT_COUNT, TILE_BANK_MISS_CNT_COUNT,
   TILE_THERM_HOLD_CNT_COUNT, TILE_PP_CFG_SWEEP_EN, TILE_PP_STAT_RUNNING, TILE_PP_STAT_HOLDING,
   TILE_PP_STAT_SWEEP, TILE_TBL_WR_BASE_BASE, TILE_BANKA_TBL_BASE, TILE_BANKA_TBL_SCALES_DONE,
   TILE_BANKA_TBL_ZPC_VALID, TILE_BANKA_TBL_COLSUM_BAD, TILE_BANKB_TBL_ALL, TILE_LAST_STATS_COUNT_COUNT]

/-- The fields of a TILE page, part 2. -/
def fieldsTile2 : List Field :=
  [TILE_LAST_STATS_CLIP_CLIP, TILE_LAST_STATS_SSE_SSE, TILE_LAST_STATS_SSV_SSV, TILE_RERUN_CNT_COUNT,
   TILE_ACC_SAT_CNT_COUNT, TILE_SKEW_REC_EXPECTED, TILE_SKEW_REC_FOUND, TILE_SKEW_REC_STREAM,
   TILE_SKEW_REC_FIELD, TILE_SKEW_REC_VALID, TILE_SKEW_CNT_COUNT, TILE_COLSUM_REC_BANK,
   TILE_COLSUM_REC_SUBARRAY, TILE_COLSUM_REC_COLUMN, TILE_COLSUM_REC_VALID, TILE_VEC_EXC_CNT_NAN,
   TILE_VEC_EXC_CNT_OVF, TILE_SCALE_BAD_CNT_COUNT, TILE_SR_STATE_STATE, TILE_INTEG_STAT_SUBF_A,
   TILE_INTEG_STAT_SUBF_B, TILE_INTEG_STAT_HOLD_A, TILE_INTEG_STAT_HOLD_B, TILE_INTEG_STAT_CAL_BUSY]

/-- The fields of a TILE page, part 3. -/
def fieldsTile3 : List Field :=
  [TILE_INTEG_STAT_CAL_SUB, TILE_CSUM_REC_BANK, TILE_CSUM_REC_SUBARRAY, TILE_CSUM_REC_ROW_GROUP,
   TILE_CSUM_REC_PLANE, TILE_CSUM_REC_RETRY_OK, TILE_CSUM_REC_OVR, TILE_CSUM_REC_REF,
   TILE_CSUM_REC_VALID, TILE_CSUM_DELTA_DELTA, TILE_CSUM_TRANS_CNT_COUNT, TILE_CSUM_PERSIST_CNT_COUNT,
   TILE_REPAIR_CMD_BANK, TILE_REPAIR_CMD_MODE, TILE_REPAIR_CMD_GO, TILE_REPAIR_STAT_STATE,
   TILE_REPAIR_STAT_BANK, TILE_REPAIR_STAT_RECENT, TILE_REPAIR_CNT_COUNT, TILE_REF_STAT_SWEEP_US,
   TILE_REF_STAT_SLOW, TILE_REF_DEFER_MAX_SLOTS, TILE_REF_LATE_CNT_COUNT, TILE_CAL_AGE_AGE_US]

/-- The fields of a TILE page, part 4. -/
def fieldsTile4 : List Field :=
  [TILE_CAL_TEMP_AT_CAL, TILE_CAL_TEMP_NOW, TILE_CAL_CNT_COUNT, TILE_CAL_TRIM_OFFSET_MAX,
   TILE_CAL_TRIM_GAIN_MAX, TILE_CAL_FAIL_REC_BANK, TILE_CAL_FAIL_REC_SUBARRAY, TILE_CAL_FAIL_REC_CONVERTER,
   TILE_CAL_FAIL_REC_KIND, TILE_CAL_FAIL_REC_VALID, TILE_BENCH_MAP_LOGICAL, TILE_BENCH_MAP_ASSIGNED,
   TILE_BENCH_MAP_REPLACED, TILE_SUBST_CMD_FROM, TILE_SUBST_CMD_GO, TILE_MIRROR_MAP_PEER,
   TILE_MIRROR_MAP_VALID, TILE_MIRROR_MAP_ROLE, TILE_MIRROR_MAP_LOST, TILE_DQ_CFG_STEAL_EN,
   TILE_DQ_CFG_GIVE_EN, TILE_DQ_CFG_RADIUS, TILE_DQ_CFG_BO_MIN, TILE_DQ_CFG_BO_MAX]

/-- The fields of a TILE page, part 5. -/
def fieldsTile5 : List Field :=
  [TILE_DQ_STAT_POSTED, TILE_DQ_STAT_STOLEN, TILE_DQ_STAT_SPAWN, TILE_DQ_STAT_CTX,
   TILE_DQ_STAT_VEC_BUSY, TILE_DQ_STAT_PROBE, TILE_DQ_STAT_SPILLING, TILE_TMPL_CFG_BASE,
   TILE_TMPL_CFG_COUNT, TILE_VEC_LIMIT_CLOCKS, TILE_TASK_CNT_LO_COUNT, TILE_TASK_CNT_HI_COUNT,
   TILE_TASK_FAIL_CNT_COUNT, TILE_TASK_FAIL_REC_STATUS, TILE_TASK_FAIL_REC_CHANNEL, TILE_TASK_FAIL_REC_KIND,
   TILE_TASK_FAIL_REC_VALID, TILE_TASK_FAIL_SEQ_SEQ, TILE_STEAL_PROBE_CNT_COUNT, TILE_STEAL_GRANT_CNT_COUNT,
   TILE_STEAL_DENY_CNT_COUNT, TILE_STEAL_GIVEN_CNT_COUNT, TILE_PREEMPT_CNT_COUNT, TILE_SPILL_CNT_COUNT]

/-- The fields of a TILE page, part 6. -/
def fieldsTile6 : List Field :=
  [TILE_DQ_HWM_POSTED, TILE_DQ_HWM_STOLEN, TILE_DQ_HWM_SPAWN]

/-- The fields of a TILE page. -/
def fieldsTile : List Field := fieldsTile0 ++ fieldsTile1 ++ fieldsTile2 ++ fieldsTile3 ++ fieldsTile4 ++ fieldsTile5 ++ fieldsTile6

/-! The WSC page (R193). -/
def WSC_WSC_CFG_CORR_WARN : Field := ⟨0x100, 0, 10, .rw, 96, 1⟩
def WSC_WSC_CFG_LOOP_WARN : Field := ⟨0x100, 16, 5, .rw, 20, 1⟩
def WSC_WSC_SCHED_PROG_PLANES : Field := ⟨0x104, 0, 8, .rw, 96, 1⟩
def WSC_WSC_SCHED_ERASE_MAX : Field := ⟨0x104, 8, 4, .rw, 4, 1⟩
def WSC_WSC_STAT_SCAN_DONE : Field := ⟨0x108, 0, 1, .ro, 0, 1⟩
def WSC_WSC_STAT_PROG_ACTIVE : Field := ⟨0x108, 1, 1, .ro, 0, 1⟩
def WSC_WSC_STAT_ERASE_ACTIVE : Field := ⟨0x108, 2, 1, .ro, 0, 1⟩
def WSC_WEAK_HEAD_LO_CWA : Field := ⟨0x110, 0, 25, .ro, 0, 1⟩
def WSC_WEAK_HEAD_HI_MAX_CORR : Field := ⟨0x114, 0, 10, .ro, 0, 1⟩
def WSC_WEAK_HEAD_HI_FILL : Field := ⟨0x114, 16, 6, .ro, 0, 1⟩
def WSC_WEAK_HEAD_HI_VALID : Field := ⟨0x114, 31, 1, .ro, 0, 1⟩
def WSC_WEAK_STAT_DROPPED : Field := ⟨0x118, 0, 16, .ro, 0, 1⟩
def WSC_HIST_0_COUNT : Field := ⟨0x120, 0, 32, .ro, 0, 1⟩
def WSC_HIST_1_COUNT : Field := ⟨0x124, 0, 32, .ro, 0, 1⟩
def WSC_HIST_2_COUNT : Field := ⟨0x128, 0, 32, .ro, 0, 1⟩
def WSC_HIST_3_COUNT : Field := ⟨0x12C, 0, 32, .ro, 0, 1⟩
def WSC_ERR_REC_LO_CWA : Field := ⟨0x130, 0, 25, .ro, 0, 1⟩
def WSC_ERR_REC_HI_STATUS : Field := ⟨0x134, 0, 16, .ro, 0, 1⟩
def WSC_ERR_REC_HI_VALID : Field := ⟨0x134, 31, 1, .w1c, 0, 1⟩
def WSC_UNCORR_CNT_COUNT : Field := ⟨0x138, 0, 16, .ro, 0, 1⟩
def WSC_FAIL_CNT_PROG : Field := ⟨0x13C, 0, 8, .ro, 0, 1⟩
def WSC_FAIL_CNT_ERASE : Field := ⟨0x13C, 8, 8, .ro, 0, 1⟩
def WSC_FAIL_CNT_DOUBLE : Field := ⟨0x13C, 16, 8, .ro, 0, 1⟩
def WSC_FAIL_CNT_ORDER : Field := ⟨0x13C, 24, 8, .ro, 0, 1⟩
def WSC_LOOP_MAX_PROG : Field := ⟨0x140, 0, 5, .ro, 0, 1⟩
def WSC_LOOP_MAX_ERASE : Field := ⟨0x140, 8, 5, .ro, 0, 1⟩
def WSC_LOOP_MAX_CLR : Field := ⟨0x140, 31, 1, .wo, 0, 1⟩
def WSC_ERASE_STAT_HELD : Field := ⟨0x144, 0, 16, .ro, 0, 1⟩
def WSC_ERASE_STAT_BREAKS : Field := ⟨0x144, 16, 8, .ro, 0, 1⟩
def WSC_ERASE_STAT_PARTIAL : Field := ⟨0x144, 24, 8, .ro, 0, 1⟩
def WSC_POOL_STAT_GOOD : Field := ⟨0x148, 0, 16, .ro, 47616, 1⟩
def WSC_POOL_STAT_BAD : Field := ⟨0x148, 16, 16, .ro, 0, 1⟩
def WSC_CMD_CMD : Field := ⟨0x180, 0, 32, .rw, 0, 8⟩
def WSC_CMDQ_STAT_FREE : Field := ⟨0x1A0, 0, 9, .ro, 256, 1⟩
def WSC_CMDQ_STAT_FILL : Field := ⟨0x1A0, 16, 9, .ro, 0, 1⟩
def WSC_STS_STS : Field := ⟨0x1B0, 0, 32, .ro, 0, 4⟩
def WSC_ID_CMD_FIELD : Field := ⟨0x200, 0, 6, .rw, 0, 1⟩
def WSC_ID_CMD_OP : Field := ⟨0x200, 6, 2, .rw, 0, 1⟩
def WSC_ID_CMD_GO : Field := ⟨0x200, 31, 1, .wo, 0, 1⟩
def WSC_ID_STAT_STATE : Field := ⟨0x204, 0, 3, .ro, 0, 1⟩
def WSC_ID_STAT_REASON : Field := ⟨0x204, 8, 4, .ro, 0, 1⟩
def WSC_ID_STATE_LOCK : Field := ⟨0x208, 0, 1, .ro, 0, 1⟩
def WSC_ID_STATE_DEBUG_LOCK : Field := ⟨0x208, 1, 1, .ro, 0, 1⟩
def WSC_ID_STATE_KEY_VALID : Field := ⟨0x208, 2, 8, .ro, 0, 1⟩
def WSC_ID_STATE_REVOKED : Field := ⟨0x208, 10, 8, .ro, 0, 1⟩
def WSC_ID_STATE_FW_KEY_VALID : Field := ⟨0x208, 18, 2, .ro, 0, 1⟩
def WSC_ID_STATE_FW_REVOKED : Field := ⟨0x208, 20, 2, .ro, 0, 1⟩
def WSC_ID_STATE_POLICY : Field := ⟨0x208, 22, 3, .ro, 0, 1⟩
def WSC_ID_DATA_DATA : Field := ⟨0x210, 0, 32, .rw, 0, 12⟩
def WSC_SERIAL_SERIAL : Field := ⟨0x240, 0, 32, .ro, 0, 4⟩
def WSC_RING_SEED_LO_SEED : Field := ⟨0x250, 0, 32, .ro, 0, 1⟩
def WSC_RING_SEED_HI_SEED : Field := ⟨0x254, 0, 32, .ro, 0, 1⟩
def WSC_PART_CODE : Field := ⟨0x258, 0, 16, .ro, 0, 1⟩
def WSC_PART_CLASS : Field := ⟨0x258, 16, 8, .ro, 0, 1⟩
def WSC_FETCH_MISS_CNT_COUNT : Field := ⟨0x260, 0, 32, .ro, 0, 1⟩
def WSC_FETCH_ERR_CNT_COUNT : Field := ⟨0x264, 0, 16, .ro, 0, 1⟩

/-- The fields of a WSC page, part 0. -/
def fieldsWsc0 : List Field :=
  [WSC_WSC_CFG_CORR_WARN, WSC_WSC_CFG_LOOP_WARN, WSC_WSC_SCHED_PROG_PLANES, WSC_WSC_SCHED_ERASE_MAX,
   WSC_WSC_STAT_SCAN_DONE, WSC_WSC_STAT_PROG_ACTIVE, WSC_WSC_STAT_ERASE_ACTIVE, WSC_WEAK_HEAD_LO_CWA,
   WSC_WEAK_HEAD_HI_MAX_CORR, WSC_WEAK_HEAD_HI_FILL, WSC_WEAK_HEAD_HI_VALID, WSC_WEAK_STAT_DROPPED,
   WSC_HIST_0_COUNT, WSC_HIST_1_COUNT, WSC_HIST_2_COUNT, WSC_HIST_3_COUNT,
   WSC_ERR_REC_LO_CWA, WSC_ERR_REC_HI_STATUS, WSC_ERR_REC_HI_VALID, WSC_UNCORR_CNT_COUNT,
   WSC_FAIL_CNT_PROG, WSC_FAIL_CNT_ERASE, WSC_FAIL_CNT_DOUBLE, WSC_FAIL_CNT_ORDER]

/-- The fields of a WSC page, part 1. -/
def fieldsWsc1 : List Field :=
  [WSC_LOOP_MAX_PROG, WSC_LOOP_MAX_ERASE, WSC_LOOP_MAX_CLR, WSC_ERASE_STAT_HELD,
   WSC_ERASE_STAT_BREAKS, WSC_ERASE_STAT_PARTIAL, WSC_POOL_STAT_GOOD, WSC_POOL_STAT_BAD,
   WSC_CMD_CMD, WSC_CMDQ_STAT_FREE, WSC_CMDQ_STAT_FILL, WSC_STS_STS,
   WSC_ID_CMD_FIELD, WSC_ID_CMD_OP, WSC_ID_CMD_GO, WSC_ID_STAT_STATE,
   WSC_ID_STAT_REASON, WSC_ID_STATE_LOCK, WSC_ID_STATE_DEBUG_LOCK, WSC_ID_STATE_KEY_VALID,
   WSC_ID_STATE_REVOKED, WSC_ID_STATE_FW_KEY_VALID, WSC_ID_STATE_FW_REVOKED, WSC_ID_STATE_POLICY]

/-- The fields of a WSC page, part 2. -/
def fieldsWsc2 : List Field :=
  [WSC_ID_DATA_DATA, WSC_SERIAL_SERIAL, WSC_RING_SEED_LO_SEED, WSC_RING_SEED_HI_SEED,
   WSC_PART_CODE, WSC_PART_CLASS, WSC_FETCH_MISS_CNT_COUNT, WSC_FETCH_ERR_CNT_COUNT]

/-- The fields of a WSC page. -/
def fieldsWsc : List Field := fieldsWsc0 ++ fieldsWsc1 ++ fieldsWsc2

/-! The DIE page (R194). -/
def DIE_DIE_STAT_FENCED : Field := ⟨0x100, 0, 8, .ro, 0, 1⟩
def DIE_DIE_STAT_PROGRAMMING : Field := ⟨0x100, 8, 8, .ro, 0, 1⟩
def DIE_DIE_STAT_ERASING : Field := ⟨0x100, 16, 4, .ro, 0, 1⟩
def DIE_PLANE_FENCE_REQ_PLANE : Field := ⟨0x104, 0, 8, .rw, 0, 1⟩
def DIE_PLANE_FENCE_REQ_GO : Field := ⟨0x104, 31, 1, .wo, 0, 1⟩
def DIE_PLANE_FENCE_FENCED : Field := ⟨0x110, 0, 32, .ro, 0, 6⟩

/-- The fields of a DIE page. -/
def fieldsDie : List Field :=
  [DIE_DIE_STAT_FENCED, DIE_DIE_STAT_PROGRAMMING, DIE_DIE_STAT_ERASING, DIE_PLANE_FENCE_REQ_PLANE,
   DIE_PLANE_FENCE_REQ_GO, DIE_PLANE_FENCE_FENCED]

/-! The CC page (R219, R253, R380). -/
def CC_RALLY_SEL_CTX : Field := ⟨0x800, 0, 4, .rw, 0, 1⟩
def CC_RALLY_STAT_STATE : Field := ⟨0x804, 0, 2, .ro, 0, 1⟩
def CC_RALLY_STAT_FORMING : Field := ⟨0x804, 2, 1, .ro, 0, 1⟩
def CC_RALLY_STAT_HOLD : Field := ⟨0x804, 3, 1, .ro, 0, 1⟩
def CC_RALLY_STAT_HOME : Field := ⟨0x804, 4, 1, .ro, 0, 1⟩
def CC_RALLY_STAT_CHUNK : Field := ⟨0x804, 16, 16, .ro, 0, 1⟩
def CC_RALLY_CFG_CHUNKS : Field := ⟨0x808, 0, 16, .ro, 0, 1⟩
def CC_RALLY_CFG_B_MAX : Field := ⟨0x808, 16, 9, .ro, 0, 1⟩
def CC_RALLY_BATCH_RUNNING : Field := ⟨0x80C, 0, 9, .ro, 0, 1⟩
def CC_RALLY_BATCH_FORMING : Field := ⟨0x80C, 9, 9, .ro, 0, 1⟩
def CC_RALLY_PERIOD_NS : Field := ⟨0x810, 0, 24, .ro, 0, 1⟩
def CC_RALLY_STALL_CNT_COUNT : Field := ⟨0x814, 0, 32, .ro, 0, 1⟩
def CC_RALLY_HOLD_CNT_COUNT : Field := ⟨0x818, 0, 16, .ro, 0, 1⟩
def CC_RALLY_HOLD_CNT_EXPIRED : Field := ⟨0x818, 16, 16, .ro, 0, 1⟩
def CC_RALLY_SKEW_CNT_COUNT : Field := ⟨0x81C, 0, 16, .ro, 0, 1⟩
def CC_RALLY_REMAP_SECOND : Field := ⟨0x820, 0, 16, .ro, 0, 1⟩
def CC_RALLY_REMAP_DONE : Field := ⟨0x820, 16, 16, .ro, 0, 1⟩
def CC_RALLY_SRC_FIRST_T1 : Field := ⟨0x824, 0, 16, .ro, 0xFFFF, 1⟩
def CC_RALLY_SRC_FIRST_T2 : Field := ⟨0x824, 16, 16, .ro, 0xFFFF, 1⟩
def CC_RALLY_SHARE_NORTH : Field := ⟨0x828, 0, 9, .ro, 0, 1⟩
def CC_RALLY_SHARE_SOUTH : Field := ⟨0x828, 9, 9, .ro, 0, 1⟩
def CC_RALLY_CNT_COUNT : Field := ⟨0x82C, 0, 32, .ro, 0, 1⟩
def CC_IMG_SEL_HANDLE : Field := ⟨0x840, 0, 10, .rw, 0, 1⟩
def CC_IMG_SEL_WHICH : Field := ⟨0x840, 10, 1, .rw, 0, 1⟩
def CC_IMG_STAT_STATE : Field := ⟨0x844, 0, 4, .ro, 0, 1⟩
def CC_IMG_STAT_STORE : Field := ⟨0x844, 4, 2, .ro, 0, 1⟩
def CC_IMG_STAT_UNSIGNED : Field := ⟨0x844, 6, 1, .ro, 0, 1⟩
def CC_IMG_STAT_DAMAGED : Field := ⟨0x844, 7, 1, .ro, 0, 1⟩
def CC_IMG_STAT_T1_COPY : Field := ⟨0x844, 8, 1, .ro, 0, 1⟩
def CC_IMG_STAT_REPL : Field := ⟨0x844, 9, 2, .ro, 0, 1⟩
def CC_IMG_STAT_HUDDLE : Field := ⟨0x844, 11, 1, .ro, 0, 1⟩
def CC_IMG_STAT_KEY_SLOT : Field := ⟨0x844, 12, 3, .ro, 0, 1⟩
def CC_IMG_STAT_OWNER : Field := ⟨0x844, 16, 16, .ro, 0, 1⟩
def CC_IMG_EPOCH_EPOCH : Field := ⟨0x848, 0, 32, .ro, 0, 1⟩
def CC_IMG_REFS_REQUESTS : Field := ⟨0x84C, 0, 20, .ro, 0, 1⟩
def CC_IMG_REFS_RALLIES : Field := ⟨0x84C, 20, 5, .ro, 0, 1⟩
def CC_IMG_REFS_PIN : Field := ⟨0x84C, 25, 1, .ro, 0, 1⟩
def CC_IMG_LANDED_CHUNKS : Field := ⟨0x850, 0, 32, .ro, 0, 1⟩
def CC_IMG_STORED_CHUNKS : Field := ⟨0x854, 0, 32, .ro, 0, 1⟩
def CC_IMG_HOLD_HOLD_US : Field := ⟨0x858, 0, 20, .ro, 0, 1⟩
def CC_IMG_HELD_COUNT : Field := ⟨0x85C, 0, 16, .ro, 0, 1⟩
def CC_IMG_ERR_STATUS : Field := ⟨0x860, 0, 16, .ro, 0, 1⟩
def CC_IMG_REPAIR_CNT_REFETCH : Field := ⟨0x864, 0, 16, .ro, 0, 1⟩
def CC_IMG_REPAIR_CNT_RELOC : Field := ⟨0x864, 16, 16, .ro, 0, 1⟩
def CC_CC_ROLE_ROLE : Field := ⟨0x880, 0, 2, .ro, 0, 1⟩
def CC_CC_ROLE_SHADOW_OK : Field := ⟨0x880, 2, 1, .ro, 0, 1⟩
def CC_CC_ROLE_STALE : Field := ⟨0x880, 3, 1, .ro, 0, 1⟩
def CC_CC_TOKEN_TOKEN : Field := ⟨0x884, 0, 32, .ro, 0, 1⟩
def CC_CC_CTRL_YIELD : Field := ⟨0x888, 0, 1, .wo, 0, 1⟩
def CC_FW_STAT_AREA : Field := ⟨0x88C, 0, 1, .ro, 0, 1⟩
def CC_FW_STAT_NEXT : Field := ⟨0x88C, 1, 1, .ro, 0, 1⟩
def CC_FW_STAT_UPD_STATE : Field := ⟨0x88C, 2, 3, .ro, 0, 1⟩
def CC_FW_VERSION_VERSION : Field := ⟨0x890, 0, 32, .ro, 0, 1⟩
def CC_CC_HB_MISS_COUNT : Field := ⟨0x894, 0, 32, .ro, 0, 1⟩
def CC_CC_STALE_CNT_COUNT : Field := ⟨0x898, 0, 16, .ro, 0, 1⟩

/-- The fields of a CC page, part 0. -/
def fieldsCc0 : List Field :=
  [CC_RALLY_SEL_CTX, CC_RALLY_STAT_STATE, CC_RALLY_STAT_FORMING, CC_RALLY_STAT_HOLD,
   CC_RALLY_STAT_HOME, CC_RALLY_STAT_CHUNK, CC_RALLY_CFG_CHUNKS, CC_RALLY_CFG_B_MAX,
   CC_RALLY_BATCH_RUNNING, CC_RALLY_BATCH_FORMING, CC_RALLY_PERIOD_NS, CC_RALLY_STALL_CNT_COUNT,
   CC_RALLY_HOLD_CNT_COUNT, CC_RALLY_HOLD_CNT_EXPIRED, CC_RALLY_SKEW_CNT_COUNT, CC_RALLY_REMAP_SECOND,
   CC_RALLY_REMAP_DONE, CC_RALLY_SRC_FIRST_T1, CC_RALLY_SRC_FIRST_T2, CC_RALLY_SHARE_NORTH,
   CC_RALLY_SHARE_SOUTH, CC_RALLY_CNT_COUNT, CC_IMG_SEL_HANDLE, CC_IMG_SEL_WHICH]

/-- The fields of a CC page, part 1. -/
def fieldsCc1 : List Field :=
  [CC_IMG_STAT_STATE, CC_IMG_STAT_STORE, CC_IMG_STAT_UNSIGNED, CC_IMG_STAT_DAMAGED,
   CC_IMG_STAT_T1_COPY, CC_IMG_STAT_REPL, CC_IMG_STAT_HUDDLE, CC_IMG_STAT_KEY_SLOT,
   CC_IMG_STAT_OWNER, CC_IMG_EPOCH_EPOCH, CC_IMG_REFS_REQUESTS, CC_IMG_REFS_RALLIES,
   CC_IMG_REFS_PIN, CC_IMG_LANDED_CHUNKS, CC_IMG_STORED_CHUNKS, CC_IMG_HOLD_HOLD_US,
   CC_IMG_HELD_COUNT, CC_IMG_ERR_STATUS, CC_IMG_REPAIR_CNT_REFETCH, CC_IMG_REPAIR_CNT_RELOC,
   CC_CC_ROLE_ROLE, CC_CC_ROLE_SHADOW_OK, CC_CC_ROLE_STALE, CC_CC_TOKEN_TOKEN]

/-- The fields of a CC page, part 2. -/
def fieldsCc2 : List Field :=
  [CC_CC_CTRL_YIELD, CC_FW_STAT_AREA, CC_FW_STAT_NEXT, CC_FW_STAT_UPD_STATE,
   CC_FW_VERSION_VERSION, CC_CC_HB_MISS_COUNT, CC_CC_STALE_CNT_COUNT]

/-- The fields of a CC page. -/
def fieldsCc : List Field := fieldsCc0 ++ fieldsCc1 ++ fieldsCc2

/-! The MIG page (R279, R298). -/
def MIG_MIG_STAT_MOVES : Field := ⟨0x100, 0, 7, .ro, 0, 1⟩
def MIG_MIG_STAT_KEEPS_ALL : Field := ⟨0x100, 7, 1, .ro, 0, 1⟩
def MIG_T0_FREE_FRAMES : Field := ⟨0x104, 0, 12, .ro, 0, 1⟩
def MIG_T1_SLOTS_SLOTS : Field := ⟨0x108, 0, 21, .ro, 0, 1⟩
def MIG_T1_FREE_SLOTS : Field := ⟨0x10C, 0, 21, .ro, 0, 1⟩
def MIG_MOVE_CNT_COUNT : Field := ⟨0x110, 0, 32, .ro, 0, 1⟩
def MIG_CONFLICT_CNT_LOST : Field := ⟨0x114, 0, 16, .ro, 0, 1⟩
def MIG_CONFLICT_CNT_ABANDONED : Field := ⟨0x114, 16, 16, .ro, 0, 1⟩
def MIG_STALL_MAX_NS : Field := ⟨0x118, 0, 16, .ro, 0, 1⟩
def MIG_CORR_CNT_T0 : Field := ⟨0x120, 0, 16, .ro, 0, 1⟩
def MIG_CORR_CNT_T1 : Field := ⟨0x120, 16, 16, .ro, 0, 1⟩
def MIG_UNCORR_CNT_T0 : Field := ⟨0x124, 0, 16, .ro, 0, 1⟩
def MIG_UNCORR_CNT_T1 : Field := ⟨0x124, 16, 16, .ro, 0, 1⟩
def MIG_CORR_REC_LO_ADDR : Field := ⟨0x128, 0, 32, .ro, 0, 1⟩
def MIG_CORR_REC_HI_ADDR : Field := ⟨0x12C, 0, 16, .ro, 0, 1⟩
def MIG_CORR_REC_HI_TIER : Field := ⟨0x12C, 16, 2, .ro, 0, 1⟩
def MIG_CORR_REC_HI_CLASS : Field := ⟨0x12C, 18, 2, .ro, 0, 1⟩
def MIG_CORR_REC_HI_UNCORR : Field := ⟨0x12C, 20, 1, .ro, 0, 1⟩
def MIG_CORR_REC_HI_VALID : Field := ⟨0x12C, 31, 1, .w1c, 0, 1⟩
def MIG_POISON_CNT_COUNT : Field := ⟨0x130, 0, 32, .ro, 0, 1⟩
def MIG_DENIED_CNT_COUNT : Field := ⟨0x134, 0, 16, .ro, 0, 1⟩
def MIG_DENIED_CNT_MID : Field := ⟨0x134, 16, 16, .ro, 0, 1⟩
def MIG_DENIED_REC_LO_ADDR : Field := ⟨0x138, 0, 32, .ro, 0, 1⟩
def MIG_DENIED_REC_HI_ADDR : Field := ⟨0x13C, 0, 16, .ro, 0, 1⟩
def MIG_DENIED_REC_HI_VALID : Field := ⟨0x13C, 31, 1, .w1c, 0, 1⟩
def MIG_T1_RSV_MIB : Field := ⟨0x140, 0, 16, .ro, 256, 1⟩
def MIG_CMD_CMD : Field := ⟨0x180, 0, 32, .rw, 0, 8⟩
def MIG_CMDQ_STAT_FREE : Field := ⟨0x1A0, 0, 9, .ro, 256, 1⟩
def MIG_CMDQ_STAT_FILL : Field := ⟨0x1A0, 16, 9, .ro, 0, 1⟩
def MIG_STS_STS : Field := ⟨0x1B0, 0, 32, .ro, 0, 8⟩
def MIG_Z_STAT_EXP_BUSY : Field := ⟨0x200, 0, 4, .ro, 0, 1⟩
def MIG_Z_STAT_CMP_BUSY : Field := ⟨0x200, 4, 3, .ro, 0, 1⟩
def MIG_Z_CMP_CNT_COUNT : Field := ⟨0x204, 0, 32, .ro, 0, 1⟩
def MIG_Z_EXP_CNT_COUNT : Field := ⟨0x208, 0, 32, .ro, 0, 1⟩
def MIG_Z_RAW_CNT_COUNT : Field := ⟨0x20C, 0, 32, .ro, 0, 1⟩
def MIG_Z_IN_KIB_KIB : Field := ⟨0x210, 0, 32, .ro, 0, 1⟩
def MIG_Z_OUT_KIB_KIB : Field := ⟨0x214, 0, 32, .ro, 0, 1⟩
def MIG_Z_ERR_CNT_STALE : Field := ⟨0x218, 0, 16, .ro, 0, 1⟩
def MIG_Z_ERR_CNT_SIZE : Field := ⟨0x218, 16, 16, .ro, 0, 1⟩
def MIG_Z_INV_CNT_BLOCK : Field := ⟨0x21C, 0, 16, .ro, 0, 1⟩
def MIG_Z_INV_CNT_TABLE : Field := ⟨0x21C, 16, 16, .ro, 0, 1⟩
def MIG_Z_ERR_REC_LO_ADDR : Field := ⟨0x220, 0, 32, .ro, 0, 1⟩
def MIG_Z_ERR_REC_HI_ADDR : Field := ⟨0x224, 0, 16, .ro, 0, 1⟩
def MIG_Z_ERR_REC_HI_REASON : Field := ⟨0x224, 16, 3, .ro, 0, 1⟩
def MIG_Z_ERR_REC_HI_CHANNEL : Field := ⟨0x224, 19, 9, .ro, 0, 1⟩
def MIG_Z_ERR_REC_HI_VALID : Field := ⟨0x224, 31, 1, .w1c, 0, 1⟩
def MIG_Z_TBL_SEL_CHANNEL : Field := ⟨0x228, 0, 9, .rw, 0, 1⟩
def MIG_Z_TBL_SEL_SLOT : Field := ⟨0x228, 9, 3, .rw, 0, 1⟩
def MIG_Z_TBL_STAT_GEN : Field := ⟨0x22C, 0, 4, .ro, 0, 1⟩
def MIG_Z_TBL_STAT_STATE : Field := ⟨0x22C, 4, 2, .ro, 0, 1⟩
def MIG_Z_TBL_STAT_WAITING : Field := ⟨0x22C, 6, 13, .ro, 0, 1⟩
def MIG_ZCMD_CMD : Field := ⟨0x280, 0, 32, .rw, 0, 8⟩
def MIG_ZCMDQ_STAT_FREE : Field := ⟨0x2A0, 0, 9, .ro, 256, 1⟩
def MIG_ZCMDQ_STAT_FILL : Field := ⟨0x2A0, 16, 9, .ro, 0, 1⟩
def MIG_ZSTS_STS : Field := ⟨0x2B0, 0, 32, .ro, 0, 4⟩

/-- The fields of a MIG page, part 0. -/
def fieldsMig0 : List Field :=
  [MIG_MIG_STAT_MOVES, MIG_MIG_STAT_KEEPS_ALL, MIG_T0_FREE_FRAMES, MIG_T1_SLOTS_SLOTS,
   MIG_T1_FREE_SLOTS, MIG_MOVE_CNT_COUNT, MIG_CONFLICT_CNT_LOST, MIG_CONFLICT_CNT_ABANDONED,
   MIG_STALL_MAX_NS, MIG_CORR_CNT_T0, MIG_CORR_CNT_T1, MIG_UNCORR_CNT_T0,
   MIG_UNCORR_CNT_T1, MIG_CORR_REC_LO_ADDR, MIG_CORR_REC_HI_ADDR, MIG_CORR_REC_HI_TIER,
   MIG_CORR_REC_HI_CLASS, MIG_CORR_REC_HI_UNCORR, MIG_CORR_REC_HI_VALID, MIG_POISON_CNT_COUNT,
   MIG_DENIED_CNT_COUNT, MIG_DENIED_CNT_MID, MIG_DENIED_REC_LO_ADDR, MIG_DENIED_REC_HI_ADDR]

/-- The fields of a MIG page, part 1. -/
def fieldsMig1 : List Field :=
  [MIG_DENIED_REC_HI_VALID, MIG_T1_RSV_MIB, MIG_CMD_CMD, MIG_CMDQ_STAT_FREE,
   MIG_CMDQ_STAT_FILL, MIG_STS_STS, MIG_Z_STAT_EXP_BUSY, MIG_Z_STAT_CMP_BUSY,
   MIG_Z_CMP_CNT_COUNT, MIG_Z_EXP_CNT_COUNT, MIG_Z_RAW_CNT_COUNT, MIG_Z_IN_KIB_KIB,
   MIG_Z_OUT_KIB_KIB, MIG_Z_ERR_CNT_STALE, MIG_Z_ERR_CNT_SIZE, MIG_Z_INV_CNT_BLOCK,
   MIG_Z_INV_CNT_TABLE, MIG_Z_ERR_REC_LO_ADDR, MIG_Z_ERR_REC_HI_ADDR, MIG_Z_ERR_REC_HI_REASON,
   MIG_Z_ERR_REC_HI_CHANNEL, MIG_Z_ERR_REC_HI_VALID, MIG_Z_TBL_SEL_CHANNEL, MIG_Z_TBL_SEL_SLOT]

/-- The fields of a MIG page, part 2. -/
def fieldsMig2 : List Field :=
  [MIG_Z_TBL_STAT_GEN, MIG_Z_TBL_STAT_STATE, MIG_Z_TBL_STAT_WAITING, MIG_ZCMD_CMD,
   MIG_ZCMDQ_STAT_FREE, MIG_ZCMDQ_STAT_FILL, MIG_ZSTS_STS]

/-- The fields of a MIG page. -/
def fieldsMig : List Field := fieldsMig0 ++ fieldsMig1 ++ fieldsMig2

/-! The BM page (R281). -/
def BM_BM_STAT_TRAINED : Field := ⟨0x100, 0, 1, .ro, 0, 1⟩
def BM_BM_STAT_RSV_COPY : Field := ⟨0x100, 1, 1, .ro, 0, 1⟩
def BM_BM_STAT_STATE : Field := ⟨0x100, 2, 2, .ro, 0, 1⟩
def BM_BM_SIZE_MIB : Field := ⟨0x104, 0, 16, .ro, 0, 1⟩
def BM_BM_RATE_MTS : Field := ⟨0x108, 0, 14, .ro, 0, 1⟩
def BM_BM_PAR_CNT_COUNT : Field := ⟨0x10C, 0, 16, .ro, 0, 1⟩
def BM_BM_UNCORR_SLOTS : Field := ⟨0x110, 0, 16, .ro, 0, 1⟩
def BM_BM_UNCORR_LAST_SEC : Field := ⟨0x110, 16, 16, .ro, 0, 1⟩
def BM_BM_TRAIN_CNT_COUNT : Field := ⟨0x114, 0, 16, .ro, 0, 1⟩
def BM_BM_ERR_REC_SLOT : Field := ⟨0x118, 0, 21, .ro, 0, 1⟩
def BM_BM_ERR_REC_VALID : Field := ⟨0x118, 31, 1, .w1c, 0, 1⟩

/-- The fields of a BM page. -/
def fieldsBm : List Field :=
  [BM_BM_STAT_TRAINED, BM_BM_STAT_RSV_COPY, BM_BM_STAT_STATE, BM_BM_SIZE_MIB,
   BM_BM_RATE_MTS, BM_BM_PAR_CNT_COUNT, BM_BM_UNCORR_SLOTS, BM_BM_UNCORR_LAST_SEC,
   BM_BM_TRAIN_CNT_COUNT, BM_BM_ERR_REC_SLOT, BM_BM_ERR_REC_VALID]

/-! The CHAN page (R330). -/
def CHAN_DB_PROD : Field := ⟨0x100, 0, 32, .wo, 0, 1⟩
def CHAN_CHAN_CFG_SQ_LOC : Field := ⟨0x104, 0, 1, .rw, 0, 1⟩
def CHAN_CHAN_CFG_SQ_LOG2 : Field := ⟨0x104, 4, 5, .rw, 4, 1⟩
def CHAN_CHAN_CFG_CQ_LOG2 : Field := ⟨0x104, 9, 5, .rw, 4, 1⟩
def CHAN_CHAN_CFG_VEC : Field := ⟨0x104, 16, 11, .rw, 0, 1⟩
def CHAN_CHAN_ASSIGN_MID : Field := ⟨0x108, 0, 16, .rwl, 0, 1⟩
def CHAN_CHAN_ASSIGN_VALID : Field := ⟨0x108, 16, 1, .rwl, 0, 1⟩
def CHAN_CHAN_IRQ_COAL_CNT : Field := ⟨0x10C, 0, 8, .rw, 1, 1⟩
def CHAN_CHAN_IRQ_COAL_US : Field := ⟨0x10C, 8, 16, .rw, 0, 1⟩
def CHAN_SQ_BASE_LO_ADDR : Field := ⟨0x110, 0, 32, .rw, 0, 1⟩
def CHAN_SQ_BASE_HI_ADDR : Field := ⟨0x114, 0, 32, .rw, 0, 1⟩
def CHAN_CQ_BASE_LO_ADDR : Field := ⟨0x118, 0, 32, .rw, 0, 1⟩
def CHAN_CQ_BASE_HI_ADDR : Field := ⟨0x11C, 0, 32, .rw, 0, 1⟩
def CHAN_CUR_DB_VALUE : Field := ⟨0x120, 0, 32, .ro, 0, 1⟩
def CHAN_CUR_ACCEPT_VALUE : Field := ⟨0x124, 0, 32, .ro, 0, 1⟩
def CHAN_CUR_POST_VALUE : Field := ⟨0x128, 0, 32, .ro, 0, 1⟩
def CHAN_CQ_HEAD_VALUE : Field := ⟨0x12C, 0, 32, .rw, 0, 1⟩
def CHAN_INFLIGHT_COUNT : Field := ⟨0x130, 0, 13, .ro, 0, 1⟩
def CHAN_INFLIGHT_STORE : Field := ⟨0x130, 16, 13, .ro, 0, 1⟩
def CHAN_CHAN_CTRL_HOLD : Field := ⟨0x134, 0, 1, .rw, 0, 1⟩
def CHAN_CHAN_CTRL_REPLAY : Field := ⟨0x134, 1, 1, .wo, 0, 1⟩
def CHAN_CHAN_CTRL_SQ_DISCARD : Field := ⟨0x134, 2, 1, .wo, 0, 1⟩
def CHAN_CHAN_STAT_HELD : Field := ⟨0x138, 0, 1, .ro, 0, 1⟩
def CHAN_CHAN_STAT_CQ_FULL : Field := ⟨0x138, 1, 1, .ro, 0, 1⟩
def CHAN_CHAN_STAT_REPLAYING : Field := ⟨0x138, 2, 1, .ro, 0, 1⟩
def CHAN_CHAN_STAT_FLR_HELD : Field := ⟨0x138, 3, 1, .ro, 0, 1⟩
def CHAN_CANCEL_SEQ : Field := ⟨0x13C, 0, 32, .wo, 0, 1⟩
def CHAN_CANCEL_STAT_RESULT : Field := ⟨0x140, 0, 3, .ro, 0, 1⟩
def CHAN_INFL_SEL_INDEX : Field := ⟨0x144, 0, 13, .rw, 0, 1⟩
def CHAN_INFL_SEL_VALID : Field := ⟨0x144, 31, 1, .ro, 0, 1⟩
def CHAN_INFL_SEQ_SEQ : Field := ⟨0x148, 0, 32, .ro, 0, 1⟩
def CHAN_RESV_BUDGET_TILE_US : Field := ⟨0x150, 0, 24, .rw, 0, 1⟩
def CHAN_RESV_PERIOD_TICKS : Field := ⟨0x154, 0, 24, .rw, 0, 1⟩
def CHAN_RESV_PHASE_TICKS : Field := ⟨0x158, 0, 32, .rw, 0, 1⟩
def CHAN_RESV_CMD_CLASS : Field := ⟨0x15C, 0, 2, .rw, 2, 1⟩
def CHAN_RESV_CMD_GRADE : Field := ⟨0x15C, 2, 3, .rw, 0, 1⟩
def CHAN_RESV_CMD_HANDLE : Field := ⟨0x15C, 16, 10, .rw, 0, 1⟩
def CHAN_RESV_CMD_GO : Field := ⟨0x15C, 31, 1, .wo, 0, 1⟩
def CHAN_RESV_STAT_STATE : Field := ⟨0x160, 0, 3, .ro, 0, 1⟩
def CHAN_RESV_STAT_CLASS : Field := ⟨0x160, 3, 2, .ro, 2, 1⟩
def CHAN_RESV_STAT_GRADE : Field := ⟨0x160, 5, 3, .ro, 0, 1⟩
def CHAN_RESV_STAT_REASON : Field := ⟨0x160, 8, 4, .ro, 0, 1⟩
def CHAN_RESV_SERIAL_SERIAL : Field := ⟨0x164, 0, 32, .ro, 0, 1⟩
def CHAN_RESV_LEFT_LEFT : Field := ⟨0x168, 0, 32, .ro, 0, 1⟩
def CHAN_TIME_LO_TICKS : Field := ⟨0x170, 0, 32, .ro, 0, 1⟩
def CHAN_TIME_HI_TICKS : Field := ⟨0x174, 0, 32, .ro, 0, 1⟩
def CHAN_CLASS_CNT_LATE : Field := ⟨0x178, 0, 16, .ro, 0, 1⟩
def CHAN_CLASS_CNT_DEMOTED : Field := ⟨0x178, 16, 16, .ro, 0, 1⟩
def CHAN_DB_REJ_VAL_VALUE : Field := ⟨0x17C, 0, 32, .ro, 0, 1⟩
def CHAN_DB_REJ_REC_COUNT : Field := ⟨0x180, 0, 16, .ro, 0, 1⟩
def CHAN_DB_REJ_REC_REASON : Field := ⟨0x180, 16, 2, .ro, 0, 1⟩
def CHAN_DB_REJ_REC_VALID : Field := ⟨0x180, 31, 1, .w1c, 0, 1⟩
def CHAN_RCMD_CMD : Field := ⟨0x200, 0, 32, .rw, 0, 8⟩
def CHAN_RCMDQ_STAT_FREE : Field := ⟨0x220, 0, 5, .ro, 16, 1⟩
def CHAN_RCMDQ_STAT_FILL : Field := ⟨0x220, 16, 5, .ro, 0, 1⟩
def CHAN_RSTS_STS : Field := ⟨0x230, 0, 32, .ro, 0, 8⟩
def CHAN_ZCMD_CMD : Field := ⟨0x280, 0, 32, .rw, 0, 8⟩
def CHAN_ZCMDQ_STAT_ALL : Field := ⟨0x2A0, 0, 32, .ro, 16, 1⟩
def CHAN_ZSTS_STS : Field := ⟨0x2B0, 0, 32, .ro, 0, 4⟩
def CHAN_SLOT_DATA : Field := ⟨0xC00, 0, 32, .rw, 0, 256⟩

/-- The fields of a CHAN page, part 0. -/
def fieldsChan0 : List Field :=
  [CHAN_DB_PROD, CHAN_CHAN_CFG_SQ_LOC, CHAN_CHAN_CFG_SQ_LOG2, CHAN_CHAN_CFG_CQ_LOG2,
   CHAN_CHAN_CFG_VEC, CHAN_CHAN_ASSIGN_MID, CHAN_CHAN_ASSIGN_VALID, CHAN_CHAN_IRQ_COAL_CNT,
   CHAN_CHAN_IRQ_COAL_US, CHAN_SQ_BASE_LO_ADDR, CHAN_SQ_BASE_HI_ADDR, CHAN_CQ_BASE_LO_ADDR,
   CHAN_CQ_BASE_HI_ADDR, CHAN_CUR_DB_VALUE, CHAN_CUR_ACCEPT_VALUE, CHAN_CUR_POST_VALUE,
   CHAN_CQ_HEAD_VALUE, CHAN_INFLIGHT_COUNT, CHAN_INFLIGHT_STORE, CHAN_CHAN_CTRL_HOLD,
   CHAN_CHAN_CTRL_REPLAY, CHAN_CHAN_CTRL_SQ_DISCARD, CHAN_CHAN_STAT_HELD, CHAN_CHAN_STAT_CQ_FULL]

/-- The fields of a CHAN page, part 1. -/
def fieldsChan1 : List Field :=
  [CHAN_CHAN_STAT_REPLAYING, CHAN_CHAN_STAT_FLR_HELD, CHAN_CANCEL_SEQ, CHAN_CANCEL_STAT_RESULT,
   CHAN_INFL_SEL_INDEX, CHAN_INFL_SEL_VALID, CHAN_INFL_SEQ_SEQ, CHAN_RESV_BUDGET_TILE_US,
   CHAN_RESV_PERIOD_TICKS, CHAN_RESV_PHASE_TICKS, CHAN_RESV_CMD_CLASS, CHAN_RESV_CMD_GRADE,
   CHAN_RESV_CMD_HANDLE, CHAN_RESV_CMD_GO, CHAN_RESV_STAT_STATE, CHAN_RESV_STAT_CLASS,
   CHAN_RESV_STAT_GRADE, CHAN_RESV_STAT_REASON, CHAN_RESV_SERIAL_SERIAL, CHAN_RESV_LEFT_LEFT,
   CHAN_TIME_LO_TICKS, CHAN_TIME_HI_TICKS, CHAN_CLASS_CNT_LATE, CHAN_CLASS_CNT_DEMOTED]

/-- The fields of a CHAN page, part 2. -/
def fieldsChan2 : List Field :=
  [CHAN_DB_REJ_VAL_VALUE, CHAN_DB_REJ_REC_COUNT, CHAN_DB_REJ_REC_REASON, CHAN_DB_REJ_REC_VALID,
   CHAN_RCMD_CMD, CHAN_RCMDQ_STAT_FREE, CHAN_RCMDQ_STAT_FILL, CHAN_RSTS_STS,
   CHAN_ZCMD_CMD, CHAN_ZCMDQ_STAT_ALL, CHAN_ZSTS_STS, CHAN_SLOT_DATA]

/-- The fields of a CHAN page. -/
def fieldsChan : List Field := fieldsChan0 ++ fieldsChan1 ++ fieldsChan2

/-! The MBX page (R331). -/
def MBX_MBX_STAT_PEER_STATE : Field := ⟨0x100, 0, 2, .ro, 3, 1⟩
def MBX_MBX_STAT_TX_FILL : Field := ⟨0x100, 2, 3, .ro, 0, 1⟩
def MBX_MBX_STAT_RX_FILL : Field := ⟨0x100, 5, 3, .ro, 0, 1⟩
def MBX_MBX_STAT_BOUND : Field := ⟨0x100, 8, 1, .ro, 0, 1⟩
def MBX_MBX_STAT_END : Field := ⟨0x100, 9, 1, .ro, 0, 1⟩
def MBX_MBX_SEND_GO : Field := ⟨0x104, 0, 1, .wo, 0, 1⟩
def MBX_MBX_RECV_POP : Field := ⟨0x108, 0, 1, .wo, 0, 1⟩
def MBX_TX_DATA : Field := ⟨0x140, 0, 32, .rw, 0, 16⟩
def MBX_RX_DATA : Field := ⟨0x180, 0, 32, .ro, 0, 16⟩

/-- The fields of a MBX page. -/
def fieldsMbx : List Field :=
  [MBX_MBX_STAT_PEER_STATE, MBX_MBX_STAT_TX_FILL, MBX_MBX_STAT_RX_FILL, MBX_MBX_STAT_BOUND,
   MBX_MBX_STAT_END, MBX_MBX_SEND_GO, MBX_MBX_RECV_POP, MBX_TX_DATA,
   MBX_RX_DATA]

/-! The HP page (R335). -/
def HP_HP_CFG_DEV_EVT_EN : Field := ⟨0x100, 0, 1, .rw, 0, 1⟩
def HP_HP_CFG_L0P_EN : Field := ⟨0x100, 1, 1, .rw, 0, 1⟩
def HP_HP_LINK_WIDTH : Field := ⟨0x104, 0, 4, .ro, 0, 1⟩
def HP_HP_LINK_RATE : Field := ⟨0x104, 4, 3, .ro, 0, 1⟩
def HP_HP_LINK_FLIT : Field := ⟨0x104, 7, 1, .ro, 0, 1⟩
def HP_HP_LINK_PM : Field := ⟨0x104, 8, 2, .ro, 0, 1⟩
def HP_HP_LINK_LANES_OK : Field := ⟨0x104, 10, 8, .ro, 0, 1⟩
def HP_HP_ERR_CNT_CA : Field := ⟨0x108, 0, 16, .ro, 0, 1⟩
def HP_HP_ERR_CNT_TIMEOUT : Field := ⟨0x108, 16, 16, .ro, 0, 1⟩
def HP_POISON_OUT_CNT_COUNT : Field := ⟨0x10C, 0, 32, .ro, 0, 1⟩
def HP_BAR2_BASE_REGION : Field := ⟨0x140, 0, 12, .rwl, 0, 16⟩

/-- The fields of a HP page. -/
def fieldsHp : List Field :=
  [HP_HP_CFG_DEV_EVT_EN, HP_HP_CFG_L0P_EN, HP_HP_LINK_WIDTH, HP_HP_LINK_RATE,
   HP_HP_LINK_FLIT, HP_HP_LINK_PM, HP_HP_LINK_LANES_OK, HP_HP_ERR_CNT_CA,
   HP_HP_ERR_CNT_TIMEOUT, HP_POISON_OUT_CNT_COUNT, HP_BAR2_BASE_REGION]

/-! The RG page (R350). -/
def RG_RING_STAT_STATE : Field := ⟨0x100, 0, 2, .ro, 0, 1⟩
def RG_RING_STAT_NODE_ID : Field := ⟨0x100, 2, 5, .ro, 0, 1⟩
def RG_RING_STAT_NODES : Field := ⟨0x100, 7, 6, .ro, 0, 1⟩
def RG_RING_STAT_HEAD : Field := ⟨0x100, 13, 1, .ro, 0, 1⟩
def RG_RING_STAT_CLOSED : Field := ⟨0x100, 14, 1, .ro, 0, 1⟩
def RG_RING_STAT_BYPASS_OPEN : Field := ⟨0x100, 15, 1, .ro, 0, 1⟩
def RG_RING_ID_ID : Field := ⟨0x104, 0, 32, .ro, 0, 1⟩
def RG_NODE_MAP_PRESENT : Field := ⟨0x108, 0, 32, .ro, 0, 1⟩
def RG_RING_CTRL_LEAVE : Field := ⟨0x10C, 0, 1, .rw, 0, 1⟩
def RG_RING_CTRL_REENUM : Field := ⟨0x10C, 1, 1, .wo, 0, 1⟩
def RG_RING_CTRL_WAKE_NODE : Field := ⟨0x10C, 8, 5, .rw, 0, 1⟩
def RG_RING_CTRL_WAKE_GO : Field := ⟨0x10C, 13, 1, .wo, 0, 1⟩
def RG_RLINK_STAT_WIDTH : Field := ⟨0x110, 0, 4, .ro, 0, 1⟩
def RG_RLINK_STAT_LANES_OK : Field := ⟨0x110, 4, 8, .ro, 0, 1⟩
def RG_RLINK_STAT_IDLE : Field := ⟨0x110, 12, 1, .ro, 0, 1⟩
def RG_RLINK_REPLAY_CNT_COUNT : Field := ⟨0x114, 0, 32, .ro, 0, 1⟩
def RG_E2E_RESEND_CNT_COUNT : Field := ⟨0x118, 0, 32, .ro, 0, 1⟩
def RG_E2E_DROP_CNT_COUNT : Field := ⟨0x11C, 0, 16, .ro, 0, 1⟩
def RG_E2E_DROP_CNT_FOREIGN : Field := ⟨0x11C, 16, 16, .ro, 0, 1⟩
def RG_ADMIN_MID : Field := ⟨0x400, 0, 16, .rwl, 0, 8⟩
def RG_ADMIN_VALID : Field := ⟨0x400, 31, 1, .rwl, 0, 8⟩

/-- The fields of a RG page. -/
def fieldsRg : List Field :=
  [RG_RING_STAT_STATE, RG_RING_STAT_NODE_ID, RG_RING_STAT_NODES, RG_RING_STAT_HEAD,
   RG_RING_STAT_CLOSED, RG_RING_STAT_BYPASS_OPEN, RG_RING_ID_ID, RG_NODE_MAP_PRESENT,
   RG_RING_CTRL_LEAVE, RG_RING_CTRL_REENUM, RG_RING_CTRL_WAKE_NODE, RG_RING_CTRL_WAKE_GO,
   RG_RLINK_STAT_WIDTH, RG_RLINK_STAT_LANES_OK, RG_RLINK_STAT_IDLE, RG_RLINK_REPLAY_CNT_COUNT,
   RG_E2E_RESEND_CNT_COUNT, RG_E2E_DROP_CNT_COUNT, RG_E2E_DROP_CNT_FOREIGN, RG_ADMIN_MID,
   RG_ADMIN_VALID]

/-! The ETH page (R354). -/
def ETH_ETH_CFG_CR2 : Field := ⟨0x100, 0, 1, .rwl, 0, 1⟩
def ETH_ETH_CFG_PFC_PRIO : Field := ⟨0x100, 1, 3, .rwl, 0, 1⟩
def ETH_ETH_CFG_PFC_EN : Field := ⟨0x100, 4, 1, .rwl, 0, 1⟩
def ETH_SRC_MAC_LO_MAC : Field := ⟨0x104, 0, 32, .rwl, 0, 1⟩
def ETH_SRC_MAC_HI_MAC : Field := ⟨0x108, 0, 16, .rwl, 0, 1⟩
def ETH_SRC_IPV4_ADDR : Field := ⟨0x10C, 0, 32, .rwl, 0, 1⟩
def ETH_GW_IPV4_ADDR : Field := ⟨0x110, 0, 32, .rwl, 0, 1⟩
def ETH_PREFIX_V4 : Field := ⟨0x114, 0, 6, .rwl, 0, 1⟩
def ETH_PREFIX_V6 : Field := ⟨0x114, 8, 8, .rwl, 0, 1⟩
def ETH_SRC_IPV6_ADDR : Field := ⟨0x120, 0, 32, .rwl, 0, 4⟩
def ETH_GW_IPV6_ADDR : Field := ⟨0x130, 0, 32, .rwl, 0, 4⟩
def ETH_ETH_STAT_UP : Field := ⟨0x140, 0, 1, .ro, 0, 1⟩
def ETH_ETH_STAT_QP_BUSY : Field := ⟨0x140, 1, 7, .ro, 0, 1⟩
def ETH_RX_DROP_CNT_COUNT : Field := ⟨0x144, 0, 32, .ro, 0, 1⟩
def ETH_RETRY_CNT_COUNT : Field := ⟨0x148, 0, 32, .ro, 0, 1⟩
def ETH_RX_KIB_KIB : Field := ⟨0x14C, 0, 32, .ro, 0, 1⟩

/-- The fields of a ETH page. -/
def fieldsEth : List Field :=
  [ETH_ETH_CFG_CR2, ETH_ETH_CFG_PFC_PRIO, ETH_ETH_CFG_PFC_EN, ETH_SRC_MAC_LO_MAC,
   ETH_SRC_MAC_HI_MAC, ETH_SRC_IPV4_ADDR, ETH_GW_IPV4_ADDR, ETH_PREFIX_V4,
   ETH_PREFIX_V6, ETH_SRC_IPV6_ADDR, ETH_GW_IPV6_ADDR, ETH_ETH_STAT_UP,
   ETH_ETH_STAT_QP_BUSY, ETH_RX_DROP_CNT_COUNT, ETH_RETRY_CNT_COUNT, ETH_RX_KIB_KIB]

/-! The RF page (R379). -/
def RF_LEASE_STAT_HOLDER : Field := ⟨0x100, 0, 2, .ro, 0, 1⟩
def RF_LEASE_STAT_PARTITIONED : Field := ⟨0x100, 2, 1, .ro, 0, 1⟩
def RF_LEASE_STAT_ALONE : Field := ⟨0x100, 3, 1, .ro, 0, 1⟩
def RF_LEASE_STAT_PEER_UP : Field := ⟨0x100, 4, 1, .ro, 0, 1⟩
def RF_LEASE_STAT_TIEBRK : Field := ⟨0x100, 5, 1, .ro, 0, 1⟩
def RF_LEASE_STAT_LEADERLESS : Field := ⟨0x100, 6, 1, .ro, 0, 1⟩
def RF_LEASE_STAT_LAST_CAUSE : Field := ⟨0x100, 7, 4, .ro, 0, 1⟩
def RF_LEASE_TOKEN_TOKEN : Field := ⟨0x104, 0, 32, .ro, 0, 1⟩
def RF_LEASE_EXP_LO_EXP : Field := ⟨0x108, 0, 32, .ro, 0, 1⟩
def RF_LEASE_EXP_HI_EXP : Field := ⟨0x10C, 0, 32, .ro, 0, 1⟩
def RF_LEASE_CHG_CNT_TAKEOVER : Field := ⟨0x110, 0, 16, .ro, 0, 1⟩
def RF_LEASE_CHG_CNT_HANDOFF : Field := ⟨0x110, 16, 16, .ro, 0, 1⟩
def RF_RF_FAULT_CNT_PARTITIONS : Field := ⟨0x114, 0, 16, .ro, 0, 1⟩
def RF_RF_FAULT_CNT_RESTARTS : Field := ⟨0x114, 16, 16, .ro, 0, 1⟩

/-- The fields of a RF page. -/
def fieldsRf : List Field :=
  [RF_LEASE_STAT_HOLDER, RF_LEASE_STAT_PARTITIONED, RF_LEASE_STAT_ALONE, RF_LEASE_STAT_PEER_UP,
   RF_LEASE_STAT_TIEBRK, RF_LEASE_STAT_LEADERLESS, RF_LEASE_STAT_LAST_CAUSE, RF_LEASE_TOKEN_TOKEN,
   RF_LEASE_EXP_LO_EXP, RF_LEASE_EXP_HI_EXP, RF_LEASE_CHG_CNT_TAKEOVER, RF_LEASE_CHG_CNT_HANDOFF,
   RF_RF_FAULT_CNT_PARTITIONS, RF_RF_FAULT_CNT_RESTARTS]

/-! The PMU page (R381, R404). -/
def PMU_SAG_STAT_WARN_N : Field := ⟨0x700, 0, 1, .ro, 0, 1⟩
def PMU_SAG_STAT_WARN_S : Field := ⟨0x700, 1, 1, .ro, 0, 1⟩
def PMU_SAG_STAT_LIMIT : Field := ⟨0x700, 2, 1, .ro, 0, 1⟩
def PMU_SAG_MIN_N : Field := ⟨0x704, 0, 8, .ro, 0, 1⟩
def PMU_SAG_MIN_S : Field := ⟨0x704, 8, 8, .ro, 0, 1⟩
def PMU_SAG_MIN_CLR : Field := ⟨0x704, 31, 1, .wo, 0, 1⟩
def PMU_SAG_WARN_CNT_COUNT : Field := ⟨0x708, 0, 32, .ro, 0, 1⟩
def PMU_PWR_CFG_TILE_TARGET : Field := ⟨0x100, 0, 3, .rw, 2, 1⟩
def PMU_PWR_CFG_HALF_TARGET : Field := ⟨0x100, 3, 3, .rw, 2, 1⟩
def PMU_PWR_CFG_BOOST_EN : Field := ⟨0x100, 6, 1, .rw, 0, 1⟩
def PMU_PWR_DWELL_TILE_US : Field := ⟨0x104, 0, 16, .rw, 100, 1⟩
def PMU_PWR_DWELL_HALF_US : Field := ⟨0x104, 16, 16, .rw, 1000, 1⟩
def PMU_PWR_STAT_LVL_N : Field := ⟨0x108, 0, 3, .ro, 0, 1⟩
def PMU_PWR_STAT_MOVING_N : Field := ⟨0x108, 3, 1, .ro, 0, 1⟩
def PMU_PWR_STAT_LVL_S : Field := ⟨0x108, 4, 3, .ro, 0, 1⟩
def PMU_PWR_STAT_MOVING_S : Field := ⟨0x108, 7, 1, .ro, 0, 1⟩
def PMU_PWR_STAT_REST_BLOCKED : Field := ⟨0x108, 8, 1, .ro, 0, 1⟩
def PMU_TILE_CNT0_RUN : Field := ⟨0x10C, 0, 11, .ro, 0, 1⟩
def PMU_TILE_CNT0_IDLE : Field := ⟨0x10C, 11, 11, .ro, 0, 1⟩
def PMU_TILE_CNT1_NAP : Field := ⟨0x110, 0, 11, .ro, 0, 1⟩
def PMU_TILE_CNT1_DOZE : Field := ⟨0x110, 11, 11, .ro, 0, 1⟩
def PMU_TILE_SEL_TILE : Field := ⟨0x114, 0, 11, .rw, 0, 1⟩
def PMU_TILE_PWR_LEVEL : Field := ⟨0x118, 0, 3, .ro, 0, 1⟩
def PMU_TILE_PWR_BOOST : Field := ⟨0x118, 3, 1, .ro, 0, 1⟩
def PMU_TILE_PWR_VOTERS : Field := ⟨0x118, 4, 6, .ro, 0, 1⟩
def PMU_TILE_PWR_FLOOR : Field := ⟨0x118, 10, 3, .ro, 7, 1⟩
def PMU_HALF_VOTES_VOTERS_N : Field := ⟨0x11C, 0, 6, .ro, 0, 1⟩
def PMU_HALF_VOTES_FLOOR_N : Field := ⟨0x11C, 6, 3, .ro, 7, 1⟩
def PMU_HALF_VOTES_VOTERS_S : Field := ⟨0x11C, 9, 6, .ro, 0, 1⟩
def PMU_HALF_VOTES_FLOOR_S : Field := ⟨0x11C, 15, 3, .ro, 7, 1⟩
def PMU_PWR_CMD_OP : Field := ⟨0x120, 0, 4, .rw, 0, 1⟩
def PMU_PWR_CMD_GO : Field := ⟨0x120, 31, 1, .wo, 0, 1⟩
def PMU_PWR_CMD_STAT_STATE : Field := ⟨0x124, 0, 2, .ro, 0, 1⟩
def PMU_PWR_CMD_STAT_REASON : Field := ⟨0x124, 4, 4, .ro, 0, 1⟩
def PMU_PF_VOTE_FLOOR_N : Field := ⟨0x130, 0, 3, .rw, 7, 1⟩
def PMU_PF_VOTE_FLOOR_S : Field := ⟨0x130, 3, 3, .rw, 7, 1⟩
def PMU_PF_VOTE_VALID : Field := ⟨0x130, 6, 1, .ro, 0, 1⟩
def PMU_PF_VOTE_MID : Field := ⟨0x130, 16, 16, .ro, 0, 1⟩
def PMU_PF_VOTE_CNT_SLOTS : Field := ⟨0x134, 0, 5, .ro, 0, 1⟩
def PMU_CAP_CFG_CAP_W : Field := ⟨0x140, 0, 7, .rwl, 65, 1⟩
def PMU_CAP_STAT_CAP_LEVEL : Field := ⟨0x144, 0, 2, .ro, 0, 1⟩
def PMU_CAP_STAT_THERM_LEVEL : Field := ⟨0x144, 2, 2, .ro, 0, 1⟩
def PMU_CAP_STAT_PASS_LIMIT : Field := ⟨0x144, 4, 2, .ro, 0, 1⟩
def PMU_CAP_STAT_AVG : Field := ⟨0x144, 16, 16, .ro, 0, 1⟩
def PMU_CAP_CNT_CAP : Field := ⟨0x148, 0, 16, .ro, 0, 1⟩
def PMU_CAP_CNT_THERM : Field := ⟨0x148, 16, 16, .ro, 0, 1⟩
def PMU_TILE_KEEP_KEEP : Field := ⟨0x400, 0, 32, .rw, 0, 33⟩

/-- The fields of a PMU page, part 0. -/
def fieldsPmu0 : List Field :=
  [PMU_SAG_STAT_WARN_N, PMU_SAG_STAT_WARN_S, PMU_SAG_STAT_LIMIT, PMU_SAG_MIN_N,
   PMU_SAG_MIN_S, PMU_SAG_MIN_CLR, PMU_SAG_WARN_CNT_COUNT, PMU_PWR_CFG_TILE_TARGET,
   PMU_PWR_CFG_HALF_TARGET, PMU_PWR_CFG_BOOST_EN, PMU_PWR_DWELL_TILE_US, PMU_PWR_DWELL_HALF_US,
   PMU_PWR_STAT_LVL_N, PMU_PWR_STAT_MOVING_N, PMU_PWR_STAT_LVL_S, PMU_PWR_STAT_MOVING_S,
   PMU_PWR_STAT_REST_BLOCKED, PMU_TILE_CNT0_RUN, PMU_TILE_CNT0_IDLE, PMU_TILE_CNT1_NAP,
   PMU_TILE_CNT1_DOZE, PMU_TILE_SEL_TILE, PMU_TILE_PWR_LEVEL, PMU_TILE_PWR_BOOST]

/-- The fields of a PMU page, part 1. -/
def fieldsPmu1 : List Field :=
  [PMU_TILE_PWR_VOTERS, PMU_TILE_PWR_FLOOR, PMU_HALF_VOTES_VOTERS_N, PMU_HALF_VOTES_FLOOR_N,
   PMU_HALF_VOTES_VOTERS_S, PMU_HALF_VOTES_FLOOR_S, PMU_PWR_CMD_OP, PMU_PWR_CMD_GO,
   PMU_PWR_CMD_STAT_STATE, PMU_PWR_CMD_STAT_REASON, PMU_PF_VOTE_FLOOR_N, PMU_PF_VOTE_FLOOR_S,
   PMU_PF_VOTE_VALID, PMU_PF_VOTE_MID, PMU_PF_VOTE_CNT_SLOTS, PMU_CAP_CFG_CAP_W,
   PMU_CAP_STAT_CAP_LEVEL, PMU_CAP_STAT_THERM_LEVEL, PMU_CAP_STAT_PASS_LIMIT, PMU_CAP_STAT_AVG,
   PMU_CAP_CNT_CAP, PMU_CAP_CNT_THERM, PMU_TILE_KEEP_KEEP]

/-- The fields of a PMU page. -/
def fieldsPmu : List Field := fieldsPmu0 ++ fieldsPmu1

/-! The AON page (R405). -/
def AON_LAST_WAKE_SOURCE : Field := ⟨0x100, 0, 4, .ro, 0, 1⟩
def AON_LAST_WAKE_FROM : Field := ⟨0x100, 4, 3, .ro, 0, 1⟩
def AON_LAST_WAKE_DURING_ENTRY : Field := ⟨0x100, 7, 1, .ro, 0, 1⟩
def AON_LAST_WAKE_PORT : Field := ⟨0x100, 8, 3, .ro, 0, 1⟩
def AON_LAST_WAKE_NODE : Field := ⟨0x100, 11, 5, .ro, 0, 1⟩
def AON_LAST_WAKE_HALF : Field := ⟨0x100, 16, 1, .ro, 0, 1⟩
def AON_WAKE_TIME_LO_TICKS : Field := ⟨0x104, 0, 32, .ro, 0, 1⟩
def AON_WAKE_TIME_HI_TICKS : Field := ⟨0x108, 0, 32, .ro, 0, 1⟩
def AON_RESET_CAUSE_CAUSE : Field := ⟨0x10C, 0, 4, .ro, 0, 1⟩
def AON_WAKE_AT_LO_TICKS : Field := ⟨0x110, 0, 32, .rw, 0, 1⟩
def AON_WAKE_AT_HI_TICKS : Field := ⟨0x114, 0, 32, .rw, 0, 1⟩
def AON_SAVE_STAT_BYTES : Field := ⟨0x118, 0, 14, .ro, 0, 1⟩
def AON_SAVE_STAT_VALID : Field := ⟨0x118, 14, 1, .ro, 0, 1⟩
def AON_SAVE_STAT_ERR : Field := ⟨0x118, 15, 1, .ro, 0, 1⟩
def AON_SAVE_STAT_SAVES : Field := ⟨0x118, 16, 16, .ro, 0, 1⟩
def AON_WAKE_CNT_COUNT : Field := ⟨0x11C, 0, 32, .ro, 0, 1⟩

/-- The fields of a AON page. -/
def fieldsAon : List Field :=
  [AON_LAST_WAKE_SOURCE, AON_LAST_WAKE_FROM, AON_LAST_WAKE_DURING_ENTRY, AON_LAST_WAKE_PORT,
   AON_LAST_WAKE_NODE, AON_LAST_WAKE_HALF, AON_WAKE_TIME_LO_TICKS, AON_WAKE_TIME_HI_TICKS,
   AON_RESET_CAUSE_CAUSE, AON_WAKE_AT_LO_TICKS, AON_WAKE_AT_HI_TICKS, AON_SAVE_STAT_BYTES,
   AON_SAVE_STAT_VALID, AON_SAVE_STAT_ERR, AON_SAVE_STAT_SAVES, AON_WAKE_CNT_COUNT]

/-! The THM page (R436). -/
def THM_THM_SEL_SENSOR : Field := ⟨0x100, 0, 6, .rw, 0, 1⟩
def THM_THM_READ_TEMP : Field := ⟨0x104, 0, 16, .ro, 0, 1⟩
def THM_THM_READ_FAILED : Field := ⟨0x104, 16, 1, .ro, 0, 1⟩
def THM_THM_MAX_TEMP : Field := ⟨0x108, 0, 16, .ro, 0, 1⟩
def THM_THM_MAX_SENSOR : Field := ⟨0x108, 16, 6, .ro, 0, 1⟩
def THM_THM_MAX_CLR : Field := ⟨0x108, 31, 1, .wo, 0, 1⟩
def THM_THM_ALARM_TEMP : Field := ⟨0x10C, 0, 16, .rw, 0x02F8, 1⟩
def THM_THM_FAIL_LO_FAILED : Field := ⟨0x110, 0, 32, .ro, 0, 1⟩
def THM_THM_FAIL_HI_FAILED : Field := ⟨0x114, 0, 16, .ro, 0, 1⟩

/-- The fields of a THM page. -/
def fieldsThm : List Field :=
  [THM_THM_SEL_SENSOR, THM_THM_READ_TEMP, THM_THM_READ_FAILED, THM_THM_MAX_TEMP,
   THM_THM_MAX_SENSOR, THM_THM_MAX_CLR, THM_THM_ALARM_TEMP, THM_THM_FAIL_LO_FAILED,
   THM_THM_FAIL_HI_FAILED]

end Reg

end Sys2Proof
end

