-- ==== Sys2Proof/Machine/State.lean ====
section
/-! DEFINITION. The state of the CS6120: plain data. `regs` is the register file (every field of every register
table of spec/ that no structure below mirrors); the structures hold what the spec names beside the registers. Times
are device-timer ticks of 16 ns (R314). -/

namespace Sys2Proof.Machine

/-! ## The package around the machine -/

/-- The pins and straps (R418, R423, R427). -/
structure Pins where
  /-- RESET_L is low (R406). -/
  resetL : Bool := false
  /-- THERMTRIP_L is asserted (R435). -/
  thermTrip : Bool := false
  /-- RAIL_EN is asserted: non-AON rails on (R429). -/
  railEn : Bool := true
  /-- Strap RING_HEAD (R343). -/
  ringHead : Bool := false
  /-- Strap TIEBRK: 0 north, 1 south (R417). -/
  tieBrk : Half := .north
  /-- Strap BOOT_MODE (R411). -/
  bootMode : BitVec 2 := 0
  deriving DecidableEq, Repr

/-- The fuse map (R46) and what the board decides (R42). -/
structure Fuses where
  /-- Placement size class fused (R42, R46): 0 CS6120, 1 CS6090, 2 CS6060. -/
  sizeClass : Fin 3 := 0
  /-- Silicon revision (R46). -/
  rev : Byte := 0
  /-- Physical tiles that are not enabled in this bin (R46). -/
  offTiles : List Nat := []
  /-- Physical tiles fused as bench slots 0 to 31, in slot order (R15, R46). -/
  bench : List Nat := (List.range 16).map (fun y => y * 33 + 16) ++ (List.range 16).map (fun y => 528 + y * 33 + 16)
  /-- Units whose fuse word fails its check, by page base (R46). -/
  bad : List Nat := []
  deriving DecidableEq, Repr

/-! ## Tiles (chapters 3 to 6) -/

/-- The states of a bank (R63). -/
inductive BankSt where
  | empty | writeHeld | writing | ready | fenced
  deriving DecidableEq, Repr

/-- One stored row of a bank: 1,024 data bits, 11 checksum bits (R110) and its poison mark (R67). The reference cells
follow from the row number (R122). -/
structure Row where
  data : BitVec 1024
  csum : BitVec 11
  poison : Bool
  deriving DecidableEq, Repr

/-- One bank of a tile (R47, R60). -/
structure Bank where
  /-- BANKx_STATE.STATE (R63). -/
  st : BankSt := .empty
  /-- BANKx_TAG.WSET (R60). -/
  wset : W16 := 0
  /-- BANKx_TAG.MEPOCH (R60). -/
  mepoch : W16 := 0
  /-- BANKx_CFG.WFMT (R60). -/
  wfmt : BitVec 2 := 0
  /-- BANKx_CFG.FOLD (R48). -/
  fold : BitVec 2 := 0
  /-- BANKx_CFG.ROWS, 0 before the first write (R60, R76). -/
  rows : Nat := 0
  /-- Rows written since the last GO, by subarray × 128 + row (R64). -/
  mem : Store (Option Row) := []
  /-- BANKx_STATE.POISON_ROWS (R67). -/
  poisonRows : Nat := 0
  /-- BANKx_POISON_FIRST (R67). -/
  poisonFirst : Option Nat := none
  /-- BANKx_TBL.BASE (R108). -/
  tbl : Byte := 0
  /-- Scale codes received since the last GO (R88). -/
  codes : Nat := 0
  /-- BANKx_TBL.ZPC_VALID (R89). -/
  zpcValid : Bool := false
  /-- BANKx_TBL.COLSUM_BAD (R90). -/
  colsumBad : Bool := false
  /-- Scales marked skewed (R211). -/
  skewed : Bool := false
  /-- The column-sum sweep has run since the bank became READY (R89). -/
  swept : Bool := false
  /-- BSEQ of the rows of this bank write (R199). -/
  bseq : Option Byte := none
  /-- Every later row carried the same BSEQ as the first (R211). -/
  bseqOk : Bool := true
  /-- A task has run on this bank since it became READY (R217). -/
  ran : Bool := false
  /-- INTEG_STAT.SUBF bits of this bank (R134). -/
  subFenced : BitVec 8 := 0
  /-- REPAIR_HOLD (R114, R115). -/
  hold : Bool := false
  /-- Time REPAIR_HOLD was set (R115). -/
  holdAt : Nat := 0
  deriving DecidableEq, Repr

/-- A pass in flight on a subarray (R51, R113). -/
structure Pass where
  /-- Age of the task it belongs to. -/
  age : Nat
  group : Nat
  plane : Nat
  retry : Bool
  deriving DecidableEq, Repr

/-- What each of the 16 subarrays of a tile keeps (R119, R123, R124). -/
structure Sub where
  /-- Time of the last calibration (R123). -/
  calAt : Nat := 0
  /-- Region reading at the last calibration, 0.125 °C units (R123). -/
  calTemp : Int := 0
  /-- A calibration is due (R124). -/
  calDue : Bool := false
  /-- A calibration runs since this time (R123). -/
  calRun : Option Nat := none
  /-- The hard limit of age or temperature is reached (R124). -/
  calHard : Bool := false
  /-- Next row to refresh (R119). -/
  refRow : Nat := 0
  /-- Time of the first row of the running sweep (R121). -/
  sweepAt : Nat := 0
  /-- Length of the last complete sweep, in µs (R134). -/
  sweepUs : Nat := 0
  /-- Consecutive refresh deferrals (R120). -/
  defer : Nat := 0
  /-- The pass in flight (R51). -/
  pass : Option Pass := none
  deriving DecidableEq, Repr

/-- The states of a deque entry (R144). -/
inductive TaskSt where
  | waiting | held | ready | running | suspended | shadow
  deriving DecidableEq, Repr

/-- The partitions of a deque (R143). -/
inductive Part where
  | posted | stolen | spawn
  deriving DecidableEq, Repr

/-- An entry of a deque (R143, R144). -/
structure Entry where
  d : Desc
  st : TaskSt
  part : Part
  /-- The control complex that posted the entry (R148). -/
  poster : Half
  /-- Order of entry into this deque (R145). -/
  age : Nat
  /-- First uncompleted vector (R114, R131). -/
  vec : Nat
  /-- The victim a stolen task came from (R155). -/
  victim : Option Nat
  deriving DecidableEq, Repr

/-- One staged input vector (R53, R81 to R83): element bit patterns, planes, sign, scale, zero point, poisoned row
groups, and whether the stream is out of step. -/
structure VecIn where
  elems : List Nat
  planes : Nat
  signed : Bool
  scale : W32
  zp : Nat
  poisonGroups : List Nat
  bad : Bool
  deriving DecidableEq, Repr

/-- A converted count that passed the checks though it differs from the true count (R112): subarray, row group,
plane, column, and delivered code less true count. -/
structure Over where
  sub : Nat
  group : Nat
  plane : Nat
  col : Nat
  diff : Int
  deriving DecidableEq, Repr

/-- Statistics of R97. -/
structure Stats where
  count : Nat := 0
  clip : Nat := 0
  sse : W32 := 0
  ssv : W32 := 0
  deriving DecidableEq, Repr

/-- A vector held by the post-processor for adapter values (R103): stage-8 values and poison of each output. -/
structure Held where
  vals : List (W32 × Bool)
  deriving DecidableEq, Repr

/-- An array context: the task of one class that the array holds (R146). -/
structure Ctx where
  /-- The entry's age: its name within the deque. -/
  age : Nat
  /-- Its bank: false A, true B (R66). -/
  bank : Bool
  /-- The post-processing record as read at task start, 8 words (R99). -/
  ppr : List W32
  /-- The activation table as copied at task start (R93). -/
  act : List Byte
  /-- Vector in progress. -/
  vec : Nat
  vin : VecIn
  /-- Byte offset from OUT_REF of the next output slice. -/
  outOff : Nat
  /-- Byte offset from IN_REF of the vector after this one. -/
  inNext : Nat
  /-- Index of the next scale record of the stream (R82). -/
  recNext : Nat
  /-- Position of each subarray in its pass order: row group × planes + plane (R54). -/
  pos : List Nat
  wrongs : List Over
  /-- Every later vector carries poison (R82). -/
  rest : Bool
  /-- Totals of R97. -/
  tot : Stats
  held : Option Held
  /-- Status of a failure met while running; OK so far when 0. -/
  status : W16
  /-- Last vector emitted. -/
  finished : Bool
  /-- Some output carried poison. -/
  poison : Bool
  deriving DecidableEq, Repr

/-- A running repair (R116). -/
structure Repair where
  bank : Bool
  test : Bool
  startAt : Nat
  deriving DecidableEq, Repr

/-- Power levels of tiles and halves (R382). -/
inductive Level where
  | run | idle | nap | doze | rest | off
  deriving DecidableEq, Repr

/-- What a domain is doing about its level (R384, R390). -/
inductive Moving where
  | still
  | entering (aim : Level)
  | exiting
  deriving DecidableEq, Repr

/-- One tile (R47), beside the registers of its page. -/
structure Tile where
  bankA : Bank := {}
  bankB : Bank := {}
  /-- The 16 subarrays, index 8 × bank + s (R119). -/
  subs : Store Sub := []
  deque : List Entry := []
  /-- Entries that ever entered this deque. -/
  ages : Nat := 0
  ctxs : List Ctx := []
  /-- Age of the entry the array runs (R146). -/
  cur : Option Nat := none
  /-- ARRAY_STAT.SEL_BANK (R76). -/
  selBank : Bool := false
  /-- Some task has run on the array. -/
  ranBefore : Bool := false
  /-- The vector unit's entry and its start time (R147). -/
  vec : Option (Nat × Nat) := none
  /-- The spill queue of the logical number, oldest first (R149). -/
  spill : List Signal := []
  /-- Spill mode (R149). -/
  spilling : Bool := false
  /-- The 16-bit generator of R152. -/
  gen : BitVec 16 := 0
  /-- A probe is outstanding (R151). -/
  probe : Bool := false
  /-- Doublings since the last reset of the backoff (R154). -/
  denies : Nat := 0
  /-- The thief may probe again from this time on (R154). -/
  backoffUntil : Nat := 0
  repair : Option Repair := none
  /-- Ends of repairs, for REPAIR_STAT.RECENT (R118). -/
  repairEnds : List Nat := []
  /-- Times of REFRESH_LATE events (R121). -/
  lateAt : List Nat := []
  /-- The sweep running: its bank (R89). -/
  sweep : Option Bool := none
  /-- THERM_HOLD (R69). -/
  thermHold : Bool := false
  /-- Power level (R382). -/
  level : Level := .run
  /-- The tile's move between levels (R384). -/
  moving : Moving := .still
  /-- A wake arrived during the entry (R391). -/
  lateWake : Bool := false
  /-- RUN-BOOST (R396). -/
  boost : Bool := false
  /-- Time since when the tile has had no work (R384). -/
  idleSince : Nat := 0
  /-- Credits of the control complex of the tile's own half (R148). -/
  creditOwn : Nat := 144
  /-- Credits of the other control complex (R148). -/
  creditOther : Nat := 32
  /-- Heartbeats the mirror has missed (R131). -/
  missed : Nat := 0
  /-- Table frames of the tile (R257). -/
  tblFrames : Nat := 0
  deriving DecidableEq, Repr

/-- Messages of the mesh and the bridge that have been sent and have not arrived (R139, R142, R148, R152 to R155), and what goes to the referee and the shared pages (R358, R361, R363). -/
inductive Msg where
  | signal (tile : Nat) (sig : Signal)
  | signalBack (sig : Signal)
  | taskEnd (cc : Half) (m : EndMsg)
  | purge (tile : Nat) (channel : BitVec 9) (seq : W32)
  | credit (tile : Nat) (poster : Half)
  | probe (victim thief : Nat)
  | grant (victim : Nat) (thief : BitVec 10) (d : Desc) (age : Nat)
  | deny (thief : Nat)
  | take (mirror : Nat)
  | post (tile : Nat) (d : Desc) (shadow : Bool) (poster : Half)
  | heartbeat (tile : Nat)
  | renew (replica sender : Half) (token : W32)
  | acquire (replica sender : Half)
  | announce (cc : Half)
  deriving DecidableEq, Repr

/-! ## The device range (chapter 10) -/

/-- STATE of a home-table entry (R259). -/
inductive HomeSt where
  | free | homed | moving | committing
  deriving DecidableEq, Repr

/-- A home-table entry (R259). -/
structure Home where
  st : HomeSt := .free
  /-- 0 T0, 1 T1, 2 T2. -/
  tier : Nat := 0
  /-- 0 L, 1 M, 2 S. -/
  cls : Nat := 0
  pin : Bool := false
  version : Nat := 0
  /-- 0 device, 1 function, 2 channel, 3 handle. -/
  ownerKind : Nat := 0
  taskWr : Bool := false
  owner : Nat := 0
  port : Nat := 0
  /-- LOCATION, QW1. -/
  loc : Nat := 0
  deriving DecidableEq, Repr

/-- A registered T2 frame (R258): the function, the host port and the host address ÷ 65,536. -/
structure T2Frame where
  fn : W16
  port : Nat
  frame : Nat
  deriving DecidableEq, Repr

/-- A status entry of a range or compression path, 4 words (R265, R290). -/
structure Sts where
  q0 : W64
  q1 : W64
  q2 : W64
  q3 : W64
  deriving DecidableEq, Repr

/-- A range command from its posting to its status entry (R263 to R265). -/
structure RCmd where
  id : Nat
  /-- The engine that carries it out (R330). -/
  engine : Half
  path : Path
  cmd : Cmd4
  /-- Who posted it. -/
  mid : W16
  /-- Pages or frames completed. -/
  done : Nat := 0
  superseded : Bool := false
  poisonSeen : Bool := false
  /-- The move of the current page lost its commit once (R270). -/
  lostOnce : Bool := false
  /-- The home-table entry of the last page (QUERY). -/
  last : W64 × W64 := (0, 0)
  deriving DecidableEq, Repr

/-- Where a move stands (R266). -/
inductive MovePhase where
  /-- Step 2: a copy round runs. -/
  | copying
  /-- Step 2 is over; the move seeks its commit. -/
  | seeking
  /-- Steps 3 to 5. -/
  | committing
  deriving DecidableEq, Repr

/-- A move of one page in progress (R266). -/
structure Move where
  id : Nat
  /-- The command it belongs to, and its engine. -/
  cmd : Nat
  engine : Half
  /-- The page being moved: address ÷ 65,536. -/
  page : Nat
  /-- VERSION noted at step 1. -/
  version : Nat
  /-- Destination tier, units, port (T2) and the value of PIN after the move. -/
  tier : Nat
  loc : Nat
  port : Nat
  pin : Bool
  phase : MovePhase
  /-- Copy rounds run (step 2). -/
  rounds : Nat
  /-- 64-byte lines written since the round began. -/
  dirty : List Nat
  deriving DecidableEq, Repr

/-- The memory behind the device range. Content is kept by range address, so that a new home changes no byte. -/
structure Range where
  /-- Bytes by range address; a byte never written reads 0 (R273). -/
  mem : Store Byte := []
  /-- Written 64-byte granules (R273). -/
  written : Store Bool := []
  /-- Poisoned granules, by range address ÷ 64 (R276). -/
  poison : Store Bool := []
  /-- The home table, by range address ÷ 65,536 (R259). -/
  homes : Store Home := []
  /-- Registered T2 frames (R258). -/
  t2 : List T2Frame := []
  /-- Range commands that have not ended, in the order posted (R265). -/
  cmds : List RCmd := []
  moves : List Move := []
  /-- Names of commands and moves given out. -/
  ids : Nat := 0
  /-- Status entries waiting, by path: engine 0 or 1, or 2 + channel (R265). -/
  sts : Store (List Sts) := []
  /-- Entries that the range translators hold: client × 2^32 + page (R260). -/
  cached : Store Bool := []
  deriving DecidableEq, Repr

/-! ## Compression (chapter 11) -/

/-- A table slot of a channel (R286). -/
structure ZSlot where
  loaded : Bool := false
  gen : Nat := 0
  /-- LEN[0] to LEN[255] (R285). -/
  lens : List Byte := []
  deriving DecidableEq, Repr

/-- A compression command from its posting to its status entry (R288). -/
structure ZCmd where
  id : Nat
  engine : Half
  path : Path
  cmd : Cmd4
  mid : W16
  /-- A LOAD_TABLE that has passed its check and is held (R286): its table record. -/
  load : Option (List Byte)
  deriving DecidableEq, Repr

/-- The compressors and expanders. -/
structure Zip where
  /-- Table slots, by 8 × channel + slot (R286). -/
  slots : Store ZSlot := []
  cmds : List ZCmd := []
  /-- Names of commands given out. -/
  ids : Nat := 0
  /-- Status entries waiting, by path: engine 0 or 1, or 2 + channel (R290). -/
  sts : Store (List (W64 × W64)) := []
  /-- Raw bytes compressed and stored bytes written, by engine, below one KiB (R298). -/
  inRest : Store Nat := []
  outRest : Store Nat := []
  /-- Z_TBL_SEL of each requester, by engine × 65,536 + MID (R298). -/
  sel : Store W32 := []
  deriving DecidableEq, Repr

/-! ## Requests and channels (chapter 12) -/

/-- Where a request stands (R19 to R22, R304, R244, R150). -/
inductive ReqSt where
  /-- Held at the huddle, not stamped (R244). -/
  | held
  /-- The input copy runs (R304). -/
  | copying
  /-- Waits for credits or spill capacity (R148, R150). -/
  | queued
  /-- At the rally sequencer: a member, or waiting for the next rally (R201). -/
  | rally
  | running
  /-- The output transfer runs (R304). -/
  | transfer
  deriving DecidableEq, Repr

/-- A request from admission to its completion (R304 to R313). -/
structure Req where
  chan : Nat
  seq : W32
  /-- Handle INDEX of the model and its entry. -/
  handle : Nat := 0
  entry : Nat := 0
  /-- The model epoch stamped at admission; 0 before. -/
  epoch : Nat := 0
  /-- EPOCH_POL and PIN_EPOCH. -/
  policy : Nat := 0
  pinEpoch : Nat := 0
  st : ReqSt := .queued
  /-- CLASS, NODL and the 64-bit deadline (R305, R317). -/
  cls : Nat := 2
  nodl : Bool := true
  deadline : Nat := 0
  demoted : Bool := false
  irq : Bool := false
  user : W32 := 0
  reqBase : Nat := 0
  inRef : Nat := 0
  inLen : Nat := 0
  outHost : Bool := false
  outRef : Nat := 0
  outLen : Nat := 0
  outOff : Nat := 0
  /-- The control complex that dispatches it (R19). -/
  cch : Half := .north
  /-- TASK_END messages counted, and the count the entry declares (R142). -/
  ends : Nat := 0
  need : Nat := 0
  /-- Spill capacity reserved (R150). -/
  spawn : Nat := 0
  /-- Status and template of the first failed task, poison (R309, R310). -/
  status : W16 := 0
  failTmpl : Nat := 0xFFFF
  poison : Bool := false
  /-- When it reached the huddle (R245). -/
  heldAt : Nat := 0
  /-- A rally member cancelled through its channel (R202). -/
  cancelled : Bool := false
  deriving DecidableEq, Repr

/-- A completion from its assignment until CQ_HEAD passes it (R309, R312). -/
structure Cpl where
  cseq : W32
  /-- SEQ, or RESV_SERIAL for a notice. -/
  seq : W32
  status : W16
  poison : Bool
  late : Bool
  demoted : Bool
  sustained : Bool
  notice : Bool
  epoch : W32
  endTime : Nat
  user : W32
  failTmpl : W16
  irq : Bool
  /-- Written to the queue. -/
  posted : Bool
  deriving DecidableEq, Repr

/-- A granted reservation (R318 to R320). -/
structure Resv where
  cls : Nat
  grade : Nat
  handle : Nat
  budget : Nat
  period : Nat
  serial : Nat
  /-- Start of its current, or of its first, period. -/
  start : Nat
  deriving DecidableEq, Repr

/-- What a channel keeps beside the registers of its page. -/
structure ChanSt where
  /-- Completions not freed, in order of CSEQ. -/
  cpls : List Cpl := []
  /-- REPLAY was written and HOLD has not cleared since (R316). -/
  replay : Bool := false
  /-- CQ_STALL has been raised for the stall in progress (R312). -/
  stalled : Bool := false
  /-- Completions posted since the last interrupt, and when the first was (R328). -/
  quiet : Nat := 0
  quietAt : Nat := 0
  /-- The reservation in force, and one granted whose first period has not begun (R320). -/
  resv : Option Resv := none
  next : Option Resv := none
  deriving DecidableEq, Repr

/-! ## Model images and rallies (chapters 8 and 9) -/

/-- A version of a handle: one image with its own model epoch (R220, R234). -/
structure Version where
  /-- Handle INDEX. -/
  handle : Nat
  epoch : Nat
  /-- STATE code of R234. -/
  st : Nat
  /-- The version that admission uses. -/
  current : Bool
  /-- The FETCH: who asked, and the message to answer. -/
  env : Env
  /-- SOURCE, source reference, length and port records of the FETCH (R238). -/
  src : Nat
  ref : Nat
  length : Nat
  records : List Byte
  /-- The source reference is kept (R239). -/
  hasSource : Bool
  runEarly : Bool
  keepT1 : Bool
  store : Bool
  unsigned : Bool := false
  damaged : Bool := false
  /-- Its key slot has been revoked (R233). -/
  revoked : Bool := false
  keySlot : Nat := 0
  /-- It differs from the current version outside WEIGHTS, SCALES and TRANSPOSED (R241). -/
  incompatible : Bool := false
  /-- Code word 0 and the manifest. -/
  header : List Byte
  manifest : List Byte
  /-- Manifest chunks held in T1, by number (R238). -/
  t1 : Store (Option (List Byte)) := []
  /-- T1 slots of the landing area, slot + half × 2^21. -/
  slots : List Nat := []
  /-- Manifest chunks landed and hashed; programmed; read back and hashed (R252). -/
  landed : List Nat := []
  programmed : List Nat := []
  verified : List Nat := []
  /-- Failed fetches of each chunk (R231). -/
  fails : Store Nat := []
  /-- The placement map: the CWA of each code word of the image; empty while it has none (R197). -/
  blocks : List Nat := []
  /-- End of the pin window, while it is open (R243). -/
  pinUntil : Option Nat := none
  /-- State recorded in the image catalogue (R235). -/
  recorded : Nat := 0
  deriving DecidableEq, Repr

/-- An image handle and the placement of its current version (R220, R227, R236, R241 to R245). -/
structure HandleSt where
  /-- INDEX. -/
  index : Nat
  /-- IMG_STAT.OWNER. -/
  owner : W16
  /-- Highest epoch given so far (R220). -/
  topEpoch : Nat := 0
  /-- Logical tile of each plan tile; empty while no version is placed (R227). -/
  tiles : List Nat := []
  /-- Physical mirrors of a Sustained placement. -/
  mirrors : List Nat := []
  /-- Placed with SUSTAINED. -/
  sustained : Bool := false
  /-- The bank that the next shadow replacement writes (R243). -/
  shadowB : Bool := true
  /-- IMG_STAT.REPL: 1 shadow, 2 in place, 3 streamed. -/
  repl : Nat := 0
  /-- The REPLACE in progress: message, PIN_WINDOW_MS. -/
  env : Option Env := none
  pinMs : Nat := 0
  /-- The huddle is closed (R244). -/
  huddle : Bool := false
  /-- Layers rewritten so far (R244). -/
  layer : Nat := 0
  /-- IMG_HOLD, IMG_ERR and IMG_REPAIR_CNT (R253). -/
  holdUs : Nat := 0
  err : W16 := 0
  refetch : Nat := 0
  reloc : Nat := 0
  /-- How it was placed by ACTIVATE: SUSTAINED and what its placement was given (R409 step 9). -/
  placed : Option (Bool × PlaceArgs) := none
  deriving DecidableEq, Repr

/-- A member of a rally (R201, R202). -/
structure Member where
  slot : Nat
  chan : Nat
  seq : W32
  deriving DecidableEq, Repr

/-- A rally (R201 to R204, R246). -/
structure Rally where
  members : List Member := []
  /-- When the first member joined, and whether GATHER has elapsed since. -/
  firstAt : Nat := 0
  gathered : Bool := false
  /-- The epoch under which it began, once the writes of its chunk 0 are issued. -/
  begun : Option Nat := none
  /-- It takes no further members (R246). -/
  closed : Bool := false
  chunk : Nat := 0
  /-- TASK_END messages counted. -/
  ends : Nat := 0
  /-- Failed or poisoned tasks: first slot, last slot, status, template, poison. -/
  fails : List (Nat × Nat × W16 × Nat × Bool) := []
  deriving DecidableEq, Repr

/-- One rally context (R196, R219). -/
structure RallyCtx where
  /-- Handle INDEX of its instance; none while unused. -/
  handle : Option Nat := none
  home : Half := .north
  running : Option Rally := none
  forming : Rally := {}
  /-- The bank of the chunk flipped to last. -/
  bank : Bool := true
  /-- The rally buffer (R202). -/
  buffer : Nat := 0
  /-- When a flip began to wait for RESTORE rows (R217). -/
  holdAt : Option Nat := none
  /-- Code words now read from a second source (R218). -/
  second : List Nat := []
  /-- Chunk and logical tile skewed in the last rally and in this one (R212). -/
  skewLast : List (Nat × Nat) := []
  skewNow : List (Nat × Nat) := []
  /-- Chunks whose scale blocks come from the weight store (R212). -/
  storeScales : List Nat := []
  /-- Chunks held in T1 and in T2 (R213), and those programmed since (R215). -/
  inT1 : List Nat := []
  inT2 : List Nat := []
  /-- RALLY_PERIOD, RALLY_STALL_CNT, RALLY_HOLD_CNT, RALLY_SKEW_CNT, RALLY_REMAP.DONE, RALLY_CNT (R219). -/
  periodNs : Nat := 0
  stalls : Nat := 0
  holds : Nat := 0
  expired : Nat := 0
  skews : Nat := 0
  remaps : Nat := 0
  count : Nat := 0
  deriving DecidableEq, Repr

/-- An adapter binding of a channel (R250). -/
structure Binding where
  chan : Nat
  handle : Nat
  slot : Nat
  rank : Nat
  aRef : Nat
  bRef : Nat
  alpha : W32
  tuneRef : Nat
  deriving DecidableEq, Repr

/-- What a mailbox keeps for one of its ends (R325, R331): its event registers, the message it composes, and the
messages that wait for it. -/
structure MbxEnd where
  raw : W32 := 0
  en : W32 := 0
  tx : Store W32 := []
  queue : List (List W32) := []
  /-- Replies of firmware that wait for a free place in the queue (R325, R326). -/
  late : List (List W32) := []
  deriving DecidableEq, Repr

/-- A host function as configuration space has it (R325, R332): enabled, in D3hot, bus mastering, under a function
level reset. -/
structure HostFn where
  enabled : Bool := false
  d3hot : Bool := false
  busMaster : Bool := false
  reset : Bool := false
  deriving DecidableEq, Repr

/-! ## The weight store (chapter 7) -/

/-- Where an erase stands (R175 to R178). -/
inductive ErasePhase where
  /-- Its intent record has not programmed. -/
  | waiting
  /-- Named by an intent record; not started. -/
  | intended
  | running
  /-- Running with a suspend held until 300 µs of progress. -/
  | held
  | suspended
  deriving DecidableEq, Repr

/-- A weight-store command from its posting to its status entry (R189, R190). -/
structure WsCmd where
  id : Nat
  half : Half
  tag : W32
  /-- 0 READ_REFILL, 1 READ_COPY, 2 PROGRAM, 3 ERASE. -/
  op : Nat
  prio : Nat
  stripe : Bool
  count : Nat
  cwa : Nat
  addr : Nat
  /-- Who posted it, and under which leadership token. -/
  mid : W16
  token : W32
  /-- Code words done. -/
  done : Nat
  /-- Its read has reached its plane, or its program of code word `done` has begun. -/
  begun : Bool
  status : W16
  maxCorr : Nat
  maxIndex : Nat
  uncorr : Bool
  partially : Bool
  unwritten : Bool
  weak : Bool
  loops : Nat
  firstBad : Option Nat
  /-- The sense in progress has failed once (R187). -/
  retried : Bool
  /-- Bytes of a scale run read so far, and which code words came poisoned. -/
  buf : List Byte
  bufPoison : List Bool
  erase : ErasePhase
  /-- Time the erase started or last resumed. -/
  since : Nat
  deriving DecidableEq, Repr

/-- A frame held at a closed gate (R200): the command that read it, its half and gate, and the code word. -/
structure GatedFrame where
  cmd : Nat
  half : Half
  gate : Nat
  index : Nat
  frame : RowFrame ⊕ ScaleFrame
  deriving DecidableEq, Repr

/-- The weight store and its two controllers. -/
structure Weights where
  /-- Written code words by CWA: their 16,384 data bytes (R163, R172). -/
  cws : Store (Option (List Byte)) := []
  /-- Retired blocks, CWA ÷ 256: the bad-block logs (R174). -/
  retired : List Nat := []
  /-- Next RSEQ of each die (R178). -/
  rseq : Store Nat := []
  /-- Partially erased blocks in block-state memory, CWA ÷ 256 (R179). -/
  partials : List Nat := []
  cmds : List WsCmd := []
  /-- Names of commands given out. -/
  ids : Nat := 0
  /-- Status entries waiting, oldest first (R190). -/
  stsN : List (W64 × W64) := []
  stsS : List (W64 × W64) := []
  /-- Weak FIFOs: CWA and corrected bits (R170). -/
  weakN : List (Nat × Nat) := []
  weakS : List (Nat × Nat) := []
  /-- Open gates: half and gate (R200). -/
  gates : List (Half × Nat) := []
  gated : List GatedFrame := []
  /-- Failures for R187: block, program or read, time. -/
  errs : List (Nat × Bool × Nat) := []
  /-- Bond transfers in a row that failed their parity, by die (R187). -/
  bond : Store Nat := []
  /-- Planes in which no erase starts before a time (R177): CWA ÷ 2^14 and the time. -/
  noErase : List (Nat × Nat) := []
  /-- An identity-row program in progress: the field and its bytes (R182). -/
  idBusy : Option (Nat × List Byte) := none
  deriving DecidableEq, Repr


/-! ## Power, thermal and always-on state (chapters 15 and 17) -/

/-- The power state of a half (R382 to R391). -/
structure HalfPower where
  /-- PWR_STAT.LVL (R404). -/
  level : Level := .run
  /-- PWR_STAT.MOVING (R404). -/
  moving : Moving := .still
  /-- A wake arrived during the entry (R391). -/
  lateWake : Bool := false
  /-- Time since when the half has been idle (R384). -/
  idleSince : Nat := 0
  deriving DecidableEq, Repr

/-- A save of R392: its six groups as (BAR0 offset, word) pairs, and the boot context's areas. -/
structure Save where
  groups : List (List (Nat × W32))
  votes : List (W16 × Nat × Nat)
  runArea : Bool
  nextArea : Bool
  fwVersion : W32
  deriving DecidableEq, Repr

/-- A thermal sensor (R434): the reading in use, in 0.125 °C units, and whether it has failed. -/
structure Sensor where
  temp : Int := 0
  failed : Bool := false
  deriving DecidableEq, Repr

/-- Where the machine stands between resets (R406 to R416). -/
inductive Phase where
  /-- The condition of the reset source holds (R408). -/
  | resetHeld
  /-- Start-up before step 10 of R409. -/
  | starting
  /-- Step 10 reached (R409). -/
  | ready
  /-- ROM recovery (R414). -/
  | romRecovery
  /-- Start-up stopped with STAGE 15 (R416). -/
  | failed
  /-- The device is at OFF (R394). -/
  | off
  deriving DecidableEq, Repr

/-! ## Ports (chapter 13) -/

/-- One end of a ring link (R338): what its sender and its receiver keep. -/
structure RingPort where
  /-- FSEQ of the next new flit. -/
  fseq : Nat := 0
  /-- FSEQs in the replay buffer, oldest first. -/
  unacked : List Nat := []
  /-- The FSEQ that the receiver expects. -/
  expect : Nat := 0
  /-- Replays of the oldest flit in a row. -/
  replays : Nat := 0
  /-- Credits that the partner has returned, by virtual channel. -/
  credits : Store Nat := []
  /-- Packets held for the link (R340, R346). -/
  waiting : List RingPkt := []
  /-- When the link trained; none while it is down. -/
  trainedAt : Option Nat := none
  deriving DecidableEq, Repr

/-- What a node of the Cibel Ring keeps beside its ring pages (R339 to R346). -/
structure Ring where
  portA : RingPort := {}
  portB : RingPort := {}
  /-- Node IDs and serials in ring order (R343). -/
  nodes : List (Nat × Nat) := []
  /-- At the head: IDs given since the ring was numbered, with their serials (R344). -/
  serials : List (Nat × Nat) := []
  /-- At the head: JOINs that wait for ENUM_DONE, in order of arrival (R344). -/
  joins : List Nat := []
  /-- Packets not acknowledged by their destination, with the port they left by (R340). -/
  kept : List (Nat × RingPkt) := []
  /-- Next ESEQ to send, by 4 × DST + VC, and next to accept, by 4 × SRC + VC (R340). -/
  txSeq : Store Nat := []
  rxSeq : Store Nat := []
  /-- Nodes that left the map, and when (R340). -/
  left : List (Nat × Nat) := []
  /-- When the last BEACON arrived (R343). -/
  beaconAt : Option Nat := none
  /-- A head that met one of a lower seed and acts as an ordinary node (R344). -/
  ordinary : Bool := false
  /-- When ENUM was last sent, and whether it went out of Ring A (R343). -/
  enumAt : Option Nat := none
  second : Bool := false
  /-- Reads sent through BAR4 and not completed: tag, MID, offset in BAR4 (R347). -/
  reads : List (Nat × W16 × Nat) := []
  /-- Tags given out. -/
  tags : Nat := 0
  deriving DecidableEq, Repr

/-- A queue pair of an image fetch port (R352, R353). -/
structure Qp where
  port : Nat
  qpn : Nat
  /-- The FETCH it serves: handle INDEX and epoch. -/
  handle : Nat
  epoch : Nat
  /-- The packet sequence number it expects. -/
  psn : Nat
  /-- Its rate, in kB/s. -/
  rate : Nat
  /-- When the last congestion notification arrived or the rate last rose. -/
  paceAt : Nat
  /-- Payload of the READ in progress that has landed. -/
  land : List Byte
  deriving DecidableEq, Repr

/-! ## Leadership and firmware (chapter 14) -/

/-- What a referee replica keeps beside its page (R357, R360, R373). -/
structure Replica where
  /-- When it last heard its peer over the always-on link. -/
  heardAt : Nat := 0
  /-- When it entered PARTITIONED. -/
  partAt : Nat := 0
  /-- It answers nobody. -/
  silent : Bool := false
  /-- Times of its failed restarts (R373). -/
  restarts : List Nat := []
  /-- It stays out until device reset (R373). -/
  out : Bool := false
  /-- Its EXP was set by a half fence or a YIELD (R362, R364): what LAST_CAUSE will read. -/
  cause : Nat := 1
  deriving DecidableEq, Repr

/-- What a control complex keeps beside its page. -/
structure Complex where
  /-- EXP as it last learned it (R359). -/
  exp : Nat := 0
  /-- Consecutive heartbeats of the other one missed on every path (R367). -/
  missed : Nat := 0
  /-- When its own heartbeat last left (R367). -/
  beatAt : Nat := 0
  /-- When its watchdog expired (R406). -/
  dogAt : Option Nat := none
  /-- Code words of the boot area in its buffer, most recently used first (R184). -/
  buffer : List Nat := []
  /-- Its outbound ports are closed (R362). -/
  closed : Bool := false
  /-- FENCE.RELEASE was written on its page and the return of R372 runs. -/
  returning : Bool := false
  deriving DecidableEq, Repr

/-- A live firmware update in progress (R374 to R376). -/
structure Update where
  env : Env
  image : List Byte
  version : W32
  /-- The step of R375 that runs, 1 to 7. -/
  step : Nat
  /-- The area being written. -/
  area : Nat
  /-- The half that led when the update began. -/
  leader : Half
  deriving DecidableEq, Repr

/-- The AON boot context (R392, R413). -/
structure BootCtx where
  held : Bool := false
  running : Nat := 0
  next : Nat := 0
  version : W32 := 0
  deriving DecidableEq, Repr

/-- What leaves the block at a host port, the ring or Ethernet, in order. -/
inductive Out where
  /-- Data of a register read (R29, R75). -/
  | readData (mid : W16) (off : Nat) (value : W32)
  /-- Data of a read through BAR2, with its poison mark (R41, R274). -/
  | bar2Data (mid : W16) (addr : Nat) (bytes : List Byte) (poison : Bool)
  /-- Completer Abort (R41). -/
  | completerAbort (mid : W16) (addr : Nat)
  /-- A write into host memory (R268, R311, R312); `poison` names the 64-byte granules sent poisoned (R276, R277). -/
  | hostWrite (mid : W16) (addr : Nat) (bytes : List Byte) (poison : List Nat)
  /-- A read of host memory (R308). -/
  | hostRead (mid : W16) (addr : Nat) (len : Nat)
  /-- An MSI-X message: function and vector (R327). -/
  | msix (mid : W16) (vector : Nat)
  /-- A ring packet (R339). -/
  | ring (port : Nat) (p : RingPkt)
  /-- A ring control packet: its TYPE and what it carries (R339, R340, R343, R344, R349). -/
  | control (port : Nat) (ty : Nat) (args : List Nat)
  /-- ACK and NAK in the DLP bytes of the next flit (R338). -/
  | flitAck (port : Nat) (ack : Nat) (nak : Bool)
  /-- A WAKE ordered set toward a node (R349). -/
  | wakeSet (port : Nat) (node : Nat)
  /-- A request of an image fetch port (R353): queue pair and packet sequence number. -/
  | rdmaRead (port : Nat) (qpn : Nat) (psn : Nat)
  deriving DecidableEq, Repr

/-! ## The machine -/

/-- The whole state. -/
structure State where
  pins : Pins := {}
  fuses : Fuses := {}
  /-- The phase between resets (R406 to R416). -/
  phase : Phase := .starting
  /-- The device timer (R314). -/
  timer : Nat := 0
  /-- The fractional accumulator of the timer at OFF (R399). -/
  timerFrac : Nat := 0
  /-- The register file, keyed by BAR0 offset; an unlisted register holds its reset word (R26, R38). -/
  regs : Store W32 := []
  /-- Latched words of paired reads, keyed by the BAR0 offset they answer at (R75, R108). -/
  latched : Store (Option W32) := []
  /-- Causes kept for a fence, by page number: cause and whether its repair path has completed (R438). -/
  causes : Store (List (Nat × Bool)) := []
  /-- MID of the last write rejected for a stale token, by page number (R33). -/
  staleMid : Store (Option W16) := []
  /-- The tiles, by physical ID (R14). -/
  tiles : Store Tile := []
  /-- Tile SRAM, keyed by physical ID × 65,536 + offset (R253, R257). -/
  sram : Store Byte := []
  /-- Poisoned 64-byte granules of tile SRAM, keyed by physical ID × 1,024 + granule (R276). -/
  sramPoison : Store Bool := []
  /-- Mesh and bridge messages in flight (R156). -/
  mesh : List Msg := []
  /-- Row frames on the refill row buses (R199). -/
  rowBus : List RowFrame := []
  /-- Scale frames on the refill row buses (R199). -/
  scaleBus : List ScaleFrame := []
  /-- The device range and its home table (R254 to R273). -/
  range : Range := {}
  /-- The compressors and expanders (R282 to R298). -/
  zip : Zip := {}
  /-- Templates of layers with CS4 packed inputs (R225, R295): handle INDEX, first template, number. -/
  packed : List (Nat × Nat × Nat) := []
  /-- Adapter bindings, oldest first (R250). -/
  bindings : List Binding := []
  /-- Requests admitted and not completed, in the order of acceptance (R308). -/
  reqs : List Req := []
  /-- What each channel keeps beside its page (R299 to R330). -/
  chans : Store ChanSt := []
  /-- Highest reservation serial issued (R318). -/
  serials : Nat := 0
  /-- Image handles and their versions (R220). -/
  handles : List HandleSt := []
  versions : List Version := []
  /-- The 16 rally contexts (R196). -/
  rallies : Store RallyCtx := []
  /-- RALLY_SEL and IMG_SEL of each requester, by offset × 65,536 + MID (R219, R253). -/
  selects : Store W32 := []
  /-- Image commands and reservation decisions that wait for a lease (R364, R373). -/
  deferred : List Instr := []
  /-- The weight store and its controllers (R163 to R194). -/
  ws : Weights := {}
  /-- Mailbox ends, keyed by 2 × mailbox + end (R325). -/
  mail : Store MbxEnd := []
  /-- Host functions of this device, keyed by 16 × port + function (R325). -/
  hostFns : Store HostFn := []
  /-- T1 slots with uncorrectable granules: half × 2^21 + slot, and when (R281, R366). -/
  badSlots : List (Nat × Nat) := []
  /-- Last command/address parity error of each board-memory channel, as time + 1; 0 for none (R281). -/
  parity : Store Nat := []
  /-- The two halves' power state: north, south (R382). -/
  powerN : HalfPower := {}
  powerS : HalfPower := {}
  /-- PF_VOTE slots: MID, north floor, south floor (R387). -/
  votes : List (W16 × Nat × Nat) := []
  /-- The last 100 power samples, newest first, in 0.01 W (R397). -/
  samples : List Nat := []
  /-- Consecutive samples below CAP_W − 4 W (R397). -/
  lowSamples : Nat := 0
  /-- The node's part of the Cibel Ring (R336 to R349). -/
  ring : Ring := {}
  /-- Queue pairs in use at the image fetch ports (R352). -/
  qps : List Qp := []
  /-- Writes that wait for a host link to return to L0, by port, oldest first (R334). -/
  heldOut : Store (List Out) := []
  /-- The referee replicas RF-N and RF-S (R357). -/
  replicaN : Replica := {}
  replicaS : Replica := {}
  /-- The control complexes CC-N and CC-S (R355). -/
  complexN : Complex := {}
  complexS : Complex := {}
  /-- The live firmware update in progress (R375). -/
  update : Option Update := none
  /-- The AON boot context (R413). -/
  boot : BootCtx := {}
  /-- Versions whose restore is pending: handle INDEX and epoch (R418). -/
  restores : List (Nat × Nat) := []
  /-- When the internal reset was last released (R409). -/
  releasedAt : Nat := 0
  /-- The 48 thermal sensors (R434). -/
  sensors : Store Sensor := []
  /-- The save in always-on SRAM (R392). -/
  save : Option Save := none
  /-- The power record of R394 in the firmware catalogue. -/
  record : Option (Store W32) := none
  /-- The free-value counter (the model's own): the next draw's number. -/
  free : Nat := 0
  /-- What has left the block, oldest first. -/
  out : List Out := []
  /-- The commands that wait, first in, first out. -/
  pending : List Instr := []
  deriving DecidableEq, Repr

/-- Why the machine stops. No command of this block stops it: every rule of the spec names an effect. -/
inductive Fault where
  /-- Raised by nothing: the spec gives the block no stop. Safe. -/
  | none
  deriving DecidableEq, Repr

/-- Why a command has no meaning in this model. -/
inductive Refusal where
  /-- An arm of `exec` that has no meaning yet. Raised by such arms only. Safe. -/
  | notModelled (mnemonic : String)
  deriving DecidableEq, Repr

/-- The machine right after a power-on reset, its internal reset just released (R406 to R410). -/
def State.reset : State := {}

end Sys2Proof.Machine
end

