-- ==== Sys2Proof/Machine/Ops.lean ====
section
/-! DEFINITION. The named operations over sparse stores, pages, registers, events and fences that every meaning is
made of. -/

namespace Sys2Proof.Machine

/-! ## Sparse stores -/

/-- The value at a key; an unlisted key reads as `d`. -/
def sget {α : Type} (d : α) (k : Nat) : Store α → α
  | [] => d
  | (j, v) :: t => if j = k then v else sget d k t

/-- Put a pair at its place. -/
def sins {α : Type} (k : Nat) (v : α) : Store α → Store α
  | [] => [(k, v)]
  | (j, w) :: t => if k < j then (k, v) :: (j, w) :: t else if k = j then (k, v) :: t else (j, w) :: sins k v t

/-- Remove a key. -/
def sdel {α : Type} (k : Nat) (m : Store α) : Store α := m.filter fun p => decide (p.1 ≠ k)

/-- Write a key, keeping the canonical form: the value an unlisted key reads as is not listed. -/
def sset {α : Type} [DecidableEq α] (d : α) (k : Nat) (v : α) (m : Store α) : Store α :=
  if v = d then sdel k m else sins k v m

/-- Keys strictly rise, from `lo` on, and no value is the one its unlisted key reads as. -/
def swf {α : Type} [DecidableEq α] (d : Nat → α) : Nat → Store α → Bool
  | _, [] => true
  | lo, (k, v) :: t => decide (lo ≤ k) && decide (v ≠ d k) && swf d (k + 1) t

/-- Write consecutive keys, the last first, so that each insertion stands near the front. -/
def ssetAll {α : Type} [DecidableEq α] (d : α) (k : Nat) : List α → Store α → Store α
  | [], m => m
  | v :: vs, m => sset d k v (ssetAll d (k + 1) vs m)

/-- Read consecutive keys. -/
def sgetAll {α : Type} (d : α) (k : Nat) : Nat → Store α → List α
  | 0, _ => []
  | n + 1, m => sget d k m :: sgetAll d (k + 1) n m

/-- Drop every pair whose key lies in [lo, hi). -/
def sclear {α : Type} (lo hi : Nat) (m : Store α) : Store α := m.filter fun p => decide (p.1 < lo ∨ hi ≤ p.1)

/-! ## Arithmetic helpers -/

/-- Add and stay at the field's largest value (saturating counters). -/
def satAdd (width a b : Nat) : Nat := min (a + b) (2 ^ width - 1)

/-- The value of a two's-complement number of `width` bits. -/
def toSigned (width v : Nat) : Int :=
  if v % 2 ^ width < 2 ^ (width - 1) then (v % 2 ^ width : Nat) else (v % 2 ^ width : Nat) - (2 ^ width : Nat)

/-- Two's complement in `width` bits. -/
def ofSigned (width : Nat) (v : Int) : Nat := (v % (2 ^ width : Nat)).toNat

/-- Units of `size` that hold n. -/
def unitsOf (size n : Nat) : Nat := n / size + (if n % size = 0 then 0 else 1)

/-- Bits [lo+width-1:lo] of a number. -/
def bitsOf (v lo width : Nat) : Nat := v / 2 ^ lo % 2 ^ width

/-- Little-endian bytes of a number (R8). -/
def leBytes : Nat → Nat → List Byte
  | 0, _ => []
  | n + 1, v => BitVec.ofNat 8 v :: leBytes n (v / 256)

/-- The number that little-endian bytes spell (R8). -/
def leNat : List Byte → Nat
  | [] => 0
  | b :: t => b.toNat + 256 * leNat t

/-- The element at an index, or a default. -/
def nth {α : Type} (d : α) (l : List α) (i : Nat) : α := (l[i]?).getD d

/-! ## Pages -/

/-- The number of a half: 0 north, 1 south (R14). -/
def Half.num : Half → Nat
  | .north => 0
  | .south => 1

/-- The other half. -/
def Half.other : Half → Half
  | .north => .south
  | .south => .north

/-- The half of a number. -/
def halfOf (n : Nat) : Half := if n = 0 then .north else .south

/-- A page's BAR0 offset ÷ 0x1000 (R38). -/
def pageNum : Page → Nat
  | .cap => 0
  | .cc h => 1 + Half.num h
  | .wsc h => 3 + Half.num h
  | .mig h => 5 + Half.num h
  | .d2d h => 7 + Half.num h
  | .rf h => 9 + Half.num h
  | .hp i => 0xB + i.val
  | .rg i => 0xD + i.val
  | .eth i => 0xF + i.val
  | .pmu => 0x11
  | .thm => 0x12
  | .sec => 0x13
  | .dbg => 0x14
  | .fus => 0x15
  | .aon => 0x16
  | .die n => 0x20 + n.val
  | .bm n => 0x30 + n.val
  | .mbx m => 0x100 + m.val
  | .chan c => 0x800 + c.val
  | .tile p => 0x1000 + p.val

/-- The page that holds a BAR0 page number, if any (R38, R39). -/
def pageAt (n : Nat) : Option Page :=
  if n = 0 then some .cap
  else if n ≤ 2 then some (.cc (halfOf (n - 1)))
  else if n ≤ 4 then some (.wsc (halfOf (n - 3)))
  else if n ≤ 6 then some (.mig (halfOf (n - 5)))
  else if n ≤ 8 then some (.d2d (halfOf (n - 7)))
  else if n ≤ 0xA then some (.rf (halfOf (n - 9)))
  else if n ≤ 0xC then some (.hp (Fin.ofNat 2 (n - 0xB)))
  else if n ≤ 0xE then some (.rg (Fin.ofNat 2 (n - 0xD)))
  else if n ≤ 0x10 then some (.eth (Fin.ofNat 2 (n - 0xF)))
  else if n = 0x11 then some .pmu
  else if n = 0x12 then some .thm
  else if n = 0x13 then some .sec
  else if n = 0x14 then some .dbg
  else if n = 0x15 then some .fus
  else if n = 0x16 then some .aon
  else if 0x20 ≤ n ∧ n < 0x28 then some (.die (Fin.ofNat 8 (n - 0x20)))
  else if 0x30 ≤ n ∧ n < 0x40 then some (.bm (Fin.ofNat 16 (n - 0x30)))
  else if 0x100 ≤ n ∧ n < 0x140 then some (.mbx (Fin.ofNat 64 (n - 0x100)))
  else if 0x800 ≤ n ∧ n < 0xA00 then some (.chan (Fin.ofNat 512 (n - 0x800)))
  else if 0x1000 ≤ n ∧ n < 0x1420 then some (.tile (Fin.ofNat 1056 (n - 0x1000)))
  else none

/-- BLK_ID.TYPE (R17, R43 to R46, R73, R192, R194, R278, R281, R299, R331, R335, R350, R354, R379, R380, R403, R405,
R436). -/
def pageType : Page → Nat
  | .cap => 0x0001
  | .cc _ => 0x0010
  | .wsc _ => 0x0030
  | .mig _ => 0x0040
  | .d2d _ => 0x0080
  | .rf _ => 0x0090
  | .hp _ => 0x0070
  | .rg _ => 0x0071
  | .eth _ => 0x0072
  | .pmu => 0x00A0
  | .thm => 0x00A2
  | .sec => 0x00B0
  | .dbg => 0x00B1
  | .fus => 0x00B2
  | .aon => 0x00A1
  | .die _ => 0x0031
  | .bm _ => 0x0048
  | .mbx _ => 0x0060
  | .chan _ => 0x0050
  | .tile _ => 0x0020

/-- BLK_CAP.SHARED (R26 and the rules of `pageType`). -/
def pageShared : Page → Bool
  | .cc _ | .wsc _ | .mig _ | .d2d _ | .pmu | .sec | .die _ | .bm _ | .tile _ => true
  | .cap | .rf _ | .hp _ | .rg _ | .eth _ | .thm | .dbg | .fus | .aon | .mbx _ | .chan _ => false

/-- The half of a tile (R14). -/
def tileHalf (p : Nat) : Half := if p < 528 then .north else .south

/-- The half a page belongs to (R14, R16). -/
def pageHalf : Page → Half
  | .cc h | .wsc h | .mig h | .d2d h | .rf h => h
  | .hp i | .eth i => halfOf i.val
  | .die n => if n.val < 4 then .north else .south
  | .bm n => if n.val < 8 then .north else .south
  | .tile p => tileHalf p.val
  | _ => .north

/-- Instance number (R26). -/
def pageInstance : Page → Nat
  | .cc h | .wsc h | .mig h | .d2d h | .rf h => Half.num h
  | .hp i | .rg i | .eth i => i.val
  | .die n => n.val
  | .bm n => n.val
  | .mbx m => m.val
  | .chan c => c.val
  | .tile p => p.val
  | _ => 0

/-- BLK_CAP.PRESENT: the unit exists and is enabled in this bin (R3, R4, R16, R17, R26, R42). -/
def present (s : State) : Page → Bool
  | .tile p => decide (s.fuses.sizeClass.val < 2 ∨ p.val < 528) && !(s.fuses.offTiles.contains p.val)
  | .die n =>
    if s.fuses.sizeClass.val = 0 then true
    else if s.fuses.sizeClass.val = 1 then decide (n.val % 4 < 3)
    else decide (n.val < 4)
  | .bm n => decide (s.fuses.sizeClass.val < 2 ∨ n.val < 8)
  | .d2d _ => decide (s.fuses.sizeClass.val < 2)
  | .cc h | .wsc h | .mig h | .rf h => decide (s.fuses.sizeClass.val < 2 ∨ h = .north)
  | .hp i | .eth i => decide (s.fuses.sizeClass.val < 2 ∨ i.val = 0)
  | _ => true

/-- A size of the capability page by bin (R4, R42). -/
def sizeEntry (s : State) (cs6120 cs6090 cs6060 : Nat) : Nat :=
  if s.fuses.sizeClass.val = 0 then cs6120 else if s.fuses.sizeClass.val = 1 then cs6090 else cs6060

/-- Maximum Sustained channels (R4). -/
def sustainedMax (s : State) : Nat := sizeEntry s 16 16 0

/-- The tile is a bench tile by the fuse map (R15). -/
def isBench (s : State) (p : Nat) : Bool := s.fuses.bench.contains p

/-! ## Registers -/

/-- Fields of a page whose reset value is not 0, from the register tables. -/
def resetFields : Page → List Field
  | .tile _ => [Reg.TILE_ARRAY_CFG_SKIP_EN, Reg.TILE_PP_CFG_SWEEP_EN, Reg.TILE_BENCH_MAP_LOGICAL,
      Reg.TILE_BENCH_MAP_REPLACED, Reg.TILE_DQ_CFG_STEAL_EN, Reg.TILE_DQ_CFG_GIVE_EN, Reg.TILE_DQ_CFG_RADIUS,
      Reg.TILE_DQ_CFG_BO_MAX, Reg.TILE_VEC_LIMIT_CLOCKS]
  | .wsc _ => [Reg.WSC_WSC_CFG_CORR_WARN, Reg.WSC_WSC_CFG_LOOP_WARN, Reg.WSC_WSC_SCHED_PROG_PLANES,
      Reg.WSC_WSC_SCHED_ERASE_MAX]
  | .cc _ => [Reg.CC_RALLY_SRC_FIRST_T1, Reg.CC_RALLY_SRC_FIRST_T2]
  | .mig _ => [Reg.MIG_T1_RSV_MIB]
  | .chan _ => [Reg.CHAN_CHAN_CFG_SQ_LOG2, Reg.CHAN_CHAN_CFG_CQ_LOG2, Reg.CHAN_CHAN_IRQ_COAL_CNT,
      Reg.CHAN_RESV_CMD_CLASS, Reg.CHAN_RESV_STAT_CLASS]
  | .pmu => [Reg.PMU_PWR_CFG_TILE_TARGET, Reg.PMU_PWR_CFG_HALF_TARGET, Reg.PMU_PWR_DWELL_TILE_US,
      Reg.PMU_PWR_DWELL_HALF_US, Reg.PMU_CAP_CFG_CAP_W]
  | .thm => [Reg.THM_THM_ALARM_TEMP]
  | _ => []

/-- The reset word of the register at an offset of a page. -/
def resetWordAt (fs : List Field) (off : Nat) : Nat :=
  match fs with
  | [] => 0
  | f :: t => (if f.off = off then f.reset % 2 ^ f.width * 2 ^ f.lo else 0) + resetWordAt t off

/-- The reset word of a BAR0 register (R26). -/
def resetWord (a : Nat) : W32 :=
  match pageAt (a / 0x1000) with
  | some p => BitVec.ofNat 32 (resetWordAt (resetFields p) (a % 0x1000))
  | none => 0

/-- The stored word of a register. -/
def regWord (s : State) (a : Nat) : W32 := sget (resetWord a) a s.regs

/-- Store a register word. -/
def setRegWord (a : Nat) (w : W32) (s : State) : State := { s with regs := sset (resetWord a) a w s.regs }

/-- BAR0 offset of a page's register. -/
def regAddr (p : Page) (off : Nat) : Nat := pageNum p * 0x1000 + off

/-- Put `v` in bits [lo+width-1:lo] of a word. -/
def putBits (w : W32) (lo width v : Nat) : W32 :=
  BitVec.ofNat 32 (w.toNat % 2 ^ lo + v % 2 ^ width * 2 ^ lo + w.toNat / 2 ^ (lo + width) * 2 ^ (lo + width))

/-- Read a field. -/
def fget (p : Page) (f : Field) (s : State) : Nat := bitsOf (regWord s (regAddr p f.off)).toNat f.lo f.width

/-- Write a field. -/
def fset (p : Page) (f : Field) (v : Nat) (s : State) : State :=
  setRegWord (regAddr p f.off) (putBits (regWord s (regAddr p f.off)) f.lo f.width v) s

/-- Read the i-th of a run of registers. -/
def fgetI (p : Page) (f : Field) (i : Nat) (s : State) : Nat :=
  bitsOf (regWord s (regAddr p (f.off + 4 * i))).toNat f.lo f.width

/-- Write the i-th of a run of registers. -/
def fsetI (p : Page) (f : Field) (i v : Nat) (s : State) : State :=
  setRegWord (regAddr p (f.off + 4 * i)) (putBits (regWord s (regAddr p (f.off + 4 * i))) f.lo f.width v) s

/-- A counter that wraps at its width (R76, R109). -/
def wrapInc (p : Page) (f : Field) (n : Nat) (s : State) : State := fset p f (fget p f s + n) s

/-- A counter that saturates at its width. -/
def satInc (p : Page) (f : Field) (n : Nat) (s : State) : State := fset p f (satAdd f.width (fget p f s) n) s

/-- A 64-bit counter in two registers (R75). -/
def wideInc (p : Page) (lo hi : Field) (n : Nat) (s : State) : State :=
  let v := fget p lo s + 2 ^ 32 * fget p hi s + n
  fset p hi (v / 2 ^ 32) (fset p lo v s)

/-- Set a 64-bit value in two registers. -/
def wideSet (p : Page) (lo hi : Field) (v : Nat) (s : State) : State := fset p hi (v / 2 ^ 32) (fset p lo v s)

/-- The 64-bit value of two registers. -/
def wideGet (p : Page) (lo hi : Field) (s : State) : Nat := fget p lo s + 2 ^ 32 * fget p hi s

/-- Word i of a command of four 64-bit words. -/
def cmdWord (q : Cmd4) (i : Nat) : Nat :=
  let w := if i / 2 = 0 then q.q0 else if i / 2 = 1 then q.q1 else if i / 2 = 2 then q.q2 else q.q3
  w.toNat / 2 ^ (32 * (i % 2)) % 2 ^ 32

/-- The eight command registers of a path hold the words written to them (R189, R279, R298, R330). -/
def storeCmd (p : Page) (off : Nat) (q : Cmd4) (s : State) : State :=
  (List.range 8).foldl (fun s i => setRegWord (regAddr p (off + 4 * i)) (BitVec.ofNat 32 (cmdWord q i)) s) s

/-! ## What leaves, and free values -/

/-- Something leaves. -/
def push (o : Out) (s : State) : State := { s with out := s.out ++ [o] }

/-- MIDs of this device's host functions carry its node ID once it has joined (R37). -/
def nodeId (s : State) : Nat :=
  if fget (.rg 0) Reg.RG_RING_STAT_STATE s = 2 then fget (.rg 0) Reg.RG_RING_STAT_NODE_ID s else 0

/-- A write toward a host of this device waits while its link is below L0 (R334). -/
def hostWaits (mid : W16) (s : State) : Bool :=
  decide (fget (.hp (Fin.ofNat 2 (bitsOf mid.toNat 5 3))) Reg.HP_HP_LINK_PM s ≠ 0)

/-- Hold a write for its port. -/
def holdOut (mid : W16) (o : Out) (s : State) : State :=
  let p := bitsOf mid.toNat 5 3
  { s with heldOut := sset [] p (sget [] p s.heldOut ++ [o]) s.heldOut }

/-- An interrupt write leaves, or waits for its link. -/
def sendIrq (mid : W16) (vec : Nat) (s : State) : State :=
  if bitsOf mid.toNat 8 5 = nodeId s ∧ hostWaits mid s = true then holdOut mid (.msix mid vec) s else push (.msix mid vec) s

/-- Put a message on the mesh. -/
def send (m : Msg) (s : State) : State := { s with mesh := s.mesh ++ [m] }

/-- The message has arrived: the first equal one leaves the mesh. -/
def arrive (m : Msg) (s : State) : State := { s with mesh := s.mesh.erase m }

/-- Count one draw of a free value. -/
def draw (s : State) : State := { s with free := s.free + 1 }

/-- The device timer has reached `t` (an event that falls due at a time). -/
def reach (t : Nat) (s : State) : State := { s with timer := max s.timer t }

/-! ## Tiles -/

/-- The tile of a physical ID. -/
def tileOf (p : Nat) (s : State) : Tile := sget {} p s.tiles

/-- Replace a tile. -/
def setTile (p : Nat) (t : Tile) (s : State) : State := { s with tiles := sset {} p t s.tiles }

/-- Change a tile. -/
def modTile (p : Nat) (f : Tile → Tile) (s : State) : State := setTile p (f (tileOf p s)) s

/-- A bank of a tile: false A, true B. -/
def Tile.bank (t : Tile) (b : Bool) : Bank := if b then t.bankB else t.bankA

/-- Replace a bank. -/
def Tile.setBank (t : Tile) (b : Bool) (k : Bank) : Tile := if b then { t with bankB := k } else { t with bankA := k }

/-- A subarray of a tile, index 8 × bank + s. -/
def Tile.sub (t : Tile) (i : Nat) : Sub := sget {} i t.subs

/-- Replace a subarray. -/
def Tile.setSub (t : Tile) (i : Nat) (u : Sub) : Tile := { t with subs := sset {} i u t.subs }

/-- The index of a bank. -/
def bankNum (b : Bool) : Nat := if b then 1 else 0

/-- The page of a physical tile ID. -/
def tilePage (p : Nat) : Page := .tile (Fin.ofNat 1056 p)

/-- The logical number a tile serves, 0x7FF for none (R134). -/
def logicalOf (p : Nat) (s : State) : Nat := fget (tilePage p) Reg.TILE_BENCH_MAP_LOGICAL s

/-- The physical tile among `ps` that serves a logical number and is no mirror, if any (R127, R130). -/
def findTile (l : Nat) (s : State) : List Nat → Option Nat
  | [] => none
  | p :: t =>
    if logicalOf p s = l ∧ ¬(fget (tilePage p) Reg.TILE_MIRROR_MAP_VALID s = 1 ∧
        fget (tilePage p) Reg.TILE_MIRROR_MAP_ROLE s = 1) then some p
    else findTile l s t

/-- Physical tiles whose BENCH_MAP register has been written, from the register file. -/
def mappedTiles (s : State) : List Nat :=
  (s.regs.filter fun r => decide (0x1000000 ≤ r.1 ∧ r.1 % 0x1000 = 0x350)).map fun r => r.1 / 0x1000 - 0x1000

/-- The tile that serves a logical number (R127, R129). -/
def serving (l : Nat) (s : State) : Option Nat := findTile l s (mappedTiles s)

/-! ## Events and interrupts -/

/-- EVT_STAT: EVT_RAW AND EVT_EN (R26). -/
def evtStat (p : Page) (s : State) : Nat := fget p Reg.EVT_RAW_RAW s &&& fget p Reg.EVT_EN_EN s

/-- The MID of a host function of this device (R37). -/
def hostMid (s : State) (port function : Nat) : W16 := BitVec.ofNat 16 (nodeId s * 256 + port * 32 + function)

/-- Vector 0 of the physical function of each host port that enables device events (R327). -/
def deviceInterrupt (s : State) : State :=
  let one := fun (i : Fin 2) (s : State) =>
    if present s (.hp i) = true ∧ fget (.hp i) Reg.HP_HP_CFG_DEV_EVT_EN s = 1
    then sendIrq (hostMid s i.val 0) 0 s else s
  one 1 (one 0 s)

/-- Send a function's MSI-X vector; one at or above the function's table size acts as vector 0 (R327). -/
def interrupt (mid : W16) (vec : Nat) (s : State) : State :=
  sendIrq mid (if vec < (if mid.toNat % 16 = 0 then 2048 else 256) then vec else 0) s

/-- The interrupt of a page's events (R26, R327). -/
def pageInterrupt (p : Page) (s : State) : State :=
  match p with
  | .chan _ =>
    interrupt (BitVec.ofNat 16 (fget p Reg.CHAN_CHAN_ASSIGN_MID s)) (fget p Reg.CHAN_CHAN_CFG_VEC s) s
  | _ => deviceInterrupt s

/-- What a mailbox keeps for an end: false A, true B (R331). -/
def mailOf (m : Nat) (e : Bool) (s : State) : MbxEnd := sget {} (2 * m + (if e then 1 else 0)) s.mail

/-- Replace it. -/
def setMail (m : Nat) (e : Bool) (x : MbxEnd) (s : State) : State :=
  { s with mail := sset {} (2 * m + (if e then 1 else 0)) x s.mail }

/-- Latch an event of one end of a mailbox (R331). -/
def raiseMail (m : Nat) (e : Bool) (bit : Nat) (s : State) : State :=
  let x := mailOf m e s
  setMail m e { x with raw := x.raw ||| BitVec.ofNat 32 (2 ^ bit) } s

/-- Latch event `bit` of a page (R26, R27): EVT_RAW is set, and the interrupt follows when EVT_STAT leaves 0. A
mailbox latches the events of its page at both ends. -/
def raise (p : Page) (bit : Nat) (s : State) : State :=
  match p with
  | .mbx m => raiseMail m.val true bit (raiseMail m.val false bit s)
  | _ =>
    let before := evtStat p s
    let s' := fset p Reg.EVT_RAW_RAW (fget p Reg.EVT_RAW_RAW s ||| 2 ^ bit) s
    if before = 0 ∧ evtStat p s' ≠ 0 then pageInterrupt p s' else s'

/-! ## Sending on the ring (R338 to R341) -/

/-- The ring part of the state. -/
def modRing (f : Ring → Ring) (s : State) : State := { s with ring := f s.ring }
/-- Ring port 0 is Ring A, port 1 Ring B. -/
def ringPort (i : Nat) (s : State) : RingPort := if i = 0 then s.ring.portA else s.ring.portB
/-- Replace a ring port. -/
def setRingPort (i : Nat) (x : RingPort) (s : State) : State :=
  modRing (fun r => if i = 0 then { r with portA := x } else { r with portB := x }) s
/-- The page of a ring port. -/
def rgPage (i : Nat) : Page := .rg (Fin.ofNat 2 i)
/-- The port's link is up. -/
def ringUp (i : Nat) (s : State) : Bool := decide (fget (rgPage i) Reg.RG_RLINK_STAT_WIDTH s ≠ 0)
/-- Bytes of a packet: header and payload (R339). -/
def pktBytes (p : RingPkt) : Nat := 24 + 4 * p.payload.length
/-- Flits of a packet that begins a flit: 236 transaction bytes each (R336). -/
def pktFlits (p : RingPkt) : Nat := (pktBytes p + 235) / 236
/-- Bytes kept for acknowledgement at a port. -/
def keptBytes (i : Nat) (s : State) : Nat :=
  s.ring.kept.foldl (fun n k => if k.1 = i then n + pktBytes k.2 else n) 0

/-- A packet goes out of a port, or waits there while the link is down, the replay buffer is full or older packets
wait (R338, R346). -/
def launch (i : Nat) (p : RingPkt) (s : State) : State :=
  let x := ringPort i s
  let n := pktFlits p
  if ringUp i s = true ∧ x.waiting.isEmpty = true ∧ x.unacked.length + n ≤ 1024 then
    push (.ring i p) (setRingPort i { x with fseq := (x.fseq + n) % 4096,
                                             unacked := x.unacked ++ (List.range n).map fun k => (x.fseq + k) % 4096 } s)
  else setRingPort i { x with waiting := x.waiting ++ [p] } s

/-- Packets that waited at a port go out in order, as far as the replay buffer allows. -/
def drain (i : Nat) (s : State) : State :=
  let w := (ringPort i s).waiting
  w.foldl (fun s p => launch i p s) (setRingPort i { ringPort i s with waiting := [] } s)

/-- Position of a node in the ring order. -/
def nodeAt (n : Nat) (l : List (Nat × Nat)) : Nat := (l.map fun x => x.1).findIdx fun x => decide (x = n)

/-- The port toward a node: the direction with fewer links, Ring B on a tie; in a chain the one that reaches it
(R341). -/
def ringRoute (dst : Nat) (s : State) : Nat :=
  let n := s.ring.nodes.length
  let i := nodeAt (nodeId s) s.ring.nodes
  let j := nodeAt dst s.ring.nodes
  if fget (.rg 0) Reg.RG_RING_STAT_CLOSED s = 1 then
    if (j + n - i) % n ≤ (i + n - j) % n then 1 else 0
  else if i < j then 1 else 0

/-- A node is reachable (NODE_MAP). -/
def inMap (n : Nat) (s : State) : Bool := decide (bitsOf (fget (.rg 0) Reg.RG_NODE_MAP_PRESENT s) n 1 = 1)

/-- A posted write to an absent node: discarded and counted (R340). -/
def ringDropped (s : State) : State := raise (.rg 0) 14 (satInc (.rg 0) Reg.RG_E2E_DROP_CNT_COUNT 1 s)

/-- Send an end-to-end packet to a node of the map: it takes the next ESEQ, is kept until acknowledged, and leaves by the
route of R341; beyond 256 KiB kept at the port it waits. -/
def ringSend (p : RingPkt) (s : State) : State :=
  let key := 4 * p.dst.toNat + p.vc.toNat
  let e := sget 0 key s.ring.txSeq
  let i := ringRoute p.dst.toNat s
  let p := { p with eseq := BitVec.ofNat 16 e, dir := decide (i = 0), src := BitVec.ofNat 5 (nodeId s), hops := 31 }
  let full := decide (262144 < keptBytes i s + pktBytes p)
  let s := modRing (fun r => { r with txSeq := sset 0 key ((e + 1) % 65536) r.txSeq, kept := r.kept ++ [(i, p)] }) s
  if full then
    let x := ringPort i s
    setRingPort i { x with waiting := x.waiting ++ [p] } s
  else launch i p s

/-- The 4-byte words of a payload. -/
def wordsOf : List Byte → List W32
  | a :: b :: c :: d :: t => BitVec.ofNat 32 (leNat [a, b, c, d]) :: wordsOf t
  | [] => []
  | t => [BitVec.ofNat 32 (leNat t)]

/-- The packet of a write or read toward a host at its attaching device (R348). -/
def hostPkt (ty : Nat) (mid : W16) (addr : Nat) (len : Nat) (bytes : List Byte) (poison : Bool) : RingPkt :=
  { ty := BitVec.ofNat 4 ty, poison := poison, dir := false, dst := BitVec.ofNat 5 (mid.toNat / 256), src := 0,
    toHost := true, bar0 := false, port := BitVec.ofNat 3 (mid.toNat / 32), len := BitVec.ofNat 8 ((len + 3) / 4), mid := mid,
    tag := 0, addr := BitVec.ofNat 64 addr, cplStatus := 0, bytes := 0, hops := 31, eseq := 0,
    vc := if ty = 1 then 1 else 0, rsvd := false, payload := wordsOf bytes }

/-- The pieces in which bytes go toward a remote host: 512 bytes each, or 64 when a granule is poisoned. -/
def hostPieces (size : Nat) : Nat → Nat → List Byte → List (Nat × List Byte)
  | 0, _, _ => []
  | fuel + 1, off, b => if b = [] then [] else (off, b.take size) :: hostPieces size fuel (off + size) (b.drop size)

/-- A write toward a host attached elsewhere (R348). -/
def remoteWrite (mid : W16) (addr : Nat) (bytes : List Byte) (poison : List Nat) (s : State) : State :=
  let size := if poison = [] then 512 else 64
  (hostPieces size (bytes.length + 1) 0 bytes).foldl (fun s x =>
    if inMap (bitsOf mid.toNat 8 5) s = true then
      ringSend (hostPkt 0 mid (addr + x.1) x.2.length x.2 (decide (size = 64) && poison.contains (x.1 / 64))) s
    else ringDropped s) s

/-! ## Toward hosts -/

/-- Poisoned TLPs sent at a host port are counted and raise POISON_OUT (R277, R335). -/
def poisonOut (mid : W16) (n : Nat) (s : State) : State :=
  let p : Page := .hp (Fin.ofNat 2 (bitsOf mid.toNat 5 3))
  if n = 0 then s else raise p 8 (wrapInc p Reg.HP_POISON_OUT_CNT_COUNT n s)

/-- Send something out: what goes toward a host takes its port, waits for its link, or travels the ring (R334, R348). -/
def emit (o : Out) (s : State) : State :=
  match o with
  | .hostWrite mid addr bytes poison =>
    if bitsOf mid.toNat 8 5 ≠ nodeId s then remoteWrite mid addr bytes poison s
    else
      let s := poisonOut mid poison.length s
      if hostWaits mid s = true then holdOut mid o s else push o s
  | .hostRead mid addr len =>
    if bitsOf mid.toNat 8 5 ≠ nodeId s then
      (if inMap (bitsOf mid.toNat 8 5) s = true then ringSend (hostPkt 1 mid addr len [] false) s else s)
    else push o s
  | .msix mid vec => sendIrq mid vec s
  | o => push o s

end Sys2Proof.Machine
end

