-- ==== Sys2Proof/Machine/Clock.lean ====
section
/-! DEFINITION. The device timer (R314, R399). -/

namespace Sys2Proof.Machine

/-- One tick of the device timer; at OFF one cycle of the 32.768 kHz clock adds 62,500,000 ÷ 32,768 counts through a
fractional accumulator (R399). -/
def tick (s : State) : State :=
  if s.phase = .off then
    let f := s.timerFrac + 62500000
    { s with timer := s.timer + f / 32768, timerFrac := f % 32768 }
  else { s with timer := s.timer + 1 }

end Sys2Proof.Machine
end

