-- ==== Sys2Proof/Machine/Crypto.lean ====
section
/-! DEFINITION. SHA-384 (R181, R230, R231) and ECDSA P-384 verification (R230), as the standards the spec names give
them (log entry 20). -/

namespace Sys2Proof.Machine

/-! ## SHA-384 -/

/-- The first primes, by trial division. -/
def isPrime (n : Nat) : Bool := decide (2 ≤ n) && (List.range n).all fun d => decide (d < 2 ∨ n % d ≠ 0)

/-- The 80 primes below 410. -/
def shaPrimes : List Nat := (List.range 410).filter isPrime

/-- Largest r with r ^ k ≤ n, built from `b` bits downwards. -/
def rootAux (k n : Nat) : Nat → Nat → Nat
  | 0, r => r
  | b + 1, r => if (r + 2 ^ b) ^ k ≤ n then rootAux k n b (r + 2 ^ b) else rootAux k n b r

/-- The first 64 bits of the fraction of a cube root: the round constants. -/
def shaK : List W64 := shaPrimes.map fun p => BitVec.ofNat 64 (rootAux 3 (p * 2 ^ 192) 70 0)

/-- The first 64 bits of the fractions of the square roots of the 9th to the 16th prime: the starting values. -/
def shaInit : List W64 := ((shaPrimes.drop 8).take 8).map fun p => BitVec.ofNat 64 (rootAux 2 (p * 2 ^ 128) 70 0)

/-- Rotate right. -/
def ror (x : W64) (n : Nat) : W64 := x.rotateRight n

/-- A big-endian number from bytes. -/
def beNat (b : List Byte) : Nat := b.foldl (fun a x => a * 256 + x.toNat) 0

/-- Big-endian bytes of a number. -/
def beBytes (n v : Nat) : List Byte := (leBytes n v).reverse

/-- The message schedule, extended word by word; the list holds the latest word first. -/
def shaSchedule : Nat → List W64 → List W64
  | 0, w => w
  | n + 1, w =>
    let a := nth 0 w 1
    let b := nth 0 w 14
    let s1 := ror a 19 ^^^ ror a 61 ^^^ (a >>> 6)
    let s0 := ror b 1 ^^^ ror b 8 ^^^ (b >>> 7)
    shaSchedule n ((s1 + nth 0 w 6 + s0 + nth 0 w 15) :: w)

/-- One round on the eight working values. -/
def shaRound (v : List W64) (kw : W64 × W64) : List W64 :=
  let g := fun i => nth 0 v i
  let e := g 4
  let a := g 0
  let t1 := g 7 + (ror e 14 ^^^ ror e 18 ^^^ ror e 41) + ((e &&& g 5) ^^^ (~~~e &&& g 6)) + kw.1 + kw.2
  let t2 := (ror a 28 ^^^ ror a 34 ^^^ ror a 39) + ((a &&& g 1) ^^^ (a &&& g 2) ^^^ (g 1 &&& g 2))
  [t1 + t2, a, g 1, g 2, g 3 + t1, e, g 5, g 6]

/-- One 128-byte block. -/
def shaBlock (k : List W64) (h : List W64) (b : List Byte) : List W64 :=
  let w := (List.range 16).map fun i => (BitVec.ofNat 64 (beNat ((b.drop (8 * i)).take 8)) : W64)
  let ws := (shaSchedule 64 w.reverse).reverse
  let v := (k.zip ws).foldl shaRound h
  (h.zip v).map fun x => x.1 + x.2

/-- All blocks of a padded message. -/
def shaBlocks (k : List W64) : Nat → List W64 → List Byte → List W64
  | 0, h, _ => h
  | n + 1, h, b => shaBlocks k n (shaBlock k h (b.take 128)) (b.drop 128)

/-- SHA-384 of a message: 48 bytes. -/
def sha384 (m : List Byte) : List Byte :=
  let n := m.length
  let zeros := (128 - (n + 17) % 128) % 128
  let p := m ++ [0x80] ++ List.replicate zeros 0 ++ beBytes 16 (8 * n)
  ((shaBlocks shaK (p.length / 128) shaInit p).take 6).flatMap fun x => beBytes 8 x.toNat

/-! ## P-384 -/

/-- The field prime. -/
def p384 : Nat := 2 ^ 384 - 2 ^ 128 - 2 ^ 96 + 2 ^ 32 - 1
/-- The order of the base point. -/
def n384 : Nat := 0xFFFFFFFFFFFFFFFFFFFFFFFFFFFFFFFFFFFFFFFFFFFFFFFFC7634D81F4372DDF581A0DB248B0A77AECEC196ACCC52973
/-- The curve's b; its a is −3. -/
def b384 : Nat := 0xB3312FA7E23EE7E4988E056BE3F82D19181D9C6EFE8141120314088F5013875AC656398D8A2ED19D2A85C8EDD3EC2AEF
/-- The base point. -/
def g384 : Nat × Nat :=
  (0xAA87CA22BE8B05378EB1C71EF320AD746E1D3B628BA79B9859F741E082542A385502F25DBF55296C3A545E3872760AB7,
   0x3617DE4A96262C6F5D9E98BF9292DC29F8F41DBD289A147CE9DA3113B5F0B8C00A60B1CE1D7E819D7A431D7C90EA0E5F)

/-- x ^ e mod m by squaring, over the low `b` bits of e. -/
def powMod (m : Nat) : Nat → Nat → Nat → Nat
  | 0, _, _ => 1 % m
  | b + 1, x, e => (if e % 2 = 1 then x else 1) * powMod m b (x * x % m) (e / 2) % m

/-- Inverse modulo a prime. -/
def invMod (m x : Nat) : Nat := powMod m 384 (x % m) (m - 2)

/-- Difference modulo m. -/
def subMod (m a b : Nat) : Nat := (a % m + m - b % m) % m

/-- Sum of two points; none is the point at infinity. -/
def pointAdd (a b : Option (Nat × Nat)) : Option (Nat × Nat) :=
  match a, b with
  | none, b => b
  | a, none => a
  | some x, some y =>
    if x.1 = y.1 ∧ (x.2 + y.2) % p384 = 0 then none
    else
      let l := if x.1 = y.1 then subMod p384 (3 * x.1 * x.1) 3 * invMod p384 (2 * x.2) % p384
               else subMod p384 y.2 x.2 * invMod p384 (subMod p384 y.1 x.1) % p384
      let r := subMod p384 (subMod p384 (l * l) x.1) y.1
      some (r, subMod p384 (l * subMod p384 x.1 r) x.2)

/-- k times a point, over the low `b` bits of k. -/
def pointMul : Nat → Nat → Option (Nat × Nat) → Option (Nat × Nat)
  | 0, _, _ => none
  | b + 1, k, q => pointAdd (if k % 2 = 1 then q else none) (pointMul b (k / 2) (pointAdd q q))

/-- The 97 bytes are an uncompressed point of the curve. -/
def pointOf (b : List Byte) : Option (Nat × Nat) :=
  let x := beNat ((b.drop 1).take 48)
  let y := beNat ((b.drop 49).take 48)
  if b.length = 97 ∧ nth 0 b 0 = 4 ∧ x < p384 ∧ y < p384 ∧ y * y % p384 = (subMod p384 (x * x * x) (3 * x) + b384) % p384
  then some (x, y) else none

/-- ECDSA verification with SHA-384 as the hash (R230). -/
def ecdsaOk (key msg r s : List Byte) : Bool :=
  match pointOf key with
  | none => false
  | some q =>
    let rn := beNat r
    let sn := beNat s
    if rn = 0 ∨ n384 ≤ rn ∨ sn = 0 ∨ n384 ≤ sn then false
    else
      let w := invMod n384 sn
      let z := beNat (sha384 msg)
      match pointAdd (pointMul 384 (z * w % n384) (some g384)) (pointMul 384 (rn * w % n384) (some q)) with
      | none => false
      | some x => decide (x.1 % n384 = rn)

end Sys2Proof.Machine
end

