-- ==== Sys2Proof/Machine/Flags.lean ====
section
/-! DEFINITION. Status flags and records: who may write what (R33 to R41, R300, R404 and the like), the records a
refused write leaves (R27, R44), block states (R31), fences (R32, R438). -/

namespace Sys2Proof.Machine

/-! ## Master identities (R37) -/

/-- MID CLASS. -/
def midClass (m : W16) : Nat := bitsOf m.toNat 13 3
/-- MID NODE. -/
def midNode (m : W16) : Nat := bitsOf m.toNat 8 5
/-- MID PORT. -/
def midPort (m : W16) : Nat := bitsOf m.toNat 5 3
/-- MID FUNCTION. -/
def midFunc (m : W16) : Nat := bitsOf m.toNat 0 4
/-- A physical function of a host, local or remote. -/
def isPF (m : W16) : Bool := decide (midClass m = 0 ∧ midFunc m = 0)
/-- A control complex. -/
def isCC (m : W16) : Bool := decide (midClass m = 1 ∨ midClass m = 2)
/-- The half of a control complex's MID. -/
def ccHalf (m : W16) : Half := if midClass m = 1 then .north else .south
/-- The MID of a control complex (R37). -/
def ccMid (s : State) (h : Half) : W16 :=
  BitVec.ofNat 16 ((1 + Half.num h) * 8192 + nodeId s * 256 + 7 * 32 + Half.num h)
/-- The MID of the physical function of the host that owns `m` (R300). -/
def ownerPF (m : W16) : W16 := BitVec.ofNat 16 (m.toNat / 16 * 16)
/-- The MID belongs to a host attached to this device (R37). -/
def isLocal (s : State) (m : W16) : Bool := decide (midClass m = 0 ∧ midNode m = nodeId s)

/-! ## Locked tables as registers (R324, R347) -/

/-- The 64 bits of a Mailbox Binding Table entry; entry 63 is fixed (R324). -/
def mbtEntry (s : State) (m : Nat) : Nat :=
  if m = 63 then (ccMid s .north).toNat + 2 ^ 16 * (ccMid s .south).toNat + 2 ^ 63
  else (regWord s (regAddr .sec (0x400 + 8 * m))).toNat + 2 ^ 32 * (regWord s (regAddr .sec (0x404 + 8 * m))).toNat

/-- The entry is in use (R324). -/
def mbtValid (s : State) (m : Nat) : Bool := decide (bitsOf (mbtEntry s m) 63 1 = 1)
/-- The MID at an end of a mailbox: false A, true B; NODE of an internal end is the device's own (R324). -/
def mbtMid (s : State) (m : Nat) (e : Bool) : W16 :=
  let mid : W16 := BitVec.ofNat 16 (bitsOf (mbtEntry s m) (if e then 16 else 0) 16)
  if isCC mid then ccMid s (ccHalf mid) else mid
/-- The MSI-X vector of an end (R324). -/
def mbtVec (s : State) (m : Nat) (e : Bool) : Nat := bitsOf (mbtEntry s m) (if e then 43 else 32) 11
/-- The end of a mailbox that a MID is, if any (R324, R325). -/
def mbxEnd (s : State) (m : Nat) (mid : W16) : Option Bool :=
  if mbtValid s m = true then
    if mbtMid s m false = mid then some false else if mbtMid s m true = mid then some true else none
  else none

/-- An entry of the Remote Admin Table grants this MID the physical view (R347). -/
def remoteAdmin (s : State) (mid : W16) : Bool :=
  (List.range 8).any fun i =>
    decide (fgetI (.rg 0) Reg.RG_ADMIN_VALID i s = 1 ∧ fgetI (.rg 0) Reg.RG_ADMIN_MID i s / 32 = mid.toNat / 32 ∧
      midFunc mid = 0)

/-- The MID sees the whole page map: internal sources and debug, local physical functions, and remote ones with an
entry (R38, R40, R347). -/
def physView (s : State) (mid : W16) : Bool :=
  decide (midClass mid ≠ 0) || (decide (midFunc mid = 0) && (isLocal s mid || remoteAdmin s mid))

/-- The MID sees the page (R40, R347). -/
def sees (s : State) (mid : W16) (p : Page) : Bool :=
  physView s mid || match p with
    | .cap => true
    | .chan _ => decide (fget p Reg.CHAN_CHAN_ASSIGN_VALID s = 1 ∧ fget p Reg.CHAN_CHAN_ASSIGN_MID s = mid.toNat)
    | .mbx m => (mbxEnd s m.val mid).isSome
    | _ => false

/-! ## Admission of writes -/

/-- ID_STATE.DEBUG_LOCK (R182, R45). -/
def debugLock (s : State) : Bool := decide (fget (.wsc .north) Reg.WSC_ID_STATE_DEBUG_LOCK s = 1)

/-- The page admits a write of `mid` at an offset (R17, R41, R44, R45, R61, R108, R116, R127, R162, R182, R189,
R194, R278, R281, R300, R331, R350, R354, R404, R405, R414, R436). -/
def admits (s : State) (mid : W16) (p : Page) (off : Nat) : Bool :=
  let pfcc := isPF mid || isCC mid
  match p with
  | .d2d _ | .bm _ => decide (off ≠ 0x010 ∧ off ≠ 0x028) || pfcc
  | .tile _ =>
    decide (off ∉ [0x130, 0x134, 0x208, 0x314, 0x354, 0x408]) || isCC mid
  | .wsc _ =>
    if 0x180 ≤ off ∧ off < 0x1A0 then isCC mid || decide (midClass mid = 7)
    else if off = 0x200 ∨ (0x210 ≤ off ∧ off < 0x240) then
      isCC mid || decide (midClass mid = 7) || (decide (midClass mid = 6) && !debugLock s)
    else true
  | .die _ => decide (off ≠ 0x104) || isCC mid
  | .mig _ =>
    if (0x180 ≤ off ∧ off < 0x1A0) ∨ (0x280 ≤ off ∧ off < 0x2A0) then isCC mid else true
  | .chan _ =>
    let valid := fget p Reg.CHAN_CHAN_ASSIGN_VALID s = 1
    let owner : W16 := BitVec.ofNat 16 (fget p Reg.CHAN_CHAN_ASSIGN_MID s)
    if off = 0x108 then (if valid then decide (mid = ownerPF owner) else isPF mid)
    else if off = 0x028 ∧ ¬valid then isCC mid || isPF mid
    else isCC mid || (decide valid && (decide (mid = owner) || decide (mid = ownerPF owner)))
  | .mbx m => (mbxEnd s m.val mid).isSome
  | .hp i => decide ¬(0x140 ≤ off ∧ off < 0x180) || (isPF mid && isLocal s mid && decide (midPort mid = i.val))
  | .rg _ | .eth _ => pfcc
  | .pmu =>
    if 0x400 ≤ off ∧ off < 0x484 then isCC mid
    else if off = 0x120 ∨ off = 0x130 then isPF mid
    else if off = 0x100 ∨ off = 0x104 ∨ off = 0x140 then pfcc
    else true
  | .aon => decide (off ≠ 0x110 ∧ off ≠ 0x114) || pfcc
  | .thm => decide (off ≠ 0x10C) || pfcc
  | .sec =>
    if off = 0x100 ∨ off = 0x110 then pfcc
    else if 0x400 ≤ off ∧ off < 0x600 then pfcc
    else if 0x610 ≤ off ∧ off < 0x620 then
      decide (s.phase = .romRecovery) && decide (mid = hostMid s 0 0)
    else true
  | .dbg => if debugLock s then decide (off = 0x020) && isPF mid else isPF mid || decide (midClass mid = 6)
  | _ => true

/-! ## Records of refused writes -/

/-- ACCESS_DENIED on a page (R27). -/
def accessDenied (p : Page) (s : State) : State := raise p 4 s

/-- A denial that the SEC page records: the first since VALID was cleared; later ones only count (R39, R44, R369). -/
def denyRecord (mid : W16) (kind addr : Nat) (s : State) : State :=
  let s := if fget .sec Reg.SEC_AD_REC_MID_VALID s = 0 then
      s |> fset .sec Reg.SEC_AD_REC_MID_MID mid.toNat |> fset .sec Reg.SEC_AD_REC_MID_KIND kind
        |> fset .sec Reg.SEC_AD_REC_ADDR_LO_ADDR addr |> fset .sec Reg.SEC_AD_REC_ADDR_HI_ADDR (addr / 2 ^ 32)
        |> fset .sec Reg.SEC_AD_REC_MID_VALID 1
    else s
  raise .sec 4 (satInc .sec Reg.SEC_AD_CNT_COUNT 1 s)

/-- A Completer Abort toward a host of this device, counted at its port (R335, R340). -/
def hostAbort (mid : W16) (addr : Nat) (s : State) : State :=
  emit (.completerAbort mid addr) (satInc (.hp (Fin.ofNat 2 (midPort mid))) Reg.HP_HP_ERR_CNT_CA 1 s)

/-- A write that a LOCK stops (R35): LOCKED_WRITE on its page and on the SEC page, the record, the count. -/
def lockedWrite (mid : W16) (p : Page) (off : Nat) (data : W32) (s : State) : State :=
  let s := if fget .sec Reg.SEC_LW_REC_MID_VALID s = 0 then
      s |> fset .sec Reg.SEC_LW_REC_MID_MID mid.toNat |> fset .sec Reg.SEC_LW_REC_OFF_OFFSET (regAddr p off)
        |> fset .sec Reg.SEC_LW_REC_DATA_DATA data.toNat |> fset .sec Reg.SEC_LW_REC_MID_VALID 1
    else s
  let s := satInc .sec Reg.SEC_LW_CNT_COUNT 1 s
  if p = .sec then raise .sec 3 s else raise .sec 3 (raise p 3 s)

/-- The page is locked (R12). -/
def locked (p : Page) (s : State) : Bool := decide (fget p Reg.LOCK_LOCK s = 1)

/-- What the checks before a write say: it goes ahead in this state, or it is discarded and this is what it left. -/
inductive Verdict where
  | go (s : State)
  | stop (s : State)

/-- Before step 10 only the capability, SEC, AON and host-port pages are served; in ROM recovery the SEC page and
HP0's (R410, R414). -/
def served (s : State) (p : Page) : Bool :=
  match s.phase with
  | .ready => true
  | .starting | .failed => match p with
    | .cap | .sec | .aon | .hp _ => true
    | _ => false
  | .romRecovery => match p with
    | .sec => true
    | .hp i => decide (i.val = 0)
    | _ => false
  | .resetHeld | .off => false

/-- The token check of R33; a rejected writer has CC_ROLE.STALE set on its own page (R363). -/
def epochCheck (w : Wr) (p : Page) (s : State) : Verdict :=
  if pageShared p = true ∧ isCC w.mid = true then
    let cur := fget p Reg.EPOCH_TOKEN s
    if w.token.toNat < cur then
      .stop (raise p 2 (fset (.cc (ccHalf w.mid)) Reg.CC_CC_ROLE_STALE 1
        { s with staleMid := sset none (pageNum p) (some w.mid) s.staleMid }))
    else .go (fset p Reg.EPOCH_TOKEN w.token.toNat s)
  else .go s

/-- The checks of every register write, in order: served at all (R410), in the writer's view (R40), the unit present
(R39), the MID admitted, the token current (R33). -/
def writeGate (w : Wr) (p : Page) (off : Nat) (s : State) : Verdict :=
  if served s p = false then .stop s
  else if sees s w.mid p = false then .stop (denyRecord w.mid 0 (regAddr p off) s)
  else if present s p = false ∧ off ≠ 0x020 then .stop (denyRecord w.mid 1 (regAddr p off) s)
  else if admits s w.mid p off = false then .stop (accessDenied p s)
  else epochCheck w p s

/-- Run an effect behind the checks of a write. -/
def guarded (w : Wr) (p : Page) (off : Nat) (effect : State → State) (s : State) : State :=
  match writeGate w p off s with
  | .go s' => effect s'
  | .stop s' => s'

/-- The same for a field or table that LOCK protects (R12, R35). -/
def guardedRwl (w : Wr) (p : Page) (off : Nat) (data : W32) (effect : State → State) (s : State) : State :=
  guarded w p off (fun s => if locked p s = true then lockedWrite w.mid p off data s else effect s) s

/-! ## Block states (R31) -/

/-- The states of BLK_STATE (R26). -/
inductive Blk where
  | off | starting | on | stopping | restartPending
  deriving DecidableEq, Repr

/-- The code of a block state (R26). -/
def Blk.num : Blk → Nat
  | .off => 0
  | .starting => 1
  | .on => 2
  | .stopping => 3
  | .restartPending => 4

/-- A page's block state. -/
def blk (p : Page) (s : State) : Blk :=
  let v := fget p Reg.BLK_STATE_STATE s
  if v = 0 then .off else if v = 1 then .starting else if v = 2 then .on else if v = 3 then .stopping
  else .restartPending

/-- Set a page's block state; STATE_CHANGE is raised on reaching ON or OFF (R27). -/
def setBlk (p : Page) (b : Blk) (s : State) : State :=
  let s := fset p Reg.BLK_STATE_STATE b.num s
  if b = .on ∨ b = .off then raise p 0 s else s

/-- The unit is ON. -/
def isOn (p : Page) (s : State) : Bool := decide (blk p s = .on)

/-- FENCE.FENCED (R26). -/
def fenced (p : Page) (s : State) : Bool := decide (fget p Reg.FENCE_FENCED s = 1)

/-- The unit can be named by a command: present and not fenced (R32). -/
def usable (p : Page) (s : State) : Bool := present s p && !fenced p s

/-- The pages that are no startable block and take no fence (R43, R46). -/
def fixedPage (p : Page) : Bool := match p with
  | .cap | .fus => true
  | _ => false

/-- A write of EN on the transition table of R31. -/
def writeEn (p : Page) (en : Bool) (s : State) : State :=
  if fixedPage p = true then s else
  let s := fset p Reg.BLK_CTRL_EN (if en then 1 else 0) s
  match blk p s, en with
  | .off, true => if fenced p s = true then s else setBlk p .starting s
  | .on, false => setBlk p .stopping s
  | .stopping, true => setBlk p .restartPending s
  | .restartPending, false => setBlk p .stopping s
  | _, _ => s

/-- A start sequence completes (R31): ON is passed in any case. -/
def startDone (p : Page) (s : State) : State :=
  if blk p s = .starting then
    let s := setBlk p .on s
    if fget p Reg.BLK_CTRL_EN s = 0 ∨ fenced p s = true then setBlk p .stopping s else s
  else s

/-- A stop sequence completes (R31). -/
def stopDone (p : Page) (s : State) : State :=
  match blk p s with
  | .stopping => setBlk p .off s
  | .restartPending =>
    let s := setBlk p .off s
    if fenced p s = true then s else setBlk p .starting s
  | _ => s

/-! ## Fences (R26, R32, R438) -/

/-- The causes kept for a page's fence. -/
def causesOf (p : Page) (s : State) : List (Nat × Bool) := sget [] (pageNum p) s.causes

/-- Keep a list of causes. -/
def setCauses (p : Page) (c : List (Nat × Bool)) (s : State) : State :=
  { s with causes := sset [] (pageNum p) c s.causes }

/-- Fence a page's unit: a second fence only adds its cause (R438); the first sets FENCED, CAUSE and COUNT, raises
FENCED, and a unit at ON begins to stop (R31). -/
def fencePage (p : Page) (cause : Nat) (s : State) : State :=
  if fixedPage p = true then s else
  if fenced p s = true then setCauses p (causesOf p s ++ [(cause, false)]) s
  else
    let s := setCauses p [(cause, false)] s
    let s := s |> fset p Reg.FENCE_FENCED 1 |> fset p Reg.FENCE_CAUSE cause |> satInc p Reg.FENCE_COUNT 1 |> raise p 1
    if blk p s = .on then setBlk p .stopping s else s

/-- The repair path of a cause has completed (R438). -/
def causeDone (p : Page) (cause : Nat) (s : State) : State :=
  setCauses p ((causesOf p s).map fun c => if c.1 = cause then (c.1, true) else c) s

/-- Every cause kept has had its repair. -/
def allRepaired (p : Page) (s : State) : Bool := (causesOf p s).all fun c => c.2

/-- End a fence: FENCED and CAUSE clear, and a unit at OFF with EN = 1 starts (R31). -/
def unfence (p : Page) (s : State) : State :=
  let s := s |> setCauses p [] |> fset p Reg.FENCE_FENCED 0 |> fset p Reg.FENCE_CAUSE 0
  if blk p s = .off ∧ fget p Reg.BLK_CTRL_EN s = 1 then setBlk p .starting s else s

end Sys2Proof.Machine
end

