-- ==== Sys2Proof/Machine/Operands.lean ====
section
/-! DEFINITION. Operand forms and number formats: binary32 arithmetic and its conversions (R92, R95, R102), packed
block-integer blocks (R78), slice headers and scale records (R81), task descriptors (R135) and the post-processing
record (R99). -/

namespace Sys2Proof.Machine

/-! ## Floating point: exact values, rounded once (R92, R102) -/

/-- A floating-point datum: NaN, a signed infinity or zero, or ±m × 2^e with m > 0. -/
inductive Fp where
  | nan
  | inf (neg : Bool)
  | zero (neg : Bool)
  | num (neg : Bool) (m : Nat) (e : Int)
  deriving DecidableEq, Repr

/-- A binary format: precision p, the exponent of the smallest subnormal, total bits, the pattern that overflow
reaches, the largest pattern a result may take, the NaN pattern. -/
structure FpFormat where
  p : Nat
  emin : Int
  bits : Nat
  inf : Nat
  top : Nat
  nan : Nat
  deriving DecidableEq, Repr

/-- IEEE 754 binary32; its canonical NaN is that of R92. -/
def f32 : FpFormat := ⟨24, -149, 32, 0x7F800000, 0x7F800000, 0x7FC00000⟩
/-- BF16 (R95). -/
def bf16 : FpFormat := ⟨8, -133, 16, 0x7F80, 0x7F80, 0x7FC0⟩
/-- IEEE 754 binary16 (R95). -/
def f16 : FpFormat := ⟨11, -24, 16, 0x7C00, 0x7C00, 0x7E00⟩
/-- OCP FP8 E4M3, saturating at ±448 (R95). -/
def e4m3 : FpFormat := ⟨4, -9, 8, 0x7F, 0x7E, 0x7F⟩
/-- OCP FP8 E5M2, saturating at ±57,344 (R95). -/
def e5m2 : FpFormat := ⟨3, -16, 8, 0x7C, 0x7B, 0x7E⟩

/-- The value of m × 2^e rounded to nearest even as a magnitude pattern; `sticky` says that a little more than m
stands behind it. -/
def roundMag (f : FpFormat) (m : Nat) (e : Int) (sticky : Bool) : Nat :=
  if m = 0 then 0 else
  let q := max f.emin (e + (Nat.log2 m + 1 : Nat) - (f.p : Nat))
  let r :=
    if q ≤ e then m * 2 ^ (e - q).toNat
    else
      let d := (q - e).toNat
      let r := m / 2 ^ d
      let rem := m % 2 ^ d
      if 2 ^ (d - 1) < rem ∨ (rem = 2 ^ (d - 1) ∧ (sticky = true ∨ r % 2 = 1)) then r + 1 else r
  let b := (q - f.emin).toNat * 2 ^ (f.p - 1) + r
  if f.top < b then f.top else b

/-- A pattern with its sign. -/
def withSign (f : FpFormat) (neg : Bool) (mag : Nat) : Nat := if neg then mag + 2 ^ (f.bits - 1) else mag

/-- Round to a format. -/
def encodeFp (f : FpFormat) : Fp → Nat
  | .nan => f.nan
  | .inf neg => withSign f neg f.top
  | .zero neg => withSign f neg 0
  | .num neg m e => withSign f neg (roundMag f m e false)

/-- The datum of a pattern of a format that has IEEE infinities. -/
def decodeFp (f : FpFormat) (w : Nat) : Fp :=
  let neg := decide (bitsOf w (f.bits - 1) 1 = 1)
  let mag := w % 2 ^ (f.bits - 1)
  if f.inf < mag then .nan
  else if mag = f.inf then .inf neg
  else if mag = 0 then .zero neg
  else
    let ex := mag / 2 ^ (f.p - 1)
    let fr := mag % 2 ^ (f.p - 1)
    if ex = 0 then .num neg fr f.emin else .num neg (fr + 2 ^ (f.p - 1)) (f.emin + (ex : Nat) - 1)

/-- The datum of an FP32 word. -/
def fp (w : W32) : Fp := decodeFp f32 w.toNat
/-- Round to FP32. -/
def fl (x : Fp) : W32 := BitVec.ofNat 32 (encodeFp f32 x)
/-- The canonical quiet NaN (R92). -/
def qnan : W32 := 0x7FC00000

/-- ±i × 2^e from an integer. -/
def fpOfInt (i : Int) (e : Int) : Fp := if i = 0 then .zero false else .num (decide (i < 0)) i.natAbs e

/-- The signed significand of a finite datum. -/
def Fp.sig : Fp → Int
  | .num neg m _ => if neg then -(m : Int) else m
  | _ => 0

/-- The exponent of a finite datum. -/
def Fp.ex : Fp → Int
  | .num _ _ e => e
  | _ => 0

/-- Exact sum. -/
def Fp.add : Fp → Fp → Fp
  | .nan, _ | _, .nan => .nan
  | .inf a, .inf b => if a = b then .inf a else .nan
  | .inf a, _ => .inf a
  | _, .inf b => .inf b
  | .zero a, .zero b => .zero (a && b)
  | .zero _, y => y
  | x, .zero _ => x
  | x, y =>
    let e := min x.ex y.ex
    fpOfInt (x.sig * 2 ^ (x.ex - e).toNat + y.sig * 2 ^ (y.ex - e).toNat) e

/-- The sign. -/
def Fp.neg : Fp → Bool
  | .nan => false
  | .inf n => n
  | .zero n => n
  | .num n _ _ => n

/-- Negation. -/
def Fp.negate : Fp → Fp
  | .nan => .nan
  | .inf n => .inf (!n)
  | .zero n => .zero (!n)
  | .num n m e => .num (!n) m e

/-- Exact product. -/
def Fp.mul : Fp → Fp → Fp
  | .nan, _ | _, .nan => .nan
  | .inf a, y => if (match y with | .zero _ => true | _ => false) then .nan else .inf (a != y.neg)
  | x, .inf b => if (match x with | .zero _ => true | _ => false) then .nan else .inf (x.neg != b)
  | .zero a, y => .zero (a != y.neg)
  | x, .zero b => .zero (x.neg != b)
  | .num a m e, .num b n f => .num (a != b) (m * n) (e + f)

/-- fl(x + y). -/
def fadd (x y : W32) : W32 := fl ((fp x).add (fp y))
/-- fl(x − y). -/
def fsub (x y : W32) : W32 := fl ((fp x).add (fp y).negate)
/-- fl(x × y). -/
def fmul (x y : W32) : W32 := fl ((fp x).mul (fp y))
/-- x × y + z with one rounding. -/
def ffma (x y z : W32) : W32 := fl (((fp x).mul (fp y)).add (fp z))

/-- fl(x ÷ y), correctly rounded. -/
def fdiv (x y : W32) : W32 :=
  match fp x, fp y with
  | .nan, _ | _, .nan => qnan
  | .inf _, .inf _ => qnan
  | .inf a, y => fl (.inf (a != y.neg))
  | x, .inf b => fl (.zero (x.neg != b))
  | .zero _, .zero _ => qnan
  | .zero a, y => fl (.zero (a != y.neg))
  | x, .zero b => fl (.inf (x.neg != b))
  | .num a m e, .num b n f =>
    let k := 64 + Nat.log2 n
    let q := m * 2 ^ k / n
    BitVec.ofNat 32 (withSign f32 (a != b) (roundMag f32 q (e - f - (k : Nat)) (decide (m * 2 ^ k % n ≠ 0))))

/-- Integer square root by bits, the largest r with r² ≤ n, given an upper bound of its bits. -/
def isqrtAux : Nat → Nat → Nat → Nat
  | 0, _, r => r
  | b + 1, n, r => if (r + 2 ^ b) * (r + 2 ^ b) ≤ n then isqrtAux b n (r + 2 ^ b) else isqrtAux b n r

/-- fl(√x), correctly rounded. -/
def fsqrt (x : W32) : W32 :=
  match fp x with
  | .nan => qnan
  | .inf n => if n then qnan else fl (.inf false)
  | .zero n => fl (.zero n)
  | .num true _ _ => qnan
  | .num false m e =>
    let k : Nat := if e % 2 = 0 then 64 else 65
    let n := m * 2 ^ k
    let r := isqrtAux 60 n 0
    BitVec.ofNat 32 (roundMag f32 r ((e - (k : Nat)) / 2) (decide (r * r ≠ n)))

/-- x < y for data that are no NaN. -/
def Fp.lt (x y : Fp) : Bool :=
  match x, y with
  | .nan, _ | _, .nan => false
  | .inf a, .inf b => a && !b
  | .inf a, _ => a
  | _, .inf b => !b
  | x, y =>
    let e := min x.ex y.ex
    decide (x.sig * 2 ^ (x.ex - e).toNat < y.sig * 2 ^ (y.ex - e).toNat)

/-- The datum is finite. -/
def Fp.finite : Fp → Bool
  | .zero _ | .num _ _ _ => true
  | _ => false

/-- Rounded to an integer, ties to even. -/
def Fp.toIntEven : Fp → Int
  | .num neg m e =>
    let r : Nat :=
      if 0 ≤ e then m * 2 ^ e.toNat
      else
        let d := (-e).toNat
        let q := m / 2 ^ d
        let rem := m % 2 ^ d
        if 2 ^ (d - 1) < rem ∨ (rem = 2 ^ (d - 1) ∧ q % 2 = 1) then q + 1 else q
    if neg then -(r : Int) else r
  | _ => 0

/-- The largest integer not above a finite datum. -/
def Fp.floor : Fp → Int
  | .num neg m e =>
    let v : Int := if neg then -(m : Int) else m
    if 0 ≤ e then v * 2 ^ e.toNat else v / (2 ^ (-e).toNat : Nat)
  | _ => 0

/-- FP32 that is positive and normal (R81, R100). -/
def posNormal (w : W32) : Bool := decide (0x00800000 ≤ w.toNat ∧ w.toNat < 0x7F800000)

/-! ## Packed weights (R78) -/

/-- Element i of a packed block of W-bit elements, as a number. -/
def blockElem (w : Nat) (bytes : List Byte) (i : Nat) : Int := toSigned w (bitsOf (leNat bytes) (w * i) w)

/-- Weight columns W of a WFMT (R56). -/
def wfmtBits (f : BitVec 2) : Nat := if f = 0 then 2 else if f = 1 then 4 else if f = 2 then 5 else 8

/-- Outputs per column set O (R56). -/
def wfmtOutputs (f : BitVec 2) : Nat := if f = 0 then 512 else if f = 1 then 256 else if f = 2 then 204 else 128

/-- Column sets of a FOLD (R48). -/
def foldSets (f : BitVec 2) : Nat := 2 ^ f.toNat
/-- Subarrays per column set (R48). -/
def foldSubs (f : BitVec 2) : Nat := 2 ^ (3 - f.toNat)
/-- Row groups G of an output (R85). -/
def foldGroups (f : BitVec 2) : Nat := 2 ^ (5 - f.toNat)
/-- Input span K (R48). -/
def foldSpan (f : BitVec 2) : Nat := 2 ^ (10 - f.toNat)
/-- Outputs of a bank (R56). -/
def bankOutputs (b : Bank) : Nat := wfmtOutputs b.wfmt * foldSets b.fold

/-! ## Slices and scale records (R53, R81) -/

/-- A slice header (R81). -/
structure SliceHdr where
  fmt : Nat
  tag : Nat
  blocks : Nat
  deriving DecidableEq, Repr

/-- Read a slice header. -/
def sliceHdr (b : List Byte) : SliceHdr :=
  let v := leNat b
  { fmt := bitsOf v 0 4, tag := bitsOf v 8 8, blocks := bitsOf v 32 16 }

/-- The bytes of a slice header the post-processor writes: FIRST_BLOCK 0 (R81). -/
def sliceHdrBytes (fmt tag blocks : Nat) : List Byte := leBytes 8 (fmt + tag * 2 ^ 8 + blocks * 2 ^ 32)

/-- A scale record (R81). -/
structure ScaleRec where
  scale : W32
  zp : Nat
  fmt : Nat
  tag : Nat
  deriving DecidableEq, Repr

/-- Read a scale record. -/
def scaleRec (b : List Byte) : ScaleRec :=
  let v := leNat b
  { scale := BitVec.ofNat 32 v, zp := bitsOf v 32 12, fmt := bitsOf v 44 4, tag := bitsOf v 48 8 }

/-- The bytes of a scale record. -/
def scaleRecBytes (r : ScaleRec) : List Byte :=
  leBytes 8 (r.scale.toNat + r.zp * 2 ^ 32 + r.fmt * 2 ^ 44 + r.tag * 2 ^ 48)

/-- Element bits of an input format (R53): 4, 8 or 12. -/
def inBits (fmt : Nat) : Nat := if fmt < 2 then 4 else if fmt < 4 then 8 else 12
/-- The format is signed. -/
def inSigned (fmt : Nat) : Bool := decide (fmt % 2 = 0)
/-- Bytes of a row group's 32 elements (R53). -/
def groupBytes (fmt : Nat) : Nat := if fmt < 2 then 16 else if fmt < 4 then 32 else 64

/-- Element patterns of packed input bytes (R53): 4-bit two to a byte, low nibble first; 12-bit in 16-bit containers. -/
def unpackElems (fmt : Nat) : List Byte → List Nat
  | [] => []
  | a :: t =>
    if fmt < 2 then bitsOf a.toNat 0 4 :: bitsOf a.toNat 4 4 :: unpackElems fmt t
    else if fmt < 4 then a.toNat :: unpackElems fmt t
    else match t with
      | [] => []
      | b :: t' => (a.toNat + 256 * b.toNat) % 4096 :: unpackElems fmt t'

/-- Packed bytes of output patterns by OUT_FMT (R53, R94). -/
def packElems (fmt : Nat) : List Nat → List Byte
  | [] => []
  | a :: t =>
    if fmt < 2 then match t with
      | [] => [BitVec.ofNat 8 (a % 16)]
      | b :: t' => BitVec.ofNat 8 (a % 16 + 16 * (b % 16)) :: packElems fmt t'
    else if fmt < 4 ∨ fmt = 6 ∨ fmt = 7 then BitVec.ofNat 8 a :: packElems fmt t
    else if fmt = 10 then leBytes 4 a ++ packElems fmt t
    else leBytes 2 a ++ packElems fmt t

/-! ## Task descriptors (R135) -/

/-- A descriptor from its eight words. -/
def descOf (q : Nat → Nat) : Desc where
  kind := BitVec.ofNat 4 (bitsOf (q 0) 0 4)
  cls := BitVec.ofNat 2 (bitsOf (q 0) 4 2)
  steal := decide (bitsOf (q 0) 6 1 = 1)
  nodl := decide (bitsOf (q 0) 7 1 = 1)
  deps := BitVec.ofNat 8 (bitsOf (q 0) 8 8)
  stolen := decide (bitsOf (q 0) 16 1 = 1)
  deadline := BitVec.ofNat 32 (bitsOf (q 0) 32 32)
  channel := BitVec.ofNat 9 (bitsOf (q 1) 0 9)
  cch := halfOf (bitsOf (q 1) 9 1)
  seq := BitVec.ofNat 32 (bitsOf (q 1) 16 32)
  mepoch := BitVec.ofNat 16 (bitsOf (q 1) 48 16)
  wset := BitVec.ofNat 16 (bitsOf (q 2) 0 16)
  pprAddr := BitVec.ofNat 16 (bitsOf (q 2) 16 16)
  vectors := BitVec.ofNat 8 (bitsOf (q 2) 32 8)
  partials := BitVec.ofNat 8 (bitsOf (q 2) 40 8)
  outGran := BitVec.ofNat 16 (bitsOf (q 2) 48 16)
  inRef := BitVec.ofNat 48 (bitsOf (q 3) 0 48)
  outRef := BitVec.ofNat 48 (bitsOf (q 4) 0 48)
  auxRef := BitVec.ofNat 48 (bitsOf (q 5) 0 48)
  kernel := BitVec.ofNat 16 (bitsOf (q 5) 48 16)
  succAddr := BitVec.ofNat 16 (bitsOf (q 6) 0 16)
  succCnt := BitVec.ofNat 8 (bitsOf (q 6) 16 8)
  srSeed := BitVec.ofNat 32 (bitsOf (q 6) 32 32)
  reqBase := BitVec.ofNat 48 (bitsOf (q 7) 0 48)
  tmpl := BitVec.ofNat 16 (bitsOf (q 7) 48 16)
  rsvd := decide (bitsOf (q 0) 17 15 ≠ 0 ∨ bitsOf (q 1) 10 6 ≠ 0 ∨ bitsOf (q 3) 48 16 ≠ 0 ∨ bitsOf (q 4) 48 16 ≠ 0 ∨
    bitsOf (q 6) 24 8 ≠ 0)

/-- A descriptor from 64 bytes. -/
def descOfBytes (b : List Byte) : Desc := descOf fun i => leNat ((b.drop (8 * i)).take 8)

/-- The request fields of a task (R137). -/
def reqOf (d : Desc) : ReqFields :=
  { cls := d.cls, nodl := d.nodl, deadline := d.deadline, channel := d.channel, cch := d.cch, seq := d.seq,
    mepoch := d.mepoch, reqBase := d.reqBase }

/-- Build a task from a template (R137): insert the request fields and add REQ_BASE to the references. -/
def buildTask (t : Desc) (tmpl : W16) (r : ReqFields) : Desc :=
  { t with cls := r.cls, nodl := r.nodl, deadline := r.deadline, channel := r.channel, cch := r.cch, seq := r.seq,
           mepoch := r.mepoch, reqBase := r.reqBase, tmpl := tmpl,
           inRef := t.inRef + r.reqBase, outRef := t.outRef + r.reqBase, auxRef := t.auxRef + r.reqBase }

/-- The descriptor check of R136 at entry to a deque; a spawned task must have DEPS above 0. -/
def descValid (d : Desc) (spawned : Bool) : Bool :=
  decide (d.kind.toNat ≤ 2) && decide (d.cls.toNat ≤ 2) && !d.rsvd &&
  !(d.nodl && decide (d.cls.toNat ≠ 2)) && !(spawned && decide (d.deps = 0)) &&
  decide (d.kind.toNat ≠ 0 ∨ (1 ≤ d.vectors.toNat ∧ d.vectors.toNat ≤ 64 ∧ d.partials.toNat ≤ 32)) &&
  decide (d.succAddr.toNat % 8 = 0)

/-! ## The post-processing record (R99) -/

/-- A field of the record: word, lowest bit, width. -/
def pprBits (p : List W32) (word lo width : Nat) : Nat := bitsOf (nth 0 p word).toNat lo width

/-- SCALE_SRC. -/
def pprScaleSrc (p : List W32) : Bool := decide (pprBits p 0 0 1 = 1)
/-- BIAS_EN. -/
def pprBias (p : List W32) : Bool := decide (pprBits p 0 1 1 = 1)
/-- ADAPTER. -/
def pprAdapter (p : List W32) : Bool := decide (pprBits p 0 2 1 = 1)
/-- RERUN_EN. -/
def pprRerun (p : List W32) : Bool := decide (pprBits p 0 3 1 = 1)
/-- STATS_EN. -/
def pprStats (p : List W32) : Bool := decide (pprBits p 0 4 1 = 1)
/-- RQ_MODE (R94). -/
def pprMode (p : List W32) : Nat := pprBits p 0 5 3
/-- OUT_FMT (R94). -/
def pprFmt (p : List W32) : Nat := pprBits p 0 8 4
/-- ACT_FN (R93). -/
def pprAct (p : List W32) : Nat := pprBits p 0 12 4
/-- ADJ. -/
def pprAdj (p : List W32) : Int := toSigned 8 (pprBits p 0 16 8)
/-- IN_ZP. -/
def pprInZp (p : List W32) : Nat := pprBits p 1 0 12
/-- OUT_ZP. -/
def pprOutZp (p : List W32) : Nat := pprBits p 1 16 12
/-- IN_SCALE. -/
def pprInScale (p : List W32) : W32 := nth 0 p 2
/-- OUT_SCALE. -/
def pprOutScale (p : List W32) : W32 := nth 0 p 3
/-- BIAS_ADDR. -/
def pprBiasAddr (p : List W32) : Nat := pprBits p 4 0 16
/-- ACT_TBL_ADDR. -/
def pprActAddr (p : List W32) : Nat := pprBits p 4 16 16
/-- HIST_ADDR or OSCALE_ADDR. -/
def pprHistAddr (p : List W32) : Nat := pprBits p 5 0 16
/-- HOLD_ADDR. -/
def pprHoldAddr (p : List W32) : Nat := pprBits p 5 16 16
/-- CLIP_THR. -/
def pprClipThr (p : List W32) : Nat := pprBits p 6 0 16
/-- STATS_ADDR. -/
def pprStatsAddr (p : List W32) : Nat := pprBits p 6 16 16
/-- NMSE_THR. -/
def pprNmseThr (p : List W32) : W32 := nth 0 p 7

/-- The checks of R94, R99 and R100 on a record. -/
def pprValid (p : List W32) : Bool :=
  let aligned := fun (used : Bool) (a : Nat) => !used || decide (a % 8 = 0)
  decide (pprBits p 0 24 8 = 0 ∧ pprBits p 1 12 4 = 0 ∧ pprBits p 1 28 4 = 0) &&
  decide (pprMode p ≤ 4 ∧ pprFmt p ≤ 10 ∧ pprAct p ≤ 2) &&
  decide (pprMode p ≠ 0 ∨ 6 ≤ pprFmt p) &&
  decide (¬(1 ≤ pprMode p ∧ pprMode p ≤ 3) ∨ pprFmt p ≤ 5) &&
  aligned (pprBias p) (pprBiasAddr p) &&
  aligned (decide (pprAct p = 2)) (pprActAddr p) &&
  aligned (decide (pprMode p = 2 ∨ pprMode p = 3)) (pprHistAddr p) &&
  aligned (pprRerun p || pprAdapter p) (pprHoldAddr p) &&
  aligned (pprStats p) (pprStatsAddr p) &&
  !((pprRerun p || pprAdapter p) && decide (pprHoldAddr p = 0)) &&
  (pprScaleSrc p || posNormal (pprInScale p))

/-- Every address the record's settings make the task use lies in the tile's table frames of 16 KiB (R99, R257). -/
def pprInFrames (p : List W32) (frames : Nat) : Bool :=
  let inside := fun (used : Bool) (a : Nat) => !used || decide (a < frames * 16384)
  inside (pprBias p) (pprBiasAddr p) &&
  inside (decide (pprAct p = 2)) (pprActAddr p) &&
  inside (decide (pprMode p = 2 ∨ pprMode p = 3)) (pprHistAddr p) &&
  inside (pprRerun p || pprAdapter p) (pprHoldAddr p) &&
  inside (pprStats p) (pprStatsAddr p)

end Sys2Proof.Machine
end

