-- ==== Sys2Proof/Machine/Memory.lean ====
section
/-! DEFINITION. The device range (R254 to R277) and tile SRAM: homes, the owner check of R261, reads and writes with
poison, what a fenced home does to an access (R369). -/

namespace Sys2Proof.Machine

/-! ## Homes -/

/-- The home-table entry of a page number (R259). -/
def homeOf (page : Nat) (s : State) : Home := sget {} page s.range.homes

/-- Write a home-table entry. -/
def setHome (page : Nat) (h : Home) (s : State) : State :=
  { s with range := { s.range with homes := sset {} page h s.range.homes } }

/-- The keeper of a page: the engine of the half of address bit 16, or the other one while that half or engine is
fenced (R260, R370). -/
def keeper (page : Nat) (s : State) : Half :=
  let h := halfOf (page % 2)
  if fenced (.mig h) s = true ∨ fenced (.cc h) s = true then Half.other h else h

/-- T1 slot → board-memory channel of its half: slots lie in the channels in turn. -/
def slotChannel (h : Half) (slot : Nat) : Nat := Half.num h * 8 + slot % 8

/-- The physical tiles that hold the quarters of a T0 page (R257). -/
def quartetTiles (loc : Nat) (s : State) : List Nat :=
  (List.range 4).filterMap fun q => serving (4 * (loc % 256) + q) s

/-- The page is homed in a fenced unit (R369). -/
def homeFenced (h : Home) (s : State) : Bool :=
  if h.tier = 0 then
    (List.range 4).any fun q => match serving (4 * (h.loc % 256) + q) s with
      | some p => fenced (tilePage p) s
      | none => true
  else if h.tier = 1 then
    let half := halfOf (bitsOf h.loc 21 1)
    let c : Page := .bm (Fin.ofNat 16 (slotChannel half (h.loc % 2 ^ 21)))
    fenced c s || !(isOn c s) || fenced (.cc half) s
  else false

/-! ## Owners (R261) -/

/-- Who makes a range access. -/
inductive Accessor where
  | host (mid : W16)
  | task (chan : Nat) (handle : Option Nat)
  | system

/-- The function a channel is assigned to. -/
def chanPage (c : Nat) : Page := .chan (Fin.ofNat 512 c)
/-- CHAN_ASSIGN.MID of a channel. -/
def chanMid (c : Nat) (s : State) : W16 := BitVec.ofNat 16 (fget (chanPage c) Reg.CHAN_CHAN_ASSIGN_MID s)
/-- CHAN_ASSIGN.VALID. -/
def chanValid (c : Nat) (s : State) : Bool := decide (fget (chanPage c) Reg.CHAN_CHAN_ASSIGN_VALID s = 1)

/-- The owner check of R261. A FREE page is denied to hosts and tasks (R255). -/
def mayAccess (who : Accessor) (write : Bool) (h : Home) (s : State) : Bool :=
  match who with
  | .system => true
  | .host mid =>
    if h.st = .free then false
    else if h.ownerKind = 1 then decide (h.owner = mid.toNat)
    else if h.ownerKind = 2 then chanValid h.owner s && decide (chanMid h.owner s = mid)
    else false
  | .task c handle =>
    if h.st = .free then false
    else if h.ownerKind = 1 then chanValid c s && decide ((chanMid c s).toNat = h.owner)
    else if h.ownerKind = 2 then decide (h.owner = c)
    else if h.ownerKind = 3 then decide (handle = some h.owner) && (!write || h.taskWr)
    else false

/-- A denial under R261, counted and recorded on the keeper's page. -/
def rangeDenied (mid : W16) (addr : Nat) (s : State) : State :=
  let p : Page := .mig (keeper (addr / 65536) s)
  let s := satInc p Reg.MIG_DENIED_CNT_COUNT 1 s
  let s := if fget p Reg.MIG_DENIED_REC_HI_VALID s = 0 then
      s |> fset p Reg.MIG_DENIED_CNT_MID mid.toNat |> fset p Reg.MIG_DENIED_REC_LO_ADDR addr
        |> fset p Reg.MIG_DENIED_REC_HI_ADDR (addr / 2 ^ 32) |> fset p Reg.MIG_DENIED_REC_HI_VALID 1
    else s
  raise p 13 s

/-- Pages a span of bytes touches. -/
def spanPages (addr len : Nat) : List Nat := (List.range (unitsOf 65536 (addr % 65536 + len))).map fun i => addr / 65536 + i

/-! ## Reads and writes -/

/-- Bytes of the range; a byte never written reads 0 (R273). -/
def rangeBytes (addr len : Nat) (s : State) : List Byte := sgetAll 0 addr len s.range.mem

/-- Granules of 64 bytes that a span touches. -/
def spanGranules (addr len : Nat) : List Nat :=
  if len = 0 then [] else (List.range ((addr % 64 + len + 63) / 64)).map fun i => addr / 64 + i

/-- Some granule of a span delivers poison: its mark is set, or its home is fenced (R276, R369). -/
def rangePoison (addr len : Nat) (s : State) : Bool :=
  ((spanGranules addr len).any fun g => sget false g s.range.poison) ||
    (spanPages addr len).any fun p => decide ((homeOf p s).st ≠ .free) && homeFenced (homeOf p s) s

/-- The lines of a page that a span covers become dirty in every move of that page (R266). -/
def dirtyMoves (addr len : Nat) (m : Move) : Move :=
  { m with dirty := (spanGranules addr len).foldl (fun d g =>
      if g / 1024 = m.page ∧ ¬ d.contains (g % 1024) then d ++ [g % 1024] else d) m.dirty }

/-- Poison marks after a write (R276): poisoned data set them, a full-granule write of sound data clears them, a
partial write leaves them. -/
def markWrite (addr len : Nat) (poison : Bool) (s : State) : State :=
  let one := fun (r : Range) (g : Nat) =>
    let full := decide (addr ≤ g * 64 ∧ g * 64 + 64 ≤ addr + len)
    { r with poison := if poison then sset false g true r.poison else if full then sset false g false r.poison
                       else r.poison,
             written := sset false g true r.written }
  { s with range := (spanGranules addr len).foldl one s.range }

/-- POISON_CNT of the half that homes a page (R279). -/
def countPoison (addr n : Nat) (s : State) : State :=
  let h := homeOf (addr / 65536) s
  let half := if h.tier = 1 then halfOf (bitsOf h.loc 21 1) else
    match serving (4 * (h.loc % 256)) s with
    | some p => tileHalf p
    | none => .north
  if h.tier < 2 ∧ 0 < n then wrapInc (.mig half) Reg.MIG_POISON_CNT_COUNT n s else s

/-- Store bytes with or without poison. A write of poisoned data marks its granules; a poisoned granule that already
held bytes keeps the bytes written. -/
def rangeWrite (addr : Nat) (bytes : List Byte) (poison : Bool) (s : State) : State :=
  let s := markWrite addr bytes.length poison s
  let s := { s with range := { s.range with mem := ssetAll 0 addr bytes s.range.mem,
                                            moves := s.range.moves.map (dirtyMoves addr bytes.length) } }
  if poison then countPoison addr (spanGranules addr bytes.length).length s else s

/-- Set poison marks over whole granules without touching the bytes (R141, R276). -/
def poisonExtent (addr granules : Nat) (s : State) : State :=
  let gs := spanGranules addr (granules * 64)
  let s := { s with range := { s.range with poison := gs.foldl (fun r g => sset false g true r) s.range.poison,
                                            written := gs.foldl (fun r g => sset false g true r) s.range.written } }
  countPoison addr gs.length s

/-! ## Tile SRAM (R257) -/

/-- Bytes of a tile's SRAM. -/
def sramBytes (tile off len : Nat) (s : State) : List Byte := sgetAll 0 (tile * 65536 + off) len s.sram

/-- A granule of the span is poisoned. -/
def sramPoisoned (tile off len : Nat) (s : State) : Bool :=
  (spanGranules (tile * 65536 + off) len).any fun g => sget false g s.sramPoison

/-- Store bytes in a tile's SRAM. -/
def sramWrite (tile off : Nat) (bytes : List Byte) (s : State) : State :=
  let a := tile * 65536 + off
  let clear := fun (m : Store Bool) (g : Nat) =>
    if a ≤ g * 64 ∧ g * 64 + 64 ≤ a + bytes.length then sset false g false m else m
  { s with sram := ssetAll 0 a bytes s.sram, sramPoison := (spanGranules a bytes.length).foldl clear s.sramPoison }

/-- A 32-bit word of tile SRAM. -/
def sramWord (tile off : Nat) (s : State) : W32 := BitVec.ofNat 32 (leNat (sramBytes tile off 4 s))

/-- The offset lies in the tile's table frames (R257). -/
def inTable (tile off : Nat) (s : State) : Bool := decide (off < (tileOf tile s).tblFrames * 16384)

/-! ## Errors of the storage (R274, R275) -/

/-- Distinct slots of a channel with an uncorrectable granule since a time. -/
def recentSlots (c : Nat) (since : Nat) (s : State) : Nat :=
  ((s.badSlots.filter fun b => decide (since ≤ b.2 ∧ slotChannel (halfOf (b.1 / 2 ^ 21)) (b.1 % 2 ^ 21) = c)).map
    fun b => b.1).eraseDups.length

/-- An uncorrectable granule in a T1 slot (R281, R366): the channel's record and counts; three distinct slots within a
second fence the channel with CAUSE 8. -/
def slotError (loc : Nat) (s : State) : State :=
  let c := slotChannel (halfOf (loc / 2 ^ 21)) (loc % 2 ^ 21)
  let p : Page := .bm (Fin.ofNat 16 c)
  let s := if s.badSlots.any (fun b => decide (b.1 = loc)) then s else satInc p Reg.BM_BM_UNCORR_SLOTS 1 s
  let s := { s with badSlots := s.badSlots ++ [(loc, s.timer)] }
  let n := recentSlots c (s.timer - second) s
  let s := fset p Reg.BM_BM_UNCORR_LAST_SEC n s
  let s := if fget p Reg.BM_BM_ERR_REC_VALID s = 0 then
      fset p Reg.BM_BM_ERR_REC_VALID 1 (fset p Reg.BM_BM_ERR_REC_SLOT (loc % 2 ^ 21) s)
    else s
  let s := raise p 10 s
  if 3 ≤ n then fencePage p 8 s else s

/-- Mark a granule of the range poisoned (R276). -/
def poisonGranule (g : Nat) (s : State) : State :=
  { s with range := { s.range with poison := sset false g true s.range.poison } }

/-- Record a storage error of the tier that homes the address: corrected, or detected and not corrected, in which case
its granule is poisoned. -/
def storageError (addr : Nat) (correctable : Bool) (s : State) : State :=
  let h := homeOf (addr / 65536) s
  if 2 ≤ h.tier then s else
  let half := if h.tier = 1 then halfOf (bitsOf h.loc 21 1) else
    match serving (4 * (h.loc % 256) + addr / 16384 % 4) s with
    | some p => tileHalf p
    | none => .north
  let p : Page := .mig half
  let s :=
    if correctable = true then
      (if h.tier = 0 then satInc p Reg.MIG_CORR_CNT_T0 1 s else satInc p Reg.MIG_CORR_CNT_T1 1 s)
    else if h.tier = 0 then satInc p Reg.MIG_UNCORR_CNT_T0 1 s
    else satInc p Reg.MIG_UNCORR_CNT_T1 1 s
  let s := if fget p Reg.MIG_CORR_REC_HI_VALID s = 0 then
      s |> fset p Reg.MIG_CORR_REC_LO_ADDR addr |> fset p Reg.MIG_CORR_REC_HI_ADDR (addr / 2 ^ 32)
        |> fset p Reg.MIG_CORR_REC_HI_TIER h.tier |> fset p Reg.MIG_CORR_REC_HI_CLASS h.cls
        |> fset p Reg.MIG_CORR_REC_HI_UNCORR (if correctable then 0 else 1) |> fset p Reg.MIG_CORR_REC_HI_VALID 1
    else s
  let s := raise p (if correctable then 9 else 10) s
  if correctable = true then s else
    let s := poisonGranule (addr / 64) s
    if h.tier = 1 then slotError (h.loc % 2 ^ 22) s else s

/-- The handle a request named at admission (R261). -/
def requestHandle (chan : Nat) (seq : W32) (s : State) : Option Nat :=
  ((s.reqs.filter fun r => decide (r.chan = chan ∧ r.seq = seq)).map fun r => r.handle)[0]?

/-- What a task may do with a span: the owner check over each page it touches (R255, R261). -/
def taskMay (d : Desc) (write : Bool) (addr len : Nat) (s : State) : Bool :=
  (spanPages addr len).all fun p =>
    mayAccess (.task d.channel.toNat (requestHandle d.channel.toNat d.seq s)) write (homeOf p s) s

end Sys2Proof.Machine
end

