-- ==== Sys2Proof/Machine/Array.lean ====
section
/-! DEFINITION. Shared operations of a tile's arrays and post-processor (chapters 3 to 5): row storage, counts and
their checks, column sums, staging, scaling, requantisation. -/

namespace Sys2Proof.Machine

/-! ## Rows (R57, R64, R67, R110, R122) -/

/-- Number of ones among the low `n` bits. -/
def popcount : Nat → Nat → Nat
  | 0, _ => 0
  | n + 1, v => v % 2 + popcount n (v / 2)

/-- The row as stored: BI5 forces columns 1,020 to 1,023 to 0 (R57). -/
def forcedRow (fmt : BitVec 2) (data : BitVec 1024) : BitVec 1024 :=
  if fmt = 2 then BitVec.ofNat 1024 (data.toNat % 2 ^ 1020) else data

/-- Checksum bits: the row's popcount (R110). -/
def rowCsum (data : BitVec 1024) : BitVec 11 := BitVec.ofNat 11 (popcount 1024 data.toNat)

/-- Store a row in a bank (R64, R67). -/
def storeRow (b : Bank) (sub row : Nat) (data : BitVec 1024) (poison : Bool) : Bank :=
  let d := forcedRow b.wfmt data
  let k := sub * 128 + row
  { b with mem := sset none k (some ⟨d, rowCsum d, poison⟩) b.mem,
           poisonRows := if poison then b.poisonRows + 1 else b.poisonRows,
           poisonFirst := if poison ∧ b.poisonFirst = none then some k else b.poisonFirst }

/-- Distinct rows written in a subarray (R76). -/
def rowsIn (b : Bank) (sub : Nat) : Nat := (b.mem.filter fun e => decide (e.1 / 128 = sub)).length

/-- BANKx_STATE.ROWS_DONE (R76). -/
def rowsDone (b : Bank) : Nat := (List.range 8).foldl (fun m i => min m (rowsIn b i)) 128

/-- Rows 0 to ROWS − 1 of all 8 subarrays have been written (R64). -/
def rowsComplete (b : Bank) : Bool := decide (8 * b.rows ≤ b.mem.length)

/-- All 32 × O scale codes have arrived (R88). -/
def scalesDone (b : Bank) : Bool := decide (1 ≤ b.rows ∧ 32 * wfmtOutputs b.wfmt ≤ b.codes)

/-- The column-sum sweep is owed before the bank's next task (R89). -/
def sweepOwed (p : Nat) (b : Bank) (s : State) : Bool :=
  decide (fget (tilePage p) Reg.TILE_PP_CFG_SWEEP_EN s = 1) && decide (b.st = .ready) && scalesDone b && !b.swept &&
    !b.skewed

/-- The stored row at an index, if its row number is enabled (R64). -/
def rowAt (b : Bank) (sub row : Nat) : Option Row := if row < b.rows then sget none (sub * 128 + row) b.mem else none

/-! ## Regions and sensors (R69, R434) -/

/-- The sensor of a tile's region: north 0 to 15, south 16 to 31, by mesh row (R434). -/
def regionOf (p : Nat) : Nat := p / 528 * 16 + p % 528 / 33

/-- The reading in use of a sensor. -/
def sensorOf (i : Nat) (s : State) : Sensor := sget {} i s.sensors

/-! ## Counts of a pass (R49, R110 to R112) -/

/-- Bit p of the staged element that drives a row of a subarray (R48). -/
def inputBit (v : VecIn) (subsPerSet sub row p : Nat) : Bool :=
  decide (bitsOf (nth 0 v.elems (sub % subsPerSet * 128 + row)) p 1 = 1)

/-- The enabled rows of a row group whose input bit is 1, as numbers within the group. -/
def driven (b : Bank) (v : VecIn) (sub g p : Nat) : List Nat :=
  (List.range 32).filter fun r =>
    decide (g * 32 + r < b.rows) && inputBit v (foldSubs b.fold) sub (g * 32 + r) p

/-- The true count of a column (R49): data, checksum (R110) and reference columns (R122). -/
def trueCount (b : Bank) (sub g : Nat) (rows : List Nat) (col : Nat) : Nat :=
  if 1035 ≤ col then
    let t := (col - 1035) * 8
    (rows.filter fun r => decide (r < t)).length
  else
    (rows.filter fun r => match rowAt b sub (g * 32 + r) with
      | some w => if col < 1024 then w.data.getLsbD col else w.csum.getLsbD (col - 1024)
      | none => false).length

/-- D − C of a pass whose listed columns delivered these codes (R111); the other columns count truly. -/
def passDelta (b : Bank) (sub g : Nat) (rows : List Nat) (errs : List (Nat × Nat)) : Int :=
  errs.foldl (fun d e =>
    let n := trueCount b sub g rows e.1
    if e.1 < 1024 then d + ((e.2 : Int) - n) else if e.1 < 1035 then d - 2 ^ (e.1 - 1024) * ((e.2 : Int) - n) else d) 0

/-- A reference column delivered another count than the plane gives (R112). -/
def refMismatch (b : Bank) (sub g : Nat) (rows : List Nat) (errs : List (Nat × Nat)) : Bool :=
  errs.any fun e => decide (1035 ≤ e.1 ∧ e.2 ≠ trueCount b sub g rows e.1)

/-- Codes out of range (R70). -/
def outOfRange (errs : List (Nat × Nat)) : Nat := (errs.filter fun e => decide (33 ≤ e.2)).length

/-- The pass consumes a poisoned row (R67). -/
def consumesPoison (b : Bank) (sub g : Nat) (rows : List Nat) : Bool :=
  rows.any fun r => match rowAt b sub (g * 32 + r) with
    | some w => w.poison
    | none => false

/-! ## Dot products and scales (R55, R79, R85) -/

/-- Value of an input pattern. -/
def inValue (v : VecIn) (x : Nat) : Int := if v.signed then toSigned v.planes x else x

/-- The weight of output j of a column set in a row (R56). -/
def weightAt (w : Row) (bits j : Nat) : Int := toSigned bits (bitsOf w.data.toNat (bits * j) bits)

/-- The rows of a row group with their input values. -/
def groupRows (b : Bank) (v : VecIn) (sub g : Nat) : List (Int × Row) :=
  (List.range 32).filterMap fun r =>
    (rowAt b sub (g * 32 + r)).map fun w => (inValue v (nth 0 v.elems (sub % foldSubs b.fold * 128 + g * 32 + r)), w)

/-- dot of R55 for one output, with the counts that passed the checks though wrong. -/
def dotOf (b : Bank) (v : VecIn) (wrongs : List Over) (sub g j : Nat) (rows : List (Int × Row)) : Int :=
  let w := wfmtBits b.wfmt
  let exact := rows.foldl (fun a r => a + r.1 * weightAt r.2 w j) 0
  wrongs.foldl (fun a o =>
    if o.sub = sub ∧ o.group = g ∧ w * j ≤ o.col ∧ o.col < w * j + w then
      let q := o.col - w * j
      let sIn : Int := if v.signed ∧ o.plane + 1 = v.planes then -1 else 1
      let sW : Int := if q + 1 = w then -1 else 1
      a + sIn * sW * 2 ^ (o.plane + q) * o.diff
    else a) exact

/-- The scale codes of bank output j, one per row group of its column set (R87). -/
def scaleCodes (p : Nat) (b : Bank) (j : Nat) (s : State) : List Nat :=
  let g := foldGroups b.fold
  (sramBytes p (b.tbl.toNat * 256 + j * g) g s).map fun c => c.toNat

/-- E_j: the smallest c_g − 127 (R85). -/
def refExponent (cs : List Nat) : Int := (cs.foldl min 255 : Nat) - 127

/-- The codes of an output are usable: none is 255 and they spread by at most 31 (R79, R85). -/
def scalesOk (cs : List Nat) : Bool := cs.all (fun c => decide (c ≠ 255)) && decide (cs.foldl max 0 ≤ cs.foldl min 255 + 31)

/-- Clamp to 56-bit two's complement (R86): the value and whether it changed. -/
def clamp56 (v : Int) : Int × Bool :=
  if v < -(2 ^ 55) then (-(2 ^ 55), true) else if 2 ^ 55 - 1 < v then (2 ^ 55 - 1, true) else (v, false)

/-! ## The column-sum sweep (R89, R90) -/

/-- Sweep count of a data column in a row group: the ones stored in enabled rows, with the listed wrong counts. -/
def sweepDiff (errs : List (Fin 8 × Fin 4 × Nat × Nat)) (b : Bank) (sub g col : Nat) : Int :=
  errs.foldl (fun d e =>
    if e.1.val = sub ∧ e.2.1.val = g ∧ e.2.2.1 = col then
      d + ((e.2.2.2 : Int) - trueCount b sub g ((List.range 32).filter fun r => decide (g * 32 + r < b.rows)) col)
    else d) 0

/-- cs(j, g) of R89 for a column set's output. -/
def colSum (b : Bank) (errs : List (Fin 8 × Fin 4 × Nat × Nat)) (sub g j : Nat) : Int :=
  let w := wfmtBits b.wfmt
  let rows := (List.range 32).filterMap fun r => rowAt b sub (g * 32 + r)
  let exact := rows.foldl (fun a r => a + weightAt r w j) 0
  (List.range w).foldl (fun a q =>
    a + (if q + 1 = w then -1 else 1) * 2 ^ q * sweepDiff errs b sub g (w * j + q)) exact

/-- ZPC_j as stored: 0x8000_0000 marks a saturated entry (R89). -/
def zpcEntry (p : Nat) (b : Bank) (errs : List (Fin 8 × Fin 4 × Nat × Nat)) (j : Nat) (s : State) : Nat :=
  let cs := scaleCodes p b j s
  let e := refExponent cs
  let o := wfmtOutputs b.wfmt
  let g := foldGroups b.fold
  let z := (List.range g).foldl (fun a i =>
    a + colSum b errs (j / o * foldSubs b.fold + i / 4) (i % 4) (j % o) * 2 ^ ((Int.ofNat (nth 0 cs i)) - 127 - e).toNat) 0
  if z.natAbs ≤ 2 ^ 31 - 1 then ofSigned 32 z else 0x80000000

/-- The first data column whose sweep total disagrees with its write-time sum (R90). -/
def colsumBadAt (b : Bank) (errs : List (Fin 8 × Fin 4 × Nat × Nat)) : Option (Nat × Nat) :=
  ((errs.map fun e => (e.1.val, e.2.2.1)).filter fun e =>
    decide (e.2 < 1024) && decide ((List.range 4).foldl (fun d g => d + sweepDiff errs b e.1 g e.2) 0 ≠ 0))[0]?

/-- A sweep pass fails its checksum check (R111). -/
def sweepCsumBad (b : Bank) (errs : List (Fin 8 × Fin 4 × Nat × Nat)) : Bool :=
  errs.any fun e =>
    let rows := (List.range 32).filter fun r => decide (e.2.1.val * 32 + r < b.rows)
    let same := (errs.filter fun x => decide (x.1 = e.1 ∧ x.2.1 = e.2.1)).map fun x => (x.2.2.1, x.2.2.2)
    decide (passDelta b e.1.val e.2.1.val rows same ≠ 0) || refMismatch b e.1.val e.2.1.val rows same ||
      decide (0 < outOfRange same)

/-- The bank after a clean sweep, and its ZPC entries in the bank table (R87, R89). -/
def sweepStore (p : Nat) (bank : Bool) (errs : List (Fin 8 × Fin 4 × Nat × Nat)) (s : State) : State :=
  let b := (tileOf p s).bank bank
  let base := b.tbl.toNat * 256 + 32 * wfmtOutputs b.wfmt
  let bytes := (List.range (bankOutputs b)).flatMap fun j => leBytes 4 (zpcEntry p b errs j s)
  sramWrite p base bytes s

/-! ## Reading operand slices (R81 to R83, R295, R296) -/

/-- A slice as read: header, element patterns, bytes it takes with its scale record, poisoned granules' groups,
whether a packed slice is malformed. -/
structure SliceIn where
  hdr : SliceHdr
  elems : List Nat
  poisoned : List Bool
  recAt : Nat
  next : Nat
  bad : Bool

/-- Round up to a 64-byte boundary. -/
def up64 (n : Nat) : Nat := (n + 63) / 64 * 64

/-- A CS4 packed group (R295): mask and nonzero bytes → 32 elements. -/
def cs4Group : Nat → Nat → List Byte → List Nat
  | 0, _, _ => []
  | n + 1, mask, bytes =>
    if mask % 2 = 1 then (nth 0 bytes 0).toNat :: cs4Group n (mask / 2) (bytes.drop 1) else 0 :: cs4Group n (mask / 2) bytes

/-- Read a slice at a range address. The scale record stands in the 8 bytes after the slice's data, and the next
slice on the next 64-byte boundary. -/
def readSlice (packed : Bool) (addr : Nat) (s : State) : SliceIn :=
  let h := sliceHdr (rangeBytes addr 8 s)
  if packed then
    let entry := fun i => leNat (rangeBytes (addr + 8 + 2 * i) 2 s)
    let base := addr + 8 + 2 * (h.blocks + 1)
    let idx := List.range h.blocks
    let len := fun i => entry (i + 1) - entry i
    let mask := fun i => leNat (rangeBytes (base + entry i) 4 s)
    let bad := decide (¬(h.fmt = 2 ∨ h.fmt = 3)) ||
      idx.any fun i => decide (entry (i + 1) < entry i ∨ len i ≠ 4 + popcount 32 (mask i))
    let stop := base + entry h.blocks
    { hdr := h, bad := bad,
      elems := if bad then [] else idx.flatMap fun i => cs4Group 32 (mask i) (rangeBytes (base + entry i + 4) (len i - 4) s),
      poisoned := idx.map fun i => rangePoison addr 8 s || rangePoison (base + entry i) (len i) s,
      recAt := stop, next := addr + up64 (stop + 8 - addr) }
  else
    let n := groupBytes h.fmt
    let stop := addr + 8 + n * h.blocks
    { hdr := h, bad := false,
      elems := unpackElems h.fmt (rangeBytes (addr + 8) (n * h.blocks) s),
      poisoned := (List.range h.blocks).map fun i => rangePoison addr 8 s || rangePoison (addr + 8 + n * i) n s,
      recAt := stop, next := addr + up64 (stop + 8 - addr) }

/-- Slices of one vector in stream order, until they cover `blocks` blocks of 32 elements (at most `fuel` slices). -/
def readSlices (packed : Bool) : Nat → Nat → Nat → State → List (Nat × SliceIn)
  | 0, _, _, _ => []
  | fuel + 1, blocks, addr, s =>
    if blocks = 0 then [] else
    let i := readSlice packed addr s
    (addr, i) :: readSlices packed fuel (blocks - min blocks (max 1 i.hdr.blocks)) i.next s

/-- What staging a vector found: the vector, what to report, the failing status if any, where the next vector is. -/
structure Staged where
  vin : VecIn
  next : Nat
  /-- Skew found: expected tag, found tag, whether a field other than the tag differed (R82). -/
  skew : Option (Nat × Nat × Bool)
  numeric : Bool
  rest : Bool
  status : W16

/-- Stage one input vector (R53, R81 to R83) from `addr`. -/
def stageVector (packed : Bool) (ppr : List W32) (blocks addr : Nat) (s : State) : Staged :=
  let sl := readSlices packed 32 blocks addr s
  let next := match sl.getLast? with
    | some x => x.2.next
    | none => addr
  let poisonVec : VecIn := { elems := [], planes := 0, signed := true, scale := 0, zp := 0, poisonGroups := [], bad := true }
  let fmts := sl.map fun x => x.2.hdr.fmt
  let badFmt := fmts.any fun f => decide (5 < f)
  let mixSign := fmts.any fun f => decide (f % 2 ≠ nth 0 fmts 0 % 2)
  let mix := fmts.any fun f => decide (f ≠ nth 0 fmts 0)
  let mix4 := mix && fmts.any fun f => decide (f < 2)
  let f0 := fmts.foldl max 0
  let widen := mix
  let elems := sl.flatMap fun x =>
    if widen ∧ x.2.hdr.fmt < 4 then
      x.2.elems.map fun e => (if inSigned x.2.hdr.fmt then ofSigned 12 (4 * toSigned 8 e) else 4 * e)
    else x.2.elems
  let groups := sl.flatMap fun x => x.2.poisoned
  let pg := (List.range (groups.length)).filter fun i => nth false groups i
  let vec := fun (sc : W32) (zp : Nat) (bad : Bool) =>
    ({ elems := elems.take (blocks * 32), planes := inBits f0, signed := inSigned f0, scale := sc, zp := zp,
       poisonGroups := pg, bad := bad } : VecIn)
  if sl.any (fun x => x.2.bad) then
    { vin := poisonVec, next := next, skew := none, numeric := false, rest := false, status := 0x0072 }
  else if pprScaleSrc ppr = true then
    let recs := sl.map fun x => (x.2, scaleRec (rangeBytes x.2.recAt 8 s), rangePoison x.2.recAt 8 s)
    let tagBad := (recs.filter fun r => decide (r.1.hdr.tag ≠ r.2.1.tag))[0]?
    let fmtBad := recs.any fun r => decide (r.1.hdr.fmt ≠ r.2.1.fmt)
    let wid := fun (r : SliceIn × ScaleRec × Bool) =>
      if widen ∧ r.1.hdr.fmt < 4 then (fmul r.2.1.scale 0x3E800000, 4 * r.2.1.zp) else (r.2.1.scale, r.2.1.zp)
    let sc := (recs.map wid)[0]?.getD (0, 0)
    let differ := recs.any fun r => decide (wid r ≠ sc)
    let badScale := recs.any fun r => !posNormal r.2.1.scale
    let poisoned := recs.any fun r => r.2.2
    if poisoned = true then
      { vin := poisonVec, next := next, skew := none, numeric := true, rest := false, status := 0 }
    else match tagBad with
    | some r =>
      { vin := poisonVec, next := next, skew := some (r.1.hdr.tag, r.2.1.tag, false), numeric := false, rest := true,
        status := 0 }
    | none =>
      if fmtBad || badFmt || mixSign || mix4 then
        { vin := poisonVec, next := next, skew := some (0, 0, true), numeric := false, rest := true, status := 0 }
      else if badScale then
        { vin := poisonVec, next := next, skew := none, numeric := true, rest := true, status := 0 }
      else if differ then
        { vin := poisonVec, next := next, skew := some (0, 0, true), numeric := false, rest := true, status := 0 }
      else { vin := vec sc.1 sc.2 false, next := next, skew := none, numeric := false, rest := false, status := 0 }
  else if mix || badFmt then
    { vin := poisonVec, next := next, skew := some (0, 0, true), numeric := false, rest := true, status := 0 }
  else
    { vin := vec (pprInScale ppr) (pprInZp ppr) false, next := next, skew := none, numeric := false, rest := false,
      status := 0 }

/-! ## Requantisation (R93 to R98) -/

/-- QMIN and QMAX of an integer OUT_FMT (R95). -/
def qLimits (fmt : Nat) : Int × Int :=
  let n := inBits fmt
  if inSigned fmt then (-(2 ^ (n - 1)), 2 ^ (n - 1) - 1) else (0, 2 ^ n - 1)

/-- The activation of R93; the table's bytes are those copied at task start. -/
def activation (fn : Nat) (tbl : List Byte) (v : W32) : W32 :=
  let word := fun o => BitVec.ofNat 32 (leNat ((tbl.drop o).take 4))
  if fn = 1 then
    match fp v with
    | .nan => qnan
    | .inf false => v
    | .num false _ _ => v
    | _ => 0
  else if fn = 2 then
    match fp v with
    | .nan => qnan
    | x =>
      let u := fmul (fsub v (word 0)) (word 4)
      let i : Nat :=
        match fp u with
        | .nan => if x = .inf false then 255 else 0
        | .inf neg => if neg then 0 else 255
        | .zero _ => 0
        | .num neg m e => if neg then 0 else min 255 (Fp.floor (.num false m e)).toNat
      ffma (word (16 + 8 * i + 4)) v (word (16 + 8 * i))
  else if fp v = .nan then qnan else v

/-- The output scale of a vector (R94, R96): s_y and whether NUMERIC is raised. -/
def outScale (p : Nat) (ppr : List W32) (k : Nat) (s : State) : W32 × Bool :=
  let mode := pprMode ppr
  if mode = 1 then (pprOutScale ppr, false)
  else if mode = 3 then (sramWord p (pprHistAddr ppr + 4 * k) s, false)
  else
    let b := sramBytes p (pprHistAddr ppr) 72 s
    let head := (nth 0 b 0).toNat % 16
    let n := max 4 (min 16 (nth 0 b 2).toNat)
    let cnt := min (min 16 (nth 0 b 1).toNat) n
    let ms := (List.range cnt).map fun i =>
      (BitVec.ofNat 32 (leNat ((b.drop (8 + 4 * ((head + 16 - i) % 16))).take 4)) : W32)
    let m := ms.foldl (fun a x => if Fp.lt (fp a) (fp x) then x else a) 0
    let q := qLimits (pprFmt ppr)
    let den : Int := if inSigned (pprFmt ppr) then q.2 else q.2 - (pprOutZp ppr : Int)
    let clampS := fun (x : W32) =>
      if Fp.lt (fp x) (.num false 1 (-100)) then fl (.num false 1 (-100))
      else if Fp.lt (.num false 1 100) (fp x) then fl (.num false 1 100) else x
    if ms.any (fun x => !(fp x).finite) then (pprOutScale ppr, true)
    else if m = 0 ∨ cnt = 0 then (pprOutScale ppr, false)
    else if den ≤ 0 then (pprOutScale ppr, true)
    else (clampS (fdiv m (fl (fpOfInt den 0))), false)

/-- One requantised element (R95): its pattern value and whether it was clipped. -/
def requant (fmt : Nat) (r : W32) (zp : Int) (v : W32) : Int × Bool :=
  let q := qLimits fmt
  match fp v with
  | .nan => (max q.1 (min q.2 zp), true)
  | _ =>
    match fp (fmul v r) with
    | .nan => (max q.1 (min q.2 zp), true)
    | .inf neg => (if neg then q.1 else q.2, true)
    | t =>
      let x := t.toIntEven + zp
      if x < q.1 then (q.1, true) else if q.2 < x then (q.2, true) else (x, false)

/-- Requantise a vector and form its statistics (R95, R97): patterns and figures. -/
def requantAll (fmt : Nat) (sy : W32) (zp : Int) (vals : List (W32 × Bool)) : List Nat × Stats :=
  let r := fdiv 0x3F800000 sy
  let step := fun (a : List Nat × Stats) (v : W32 × Bool) =>
    let q := requant fmt r zp v.1
    let st := a.2
    let fin := (fp v.1).finite
    let e := fsub v.1 (fmul sy (fl (fpOfInt (q.1 - zp) 0)))
    (a.1 ++ [ofSigned (inBits fmt) q.1],
     { count := st.count + 1, clip := st.clip + (if q.2 || !fin then 1 else 0),
       sse := if fin then fadd st.sse (fmul e e) else st.sse,
       ssv := if fin then fadd st.ssv (fmul v.1 v.1) else st.ssv })
  vals.foldl step ([], {})

/-- The thresholds of R97. -/
def exceeds (ppr : List W32) (st : Stats) : Bool :=
  (decide (pprClipThr ppr ≠ 0) && decide (pprClipThr ppr * st.count < st.clip * 65536)) ||
  (decide (pprNmseThr ppr ≠ 0) && Fp.lt (fp (fmul (pprNmseThr ppr) st.ssv)) (fp st.sse))

/-- Task totals: the per-vector figures added in vector order (R97). -/
def addStats (a b : Stats) : Stats :=
  { count := a.count + b.count, clip := a.clip + b.clip, sse := fadd a.sse b.sse, ssv := fadd a.ssv b.ssv }

/-- A float output (R95). -/
def floatOut (fmt : Nat) (v : W32) : Nat :=
  let f := if fmt = 6 then e4m3 else if fmt = 7 then e5m2 else if fmt = 8 then bf16 else if fmt = 9 then f16 else f32
  encodeFp f (fp v)

/-- Bytes of one output element. -/
def outBits (fmt : Nat) : Nat :=
  if fmt < 2 then 4 else if fmt < 4 then 8 else if fmt < 6 then 16 else if fmt < 8 then 8 else if fmt < 10 then 16 else 32

/-! ## Tuning arithmetic (R105, R106) -/

/-- One step of the tile's generator (R105). -/
def srStep (x : W32) : W32 :=
  let x := x ^^^ (x <<< 13)
  let x := x ^^^ (x >>> 17)
  x ^^^ (x <<< 5)

/-- The smallest exponent in −127 to 127 for which every magnitude × 2^−e is at most 127 (R105): tried upwards. -/
def blockExp : Nat → Int → List W32 → Int
  | 0, e, _ => e
  | n + 1, e, gs =>
    if gs.all (fun g => !(Fp.lt (.num false 127 e) (.num false ((fp g).sig.natAbs) (fp g).ex))) then e
    else blockExp n (e + 1) gs

/-- Round a value to a BI8 element at exponent e with 16 random bits (R105). -/
def srElem (e : Int) (r16 : Nat) (g : W32) : Int :=
  let x := fp g
  let t : Int := match x with
    | .num _ _ _ => Fp.floor (.num x.neg x.sig.natAbs (x.ex + (16 - e)))
    | _ => 0
  max (-127) (min 127 ((t + r16) / 65536))

/-- Store values as a BI8 block: 32 elements, the scale code, the generator afterwards. -/
def srBlock (seed : W32) (gs : List W32) : List Nat × Nat × W32 :=
  if gs.all (fun g => decide (g.toNat % 2 ^ 31 = 0)) then (gs.map fun _ => 0, 0, gs.foldl (fun x _ => srStep x) seed)
  else
    let e := blockExp 254 (-127) gs
    let r := gs.foldl (fun (a : List Nat × W32) g =>
      let x := srStep a.2
      (a.1 ++ [ofSigned 8 (srElem e (x.toNat % 65536) g)], x)) ([], seed)
    (r.1, (e + 127).toNat, r.2)

/-- FP32 to BF16 by stochastic rounding (R105). -/
def srBf16 (seed : W32) (v : W32) : Nat × W32 :=
  let x := srStep seed
  ((v.toNat + x.toNat % 65536) % 2 ^ 32 / 65536, x)

/-- The hyper-parameters of the tuning record (R106). -/
structure Hyper where
  b1 : W32
  b2 : W32
  eps : W32
  lambda : W32
  lr : W32
  deriving DecidableEq, Repr

/-- One weight's update (R106): m, u and w before, its gradient; m, u and w after. -/
def tuneOne (h : Hyper) (m u w g : W32) : W32 × W32 × W32 :=
  let one : W32 := 0x3F800000
  let m := fadd (fmul h.b1 m) (fmul (fsub one h.b1) g)
  let u := fadd (fmul h.b2 u) (fmul (fsub one h.b2) (fmul g g))
  let d := fadd (fdiv m (fadd (fsqrt u) h.eps)) (fmul h.lambda w)
  (m, u, fsub w (fmul h.lr d))

end Sys2Proof.Machine
end

