-- ==== Sys2Proof/Machine/Deque.lean ====
section
/-! DEFINITION. Shared operations of task work (chapters 5 and 6): deques and their partitions, standing of a CIM
task against the banks, task ends, signals, fences of banks and tiles. -/

namespace Sys2Proof.Machine

/-! ## Partitions (R143) -/

/-- Slots of a partition in use. -/
def partUse (t : Tile) (p : Part) : Nat := (t.deque.filter fun e => decide (e.part = p)).length

/-- Slots of a partition (R143). -/
def partSize : Part → Nat
  | .posted => 176
  | .stolen => 16
  | .spawn => 64

/-- DQ_HWM follows the use of each partition (R162); a partition that has become full raises DQ_FULL (R161). -/
def noteUse (p : Nat) (part : Part) (s : State) : State :=
  let u := partUse (tileOf p s) part
  let f := match part with
    | .posted => Reg.TILE_DQ_HWM_POSTED
    | .stolen => Reg.TILE_DQ_HWM_STOLEN
    | .spawn => Reg.TILE_DQ_HWM_SPAWN
  let s := if fget (tilePage p) f s < u then fset (tilePage p) f u s else s
  if u = partSize part then raise (tilePage p) 29 s else s

/-- Append an entry with the next age. -/
def pushEntry (p : Nat) (d : Desc) (st : TaskSt) (part : Part) (poster : Half) (victim : Option Nat) (s : State) : State :=
  let t := tileOf p s
  let e : Entry := { d := d, st := st, part := part, poster := poster, age := t.ages, vec := 0, victim := victim }
  noteUse p part (setTile p { t with deque := t.deque ++ [e], ages := t.ages + 1 } s)

/-- Change the entry of an age. -/
def modEntry (p age : Nat) (f : Entry → Entry) (s : State) : State :=
  modTile p (fun t => { t with deque := t.deque.map fun e => if e.age = age then f e else e }) s

/-- The entry of an age. -/
def entryOf (t : Tile) (age : Nat) : Option Entry := (t.deque.filter fun e => decide (e.age = age))[0]?

/-- The array context of an age. -/
def ctxOf (t : Tile) (age : Nat) : Option Ctx := (t.ctxs.filter fun c => decide (c.age = age))[0]?

/-- Replace an array context. -/
def setCtx (p : Nat) (c : Ctx) (s : State) : State :=
  modTile p (fun t => { t with ctxs := t.ctxs.map fun x => if x.age = c.age then c else x }) s

/-! ## Rank (R145) -/

/-- Ticks until a deadline as a signed 32-bit difference from the device timer (R145). -/
def slack (d : Desc) (s : State) : Int := toSigned 32 (d.deadline.toNat + 2 ^ 32 - s.timer % 2 ^ 32)

/-- a ranks before b (R145). -/
def ranksBefore (s : State) (a b : Entry) : Bool :=
  if a.d.cls ≠ b.d.cls then decide (a.d.cls.toNat < b.d.cls.toNat)
  else if a.d.nodl ≠ b.d.nodl then b.d.nodl
  else if a.d.nodl = false ∧ slack a.d s ≠ slack b.d s then decide (slack a.d s < slack b.d s)
  else decide (a.age < b.age)

/-- The best-ranked of a list. -/
def bestOf (s : State) : List Entry → Option Entry
  | [] => none
  | e :: t => match bestOf s t with
    | none => some e
    | some b => if ranksBefore s b e = true then some b else some e

/-! ## Standing of a CIM task against the banks (R65, R115) -/

/-- What a CIM task finds. -/
inductive Standing where
  | runs (bank : Bool)
  | waits
  | misses
  deriving DecidableEq, Repr

/-- The standing of one bank for a tag. -/
def bankStanding (b : Bank) (which : Bool) (d : Desc) : Option Standing :=
  if b.wset ≠ d.wset ∨ b.mepoch ≠ d.mepoch then none
  else match b.st with
    | .empty => none
    | .writeHeld | .writing => some .waits
    | .ready => if scalesDone b || b.skewed then some (.runs which) else some .waits
    | .fenced => if b.hold then some .waits else none

/-- R65: a matching READY bank runs the task, a matching bank still being written or under REPAIR_HOLD holds it, no
match misses. -/
def standing (t : Tile) (d : Desc) : Standing :=
  match bankStanding t.bankA false d, bankStanding t.bankB true d with
  | some (.runs b), _ => .runs b
  | _, some (.runs b) => .runs b
  | some x, _ => x
  | _, some x => x
  | none, none => .misses

/-! ## Mesh addresses -/

/-- The control complex that gets a message for `h`: the other one while it is fenced (R139, R142). -/
def ccFor (h : Half) (s : State) : Half := if fenced (.cc h) s = true then Half.other h else h

/-- The tile is the primary of a pair whose mirror stands (R130). -/
def isPrimary (p : Nat) (s : State) : Bool :=
  decide (fget (tilePage p) Reg.TILE_MIRROR_MAP_VALID s = 1 ∧ fget (tilePage p) Reg.TILE_MIRROR_MAP_ROLE s = 0 ∧
    fget (tilePage p) Reg.TILE_MIRROR_MAP_LOST s = 0)

/-- The peer of a pair. -/
def mirrorPeer (p : Nat) (s : State) : Nat := fget (tilePage p) Reg.TILE_MIRROR_MAP_PEER s

/-- Send a signal to the tile that serves its logical number, or back to a control complex (R139). -/
def sendSignal (sig : Signal) (s : State) : State :=
  match serving sig.ltile.toNat s with
  | some p => send (.signal p sig) s
  | none => send (.signalBack sig) s

/-! ## Task ends (R136, R141, R142) -/

/-- The signals of a successor list (R139). -/
def successors (p : Nat) (d : Desc) (s : State) : List Signal :=
  (List.range d.succCnt.toNat).map fun i =>
    let v := leNat (sramBytes p (d.succAddr.toNat + 8 * i) 8 s)
    { ltile := BitVec.ofNat 10 (bitsOf v 0 10), tmpl := BitVec.ofNat 16 (bitsOf v 16 16), req := reqOf d }

/-- Count and record a failure (R161, R162). -/
def recordFail (p : Nat) (d : Desc) (status : W16) (s : State) : State :=
  let g := tilePage p
  let s := satInc g Reg.TILE_TASK_FAIL_CNT_COUNT 1 s
  let s := if fget g Reg.TILE_TASK_FAIL_REC_VALID s = 0 then
      s |> fset g Reg.TILE_TASK_FAIL_REC_STATUS status.toNat |> fset g Reg.TILE_TASK_FAIL_REC_CHANNEL d.channel.toNat
        |> fset g Reg.TILE_TASK_FAIL_REC_KIND d.kind.toNat |> fset g Reg.TILE_TASK_FAIL_SEQ_SEQ d.seq.toNat
        |> fset g Reg.TILE_TASK_FAIL_REC_VALID 1
    else s
  raise g 28 s

/-- The slot that an entry leaves returns its credit (R148). -/
def returnCredit (p : Nat) (e : Entry) (s : State) : State :=
  if e.part = .posted then send (.credit p (ccFor e.poster s)) s else s

/-- The mirror's shadow entry of an ended task goes (R130). -/
def dropShadow (p : Nat) (d : Desc) (s : State) : State :=
  if isPrimary p s = true then
    modTile (mirrorPeer p s) (fun t => { t with deque := t.deque.filter fun x =>
      !(decide (x.st = .shadow) && decide (x.d.channel = d.channel ∧ x.d.seq = d.seq ∧ x.d.tmpl = d.tmpl)) }) s
  else s

/-- A task ends with a status (R141, R142): counters, poison over its extent if it failed, signals, TASK_END, its slot
and credit, the mirror's shadow. `poison` says some output carried poison. -/
def endTaskCore (p : Nat) (e : Entry) (status : W16) (poison : Bool) (s : State) : State :=
  let s := wideInc (tilePage p) Reg.TILE_TASK_CNT_LO_COUNT Reg.TILE_TASK_CNT_HI_COUNT 1 s
  let s := if status = 0 then s else
    poisonExtent e.d.outRef.toNat e.d.outGran.toNat (recordFail p e.d status s)
  let s := (successors p e.d s).foldl (fun s g => sendSignal g s) s
  let s := send (.taskEnd (ccFor e.d.cch s)
    { channel := e.d.channel, seq := e.d.seq, tmpl := e.d.tmpl, cch := e.d.cch, status := status, poison := poison,
      rally := none }) s
  let s := modTile p (fun t => { t with deque := t.deque.filter fun x => decide (x.age ≠ e.age),
                                        ctxs := t.ctxs.filter fun c => decide (c.age ≠ e.age),
                                        cur := if t.cur = some e.age then none else t.cur,
                                        vec := match t.vec with
                                          | some v => if v.1 = e.age then none else some v
                                          | none => none }) s
  dropShadow p e.d (returnCredit p e s)

/-- A WRITE_HELD bank that no context uses any more starts WRITING (R61). -/
def releaseHeld (t : Tile) : Tile :=
  let one := fun (t : Tile) (b : Bool) =>
    let k := t.bank b
    if k.st = .writeHeld ∧ t.ctxs.all (fun c => decide (c.bank ≠ b)) then t.setBank b { k with st := .writing } else t
  one (one t false) true

/-- Bring HELD and READY of every CIM entry in line with the banks; entries that match nothing end with BANK_MISS
(R65, R115). -/
def settle (p : Nat) (s : State) : State :=
  let s := modTile p releaseHeld s
  let t := tileOf p s
  let upd := fun (e : Entry) =>
    if e.d.kind = 0 ∧ (e.st = .ready ∨ e.st = .held) then
      match standing t e.d with
      | .runs _ => { e with st := .ready }
      | .waits => { e with st := .held }
      | .misses => e
    else e
  let s := setTile p { t with deque := t.deque.map upd } s
  let missed := t.deque.filter fun e =>
    decide (e.d.kind = 0 ∧ (e.st = .ready ∨ e.st = .held)) && decide (standing t e.d = .misses)
  missed.foldl (fun s e =>
    endTaskCore p e 0x0021 false (raise (tilePage p) 9 (satInc (tilePage p) Reg.TILE_BANK_MISS_CNT_COUNT 1 s))) s

/-! ## Signals (R140, R149) -/

/-- The template a tile holds at an index (R137): none when it is beyond TMPL_CFG.COUNT. -/
def templateAt (p : Nat) (tmpl : W16) (s : State) : Option Desc :=
  let base := fget (tilePage p) Reg.TILE_TMPL_CFG_BASE s * 256
  if tmpl.toNat < fget (tilePage p) Reg.TILE_TMPL_CFG_COUNT s then
    some (descOfBytes (sramBytes p (base + 64 * tmpl.toNat) 64 s))
  else none

/-- The entry is WAITING under a key (R140). -/
def keyed (sig : Signal) (e : Entry) : Bool :=
  decide (e.st = .waiting ∧ e.d.channel = sig.req.channel ∧ e.d.seq = sig.req.seq ∧ e.d.tmpl = sig.tmpl)

/-- A task built in place that fails at once: no slot is taken. -/
def failUnbuilt (p : Nat) (d : Desc) (status : W16) (s : State) : State :=
  let e : Entry := { d := d, st := .ready, part := .spawn, poster := .north, age := (tileOf p s).ages, vec := 0, victim := none }
  endTaskCore p e status false (modTile p (fun t => { t with ages := t.ages + 1 }) s)

/-- A READY vector task of the tile's own resets its backoff (R154). -/
def ownVectorReady (p : Nat) (d : Desc) (s : State) : State :=
  if d.kind = 0 then s else modTile p (fun t => { t with denies := 0, backoffUntil := 0 }) s

/-- Act on a signal (R140): lower DEPS of the WAITING entry of its key, or build a task under R137. -/
def takeSignal (p : Nat) (sig : Signal) (s : State) : State :=
  let t := tileOf p s
  match (t.deque.filter (keyed sig))[0]? with
  | some e =>
    if e.d.deps = 1 then
      let s := modEntry p e.age (fun e => { e with d := { e.d with deps := 0 }, st := .ready }) s
      settle p (ownVectorReady p e.d s)
    else modEntry p e.age (fun e => { e with d := { e.d with deps := e.d.deps - 1 } }) s
  | none =>
    match templateAt p sig.tmpl s with
    | none =>
      failUnbuilt p (buildTask { descOf (fun _ => 0) with outGran := 0 } sig.tmpl sig.req) 0x0026 s
    | some tm =>
      let d := buildTask tm sig.tmpl sig.req
      let base := fget (tilePage p) Reg.TILE_TMPL_CFG_BASE s * 256
      if inTable p (base + 64 * sig.tmpl.toNat + 63) s = false then failUnbuilt p d 0x0064 s
      else if sramPoisoned p (base + 64 * sig.tmpl.toNat) 64 s = true then failUnbuilt p d 0x0063 s
      else if descValid d true = false then failUnbuilt p d 0x0026 s
      else if d.deps = 1 then
        let d := { d with deps := 0 }
        settle p (ownVectorReady p d (pushEntry p d .ready .spawn .north none s))
      else pushEntry p { d with deps := d.deps - 1 } .waiting .spawn .north none s

/-- The signal would build an entry and the SPAWN partition is full (R149). -/
def mustSpill (p : Nat) (sig : Signal) (s : State) : Bool :=
  let t := tileOf p s
  !(t.deque.any (keyed sig)) && decide (64 ≤ partUse t .spawn)

/-- Each SPAWN slot that frees takes the oldest spilled signal; an empty queue ends spill mode (R149). -/
def drainSpill : Nat → Nat → State → State
  | 0, _, s => s
  | n + 1, p, s =>
    let t := tileOf p s
    match t.spill with
    | [] => if t.spilling then modTile p (fun t => { t with spilling := false }) s else s
    | g :: rest =>
      if mustSpill p g s = true then s
      else
        let s := takeSignal p g (setTile p { t with spill := rest } s)
        drainSpill n p (if rest.isEmpty then modTile p (fun t => { t with spilling := false }) s else s)

/-- A task ends; then the banks and the spill queue move on. -/
def endTask (p : Nat) (e : Entry) (status : W16) (poison : Bool) (s : State) : State :=
  let s := settle p (endTaskCore p e status poison s)
  drainSpill ((tileOf p s).spill.length + 1) p s

/-! ## Fences of banks and tiles (R114, R129, R131) -/

/-- Entries whose context is dropped go back to wait at their current vector (R114). -/
def requeue (t : Tile) (drop : Ctx → Bool) : Tile :=
  let gone := t.ctxs.filter drop
  let upd := fun (e : Entry) => match (gone.filter fun c => decide (c.age = e.age))[0]? with
    | some c => { e with st := .ready, vec := c.vec }
    | none => e
  { t with deque := t.deque.map upd,
           ctxs := t.ctxs.filter fun c => !drop c,
           cur := match t.cur with
             | some a => if gone.any (fun c => decide (c.age = a)) then none else some a
             | none => none,
           subs := t.subs.map fun u => (u.1, { u.2 with pass := match u.2.pass with
             | some q => if gone.any (fun c => decide (c.age = q.age)) then none else some q
             | none => none }) }

/-- The RUNNING bit of ARRAY_STAT and PP_STAT (R76, R109). -/
def noteRunning (p : Nat) (s : State) : State :=
  let on := if (tileOf p s).cur = none then 0 else 1
  s |> fset (tilePage p) Reg.TILE_ARRAY_STAT_RUNNING on |> fset (tilePage p) Reg.TILE_PP_STAT_RUNNING on

/-- Fence a tile as a whole (R129): banks that are not EMPTY become FENCED, running tasks go back to the deque. A
paired primary sends TAKE to its mirror (R131). -/
def fenceTile (p cause : Nat) (s : State) : State :=
  let was := fenced (tilePage p) s
  let s := fencePage (tilePage p) cause s
  if was then s else
  let paired := isPrimary p s
  let bank := fun (b : Bank) => if b.st = .empty then b else { b with st := .fenced }
  let s := modTile p (fun t =>
    let t := requeue t fun _ => true
    { t with bankA := bank t.bankA, bankB := bank t.bankB, sweep := none, vec := none,
             deque := t.deque.map fun e => if e.st = .running then { e with st := .ready } else e }) s
  let s := noteRunning p s
  if paired then send (.take (mirrorPeer p s)) s else s

/-- Fence one bank for a persistent mismatch or a late refresh (R114, R121): FENCED with REPAIR_HOLD, the vector in
progress dropped, its task back at the head of the deque. A Sustained primary is fenced whole instead (R130). -/
def fenceBank (p : Nat) (bank : Bool) (sub : Nat) (s : State) : State :=
  if isPrimary p s = true then fenceTile p 1 s else
  let s := modTile p (fun t =>
    let k := t.bank bank
    let t := requeue t fun c => decide (c.bank = bank)
    t.setBank bank { k with st := .fenced, hold := true, holdAt := s.timer,
                            subFenced := k.subFenced ||| BitVec.ofNat 8 (2 ^ sub) }) s
  let s := fset (tilePage p) (if bank then Reg.TILE_INTEG_STAT_HOLD_B else Reg.TILE_INTEG_STAT_HOLD_A) 1 s
  let f := if bank then Reg.TILE_INTEG_STAT_SUBF_B else Reg.TILE_INTEG_STAT_SUBF_A
  let s := fset (tilePage p) f (fget (tilePage p) f s ||| 2 ^ sub) s
  settle p (noteRunning p s)

/-- Repairs completed in the last second (R118, R134). -/
def recentRepairs (t : Tile) (s : State) : Nat := (t.repairEnds.filter fun x => decide (s.timer < x + second)).length

/-- A persistent mismatch on a subarray (R114, R118). -/
def persistent (p : Nat) (bank : Bool) (sub : Nat) (s : State) : State :=
  let g := tilePage p
  let s := raise g 21 (satInc g Reg.TILE_CSUM_PERSIST_CNT_COUNT 1 s)
  let third := decide (2 ≤ recentRepairs (tileOf p s) s)
  let s := fenceBank p bank sub s
  if third then fenceTile p 1 s else s

/-- A bank reaches READY (R64): BANK_READY, and the tasks that wait for it. -/
def bankReady (p : Nat) (bank : Bool) (s : State) : State :=
  let s := modTile p (fun t => t.setBank bank { t.bank bank with st := .ready }) s
  settle p (raise (tilePage p) 11 s)

/-- Clear REPAIR_HOLD and the fenced subarrays of a bank (R116). -/
def clearHold (p : Nat) (bank : Bool) (s : State) : State :=
  let s := modTile p (fun t => t.setBank bank { t.bank bank with hold := false, subFenced := 0 }) s
  s |> fset (tilePage p) (if bank then Reg.TILE_INTEG_STAT_HOLD_B else Reg.TILE_INTEG_STAT_HOLD_A) 0
    |> fset (tilePage p) (if bank then Reg.TILE_INTEG_STAT_SUBF_B else Reg.TILE_INTEG_STAT_SUBF_A) 0

/-- A refused bank write or row (R62). -/
def writeReject (p : Nat) (reason : Nat) (mid : W16) (s : State) : State :=
  s |> fset (tilePage p) Reg.TILE_WR_REJECT_REASON reason |> fset (tilePage p) Reg.TILE_WR_REJECT_MID mid.toNat
    |> raise (tilePage p) 10

/-- The first skew since SKEW_REC was cleared (R82, R107). -/
def recordSkew (p expected found stream : Nat) (field : Bool) (s : State) : State :=
  let g := tilePage p
  let s := satInc g Reg.TILE_SKEW_CNT_COUNT 1 s
  let s := if fget g Reg.TILE_SKEW_REC_VALID s = 0 then
      s |> fset g Reg.TILE_SKEW_REC_EXPECTED expected |> fset g Reg.TILE_SKEW_REC_FOUND found
        |> fset g Reg.TILE_SKEW_REC_STREAM stream |> fset g Reg.TILE_SKEW_REC_FIELD (if field then 1 else 0)
        |> fset g Reg.TILE_SKEW_REC_VALID 1
    else s
  raise g 16 s

end Sys2Proof.Machine
end

