-- ==== Sys2Proof/Machine/Tile.lean ====
section
/-! DEFINITION. The commands of chapters 3 and 5: bank writes, passes, refresh, calibration, repair, the column-sum
sweep, the bench and mirrored pairs. -/

namespace Sys2Proof.Machine

/-! ## BANK_WRITE_COMMAND (R61, R62, R108) -/

/-- The lowest-numbered reason to refuse a GO (R62), 0 for none. -/
def bankWriteReason (p : Nat) (bank : Bool) (wset mepoch : Nat) (rows : Nat) (s : State) : Nat :=
  let t := tileOf p s
  let k := t.bank bank
  let o := t.bank (!bank)
  if rows = 0 ∨ 128 < rows then 1
  else if o.wset.toNat = wset ∧ o.mepoch.toNat = mepoch ∧ o.st ≠ .empty then 2
  else if k.st = .fenced ∨ fenced (tilePage p) s = true then 3
  else if k.st = .writeHeld ∨ k.st = .writing then 4
  else 0

/-- An accepted GO (R61): tag and configuration copied, records cleared, WRITE_HELD while a task uses the bank. -/
def startBankWrite (p : Nat) (bank : Bool) (wset mepoch : W16) (wfmt fold : BitVec 2) (rows : Nat) (tbl : Byte)
    (s : State) : State :=
  let t := tileOf p s
  let busy := t.ctxs.any fun c => decide (c.bank = bank)
  settle p (setTile p (t.setBank bank { st := if busy then .writeHeld else .writing, wset := wset, mepoch := mepoch, wfmt := wfmt, fold := fold, rows := rows, tbl := tbl }) s)

/-- A write of BANK_WR_CMD that the page admits. -/
def bankWriteCmd (w : Wr) (p : Nat) (data : W32) (s : State) : State :=
  let g := tilePage p
  let v := data.toNat
  let s := s |> fset g Reg.TILE_BANK_WR_CMD_BANK v |> fset g Reg.TILE_BANK_WR_CMD_WFMT (bitsOf v 1 2)
    |> fset g Reg.TILE_BANK_WR_CMD_FOLD (bitsOf v 3 2) |> fset g Reg.TILE_BANK_WR_CMD_ROWS (bitsOf v 8 8)
  if bitsOf v 31 1 = 0 then s else
  let bank := decide (bitsOf v 0 1 = 1)
  let wset := fget g Reg.TILE_BANK_WR_TAG_WSET s
  let mep := fget g Reg.TILE_BANK_WR_TAG_MEPOCH s
  let r := bankWriteReason p bank wset mep (bitsOf v 8 8) s
  if r ≠ 0 then writeReject p r w.mid s
  else startBankWrite p bank (BitVec.ofNat 16 wset) (BitVec.ofNat 16 mep) (BitVec.ofNat 2 (bitsOf v 1 2))
    (BitVec.ofNat 2 (bitsOf v 3 2)) (bitsOf v 8 8) (BitVec.ofNat 8 (fget g Reg.TILE_TBL_WR_BASE_BASE s)) s

/-- BANK_WRITE_COMMAND (R61). -/
def execBankWriteCommand (w : Wr) (tile : Fin 1056) (data : W32) (s : State) : Host.Outcome State Fault Refusal :=
  .next (guarded w (.tile tile) 0x134 (bankWriteCmd w tile.val data) s)

/-! ## PASS_START (R52, R58, R69, R71, R125) -/

/-- The thermal hold before a pass (R69). -/
def thermalHold (p : Nat) (s : State) : State :=
  let t := tileOf p s
  let temp := (sensorOf (regionOf p) s).temp
  let g := tilePage p
  if t.thermHold = false ∧ 840 < temp then
    s |> setTile p { t with thermHold := true } |> fset g Reg.TILE_ARRAY_STAT_THERM_HOLD 1
      |> satInc g Reg.TILE_THERM_HOLD_CNT_COUNT 1 |> raise g 13
  else if t.thermHold = true ∧ temp ≤ 824 then
    s |> setTile p { t with thermHold := false } |> fset g Reg.TILE_ARRAY_STAT_THERM_HOLD 0
  else s

/-- The plane is zero on every enabled row of the group (R58). -/
def planeZero (b : Bank) (v : VecIn) (sub g p : Nat) : Bool := (driven b v sub g p).isEmpty

/-- Advance a subarray's position in its pass order (R54). -/
def advance (c : Ctx) (sub : Nat) : Ctx := { c with pos := c.pos.set sub (nth 0 c.pos sub + 1) }

/-- A subarray issues its next pass, skips a zero plane, or holds. -/
def passStart (p sub : Nat) (s : State) : State :=
  let s := thermalHold p s
  let t := tileOf p s
  let g := tilePage p
  match t.cur.bind fun a => ctxOf t a with
  | none => s
  | some c =>
    let i := 8 * bankNum c.bank + sub
    let u := t.sub i
    let b := t.bank c.bank
    let pos := nth 0 c.pos sub
    let group := pos / max 1 c.vin.planes
    let plane := pos % max 1 c.vin.planes
    let block := sub % foldSubs b.fold * 4 + group
    if t.thermHold = true ∨ u.pass ≠ none ∨ c.finished = true ∨ c.held ≠ none ∨ 4 * c.vin.planes ≤ pos then s
    else if u.calRun ≠ none ∨ (u.calDue = true ∧ u.calHard = true) then fset g Reg.TILE_ARRAY_STAT_CAL_WAIT 1 s
    else if c.vin.poisonGroups.contains block = true then
      setCtx p { c with status := 0x0061, finished := true } s
    else if planeZero b c.vin sub group plane = true ∧ fget g Reg.TILE_ARRAY_CFG_SKIP_EN s = 1 then
      wideInc g Reg.TILE_SKIP_CNT_LO_COUNT Reg.TILE_SKIP_CNT_HI_COUNT 1 (setCtx p (advance c sub) s)
    else
      s |> setTile p (t.setSub i { u with pass := some ⟨c.age, group, plane, false⟩ })
        |> fset g Reg.TILE_ARRAY_STAT_CAL_WAIT 0

/-- PASS_START (R52). -/
def execPassStart (tile : Fin 1056) (sub : Fin 8) (s : State) : Host.Outcome State Fault Refusal :=
  .next (passStart tile.val sub.val s)

/-! ## PASS_END (R111 to R114, R118) -/

/-- The first mismatch since CSUM_REC was cleared (R134). -/
def recordMismatch (p : Nat) (bank : Bool) (sub : Nat) (q : Pass) (ovr ref : Bool) (delta : Int) (s : State) : State :=
  let g := tilePage p
  if fget g Reg.TILE_CSUM_REC_VALID s = 1 then s else
  s |> fset g Reg.TILE_CSUM_REC_BANK (bankNum bank) |> fset g Reg.TILE_CSUM_REC_SUBARRAY sub
    |> fset g Reg.TILE_CSUM_REC_ROW_GROUP q.group |> fset g Reg.TILE_CSUM_REC_PLANE q.plane
    |> fset g Reg.TILE_CSUM_REC_RETRY_OK 0 |> fset g Reg.TILE_CSUM_REC_OVR (if ovr then 1 else 0)
    |> fset g Reg.TILE_CSUM_REC_REF (if ref then 1 else 0) |> fset g Reg.TILE_CSUM_DELTA_DELTA (ofSigned 18 delta)
    |> fset g Reg.TILE_CSUM_REC_VALID 1

/-- The record names this pass. -/
def recordNames (p : Nat) (bank : Bool) (sub : Nat) (q : Pass) (s : State) : Bool :=
  let g := tilePage p
  decide (fget g Reg.TILE_CSUM_REC_VALID s = 1 ∧ fget g Reg.TILE_CSUM_REC_BANK s = bankNum bank ∧
    fget g Reg.TILE_CSUM_REC_SUBARRAY s = sub ∧ fget g Reg.TILE_CSUM_REC_ROW_GROUP s = q.group ∧
    fget g Reg.TILE_CSUM_REC_PLANE s = q.plane)

/-- A pass of a context on a subarray ends with these wrong codes (column, code). -/
def passEnd (p sub : Nat) (bank : Bool) (q : Pass) (c : Ctx) (errs : List (Nat × Nat)) (s : State) : State :=
  let t := tileOf p s
  let g := tilePage p
  let b := t.bank bank
  let i := 8 * bankNum bank + sub
  let u := t.sub i
  let rows := driven b c.vin sub q.group q.plane
  let delta := passDelta b sub q.group rows errs
  let ovr := outOfRange errs
  let ref := refMismatch b sub q.group rows errs
  let s := wideInc g Reg.TILE_PASS_CNT_LO_COUNT Reg.TILE_PASS_CNT_HI_COUNT 1 s
  let s := if 0 < ovr then raise g 8 (satInc g Reg.TILE_OVERRANGE_CNT_COUNT ovr s) else s
  if delta ≠ 0 ∨ ref = true ∨ 0 < ovr then
    let s := recordMismatch p bank sub q (decide (0 < ovr)) ref delta s
    if q.retry then persistent p bank sub (modTile p (fun t => t.setSub i { u with pass := none }) s)
    else modTile p (fun t => t.setSub i { u with pass := some { q with retry := true } }) s
  else
    let s := if q.retry then
        let s := wrapInc g Reg.TILE_CSUM_TRANS_CNT_COUNT 1 s
        let s := if recordNames p bank sub q s = true then fset g Reg.TILE_CSUM_REC_RETRY_OK 1 s else s
        raise g 20 s
      else s
    let s := if consumesPoison b sub q.group rows = true then raise g 12 s else s
    let wrong := (errs.filter fun e => decide (e.1 < 1024)).filterMap fun e =>
      let n := trueCount b sub q.group rows e.1
      if e.2 = n then none else some ({ sub := sub, group := q.group, plane := q.plane, col := e.1,
                                        diff := (e.2 : Int) - n } : Over)
    let s := modTile p (fun t => t.setSub i { u with pass := none }) s
    setCtx p (advance { c with wrongs := c.wrongs ++ wrong } sub) s

/-- PASS_END (R111): of the bank on which the subarray has a pass in flight. -/
def execPassEnd (tile : Fin 1056) (sub : Fin 8) (errs : List (Nat × Nat)) (s : State) : Host.Outcome State Fault Refusal :=
  let t := tileOf tile.val s
  let one := fun (bank : Bool) => (t.sub (8 * bankNum bank + sub.val)).pass.bind fun q =>
    (ctxOf t q.age).map fun c => (bank, q, c)
  match one false, one true with
  | some x, _ => .next (passEnd tile.val sub.val x.1 x.2.1 x.2.2 errs s)
  | none, some x => .next (passEnd tile.val sub.val x.1 x.2.1 x.2.2 errs s)
  | none, none => .next s

/-! ## Refresh (R119 to R121) -/

/-- A refresh restores the next row of subarray i; after row 127 the sweep is complete (R119). -/
def refreshRow (p i : Nat) (s : State) : State :=
  let t := tileOf p s
  let u := t.sub i
  let g := tilePage p
  let at' := if u.refRow = 0 then s.timer else u.sweepAt
  let us := (s.timer - at') * 16 / 1000
  let u' := { u with sweepAt := at', refRow := (u.refRow + 1) % 128, defer := 0,
                     sweepUs := if u.refRow = 127 then us else u.sweepUs }
  let t := t.setSub i u'
  let s := setTile p t s
  if u.refRow = 127 then
    s |> fset g Reg.TILE_REF_STAT_SWEEP_US ((List.range 16).foldl (fun m j => max m (t.sub j).sweepUs) 0)
      |> fset g Reg.TILE_REF_STAT_SLOW (if t.level = .nap then 1 else 0)
  else s

/-- The arrays of a tile are kept (R119, R382). -/
def arraysKept (t : Tile) : Bool := decide (t.level = .run ∨ t.level = .idle ∨ t.level = .nap)

/-- REFRESH_SLOT (R119, R120): deferred while a row arrives for a WRITING bank. -/
def execRefreshSlot (tile : Fin 1056) (i : Fin 16) (rowArriving : Bool) (s : State) : Host.Outcome State Fault Refusal :=
  let p := tile.val
  let t := tileOf p s
  let u := t.sub i.val
  if arraysKept t = false then .next s
  else if rowArriving = true ∧ (t.bank (decide (8 ≤ i.val))).st = .writing ∧ u.defer < 256 then
    let n := u.defer + 1
    let s := setTile p (t.setSub i.val { u with defer := n }) s
    .next (if fget (.tile tile) Reg.TILE_REF_DEFER_MAX_SLOTS s < n
      then fset (.tile tile) Reg.TILE_REF_DEFER_MAX_SLOTS n s else s)
  else .next (refreshRow p i.val s)

/-- REFRESH_DEFER_LIMIT (R120): after 256 deferrals the refresh takes the slot. -/
def execRefreshDeferLimit (tile : Fin 1056) (i : Fin 16) (s : State) : Host.Outcome State Fault Refusal :=
  if 256 ≤ ((tileOf tile.val s).sub i.val).defer then .next (refreshRow tile.val i.val s) else .next s

/-- REFRESH_LATE (R121): a sweep not complete 1,800 µs after its first row; a second within a second fences the tile. -/
def execRefreshLate (tile : Fin 1056) (i : Fin 16) (s : State) : Host.Outcome State Fault Refusal :=
  let p := tile.val
  let t := tileOf p s
  let u := t.sub i.val
  if u.refRow = 0 ∨ arraysKept t = false then .next s else
  let s := reach (u.sweepAt + ticks 1800) s
  let second' := t.lateAt.any fun x => decide (s.timer < x + second)
  let s := modTile p (fun t => { t with lateAt := s.timer :: t.lateAt.filter fun x => decide (s.timer < x + second) }) s
  let s := modTile p (fun t => t.setSub i.val { u with refRow := 0 }) s
  let s := raise (.tile tile) 24 (satInc (.tile tile) Reg.TILE_REF_LATE_CNT_COUNT 1 s)
  let bank := decide (8 ≤ i.val)
  let s := if (t.bank bank).st = .empty then s else fenceBank p bank (i.val % 8) s
  .next (if second' then fenceTile p 7 s else s)

/-! ## Calibration (R123 to R126) -/

/-- Age of a calibration in ticks. -/
def calAge (u : Sub) (s : State) : Nat := s.timer - u.calAt

/-- CALIBRATION_DUE (R124): at 9,600 µs of age or 4.0 °C of change; the age is reached where the temperature is not. -/
def execCalibrationDue (tile : Fin 1056) (i : Fin 16) (s : State) : Host.Outcome State Fault Refusal :=
  let u := (tileOf tile.val s).sub i.val
  let moved := decide (32 ≤ ((sensorOf (regionOf tile.val) s).temp - u.calTemp).natAbs)
  let s := if moved then s else reach (u.calAt + ticks 9600) s
  .next (modTile tile.val (fun t => t.setSub i.val { u with calDue := true }) s)

/-- CAL_DUE_LATE (R124): a due calibration reaches 9,900 µs or 4.5 °C and starts at the next pass boundary. -/
def execCalDueLate (tile : Fin 1056) (i : Fin 16) (s : State) : Host.Outcome State Fault Refusal :=
  let u := (tileOf tile.val s).sub i.val
  if u.calDue = false ∨ u.calRun ≠ none then .next s else
  let moved := decide (36 ≤ ((sensorOf (regionOf tile.val) s).temp - u.calTemp).natAbs)
  let s := if moved then s else reach (u.calAt + ticks 9900) s
  .next (raise (.tile tile) 27 (modTile tile.val (fun t => t.setSub i.val { u with calHard := true }) s))

/-- A subarray is idle or lies between two vectors (R124). -/
def subIdle (t : Tile) (i : Nat) : Bool :=
  decide ((t.sub i).pass = none) && t.ctxs.all fun c =>
    decide (bankNum c.bank ≠ i / 8) || decide (t.cur ≠ some c.age) ||
      decide (nth 0 c.pos (i % 8) = 0) || decide (4 * c.vin.planes ≤ nth 0 c.pos (i % 8))

/-- CALIBRATION_START (R123, R124): one calibration at a time in each bank. -/
def execCalibrationStart (tile : Fin 1056) (i : Fin 16) (s : State) : Host.Outcome State Fault Refusal :=
  let p := tile.val
  let t := tileOf p s
  let u := t.sub i.val
  let other := (List.range 8).any fun j => decide ((t.sub (i.val / 8 * 8 + j)).calRun ≠ none)
  if u.calDue = true ∧ u.calRun = none ∧ u.pass = none ∧ other = false ∧ arraysKept t = true ∧
      (subIdle t i.val = true ∨ u.calHard = true) then
    .next (s |> setTile p (t.setSub i.val { u with calRun := some s.timer })
      |> fset (.tile tile) Reg.TILE_INTEG_STAT_CAL_BUSY 1 |> fset (.tile tile) Reg.TILE_INTEG_STAT_CAL_SUB i.val)
  else .next s

/-- The calibration that still runs on a tile, if any. -/
def calRunning (t : Tile) : Option Nat := ((List.range 16).filter fun j => decide ((t.sub j).calRun ≠ none))[0]?

/-- New trims are loaded: the calibration's time and temperature are recorded (R123). -/
def calibrated (p i : Nat) (s : State) : State :=
  let temp := (sensorOf (regionOf p) s).temp
  modTile p (fun t => t.setSub i { t.sub i with calAt := s.timer, calTemp := temp, calDue := false, calHard := false, calRun := none }) s

/-- CALIBRATION_END (R123, R126): 2,000 ns after its start. A failing converter fences subarray and tile. -/
def execCalibrationEnd (tile : Fin 1056) (i : Fin 16) (r : CalResult) (s : State) : Host.Outcome State Fault Refusal :=
  let p := tile.val
  let g : Page := .tile tile
  match ((tileOf p s).sub i.val).calRun with
  | none => .next s
  | some at' =>
    let s := calibrated p i.val (reach (at' + 125) s)
    let run := calRunning (tileOf p s)
    let s := s |> fset g Reg.TILE_INTEG_STAT_CAL_BUSY (if run = none then 0 else 1)
      |> fset g Reg.TILE_INTEG_STAT_CAL_SUB (run.getD 0) |> fset g Reg.TILE_ARRAY_STAT_CAL_WAIT 0
    match r.fail with
    | none =>
      .next (s |> wrapInc g Reg.TILE_CAL_CNT_COUNT 1 |> fset g Reg.TILE_CAL_TRIM_OFFSET_MAX r.offMax.toNat
        |> fset g Reg.TILE_CAL_TRIM_GAIN_MAX r.gainMax.toNat)
    | some c =>
      let s := if fget g Reg.TILE_CAL_FAIL_REC_VALID s = 0 then
          s |> fset g Reg.TILE_CAL_FAIL_REC_BANK (i.val / 8) |> fset g Reg.TILE_CAL_FAIL_REC_SUBARRAY (i.val % 8)
            |> fset g Reg.TILE_CAL_FAIL_REC_CONVERTER c.1.val |> fset g Reg.TILE_CAL_FAIL_REC_KIND c.2.val
            |> fset g Reg.TILE_CAL_FAIL_REC_VALID 1
        else s
      let s := raise g 23 s
      let f := if 8 ≤ i.val then Reg.TILE_INTEG_STAT_SUBF_B else Reg.TILE_INTEG_STAT_SUBF_A
      .next (fenceTile p 6 (fset g f (fget g f s ||| 2 ^ (i.val % 8)) s))

/-! ## Repair (R115 to R117) -/

/-- A GO of REPAIR_CMD: refused unless the bank is FENCED, no repair runs, and a rewrite's tile is not fenced. -/
def startRepair (p : Nat) (bank test : Bool) (s : State) : State :=
  let g := tilePage p
  let t := tileOf p s
  let k := t.bank bank
  let s := s |> fset g Reg.TILE_REPAIR_CMD_BANK (bankNum bank) |> fset g Reg.TILE_REPAIR_CMD_MODE (if test then 1 else 0)
  if k.st ≠ .fenced ∨ t.repair ≠ none ∨ (test = false ∧ fenced g s = true) then fset g Reg.TILE_REPAIR_STAT_STATE 5 s
  else
    let k' := if test then { k with mem := [] }
      else { k with st := .writing, mem := [], codes := 0, zpcValid := false, colsumBad := false, skewed := false,
                    swept := false, bseq := none, bseqOk := true, ran := false, poisonRows := 0, poisonFirst := none }
    s |> setTile p ({ t.setBank bank k' with repair := some ⟨bank, test, s.timer⟩ })
      |> fset g Reg.TILE_REPAIR_STAT_STATE (if test then 2 else 1) |> fset g Reg.TILE_REPAIR_STAT_BANK (bankNum bank)

/-- REPAIR_REWRITE (R116). -/
def execRepairRewrite (w : Wr) (tile : Fin 1056) (bank : Bool) (s : State) : Host.Outcome State Fault Refusal :=
  .next (guarded w (.tile tile) 0x314 (startRepair tile.val bank false) s)

/-- REPAIR_TEST_CLEAR (R116). -/
def execRepairTestClear (w : Wr) (tile : Fin 1056) (bank : Bool) (s : State) : Host.Outcome State Fault Refusal :=
  .next (guarded w (.tile tile) 0x314 (startRepair tile.val bank true) s)

/-- A repair of the tile has completed (R118, R134). -/
def repairDone (p : Nat) (s : State) : State :=
  let s := modTile p (fun t => { t with repairEnds := s.timer :: t.repairEnds.filter fun x => decide (s.timer < x + second) }) s
  s |> fset (tilePage p) Reg.TILE_REPAIR_STAT_STATE 4 |> satInc (tilePage p) Reg.TILE_REPAIR_CNT_COUNT 1
    |> fset (tilePage p) Reg.TILE_REPAIR_STAT_RECENT (min 255 (recentRepairs (tileOf p s) s))

/-- REPAIR_END (R116): clean ends READY (mode 0, ZPC formed by the verification sweep) or EMPTY (mode 1); otherwise the
repair FAILED and the tile is fenced. A mode-0 repair ends clean only once every row and code has been delivered. -/
def execRepairEnd (tile : Fin 1056) (clean : Bool) (s : State) : Host.Outcome State Fault Refusal :=
  let p := tile.val
  let g : Page := .tile tile
  let t := tileOf p s
  match t.repair with
  | none => .next s
  | some r =>
    let k := t.bank r.bank
    let s := raise g 22 (setTile p { t with repair := none } s)
    if clean = false then
      let s := modTile p (fun t => t.setBank r.bank { t.bank r.bank with st := .fenced }) s
      .next (fenceTile p 1 (fset g Reg.TILE_REPAIR_STAT_STATE 5 s))
    else if r.test then
      let s := clearHold p r.bank (repairDone p s)
      .next (settle p (modTile p (fun t => t.setBank r.bank {}) s))
    else if rowsComplete k = true ∧ (scalesDone k = true ∨ k.skewed = true) then
      let s := sweepStore p r.bank [] (clearHold p r.bank (repairDone p s))
      let s := modTile p (fun t => t.setBank r.bank { t.bank r.bank with swept := true, zpcValid := !k.skewed }) s
      .next (bankReady p r.bank s)
    else .next (setTile p t s)

/-- REPAIR_HOLD_EXPIRE (R115): 100 µs without a REPAIR_CMD. -/
def execRepairHoldExpire (tile : Fin 1056) (bank : Bool) (s : State) : Host.Outcome State Fault Refusal :=
  let p := tile.val
  let k := (tileOf p s).bank bank
  if k.hold = true ∧ k.st = .fenced ∧ (tileOf p s).repair = none then
    let s := modTile p (fun t => t.setBank bank { t.bank bank with hold := false }) (reach (k.holdAt + ticks 100) s)
    .next (settle p (fset (.tile tile) (if bank then Reg.TILE_INTEG_STAT_HOLD_B else Reg.TILE_INTEG_STAT_HOLD_A) 0 s))
  else .next s

/-! ## The column-sum sweep (R89, R90) -/

/-- COLSUM_SWEEP_START (R89): at the boundary before the first task on the bank. -/
def execColsumSweepStart (tile : Fin 1056) (bank : Bool) (s : State) : Host.Outcome State Fault Refusal :=
  let p := tile.val
  let t := tileOf p s
  if sweepOwed p (t.bank bank) s = true ∧ t.cur = none ∧ t.sweep = none ∧ fenced (.tile tile) s = false then
    .next (fset (.tile tile) Reg.TILE_PP_STAT_SWEEP 1 (setTile p { t with sweep := some bank } s))
  else .next s

/-- COLSUM_SWEEP_END (R89, R90): the wrong counts that stood; a checksum failure is a persistent mismatch, a column
that disagrees fails the bank. -/
def execColsumSweepEnd (tile : Fin 1056) (bank : Bool) (errs : List (Fin 8 × Fin 4 × Nat × Nat)) (s : State) :
    Host.Outcome State Fault Refusal :=
  let p := tile.val
  let g : Page := .tile tile
  let t := tileOf p s
  if t.sweep ≠ some bank then .next s else
  let b := t.bank bank
  let s := s |> setTile p { t with sweep := none } |> fset g Reg.TILE_PP_STAT_SWEEP 0
    |> wideInc g Reg.TILE_PASS_CNT_LO_COUNT Reg.TILE_PASS_CNT_HI_COUNT 32
  if sweepCsumBad b errs = true then .next (persistent p bank ((errs.map fun e => e.1.val)[0]?.getD 0) s)
  else match colsumBadAt b errs with
  | some x =>
    let s := if fget g Reg.TILE_COLSUM_REC_VALID s = 0 then
        s |> fset g Reg.TILE_COLSUM_REC_BANK (bankNum bank) |> fset g Reg.TILE_COLSUM_REC_SUBARRAY x.1
          |> fset g Reg.TILE_COLSUM_REC_COLUMN x.2 |> fset g Reg.TILE_COLSUM_REC_VALID 1
      else s
    let s := modTile p (fun t => t.setBank bank { t.bank bank with swept := true, colsumBad := true }) s
    .next (fenceBank p bank x.1 (raise g 17 s))
  | none =>
    let s := sweepStore p bank errs s
    .next (modTile p (fun t => t.setBank bank { t.bank bank with swept := true, zpcValid := true }) s)

/-! ## The bench (R127 to R129, R160) -/

/-- Mesh hops between two tiles of one half (R15, R156). -/
def hops (a b : Nat) : Nat :=
  let ax := a % 528 % 33
  let bx := b % 528 % 33
  let ay := a % 528 / 33
  let bY := b % 528 / 33
  (ax - bx) + (bx - ax) + (ay - bY) + (bY - ay)

/-- A bench tile that may take over (R127): healthy, present, unassigned. A tile that has come back from a fence and
serves nothing has joined the bench (R129). -/
def benchFree (p : Nat) (s : State) : Bool :=
  present s (tilePage p) && !fenced (tilePage p) s && decide (logicalOf p s = 0x7FF) &&
    decide (fget (tilePage p) Reg.TILE_BENCH_MAP_ASSIGNED s = 0) &&
    (isBench s p || decide (0 < fget (tilePage p) Reg.FENCE_COUNT s))

/-- The failed tile can be replaced: fenced and serving a number (R127). -/
def replaceable (p : Nat) (s : State) : Bool := fenced (tilePage p) s && decide (logicalOf p s ≠ 0x7FF)

/-- The bench tile takes over the number (R127, R128 step 2). -/
def substitute (bench failed : Nat) (s : State) : State :=
  let l := logicalOf failed s
  s |> fset (tilePage failed) Reg.TILE_BENCH_MAP_LOGICAL 0x7FF
    |> fset (tilePage bench) Reg.TILE_BENCH_MAP_LOGICAL l |> fset (tilePage bench) Reg.TILE_BENCH_MAP_ASSIGNED 1
    |> fset (tilePage bench) Reg.TILE_BENCH_MAP_REPLACED failed |> raise (tilePage bench) 25

/-- SUBST_CMD (R127). -/
def execSubstCmd (w : Wr) (tile : Fin 1056) (data : W32) (s : State) : Host.Outcome State Fault Refusal :=
  let from' := bitsOf data.toNat 0 11
  .next (guarded w (.tile tile) 0x354 (fun s =>
    let s := fset (.tile tile) Reg.TILE_SUBST_CMD_FROM from' s
    if bitsOf data.toNat 31 1 = 1 ∧ benchFree tile.val s = true ∧ from' < 1056 ∧ replaceable from' s = true ∧
        tileHalf from' = tileHalf tile.val then substitute tile.val from' s else s) s)

/-- The free bench tile of a half with the fewest hops, the lower ID among equals (R127). -/
def nearestBench (failed : Nat) (s : State) : Option Nat :=
  let cand := (List.range 528).filter fun i => benchFree (failed / 528 * 528 + i) s
  (cand.map fun i => failed / 528 * 528 + i).foldl (fun b p => match b with
    | none => some p
    | some q => if hops failed p < hops failed q then some p else some q) none

/-- Step 3 of R128: the failed tile's settings and tags on the bench tile, both banks WRITING; step 4's copy of the
table frames, poison carried. -/
def inherit (bench failed : Nat) (s : State) : State :=
  let f := tileOf failed s
  let copy := fun (r : Field) (s : State) => fset (tilePage bench) r (fget (tilePage failed) r s) s
  let s := s |> copy Reg.TILE_TMPL_CFG_BASE |> copy Reg.TILE_TMPL_CFG_COUNT |> copy Reg.TILE_TBL_WR_BASE_BASE
  let fresh := fun (b : Bank) => if b.st = .empty then b else
    ({ st := .writing, wset := b.wset, mepoch := b.mepoch, wfmt := b.wfmt, fold := b.fold, rows := b.rows, tbl := b.tbl } : Bank)
  let s := modTile bench (fun t => { t with bankA := fresh f.bankA, bankB := fresh f.bankB, tblFrames := f.tblFrames }) s
  let n := f.tblFrames * 16384
  let s := { s with sram := ssetAll 0 (bench * 65536) (sramBytes failed 0 n s) s.sram }
  let poison := sgetAll false (failed * 1024) (n / 64) s.sramPoison
  { s with sramPoison := ssetAll false (bench * 1024) poison s.sramPoison }

/-- A tile that no image uses: it serves a number of its own and stands in no handle's placement (R248). -/
def spareTile (p : Nat) (s : State) : Bool :=
  present s (tilePage p) && !fenced (tilePage p) s && decide (logicalOf p s ≠ 0x7FF) &&
    decide (fget (tilePage p) Reg.TILE_MIRROR_MAP_VALID s = 0) && (tileOf p s).deque.isEmpty &&
    s.handles.all fun h => !h.tiles.contains (logicalOf p s) && !h.mirrors.contains p

/-- With no bench tile left, a free tile of the half takes the plan tile's number (R248). -/
def reassign (failed : Nat) (s : State) : Option State :=
  match (((List.range 528).map fun i => failed / 528 * 528 + i).filter fun p => spareTile p s)[0]? with
  | none => none
  | some b =>
    let l := logicalOf failed s
    some (inherit b failed (fset (tilePage b) Reg.TILE_BENCH_MAP_LOGICAL l (fset (tilePage failed) Reg.TILE_BENCH_MAP_LOGICAL 0x7FF s)))

/-- BENCH_SUBSTITUTION_START (R128, R129, R248): with no bench tile and no free tile left the number stays
unassigned. -/
def execBenchSubstitutionStart (failed : Fin 1056) (s : State) : Host.Outcome State Fault Refusal :=
  let p := failed.val
  if replaceable p s = false then .next s else
  let s := raise (.tile failed) 25 s
  match nearestBench p s with
  | some b => .next (inherit b p (substitute b p s))
  | none =>
    let planned := s.handles.any fun h => h.tiles.contains (logicalOf p s)
    if planned then
      match reassign p s with
      | some s' => .next s'
      | none => .next (fset (.tile failed) Reg.TILE_BENCH_MAP_LOGICAL 0x7FF s)
    else .next (fset (.tile failed) Reg.TILE_BENCH_MAP_LOGICAL 0x7FF s)

/-- The tile that replaced a failed one. -/
def replacementOf (failed : Nat) (s : State) : Option Nat :=
  ((mappedTiles s).filter fun p => decide (fget (tilePage p) Reg.TILE_BENCH_MAP_REPLACED s = failed ∧
    fget (tilePage p) Reg.TILE_BENCH_MAP_ASSIGNED s = 1 ∧ p ≠ failed))[0]?

/-- DEQUE_TRANSFER (R128 step 4, R160): every entry moves in its state, the spill queue with it; entries that cannot
be transferred end with TILE_LOST. -/
def execDequeTransfer (failed : Fin 1056) (ok : Bool) (s : State) : Host.Outcome State Fault Refusal :=
  let p := failed.val
  if fenced (.tile failed) s = false then .next s else
  let t := tileOf p s
  match ok, replacementOf p s with
  | true, some b =>
    let s := setTile p { t with deque := [], spill := [], spilling := false } s
    let moved := fun (e : Entry) => { e with st := if e.st = .running ∨ e.st = .suspended then .ready else e.st }
    let s := modTile b (fun n => { n with deque := n.deque ++ t.deque.map moved, ages := max n.ages t.ages,
                                          spill := n.spill ++ t.spill, spilling := n.spilling || t.spilling }) s
    .next (settle b s)
  | _, _ =>
    let s := t.deque.foldl (fun s e => if e.st = .shadow then s else endTaskCore p e 0x0025 false s) s
    .next (modTile p (fun t => { t with deque := [], spill := [], spilling := false }) s)

/-! ## Mirrored pairs (R130, R131) -/

/-- The tile is in a Sustained pair. -/
def inPair (p : Nat) (s : State) : Bool := decide (fget (tilePage p) Reg.TILE_MIRROR_MAP_VALID s = 1)

/-- PAIR_HEARTBEAT (R130): a tile that is not fenced tells its peer. -/
def execPairHeartbeat (tile : Fin 1056) (s : State) : Host.Outcome State Fault Refusal :=
  if inPair tile.val s = true ∧ fenced (.tile tile) s = false then
    let q := mirrorPeer tile.val s
    .next (send (.heartbeat q) (modTile q (fun t => { t with missed := 0 }) s))
  else .next s

/-- PAIR_HEARTBEAT_LOST (R131): three missed heartbeats; the primary is fenced and the mirror takes over. -/
def execPairHeartbeatLost (mirror : Fin 1056) (s : State) : Host.Outcome State Fault Refusal :=
  let q := mirrorPeer mirror.val s
  if inPair mirror.val s = true ∧ fget (.tile mirror) Reg.TILE_MIRROR_MAP_ROLE s = 1 then
    let s := modTile mirror.val (fun t => { t with missed := 3 }) s
    .next (if fenced (tilePage q) s = true then send (.take mirror.val) s else fenceTile q 1 s)
  else .next s

/-- TAKE (R131): roles switch, the number goes to the mirror, its shadow entries become runnable. -/
def execTake (mirror : Fin 1056) (s : State) : Host.Outcome State Fault Refusal :=
  let m := mirror.val
  let s := arrive (.take m) s
  if inPair m s = true ∧ fget (.tile mirror) Reg.TILE_MIRROR_MAP_ROLE s = 1 ∧ fenced (.tile mirror) s = false then
    let q := mirrorPeer m s
    let lm := logicalOf m s
    let lq := logicalOf q s
    let s := s |> fset (.tile mirror) Reg.TILE_BENCH_MAP_LOGICAL lq |> fset (tilePage q) Reg.TILE_BENCH_MAP_LOGICAL lm
      |> fset (.tile mirror) Reg.TILE_MIRROR_MAP_ROLE 0 |> fset (.tile mirror) Reg.TILE_MIRROR_MAP_LOST 1
      |> fset (tilePage q) Reg.TILE_MIRROR_MAP_VALID 0
      |> raise (.tile mirror) 26 |> raise (tilePage q) 26
    let s := modTile m (fun t => { t with missed := 0, deque := t.deque.map fun e =>
      if e.st = .shadow then { e with st := if e.d.deps = 0 then .ready else .waiting } else e }) s
    .next (settle m s)
  else .next s

/-- MIRROR_REFORM (R131): a bench or repaired tile of the failed tile's half becomes the mirror; LOST returns to 0. -/
def execMirrorReform (survivor : Fin 1056) (fresh : Fin 1056) (s : State) : Host.Outcome State Fault Refusal :=
  let p := survivor.val
  let n := fresh.val
  if inPair p s = true ∧ fget (.tile survivor) Reg.TILE_MIRROR_MAP_LOST s = 1 ∧ fenced (.tile fresh) s = false ∧
      tileHalf n ≠ tileHalf p ∧ (benchFree n s = true ∨ n = mirrorPeer p s) then
    let s := inherit n p s
    .next (s |> fset (.tile fresh) Reg.TILE_MIRROR_MAP_PEER p |> fset (.tile fresh) Reg.TILE_MIRROR_MAP_VALID 1
      |> fset (.tile fresh) Reg.TILE_MIRROR_MAP_ROLE 1 |> fset (.tile fresh) Reg.TILE_MIRROR_MAP_LOST 0
      |> fset (.tile survivor) Reg.TILE_MIRROR_MAP_PEER n |> fset (.tile survivor) Reg.TILE_MIRROR_MAP_LOST 0)
  else .next s

end Sys2Proof.Machine
end

