-- ==== Sys2Proof/Machine/Numbers.lean ====
section
/-! DEFINITION. The commands by which rows and scale codes reach a bank (R64, R211) and by which the post-processor
finishes a vector (chapter 4). -/

namespace Sys2Proof.Machine

/-! ## Rows and scale blocks -/

/-- The tiles that a frame for a logical tile goes to: the tile that serves it and its mirror (R130, R199). -/
def frameTiles (l : Nat) (s : State) : List Nat :=
  match serving l s with
  | some p => if isPrimary p s = true then [p, mirrorPeer p s] else [p]
  | none => []

/-- The bank's scales are skewed (R211). -/
def skewBank (p : Nat) (bank : Bool) (expected found : Nat) (field : Bool) (s : State) : State :=
  settle p (recordSkew p expected found 0 field
    (modTile p (fun t => t.setBank bank { t.bank bank with skewed := true, zpcValid := false }) s))

/-- A row reaches one tile (R62, R64, R67, R217). -/
def takeRow (f : RowFrame) (p : Nat) (s : State) : State :=
  let g := tilePage p
  let b := (tileOf p s).bank f.bank
  let open' := if f.restore then decide ((b.st = .writing ∨ b.st = .ready) ∧ b.ran = false) else decide (b.st = .writing)
  if open' = false then writeReject p 5 f.sender s
  else if b.rows ≤ f.row.val then writeReject p 6 f.sender s
  else
    let stored := storeRow b f.sub.val f.row.val f.data (f.poison && !f.restore)
    let same := decide (b.bseq = none ∨ b.bseq = some f.bseq)
    let b' := { stored with bseq := if b.bseq = none then some f.bseq else b.bseq, bseqOk := b.bseqOk && same }
    let s := wrapInc g Reg.TILE_ROW_WR_CNT_COUNT 1 (modTile p (fun t => t.setBank f.bank b') s)
    let s := if !same && decide (0 < b.codes) && !b.skewed then
        skewBank p f.bank ((b.bseq.getD 0).toNat) f.bseq.toNat false s
      else s
    if b.st = .writing ∧ rowsComplete b' = true then
      match (tileOf p s).repair with
      | some r => if r.bank = f.bank ∧ r.test = false then fset g Reg.TILE_REPAIR_STAT_STATE 3 s else bankReady p f.bank s
      | none => bankReady p f.bank s
    else s

/-- REFILL_ROW_FRAME (R64): the frame leaves the bus; a frame whose logical tile no tile serves is dropped (R200). -/
def execRefillRowFrame (f : RowFrame) (s : State) : Host.Outcome State Fault Refusal :=
  let s := { s with rowBus := s.rowBus.erase f }
  .next ((frameTiles f.ltile.toNat s).foldl (fun s p => takeRow f p s) s)

/-- A scale block reaches one tile (R88, R211). -/
def takeScales (f : ScaleFrame) (p : Nat) (s : State) : State :=
  let b := (tileOf p s).bank f.bank
  let bseq := (nth 0 f.bytes 0)
  let cfg := (nth 0 f.bytes 1).toNat
  let codes := leNat ((f.bytes.drop 2).take 2)
  let wset := leNat ((f.bytes.drop 4).take 2)
  if ¬(b.st = .writing ∨ b.st = .ready) ∨ scalesDone b = true ∨ b.skewed = true then writeReject p 5 f.sender s
  else
    let tagBad := !b.bseqOk || decide (b.bseq ≠ none ∧ b.bseq ≠ some bseq)
    let fieldBad := decide (wset ≠ b.wset.toNat ∨ cfg % 4 ≠ b.wfmt.toNat ∨ cfg / 4 % 4 ≠ b.fold.toNat ∨
      codes ≠ 32 * wfmtOutputs b.wfmt)
    if tagBad || fieldBad then skewBank p f.bank ((b.bseq.getD 0).toNat) bseq.toNat (!tagBad) s
    else
      let bytes := (f.bytes.drop 16).take codes
      let s := sramWrite p (b.tbl.toNat * 256) bytes s
      let s := if f.poison then
          let gs := spanGranules (p * 65536 + b.tbl.toNat * 256) bytes.length
          { s with sramPoison := gs.foldl (fun m g => sset false g true m) s.sramPoison }
        else s
      settle p (modTile p (fun t => t.setBank f.bank { t.bank f.bank with bseq := some bseq, codes := codes }) s)

/-- SCALE_FRAME (R211). -/
def execScaleFrame (f : ScaleFrame) (s : State) : Host.Outcome State Fault Refusal :=
  let s := { s with scaleBus := s.scaleBus.erase f }
  .next ((frameTiles f.ltile.toNat s).foldl (fun s p => takeScales f p s) s)

/-! ## Staging a vector of a running task -/

/-- The MID of a tile (R37). -/
def tileMid (p : Nat) (s : State) : W16 :=
  BitVec.ofNat 16 (5 * 8192 + nodeId s * 256 + 7 * 32 + Half.num (tileHalf p))

/-- The task's input slices are CS4 packed (R225, R295). -/
def packedTask (d : Desc) (s : State) : Bool :=
  match requestHandle d.channel.toNat d.seq s with
  | some h => s.packed.any fun x => decide (x.1 = h ∧ x.2.1 ≤ d.tmpl.toNat ∧ d.tmpl.toNat < x.2.1 + x.2.2)
  | none => false

/-- Put the context at the start of its next vector: stage it, report skew and NUMERIC, and stop the task where an
access is denied (R261), a slice is malformed (R296) or a zero point has no ZPC (R90). -/
def beginVector (p : Nat) (d : Desc) (c : Ctx) (s : State) : State :=
  let g := tilePage p
  let b := (tileOf p s).bank c.bank
  let blocks := foldSpan b.fold / 32
  let addr := d.inRef.toNat + c.inNext
  let none' : VecIn := { elems := [], planes := 0, signed := true, scale := 0, zp := 0, poisonGroups := [], bad := true }
  let c := { c with pos := [0, 0, 0, 0, 0, 0, 0, 0], wrongs := [], held := none }
  if c.rest then setCtx p { c with vin := none' } s
  else
    let st := stageVector (packedTask d s) c.ppr blocks addr s
    let c := { c with vin := st.vin, inNext := st.next - d.inRef.toNat, rest := st.rest }
    let s := match st.skew with
      | some k => recordSkew p k.1 k.2.1 1 k.2.2 s
      | none => s
    let s := if st.numeric then raise g 19 s else s
    if taskMay d false addr (st.next - addr) s = false then
      setCtx p { c with status := 0x0064, finished := true } (rangeDenied (tileMid p s) addr s)
    else if st.status ≠ 0 then setCtx p { c with status := st.status, finished := true } s
    else if st.vin.zp ≠ 0 ∧ b.zpcValid = false ∧ b.skewed = false then
      setCtx p { c with status := 0x0023, finished := true } s
    else setCtx p c s

/-! ## Outputs of a vector (R84 to R103) -/

/-- What one output of a vector is before stage 6: accumulator, exponent, poison, clamps, bad scale codes, NUMERIC. -/
structure RawOut where
  acc : Int
  e : Int
  poison : Bool
  sats : Nat
  badScale : Bool
  numeric : Bool
  deriving DecidableEq, Repr

/-- Merge one partial record (R91). -/
def mergePartial (o : RawOut) (word : Nat) (poisoned : Bool) : RawOut :=
  let acc := toSigned 56 (bitsOf word 0 56)
  let e := toSigned 8 (bitsOf word 56 8)
  let m := min o.e e
  if 31 < (o.e - e).natAbs then { o with poison := true, numeric := true }
  else
    let k := clamp56 (o.acc * 2 ^ (o.e - m).toNat + acc * 2 ^ (e - m).toNat)
    { o with acc := k.1, e := m, poison := o.poison || poisoned, sats := o.sats + (if k.2 then 1 else 0),
             numeric := o.numeric || k.2 }

/-- Where the m-th partial record of output j stands: each producer's block holds VECTORS × outputs records. -/
def partialAddr (d : Desc) (outs m k j : Nat) : Nat := d.auxRef.toNat + ((m * d.vectors.toNat + k) * outs + j) * 8

/-- Stages 1 to 4 for bank output j (R84 to R91), the rows of its row groups given. -/
def rawOutput (p : Nat) (d : Desc) (b : Bank) (c : Ctx) (rows : Nat → List (Int × Row)) (j : Nat) (s : State) : RawOut :=
  let o := wfmtOutputs b.wfmt
  let g := foldGroups b.fold
  let k := j / o
  let cs := scaleCodes p b j s
  let codePoison := sramPoisoned p (b.tbl.toNat * 256 + j * g) g s
  let ok := scalesOk cs && !codePoison
  let e := refExponent cs
  let term := fun (i : Nat) =>
    dotOf b c.vin c.wrongs (k * foldSubs b.fold + i / 4) (i % 4) (j % o) (rows i) * 2 ^ (Int.ofNat (nth 0 cs i) - 127 - e).toNat
  let eaten := (List.range g).any fun i => (rows i).any fun r => r.2.poison && decide (r.1 ≠ 0)
  let sum := if ok then (List.range g).foldl (fun a i => a + term i) 0 else 0
  let a3 := clamp56 sum
  let z := leNat (sramBytes p (b.tbl.toNat * 256 + 32 * o + 4 * j) 4 s)
  let zp := c.vin.zp
  let satZ := decide (zp ≠ 0 ∧ z = 0x80000000)
  let a4 := if zp = 0 then (a3.1, false) else clamp56 (a3.1 - zp * toSigned 32 z)
  let base : RawOut :=
    { acc := a4.1, e := e, poison := !ok || satZ || eaten || c.vin.bad || b.skewed,
      sats := (if a3.2 then 1 else 0) + (if a4.2 then 1 else 0), badScale := !ok || satZ || b.skewed,
      numeric := !ok || satZ || a3.2 || a4.2 }
  (List.range d.partials.toNat).foldl (fun r m =>
    let a := partialAddr d (bankOutputs b) m c.vec j
    mergePartial r (leNat (rangeBytes a 8 s)) (rangePoison a 8 s)) base

/-- Stages 6 to 8 (R92): the FP32 value and whether it carries poison, a poisoned bias element included. -/
def stage8 (p : Nat) (c : Ctx) (j : Nat) (r : RawOut) (s : State) : W32 × Bool :=
  let v := fl (fpOfInt r.acc (r.e + pprAdj c.ppr))
  let v := fmul v c.vin.scale
  if pprBias c.ppr then
    (fadd v (sramWord p (pprBiasAddr c.ppr + 4 * j) s),
     r.poison || sramPoisoned p (pprBiasAddr c.ppr + 4 * j) 4 s)
  else (v, r.poison)

/-- Poison marks over the granules of poisoned elements. -/
def markElems (addr bits : Nat) (poison : List Bool) (s : State) : State :=
  let gs := ((List.range poison.length).filter fun j => nth false poison j).map fun j => (addr + j * bits / 8) / 64
  let s := { s with range := { s.range with poison := gs.foldl (fun m g => sset false g true m) s.range.poison } }
  countPoison addr (gs.eraseDups.length) s

/-- Store an output span of a task: denied by R261, failed by a fenced home (R369), or stored. -/
def taskStore (p : Nat) (d : Desc) (addr : Nat) (bytes : List Byte) (bits hdr : Nat) (poison : List Bool) (s : State) : W16 × State :=
  if taskMay d true addr bytes.length s = false then (0x0064, rangeDenied (tileMid p s) addr s)
  else if (spanPages addr bytes.length).any (fun q => homeFenced (homeOf q s) s) then (0x0011, s)
  else (0, markElems (addr + hdr) bits poison (rangeWrite addr bytes false s))

/-- The context moves to its next vector or is finished. -/
def nextVector (p : Nat) (d : Desc) (c : Ctx) (s : State) : State :=
  let c := { c with vec := c.vec + 1 }
  let s := modEntry p c.age (fun e => { e with vec := c.vec }) s
  if d.vectors.toNat ≤ c.vec then setCtx p { c with finished := true } s else beginVector p d c (setCtx p c s)

/-- Stages 10 and 11 for a whole vector after stage 9 (R93 to R98), and its slice with its scale record (R81). -/
def emitVector (p : Nat) (d : Desc) (c : Ctx) (vals : List (W32 × Bool)) (s : State) : State :=
  let g := tilePage p
  let vals := vals.map fun v => (activation (pprAct c.ppr) c.act v.1, v.2)
  let poison := vals.map fun v => v.2
  let addr := d.outRef.toNat + c.outOff
  let c := { c with poison := c.poison || poison.any id, held := none }
  let s := fset g Reg.TILE_PP_STAT_HOLDING 0 s
  if pprMode c.ppr = 0 then
    let bytes := packElems (pprFmt c.ppr) (vals.map fun v => floatOut (pprFmt c.ppr) v.1)
    match taskStore p d addr bytes (outBits (pprFmt c.ppr)) 0 poison s with
    | (st, s) =>
      if st ≠ 0 then setCtx p { c with status := st, finished := true } s
      else nextVector p d { c with outOff := c.outOff + up64 bytes.length } s
  else
    let sy := outScale p c.ppr c.vec s
    let s := if sy.2 then raise g 19 s else s
    let zp : Nat := pprOutZp c.ppr
    let first := requantAll (pprFmt c.ppr) sy.1 zp vals
    let rerun := pprRerun c.ppr && decide (pprFmt c.ppr = 2 ∨ pprFmt c.ppr = 3) && exceeds c.ppr first.2
    let fmt := if rerun then pprFmt c.ppr + 2 else pprFmt c.ppr
    let s12 := fmul sy.1 0x3E800000
    let q := if rerun then requantAll fmt s12 (4 * zp) vals else first
    let s := if rerun then raise g 18 (wrapInc g Reg.TILE_RERUN_CNT_COUNT 1 s) else s
    let blocks := (vals.length + 31) / 32
    let pad := List.replicate (blocks * 32 - vals.length) 0
    let rec' : ScaleRec := { scale := if rerun then s12 else sy.1, zp := if rerun then 4 * zp else zp, fmt := fmt, tag := c.vec % 256 }
    let bytes := sliceHdrBytes fmt (c.vec % 256) blocks ++ packElems fmt (q.1 ++ pad) ++ scaleRecBytes rec'
    match taskStore p d addr bytes (outBits fmt) 8 poison s with
    | (st, s) =>
      if st ≠ 0 then setCtx p { c with status := st, finished := true } s
      else nextVector p d { c with outOff := c.outOff + up64 bytes.length, tot := addStats c.tot q.2 } s

/-- The vector's passes are all done (R54). -/
def vectorDone (t : Tile) (c : Ctx) : Bool :=
  (List.range 8).all fun i => decide (4 * c.vin.planes ≤ nth 0 c.pos i) &&
    decide ((t.sub (8 * bankNum c.bank + i)).pass = none)

/-- Finish a vector (R84): stages 1 to 5, then a hold for adapter values (R103) or stages 10 and 11. -/
def vectorEnd (p : Nat) (d : Desc) (c : Ctx) (s : State) : State :=
  let g := tilePage p
  let b := (tileOf p s).bank c.bank
  let o := wfmtOutputs b.wfmt
  let groups := (List.range 32).map fun x => groupRows b c.vin (x / 4) (x % 4)
  let raw := (List.range (bankOutputs b)).map fun j =>
    rawOutput p d b c (fun i => nth [] groups (j / o * foldSubs b.fold * 4 + i)) j s
  let sats := raw.foldl (fun n r => n + r.sats) 0
  let bad := (raw.filter fun r => r.badScale).length
  let s := if 0 < sats then satInc g Reg.TILE_ACC_SAT_CNT_COUNT sats s else s
  let s := if 0 < bad then satInc g Reg.TILE_SCALE_BAD_CNT_COUNT bad s else s
  let s := if raw.any (fun r => r.numeric) then raise g 19 s else s
  if pprMode c.ppr = 4 then
    let bytes := raw.flatMap fun r => leBytes 8 (ofSigned 56 r.acc + 2 ^ 56 * ofSigned 8 r.e)
    let addr := d.outRef.toNat + c.outOff
    let poison := raw.map fun r => r.poison
    let c := { c with poison := c.poison || poison.any id }
    match taskStore p d addr bytes 64 0 poison s with
    | (st, s) =>
      if st ≠ 0 then setCtx p { c with status := st, finished := true } s
      else nextVector p d { c with outOff := c.outOff + bytes.length } s
  else
    let pairs := raw.zip (List.range raw.length)
    let vals := pairs.map fun x => stage8 p c x.2 x.1 s
    let s := if (raw.zip vals).any (fun x => !x.1.poison && x.2.2) then raise g 19 s else s
    if pprAdapter c.ppr then
      let hold := vals.flatMap fun v => leBytes 4 v.1.toNat
      setCtx p { c with held := some ⟨vals⟩ }
        (fset g Reg.TILE_PP_STAT_HOLDING 1 (sramWrite p (pprHoldAddr c.ppr) hold s))
    else
      let s := if pprRerun c.ppr then
          let vs := vals.map fun v => activation (pprAct c.ppr) c.act v.1
          sramWrite p (pprHoldAddr c.ppr) (vs.flatMap fun v => leBytes 4 v.toNat) s
        else s
      emitVector p d c vals s

/-- CIM_VECTOR_END (R84): the running task's vector, once its last pass is done. -/
def execCimVectorEnd (tile : Fin 1056) (s : State) : Host.Outcome State Fault Refusal :=
  let t := tileOf tile.val s
  match t.cur with
  | none => .next s
  | some a =>
    match ctxOf t a, entryOf t a with
    | some c, some e =>
      if vectorDone t c = true ∧ c.finished = false ∧ c.held = none then .next (vectorEnd tile.val e.d c s) else .next s
    | _, _ => .next s

/-- ADAPTER_VALUES (R103): stage 9 of the held vector; a wrong TAG poisons the vector as R82 does, STREAM 2. -/
def execAdapterValues (tile : Fin 1056) (tag : Byte) (vals : List W32) (poison : Bool) (s : State) :
    Host.Outcome State Fault Refusal :=
  let p := tile.val
  let t := tileOf p s
  match (t.ctxs.filter fun c => decide (c.held ≠ none))[0]? with
  | none => .next s
  | some c =>
    match c.held, entryOf t c.age with
    | some h, some e =>
      if tag.toNat ≠ c.vec % 256 then
        let s := recordSkew p (c.vec % 256) tag.toNat 2 false s
        let c := { c with rest := true }
        .next (emitVector p e.d c (h.vals.map fun v => (v.1, true)) (setCtx p c s))
      else
        let s := if poison then raise (.tile tile) 19 s else s
        let out := (h.vals.zip (List.range h.vals.length)).map fun x =>
          (fadd x.1.1 (nth 0 vals x.2), x.1.2 || poison)
        .next (emitVector p e.d c out s)
    | _, _ => .next s

end Sys2Proof.Machine
end

