-- ==== Sys2Proof/Machine/Work.lean ====
section
/-! DEFINITION. The commands of task work (chapter 6): posts, signals, selection, ends, purges, credits, steals. -/

namespace Sys2Proof.Machine

/-! ## TASK_POST (R136, R138, R143) -/

/-- A post reaches a tile: a fenced tile or one that serves nothing answers UNIT_FENCED (R32), an invalid descriptor
fails with DESC_INVALID (R136), a full partition takes nothing, else the entry takes a POSTED slot. -/
def taskPost (p : Nat) (d : Desc) (shadow : Bool) (poster : Half) (s : State) : State :=
  let t := tileOf p s
  if fenced (tilePage p) s = true ∨ logicalOf p s = 0x7FF then
    let s := send (.credit p (ccFor poster s)) s
    if shadow then s else failUnbuilt p d 0x0011 s
  else if 176 ≤ partUse t .posted then s
  else if shadow then pushEntry p d .shadow .posted poster none s
  else
    let s' := pushEntry p d .ready .posted poster none s
    if descValid d false = false ∨ d.stolen = true ∨ d.deps ≠ 0 then
      match entryOf (tileOf p s') t.ages with
      | some e => endTask p e 0x0026 false s'
      | none => s'
    else settle p (ownVectorReady p d s')

/-- TASK_POST (R138). -/
def execTaskPost (tile : Fin 1056) (d : Desc) (shadow : Bool) (poster : Half) (s : State) : Host.Outcome State Fault Refusal :=
  .next (taskPost tile.val d shadow poster (arrive (.post tile.val d shadow poster) s))

/-! ## SIGNAL (R140, R149) -/

/-- SIGNAL (R140): in spill mode, or when it would build an entry in a full SPAWN partition, the signal joins the
spill queue (R149); else the tile acts on it. -/
def execSignal (tile : Fin 1056) (sig : Signal) (s : State) : Host.Outcome State Fault Refusal :=
  let p := tile.val
  let s := arrive (.signal p sig) s
  let t := tileOf p s
  if fenced (.tile tile) s = true then
    -- The tile's router passes it on to whoever serves the number now (R160).
    .next (sendSignal sig s)
  else if t.spilling = true ∨ mustSpill p sig s = true then
    let s := setTile p { t with spill := t.spill ++ [sig], spilling := true } s
    let s := wrapInc (.tile tile) Reg.TILE_SPILL_CNT_COUNT 1 s
    .next (if t.spilling then s else raise (.tile tile) 30 s)
  else .next (takeSignal p sig s)

/-! ## TASK_SELECT (R145 to R147) -/

/-- The tile runs tasks: ON, not fenced, at RUN (R74, R382). -/
def selects (p : Nat) (s : State) : Bool :=
  isOn (tilePage p) s && !fenced (tilePage p) s && decide ((tileOf p s).level = .run ∧ (tileOf p s).moving = .still)

/-- The READY tasks of a unit. -/
def candidates (t : Tile) (unit : TileUnit) : List Entry :=
  t.deque.filter fun e => decide (e.st = .ready) && (match unit with
    | .array => decide (e.d.kind = 0)
    | .vector => decide (e.d.kind ≠ 0))

/-- Read the post-processing record and what it names (R99): the record, the activation table, or the status the task
fails with. -/
def readRecord (p : Nat) (d : Desc) (s : State) : Except W16 (List W32 × List Byte) :=
  let t := tileOf p s
  let a := d.pprAddr.toNat
  if inTable p (a + 31) s = false then .error 0x0064
  else if sramPoisoned p a 32 s = true then .error 0x0063
  else
    let ppr := (List.range 8).map fun i => sramWord p (a + 4 * i) s
    if pprValid ppr = false then .error 0x0022
    else if pprInFrames ppr t.tblFrames = false then .error 0x0064
    else
      let table := 8 ≤ pprAct ppr
      let hist := pprMode ppr = 2 ∨ pprMode ppr = 3
      if (table ∧ sramPoisoned p (pprActAddr ppr) 2080 s = true) ∨ (hist ∧ sramPoisoned p (pprHistAddr ppr) 72 s = true) ∨
          (0 < d.succCnt.toNat ∧ sramPoisoned p d.succAddr.toNat (8 * d.succCnt.toNat) s = true) then .error 0x0063
      else .ok (ppr, if table then sramBytes p (pprActAddr ppr) 2080 s else [])

/-- The array starts a CIM task on a bank: bank selection (R66), its record (R99), its first vector. -/
def startArray (p : Nat) (e : Entry) (bank : Bool) (s : State) : State :=
  let g := tilePage p
  match readRecord p e.d s with
  | .error st => endTask p e st false s
  | .ok r =>
    let t := tileOf p s
    let s := if t.ranBefore = true ∧ t.selBank ≠ bank then wrapInc g Reg.TILE_FLIP_CNT_COUNT 1 s else s
    let none' : VecIn := { elems := [], planes := 0, signed := true, scale := 0, zp := 0, poisonGroups := [], bad := true }
    let c : Ctx := { age := e.age, bank := bank, ppr := r.1, act := r.2, vec := 0, vin := none', outOff := 0, inNext := 0,
                     recNext := 0, pos := [], wrongs := [], rest := false, tot := {}, held := none, status := 0,
                     finished := false, poison := false }
    let s := setTile p { t with ctxs := t.ctxs ++ [c], cur := some e.age, selBank := bank, ranBefore := true } s
    let s := modTile p (fun t => t.setBank bank { t.bank bank with ran := true }) s
    let s := fset g Reg.TILE_ARRAY_STAT_SEL_BANK (bankNum bank) (modEntry p e.age (fun e => { e with st := .running }) s)
    noteRunning p (beginVector p e.d c s)

/-- The running task steps aside (R146). -/
def suspend (p age : Nat) (s : State) : State :=
  wrapInc (tilePage p) Reg.TILE_PREEMPT_CNT_COUNT 1
    (modTile p (fun t => { t with cur := none }) (modEntry p age (fun e => { e with st := .suspended }) s))

/-- A suspended task resumes on its own bank (R146). -/
def resume (p : Nat) (e : Entry) (c : Ctx) (s : State) : State :=
  let g := tilePage p
  let t := tileOf p s
  let s := if t.selBank ≠ c.bank then wrapInc g Reg.TILE_FLIP_CNT_COUNT 1 s else s
  let s := modTile p (fun t => { t with cur := some e.age, selBank := c.bank }) s
  noteRunning p (fset g Reg.TILE_ARRAY_STAT_SEL_BANK (bankNum c.bank) (modEntry p e.age (fun e => { e with st := .running }) s))

/-- The array takes the best-ranked READY CIM task whose bank owes no sweep, or resumes the suspended one of the
highest class. -/
def arrayTake (p : Nat) (s : State) : State :=
  let t := tileOf p s
  let susp := bestOf s (t.deque.filter fun e => decide (e.st = .suspended))
  match bestOf s (candidates t .array), susp with
  | some e, some x =>
    if e.d.cls.toNat < x.d.cls.toNat then
      match standing t e.d with
      | .runs b => if sweepOwed p (t.bank b) s = true then s else startArray p e b s
      | _ => s
    else match ctxOf t x.age with
      | some c => resume p x c s
      | none => s
  | some e, none => match standing t e.d with
    | .runs b => if sweepOwed p (t.bank b) s = true then s else startArray p e b s
    | _ => s
  | none, some x => match ctxOf t x.age with
    | some c => resume p x c s
    | none => s
  | none, none => s

/-- Selection for the array (R145, R146). -/
def selectArray (p : Nat) (s : State) : State :=
  let t := tileOf p s
  if t.sweep ≠ none then s else
  match t.cur with
  | none => arrayTake p s
  | some a =>
    match entryOf t a, bestOf s (candidates t .array) with
    | some r, some e => if e.d.cls.toNat < r.d.cls.toNat then arrayTake p (suspend p a s) else s
    | _, _ => s

/-- Selection for the vector unit (R147): a tuning task of a Sustained channel is denied (R104), a poisoned argument
block fails the task. -/
def selectVector (p : Nat) (s : State) : State :=
  let t := tileOf p s
  if t.vec ≠ none then s else
  match bestOf s (candidates t .vector) with
  | none => s
  | some e =>
    if e.d.kind = 2 ∧ e.d.cls = 0 then endTask p e 0x0024 false s
    else if rangePoison e.d.auxRef.toNat 64 s = true then endTask p e 0x0063 false s
    else modTile p (fun t => { t with vec := some (e.age, s.timer) }) (modEntry p e.age (fun e => { e with st := .running }) s)

/-- TASK_SELECT (R145). -/
def execTaskSelect (tile : Fin 1056) (unit : TileUnit) (s : State) : Host.Outcome State Fault Refusal :=
  if selects tile.val s = true then
    match unit with
    | .array => .next (selectArray tile.val s)
    | .vector => .next (selectVector tile.val s)
  else .next s

/-! ## TASK_END (R141) and TIME_LIMIT (R147) -/

/-- The statistics of a CIM task (R97): LAST_STATS and the record at STATS_ADDR. -/
def storeStats (p : Nat) (c : Ctx) (s : State) : State :=
  let g := tilePage p
  let t := c.tot
  let s := s |> fset g Reg.TILE_LAST_STATS_COUNT_COUNT t.count |> fset g Reg.TILE_LAST_STATS_CLIP_CLIP t.clip
    |> fset g Reg.TILE_LAST_STATS_SSE_SSE t.sse.toNat |> fset g Reg.TILE_LAST_STATS_SSV_SSV t.ssv.toNat
  if pprStats c.ppr then
    sramWrite p (pprStatsAddr c.ppr)
      (leBytes 4 t.count ++ leBytes 4 t.clip ++ leBytes 4 t.sse.toNat ++ leBytes 4 t.ssv.toNat) s
  else s

/-- One output write of a kernel (R155): denied, at a fenced home, or stored with its poison. -/
def kernelWrite (p : Nat) (d : Desc) (w : RangeWrite) (a : W16 × Bool) (s : State) : (W16 × Bool) × State :=
  if a.1 ≠ 0 then (a, s)
  else
    match taskStore p d w.addr.toNat w.bytes 8 0 (w.bytes.map fun _ => w.poison) s with
    | (st, s) => ((st, a.2 || w.poison), s)

/-- The tuning record of a channel (R251): the hyper-parameters at the TUNE_REF of its first tunable binding. -/
def tuningRecord (chan : Nat) (s : State) : Option Hyper :=
  ((s.bindings.filter fun b => decide (b.chan = chan ∧ b.tuneRef ≠ 0))[0]?).map fun b =>
    let f := fun i => (BitVec.ofNat 32 (leNat (rangeBytes (b.tuneRef + 4 * i) 4 s)) : W32)
    { b1 := f 0, b2 := f 1, eps := f 2, lambda := f 3, lr := f 4 }

/-- A BI8 block in the range: 32 elements and the scale code after them (R78). -/
def readBi8 (addr : Nat) (s : State) : List W32 :=
  let b := rangeBytes addr 33 s
  let e := ((nth 0 b 32).toNat : Int) - 127
  (b.take 32).map fun x => fl (fpOfInt x.toInt e)

/-- One block of 32 weights is updated under R106 and stored under R105: m, u and then w. -/
def tuneBlock (p : Nat) (d : Desc) (h : Hyper) (k : TuneBlock) (a : W16 × W32) (s : State) : (W16 × W32) × State :=
  if a.1 ≠ 0 then (a, s)
  else if (taskMay d true k.wAddr.toNat 64 s && taskMay d true k.mAddr.toNat 33 s && taskMay d true k.uAddr.toNat 33 s) = false
  then ((0x0064, a.2), rangeDenied (tileMid p s) k.wAddr.toNat s)
  else if rangePoison k.wAddr.toNat 64 s = true ∨ rangePoison k.mAddr.toNat 33 s = true ∨ rangePoison k.uAddr.toNat 33 s = true
  then ((0x0062, a.2), s)
  else
    let m := readBi8 k.mAddr.toNat s
    let u := readBi8 k.uAddr.toNat s
    let w := (List.range 32).map fun i =>
      (BitVec.ofNat 32 (leNat (rangeBytes (k.wAddr.toNat + 2 * i) 2 s) * 65536) : W32)
    let r := (List.range 32).map fun i => tuneOne h (nth 0 m i) (nth 0 u i) (nth 0 w i) (nth 0 k.grads i)
    let bm := srBlock a.2 (r.map fun x => x.1)
    let bu := srBlock bm.2.2 (r.map fun x => x.2.1)
    let bw := r.foldl (fun (z : List Byte × W32) x =>
      let y := srBf16 z.2 x.2.2
      (z.1 ++ leBytes 2 y.1, y.2)) ([], bu.2.2)
    let bytes := fun (b : List Nat × Nat × W32) => (b.1.map fun x => BitVec.ofNat 8 x) ++ [BitVec.ofNat 8 b.2.1]
    ((0, bw.2), s |> rangeWrite k.mAddr.toNat (bytes bm) false |> rangeWrite k.uAddr.toNat (bytes bu) false
      |> rangeWrite k.wAddr.toNat bw.1 false)

/-- The end of the vector unit's task: its outputs, its tuning steps, its counts. -/
def endVector (p : Nat) (e : Entry) (r : KernelResult) (s : State) : State :=
  let g := tilePage p
  let s := if 0 < r.nans + r.ovfs then
      raise g 19 (satInc g Reg.TILE_VEC_EXC_CNT_OVF r.ovfs (satInc g Reg.TILE_VEC_EXC_CNT_NAN r.nans s))
    else s
  if r.status ≠ 0 then endTask p e r.status false s
  else
    let w := r.writes.foldl (fun (a : (W16 × Bool) × State) w => kernelWrite p e.d w a.1 a.2) ((0, false), s)
    if w.1.1 ≠ 0 then endTask p e w.1.1 false w.2
    else if e.d.kind ≠ 2 ∨ r.tune.isEmpty then endTask p e 0 w.1.2 w.2
    else match tuningRecord e.d.channel.toNat s with
      | none => endTask p e 0x0024 false w.2
      | some h =>
        let seed : W32 := if e.d.srSeed = 0 then 1 else e.d.srSeed
        let k := r.tune.foldl (fun (a : (W16 × W32) × State) k => tuneBlock p e.d h k a.1 a.2) ((0, seed), w.2)
        endTask p e k.1.1 w.1.2 (fset g Reg.TILE_SR_STATE_STATE k.1.2.toNat k.2)

/-- The array task that has emitted its last vector or met a failure. -/
def arrayEnd (p : Nat) (s : State) : State :=
  let t := tileOf p s
  match t.cur.bind fun a => ctxOf t a with
  | none => s
  | some c => match entryOf t c.age with
    | none => s
    | some e =>
      if c.finished = false then s
      else
        let s := if c.status = 0 ∧ pprMode c.ppr ∈ [1, 2, 3] then storeStats p c s else s
        noteRunning p (endTask p e c.status c.poison s)

/-- TASK_END (R141): on the array the task whose last vector is out; on the vector unit the kernel's result. -/
def execTaskEnd (tile : Fin 1056) (unit : TileUnit) (r : KernelResult) (s : State) : Host.Outcome State Fault Refusal :=
  let p := tile.val
  match unit with
  | .array => .next (arrayEnd p s)
  | .vector => match (tileOf p s).vec with
    | none => .next s
    | some v => match entryOf (tileOf p s) v.1 with
      | some e => .next (endVector p e r s)
      | none => .next s

/-- TIME_LIMIT (R147). -/
def execTimeLimit (tile : Fin 1056) (s : State) : Host.Outcome State Fault Refusal :=
  let p := tile.val
  match (tileOf p s).vec with
  | none => .next s
  | some v => match entryOf (tileOf p s) v.1 with
    | some e => .next (endTask p e 0x0027 false (raise (.tile tile) 31 s))
    | none => .next s

/-! ## PURGE (R142) -/

/-- Remove a request's entries from a tile, each recorded as DESC_INVALID. Work in progress for it stops. -/
def purge (p : Nat) (channel : BitVec 9) (seq : W32) (s : State) : State :=
  let t := tileOf p s
  let mine := fun (e : Entry) => decide (e.d.channel = channel ∧ e.d.seq = seq)
  let s := (t.deque.filter mine).foldl (fun s e =>
    returnCredit p e (if e.st = .shadow then s else recordFail p e.d 0x0026 s)) s
  let gone := fun (a : Nat) => (t.deque.filter mine).any fun e => decide (e.age = a)
  let s := modTile p (fun t => { t with
    deque := t.deque.filter (fun e => !mine e),
    ctxs := t.ctxs.filter (fun c => !gone c.age),
    cur := t.cur.bind (fun a => if gone a then none else some a),
    vec := t.vec.bind (fun v => if gone v.1 then none else some v),
    spill := t.spill.filter (fun g => !decide (g.req.channel = channel ∧ g.req.seq = seq)),
    subs := t.subs.map fun u => (u.1, { u.2 with pass := u.2.pass.bind fun q => if gone q.age then none else some q }) }) s
  let s := settle p (noteRunning p s)
  drainSpill ((tileOf p s).spill.length + 1) p s

/-- PURGE (R142). -/
def execPurge (tile : Fin 1056) (channel : BitVec 9) (seq : W32) (s : State) : Host.Outcome State Fault Refusal :=
  .next (purge tile.val channel seq (arrive (.purge tile.val channel seq) s))

/-! ## Credits (R148) -/

/-- Credits of a control complex for a tile. -/
def creditsOf (h : Half) (p : Nat) (s : State) : Nat :=
  if tileHalf p = h then (tileOf p s).creditOwn else (tileOf p s).creditOther

/-- Change the credits of a control complex for a tile. -/
def addCredits (h : Half) (p : Nat) (d : Int) (s : State) : State :=
  modTile p (fun t => if tileHalf p = h then { t with creditOwn := (t.creditOwn + d).toNat }
                      else { t with creditOther := (t.creditOther + d).toNat }) s

/-- The starting share of a control complex (R148). -/
def creditShare (h : Half) (p : Nat) : Nat := if tileHalf p = h then 144 else 32

/-- A credit comes back to the control complex that posted, to the survivor while that one is fenced; a holding above
its starting share gives it on to the other, once that one is back. -/
def creditReturn (p : Nat) (poster : Half) (s : State) : State :=
  let h := ccFor poster s
  let o := Half.other h
  if 176 ≤ (tileOf p s).creditOwn + (tileOf p s).creditOther then s
  else if creditShare h p ≤ creditsOf h p s ∧ fenced (.cc o) s = false then addCredits o p 1 s
  else addCredits h p 1 s

/-! ## Steals (R151 to R155) -/

/-- The probe conditions of R151. -/
def mayProbe (p : Nat) (s : State) : Bool :=
  let t := tileOf p s
  decide (fget (tilePage p) Reg.TILE_DQ_CFG_STEAL_EN s = 1) && selects p s && decide (logicalOf p s ≠ 0x7FF) &&
    decide (t.vec = none) && (candidates t .vector).isEmpty && decide (partUse t .stolen < 16) && !t.probe &&
    decide (t.backoffUntil ≤ s.timer)

/-- RADIUS as it acts (R162). -/
def radiusOf (p : Nat) (s : State) : Nat := max 1 (min 4 (fget (tilePage p) Reg.TILE_DQ_CFG_RADIUS s))

/-- The offsets (dx, dy) with 1 ≤ |dx| + |dy| ≤ r. -/
def offsets (r : Nat) : List (Int × Int) :=
  ((List.range 81).map fun i => (((i / 9 : Nat) : Int) - 4, ((i % 9 : Nat) : Int) - 4)).filter fun o =>
    decide (1 ≤ o.1.natAbs + o.2.natAbs ∧ o.1.natAbs + o.2.natAbs ≤ r)

/-- The tile at an offset within the half's mesh, if any (R15). -/
def atOffset (p : Nat) (o : Int × Int) : Option Nat :=
  let x := (p % 528 % 33 : Nat) + o.1
  let y := (p % 528 / 33 : Nat) + o.2
  if 0 ≤ x ∧ x < 33 ∧ 0 ≤ y ∧ y < 16 then some (p / 528 * 528 + y.toNat * 33 + x.toNat) else none

/-- Up to `n` draws (R152). The generator's step is not stated, so each draw is a free value. -/
def drawVictim (p r : Nat) : Nat → State → Option Nat × State
  | 0, s => (none, s)
  | n + 1, s =>
    let os := offsets r
    let i := Config.freeNat s.free % max 1 os.length
    match atOffset p (nth (0, 0) os i) with
    | some v => (some v, draw s)
    | none => drawVictim p r n (draw s)

/-- The backoff exponent after some denials (R154). -/
def backoffExp (p denies : Nat) (s : State) : Nat :=
  let lo := fget (tilePage p) Reg.TILE_DQ_CFG_BO_MIN s
  let hi := fget (tilePage p) Reg.TILE_DQ_CFG_BO_MAX s
  min (lo + denies) (max lo hi)

/-- STEAL_PROBE_SEND (R152). -/
def execStealProbeSend (thief : Fin 1056) (s : State) : Host.Outcome State Fault Refusal :=
  let p := thief.val
  if mayProbe p s = false then .next s else
  let r := drawVictim p (radiusOf p s) 4 s
  match r.1 with
  | some v =>
    .next (send (.probe v p) (wrapInc (.tile thief) Reg.TILE_STEAL_PROBE_CNT_COUNT 1
      (modTile p (fun t => { t with probe := true }) r.2)))
  | none =>
    .next (modTile p (fun t => { t with backoffUntil := s.timer + 2 ^ backoffExp p t.denies s }) r.2)

/-- The task a probe gets (R153): the oldest stealable READY task of CLASS 2, else of CLASS 1. -/
def stealable (t : Tile) : Option Entry :=
  let of' := fun (c : BitVec 2) => (t.deque.filter fun e =>
    decide (e.st = .ready ∧ e.d.kind ≠ 0 ∧ e.d.steal = true ∧ e.d.stolen = false ∧ e.d.cls = c)).foldl (fun b e => match b with
      | none => some e
      | some x => if e.age < x.age then some e else some x) (none : Option Entry)
  match of' 2 with
  | some e => some e
  | none => of' 1

/-- STEAL_PROBE (R152, R153): DENY from a tile that gives nothing, serves nothing or sleeps, else GRANT or DENY. -/
def execStealProbe (victim : Fin 1056) (thief : Fin 1056) (s : State) : Host.Outcome State Fault Refusal :=
  let v := victim.val
  let s := arrive (.probe v thief.val) s
  let t := tileOf v s
  let gives := decide (logicalOf v s ≠ 0x7FF) && decide (fget (.tile victim) Reg.TILE_DQ_CFG_GIVE_EN s = 1) &&
    !fenced (.tile victim) s && decide (t.level = .run ∨ t.level = .idle)
  match (if gives then stealable t else none) with
  | none => .next (send (.deny thief.val) s)
  | some e =>
    let s := modTile v (fun t => { t with deque := t.deque.filter fun x => decide (x.age ≠ e.age) }) s
    let s := returnCredit v e (wrapInc (.tile victim) Reg.TILE_STEAL_GIVEN_CNT_COUNT 1 s)
    let s := drainSpill ((tileOf v s).spill.length + 1) v s
    .next (send (.grant v (BitVec.ofNat 10 (logicalOf thief.val s)) e.d e.age) s)

/-- STEAL_GRANT (R154, R155): into a STOLEN slot of the tile that serves the thief's number, or back to the victim
with its original age and STOLEN clear. -/
def execStealGrant (victim : Fin 1056) (thief : BitVec 10) (d : Desc) (age : Nat) (s : State) :
    Host.Outcome State Fault Refusal :=
  let s := arrive (.grant victim.val thief d age) s
  match serving thief.toNat s with
  | some p =>
    let s := modTile p (fun t => { t with probe := false, denies := 0, backoffUntil := 0 }) s
    let s := wrapInc (tilePage p) Reg.TILE_STEAL_GRANT_CNT_COUNT 1 s
    .next (pushEntry p { d with stolen := true } .ready .stolen .north (some victim.val) s)
  | none =>
    let e : Entry := { d := { d with stolen := false }, st := .ready, part := .spawn, poster := .north, age := age,
                       vec := 0, victim := none }
    .next (modTile victim.val (fun t => { t with deque := t.deque ++ [e] }) s)

/-- STEAL_DENY (R154). -/
def execStealDeny (thief : Fin 1056) (s : State) : Host.Outcome State Fault Refusal :=
  let p := thief.val
  let s := arrive (.deny p) s
  let s := wrapInc (.tile thief) Reg.TILE_STEAL_DENY_CNT_COUNT 1 s
  .next (modTile p (fun t => { t with probe := false, denies := t.denies + 1,
                                      backoffUntil := s.timer + 2 ^ backoffExp p t.denies s }) s)

/-- STEAL_BACKOFF_EXPIRE (R154): the device timer reaches the end of the wait. -/
def execStealBackoffExpire (thief : Fin 1056) (s : State) : Host.Outcome State Fault Refusal :=
  .next (reach (tileOf thief.val s).backoffUntil s)

end Sys2Proof.Machine
end

