-- ==== Sys2Proof/Machine/Weights.lean ====
section
/-! DEFINITION. The weight store (chapter 7): commands of the two weight-store controllers, senses, programs, erases
and their logs, faults of planes and dies, the identity row. -/

namespace Sys2Proof.Machine

/-! ## Addresses (R164) -/

/-- Block of a code word: CWA ÷ 256. -/
def blockOf (cwa : Nat) : Nat := cwa / 256
/-- Plane of a code word: CWA ÷ 2^14. -/
def planeOf (cwa : Nat) : Nat := cwa / 2 ^ 14
/-- Die of a code word. -/
def dieOf (cwa : Nat) : Nat := cwa / 2 ^ 22
/-- A die's page. -/
def diePage (d : Nat) : Page := .die (Fin.ofNat 8 d)
/-- Code word k of a run (R189). -/
def runCwa (stripe : Bool) (cwa k : Nat) : Nat :=
  if stripe then dieOf cwa * 2 ^ 22 + (cwa / 2 ^ 14 % 256 + k) % 192 * 2 ^ 14 + cwa % 2 ^ 14 else cwa + k
/-- Code word k of a command. -/
def WsCmd.at (c : WsCmd) (k : Nat) : Nat := runCwa c.stripe c.cwa k
/-- The code word lies in the identity row (R181). -/
def inIdRow (cwa : Nat) : Bool := decide (blockOf cwa = 63)
/-- The blocks a command names. -/
def WsCmd.blocks (c : WsCmd) : List Nat := ((List.range c.count).map fun k => blockOf (c.at k)).eraseDups

/-- A control complex runs from the boot area (FW_STAT.AREA, R185). -/
def areaRuns (area : Nat) (s : State) : Bool :=
  [Half.north, Half.south].any fun h => present s (.cc h) && decide (fget (.cc h) Reg.CC_FW_STAT_AREA s = area)
/-- A code word of a boot area (R165): copy 0 or its duplicate. -/
def bootCwa (area copy c : Nat) : Nat := (1 + 16 * area + 8 * copy + c % 8) * 2 ^ 14 + 62 * 256 + c / 8
/-- The block belongs to the running area (R185). -/
def inRunningArea (block : Nat) (s : State) : Bool :=
  decide (block % 64 = 62 ∧ block / 2 ^ 14 = 0 ∧ 1 ≤ block / 64 ∧ block / 64 < 33) && areaRuns ((block / 64 - 1) / 16) s
/-- The block is a log block (R165). -/
def inLog (block : Nat) : Bool := decide (block % 64 = 63 ∧ 176 ≤ block / 64 % 256 ∧ block / 64 % 256 < 192)

/-! ## State of the store -/

/-- Replace the weight store. -/
def modWs (f : Weights → Weights) (s : State) : State := { s with ws := f s.ws }
/-- A command by its name. -/
def wsCmd (half : Half) (id : Nat) (s : State) : Option WsCmd :=
  (s.ws.cmds.filter fun c => decide (c.half = half ∧ c.id = id))[0]?
/-- Replace a command. -/
def setWsCmd (c : WsCmd) (s : State) : State :=
  modWs (fun w => { w with cmds := w.cmds.map fun x => if x.id = c.id then c else x }) s
/-- The bytes of a written code word. -/
def cwBytes (cwa : Nat) (s : State) : Option (List Byte) := sget none cwa s.ws.cws
/-- Write or clear a code word. -/
def setCw (cwa : Nat) (v : Option (List Byte)) (s : State) : State :=
  modWs (fun w => { w with cws := sset none cwa v w.cws }) s
/-- Clear the code words of a block. -/
def clearBlock (block : Nat) (s : State) : State :=
  modWs (fun w => { w with cws := sclear (block * 256) (block * 256 + 256) w.cws }) s
/-- Fresh bytes whose value the spec does not state. -/
def freeBytes (n : Nat) (s : State) : List Byte × State :=
  ((List.range n).map fun i => Config.freeByte (s.free + i), { s with free := s.free + n })

/-- The plane is fenced (R187). -/
def planeFenced (plane : Nat) (s : State) : Bool :=
  decide (bitsOf (fgetI (diePage (plane / 256)) Reg.DIE_PLANE_FENCE_FENCED (plane % 256 / 32) s) (plane % 32) 1 = 1)

/-- Retire a block: its address goes to the die's bad-block log (R174). -/
def retireBlock (block : Nat) (s : State) : State :=
  modWs (fun w => { w with retired := if w.retired.contains block then w.retired else w.retired ++ [block] }) s

/-- Fence a plane (R187): its bit, PLANE_FENCED, and the die with CAUSE 6 when more than 8 of its planes are fenced,
WS-N0 excepted. -/
def fencePlane (plane : Nat) (s : State) : State :=
  let d := plane / 256
  let p := diePage d
  let i := plane % 256 / 32
  if planeFenced plane s = true then s else
  let s := fsetI p Reg.DIE_PLANE_FENCE_FENCED i (fgetI p Reg.DIE_PLANE_FENCE_FENCED i s ||| 2 ^ (plane % 32)) s
  let n := fget p Reg.DIE_DIE_STAT_FENCED s + 1
  let s := raise p 8 (fset p Reg.DIE_DIE_STAT_FENCED n s)
  if 8 < n ∧ d ≠ 0 then fencePage p 6 s else s

/-- A failure of a block for R187: the third distinct block of its plane within a second fences the plane. -/
def noteFailure (block : Nat) (program : Bool) (s : State) : State :=
  let s := modWs (fun w => { w with errs := w.errs ++ [(block, program, s.timer)] }) s
  let n := ((s.ws.errs.filter fun e => decide (e.1 / 64 = block / 64 ∧ e.2.1 = program ∧ s.timer < e.2.2 + second)).map
    fun e => e.1).eraseDups.length
  if 3 ≤ n then fencePlane (block / 64) s else s

/-- The weak FIFO (R170). -/
def noteWeak (half : Half) (cwa n : Nat) (s : State) : State :=
  let p : Page := .wsc half
  let fifo := if half = .north then s.ws.weakN else s.ws.weakS
  if fifo.any (fun e => decide (e.1 = cwa)) then raise p 9 s
  else if 32 ≤ fifo.length then raise p 10 (satInc p Reg.WSC_WEAK_STAT_DROPPED 1 s)
  else
    let fifo := fifo ++ [(cwa, n)]
    raise p 9 (modWs (fun w => if half = .north then { w with weakN := fifo } else { w with weakS := fifo }) s)

/-- Count a read in HIST by its MAX_CORR (R170). -/
def noteHist (half : Half) (n : Nat) (s : State) : State :=
  wrapInc (.wsc half) (if n < 16 then Reg.WSC_HIST_0_COUNT else if n < 64 then Reg.WSC_HIST_1_COUNT
    else if n < 160 then Reg.WSC_HIST_2_COUNT else Reg.WSC_HIST_3_COUNT) 1 s

/-! ## The end of a command (R190) -/

/-- The status entry of a command. -/
def wsEntry (c : WsCmd) (status : W16) : W64 × W64 :=
  let b := fun (x : Bool) => if x then 1 else 0
  (BitVec.ofNat 64 (c.tag.toNat + status.toNat * 2 ^ 32 + min 1023 c.maxCorr * 2 ^ 48),
   BitVec.ofNat 64 (c.maxIndex + b c.uncorr * 2 ^ 9 + b c.partially * 2 ^ 10 + b c.unwritten * 2 ^ 11 +
     b c.weak * 2 ^ 12 + c.loops % 32 * 2 ^ 13 + c.firstBad.getD 0 * 2 ^ 18))

/-- A command ends: it leaves the queue, its status entry is queued, CMD_DONE is raised, a failure is recorded. -/
def wsEnd (c : WsCmd) (status : W16) (s : State) : State :=
  let p : Page := .wsc c.half
  let e := wsEntry c status
  let gate := c.addr / 2 ^ 20 % 64
  let s := modWs (fun w =>
    let w := { w with cmds := w.cmds.filter (fun x => decide (x.id ≠ c.id)),
                      gates := if c.op = 0 ∧ gate ≠ 0 then w.gates.filter (fun g => decide (g ≠ (c.half, gate))) else w.gates }
    if c.half = .north then { w with stsN := w.stsN ++ [e] } else { w with stsS := w.stsS ++ [e] }) s
  let s := if c.op ≤ 1 ∧ 0 < c.done then noteHist c.half c.maxCorr s else s
  let s := if status = 0 ∨ fget p Reg.WSC_ERR_REC_HI_VALID s = 1 then s else
    s |> fset p Reg.WSC_ERR_REC_LO_CWA (c.at (c.firstBad.getD 0)) |> fset p Reg.WSC_ERR_REC_HI_STATUS status.toNat
      |> fset p Reg.WSC_ERR_REC_HI_VALID 1
  raise p 8 s

/-- End a command at the code word it has reached. -/
def wsFail (c : WsCmd) (status : W16) (s : State) : State :=
  wsEnd { c with firstBad := some (c.firstBad.getD c.done) } status s

/-! ## Moving commands on -/

/-- Why a command cannot go on with a code word: its unit is fenced (R32, R187), or its block is retired (R174). Reads
of the identity row go on through a north half fence (R367). -/
def unitStop (c : WsCmd) (cwa : Nat) (s : State) : Option W16 :=
  let w : Page := .wsc c.half
  let d := diePage (dieOf cwa)
  let service := c.op = 1 ∧ inIdRow cwa = true ∧ (fenced w s = false ∨ fget w Reg.FENCE_CAUSE s = 3) ∧
    (fenced d s = false ∨ fget d Reg.FENCE_CAUSE s = 3)
  if planeFenced (planeOf cwa) s = true ∨ present s d = false then some 0x0011
  else if service then none
  else if fenced w s = true ∨ fenced d s = true then some 0x0011
  else if s.ws.retired.contains (blockOf cwa) then some 0x0038
  else none

/-- An earlier command names one of the same blocks (R169). -/
def wsBlocked (c : WsCmd) (s : State) : Bool :=
  s.ws.cmds.any fun x => decide (x.half = c.half ∧ x.id < c.id) && x.blocks.any fun b => c.blocks.contains b

/-- An erase of a plane meets a read (R176): it suspends at once after 300 µs of progress, else the suspend is held. -/
def touchErase (plane : Nat) (s : State) : State :=
  match (s.ws.cmds.filter fun c => decide (c.op = 3 ∧ planeOf c.cwa = plane ∧ c.erase = .running))[0]? with
  | none => s
  | some c =>
    if c.since + ticks 300 ≤ s.timer then setWsCmd { c with erase := .suspended } s
    else satInc (.wsc c.half) Reg.WSC_ERASE_STAT_HELD 1 (setWsCmd { c with erase := .held } s)

/-- Commands of a kind now at work on a die. -/
def dieCount (d : Nat) (f : WsCmd → Bool) (s : State) : Nat :=
  (s.ws.cmds.filter fun c => decide (dieOf (c.at c.done) = d) && f c).length

/-- The program of a code word begins (R171, R172, R180): its source is read now, its written flags are set. -/
def beginProgram (c : WsCmd) (s : State) : State :=
  let p : Page := .wsc c.half
  let cwa := c.at c.done
  let src := c.addr + 16384 * c.done
  let n := min 192 (fget p Reg.WSC_WSC_SCHED_PROG_PLANES s)
  if n ≤ dieCount (dieOf cwa) (fun x => decide (x.op = 2) && x.begun) s then s
  else if s.ws.partials.contains (blockOf cwa) then wsFail c 0x0036 s
  else if cwBytes cwa s ≠ none then
    wsFail c 0x0032 (raise p 14 (satInc p Reg.WSC_FAIL_CNT_DOUBLE 1 s))
  else if (List.range (255 - cwa % 256)).any (fun i => decide (cwBytes (cwa + 1 + i) s ≠ none)) then
    wsFail c 0x0033 (satInc p Reg.WSC_FAIL_CNT_ORDER 1 s)
  else if rangePoison src 16384 s = true ∨ (spanPages src 16384).any (fun q => decide ((homeOf q s).st = .free)) then
    wsFail c 0x003A s
  else setWsCmd { c with begun := true } (setCw cwa (some (rangeBytes src 16384 s)) s)

/-- The block may start its erase now. -/
def mayErase (c : WsCmd) (s : State) : Bool :=
  decide (c.erase = .intended ∧
    dieCount (dieOf c.cwa) (fun x => decide (x.op = 3 ∧ x.erase ≠ .waiting ∧ x.erase ≠ .intended)) s <
      fget (.wsc c.half) Reg.WSC_WSC_SCHED_ERASE_MAX s) &&
  s.ws.noErase.all (fun e => decide (e.1 ≠ planeOf c.cwa ∨ e.2 ≤ s.timer))

/-- One command moves as far as it can without an event. -/
def kickOne (c : WsCmd) (s : State) : State :=
  let run := isOn (.wsc c.half) s || fenced (.wsc c.half) s || c.begun || decide (0 < c.done)
  if run = false ∨ wsBlocked c s = true ∨ c.count ≤ c.done then s
  else match unitStop c (c.at c.done) s with
    | some st => wsFail c st s
    | none =>
      if c.begun then s
      else if c.op ≤ 1 then touchErase (planeOf (c.at c.done)) (setWsCmd { c with begun := true } s)
      else if c.op = 2 then beginProgram c s
      else if mayErase c s = true then setWsCmd { c with erase := .running, since := s.timer } s
      else s

/-- Every command moves on, in the order posted. -/
def wsKick (s : State) : State :=
  (s.ws.cmds.map fun c => (c.half, c.id)).foldl (fun s k => match wsCmd k.1 k.2 s with
    | some c => kickOne c s
    | none => s) s

/-! ## Posting (R189, R190) -/

/-- Fields of a posted command that R190 or R200 refuses. -/
def wsInvalid (half : Half) (q : Cmd4) : Bool :=
  let op := bitsOf q.q0.toNat 0 4
  let stripe := bitsOf q.q0.toNat 6 1 = 1
  let count := bitsOf q.q0.toNat 8 9
  let cwa := bitsOf q.q1.toNat 0 25
  let a := bitsOf q.q2.toNat 0 48
  decide (3 < op) || decide (bitsOf q.q0.toNat 7 1 ≠ 0 ∨ bitsOf q.q0.toNat 17 15 ≠ 0 ∨ q.q1.toNat / 2 ^ 25 ≠ 0 ∨
      q.q2.toNat / 2 ^ 48 ≠ 0 ∨ q.q3 ≠ 0) ||
    decide (dieOf cwa / 4 ≠ Half.num half ∨ 192 ≤ cwa / 2 ^ 14 % 256) ||
    decide (count = 0 ∨ 256 < count ∨ (op = 3 ∧ count ≠ 1)) ||
    decide (¬ stripe ∧ op ≠ 3 ∧ 256 < cwa % 256 + count) ||
    (decide (op = 0) &&
      (if bitsOf a 11 1 = 0 then decide (count % 8 ≠ 0 ∨ a / 2 ^ 33 ≠ 0) else decide (bitsOf a 26 7 ≠ 0)))

/-- The command a posted word group is. -/
def wsCmdOf (id : Nat) (half : Half) (w : Wr) (q : Cmd4) : WsCmd :=
  let op := bitsOf q.q0.toNat 0 4
  let cwa := bitsOf q.q1.toNat 0 25
  { id := id, half := half, tag := BitVec.ofNat 32 (q.q0.toNat / 2 ^ 32), op := op, prio := bitsOf q.q0.toNat 4 2,
    stripe := decide (bitsOf q.q0.toNat 6 1 = 1), count := bitsOf q.q0.toNat 8 9,
    cwa := if op = 3 then cwa / 256 * 256 else cwa, addr := bitsOf q.q2.toNat 0 48, mid := w.mid, token := w.token,
    done := 0, begun := false, status := 0, maxCorr := 0, maxIndex := 0, uncorr := false, partially := false,
    unwritten := false, weak := false, loops := 0, firstBad := none, retried := false, buf := [], bufPoison := [],
    erase := .waiting, since := 0 }

/-- A protected block (R181, R185, R190): the identity row against erases and programs, the running area, a log block
against an erase that a control complex posts. -/
def wsProtected (c : WsCmd) (s : State) : Bool :=
  (decide (c.op = 2 ∨ c.op = 3) && c.blocks.any fun b => decide (b = 63) || inRunningArea b s) ||
    (decide (c.op = 3) && isCC c.mid && inLog (blockOf c.cwa))

/-- Commands of a controller that have not ended. -/
def wsQueued (half : Half) (s : State) : Nat := (s.ws.cmds.filter fun c => decide (c.half = half)).length

/-- The write of CMD7 that posts a command (R189 to R191). -/
def wsPost (w : Wr) (half : Half) (q : Cmd4) (s : State) : State :=
  guarded w (.wsc half) 0x19C (fun s =>
    let s := storeCmd (.wsc half) 0x180 q s
    if 256 ≤ wsQueued half s then raise (.wsc half) 5 s
    else
      let c := wsCmdOf s.ws.ids half w q
      let s := modWs (fun x => { x with ids := x.ids + 1, cmds := x.cmds ++ [c] }) s
      let b := blk (.wsc half) s
      if wsInvalid half q = true then wsEnd c 0x0039 s
      else if b ≠ .on ∧ b ≠ .starting ∧ fenced (.wsc half) s = false then wsEnd c 0x003C s
      else if wsProtected c s = true then wsFail c 0x0037 s
      else wsKick s) s

/-- WS_READ_REFILL (R200). -/
def execWsReadRefill (w : Wr) (half : Half) (cmd : Cmd4) (s : State) : Host.Outcome State Fault Refusal :=
  .next (wsPost w half cmd s)

/-- WS_READ_COPY (R189). -/
def execWsReadCopy (w : Wr) (half : Half) (cmd : Cmd4) (s : State) : Host.Outcome State Fault Refusal :=
  .next (wsPost w half cmd s)

/-- WS_PROGRAM (R171). -/
def execWsProgram (w : Wr) (half : Half) (cmd : Cmd4) (s : State) : Host.Outcome State Fault Refusal :=
  .next (wsPost w half cmd s)

/-- WS_ERASE (R178). -/
def execWsErase (w : Wr) (half : Half) (cmd : Cmd4) (s : State) : Host.Outcome State Fault Refusal :=
  .next (wsPost w half cmd s)

/-- Status entries of a controller. -/
def wsSts (half : Half) (s : State) : List (W64 × W64) := if half = .north then s.ws.stsN else s.ws.stsS

/-- The head status entry of a controller goes (R190). -/
def popWs (half : Half) (s : State) : State :=
  modWs (fun x => if half = .north then { x with stsN := x.stsN.drop 1 } else { x with stsS := x.stsS.drop 1 }) s

/-- WS_STATUS_POP (R190): the read of STS3 delivers its word and removes the head entry. -/
def execWsStatusPop (mid : W16) (half : Half) (s : State) : Host.Outcome State Fault Refusal :=
  if served s (.wsc half) = false ∨ sees s mid (.wsc half) = false then .next (emit (.readData mid (regAddr (.wsc half) 0x1BC) 0) s)
  else
    let w : W32 := match (wsSts half s)[0]? with
      | some e => BitVec.ofNat 32 (e.2.toNat / 2 ^ 32)
      | none => 0
    .next (popWs half (emit (.readData mid (regAddr (.wsc half) 0x1BC) w) s))

/-! ## Delivery of refills (R198 to R200) -/

/-- The MID of a weight-store controller (R37). -/
def wscMid (half : Half) (s : State) : W16 := BitVec.ofNat 16 (4 * 8192 + nodeId s * 256 + 7 * 32 + Half.num half)

/-- A frame goes onto its row bus; one whose logical tile no tile serves is dropped. -/
def sendFrame (f : RowFrame ⊕ ScaleFrame) (s : State) : Bool × State :=
  let l := match f with
    | .inl r => r.ltile
    | .inr c => c.ltile
  if serving l.toNat s = none then (false, s)
  else match f with
    | .inl r => (true, { s with rowBus := s.rowBus ++ [r] })
    | .inr c => (true, { s with scaleBus := s.scaleBus ++ [c] })

/-- Deliver a command's frames of one code word: at once, or held at its closed gate. The flag says one was dropped. -/
def deliver (c : WsCmd) (index : Nat) (fs : List (RowFrame ⊕ ScaleFrame)) (s : State) : Bool × State :=
  let gate := c.addr / 2 ^ 20 % 64
  if gate = 0 ∨ s.ws.gates.contains (c.half, gate) then
    fs.foldl (fun a f =>
      let r := sendFrame f a.2
      (a.1 || !r.1, r.2)) (false, s)
  else
    (false, modWs (fun w => { w with gated := w.gated ++ fs.map fun f => ⟨c.id, c.half, gate, index, f⟩ }) s)

/-- Row frames of code word `k` of a weight run (R198): rows 0 to ROWS − 1, in ascending order. -/
def rowFrames (c : WsCmd) (k : Nat) (bytes : List Byte) (poison : Bool) (s : State) : List (RowFrame ⊕ ScaleFrame) :=
  (List.range (bitsOf c.addr 26 7 + 1)).map fun r => .inl
    { ltile := BitVec.ofNat 10 (bitsOf c.addr 0 10 + k / 8), bank := decide (bitsOf c.addr 10 1 = 1),
      sub := Fin.ofNat 8 (k % 8), row := Fin.ofNat 128 r, bseq := BitVec.ofNat 8 (bitsOf c.addr 12 8 + k / 8),
      poison := poison, restore := false, data := BitVec.ofNat 1024 (leNat ((bytes.drop (128 * r)).take 128)),
      sender := wscMid c.half s }

/-- Bytes of a scale block: 16 + 32 × O, rounded up to 64 (R209). -/
def scaleBlockBytes (cfg : Nat) : Nat := up64 (16 + 32 * wfmtOutputs (BitVec.ofNat 2 cfg))

/-- Cut a scale run into its blocks: offset, bytes. -/
def scaleBlocks : Nat → Nat → List Byte → List (Nat × List Byte)
  | 0, _, _ => []
  | n + 1, off, bytes =>
    let size := scaleBlockBytes (nth 0 bytes 1).toNat
    if bytes.length < size ∨ bytes.length < 2 then []
    else (off, bytes.take size) :: scaleBlocks n (off + size) (bytes.drop size)

/-- Scale frames of a whole run with the code word each starts in. -/
def scaleFrames (c : WsCmd) (s : State) : List (Nat × (RowFrame ⊕ ScaleFrame)) :=
  let soff := bitsOf c.addr 33 8 * 64
  let bl := scaleBlocks (bitsOf c.addr 41 7 + 1) soff (c.buf.drop soff)
  (bl.zip (List.range bl.length)).map fun x =>
    let first := x.1.1 / 16384
    let last := (x.1.1 + x.1.2.length - 1) / 16384
    let poison := (List.range (last - first + 1)).any fun i => nth false c.bufPoison (first + i)
    (first, .inr { ltile := BitVec.ofNat 10 (bitsOf c.addr 0 10 + x.2), bank := decide (bitsOf c.addr 10 1 = 1),
                   poison := poison, bytes := x.1.2, sender := wscMid c.half s })

/-- A dropped frame ends its command with UNIT_FENCED, FIRST_BAD naming the first code word (R200). -/
def noteDrop (dropped : Bool) (k : Nat) (c : WsCmd) : WsCmd :=
  if dropped ∧ c.status ≠ 0x0011 then { c with status := 0x0011, firstBad := some (c.firstBad.getD k) } else c

/-- The scale blocks of a finished scale run are sent; a run that held fewer than it names ends WS_CMD_INVALID. -/
def endScaleRun (c : WsCmd) (s : State) : WsCmd × State :=
  let fs := scaleFrames c s
  let r := fs.foldl (fun (a : WsCmd × State) f =>
    let d := deliver a.1 f.1 [f.2] a.2
    (noteDrop d.1 f.1 a.1, d.2)) (c, s)
  if fs.length < bitsOf c.addr 41 7 + 1 then ({ r.1 with status := 0x0039, firstBad := some (c.count - 1) }, r.2) else r

/-- A refill ends once its last frame has left its gate. -/
def refillDone (c : WsCmd) (s : State) : State :=
  if s.ws.gated.any (fun g => decide (g.cmd = c.id)) then setWsCmd c s else wsEnd c c.status s

/-- Open a gate: the frames held there leave, in order, and finished refills end (R200). -/
def openGate (half : Half) (gate : Nat) (s : State) : State :=
  let mine := s.ws.gated.filter fun g => decide (g.half = half ∧ g.gate = gate)
  let s := modWs (fun w => { w with gated := w.gated.filter (fun g => decide ¬(g.half = half ∧ g.gate = gate)),
                                    gates := (half, gate) :: w.gates }) s
  let s := mine.foldl (fun s g =>
    let r := sendFrame g.frame s
    match r.1, wsCmd half g.cmd r.2 with
    | false, some c => setWsCmd (noteDrop true g.index c) r.2
    | _, _ => r.2) s
  (mine.map fun g => g.cmd).eraseDups.foldl (fun s id => match wsCmd half id s with
    | some c => if c.count ≤ c.done then wsEnd c c.status s else s
    | none => s) s

/-! ## Senses (R166 to R170, R187) -/

/-- How a sensed code word is classed (R168): status, data, poison. -/
def classify (c : WsCmd) (cwa : Nat) (corrected : Bool) (s : State) : WsCmd × List Byte × Bool × State :=
  let mark := fun (st : W16) (c : WsCmd) =>
    { c with status := if c.status = 0 then st else c.status, firstBad := some (c.firstBad.getD c.done) }
  if corrected = false then
    let r := freeBytes 16384 s
    (mark 0x0031 { c with uncorr := true }, r.1, true, r.2)
  else if s.ws.partials.contains (blockOf cwa) then
    let r := freeBytes 16384 s
    (mark 0x0036 { c with partially := true }, r.1, true, r.2)
  else match cwBytes cwa s with
    | none => (mark 0x003B { c with unwritten := true }, List.replicate 16384 0, true, s)
    | some b => (c, b, false, s)

/-- Give a read's code word to its destination and move to the next. -/
def passOn (c : WsCmd) (bytes : List Byte) (poison : Bool) (s : State) : State :=
  let k := c.done
  let next := { c with done := k + 1, begun := false, retried := false }
  if c.op = 1 then
    let dst := c.addr + 16384 * k
    if (spanPages dst 16384).any (fun q => decide ((homeOf q s).st = .free)) then wsFail c 0x0064 s
    else if (spanPages dst 16384).any (fun q => homeFenced (homeOf q s) s) then wsFail c 0x0011 s
    else
      let s := rangeWrite dst bytes poison s
      if c.count ≤ k + 1 then wsEnd next next.status s else setWsCmd next s
  else if bitsOf c.addr 11 1 = 0 then
    let d := deliver c k (rowFrames c k bytes poison s) s
    let next := noteDrop d.1 k next
    if c.count ≤ k + 1 then refillDone next d.2 else setWsCmd next d.2
  else
    let next := { next with buf := c.buf ++ bytes, bufPoison := c.bufPoison ++ [poison] }
    if c.count ≤ k + 1 then
      let r := endScaleRun next s
      refillDone r.1 r.2
    else setWsCmd next s

/-- The check of a transfer across the hybrid bond (R187): three bad ones in a row fence the die, WS-N0 excepted. -/
def bondCheck (d : Nat) (good : Bool) (s : State) : State :=
  let n := if good then 0 else sget 0 d s.ws.bond + 1
  let s := modWs (fun w => { w with bond := sset 0 d (if 3 ≤ n then 0 else n) w.bond }) s
  if 3 ≤ n ∧ d ≠ 0 then fencePage (diePage d) 7 s else s

/-- The correctable-bit record of a read. -/
def noteCorrected (c : WsCmd) (n : Nat) (s : State) : WsCmd × State :=
  let warn := decide (fget (.wsc c.half) Reg.WSC_WSC_CFG_CORR_WARN s ≤ n)
  let c := if c.maxCorr < n then { c with maxCorr := n, maxIndex := c.done } else c
  ({ c with weak := c.weak || warn }, if warn then noteWeak c.half (c.at c.done) n s else s)

/-- The sensed code word of a read is decoded, classed and delivered. A transfer that fails its parity is sent again. -/
def readEnd (c : WsCmd) (r : SenseResult) (s : State) : State :=
  let p : Page := .wsc c.half
  let cwa := c.at c.done
  let s := bondCheck (dieOf cwa) r.bondOk s
  if r.bondOk = false then s else
  let corrected := decide (r.bits ≤ 160) || r.corrects
  let cs := if corrected then noteCorrected c (min 1023 r.bits) s
    else (c, noteFailure (blockOf cwa) false (raise p 11 (satInc p Reg.WSC_UNCORR_CNT_COUNT 1 s)))
  let k := classify cs.1 cwa corrected cs.2
  passOn k.1 k.2.1 k.2.2.1 k.2.2.2

/-- CODE_WORD_READ_END (R166). -/
def execCodeWordReadEnd (half : Half) (id : Nat) (r : SenseResult) (s : State) : Host.Outcome State Fault Refusal :=
  match wsCmd half id s with
  | some c => if c.op ≤ 1 ∧ c.begun = true ∧ c.done < c.count then .next (wsKick (readEnd c r s)) else .next s
  | none => .next s

/-- SENSE_TIMEOUT (R187): sensed once more; a second failure fences the plane and ends the read. -/
def execSenseTimeout (half : Half) (id : Nat) (s : State) : Host.Outcome State Fault Refusal :=
  match wsCmd half id s with
  | some c =>
    if c.op ≤ 1 ∧ c.begun = true ∧ c.done < c.count then
      if c.retried then .next (wsKick (wsFail c 0x0011 (fencePlane (planeOf (c.at c.done)) s)))
      else .next (setWsCmd { c with retried := true } s)
    else .next s
  | none => .next s

/-- The weak FIFO of a controller. -/
def weakFifo (half : Half) (s : State) : List (Nat × Nat) := if half = .north then s.ws.weakN else s.ws.weakS

/-- WEAK_HEAD_HI as it reads (R193). -/
def weakHeadHi (half : Half) (s : State) : W32 :=
  match (weakFifo half s)[0]? with
  | some e => BitVec.ofNat 32 (e.2 + (weakFifo half s).length * 2 ^ 16 + 2 ^ 31)
  | none => 0

/-- A control complex's read removes the head entry of the weak FIFO (R170). -/
def popWeak (mid : W16) (half : Half) (s : State) : State :=
  if isCC mid = true then
    modWs (fun w => if half = .north then { w with weakN := w.weakN.drop 1 } else { w with weakS := w.weakS.drop 1 }) s
  else s

/-- WEAK_HEAD_READ (R170): the word latched by the read of WEAK_HEAD_LO where there is one; a control complex's read
removes the head entry. -/
def execWeakHeadRead (mid : W16) (half : Half) (s : State) : Host.Outcome State Fault Refusal :=
  let a := regAddr (.wsc half) 0x114
  if served s (.wsc half) = false ∨ sees s mid (.wsc half) = false then .next (emit (.readData mid a 0) s)
  else
    let v := (sget none a s.latched).getD (weakHeadHi half s)
    .next (popWeak mid half (emit (.readData mid a v) { s with latched := sset none a none s.latched }))

/-! ## Programs (R173, R174) -/

/-- PROGRAM_CW_DONE (R173). -/
def execProgramCwDone (half : Half) (id : Nat) (loops : Nat) (s : State) : Host.Outcome State Fault Refusal :=
  match wsCmd half id s with
  | some c =>
    if c.op = 2 ∧ c.begun = true then
      let p : Page := .wsc half
      let s := if fget p Reg.WSC_WSC_CFG_LOOP_WARN s ≤ loops then raise p 12 s else s
      let s := fset p Reg.WSC_LOOP_MAX_PROG (max (min 31 loops) (fget p Reg.WSC_LOOP_MAX_PROG s)) s
      let c := { c with done := c.done + 1, begun := false, loops := max c.loops loops }
      let s := if c.count ≤ c.done then wsEnd c 0 s
        else if blk p s ≠ .on ∧ blk p s ≠ .starting then wsFail c 0x003C (setWsCmd c s)
        else setWsCmd c s
      .next (wsKick s)
    else .next s
  | none => .next s

/-- PROGRAM_LOOP_LIMIT (R174). -/
def execProgramLoopLimit (half : Half) (id : Nat) (s : State) : Host.Outcome State Fault Refusal :=
  match wsCmd half id s with
  | some c =>
    if c.op = 2 ∧ c.begun = true then
      let p : Page := .wsc half
      let b := blockOf (c.at c.done)
      let s := raise p 13 (satInc p Reg.WSC_FAIL_CNT_PROG 1 s)
      let s := if fget p Reg.WSC_WSC_CFG_LOOP_WARN s ≤ 25 then raise p 12 s else s
      let s := fset p Reg.WSC_LOOP_MAX_PROG (max 25 (fget p Reg.WSC_LOOP_MAX_PROG s)) s
      .next (wsKick (noteFailure b true (retireBlock b (wsFail { c with loops := 25 } 0x0034 s))))
    else .next s
  | none => .next s

/-! ## Erases (R175 to R179) -/

/-- The bytes of a log record (R178). -/
def logBytes (rseq : Nat) (done : Bool) (epoch : W32) (blocks : List Nat) : List Byte :=
  leBytes 8 rseq ++ [if done then 2 else 1, BitVec.ofNat 8 blocks.length, 0, 0] ++ leBytes 4 epoch.toNat ++
    (blocks.flatMap fun b => leBytes 2 (b % 2 ^ 14)) ++ List.replicate (16384 - 16 - 2 * blocks.length) 0

/-- Where record `n` of a die's intent log lies: the log's 8 blocks fill in order of RSEQ (R178). -/
def logCwa (d n : Nat) : Nat := d * 2 ^ 22 + (184 + n / 256 % 8) * 2 ^ 14 + 63 * 256 + n % 256

/-- Program a log record; the first record of a log block finds it erased. -/
def writeLog (d : Nat) (done : Bool) (epoch : W32) (blocks : List Nat) (s : State) : State :=
  let n := sget 0 d s.ws.rseq
  let s := if n % 256 = 0 then clearBlock (blockOf (logCwa d n)) s else s
  let s := setCw (logCwa d n) (some (logBytes n done epoch blocks)) s
  modWs (fun w => { w with rseq := sset 0 d (n + 1) w.rseq }) s

/-- INTENT_RECORD_PROGRAMMED (R178): up to 64 erases queued for the die are named, and erases start. -/
def execIntentRecordProgrammed (die : Fin 8) (s : State) : Host.Outcome State Fault Refusal :=
  let cs := (s.ws.cmds.filter fun c => decide (c.op = 3 ∧ c.erase = .waiting ∧ dieOf c.cwa = die.val)).take 64
  match cs with
  | [] => .next s
  | c :: _ =>
    let s := writeLog die.val false c.token (cs.map fun x => blockOf x.cwa) s
    .next (wsKick (cs.foldl (fun s x => setWsCmd { x with erase := .intended } s) s))

/-- ERASE_SUSPEND_HOLD_EXPIRE (R176). -/
def execEraseSuspendHoldExpire (half : Half) (id : Nat) (s : State) : Host.Outcome State Fault Refusal :=
  match wsCmd half id s with
  | some c =>
    if c.op = 3 ∧ c.erase = .held then
      .next (setWsCmd { c with erase := .suspended } (reach (c.since + ticks 300) s))
    else .next s
  | none => .next s

/-- ERASE_RESUME (R176). -/
def execEraseResume (half : Half) (id : Nat) (s : State) : Host.Outcome State Fault Refusal :=
  match wsCmd half id s with
  | some c =>
    if c.op = 3 ∧ c.erase = .suspended then .next (setWsCmd { c with erase := .running, since := s.timer } s) else .next s
  | none => .next s

/-- ERASE_BREAK (R177): the block is partially erased and waits at the head of the erase queue; no erase starts in its
plane for 10 ms. -/
def execEraseBreak (half : Half) (id : Nat) (s : State) : Host.Outcome State Fault Refusal :=
  match wsCmd half id s with
  | some c =>
    if c.op = 3 ∧ c.erase = .held then
      let b := blockOf c.cwa
      let s := satInc (.wsc half) Reg.WSC_ERASE_STAT_BREAKS 1 s
      let s := modWs (fun w => { w with
        partials := if w.partials.contains b then w.partials else w.partials ++ [b],
        noErase := (planeOf c.cwa, s.timer + ticks 10000) :: w.noErase.filter (fun e => decide (e.1 ≠ planeOf c.cwa)),
        cmds := { c with erase := .intended } :: w.cmds.filter (fun x => decide (x.id ≠ id)) }) s
      .next (wsKick (raise (.wsc half) 15 s))
    else .next s
  | none => .next s

/-- ERASE_VERIFY (R178): the block is clean, its done record is programmed, the command ends. -/
def execEraseVerify (half : Half) (id : Nat) (pulses : Nat) (s : State) : Host.Outcome State Fault Refusal :=
  match wsCmd half id s with
  | some c =>
    if c.op = 3 ∧ (c.erase = .running ∨ c.erase = .held) then
      let p : Page := .wsc half
      let b := blockOf c.cwa
      let s := modWs (fun w => { w with partials := w.partials.filter (fun x => decide (x ≠ b)) }) (clearBlock b s)
      let s := writeLog (dieOf c.cwa) true c.token [b] s
      let s := fset p Reg.WSC_LOOP_MAX_ERASE (max (min 31 pulses) (fget p Reg.WSC_LOOP_MAX_ERASE s)) s
      .next (wsKick (wsEnd { c with done := 1, loops := pulses } 0 s))
    else .next s
  | none => .next s

/-- ERASE_PROGRESS_LIMIT (R175): WS_ERASE_FAIL, the block retired as under R174. -/
def execEraseProgressLimit (half : Half) (id : Nat) (s : State) : Host.Outcome State Fault Refusal :=
  match wsCmd half id s with
  | some c =>
    if c.op = 3 ∧ (c.erase = .running ∨ c.erase = .held) then
      let p : Page := .wsc half
      let s := raise p 13 (satInc p Reg.WSC_FAIL_CNT_ERASE 1 s)
      .next (wsKick (retireBlock (blockOf c.cwa) (wsFail { c with loops := 12 } 0x0035 s)))
    else .next s
  | none => .next s

/-- The records of a die's intent log in order of RSEQ: is it a done record, its blocks. -/
def logRecords (d : Nat) (s : State) : List (Bool × List Nat) :=
  let n := sget 0 d s.ws.rseq
  ((List.range 2048).map fun i => n + i).filterMap fun i =>
    if i < 2048 then none
    else match cwBytes (logCwa d (i - 2048)) s with
      | none => none
      | some b =>
        let kind := (nth 0 b 8).toNat
        let blocks := (List.range (nth 0 b 9).toNat).map fun j =>
          d * 2 ^ 14 + leNat ((b.drop (16 + 2 * j)).take 2) % 2 ^ 14
        if leNat (b.take 8) = i - 2048 ∧ (kind = 1 ∨ kind = 2) then some (decide (kind = 2), blocks) else none

/-- Blocks whose intent has no later done record (R179). -/
def scanLog (recs : List (Bool × List Nat)) : List Nat :=
  recs.foldl (fun open' r => if r.1 then open'.filter (fun b => !r.2.contains b) else open' ++ r.2.filter (fun b => !open'.contains b)) []

/-- A scan of the intent logs of a half (R179): blocks whose intent has no later done record, and no erase running, are
partially erased. -/
def intentScan (half : Half) (s : State) : State :=
  let found := (List.range 4).flatMap fun i => scanLog (logRecords (4 * Half.num half + i) s)
  let live := fun (b : Nat) => s.ws.cmds.any fun c => decide (c.op = 3 ∧ blockOf c.cwa = b)
  let new := found.filter fun b => !s.ws.partials.contains b && !live b
  let s := modWs (fun w => { w with partials := w.partials ++ new }) s
  let s := fset (.wsc half) Reg.WSC_WSC_STAT_SCAN_DONE 1 s
  if new.isEmpty then s else raise (.wsc half) 15 s

/-- INTENT_SCAN (R179). -/
def execIntentScan (half : Half) (s : State) : Host.Outcome State Fault Refusal := .next (intentScan half s)

/-! ## Fences of planes, and LOOP_MAX (R187, R193, R194) -/

/-- PLANE_FENCE_REQ (R187). -/
def execPlaneFenceReq (w : Wr) (die : Fin 8) (data : W32) (s : State) : Host.Outcome State Fault Refusal :=
  .next (guarded w (.die die) 0x104 (fun s =>
    let plane := bitsOf data.toNat 0 8
    let s := fset (.die die) Reg.DIE_PLANE_FENCE_REQ_PLANE plane s
    if bitsOf data.toNat 31 1 = 1 ∧ plane < 192 then wsKick (fencePlane (die.val * 256 + plane) s) else s) s)

/-- LOOP_MAX_CLR (R193). -/
def execLoopMaxClr (w : Wr) (half : Half) (s : State) : Host.Outcome State Fault Refusal :=
  .next (guarded w (.wsc half) 0x140 (fun s =>
    fset (.wsc half) Reg.WSC_LOOP_MAX_ERASE 0 (fset (.wsc half) Reg.WSC_LOOP_MAX_PROG 0 s)) s)

/-! ## The identity row (R181 to R183) -/

/-- The kinds of identity field (R181). -/
inductive IdKind where
  | value | bit | reserved
  deriving DecidableEq, Repr

/-- The kind of a field. -/
def idKind (f : Nat) : IdKind :=
  if f ≤ 2 ∨ (8 ≤ f ∧ f ≤ 15) then .value
  else if f = 3 ∨ f = 4 ∨ (16 ≤ f ∧ f ≤ 25) ∨ (32 ≤ f ∧ f ≤ 34) then .bit
  else .reserved

/-- CWA of an identity field. -/
def idCwa (f : Nat) : Nat := 63 * 256 + f

/-- The field's code word is written. -/
def idWritten (f : Nat) (s : State) : Bool := decide (cwBytes (idCwa f) s ≠ none)

/-- The 8,192 bytes of a valid value field: written with two copies that agree (R183). -/
def idValue (f : Nat) (s : State) : Option (List Byte) :=
  match cwBytes (idCwa f) s with
  | some b => if b.take 8192 = b.drop 8192 then some (b.take 8192) else none
  | none => none

/-- A bit of a register. -/
def bit (b : Bool) (i : Nat) : Nat := if b then 2 ^ i else 0

/-- Load ID_STATE, SERIAL, RING_SEED and PART from the row (R183); invalid written fields raise ID_FIELD_BAD. -/
def loadIdentity (s : State) : State :=
  let p : Page := .wsc .north
  let dev := (idValue 0 s).getD []
  let w := fun i => leNat ((dev.drop i).take 4)
  let keys := (List.range 8).foldl (fun a i => a + bit (idValue (8 + i) s).isSome i) 0
  let revs := (List.range 8).foldl (fun a i => a + bit (idWritten (16 + i) s) i) 0
  let pol := (List.range 3).foldl (fun a i => a + bit (idWritten (32 + i) s) i) 0
  let dbg := bit (idWritten 25 s) 0
  let s := s |> fset p Reg.WSC_ID_STATE_LOCK (bit (idWritten 24 s) 0) |> fset p Reg.WSC_ID_STATE_DEBUG_LOCK dbg
    |> fset .dbg Reg.DBG_DBG_STAT_DEBUG_LOCK dbg
    |> fset p Reg.WSC_ID_STATE_KEY_VALID keys |> fset p Reg.WSC_ID_STATE_REVOKED revs
    |> fset p Reg.WSC_ID_STATE_FW_KEY_VALID (bit (idValue 1 s).isSome 0 + bit (idValue 2 s).isSome 1)
    |> fset p Reg.WSC_ID_STATE_FW_REVOKED (bit (idWritten 3 s) 0 + bit (idWritten 4 s) 1)
    |> fset p Reg.WSC_ID_STATE_POLICY pol
    |> fsetI p Reg.WSC_SERIAL_SERIAL 0 (w 0) |> fsetI p Reg.WSC_SERIAL_SERIAL 1 (w 4)
    |> fsetI p Reg.WSC_SERIAL_SERIAL 2 (w 8) |> fsetI p Reg.WSC_SERIAL_SERIAL 3 (w 12)
    |> fset p Reg.WSC_RING_SEED_LO_SEED (w 20) |> fset p Reg.WSC_RING_SEED_HI_SEED (w 24)
    |> fset p Reg.WSC_PART_CODE (leNat ((dev.drop 16).take 2)) |> fset p Reg.WSC_PART_CLASS (leNat ((dev.drop 18).take 1))
  if (List.range 16).any (fun f => decide (idKind f = .value) && idWritten f s && (idValue f s).isNone) then raise p 17 s else s

/-- ID_STAT. -/
def setIdStat (state reason : Nat) (s : State) : State :=
  fset (.wsc .north) Reg.WSC_ID_STAT_REASON reason (fset (.wsc .north) Reg.WSC_ID_STAT_STATE state s)

/-- The behaviour all ID_CMD writes share: the gate of R182, the fields stored; nothing happens while a program runs. -/
def idCommand (w : Wr) (op field : Nat) (effect : State → State) (s : State) : State :=
  guarded w (.wsc .north) 0x200 (fun s =>
    let s := fset (.wsc .north) Reg.WSC_ID_CMD_OP op (fset (.wsc .north) Reg.WSC_ID_CMD_FIELD field s)
    if s.ws.idBusy ≠ none then s else effect s) s

/-- ID_READ (R182): a valid value field into ID_DATA, a bit field by its written flags. -/
def execIdRead (w : Wr) (field : BitVec 6) (s : State) : Host.Outcome State Fault Refusal :=
  let f := field.toNat
  .next (idCommand w 0 f (fun s =>
    let fill := fun (b : List Byte) (s : State) => (List.range 12).foldl (fun s i =>
      fsetI (.wsc .north) Reg.WSC_ID_DATA_DATA i (leNat ((b.drop (4 * i)).take 4)) s) s
    raise (.wsc .north) 18 (match idKind f with
      | .reserved => setIdStat 3 1 s
      | .bit => setIdStat 2 0 (fill [if idWritten f s then 1 else 0] s)
      | .value => match idValue f s with
        | some b => setIdStat 2 0 (fill b s)
        | none => setIdStat 4 0 (fill [] s))) s)

/-- Why a field is not programmed (R182), 0 for none. -/
def idRefusal (mid : W16) (f : Nat) (s : State) : Nat :=
  let valid := fun k => (idValue (1 + k) s).isSome && !idWritten (3 + k) s
  if idKind f = .reserved then 1
  else if f ≤ 2 ∧ ¬(fget .sec Reg.SEC_BOOT_STAT_MODE s = 2 ∧ (midClass mid = 7 ∨ midClass mid = 6) ∧ debugLock s = false) then 6
  else if ((8 ≤ f ∧ f ≤ 15) ∨ f = 32) ∧ idWritten 24 s = true then 2
  else if (f = 3 ∨ f = 4) ∧ valid (4 - f) = false then 3
  else if idWritten f s = true then 4
  else if fenced (.wsc .north) s = true then 7
  else 0

/-- ID_DATA as 48 bytes. -/
def idData (s : State) : List Byte :=
  (List.range 12).flatMap fun i => leBytes 4 (fgetI (.wsc .north) Reg.WSC_ID_DATA_DATA i s)

/-- Start programming a field, or refuse (R182). -/
def idProgram (mid : W16) (f : Nat) (data : List Byte) (s : State) : State :=
  let r := idRefusal mid f s
  if r ≠ 0 then raise (.wsc .north) 18 (setIdStat 3 r s)
  else setIdStat 1 0 (modWs (fun x => { x with idBusy := some (f, data) }) s)

/-- ID_PROGRAM_FIELD (R182). -/
def execIdProgramField (w : Wr) (field : BitVec 6) (s : State) : Host.Outcome State Fault Refusal :=
  .next (idCommand w 1 field.toNat (fun s => idProgram w.mid field.toNat (idData s) s) s)

/-- ID_CMD_INVALID_OP (R182). -/
def execIdCmdInvalidOp (w : Wr) (data : W32) (s : State) : Host.Outcome State Fault Refusal :=
  .next (idCommand w (bitsOf data.toNat 6 2) (bitsOf data.toNat 0 6) (fun s =>
    if bitsOf data.toNat 31 1 = 1 ∧ 2 ≤ bitsOf data.toNat 6 2 then raise (.wsc .north) 18 (setIdStat 4 0 s) else s) s)

/-- A value field's code word: the value at byte 0 and a copy at byte 8,192 (R181). -/
def idWord (data : List Byte) : List Byte :=
  let half := data.take 48 ++ List.replicate (8192 - min 48 data.length) 0
  half ++ half

end Sys2Proof.Machine
end

