-- ==== Sys2Proof/Machine/Range.lean ====
section
/-! DEFINITION. The device range (chapter 10): range commands of the two migration engines, the home table, moves. -/

namespace Sys2Proof.Machine

/-! ## Paths and status entries (R265, R330) -/

/-- The key of a path: engine 0 or 1, or 2 + channel. -/
def pathKey : Path → Nat
  | .mig h => Half.num h
  | .chan c => 2 + c.val

/-- The page that carries a path. -/
def pathPage : Path → Page
  | .mig h => .mig h
  | .chan c => .chan c

/-- Replace the range. -/
def modRange (f : Range → Range) (s : State) : State := { s with range := f s.range }

/-- Status entries waiting at a path. -/
def rangeSts (p : Path) (s : State) : List Sts := sget [] (pathKey p) s.range.sts

/-- The words of a home-table entry (R259). -/
def homeWords (h : Home) : W64 × W64 :=
  let st := match h.st with
    | .free => 0
    | .homed => 1
    | .moving => 2
    | .committing => 3
  (BitVec.ofNat 64 (st + h.tier * 2 ^ 3 + h.cls * 2 ^ 5 + bit h.pin 7 + h.version * 2 ^ 8 + h.ownerKind * 2 ^ 20 +
    bit h.taskWr 22 + h.owner * 2 ^ 32 + h.port * 2 ^ 48), BitVec.ofNat 64 h.loc)

/-! ## Fields of a range command (R263) -/

/-- OP. -/
def rOp (q : Cmd4) : Nat := bitsOf q.q0.toNat 0 4
/-- CLASS. -/
def rClass (q : Cmd4) : Nat := bitsOf q.q0.toNat 4 2
/-- TIER. -/
def rTier (q : Cmd4) : Nat := bitsOf q.q0.toNat 6 2
/-- PIN. -/
def rPin (q : Cmd4) : Bool := decide (bitsOf q.q0.toNat 8 1 = 1)
/-- IF_HOME. -/
def rIfHome (q : Cmd4) : Bool := decide (bitsOf q.q0.toNat 9 1 = 1)
/-- COUNT. -/
def rCount (q : Cmd4) : Nat := bitsOf q.q0.toNat 10 9
/-- ADDR. -/
def rAddr (q : Cmd4) : Nat := bitsOf q.q1.toNat 0 48
/-- The 64-bit host address of a T2 command. -/
def rHost (q : Cmd4) : Nat := q.q1.toNat
/-- QUARTET. -/
def rQuartet (q : Cmd4) : Nat := bitsOf q.q2.toNat 0 8
/-- ANY. -/
def rAny (q : Cmd4) : Bool := decide (bitsOf q.q2.toNat 8 1 = 1)
/-- HALF. -/
def rHalf (q : Cmd4) : Half := halfOf (bitsOf q.q2.toNat 9 1)
/-- FRAMES. -/
def rFrames (q : Cmd4) : Nat := bitsOf q.q2.toNat 10 3
/-- NEW_OWNER. -/
def rNewOwner (q : Cmd4) : Nat := bitsOf q.q2.toNat 32 16
/-- NEW_KIND. -/
def rNewKind (q : Cmd4) : Nat := bitsOf q.q2.toNat 48 2

/-- Logical tiles of the bin (R4, R15). -/
def activeTiles (s : State) : Nat := sizeEntry s 1024 768 512

/-- What ends a command RANGE_CMD_INVALID (R265). -/
def rangeInvalid (q : Cmd4) (s : State) : Bool :=
  let op := rOp q
  decide (7 < op) || decide (rCount q = 0 ∨ 256 < rCount q) ||
    decide (bitsOf q.q0.toNat 19 13 ≠ 0 ∨ bitsOf q.q2.toNat 13 19 ≠ 0 ∨ bitsOf q.q2.toNat 50 14 ≠ 0 ∨ q.q3 ≠ 0) ||
    decide (op ≠ 5 ∧ op ≠ 6 ∧ q.q1.toNat / 2 ^ 48 ≠ 0) ||
    decide (op = 0 ∧ rClass q = 3) || decide ((op = 0 ∨ op = 2) ∧ rTier q = 3) ||
    decide (op ≠ 7 ∧ q.q1.toNat % 65536 ≠ 0) ||
    decide (op = 7 ∧ (4 < rFrames q ∨ activeTiles s ≤ rAddr q))

/-! ## Units of the tiers (R256 to R258, R279, R281) -/

/-- T0 frames in use: logical tile and frame, of homes and of destinations of moves. -/
def t0Used (s : State) : List (Nat × Nat) :=
  let of' := fun (loc : Nat) => (List.range 4).map fun q => (4 * (loc % 256) + q, bitsOf loc (8 + 2 * q) 2)
  ((s.range.homes.filter fun h => decide (h.2.st ≠ .free ∧ h.2.tier = 0)).flatMap fun h => of' h.2.loc) ++
    ((s.range.moves.filter fun m => decide (m.tier = 0)).flatMap fun m => of' m.loc)

/-- Free T0 frames of a logical tile, in ascending order: none in a fenced tile or half. -/
def t0Free (l : Nat) (s : State) : List Nat :=
  match serving l s with
  | none => []
  | some p =>
    if fenced (tilePage p) s = true ∨ fenced (.cc (tileHalf p)) s = true then []
    else (List.range 4).filter fun f => decide ((tileOf p s).tblFrames ≤ f ∧ (l, f) ∉ t0Used s)

/-- Location of a T0 page in a quartet (R259): the lowest free frame of each of its tiles. -/
def t0Take (q : Nat) (s : State) : Option Nat :=
  match t0Free (4 * q) s, t0Free (4 * q + 1) s, t0Free (4 * q + 2) s, t0Free (4 * q + 3) s with
  | a :: _, b :: _, c :: _, d :: _ => some (q + (a + 4 * b + 16 * c + 64 * d) * 256)
  | _, _, _, _ => none

/-- The quartet with most free frames among those that can hold a page; the lowest on a tie. -/
def t0Any (s : State) : Option Nat :=
  let free := fun (q : Nat) => (t0Free (4 * q) s).length + (t0Free (4 * q + 1) s).length + (t0Free (4 * q + 2) s).length +
    (t0Free (4 * q + 3) s).length
  ((List.range (activeTiles s / 4)).foldl (fun (b : Option Nat × Nat) q =>
    let n := free q
    if b.2 < n ∧ (t0Take q s).isSome then (some q, n) else b) (none, 0)).1.bind fun q => t0Take q s

/-- Board memory of a half in MiB, as training found it. -/
def halfMib (h : Half) (s : State) : Nat :=
  (List.range 8).foldl (fun n c => n + fget (.bm (Fin.ofNat 16 (Half.num h * 8 + c))) Reg.BM_BM_SIZE_MIB s) 0

/-- T1 slots of a half with every channel in service (R279). -/
def t1Total (h : Half) (s : State) : Nat := (halfMib h s - fget (.mig h) Reg.MIG_T1_RSV_MIB s) * 1024 / 72

/-- A channel of a half serves its slots: ON and not fenced, in a half that is not fenced (R281). -/
def slotServed (h : Half) (slot : Nat) (s : State) : Bool :=
  let p : Page := .bm (Fin.ofNat 16 (slotChannel h slot))
  isOn p s && !fenced p s && !fenced (.cc h) s

/-- T1_SLOTS (R279). -/
def t1Slots (h : Half) (s : State) : Nat :=
  (List.range 8).foldl (fun n c => if slotServed h c s then n + (t1Total h s + 7 - c) / 8 else n) 0

/-- T1 slots of the landing areas of image versions (R238). -/
def imageSlots (s : State) : List Nat := s.versions.flatMap fun v => v.slots

/-- Slots in use, slot + half × 2^21: homes, destinations of moves, landed images (R237). -/
def t1Used (s : State) : List Nat :=
  ((s.range.homes.filter fun h => decide (h.2.st ≠ .free ∧ h.2.tier = 1)).map fun h => h.2.loc) ++
    ((s.range.moves.filter fun m => decide (m.tier = 1)).map fun m => m.loc) ++ imageSlots s

/-- T1_FREE (R279). -/
def t1Free (h : Half) (s : State) : Nat :=
  t1Slots h s - ((t1Used s).filter fun l => decide (l / 2 ^ 21 = Half.num h) && slotServed h (l % 2 ^ 21) s).length

/-- The lowest free slot at or after a number. -/
def t1Search : Nat → Half → List Nat → Nat → State → Option Nat
  | 0, _, _, _, _ => none
  | n + 1, h, used, slot, s =>
    if t1Total h s ≤ slot then none
    else if slotServed h slot s = true ∧ ¬ used.contains (slot + Half.num h * 2 ^ 21) then some (slot + Half.num h * 2 ^ 21)
    else t1Search n h used (slot + 1) s

/-- A free slot of a half. -/
def t1Take (h : Half) (s : State) : Option Nat :=
  let used := t1Used s
  if (List.range 8).any (fun c => slotServed h c s) then t1Search (8 * used.length + 16) h used 0 s else none

/-- A free slot of the half with most free slots; of the other while it has none. -/
def t1Any (s : State) : Option Nat :=
  let first : Half := if t1Free .north s < t1Free .south s then .south else .north
  match t1Take first s with
  | some l => some l
  | none => t1Take (Half.other first) s

/-- The function that owns a handle (IMG_STAT.OWNER). -/
def handleOwner (h : Nat) (s : State) : Option W16 :=
  ((s.handles.filter fun x => decide (x.index = h)).map fun x => x.owner)[0]?

/-- The pool a page takes its T2 frame from (R258). -/
def poolOf (h : Home) (s : State) : Option W16 :=
  if h.ownerKind = 1 then some (BitVec.ofNat 16 h.owner)
  else if h.ownerKind = 2 then (if chanValid h.owner s then some (chanMid h.owner s) else none)
  else if h.ownerKind = 3 then handleOwner h.owner s
  else none

/-- A registered frame homes a page or is the destination of a move. -/
def t2InUse (f : T2Frame) (s : State) : Bool :=
  (s.range.homes.any fun h => decide (h.2.st ≠ .free ∧ h.2.tier = 2 ∧ h.2.loc = f.frame ∧ h.2.port = f.port)) ||
    s.range.moves.any fun m => decide (m.tier = 2 ∧ m.loc = f.frame ∧ m.port = f.port)

/-- A free frame of a pool. -/
def t2Take (pool : Option W16) (s : State) : Option T2Frame :=
  pool.bind fun m => (s.range.t2.filter fun f => decide (f.fn = m) && !t2InUse f s)[0]?

/-- The command names a fenced or absent quartet or half (R32). -/
def namedDead (q : Cmd4) (s : State) : Bool :=
  if rAny q = true ∨ rTier q = 2 then false
  else if rTier q = 1 then !usable (.cc (rHalf q)) s
  else (List.range 4).any fun i => match serving (4 * rQuartet q + i) s with
    | none => true
    | some p => fenced (tilePage p) s || fenced (.cc (tileHalf p)) s

/-- Units for a page in the target of a command: location and port, none when the tier has no free unit. -/
def takeUnits (q : Cmd4) (tier : Nat) (any : Bool) (h : Home) (s : State) : Option (Nat × Nat) :=
  if tier = 0 then (if any then t0Any s else t0Take (rQuartet q) s).map fun l => (l, 0)
  else if tier = 1 then (if any then t1Any s else t1Take (rHalf q) s).map fun l => (l, 0)
  else (t2Take (poolOf h s) s).map fun f => (f.frame, f.port)

/-! ## Status entries -/

/-- A range command by its name. -/
def rangeCmd (id : Nat) (s : State) : Option RCmd := (s.range.cmds.filter fun c => decide (c.id = id))[0]?

/-- Replace a range command. -/
def setRangeCmd (c : RCmd) (s : State) : State :=
  modRange (fun r => { r with cmds := r.cmds.map fun x => if x.id = c.id then c else x }) s

/-- The status entry of a range command (R265). -/
def rangeEntry (c : RCmd) (status : W16) : Sts :=
  { q0 := BitVec.ofNat 64 (c.cmd.q0.toNat / 2 ^ 32 + status.toNat * 2 ^ 32),
    q1 := BitVec.ofNat 64 (c.done + bit c.superseded 9 + bit c.poisonSeen 10), q2 := c.last.1, q3 := c.last.2 }

/-- A range command ends (R265, R278, R329). -/
def rangeEnd (c : RCmd) (status : W16) (s : State) : State :=
  let s := modRange (fun r => { r with
    cmds := r.cmds.filter (fun x => decide (x.id ≠ c.id)),
    sts := sset [] (pathKey c.path) (sget [] (pathKey c.path) r.sts ++ [rangeEntry c status]) r.sts }) s
  let s := if status = 0x0065 then raise (.mig c.engine) 12 s else s
  match c.path with
  | .mig h => raise (.mig h) 8 s
  | .chan n => raise (.chan n) 15 s

/-- A command denied on a page raises DENIED at its keeper (R278). -/
def deniedCommand (page : Nat) (s : State) : State := raise (.mig (keeper page s)) 13 s

/-! ## Who may (R262, R264) -/

/-- The region is selected by a function (R254). -/
def functionRegion (r : Nat) (s : State) : Bool :=
  (List.range 32).any fun i =>
    let p : Page := .hp (Fin.ofNat 2 (i / 16))
    present s p && decide (fgetI p Reg.HP_BAR2_BASE_REGION (i % 16) s = r)

/-- ALLOC needs a region of the caller, or a device region for a control complex (R264). -/
def mayAlloc (mid : W16) (page : Nat) (s : State) : Bool :=
  if isCC mid then !functionRegion (page / 2 ^ 20) s
  else isLocal s mid && decide (midPort mid < 2) &&
    decide (fgetI (.hp (Fin.ofNat 2 (midPort mid))) Reg.HP_BAR2_BASE_REGION (midFunc mid) s = page / 2 ^ 20)

/-- The caller is the owner, a function of a channel owner, or a control complex (R264). -/
def commandsPage (mid : W16) (h : Home) (s : State) : Bool :=
  isCC mid || decide (h.ownerKind = 1 ∧ h.owner = mid.toNat) ||
    (decide (h.ownerKind = 2) && chanValid h.owner s && decide (chanMid h.owner s = mid))

/-- The transitions of R262. Pages of the device and of handles are the leader's to give (R261). -/
def mayGive (h : Home) (kind owner : Nat) (s : State) : Bool :=
  let chanOf := fun (f : Nat) => decide (kind = 2 ∧ owner < 512) && chanValid owner s && decide ((chanMid owner s).toNat = f)
  if kind = 0 then true
  else if h.ownerKind = 1 then chanOf h.owner || decide (kind = 1 ∧ owner = h.owner)
  else if h.ownerKind = 2 then decide (kind = 1 ∧ owner = (chanMid h.owner s).toNat) && chanValid h.owner s
  else if h.ownerKind = 3 then decide (kind = 1) && decide (handleOwner h.owner s = some (BitVec.ofNat 16 owner))
  else decide (kind = 1 ∨ (kind = 2 ∧ owner < 512) ∨ (kind = 3 ∧ owner < 1024))

/-! ## One page of a command -/

/-- How a page of a command comes out. -/
inductive PageEnd where
  | done
  | fail (status : W16)
  | wait

/-- Drop what the translators hold of a page (R266). -/
def dropCached (page : Nat) (r : Range) : Range := { r with cached := r.cached.filter fun c => decide (c.1 % 2 ^ 32 ≠ page) }

/-- Clear the flags and marks of a page (R273, R276). -/
def clearFlags (page : Nat) (s : State) : State :=
  modRange (fun r => { r with mem := sclear (page * 65536) (page * 65536 + 65536) r.mem,
                              written := sclear (page * 1024) (page * 1024 + 1024) r.written,
                              poison := sclear (page * 1024) (page * 1024 + 1024) r.poison }) s

/-- ALLOC of one page (R255, R264, R273). -/
def allocPage (c : RCmd) (page : Nat) (s : State) : PageEnd × State :=
  let h := homeOf page s
  if mayAlloc c.mid page s = false then (.fail 0x0064, deniedCommand page s)
  else if h.st ≠ .free then (.fail 0x0066, s)
  else if namedDead c.cmd s = true then (.fail 0x0011, s)
  else
    let kind := match c.path with
      | .mig _ => 0
      | .chan _ => 2
    let owner := match c.path with
      | .mig _ => 0
      | .chan n => n.val
    let new : Home := { st := .homed, tier := rTier c.cmd, cls := rClass c.cmd, pin := rPin c.cmd, version := h.version,
                        ownerKind := kind, taskWr := false, owner := owner, port := 0, loc := 0 }
    match takeUnits c.cmd (rTier c.cmd) (rAny c.cmd) new s with
    | none => (.fail 0x0065, s)
    | some u => (.done, setHome page { new with loc := u.1, port := u.2 } (clearFlags page s))

/-- FREE of one page (R255, R269): committed like a move, so that it waits while another move commits. The version
rises and stays with the free entry. -/
def freePage (page : Nat) (s : State) : PageEnd × State :=
  let h := homeOf page s
  if h.st = .committing then (.wait, s)
  else (.done, modRange (dropCached page) (setHome page { version := (h.version + 1) % 4096 } (clearFlags page s)))

/-- The page is where the command wants it (R267, R270). -/
def atTarget (q : Cmd4) (tier : Nat) (any : Bool) (h : Home) : Bool :=
  decide (h.tier = tier) && (any || decide (tier = 2) ||
    (if tier = 0 then decide (h.loc % 256 = rQuartet q) else decide (h.loc / 2 ^ 21 = Half.num (rHalf q))))

/-- Start a move of a page (R266 step 1): 64 run at a time on one engine (R279). -/
def startMove (c : RCmd) (page tier : Nat) (any pin : Bool) (s : State) : PageEnd × State :=
  let h := homeOf page s
  if h.st = .committing ∨ 64 ≤ (s.range.moves.filter fun m => decide (m.engine = c.engine)).length then (.wait, s)
  else match takeUnits c.cmd tier any h s with
  | none => (.fail 0x0065, s)
  | some u =>
    let m : Move := { id := s.range.ids, cmd := c.id, engine := c.engine, page := page, version := h.version, tier := tier,
                      loc := u.1, port := u.2, pin := pin, phase := .copying, rounds := 0, dirty := [] }
    (.wait, setHome page { h with st := .moving }
      (modRange (fun r => { r with moves := r.moves ++ [m], ids := r.ids + 1 }) s))

/-- MOVE of one page: at its target already, it ends with no copy (R267). -/
def movePage (c : RCmd) (page : Nat) (s : State) : PageEnd × State :=
  let h := homeOf page s
  if atTarget c.cmd (rTier c.cmd) (rAny c.cmd) h = true ∧ h.st ≠ .committing then
    (.done, setHome page { h with pin := rPin c.cmd } s)
  else if namedDead c.cmd s = true then (.fail 0x0011, s)
  else startMove c page (rTier c.cmd) (rAny c.cmd) (rPin c.cmd) s

/-- GIVE of one page (R262). -/
def givePage (c : RCmd) (page : Nat) (s : State) : PageEnd × State :=
  let h := homeOf page s
  let kind := rNewKind c.cmd
  if mayGive h kind (rNewOwner c.cmd) s = false then (.fail 0x0064, deniedCommand page s)
  else (.done, setHome page { h with ownerKind := kind, owner := if kind = 0 then 0 else rNewOwner c.cmd,
                                     taskWr := h.taskWr && decide (kind = 3) } s)

/-- One frame of T2_REGISTER or T2_RELEASE (R258). -/
def t2Frame (c : RCmd) (s : State) : PageEnd × State :=
  let f : T2Frame := { fn := c.mid, port := midPort c.mid, frame := rHost c.cmd / 65536 + c.done }
  if rOp c.cmd = 5 then
    if 1048576 ≤ s.range.t2.length ∨ 262144 ≤ (s.range.t2.filter fun x => decide (x.fn = c.mid)).length then (.fail 0x0065, s)
    else if s.range.t2.contains f then (.fail 0x0066, s)
    else (.done, modRange (fun r => { r with t2 := r.t2 ++ [f] }) s)
  else if s.range.t2.contains f = true ∧ t2InUse f s = false then
    (.done, modRange (fun r => { r with t2 := r.t2.erase f }) s)
  else (.fail 0x0066, s)

/-- Pages with a quarter in frames of a logical tile below a number. -/
def tableVictims (l frames : Nat) (s : State) : List Nat :=
  (s.range.homes.filter fun h => decide (h.2.st ≠ .free ∧ h.2.tier = 0 ∧ h.2.loc % 256 = l / 4 ∧
    bitsOf h.2.loc (8 + 2 * (l % 4)) 2 < frames)).map fun h => h.1

/-- SET_TABLE_FRAMES (R257): pages with quarters in the new table frames move out first, to T1. -/
def tableFrames (c : RCmd) (s : State) : PageEnd × State :=
  let l := rAddr c.cmd % 1024
  match (tableVictims l (rFrames c.cmd) s)[0]? with
  | some page => startMove c page 1 true (homeOf page s).pin s
  | none => match serving l s with
    | none => (.fail 0x0011, s)
    | some p => (.done, modTile p (fun t => { t with tblFrames := rFrames c.cmd }) s)

/-- The next page or frame of a command, admitted under R264. -/
def rangePage (c : RCmd) (s : State) : PageEnd × State :=
  let op := rOp c.cmd
  let page := rAddr c.cmd / 65536 + c.done
  let h := homeOf page s
  if op = 5 ∨ op = 6 then
    if midClass c.mid = 0 ∧ isLocal s c.mid = true ∧ midPort c.mid < 2 then t2Frame c s else (.fail 0x0064, s)
  else if op = 7 then (if isCC c.mid then tableFrames c s else (.fail 0x0064, s))
  else if op = 0 then allocPage c page s
  else if h.st = .free then (.fail 0x0066, s)
  else if commandsPage c.mid h s = false then (.fail 0x0064, deniedCommand page s)
  else if op = 1 then freePage page s
  else if op = 2 then movePage c page s
  else if op = 3 then givePage c page s
  else (.done, s)

/-- Pages or frames a command names; SET_TABLE_FRAMES names one tile. -/
def rangeTotal (q : Cmd4) : Nat := if rOp q = 7 then 1 else rCount q

/-- A page of a command is done (R263). QUERY keeps the entry of the last page. -/
def pageDone (c : RCmd) (s : State) : State :=
  let c := { c with done := c.done + 1, lostOnce := false,
                    last := if rOp c.cmd = 4 then homeWords (homeOf (rAddr c.cmd / 65536 + c.done) s) else c.last }
  setRangeCmd c s

/-- Run a command, page by page, until it ends or waits for a move. -/
def runRange : Nat → Nat → State → State
  | 0, _, s => s
  | n + 1, id, s => match rangeCmd id s with
    | none => s
    | some c =>
      if rangeTotal c.cmd ≤ c.done then rangeEnd c 0 s
      else if isOn (.mig c.engine) s = false then rangeEnd c 0x006A s
      else match rangePage c s with
        | (.done, s') => runRange n id (pageDone c s')
        | (.fail st, s') => rangeEnd c st s'
        | (.wait, s') => s'

/-- Fuel that takes a command to its end. -/
def rangeFuel : Nat := 260

/-- Commands whose engine is ON and that have no move under way go on, in the order posted. -/
def kickRange (s : State) : State :=
  (s.range.cmds.map fun c => c.id).foldl (fun s id => match rangeCmd id s with
    | none => s
    | some c =>
      if isOn (.mig c.engine) s = true ∧ ¬ s.range.moves.any (fun m => decide (m.cmd = id)) then runRange rangeFuel id s else s) s

/-! ## Posting (R263 to R265, R280, R330) -/

/-- The engine that carries out a command (R280, R330). -/
def engineOf (path : Path) (named : Half) (s : State) : Half :=
  match path with
  | .mig h => h
  | .chan _ => if isOn (.mig named) s = true ∧ fenced (.mig named) s = false then named
               else if isOn (.mig (Half.other named)) s = true ∧ fenced (.mig (Half.other named)) s = false
               then Half.other named else named

/-- Entries of a path's queue: 256 of an engine page, 16 of a channel page. -/
def pathDepth : Path → Nat
  | .mig _ => 256
  | .chan _ => 16

/-- A posted range command ends at once when invalid, at a fenced engine or at a stopped one, waits at a starting one,
else runs. -/
def queueRange (mid : W16) (path : Path) (cmd : Cmd4) (s : State) : State :=
  let e := engineOf path (keeper (rAddr cmd / 65536) s) s
  let c : RCmd := { id := s.range.ids, engine := e, path := path, cmd := cmd, mid := mid }
  let s := modRange (fun r => { r with cmds := r.cmds ++ [c], ids := r.ids + 1 }) s
  if rangeInvalid cmd s = true then rangeEnd c 0x0069 s
  else if fenced (.mig e) s = true then rangeEnd c 0x0011 s
  else match blk (.mig e) s with
    | .on => runRange rangeFuel c.id s
    | .starting => s
    | _ => rangeEnd c 0x006A s

/-- The queue of a path is full. -/
def rangeFull (path : Path) (s : State) : Bool :=
  decide (pathDepth path ≤ (s.range.cmds.filter fun c => decide (c.path = path)).length)

/-- A range command is posted through an engine page or a channel page: refused at a full queue, else queued. -/
def postRange (mid : W16) (token : W32) (path : Path) (cmd : Cmd4) (s : State) : State :=
  match path with
  | .mig h => guarded ⟨mid, token⟩ (.mig h) 0x19C (fun s =>
      let s := storeCmd (.mig h) 0x180 cmd s
      if rangeFull (.mig h) s = true then raise (.mig h) 5 s else queueRange mid (.mig h) cmd s) s
  | .chan c => guarded ⟨mid, token⟩ (.chan c) 0x21C (fun s =>
      let s := storeCmd (.chan c) 0x200 cmd s
      if rangeFull (.chan c) s = true then raise (.chan c) 5 s else queueRange mid (.chan c) cmd s) s

/-- A command whose row names its OP. -/
def rangeRow (op : Nat) (mid : W16) (token : W32) (path : Path) (cmd : Cmd4) (s : State) : State :=
  if rOp cmd = op ∨ (7 < rOp cmd ∧ op = 0) then postRange mid token path cmd s else s

/-- ALLOC (R264). An invalid OP, which no row of its own has, ends RANGE_CMD_INVALID here. -/
def execAlloc (mid : W16) (token : W32) (path : Path) (cmd : Cmd4) (s : State) : Host.Outcome State Fault Refusal :=
  .next (rangeRow 0 mid token path cmd s)

/-- FREE (R255, R269). -/
def execFree (mid : W16) (token : W32) (path : Path) (cmd : Cmd4) (s : State) : Host.Outcome State Fault Refusal :=
  .next (rangeRow 1 mid token path cmd s)

/-- MOVE (R266). -/
def execMove (mid : W16) (token : W32) (path : Path) (cmd : Cmd4) (s : State) : Host.Outcome State Fault Refusal :=
  .next (rangeRow 2 mid token path cmd s)

/-- GIVE (R262). -/
def execGive (mid : W16) (token : W32) (path : Path) (cmd : Cmd4) (s : State) : Host.Outcome State Fault Refusal :=
  .next (rangeRow 3 mid token path cmd s)

/-- QUERY (R265). -/
def execQuery (mid : W16) (token : W32) (path : Path) (cmd : Cmd4) (s : State) : Host.Outcome State Fault Refusal :=
  .next (rangeRow 4 mid token path cmd s)

/-- T2_REGISTER (R258). -/
def execT2Register (mid : W16) (token : W32) (path : Path) (cmd : Cmd4) (s : State) : Host.Outcome State Fault Refusal :=
  .next (rangeRow 5 mid token path cmd s)

/-- T2_RELEASE (R258). -/
def execT2Release (mid : W16) (token : W32) (path : Path) (cmd : Cmd4) (s : State) : Host.Outcome State Fault Refusal :=
  .next (rangeRow 6 mid token path cmd s)

/-- SET_TABLE_FRAMES (R257). -/
def execSetTableFrames (mid : W16) (token : W32) (path : Path) (cmd : Cmd4) (s : State) : Host.Outcome State Fault Refusal :=
  .next (rangeRow 7 mid token path cmd s)

/-! ## Status pops -/

/-- Word i of a head status entry. -/
def stsWord (l : List Sts) (i : Nat) : W32 :=
  match l[0]? with
  | none => 0
  | some e =>
    let w := if i / 2 = 0 then e.q0 else if i / 2 = 1 then e.q1 else if i / 2 = 2 then e.q2 else e.q3
    BitVec.ofNat 32 (w.toNat / 2 ^ (32 * (i % 2)))

/-- The head status entry of a path goes (R265). -/
def popRange (path : Path) (s : State) : State :=
  modRange (fun r => { r with sts := sset [] (pathKey path) ((rangeSts path s).drop 1) r.sts }) s

/-- RANGE_STATUS_POP (R265): the read of STS7 or RSTS7 delivers its word and removes the head entry. -/
def execRangeStatusPop (mid : W16) (path : Path) (s : State) : Host.Outcome State Fault Refusal :=
  let p := pathPage path
  let off := match path with
    | .mig _ => 0x1CC
    | .chan _ => 0x24C
  if served s p = false ∨ sees s mid p = false then .next (emit (.readData mid (regAddr p off) 0) s)
  else
    .next (popRange path (emit (.readData mid (regAddr p off) (stsWord (rangeSts path s) 7)) s))

/-! ## Moves (R266 to R270) -/

/-- A move by its name. -/
def moveOf (id : Nat) (s : State) : Option Move := (s.range.moves.filter fun m => decide (m.id = id))[0]?

/-- Replace a move. -/
def setMove (m : Move) (s : State) : State :=
  modRange (fun r => { r with moves := r.moves.map fun x => if x.id = m.id then m else x }) s

/-- The host function whose frame a T2 destination is. -/
def frameFn (loc port : Nat) (s : State) : W16 :=
  (((s.range.t2.filter fun f => decide (f.frame = loc ∧ f.port = port)).map fun f => f.fn)[0]?).getD 0

/-- Bytes of a page go to a T2 frame: `lines` of 64 bytes, poisoned ones sent poisoned (R268, R276). -/
def writeFrame (m : Move) (lines : List Nat) (s : State) : State :=
  if m.tier = 2 then
    let fn := frameFn m.loc m.port s
    let one := fun (s : State) (l : Nat) =>
      let a := m.page * 65536 + l * 64
      let bad := rangePoison a 64 s
      let s := emit (.hostWrite fn (m.loc * 65536 + l * 64) (rangeBytes a 64 s) (if bad then [0] else [])) s
      if bad then
        let p : Page := .hp (Fin.ofNat 2 m.port)
        raise p 8 (wrapInc p Reg.HP_POISON_OUT_CNT_COUNT 1 s)
      else s
    lines.foldl one s
  else s

/-- MOVE_COPY_ROUND_END (R266 step 2): another round while more than 16 lines are dirty, up to 4. -/
def execMoveCopyRoundEnd (id : Nat) (s : State) : Host.Outcome State Fault Refusal :=
  match moveOf id s with
  | none => .next s
  | some m =>
    if m.phase ≠ .copying then .next s
    else
      let s := if m.rounds = 0 then writeFrame m (List.range 1024) s else s
      let m := { m with rounds := m.rounds + 1 }
      if 16 < m.dirty.length ∧ m.rounds < 4 then .next (setMove { m with dirty := [] } (writeFrame m m.dirty s))
      else .next (setMove { m with phase := .seeking } s)

/-- STATE of a page once a move of it has gone. -/
def stateAfter (page : Nat) (s : State) : HomeSt := if s.range.moves.any (fun m => decide (m.page = page)) then .moving else .homed

/-- Remove a move; an allocated page that was MOVING falls back when no other move of it runs. -/
def dropMove (m : Move) (s : State) : State :=
  let s := modRange (fun r => { r with moves := r.moves.filter fun x => decide (x.id ≠ m.id) }) s
  let h := homeOf m.page s
  if h.st = .moving then setHome m.page { h with st := stateAfter m.page s } s else s

/-- A move lost its commit (R270): its destination is discarded and it is decided again. -/
def moveLost (m : Move) (s : State) : State :=
  let p : Page := .mig m.engine
  let s := raise p 11 (satInc p Reg.MIG_CONFLICT_CNT_LOST 1 (dropMove m s))
  match rangeCmd m.cmd s with
  | none => s
  | some c =>
    let h := homeOf m.page s
    let tbl := decide (rOp c.cmd = 7)
    if h.st = .free then
      if tbl then runRange rangeFuel c.id s else rangeEnd c 0x0068 s
    else if tbl then runRange rangeFuel c.id s
    else if atTarget c.cmd (rTier c.cmd) (rAny c.cmd) h = true ∨ rIfHome c.cmd = true then
      runRange rangeFuel c.id (pageDone { c with superseded := true } s)
    else if c.lostOnce then rangeEnd c 0x0067 (satInc p Reg.MIG_CONFLICT_CNT_ABANDONED 1 s)
    else runRange rangeFuel c.id (setRangeCmd { c with lostOnce := true } s)

/-- MOVE_COMMIT (R269): the keeper sets COMMITTING while VERSION is the one noted; while another move commits, this
one waits. -/
def execMoveCommit (id : Nat) (s : State) : Host.Outcome State Fault Refusal :=
  match moveOf id s with
  | none => .next s
  | some m =>
    let h := homeOf m.page s
    if m.phase ≠ .seeking ∨ h.st = .committing then .next s
    else if h.st = .free ∨ h.version ≠ m.version then .next (kickRange (moveLost m s))
    else .next (setMove { m with phase := .committing }
      (modRange (dropCached m.page) (setHome m.page { h with st := .committing } s)))

/-- Written flags carried to a new home (R268, R273): T1 keeps them by 256-byte block, a page from or to T2 is
written whole. -/
def carryFlags (m : Move) (old : Home) (r : Range) : Range :=
  let gs := List.range 1024
  let was := fun (g : Nat) => sget false (m.page * 1024 + g) r.written
  let now := fun (g : Nat) =>
    if old.tier = 2 ∨ m.tier = 2 then true
    else if old.tier = 1 ∨ m.tier = 1 then (List.range 4).any fun i => was (g / 4 * 4 + i)
    else was g
  { r with written := gs.foldl (fun w g => if now g = was g then w else sset false (m.page * 1024 + g) true w) r.written }

/-- Steps 4 to 6 of a move: the entry takes the new home with VERSION + 1; a page from a fenced unit comes out
poisoned (R369). -/
def moveApply (m : Move) (holdNs : Nat) (s : State) : State :=
  let old := homeOf m.page s
  let s := writeFrame m m.dirty s
  let s := if homeFenced old s then poisonExtent (m.page * 65536) 1024 s else s
  let seen := rangePoison (m.page * 65536) 65536 s
  let s := modRange (carryFlags m old) s
  let s := modRange (fun r => { r with moves := r.moves.filter fun x => decide (x.id ≠ m.id) }) s
  let s := setHome m.page { old with st := stateAfter m.page s, tier := m.tier, loc := m.loc, port := m.port,
                                     version := (m.version + 1) % 4096, pin := m.pin } s
  let p : Page := .mig m.engine
  let s := wrapInc p Reg.MIG_MOVE_CNT_COUNT 1 s
  let s := if m.tier < 2 then fset p Reg.MIG_STALL_MAX_NS (max (min 65535 holdNs) (fget p Reg.MIG_STALL_MAX_NS s)) s else s
  match rangeCmd m.cmd s with
  | none => s
  | some c =>
    let c := { c with poisonSeen := c.poisonSeen || seen }
    if rOp c.cmd = 7 then runRange rangeFuel c.id (setRangeCmd c s) else runRange rangeFuel c.id (pageDone c s)

/-- MOVE_DRAIN_END (R266): then commands that waited for the page go on. -/
def execMoveDrainEnd (id : Nat) (holdNs : Nat) (s : State) : Host.Outcome State Fault Refusal :=
  match moveOf id s with
  | none => .next s
  | some m => if m.phase = .committing then .next (kickRange (moveApply m holdNs s)) else .next s

/-- TRANSLATOR_MISS (R260): the entry is fetched and cached; entries are checked at each access, so it changes no
outcome. -/
def execTranslatorMiss (client : Nat) (addr : Addr) (s : State) : Host.Outcome State Fault Refusal :=
  let page := addr.toNat / 65536
  if (homeOf page s).st = .free then .next s
  else .next (modRange (fun r => { r with cached := sset false (client * 2 ^ 32 + page) true r.cached }) s)

/-- T2_READ_ERROR (R258): the granules read from the frame are poisoned. -/
def execT2ReadError (addr : Addr) (granules : Nat) (s : State) : Host.Outcome State Fault Refusal :=
  let h := homeOf (addr.toNat / 65536) s
  if h.st ≠ .free ∧ h.tier = 2 then .next (poisonExtent (addr.toNat / 64 * 64) granules s) else .next s

/-! ## Stops of an engine (R280, R370) -/

/-- EN = 0 (R280): commands not started and moves before step 3 end RANGE_STOPPED. -/
def stopRange (h : Half) (s : State) : State :=
  let mine := s.range.cmds.filter fun c => decide (c.engine = h)
  mine.foldl (fun s c =>
    let ms := s.range.moves.filter fun m => decide (m.cmd = c.id)
    if ms.any (fun m => decide (m.phase = .committing)) then s
    else rangeEnd c 0x006A (ms.foldl (fun s m => dropMove m s) s)) s

/-- A fenced engine (R370): its moves end, MOVING pages return to HOMED, COMMITTING ones with VERSION + 1. -/
def fenceRange (h : Half) (s : State) : State :=
  let s := (s.range.moves.filter fun m => decide (m.engine = h)).foldl (fun s m =>
    let e := homeOf m.page s
    let s := if m.phase = .committing then setHome m.page { e with st := .moving, version := (e.version + 1) % 4096 } s else s
    dropMove m s) s
  kickRange ((s.range.cmds.filter fun c => decide (c.engine = h)).foldl (fun s c => rangeEnd c 0x006A s) s)

end Sys2Proof.Machine
end

