-- ==== Sys2Proof/Machine/Image.lean ====
section
/-! DEFINITION. Model images (chapter 9): the format of R223 to R230 as it is read, where an image's code words lie, and
the lookups of handles and versions. -/

namespace Sys2Proof.Machine

/-! ## The leader -/

/-- The control complex that leads (R379), if any. -/
def leaderOf (s : State) : Option Half :=
  if fget (.cc .north) Reg.CC_CC_ROLE_ROLE s = 1 then some .north
  else if fget (.cc .south) Reg.CC_CC_ROLE_ROLE s = 1 then some .south
  else none

/-- Both CC pages raise an image or update event (R252). -/
def raiseCcs (bit : Nat) (s : State) : State :=
  let one := fun (h : Half) (s : State) => if present s (.cc h) then raise (.cc h) bit s else s
  one .south (one .north s)

/-! ## Handles and versions (R220) -/

/-- A handle's state. -/
def handleSt (h : Nat) (s : State) : Option HandleSt := (s.handles.filter fun x => decide (x.index = h))[0]?
/-- Replace a handle's state. -/
def setHandle (x : HandleSt) (s : State) : State :=
  { s with handles := s.handles.map fun y => if y.index = x.index then x else y }
/-- Change a handle's state. -/
def modHandle (h : Nat) (f : HandleSt → HandleSt) (s : State) : State :=
  { s with handles := s.handles.map fun y => if y.index = h then f y else y }
/-- A version by handle and epoch. -/
def versionOf (h epoch : Nat) (s : State) : Option Version :=
  (s.versions.filter fun v => decide (v.handle = h ∧ v.epoch = epoch))[0]?
/-- Replace a version. -/
def setVersion (v : Version) (s : State) : State :=
  { s with versions := s.versions.map fun x => if x.handle = v.handle ∧ x.epoch = v.epoch then v else x }
/-- The current version of a handle, in any state it still holds (R220). -/
def currentOf (h : Nat) (s : State) : Option Version :=
  (s.versions.filter fun v => decide (v.handle = h) && v.current)[0]?
/-- Its other version: the newest that is not current, one that is not RETIRED first. -/
def otherOf (h : Nat) (s : State) : Option Version :=
  let vs := s.versions.filter fun v => decide (v.handle = h) && !v.current
  match (vs.filter fun v => decide (v.st < 8)).getLast? with
  | some v => some v
  | none => vs.getLast?
/-- Change the state of a version; both CC pages raise IMG_STATE (R252), and the catalogue records the states of R235. -/
def setState (v : Version) (st : Nat) (s : State) : State :=
  let v := { v with st := st, recorded := if 4 ≤ st then st else v.recorded }
  raiseCcs 16 (setVersion v s)

/-! ## Fields -/

/-- An unsigned field of a byte string. -/
def field (b : List Byte) (off n : Nat) : Nat := leNat ((b.drop off).take n)
/-- Bytes [lo, hi) are 0. -/
def zeros (b : List Byte) (lo hi : Nat) : Bool := ((b.drop lo).take (hi - lo)).all fun x => decide (x = 0)

/-- TOTAL_CW. -/
def Version.totalCw (v : Version) : Nat := field v.header 20 4
/-- MANIFEST_CW. -/
def Version.manifestCw (v : Version) : Nat := field v.header 24 4
/-- Manifest chunks (R230). -/
def chunksOf (manifestCw : Nat) : Nat := (manifestCw - 1 + 63) / 64
/-- Manifest chunks of a version. -/
def Version.chunks (v : Version) : Nat := chunksOf v.manifestCw
/-- Code words of manifest chunk i (R230). -/
def Version.chunkCws (v : Version) (i : Nat) : List Nat :=
  (List.range (min 64 (v.manifestCw - (1 + 64 * i)))).map fun k => 1 + 64 * i + k

/-- The header field NENTRY. -/
def Version.nentry (v : Version) : Nat := field v.header 34 2

/-- The section table: TYPE, FIRST_CW, BYTES (R223). -/
def sections (header : List Byte) : List (Nat × Nat × Nat) :=
  (List.range (field header 32 2)).map fun i =>
    (field header (64 + 16 * i) 2, field header (68 + 16 * i) 4, field header (72 + 16 * i) 8)

/-! ## Checks of R224 and R230 -/

/-- Code words a section takes. -/
def sectionCws (x : Nat × Nat × Nat) : Nat := unitsOf 16384 x.2.2

/-- Two sections share no code word. -/
def disjoint (a b : Nat × Nat × Nat) : Bool :=
  decide (a.2.1 + sectionCws a ≤ b.2.1 ∨ b.2.1 + sectionCws b ≤ a.2.1)

/-- No element fails a relation with a later one. -/
def pairwise {α : Type} (f : α → α → Bool) : List α → Bool
  | [] => true
  | a :: t => t.all (f a) && pairwise f t

/-- The checks of R224 on the header, given the running firmware's version. -/
def headerOk (h : List Byte) (fw : Nat) : Bool :=
  let n := field h 32 2
  let ss := sections h
  let mcw := field h 24 4
  let mbytes := field h 28 4
  decide (h.length = 16384 ∧ field h 0 4 = 0x4D494243 ∧ field h 4 2 = 1 ∧ field h 6 2 < 8 ∧ 1 ≤ n ∧ n ≤ 32) &&
    zeros h 40 64 && zeros h (64 + 16 * n) 16384 && decide (field h 36 4 ≤ fw) &&
    ((List.range n).all fun i => decide (field h (66 + 16 * i) 2 = 0)) &&
    (ss.all fun x => decide (1 ≤ x.1 ∧ x.1 ≤ 10 ∧ 1 ≤ x.2.1 ∧ x.2.1 + sectionCws x ≤ mcw)) &&
    pairwise (fun a b => disjoint a b && decide (a.1 ≠ b.1 ∨ a.1 = 2)) ss &&
    decide (1 ≤ mcw ∧ mcw + unitsOf 16384 mbytes = field h 20 4)

/-- The checks of R230 on the manifest against the header. -/
def manifestOk (h m : List Byte) : Bool :=
  let n := field m 4 4
  let sig := 176 + 48 * n
  decide (field m 0 4 = 0x464E4D43 ∧ n = chunksOf (field h 24 4) ∧ (m.drop 8).take 8 = (h.drop 8).take 8 ∧
      field m 16 4 = field h 16 4 ∧ field h 28 4 = sig + 96 ∧ m.length = unitsOf 16384 (sig + 96) * 16384) &&
    zeros m 20 24 && zeros m 169 176 && zeros m (sig + 96) m.length

/-- The public key of a manifest. -/
def manifestKey (m : List Byte) : List Byte := (m.drop 72).take 97

/-- The hash of manifest chunk i as the manifest gives it. -/
def chunkHash (m : List Byte) (i : Nat) : List Byte := (m.drop (176 + 48 * i)).take 48

/-- The signature of a manifest verifies (R230). -/
def manifestSigOk (m : List Byte) : Bool :=
  let sig := 176 + 48 * field m 4 4
  ecdsaOk (manifestKey m) (m.take sig) ((m.drop sig).take 48) ((m.drop (sig + 48)).take 48)

/-- The key slots whose value is the hash of a key (R231). -/
def keySlots (m : List Byte) (s : State) : List Nat :=
  let h := sha384 (manifestKey m)
  (List.range 8).filter fun i => match idValue (8 + i) s with
    | some b => decide (b.take 48 = h)
    | none => false

/-- Checks 2 and 3 of R231: the slot, or the status. A slot that is not revoked is preferred. -/
def keyCheck (m : List Byte) (s : State) : Except W16 Nat :=
  let ks := keySlots m s
  match (ks.filter fun i => !idWritten (16 + i) s)[0]? with
  | some i => .ok i
  | none => .error (if ks.isEmpty then 0x0042 else 0x004F)

/-! ## Content -/

/-- Code word i of a version and whether it comes poisoned: the header, the T1 copy while it is held, else the store. -/
def imageCw (v : Version) (i : Nat) (s : State) : List Byte × Bool :=
  let blank := List.replicate 16384 0
  if i = 0 then (v.header, false)
  else if v.manifestCw ≤ i then ((v.manifest.drop ((i - v.manifestCw) * 16384)).take 16384, false)
  else match sget none ((i - 1) / 64) v.t1 with
    | some b => ((b.drop ((i - 1) % 64 * 16384)).take 16384, false)
    | none => match v.blocks[i]? with
      | some cwa => match cwBytes cwa s with
        | some b => (b, s.ws.partials.contains (blockOf cwa) || planeFenced (planeOf cwa) s)
        | none => (blank, true)
      | none => (blank, true)

/-- `len` bytes of an image from byte `off` of code word `cw`. -/
def imageBytes (v : Version) (cw off len : Nat) (s : State) : List Byte :=
  let first := cw + off / 16384
  let skip := off % 16384
  let n := unitsOf 16384 (skip + len)
  (((List.range n).flatMap fun i => (imageCw v (first + i) s).1).drop skip).take len

/-- Bytes of a section: none when the image has no such section or the span leaves it. -/
def sectionBytes (v : Version) (ty off len : Nat) (s : State) : Option (List Byte) :=
  match ((sections v.header).filter fun x => decide (x.1 = ty))[0]? with
  | some x => if off + len ≤ x.2.2 then some (imageBytes v x.2.1 off len s) else none
  | none => none

/-- Length of a section, 0 without one. -/
def sectionLen (v : Version) (ty : Nat) : Nat :=
  (((sections v.header).filter fun x => decide (x.1 = ty)).map fun x => x.2.2)[0]?.getD 0

/-- A layer record (R225). -/
structure LayerRec where
  layer : Nat
  firstWset : Nat
  nwset : Nat
  cfg : Nat
  rowsM1 : Nat
  weightCw : Nat
  scaleOff : Nat
  firstTmpl : Nat
  ntmpl : Nat
  rsvd : Nat
  deriving DecidableEq, Repr

/-- The layer records in order. -/
def layers (v : Version) (s : State) : List LayerRec :=
  (List.range (sectionLen v 1 / 32)).filterMap fun i => (sectionBytes v 1 (32 * i) 32 s).map fun b =>
    { layer := field b 0 2, firstWset := field b 2 2, nwset := field b 4 2, cfg := field b 6 1, rowsM1 := field b 7 1,
      weightCw := field b 16 4, scaleOff := field b 20 4, firstTmpl := field b 24 2, ntmpl := field b 26 2,
      rsvd := field b 28 4 }

/-- A weight-map entry (R226). -/
structure WMap where
  wset : Nat
  ptile : Nat
  chunk : Nat
  bank : Bool
  ok : Bool
  deriving DecidableEq, Repr

/-- A placement plan (R226). -/
structure Plan where
  sizeClass : Nat
  mode : Nat
  flags : Nat
  ntiles : Nat
  chunks : Nat
  bMax : Nat
  gatherUs : Nat
  shareN : Nat
  shareS : Nat
  tblBase : Nat
  tmplBase : Nat
  tmplCount : Nat
  /-- Halves of the plan tiles. -/
  halves : List Half
  wmap : List WMap
  /-- Every value in its range, reserved fields 0. -/
  ok : Bool
  deriving DecidableEq, Repr

/-- Read a PLAN section. -/
def planAt (v : Version) (x : Nat × Nat × Nat) (s : State) : Plan :=
  let b := imageBytes v x.2.1 0 x.2.2 s
  let nt := field b 4 2
  let ch := field b 6 2
  let tiles := (List.range nt).map fun i => field b (field b 24 4 + 2 * i) 2
  let wmap := (List.range (field b 32 4)).map fun i =>
    let e := b.drop (field b 28 4 + 8 * i)
    ({ wset := field e 0 2, ptile := field e 2 2, chunk := field e 4 2, bank := decide (field e 6 1 = 1),
       ok := decide (field e 2 2 < nt ∧ field e 4 2 < ch ∧ field e 6 1 ≤ 1 ∧ field e 7 1 = 0) } : WMap)
  let mode := field b 1 1
  let bm := field b 8 2
  { sizeClass := field b 0 1, mode := mode, flags := field b 2 1, ntiles := nt, chunks := ch, bMax := bm,
    gatherUs := field b 10 2, shareN := field b 12 2, shareS := field b 14 2, tblBase := field b 16 2,
    tmplBase := field b 18 2, tmplCount := field b 20 2, halves := tiles.map fun t => halfOf (t % 2), wmap := wmap,
    ok := decide (field b 0 1 ≤ 2 ∧ mode ≤ 1 ∧ field b 2 1 < 4 ∧ 1 ≤ ch ∧ field b 10 2 ≤ 1000 ∧ field b 12 2 ≤ 256 ∧
        field b 14 2 ≤ 256) && decide (if mode = 0 then ch = 1 ∧ bm = 0 else 1 ≤ bm ∧ bm ≤ 256) &&
      zeros b 3 4 && zeros b 22 24 && zeros b 36 64 && tiles.all (fun t => decide (t ≤ 1)) && wmap.all fun w => w.ok }

/-- Every plan of an image. -/
def plans (v : Version) (s : State) : List Plan :=
  ((sections v.header).filter fun x => decide (x.1 = 2)).map fun x => planAt v x s

/-- The plan of this device's size class (R227). -/
def planOf (v : Version) (s : State) : Option Plan :=
  ((plans v s).filter fun p => decide (p.sizeClass = s.fuses.sizeClass.val))[0]?

/-- An entry record (R228). -/
structure EntryRec where
  entry : Nat
  nroot : Nat
  rootOff : Nat
  taskEnds : Nat
  spawn : Nat
  tRunUs : Nat
  tileTime : Nat
  rally : Nat
  rsvd : Bool
  deriving DecidableEq, Repr

/-- The entry records of an image. -/
def entries (v : Version) (s : State) : List EntryRec :=
  (List.range v.nentry).filterMap fun i => (sectionBytes v 9 (32 * i) 32 s).map fun b =>
    { entry := field b 0 2, nroot := field b 2 2, rootOff := field b 4 4, taskEnds := field b 8 4, spawn := field b 12 4,
      tRunUs := field b 16 4, tileTime := field b 20 4, rally := field b 24 1, rsvd := zeros b 25 32 }

/-- The record of an entry number. -/
def entryOfNum (v : Version) (e : Nat) (s : State) : Option EntryRec :=
  ((entries v s).filter fun x => decide (x.entry = e))[0]?

/-- The root list of an entry: plan tile and template. -/
def roots (v : Version) (e : EntryRec) (s : State) : List (Nat × Nat) :=
  (List.range e.nroot).filterMap fun i => (sectionBytes v 9 (e.rootOff + 8 * i) 8 s).map fun b => (field b 0 2, field b 2 2)

/-- An adapter slot descriptor (R229). -/
structure SlotRec where
  slot : Nat
  flags : Nat
  rankMax : Nat
  ok : Bool
  deriving DecidableEq, Repr

/-- The adapter slot descriptors. -/
def slotRecs (v : Version) (s : State) : List SlotRec :=
  (List.range (sectionLen v 6 / 16)).filterMap fun i => (sectionBytes v 6 (16 * i) 16 s).map fun b =>
    { slot := field b 0 1, flags := field b 1 1, rankMax := field b 4 1,
      ok := decide (field b 1 1 ≤ 1 ∧ 1 ≤ field b 4 1 ∧ field b 4 1 ≤ 64) && zeros b 5 8 }

/-- Every record of the body holds values in range (R224 to R229), once the body has landed. -/
def recordsOk (v : Version) (s : State) : Bool :=
  let ls := layers v s
  ((ls.zip (List.range ls.length)).all fun l =>
    decide (l.1.layer = l.2 ∧ l.1.cfg < 64 ∧ l.1.rowsM1 < 128 ∧ l.1.rsvd = 0)) &&
  (plans v s).all (fun p => p.ok) &&
  decide ((entries v s).length = v.nentry) && (entries v s).all (fun e => decide (e.rally ≤ 1) && e.rsvd) &&
  decide ((slotRecs v s).length ≤ 64) && (slotRecs v s).all fun r => r.ok

/-- A table of the COMP_TABLES section (R288): 272 bytes, by number. -/
def compTable (h n : Nat) (s : State) : Option (List Byte) :=
  (currentOf h s).bind fun v => sectionBytes v 5 (272 * n) 272 s

/-! ## Placement in the weight store (R165, R188, R197) -/

/-- The layer of a weight set. -/
def layerOf (v : Version) (wset : Nat) (s : State) : Option LayerRec :=
  ((layers v s).filter fun l => decide (l.firstWset ≤ wset ∧ wset < l.firstWset + l.nwset))[0]?

/-- First code word of a section of a type. -/
def sectionCw (v : Version) (ty : Nat) : Option Nat :=
  (((sections v.header).filter fun x => decide (x.1 = ty)).map fun x => x.2.1)[0]?

/-- First of the 8 code words of a weight set (R225). -/
def wsetCw (v : Version) (wset : Nat) (s : State) : Option Nat :=
  match sectionCw v 3, layerOf v wset s with
  | some c, some l => some (c + l.weightCw + 8 * (wset - l.firstWset))
  | _, _ => none

/-- What stands for the place of a code word that has none in the store. -/
def noPlace : Nat := 2 ^ 25

/-- Blocks that versions hold, CWA ÷ 256. -/
def blocksHeld (s : State) : List Nat :=
  (s.versions.flatMap fun v => (v.blocks.filter fun c => decide (c ≠ noPlace)).map blockOf).eraseDups

/-- A die serves images: present and not fenced. -/
def dieServes (d : Nat) (s : State) : Bool := usable (diePage d) s && !fenced (.wsc (halfOf (d / 4))) s

/-- Planes of a half that hold image blocks: of serving dies, not fenced. -/
def poolPlanes (h : Half) (s : State) : List Nat :=
  (List.range 4).flatMap fun i =>
    let d := 4 * Half.num h + i
    if dieServes d s then ((List.range 192).map fun p => d * 256 + p).filter fun p => !planeFenced p s else []

/-- Free pool blocks of a plane, lowest first: not held, retired or partially erased (R165, R180). -/
def freeBlocks (held : List Nat) (plane : Nat) (s : State) : List Nat :=
  ((List.range 62).map fun b => plane * 64 + b).filter fun b =>
    !held.contains b && !s.ws.retired.contains b && !s.ws.partials.contains b

/-- Image blocks a die may hold: 10,240 while spares remain (R188). -/
def dieCapacity (d : Nat) (s : State) : Nat :=
  if dieServes d s then
    min 10240 ((((List.range 192).map fun p => d * 256 + p).filter fun p => !planeFenced p s).foldl
      (fun n p => n + ((List.range 62).filter fun b => !s.ws.retired.contains (p * 64 + b)).length) 0)
  else 0

/-- Code words of the weight sets that chunk k of a plan gives to a half (R197). -/
def chunkCwsOf (v : Version) (p : Plan) (h : Half) (k : Nat) (s : State) : List Nat :=
  (p.wmap.filter fun w => decide (w.chunk = k ∧ nth Half.north p.halves w.ptile = h)).flatMap fun w =>
    match wsetCw v w.wset s with
    | some c => (List.range 8).map fun i => c + i
    | none => []

/-- The code words that go to each half, in the order placed: chunk by chunk the weights of the half's tiles, then every
other code word of the image; chunks from `keep` on have no place. -/
def imageLayout (v : Version) (keep : Nat) (s : State) : List Nat × List Nat :=
  match planOf v s with
  | none => ((List.range v.totalCw).filter fun i => decide (i % 2 = 0), (List.range v.totalCw).filter fun i => decide (i % 2 = 1))
  | some p =>
    let of' := fun (h : Half) (lo hi : Nat) => (List.range (hi - lo)).flatMap fun k => chunkCwsOf v p h (lo + k) s
    let n := (of' .north 0 (min keep p.chunks)).eraseDups
    let so := (of' .south 0 (min keep p.chunks)).eraseDups.filter fun i => !n.contains i
    let late := of' .north keep p.chunks ++ of' .south keep p.chunks
    let rest := (List.range v.totalCw).filter fun i => !n.contains i && !so.contains i && !late.contains i
    (n ++ rest.filter (fun i => decide (i % 2 = 0)), so ++ rest.filter (fun i => decide (i % 2 = 1)))

/-- Places for a list of code words over the planes of a half in turn: code word and CWA of each that finds one. -/
def placeHalf (h : Half) (cws : List Nat) (held : List Nat) (s : State) : List (Nat × Nat) :=
  let ps := (poolPlanes h s).map fun p => freeBlocks held p s
  let k := ps.length
  if k = 0 then []
  else ((List.range cws.length).zip cws).filterMap fun x =>
    ((nth [] ps (x.1 % k))[x.1 / k / 256]?).map fun b => (x.2, b * 256 + x.1 / k % 256)

/-- A placement of an image without its chunks from `keep` on: the CWA of each code word, `noPlace` for those left out,
or none when blocks lack. -/
def placeImage (v : Version) (keep : Nat) (s : State) : Option (List Nat) :=
  let held := blocksHeld s
  let l := imageLayout v keep s
  let noN := (poolPlanes .north s).isEmpty
  let noS := (poolPlanes .south s).isEmpty
  let north := if noN then [] else if noS then l.1 ++ l.2 else l.1
  let south := if noS then [] else if noN then l.1 ++ l.2 else l.2
  let placed := placeHalf .north north held s ++ placeHalf .south south held s
  let cap := (List.range 8).foldl (fun a d => a + dieCapacity d s) 0
  let blocks := (placed.map fun x => blockOf x.2).eraseDups
  if placed.length = l.1.length + l.2.length ∧ held.length + blocks.length ≤ cap then
    some ((List.range v.totalCw).map fun i => ((placed.filter fun x => decide (x.1 = i))[0]?.map fun x => x.2).getD noPlace)
  else none

end Sys2Proof.Machine
end

