-- ==== Sys2Proof/Machine/Requests.lean ====
section
/-! DEFINITION. Requests from admission to completion (chapters 1, 6 and 12), shared by channels, images and rallies, and
the replies of firmware (R326). -/

namespace Sys2Proof.Machine

/-! ## Mailbox messages (R325, R326) -/

/-- A message joins the queue of an end; MSG_IN is raised there, and a host end gets its vector (R327). -/
def mailIn (m : Nat) (e : Bool) (words : List W32) (s : State) : State :=
  let x := mailOf m e s
  let s := raiseMail m e 8 (setMail m e { x with queue := x.queue ++ [words] } s)
  let mid := mbtMid s m e
  if midClass mid = 0 then interrupt mid (mbtVec s m e) s else s

/-- Firmware answers: behind a full queue the reply waits for a place (R325). -/
def mailReply (m : Nat) (e : Bool) (words : List W32) (s : State) : State :=
  let x := mailOf m e s
  if 4 ≤ x.queue.length ∨ x.late ≠ [] then setMail m e { x with late := x.late ++ [words] } s else mailIn m e words s

/-- The words of a reply: OP, STATUS, TAG, HANDLE, EPOCH (R326). -/
def replyWords (op : Nat) (status : W16) (tag : W32) (handle epoch : Nat) : List W32 :=
  [BitVec.ofNat 32 (op + status.toNat * 65536), tag, BitVec.ofNat 32 handle, BitVec.ofNat 32 epoch] ++ List.replicate 12 0

/-- Send a reply to the end that asked. -/
def replyTo (env : Env) (words : List W32) (s : State) : State :=
  match mbxEnd s env.mbx.val env.mid with
  | some e => mailReply env.mbx.val e words s
  | none => s

/-- The reply of an image command. -/
def reply (env : Env) (op : Nat) (status : W16) (handle epoch : Nat) (s : State) : State :=
  replyTo env (replyWords op status env.tag handle epoch) s

/-- The message can reach firmware: a host end of a bound mailbox whose other end is a control complex (R324, R326). -/
def reachesFirmware (env : Env) (s : State) : Bool :=
  match mbxEnd s env.mbx.val env.mid with
  | some e => decide (midClass env.mid = 0) && isCC (mbtMid s env.mbx.val (!e))
  | none => false

/-! ## Channels -/

/-- What a channel keeps. -/
def chanOf (c : Nat) (s : State) : ChanSt := sget {} c s.chans
/-- Replace it. -/
def setChan (c : Nat) (x : ChanSt) (s : State) : State := { s with chans := sset {} c x s.chans }
/-- Requests of a channel in flight. -/
def inflight (c : Nat) (s : State) : Nat := (s.reqs.filter fun r => decide (r.chan = c)).length
/-- Replace a request. -/
def setReq (r : Req) (s : State) : State :=
  { s with reqs := s.reqs.map fun x => if x.chan = r.chan ∧ x.seq = r.seq then r else x }
/-- Drop a request. -/
def dropReq (r : Req) (s : State) : State :=
  { s with reqs := s.reqs.filter fun x => !decide (x.chan = r.chan ∧ x.seq = r.seq) }
/-- A request in flight. -/
def reqAt (c : Nat) (seq : W32) (s : State) : Option Req := (s.reqs.filter fun r => decide (r.chan = c ∧ r.seq = seq))[0]?

/-- Assign a completion: it takes CUR_POST as its CSEQ (R306, R311). -/
def assign (c : Nat) (x : Cpl) (s : State) : State :=
  let p := chanPage c
  let n := fget p Reg.CHAN_CUR_POST_VALUE s
  let k := chanOf c s
  fset p Reg.CHAN_CUR_POST_VALUE (n + 1)
    (setChan c { k with cpls := k.cpls ++ [{ x with cseq := BitVec.ofNat 32 n, endTime := s.timer }] } s)

/-- The completion of a request; LATE when the timer has passed its deadline (R309, R321). -/
def complete (r : Req) (status : W16) (s : State) : State :=
  let late := !r.nodl && decide (r.deadline < s.timer)
  let p := chanPage r.chan
  let s := assign r.chan
    { cseq := 0, seq := r.seq, status := status, poison := r.poison, late := late, demoted := r.demoted, sustained := false,
      notice := false, epoch := BitVec.ofNat 32 r.epoch, endTime := 0, user := r.user,
      failTmpl := BitVec.ofNat 16 r.failTmpl, irq := r.irq, posted := false } (dropReq r s)
  if late then raise p 10 (satInc p Reg.CHAN_CLASS_CNT_LATE 1 s) else s

/-- A notice (R309, R322, R323). -/
def notice (c serial : Nat) (sustained : Bool) (s : State) : State :=
  assign c { cseq := 0, seq := BitVec.ofNat 32 serial, status := 0x0083, poison := false, late := false, demoted := false,
             sustained := sustained, notice := true, epoch := 0, endTime := 0, user := 0, failTmpl := 0xFFFF, irq := true,
             posted := false } s

/-! ## Posting root tasks (R138, R148, R150) -/

/-- The control complex that dispatches for a function: of the half of its host port, north for the ring; the other one
while it is fenced (R19). -/
def dispatcher (mid : W16) (s : State) : Half :=
  ccFor (if isLocal s mid = true ∧ midPort mid = 1 then .south else .north) s

/-- The request fields a request's tasks carry (R137, R222). -/
def taskFields (r : Req) : ReqFields :=
  { cls := BitVec.ofNat 2 r.cls, nodl := r.nodl, deadline := BitVec.ofNat 32 r.deadline, channel := BitVec.ofNat 9 r.chan,
    cch := r.cch, seq := r.seq, mepoch := BitVec.ofNat 16 r.epoch, reqBase := BitVec.ofNat 48 r.reqBase }

/-- A root task of a plan tile: where it goes, its shadow's mirror, its descriptor; a template the tile does not hold
makes a descriptor that R136 refuses. -/
def rootTask (h : HandleSt) (f : ReqFields) (root : Nat × Nat) (s : State) : Nat × Option Nat × Option Nat × Desc :=
  let l := nth 0x7FF h.tiles root.1
  let p := serving l s
  let tmpl : W16 := BitVec.ofNat 16 root.2
  let d := match p.bind fun p => templateAt p tmpl s with
    | some t => buildTask t tmpl f
    | none => buildTask { descOf (fun _ => 0) with kind := 15 } tmpl f
  (l, p, if h.sustained then h.mirrors[root.1]? else none, d)

/-- Spend one credit of a poster for each tile, or nothing when one is lacking. -/
def spend (h : Half) : List Nat → State → Option State
  | [], s => some s
  | p :: t, s => if creditsOf h p s = 0 then none else spend h t (addCredits h p (-1) s)

/-- Spill capacity that requests hold in a half (R150). -/
def spillHeld (h : Half) (s : State) : Nat :=
  s.reqs.foldl (fun n r => if r.cch = h ∧ (r.st = .running ∨ r.st = .transfer) then n + r.spawn else n) 0

/-- Post the roots of an entry with these fields: every credit is spent first; a root whose tile is gone ends with
UNIT_FENCED. -/
def postRoots (h : HandleSt) (rs : List (Nat × Nat)) (f : ReqFields) (s : State) : Option State :=
  let ts := rs.map fun r => rootTask h f r s
  let tiles := ts.flatMap fun t => t.2.1.toList ++ t.2.2.1.toList
  match spend f.cch tiles s with
  | none => none
  | some s => some (ts.foldl (fun s t =>
    let s := match t.2.1 with
      | some p => send (.post p t.2.2.2 false f.cch) s
      | none => send (.taskEnd f.cch { channel := f.channel, seq := f.seq, tmpl := t.2.2.2.tmpl, cch := f.cch,
                                       status := 0x0011, poison := false, rally := none }) s
    match t.2.2.1 with
    | some m => send (.post m t.2.2.2 true f.cch) s
    | none => s) s)

/-- The version of a request: the one it is stamped with; before the stamp of a rally, the current one. -/
def reqVersion (r : Req) (s : State) : Option Version :=
  if r.epoch = 0 then currentOf r.handle s else versionOf r.handle r.epoch s

/-- Start a request that is ready: a rally entry goes to its sequencer, another posts its roots when credits and spill
capacity allow, and stays queued until they do. -/
def startReq (r : Req) (s : State) : State :=
  match reqVersion r s, handleSt r.handle s with
  | some v, some h =>
    match entryOfNum v r.entry s with
    | none => s
    | some e =>
      if e.rally = 1 then setReq { r with st := .rally, need := e.taskEnds } s
      else if 32768 < spillHeld r.cch s + e.spawn then setReq { r with st := .queued } s
      else match postRoots h (roots v e s) (taskFields r) s with
        | some s' => setReq { r with st := .running, need := e.taskEnds, spawn := e.spawn } s'
        | none => setReq { r with st := .queued } s
  | _, _ => s

/-- Queued requests try again, in the order of acceptance. -/
def kickQueued (s : State) : State :=
  (s.reqs.filter fun r => decide (r.st = .queued)).foldl (fun s r => startReq r s) s

/-! ## The end of a request (R142, R311) -/

/-- Physical tiles of a handle's placement. -/
def setTiles (h : Nat) (s : State) : List Nat :=
  match handleSt h s with
  | some x => (x.tiles.filterMap fun l => serving l s) ++ x.mirrors
  | none => []

/-- PURGE goes to every tile of the request's tile set. -/
def sendPurges (handle chan : Nat) (seq : W32) (s : State) : State :=
  (setTiles handle s).foldl (fun s p => send (.purge p (BitVec.ofNat 9 chan) seq) s) s

/-- The last TASK_END has been counted: purge, then the output transfer or the completion. -/
def endReq (r : Req) (s : State) : State :=
  let s := sendPurges r.handle r.chan r.seq s
  if 0 < r.outLen then setReq { r with st := .transfer } s else kickQueued (complete r r.status s)

/-- A request ends now with a status of its own (cancel, loss of a half). -/
def abortReq (r : Req) (status : W16) (s : State) : State :=
  kickQueued (complete { r with poison := true } status (sendPurges r.handle r.chan r.seq s))

/-- A TASK_END message of a plain request is counted (R142). -/
def countEnd (r : Req) (msg : EndMsg) (s : State) : State :=
  let failed := decide (msg.status ≠ 0)
  let r := { r with ends := r.ends + 1, poison := r.poison || msg.poison || failed,
                    status := if r.status = 0 then msg.status else r.status,
                    failTmpl := if r.status = 0 ∧ failed then msg.tmpl.toNat else r.failTmpl }
  let s := setReq r s
  if r.need ≤ r.ends ∧ r.st = .running then endReq r s else s

/-! ## Stamps (R221, R243, R246) -/

/-- ID_STATE.POLICY bit 0, ALLOW_UNSIGNED (R232). -/
def allowUnsigned (s : State) : Bool := decide (bitsOf (fget (.wsc .north) Reg.WSC_ID_STATE_POLICY s) 0 1 = 1)

/-- Check 3 of R308: the version a request runs on, or its status. -/
def stamp (handle policy pin : Nat) (s : State) : Except W16 Version :=
  if 2 ≤ policy then .error 0x0026
  else match currentOf handle s with
    | none =>
      if s.versions.any (fun v => decide (v.handle = handle) && v.revoked) then .error 0x004F
      else .error 0x004D
    | some v =>
      let ok := fun (x : Version) =>
        if x.unsigned ∧ allowUnsigned s = false then (.error 0x004C : Except W16 Version) else .ok x
      if v.revoked then .error 0x004F
      else if policy = 1 then
        if v.st = 6 ∧ v.epoch = pin then ok v
        else match versionOf handle pin s with
          | some o => if o.st = 7 ∧ o.pinUntil ≠ none ∧ o.current = false then ok o else .error 0x004E
          | none => .error 0x004E
      else if v.st = 6 then ok v else .error 0x004D

/-- Every adapter slot of the image is bound by the channel (R250). -/
def adaptersBound (c : Nat) (v : Version) (s : State) : Bool :=
  (slotRecs v s).all fun r => s.bindings.any fun b => decide (b.chan = c ∧ b.handle = v.handle ∧ b.slot = r.slot)

/-- The class of a request and what its reservation has left (R305, R317). -/
def classify' (r : Req) (tileTime : Nat) (s : State) : Req × State :=
  let p := chanPage r.chan
  match (chanOf r.chan s).resv with
  | none => ({ r with cls := 2, nodl := decide (r.deadline = 0) }, s)
  | some x =>
    let left := fget p Reg.CHAN_RESV_LEFT_LEFT s
    if x.handle = r.handle ∧ tileTime ≤ left then
      ({ r with cls := x.cls, nodl := false, deadline := if r.deadline = 0 then x.start + x.period else r.deadline },
       fset p Reg.CHAN_RESV_LEFT_LEFT (left - tileTime) s)
    else
      ({ r with cls := 2, nodl := decide (r.deadline = 0), demoted := true },
       raise p 11 (satInc p Reg.CHAN_CLASS_CNT_DEMOTED 1 s))

/-- A request past the huddle takes its stamp, its class and its way: input copy first, or start. A rally stamps its
members when it begins (R221). -/
def admitStamped (r : Req) (s : State) : State :=
  match stamp r.handle r.policy r.pinEpoch s with
  | .error st => complete r st s
  | .ok v =>
    let r := { r with epoch := v.epoch }
    match entryOfNum v r.entry s with
    | none => complete r 0x0026 s
    | some e =>
      let r := { r with epoch := if e.rally = 1 then 0 else v.epoch }
      if adaptersBound r.chan v s = false then complete r 0x0051 s
      else
        let k := classify' r e.tileTime s
        let r := k.1
        if 0 < r.inLen then setReq { r with st := .copying } (setReq r k.2) else startReq r (setReq r k.2)

/-- The huddle opens: held requests proceed in order (R244), and the longest hold is kept (R253). -/
def openHuddle (h : Nat) (s : State) : State :=
  let held := s.reqs.filter fun r => decide (r.handle = h ∧ r.st = .held)
  let longest := held.foldl (fun m r => max m ((s.timer - r.heldAt) * 16 / 1000)) 0
  let s := modHandle h (fun x => { x with huddle := false, layer := 0, repl := 0, holdUs := longest % 2 ^ 20 }) s
  held.foldl (fun s r => admitStamped r s) s

end Sys2Proof.Machine
end

