-- ==== Sys2Proof/Machine/Compression.lean ====
section
/-! DEFINITION. Lossless compression (chapter 11): the stored block, Huffman tables and slots, the compression commands
of the engines' pages and of channel pages. -/

namespace Sys2Proof.Machine

/-! ## Bits and codes (R283, R285) -/

/-- Bits, lowest first, as a number. -/
def bitsNat : List Bool → Nat
  | [] => 0
  | b :: t => bit b 0 + 2 * bitsNat t

/-- The bits of bytes, bit 0 of byte 0 first. -/
def bytesBits : List Byte → List Bool
  | [] => []
  | b :: t => ((List.range 8).map fun i => b.getLsbD i) ++ bytesBits t

/-- The bytes that bits fill from bit 0 upwards; the last is filled with 0. -/
def packBits (l : List Bool) : List Byte := leBytes ((l.length + 7) / 8) (bitsNat l)

/-- The canonical codes of a table (R285): symbol, length, code, in order of length and symbol. -/
def huffCodes (lens : List Byte) : List (Nat × Nat × Nat) :=
  let step := fun (a : Nat × List (Nat × Nat × Nat)) (len : Nat) =>
    let syms := (List.range 256).filter fun s => decide ((nth 0 lens s).toNat = len + 1)
    ((a.1 + syms.length) * 2, a.2 ++ ((List.range syms.length).zip syms).map fun x => (x.2, len + 1, a.1 + x.1))
  ((List.range 15).foldl step (0, [])).2

/-- The bits of a code, most significant first. -/
def codeBits (len code : Nat) : List Bool := (List.range len).map fun i => decide (code / 2 ^ (len - 1 - i) % 2 = 1)

/-- The code of a symbol, if it is present. -/
def codeOf (codes : List (Nat × Nat × Nat)) (s : Nat) : Option (List Bool) :=
  ((codes.filter fun c => decide (c.1 = s))[0]?).map fun c => codeBits c.2.1 c.2.2

/-- A table record is valid (R285). -/
def tableValid (r : List Byte) : Bool :=
  let lens := r.take 256
  decide (r.length = 272) && lens.all (fun l => decide (l.toNat ≤ 15)) && lens.any (fun l => decide (l ≠ 0)) &&
    zeros r 256 272 && decide (lens.foldl (fun n l => if l = 0 then n else n + 2 ^ (15 - l.toNat)) 0 ≤ 32768)

/-- Read one symbol: no assigned code goes on from the bits read is failing check 5 of R291, the end of the bits is
check 6. -/
def readSym (codes : List (Nat × Nat × Nat)) : Nat → Nat → Nat → List Bool → Except Nat (Nat × List Bool)
  | 0, _, _, _ => .error 5
  | n + 1, len, code, bs =>
    if codes.all (fun c => decide (¬(len ≤ c.2.1 ∧ c.2.2 / 2 ^ (c.2.1 - len) = code))) then .error 5
    else match bs with
      | [] => .error 6
      | b :: t =>
        let code' := 2 * code + bit b 0
        match (codes.filter fun c => decide (c.2.1 = len + 1 ∧ c.2.2 = code'))[0]? with
        | some c => .ok (c.1, t)
        | none => readSym codes n (len + 1) code' t

/-- Read `n` symbols. -/
def readSyms (codes : List (Nat × Nat × Nat)) : Nat → List Bool → Except Nat (List Nat × List Bool)
  | 0, bs => .ok ([], bs)
  | n + 1, bs => match readSym codes 16 0 0 bs with
    | .error e => .error e
    | .ok x => match readSyms codes n x.2 with
      | .error e => .error e
      | .ok y => .ok (x.1 :: y.1, y.2)

/-! ## Stored blocks (R282 to R284, R291) -/

/-- The elements of 512 bytes. -/
def blockElems (elem : Nat) (b : List Byte) : List Nat :=
  (List.range (512 / (1 + elem))).map fun i => leNat ((b.drop (i * (1 + elem))).take (1 + elem))

/-- A block header. -/
def blockHdr (mode elem slot gen nnz zv : Nat) : List Byte :=
  leBytes 4 (mode + elem * 2 ^ 2 + slot * 2 ^ 3 + gen * 2 ^ 6 + nnz * 2 ^ 10 + zv * 2 ^ 20)

/-- Pad to whole 16-byte units. -/
def padUnits (b : List Byte) : List Byte := b ++ List.replicate ((b.length + 15) / 16 * 16 - b.length) 0

/-- The RAW form. -/
def rawForm (elem : Nat) (b : List Byte) : List Byte := blockHdr 0 elem 0 0 0 0 ++ b

/-- The BITMAP form. -/
def bitmapForm (elem zv : Nat) (es : List Nat) : List Byte :=
  let nz := es.filter fun e => decide (e ≠ zv)
  blockHdr 1 elem 0 0 nz.length zv ++ packBits (es.map fun e => decide (e ≠ zv)) ++
    nz.flatMap fun e => leBytes (1 + elem) e

/-- The HUFFMAN form; none when a nonzero byte has no code. -/
def huffmanForm (zv slot gen : Nat) (lens : List Byte) (es : List Nat) : Option (List Byte) :=
  let nz := es.filter fun e => decide (e ≠ zv)
  let codes := huffCodes lens
  let cs := nz.filterMap fun e => codeOf codes e
  if cs.length = nz.length then
    some (blockHdr 2 0 slot gen nz.length zv ++ packBits (es.map fun e => decide (e ≠ zv)) ++ packBits cs.flatten)
  else none

/-- The stored form of a block and whether R284 made it RAW. POLICY: 0 AUTO, 1 BITMAP, 2 RAW. -/
def encodeBlock (policy elem zv slot : Nat) (z : ZSlot) (b : List Byte) : List Byte × Bool :=
  let es := blockElems elem b
  let bm := bitmapForm elem zv es
  let hf := if policy = 0 ∧ elem = 0 ∧ z.loaded = true then huffmanForm zv slot z.gen z.lens es else none
  let best := match hf with
    | some h => if h.length < bm.length then h else bm
    | none => bm
  if policy = 2 ∨ 495 < best.length then (padUnits (rawForm elem b), true) else (padUnits best, false)

/-- Put decoded elements where the bitmap has 1, ZERO elsewhere. -/
def scatter (zv : Nat) : List Bool → List Nat → List Nat
  | [], _ => []
  | true :: t, v :: vs => v :: scatter zv t vs
  | true :: t, [] => zv :: scatter zv t []
  | false :: t, vs => zv :: scatter zv t vs

/-- Check 2 of R291. -/
def hdrValid (h : Nat) : Bool :=
  let mode := bitsOf h 0 2
  let elem := bitsOf h 2 1
  let nnz := bitsOf h 10 10
  decide (mode ≠ 3 ∧ (mode = 2 → elem = 0) ∧ nnz ≤ 512 / (1 + elem) ∧ bitsOf h 28 4 = 0) &&
    decide ((mode = 0 ∨ elem = 1) → bitsOf h 20 8 = 0) &&
    decide (mode ≠ 2 → bitsOf h 3 7 = 0) && decide (mode = 0 → nnz = 0)

/-- The bytes are all 0. -/
def allZero (b : List Byte) : Bool := b.all fun x => decide (x = 0)

/-- Decode the stored bytes of a block of SIZE units (R291): the failing check, or 512 bytes. -/
def decodeBlock (slots : Nat → ZSlot) (size : Nat) (b : List Byte) : Except Nat (List Byte) :=
  let h := leNat (b.take 4)
  let mode := bitsOf h 0 2
  let elem := bitsOf h 2 1
  let nnz := bitsOf h 10 10
  let zv := bitsOf h 20 8
  let z := slots (bitsOf h 3 3)
  let map := (b.drop 4).take (64 / (1 + elem))
  let start := 4 + 64 / (1 + elem)
  let out := fun (vs : List Nat) => (scatter zv (bytesBits map) vs).flatMap fun e => leBytes (1 + elem) e
  if size = 0 ∨ 33 < size then .error 1
  else if hdrValid h = false then .error 2
  else if mode = 0 then
    if size = 33 ∧ allZero (b.drop 516) = true then .ok ((b.drop 4).take 512) else .error 7
  else if mode = 2 ∧ ¬(z.loaded = true ∧ z.gen = bitsOf h 6 4) then .error 3
  else if ((bytesBits map).filter fun x => x).length ≠ nnz then .error 4
  else if mode = 1 then
    let l := start + nnz * (1 + elem)
    if size * 16 < l then .error 6
    else if (l + 15) / 16 ≠ size ∨ allZero (b.drop l) = false then .error 7
    else .ok (out ((List.range nnz).map fun i => leNat ((b.drop (start + i * (1 + elem))).take (1 + elem))))
  else
    let bs := bytesBits (b.drop start)
    match readSyms (huffCodes z.lens) nnz bs with
    | .error e => .error e
    | .ok x =>
      let l := start + (bs.length - x.2.length + 7) / 8
      if (l + 15) / 16 ≠ size ∨ x.2.any (fun v => v) = true then .error 7 else .ok (out x.1)

/-- The status of a failing check. -/
def checkStatus (n : Nat) : W16 := if n = 3 then 0x0071 else if n = 2 ∨ n = 5 then 0x0073 else 0x0072

/-! ## Slots and commands (R286, R288) -/

/-- Replace the compressors' state. -/
def modZip (f : Zip → Zip) (s : State) : State := { s with zip := f s.zip }
/-- A table slot of a channel. -/
def zslot (chan slot : Nat) (s : State) : ZSlot := sget {} (8 * chan + slot) s.zip.slots
/-- Replace it. -/
def setZslot (chan slot : Nat) (z : ZSlot) (s : State) : State :=
  modZip (fun x => { x with slots := sset {} (8 * chan + slot) z x.slots }) s
/-- Every slot of a channel is EMPTY with GEN 0 (R286, R301). -/
def clearZslots (chan : Nat) (s : State) : State :=
  modZip (fun x => { x with slots := sclear (8 * chan) (8 * chan + 8) x.slots }) s

/-- OP. -/
def zOp (q : Cmd4) : Nat := bitsOf q.q0.toNat 0 4
/-- POLICY. -/
def zPolicy (q : Cmd4) : Nat := bitsOf q.q0.toNat 4 2
/-- ELEM. -/
def zElem (q : Cmd4) : Nat := bitsOf q.q0.toNat 6 1
/-- SLOT. -/
def zSlotNum (q : Cmd4) : Nat := bitsOf q.q0.toNat 7 3
/-- CHANNEL. -/
def zChannel (q : Cmd4) : Nat := bitsOf q.q0.toNat 10 9
/-- SRC. -/
def zSrc (q : Cmd4) : Nat := bitsOf q.q1.toNat 0 48
/-- ZERO. -/
def zZero (q : Cmd4) : Nat := bitsOf q.q1.toNat 48 8
/-- SRC_KIND. -/
def zKind (q : Cmd4) : Nat := bitsOf q.q1.toNat 56 1
/-- DST. -/
def zDst (q : Cmd4) : Nat := bitsOf q.q2.toNat 0 48
/-- IDX. -/
def zIdx (q : Cmd4) : Nat := bitsOf q.q3.toNat 0 48
/-- COUNT. -/
def zCount (q : Cmd4) : Nat := bitsOf q.q3.toNat 48 13

/-- What ends a command Z_CMD_INVALID (R289). -/
def zInvalid (mid : W16) (path : Path) (q : Cmd4) : Bool :=
  let op := zOp q
  decide (2 < op ∨ (op = 0 ∧ (zPolicy q = 3 ∨ (zElem q = 1 ∧ zZero q ≠ 0)))) ||
    decide (bitsOf q.q0.toNat 19 13 ≠ 0 ∨ bitsOf q.q1.toNat 57 7 ≠ 0 ∨ bitsOf q.q2.toNat 48 16 ≠ 0 ∨
      bitsOf q.q3.toNat 61 3 ≠ 0) ||
    decide (op = 0 ∧ (zSrc q % 512 ≠ 0 ∨ zDst q % 16 ≠ 0 ∨ zIdx q % 8 ≠ 0)) ||
    decide (op = 1 ∧ (zSrc q % 16 ≠ 0 ∨ zDst q % 512 ≠ 0 ∨ zIdx q % 8 ≠ 0)) ||
    decide (op = 2 ∧ zKind q = 0 ∧ zSrc q % 16 ≠ 0) ||
    decide (op ≠ 2 ∧ (zCount q = 0 ∨ 4096 < zCount q)) ||
    match path with
    | .mig _ => false
    | .chan c => decide (midClass mid = 0 ∧ zChannel q ≠ c.val)

/-- Status entries waiting at a path. -/
def zipSts (p : Path) (s : State) : List (W64 × W64) := sget [] (pathKey p) s.zip.sts

/-- How far a command has come. -/
structure ZRun where
  done : Nat := 0
  errs : Nat := 0
  units : Nat := 0
  seen : Bool := false
  status : W16 := 0
  stop : Bool := false

/-- A command ends with its status entry (R290, R297). -/
def zEnd (c : ZCmd) (r : ZRun) (s : State) : State :=
  let e : W64 × W64 := (BitVec.ofNat 64 (c.cmd.q0.toNat / 2 ^ 32 + r.status.toNat * 2 ^ 32),
    BitVec.ofNat 64 (r.done + r.errs * 2 ^ 13 + bit r.seen 26 + r.units * 2 ^ 27))
  let s := modZip (fun z => { z with cmds := z.cmds.filter (fun x => decide (x.id ≠ c.id)),
                                     sts := sset [] (pathKey c.path) (sget [] (pathKey c.path) z.sts ++ [e]) z.sts }) s
  match c.path with
  | .mig h => raise (.mig h) 16 s
  | .chan n => raise (.chan n) 16 s

/-- The issuer of a command's accesses: a host function, or the device (R289). -/
def zWho (c : ZCmd) : Accessor := if midClass c.mid = 0 then .host c.mid else .system

/-- Access of a command to a span: allowed, denied, or at a fenced home (writes only). -/
def zAccess (c : ZCmd) (write : Bool) (addr len : Nat) (s : State) : Option W16 :=
  let ps := spanPages addr len
  if ps.any (fun p => decide ((homeOf p s).st = .free) || !mayAccess (zWho c) write (homeOf p s) s) then some 0x0064
  else if write && ps.any (fun p => homeFenced (homeOf p s) s) then some 0x0011
  else none

/-- A denied access is counted and recorded (R261). -/
def zDenied (c : ZCmd) (st : W16) (addr : Nat) (s : State) : State :=
  if st = 0x0064 then rangeDenied c.mid addr s else s

/-- Count bytes in a KiB counter, what is below one KiB kept (R298). -/
def addKib (h : Half) (f : Field) (rest n : Nat) (s : State) : Nat × State :=
  ((rest + n) % 1024, wrapInc (.mig h) f ((rest + n) / 1024) s)

/-- The counters of a compressed block. -/
def zCounted (h : Half) (raw : Bool) (stored : Nat) (s : State) : State :=
  let p : Page := .mig h
  let s := wrapInc p Reg.MIG_Z_CMP_CNT_COUNT 1 s
  let s := if raw then wrapInc p Reg.MIG_Z_RAW_CNT_COUNT 1 s else s
  let a := addKib h Reg.MIG_Z_IN_KIB_KIB (sget 0 (Half.num h) s.zip.inRest) 512 s
  let b := addKib h Reg.MIG_Z_OUT_KIB_KIB (sget 0 (Half.num h) s.zip.outRest) stored a.2
  modZip (fun z => { z with inRest := sset 0 (Half.num h) a.1 z.inRest,
                            outRest := sset 0 (Half.num h) b.1 z.outRest }) b.2

/-- A block whose access was refused: the command ends (R289). -/
def zRefuse (c : ZCmd) (r : ZRun) (st : W16) (addr : Nat) (s : State) : ZRun × State :=
  ({ r with status := st, stop := true }, zDenied c st addr s)

/-- The units of a block and whether they are coded: a poisoned source is stored RAW (R284, R292). -/
def blockForm (c : ZCmd) (bytes : List Byte) (bad : Bool) (s : State) : List Byte × Bool :=
  if bad then (padUnits (rawForm (zElem c.cmd) bytes), false)
  else encodeBlock (zPolicy c.cmd) (zElem c.cmd) (zZero c.cmd) (zSlotNum c.cmd) (zslot (zChannel c.cmd) (zSlotNum c.cmd) s) bytes

/-- A block in its form is stored with its index entry and counted (R284, R287, R292). -/
def compressStore (c : ZCmd) (r : ZRun) (dst idx : Nat) (e : List Byte × Bool) (bad : Bool) (s : State) : ZRun × State :=
  match zAccess c true dst e.1.length s with
  | some st => zRefuse c r st dst s
  | none =>
  match zAccess c true idx 8 s with
  | some st => zRefuse c r st idx s
  | none =>
    ({ r with done := r.done + 1, units := r.units + e.1.length / 16, seen := r.seen || bad },
     zCounted c.engine e.2 e.1.length
       (rangeWrite idx (leBytes 8 (r.units + e.1.length / 16 * 2 ^ 32)) false (rangeWrite dst e.1 bad s)))

/-- One block of a COMPRESS (R284, R287, R292). -/
def compressBlock (c : ZCmd) (r : ZRun) (s : State) : ZRun × State :=
  if r.stop then (r, s)
  else match zAccess c false (zSrc c.cmd + 512 * r.done) 512 s with
    | some st => zRefuse c r st (zSrc c.cmd + 512 * r.done) s
    | none =>
      compressStore c r ((zDst c.cmd + 16 * r.units) % 2 ^ 48) (zIdx c.cmd + 8 * r.done)
        (blockForm c (rangeBytes (zSrc c.cmd + 512 * r.done) 512 s) (rangePoison (zSrc c.cmd + 512 * r.done) 512 s) s)
        (rangePoison (zSrc c.cmd + 512 * r.done) 512 s) s

/-- A block of an EXPAND that fails (R291): its event, its count, the first failure's record. -/
def zFailed (c : ZCmd) (check idx : Nat) (s : State) : State :=
  let p : Page := .mig c.engine
  let st := checkStatus check
  let s := if st = 0x0071 then raise p 17 (satInc p Reg.MIG_Z_ERR_CNT_STALE 1 s)
    else if st = 0x0072 then raise p 18 (satInc p Reg.MIG_Z_ERR_CNT_SIZE 1 s)
    else raise p 19 (satInc p Reg.MIG_Z_INV_CNT_BLOCK 1 s)
  if fget p Reg.MIG_Z_ERR_REC_HI_VALID s = 0 then
    s |> fset p Reg.MIG_Z_ERR_REC_LO_ADDR idx |> fset p Reg.MIG_Z_ERR_REC_HI_ADDR (idx / 2 ^ 32)
      |> fset p Reg.MIG_Z_ERR_REC_HI_REASON check |> fset p Reg.MIG_Z_ERR_REC_HI_CHANNEL (zChannel c.cmd)
      |> fset p Reg.MIG_Z_ERR_REC_HI_VALID 1
  else s

/-- A coded block with its bytes read: decoded and stored, or its failure (R291). -/
def expandBytes (c : ZCmd) (r : ZRun) (idx dst size : Nat) (bytes : List Byte) (blank : List Byte) (s : State) : ZRun × State :=
  match decodeBlock (fun k => zslot (zChannel c.cmd) k s) size bytes with
  | .ok b => ({ r with done := r.done + 1 }, wrapInc (.mig c.engine) Reg.MIG_Z_EXP_CNT_COUNT 1 (rangeWrite dst b false s))
  | .error n =>
    ({ r with done := r.done + 1, errs := r.errs + 1, status := if r.status = 0 then checkStatus n else r.status },
     zFailed c n idx (rangeWrite dst blank true s))

/-- Where the units of an index entry lie and how many bytes they have; none for a SIZE outside 1 to 33. -/
def entrySpan (c : ZCmd) (e : Nat) : Nat × Nat :=
  ((zSrc c.cmd + 16 * bitsOf e 0 32) % 2 ^ 48, if bitsOf e 32 6 = 0 ∨ 33 < bitsOf e 32 6 then 0 else 16 * bitsOf e 32 6)

/-- A block with its index entry `e` read, whose units lie at `x` (R290, R291): they are fetched; a poisoned source gives a
poisoned block. -/
def expandEntry (c : ZCmd) (r : ZRun) (idx dst e : Nat) (x : Nat × Nat) (bad : Bool) (blank : List Byte) (s : State) : ZRun × State :=
  match (if x.2 = 0 then none else zAccess c false x.1 x.2 s) with
  | some st => zRefuse c r st x.1 s
  | none =>
    if bad = true ∨ rangePoison x.1 x.2 s = true then
      ({ r with done := r.done + 1, seen := true }, rangeWrite dst blank true s)
    else expandBytes c r idx dst (bitsOf e 32 6) (rangeBytes x.1 x.2 s) blank s

/-- One block of an EXPAND (R291, R292). -/
def expandBlock (c : ZCmd) (r : ZRun) (s : State) : ZRun × State :=
  if r.stop then (r, s)
  else match zAccess c false (zIdx c.cmd + 8 * r.done) 8 s, zAccess c true (zDst c.cmd + 512 * r.done) 512 s with
    | some st, _ => zRefuse c r st (zIdx c.cmd + 8 * r.done) s
    | _, some st => zRefuse c r st (zDst c.cmd + 512 * r.done) s
    | none, none =>
      expandEntry c r (zIdx c.cmd + 8 * r.done) (zDst c.cmd + 512 * r.done) (leNat (rangeBytes (zIdx c.cmd + 8 * r.done) 8 s))
        (entrySpan c (leNat (rangeBytes (zIdx c.cmd + 8 * r.done) 8 s))) (rangePoison (zIdx c.cmd + 8 * r.done) 8 s)
        (List.replicate 512 0) s

/-- Every block of a COMPRESS or EXPAND, then its end. -/
def runBlocks (c : ZCmd) (s : State) : State :=
  let r := (List.range (zCount c.cmd)).foldl
    (fun (a : ZRun × State) _ => if zOp c.cmd = 0 then compressBlock c a.1 a.2 else expandBlock c a.1 a.2) ({}, s)
  zEnd c r.1 r.2

/-- A request of the channel in flight names the handle. -/
def channelReads (chan h : Nat) (s : State) : Bool := s.reqs.any fun r => decide (r.chan = chan ∧ r.handle = h)

/-- The record that a LOAD_TABLE names: its bytes and poison, or the status of a refused read (R288, R289). -/
def loadRecord (c : ZCmd) (s : State) : Except (W16 × Nat) (List Byte × Bool) :=
  let src := zSrc c.cmd
  if zKind c.cmd = 0 then match zAccess c false src 272 s with
    | some st => .error (st, src)
    | none => .ok (rangeBytes src 272 s, rangePoison src 272 s)
  else
    let h := src % 1024
    if midClass c.mid = 0 ∧ channelReads (zChannel c.cmd) h s = false then .error (0x0064, src)
    else .ok ((compTable h (bitsOf src 10 6) s).getD [], false)

/-- Step 1 of R286: the record is checked; a valid one is held. -/
def holdLoad (c : ZCmd) (s : State) : State :=
  match loadRecord c s with
  | .error e => zEnd c { status := e.1 } (zDenied c e.1 e.2 s)
  | .ok x =>
    if x.2 = false ∧ tableValid x.1 = true then
      modZip (fun z => { z with cmds := z.cmds.map fun y => if y.id = c.id then { c with load := some x.1 } else y }) s
    else
      let p : Page := .mig c.engine
      zEnd c { status := 0x0074, seen := x.2 } (raise p 20 (satInc p Reg.MIG_Z_INV_CNT_TABLE 1 s))

/-- The command may go on: its engine is ON, it is the first of its path at its engine (R289), and no earlier
LOAD_TABLE of its channel waits (R286). -/
def zReady (c : ZCmd) (s : State) : Bool :=
  isOn (.mig c.engine) s &&
    s.zip.cmds.all fun x => !decide (x.id < c.id) ||
      (!decide (x.engine = c.engine ∧ x.path = c.path) && !decide (zOp x.cmd = 2 ∧ zChannel x.cmd = zChannel c.cmd))

/-- Every command that may go on does, in the order posted. -/
def kickZip (s : State) : State :=
  (s.zip.cmds.map fun c => c.id).foldl (fun s id => match (s.zip.cmds.filter fun c => decide (c.id = id))[0]? with
    | none => s
    | some c =>
      if zReady c s = false ∨ c.load ≠ none then s
      else if zOp c.cmd = 2 then holdLoad c s else runBlocks c s) s

/-- A posted compression command ends at once when invalid, at a fenced engine or at a stopped one; else the queue
moves on. -/
def queueZip (mid : W16) (path : Path) (cmd : Cmd4) (s : State) : State :=
  let e := engineOf path (halfOf (zDst cmd / 65536 % 2)) s
  let c : ZCmd := { id := s.zip.ids, engine := e, path := path, cmd := cmd, mid := mid, load := none }
  let s := modZip (fun z => { z with cmds := z.cmds ++ [c], ids := z.ids + 1 }) s
  if zInvalid mid path cmd = true then zEnd c { status := 0x0075 } s
  else if fenced (.mig e) s = true then zEnd c { status := 0x0011 } s
  else match blk (.mig e) s with
    | .on | .starting => kickZip s
    | _ => zEnd c { status := 0x006A } s

/-- The queue of a path is full. -/
def zipFull (path : Path) (s : State) : Bool :=
  decide (pathDepth path ≤ (s.zip.cmds.filter fun c => decide (c.path = path)).length)

/-- A compression command is posted through an engine page or a channel page (R289, R298, R330). -/
def postZip (mid : W16) (token : W32) (path : Path) (cmd : Cmd4) (s : State) : State :=
  match path with
  | .mig h => guarded ⟨mid, token⟩ (.mig h) 0x29C (fun s =>
      let s := storeCmd (.mig h) 0x280 cmd s
      if zipFull (.mig h) s = true then raise (.mig h) 5 s else queueZip mid (.mig h) cmd s) s
  | .chan c => guarded ⟨mid, token⟩ (.chan c) 0x29C (fun s =>
      let s := storeCmd (.chan c) 0x280 cmd s
      if zipFull (.chan c) s = true then raise (.chan c) 5 s else queueZip mid (.chan c) cmd s) s

/-- A command whose row names its OP. -/
def zipRow (op : Nat) (mid : W16) (token : W32) (path : Path) (cmd : Cmd4) (s : State) : State :=
  if zOp cmd = op ∨ (2 < zOp cmd ∧ op = 0) then postZip mid token path cmd s else s

/-- COMPRESS (R284). An invalid OP, which no row of its own has, ends Z_CMD_INVALID here. -/
def execCompress (mid : W16) (token : W32) (path : Path) (cmd : Cmd4) (s : State) : Host.Outcome State Fault Refusal :=
  .next (zipRow 0 mid token path cmd s)

/-- EXPAND (R291). -/
def execExpand (mid : W16) (token : W32) (path : Path) (cmd : Cmd4) (s : State) : Host.Outcome State Fault Refusal :=
  .next (zipRow 1 mid token path cmd s)

/-- LOAD_TABLE (R286). -/
def execLoadTable (mid : W16) (token : W32) (path : Path) (cmd : Cmd4) (s : State) : Host.Outcome State Fault Refusal :=
  .next (zipRow 2 mid token path cmd s)

/-- The held LOAD_TABLE of a channel with no earlier command of the channel left. -/
def heldLoad (chan : Nat) (s : State) : Option (ZCmd × List Byte) :=
  match (s.zip.cmds.filter fun c => decide (zChannel c.cmd = chan))[0]? with
  | some c => c.load.map fun r => (c, r)
  | none => none

/-- LOAD_TABLE_COMMIT (R286 step 3): both copies take the table in one step. -/
def execLoadTableCommit (chan : Fin 512) (s : State) : Host.Outcome State Fault Refusal :=
  match heldLoad chan.val s with
  | none => .next s
  | some x =>
    let k := zSlotNum x.1.cmd
    let z := zslot chan.val k s
    let s := setZslot chan.val k { loaded := true, gen := (z.gen + 1) % 16, lens := x.2.take 256 } s
    .next (kickZip (zEnd x.1 {} (raise (.mig x.1.engine) 21 s)))

/-- The head status entry of a path goes (R290). -/
def popZip (path : Path) (s : State) : State :=
  modZip (fun z => { z with sts := sset [] (pathKey path) ((zipSts path s).drop 1) z.sts }) s

/-- ZSTATUS_POP (R290): the read of ZSTS3 delivers its word and removes the head entry. -/
def execZstatusPop (mid : W16) (path : Path) (s : State) : Host.Outcome State Fault Refusal :=
  let p := pathPage path
  if served s p = false ∨ sees s mid p = false then .next (emit (.readData mid (regAddr p 0x2BC) 0) s)
  else
    let w : W32 := match (zipSts path s)[0]? with
      | some e => BitVec.ofNat 32 (e.2.toNat / 2 ^ 32)
      | none => 0
    .next (popZip path (emit (.readData mid (regAddr p 0x2BC) w) s))

/-- EN = 0 or a fence of an engine (R293, R280): the commands that it has not ended end RANGE_STOPPED; a held load leaves
its slot. -/
def stopZip (h : Half) (s : State) : State :=
  kickZip ((s.zip.cmds.filter fun c => decide (c.engine = h)).foldl (fun s c => zEnd c { status := 0x006A } s) s)

end Sys2Proof.Machine
end

