-- ==== Sys2Proof/Machine/Ethernet.lean ====
section
/-! DEFINITION. The image fetch ports (R351 to R354): port records, queue pairs and their pace, links and drops. -/

namespace Sys2Proof.Machine

/-! ## Port records (R352) -/

/-- A port record of 64 bytes, as far as the device acts on it. -/
structure PortRec where
  valid : Bool
  /-- Reserved bits 0 and LOCAL_QPN one of the port's queue pairs. -/
  ok : Bool
  qpn : Nat
  psn : Nat
  length : Nat
  deriving DecidableEq, Repr

/-- Read a record. -/
def portRec (b : List Byte) : PortRec :=
  { valid := decide (field b 0 1 % 2 = 1),
    ok := decide (field b 0 1 < 8 ∧ field b 1 1 < 64 ∧ 0x100 ≤ field b 4 3 ∧ field b 4 3 < 0x140 ∧ field b 7 1 = 0 ∧
        field b 11 1 = 0 ∧ field b 15 1 = 0) && zeros b 36 40 && zeros b 56 64,
    qpn := field b 4 3, psn := field b 12 3, length := field b 48 8 }

/-- The records of ETH0 and ETH1, with their ports. -/
def portRecs (b : List Byte) : List (Nat × PortRec) :=
  [(0, portRec (b.take 64)), (1, portRec ((b.drop 64).take 64))].filter fun r => r.2.valid

/-- A queue pair serves a FETCH that is still in progress. -/
def qpLive (q : Qp) (s : State) : Bool :=
  s.versions.any fun v => decide (v.handle = q.handle ∧ v.epoch = q.epoch ∧ v.st = 1)

/-- The queue pair in use at a port under a number. -/
def qpAt (port qpn : Nat) (s : State) : Option Qp :=
  (s.qps.filter fun q => decide (q.port = port ∧ q.qpn = qpn) && qpLive q s)[0]?

/-- Why a FETCH with SOURCE 0 fails (R352): no valid record, one with values out of range, records that disagree in
LENGTH, a queue pair in use. -/
def recordsBad (b : List Byte) (s : State) : Bool :=
  let rs := portRecs b
  rs.isEmpty || rs.any (fun r => !r.2.ok || (qpAt r.1 r.2.qpn s).isSome) ||
    decide ((rs.map fun r => r.2.length).eraseDups.length ≠ 1)

/-- Line rate of a port in kB/s (R351), and the floor of R353. -/
def lineRate : Nat := 25000000
/-- The floor of a queue pair's rate, 1 GB/s (R353). -/
def rateFloor : Nat := 1000000

/-- The page of an image fetch port. -/
def ethPage (i : Nat) : Page := .eth (Fin.ofNat 2 i)

/-- A FETCH opens its queue pairs and its first READs leave. -/
def startReads (v : Version) (s : State) : State :=
  if v.src ≠ 0 then s else
  (portRecs v.records).foldl (fun s r =>
    let q : Qp := { port := r.1, qpn := r.2.qpn, handle := v.handle, epoch := v.epoch, psn := r.2.psn, rate := lineRate,
                    paceAt := s.timer, land := [] }
    emit (.rdmaRead r.1 q.qpn q.psn)
      { s with qps := s.qps.filter (fun x => !decide (x.port = q.port ∧ x.qpn = q.qpn)) ++ [q] }) s

/-- Replace a queue pair. -/
def setQp (q : Qp) (s : State) : State :=
  { s with qps := s.qps.map fun x => if x.port = q.port ∧ x.qpn = q.qpn then q else x }

/-- An effect on a queue pair in use at a port that is up. -/
def onQp (port qpn : Nat) (f : Qp → State → State) (s : State) : State :=
  if fget (ethPage port) Reg.ETH_ETH_STAT_UP s = 0 then s
  else match qpAt port qpn s with
    | some q => f q s
    | none => s

/-! ## Responses and pace (R353) -/

/-- A response in sequence: its payload joins the READ's; RX_KIB counts whole KiB. -/
def landPayload (bytes : List Byte) (q : Qp) (s : State) : State :=
  let n := q.land.length + bytes.length
  let s := wrapInc (ethPage q.port) Reg.ETH_RX_KIB_KIB (n / 1024 - q.land.length / 1024) s
  setQp { q with psn := (q.psn + 1) % 2 ^ 24, land := if 1048576 ≤ n then (q.land ++ bytes).drop 1048576 else q.land ++ bytes } s

/-- RDMA_READ_RESPONSE (R353): one out of sequence is not used. -/
def execRdmaReadResponse (port : Fin 2) (qpn : BitVec 24) (psn : BitVec 24) (bytes : List Byte) (s : State) :
    Host.Outcome State Fault Refusal :=
  .next (onQp port.val qpn.toNat (fun q s => if psn.toNat = q.psn then landPayload bytes q s else s) s)

/-- RDMA_READ_RESTART (R353): from the last good PSN. -/
def execRdmaReadRestart (port : Fin 2) (qpn : BitVec 24) (s : State) : Host.Outcome State Fault Refusal :=
  .next (onQp port.val qpn.toNat (fun q s =>
    emit (.rdmaRead port.val q.qpn q.psn) (raise (.eth port) 10 (wrapInc (.eth port) Reg.ETH_RETRY_CNT_COUNT 1 s))) s)

/-- CONGESTION_NOTIFICATION (R353): the rate halves, down to the floor. -/
def execCongestionNotification (port : Fin 2) (qpn : BitVec 24) (s : State) : Host.Outcome State Fault Refusal :=
  .next (onQp port.val qpn.toNat (fun q s => setQp { q with rate := max rateFloor (q.rate / 2), paceAt := s.timer } s) s)

/-- RATE_INCREASE (R353): 55 µs without a notification. -/
def execRateIncrease (port : Fin 2) (qpn : BitVec 24) (s : State) : Host.Outcome State Fault Refusal :=
  .next (onQp port.val qpn.toNat (fun q s =>
    let s := reach (q.paceAt + ticks 55) s
    setQp { q with rate := min lineRate (q.rate + lineRate / 16), paceAt := s.timer } s) s)

/-! ## Links and drops (R351, R354) -/

/-- RX_DROP (R351). -/
def execRxDrop (port : Fin 2) (s : State) : Host.Outcome State Fault Refusal :=
  if fget (.eth port) Reg.ETH_ETH_STAT_UP s = 0 then .next s
  else .next (raise (.eth port) 9 (wrapInc (.eth port) Reg.ETH_RX_DROP_CNT_COUNT 1 s))

/-- ETH_LINK (R354). -/
def execEthLink (port : Fin 2) (up : Bool) (s : State) : Host.Outcome State Fault Refusal :=
  let p : Page := .eth port
  let now := decide (fget p Reg.ETH_ETH_STAT_UP s = 1)
  if now = up ∨ (up = true ∧ ¬(present s p = true ∧ fenced p s = false ∧ (blk p s = .starting ∨ blk p s = .on))) then .next s
  else .next (raise p 8 (fset p Reg.ETH_ETH_STAT_UP (if up then 1 else 0) s))

end Sys2Proof.Machine
end

