-- ==== Sys2Proof/Machine/Images.lean ====
section
/-! DEFINITION. The image commands (chapter 9): fetch and trust, activation, replacement, retirement, upkeep, adapters. -/

namespace Sys2Proof.Machine

/-! ## Rally contexts (R196) -/

/-- A rally context. -/
def rallyOf (i : Nat) (s : State) : RallyCtx := sget {} i s.rallies
/-- Replace it. -/
def setRally (i : Nat) (c : RallyCtx) (s : State) : State := { s with rallies := sset {} i c s.rallies }
/-- The context of a handle's streamed instance. -/
def ctxOfHandle (h : Nat) (s : State) : Option Nat :=
  ((List.range 16).filter fun i => decide ((rallyOf i s).handle = some h))[0]?
/-- A free context. -/
def freeRallyCtx (s : State) : Option Nat := ((List.range 16).filter fun i => decide ((rallyOf i s).handle = none))[0]?

/-! ## References and retirement (R234, R247) -/

/-- Rallies that began under an epoch of a handle. -/
def rallyRefs (h epoch : Nat) (s : State) : Nat :=
  match ctxOfHandle h s with
  | none => 0
  | some i =>
    let c := rallyOf i s
    bit (decide ((c.running.bind fun r => r.begun) = some epoch)) 0 + bit (decide (c.forming.begun = some epoch)) 0

/-- Requests stamped with an epoch of a handle. -/
def requestRefs (h epoch : Nat) (s : State) : Nat :=
  (s.reqs.filter fun r => decide (r.handle = h ∧ r.epoch = epoch ∧ r.st ≠ .held)).length

/-- A version has references. -/
def referenced (v : Version) (s : State) : Bool :=
  decide (0 < requestRefs v.handle v.epoch s ∨ 0 < rallyRefs v.handle v.epoch s ∨ v.pinUntil ≠ none)

/-- Clear the mirrors of a placement. -/
def clearPairs (h : HandleSt) (s : State) : State :=
  let one := fun (s : State) (m : Nat) =>
    let q := mirrorPeer m s
    fset (tilePage q) Reg.TILE_MIRROR_MAP_VALID 0 (fset (tilePage m) Reg.TILE_MIRROR_MAP_VALID 0 s)
  h.mirrors.foldl one s

/-- The last version of a handle is RETIRED: its tiles, its rally context and its bindings go (R247, R250). -/
def releaseHandle (h : Nat) (s : State) : State :=
  if s.versions.any (fun v => decide (v.handle = h ∧ v.st < 8)) then s
  else
    let s := match handleSt h s with
      | some x => clearPairs x s
      | none => s
    let s := match ctxOfHandle h s with
      | some i => setRally i {} s
      | none => s
    let s := modHandle h (fun x => { x with tiles := [], mirrors := [], sustained := false, shadowB := true, placed := none }) s
    { s with bindings := s.bindings.filter (fun b => decide (b.handle ≠ h)),
             packed := s.packed.filter (fun x => decide (x.1 ≠ h)) }

/-- Erase the code words of a placement. -/
def eraseBlocks (blocks : List Nat) (s : State) : State :=
  ((blocks.filter fun c => decide (c ≠ noPlace)).map blockOf).eraseDups.foldl (fun s b => clearBlock b s) s

/-- Program every placed code word of a version from its best source (R234). -/
def programAll (v : Version) (s : State) : State :=
  (List.range v.totalCw).foldl (fun s i => match v.blocks[i]? with
    | some c => if c = noPlace then s else setCw c (some (imageCw { v with blocks := [] } i s).1) s
    | none => s) s

/-- A version that has its whole image in T1 and STORE = 1 gets blocks once they are free: WRITING, then STORED as its
programs end; an ACTIVE one stays ACTIVE. -/
def tryStore (v : Version) (s : State) : State :=
  if v.store = false ∨ v.blocks ≠ [] ∨ ¬(v.st = 2 ∨ v.st = 6) ∨ v.landed.length < v.chunks then s
  else match placeImage v v.totalCw s with
    | none => s
    | some bs =>
      let v := { v with blocks := bs, programmed := v.landed }
      let s := programAll v (setVersion v s)
      if v.st = 2 then setState { v with st := 3 } 4 (setState v 3 s) else s

/-- A version becomes RETIRED: T1 area and blocks are freed, and others may take the blocks. -/
def retireNow (v : Version) (s : State) : State :=
  let s := eraseBlocks v.blocks s
  let s := setState { v with current := false, slots := [], t1 := [], blocks := [], landed := [], programmed := [],
                             verified := [], pinUntil := none, hasSource := false } 8 s
  let s := releaseHandle v.handle s
  (s.versions.filter fun x => decide (x.st = 2 ∨ x.st = 6)).foldl (fun s x => tryStore x s) s

/-! ## Command handling (R236, R237) -/

/-- The outcome of a command: its status, the epoch of its reply, and the state. -/
structure CmdEnd where
  status : W16
  epoch : Nat
  s : State
  /-- The reply goes later. -/
  later : Bool := false

/-- A refusal. -/
def refuse (status : W16) (s : State) : CmdEnd := { status := status, epoch := 0, s := s }

/-- The reply of a finished command; a failure is kept in IMG_ERR. -/
def finish (env : Env) (op h : Nat) (e : CmdEnd) : State :=
  if e.later then e.s
  else
    let s := if e.status = 0 then e.s else modHandle h (fun x => { x with err := e.status }) e.s
    reply env op e.status h e.epoch s

/-- A command that only the leader runs: lost where no firmware gets it, kept while no leader stands (R237, R373). -/
def byLeader (env : Env) (i : Instr) (f : State → State) (s : State) : State :=
  if reachesFirmware env s = false then s
  else match leaderOf s with
    | none => { s with deferred := s.deferred ++ [i] }
    | some _ => f s

/-- A command on a handle: IMG_STATE for one the device does not hold, IMG_NOT_OWNER, IMG_BUSY while a replacement
runs. -/
def onHandle (env : Env) (i : Instr) (op : Nat) (handle : W16) (f : HandleSt → State → CmdEnd) (s : State) : State :=
  byLeader env i (fun s =>
    let h := handle.toNat
    finish env op h (match handleSt h s with
      | none => refuse 0x0048 s
      | some x =>
        if ownerPF x.owner ≠ ownerPF env.mid ∨ env.mid ≠ ownerPF env.mid then refuse 0x0050 s
        else if x.repl ≠ 0 then refuse 0x0049 s
        else f x s)) s

/-- The version that WHICH names: 0 current, 1 other. -/
def whichVersion (h which : Nat) (s : State) : Option Version :=
  if which = 0 then currentOf h s else if which = 1 then otherOf h s else none

/-! ## FETCH (R231, R238) -/

/-- BOOT_STAT.MODE shows normal service (R232). -/
def normalService (s : State) : Bool := decide (fget .sec Reg.SEC_BOOT_STAT_MODE s = 0)

/-- The handle a FETCH works on: its own, or for 0xFFFF the lowest index not in use; once every index has been used,
the lowest whose versions are all RETIRED. -/
def fetchHandle (handle : W16) (mid : W16) (s : State) : Except W16 (Nat × Bool) :=
  if handle = 0xFFFF then
    let fresh := ((List.range 1024).filter fun i => decide (handleSt i s = none))[0]?
    let idle := ((List.range 1024).filter fun i => !s.versions.any fun v => decide (v.handle = i ∧ v.st < 8))[0]?
    match fresh, idle with
    | some i, _ => .ok (i, true)
    | none, some i => .ok (i, true)
    | none, none => .error 0x0046
  else match handleSt handle.toNat s with
    | none => .error 0x0048
    | some x =>
      if x.owner ≠ mid then .error 0x0050
      else if x.repl ≠ 0 ∨ 2 ≤ (s.versions.filter fun v => decide (v.handle = x.index ∧ v.st < 8)).length then .error 0x0049
      else .ok (x.index, false)

/-- The handle given is the caller's: a new one, or one whose versions are all RETIRED. -/
def claimHandle (i : Nat) (mid : W16) (s : State) : State :=
  match handleSt i s with
  | none => { s with handles := s.handles ++ [{ index := i, owner := mid }] }
  | some _ => modHandle i (fun x => { x with owner := mid }) s

/-- The epoch of a handle's next version (R220). -/
def nextEpoch (h : Nat) (s : State) : Nat :=
  let e := ((handleSt h s).map fun x => x.topEpoch).getD 0 + 1
  if s.versions.any (fun v => decide (v.handle = h ∧ v.st < 8 ∧ v.epoch % 65536 = e % 65536)) then e + 1 else e

/-- The pages of a SOURCE 2 image are the caller's. -/
def ownsSpan (mid : W16) (addr len : Nat) (s : State) : Bool :=
  (spanPages addr len).all fun p =>
    let h := homeOf p s
    decide (h.st ≠ .free ∧ h.ownerKind = 1 ∧ h.owner = mid.toNat)

/-- They move to the leader's ownership (R238). -/
def takeSpan (addr len : Nat) (s : State) : State :=
  (spanPages addr len).foldl (fun s p => setHome p { homeOf p s with ownerKind := 0, owner := 0 } s) s

/-- Free T1 slots of a half. -/
def freeSlots (h : Half) (s : State) : List Nat :=
  let used := t1Used s
  ((List.range (t1Total h s)).filter fun i => slotServed h i s && !used.contains (i + Half.num h * 2 ^ 21)).map
    fun i => i + Half.num h * 2 ^ 21

/-- Slots of a landing area: the whole image with RUN_EARLY or KEEP_T1, else a window of 1 GiB (R238, R239). -/
def landingSlots (totalCw : Nat) (whole : Bool) : Nat :=
  unitsOf 65536 ((if whole then totalCw else min totalCw 65536) * 16384)

/-- Header and manifest as the source gives them. -/
def fetchHead (a : FetchArgs) (s : State) : List Byte × List Byte :=
  if a.source = 2 then
    let h := rangeBytes a.ref.toNat 16384 s
    let cw := field h 24 4
    (h, rangeBytes (a.ref.toNat + cw * 16384) (unitsOf 16384 (field h 28 4) * 16384) s)
  else (a.header, a.manifest)

/-- Count a signature check (R44). -/
def countSig (ok : Bool) (s : State) : State :=
  if ok then wrapInc .sec Reg.SEC_SIG_CNT_COUNT 1 s else satInc .sec Reg.SEC_SIG_FAIL_CNT_COUNT 1 s

/-- The checks of R231 in their order: the key slot, or the status; the signature engines count. -/
def trust (h m : List Byte) (s : State) : Except W16 Nat × State :=
  let fw := match leaderOf s with
    | some l => fget (.cc l) Reg.CC_FW_VERSION_VERSION s
    | none => 0
  if headerOk h fw = false ∨ manifestOk h m = false then (.error 0x0041, s)
  else if normalService s = false then (.ok 0, s)
  else match keyCheck m s with
    | .error st => (.error st, s)
    | .ok slot =>
      let ok := manifestSigOk m
      let s := countSig ok s
      if ok = false then (.error 0x0043, s)
      else if sha384 h ≠ (m.drop 24).take 48 then (.error 0x0044, s)
      else (.ok slot, s)

/-- The two port records that a FETCH with SOURCE 0 names (R352). -/
def portRecords (a : FetchArgs) (s : State) : List Byte := if a.source = 0 then rangeBytes a.ref.toNat 128 s else []

/-- Why a FETCH is refused before it is accepted: a value out of range. -/
def fetchBad (a : FetchArgs) : Bool := decide (2 < a.source.toNat) || (!a.store && !a.runEarly)

/-- A FETCH is accepted: a version with its epoch; then R231 and the landing area decide (R220, R231, R238). -/
def startFetch (env : Env) (a : FetchArgs) (h : Nat) (s : State) : CmdEnd :=
  let epoch := nextEpoch h s
  let s := modHandle h (fun x => { x with topEpoch := epoch }) s
  let hm := fetchHead a s
  let v : Version :=
    { handle := h, epoch := epoch, st := 1, current := false, env := env, src := a.source.toNat, ref := a.ref.toNat,
      length := a.length.toNat, records := portRecords a s, hasSource := true, runEarly := a.runEarly, keepT1 := a.keepT1,
      store := a.store, header := hm.1, manifest := hm.2 }
  let s := { s with versions := s.versions.filter (fun x => !decide (x.handle = h ∧ x.st = 8)) ++ [v] }
  let s := setState v 1 s
  let bad := fun (st : W16) (s : State) => ({ status := st, epoch := epoch, s := raiseCcs 18 (retireNow v s) } : CmdEnd)
  if a.source = 2 ∧ ownsSpan env.mid a.ref.toNat a.length.toNat s = false then bad 0x0045 s
  else if a.source = 2 ∧ (rangePoison a.ref.toNat 16384 s = true) then bad 0x0045 s
  else if a.source = 0 ∧ (ownsSpan env.mid a.ref.toNat 128 s = false ∨ recordsBad v.records s = true) then bad 0x0045 s
  else
    let s := if a.source = 2 then takeSpan a.ref.toNat a.length.toNat s else s
    match trust hm.1 hm.2 s with
    | (.error st, s) => bad st s
    | (.ok slot, s) =>
      if a.length.toNat < v.totalCw * 16384 then bad 0x0041 s
      else
        let n := landingSlots v.totalCw (a.runEarly || a.keepT1)
        let free := freeSlots .north s ++ freeSlots .south s
        if free.length < n then bad 0x0046 s
        else
          { status := 0, epoch := epoch, later := true,
            s := startReads v (setVersion { v with keySlot := slot, unsigned := !normalService s, slots := free.take n } s) }

/-- FETCH (R231, R236 to R238). -/
def execFetch (env : Env) (a : FetchArgs) (s : State) : Host.Outcome State Fault Refusal :=
  .next (byLeader env (.fetch env a) (fun s =>
    let h0 := if a.handle = 0xFFFF then 0xFFFF else a.handle.toNat
    if env.mid ≠ ownerPF env.mid then finish env 0x10 h0 (refuse 0x0050 s)
    else if fetchBad a then finish env 0x10 h0 (refuse 0x0041 s)
    else match fetchHandle a.handle env.mid s with
      | .error st => finish env 0x10 h0 (refuse st s)
      | .ok x => finish env 0x10 x.1 (startFetch env a x.1 (if x.2 then claimHandle x.1 env.mid s else s))) s)

/-- The FETCH of a version ends with a status (R231, R238). -/
def fetchFail (v : Version) (st : W16) (s : State) : State :=
  finish v.env 0x10 v.handle { status := st, epoch := v.epoch, s := raiseCcs 18 (retireNow v s) }

/-! ## Landing (R231, R234, R240, R241) -/

/-- The version that is landing under a handle: the oldest. -/
def landing (h : Nat) (s : State) : Option Version := (s.versions.filter fun v => decide (v.handle = h ∧ v.st = 1))[0]?

/-- Two versions agree in the header but for VERSION, and in every section but WEIGHTS, SCALES and TRANSPOSED (R241). -/
def compatible (v c : Version) (s : State) : Bool :=
  decide (v.header.take 16 = c.header.take 16 ∧ v.header.drop 20 = c.header.drop 20) &&
    (sections v.header).all fun x =>
      x.1 == 3 || x.1 == 4 || x.1 == 10 || decide (imageBytes v x.2.1 0 x.2.2 s = imageBytes c x.2.1 0 x.2.2 s)

/-- Templates of layers with CS4 packed inputs (R225). -/
def packedOf (v : Version) (s : State) : List (Nat × Nat × Nat) :=
  ((layers v s).filter fun l => decide (bitsOf l.cfg 4 1 = 1)).map fun l => (v.handle, l.firstTmpl, l.ntmpl)

/-- The last chunk has landed: the records are checked, the version is compared with the current one, and it goes to
STAGED or, with blocks, on to STORED. -/
def landed (v : Version) (s : State) : State :=
  if recordsOk v s = false then fetchFail v 0x0041 s
  else
    let inc := match currentOf v.handle s with
      | some c => !compatible v c s
      | none => false
    let v := { v with incompatible := inc }
    let s := setState v 2 s
    let s := tryStore { v with st := 2 } s
    match versionOf v.handle v.epoch s with
    | none => s
    | some w =>
      if w.st = 2 ∧ v.slots.length < landingSlots v.totalCw true then fetchFail w 0x0046 s
      else finish v.env 0x10 v.handle { status := 0, epoch := v.epoch, s := s }

/-- The bytes of a chunk as its source gives them. -/
def chunkBytes (v : Version) (chunk : Nat) (bytes : List Byte) (poison : Bool) (s : State) : List Byte × Bool :=
  if v.src = 2 then
    let a := v.ref + (1 + 64 * chunk) * 16384
    let n := (v.chunkCws chunk).length * 16384
    (rangeBytes a n s, rangePoison a n s)
  else (bytes, poison)

/-- A landed chunk is whole, free of poison and, unless the version is UNSIGNED, hashes as the manifest says. -/
def chunkOk (v : Version) (chunk : Nat) (b : List Byte × Bool) : Bool :=
  !b.2 && decide (b.1.length = (v.chunkCws chunk).length * 16384) &&
    (v.unsigned || decide (sha384 b.1 = chunkHash v.manifest chunk))

/-- A chunk failed its check once more (R231). -/
def chunkFailed (v : Version) (chunk : Nat) (s : State) : Version × State :=
  let v := { v with fails := sset 0 chunk (sget 0 chunk v.fails + 1) v.fails }
  (v, raiseCcs 18 (modHandle v.handle (fun x => { x with refetch := satAdd 16 x.refetch 1 }) (setVersion v s)))

/-- A chunk lands under a FETCH. -/
def landChunk (v : Version) (chunk : Nat) (b : List Byte × Bool) (s : State) : State :=
  if v.landed.contains chunk ∨ v.chunks ≤ chunk then s
  else if chunkOk v chunk b then
    let v := { v with landed := v.landed ++ [chunk], t1 := sset none chunk (some b.1) v.t1 }
    let s := setVersion v s
    if v.landed.length = v.chunks then landed v s else s
  else
    let r := chunkFailed v chunk s
    if 3 ≤ sget 0 chunk r.1.fails then fetchFail r.1 0x0044 r.2 else r.2

/-- A chunk fetched again from a kept source (R248, R249): it serves as a T1 copy, or the version is DAMAGED after the
third failure. -/
def refetched (v : Version) (chunk : Nat) (b : List Byte × Bool) (s : State) : State :=
  if v.hasSource = false ∨ v.chunks ≤ chunk then s
  else
    let s := raiseCcs 18 (modHandle v.handle (fun x => { x with refetch := satAdd 16 x.refetch 1 }) s)
    if chunkOk v chunk b then setVersion { v with t1 := sset none chunk (some b.1) v.t1 } s
    else
      let v := { v with fails := sset 0 chunk (sget 0 chunk v.fails + 1) v.fails }
      if 3 ≤ sget 0 chunk v.fails then raiseCcs 17 (setVersion { v with damaged := true } s) else setVersion v s

/-- MANIFEST_CHUNK_LANDED (R231). -/
def execManifestChunkLanded (handle : BitVec 10) (chunk : Nat) (bytes : List Byte) (poison : Bool) (s : State) :
    Host.Outcome State Fault Refusal :=
  let h := handle.toNat
  match landing h s with
  | some v => .next (landChunk v chunk (chunkBytes v chunk bytes poison s) s)
  | none => match (s.versions.filter fun v => decide (v.handle = h ∧ 2 ≤ v.st ∧ v.st ≤ 7) && v.hasSource)[0]? with
    | some v => .next (refetched v chunk (chunkBytes v chunk bytes poison s) s)
    | none => .next s

/-- FETCH_SOURCE_TIMEOUT (R238). -/
def execFetchSourceTimeout (handle : BitVec 10) (s : State) : Host.Outcome State Fault Refusal :=
  match landing handle.toNat s with
  | some v => .next (fetchFail v 0x0045 s)
  | none => .next s

/-- The T1 copy goes once the store copy is VERIFIED, unless KEEP_T1 holds it (R238, R239). -/
def dropT1 (v : Version) : Version := if v.keepT1 then v else { v with t1 := [], slots := [] }

/-- MANIFEST_CHUNK_VERIFIED (R234, R240): the chunk as the store holds it hashes as the manifest says. -/
def execManifestChunkVerified (handle : BitVec 10) (epoch : W32) (chunk : Nat) (ok : Bool) (s : State) :
    Host.Outcome State Fault Refusal :=
  match versionOf handle.toNat epoch.toNat s with
  | none => .next s
  | some v =>
    if ¬ v.programmed.contains chunk ∨ v.verified.contains chunk ∨ v.blocks = [] then .next s
    else
      let b := (v.chunkCws chunk).flatMap fun i => (imageCw { v with t1 := [] } i s).1
      let bad := (v.chunkCws chunk).any fun i => (imageCw { v with t1 := [] } i s).2
      if ok = false ∨ bad = true ∨ (v.unsigned = false ∧ sha384 b ≠ chunkHash v.manifest chunk) then .next s
      else
        let v := { v with verified := v.verified ++ [chunk] }
        if v.verified.length < v.chunks then .next (setVersion v s)
        else if v.st = 4 then .next (setState (dropT1 v) 5 s)
        else .next (setVersion (dropT1 v) s)

/-! ## ACTIVATE (R227, R234) -/

/-- A version may become ACTIVE: in STAGED or WRITING only with RUN_EARLY (R234). -/
def mayRun (v : Version) : Bool := decide (v.st = 4 ∨ v.st = 5) || (decide (v.st = 2 ∨ v.st = 3) && v.runEarly)

/-- A logical tile free for a placement. -/
def freeTile (l : Nat) (h : Half) (s : State) : Bool :=
  match serving l s with
  | none => false
  | some p => decide (tileHalf p = h) && !fenced (tilePage p) s && !fenced (.cc h) s &&
      s.handles.all fun x => !x.tiles.contains l && !x.mirrors.contains p

/-- One free logical tile of the named half for each plan tile, in ascending order. -/
def assignTiles (s : State) : List Half → List Nat → Option (List Nat)
  | [], taken => some taken
  | h :: t, taken =>
    match ((List.range (activeTiles s)).filter fun l => freeTile l h s && !taken.contains l)[0]? with
    | some l => assignTiles s t (taken ++ [l])
    | none => none

/-- READ_SHARE granted in each half (R208). -/
def sharesHeld (s : State) : Nat × Nat :=
  (List.range 16).foldl (fun (a : Nat × Nat) i => match (rallyOf i s).handle with
    | none => a
    | some h => match (currentOf h s).bind fun v => planOf v s with
      | some p => (a.1 + p.shareN, a.2 + p.shareS)
      | none => a) (0, 0)

/-- Pages move to T1; none when T1 is full. -/
def evictPages : List Nat → State → Option State
  | [], s => some s
  | page :: t, s => match t1Any s with
    | none => none
    | some loc =>
      let h := homeOf page s
      evictPages t (modRange (dropCached page)
        (setHome page { h with tier := 1, loc := loc, version := (h.version + 1) % 4096 } s))

/-- Pages with quarters in a tile's new table frames move to T1; none when T1 is full (R257). -/
def evictTable (l frames : Nat) (s : State) : Option State := evictPages (tableVictims l frames s) s

/-- Replace the plan tile index of each successor entry of a template table by its logical number (R227). -/
def relinkTable (tiles : List Nat) (base count : Nat) (b : List Byte) : List Byte :=
  let lists := ((List.range count).map fun i =>
    let d := descOfBytes ((b.drop (base + 64 * i)).take 64)
    (d.succAddr.toNat, d.succCnt.toNat))
  let at' := (lists.flatMap fun x => (List.range x.2).map fun j => x.1 + 8 * j).eraseDups
  at'.foldl (fun b a =>
    let v := leNat ((b.drop a).take 2)
    if a + 8 ≤ b.length then b.take a ++ leBytes 2 (v / 1024 * 1024 + nth 0x3FF tiles (v % 1024)) ++ b.drop (a + 2) else b) b

/-- Load a plan tile's table frames, template registers and TBL_FRAMES. -/
def loadTable (p : Nat) (plan : Plan) (tiles : List Nat) (b : List Byte) (s : State) : State :=
  let b := relinkTable tiles (plan.tmplBase * 256) plan.tmplCount b
  let s := modTile p (fun t => { t with tblFrames := unitsOf 16384 b.length }) (sramWrite p 0 b s)
  s |> fset (tilePage p) Reg.TILE_TMPL_CFG_BASE plan.tmplBase |> fset (tilePage p) Reg.TILE_TMPL_CFG_COUNT plan.tmplCount

/-- Form a Sustained pair (R130). -/
def pair (p m : Nat) (s : State) : State :=
  s |> fset (tilePage p) Reg.TILE_MIRROR_MAP_PEER m |> fset (tilePage p) Reg.TILE_MIRROR_MAP_ROLE 0
    |> fset (tilePage p) Reg.TILE_MIRROR_MAP_LOST 0 |> fset (tilePage p) Reg.TILE_MIRROR_MAP_VALID 1
    |> fset (tilePage m) Reg.TILE_MIRROR_MAP_PEER p |> fset (tilePage m) Reg.TILE_MIRROR_MAP_ROLE 1
    |> fset (tilePage m) Reg.TILE_MIRROR_MAP_LOST 0 |> fset (tilePage m) Reg.TILE_MIRROR_MAP_VALID 1

/-! ### Bank loads (R60, R198, R209, R243) -/

/-- Base of a bank's table: bank A's at TBL_BASE, bank B's after one table of its configuration. -/
def tableBase (plan : Plan) (l : LayerRec) (bank : Bool) : Nat :=
  if bank then plan.tblBase + (32 * wfmtOutputs (BitVec.ofNat 2 l.cfg) + 255) / 256 else plan.tblBase

/-- BSEQ of plan tile i in chunk k (R209). -/
def bseqOf (plan : Plan) (chunk ptile : Nat) : Byte := BitVec.ofNat 8 (chunk * plan.ntiles + ptile)

/-- The row frames of a weight set for a logical tile and bank. -/
def bankRows (v : Version) (l : LayerRec) (wset lt : Nat) (bank : Bool) (bseq : Byte) (restore : Bool) (s : State) :
    List RowFrame :=
  match wsetCw v wset s with
  | none => []
  | some cw => (List.range 8).flatMap fun k =>
    let x := imageCw v (cw + k) s
    (List.range (l.rowsM1 + 1)).map fun r =>
      { ltile := BitVec.ofNat 10 lt, bank := bank, sub := Fin.ofNat 8 k, row := Fin.ofNat 128 r, bseq := bseq, poison := x.2,
        restore := restore, data := BitVec.ofNat 1024 (leNat ((x.1.drop (128 * r)).take 128)), sender := wscMid .north s }

/-- The scale frame of a weight set. -/
def bankScales (v : Version) (l : LayerRec) (wset lt : Nat) (bank : Bool) (s : State) : List ScaleFrame :=
  match sectionCw v 4 with
  | none => []
  | some cw =>
    let size := scaleBlockBytes l.cfg
    let off := l.scaleOff * 64 + (wset - l.firstWset) * size
    let bad := (List.range (unitsOf 16384 (off % 16384 + size))).any fun i => (imageCw v (cw + off / 16384 + i) s).2
    [{ ltile := BitVec.ofNat 10 lt, bank := bank, poison := bad, bytes := imageBytes v cw off size s, sender := wscMid .north s }]

/-- Issue the bank write of a weight-map entry into a bank of its tile and mirror, and send its rows and scales. -/
def loadBank (v : Version) (plan : Plan) (tiles : List Nat) (m : WMap) (bank : Bool) (s : State) : State :=
  match layerOf v m.wset s with
  | none => s
  | some l =>
    let lt := nth 0x3FF tiles m.ptile
    let s := (frameTiles lt s).foldl (fun s p =>
      let b := (tileOf p s).bank bank
      if b.st = .fenced ∨ fenced (tilePage p) s = true then s
      else startBankWrite p bank (BitVec.ofNat 16 m.wset) (BitVec.ofNat 16 v.epoch) (BitVec.ofNat 2 l.cfg)
        (BitVec.ofNat 2 (l.cfg / 4)) (l.rowsM1 + 1) (BitVec.ofNat 8 (tableBase plan l bank)) s) s
    let rows := bankRows v l m.wset lt bank (bseqOf plan m.chunk m.ptile) false s
    let scales := bankScales v l m.wset lt bank s
    { s with rowBus := s.rowBus ++ rows, scaleBus := s.scaleBus ++ scales }

/-- A bank holds a weight set under an epoch, READY with its scales. -/
def bankLoaded (v : Version) (tiles : List Nat) (m : WMap) (bank : Bool) (s : State) : Bool :=
  let ps := frameTiles (nth 0x3FF tiles m.ptile) s
  !ps.isEmpty && ps.all fun p =>
    let b := (tileOf p s).bank bank
    decide (b.st = .ready ∧ b.wset.toNat = m.wset ∧ b.mepoch.toNat = v.epoch % 65536) && scalesDone b

/-- The bank of a weight-map entry: where the plan puts it, or for a SHADOW_READY plan the bank in use. -/
def mapBank (plan : Plan) (inB : Bool) (m : WMap) : Bool := if bitsOf plan.flags 1 1 = 1 then inB else m.bank

/-! ### Activation -/

/-- Place a version: tables, pairs, and the banks of a resident plan or the context of a streamed one. -/
def place (v : Version) (plan : Plan) (tiles : List Nat) (mirrors : List Nat) (a : PlaceArgs) (ctx : Option Nat) (s : State) :
    State :=
  let h := v.handle
  let ps := (List.range plan.ntiles).zip tiles
  let s := ((List.range plan.ntiles).zip mirrors).foldl (fun s x => match serving (nth 0x3FF tiles x.1) s with
    | some p => pair p x.2 s
    | none => s) s
  let s := modHandle h (fun x => { x with tiles := tiles, mirrors := mirrors, sustained := !mirrors.isEmpty, shadowB := true }) s
  let s := ps.foldl (fun s x =>
    let b := ((a.tables.filter fun t => decide (t.1.toNat = x.1))[0]?.map fun t => t.2).getD []
    (frameTiles x.2 s).foldl (fun s p => loadTable p plan tiles b s) s) s
  let s := { s with packed := s.packed ++ packedOf v s }
  match ctx with
  | none => plan.wmap.foldl (fun s m => loadBank v plan tiles m (mapBank plan false m) s) s
  | some i =>
    let held := (List.range plan.chunks).filter fun k =>
      v.blocks.isEmpty || (chunkCwsOf v plan .north k s ++ chunkCwsOf v plan .south k s).any fun c =>
        decide (nth noPlace v.blocks c = noPlace)
    setRally i { handle := some h, home := nth Half.north plan.halves 0, buffer := a.buffer.toNat, inT1 := held } s

/-- Free pages become a handle's in T1; none when one is not free or T1 is full. -/
def takePages (h : Nat) : List Nat → State → Option State
  | [], s => some s
  | page :: t, s =>
    if (homeOf page s).st ≠ .free then none
    else match t1Any s with
      | none => none
      | some loc => takePages h t (setHome page
          { st := .homed, tier := 1, cls := 1, version := (homeOf page s).version, ownerKind := 3, taskWr := true, owner := h, loc := loc }
          (clearFlags page s))

/-- The pages of a rally buffer can be taken: device pages in T1. -/
def takeBuffer (h : Nat) (a : PlaceArgs) (s : State) : Option State :=
  takePages h ((List.range a.pages).map fun k => a.buffer.toNat / 65536 + k) s

/-- A STAGED image whose store room does not do keeps chunks in T1, from the last one down (R213). -/
def placePart : Nat → Version → State → Option (List Nat)
  | 0, _, _ => none
  | n + 1, v, s => match placeImage v n s with
    | some b => some b
    | none => placePart n v s

/-- Give a STAGED streamed version the blocks there are. -/
def storePart (v : Version) (plan : Plan) (s : State) : Version × State :=
  if v.st = 2 ∧ v.store = true ∧ v.blocks = [] ∧ plan.mode = 1 then
    match placePart plan.chunks v s with
    | some b =>
      let v := { v with blocks := b }
      (v, programAll v (setVersion v s))
    | none => (v, s)
  else (v, s)

/-- The version an ACTIVATE takes: the newest that may become current. -/
def activatable (h : Nat) (s : State) : Option Version :=
  (s.versions.filter fun v => decide (v.handle = h ∧ 2 ≤ v.st ∧ v.st ≤ 5) && !v.current).getLast?

/-- The tables of plan tiles leave room on their logical tiles. -/
def evictTables (a : PlaceArgs) : List (Nat × Nat) → State → Option State
  | [], s => some s
  | t :: l, s =>
    let b := ((a.tables.filter fun y => decide (y.1.toNat = t.1))[0]?.map fun y => y.2).getD []
    match evictTable t.2 (min 4 (unitsOf 16384 b.length)) s with
    | none => none
    | some s => evictTables a l s

/-- The tables leave room on every tile of a set. -/
def evictAll (tiles : List Nat) (a : PlaceArgs) (s : State) : Option State :=
  evictTables a ((List.range tiles.length).zip tiles) s

/-- Room for a placement: its tables' frames and its rally buffer. -/
def makeRoom (tiles : List Nat) (h : Nat) (a : PlaceArgs) (s : State) : Option State :=
  match evictAll tiles a s with
  | none => none
  | some s => takeBuffer h a s

/-- ACTIVATE past its first checks. -/
def activate (h : HandleSt) (sustained : Bool) (a : PlaceArgs) (s : State) : CmdEnd :=
  match currentOf h.index s, activatable h.index s with
  | some _, _ | _, none => refuse 0x0048 s
  | none, some v =>
    if mayRun v = false then refuse 0x0048 s
    else if v.unsigned ∧ normalService s = true then refuse 0x004C s
    else match planOf v s with
      | none => refuse 0x0047 s
      | some plan =>
        if sustained ∧ bitsOf plan.flags 0 1 = 0 then refuse 0x0047 s
        else match assignTiles s plan.halves [] with
          | none => refuse 0x0053 s
          | some tiles =>
            let twins := if sustained then assignTiles s (plan.halves.map Half.other) tiles else some tiles
            match twins with
            | none => refuse 0x0053 s
            | some all =>
              let mirrors := (all.drop tiles.length).filterMap fun l => serving l s
              let shares := sharesHeld s
              let full := decide (plan.mode = 1 ∧ (256 < shares.1 + plan.shareN ∨ 256 < shares.2 + plan.shareS ∨ freeRallyCtx s = none))
              if full then refuse 0x0053 s
              else match makeRoom tiles h.index a s with
              | none => refuse 0x0053 s
              | some s =>
                let vs := storePart v plan s
                let v := { vs.1 with current := true }
                let ctx := if plan.mode = 1 then freeRallyCtx vs.2 else none
                let s := place v plan tiles mirrors a ctx (setState v 6 vs.2)
                { status := 0, epoch := v.epoch, s := modHandle h.index (fun x => { x with placed := some (sustained, a) }) s }

/-- ACTIVATE (R227, R234). -/
def execActivate (env : Env) (handle : W16) (sustained : Bool) (place : PlaceArgs) (s : State) :
    Host.Outcome State Fault Refusal :=
  .next (onHandle env (.activate env handle sustained place) 0x11 handle (fun h s => activate h sustained place s) s)

/-! ## REPLACE (R241 to R246) -/

/-- The incoming version becomes ACTIVE and current, the former current one RETIRING, with its pin window. -/
def switchVersions (h : Nat) (pinMs : Nat) (s : State) : State :=
  match currentOf h s, otherOf h s with
  | some c, some o =>
    let pin := if 0 < pinMs then some (s.timer + pinMs * 62500) else none
    setState { c with current := false, pinUntil := pin } 7 (setState { o with current := true } 6 s)
  | _, _ => s

/-- The end of a REPLACE: the switch is made, the replacement is over, the reply goes. -/
def replaced (h : HandleSt) (s : State) : State :=
  let epoch := ((otherOf h.index s).map fun v => v.epoch).getD 0
  let s := switchVersions h.index (if h.repl = 1 then h.pinMs else 0) s
  let s := modHandle h.index (fun x => { x with repl := 0, env := none, shadowB := if h.repl = 1 then !x.shadowB else x.shadowB }) s
  let s := match h.env with
    | some env => reply env 0x12 0 h.index epoch s
    | none => s
  if h.huddle then openHuddle h.index s else s

/-- Tenths of the read rate of a half: 1.0 TB/s from four weight dies, 0.75 TB/s from three (R4, R25). -/
def refillNs (bytes : Nat) (s : State) : Nat := bytes * 4 / (1000 * sizeEntry s 4 3 4)

/-- The bound of R245 in ns, without the longest run time. -/
def rewriteNs (v : Version) (plan : Plan) (s : State) : Nat :=
  (layers v s).foldl (fun n l =>
    let sets := fun (h : Half) => (plan.wmap.filter fun m =>
      decide (l.firstWset ≤ m.wset ∧ m.wset < l.firstWset + l.nwset ∧ nth Half.north plan.halves m.ptile = h)).length
    n + refillNs (max (sets .north) (sets .south) * 131072) s) 1000

/-- Longest T_RUN_US of an image. -/
def longestRun (v : Version) (s : State) : Nat := (entries v s).foldl (fun n e => max n e.tRunUs) 0

/-- The mode that R242 carries out: 1 shadow, 2 in place, 3 streamed; or the status. -/
def replaceMode (h : HandleSt) (plan : Plan) (mode : Nat) : Except W16 Nat :=
  if mode = 1 ∧ h.sustained = true then .error 0x0052
  else if plan.mode = 1 then (if mode = 1 then .error 0x0048 else .ok 3)
  else if mode = 2 then .error 0x0048
  else if mode = 0 then (if bitsOf plan.flags 1 1 = 1 then .ok 1 else .error 0x0048)
  else .ok 2

/-- A streamed replacement takes effect at once; a FORMING rally that has begun takes no further members (R246). -/
def streamedSwitch (h : HandleSt) (s : State) : State :=
  let s := switchVersions h.index 0 s
  match ctxOfHandle h.index s with
  | none => s
  | some i =>
    let c := rallyOf i s
    if c.forming.begun ≠ none then setRally i { c with forming := { c.forming with closed := true } } s else s

/-- REPLACE past its first checks. -/
def startReplace (env : Env) (h : HandleSt) (mode hold pin : Nat) (s : State) : CmdEnd :=
  if 2 < mode ∨ 10000 < pin then refuse 0x0041 s
  else match currentOf h.index s, otherOf h.index s with
  | some c, some o =>
    if c.st ≠ 6 ∨ ¬(2 ≤ o.st ∧ o.st ≤ 5) ∨ mayRun o = false then refuse 0x0048 s
    else if o.unsigned ∧ normalService s = true then refuse 0x004C s
    else if o.incompatible ∨ compatible o c s = false then refuse 0x004A s
    else match planOf c s with
      | none => refuse 0x0047 s
      | some plan => match replaceMode h plan mode with
        | .error st => refuse st s
        | .ok m =>
          if m = 3 then { status := 0, epoch := o.epoch, s := streamedSwitch h s }
          else if m = 2 ∧ hold * 1000 < longestRun c s * 1000 + rewriteNs c plan s then refuse 0x004B s
          else
            let s := modHandle h.index (fun x => { x with repl := m, env := some env, pinMs := pin, huddle := decide (m = 2), layer := 0 }) s
            let s := if m = 1 then plan.wmap.foldl (fun s e => loadBank o plan h.tiles e h.shadowB s) s else s
            { status := 0, epoch := o.epoch, s := s, later := true }
  | _, _ => refuse 0x0048 s

/-- REPLACE (R241 to R246). -/
def execReplace (env : Env) (handle : W16) (mode : Byte) (holdUs : W32) (pinMs : W16) (s : State) :
    Host.Outcome State Fault Refusal :=
  .next (onHandle env (.replace env handle mode holdUs pinMs) 0x12 handle
    (fun h s => startReplace env h mode.toNat holdUs.toNat pinMs.toNat s) s)

/-- SHADOW_SWITCH (R243): every shadow bank is READY with its scales. -/
def execShadowSwitch (handle : BitVec 10) (s : State) : Host.Outcome State Fault Refusal :=
  match handleSt handle.toNat s with
  | none => .next s
  | some h =>
    match otherOf h.index s, (currentOf h.index s).bind fun c => planOf c s with
    | some o, some plan =>
      if h.repl = 1 ∧ plan.wmap.all (fun m => bankLoaded o h.tiles m h.shadowB s) then .next (replaced h s) else .next s
    | _, _ => .next s

/-- PIN_WINDOW_EXPIRE (R243). -/
def execPinWindowExpire (handle : BitVec 10) (s : State) : Host.Outcome State Fault Refusal :=
  match (s.versions.filter fun v => decide (v.handle = handle.toNat ∧ v.pinUntil ≠ none))[0]? with
  | none => .next s
  | some v => .next (setVersion { v with pinUntil := none } (reach (v.pinUntil.getD 0) s))

/-! ### The rewrite wave (R244) -/

/-- Logical tiles and templates of a request's live tasks: entries of its tiles, messages and signals under way. -/
def liveTasks (r : Req) (s : State) : List (Nat × Nat) :=
  let mine := fun (c : BitVec 9) (q : W32) => decide (c.toNat = r.chan ∧ q = r.seq)
  let onTiles := (setTiles r.handle s).flatMap fun p =>
    ((tileOf p s).deque.filter fun e => mine e.d.channel e.d.seq).map (fun e => (logicalOf p s, e.d.tmpl.toNat)) ++
      ((tileOf p s).spill.filter fun g => mine g.req.channel g.req.seq).map fun g => (logicalOf p s, g.tmpl.toNat)
  let moving := s.mesh.filterMap fun m => match m with
    | .signal _ g | .signalBack g => if mine g.req.channel g.req.seq then some (g.ltile.toNat, g.tmpl.toNat) else none
    | .post p d _ _ | .grant p _ d _ => if mine d.channel d.seq then some (logicalOf p s, d.tmpl.toNat) else none
    | _ => none
  onTiles ++ moving

/-- Successors of a template on the tile that serves a number. -/
def nextTasks (x : Nat × Nat) (s : State) : List (Nat × Nat) :=
  match serving x.1 s with
  | none => []
  | some p => match templateAt p (BitVec.ofNat 16 x.2) s with
    | none => []
    | some d => (successors p d s).map fun g => (g.ltile.toNat, g.tmpl.toNat)

/-- Every template that tasks can still lead to. -/
def reachTasks : Nat → List (Nat × Nat) → List (Nat × Nat) → State → List (Nat × Nat)
  | 0, _, seen, _ => seen
  | _ + 1, [], seen, _ => seen
  | n + 1, x :: t, seen, s => if seen.contains x then reachTasks n t seen s else reachTasks n (nextTasks x s ++ t) (x :: seen) s

/-- A request has passed layers 0 to L (R225): no task of those layers lives or can still come. -/
def passed (r : Req) (ls : List LayerRec) (s : State) : Bool :=
  match r.st with
  | .held | .transfer => true
  | .copying | .queued | .rally => false
  | .running => (reachTasks 1048576 (liveTasks r s) [] s).all fun x =>
      ls.all fun l => decide (x.2 < l.firstTmpl ∨ l.firstTmpl + l.ntmpl ≤ x.2)

/-- Weight-map entries of a layer. -/
def layerMap (plan : Plan) (l : LayerRec) : List WMap :=
  plan.wmap.filter fun m => decide (l.firstWset ≤ m.wset ∧ m.wset < l.firstWset + l.nwset)

/-- The writes of the layers so far have completed. -/
def layersReady (o : Version) (h : HandleSt) (plan : Plan) (ls : List LayerRec) (s : State) : Bool :=
  ls.all fun l => (layerMap plan l).all fun m => bankLoaded o h.tiles m (mapBank plan (!h.shadowB) m) s

/-- HUDDLE_LAYER_REWRITE (R244). -/
def execHuddleLayerRewrite (handle : BitVec 10) (s : State) : Host.Outcome State Fault Refusal :=
  match handleSt handle.toNat s with
  | none => .next s
  | some h =>
    match currentOf h.index s, otherOf h.index s with
    | some c, some o =>
      let ls := layers c s
      match planOf c s, ls[h.layer]? with
      | some plan, some l =>
        let through := (s.reqs.filter fun r => decide (r.handle = h.index)).all fun r => passed r (ls.take (h.layer + 1)) s
        if h.repl = 2 ∧ h.huddle = true ∧ through = true ∧ layersReady o h plan (ls.take h.layer) s = true then
          let s := (layerMap plan l).foldl (fun s m => loadBank o plan h.tiles m (mapBank plan (!h.shadowB) m) s) s
          .next (modHandle h.index (fun x => { x with layer := h.layer + 1 }) s)
        else .next s
      | _, _ => .next s
    | _, _ => .next s

/-- HUDDLE_SWITCH (R244): the last layer is READY. -/
def execHuddleSwitch (handle : BitVec 10) (s : State) : Host.Outcome State Fault Refusal :=
  match handleSt handle.toNat s with
  | none => .next s
  | some h =>
    match currentOf h.index s, otherOf h.index s with
    | some c, some o =>
      match planOf c s with
      | some plan =>
        let ls := layers c s
        if h.repl = 2 ∧ h.layer = ls.length ∧ layersReady o h plan ls s = true then .next (replaced h s) else .next s
      | none => .next s
    | _, _ => .next s

/-! ## RETIRE, SOURCE_RELEASE, revocation (R233, R239, R247) -/

/-- RETIRE past its first checks: an ACTIVE version goes to RETIRING, and on when nothing refers to it; one that has not
been ACTIVE goes to RETIRED, a FETCH under way ending with it. -/
def retire (h : HandleSt) (which : Nat) (s : State) : CmdEnd :=
  match whichVersion h.index which s with
  | none => refuse 0x0048 s
  | some v =>
    if v.st = 6 then
      let s := setState v 7 s
      { status := 0, epoch := v.epoch, s := if referenced v s then s else retireNow { v with st := 7 } s }
    else if v.st = 1 then { status := 0, epoch := v.epoch, s := fetchFail v 0x0045 s }
    else if v.st < 6 then { status := 0, epoch := v.epoch, s := retireNow v s }
    else refuse 0x0048 s

/-- RETIRE (R247). -/
def execRetire (env : Env) (handle : W16) (which : Byte) (s : State) : Host.Outcome State Fault Refusal :=
  .next (onHandle env (.retire env handle which) 0x14 handle (fun h s => retire h which.toNat s) s)

/-- SOURCE_RELEASE past its first checks: the kept T1 copy of a stored and verified version, and the source reference. -/
def sourceRelease (h : HandleSt) (which : Nat) (s : State) : CmdEnd :=
  match whichVersion h.index which s with
  | none => refuse 0x0048 s
  | some v =>
    if v.st = 1 ∨ v.st = 8 then refuse 0x0048 s
    else
      let v := { v with keepT1 := false, hasSource := false }
      let v := if v.blocks ≠ [] ∧ v.verified.length = v.chunks then dropT1 v else v
      { status := 0, epoch := v.epoch, s := setVersion v s }

/-- SOURCE_RELEASE (R239). -/
def execSourceRelease (env : Env) (handle : W16) (which : Byte) (s : State) : Host.Outcome State Fault Refusal :=
  .next (onHandle env (.sourceRelease env handle which) 0x15 handle (fun h s => sourceRelease h which.toNat s) s)

/-- VERSION_RETIRED (R247): the RETIRING versions of a handle that nothing refers to. -/
def execVersionRetired (handle : BitVec 10) (s : State) : Host.Outcome State Fault Refusal :=
  match (s.versions.filter fun v => decide (v.handle = handle.toNat ∧ v.st = 7))[0]? with
  | some v => .next (if referenced v s then s else retireNow v s)
  | none => .next s

/-- A replacement whose versions are no longer there to switch ends with a status. -/
def dropReplace (h : Nat) (st : W16) (s : State) : State :=
  match handleSt h s with
  | none => s
  | some x =>
    if x.repl = 0 then s
    else
      let s := modHandle h (fun x => { x with repl := 0, env := none, err := st }) s
      let s := match x.env with
        | some env => reply env 0x12 st h 0 s
        | none => s
      if x.huddle then openHuddle h s else s

/-- IMG_REVOKED (R233): every version signed under a programmed REVOKE slot becomes RETIRING; a FETCH of one ends. -/
def execImgRevoked (slot : Fin 8) (s : State) : Host.Outcome State Fault Refusal :=
  if idWritten (16 + slot.val) s = false then .next s
  else
    let vs := s.versions.filter fun v => decide (v.keySlot = slot.val ∧ v.st < 8) && !v.unsigned && !v.revoked
    let one := fun (s : State) (v : Version) =>
      let s := if v.st = 1 then reply v.env 0x10 0x004F v.handle v.epoch s else s
      dropReplace v.handle 0x004F (setState { v with revoked := true } 7 s)
    .next (raiseCcs 19 (vs.foldl one s))

/-! ## Upkeep (R248, R249) -/

/-- Move the code words that a version holds in a block to another block. -/
def moveBlock (old new : Nat) (v : Version) (s : State) : State :=
  let cws := (List.range v.blocks.length).filter fun i => decide (nth noPlace v.blocks i ≠ noPlace ∧ blockOf (nth noPlace v.blocks i) = old)
  if cws.isEmpty then s
  else
    let s := cws.foldl (fun s i =>
      let c := imageCw v i s
      if c.2 then s else setCw (new * 256 + nth 0 v.blocks i % 256) (some c.1) s) s
    setVersion { v with blocks := v.blocks.map fun c => if c ≠ noPlace ∧ blockOf c = old then new * 256 + c % 256 else c } s

/-- The code words of a block are read from their own place again (R218). -/
def remapDone (old : Nat) (s : State) : State :=
  (List.range 16).foldl (fun s i =>
    let c := rallyOf i s
    let n := (c.second.filter fun x => decide (blockOf x = old)).length
    if n = 0 then s
    else setRally i { c with second := c.second.filter (fun x => decide (blockOf x ≠ old)), remaps := satAdd 16 c.remaps n } s) s

/-- BLOCK_RELOCATE (R248): a block that a version holds into a free block of the pool. -/
def execBlockRelocate (old : BitVec 25) (new : BitVec 25) (s : State) : Host.Outcome State Fault Refusal :=
  let o := blockOf old.toNat
  let n := blockOf new.toNat
  let held := blocksHeld s
  let ok := held.contains o && dieServes (dieOf new.toNat) s && !planeFenced (planeOf new.toNat) s &&
    (freeBlocks held (planeOf new.toNat) s).contains n && decide (planeOf new.toNat % 256 < 192)
  if ok = false then .next s
  else
    let vs := s.versions.filter fun v => v.blocks.any fun c => decide (c ≠ noPlace ∧ blockOf c = o)
    let s := vs.foldl (fun s v => modHandle v.handle (fun x => { x with reloc := satAdd 16 x.reloc 1 }) (moveBlock o n v s)) s
    .next (remapDone o (clearBlock o s))

/-- RELOCATE past its first checks: every block of the current version is programmed afresh. -/
def relocate (h : HandleSt) (s : State) : CmdEnd :=
  match currentOf h.index s with
  | none => refuse 0x0048 s
  | some v =>
    if v.blocks = [] then refuse 0x0048 s
    else match placeImage v v.totalCw s with
      | none => refuse 0x0046 s
      | some bs =>
        let n := ((v.blocks.filter fun c => decide (c ≠ noPlace)).map blockOf).eraseDups
        let s := (List.range v.totalCw).foldl (fun s i =>
          let c := imageCw v i s
          if c.2 then s else setCw (nth noPlace bs i) (some c.1) s) s
        let s := eraseBlocks v.blocks (setVersion { v with blocks := bs } s)
        let s := n.foldl (fun s b => remapDone b s) s
        { status := 0, epoch := v.epoch, s := modHandle h.index (fun x => { x with reloc := satAdd 16 x.reloc n.length }) s }

/-- RELOCATE (R248). -/
def execRelocate (env : Env) (handle : W16) (s : State) : Host.Outcome State Fault Refusal :=
  .next (onHandle env (.relocate env handle) 0x13 handle relocate s)

/-- IMG_DAMAGED (R249): with no T1 copy, and the source released or failed three times. -/
def execImgDamaged (handle : BitVec 10) (epoch : W32) (s : State) : Host.Outcome State Fault Refusal :=
  match versionOf handle.toNat epoch.toNat s with
  | none => .next s
  | some v =>
    if 2 ≤ v.st ∧ v.st ≤ 7 ∧ v.t1 = [] ∧ (v.hasSource = false ∨ v.fails.any (fun f => decide (3 ≤ f.2)) = true) then
      .next (raiseCcs 17 (setVersion { v with damaged := true } s))
    else .next s

/-! ## Adapters (R250) -/

/-- A page of an adapter: owned by the function or by one of its channels, in T0 or T1. -/
def adapterPage (mid : W16) (addr : Nat) (s : State) : Bool :=
  let h := homeOf (addr / 65536) s
  decide (h.st ≠ .free ∧ h.tier < 2 ∧ addr / 2 ^ 48 = 0) && mayAccess (.host mid) true h s

/-- The channel holds a Sustained reservation. -/
def sustainedChan (c : Nat) (s : State) : Bool :=
  match (chanOf c s).resv with
  | some r => decide (r.cls = 0)
  | none => false

/-- The version that a binding is checked against: the current one, or the newest there is. -/
def bindVersion (h : Nat) (s : State) : Option Version :=
  match currentOf h s with
  | some v => some v
  | none => (s.versions.filter fun v => decide (v.handle = h ∧ 2 ≤ v.st ∧ v.st < 8)).getLast?

/-- A bind or unbind of the function that owns the channel. -/
def onBinding (env : Env) (i : Instr) (op : Nat) (channel handle : W16) (f : Version → State → CmdEnd) (s : State) : State :=
  byLeader env i (fun s =>
    let h := handle.toNat
    let c := channel.toNat
    finish env op h (
      if 512 ≤ c ∨ chanValid c s = false ∨ chanMid c s ≠ env.mid then refuse 0x0050 s
      else match handleSt h s, bindVersion h s with
        | some x, some v => if x.repl ≠ 0 then refuse 0x0049 s else f v s
        | _, _ => refuse 0x0048 s)) s

/-- ADAPTER_BIND past its first checks. -/
def bind (mid : W16) (a : BindArgs) (v : Version) (s : State) : CmdEnd :=
  let c := a.channel.toNat
  let t := a.tuneRef.toNat
  match ((slotRecs v s).filter fun r => decide (r.slot = a.slot.toNat))[0]? with
  | none => refuse 0x0041 s
  | some r =>
    if a.rank.toNat = 0 ∨ r.rankMax < a.rank.toNat then refuse 0x0041 s
    else if t ≠ 0 ∧ (r.flags % 2 = 0 ∨ sustainedChan c s = true) then refuse 0x0041 s
    else if (adapterPage mid a.aRef.toNat s && adapterPage mid a.bRef.toNat s && (decide (t = 0) || adapterPage mid t s)) = false then
      refuse 0x0064 s
    else
      let rest := s.bindings.filter fun b => !decide (b.chan = c ∧ b.handle = v.handle ∧ b.slot = a.slot.toNat)
      if 16 ≤ (rest.filter fun b => decide (b.chan = c)).length ∨ 4096 ≤ rest.length then refuse 0x0046 s
      else
        let b : Binding := { chan := c, handle := v.handle, slot := a.slot.toNat, rank := a.rank.toNat, aRef := a.aRef.toNat,
                             bRef := a.bRef.toNat, alpha := a.alpha, tuneRef := t }
        { status := 0, epoch := v.epoch, s := { s with bindings := rest ++ [b] } }

/-- ADAPTER_BIND (R250). -/
def execAdapterBind (env : Env) (a : BindArgs) (s : State) : Host.Outcome State Fault Refusal :=
  .next (onBinding env (.adapterBind env a) 0x16 a.channel a.handle (fun v s => bind env.mid a v s) s)

/-- ADAPTER_UNBIND past its first checks. -/
def unbind (channel : Nat) (slot : Nat) (v : Version) (s : State) : CmdEnd :=
  let mine := fun (b : Binding) => decide (b.chan = channel ∧ b.handle = v.handle ∧ b.slot = slot)
  if s.bindings.any mine then
    { status := 0, epoch := v.epoch, s := { s with bindings := s.bindings.filter fun b => !mine b } }
  else refuse 0x0051 s

/-- ADAPTER_UNBIND (R250). -/
def execAdapterUnbind (env : Env) (channel : W16) (handle : W16) (slot : Byte) (s : State) :
    Host.Outcome State Fault Refusal :=
  .next (onBinding env (.adapterUnbind env channel handle slot) 0x17 channel handle
    (fun v s => unbind channel.toNat slot.toNat v s) s)

end Sys2Proof.Machine
end

