-- ==== Sys2Proof/Machine/Rally.lean ====
section
/-! DEFINITION. Rallies of streamed instances (chapter 8), and the TASK_END and returned-signal messages by which the
control complexes count a request's tasks (chapter 6). -/

namespace Sys2Proof.Machine

/-! ## What a rally is made of -/

/-- The plan of a context's instance and the version of an epoch. -/
def rallyPlan (c : RallyCtx) (epoch : Nat) (s : State) : Option (Version × Plan) :=
  (c.handle.bind fun h => versionOf h epoch s).bind fun v => (planOf v s).map fun p => (v, p)

/-- The plan of the current version. -/
def currentPlan (c : RallyCtx) (s : State) : Option (Version × Plan) :=
  (c.handle.bind fun h => currentOf h s).bind fun v => (planOf v s).map fun p => (v, p)

/-- The member that gives the rally's tasks their CHANNEL and SEQ: the one in the lowest slot (R202). -/
def lead (r : Rally) : Option Member :=
  r.members.foldl (fun b m => match b with
    | none => some m
    | some x => if m.slot < x.slot then some m else some x) none

/-- The request of a member. -/
def memberReq (m : Member) (s : State) : Option Req := reqAt m.chan m.seq s

/-- The requests of a rally's members. -/
def memberReqs (r : Rally) (s : State) : List Req := r.members.filterMap fun m => memberReq m s

/-- The request fields of a rally's tasks (R202). Without any deadline the tasks of a Sustained instance, which NODL does
not fit (R136), take a free value. -/
def rallyFields (c : RallyCtx) (r : Rally) (sustained : Bool) (s : State) : ReqFields × State :=
  let rs := memberReqs r s
  let cls : Nat := if sustained then 0 else if rs.any (fun x => decide (x.cls = 1)) then 1 else 2
  let ds := (rs.filter fun x => !x.nodl).map fun x => x.deadline
  let first := ds.foldl (fun b d => match b with
    | none => some d
    | some y => some (min y d)) (none : Option Nat)
  let free := decide (first = none ∧ cls ≠ 2)
  let l := (lead r).getD ⟨0, 0, 0⟩
  ({ cls := BitVec.ofNat 2 cls, nodl := decide (first = none ∧ cls = 2),
     deadline := if free then Config.freeWord s.free else BitVec.ofNat 32 (first.getD 0), channel := BitVec.ofNat 9 l.chan,
     cch := ccFor c.home s, seq := l.seq, mepoch := BitVec.ofNat 16 (r.begun.getD 0), reqBase := BitVec.ofNat 48 c.buffer },
   if free then draw s else s)

/-- Weight-map entries of a chunk. -/
def chunkMap (p : Plan) (k : Nat) : List WMap := p.wmap.filter fun m => decide (m.chunk = k)

/-- Logical tiles of an instance. -/
def rallyTiles (c : RallyCtx) (s : State) : List Nat :=
  ((c.handle.bind fun h => handleSt h s).map fun h => h.tiles).getD []

/-- Issue the bank writes of a chunk into a bank. -/
def loadChunk (c : RallyCtx) (epoch k : Nat) (bank : Bool) (s : State) : State :=
  match rallyPlan c epoch s with
  | none => s
  | some x => (chunkMap x.2 k).foldl (fun s m => loadBank x.1 x.2 (rallyTiles c s) m bank s) s

/-! ## The beginning of a rally (R204, R221, R246) -/

/-- A member takes the stamp of its rally; a PIN on another epoch leaves with EPOCH_GONE. -/
def stampMember (epoch : Nat) (m : Member) (s : State) : Option Member × State :=
  match memberReq m s with
  | none => (none, s)
  | some r =>
    if r.policy = 1 ∧ r.pinEpoch ≠ epoch then (none, complete r 0x004E s)
    else (some m, setReq { r with epoch := epoch } s)

/-- Every member is stamped. -/
def stampAll (epoch : Nat) (ms : List Member) (s : State) : List Member × State :=
  ms.foldl (fun a m =>
    let r := stampMember epoch m a.2
    (a.1 ++ r.1.toList, r.2)) ([], s)

/-- The FORMING rally begins: the writes of its chunk 0 are issued under the current epoch. Without an ACTIVE version its
members complete IMG_NOT_ACTIVE. -/
def beginForming (i : Nat) (s : State) : State :=
  let c := rallyOf i s
  match c.handle.bind fun h => currentOf h s with
  | none => s
  | some v =>
    if c.forming.begun ≠ none then s
    else if v.st ≠ 6 then
      let s := (memberReqs c.forming s).foldl (fun s r => complete r 0x004D s) s
      setRally i { rallyOf i s with forming := {} } s
    else
      let r := stampAll v.epoch c.forming.members s
      let c := { c with forming := { c.forming with members := r.1, begun := some v.epoch } }
      loadChunk c v.epoch 0 (!c.bank) (setRally i c r.2)

/-! ## Joins (R201) -/

/-- A request that waits for a rally of a context and is no member yet. -/
def mayJoin (c : RallyCtx) (chan : Nat) (seq : W32) (s : State) : Option Req :=
  let member := fun (r : Rally) => r.members.any fun m => decide (m.chan = chan ∧ m.seq = seq)
  match reqAt chan seq s with
  | none => none
  | some r =>
    if r.st = .rally ∧ c.handle = some r.handle ∧ member c.forming = false ∧ (c.running.map member).getD false = false
    then some r else none

/-- The lowest free slot. -/
def freeSlot (bMax : Nat) (ms : List Member) : Option Nat :=
  ((List.range bMax).filter fun i => !ms.any fun m => decide (m.slot = i))[0]?

/-- RALLY_JOIN (R201, R246): into the lowest free slot of the FORMING rally, or the request goes on waiting. -/
def execRallyJoin (ctx : Fin 16) (chan : Fin 512) (seq : W32) (s : State) : Host.Outcome State Fault Refusal :=
  let c := rallyOf ctx.val s
  match mayJoin c chan.val seq s, currentPlan c s with
  | some r, some x =>
    match (if c.forming.closed then none else freeSlot x.2.bMax c.forming.members) with
    | none => .next s
    | some slot =>
      let m : Member := ⟨slot, chan.val, seq⟩
      let first := if c.forming.members.isEmpty then s.timer else c.forming.firstAt
      let c := { c with forming := { c.forming with members := c.forming.members ++ [m], firstAt := first } }
      match c.forming.begun with
      | some e =>
        if r.policy = 1 ∧ r.pinEpoch ≠ e then .next (complete r 0x004E s)
        else .next (setRally ctx.val c (setReq { r with epoch := e } s))
      | none =>
        let s := setRally ctx.val c s
        .next (if c.running = none then beginForming ctx.val s else s)
  | _, _ => .next s

/-- RALLY_GATHER_EXPIRE (R201). -/
def execRallyGatherExpire (ctx : Fin 16) (s : State) : Host.Outcome State Fault Refusal :=
  let c := rallyOf ctx.val s
  match currentPlan c s with
  | some x =>
    if c.forming.members.isEmpty ∨ c.forming.gathered = true then .next s
    else
      let s := reach (c.forming.firstAt + ticks x.2.gatherUs) s
      .next (setRally ctx.val { c with forming := { c.forming with gathered := true } } s)
  | none => .next s

/-! ## Flips (R203, R204, R217) -/

/-- A descriptor is a CIM task of a chunk of the instance. -/
def chunkTask (p : Plan) (k : Nat) (d : Desc) : Bool :=
  decide (d.kind = 0) && (chunkMap p k).any fun m => decide (m.wset = d.wset.toNat)

/-- Every CIM task of chunk k of the rally has ended: no entry of the set's tiles and no signal under way is one. -/
def chunkEnded (p : Plan) (k : Nat) (f : Member) (tiles : List Nat) (s : State) : Bool :=
  let mine := fun (c : BitVec 9) (q : W32) => decide (c.toNat = f.chan ∧ q = f.seq)
  (tiles.all fun l => match serving l s with
    | none => true
    | some t => (tileOf t s).deque.all fun e => !(mine e.d.channel e.d.seq && chunkTask p k e.d)) &&
  s.mesh.all fun m => match m with
    | .signal t g => !(mine g.req.channel g.req.seq && match templateAt t g.tmpl s with
        | some d => chunkTask p k d
        | none => false)
    | .post _ d _ _ => !(mine d.channel d.seq && chunkTask p k d)
    | _ => true

/-- Every bank of chunk k is READY with its scales, or skewed (R204, R211); mirrors too. -/
def chunkReady (p : Plan) (k epoch : Nat) (bank : Bool) (tiles : List Nat) (s : State) : Bool :=
  (chunkMap p k).all fun m =>
    let ps := frameTiles (nth 0x3FF tiles m.ptile) s
    !ps.isEmpty && ps.all fun t =>
      let b := (tileOf t s).bank bank
      decide (b.st = .ready ∧ b.wset.toNat = m.wset ∧ b.mepoch.toNat = epoch % 65536) && (scalesDone b || b.skewed)

/-- No tile of the set is fenced. -/
def setWhole (tiles : List Nat) (s : State) : Bool :=
  tiles.all fun l => match serving l s with
    | some p => !fenced (tilePage p) s
    | none => false

/-- Some row of chunk k still awaits a RESTORE from a second source (R216, R217). -/
def awaitsRestore (v : Version) (sustained : Bool) (p : Plan) (k : Nat) (bank : Bool) (tiles : List Nat) (s : State) : Bool :=
  (sustained || decide (v.t1 ≠ []) || v.hasSource) &&
    (chunkMap p k).any fun m => (frameTiles (nth 0x3FF tiles m.ptile) s).any fun t =>
      ((tileOf t s).bank bank).mem.any fun r => match r.2 with
        | some w => w.poison
        | none => false

/-- FLIP signals to every CIM template of chunk k on every tile of the set (R203). -/
def sendFlips (p : Plan) (k : Nat) (tiles : List Nat) (f : ReqFields) (s : State) : State :=
  tiles.foldl (fun s l => match serving l s with
    | none => s
    | some t =>
      ((List.range (fget (tilePage t) Reg.TILE_TMPL_CFG_COUNT s)).filter fun i =>
        match templateAt t (BitVec.ofNat 16 i) s with
        | some d => chunkTask p k d
        | none => false).foldl
        (fun s i => sendSignal { ltile := BitVec.ofNat 10 l, tmpl := BitVec.ofNat 16 i, req := f } s) s) s

/-- Gates that hold frames for tiles of a set open (R200, R204). -/
def openGates (tiles : List Nat) (s : State) : State :=
  let gs := (s.ws.gated.filter fun g => match g.frame with
    | .inl f => tiles.contains f.ltile.toNat
    | .inr f => tiles.contains f.ltile.toNat).map fun g => (g.half, g.gate)
  gs.eraseDups.foldl (fun s g => openGate g.1 g.2 s) s

/-- Skewed banks of a chunk are counted; a tile skewed in two rallies running sends the chunk's scales to the weight-store
copy, and a skew from that copy marks the image damaged (R211, R212). -/
def countSkews (i : Nat) (v : Version) (p : Plan) (k : Nat) (bank : Bool) (s : State) : State :=
  let c := rallyOf i s
  let tiles := rallyTiles c s
  let bad := ((chunkMap p k).filter fun m => (frameTiles (nth 0x3FF tiles m.ptile) s).any fun t =>
    ((tileOf t s).bank bank).skewed).map fun m => (k, nth 0x3FF tiles m.ptile)
  if bad.isEmpty then s
  else
    let again := bad.any fun b => c.skewLast.contains b
    let s := if c.storeScales.contains k then raiseCcs 17 (setVersion { v with damaged := true } s) else s
    setRally i { c with skews := satAdd 16 c.skews bad.length, skewNow := c.skewNow ++ bad,
                        storeScales := if again ∧ ¬ c.storeScales.contains k then c.storeScales ++ [k] else c.storeScales } s

/-- The flip of the rally `r` to chunk k: signals, the writes of the next chunk, gates; at chunk C − 1 the FORMING rally
begins. -/
def doFlip (i : Nat) (r : Rally) (k : Nat) (v : Version) (p : Plan) (sustained : Bool) (computeNs refillNs : Nat) (s : State) :
    State :=
  let c := rallyOf i s
  let bank := !c.bank
  let tiles := rallyTiles c s
  let s := countSkews i v p k bank s
  let c := rallyOf i s
  let c := { c with running := some { r with chunk := k }, bank := bank, holdAt := none,
                    periodNs := max computeNs refillNs % 2 ^ 24,
                    stalls := if computeNs < refillNs then (c.stalls + 1) % 2 ^ 32 else c.stalls }
  let s := setRally i c s
  let f := rallyFields c r sustained s
  let s := sendFlips p k tiles f.1 f.2
  let s := if k + 1 < p.chunks then loadChunk c v.epoch (k + 1) (!bank) s else s
  let s := openGates tiles s
  if k + 1 = p.chunks then beginForming i s else s

/-- Which rally flips next and to which chunk: the RUNNING one, or a full or gathered FORMING one. -/
def nextFlip (c : RallyCtx) (p : Plan) : Option (Rally × Nat) :=
  match c.running with
  | some r => if r.chunk + 1 < p.chunks then some (r, r.chunk + 1) else none
  | none =>
    if c.forming.begun ≠ none ∧ c.forming.members ≠ [] ∧ (c.forming.members.length = p.bMax ∨ c.forming.gathered = true)
    then some (c.forming, 0) else none

/-- The FORMING rally becomes RUNNING: the roots of its graph are posted; none while credits lack. -/
def startRally (i : Nat) (r : Rally) (v : Version) (h : HandleSt) (s : State) : Option State :=
  let c := rallyOf i s
  let f := rallyFields c r h.sustained s
  match ((memberReqs r s)[0]?).bind fun q => entryOfNum v q.entry s with
  | none => none
  | some e => match postRoots h (roots v e s) f.1 f.2 with
    | none => none
    | some s => some (setRally i { c with forming := {} } s)

/-- A flip whose conditions hold; `restored` lets it pass with rows still poisoned. -/
def tryFlip (i : Nat) (restored : Bool) (computeNs refillNs : Nat) (s : State) : State :=
  let c := rallyOf i s
  match c.handle.bind fun h => handleSt h s with
  | none => s
  | some h =>
    let epoch := match c.running with
      | some r => r.begun
      | none => c.forming.begun
    match (epoch.bind fun e => rallyPlan c e s).bind fun x => (nextFlip c x.2).map fun n => (x, n) with
    | none => s
    | some (x, n) =>
      let tiles := h.tiles
      let bank := !c.bank
      let ended := match lead n.1 with
        | some m => decide (n.2 = 0) || chunkEnded x.2 (n.2 - 1) m tiles s
        | none => true
      if (ended && chunkReady x.2 n.2 x.1.epoch bank tiles s && setWhole tiles s) = false then s
      else if restored = false ∧ awaitsRestore x.1 h.sustained x.2 n.2 bank tiles s = true then
        if c.holdAt = none then setRally i { c with holdAt := some s.timer, holds := satAdd 16 c.holds 1 } s else s
      else if n.2 = 0 then match startRally i n.1 x.1 h s with
        | some s => doFlip i n.1 0 x.1 x.2 h.sustained computeNs refillNs s
        | none => s
      else doFlip i n.1 n.2 x.1 x.2 h.sustained computeNs refillNs s

/-- RALLY_FLIP (R201, R204). -/
def execRallyFlip (ctx : Fin 16) (computeNs : Nat) (refillNs : Nat) (s : State) : Host.Outcome State Fault Refusal :=
  .next (tryFlip ctx.val false computeNs refillNs s)

/-- RESTORE_HOLD_EXPIRE (R217): 40 µs after the other conditions held, the flip goes ahead with the rows poisoned. -/
def execRestoreHoldExpire (ctx : Fin 16) (s : State) : Host.Outcome State Fault Refusal :=
  let c := rallyOf ctx.val s
  match c.holdAt with
  | none => .next s
  | some t =>
    let s := setRally ctx.val { c with holdAt := none, expired := satAdd 16 c.expired 1 } (reach (t + ticks 40) s)
    .next (tryFlip ctx.val true 0 c.periodNs s)

/-! ## Second sources, takeovers, held chunks (R196, R213, R215, R216) -/

/-- SECOND_SOURCE_READ (R216): rows for tiles of the set, sent with RESTORE = 1; the code word is remembered until its
remap. -/
def execSecondSourceRead (ctx : Fin 16) (cwa : BitVec 25) (frames : List RowFrame) (s : State) : Host.Outcome State Fault Refusal :=
  let c := rallyOf ctx.val s
  let tiles := rallyTiles c s
  let mine := s.versions.any fun v => decide (c.handle = some v.handle) && v.blocks.contains cwa.toNat
  if mine = false then .next s
  else
    let fs := (frames.filter fun f => tiles.contains f.ltile.toNat).map fun f => { f with restore := true, poison := false }
    let second := if c.second.contains cwa.toNat then c.second else c.second ++ [cwa.toNat]
    .next (setRally ctx.val { c with second := second } { s with rowBus := s.rowBus ++ fs })

/-- SEQUENCER_TAKEOVER (R196). -/
def execSequencerTakeover (fenced' : Half) (s : State) : Host.Outcome State Fault Refusal :=
  if fenced (.cc fenced') s = false then .next s
  else .next { s with rallies := s.rallies.map fun c =>
    (c.1, if c.2.handle ≠ none ∧ c.2.home = fenced' then { c.2 with home := Half.other fenced' } else c.2) }

/-- Places for code words of one chunk. -/
def placeChunk (v : Version) (p : Plan) (k : Nat) (s : State) : Option (List (Nat × Nat)) :=
  let held := blocksHeld s
  let n := chunkCwsOf v p .north k s
  let so := (chunkCwsOf v p .south k s).filter fun i => !n.contains i
  let pl := placeHalf .north n held s ++ placeHalf .south so held s
  if pl.length = n.length + so.length then some pl else none

/-- HELD_CHUNK_SWITCH (R215): a chunk held in a tier has been programmed, and its source is the weight store. -/
def execHeldChunkSwitch (ctx : Fin 16) (chunk : Nat) (s : State) : Host.Outcome State Fault Refusal :=
  let c := rallyOf ctx.val s
  if ¬(c.inT1.contains chunk ∨ c.inT2.contains chunk) then .next s
  else match currentPlan c s with
    | none => .next s
    | some x => match placeChunk x.1 x.2 chunk s with
      | none => .next s
      | some pl =>
        let v := x.1
        let old := if v.blocks.isEmpty then List.replicate v.totalCw noPlace else v.blocks
        let new := ((List.range old.length).zip old).map fun b =>
          ((pl.filter fun y => decide (y.1 = b.1))[0]?.map fun y => y.2).getD b.2
        let s := pl.foldl (fun s y => setCw y.2 (some (imageCw v y.1 s).1) s) s
        let done := new.all fun b => decide (b ≠ noPlace)
        let s := setVersion { v with blocks := new, programmed := if done then v.landed else v.programmed } s
        .next (setRally ctx.val { c with inT1 := c.inT1.filter (fun k => decide (k ≠ chunk)),
                                         inT2 := c.inT2.filter (fun k => decide (k ≠ chunk)) } s)

/-! ## The end of a rally (R202) -/

/-- What a failed or poisoned task of a rally means for a slot: first failing status, its template, poison. -/
def slotResult (fails : List (Nat × Nat × W16 × Nat × Bool)) (slot : Nat) : W16 × Nat × Bool :=
  let mine := fails.filter fun f => decide (f.1 ≤ slot ∧ slot ≤ f.2.1)
  let bad := mine.filter fun f => decide (f.2.2.1 ≠ 0)
  (((bad[0]?).map fun f => f.2.2.1).getD 0, ((bad[0]?).map fun f => f.2.2.2.1).getD 0xFFFF, !mine.isEmpty)

/-- A member completes: a cancelled one leaves no completion. -/
def endMember (r : Rally) (m : Member) (s : State) : State :=
  match memberReq m s with
  | none => s
  | some q =>
    if q.cancelled then dropReq q s
    else
      let x := slotResult r.fails m.slot
      let q := { q with status := x.1, failTmpl := x.2.1, poison := q.poison || x.2.2 }
      if 0 < q.outLen then setReq { q with st := .transfer } s else complete q q.status s

/-- The count that the entry declares is reached. -/
def endRally (i : Nat) (r : Rally) (s : State) : State :=
  let c := rallyOf i s
  let s := match lead r, c.handle with
    | some m, some h => sendPurges h m.chan m.seq s
    | _, _ => s
  let s := r.members.foldl (fun s m => endMember r m s) s
  let c := rallyOf i s
  let s := setRally i { c with running := none, count := (c.count + 1) % 2 ^ 32, skewLast := c.skewNow, skewNow := [] } s
  kickQueued (if c.forming.members.isEmpty then s else beginForming i s)

/-- The context whose RUNNING rally runs under a channel and sequence number. -/
def rallyOfTask (chan : Nat) (seq : W32) (s : State) : Option (Nat × Rally) :=
  ((List.range 16).filterMap fun i => (rallyOf i s).running.bind fun r =>
    if (lead r).map (fun m => (m.chan, m.seq)) = some (chan, seq) then some (i, r) else none)[0]?

/-- Task ends that the entry of a rally declares. -/
def rallyNeed (i : Nat) (r : Rally) (s : State) : Nat :=
  match r.begun.bind fun e => rallyPlan (rallyOf i s) e s, (memberReqs r s)[0]? with
  | some x, some q => ((entryOfNum x.1 q.entry s).map fun e => e.taskEnds).getD 0
  | _, _ => 0

/-- A TASK_END of a rally is counted; its slot range is every slot where it names none. -/
def countRallyEnd (i : Nat) (r : Rally) (m : EndMsg) (s : State) : State :=
  let range := match m.rally with
    | some x => (x.2.1, x.2.2)
    | none => (0, 255)
  let fails := if m.status ≠ 0 ∨ m.poison = true then r.fails ++ [(range.1, range.2, m.status, m.tmpl.toNat, m.poison)] else r.fails
  let r := { r with ends := r.ends + 1, fails := fails }
  let s := setRally i { rallyOf i s with running := some r } s
  if rallyNeed i r s ≤ r.ends then endRally i r s else s

/-- TASK_END_MESSAGE (R142, R202). -/
def execTaskEndMessage (cc : Half) (msg : EndMsg) (s : State) : Host.Outcome State Fault Refusal :=
  let s := arrive (.taskEnd cc msg) s
  match rallyOfTask msg.channel.toNat msg.seq s with
  | some x => .next (countRallyEnd x.1 x.2 msg s)
  | none => match reqAt msg.channel.toNat msg.seq s with
    | some r => .next (countEnd r msg s)
    | none => .next s

/-- SIGNAL_RETURN (R139): the request is purged as for a cancel and completes UNIT_FENCED with POISON set; a rally's
members all do. -/
def execSignalReturn (sig : Signal) (s : State) : Host.Outcome State Fault Refusal :=
  let s := arrive (.signalBack sig) s
  match rallyOfTask sig.req.channel.toNat sig.req.seq s with
  | some x => .next (endRally x.1 { x.2 with fails := [(0, 255, 0x0011, 0xFFFF, true)] } s)
  | none => match reqAt sig.req.channel.toNat sig.req.seq s with
    | some r => if r.st = .running then .next (abortReq r 0x0011 s) else .next s
    | none => .next s

/-- CREDIT_RETURN (R148): requests that waited for the credit try again. -/
def execCreditReturn (tile : Fin 1056) (poster : Half) (s : State) : Host.Outcome State Fault Refusal :=
  .next (kickQueued (creditReturn tile.val poster (arrive (.credit tile.val poster) s)))

end Sys2Proof.Machine
end

