-- ==== Sys2Proof/Machine/Channels.lean ====
section
/-! DEFINITION. Channels (R299 to R323, R328 to R330): assignment, doorbells, descriptors, completions, cancels, recovery,
reservations and their revocation. -/

namespace Sys2Proof.Machine

/-! ## The page -/

/-- A configuration write at a forbidden time (R301, R302, R312, R316). -/
def cfgReject (c : Nat) (s : State) : State := raise (chanPage c) 14 s
/-- The function that owns a channel. -/
def chanOwner (c : Nat) (s : State) : W16 := chanMid c s
/-- A log2 depth of R303. -/
def clampLog (n : Nat) : Nat := max 4 (min 16 n)
/-- Submission queue depth (R303). -/
def sqDepth (c : Nat) (s : State) : Nat :=
  if fget (chanPage c) Reg.CHAN_CHAN_CFG_SQ_LOC s = 1 then 16
  else 2 ^ clampLog (fget (chanPage c) Reg.CHAN_CHAN_CFG_SQ_LOG2 s)
/-- Completion queue depth (R303). -/
def cqDepth (c : Nat) (s : State) : Nat := 2 ^ clampLog (fget (chanPage c) Reg.CHAN_CHAN_CFG_CQ_LOG2 s)
/-- a − b modulo 2^32 (R306). -/
def curSub (a b : Nat) : Nat := (a % 2 ^ 32 + 2 ^ 32 - b % 2 ^ 32) % 2 ^ 32
/-- A cursor. -/
def curDb (c : Nat) (s : State) : Nat := fget (chanPage c) Reg.CHAN_CUR_DB_VALUE s
/-- A cursor. -/
def curAccept (c : Nat) (s : State) : Nat := fget (chanPage c) Reg.CHAN_CUR_ACCEPT_VALUE s
/-- A cursor. -/
def curPost (c : Nat) (s : State) : Nat := fget (chanPage c) Reg.CHAN_CUR_POST_VALUE s
/-- A cursor. -/
def cqHead (c : Nat) (s : State) : Nat := fget (chanPage c) Reg.CHAN_CQ_HEAD_VALUE s
/-- CHAN_CTRL.HOLD. -/
def held (c : Nat) (s : State) : Bool := decide (fget (chanPage c) Reg.CHAN_CHAN_CTRL_HOLD s = 1)
/-- CHAN_STAT.HELD. -/
def isHeld (c : Nat) (s : State) : Bool := decide (fget (chanPage c) Reg.CHAN_CHAN_STAT_HELD s = 1)

/-- The reservation registers of a channel without a reservation in force (R330). -/
def clearResv (c : Nat) (state : Nat) (s : State) : State :=
  let p := chanPage c
  let s := setChan c { chanOf c s with resv := none, next := none } s
  s |> fset p Reg.CHAN_RESV_STAT_STATE state |> fset p Reg.CHAN_RESV_STAT_CLASS 2 |> fset p Reg.CHAN_RESV_STAT_GRADE 0
    |> fset p Reg.CHAN_RESV_SERIAL_SERIAL 0 |> fset p Reg.CHAN_RESV_LEFT_LEFT 0

/-- A register returns to its reset word. -/
def resetReg (p : Page) (off : Nat) (s : State) : State := setRegWord (regAddr p off) (resetWord (regAddr p off)) s

/-- CHAN_ASSIGN takes effect (R301, R330). -/
def assignChan (c : Nat) (data : W32) (s : State) : State :=
  let p := chanPage c
  if blk p s ≠ .off then cfgReject c s else
  let s := clearResv c 0 (setChan c {} s)
  let s := s |> resetReg p 0x104 |> resetReg p 0x10C |> resetReg p 0x120 |> resetReg p 0x124 |> resetReg p 0x128
    |> resetReg p 0x12C |> resetReg p 0x178
  let s := s |> fset p Reg.CHAN_DB_REJ_REC_COUNT 0 |> fset p Reg.CHAN_RESV_STAT_REASON 0
  let s := clearZslots c s
  setRegWord (regAddr p 0x108) (BitVec.ofNat 32 (data.toNat % 2 ^ 17)) s

/-- CHAN_ASSIGN (R301). -/
def execChanAssign (w : Wr) (chan : Fin 512) (data : W32) (s : State) : Host.Outcome State Fault Refusal :=
  .next (guardedRwl w (.chan chan) 0x108 data (assignChan chan.val data) s)

/-! ## Doorbells (R307) -/

/-- A discarded doorbell: 1 outside the window, 2 not ON. -/
def dbReject (c : Nat) (v : W32) (reason : Nat) (s : State) : State :=
  let p := chanPage c
  let s := satInc p Reg.CHAN_DB_REJ_REC_COUNT 1 s
  let s := if fget p Reg.CHAN_DB_REJ_REC_VALID s = 0 then
      s |> fset p Reg.CHAN_DB_REJ_VAL_VALUE v.toNat |> fset p Reg.CHAN_DB_REJ_REC_REASON reason
        |> fset p Reg.CHAN_DB_REJ_REC_VALID 1
    else s
  raise p 8 s

/-- A doorbell past the gates. -/
def ringDoorbell (c : Nat) (v : W32) (s : State) : State :=
  if isOn (chanPage c) s = false then dbReject c v 2 s
  else if curSub v.toNat (curAccept c s) ≤ sqDepth c s ∧ curSub v.toNat (curDb c s) ≤ sqDepth c s then
    fset (chanPage c) Reg.CHAN_CUR_DB_VALUE v.toNat s
  else dbReject c v 1 s

/-- DOORBELL (R307). -/
def execDoorbell (mid : W16) (chan : Fin 512) (value : W32) (s : State) : Host.Outcome State Fault Refusal :=
  .next (guarded ⟨mid, 0⟩ (.chan chan) 0x100 (ringDoorbell chan.val value) s)

/-! ## Descriptors (R304, R308) -/

/-- A 64-bit word of a descriptor. -/
def lineWord (line : BitVec 512) (i : Nat) : Nat := bitsOf line.toNat (64 * i) 64

/-- The descriptor that an on-device slot holds (R303). -/
def slotLine (c n : Nat) (s : State) : BitVec 512 :=
  BitVec.ofNat 512 ((List.range 16).foldl (fun v i =>
    v + fgetI (chanPage c) Reg.CHAN_SLOT_DATA (16 * (n % 16) + i) s * 2 ^ (32 * i)) 0)

/-- Records of the completion store in use: one for each request in flight and for each completion not freed. -/
def recordsUsed (s : State) : Nat := s.chans.foldl (fun n c => n + c.2.cpls.length) s.reqs.length

/-- The device may read the next descriptor (R302, R308, R315). -/
def mayRead (c : Nat) (s : State) : Bool :=
  isOn (chanPage c) s && !held c s && decide (curDb c s ≠ curAccept c s ∧
    inflight c s + curSub (curPost c s) (cqHead c s) < 4096 ∧ recordsUsed s < 131072)

/-- Check 2 of R308. -/
def lineValid (q : Nat → Nat) (s : State) : Bool :=
  let policy := bitsOf (q 1) 0 2
  let handle := bitsOf (q 0) 32 16
  let inLen := bitsOf (q 5) 0 32
  let outLen := bitsOf (q 5) 32 32
  let outHost := bitsOf (q 1) 3 1
  let version := if policy = 1 then versionOf handle (bitsOf (q 1) 32 32) s else currentOf handle s
  decide (bitsOf (q 1) 4 28 = 0 ∧ bitsOf (q 3) 48 16 = 0 ∧ bitsOf (q 4) 48 16 = 0) &&
  decide (inLen % 64 = 0 ∧ inLen ≤ 2 ^ 28 ∧ outLen % 64 = 0 ∧ outLen ≤ 2 ^ 28 ∧ bitsOf (q 7) 0 32 % 64 = 0) &&
  decide (if outHost = 1 then q 6 % 64 = 0 else bitsOf (q 6) 48 16 = 0) &&
  decide (policy = 1 ∨ bitsOf (q 1) 32 32 = 0) &&
  decide (q 2 ≤ s.timer + 2 ^ 30) &&
  (match version with
    | some v => decide (bitsOf (q 0) 48 16 < v.nentry)
    | none => true)

/-- The request of a descriptor; its SEQ is the number of the descriptor. -/
def reqOfLine (c n : Nat) (q : Nat → Nat) (s : State) : Req :=
  { chan := c, seq := BitVec.ofNat 32 n, handle := bitsOf (q 0) 32 16, entry := bitsOf (q 0) 48 16,
    policy := bitsOf (q 1) 0 2, pinEpoch := bitsOf (q 1) 32 32, deadline := q 2, irq := decide (bitsOf (q 1) 2 1 = 1),
    user := BitVec.ofNat 32 (bitsOf (q 7) 32 32), reqBase := bitsOf (q 3) 0 48, inRef := bitsOf (q 4) 0 48,
    inLen := bitsOf (q 5) 0 32, outHost := decide (bitsOf (q 1) 3 1 = 1), outRef := q 6, outLen := bitsOf (q 5) 32 32,
    outOff := bitsOf (q 7) 0 32, cch := dispatcher (chanOwner c s) s, heldAt := s.timer }

/-- A request accepted: the checks of R308 in order; behind a closed huddle, or a restore that is pending, it is held
before its stamp (R244, R418). -/
def acceptReq (c n : Nat) (q : Nat → Nat) (s : State) : State :=
  let r := reqOfLine c n q s
  let s := { s with reqs := s.reqs ++ [r] }
  if bitsOf (q 0) 0 32 ≠ n % 2 ^ 32 then complete r 0x0081 s
  else if lineValid q s = false then complete r 0x0026 s
  else if ((handleSt r.handle s).map fun h => h.huddle).getD false = true ∨ s.restores.any (fun x => decide (x.1 = r.handle)) then
    setReq { r with st := .held } s
  else admitStamped r s

/-- DESCRIPTOR_READ (R308): from the page's slots, or from host memory. -/
def execDescriptorRead (chan : Fin 512) (line : BitVec 512) (s : State) : Host.Outcome State Fault Refusal :=
  let c := chan.val
  let p := chanPage c
  if mayRead c s = false then .next s else
  let n := curAccept c s
  let local' := decide (fget p Reg.CHAN_CHAN_CFG_SQ_LOC s = 1)
  let line := if local' then slotLine c n s else line
  let base := wideGet p Reg.CHAN_SQ_BASE_LO_ADDR Reg.CHAN_SQ_BASE_HI_ADDR s
  let s := if local' then s else emit (.hostRead (chanOwner c s) (base + 64 * (n % sqDepth c s)) 64) s
  .next (acceptReq c n (lineWord line) (fset p Reg.CHAN_CUR_ACCEPT_VALUE (n + 1) s))

/-! ## Copies (R304, R311) -/

/-- Poisoned 64-byte granules of a span, counted from its start. -/
def poisonList (addr len : Nat) (s : State) : List Nat :=
  (List.range ((len + 63) / 64)).filter fun i => rangePoison (addr + 64 * i) (min 64 (len - 64 * i)) s

/-- Move data within the range: bytes, and poison marks with their granules (R268, R276). -/
def copyRange (src dst len : Nat) (s : State) : State :=
  let bad := poisonList src len s
  let s' := rangeWrite dst (rangeBytes src len s) false s
  bad.foldl (fun s i => poisonExtent (dst + 64 * i) 1 s) s'

/-- Why a copy for a request cannot touch a span (R261, R369), 0 for no reason: the engine acts for the request, as its
tasks do. -/
def moveStop (r : Req) (write : Bool) (addr len : Nat) (s : State) : W16 :=
  let ps := spanPages addr len
  if ps.any (fun p => !mayAccess (.task r.chan (some r.handle)) write (homeOf p s) s) then 0x0064
  else if write && ps.any (fun p => homeFenced (homeOf p s) s) then 0x0011
  else 0

/-- A denial is counted and recorded (R261). -/
def moveDenied (r : Req) (st : W16) (addr : Nat) (s : State) : State :=
  if st = 0x0064 then rangeDenied (chanOwner r.chan s) addr s else s

/-- INPUT_COPY_END (R304): the copy's bytes stand at REQ_BASE and the request starts; one that the range refuses ends the
request. -/
def execInputCopyEnd (chan : Fin 512) (seq : W32) (s : State) : Host.Outcome State Fault Refusal :=
  match reqAt chan.val seq s with
  | none => .next s
  | some r =>
    if r.st ≠ .copying then .next s else
    let rd := moveStop r false r.inRef r.inLen s
    let wr := moveStop r true r.reqBase r.inLen s
    if rd ≠ 0 then .next (kickQueued (complete r rd (moveDenied r rd r.inRef s)))
    else if wr ≠ 0 then .next (kickQueued (complete r wr (moveDenied r wr r.reqBase s)))
    else
      let r' := { r with st := .queued }
      .next (startReq r' (setReq r' (copyRange r.inRef r.reqBase r.inLen s)))

/-- The status of a transfer stands unless a task had failed (R311). -/
def withStatus (r : Req) (st : W16) : Req := if r.status = 0 then { r with status := st } else r

/-- The output reaches its place (R311): a host address takes writes with their poison, and its failure is
OUT_XFER_FAIL. -/
def transferOut (r : Req) (fail : Bool) (s : State) : Req × State :=
  let src := r.reqBase + r.outOff
  let dst := r.outRef % 2 ^ 48
  let rd := moveStop r false src r.outLen s
  let wr := if r.outHost then 0 else moveStop r true dst r.outLen s
  if rd ≠ 0 then (withStatus r rd, moveDenied r rd src s)
  else if wr ≠ 0 then (withStatus r wr, moveDenied r wr dst s)
  else
    let bad := poisonList src r.outLen s
    let r := { r with poison := r.poison || !bad.isEmpty }
    if r.outHost then
      (if fail then withStatus r 0x0084 else r, emit (.hostWrite (chanOwner r.chan s) r.outRef (rangeBytes src r.outLen s) bad) s)
    else (r, copyRange src dst r.outLen s)

/-- OUTPUT_TRANSFER_END (R311). -/
def execOutputTransferEnd (chan : Fin 512) (seq : W32) (fail : Bool) (s : State) : Host.Outcome State Fault Refusal :=
  match reqAt chan.val seq s with
  | none => .next s
  | some r =>
    if r.st = .transfer then
      match transferOut r fail s with
      | (x, s) => .next (kickQueued (complete x x.status s))
    else .next s

/-! ## Completions (R309, R312, R328) -/

/-- The 32 bytes of a completion entry (R309). -/
def cplBytes (x : Cpl) : List Byte :=
  let b := fun (v : Bool) (i : Nat) => if v then 2 ^ i else 0
  leBytes 4 x.cseq.toNat ++ leBytes 4 x.seq.toNat ++
  leBytes 4 (x.status.toNat + b x.poison 16 + b x.late 17 + b x.demoted 18 + b x.sustained 19 + b x.notice 20) ++
  leBytes 4 x.epoch.toNat ++ leBytes 8 x.endTime ++ leBytes 4 x.user.toNat ++ leBytes 4 x.failTmpl.toNat

/-- Write a completion at its slot of the queue. -/
def writeCpl (c : Nat) (x : Cpl) (s : State) : State :=
  let base := wideGet (chanPage c) Reg.CHAN_CQ_BASE_LO_ADDR Reg.CHAN_CQ_BASE_HI_ADDR s
  emit (.hostWrite (chanOwner c s) (base + 32 * (x.cseq.toNat % cqDepth c s)) (cplBytes x) []) s

/-- The channel's interrupt; what has been posted since the last one starts again at 0 (R328). -/
def chanInterrupt (c : Nat) (s : State) : State :=
  pageInterrupt (chanPage c) (setChan c { chanOf c s with quiet := 0 } s)

/-- After a completion has been posted (R328). -/
def coalesce (c : Nat) (x : Cpl) (s : State) : State :=
  let k := chanOf c s
  let n := k.quiet + 1
  let s := setChan c { k with quiet := n, quietAt := if k.quiet = 0 then s.timer else k.quietAt } s
  if x.irq = true ∨ x.notice = true ∨ max 1 (fget (chanPage c) Reg.CHAN_CHAN_IRQ_COAL_CNT s) ≤ n then chanInterrupt c s else s

/-- The completion to be written next: the oldest not posted. -/
def nextCpl (c : Nat) (s : State) : Option Cpl := ((chanOf c s).cpls.filter fun x => !x.posted)[0]?

/-- There is room in the queue for a completion (R312). -/
def cqRoom (c : Nat) (cseq : W32) (s : State) : Bool := decide (curSub cseq.toNat (cqHead c s) < cqDepth c s)

/-- Mark a completion as written. -/
def markPosted (cseq : W32) (k : ChanSt) : ChanSt :=
  { k with cpls := k.cpls.map fun y => if y.cseq = cseq then { y with posted := true } else y }

/-- COMPLETION_WRITE (R312): CQ_STALL is raised once for each stall. -/
def execCompletionWrite (chan : Fin 512) (s : State) : Host.Outcome State Fault Refusal :=
  let c := chan.val
  match nextCpl c s with
  | none => .next s
  | some x =>
    if held c s = true ∨ blk (chanPage c) s = .off ∨ blk (chanPage c) s = .starting then .next s
    else if cqRoom c x.cseq s = true then
      let s := setChan c { markPosted x.cseq (chanOf c s) with stalled := false } s
      .next (coalesce c x (writeCpl c x s))
    else if (chanOf c s).stalled = true then .next s
    else .next (raise (chanPage c) 9 (setChan c { chanOf c s with stalled := true } s))

/-- CQ_HEAD moves forward, at most to CUR_POST, and frees what it passes (R312). -/
def moveHead (c : Nat) (v : W32) (s : State) : State :=
  let h := cqHead c s
  if curSub v.toNat h ≤ curSub (curPost c s) h then
    let k := chanOf c s
    let left := k.cpls.filter fun x => decide (curSub v.toNat h ≤ curSub x.cseq.toNat h)
    fset (chanPage c) Reg.CHAN_CQ_HEAD_VALUE v.toNat (setChan c { k with cpls := left } s)
  else cfgReject c s

/-- CQ_HEAD_WRITE (R312). -/
def execCqHeadWrite (w : Wr) (chan : Fin 512) (value : W32) (s : State) : Host.Outcome State Fault Refusal :=
  .next (guarded w (.chan chan) 0x12C (moveHead chan.val value) s)

/-- COALESCE_TIMER_EXPIRE (R328): no completion interrupt leaves while HOLD is 1 (R315). -/
def execCoalesceTimerExpire (chan : Fin 512) (s : State) : Host.Outcome State Fault Refusal :=
  let c := chan.val
  let us := fget (chanPage c) Reg.CHAN_CHAN_IRQ_COAL_US s
  let k := chanOf c s
  if us = 0 ∨ k.quiet = 0 ∨ held c s = true then .next s
  else .next (chanInterrupt c (reach (k.quietAt + ticks us) s))

/-! ## Cancels (R313) -/

/-- The request is a member of a rally. -/
def inRally (c : Nat) (seq : W32) (s : State) : Bool :=
  (List.range 16).any fun i =>
    let x := rallyOf i s
    let has := fun (r : Rally) => r.members.any fun m => decide (m.chan = c ∧ m.seq = seq)
    has x.forming || (x.running.map has).getD false

/-- Cancel a request in flight: its result and what it does. -/
def cancelReq (r : Req) (s : State) : Nat × State :=
  if inRally r.chan r.seq s = true then (4, setReq { r with cancelled := true } s)
  else (1, abortReq r 0x0082 s)

/-- A write of CANCEL. A SEQ within 2^31 below CUR_ACCEPT was accepted. -/
def cancelSeq (c : Nat) (seq : W32) (s : State) : State :=
  let x := match reqAt c seq s with
    | some r => cancelReq r s
    | none =>
      let d := curSub (curAccept c s) seq.toNat
      (if 0 < d ∧ d ≤ 2 ^ 31 then 2 else 3, s)
  fset (chanPage c) Reg.CHAN_CANCEL_STAT_RESULT x.1 x.2

/-- CANCEL (R313). -/
def execCancel (w : Wr) (chan : Fin 512) (seq : W32) (s : State) : Host.Outcome State Fault Refusal :=
  .next (guarded w (.chan chan) 0x13C (cancelSeq chan.val seq) s)

/-- FENCE.REQ on a channel cancels every request in flight (R313). -/
def cancelAll (c : Nat) (s : State) : State :=
  (s.reqs.filter fun r => decide (r.chan = c)).foldl (fun s r => (cancelReq r s).2) s

/-! ## HOLD, HELD, REPLAY (R315, R316) -/

/-- The replay: every completion from CQ_HEAD on that the queue has room for is written again, and one interrupt ends
it. -/
def replayAll (c : Nat) (s : State) : State :=
  let xs := (chanOf c s).cpls.filter fun x => cqRoom c x.cseq s
  let s := setChan c { chanOf c s with replay := false } s
  let s := xs.foldl (fun s x => writeCpl c x (setChan c (markPosted x.cseq (chanOf c s)) s)) s
  if xs.isEmpty then s else chanInterrupt c s

/-- CHAN_CTRL.HOLD as written. -/
def setHold (c : Nat) (hold : Bool) (s : State) : State :=
  let p := chanPage c
  if hold then fset p Reg.CHAN_CHAN_CTRL_HOLD 1 s
  else if held c s = true then
    let s := s |> fset p Reg.CHAN_CHAN_CTRL_HOLD 0 |> fset p Reg.CHAN_CHAN_STAT_HELD 0 |> fset p Reg.CHAN_CHAN_STAT_FLR_HELD 0
    if (chanOf c s).replay = true then replayAll c s else s
  else s

/-- HOLD_WRITE (R315). -/
def execHoldWrite (w : Wr) (chan : Fin 512) (hold : Bool) (s : State) : Host.Outcome State Fault Refusal :=
  .next (guarded w (.chan chan) 0x134 (setHold chan.val hold) s)

/-- HELD (R315). -/
def execHeld (chan : Fin 512) (s : State) : Host.Outcome State Fault Refusal :=
  let p := chanPage chan.val
  if held chan.val s = true ∧ isHeld chan.val s = false then .next (raise p 17 (fset p Reg.CHAN_CHAN_STAT_HELD 1 s)) else .next s

/-- A write that only a held channel accepts (R316). -/
def whileHeld (c : Nat) (f : State → State) (s : State) : State := if isHeld c s = true then f s else cfgReject c s

/-- Arm the replay. -/
def armReplay (c : Nat) (s : State) : State := whileHeld c (fun s => setChan c { chanOf c s with replay := true } s) s

/-- REPLAY (R316). -/
def execReplay (w : Wr) (chan : Fin 512) (s : State) : Host.Outcome State Fault Refusal :=
  .next (guarded w (.chan chan) 0x134 (armReplay chan.val) s)

/-- Forget descriptors rung and not read. -/
def sqDiscard (c : Nat) (s : State) : State :=
  whileHeld c (fun s => fset (chanPage c) Reg.CHAN_CUR_DB_VALUE (curAccept c s) s) s

/-- SQ_DISCARD (R316). -/
def execSqDiscard (w : Wr) (chan : Fin 512) (s : State) : Host.Outcome State Fault Refusal :=
  .next (guarded w (.chan chan) 0x134 (sqDiscard chan.val) s)

/-- Assigned channels, from the register file. -/
def assignedChans (s : State) : List Nat :=
  (s.regs.filter fun r => decide (0x800000 ≤ r.1 ∧ r.1 < 0xA00000 ∧ r.1 % 0x1000 = 0x108)).filterMap fun r =>
    let c := r.1 / 0x1000 - 0x800
    if chanValid c s = true then some c else none

/-- HOLD and FLR_HELD on a function's channels (R315). -/
def holdFunction (mid : W16) (s : State) : State :=
  ((assignedChans s).filter fun c => decide (chanOwner c s = mid)).foldl (fun s c =>
    fset (chanPage c) Reg.CHAN_CHAN_STAT_FLR_HELD 1 (fset (chanPage c) Reg.CHAN_CHAN_CTRL_HOLD 1 s)) s

/-! ## Reservations (R317 to R320) -/

/-- RESV_CMD as a GO leaves it. -/
def resvCmd (c cls grade handle : Nat) (s : State) : State :=
  let p := chanPage c
  s |> fset p Reg.CHAN_RESV_CMD_CLASS cls |> fset p Reg.CHAN_RESV_CMD_GRADE grade |> fset p Reg.CHAN_RESV_CMD_HANDLE handle

/-- A request for a reservation waits for the leader. -/
def resvAsk (c cls grade handle : Nat) (s : State) : State :=
  fset (chanPage c) Reg.CHAN_RESV_STAT_STATE 1 (resvCmd c cls grade handle s)

/-- A decision (R318): REFUSED with its reason; the earlier reservation stands. -/
def resvRefuse (c reason : Nat) (s : State) : State :=
  let p := chanPage c
  raise p 13 (fset p Reg.CHAN_RESV_STAT_REASON reason (fset p Reg.CHAN_RESV_STAT_STATE 3 s))

/-- RESV_SUSTAINED (R318). -/
def execResvSustained (w : Wr) (chan : Fin 512) (grade : BitVec 3) (handle : BitVec 10) (s : State) :
    Host.Outcome State Fault Refusal :=
  .next (guarded w (.chan chan) 0x15C (resvAsk chan.val 0 grade.toNat handle.toNat) s)

/-- RESV_FRAME (R318). -/
def execResvFrame (w : Wr) (chan : Fin 512) (grade : BitVec 3) (handle : BitVec 10) (s : State) :
    Host.Outcome State Fault Refusal :=
  .next (guarded w (.chan chan) 0x15C (resvAsk chan.val 1 grade.toNat handle.toNat) s)

/-- Release the reservation: STATE becomes NONE (R318). -/
def resvDrop (c : Nat) (s : State) : State :=
  let p := chanPage c
  raise p 13 (fset p Reg.CHAN_RESV_STAT_REASON 0 (clearResv c 0 (fset p Reg.CHAN_RESV_CMD_CLASS 2 s)))

/-- RESV_RELEASE (R318). -/
def execResvRelease (w : Wr) (chan : Fin 512) (s : State) : Host.Outcome State Fault Refusal :=
  .next (guarded w (.chan chan) 0x15C (resvDrop chan.val) s)

/-- RESV_INVALID_CLASS (R318): reason 3. -/
def execResvInvalidClass (w : Wr) (chan : Fin 512) (grade : BitVec 3) (handle : BitVec 10) (s : State) :
    Host.Outcome State Fault Refusal :=
  .next (guarded w (.chan chan) 0x15C (fun s => resvRefuse chan.val 3 (resvCmd chan.val 3 grade.toNat handle.toNat s)) s)

/-- The granted reservation of a channel, whether or not its first period has begun. -/
def granted (c : Nat) (s : State) : Option Resv :=
  let k := chanOf c s
  match k.next with
  | some r => some r
  | none => k.resv

/-- Every granted reservation with its channel. -/
def grantedAll (s : State) : List (Nat × Resv) := s.chans.filterMap fun c => (granted c.1 s).map fun r => (c.1, r)

/-- U of R319. -/
def resvU (r : Resv) : Nat := (r.budget * 4096000 + r.period - 1) / r.period

/-- Logical tiles of a handle's set that a sound tile serves, primaries only (R319). -/
def servingTiles (h : Nat) (s : State) : List Nat :=
  match handleSt h s with
  | some x => (x.tiles.filter fun l => match serving l s with
    | some p => !fenced (tilePage p) s
    | none => false).eraseDups
  | none => []

/-- The load that reservations put on a tile, as an exact fraction (R319, R322). -/
def tileLoad (l : Nat) (rs : List (Nat × Resv)) (s : State) : Nat × Nat :=
  rs.foldl (fun f r =>
    let ts := servingTiles r.2.handle s
    if ts.contains l then (f.1 * ts.length + resvU r.2 * f.2, f.2 * ts.length) else f) (0, 1)

/-- The fraction exceeds 15/16 of a tile (R319). -/
def overLoad (f : Nat × Nat) : Bool := decide (61440 * f.2 < f.1)

/-- The rally context of a handle. -/
def ctxPeriod (h : Nat) (s : State) : Nat :=
  (((List.range 16).filter fun i => decide ((rallyOf i s).handle = some h)).map fun i => (rallyOf i s).periodNs)[0]?.getD 0

/-- Why a reservation is refused; 0 when it is granted. The handle's reason comes first, the load last. -/
def resvReason (c : Nat) (r : Resv) (s : State) : Nat :=
  match currentOf r.handle s, handleSt r.handle s with
  | some v, some h =>
    if v.st ≠ 6 ∨ (r.cls = 0 ∧ h.sustained = false) then 3
    else if r.cls = 0 ∧ sustainedMax s ≤ ((grantedAll s).filter fun x => decide (x.1 ≠ c ∧ x.2.cls = 0)).length then 2
    else if (entries v s).any (fun e => decide (2 * r.period < e.tRunUs * 125)) then 4
    else match planOf v s with
      | some p =>
        if p.mode = 1 ∧ r.period * 16 < p.chunks * ctxPeriod r.handle s then 5
        else if r.period = 0 then 1
        else
          let rs := (grantedAll s).filter (fun x => decide (x.1 ≠ c)) ++ [(c, r)]
          if (servingTiles r.handle s).any (fun l => overLoad (tileLoad l rs s)) then 1 else 0
      | none => 3
  | _, _ => 3

/-- The first timer value at or after `now` whose low 32 bits are the phase (R320). -/
def firstPeriod (now phase : Nat) : Nat := now + curSub phase now

/-- RESV_DONE (R318 to R320): with no leader the decision waits. -/
def execResvDone (chan : Fin 512) (s : State) : Host.Outcome State Fault Refusal :=
  let c := chan.val
  let p := chanPage c
  if fget p Reg.CHAN_RESV_STAT_STATE s ≠ 1 ∨ leaderOf s = none then .next s else
  let r : Resv := { cls := fget p Reg.CHAN_RESV_CMD_CLASS s, grade := fget p Reg.CHAN_RESV_CMD_GRADE s,
                    handle := fget p Reg.CHAN_RESV_CMD_HANDLE s, budget := fget p Reg.CHAN_RESV_BUDGET_TILE_US s,
                    period := fget p Reg.CHAN_RESV_PERIOD_TICKS s, serial := s.serials + 1,
                    start := firstPeriod s.timer (fget p Reg.CHAN_RESV_PHASE_TICKS s) }
  let reason := resvReason c r s
  if reason = 0 then
    let s := setChan c { chanOf c s with next := some r } { s with serials := s.serials + 1 }
    .next (raise p 13 (fset p Reg.CHAN_RESV_STAT_REASON 0 (fset p Reg.CHAN_RESV_STAT_STATE 2 s)))
  else .next (resvRefuse c reason s)

/-- A period of a reservation begins: it is in force with its whole budget. -/
def beginPeriod (c : Nat) (r : Resv) (next : Option Resv) (s : State) : State :=
  let p := chanPage c
  let s := setChan c { chanOf c s with resv := some r, next := next } (reach r.start s)
  s |> fset p Reg.CHAN_RESV_LEFT_LEFT (r.budget * 100) |> fset p Reg.CHAN_RESV_SERIAL_SERIAL r.serial
    |> fset p Reg.CHAN_RESV_STAT_CLASS r.cls |> fset p Reg.CHAN_RESV_STAT_GRADE r.grade

/-- RESV_PERIOD_START (R320): the earlier reservation goes on until the first period of the new one. -/
def execResvPeriodStart (chan : Fin 512) (s : State) : Host.Outcome State Fault Refusal :=
  let c := chan.val
  let k := chanOf c s
  match k.resv, k.next with
  | none, none => .next s
  | none, some n => .next (beginPeriod c n none s)
  | some r, none => .next (beginPeriod c { r with start := r.start + r.period } none s)
  | some r, some n =>
    if r.start + r.period < n.start then .next (beginPeriod c { r with start := r.start + r.period } (some n) s)
    else .next (beginPeriod c n none s)

/-! ## Revocation (R322, R323) -/

/-- The Frame reservation that goes first: lowest GRADE, then highest serial. -/
def firstRevoked (l : Nat) (s : State) : Option (Nat × Resv) :=
  ((grantedAll s).filter fun x => decide (x.2.cls = 1) && (servingTiles x.2.handle s).contains l).foldl
    (fun (best : Option (Nat × Resv)) x => match best with
      | none => some x
      | some b => if x.2.grade < b.2.grade ∨ (x.2.grade = b.2.grade ∧ b.2.serial < x.2.serial) then some x else some b) none

/-- Revoke a reservation. -/
def revoke (c : Nat) (r : Resv) (s : State) : State :=
  notice c r.serial false (raise (chanPage c) 12 (clearResv c 4 s))

/-- Revoke until the tile's load is within its limit or no Frame reservation loads it. -/
def revokeTile (l : Nat) : Nat → State → State
  | 0, s => s
  | fuel + 1, s =>
    if overLoad (tileLoad l (grantedAll s) s) = true then
      match firstRevoked l s with
      | some x => revokeTile l fuel (revoke x.1 x.2 s)
      | none => s
    else s

/-- Handles whose placement has lost a tile. -/
def brokenSets (s : State) : List Nat :=
  ((grantedAll s).map fun x => x.2.handle).eraseDups.filter fun h => match handleSt h s with
    | some x => decide ((servingTiles h s).length < x.tiles.eraseDups.length)
    | none => false

/-- Revoke on every tile of the sets that have lost one; then Sustained channels of a set still over its limit get their
notice. -/
def revokeLost (s : State) : State :=
  let hs := brokenSets s
  let ls := (hs.flatMap fun h => servingTiles h s).eraseDups
  let s := ls.foldl (fun s l => revokeTile l 512 s) s
  let heavy := ls.filter fun l => overLoad (tileLoad l (grantedAll s) s)
  ((grantedAll s).filter fun x => decide (x.2.cls = 0) && (servingTiles x.2.handle s).any fun l => heavy.contains l).foldl
    (fun s x => notice x.1 x.2.serial true s) s

/-- RESERVATION_REVOCATION (R322): once a tile has stopped serving. -/
def execReservationRevocation (tile : Fin 1056) (s : State) : Host.Outcome State Fault Refusal :=
  if fenced (.tile tile) s = true ∧ leaderOf s ≠ none then .next (revokeLost s) else .next s

end Sys2Proof.Machine
end

