-- ==== Sys2Proof/Machine/Hosts.lean ====
section
/-! DEFINITION. Host ports, host functions and mailboxes (R315, R324 to R327, R331 to R335). -/

namespace Sys2Proof.Machine

/-! ## Functions and peers (R325) -/

/-- A host function of this device. -/
def hostFn (port fn : Nat) (s : State) : HostFn := sget {} (16 * port + fn) s.hostFns
/-- Replace it. -/
def setHostFn (port fn : Nat) (x : HostFn) (s : State) : State := { s with hostFns := sset {} (16 * port + fn) x s.hostFns }
/-- The page of a host port. -/
def hpPage (i : Nat) : Page := .hp (Fin.ofNat 2 i)
/-- The link of a host port is up. -/
def hostUp (i : Nat) (s : State) : Bool := decide (fget (hpPage i) Reg.HP_HP_LINK_WIDTH s ≠ 0)
/-- The power state of a half. -/
def halfPower (h : Half) (s : State) : HalfPower := if h = .north then s.powerN else s.powerS
/-- Replace it. -/
def setHalfPower (h : Half) (x : HalfPower) (s : State) : State :=
  if h = .north then { s with powerN := x } else { s with powerS := x }

/-- PEER_STATE of a MID (R325): 0 UP, 1 RESET, 2 ASLEEP, 3 ABSENT. -/
def peerState (mid : W16) (s : State) : Nat :=
  if isCC mid = true then
    let h := ccHalf mid
    let l := (halfPower h s).level
    if fenced (.cc h) s = true ∨ present s (.cc h) = false then 3
    else if l = .doze ∨ l = .rest ∨ l = .off then 2
    else if isOn (.cc h) s = true then 0 else 1
  else if isLocal s mid = true ∧ midPort mid < 2 then
    let f := hostFn (midPort mid) (midFunc mid) s
    if f.enabled = false then 3
    else if f.reset = true ∨ hostUp (midPort mid) s = false then 1
    else if f.d3hot = true then 2
    else if f.busMaster = true then 0 else 1
  else if midClass mid = 0 ∧ inMap (midNode mid) s = true then 0 else 3

/-- Run an effect; every end of a mailbox whose peer changed state gets PEER_CHANGE (R331). -/
def withPeers (f : State → State) (s : State) : State :=
  let s' := f s
  let one := fun (m : Nat) (e : Bool) (x : State) =>
    if mbtValid s m = true ∧ peerState (mbtMid s m (!e)) s ≠ peerState (mbtMid s m (!e)) s' then raiseMail m e 10 x else x
  (List.range 64).foldl (fun x m => one m true (one m false x)) s'

/-! ## Function level reset and links -/

/-- What a function level reset does (R315, R386): its channels are held, its vote is gone, its function is in reset. -/
def flr (mid : W16) (s : State) : State :=
  let s := holdFunction mid { s with votes := s.votes.filter fun v => decide (v.1 ≠ mid) }
  if isLocal s mid = true ∧ midPort mid < 2 then
    let f := hostFn (midPort mid) (midFunc mid) s
    setHostFn (midPort mid) (midFunc mid) { f with d3hot := false, busMaster := false, reset := f.enabled } s
  else s

/-- FUNCTION_LEVEL_RESET (R315, R335). -/
def execFunctionLevelReset (function : W16) (s : State) : Host.Outcome State Fault Refusal :=
  .next (withPeers (fun s =>
    let s := flr function s
    if isLocal s function = true ∧ midPort function < 2 then raise (hpPage (midPort function)) 12 s else s) s)

/-- The link registers of a port. -/
def setHostLink (i width rate lanes : Nat) (s : State) : State :=
  let p := hpPage i
  s |> fset p Reg.HP_HP_LINK_WIDTH width |> fset p Reg.HP_HP_LINK_RATE rate
    |> fset p Reg.HP_HP_LINK_FLIT (if rate = 6 then 1 else 0) |> fset p Reg.HP_HP_LINK_PM 0
    |> fset p Reg.HP_HP_LINK_LANES_OK lanes

/-- The widest width that good lanes allow (R332): x4, x2 and x1 from lane 0 up, or from lane 7 down by reversal. -/
def widthOf (lanes : Nat) : Nat :=
  if lanes % 256 = 255 then 8
  else if lanes % 16 = 15 ∨ lanes / 16 % 16 = 15 then 4
  else if lanes % 4 = 3 ∨ lanes / 64 % 4 = 3 then 2
  else if lanes % 2 = 1 ∨ lanes / 128 % 2 = 1 then 1
  else 0

/-- The port trains while it is starting or on (R335). -/
def trains (p : Page) (s : State) : Bool :=
  present s p && !fenced p s && (decide (blk p s = .starting) || isOn p s)

/-- HOST_LINK_UP (R332): a port that cannot train at x1 is fenced with CAUSE 6. -/
def execHostLinkUp (port : Fin 2) (lanes : Byte) (rate : BitVec 3) (s : State) : Host.Outcome State Fault Refusal :=
  let p : Page := .hp port
  let w := widthOf lanes.toNat
  let r := max 1 (min 6 rate.toNat)
  if trains p s = false then .next s
  else if w = 0 then .next (withPeers (fencePage p 6) s)
  else .next (withPeers (fun s =>
    let s := setHostLink port.val w r lanes.toNat s
    let s := setHostFn port.val 0 { hostFn port.val 0 s with enabled := true } s
    if w < 8 ∨ r < 6 then raise p 10 s else s) s)

/-- The link is gone: an FLR of every function of the port, and what waited for the link is lost (R334). -/
def linkLost (i : Nat) (s : State) : State :=
  let s := { setHostLink i 0 0 0 s with heldOut := sset [] i [] s.heldOut }
  (List.range 16).foldl (fun s f => flr (hostMid s i f) s) s

/-- HOST_LINK_DOWN (R334, R335). -/
def execHostLinkDown (port : Fin 2) (s : State) : Host.Outcome State Fault Refusal :=
  if hostUp port.val s = false then .next s
  else .next (withPeers (fun s => raise (.hp port) 9 (linkLost port.val s)) s)

/-- PERST (R406): the port alone, as link loss. -/
def execPerst (port : Fin 2) (s : State) : Host.Outcome State Fault Refusal :=
  if hostUp port.val s = false then .next s
  else .next (withPeers (fun s => raise (.hp port) 9 (linkLost port.val s)) s)

/-- CPL_TIMEOUT (R335). -/
def execCplTimeout (port : Fin 2) (s : State) : Host.Outcome State Fault Refusal :=
  .next (raise (.hp port) 11 (satInc (.hp port) Reg.HP_HP_ERR_CNT_TIMEOUT 1 s))

/-- LINK_RETURN_TO_L0 (R334): the writes that waited leave, oldest first. -/
def execLinkReturnToL0 (port : Fin 2) (s : State) : Host.Outcome State Fault Refusal :=
  if hostUp port.val s = false then .next s else
  let w := sget [] port.val s.heldOut
  let s := { fset (.hp port) Reg.HP_HP_LINK_PM 0 s with heldOut := sset [] port.val [] s.heldOut }
  .next (w.foldl (fun s o => push o s) s)

/-- CONFIGURATION_REQUEST (R325, R332): the physical function's D3hot takes the link to L1. -/
def execConfigurationRequest (c : ConfigWrite) (s : State) : Host.Outcome State Fault Refusal :=
  if hostUp c.port.val s = false then .next s
  else .next (withPeers (fun s =>
    let s := setHostFn c.port.val c.function.val
      { enabled := true, d3hot := c.d3hot, busMaster := c.busMaster, reset := false } s
    if c.function.val = 0 ∧ c.d3hot = true then fset (.hp c.port) Reg.HP_HP_LINK_PM 2 s else s) s)

/-! ## Mailboxes (R325, R326) -/

/-- The message an end has composed. -/
def composed (x : MbxEnd) : List W32 := sgetAll 0 0 16 x.tx

/-- Send toward the peer: a full queue keeps the message for a retry. -/
def mailSend (m : Nat) (mid : W16) (s : State) : State :=
  match mbxEnd s m mid with
  | none => s
  | some e =>
    if 4 ≤ (mailOf m (!e) s).queue.length then raiseMail m e 11 s
    else mailIn m (!e) (composed (mailOf m e s)) s

/-- MBX_SEND (R325). -/
def execMbxSend (mid : W16) (mbx : Fin 64) (s : State) : Host.Outcome State Fault Refusal :=
  .next (guarded ⟨mid, 0⟩ (.mbx mbx) 0x104 (mailSend mbx.val mid) s)

/-- Remove the head message: the sender sees TX_FREE, and a reply of firmware that waited takes the place. -/
def mailPop (m : Nat) (mid : W16) (s : State) : State :=
  match mbxEnd s m mid with
  | none => s
  | some e =>
    let x := mailOf m e s
    if x.queue.isEmpty then s
    else
      let s := raiseMail m (!e) 9 (setMail m e { x with queue := x.queue.drop 1, late := x.late.drop 1 } s)
      match x.late[0]? with
      | some words => mailIn m e words s
      | none => s

/-- MBX_RECV_POP (R325). -/
def execMbxRecvPop (mid : W16) (mbx : Fin 64) (s : State) : Host.Outcome State Fault Refusal :=
  .next (guarded ⟨mid, 0⟩ (.mbx mbx) 0x108 (mailPop mbx.val mid) s)

/-- MAILBOX_INVALID (R326): the reply echoes OP and TAG. -/
def execMailboxInvalid (env : Env) (op : W16) (s : State) : Host.Outcome State Fault Refusal :=
  if reachesFirmware env s = true then .next (reply env op.toNat 0x0085 0 0 s) else .next s

/-- The bytes of a 384-bit value, least significant first. -/
def dataBytes (data : BitVec 384) : List Byte := leBytes 48 data.toNat

/-- The words of the ID_PROGRAM reply: ID_STAT.REASON in byte 8 (R326). -/
def idReply (tag : W32) (reason : Nat) : List W32 :=
  [0x20, tag, BitVec.ofNat 32 reason] ++ List.replicate 13 0

/-- Firmware programs a field as a control complex does, and replies. -/
def firmwareId (env : Env) (field : Nat) (data : List Byte) (s : State) : State :=
  let mid := match mbxEnd s env.mbx.val env.mid with
    | some e => mbtMid s env.mbx.val (!e)
    | none => ccMid s .north
  let reason := if field < 64 then idRefusal mid field s else 1
  let s := if reason = 0 then idProgram mid field data s else s
  replyTo env (idReply env.tag reason) s

/-- ID_PROGRAM (R326): while a program runs, firmware waits for its end. -/
def execIdProgram (env : Env) (field : Byte) (data : BitVec 384) (s : State) : Host.Outcome State Fault Refusal :=
  if reachesFirmware env s = false then .next s
  else if s.ws.idBusy ≠ none then .next { s with deferred := s.deferred ++ [.idProgram env field data] }
  else .next (firmwareId env field.toNat (dataBytes data) s)

/-- The first ID_PROGRAM that waits runs. -/
def nextIdProgram (s : State) : State :=
  match (s.deferred.filterMap fun i => match i with
    | .idProgram env field data => some (i, env, field, data)
    | _ => none)[0]? with
  | some x => firmwareId x.2.1 x.2.2.1.toNat (dataBytes x.2.2.2) { s with deferred := s.deferred.erase x.1 }
  | none => s

/-- ID_DONE (R182). -/
def execIdDone (s : State) : Host.Outcome State Fault Refusal :=
  match s.ws.idBusy with
  | none => .next s
  | some x =>
    let bytes := if idKind x.1 = .value then idWord x.2 else List.replicate 16384 0
    let s := modWs (fun w => { w with idBusy := none }) (setCw (idCwa x.1) (some bytes) s)
    .next (nextIdProgram (raise (.wsc .north) 18 (setIdStat 2 0 (loadIdentity s))))

end Sys2Proof.Machine
end

