-- ==== Sys2Proof/Machine/Ring.lean ====
section
/-! DEFINITION. The Cibel Ring (R336 to R350): links, end-to-end delivery, enumeration and joining, the bypass, WAKE. Port 0
is Ring A, port 1 Ring B. The order of `ring.nodes` is the ring's; in a chain the first node has no Ring A partner and
the last no Ring B partner. -/

namespace Sys2Proof.Machine

/-! ## The node -/

/-- This device's serial number (R193). -/
def ownSerial (s : State) : Nat :=
  (List.range 4).foldl (fun v i => v + fgetI (.wsc .north) Reg.WSC_SERIAL_SERIAL i s * 2 ^ (32 * i)) 0
/-- This device's ring seed. -/
def ownSeed (s : State) : Nat := wideGet (.wsc .north) Reg.WSC_RING_SEED_LO_SEED Reg.WSC_RING_SEED_HI_SEED s
/-- RING_STAT.STATE: 0 WAITING, 1 ENUMERATING, 2 JOINED, 3 EXCLUDED. -/
def ringState (s : State) : Nat := fget (.rg 0) Reg.RG_RING_STAT_STATE s
/-- The node leads its ring: strapped RING_HEAD, and no head of a lower seed has been met (R343, R344). -/
def isHead (s : State) : Bool := s.pins.ringHead && !s.ring.ordinary
/-- RING_ID reads the same in both pages. -/
def setRingId (id : Nat) (s : State) : State := fset (.rg 1) Reg.RG_RING_ID_ID id (fset (.rg 0) Reg.RG_RING_ID_ID id s)
/-- An event of the ring as a whole latches in both pages. -/
def raiseRgs (bit : Nat) (s : State) : State := raise (.rg 1) bit (raise (.rg 0) bit s)
/-- A control packet leaves by both ports. -/
def controlBoth (ty : Nat) (args : List Nat) (s : State) : State := emit (.control 1 ty args) (emit (.control 0 ty args) s)
/-- What a control packet says of the map: closed, number of nodes, their IDs and serials. -/
def mapArgs (closed : Bool) (ns : List (Nat × Nat)) : List Nat :=
  (if closed then 1 else 0) :: ns.length :: ns.flatMap fun n => [n.1, n.2]
/-- NODE_MAP of a list of nodes. -/
def mapBits (ns : List (Nat × Nat)) : Nat := ns.foldl (fun v n => v ||| 2 ^ (n.1 % 32)) 0

/-- The map changes (R341, R346): nodes that left are noted, NODE_CHANGE is raised on a change of NODE_MAP, RING_BREAK when
the view goes from closed to chain. -/
def setNodes (closed : Bool) (ns : List (Nat × Nat)) (s : State) : State :=
  let p : Page := .rg 0
  let gone := (s.ring.nodes.filter fun n => !ns.any fun m => decide (m.1 = n.1)).map fun n => (n.1, s.timer)
  let back := fun (l : List (Nat × Nat)) => l.filter fun x => !ns.any fun m => decide (m.1 = x.1)
  let old := fget p Reg.RG_NODE_MAP_PRESENT s
  let was := fget p Reg.RG_RING_STAT_CLOSED s
  let s := modRing (fun r => { r with nodes := ns, left := back r.left ++ gone }) s
  let s := s |> fset p Reg.RG_NODE_MAP_PRESENT (mapBits ns) |> fset p Reg.RG_RING_STAT_NODES ns.length
    |> fset p Reg.RG_RING_STAT_CLOSED (if closed then 1 else 0)
  let s := if mapBits ns ≠ old then raiseRgs 9 s else s
  if was = 1 ∧ closed = false then raiseRgs 10 s else s

/-- Step 10 of R409: the device is ready and the capability page goes to ON (R43). -/
def becomeReady (s : State) : State :=
  let s := s |> fset .sec Reg.SEC_BOOT_STAT_STAGE 8
    |> fset .sec Reg.SEC_BOOT_TIME_US ((s.timer - s.releasedAt) * 16 / 1000)
  raise .cap 0 { s with phase := .ready }

/-- Steps 1 to 9 have run (BOOT_STAT.STAGE 6), and only the ring keeps the device from step 10. -/
def awaitsRing (s : State) : Bool := decide (s.phase = .starting ∧ fget .sec Reg.SEC_BOOT_STAT_STAGE s = 6)

/-- The ring has settled (R419). -/
def ringSettled (s : State) : State :=
  if awaitsRing s = true ∧ (ringState s = 2 ∨ ringState s = 3) then becomeReady s else s

/-- The node has joined under an ID (R343). -/
def joined (id : Nat) (s : State) : State :=
  ringSettled (raiseRgs 8 (fset (.rg 0) Reg.RG_RING_STAT_STATE 2 (fset (.rg 0) Reg.RG_RING_STAT_NODE_ID id s)))

/-! ## Links (R336, R338, R345, R346) -/

/-- The conditions under which the device holds its bypass open (R345, R411). -/
def holdsOpen (s : State) : Bool :=
  decide (s.phase = .ready ∨ s.phase = .starting) && decide (fget (.rg 0) Reg.RG_RING_CTRL_LEAVE s = 0) &&
    decide (ringState s ≠ 3) && decide (fget .sec Reg.SEC_BOOT_STAT_MODE s ≠ 1)

/-- The device is inserted into the ring. -/
def inserted (s : State) : Bool := decide (fget (.rg 0) Reg.RG_RING_STAT_BYPASS_OPEN s = 1)

/-- A ring link goes down. -/
def dropLink (i : Nat) (s : State) : State :=
  let s := fset (rgPage i) Reg.RG_RLINK_STAT_WIDTH 0 (fset (rgPage i) Reg.RG_RLINK_STAT_LANES_OK 0 s)
  setRingPort i { ringPort i s with trainedAt := none } s

/-- The packets kept for a port leave by the other one (R340, R346). -/
def resendAll (i : Nat) (s : State) : State :=
  let mine := s.ring.kept.filter fun k => decide (k.1 = i)
  let n := mine.length
  let s := wrapInc (rgPage (1 - i)) Reg.RG_E2E_RESEND_CNT_COUNT n s
  let s := modRing (fun r => { r with kept := r.kept.map fun k => (1 - i, k.2) }) (setRingPort i { ringPort i s with waiting := [] } s)
  mine.foldl (fun s k => launch (1 - i) { k.2 with dir := decide (i = 1) } s) s

/-- This node's link at a port is lost for good: a closed ring becomes a chain that ends here; a chain loses the nodes
beyond (R346). -/
def breakAt (i : Nat) (s : State) : State :=
  let s := dropLink i s
  if ringState s ≠ 2 then s else
  let ns := s.ring.nodes
  let k := nodeAt (nodeId s) ns
  if fget (.rg 0) Reg.RG_RING_STAT_CLOSED s = 1 then
    let order := if i = 1 then ns.drop (k + 1) ++ ns.take (k + 1) else ns.drop k ++ ns.take k
    resendAll i (setNodes false order s)
  else
    let order := if i = 1 then ns.take (k + 1) else ns.drop k
    raiseRgs 10 (setNodes false order s)

/-- RING_BREAK (R346). -/
def execRingBreak (port : Fin 2) (s : State) : Host.Outcome State Fault Refusal :=
  if ringUp port.val s = true then .next (breakAt port.val s) else .next s

/-- The widest ring width that good lanes allow: x8, x4 or x2 (R336). -/
def ringWidth (lanes : Nat) : Nat := if widthOf lanes < 2 then 0 else widthOf lanes

/-- RING_LINK_TRAINED (R336, R346): held packets leave; a port that cannot train at x2 is fenced with CAUSE 6. -/
def execRingLinkTrained (port : Fin 2) (lanes : Byte) (s : State) : Host.Outcome State Fault Refusal :=
  let i := port.val
  let p := rgPage i
  let w := ringWidth lanes.toNat
  if trains p s = false ∨ inserted s = false then .next s
  else if w = 0 then .next (fencePage p 6 (breakAt i s))
  else
    let s := fset p Reg.RG_RLINK_STAT_WIDTH w (fset p Reg.RG_RLINK_STAT_LANES_OK lanes.toNat s)
    let s := setRingPort i { ringPort i s with trainedAt := some s.timer, unacked := [], replays := 0 } s
    .next (drain i (if w < 8 then raise p 11 s else s))

/-- BYPASS_CHANGE (R345, R346): the links on either side drop and retrain to new partners. -/
def execBypassChange (s : State) : Host.Outcome State Fault Refusal :=
  if inserted s = holdsOpen s then .next s
  else .next (dropLink 1 (dropLink 0 (fset (.rg 0) Reg.RG_RING_STAT_BYPASS_OPEN (if holdsOpen s then 1 else 0) s)))

/-- RING_REPLAY (R338): four replays of one flit take the link through retraining. -/
def execRingReplay (port : Fin 2) (count : Nat) (s : State) : Host.Outcome State Fault Refusal :=
  let i := port.val
  let x := ringPort i s
  let n := min count x.unacked.length
  if ringUp i s = false ∨ n = 0 then .next s
  else
    let s := wrapInc (rgPage i) Reg.RG_RLINK_REPLAY_CNT_COUNT n s
    let s := setRingPort i { x with replays := x.replays + 1 } s
    .next (if 4 ≤ x.replays + 1 then dropLink i s else s)

/-- What a flit tells the sender (R338): ACK names the highest FSEQ received in order, and credits return. -/
def takeAck (i : Nat) (f : Flit) (s : State) : State :=
  let x := ringPort i s
  let left := if x.unacked.contains f.ack.toNat then (x.unacked.dropWhile fun q => decide (q ≠ f.ack.toNat)).drop 1 else x.unacked
  let vc := f.cvc.toNat
  let x := { x with unacked := left, replays := if left = x.unacked then x.replays else 0,
                    credits := sset 0 vc (sget 0 vc x.credits + f.credits.toNat) x.credits }
  drain i (setRingPort i x s)

/-- A flit arrives (R338): dropped and NAKed when its CRC fails or it is out of order, else acknowledged. The second
component says that its packets are taken. -/
def takeFlit (i : Nat) (f : Flit) (s : State) : State × Bool :=
  let x := ringPort i s
  let before := (x.expect + 4095) % 4096
  if f.crcOk = false ∨ f.fseq.toNat ≠ x.expect then (emit (.flitAck i before true) s, false)
  else
    let s := setRingPort i { x with expect := (x.expect + 1) % 4096 } s
    (takeAck i f (emit (.flitAck i f.fseq.toNat false) s), true)

/-! ## End-to-end delivery (R339, R340) -/

/-- The packet is dropped and counted under R339. -/
def foreign (i : Nat) (s : State) : State := raise (rgPage i) 13 (satInc (rgPage i) Reg.RG_E2E_DROP_CNT_FOREIGN 1 s)

/-- A packet is one that R339 admits: a valid TYPE, reserved fields 0, for control types this node's RING_ID once it has
one. -/
def pktOk (p : RingPkt) (s : State) : Bool :=
  decide (p.ty.toNat ≤ 10) && !p.rsvd &&
    (decide (p.ty.toNat < 4) || decide (ringState s = 0) ||
      decide (p.addr.toNat % 2 ^ 32 = fget (.rg 0) Reg.RG_RING_ID_ID s))

/-- Forward a packet out of the port it did not arrive on, or drop it when its budget is spent (R339, R341). -/
def forward (i : Nat) (p : RingPkt) (s : State) : State :=
  if p.hops.toNat ≤ 1 then foreign i s else launch (1 - i) { p with hops := p.hops - 1 } s

/-- The key of a source and virtual channel. -/
def srcKey (p : RingPkt) : Nat := 4 * p.src.toNat + p.vc.toNat

/-- The destination takes packets of each source and channel in ESEQ order and acknowledges; others are discarded. -/
def inOrder (i : Nat) (p : RingPkt) (s : State) : State × Bool :=
  let e := sget 0 (srcKey p) s.ring.rxSeq
  if p.eseq.toNat ≠ e then (s, false)
  else
    let s := modRing (fun r => { r with rxSeq := sset 0 (srcKey p) ((e + 1) % 65536) r.rxSeq }) s
    (emit (.control i 9 [p.src.toNat, p.vc.toNat, e]) s, true)

/-- E2E_ACK (R340): every packet up to its ESEQ is released. -/
def execE2eAck (port : Fin 2) (src : BitVec 5) (vc : BitVec 2) (eseq : W16) (s : State) : Host.Outcome State Fault Refusal :=
  let acked := fun (k : Nat × RingPkt) =>
    decide (k.2.dst = src ∧ k.2.vc = vc ∧ (eseq.toNat + 65536 - k.2.eseq.toNat) % 65536 < 32768)
  let s := modRing (fun r => { r with kept := r.kept.filter fun k => !acked k }) s
  .next (if keptBytes port.val s ≤ 262144 then drain port.val s else s)

/-- What a source does with a packet that its destination will never acknowledge (R340): a read completes with Completer
Abort, a posted write is discarded and counted. -/
def abandon (s : State) (p : RingPkt) : State :=
  if p.vc = 0 then ringDropped s
  else if p.vc = 1 then
    match (s.ring.reads.filter fun r => decide (r.1 = p.tag.toNat))[0]? with
    | some r => hostAbort r.2.1 r.2.2 (modRing (fun x => { x with reads := x.reads.filter fun y => decide (y.1 ≠ r.1) }) s)
    | none => s
  else s

/-- E2E_DROP (R340): 1 ms after a node left the map. -/
def execE2eDrop (dst : BitVec 5) (s : State) : Host.Outcome State Fault Refusal :=
  match (s.ring.left.filter fun x => decide (x.1 = dst.toNat))[0]? with
  | none => .next s
  | some x =>
    let s := reach (x.2 + ticks 1000) s
    let lost := s.ring.kept.filter fun k => decide (k.2.dst = dst)
    let trim := fun (x : RingPort) => { x with waiting := x.waiting.filter fun p => decide (p.dst ≠ dst ∨ 3 ≤ p.vc.toNat) }
    let s := modRing (fun r => { r with kept := r.kept.filter (fun k => decide (k.2.dst ≠ dst)),
                                        left := r.left.filter (fun y => decide (y.1 ≠ dst.toNat)),
                                        portA := trim r.portA, portB := trim r.portB }) s
    .next (lost.foldl (fun s k => abandon s k.2) s)

/-! ## Enumeration (R343) -/

/-- The head sends ENUM out of Ring B. -/
def startEnum (s : State) : State :=
  let id := ownSeed s % 2 ^ 32
  let s := setRingId id (fset (.rg 0) Reg.RG_RING_STAT_NODE_ID 0 (fset (.rg 0) Reg.RG_RING_STAT_STATE 1 s))
  let s := modRing (fun r => { r with nodes := [(0, ownSerial s)], serials := [(0, ownSerial s)], enumAt := some s.timer,
                                      second := false }) s
  emit (.control 1 4 [1, id]) s

/-- When the later of the node's ring ports trained, if one has. -/
def trainedAt (s : State) : Option Nat :=
  match s.ring.portA.trainedAt, s.ring.portB.trainedAt with
  | some a, some b => some (max a b)
  | some a, none => some a
  | none, b => b

/-- ENUM_START (R343). -/
def execEnumStart (s : State) : Host.Outcome State Fault Refusal :=
  match trainedAt s with
  | none => .next s
  | some t =>
    if isHead s = true ∧ ringState s = 0 ∧ s.ring.beaconAt = none then .next (startEnum (reach (t + ticks 1000) s)) else .next s

/-- The lowest node ID that nobody holds (R344). -/
def lowestId (s : State) : Option Nat :=
  ((List.range 32).filter fun i => !s.ring.serials.any fun x => decide (x.1 = i))[0]?

/-- The head serves a JOIN: the node's previous ID if it has one, else the lowest free one; the new map goes out in a
BEACON (R344). -/
def serveJoin (serial : Nat) (s : State) : State :=
  let old := ((s.ring.serials.filter fun x => decide (x.2 = serial)).map fun x => x.1)[0]?
  let id := match old with
    | some i => if s.ring.nodes.any (fun n => decide (n.1 = i ∧ n.2 ≠ serial)) then lowestId s else some i
    | none => lowestId s
  match id with
  | none => s
  | some i =>
    let closed := decide (fget (.rg 0) Reg.RG_RING_STAT_CLOSED s = 1)
    let ns := s.ring.nodes.filter (fun n => decide (n.2 ≠ serial)) ++ [(i, serial)]
    let s := modRing (fun r => { r with serials := r.serials.filter (fun x => decide (x.1 ≠ i)) ++ [(i, serial)] }) s
    controlBoth 8 (mapArgs closed ns) (setNodes closed ns s)

/-- The enumeration ends: ENUM_DONE both ways, the head joins, and the JOINs that waited are served (R343, R344). -/
def endEnum (closed : Bool) (s : State) : State :=
  let ns := s.ring.nodes
  let js := s.ring.joins
  let s := modRing (fun r => { r with enumAt := none, joins := [] }) s
  let s := joined 0 (setNodes closed ns (controlBoth 5 (mapArgs closed ns) s))
  js.foldl (fun s j => serveJoin j s) s

/-- ENUM (R343): the head sees its own ENUM return; another node takes NEXT_ID, answers and passes ENUM on, or is
EXCLUDED. -/
def execEnum (port : Fin 2) (nextId : BitVec 6) (ringId : W32) (s : State) : Host.Outcome State Fault Refusal :=
  if ringUp port.val s = false then .next s
  else if isHead s = true then
    if ringState s = 1 ∧ port.val = 0 ∧ s.ring.second = false ∧ ringId.toNat = fget (.rg 0) Reg.RG_RING_ID_ID s then
      .next (endEnum true s)
    else .next s
  else if ringState s = 1 ∨ ringState s = 3 then .next s
  else if 32 ≤ nextId.toNat then .next (ringSettled (fset (.rg 0) Reg.RG_RING_STAT_STATE 3 s))
  else
    let s := s |> fset (.rg 0) Reg.RG_RING_STAT_NODE_ID nextId.toNat |> fset (.rg 0) Reg.RG_RING_STAT_STATE 1
      |> setRingId ringId.toNat
    let s := emit (.control port.val 7 [nextId.toNat, ownSerial s]) s
    .next (emit (.control (1 - port.val) 4 [nextId.toNat + 1, ringId.toNat]) s)

/-- ENUM_RETURN_TIMEOUT (R343): the second ENUM goes out of Ring A; a millisecond after it the chain is taken as
enumerated. -/
def execEnumReturnTimeout (s : State) : Host.Outcome State Fault Refusal :=
  match s.ring.enumAt with
  | none => .next s
  | some t =>
    if isHead s = false ∨ ringState s ≠ 1 then .next s
    else
      let s := reach (t + ticks 1000) s
      if s.ring.second = true then .next (endEnum false s)
      else
        let top := s.ring.serials.foldl (fun m x => max m x.1) 0
        let s := modRing (fun r => { r with enumAt := some s.timer, second := true }) s
        .next (emit (.control 0 4 [top + 1, fget (.rg 0) Reg.RG_RING_ID_ID s]) s)

/-- JOIN_ACK (R343): the nodes behind Ring B follow the head, those behind Ring A stand before it. -/
def execJoinAck (node : BitVec 5) (serial : BitVec 128) (s : State) : Host.Outcome State Fault Refusal :=
  if isHead s = true ∧ ringState s = 1 ∧ s.ring.serials.any (fun x => decide (x.1 = node.toNat)) = false then
    let n := (node.toNat, serial.toNat)
    .next (modRing (fun r => { r with serials := r.serials ++ [n],
                                      nodes := if r.second then n :: r.nodes else r.nodes ++ [n] }) s)
  else .next s

/-- Nodes as a control packet names them. -/
def nodeList (nodes : List (BitVec 5 × BitVec 128)) : List (Nat × Nat) := nodes.map fun n => (n.1.toNat, n.2.toNat)

/-- ENUM_DONE (R343). -/
def execEnumDone (closed : Bool) (nodes : List (BitVec 5 × BitVec 128)) (s : State) : Host.Outcome State Fault Refusal :=
  if ringState s = 1 ∧ isHead s = false then
    .next (joined (fget (.rg 0) Reg.RG_RING_STAT_NODE_ID s) (setNodes closed (nodeList nodes) s))
  else .next s

/-! ## Joining and beacons (R344) -/

/-- JOIN (R344): one that arrives during enumeration waits for ENUM_DONE. -/
def execJoin (serial : BitVec 128) (s : State) : Host.Outcome State Fault Refusal :=
  if isHead s = false then .next s
  else if ringState s = 1 then .next (modRing (fun r => { r with joins := r.joins ++ [serial.toNat] }) s)
  else if ringState s = 2 then .next (serveJoin serial.toNat s)
  else .next s

/-- BEACON_SEND (R344): ID, serial and the node's view of its two links, toward the head. -/
def execBeaconSend (s : State) : Host.Outcome State Fault Refusal :=
  if ringState s ≠ 2 ∨ nodeId s = 0 then .next s
  else
    let up := fun i => if ringUp i s then 1 else 0
    .next (emit (.control (ringRoute 0 s) 8 [nodeId s, ownSerial s, up 0, up 1]) s)

/-- A BEACON at a node that holds no ID: a restarted head rejoins as node 0; a node that finds itself in the map takes its
ID; another asks to join (R344). -/
def beaconWaiting (closed : Bool) (ns : List (Nat × Nat)) (s : State) : State :=
  let me := ownSerial s
  if isHead s = true then
    let ns := if ns.any (fun n => decide (n.1 = 0)) then ns else (0, me) :: ns
    joined 0 (setNodes closed ns (setRingId (ownSeed s % 2 ^ 32) s))
  else match (ns.filter fun n => decide (n.2 = me))[0]? with
    | some n => joined n.1 (setNodes closed ns s)
    | none => controlBoth 6 [me] s

/-- BEACON (R344): what it says updates the map; two heads meet. -/
def execBeacon (node : BitVec 5) (serial : BitVec 128) (seed : W64) (head : Bool) (closed : Bool)
    (nodes : List (BitVec 5 × BitVec 128)) (s : State) : Host.Outcome State Fault Refusal :=
  let ns := nodeList nodes
  let s := modRing (fun r => { r with beaconAt := some s.timer }) s
  let s := if head = true ∧ isHead s = true ∧ seed.toNat < ownSeed s then raiseRgs 12 (modRing (fun r => { r with ordinary := true }) s) else s
  let s := if head = true ∧ isHead s = false ∧ ringState s = 0 then setRingId (seed.toNat % 2 ^ 32) s else s
  let s := if isHead s = true then
      modRing (fun r => { r with serials := r.serials.filter (fun x => decide (x.1 ≠ node.toNat)) ++ [(node.toNat, serial.toNat)] }) s
    else s
  if ringState s = 0 then .next (beaconWaiting closed ns s)
  else if ringState s = 2 ∧ ns ≠ [] then .next (setNodes closed ns s)
  else .next s

/-- RING_CTRL.LEAVE as written (R345). -/
def setLeave (leave : Bool) (s : State) : State := fset (.rg 0) Reg.RG_RING_CTRL_LEAVE (if leave then 1 else 0) s

/-- LEAVE_WRITE (R345): a write through either page acts once. -/
def execLeaveWrite (w : Wr) (port : Fin 2) (leave : Bool) (s : State) : Host.Outcome State Fault Refusal :=
  .next (guarded w (.rg port) 0x10C (setLeave leave) s)

/-- REENUM renumbers the ring at its head (R344). -/
def reenum (s : State) : State := if isHead s = true then startEnum s else s

/-- REENUM (R344). -/
def execReenum (w : Wr) (port : Fin 2) (s : State) : Host.Outcome State Fault Refusal :=
  .next (guarded w (.rg port) 0x10C reenum s)

/-! ## Waking others (R349) -/

/-- A WAKE ordered set leaves a port; its link leaves L0 and retrains. -/
def sendWake (i node : Nat) (s : State) : State := dropLink i (emit (.wakeSet i node) s)

/-- RING_CTRL.WAKE_GO: toward the node's place in the map, or by both ports where the map has no place for it. -/
def wakeNode (node : Nat) (s : State) : State :=
  let s := fset (.rg 0) Reg.RG_RING_CTRL_WAKE_NODE node s
  if inMap node s = true then sendWake (ringRoute node s) node s else sendWake 1 node (sendWake 0 node s)

/-- WAKE_GO (R349). -/
def execWakeGo (w : Wr) (port : Fin 2) (node : BitVec 5) (s : State) : Host.Outcome State Fault Refusal :=
  .next (guarded w (.rg port) 0x10C (wakeNode node.toNat) s)

/-- WAKE_RELAY (R349): toward the node beyond. -/
def execWakeRelay (port : Fin 2) (node : BitVec 5) (s : State) : Host.Outcome State Fault Refusal :=
  if ringState s = 2 then .next (sendWake (1 - port.val) node.toNat s) else .next s

/-- The check of a WAKE repetition (R349): x^7 + x^3 + 1 over its 13 bits, as they are sent. -/
def wakeCrc (v : Nat) : Nat :=
  (List.range 13).foldl (fun c i =>
    let top := (c / 64 + v / 2 ^ i) % 2
    (c * 2 % 128) ^^^ (if top = 1 then 0x09 else 0)) 0

/-- A repetition has a good check and names a node and the low bits of a ring. -/
def wakeNames (w : W32) (node ringId : Nat) : Bool :=
  let v := bitsOf w.toNat 12 13
  decide (bitsOf w.toNat 0 12 = 0xA5C ∧ bitsOf v 0 5 = node ∧ bitsOf v 5 8 = ringId % 256 ∧ bitsOf w.toNat 25 7 = wakeCrc v)

end Sys2Proof.Machine
end

