-- ==== Sys2Proof/Machine/Halves.lean ====
section
/-! DEFINITION. Leadership, containment and live firmware update (chapter 14): the referee and its lease, takeover and
handoff, half fences and returns, the bridge, and firmware replacement. -/

namespace Sys2Proof.Machine

/-! ## Replicas and control complexes -/

/-- A referee replica. -/
def replica (h : Half) (s : State) : Replica := if h = .north then s.replicaN else s.replicaS
/-- Replace it. -/
def setReplica (h : Half) (x : Replica) (s : State) : State :=
  if h = .north then { s with replicaN := x } else { s with replicaS := x }
/-- A control complex. -/
def complex (h : Half) (s : State) : Complex := if h = .north then s.complexN else s.complexS
/-- Replace it. -/
def setComplex (h : Half) (x : Complex) (s : State) : State :=
  if h = .north then { s with complexN := x } else { s with complexS := x }

/-- A bin with one half (R3, R5). -/
def oneHalf (s : State) : Bool := decide (s.fuses.sizeClass.val = 2)
/-- The half that TIEBRK names (R360); the only one of a one-half bin. -/
def tieHalf (s : State) : Half := if oneHalf s then .north else s.pins.tieBrk
/-- The replica answers (R373). -/
def answers (r : Half) (s : State) : Bool := present s (.rf r) && !(replica r s).silent && !(replica r s).out
/-- LEASE_STAT.HOLDER. -/
def holderOf (r : Half) (s : State) : Nat := fget (.rf r) Reg.RF_LEASE_STAT_HOLDER s
/-- LEASE_TOKEN. -/
def tokenOf (r : Half) (s : State) : Nat := fget (.rf r) Reg.RF_LEASE_TOKEN_TOKEN s
/-- LEASE_EXP. -/
def expOf (r : Half) (s : State) : Nat := wideGet (.rf r) Reg.RF_LEASE_EXP_LO_EXP Reg.RF_LEASE_EXP_HI_EXP s
/-- Set LEASE_EXP. -/
def setExp (r : Half) (t : Nat) (s : State) : State := wideSet (.rf r) Reg.RF_LEASE_EXP_LO_EXP Reg.RF_LEASE_EXP_HI_EXP t s
/-- LEASE_STAT.PARTITIONED. -/
def partitioned (r : Half) (s : State) : Bool := decide (fget (.rf r) Reg.RF_LEASE_STAT_PARTITIONED s = 1)
/-- The number of a holder in LEASE_STAT. -/
def holderNum (h : Half) : Nat := 1 + Half.num h

/-- The replicas whose word counts (R357, R360): the one replica of a one-half bin, the TIEBRK side's alone while it is
partitioned, else those that answer. -/
def voices (s : State) : List Half :=
  if oneHalf s = true ∨ partitioned (tieHalf s) s = true then [tieHalf s]
  else [Half.north, Half.south].filter fun r => answers r s

/-- The holder's EXP: the earlier of those granted (R357). -/
def leaseExp (s : State) : Nat :=
  match voices s with
  | [] => 0
  | r :: t => t.foldl (fun n x => min n (expOf x s)) (expOf r s)

/-- The token in force: every replica that counts has granted it. -/
def leaseToken (s : State) : Nat :=
  match voices s with
  | [] => 0
  | r :: t => t.foldl (fun n x => min n (tokenOf x s)) (tokenOf r s)

/-- The complex holds a lease in force (R357). -/
def inForce (h : Half) (s : State) : Bool :=
  !(voices s).isEmpty && (voices s).all (fun r => decide (holderOf r s = holderNum h)) && decide (s.timer < leaseExp s)

/-- CC_ROLE.ROLE. -/
def roleOf (h : Half) (s : State) : Nat := fget (.cc h) Reg.CC_CC_ROLE_ROLE s

/-- Set the role; CC_LEADER marks a lease gained or lost (R380). -/
def setRole (h : Half) (r : Nat) (s : State) : State :=
  let was := roleOf h s
  let s := fset (.cc h) Reg.CC_CC_ROLE_ROLE r s
  if (decide (was = 1)) != decide (r = 1) then raise (.cc h) 20 s else s

/-- The control complex runs: not fenced, its clock not stopped by its half's level (R382). -/
def ccRuns (h : Half) (s : State) : Bool :=
  usable (.cc h) s && !(complex h s).closed && decide ((halfPower h s).level = .run)

/-! ## Renewal (R358, R359) -/

/-- LEASE_RENEW_SEND (R358). -/
def execLeaseRenewSend (s : State) : Host.Outcome State Fault Refusal :=
  match leaderOf s with
  | none => .next s
  | some h =>
    if ccRuns h s = false then .next s
    else
      let token := BitVec.ofNat 32 (fget (.cc h) Reg.CC_CC_TOKEN_TOKEN s)
      let one := fun (r : Half) (s : State) => if present s (.rf r) then send (.renew r h token) s else s
      .next (one .south (one .north s))

/-- The replica grants a renewal (R358 step 3, R360). -/
def renewOk (r h : Half) (s : State) : Bool :=
  answers r s && decide (holderOf r s = holderNum h ∧ s.timer < expOf r s) && (!partitioned r s || decide (r = tieHalf s))

/-- RENEW (R358): EXP becomes the grant time + 100 µs, and the holder learns the earlier of the two. -/
def execRenew (replica : Half) (from_ : Half) (token : W32) (s : State) : Host.Outcome State Fault Refusal :=
  let s := arrive (.renew replica from_ token) s
  if renewOk replica from_ s = false then .next s
  else
    let s := setExp replica (s.timer + ticks 100) s
    .next (setComplex from_ { complex from_ s with exp := leaseExp s } s)

/-- LEASE_EXPIRE (R358 step 5): no holder is in force, so no complex leads. -/
def execLeaseExpire (s : State) : Host.Outcome State Fault Refusal :=
  match leaderOf s with
  | none => .next s
  | some h => .next (withPeers (setRole h 0) (reach (leaseExp s) s))

/-- STALE_WRITE_GATE (R359). -/
def execStaleWriteGate (cc : Half) (s : State) : Host.Outcome State Fault Refusal :=
  if ccRuns cc s = false ∨ s.timer < (complex cc s).exp ∨ 2 ≤ roleOf cc s then .next s
  else .next (setRole cc 0 (satInc (.cc cc) Reg.CC_CC_STALE_CNT_COUNT 1 s))

/-- REFEREE_POLL (R358, R361): the complex takes TOKEN and EXP; without a lease in force it follows. -/
def execRefereePoll (cc : Half) (s : State) : Host.Outcome State Fault Refusal :=
  if ccRuns cc s = false ∨ (voices s).isEmpty = true then .next s
  else
    let s := s |> fset (.cc cc) Reg.CC_CC_TOKEN_TOKEN (leaseToken s) |> fset (.cc cc) Reg.CC_CC_ROLE_STALE 0
    let s := setComplex cc { complex cc s with exp := leaseExp s } s
    .next (setRole cc (if inForce cc s then 1 else 2) s)

/-! ## The replicas (R357, R360, R373) -/

/-- REPLICA_EXCHANGE (R357). -/
def execReplicaExchange (s : State) : Host.Outcome State Fault Refusal :=
  if answers .north s = false ∨ answers .south s = false ∨ partitioned .north s = true ∨ partitioned .south s = true then
    .next s
  else
    let one := fun (r : Half) (s : State) =>
      fset (.rf r) Reg.RF_LEASE_STAT_PEER_UP 1 (setReplica r { replica r s with heardAt := s.timer } s)
    .next (one .south (one .north s))

/-- PARTITION (R360): the side that TIEBRK names goes on alone. -/
def execPartition (replica : Half) (s : State) : Host.Outcome State Fault Refusal :=
  let p : Page := .rf replica
  if oneHalf s = true ∨ answers replica s = false ∨ partitioned replica s = true then .next s
  else
    let s := reach ((Machine.replica replica s).heardAt + ticks 3) s
    let s := setReplica replica { Machine.replica replica s with partAt := s.timer } s
    let s := s |> fset p Reg.RF_LEASE_STAT_PARTITIONED 1 |> fset p Reg.RF_LEASE_STAT_PEER_UP 0
      |> fset p Reg.RF_LEASE_STAT_ALONE (if replica = tieHalf s then 1 else 0)
      |> satInc p Reg.RF_RF_FAULT_CNT_PARTITIONS 1
    .next (raise p 9 s)

/-- PARTITION_ALONE (R360): from here on the TIEBRK side's replica may grant a new lease alone. -/
def execPartitionAlone (replica : Half) (s : State) : Host.Outcome State Fault Refusal :=
  if partitioned replica s = true ∧ replica = tieHalf s then
    .next (reach ((Machine.replica replica s).partAt + ticks 150) s)
  else .next s

/-- The other side's replica takes the lease state of another (R360, R373); LEADER_CHANGE marks a change of HOLDER. -/
def copyLease (src dst : Half) (s : State) : State :=
  let changed := decide (holderOf src s ≠ holderOf dst s)
  let copy := fun (f : Field) (s : State) => fset (.rf dst) f (fget (.rf src) f s) s
  let s := s |> copy Reg.RF_LEASE_STAT_HOLDER |> copy Reg.RF_LEASE_TOKEN_TOKEN |> copy Reg.RF_LEASE_EXP_LO_EXP
    |> copy Reg.RF_LEASE_EXP_HI_EXP |> copy Reg.RF_LEASE_STAT_LAST_CAUSE |> copy Reg.RF_LEASE_STAT_LEADERLESS
  if changed then raise (.rf dst) 8 s else s

/-- REJOIN (R360). -/
def execRejoin (s : State) : Host.Outcome State Fault Refusal :=
  if answers .north s = false ∨ answers .south s = false ∨ (partitioned .north s = false ∧ partitioned .south s = false) then
    .next s
  else
    let t := tieHalf s
    let one := fun (r : Half) (s : State) =>
      let s := s |> fset (.rf r) Reg.RF_LEASE_STAT_PARTITIONED 0 |> fset (.rf r) Reg.RF_LEASE_STAT_ALONE 0
        |> fset (.rf r) Reg.RF_LEASE_STAT_PEER_UP 1
      raise (.rf r) 10 (setReplica r { replica r s with heardAt := s.timer } s)
    .next (one .south (one .north (copyLease t (Half.other t) s)))

/-- REPLICA_RESTART (R373): the replica reloads from the other one; the third restart that fails within 1 s leaves it
out. -/
def execReplicaRestart (replica : Half) (ok : Bool) (s : State) : Host.Outcome State Fault Refusal :=
  let x := Machine.replica replica s
  if present s (.rf replica) = false ∨ x.out = true then .next s
  else
    let s := satInc (.rf replica) Reg.RF_RF_FAULT_CNT_RESTARTS 1 s
    if ok = true then
      let s := setReplica replica { x with silent := false, restarts := [], heardAt := s.timer } s
      .next (if answers (Half.other replica) s then copyLease (Half.other replica) replica s else s)
    else
      let r := s.timer :: x.restarts.filter fun t => decide (s.timer < t + second)
      .next (setReplica replica { x with silent := true, restarts := r, out := decide (3 ≤ r.length) } s)

/-- LEADERLESS (R373): the TIEBRK replica is out, and the lease has lapsed. -/
def execLeaderless (s : State) : Host.Outcome State Fault Refusal :=
  let r := Half.other (tieHalf s)
  if answers r s = false ∨ partitioned r s = false then .next s
  else
    let s := reach (expOf r s) s
    let s := match leaderOf s with
      | some h => withPeers (setRole h 0) s
      | none => s
    .next (raise (.rf r) 11 (fset (.rf r) Reg.RF_LEASE_STAT_LEADERLESS 1 s))

/-! ## Takeover and handoff (R361 to R364) -/

/-- TAKEOVER_GUARD_END (R361 step 2). -/
def execTakeoverGuardEnd (cc : Half) (s : State) : Host.Outcome State Fault Refusal :=
  if ccRuns cc s = false ∨ roleOf cc s = 1 ∨ (voices s).isEmpty = true then .next s
  else
    let s := reach (leaseExp s + ticks 20) s
    let one := fun (r : Half) (s : State) => if present s (.rf r) then send (.acquire r cc) s else s
    .next (one .south (one .north s))

/-- The replica may grant a lease to the sender (R361 step 3, R360); the first lease has no guard (R417). -/
def acquireOk (r h : Half) (s : State) : Bool :=
  answers r s && !fenced (.cc h) s && present s (.cc h) &&
  decide (holderOf r s = 0 ∨ expOf r s + ticks 20 ≤ s.timer) &&
  (!partitioned r s || decide (r = tieHalf s ∧ (replica r s).partAt + ticks 150 ≤ s.timer))

/-- One replica grants a lease: TOKEN rises when the holder changes (R34). -/
def grantLease (r h : Half) (cause : Nat) (s : State) : State :=
  let p : Page := .rf r
  let changed := decide (holderOf r s ≠ holderNum h)
  let s := setExp r (s.timer + ticks 100) s
  let s := fset p Reg.RF_LEASE_STAT_LEADERLESS 0 s
  if changed = false then s
  else
    let s := s |> fset p Reg.RF_LEASE_TOKEN_TOKEN (tokenOf r s + 1) |> fset p Reg.RF_LEASE_STAT_HOLDER (holderNum h)
      |> fset p Reg.RF_LEASE_STAT_LAST_CAUSE cause
    let s := if cause = 3 then satInc p Reg.RF_LEASE_CHG_CNT_HANDOFF 1 s
      else if cause = 4 then s else satInc p Reg.RF_LEASE_CHG_CNT_TAKEOVER 1 s
    raise p 8 (setReplica r { replica r s with cause := 1 } s)

/-- A complex whose lease has come into force leads; the token's announcement goes out (R361 step 4). -/
def lead' (h : Half) (s : State) : State :=
  let s := if roleOf (Half.other h) s = 1 then setRole (Half.other h) 0 s else s
  let s := fset (.cc h) Reg.CC_CC_TOKEN_TOKEN (leaseToken s) (setComplex h { complex h s with exp := leaseExp s } s)
  send (.announce h) (setRole h 1 s)

/-- ACQUIRE (R361, R34): in force once every replica that counts has granted it. -/
def execAcquire (replica : Half) (from_ : Half) (s : State) : Host.Outcome State Fault Refusal :=
  let s := arrive (.acquire replica from_) s
  if acquireOk replica from_ s = false then .next s
  else if tokenOf replica s = 2 ^ 32 - 1 ∧ holderOf replica s ≠ holderNum from_ then .next (raise (.rf replica) 12 s)
  else
    let cause := if holderOf replica s = 0 then 4 else (Machine.replica replica s).cause
    let s := grantLease replica from_ cause s
    .next (if inForce from_ s then withPeers (lead' from_) s else s)

/-- The pages with BLK_CAP.SHARED = 1, the highest first. -/
def sharedPages : List Page :=
  ((List.range 1056).reverse.map tilePage) ++ ((List.range 16).reverse.map fun i => Page.bm (Fin.ofNat 16 i)) ++
  ((List.range 8).reverse.map fun i => Page.die (Fin.ofNat 8 i)) ++
  [.sec, .pmu, .d2d .south, .d2d .north, .mig .south, .mig .north, .wsc .south, .wsc .north, .cc .south, .cc .north]

/-- What an exec function's next state is. -/
def nextOf (s : State) : Host.Outcome State Fault Refusal → State
  | .next s' => s'
  | _ => s

/-- An image command that waited for a leader runs (R364, R373). -/
def resume' (i : Instr) (s : State) : State :=
  nextOf s (match i with
    | .fetch env a => execFetch env a s
    | .activate env handle sustained place => execActivate env handle sustained place s
    | .replace env handle mode hold pin => execReplace env handle mode hold pin s
    | .retire env handle which => execRetire env handle which s
    | .sourceRelease env handle which => execSourceRelease env handle which s
    | .relocate env handle => execRelocate env handle s
    | .adapterBind env a => execAdapterBind env a s
    | .adapterUnbind env channel handle slot => execAdapterUnbind env channel handle slot s
    | _ => .next s)

/-- The command waits for the identity row, not for a leader (R326). -/
def waitsForId : Instr → Bool
  | .idProgram _ _ _ => true
  | _ => false

/-- Everything that waited for a leader runs, in order. -/
def runDeferred (s : State) : State :=
  (s.deferred.filter fun i => !waitsForId i).foldl (fun s i => resume' i s)
    { s with deferred := s.deferred.filter waitsForId }

/-- TOKEN_ANNOUNCE (R363): every shared page takes the token as a write with no effect; the new leader resumes. -/
def execTokenAnnounce (cc : Half) (s : State) : Host.Outcome State Fault Refusal :=
  let s := arrive (.announce cc) s
  if roleOf cc s ≠ 1 then .next s
  else
    let w : Wr := ⟨ccMid s cc, BitVec.ofNat 32 (fget (.cc cc) Reg.CC_CC_TOKEN_TOKEN s)⟩
    let one := fun (s : State) (p : Page) => if present s p then match epochCheck w p s with
      | .go s => s
      | .stop s => s
      else s
    .next (runDeferred (sharedPages.foldl one s))

/-- The leader gives the lease back: EXP becomes the current timer at both replicas (R364). -/
def giveLease (h : Half) (cause : Nat) (s : State) : State :=
  let one := fun (r : Half) (s : State) =>
    if answers r s = true ∧ holderOf r s = holderNum h then
      setReplica r { replica r s with cause := cause } (setExp r (min (expOf r s) s.timer) s)
    else s
  let s := one .south (one .north s)
  setComplex h { complex h s with exp := min (complex h s).exp s.timer } s

/-- A handoff begins (R364): ignored on the follower and in a one-half bin (R5). -/
def handoff (h : Half) (s : State) : State :=
  if roleOf h s ≠ 1 ∨ oneHalf s = true then s else setRole h 0 (giveLease h 3 s)

/-- YIELD (R364, R380). -/
def execYield (w : Wr) (cc : Half) (s : State) : Host.Outcome State Fault Refusal :=
  .next (guarded w (.cc cc) 0x888 (withPeers (handoff cc)) s)

/-! ## Half fences (R362, R366, R367) -/

/-- The units of a half beside its complex and tiles (R16). -/
def halfUnits (h : Half) : List Page :=
  [.wsc h, .mig h] ++ (List.range 4).map (fun i => Page.die (Fin.ofNat 8 (4 * Half.num h + i))) ++
    (List.range 8).map (fun i => Page.bm (Fin.ofNat 16 (8 * Half.num h + i)))

/-- The tiles of a half, the highest first. -/
def halfTiles (h : Half) : List Nat := (List.range 528).reverse.map fun i => 528 * Half.num h + i

/-- The survivor takes over the credits of a fenced complex (R148). -/
def moveCredits (h : Half) (s : State) : State :=
  (halfTiles .south ++ halfTiles .north).foldl (fun s p =>
    if present s (tilePage p) then modTile p (fun t =>
      if tileHalf p = h then { t with creditOwn := 0, creditOther := t.creditOwn + t.creditOther }
      else { t with creditOwn := t.creditOwn + t.creditOther, creditOther := 0 }) s
    else s) s

/-- What fencing a half does beyond its complex's page (R16, R362, R367): its units take CAUSE 3, its Sustained
primaries send TAKE, dispatch moves, its lease counts as expired. -/
def halfDown (h : Half) (s : State) : State :=
  let s := (halfTiles h).foldl (fun s p => if present s (tilePage p) then fenceTile p 3 s else s) s
  let s := (halfUnits h).foldl (fun s p => if present s p then fencePage p 3 s else s) s
  let s := stopZip h (fenceRange h s)
  let s := wsKick (moveCredits h s)
  let s := { s with reqs := s.reqs.map fun r => if r.cch = h then { r with cch := Half.other h } else r }
  let s := giveLease h 2 s
  let s := setComplex h { complex h s with closed := true, buffer := [] } s
  setRole h 3 (fset (.cc h) Reg.CC_CC_ROLE_SHADOW_OK 0 s)

/-- Fence a half. A half that is fenced already keeps the cause only (R438). -/
def fenceHalf (h : Half) (cause : Nat) (s : State) : State :=
  if present s (.cc h) = false then s
  else if fenced (.cc h) s = true then fencePage (.cc h) cause s
  else withPeers (fun s => raiseCcs 22 (halfDown h (fencePage (.cc h) cause s))) s

/-- CC_HEARTBEAT (R367). -/
def execCcHeartbeat (cc : Half) (s : State) : Host.Outcome State Fault Refusal :=
  if ccRuns cc s = false then .next s
  else
    let s := setComplex cc { complex cc s with beatAt := s.timer } s
    .next (setComplex (Half.other cc) { complex (Half.other cc) s with missed := 0 } s)

/-- PEER_LOST (R367): the third heartbeat in a row is missed on every path. -/
def execPeerLost (lost : Half) (s : State) : Host.Outcome State Fault Refusal :=
  let o := Half.other lost
  if present s (.cc lost) = false ∨ fenced (.cc lost) s = true ∨ ccRuns o s = false ∨ 3 ≤ (complex o s).missed then .next s
  else
    let s := reach ((complex lost s).beatAt + ticks 4) s
    let s := setComplex o { complex o s with missed := 3 } s
    .next (raise (.cc o) 21 (wrapInc (.cc o) Reg.CC_CC_HB_MISS_COUNT 3 s))

/-- CC_WATCHDOG_EXPIRE (R367). -/
def execCcWatchdogExpire (cc : Half) (s : State) : Host.Outcome State Fault Refusal :=
  if present s (.cc cc) = false then .next s
  else .next (fenceHalf cc 6 (setComplex cc { complex cc s with dogAt := some s.timer } s))

/-- HALF_FENCE (R362, R367). -/
def execHalfFence (half : Half) (cause : BitVec 4) (s : State) : Host.Outcome State Fault Refusal :=
  .next (fenceHalf half cause.toNat s)

/-- A task of this request stands on a tile of the half, or waits there as a signal. -/
def taskOnHalf (half : Half) (chan : Nat) (seq : W32) (s : State) : Bool :=
  (s.tiles.any fun x => decide (tileHalf x.1 = half) &&
    ((x.2.deque.any fun e => decide (e.d.channel.toNat = chan ∧ e.d.seq = seq ∧ e.st ≠ .shadow)) ||
      x.2.spill.any fun g => decide (g.req.channel.toNat = chan ∧ g.req.seq = seq))) ||
  s.mesh.any fun m => match m with
    | .post p d shadow _ => decide (tileHalf p = half ∧ d.channel.toNat = chan ∧ d.seq = seq) && !shadow
    | _ => false

/-- The handle's placement has mirrors, which take over (R131). -/
def sustainedHandle (h : Nat) (s : State) : Bool := ((handleSt h s).map fun x => x.sustained).getD false

/-- HALF_LOSS_COMPLETIONS (R367): requests and rallies with a task on the fenced half end TILE_LOST; those of a
Sustained placement go on at their mirrors. -/
def execHalfLossCompletions (half : Half) (s : State) : Host.Outcome State Fault Refusal :=
  if fenced (.cc half) s = false ∨ ccRuns (Half.other half) s = false then .next s
  else
    let lost := s.reqs.filter fun r =>
      decide (r.st = .running) && taskOnHalf half r.chan r.seq s && !sustainedHandle r.handle s
    let rallies := (List.range 16).filterMap fun i =>
      match (rallyOf i s).running, (rallyOf i s).handle with
      | some r, some h => match lead r with
        | some m => if taskOnHalf half m.chan m.seq s = true ∧ sustainedHandle h s = false then some (i, r) else none
        | none => none
      | _, _ => none
    let s := lost.foldl (fun s r => abortReq r 0x0025 s) s
    .next (rallies.foldl (fun s x => endRally x.1 { x.2 with fails := (0, 255, 0x0025, 0xFFFF, true) :: x.2.fails } s) s)

/-- A unit of a returning half: a failed self-test keeps it fenced, else its half fence is over, and with the last cause
repaired it comes back (R372, R438). -/
def unitReturn (failed : List Page) (p : Page) (s : State) : State :=
  if present s p = false ∨ fenced p s = false then s
  else
    let s := causeDone p 3 s
    if failed.contains p then setCauses p (causesOf p s ++ [(1, false)]) s
    else if allRepaired p s then
      let s := unfence p (if blk p s = .stopping then stopDone p s else s)
      match p with
      | .tile t => modTile t.val (fun x => { x with bankA := {}, bankB := {} }) s
      | _ => s
    else s

/-- HALF_RETURN (R372): the complex restarts, tests its half's units, loads its shadow and follows. Credits return as
slots free (R148). -/
def execHalfReturn (half : Half) (failed : List Page) (s : State) : Host.Outcome State Fault Refusal :=
  if present s (.cc half) = false ∨ fenced (.cc half) s = false ∨ (complex half s).returning = false then .next s
  else .next (withPeers (fun s =>
    let s := setCauses (.cc half) ((causesOf (.cc half) s).map fun c => (c.1, true)) s
    let s := unfence (.cc half) (if blk (.cc half) s = .stopping then stopDone (.cc half) s else s)
    let s := (halfUnits half).foldl (fun s p => unitReturn failed p s) s
    let s := (halfTiles half).foldl (fun s p => unitReturn failed (tilePage p) s) s
    let s := s |> fset (.cc half) Reg.CC_CC_TOKEN_TOKEN (leaseToken s) |> fset (.cc half) Reg.CC_CC_ROLE_STALE 0
      |> fset (.cc half) Reg.CC_CC_ROLE_SHADOW_OK 1
    let s := setComplex half { exp := leaseExp s, beatAt := s.timer } s
    setRole half 2 s) s)

/-- MIG_ENGINE_FENCE (R366, R370). -/
def execMigEngineFence (half : Half) (s : State) : Host.Outcome State Fault Refusal :=
  if present s (.mig half) = false ∨ fenced (.mig half) s = true then .next (if present s (.mig half) then fencePage (.mig half) 6 s else s)
  else .next (stopZip half (fenceRange half (fencePage (.mig half) 6 s)))

/-! ## The bridge (R17, R371) -/

/-- D2D_STAT from the fenced groups, and the fence both pages show: CAUSE 6 for one group, 7 for both (R17). -/
def setGroups (fencedGroups : Nat) (h : Half) (s : State) : State :=
  let p : Page := .d2d h
  let one := decide (fencedGroups = 1 ∨ fencedGroups = 2)
  let s := s |> fset p Reg.D2D_D2D_STAT_GROUP_FENCED fencedGroups |> fset p Reg.D2D_D2D_STAT_GROUP_UP (3 - fencedGroups)
    |> fset p Reg.D2D_D2D_STAT_HALF_RATE (if one then 1 else 0)
  if fencedGroups = 0 then (if fenced p s then unfence p s else s)
  else
    let s := if fenced p s then s else fencePage p 6 s
    let c := if one then 6 else 7
    setCauses p [(c, false)] (fset p Reg.FENCE_CAUSE c s)

/-- Both ends. -/
def onBridge (f : Half → State → State) (s : State) : State := f .south (f .north s)

/-- GROUP_FENCED (R371). -/
def execGroupFenced (group : Fin 2) (training : Bool) (s : State) : Host.Outcome State Fault Refusal :=
  let was := fget (.d2d .north) Reg.D2D_D2D_STAT_GROUP_FENCED s
  if oneHalf s = true ∨ bitsOf was group.val 1 = 1 then .next s
  else
    let now := was + 2 ^ group.val
    .next (onBridge (fun h s =>
      let p : Page := .d2d h
      let s := setGroups now h s
      let s := if fget p Reg.D2D_D2D_ERR_REC_VALID s = 1 then s
        else s |> fset p Reg.D2D_D2D_ERR_REC_GROUP group.val |> fset p Reg.D2D_D2D_ERR_REC_KIND (if training then 1 else 0)
          |> fset p Reg.D2D_D2D_ERR_REC_VALID 1
      let s := raise p 8 s
      if now = 3 then raise p 10 s else s) s)

/-- BRIDGE_RETRAIN (R371). -/
def execBridgeRetrain (group : Fin 2) (ok : Bool) (s : State) : Host.Outcome State Fault Refusal :=
  let was := fget (.d2d .north) Reg.D2D_D2D_STAT_GROUP_FENCED s
  if bitsOf was group.val 1 = 0 then .next s
  else .next (onBridge (fun h s =>
    let p : Page := .d2d h
    let s := satInc p Reg.D2D_D2D_RETRAIN_ATTEMPTS 1 s
    if ok = true then
      raise p 9 (setGroups (was - 2 ^ group.val) h (satInc p Reg.D2D_D2D_RETRAIN_RESTORED 1 s))
    else s) s)

/-! ## Firmware (R184, R185, R374 to R376, R412) -/

/-- The image verifies (R412): MAGIC and LENGTH, a valid key slot that is not revoked, the signature. -/
def fwVerifies (b : List Byte) (s : State) : Bool :=
  let len := field b 8 4
  let key := (b.drop 16).take 97
  let slot := fun (k : Nat) => decide (idValue (1 + k) s = some (sha384 key)) && !idWritten (3 + k) s
  decide (128 ≤ b.length ∧ field b 0 4 = 0x57464243 ∧ 128 ≤ len ∧ len ≤ 33554336 ∧ len + 96 ≤ b.length) &&
    (slot 0 || slot 1) && ecdsaOk key (b.take len) ((b.drop len).take 48) ((b.drop (len + 48)).take 48)

/-- FW_STAT.UPD_STATE of both complexes; FW_UPDATE marks a change (R380). -/
def setUpd (n : Nat) (s : State) : State :=
  let one := fun (h : Half) (s : State) =>
    if present s (.cc h) = true ∧ fget (.cc h) Reg.CC_FW_STAT_UPD_STATE s ≠ n then
      raise (.cc h) 23 (fset (.cc h) Reg.CC_FW_STAT_UPD_STATE n s)
    else s
  one .south (one .north s)

/-- The version now running, as the leader reads it. -/
def runningVersion (s : State) : Nat :=
  fget (.cc ((leaderOf s).getD .north)) Reg.CC_FW_VERSION_VERSION s

/-- The reply of FW_UPDATE (R374). -/
def fwReply (env : Env) (status : W16) (s : State) : State := reply env 0x30 status (runningVersion s) 0 s

/-- An update ends without success. -/
def fwEnd (u : Update) (status : W16) (s : State) : State := fwReply u.env status (setUpd 7 { s with update := none })

/-- FW_UPDATE (R374): its signature is checked in step 1 of R375. -/
def execFwUpdate (env : Env) (ref : W64) (length : W64) (s : State) : Host.Outcome State Fault Refusal :=
  if reachesFirmware env s = false then .next s
  else if isPF env.mid = false then .next (fwReply env 0x0085 s)
  else match leaderOf s with
    | none => .next (fwReply env 0x0093 s)
    | some l =>
      if s.update ≠ none ∨ fenced (.cc .north) s = true ∨ fenced (.cc .south) s = true then .next (fwReply env 0x0093 s)
      else if length.toNat = 0 ∨ 2 ^ 25 < length.toNat ∨ 2 ^ 48 < ref.toNat + length.toNat then .next (fwReply env 0x0091 s)
      else if ownsSpan env.mid ref.toNat length.toNat s = false then .next (fwReply env 0x0064 s)
      else
        let image := rangeBytes ref.toNat length.toNat s
        .next (setUpd 1 { s with update := some { env := env, image := image, version := BitVec.ofNat 32 (field image 4 4),
                                                  step := 1, area := 1 - fget (.cc l) Reg.CC_FW_STAT_AREA s, leader := l } })

/-- Program a boot area with an image, both copies (R165, R375 step 2). -/
def writeArea (area : Nat) (image : List Byte) (s : State) : State :=
  let wipe := fun (s : State) (i : Nat) => clearBlock ((1 + 16 * area + i) * 64 + 62) s
  let s := (List.range 16).foldl wipe s
  (List.range (unitsOf 16384 image.length)).foldl (fun s c =>
    let b := (image.drop (16384 * c)).take 16384
    let b := b ++ List.replicate (16384 - b.length) 0
    setCw (bootCwa area 1 c) (some b) (setCw (bootCwa area 0 c) (some b) s)) s

/-- The next-boot area (FW_STAT.NEXT and the AON boot context, R413). -/
def setNextArea (area : Nat) (s : State) : State :=
  let one := fun (h : Half) (s : State) => if present s (.cc h) then fset (.cc h) Reg.CC_FW_STAT_NEXT area s else s
  one .south (one .north { s with boot := { s.boot with held := true, next := area } })

/-- A control complex goes down for its restart; its units run on (R375). -/
def ccDown (h : Half) (s : State) : State := fset (.cc h) Reg.CC_CC_ROLE_SHADOW_OK 0 (setRole h 0 s)

/-- A control complex comes back from an area and follows. -/
def ccUp (h : Half) (area : Nat) (version : W32) (s : State) : State :=
  let s := s |> fset (.cc h) Reg.CC_FW_STAT_AREA area |> fset (.cc h) Reg.CC_FW_VERSION_VERSION version.toNat
    |> fset (.cc h) Reg.CC_CC_ROLE_SHADOW_OK 1
  setRole h 2 (setComplex h { complex h s with buffer := [] } s)

/-- The lowest peer version that the image accepts. -/
def minPeer (u : Update) : Nat := field u.image 12 4

/-- The end of a step of R375, and the beginning of the next. A one-half bin has one complex to restart (R5). -/
def fwStep (u : Update) (s : State) : State :=
  let next := fun (n : Nat) (s : State) => { s with update := some { u with step := n } }
  let o := Half.other u.leader
  if u.step = 1 then
    let ok := fwVerifies u.image s
    let s := countSig ok s
    if ok = false then fwEnd u 0x0091 s
    else if runningVersion s < minPeer u then fwEnd u 0x0092 s
    else setUpd 2 (next 2 s)
  else if u.step = 2 then next 3 (writeArea u.area u.image s)
  else if u.step = 3 then
    let s := setNextArea u.area s
    if oneHalf s then setUpd 5 (ccDown u.leader (next 6 s)) else setUpd 3 (ccDown o (next 4 s))
  else if u.step = 4 then setUpd 4 (handoff u.leader (ccUp o u.area u.version (next 5 s)))
  else if u.step = 5 then
    if leaderOf s = some o then setUpd 5 (ccDown u.leader (next 6 s)) else s
  else if u.step = 6 then
    let s := ccUp u.leader u.area u.version (next 7 s)
    let s := { s with boot := { s.boot with running := u.area, version := u.version } }
    if oneHalf s = true ∧ inForce u.leader s = true then setRole u.leader 1 s else s
  else fwReply u.env 0 (setUpd 6 { s with update := none })

/-- FW_UPDATE_STEP_END (R375). -/
def execFwUpdateStepEnd (s : State) : Host.Outcome State Fault Refusal :=
  match s.update with
  | none => .next s
  | some u => .next (withPeers (fwStep u) s)

/-- FW_FAILED (R376): the complex that restarts at step 4 or 6 comes back from the old area. -/
def execFwFailed (cc : Half) (s : State) : Host.Outcome State Fault Refusal :=
  match s.update with
  | none => .next s
  | some u =>
    if (u.step = 4 ∧ cc = Half.other u.leader) ∨ (u.step = 6 ∧ cc = u.leader) then
      let old := 1 - u.area
      let s := ccUp cc old (BitVec.ofNat 32 (fget (.cc cc) Reg.CC_FW_VERSION_VERSION s)) (setNextArea old s)
      let s := if oneHalf s = true ∧ inForce cc s = true then setRole cc 1 s else s
      .next (fwEnd u 0x0094 s)
    else .next s

/-- A fetch read of one code word by WSC-N; true when its bytes are good (R167, R170, R187). -/
def fetchRead (cwa : Nat) (r : SenseResult) (s : State) : Bool × State :=
  let p : Page := .wsc .north
  if r.bits ≤ 160 ∨ r.corrects = true then
    let n := min 1023 r.bits
    let s := noteHist .north n s
    (true, if fget p Reg.WSC_WSC_CFG_CORR_WARN s ≤ n then noteWeak .north cwa n s else s)
  else (false, noteFailure (blockOf cwa) false (raise p 11 (satInc p Reg.WSC_UNCORR_CNT_COUNT 1 s)))

/-- The code word enters the buffer of 8, the least recently used leaving (R184). -/
def bufferCw (h : Half) (cw : Nat) (s : State) : State :=
  let x := complex h s
  setComplex h { x with buffer := (cw :: x.buffer.filter fun c => decide (c ≠ cw)).take 8 } s

/-- FIRMWARE_FETCH_MISS (R184, R185): an uncorrectable code word comes from its duplicate; when that is uncorrectable
too, the half is fenced with CAUSE 7. -/
def execFirmwareFetchMiss (cc : Half) (cw : BitVec 11) (r : SenseResult) (dup : SenseResult) (s : State) :
    Host.Outcome State Fault Refusal :=
  if ccRuns cc s = false ∨ (complex cc s).buffer.contains cw.toNat = true then .next s
  else
    let area := fget (.cc cc) Reg.CC_FW_STAT_AREA s
    let s := bondCheck 0 r.bondOk s
    if r.bondOk = false then .next s else
    let a := fetchRead (bootCwa area 0 cw.toNat) r (wrapInc (.wsc .north) Reg.WSC_FETCH_MISS_CNT_COUNT 1 s)
    if a.1 then .next (bufferCw cc cw.toNat a.2)
    else
      let s := raise (.wsc .north) 16 (satInc (.wsc .north) Reg.WSC_FETCH_ERR_CNT_COUNT 1 a.2)
      let b := fetchRead (bootCwa area 1 cw.toNat) dup s
      if b.1 then .next (bufferCw cc cw.toNat b.2) else .next (fenceHalf cc 7 b.2)

end Sys2Proof.Machine
end

