-- ==== Sys2Proof/Machine/Power.lean ====
section
/-! DEFINITION. Power levels, votes, wakes, the power cap, thermal sensors, supply sag, and the save (chapter 15, R377 to
R381, R434 to R436). -/

namespace Sys2Proof.Machine

/-! ## Votes (R385 to R387) -/

/-- How deep a level is; the FROM code of LAST_WAKE (R405). -/
def levelNum : Level → Nat
  | .run => 0
  | .idle => 1
  | .nap => 2
  | .doze => 3
  | .rest => 4
  | .off => 5

/-- The level of a target or floor code. -/
def levelOf (n : Nat) : Level := if n = 2 then .nap else if n = 3 then .doze else if n = 4 then .rest else if n = 1 then .idle else .run

/-- The bit of a tile in TILE_KEEP (R386). -/
def keepTile (p : Nat) (s : State) : Bool := decide (bitsOf (fgetI .pmu Reg.PMU_TILE_KEEP_KEEP (p / 32) s) (p % 32) 1 = 1)

/-- Tiles that a reservation of a class holds while its channel is ON (R386). -/
def heldByClass (cls : Nat) (s : State) : List Nat :=
  ((grantedAll s).filter fun x => decide (x.2.cls = cls) && isOn (chanPage x.1) s).flatMap fun x => setTiles x.2.handle s

/-- Tiles of the sets of requests in flight (R386). -/
def heldInFlight (s : State) : List Nat := (s.reqs.map fun r => r.handle).eraseDups.flatMap fun h => setTiles h s

/-- TILE_PWR.VOTERS: Sustained, Frame, in flight, refresh, bench (R386, R404). -/
def tileVoters (p : Nat) (s : State) : Nat :=
  let t := tileOf p s
  bit ((heldByClass 0 s).contains p) 0 + bit ((heldByClass 1 s).contains p) 1 + bit ((heldInFlight s).contains p) 2 +
    bit (keepTile p s && decide (t.bankA.st = .ready ∨ t.bankB.st = .ready)) 3 +
    bit (isBench s p && decide (logicalOf p s = 0x7FF) && usable (tilePage p) s) 4

/-- A tile's floor: the shallowest of its votes, 7 for none (R385). -/
def tileFloor (p : Nat) (s : State) : Nat :=
  let v := tileVoters p s
  if bitsOf v 0 1 = 1 then 0 else if bitsOf v 1 2 ≠ 0 ∨ bitsOf v 4 1 = 1 then 1 else if bitsOf v 3 1 = 1 then 2 else 7

/-- A function's floor for a half; 1 acts as 0 and a code of no level as none (R385). -/
def voteFloor (n : Nat) : Nat := if n ≤ 1 then 0 else if n ≤ 4 then n else 7

/-- A function's vote for a half. -/
def voteOf (h : Half) (v : W16 × Nat × Nat) : Nat := voteFloor (if h = .north then v.2.1 else v.2.2)

/-- The migration engine has a command or a move in progress. -/
def migBusy (h : Half) (s : State) : Bool :=
  (s.range.cmds.any fun c => decide (c.engine = h)) || (s.range.moves.any fun m => decide (m.engine = h)) ||
    s.zip.cmds.any fun c => decide (c.engine = h)

/-- HALF_VOTES.VOTERS: function, channel, migration engine, WSC, fetch service, a tile above NAP (R386, R404). -/
def halfVoters (h : Half) (s : State) : Nat :=
  let mine := fun (l : List Nat) => l.any fun p => decide (tileHalf p = h)
  let asleep := fun (x : Half) => decide (2 ≤ levelNum (halfPower x s).level)
  bit (s.votes.any fun v => decide (voteOf h v < 7)) 0 +
    bit (mine (heldByClass 0 s) || mine (heldByClass 1 s) || mine (heldInFlight s)) 1 +
    bit (migBusy h s) 2 + bit (s.ws.cmds.any fun c => decide (c.half = h)) 3 +
    bit (decide (h = .north) && (asleep .north || asleep .south)) 4 +
    bit ((halfTiles h).any fun p => present s (tilePage p) && decide (levelNum (tileOf p s).level < 2)) 5

/-- A half's floor (R385); the fetch service's vote is on the weight dies only. -/
def halfFloor (h : Half) (s : State) : Nat :=
  if bitsOf (halfVoters h s) 1 3 ≠ 0 then 0 else s.votes.foldl (fun n v => min n (voteOf h v)) 7

/-- PF_VOTE past its gate: floor 7 for both halves frees the slot; a 17th MID is refused (R387). -/
def writeVote (mid : W16) (fn fs : Nat) (s : State) : State :=
  let others := s.votes.filter fun v => decide (v.1 ≠ mid)
  if fn = 7 ∧ fs = 7 then { s with votes := others }
  else if s.votes.any (fun v => decide (v.1 = mid)) then { s with votes := others ++ [(mid, fn, fs)] }
  else if 16 ≤ s.votes.length then accessDenied .pmu s
  else { s with votes := s.votes ++ [(mid, fn, fs)] }

/-- PF_VOTE_WRITE (R387). -/
def execPfVoteWrite (w : Wr) (floorN : BitVec 3) (floorS : BitVec 3) (s : State) : Host.Outcome State Fault Refusal :=
  .next (guarded w .pmu 0x130 (writeVote w.mid floorN.toNat floorS.toNat) s)

/-! ## Entries (R382 to R384) -/

/-- Tiles of a half that exist. -/
def tilesIn (h : Half) (s : State) : List Nat := (halfTiles h).filter fun p => present s (tilePage p)

/-- A tile begins an entry. -/
def enterTile (p : Nat) (aim : Level) (s : State) : State :=
  modTile p (fun t => { t with moving := .entering aim, boost := false, lateWake := false }) s

/-- Preconditions of a tile's IDLE (R384). -/
def mayIdle (p : Nat) (s : State) : Bool :=
  let t := tileOf p s
  let quiet := fun (b : Bank) => decide (b.st ≠ .writeHeld ∧ b.st ≠ .writing)
  decide (t.level = .run ∧ t.moving = .still ∧ t.sweep = none ∧ t.probe = false) && quiet t.bankA && quiet t.bankB &&
    (t.deque.all fun e => decide (e.st ≠ .ready ∧ e.st ≠ .running)) && (calRunning t).isNone && decide (tileFloor p s ≠ 0)

/-- TILE_IDLE_ENTRY (R384, R385). -/
def execTileIdleEntry (tile : Fin 1056) (s : State) : Host.Outcome State Fault Refusal :=
  if present s (.tile tile) = true ∧ mayIdle tile.val s = true then
    .next (modTile tile.val (fun t => { t with idleSince := s.timer }) (enterTile tile.val .idle s))
  else .next s

/-- PWR_CFG.TILE_TARGET (R404). -/
def tileTarget (s : State) : Nat := if fget .pmu Reg.PMU_PWR_CFG_TILE_TARGET s = 3 then 3 else 2
/-- PWR_CFG.HALF_TARGET (R404). -/
def halfTarget (s : State) : Nat :=
  let t := fget .pmu Reg.PMU_PWR_CFG_HALF_TARGET s
  if t = 3 ∨ t = 4 then t else 2

/-- TILE_DWELL_EXPIRE (R384, R385): with a floor at NAP the tile stays there; with none it drops to its target. -/
def execTileDwellExpire (tile : Fin 1056) (s : State) : Host.Outcome State Fault Refusal :=
  let p := tile.val
  let t := tileOf p s
  let f := tileFloor p s
  let aim := if f = 2 then 2 else tileTarget s
  if present s (.tile tile) = false ∨ t.moving ≠ .still ∨ t.deque ≠ [] ∨ t.spill ≠ [] ∨ f < 2 ∨
      levelNum t.level = 0 ∨ aim ≤ levelNum t.level then .next s
  else .next (enterTile p (levelOf aim) (reach (t.idleSince + ticks (fget .pmu Reg.PMU_PWR_DWELL_TILE_US s)) s))

/-- Every tile of the half rests at this depth or deeper. -/
def tilesAt (h : Half) (d : Nat) (s : State) : Bool :=
  (tilesIn h s).all fun p => decide (d ≤ levelNum (tileOf p s).level ∧ (tileOf p s).moving = .still)

/-- T0 pages with a quarter in a tile of the half. -/
def t0Pages (h : Half) (s : State) : List Nat :=
  (s.range.homes.filter fun x => decide (x.2.st ≠ .free ∧ x.2.tier = 0) &&
    (quartetTiles x.2.loc s).any fun p => decide (tileHalf p = h)).map fun x => x.1

/-- Pages move to T1, counted on a half's page; none when T1 is full. -/
def movePages (h : Half) : List Nat → State → Option State
  | [], s => some s
  | page :: t, s => match t1Any s with
    | none => none
    | some loc =>
      let e := homeOf page s
      movePages h t (wrapInc (.mig h) Reg.MIG_MOVE_CNT_COUNT 1
        (modRange (dropCached page) (setHome page { e with tier := 1, loc := loc, version := (e.version + 1) % 4096 } s)))

/-- Every T0 page of the half moves to T1 (R384), unless T1 has too few free slots. -/
def moveOut (h : Half) (s : State) : Option State := movePages h (t0Pages h s) s

/-- A half begins an entry. -/
def enterHalf (h : Half) (aim : Level) (s : State) : State :=
  setHalfPower h { halfPower h s with moving := .entering aim, lateWake := false } s

/-- When the half became idle: its own mark or the last of its tiles'. -/
def halfIdleSince (h : Half) (s : State) : Nat :=
  (tilesIn h s).foldl (fun n p => max n (tileOf p s).idleSince) (halfPower h s).idleSince

/-- HALF_DWELL_EXPIRE (R384, R385): REST falls back to DOZE while T1 has too few free slots. -/
def execHalfDwellExpire (half : Half) (s : State) : Host.Outcome State Fault Refusal :=
  let x := halfPower half s
  let aim := min (halfTarget s) (halfFloor half s)
  if present s (.cc half) = false ∨ s.phase ≠ .ready ∨ x.moving ≠ .still ∨ aim ≤ levelNum x.level ∨
      tilesAt half (if aim = 2 then 2 else 3) s = false then .next s
  else
    let s := reach (halfIdleSince half s + ticks (fget .pmu Reg.PMU_PWR_DWELL_HALF_US s)) s
    if aim = 4 then
      match moveOut half s with
      | some s => .next (enterHalf half .rest (fset .pmu Reg.PMU_PWR_STAT_REST_BLOCKED 0 s))
      | none =>
        let s := fset .pmu Reg.PMU_PWR_STAT_REST_BLOCKED 1 s
        .next (if levelNum x.level < 3 then enterHalf half .doze s else s)
    else .next (enterHalf half (levelOf aim) s)

/-- A tile's banks are lost (R382); a fenced one stays fenced. -/
def loseBanks (t : Tile) : Tile :=
  let one := fun (b : Bank) => if b.st = .fenced then b else {}
  { t with bankA := one t.bankA, bankB := one t.bankB }

/-- A tile's entry is complete. -/
def tileEntered (p : Nat) (aim : Level) (s : State) : State :=
  let late := (tileOf p s).lateWake
  let s := fset (tilePage p) Reg.TILE_REF_STAT_SLOW (if aim = .nap then 1 else 0) s
  modTile p (fun t =>
    let t := if 3 ≤ levelNum aim then loseBanks t else t
    { t with level := aim, moving := if late then .exiting else .still, lateWake := false }) s

/-- A half's entry is complete; at REST its tiles are off (R383). -/
def halfEntered (h : Half) (aim : Level) (s : State) : State :=
  let x := halfPower h s
  let s := setHalfPower h { x with level := aim, moving := if x.lateWake then .exiting else .still, lateWake := false } s
  let s := if aim = .rest then (tilesIn h s).foldl (fun s p => modTile p (fun t => { loseBanks t with level := .off }) s) s else s
  raise .pmu 12 s

/-- LEVEL_ENTRY_COMPLETE (R382 to R384, R391): a wake that arrived during it starts the exit. -/
def execLevelEntryComplete (dom : Half ⊕ Fin 1056) (s : State) : Host.Outcome State Fault Refusal :=
  match dom with
  | .inl h => match (halfPower h s).moving with
    | .entering aim => .next (withPeers (halfEntered h aim) s)
    | _ => .next s
  | .inr p => match (tileOf p.val s).moving with
    | .entering aim => .next (tileEntered p.val aim s)
    | _ => .next s

/-! ## Wakes and exits (R388 to R391, R398) -/

/-- The AON domain records a wake (R398, R405). -/
def noteWake (src : WakeSrc) (from_ : Nat) (during : Bool) (h : Half) (s : State) : State :=
  let p : Page := .aon
  let s := s |> fset p Reg.AON_LAST_WAKE_SOURCE src.source.toNat |> fset p Reg.AON_LAST_WAKE_FROM from_
    |> fset p Reg.AON_LAST_WAKE_DURING_ENTRY (if during then 1 else 0) |> fset p Reg.AON_LAST_WAKE_PORT src.port.toNat
    |> fset p Reg.AON_LAST_WAKE_NODE src.node.toNat |> fset p Reg.AON_LAST_WAKE_HALF (Half.num h)
    |> wideSet p Reg.AON_WAKE_TIME_LO_TICKS Reg.AON_WAKE_TIME_HI_TICKS s.timer |> wrapInc p Reg.AON_WAKE_CNT_COUNT 1
  let s := raise p 8 s
  if during then raise .pmu 13 s else s

/-- A half is woken (R389 to R391): a wake during an entry waits for its end; one during an exit joins it. -/
def wakeHalf (src : WakeSrc) (note : Bool) (h : Half) (s : State) : State :=
  let x := halfPower h s
  match x.moving with
  | .exiting => s
  | .entering aim =>
    let s := setHalfPower h { x with lateWake := true } s
    if note then noteWake src (levelNum aim) true h s else s
  | .still =>
    if x.level = .run then s
    else
      let s := setHalfPower h { x with moving := .exiting } s
      if note then noteWake src (levelNum x.level) false h s else s

/-- A tile is woken: its half first (R383). -/
def wakeTile (src : WakeSrc) (p : Nat) (s : State) : State :=
  let h := tileHalf p
  let x := halfPower h s
  let t := tileOf p s
  if x.level ≠ .run ∨ x.moving ≠ .still then wakeHalf src true h s
  else match t.moving with
    | .exiting => s
    | .entering aim => noteWake src (levelNum aim) true h (setTile p { t with lateWake := true } s)
    | .still =>
      if t.level = .run then s else noteWake src (levelNum t.level) false h (setTile p { t with moving := .exiting } s)

/-- A wake at OFF: RAIL_EN goes high, and the release of the internal reset follows the rails (R407, R429). -/
def wakeFromOff (src : WakeSrc) (s : State) : State :=
  noteWake src 5 false src.half { s with phase := .resetHeld, pins := { s.pins with railEn := true } }

/-- The device is entering OFF (R394). -/
def enteringOff (s : State) : Bool := decide (fget .pmu Reg.PMU_PWR_CMD_STAT_STATE s = 1)

/-- Wake sources that the AON domain sees at OFF: electrical idle exit, the WAKE ordered set, Ethernet energy, WAKE_AT and
a debug request (R389). -/
def wakesOff (n : Nat) : Bool := decide (n ∈ [2, 4, 5, 9, 10])

/-- A wake source acts (R389): on a tile and its half, or on halves; the first half woken is recorded. -/
def wakeBy (src : WakeSrc) (halves : List Half) (s : State) : State :=
  if s.phase = .off then (if wakesOff src.source.toNat then wakeFromOff src s else s)
  else if enteringOff s then
    if s.powerN.lateWake then s
    else noteWake src 5 true src.half (setHalfPower .north { s.powerN with lateWake := true } s)
  else match src.tile with
    | some p => wakeTile src p.val s
    | none =>
      let asleep := halves.filter fun h => decide ((halfPower h s).level ≠ .run ∨ (halfPower h s).moving ≠ .still)
      match asleep with
      | [] => s
      | h :: t => t.foldl (fun s h => wakeHalf src false h s) (wakeHalf src true h s)

/-- WAKE (R389, R391, R398). -/
def execWake (src : WakeSrc) (s : State) : Host.Outcome State Fault Refusal := .next (withPeers (wakeBy src [src.half]) s)

/-- WAKE_AT_REACHED (R389): 0 in both words disables it (R405). -/
def execWakeAtReached (s : State) : Host.Outcome State Fault Refusal :=
  let at' := wideGet .aon Reg.AON_WAKE_AT_LO_TICKS Reg.AON_WAKE_AT_HI_TICKS s
  if at' = 0 then .next s
  else .next (withPeers (wakeBy { source := 9, port := 0, node := 0, half := .north, tile := none } [.north, .south]) (reach at' s))

/-- A tile is back at RUN; below IDLE each subarray has been calibrated (R390 step 6, R125). -/
def tileRuns (p : Nat) (s : State) : State :=
  let deep := decide (2 ≤ levelNum (tileOf p s).level)
  let s := modTile p (fun t => { t with level := .run, moving := .still, lateWake := false, idleSince := s.timer }) s
  let s := fset (tilePage p) Reg.TILE_REF_STAT_SLOW 0 s
  if deep then (List.range 16).foldl (fun s i => calibrated p i s) s else s

/-- The bank writes of every kept resident placement whose banks in the half were lost (R388). -/
def reloadHalf (h : Half) (s : State) : State :=
  s.handles.foldl (fun s x => match currentOf x.index s with
    | none => s
    | some v => match planOf v s with
      | none => s
      | some plan =>
        if plan.mode = 1 ∨ x.tiles = [] then s
        else plan.wmap.foldl (fun s m =>
          let bank := mapBank plan (!x.shadowB) m
          let lost := (frameTiles (nth 0x3FF x.tiles m.ptile) s).any fun p =>
            decide (tileHalf p = h ∧ ((tileOf p s).bank bank).st = .empty)
          if lost then loadBank v plan x.tiles m bank s else s) s) s

/-- LEVEL_EXIT_COMPLETE (R388, R390): a half comes back with its tiles. -/
def execLevelExitComplete (dom : Half ⊕ Fin 1056) (s : State) : Host.Outcome State Fault Refusal :=
  match dom with
  | .inl h =>
    if (halfPower h s).moving ≠ .exiting then .next s
    else .next (withPeers (fun s =>
      let s := setHalfPower h { level := .run, moving := .still, idleSince := s.timer } s
      let s := (tilesIn h s).foldl (fun s p => if (tileOf p s).level = .run then s else tileRuns p s) s
      raise .pmu 12 (reloadHalf h s)) s)
  | .inr p => if (tileOf p.val s).moving = .exiting then .next (tileRuns p.val s) else .next s

/-! ## OFF, the save and the power record (R392 to R394, R407) -/

/-- Status registers, which the power record of R394 leaves to the units themselves, and those that the save of R392
carries. -/
def statusOff (p : Page) (off : Nat) : Bool :=
  decide (off ∈ [0x010, 0x014, 0x018, 0x028, 0x02C, 0x030]) || match p with
    | .d2d _ => decide (off = 0x100)
    | .sec => decide (off = 0x120 ∨ 0x400 ≤ off)
    | .dbg => decide (off = 0x100)
    | .tile _ => decide (off = 0x104 ∨ (0x110 ≤ off ∧ off < 0x130) ∨ off = 0x204 ∨ off = 0x210 ∨ off = 0x214 ∨ off = 0x300 ∨
        off = 0x318 ∨ off = 0x350 ∨ off = 0x358 ∨ off = 0x404)
    | .wsc _ => decide (off = 0x108 ∨ off = 0x1A0 ∨ off = 0x204 ∨ off = 0x208 ∨ (0x240 ≤ off ∧ off < 0x25C))
    | .die _ => decide (off = 0x100 ∨ 0x110 ≤ off)
    | .cc _ => decide (0x880 ≤ off ∧ off < 0x894)
    | .mig _ => decide (off = 0x100 ∨ (0x104 ≤ off ∧ off < 0x110) ∨ off = 0x1A0 ∨ off = 0x200 ∨ off = 0x2A0)
    | .bm _ => decide (0x100 ≤ off ∧ off < 0x10C)
    | .chan _ => decide (off = 0x108 ∨ off = 0x130 ∨ off = 0x138 ∨ (0x160 ≤ off ∧ off < 0x16C))
    | .hp _ => decide (off = 0x104 ∨ (0x140 ≤ off ∧ off < 0x180))
    | .rg _ => decide ((0x100 ≤ off ∧ off < 0x114) ∨ 0x400 ≤ off)
    | .eth _ => decide (0x100 ≤ off ∧ off < 0x144)
    | .pmu => decide ((0x100 ≤ off ∧ off < 0x148) ∨ (0x400 ≤ off ∧ off < 0x704)) && decide (off ≠ 0x114)
    | .thm => decide (off = 0x104 ∨ 0x110 ≤ off)
    | .aon | .rf _ | .cap | .fus => true
    | .mbx _ => false

/-- The power record: counters, records, cursors and RW settings of every page (R394). -/
def powerRecord (s : State) : Store W32 :=
  s.regs.filter fun r => match pageAt (r.1 / 0x1000) with
    | some p => !statusOff p (r.1 % 0x1000)
    | none => false

/-- Why OFF is refused: PWR_CMD_STAT.REASON, 0 for no reason (R394, R404). -/
def offReason (s : State) : Nat :=
  if (List.range 512).any fun c => decide (blk (chanPage c) s ≠ .off) then 1
  else if s.chans.any fun c => decide (c.2.cpls ≠ []) then 2
  else if (s.versions.any fun v => decide (v.st = 1)) || (s.handles.any fun h => h.env.isSome) ||
      s.deferred.any (fun i => !waitsForId i) then 3
  else if s.update ≠ none then 4
  else 0

/-- A refused PWR_CMD. -/
def offRefused (reason : Nat) (s : State) : State :=
  raise .pmu 14 (fset .pmu Reg.PMU_PWR_CMD_STAT_REASON reason (fset .pmu Reg.PMU_PWR_CMD_STAT_STATE 2 s))

/-- PWR_CMD_OFF (R394): the leader writes the power record; the save and the loss of power follow (STATE_SAVE). -/
def execPwrCmdOff (w : Wr) (s : State) : Host.Outcome State Fault Refusal :=
  .next (guarded w .pmu 0x120 (fun s =>
    let s := fset .pmu Reg.PMU_PWR_CMD_OP 1 s
    if enteringOff s then s
    else if offReason s ≠ 0 then offRefused (offReason s) s
    else { fset .pmu Reg.PMU_PWR_CMD_STAT_REASON 0 (fset .pmu Reg.PMU_PWR_CMD_STAT_STATE 1 s) with record := some (powerRecord s) }) s)

/-- PWR_CMD_INVALID (R404): another OP with GO. -/
def execPwrCmdInvalid (w : Wr) (op : BitVec 4) (s : State) : Host.Outcome State Fault Refusal :=
  if op = 1 then .next s
  else .next (guarded w .pmu 0x120 (fun s => offRefused 5 (fset .pmu Reg.PMU_PWR_CMD_OP op.toNat s)) s)

/-- A register's group in the save (R392): 0 PMU settings, 1 RWL fields, 2 locked tables, 3 ring identity, 5 LOCK bits. -/
def saveGroup (p : Page) (off : Nat) : Option Nat :=
  if off = 0x030 then some 5
  else match p with
    | .pmu => if off = 0x100 ∨ off = 0x104 ∨ off = 0x140 ∨ (0x400 ≤ off ∧ off < 0x484) then some 0 else none
    | .chan _ => if off = 0x108 then some 1 else none
    | .hp _ => if 0x140 ≤ off ∧ off < 0x180 then some 1 else none
    | .eth _ => if 0x100 ≤ off ∧ off < 0x140 then some 1 else none
    | .sec => if 0x400 ≤ off ∧ off < 0x600 then some 2 else none
    | .rg i => if i.val = 0 ∧ 0x400 ≤ off ∧ off < 0x420 then some 2 else if off = 0x100 ∨ off = 0x104 then some 3 else none
    | _ => none

/-- The registers of one group; of RING_STAT only NODE_ID. -/
def groupRegs (g : Nat) (s : State) : List (Nat × W32) :=
  let mine := s.regs.filter fun r => match pageAt (r.1 / 0x1000) with
    | some p => decide (saveGroup p (r.1 % 0x1000) = some g)
    | none => false
  if g = 3 then mine.map fun r => if r.1 % 0x1000 = 0x100 then (r.1, r.2 &&& 0x7C) else r else mine

/-- The bytes of a save (R392): 256 + 2,560 + 576 + 16 + 1,024 + 256. -/
def saveBytes : Nat := 4688

/-- What the hardware saves (R392). -/
def takeSave (s : State) : State :=
  let n := (List.range 6).map fun g => groupRegs g s
  let v : Save := { groups := n, votes := s.votes, runArea := decide (s.boot.running = 1), nextArea := decide (s.boot.next = 1),
                    fwVersion := s.boot.version }
  { s with save := some v } |> fset .aon Reg.AON_SAVE_STAT_BYTES saveBytes |> fset .aon Reg.AON_SAVE_STAT_VALID 1
    |> satInc .aon Reg.AON_SAVE_STAT_SAVES 1

/-- The page lies in the AON domain (R392, R399). -/
def aonPage : Page → Bool
  | .aon | .rf _ => true
  | _ => false

/-- Registers of the AON domain's pages. -/
def aonRegs (s : State) : Store W32 :=
  s.regs.filter fun r => match pageAt (r.1 / 0x1000) with
    | some p => aonPage p
    | none => false

/-- The weight store without power: what its cells hold, its logs, and nothing in progress (R178, R179). -/
def storeLoss (w : Weights) : Weights := { cws := w.cws, retired := w.retired, rseq := w.rseq }

/-- Code words whose program is in progress: a loss of power cuts it short (R172, R416). -/
def cutShort (s : State) : List Nat :=
  ((s.ws.cmds.filter fun c => decide (c.op = 2) && c.begun).map fun c => c.at c.done) ++
    (s.ws.idBusy.map fun x => idCwa x.1).toList

/-- A code word cut short reads as written; what it holds is open. -/
def cutPrograms (s : State) : State :=
  (cutShort s).foldl (fun s cwa =>
    let r := freeBytes 16384 s
    setCw cwa (some r.1) r.2) s

/-- The image catalogue has the version at STORED or above, and not RETIRED (R235). -/
def inCatalogue (v : Version) : Bool := decide (4 ≤ v.recorded ∧ v.recorded < 8)

/-- A version of the catalogue as it waits for its restore (R235, R418). -/
def versionLoss (v : Version) : Version :=
  { v with st := 0, current := false, t1 := [], slots := [], pinUntil := none, keepT1 := false }

/-- Everything that needs power outside the AON domain is gone (R382, R394, R407); versions that the catalogue does not
hold are lost and their blocks erased (R235). -/
def coreLoss (s : State) : State :=
  let s := cutPrograms s
  let s := eraseBlocks ((s.versions.filter fun v => !inCatalogue v).flatMap fun v => v.blocks) s
  { pins := s.pins, fuses := s.fuses, phase := s.phase, timer := s.timer, timerFrac := s.timerFrac, regs := aonRegs s,
    causes := s.causes.filter fun c => decide (pageNum (.rf .north) ≤ c.1 ∧ c.1 ≤ pageNum (.rf .south) ∨ c.1 = pageNum .aon),
    handles := s.handles.map fun h => { index := h.index, owner := h.owner, topEpoch := h.topEpoch, placed := h.placed },
    versions := (s.versions.filter inCatalogue).map versionLoss,
    ws := storeLoss s.ws, replicaN := s.replicaN, replicaS := s.replicaS, boot := s.boot,
    sensors := s.sensors, save := s.save, record := s.record, free := s.free, out := s.out, pending := s.pending,
    releasedAt := s.releasedAt }

/-- Power is removed (R394, R429): a wake that arrived during the entry brings it back at once (R391). -/
def goOff (s : State) : State :=
  let late := s.powerN.lateWake
  let s := coreLoss s
  { s with phase := if late then .resetHeld else .off, pins := { s.pins with railEn := late } }

/-- STATE_SAVE (R392, R394): at an entry to REST or OFF. -/
def execStateSave (s : State) : Host.Outcome State Fault Refusal :=
  let rest := fun (x : HalfPower) => decide (x.moving = .entering .rest)
  if enteringOff s then .next (goOff (takeSave s))
  else if rest s.powerN || rest s.powerS then .next (takeSave s)
  else .next s

/-- Restore one group, in the order of its registers. -/
def putGroup (g : List (Nat × W32)) (s : State) : State := g.foldl (fun s r => setRegWord r.1 r.2 s) s

/-- Every page with a LOCK bit. -/
def lockPages : List Page :=
  sharedPages ++ ((List.range 512).reverse.map chanPage) ++ ((List.range 64).reverse.map fun m => Page.mbx (Fin.ofNat 64 m)) ++
    [.dbg, .thm, .eth 1, .eth 0, .rg 1, .rg 0, .hp 1, .hp 0]

/-- An uncorrectable group (R392): a table entry acts as VALID 0, a LOCK bit comes back as 1, any other field keeps its
reset value. -/
def badGroup (g : Nat) (pages : List Page) (s : State) : State :=
  if g = 5 then pages.foldl (fun s p => fset p Reg.LOCK_LOCK 1 s) s else s

/-- Restore a save after OFF (R392, R407): it is consumed. -/
def restoreSave (bad : List Nat) (x : Save) (s : State) : State :=
  let one := fun (s : State) (g : Nat) => if bad.contains g then badGroup g lockPages s else putGroup (nth [] x.groups g) s
  let s := one (one (one (one s 0) 1) 2) 3
  let s := if bad.contains 0 then s else { s with votes := x.votes }
  let s := if bad.contains 4 then { s with boot := {} } else s
  let s := one s 5
  { s with save := none } |> fset .aon Reg.AON_SAVE_STAT_VALID 0 |> fset .aon Reg.AON_SAVE_STAT_ERR (if bad = [] then 0 else 1)

/-- Pages that lose power with a half at REST. -/
def restPages (h : Half) : List Page := Page.cc h :: Page.d2d h :: halfUnits h ++ (halfTiles h).map tilePage

/-- STATE_RESTORE (R392, R393): after OFF while start-up runs; at an exit from REST nothing visible changes unless a group
reads back uncorrectable. -/
def execStateRestore (bad : List (Fin 6)) (s : State) : Host.Outcome State Fault Refusal :=
  let bad := bad.map fun g => g.val
  let waking := [Half.north, Half.south].filter fun h =>
    decide ((halfPower h s).level = .rest ∧ (halfPower h s).moving = .exiting)
  match s.save with
  | none => .next s
  | some x =>
    if s.phase = .starting ∧ s.record ≠ none then .next (restoreSave bad x s)
    else if waking = [] then .next s
    else
      let s := fset .aon Reg.AON_SAVE_STAT_ERR (if bad = [] then 0 else 1) s
      .next (if bad.contains 5 then waking.foldl (fun s h => badGroup 5 (restPages h) s) s else s)

/-! ## Cap, throttle, boost (R396, R397) -/

/-- The pass limit in force: the most restrictive of the three sources (R397). -/
def setPassLimit (s : State) : State :=
  let c := fget .pmu Reg.PMU_CAP_STAT_CAP_LEVEL s
  let t := fget .pmu Reg.PMU_CAP_STAT_THERM_LEVEL s
  let g := if fget .pmu Reg.PMU_SAG_STAT_LIMIT s = 1 then 2 else 0
  fset .pmu Reg.PMU_CAP_STAT_PASS_LIMIT (max c (max (if t = 0 then 0 else t + 1) g)) s

/-- CAP_W between its limits (R404). -/
def capW (s : State) : Nat := max 20 (min 65 (fget .pmu Reg.PMU_CAP_CFG_CAP_W s))

/-- POWER_SAMPLE (R397): the average is taken over the samples so far, at most 100. -/
def execPowerSample (centiwatts : Nat) (s : State) : Host.Outcome State Fault Refusal :=
  if s.phase = .off then .next s
  else
    let samples := centiwatts :: s.samples.take 99
    let avg := samples.foldl (fun a b => a + b) 0 / samples.length
    let low := if centiwatts + 400 < capW s * 100 then s.lowSamples + 1 else 0
    let l := fget .pmu Reg.PMU_CAP_STAT_CAP_LEVEL s
    let up := if capW s * 100 < avg + 100 then min 3 (l + 1) else l
    let now := if 10 ≤ low then up - 1 else up
    let s := { s with samples := samples, lowSamples := if 10 ≤ low then 0 else low }
    let s := s |> fset .pmu Reg.PMU_CAP_STAT_AVG (min 65535 avg) |> fset .pmu Reg.PMU_CAP_STAT_CAP_LEVEL now
    let s := if l = 0 ∧ 0 < now then raise .pmu 10 (satInc .pmu Reg.PMU_CAP_CNT_CAP 1 s) else s
    .next (setPassLimit s)

/-- The half of a sensor (R434). -/
def sensorHalf (i : Nat) : Half :=
  if i < 16 ∨ i = 32 ∨ (34 ≤ i ∧ i < 38) ∨ i = 42 ∨ i = 44 ∨ i = 45 ∨ i = 46 then .north else .south

/-- The substitute of a failed sensor: the highest working reading of its half plus 5.0 °C (R434); its own last reading
when none works. -/
def substituteTemp (i : Nat) (s : State) : Int :=
  let ok := (List.range 48).filter fun j => decide (sensorHalf j = sensorHalf i) && !(sensorOf j s).failed
  match ok with
  | [] => (sensorOf i s).temp
  | j :: t => t.foldl (fun m k => max m (sensorOf k s).temp) (sensorOf j s).temp + 40

/-- The sensor reads outside −40 °C to 150 °C, or its diodes differ by more than 3.0 °C (R434). -/
def sensorBad (r : SensorReading) : Bool :=
  let out := fun (v : Int) => decide (v < -320 ∨ 1200 < v)
  out r.a || out r.b || decide (24 < r.a - r.b ∨ 24 < r.b - r.a)

/-- THERM_LEVEL from the hottest tile region (R397). -/
def throttle (s : State) : State :=
  let hot := (List.range 32).foldl (fun m i => max m (sensorOf i s).temp) (sensorOf 0 s).temp
  let l := fget .pmu Reg.PMU_CAP_STAT_THERM_LEVEL s
  let now := if 824 < hot then 2 else if 800 < hot then 1 else if hot < 776 ∨ l = 0 then 0 else 1
  let s := fset .pmu Reg.PMU_CAP_STAT_THERM_LEVEL now s
  setPassLimit (if l = 0 ∧ 0 < now then raise .pmu 11 (satInc .pmu Reg.PMU_CAP_CNT_THERM 1 s) else s)

/-- The FAILED bit of a sensor. -/
def markFailed (i : Nat) (s : State) : State :=
  let f := if i < 32 then Reg.THM_THM_FAIL_LO_FAILED else Reg.THM_THM_FAIL_HI_FAILED
  raise .thm 8 (fset .thm f (fget .thm f s ||| 2 ^ (i % 32)) s)

/-- What a reading in use feeds: the maximum and the alarm (R436), the throttle (R397) and the hold of its region's tiles
(R69). -/
def useReading (i : Nat) (s : State) : State :=
  let t := (sensorOf i s).temp
  let s := if toSigned 16 (fget .thm Reg.THM_THM_MAX_TEMP s) < t then
      fset .thm Reg.THM_THM_MAX_SENSOR i (fset .thm Reg.THM_THM_MAX_TEMP (ofSigned 16 t) s) else s
  let s := if toSigned 16 (fget .thm Reg.THM_THM_ALARM_TEMP s) ≤ t then raise .thm 9 s else s
  if 32 ≤ i then s
  else
    let base := i / 16 * 528 + i % 16 * 33
    throttle ((List.range 33).foldl (fun s k => if present s (tilePage (base + k)) then thermalHold (base + k) s else s) s)

/-- THERMAL_SENSOR_READING (R434, R397, R69): `a` is the reading, `b` its second diode's; a failure lasts until device
reset. -/
def execThermalSensorReading (sensor : Fin 48) (r : SensorReading) (s : State) : Host.Outcome State Fault Refusal :=
  if s.phase = .off then .next s
  else
    let i := sensor.val
    let was := (sensorOf i s).failed
    let put := fun (x : Sensor) (s : State) => { s with sensors := sset {} i x s.sensors }
    let s :=
      if was || sensorBad r then
        let s := put { temp := substituteTemp i (put { temp := (sensorOf i s).temp, failed := true } s), failed := true } s
        if was then s else markFailed i s
      else put { temp := r.a, failed := false } s
    .next (useReading i s)

/-- The conditions of RUN-BOOST (R396). -/
def boosts (p : Nat) (s : State) : Bool :=
  decide ((tileOf p s).level = .run ∧ (tileOf p s).moving = .still ∧ fget .pmu Reg.PMU_PWR_CFG_BOOST_EN s = 1 ∧
    fget .pmu Reg.PMU_CAP_STAT_AVG s < 5500 ∧ (sensorOf (regionOf p) s).temp < 720 ∧
    fget .pmu Reg.PMU_CAP_STAT_PASS_LIMIT s = 0)

/-- BOOST_CHANGE (R396). -/
def execBoostChange (tile : Fin 1056) (s : State) : Host.Outcome State Fault Refusal :=
  if present s (.tile tile) then .next (modTile tile.val (fun t => { t with boost := boosts tile.val s }) s) else .next s

/-- THM_MAX_CLR (R436). -/
def execThmMaxClr (w : Wr) (s : State) : Host.Outcome State Fault Refusal :=
  .next (guarded w .thm 0x108 (fun s => fset .thm Reg.THM_THM_MAX_TEMP 0 (fset .thm Reg.THM_THM_MAX_SENSOR 0 s)) s)

/-! ## Supply sag (R377, R378, R381) -/

/-- The physical functions that SAG_WARN reaches (R378). -/
def sagTargets (s : State) : List W16 :=
  ((List.range 2).filter fun i => present s (hpPage i)).map (fun i => hostMid s i 0) ++
    ((List.range 8).filter fun i => decide (fgetI (.rg 0) Reg.RG_ADMIN_VALID i s = 1)).map fun i =>
      BitVec.ofNat 16 (fgetI (.rg 0) Reg.RG_ADMIN_MID i s)

/-- The deepest sag of a half. -/
def noteSag (h : Half) (depth : Nat) (s : State) : State :=
  let f := if h = .north then Reg.PMU_SAG_MIN_N else Reg.PMU_SAG_MIN_S
  fset .pmu f (max (fget .pmu f s) depth) s

/-- SAG_WARN (R377, R378): one warning lasts until SAG_CLEAR; its interrupt does not depend on DEV_EVT_EN. -/
def execSagWarn (half : Half) (depth : Byte) (s : State) : Host.Outcome State Fault Refusal :=
  if s.phase = .off ∨ depth.toNat ≤ 60 ∨ present s (.cc half) = false then .next s
  else
    let s := noteSag half depth.toNat s
    let s := fset .pmu (if half = .north then Reg.PMU_SAG_STAT_WARN_N else Reg.PMU_SAG_STAT_WARN_S) 1 s
    if fget .pmu Reg.PMU_SAG_STAT_LIMIT s = 1 then .next s
    else
      let s := s |> fset .pmu Reg.PMU_SAG_STAT_LIMIT 1 |> wrapInc .pmu Reg.PMU_SAG_WARN_CNT_COUNT 1
        |> fset .pmu Reg.EVT_RAW_RAW (fget .pmu Reg.EVT_RAW_RAW s ||| 2 ^ 8)
      .next (setPassLimit ((sagTargets s).foldl (fun s m => interrupt m 0 s) s))

/-- SAG_CLEAR (R377). -/
def execSagClear (s : State) : Host.Outcome State Fault Refusal :=
  if fget .pmu Reg.PMU_SAG_STAT_LIMIT s = 0 then .next s
  else
    let s := s |> fset .pmu Reg.PMU_SAG_STAT_WARN_N 0 |> fset .pmu Reg.PMU_SAG_STAT_WARN_S 0 |> fset .pmu Reg.PMU_SAG_STAT_LIMIT 0
    .next (raise .pmu 9 (setPassLimit s))

/-- SAG_MIN_CLR (R381). -/
def execSagMinClr (w : Wr) (s : State) : Host.Outcome State Fault Refusal :=
  .next (guarded w .pmu 0x704 (fun s => fset .pmu Reg.PMU_SAG_MIN_N 0 (fset .pmu Reg.PMU_SAG_MIN_S 0 s)) s)

end Sys2Proof.Machine
end

