-- ==== Sys2Proof/Machine/Boot.lean ====
section
/-! DEFINITION. Resets, start-up, self-test, boot and recovery (chapter 16, R281, R406 to R420, R428, R435). -/

namespace Sys2Proof.Machine

/-! ## Resets (R406 to R408) -/

/-- The AON domain after a device reset (R407): LOCK bits clear, the save is discarded, HOLDER is none and TOKEN keeps its
value; the AON page's registers stay. -/
def aonAfterReset (s : State) : Store W32 :=
  s.regs.filter fun r => decide ((r.1 / 0x1000 = pageNum .aon ∧ r.1 % 0x1000 ≠ 0x030) ∨
    ((r.1 / 0x1000 = pageNum (.rf .north) ∨ r.1 / 0x1000 = pageNum (.rf .south)) ∧ r.1 % 0x1000 = 0x104))

/-- A device reset, AON domain excepted (R406, R407). A sensor's failure clears with it (R434). -/
def deviceReset (cause : Nat) (s : State) : State :=
  let held := decide (s.phase = .resetHeld)
  let x := coreLoss { s with save := none, record := none, replicaN := {}, replicaS := {}, boot := {} }
  { x with regs := aonAfterReset s, phase := .resetHeld, causes := s.causes.filter fun c => decide (c.1 = pageNum .aon),
           pins := { s.pins with resetL := decide (cause = 1), railEn := true,
                                 thermTrip := decide (cause = 4) || (held && s.pins.thermTrip) },
           sensors := s.sensors.map fun x => (x.1, { x.2 with failed := false }) }
    |> fset .aon Reg.AON_RESET_CAUSE_CAUSE cause |> fset .aon Reg.AON_SAVE_STAT_VALID 0

/-- A power-on: the AON domain clears as well and the timer starts at 0 (R407). -/
def powerOn (s : State) : State :=
  { deviceReset 0 { s with regs := [] } with timer := 0, timerFrac := 0, regs := [], causes := [], releasedAt := 0 }

/-- POWER_ON_RESET (R406, R427): the internal reset is held until every rail is good. -/
def execPowerOnReset (s : State) : Host.Outcome State Fault Refusal := .next (powerOn s)

/-- EXTERNAL_RESET (R406). -/
def execExternalReset (s : State) : Host.Outcome State Fault Refusal := .next (deviceReset 1 s)

/-- SAG_RESET (R377). -/
def execSagReset (half : Half) (depth : Byte) (s : State) : Host.Outcome State Fault Refusal :=
  if s.phase = .off ∨ depth.toNat ≤ 110 ∨ present s (.cc half) = false then .next s else .next (deviceReset 2 s)

/-- RAIL_LOSS (R428): at OFF the rails other than VDD_AON may go. -/
def execRailLoss (aon : Bool) (s : State) : Host.Outcome State Fault Refusal :=
  if aon then .next (powerOn s) else if s.phase = .off then .next s else .next (deviceReset 2 s)

/-- Both control complexes are lost: every half fenced, or both watchdogs expired within 1 ms (R406). -/
def bothLost (s : State) : Bool :=
  let fencedOut := fun (h : Half) => fenced (.cc h) s || !present s (.cc h)
  (fencedOut .north && fencedOut .south) || match s.complexN.dogAt, s.complexS.dogAt with
    | some a, some b => decide (a ≤ b + ticks 1000 ∧ b ≤ a + ticks 1000)
    | _, _ => false

/-- BOTH_CC_LOST_RESET (R406). -/
def execBothCcLostReset (s : State) : Host.Outcome State Fault Refusal :=
  if bothLost s then .next (deviceReset 3 s) else .next s

/-- THERMAL_TRIP (R406, R435). -/
def execThermalTrip (sensor : Fin 48) (s : State) : Host.Outcome State Fault Refusal :=
  if s.phase ≠ .off ∧ 960 ≤ (sensorOf sensor.val s).temp then .next (deviceReset 4 s) else .next s

/-- DBG_RESET (R45): another KEY raises BAD_ACCESS. -/
def execDbgReset (w : Wr) (data : W32) (s : State) : Host.Outcome State Fault Refusal :=
  if bitsOf data.toNat 31 1 = 0 then .next s
  else .next (guarded w .dbg 0x104 (fun s => if bitsOf data.toNat 0 16 = 0xD5E7 then deviceReset 5 s else raise .dbg 5 s) s)

/-- RESET_RELEASE (R408): after a thermal trip every sensor has read below 95.0 °C. -/
def execResetRelease (s : State) : Host.Outcome State Fault Refusal :=
  let cool := (List.range 48).all fun i => decide ((sensorOf i s).temp < 760)
  if s.phase ≠ .resetHeld ∨ (s.pins.thermTrip = true ∧ cool = false) then .next s
  else .next { s with phase := .starting, releasedAt := s.timer, pins := { s.pins with resetL := false, thermTrip := false } }

/-! ## Fuses, mode and firmware (R46, R409, R411 to R413) -/

/-- Step 2: the fuse map; a unit whose fuse word fails its check starts fenced (R46). -/
def loadFuses (s : State) : State :=
  let s := fset .fus Reg.FUS_FUS_STAT_LOADED 1 s
  if s.fuses.bad = [] then s
  else
    let s := raise .fus 8 (fset .fus Reg.FUS_FUS_STAT_ERR 1 s)
    s.fuses.bad.foldl (fun s n => match pageAt n with
      | some p => if present s p then fencePage p 1 s else s
      | none => s) s

/-- ID_STATE.POLICY bit. -/
def policyBit (i : Nat) (s : State) : Bool := decide (bitsOf (fget (.wsc .north) Reg.WSC_ID_STATE_POLICY s) i 1 = 1)

/-- The boot mode (R411). -/
def bootMode (s : State) : State :=
  let m := s.pins.bootMode.toNat
  let refused := decide ((m = 1 ∧ policyBit 1 s = true) ∨ (m = 2 ∧ policyBit 2 s = true))
  let s := if refused then fset .sec Reg.SEC_BOOT_STAT_MODE_REFUSED 1 s else s
  fset .sec Reg.SEC_BOOT_STAT_MODE (if refused ∨ m = 3 then 0 else m) s

/-- The area tried first (R413): the next-boot area of a boot context that is held, else the one of the higher version. -/
def firstArea (w : BootWorld) (s : State) : Nat :=
  if s.boot.held then s.boot.next else if w.aVersion.toNat < w.bVersion.toNat then 1 else 0

/-- An area verifies. -/
def areaOk (w : BootWorld) (a : Nat) : Bool := if a = 0 then w.aOk else w.bOk

/-- Mark a failed area. -/
def areaBad (a : Nat) (s : State) : State :=
  fset .sec (if a = 0 then Reg.SEC_BOOT_STAT_A_BAD else Reg.SEC_BOOT_STAT_B_BAD) 1 s

/-- Choose the area (R413): the one that runs, if any. -/
def chooseArea (w : BootWorld) (s : State) : Option Nat × State :=
  let a := firstArea w s
  if areaOk w a then (some a, s)
  else
    let s := areaBad a s
    if areaOk w (1 - a) then (some (1 - a), fset .sec Reg.SEC_BOOT_STAT_FALLBACK 1 s) else (none, areaBad (1 - a) s)

/-- Firmware runs in both control complexes (step 5, R184): they read the referee's token (R33). -/
def runFirmware (area : Nat) (version : W32) (s : State) : State :=
  let s := fset .sec Reg.SEC_BOOT_STAT_AREA area s
  let s := { s with boot := { held := true, running := area, next := area, version := version } }
  let one := fun (h : Half) (s : State) =>
    if present s (.cc h) = false then s
    else
      let s := s |> fset (.cc h) Reg.CC_FW_STAT_AREA area |> fset (.cc h) Reg.CC_FW_STAT_NEXT area
        |> fset (.cc h) Reg.CC_FW_VERSION_VERSION version.toNat |> fset (.cc h) Reg.CC_CC_TOKEN_TOKEN (leaseToken s)
        |> fset (.cc h) Reg.CC_CC_ROLE_SHADOW_OK (if oneHalf s then 0 else 1)
      if roleOf h s = 1 then s else setRole h 2 s
  one .south (one .north s)

/-! ## Board memory (R281) -/

/-- A channel trains, or is fenced; the lowest two channels of a half hold its reserved area (R368). -/
def trainBm (n : Fin 16) (ok : Bool) (mib : W16) (mts : BitVec 14) (s : State) : State :=
  let p : Page := .bm n
  if ok then
    s |> fset p Reg.BM_BM_STAT_TRAINED 1 |> fset p Reg.BM_BM_STAT_STATE 0
      |> fset p Reg.BM_BM_STAT_RSV_COPY (if n.val % 8 < 2 then 1 else 0) |> fset p Reg.BM_BM_SIZE_MIB mib.toNat
      |> fset p Reg.BM_BM_RATE_MTS mts.toNat |> satInc p Reg.BM_BM_TRAIN_CNT_COUNT 1
  else fencePage p 6 (raise p 8 (fset p Reg.BM_BM_STAT_TRAINED 0 s))

/-- BOARD_MEMORY_TRAINING (R281): the end of a start sequence. -/
def execBoardMemoryTraining (n : Fin 16) (ok : Bool) (mib : W16) (mts : BitVec 14) (s : State) :
    Host.Outcome State Fault Refusal :=
  if blk (.bm n) s = .starting then .next (startDone (.bm n) (trainBm n ok mib mts s)) else .next s

/-- CA_PARITY (R281, R366): a second error within 1 ms fences the channel with CAUSE 7. -/
def execCaParity (n : Fin 16) (s : State) : Host.Outcome State Fault Refusal :=
  let p : Page := .bm n
  if present s p = false then .next s
  else
    let last := sget 0 n.val s.parity
    let s := raise p 9 (satInc p Reg.BM_BM_PAR_CNT_COUNT 1 { s with parity := sset 0 n.val (s.timer + 1) s.parity })
    .next (if 0 < last ∧ s.timer + 1 ≤ last + ticks 1000 then fencePage p 7 s else s)

/-! ## Self-test (R415, R416) -/

/-- The first failing unit of self-test, and the bit of its test (R420). -/
def bistFailed (p : Page) (test : Nat) (s : State) : State :=
  let s := fset .sec Reg.SEC_BIST_STAT_FAIL (fget .sec Reg.SEC_BIST_STAT_FAIL s ||| 2 ^ test) s
  if fget .sec Reg.SEC_BIST_FAIL_REC_VALID s = 1 then s
  else s |> fset .sec Reg.SEC_BIST_FAIL_REC_PAGE (pageNum p) |> fset .sec Reg.SEC_BIST_FAIL_REC_TEST test
    |> fset .sec Reg.SEC_BIST_FAIL_REC_VALID 1

/-- A unit fails self-test: a tile's calibration gives CAUSE 6, a replica is restarted, anything else is fenced with
CAUSE 1. -/
def failUnit (x : Page × Fin 6) (s : State) : State :=
  if present s x.1 = false then s
  else
    let s := bistFailed x.1 x.2.val s
    match x.1 with
    | .rf r => satInc (.rf r) Reg.RF_RF_FAULT_CNT_RESTARTS 1 s
    | .cc h => fenceHalf h 1 s
    | .tile t =>
      let was := fenced (.tile t) s
      let s := fenceTile t.val (if x.2.val = 2 then 6 else 1) s
      if was then s else satInc .sec Reg.SEC_BIST_STAT_TILES_FENCED 1 s
    | p => fencePage p 1 s

/-- A plane fails the margin test: fenced, but for the identity row's and the running area's planes of WS-N0. -/
def failPlane (area : Nat) (x : Fin 8 × Fin 192) (s : State) : State :=
  if present s (.die x.1) = false then s
  else
    let s := bistFailed (.die x.1) 3 s
    if x.1.val = 0 ∧ (x.2.val = 0 ∨ (1 + 16 * area ≤ x.2.val ∧ x.2.val < 17 + 16 * area)) then s
    else fencePlane (x.1.val * 256 + x.2.val) s

/-- Every subarray of every tile is calibrated now (R125, R415). -/
def calibrateAll (s : State) : State :=
  (halfTiles .south ++ halfTiles .north).foldl (fun s p =>
    if present s (tilePage p) then
      let u : Sub := { calAt := s.timer, calTemp := (sensorOf (regionOf p) s).temp }
      modTile p (fun t => { t with subs := ssetAll {} 0 (List.replicate 16 u) [] }) s
    else s) s

/-- Logical numbers: the active tiles in ascending order (R14, R127). -/
def numberTiles (s : State) : State :=
  let act := (List.range 1056).filter fun p => present s (tilePage p) && !isBench s p
  ((act.zip (List.range act.length)).reverse).foldl (fun s x => fset (tilePage x.1) Reg.TILE_BENCH_MAP_LOGICAL x.2 s) s

/-- A bench tile for each active tile that self-test fenced (R416, R127). -/
def coverFenced (s : State) : State :=
  ((List.range 1056).filter fun p => fenced (tilePage p) s && decide (logicalOf p s ≠ 0x7FF)).foldl (fun s p =>
    match nearestBench p s with
    | some b => substitute b p s
    | none => s) s

/-- Self-test of every unit (R415). -/
def selfTest (w : BootWorld) (area : Nat) (s : State) : State :=
  let s := numberTiles (calibrateAll s)
  let s := w.bistFail.foldl (fun s x => failUnit x s) s
  let s := w.planeFail.foldl (fun s x => failPlane area x s) s
  coverFenced s

/-- Training of every channel (step 6); a failure shows as test 4. -/
def trainAll (w : BootWorld) (s : State) : State :=
  (List.range 16).foldl (fun s n =>
    let c : Fin 16 := Fin.ofNat 16 n
    if present s (.bm c) = false then s
    else
      let bad := w.bmFail.contains c
      let s := trainBm c (!bad) w.bmMib w.bmMts s
      if bad then bistFailed (.bm c) 4 s else s) s

/-- No half can train board memory, or every control complex is fenced (R416). -/
def startFails (s : State) : Bool :=
  ((List.range 16).all fun n => !usable (.bm (Fin.ofNat 16 n)) s) ||
    [Half.north, Half.south].all fun h => !usable (.cc h) s

/-! ## The first lease (R417) -/

/-- The first lease of a complex: every replica that counts grants it without the guard. -/
def firstLease (h : Half) (s : State) : State :=
  let rs := voices s
  if usable (.cc h) s = false ∨ rs.isEmpty = true ∨ rs.any (fun r => decide (holderOf r s ≠ 0)) = true then s
  else if rs.any (fun r => decide (tokenOf r s = 2 ^ 32 - 1)) then rs.foldl (fun s r => raise (.rf r) 12 s) s
  else
    let s := rs.foldl (fun s r => grantLease r h 4 s) s
    let s := fset (.cc h) Reg.CC_CC_TOKEN_TOKEN (leaseToken s) (setComplex h { complex h s with exp := leaseExp s } s)
    runDeferred (setRole h 1 s)

/-- The lease may be granted now. -/
def leaseTime (s : State) : Bool := decide (s.phase = .starting ∨ s.phase = .ready)

/-- FIRST_LEASE (R417). -/
def execFirstLease (s : State) : Host.Outcome State Fault Refusal :=
  if leaseTime s then .next (withPeers (firstLease (tieHalf s)) s) else .next s

/-- FIRST_LEASE_FALLBACK (R417): 5 ms after its self-test. -/
def execFirstLeaseFallback (s : State) : Host.Outcome State Fault Refusal :=
  if leaseTime s = true ∧ oneHalf s = false ∧ (voices s).any (fun r => decide (holderOf r s ≠ 0)) = false then
    .next (withPeers (firstLease (Half.other (tieHalf s))) (reach (s.releasedAt + ticks 5000) s))
  else .next s

/-! ## Restoring state (R235, R392, R418) -/

/-- The save and the power record of an exit from OFF (R394, R418). -/
def restoreOff (s : State) : State :=
  match s.record with
  | none => s
  | some r =>
    let s := match s.save with
      | some x => restoreSave [] x s
      | none => s
    fset .sec Reg.SEC_BOOT_STAT_RESTORED 1 (putGroup r { s with record := none })

/-- Versions of the catalogue (R235): one recorded RETIRING returns as RETIRED; the others wait, in ascending handle INDEX
with current versions first (R418). -/
def catalogue (s : State) : State :=
  let s := (s.versions.filter fun v => decide (v.recorded = 7)).foldl (fun s v => retireNow { v with st := 7 } s) s
  let wait := fun (h : Nat) => (s.versions.filter fun v => decide (v.handle = h ∧ v.recorded = 6)) ++
    s.versions.filter fun v => decide (v.handle = h ∧ (v.recorded = 4 ∨ v.recorded = 5))
  { s with restores := (List.range 1024).flatMap fun h => (wait h).map fun v => (v.handle, v.epoch) }

/-- A version recorded ACTIVE comes back with its placement (R409 step 9); without tiles for it, it stays VERIFIED. -/
def replace' (h : HandleSt) (v : Version) (s : State) : State :=
  let without := modHandle h.index (fun x => { x with err := 0x0053 }) (setVersion { v with st := 5, current := false } s)
  match h.placed, planOf v s with
  | some (sustained, a), some plan => match assignTiles s plan.halves [] with
    | none => without
    | some tiles =>
      let twins := if sustained then assignTiles s (plan.halves.map Half.other) tiles else some tiles
      match twins with
      | none => without
      | some all =>
        let mirrors := (all.drop tiles.length).filterMap fun l => serving l s
        let ctx := if plan.mode = 1 then freeRallyCtx s else none
        if plan.mode = 1 ∧ ctx = none then without
        else match makeRoom tiles h.index a s with
          | none => without
          | some s =>
            let v := { v with st := 6, current := true }
            place v plan tiles mirrors a ctx (setVersion v s)
  | _, _ => without

/-- A pending version's turn: its signature against the key slots of now (R233), then its recorded state; none becomes
ACTIVE in recovery mode (R411), and an UNSIGNED one retires in normal service (R232). -/
def restoreVersion (v : Version) (sigOk : Bool) (s : State) : State :=
  let normal := normalService s
  let good := v.unsigned || (sigOk && !idWritten (16 + v.keySlot) s)
  let s := if v.unsigned then s else countSig good s
  if good = false ∨ (v.unsigned = true ∧ normal = true) then retireNow { v with st := 7 } s
  else if v.recorded = 6 ∧ normal = true then match handleSt v.handle s with
    | some h => replace' h v s
    | none => s
  else setVersion { v with st := min 5 v.recorded } s

/-- VERSION_RESTORE (R418): the handle's next pending version; then requests held for the handle proceed. -/
def execVersionRestore (handle : BitVec 10) (sigOk : Bool) (s : State) : Host.Outcome State Fault Refusal :=
  let h := handle.toNat
  match (s.restores.filter fun x => decide (x.1 = h))[0]? with
  | none => .next s
  | some x =>
    let s := { s with restores := s.restores.erase x }
    let s := match (s.versions.filter fun v => decide (v.handle = h ∧ v.epoch = x.2))[0]? with
      | some v => restoreVersion v sigOk s
      | none => s
    .next (if s.restores.any (fun y => decide (y.1 = h)) then s else openHuddle h s)

/-! ## The start-up sequence (R409, R419, R439) -/

/-- The units that start-up brings to ON (R439), the highest page first. -/
def startPages : List Page :=
  sharedPages ++ ((List.range 64).reverse.map fun m => Page.mbx (Fin.ofNat 64 m)) ++
    [.aon, .dbg, .thm, .eth 1, .eth 0, .rg 1, .rg 0, .hp 1, .hp 0, .rf .south, .rf .north]

/-- EN = 1, and ON unless self-test left the unit fenced (R439). -/
def startUnit (p : Page) (s : State) : State :=
  if present s p = false then s
  else
    let s := fset p Reg.BLK_CTRL_EN 1 s
    if fenced p s then fset p Reg.BLK_STATE_STATE 0 s else if isOn p s then s else setBlk p .on s

/-- Both bridge groups carry traffic, and the replicas hear each other. -/
def joinHalves (s : State) : State :=
  if oneHalf s then s
  else
    let one := fun (h : Half) (s : State) => s |> fset (.d2d h) Reg.D2D_D2D_STAT_GROUP_UP 3
      |> fset (.rf h) Reg.RF_LEASE_STAT_PEER_UP 1
    let s := one .south (one .north s)
    setReplica .south { replica .south s with heardAt := s.timer } (setReplica .north { replica .north s with heardAt := s.timer } s)

/-- Steps 3 to 9 once firmware has been found. -/
def startRest (w : BootWorld) (area : Nat) (offExit : Bool) (s : State) : State :=
  let s := runFirmware area (if area = 0 then w.aVersion else w.bVersion) (bootMode s)
  let s := selfTest w area (trainAll w s)
  let s := reach (s.releasedAt + ticks w.timeUs.toNat) s
  if startFails s then fset .sec Reg.SEC_BOOT_STAT_STAGE 15 { s with phase := .failed }
  else
    let s := joinHalves (startPages.foldl (fun s p => startUnit p s) (restoreOff s))
    let s := if offExit = false ∧ fget .aon Reg.AON_RESET_CAUSE_CAUSE s = 4 then raise .thm 10 s else s
    let t := tieHalf s
    let s := if usable (.cc t) s then firstLease t s else firstLease (Half.other t) (reach (s.timer + ticks 5000) s)
    let s := fset .sec Reg.SEC_BOOT_STAT_STAGE 6 (catalogue s)
    if fget .sec Reg.SEC_BOOT_STAT_MODE s = 1 then becomeReady s else s

/-- START_UP_SEQUENCE (R409): steps 1 to 9, and step 10 where it does not wait for the ring (R419). -/
def execStartUpSequence (world : BootWorld) (s : State) : Host.Outcome State Fault Refusal :=
  if s.phase ≠ .starting ∨ awaitsRing s = true then .next s
  else
    let offExit := s.record.isSome
    let s := loadIdentity (loadFuses s)
    let s := intentScan .north s
    let s := if oneHalf s then s else intentScan .south s
    let a := chooseArea world s
    match a.1 with
    | none => .next (startUnit (.hp 0) (fset .sec Reg.SEC_BOOT_STAT_STAGE 14 { a.2 with phase := .romRecovery }))
    | some area => .next (withPeers (startRest world area offExit) a.2)

/-- RING_SETTLE_TIMEOUT (R419): no ring port has trained, so the device runs standalone. -/
def execRingSettleTimeout (s : State) : Host.Outcome State Fault Refusal :=
  if awaitsRing s = true ∧ ringUp 0 s = false ∧ ringUp 1 s = false then .next (becomeReady (reach (s.timer + ticks 10000) s))
  else .next s

/-! ## ROM recovery (R414) -/

/-- RECOV_STAT. -/
def setRecov (state reason : Nat) (s : State) : State :=
  fset .sec Reg.SEC_RECOV_STAT_REASON reason (fset .sec Reg.SEC_RECOV_STAT_STATE state s)

/-- The area that recovery writes: A, or B when only B failed. -/
def recoveryArea (s : State) : Nat :=
  if fget .sec Reg.SEC_BOOT_STAT_A_BAD s = 0 ∧ fget .sec Reg.SEC_BOOT_STAT_B_BAD s = 1 then 1 else 0

/-- A GO of ROM recovery: on DONE the device resets with cause 1; on FAILED the area is erased. -/
def recover (image : List Byte) (readOk programOk : Bool) (s : State) : State :=
  let len := fget .sec Reg.SEC_RECOV_LEN_BYTES s
  if len < 224 ∨ 33554432 < len then setRecov 5 1 s
  else
    let a := recoveryArea s
    let s := emit (.hostRead (hostMid s 0 0) (wideGet .sec Reg.SEC_RECOV_ADDR_LO_ADDR Reg.SEC_RECOV_ADDR_HI_ADDR s) len) s
    let b := image.take len
    if readOk = false ∨ b.length < len then setRecov 5 2 (writeArea a [] s)
    else if programOk = false then setRecov 5 3 (writeArea a [] s)
    else
      let ok := fwVerifies b s
      let s := countSig ok s
      if ok then deviceReset 1 (setRecov 4 0 (writeArea a b s)) else setRecov 5 4 (writeArea a [] s)

/-- RECOV_CMD (R414, R420). -/
def execRecovCmd (w : Wr) (image : List Byte) (readOk : Bool) (programOk : Bool) (s : State) : Host.Outcome State Fault Refusal :=
  .next (guarded w .sec 0x61C (recover image readOk programOk) s)

end Sys2Proof.Machine
end

