-- ==== Sys2Proof/Machine/Blocks.lean ====
section
/-! DEFINITION. Starting, stopping, fencing and releasing the units behind the control pages (R26, R31, R32, R438), and the
wakes of the DBG page and of the ring's WAKE ordered set (R45, R349). -/

namespace Sys2Proof.Machine

/-! ## What a unit does as its page moves (R31) -/

/-- The pages that move with a page: a weight die's follows its controller's (R191). -/
def followers : Page → List Page
  | .wsc h => (List.range 4).map fun i => Page.die (Fin.ofNat 8 (4 * Half.num h + i))
  | _ => []

/-- Weight-store commands not yet started end WS_STOPPED (R191). -/
def stopStore (h : Half) (s : State) : State :=
  (s.ws.cmds.filter fun c => decide (c.half = h ∧ c.done = 0 ∧ (c.op = 3 → c.erase = .waiting ∨ c.erase = .intended)) && !c.begun).foldl
    (fun s c => wsEnd c 0x003C s) s

/-- A stop begins (R191, R280). -/
def stopBegins (p : Page) (s : State) : State :=
  match p with
  | .mig h => stopZip h (stopRange h s)
  | .wsc h => wsKick (stopStore h s)
  | _ => s

/-- A ring port's link goes down with it, and the ring breaks there (R346). -/
def ringDown (i : Nat) (s : State) : State := if ringUp i s = true then breakAt i s else s

/-- The bridge carries nothing: both ends show it (R17). -/
def bridgeDown (s : State) : State := if oneHalf s then s else onBridge (fun h s => raise (.d2d h) 10 s) s

/-- A stop has ended (R17, R281, R334, R335, R354). -/
def stopEnds (p : Page) (s : State) : State :=
  match p with
  | .hp i => if hostUp i.val s = true then raise (.hp i) 9 (linkLost i.val s) else s
  | .rg i => ringDown i.val s
  | .eth i => if fget (.eth i) Reg.ETH_ETH_STAT_UP s = 1 then raise (.eth i) 8 (fset (.eth i) Reg.ETH_ETH_STAT_UP 0 s) else s
  | .bm n => fset (.bm n) Reg.BM_BM_STAT_TRAINED 0 s
  | .d2d _ => bridgeDown s
  | .mig _ => kickZip (kickRange s)
  | _ => s

/-- A start has ended: a tile's subarrays are calibrated (R74, R125); commands that waited for ON run (R191, R280). -/
def startEnds (p : Page) (s : State) : State :=
  match p with
  | .tile t => (List.range 16).foldl (fun s i => calibrated t.val i s) s
  | .mig _ => kickZip (kickRange s)
  | .wsc _ => wsKick s
  | _ => s

/-- What keeps a stop from ending: running tasks (R74), work in progress of a weight-store controller (R191), moves past
step 3 (R280), requests in flight of a channel (R302). -/
def stopHeld (p : Page) (s : State) : Bool :=
  match p with
  | .tile t => decide ((tileOf t.val s).cur ≠ none ∨ (tileOf t.val s).vec ≠ none)
  | .wsc h => !fenced (.wsc h) s && s.ws.cmds.any fun c => decide (c.half = h)
  | .mig h => s.range.moves.any fun m => decide (m.engine = h)
  | .chan c => s.reqs.any fun r => decide (r.chan = c.val)
  | _ => false

/-- A page's move with what its unit does when a stop begins by it. -/
def moved (p : Page) (f : Page → State → State) (s : State) : State :=
  let was := blk p s
  let s := (followers p).foldl (fun s q => if present s q then f q s else s) (f p s)
  if was ≠ .stopping ∧ was ≠ .restartPending ∧ blk p s = .stopping then stopBegins p s else s

/-- EN_WRITE (R31). -/
def execEnWrite (w : Wr) (page : Page) (en : Bool) (s : State) : Host.Outcome State Fault Refusal :=
  .next (guarded w page 0x010 (withPeers (moved page fun p => writeEn p en)) s)

/-- START_SEQUENCE_COMPLETE (R31). A board-memory channel's start ends with its training (R281). -/
def execStartSequenceComplete (page : Page) (s : State) : Host.Outcome State Fault Refusal :=
  let trained := match page with
    | .bm _ => true
    | _ => false
  if blk page s = .starting ∧ trained = false then
    .next (withPeers (fun s => moved page startDone (startEnds page s)) s)
  else .next s

/-- STOP_SEQUENCE_COMPLETE (R31). -/
def execStopSequenceComplete (page : Page) (s : State) : Host.Outcome State Fault Refusal :=
  if (blk page s = .stopping ∨ blk page s = .restartPending) ∧ stopHeld page s = false then
    .next (withPeers (fun s => stopEnds page (moved page stopDone s)) s)
  else .next s

/-! ## Fences by software (R26, R438) -/

/-- The bridge as a unit is fenced: both its groups (R17). -/
def fenceBridge (s : State) : State :=
  if oneHalf s then s
  else
    let was := fget (.d2d .north) Reg.D2D_D2D_STAT_GROUP_FENCED s
    let s := onBridge (setGroups 3) s
    if was = 3 then s else bridgeDown s

/-- A software request (CAUSE 2) with what fencing this kind of unit does (R129, R313, R366 to R371). -/
def fenceUnit (p : Page) (s : State) : State :=
  match p with
  | .cc h => fenceHalf h 2 s
  | .tile t => fenceTile t.val 2 s
  | .mig h => if fenced p s then fencePage p 2 s else stopZip h (fenceRange h (fencePage p 2 s))
  | .wsc _ | .die _ => wsKick (fencePage p 2 s)
  | .chan c => if fenced p s then fencePage p 2 s else cancelAll c.val (fencePage p 2 s)
  | .d2d _ => fenceBridge s
  | _ => fencePage p 2 s

/-- A channel's FENCE.REQ is for its owner's physical function, any physical function while unassigned (R300). -/
def reqAdmitted (mid : W16) (p : Page) (s : State) : Bool :=
  match p with
  | .chan _ =>
    if fget p Reg.CHAN_CHAN_ASSIGN_VALID s = 1 then decide (mid = ownerPF (BitVec.ofNat 16 (fget p Reg.CHAN_CHAN_ASSIGN_MID s)))
    else isPF mid
  | _ => true

/-- FENCE_REQ (R26, R438). -/
def execFenceReq (w : Wr) (page : Page) (s : State) : Host.Outcome State Fault Refusal :=
  .next (guarded w page 0x028 (fun s =>
    if fixedPage page then s
    else if reqAdmitted w.mid page s then withPeers (fenceUnit page) s
    else accessDenied page s) s)

/-- The repair path of a unit has completed (R129, R281, R313, R366): a tile's banks repaired, a channel's requests gone,
and for any other unit its own test clean. -/
def repairClean (failed : List Page) (p : Page) (s : State) : Bool :=
  match p with
  | .tile t =>
    let k := tileOf t.val s
    decide (k.repair = none ∧ k.bankA.st ≠ .fenced ∧ k.bankB.st ≠ .fenced)
  | .chan c => !s.reqs.any fun r => decide (r.chan = c.val)
  | p => !failed.contains p

/-- A tile that returns joins the bench of its half (R129). -/
def joinBench (p : Nat) (s : State) : State :=
  let g := tilePage p
  let s := clearHold p true (clearHold p false s)
  s |> fset g Reg.TILE_BENCH_MAP_LOGICAL 0x7FF |> fset g Reg.TILE_BENCH_MAP_ASSIGNED 0 |> fset g Reg.TILE_BENCH_MAP_REPLACED 0x7FF

/-- Every cause but a half fence's, whose repair is the half's return (R372, R438), has had its repair. -/
def ownRepairs (p : Page) (s : State) : State :=
  setCauses p ((causesOf p s).map fun c => if c.1 = 3 then c else (c.1, true)) s

/-- End a page's fence once all its causes are repaired. -/
def endFence (p : Page) (s : State) : State :=
  if allRepaired p s then
    let s := unfence p s
    match p with
    | .tile t => joinBench t.val s
    | .wsc _ | .die _ => wsKick s
    | _ => s
  else s

/-- FENCE.RELEASE past its gate. A half's complex starts the return of R372; the bridge retrains both groups (R371). -/
def releaseUnit (failed : List Page) (p : Page) (s : State) : State :=
  if fenced p s = false then s
  else match p with
    | .cc h => setComplex h { complex h s with returning := true } s
    | .d2d _ => if failed.contains (.d2d .north) || failed.contains (.d2d .south) then s else onBridge (setGroups 0) s
    | p => if repairClean failed p s then endFence p (ownRepairs p s) else s

/-- A channel's FENCE.RELEASE is for the writers of the page: no function while it is unassigned (R300). -/
def releaseAdmitted (mid : W16) (p : Page) (s : State) : Bool :=
  match p with
  | .chan _ => isCC mid || decide (fget p Reg.CHAN_CHAN_ASSIGN_VALID s = 1)
  | _ => true

/-- FENCE_RELEASE (R26, R438). -/
def execFenceRelease (w : Wr) (page : Page) (bistFail : List (Page × Fin 6)) (s : State) : Host.Outcome State Fault Refusal :=
  .next (guarded w page 0x028 (fun s =>
    if releaseAdmitted w.mid page s then withPeers (releaseUnit (bistFail.map fun x => x.1) page) s
    else accessDenied page s) s)

/-! ## Wakes -/

/-- Every tile of a half that runs is woken. -/
def wakeTiles (h : Half) (s : State) : State :=
  if (halfPower h s).level ≠ .run ∨ (halfPower h s).moving ≠ .still then s
  else (tilesIn h s).foldl (fun s p =>
    let t := tileOf p s
    match t.moving with
    | .exiting => s
    | .entering _ => setTile p { t with lateWake := true } s
    | .still => if t.level = .run then s else setTile p { t with moving := .exiting } s) s

/-- The source of a debug wake (R389). -/
def debugWake : WakeSrc := { source := 10, port := 0, node := 0, half := .north, tile := none }

/-- A tile below RUN, or on its way there. -/
def tileAsleep (p : Nat) (s : State) : Bool :=
  let t := tileOf p s
  decide (t.moving ≠ .exiting) && decide (t.level ≠ .run ∨ t.moving ≠ .still)

/-- DBG_WAKE.GO (R45): wake source 10 for every domain below RUN; the AON domain records the first one woken. -/
def wakeAll (s : State) : State :=
  if s.phase = .off ∨ enteringOff s = true then wakeBy debugWake [.north, .south] s
  else
    let up := fun (h : Half) => decide ((halfPower h s).level = .run ∧ (halfPower h s).moving = .still)
    let s := if up .north && up .south then
        match (tilesIn .north s ++ tilesIn .south s).filter fun p => tileAsleep p s with
        | [] => s
        | p :: _ => wakeTile debugWake p s
      else wakeBy debugWake [.north, .south] s
    wakeTiles .south (wakeTiles .north s)

/-- DBG_WAKE (R45). -/
def execDbgWake (w : Wr) (data : W32) (s : State) : Host.Outcome State Fault Refusal :=
  .next (guarded w .dbg 0x108 (fun s => if bitsOf data.toNat 31 1 = 1 then withPeers wakeAll s else s) s)

/-- A word of the ring identity in force: at OFF the one of the save (R349, R392). -/
def ringWord (off : Nat) (s : State) : Nat :=
  let a := regAddr (.rg 0) off
  if s.phase = .off then
    match s.save with
    | some v => match ((nth [] v.groups 3).filter fun r => decide (r.1 = a))[0]? with
      | some r => r.2.toNat
      | none => 0
    | none => 0
  else (regWord s a).toNat

/-- WAKE_ORDERED_SET (R349, R389): two good repetitions in a row that name this node. -/
def execWakeOrderedSet (port : Fin 2) (first second : W32) (s : State) : Host.Outcome State Fault Refusal :=
  let node := bitsOf (ringWord 0x100 s) 2 5
  let ok := fun w => wakeNames w node (ringWord 0x104 s)
  if (s.phase = .off ∨ enteringOff s = true) ∧ ok first = true ∧ ok second = true then
    .next (wakeBy { source := 4, port := BitVec.ofNat 3 (2 + port.val), node := BitVec.ofNat 5 node, half := .north, tile := none }
      [.north, .south] s)
  else .next s

end Sys2Proof.Machine
end

