-- ==== Sys2Proof/Machine/Pages.lean ====
section
/-! DEFINITION. The commands of chapter 2 that act on no unit of their own: refused writes, EVT_CLR, LOCK, locked
tables, the BAR2 window, debug sessions. -/

namespace Sys2Proof.Machine

/-! ## Refused writes (R39) -/

/-- BAR0_RESERVED_WRITE (R39): an offset that lies in no page. -/
def execBar0ReservedWrite (w : Wr) (off : BitVec 26) (_data : W32) (s : State) : Host.Outcome State Fault Refusal :=
  match pageAt (off.toNat / 0x1000) with
  | none => .next (if served s .sec then denyRecord w.mid 0 off.toNat s else s)
  | some _ => .next s

/-- ABSENT_UNIT_PAGE_WRITE (R39). -/
def execAbsentUnitPageWrite (w : Wr) (off : BitVec 26) (_data : W32) (s : State) : Host.Outcome State Fault Refusal :=
  match pageAt (off.toNat / 0x1000) with
  | some p =>
    if served s p = true ∧ present s p = false ∧ off.toNat % 0x1000 ≠ 0x020 then .next (denyRecord w.mid 1 off.toNat s)
    else .next s
  | none => .next s

/-! ## Events and locks -/

/-- EVT_CLR with events of the same cycle (R11, R28): the named bits clear, then the events that occur set theirs. -/
def clearEvents (p : Page) (mid : W16) (clear setNow : W32) (s : State) : State :=
  match p with
  | .mbx m =>
    match mbxEnd s m.val mid with
    | some e =>
      let x := mailOf m.val e s
      setMail m.val e { x with raw := (x.raw &&& ~~~clear) ||| setNow } s
    | none => s
  | _ =>
    let before := evtStat p s
    let s' := fset p Reg.EVT_RAW_RAW (((BitVec.ofNat 32 (fget p Reg.EVT_RAW_RAW s) &&& ~~~clear) ||| setNow).toNat) s
    if before = 0 ∧ evtStat p s' ≠ 0 then pageInterrupt p s' else s'

/-- EVT_CLR_WRITE (R28). -/
def execEvtClrWrite (w : Wr) (page : Page) (clear : W32) (setNow : W32) (s : State) : Host.Outcome State Fault Refusal :=
  .next (guarded w page 0x020 (clearEvents page w.mid clear setNow) s)

/-- LOCK_SET (R12). -/
def execLockSet (w : Wr) (page : Page) (s : State) : Host.Outcome State Fault Refusal :=
  .next (guarded w page 0x030 (fset page Reg.LOCK_LOCK 1) s)

/-! ## Locked tables (R36, R324, R347) -/

/-- A MID may stand at an end of a mailbox (R324). -/
def endMidOk (m : W16) : Bool :=
  decide (midClass m = 0) ||
    (isCC m && decide (midPort m = 7 ∧ midFunc m = Half.num (ccHalf m)))

/-- The check of a Mailbox Binding Table entry (R324). -/
def mbtOk (data : W64) : Bool :=
  let a : W16 := BitVec.ofNat 16 data.toNat
  let b : W16 := BitVec.ofNat 16 (data.toNat / 2 ^ 16)
  endMidOk a && endMidOk b && decide (a ≠ b)

/-- The check of a Remote Admin Table entry (R347). -/
def adminOk (data : W32) : Bool :=
  let m : W16 := BitVec.ofNat 16 data.toNat
  decide (midClass m = 0 ∧ (midPort m = 0 ∨ midPort m = 1) ∧ midFunc m = 0)

/-- Store a Mailbox Binding Table entry, its reserved bits 0 (R13). -/
def storeMbt (m : Fin 64) (data : W64) (valid : Bool) (s : State) : State :=
  let v := data.toNat % 2 ^ 54 + (if valid then 2 ^ 63 else 0)
  setRegWord (regAddr .sec (0x404 + 8 * m.val)) (BitVec.ofNat 32 (v / 2 ^ 32))
    (setRegWord (regAddr .sec (0x400 + 8 * m.val)) (BitVec.ofNat 32 v) s)

/-- Store a Remote Admin Table entry. -/
def storeAdmin (i : Fin 8) (data : W32) (valid : Bool) (s : State) : State :=
  fsetI (.rg 0) Reg.RG_ADMIN_VALID i.val (if valid then 1 else 0) (fsetI (.rg 0) Reg.RG_ADMIN_MID i.val data.toNat s)

/-- An entry of the Remote Admin Table acts as VALID 0 (R36). -/
def dropAdmin (i : Fin 8) (s : State) : State := fsetI (.rg 0) Reg.RG_ADMIN_VALID i.val 0 s

/-- The write of an entry past the gates: stored unchecked when VALID is 0, invalid when its check fails. -/
def writeEntry (entry : TableEntry) (s : State) : State :=
  match entry with
  | .mbt m data =>
    if m.val = 63 then s
    else if bitsOf data.toNat 63 1 = 0 then storeMbt m data false s
    else if mbtOk data = true then storeMbt m data true s
    else raise .sec 8 (storeMbt m data false s)
  | .admin i data =>
    if bitsOf data.toNat 31 1 = 0 then storeAdmin i data false s
    else if adminOk data = true then storeAdmin i data true s
    else raise (.rg 0) 15 (storeAdmin i data false s)

/-- The owner page, offset and first data word of an entry. -/
def entryPlace : TableEntry → Page × Nat × W32
  | .mbt m data => (.sec, 0x400 + 8 * m.val, BitVec.ofNat 32 data.toNat)
  | .admin i data => (.rg 0, 0x400 + 4 * i.val, data)

/-- LOCKED_TABLE_ENTRY_WRITE (R36). Entry 63 of the Mailbox Binding Table ignores writes (R324). -/
def execLockedTableEntryWrite (w : Wr) (entry : TableEntry) (s : State) : Host.Outcome State Fault Refusal :=
  let pl := entryPlace entry
  .next (guardedRwl w pl.1 pl.2.1 pl.2.2 (writeEntry entry) s)

/-- TABLE_ERROR (R36): the entry acts as VALID 0. -/
def execTableError (entry : TableEntry) (s : State) : Host.Outcome State Fault Refusal :=
  match entry with
  | .mbt m _ =>
    if m.val = 63 then .next (raise .sec 6 s)
    else .next (raise .sec 6 (storeMbt m (BitVec.ofNat 64 (mbtEntry s m.val)) false s))
  | .admin i _ => .next (raise (.rg 0) 6 (dropAdmin i s))

/-! ## BAR2 (R41) -/

/-- The device-range address of a BAR2 access: a function's region is 64 GiB (R41, R254). -/
def bar2Addr (mid : W16) (off : BitVec 36) (s : State) : Nat :=
  fgetI (.hp (Fin.ofNat 2 (midPort mid))) Reg.HP_BAR2_BASE_REGION (midFunc mid) s * 2 ^ 36 + off.toNat

/-- Every page the access touches admits the function (R261). -/
def hostMay (mid : W16) (write : Bool) (addr len : Nat) (s : State) : Bool :=
  (spanPages addr len).all fun q => mayAccess (.host mid) write (homeOf q s) s

/-- The access reaches this device through a host port of its own that serves BAR2 (R37, R41). -/
def bar2Reaches (mid : W16) (s : State) : Bool :=
  isLocal s mid && decide (midPort mid < 2) && decide (s.phase = .ready) && present s (.hp (Fin.ofNat 2 (midPort mid)))

/-- A denied access: Completer Abort, ACCESS_DENIED on the host port page, the denial recorded (R41, R261). -/
def bar2Denied (mid : W16) (addr : Nat) (s : State) : State :=
  let p : Page := .hp (Fin.ofNat 2 (midPort mid))
  accessDenied p (satInc p Reg.HP_HP_ERR_CNT_CA 1 (rangeDenied mid addr s))

/-- Bytes of a host read: a poisoned granule's bytes are sent as zeros (R277). -/
def sentBytes (addr len : Nat) (s : State) : List Byte :=
  ((rangeBytes addr len s).zip (List.range len)).map fun b => if rangePoison (addr + b.2) 1 s then 0 else b.1

/-- BAR2_READ (R41, R273 to R277). -/
def execBar2Read (mid : W16) (off : BitVec 36) (len : Nat) (err : Option ReadError) (s : State) :
    Host.Outcome State Fault Refusal :=
  if bar2Reaches mid s = false then .next s else
  let addr := bar2Addr mid off s
  if hostMay mid false addr len s = false then .next (emit (.completerAbort mid addr) (bar2Denied mid addr s))
  else
    let s := match err with
      | some e => if addr ≤ e.addr.toNat ∧ e.addr.toNat < addr + len then storageError e.addr.toNat e.correctable s else s
      | none => s
    let bad := rangePoison addr len s
    let p : Page := .hp (Fin.ofNat 2 (midPort mid))
    let s := emit (.bar2Data mid addr (sentBytes addr len s) bad) s
    .next (if bad then raise p 8 (wrapInc p Reg.HP_POISON_OUT_CNT_COUNT 1 s) else s)

/-- BAR2_WRITE (R41, R276, R369). -/
def execBar2Write (mid : W16) (off : BitVec 36) (bytes : List Byte) (poison : Bool) (s : State) :
    Host.Outcome State Fault Refusal :=
  if bar2Reaches mid s = false then .next s else
  let addr := bar2Addr mid off s
  if hostMay mid true addr bytes.length s = false then .next (emit (.completerAbort mid addr) (bar2Denied mid addr s))
  else if (spanPages addr bytes.length).any (fun q => homeFenced (homeOf q s) s) then
    .next (accessDenied (.hp (Fin.ofNat 2 (midPort mid))) (raise .sec 9 (denyRecord mid 2 addr s)))
  else .next (rangeWrite addr bytes poison s)

/-! ## Debug sessions (R45, R423) -/

/-- DEBUG_SESSION_OPEN (R45): the pins have no effect while DEBUG_LOCK is 1 (R423). -/
def execDebugSessionOpen (s : State) : Host.Outcome State Fault Refusal :=
  if debugLock s = true ∨ s.phase = .off ∨ fget .dbg Reg.DBG_DBG_STAT_SESSION s = 1 then .next s
  else .next (raise .dbg 8 (satInc .dbg Reg.DBG_DBG_SESS_CNT_COUNT 1 (fset .dbg Reg.DBG_DBG_STAT_SESSION 1 s)))

/-- DEBUG_SESSION_CLOSE (R45). -/
def execDebugSessionClose (s : State) : Host.Outcome State Fault Refusal :=
  .next (fset .dbg Reg.DBG_DBG_STAT_SESSION 0 s)

end Sys2Proof.Machine
end

