-- ==== Sys2Proof/Machine/Reads.lean ====
section
/-! DEFINITION. What the registers of BAR0 read (R10, R13, R26, R29, R38 to R43, R75): fields that mirror a structure of the
state are computed here, the rest is the stored word; reads that latch or remove do so here. -/

namespace Sys2Proof.Machine

/-! ## Pieces -/

/-- A word of fields: lowest bit, width, value. -/
def packWord (fs : List (Nat × Nat × Nat)) : W32 := BitVec.ofNat 32 (fs.foldl (fun v f => v + f.2.2 % 2 ^ f.2.1 * 2 ^ f.1) 0)
/-- A flag as a bit. -/
def flag (b : Bool) : Nat := if b then 1 else 0
/-- A number as a word. -/
def word (n : Nat) : W32 := BitVec.ofNat 32 n
/-- The stored word of a page's register. -/
def stored (p : Page) (off : Nat) (s : State) : W32 := regWord s (regAddr p off)
/-- Word i of a pair of 64-bit words. -/
def pairWord (l : List (W64 × W64)) (i : Nat) : W32 :=
  match l[0]? with
  | some e => word ((if i < 2 then e.1 else e.2).toNat / 2 ^ (32 * (i % 2)))
  | none => 0
/-- Free entries and waiting status entries of a queue. -/
def queueWord (depth used fill : Nat) : W32 := word (depth - used + min fill 511 * 2 ^ 16)

/-! ## The common registers (R26) -/

/-- BLK_ID.HALF of the pages that belong to a half. -/
def halfBit (p : Page) : Nat :=
  match p with
  | .tile _ | .bm _ | .die _ | .hp _ | .eth _ | .cc _ | .wsc _ | .mig _ | .d2d _ | .rf _ => Half.num (pageHalf p)
  | _ => 0

/-- BLK_CAP.BENCH (R26, R129). -/
def benchBit (p : Page) (s : State) : Bool :=
  match p with
  | .tile t => isBench s t.val || decide (fget p Reg.TILE_BENCH_MAP_ASSIGNED s = 1) || benchFree t.val s
  | _ => false

/-- What a mailbox page shows of its events to an end (R331). -/
def mailEvents (mid : W16) (m off : Nat) (s : State) : W32 :=
  match mbxEnd s m mid with
  | some e =>
    let x := mailOf m e s
    if off = 0x018 then x.raw else if off = 0x01C then x.en else x.raw &&& x.en
  | none => 0

/-- BLK_STATE of the capability page (R43). -/
def capState (s : State) : Nat := if s.phase = .ready then 2 else 1

/-- Common registers that are computed. -/
def readCommon (mid : W16) (p : Page) (off : Nat) (s : State) : Option W32 :=
  if off = 0x000 then some (packWord [(0, 16, pageType p), (16, 11, pageInstance p), (27, 1, halfBit p)])
  else if off = 0x004 then some (Config.blkVer (pageType p))
  else if off = 0x008 then some (packWord [(0, 1, flag (present s p)), (1, 1, flag (pageShared p)), (2, 1, flag (benchBit p s))])
  else if off = 0x010 then (if fixedPage p then some 1 else none)
  else if off = 0x014 then match p with
    | .cap => some (word (capState s))
    | .fus => some (if fget .fus Reg.FUS_FUS_STAT_LOADED s = 1 then 2 else 0)
    | _ => none
  else if off = 0x018 ∨ off = 0x01C ∨ off = 0x024 then match p with
    | .mbx m => some (mailEvents mid m.val off s)
    | _ => if off = 0x024 then some (word (evtStat p s)) else none
  else none

/-! ## Pages of chapter 2 -/

/-- SIZE_TABLE (R4, R42). -/
def sizeTable (off : Nat) (s : State) : Option W32 :=
  let e := fun a b c => some (word (sizeEntry s a b c))
  if off = 0x100 then e 2 2 1 else if off = 0x104 then e 1056 1056 1056 else if off = 0x108 then e 1024 768 512
  else if off = 0x10C then e 32 32 16 else if off = 0x110 then e 8 6 4 else if off = 0x114 then e 393216 294912 196608
  else if off = 0x118 then e 327680 245760 163840 else if off = 0x11C then e 16 16 0 else if off = 0x120 then e 512 512 512
  else if off = 0x124 then e 64 64 64 else if off = 0x128 then e 16 16 8
  else if off = 0x12C then some (word (halfMib .north s + halfMib .south s))
  else if off = 0x130 then e 2 2 1 else if off = 0x134 then e 2 2 1 else if off = 0x138 then e 2 2 2
  else if off = 0x13C then e 256 256 256 else if off = 0x140 then e 0 1 2 else none

/-- The fuse map (R46). -/
def readFus (off : Nat) (s : State) : Option W32 :=
  if off = 0x104 then some (packWord [(0, 8, s.fuses.sizeClass.val), (8, 8, s.fuses.rev.toNat)])
  else if off = 0x10C then
    let p := nth 0 s.fuses.bench (fget .fus Reg.FUS_FUS_BENCH_SEL_INDEX s)
    some (packWord [(0, 11, p), (31, 1, flag (present s (tilePage p)))])
  else if 0x200 ≤ off ∧ off < 0x284 then
    some (word ((List.range 32).foldl (fun v i => v + flag (present s (tilePage (8 * (off - 0x200) + i))) * 2 ^ i) 0))
  else none

/-- The Mailbox Binding Table (R324). -/
def readSec (off : Nat) (s : State) : Option W32 :=
  if 0x400 ≤ off ∧ off < 0x600 then
    some (word (mbtEntry s ((off - 0x400) / 8) / 2 ^ (32 * (off / 4 % 2))))
  else none

/-! ## Tiles (R76, R109, R134, R162) -/

/-- BANKx_STATE.STATE. -/
def bankNum' : BankSt → Nat
  | .empty => 0
  | .writeHeld => 1
  | .writing => 2
  | .ready => 3
  | .fenced => 4

/-- The four registers of a bank. -/
def readBank (b : Bank) (i : Nat) : W32 :=
  if i = 0 then packWord [(0, 16, b.wset.toNat), (16, 16, b.mepoch.toNat)]
  else if i = 1 then packWord [(0, 2, b.wfmt.toNat), (2, 2, b.fold.toNat), (8, 8, b.rows)]
  else if i = 2 then packWord [(0, 3, bankNum' b.st), (8, 8, rowsDone b), (16, 11, b.poisonRows)]
  else packWord [(0, 10, b.poisonFirst.getD 0), (31, 1, flag b.poisonFirst.isSome)]

/-- BANKx_TBL. -/
def readTbl (b : Bank) : W32 :=
  packWord [(0, 8, b.tbl.toNat), (8, 1, flag (scalesDone b)), (9, 1, flag b.zpcValid), (10, 1, flag b.colsumBad)]

/-- The subarray whose calibration is oldest. -/
def oldestCal (t : Tile) : Sub :=
  (List.range 16).foldl (fun (u : Sub) i => if (t.sub i).calAt < u.calAt then t.sub i else u) (t.sub 0)

/-- Bits of the classes that the array holds. -/
def ctxBits (t : Tile) : Nat :=
  (List.range 3).foldl (fun v c => v + flag (t.ctxs.any fun x => match entryOf t x.age with
    | some e => decide (e.d.cls.toNat = c)
    | none => false) * 2 ^ c) 0

/-- Computed registers of a tile page. -/
def readTile (p off : Nat) (s : State) : Option W32 :=
  let t := tileOf p s
  if 0x110 ≤ off ∧ off < 0x120 then some (readBank t.bankA ((off - 0x110) / 4))
  else if 0x120 ≤ off ∧ off < 0x130 then some (readBank t.bankB ((off - 0x120) / 4))
  else if off = 0x210 then some (readTbl t.bankA)
  else if off = 0x214 then some (readTbl t.bankB)
  else if off = 0x318 then some (putBits (stored (tilePage p) off s) 8 8 (min 255 (recentRepairs t s)))
  else if off = 0x330 then some (word (min 16383 ((s.timer - (oldestCal t).calAt) * 16 / 1000)))
  else if off = 0x334 then
    some (packWord [(0, 16, (BitVec.ofInt 16 (oldestCal t).calTemp).toNat),
      (16, 16, (BitVec.ofInt 16 (sensorOf (regionOf p) s).temp).toNat)])
  else if off = 0x404 then
    some (packWord [(0, 8, partUse t .posted), (8, 5, partUse t .stolen), (13, 7, partUse t .spawn), (20, 3, ctxBits t),
      (23, 1, flag t.vec.isSome), (24, 1, flag t.probe), (25, 1, flag t.spilling)])
  else none

/-! ## The weight store (R193, R194) -/

/-- POOL_STAT: usable and retired blocks of a controller's dies. -/
def poolStat (h : Half) (s : State) : W32 :=
  let dies := (List.range 4).map fun i => 4 * Half.num h + i
  let planes := dies.flatMap fun d =>
    if present s (diePage d) then ((List.range 192).map fun p => d * 256 + p).filter fun p => !planeFenced p s else []
  let bad := s.ws.retired.filter fun b => dies.contains (b / 16384)
  packWord [(0, 16, 62 * planes.length - (bad.filter fun b => decide (b % 64 < 62) && planes.contains (b / 64)).length),
    (16, 16, bad.length)]

/-- Computed registers of a controller's page. -/
def readWsc (h : Half) (off : Nat) (s : State) : Option W32 :=
  let mine := s.ws.cmds.filter fun c => decide (c.half = h)
  if off = 0x108 then
    some (packWord [(0, 1, fget (.wsc h) Reg.WSC_WSC_STAT_SCAN_DONE s), (1, 1, flag (mine.any fun c => decide (c.op = 2) && c.begun)),
      (2, 1, flag (mine.any fun c => decide (c.op = 3 ∧ c.erase ≠ .waiting ∧ c.erase ≠ .intended)))])
  else if off = 0x110 then some (word (((weakFifo h s)[0]?.map fun e => e.1).getD 0))
  else if off = 0x114 then some (weakHeadHi h s)
  else if off = 0x144 then
    some (putBits (stored (.wsc h) off s) 24 8
      (min 255 (s.ws.partials.filter fun b => decide (b / 16384 / 4 = Half.num h)).length))
  else if off = 0x148 then some (poolStat h s)
  else if off = 0x1A0 then some (queueWord 256 mine.length (wsSts h s).length)
  else if 0x1B0 ≤ off ∧ off < 0x1C0 then some (pairWord (wsSts h s) ((off - 0x1B0) / 4))
  else none

/-- DIE_STAT. -/
def readDie (d off : Nat) (s : State) : Option W32 :=
  if off = 0x100 then
    some (packWord [(0, 8, fget (diePage d) Reg.DIE_DIE_STAT_FENCED s),
      (8, 8, dieCount d (fun c => decide (c.op = 2) && c.begun) s),
      (16, 4, dieCount d (fun c => decide (c.op = 3 ∧ c.erase ≠ .waiting ∧ c.erase ≠ .intended)) s)])
  else none

/-! ## Rallies and images (R219, R253) -/

/-- A selector that each requester has of its own. -/
def selected (mid : W16) (p : Page) (off : Nat) (s : State) : W32 := sget 0 (regAddr p off * 65536 + mid.toNat) s.selects

/-- The lowest chunk of a list, 0xFFFF for none. -/
def firstChunk (l : List Nat) : Nat := l.foldl min 0xFFFF

/-- The rally registers of a context. -/
def readRally (c : RallyCtx) (off : Nat) (s : State) : W32 :=
  let plan := (currentPlan c s).map fun x => x.2
  let len := fun (r : Rally) => r.members.length
  if off = 0x804 then
    packWord [(0, 2, if c.handle = none then 0 else if c.running = none then 1 else 2), (2, 1, flag (!c.forming.members.isEmpty)),
      (3, 1, flag c.holdAt.isSome), (4, 1, Half.num c.home), (16, 16, (c.running.map fun r => r.chunk).getD 0)]
  else if off = 0x808 then packWord [(0, 16, (plan.map fun p => p.chunks).getD 0), (16, 9, (plan.map fun p => p.bMax).getD 0)]
  else if off = 0x80C then packWord [(0, 9, (c.running.map len).getD 0), (9, 9, len c.forming)]
  else if off = 0x810 then packWord [(0, 24, c.periodNs)]
  else if off = 0x814 then word c.stalls
  else if off = 0x818 then packWord [(0, 16, min 65535 c.holds), (16, 16, min 65535 c.expired)]
  else if off = 0x81C then packWord [(0, 16, min 65535 c.skews)]
  else if off = 0x820 then packWord [(0, 16, min 65535 c.second.length), (16, 16, min 65535 c.remaps)]
  else if off = 0x824 then packWord [(0, 16, firstChunk c.inT1), (16, 16, firstChunk c.inT2)]
  else if off = 0x828 then packWord [(0, 9, (plan.map fun p => p.shareN).getD 0), (9, 9, (plan.map fun p => p.shareS).getD 0)]
  else word c.count

/-- A function reads handles it owns or has bound; every other MID reads all (R253). -/
def seesHandle (mid : W16) (h : HandleSt) (s : State) : Bool :=
  decide (midClass mid ≠ 0 ∨ h.owner = mid) || s.bindings.any fun b => decide (b.handle = h.index ∧ chanMid b.chan s = mid)

/-- IMG_STAT.STORE. -/
def storeCode (v : Version) : Nat :=
  if v.blocks = [] then 0 else if v.chunks ≤ v.verified.length then 3 else if v.chunks ≤ v.programmed.length then 2 else 1

/-- The registers of a version. -/
def readVersion (v : Version) (h : HandleSt) (off : Nat) (s : State) : W32 :=
  if off = 0x844 then
    packWord [(0, 4, v.st), (4, 2, storeCode v), (6, 1, flag v.unsigned), (7, 1, flag v.damaged), (8, 1, flag (!v.t1.isEmpty)),
      (9, 2, h.repl), (11, 1, flag h.huddle), (12, 3, v.keySlot), (16, 16, h.owner.toNat)]
  else if off = 0x848 then word v.epoch
  else if off = 0x84C then
    packWord [(0, 20, requestRefs v.handle v.epoch s), (20, 5, rallyRefs v.handle v.epoch s), (25, 1, flag v.pinUntil.isSome)]
  else if off = 0x850 then word v.landed.length
  else if off = 0x854 then word v.verified.length
  else 0

/-- The image registers that a selector shows. -/
def readImage (mid : W16) (sel : W32) (off : Nat) (s : State) : W32 :=
  match handleSt (bitsOf sel.toNat 0 10) s with
  | none => 0
  | some h =>
    if seesHandle mid h s = false then 0
    else if off = 0x858 then packWord [(0, 20, h.holdUs)]
    else if off = 0x85C then word (s.reqs.filter fun r => decide (r.handle = h.index ∧ r.st = .held)).length
    else if off = 0x860 then word h.err.toNat
    else if off = 0x864 then packWord [(0, 16, min 65535 h.refetch), (16, 16, min 65535 h.reloc)]
    else match whichVersion h.index (bitsOf sel.toNat 10 1) s with
      | some v => readVersion v h off s
      | none =>
        if off = 0x844 then packWord [(9, 2, h.repl), (11, 1, flag h.huddle), (16, 16, h.owner.toNat)] else 0

/-- Computed registers of a control complex's page. -/
def readCc (mid : W16) (h : Half) (off : Nat) (s : State) : Option W32 :=
  if off = 0x800 ∨ off = 0x840 then some (selected mid (.cc h) off s)
  else if 0x804 ≤ off ∧ off < 0x830 then
    some (readRally (rallyOf (bitsOf (selected mid (.cc h) 0x800 s).toNat 0 4) s) off s)
  else if 0x844 ≤ off ∧ off < 0x868 then some (readImage mid (selected mid (.cc h) 0x840 s) off s)
  else none

/-! ## The range and compression (R279, R298) -/

/-- Free T0 frames of a half. -/
def t0FreeOf (h : Half) (s : State) : Nat :=
  (List.range (activeTiles s)).foldl (fun n l => match serving l s with
    | some p => if tileHalf p = h then n + (t0Free l s).length else n
    | none => n) 0

/-- Z_TBL_STAT of a slot. -/
def readSlot (chan slot : Nat) (s : State) : W32 :=
  let z := zslot chan slot s
  let held := (s.zip.cmds.filter fun c => decide (c.load ≠ none ∧ zChannel c.cmd = chan ∧ zSlotNum c.cmd = slot))[0]?
  let waits := match held with
    | some c => (s.zip.cmds.filter fun x => decide (zChannel x.cmd = chan ∧ x.id < c.id)).length
    | none => 0
  packWord [(0, 4, z.gen), (4, 2, if held.isSome then 2 else flag z.loaded), (6, 13, waits)]

/-- A path's queues. -/
def rangeQueue (path : Path) (s : State) : W32 :=
  queueWord (pathDepth path) (s.range.cmds.filter fun c => decide (c.path = path)).length (rangeSts path s).length
/-- A path's queues. -/
def zipQueue (path : Path) (s : State) : W32 :=
  queueWord (pathDepth path) (s.zip.cmds.filter fun c => decide (c.path = path)).length (zipSts path s).length

/-- Computed registers of a migration engine's page. The lanes of compressor and expander are idle between commands. -/
def readMig (mid : W16) (h : Half) (off : Nat) (s : State) : Option W32 :=
  let sel := sget 0 (Half.num h * 65536 + mid.toNat) s.zip.sel
  if off = 0x100 then
    some (packWord [(0, 7, (s.range.moves.filter fun m => decide (m.engine = h)).length),
      (7, 1, flag (decide (keeper 0 s = h ∧ keeper 1 s = h)))])
  else if off = 0x104 then some (word (t0FreeOf h s))
  else if off = 0x108 then some (word (t1Slots h s))
  else if off = 0x10C then some (word (t1Free h s))
  else if off = 0x1A0 then some (rangeQueue (.mig h) s)
  else if 0x1B0 ≤ off ∧ off < 0x1D0 then some (stsWord (rangeSts (.mig h) s) ((off - 0x1B0) / 4))
  else if off = 0x228 then some sel
  else if off = 0x22C then some (readSlot (bitsOf sel.toNat 0 9) (bitsOf sel.toNat 9 3) s)
  else if off = 0x2A0 then some (zipQueue (.mig h) s)
  else if 0x2B0 ≤ off ∧ off < 0x2C0 then some (pairWord (zipSts (.mig h) s) ((off - 0x2B0) / 4))
  else none

/-- BM_UNCORR: the slots of the last second are counted now. -/
def readBm (n off : Nat) (s : State) : Option W32 :=
  if off = 0x110 then
    let mine := s.badSlots.filter fun x => decide (slotChannel (halfOf (x.1 / 2 ^ 21 % 2)) (x.1 % 2 ^ 21) = n ∧ s.timer < x.2 + second)
    some (putBits (stored (.bm (Fin.ofNat 16 n)) off s) 16 16 mine.length)
  else none

/-! ## Channels and mailboxes (R330, R331) -/

/-- The in-flight list of a channel, in order of acceptance. -/
def inflightList (c : Nat) (s : State) : List Req := s.reqs.filter fun r => decide (r.chan = c)

/-- Computed registers of a channel page. -/
def readChan (c : Fin 512) (off : Nat) (s : State) : Option W32 :=
  let p : Page := .chan c
  let k := chanOf c.val s
  let wait := k.cpls.filter fun x => !x.posted
  let sel := fget p Reg.CHAN_INFL_SEL_INDEX s
  if off = 0x130 then some (packWord [(0, 13, inflight c.val s), (16, 13, wait.length)])
  else if off = 0x138 then
    some (putBits (stored p off s) 1 1 (flag (match wait with
      | x :: _ => !cqRoom c.val x.cseq s
      | [] => false)))
  else if off = 0x144 then some (putBits (stored p off s) 31 1 (flag (decide (sel < inflight c.val s))))
  else if off = 0x148 then some (((inflightList c.val s)[sel]?.map fun r => r.seq).getD 0)
  else if off = 0x170 then some (word s.timer)
  else if off = 0x174 then some (word (s.timer / 2 ^ 32))
  else if off = 0x220 then some (rangeQueue (.chan c) s)
  else if 0x230 ≤ off ∧ off < 0x250 then some (stsWord (rangeSts (.chan c) s) ((off - 0x230) / 4))
  else if off = 0x2A0 then some (zipQueue (.chan c) s)
  else if 0x2B0 ≤ off ∧ off < 0x2C0 then some (pairWord (zipSts (.chan c) s) ((off - 0x2B0) / 4))
  else none

/-- What an end of a mailbox reads. -/
def readMbx (mid : W16) (m off : Nat) (s : State) : Option W32 :=
  match mbxEnd s m mid with
  | none => if 0x100 ≤ off then some 0 else none
  | some e =>
    let x := mailOf m e s
    let peer := mbtMid s m (!e)
    if off = 0x100 then
      some (packWord [(0, 2, peerState peer s), (2, 3, (mailOf m (!e) s).queue.length), (5, 3, x.queue.length),
        (8, 1, flag (mbtValid s m)), (9, 1, flag e)])
    else if 0x140 ≤ off ∧ off < 0x180 then some (sget 0 ((off - 0x140) / 4) x.tx)
    else if 0x180 ≤ off ∧ off < 0x1C0 then some (nth 0 (nth [] x.queue 0) ((off - 0x180) / 4))
    else none

/-! ## Links, power, sensors (R335, R350, R354, R379, R404, R436) -/

/-- Ring registers that both pages share read from Ring A's page; the idle bit of a link is open (R350). -/
def readRg (i off : Nat) (s : State) : Option W32 :=
  if off = 0x100 then some (putBits (stored (.rg 0) off s) 13 1 (flag s.pins.ringHead))
  else if off = 0x104 ∨ off = 0x108 ∨ off = 0x10C then some (stored (.rg 0) off s)
  else if off = 0x110 then some (putBits (stored (rgPage i) off s) 12 1 (Config.freeNat s.free))
  else if 0x400 ≤ off ∧ i ≠ 0 then some 0
  else none

/-- ETH_STAT. -/
def readEth (i off : Nat) (s : State) : Option W32 :=
  if off = 0x140 then
    some (putBits (stored (ethPage i) off s) 1 7 (s.qps.filter fun q => decide (q.port = i) && qpLive q s).length)
  else none

/-- LEASE_STAT. -/
def readRf (h : Half) (off : Nat) (s : State) : Option W32 :=
  if off = 0x100 then some (putBits (stored (.rf h) off s) 5 1 (Half.num s.pins.tieBrk)) else none

/-- Present tiles at one of some levels. -/
def tilesAtLevel (ls : List Level) (s : State) : Nat :=
  ((List.range 1056).filter fun p => present s (tilePage p) && ls.contains (tileOf p s).level).length

/-- TILE_PWR. -/
def readTilePwr (p : Nat) (s : State) : W32 :=
  if 1056 ≤ p then 0
  else
    let t := tileOf p s
    packWord [(0, 3, min 4 (levelNum t.level)), (3, 1, flag t.boost),
      (4, 6, tileVoters p s + flag (decide (halfFloor (tileHalf p) s ≠ 7)) * 32), (10, 3, tileFloor p s)]

/-- The reader's own vote (R387). -/
def readVote (mid : W16) (s : State) : W32 :=
  match (s.votes.filter fun v => decide (v.1 = mid))[0]? with
  | some v => packWord [(0, 3, v.2.1), (3, 3, v.2.2), (6, 1, 1), (16, 16, mid.toNat)]
  | none => packWord [(0, 3, 7), (3, 3, 7), (16, 16, mid.toNat)]

/-- Computed registers of the PMU page. -/
def readPmu (mid : W16) (off : Nat) (s : State) : Option W32 :=
  let moving := fun (x : HalfPower) => flag (decide (x.moving ≠ .still))
  if off = 0x108 then
    some (packWord [(0, 3, min 4 (levelNum s.powerN.level)), (3, 1, moving s.powerN), (4, 3, min 4 (levelNum s.powerS.level)),
      (7, 1, moving s.powerS), (8, 1, fget .pmu Reg.PMU_PWR_STAT_REST_BLOCKED s)])
  else if off = 0x10C then some (packWord [(0, 11, tilesAtLevel [.run] s), (11, 11, tilesAtLevel [.idle] s)])
  else if off = 0x110 then some (packWord [(0, 11, tilesAtLevel [.nap] s), (11, 11, tilesAtLevel [.doze, .rest, .off] s)])
  else if off = 0x118 then some (readTilePwr (fget .pmu Reg.PMU_TILE_SEL_TILE s) s)
  else if off = 0x11C then
    some (packWord [(0, 6, halfVoters .north s), (6, 3, halfFloor .north s), (9, 6, halfVoters .south s), (15, 3, halfFloor .south s)])
  else if off = 0x130 then some (readVote mid s)
  else if off = 0x134 then some (word s.votes.length)
  else none

/-- THM_READ. -/
def readThm (off : Nat) (s : State) : Option W32 :=
  if off = 0x104 then
    let i := fget .thm Reg.THM_THM_SEL_SENSOR s
    let x := sensorOf i s
    some (if i < 48 then packWord [(0, 16, (BitVec.ofInt 16 x.temp).toNat), (16, 1, flag x.failed)] else 0)
  else none

/-! ## Reading -/

/-- Block-specific registers that are computed. -/
def readBlock (mid : W16) (p : Page) (off : Nat) (s : State) : Option W32 :=
  match p with
  | .cap => sizeTable off s
  | .fus => readFus off s
  | .sec => readSec off s
  | .tile t => readTile t.val off s
  | .wsc h => readWsc h off s
  | .die n => readDie n.val off s
  | .cc h => readCc mid h off s
  | .mig h => readMig mid h off s
  | .bm n => readBm n.val off s
  | .chan c => readChan c off s
  | .mbx m => readMbx mid m.val off s
  | .rg i => readRg i.val off s
  | .eth i => readEth i.val off s
  | .rf h => readRf h off s
  | .pmu => readPmu mid off s
  | .thm => readThm off s
  | .d2d _ => if off = 0x108 ∨ off = 0x110 then some (Config.freeWord s.free) else none
  | .hp _ | .dbg | .aon => none

/-- The word a register reads; the register file holds every other one, reserved offsets 0 (R13). -/
def readValue (mid : W16) (p : Page) (off : Nat) (s : State) : W32 :=
  match if off < 0x100 then readCommon mid p off s else readBlock mid p off s with
  | some w => w
  | none => stored p off s

/-- Registers whose reading latches others (R75, R108, R162, R170, R314, R379, R405). -/
def latchedBy (p : Page) (off : Nat) : List Nat :=
  match p with
  | .tile _ =>
    if off = 0x140 ∨ off = 0x148 ∨ off = 0x410 then [off + 4] else if off = 0x220 then [0x224, 0x228, 0x22C] else []
  | .wsc _ => if off = 0x110 then [0x114] else []
  | .chan _ => if off = 0x170 then [0x174] else []
  | .rf _ => if off = 0x108 then [0x10C] else []
  | .aon => if off = 0x104 then [0x108] else []
  | _ => []

/-- Registers whose value is open: traffic of the bridge and the rest state of a ring link, which no command of the block
moves. -/
def openReg (p : Page) (off : Nat) : Bool :=
  match p with
  | .d2d _ => decide (off = 0x108 ∨ off = 0x110)
  | .rg _ => decide (off = 0x110)
  | _ => false

/-- What a read removes (R170, R190, R265, R290). -/
def removed (mid : W16) (p : Page) (off : Nat) (s : State) : State :=
  match p with
  | .wsc h => if off = 0x1BC then popWs h s else if off = 0x114 then popWeak mid h s else s
  | .mig h => if off = 0x1CC then popRange (.mig h) s else if off = 0x2BC then popZip (.mig h) s else s
  | .chan c => if off = 0x24C then popRange (.chan c) s else if off = 0x2BC then popZip (.chan c) s else s
  | _ => s

/-- A 4-byte register read that the page serves: a latched word first, then what the read latches and removes. -/
def readServed (mid : W16) (p : Page) (off : Nat) (s : State) : W32 × State :=
  let a := regAddr p off
  let v := (sget none a s.latched).getD (readValue mid p off s)
  let s' := { s with latched := sset none a none s.latched, free := if openReg p off then s.free + 1 else s.free }
  let s' := (latchedBy p off).foldl (fun x o =>
    { x with latched := sset none (regAddr p o) (some (readValue mid p o s)) x.latched }) s'
  (v, removed mid p off s')

/-- A register read at a BAR0 offset (R29, R39, R40, R410): misaligned ones are discarded, pages that are not served or
not seen read 0, a mailbox denies a MID that is no end of it (R325). -/
def readReg (mid : W16) (a : Nat) (s : State) : W32 × State :=
  match pageAt (a / 0x1000) with
  | none => (0, s)
  | some p =>
    if served s p = false ∨ sees s mid p = false then (0, s)
    else if a % 4 ≠ 0 then (0, raise p 5 s)
    else match p with
      | .mbx m =>
        if mbxEnd s m.val mid = none ∧ 0x100 ≤ a % 0x1000 then (0, accessDenied p s) else readServed mid p (a % 0x1000) s
      | _ => readServed mid p (a % 0x1000) s

/-- COUNTER_LATCH_READ (R75): the data leaves toward the reader. -/
def execCounterLatchRead (mid : W16) (off : BitVec 26) (s : State) : Host.Outcome State Fault Refusal :=
  let r := readReg mid off.toNat s
  .next (emit (.readData mid off.toNat r.1) r.2)

end Sys2Proof.Machine
end

