-- ==== Sys2Proof/Machine/Commands.lean ====
section
/-! DEFINITION. Register writes as a whole (R10 to R13, R26, R29, R30), the ring window of BAR4 (R333, R347) and the packets
that arrive on the ring (R338 to R341, R348). -/

namespace Sys2Proof.Machine

/-! ## Storing a word (R10, R13) -/

/-- The block-specific fields of a page. -/
def blockFields : Page → List Field
  | .cap => Reg.fieldsCap
  | .cc _ => Reg.fieldsCc
  | .wsc _ => Reg.fieldsWsc
  | .mig _ => Reg.fieldsMig
  | .d2d _ => Reg.fieldsD2d
  | .rf _ => Reg.fieldsRf
  | .hp _ => Reg.fieldsHp
  | .rg _ => Reg.fieldsRg
  | .eth _ => Reg.fieldsEth
  | .pmu => Reg.fieldsPmu
  | .thm => Reg.fieldsThm
  | .sec => Reg.fieldsSec
  | .dbg => Reg.fieldsDbg
  | .fus => Reg.fieldsFus
  | .aon => Reg.fieldsAon
  | .die _ => Reg.fieldsDie
  | .bm _ => Reg.fieldsBm
  | .mbx _ => Reg.fieldsMbx
  | .chan _ => Reg.fieldsChan
  | .tile _ => Reg.fieldsTile

/-- The field lies in the register at an offset, itself or as one of a run. -/
def covers (off : Nat) (f : Field) : Bool := decide (f.off ≤ off ∧ off < f.off + 4 * f.count ∧ (off - f.off) % 4 = 0)

/-- The fields of the register at an offset of a page. -/
def fieldsAt (p : Page) (off : Nat) : List Field :=
  (if off < 0x100 then Reg.fieldsAny else blockFields p).filter (covers off)

/-- One field of a register after a write of `v` (R10). -/
def storeField (v : W32) (old : W32) (f : Field) : W32 :=
  match f.acc with
  | .rw | .rwl => putBits old f.lo f.width (bitsOf v.toNat f.lo f.width)
  | .w1c => putBits old f.lo f.width (bitsOf (old &&& ~~~v).toNat f.lo f.width)
  | .w1s => putBits old f.lo f.width (bitsOf (old ||| v).toNat f.lo f.width)
  | .ro | .wo => old

/-- Store a word over a register, field by field; reserved bits stay 0 (R13). -/
def storeWord (p : Page) (off : Nat) (v : W32) (s : State) : State :=
  setRegWord (regAddr p off) ((fieldsAt p off).foldl (storeField v) (stored p off s)) s

/-- A register that LOCK protects. -/
def isRwl (p : Page) (off : Nat) : Bool := (fieldsAt p off).any fun f => decide (f.acc = .rwl)

/-- An offset of a page that holds no register: the identity registers exist in WSC-N only (R193), the Remote Admin Table
in RGA only (R350). -/
def reservedOff (p : Page) (off : Nat) : Bool :=
  (fieldsAt p off).isEmpty || match p with
    | .wsc h => decide (h = .south ∧ 0x200 ≤ off ∧ off < 0x268)
    | .rg i => decide (i.val = 1 ∧ 0x400 ≤ off)
    | _ => false

/-- A write with no effect of its own beyond what it stores. -/
def plainWrite (w : Wr) (p : Page) (off : Nat) (v : W32) (s : State) : State :=
  if isRwl p off then guardedRwl w p off v (storeWord p off v) s else guarded w p off (storeWord p off v) s

/-- Store, then act. -/
def storeThen (w : Wr) (p : Page) (off : Nat) (v : W32) (act : State → State) (s : State) : State :=
  guarded w p off (fun s => act (storeWord p off v s)) s

/-! ## Writes that act, page by page -/

/-- The state after a command's own row. -/
def byRow (row : State → Host.Outcome State Fault Refusal) (s : State) : State := nextOf s (row s)

/-- EVT_EN: a mailbox keeps one for each end (R331); an event already latched interrupts when its bit is enabled (R26). -/
def writeEvtEn (mid : W16) (p : Page) (v : W32) (s : State) : State :=
  match p with
  | .mbx m => match mbxEnd s m.val mid with
    | some e => setMail m.val e { mailOf m.val e s with en := v } s
    | none => s
  | _ =>
    let s' := fset p Reg.EVT_EN_EN v.toNat s
    if evtStat p s = 0 ∧ evtStat p s' ≠ 0 then pageInterrupt p s' else s'

/-- RELEASE through the register: whether the unit's own test fails is a free value. -/
def writeRelease (w : Wr) (p : Page) (s : State) : State :=
  let fails : List (Page × Fin 6) := if Config.freeNat s.free % 2 = 1 then [(p, 0)] else []
  byRow (execFenceRelease w p fails) (draw s)

/-- The common registers (R26). -/
def writeCommon (w : Wr) (p : Page) (off : Nat) (v : W32) (s : State) : State :=
  if off = 0x010 then byRow (execEnWrite w p (decide (bitsOf v.toNat 0 1 = 1))) s
  else if off = 0x01C then guarded w p off (writeEvtEn w.mid p v) s
  else if off = 0x020 then byRow (execEvtClrWrite w p v 0) s
  else if off = 0x028 then
    if bitsOf v.toNat 8 1 = 1 then byRow (execFenceReq w p) s
    else if bitsOf v.toNat 9 1 = 1 then writeRelease w p s
    else guarded w p off (fun s => s) s
  else if off = 0x030 ∧ bitsOf v.toNat 0 1 = 1 then byRow (execLockSet w p) s
  else guarded w p off (fun s => s) s

/-- The command of a path as its first seven stored words and the last one written. -/
def cmdOf (p : Page) (first : Nat) (last : W32) (s : State) : Cmd4 :=
  let word := fun i => if i = 7 then last.toNat else (stored p (first + 4 * i) s).toNat
  let pair := fun i => BitVec.ofNat 64 (word (2 * i) + 2 ^ 32 * word (2 * i + 1))
  ⟨pair 0, pair 1, pair 2, pair 3⟩

/-- A tile page (R61, R116, R127). -/
def writeTile (w : Wr) (t : Fin 1056) (off : Nat) (v : W32) (s : State) : State :=
  if off = 0x134 then byRow (execBankWriteCommand w t v) s
  else if off = 0x314 ∧ bitsOf v.toNat 31 1 = 1 then
    guarded w (.tile t) off (startRepair t.val (decide (bitsOf v.toNat 0 1 = 1)) (decide (bitsOf v.toNat 1 1 = 1))) s
  else if off = 0x354 then byRow (execSubstCmd w t v) s
  else plainWrite w (.tile t) off v s

/-- ID_CMD with GO (R182). -/
def writeId (w : Wr) (v : W32) (s : State) : State :=
  let f : BitVec 6 := BitVec.ofNat 6 v.toNat
  if bitsOf v.toNat 6 2 = 0 then byRow (execIdRead w f) s
  else if bitsOf v.toNat 6 2 = 1 then byRow (execIdProgramField w f) s
  else byRow (execIdCmdInvalidOp w v) s

/-- A weight-store controller's page (R182, R189, R191). -/
def writeWsc (w : Wr) (h : Half) (off : Nat) (v : W32) (s : State) : State :=
  let p : Page := .wsc h
  if off = 0x104 then storeThen w p off v wsKick s
  else if off = 0x140 then (if bitsOf v.toNat 31 1 = 1 then byRow (execLoopMaxClr w h) s else guarded w p off (fun s => s) s)
  else if off = 0x19C then wsPost w h (cmdOf p 0x180 v s) s
  else if off = 0x200 ∧ bitsOf v.toNat 31 1 = 1 then writeId w v s
  else plainWrite w p off v s

/-- A selector that each requester has of its own (R219, R253). -/
def writeSelect (w : Wr) (p : Page) (off width : Nat) (v : W32) (s : State) : State :=
  guarded w p off (fun s =>
    { s with selects := sset 0 (regAddr p off * 65536 + w.mid.toNat) (BitVec.ofNat 32 (v.toNat % 2 ^ width)) s.selects }) s

/-- A control complex's page (R219, R253, R380). -/
def writeCc (w : Wr) (h : Half) (off : Nat) (v : W32) (s : State) : State :=
  if off = 0x800 then writeSelect w (.cc h) off 4 v s
  else if off = 0x840 then writeSelect w (.cc h) off 11 v s
  else if off = 0x888 ∧ bitsOf v.toNat 0 1 = 1 then byRow (execYield w h) s
  else plainWrite w (.cc h) off v s

/-- A migration engine's page (R263, R288, R298). -/
def writeMig (w : Wr) (h : Half) (off : Nat) (v : W32) (s : State) : State :=
  let p : Page := .mig h
  if off = 0x19C then postRange w.mid w.token (.mig h) (cmdOf p 0x180 v s) s
  else if off = 0x29C then postZip w.mid w.token (.mig h) (cmdOf p 0x280 v s) s
  else if off = 0x228 then
    guarded w p off (modZip fun z =>
      { z with sel := sset 0 (Half.num h * 65536 + w.mid.toNat) (BitVec.ofNat 32 (v.toNat % 2 ^ 12)) z.sel }) s
  else plainWrite w p off v s

/-- CHAN_CTRL (R315, R316): a write of REPLAY or SQ_DISCARD to a channel that is not held is discarded whole. -/
def writeCtrl (c : Nat) (v : W32) (s : State) : State :=
  if bitsOf v.toNat 1 2 ≠ 0 ∧ isHeld c s = false then cfgReject c s
  else
    let s := if bitsOf v.toNat 2 1 = 1 then sqDiscard c s else s
    let s := if bitsOf v.toNat 1 1 = 1 then armReplay c s else s
    setHold c (decide (bitsOf v.toNat 0 1 = 1)) s

/-- RESV_CMD with GO (R318). -/
def writeResv (w : Wr) (c : Fin 512) (v : W32) (s : State) : State :=
  let grade : BitVec 3 := BitVec.ofNat 3 (bitsOf v.toNat 2 3)
  let handle : BitVec 10 := BitVec.ofNat 10 (bitsOf v.toNat 16 10)
  let cls := bitsOf v.toNat 0 2
  if cls = 0 then byRow (execResvSustained w c grade handle) s
  else if cls = 1 then byRow (execResvFrame w c grade handle) s
  else if cls = 2 then byRow (execResvRelease w c) s
  else byRow (execResvInvalidClass w c grade handle) s

/-- A channel's page (R301, R302, R307, R312 to R318, R330). -/
def writeChan (w : Wr) (c : Fin 512) (off : Nat) (v : W32) (s : State) : State :=
  let p : Page := .chan c
  if off = 0x100 then byRow (execDoorbell w.mid c v) s
  else if off = 0x104 then
    guarded w p off (fun s => if blk p s = .off then storeWord p off v s else cfgReject c.val s) s
  else if off = 0x108 then byRow (execChanAssign w c v) s
  else if 0x110 ≤ off ∧ off < 0x120 then
    guarded w p off (fun s => if blk p s = .off ∨ isHeld c.val s = true then storeWord p off v s else cfgReject c.val s) s
  else if off = 0x12C then byRow (execCqHeadWrite w c v) s
  else if off = 0x134 then guarded w p off (writeCtrl c.val v) s
  else if off = 0x13C then byRow (execCancel w c v) s
  else if off = 0x15C ∧ bitsOf v.toNat 31 1 = 1 then writeResv w c v s
  else if off = 0x21C then postRange w.mid w.token (.chan c) (cmdOf p 0x200 v s) s
  else if off = 0x29C then postZip w.mid w.token (.chan c) (cmdOf p 0x280 v s) s
  else plainWrite w p off v s

/-- A mailbox page, as the writer's end has it (R325, R331). -/
def writeMbx (w : Wr) (m : Fin 64) (off : Nat) (v : W32) (s : State) : State :=
  if off = 0x104 ∧ bitsOf v.toNat 0 1 = 1 then byRow (execMbxSend w.mid m) s
  else if off = 0x108 ∧ bitsOf v.toNat 0 1 = 1 then byRow (execMbxRecvPop w.mid m) s
  else guarded w (.mbx m) off (fun s =>
    match mbxEnd s m.val w.mid with
    | some e =>
      let x := mailOf m.val e s
      if 0x140 ≤ off ∧ off < 0x180 then setMail m.val e { x with tx := sset 0 ((off - 0x140) / 4) v x.tx } s else s
    | none => s) s

/-- RING_CTRL acts once, through either page (R344, R345, R349, R350). -/
def ringCtrl (v : W32) (s : State) : State :=
  let node := bitsOf v.toNat 8 5
  let s := fset (.rg 0) Reg.RG_RING_CTRL_WAKE_NODE node (setLeave (decide (bitsOf v.toNat 0 1 = 1)) s)
  let s := if bitsOf v.toNat 1 1 = 1 then reenum s else s
  if bitsOf v.toNat 13 1 = 1 then wakeNode node s else s

/-- A ring port's page (R347, R350). -/
def writeRg (w : Wr) (i : Fin 2) (off : Nat) (v : W32) (s : State) : State :=
  if off = 0x10C then guarded w (.rg i) off (ringCtrl v) s
  else if 0x400 ≤ off then byRow (execLockedTableEntryWrite w (.admin (Fin.ofNat 8 ((off - 0x400) / 4)) v)) s
  else plainWrite w (.rg i) off v s

/-- One half of an entry of the Mailbox Binding Table with the other half as it stands (R36, R324). -/
def writeMbtHalf (w : Wr) (off : Nat) (v : W32) (s : State) : State :=
  let m := (off - 0x400) / 8
  let lo := if off % 8 = 0 then v else stored .sec (0x400 + 8 * m) s
  let hi := if off % 8 = 0 then stored .sec (0x404 + 8 * m) s else v
  guardedRwl w .sec off v (writeEntry (.mbt (Fin.ofNat 64 m) (BitVec.ofNat 64 (lo.toNat + 2 ^ 32 * hi.toNat)))) s

/-- RECOV_CMD through the register: what the host's memory holds, and whether reading and programming succeed, are free
values (R414). -/
def writeRecov (w : Wr) (s : State) : State :=
  let r := freeBytes (fget .sec Reg.SEC_RECOV_LEN_BYTES s) s
  let s := r.2
  byRow (execRecovCmd w r.1 (decide (Config.freeNat s.free % 2 = 1)) (decide (Config.freeNat (s.free + 1) % 2 = 1)))
    (draw (draw s))

/-- The SEC page (R44, R324, R420). -/
def writeSec (w : Wr) (off : Nat) (v : W32) (s : State) : State :=
  if 0x400 ≤ off ∧ off < 0x600 then writeMbtHalf w off v s
  else if off = 0x61C ∧ bitsOf v.toNat 31 1 = 1 then writeRecov w s
  else plainWrite w .sec off v s

/-- The PMU page (R387, R394, R404). -/
def writePmu (w : Wr) (off : Nat) (v : W32) (s : State) : State :=
  if off = 0x120 ∧ bitsOf v.toNat 31 1 = 1 then
    if bitsOf v.toNat 0 4 = 1 then byRow (execPwrCmdOff w) s else byRow (execPwrCmdInvalid w (BitVec.ofNat 4 v.toNat)) s
  else if off = 0x130 then byRow (execPfVoteWrite w (BitVec.ofNat 3 v.toNat) (BitVec.ofNat 3 (bitsOf v.toNat 3 3))) s
  else if off = 0x704 ∧ bitsOf v.toNat 31 1 = 1 then byRow (execSagMinClr w) s
  else plainWrite w .pmu off v s

/-- The block-specific registers. -/
def writeBlock (w : Wr) (p : Page) (off : Nat) (v : W32) (s : State) : State :=
  match p with
  | .tile t => writeTile w t off v s
  | .wsc h => writeWsc w h off v s
  | .cc h => writeCc w h off v s
  | .mig h => writeMig w h off v s
  | .chan c => writeChan w c off v s
  | .mbx m => writeMbx w m off v s
  | .rg i => writeRg w i off v s
  | .sec => writeSec w off v s
  | .pmu => writePmu w off v s
  | .die d => if off = 0x104 then byRow (execPlaneFenceReq w d v) s else plainWrite w p off v s
  | .thm => if off = 0x108 ∧ bitsOf v.toNat 31 1 = 1 then byRow (execThmMaxClr w) s else plainWrite w p off v s
  | .dbg =>
    if off = 0x104 then byRow (execDbgReset w v) s
    else if off = 0x108 then byRow (execDbgWake w v) s
    else plainWrite w p off v s
  | .cap | .d2d _ | .rf _ | .hp _ | .eth _ | .fus | .aon | .bm _ => plainWrite w p off v s

/-- A 32-bit write at an aligned BAR0 offset: reserved offsets of the map (R39), then of the page (R13), then the page's
registers. -/
def writeReg (w : Wr) (a : Nat) (v : W32) (s : State) : State :=
  let off := a % 0x1000
  match pageAt (a / 0x1000) with
  | none => if served s .sec then denyRecord w.mid 0 a s else s
  | some p =>
    if reservedOff p off && served s p && sees s w.mid p && present s p then s
    else if off < 0x100 then writeCommon w p off v s
    else writeBlock w p off v s

/-- A write of a size or alignment that R29 discards: BAD_ACCESS on its page, where the writer reaches one. -/
def badAccess (w : Wr) (a : Nat) (s : State) : State :=
  match pageAt (a / 0x1000) with
  | none => if served s .sec then denyRecord w.mid 0 a s else s
  | some p =>
    if served s p = false then s
    else if sees s w.mid p = false then denyRecord w.mid 0 a s
    else if present s p = false then denyRecord w.mid 1 a s
    else raise p 5 s

/-- REGISTER_WRITE (R29, R30): 4 bytes, or 8 bytes as two words in ascending order. -/
def execRegisterWrite (w : Wr) (off : BitVec 26) (size : Nat) (data : W64) (s : State) : Host.Outcome State Fault Refusal :=
  let a := off.toNat
  if size = 4 ∧ a % 4 = 0 then .next (writeReg w a (BitVec.ofNat 32 data.toNat) s)
  else if size = 8 ∧ a % 8 = 0 then
    .next (writeReg w (a + 4) (BitVec.ofNat 32 (data.toNat / 2 ^ 32)) (writeReg w a (BitVec.ofNat 32 data.toNat) s))
  else .next (badAccess w a s)

/-! ## The ring window (R333, R340, R347) -/

/-- A packet that this node makes: SRC, HOPS, ESEQ and the direction are set as it is sent. -/
def ownPkt (ty : Nat) (dst vc : Nat) (mid : W16) (tag addr len : Nat) (payload : List W32) : RingPkt :=
  { ty := BitVec.ofNat 4 ty, poison := false, dir := false, dst := BitVec.ofNat 5 dst, src := 0, toHost := false, bar0 := false,
    port := 0, len := BitVec.ofNat 8 len, mid := mid, tag := BitVec.ofNat 14 tag, addr := BitVec.ofNat 64 addr, cplStatus := 0,
    bytes := 0, hops := 31, eseq := 0, vc := BitVec.ofNat 2 vc, rsvd := false, payload := payload }

/-- A write or read toward another node's BAR0. A read takes a tag and waits for its completion. -/
def windowSend (n o : Nat) (mid : W16) (off : Nat) (write : Bool) (data : W32) (s : State) : State :=
  if write then ringSend { ownPkt 0 n 0 mid 0 o 1 [data] with bar0 := true } s
  else
    let tag := s.ring.tags % 16384
    let s := modRing (fun r => { r with tags := r.tags + 1, reads := r.reads ++ [(tag, mid, off)] }) s
    ringSend { ownPkt 1 n 1 mid tag o 1 [] with bar0 := true } s

/-- BAR4_ACCESS (R333, R340, R347): the slot of the own node reaches the own BAR0; before a join reads return 0. -/
def execBar4Access (mid : W16) (off : BitVec 31) (write : Bool) (data : W32) (s : State) : Host.Outcome State Fault Refusal :=
  let a := off.toNat
  let n := a / 2 ^ 26
  let o := a % 2 ^ 26
  if bar2Reaches mid s = false then .next s
  else if ringState s ≠ 2 then .next (if write then s else emit (.readData mid a 0) s)
  else if n = nodeId s then
    if write then .next (if o % 4 = 0 then writeReg ⟨mid, 0⟩ o data s else badAccess ⟨mid, 0⟩ o s)
    else
      let r := readReg mid o s
      .next (emit (.readData mid a r.1) r.2)
  else if inMap n s = false then .next (if write then ringDropped s else hostAbort mid a s)
  else .next (windowSend n o mid a write data s)

/-! ## Packets that arrive (R339 to R341, R347, R348) -/

/-- The bytes of a payload. -/
def payloadBytes (p : RingPkt) : List Byte := p.payload.flatMap fun w => leBytes 4 w.toNat

/-- The function at this device's host port that a packet toward a host names (R348). -/
def attached (p : RingPkt) (s : State) : W16 := hostMid s (p.port.toNat % 2) (midFunc p.mid)

/-- The 64-byte granules of a write. -/
def allGranules (n : Nat) : List Nat := List.range ((n + 63) / 64)

/-- A write of words at ascending BAR0 offsets. -/
def writeWords (w : Wr) : Nat → List W32 → State → State
  | _, [], s => s
  | a, v :: t, s => writeWords w (a + 4) t (if a % 4 = 0 then writeReg w (a % 2 ^ 26) v s else badAccess w (a % 2 ^ 26) s)

/-- A read of words at ascending BAR0 offsets. -/
def readWords (mid : W16) : Nat → Nat → State → List W32 × State
  | _, 0, s => ([], s)
  | a, n + 1, s =>
    let r := readReg mid (a % 2 ^ 26) s
    let t := readWords mid (a + 4) n r.2
    (r.1 :: t.1, t.2)

/-- A packet's write into the range, under the rules of a host access (R261, R276, R369). -/
def ringWriteRange (p : RingPkt) (s : State) : State :=
  let a := p.addr.toNat
  let b := payloadBytes p
  if hostMay p.mid true a b.length s = false then rangeDenied p.mid a s
  else if (spanPages a b.length).any (fun q => homeFenced (homeOf q s) s) then raise .sec 9 (denyRecord p.mid 2 a s)
  else rangeWrite a b p.poison s

/-- A completion goes back to the requester's node; one toward an absent node is not sent (R340). -/
def answer (p : RingPkt) (status : Nat) (poison : Bool) (words : List W32) (s : State) : State :=
  if inMap p.src.toNat s then
    ringSend { ownPkt (if words = [] then 2 else 3) p.src.toNat 2 p.mid p.tag.toNat 0 words.length words with
                 cplStatus := BitVec.ofNat 3 status, poison := poison, bytes := BitVec.ofNat 13 (4 * p.len.toNat) } s
  else s

/-- A packet's read of the range: Completer Abort on a denial (R261). -/
def ringReadRange (p : RingPkt) (s : State) : State :=
  let a := p.addr.toNat
  let n := 4 * p.len.toNat
  if hostMay p.mid false a n s = false then answer p 4 false [] (rangeDenied p.mid a s)
  else answer p 0 (rangePoison a n s) (wordsOf (sentBytes a n s)) s

/-- A completion ends the read that waits for its tag. -/
def takeCpl (p : RingPkt) (s : State) : State :=
  match (s.ring.reads.filter fun r => decide (r.1 = p.tag.toNat))[0]? with
  | none => s
  | some r =>
    let s := modRing (fun x => { x with reads := x.reads.filter fun y => decide (y.1 ≠ r.1) }) s
    match p.payload with
    | v :: _ => if p.cplStatus = 0 then emit (.readData r.2.1 r.2.2 v) s else hostAbort r.2.1 r.2.2 s
    | [] => hostAbort r.2.1 r.2.2 s

/-- A data packet for this node, in its order: memory writes, reads and completions. -/
def accept (p : RingPkt) (s : State) : State :=
  let a := p.addr.toNat
  if p.ty = 0 then
    if p.toHost then
      let b := payloadBytes p
      emit (.hostWrite (attached p s) a b (if p.poison then allGranules b.length else [])) s
    else if p.bar0 then writeWords ⟨p.mid, 0⟩ a p.payload s
    else ringWriteRange p s
  else if p.ty = 1 then
    if p.toHost then emit (.hostRead (attached p s) a (4 * p.len.toNat)) s
    else if p.bar0 then
      let r := readWords p.mid a p.len.toNat s
      answer p 0 false r.1 r.2
    else ringReadRange p s
  else takeCpl p s

/-- The control packets that name a destination: JOIN, JOIN_ACK, E2E_ACK and WAKE_RELAY. Their contents, and those of the
others, are the operands of their own rows. -/
def addressed (p : RingPkt) : Bool := decide (p.ty = 6 ∨ p.ty = 7 ∨ p.ty = 9 ∨ p.ty = 10)

/-- A whole packet at a port: dropped, forwarded or delivered. -/
def receive (i : Nat) (p : RingPkt) (s : State) : State :=
  let mine := decide (ringState s = 2 ∧ p.dst.toNat = nodeId s)
  if s.phase = .off ∨ inserted s = false then s
  else if pktOk p s = false then foreign i s
  else if 4 ≤ p.ty.toNat then (if addressed p && !mine then forward i p s else s)
  else if mine then
    match inOrder i p s with
    | (s, true) => accept p s
    | (s, false) => s
  else forward i p s

/-- RING_PACKET (R339 to R341). -/
def execRingPacket (port : Fin 2) (p : RingPkt) (s : State) : Host.Outcome State Fault Refusal := .next (receive port.val p s)

/-- RING_FLIT (R338): the packets that end in the flit are received once the flit is taken. -/
def execRingFlit (port : Fin 2) (f : Flit) (pkts : List RingPkt) (s : State) : Host.Outcome State Fault Refusal :=
  if ringUp port.val s = false ∨ s.phase = .off then .next s
  else match takeFlit port.val f s with
    | (s, true) => .next (pkts.foldl (fun s p => receive port.val p s) s)
    | (s, false) => .next s

end Sys2Proof.Machine
end

