-- ==== Sys2Proof/Machine/Dispatch.lean ====
section
/-! DEFINITION. The meaning of each command: one arm per row of the opcode table, in its order, each one call. -/

namespace Sys2Proof.Machine

/-- The effect of a command on everything but the queue. -/
def exec (i : Instr) (s : State) : Host.Outcome State Fault Refusal :=
  match i with
  | .registerWrite w off size data => Sys2Proof.Machine.execRegisterWrite w off size data s
  | .bar0ReservedWrite w off data => Sys2Proof.Machine.execBar0ReservedWrite w off data s
  | .absentUnitPageWrite w off data => Sys2Proof.Machine.execAbsentUnitPageWrite w off data s
  | .counterLatchRead mid off => Sys2Proof.Machine.execCounterLatchRead mid off s
  | .enWrite w page en => Sys2Proof.Machine.execEnWrite w page en s
  | .startSequenceComplete page => Sys2Proof.Machine.execStartSequenceComplete page s
  | .stopSequenceComplete page => Sys2Proof.Machine.execStopSequenceComplete page s
  | .evtClrWrite w page clear setNow => Sys2Proof.Machine.execEvtClrWrite w page clear setNow s
  | .fenceReq w page => Sys2Proof.Machine.execFenceReq w page s
  | .fenceRelease w page bistFail => Sys2Proof.Machine.execFenceRelease w page bistFail s
  | .lockSet w page => Sys2Proof.Machine.execLockSet w page s
  | .lockedTableEntryWrite w entry => Sys2Proof.Machine.execLockedTableEntryWrite w entry s
  | .tableError entry => Sys2Proof.Machine.execTableError entry s
  | .bar2Read mid off len err => Sys2Proof.Machine.execBar2Read mid off len err s
  | .bar2Write mid off bytes poison => Sys2Proof.Machine.execBar2Write mid off bytes poison s
  | .dbgReset w data => Sys2Proof.Machine.execDbgReset w data s
  | .dbgWake w data => Sys2Proof.Machine.execDbgWake w data s
  | .debugSessionOpen => Sys2Proof.Machine.execDebugSessionOpen s
  | .bankWriteCommand w tile data => Sys2Proof.Machine.execBankWriteCommand w tile data s
  | .refillRowFrame f => Sys2Proof.Machine.execRefillRowFrame f s
  | .scaleFrame f => Sys2Proof.Machine.execScaleFrame f s
  | .passStart tile sub => Sys2Proof.Machine.execPassStart tile sub s
  | .passEnd tile sub errs => Sys2Proof.Machine.execPassEnd tile sub errs s
  | .refreshSlot tile slot rowArriving => Sys2Proof.Machine.execRefreshSlot tile slot rowArriving s
  | .refreshDeferLimit tile slot => Sys2Proof.Machine.execRefreshDeferLimit tile slot s
  | .refreshLate tile slot => Sys2Proof.Machine.execRefreshLate tile slot s
  | .calibrationDue tile slot => Sys2Proof.Machine.execCalibrationDue tile slot s
  | .calDueLate tile slot => Sys2Proof.Machine.execCalDueLate tile slot s
  | .calibrationStart tile slot => Sys2Proof.Machine.execCalibrationStart tile slot s
  | .calibrationEnd tile slot r => Sys2Proof.Machine.execCalibrationEnd tile slot r s
  | .repairRewrite w tile bank => Sys2Proof.Machine.execRepairRewrite w tile bank s
  | .repairTestClear w tile bank => Sys2Proof.Machine.execRepairTestClear w tile bank s
  | .repairEnd tile clean => Sys2Proof.Machine.execRepairEnd tile clean s
  | .repairHoldExpire tile bank => Sys2Proof.Machine.execRepairHoldExpire tile bank s
  | .colsumSweepStart tile bank => Sys2Proof.Machine.execColsumSweepStart tile bank s
  | .colsumSweepEnd tile bank errs => Sys2Proof.Machine.execColsumSweepEnd tile bank errs s
  | .substCmd w tile data => Sys2Proof.Machine.execSubstCmd w tile data s
  | .benchSubstitutionStart failed => Sys2Proof.Machine.execBenchSubstitutionStart failed s
  | .dequeTransfer failed ok => Sys2Proof.Machine.execDequeTransfer failed ok s
  | .pairHeartbeat tile => Sys2Proof.Machine.execPairHeartbeat tile s
  | .pairHeartbeatLost mirror => Sys2Proof.Machine.execPairHeartbeatLost mirror s
  | .take mirror => Sys2Proof.Machine.execTake mirror s
  | .mirrorReform survivor fresh => Sys2Proof.Machine.execMirrorReform survivor fresh s
  | .taskPost tile d shadow poster => Sys2Proof.Machine.execTaskPost tile d shadow poster s
  | .signal tile sig => Sys2Proof.Machine.execSignal tile sig s
  | .signalReturn sig => Sys2Proof.Machine.execSignalReturn sig s
  | .taskSelect tile unit => Sys2Proof.Machine.execTaskSelect tile unit s
  | .cimVectorEnd tile => Sys2Proof.Machine.execCimVectorEnd tile s
  | .adapterValues tile tag vals poison => Sys2Proof.Machine.execAdapterValues tile tag vals poison s
  | .taskEnd tile unit r => Sys2Proof.Machine.execTaskEnd tile unit r s
  | .timeLimit tile => Sys2Proof.Machine.execTimeLimit tile s
  | .taskEndMessage cc msg => Sys2Proof.Machine.execTaskEndMessage cc msg s
  | .purge tile channel seq => Sys2Proof.Machine.execPurge tile channel seq s
  | .creditReturn tile poster => Sys2Proof.Machine.execCreditReturn tile poster s
  | .stealProbeSend thief => Sys2Proof.Machine.execStealProbeSend thief s
  | .stealProbe victim thief => Sys2Proof.Machine.execStealProbe victim thief s
  | .stealGrant victim thief d age => Sys2Proof.Machine.execStealGrant victim thief d age s
  | .stealDeny thief => Sys2Proof.Machine.execStealDeny thief s
  | .stealBackoffExpire thief => Sys2Proof.Machine.execStealBackoffExpire thief s
  | .wsReadRefill w half cmd => Sys2Proof.Machine.execWsReadRefill w half cmd s
  | .wsReadCopy w half cmd => Sys2Proof.Machine.execWsReadCopy w half cmd s
  | .wsProgram w half cmd => Sys2Proof.Machine.execWsProgram w half cmd s
  | .wsErase w half cmd => Sys2Proof.Machine.execWsErase w half cmd s
  | .wsStatusPop mid half => Sys2Proof.Machine.execWsStatusPop mid half s
  | .codeWordReadEnd half id r => Sys2Proof.Machine.execCodeWordReadEnd half id r s
  | .senseTimeout half id => Sys2Proof.Machine.execSenseTimeout half id s
  | .weakHeadRead mid half => Sys2Proof.Machine.execWeakHeadRead mid half s
  | .programCwDone half id loops => Sys2Proof.Machine.execProgramCwDone half id loops s
  | .programLoopLimit half id => Sys2Proof.Machine.execProgramLoopLimit half id s
  | .intentRecordProgrammed die => Sys2Proof.Machine.execIntentRecordProgrammed die s
  | .eraseSuspendHoldExpire half id => Sys2Proof.Machine.execEraseSuspendHoldExpire half id s
  | .eraseResume half id => Sys2Proof.Machine.execEraseResume half id s
  | .eraseBreak half id => Sys2Proof.Machine.execEraseBreak half id s
  | .eraseVerify half id pulses => Sys2Proof.Machine.execEraseVerify half id pulses s
  | .eraseProgressLimit half id => Sys2Proof.Machine.execEraseProgressLimit half id s
  | .intentScan half => Sys2Proof.Machine.execIntentScan half s
  | .planeFenceReq w die data => Sys2Proof.Machine.execPlaneFenceReq w die data s
  | .loopMaxClr w half => Sys2Proof.Machine.execLoopMaxClr w half s
  | .idRead w field => Sys2Proof.Machine.execIdRead w field s
  | .idProgramField w field => Sys2Proof.Machine.execIdProgramField w field s
  | .idCmdInvalidOp w data => Sys2Proof.Machine.execIdCmdInvalidOp w data s
  | .firmwareFetchMiss cc cw r dup => Sys2Proof.Machine.execFirmwareFetchMiss cc cw r dup s
  | .rallyJoin ctx chan seq => Sys2Proof.Machine.execRallyJoin ctx chan seq s
  | .rallyGatherExpire ctx => Sys2Proof.Machine.execRallyGatherExpire ctx s
  | .rallyFlip ctx computeNs refillNs => Sys2Proof.Machine.execRallyFlip ctx computeNs refillNs s
  | .restoreHoldExpire ctx => Sys2Proof.Machine.execRestoreHoldExpire ctx s
  | .secondSourceRead ctx cwa frames => Sys2Proof.Machine.execSecondSourceRead ctx cwa frames s
  | .sequencerTakeover fenced => Sys2Proof.Machine.execSequencerTakeover fenced s
  | .heldChunkSwitch ctx chunk => Sys2Proof.Machine.execHeldChunkSwitch ctx chunk s
  | .fetch env a => Sys2Proof.Machine.execFetch env a s
  | .activate env handle sustained place => Sys2Proof.Machine.execActivate env handle sustained place s
  | .replace env handle mode holdUs pinMs => Sys2Proof.Machine.execReplace env handle mode holdUs pinMs s
  | .relocate env handle => Sys2Proof.Machine.execRelocate env handle s
  | .retire env handle which => Sys2Proof.Machine.execRetire env handle which s
  | .sourceRelease env handle which => Sys2Proof.Machine.execSourceRelease env handle which s
  | .adapterBind env a => Sys2Proof.Machine.execAdapterBind env a s
  | .adapterUnbind env channel handle slot => Sys2Proof.Machine.execAdapterUnbind env channel handle slot s
  | .manifestChunkLanded handle chunk bytes poison => Sys2Proof.Machine.execManifestChunkLanded handle chunk bytes poison s
  | .fetchSourceTimeout handle => Sys2Proof.Machine.execFetchSourceTimeout handle s
  | .manifestChunkVerified handle epoch chunk ok => Sys2Proof.Machine.execManifestChunkVerified handle epoch chunk ok s
  | .shadowSwitch handle => Sys2Proof.Machine.execShadowSwitch handle s
  | .pinWindowExpire handle => Sys2Proof.Machine.execPinWindowExpire handle s
  | .huddleLayerRewrite handle => Sys2Proof.Machine.execHuddleLayerRewrite handle s
  | .huddleSwitch handle => Sys2Proof.Machine.execHuddleSwitch handle s
  | .versionRetired handle => Sys2Proof.Machine.execVersionRetired handle s
  | .imgRevoked slot => Sys2Proof.Machine.execImgRevoked slot s
  | .blockRelocate old new => Sys2Proof.Machine.execBlockRelocate old new s
  | .imgDamaged handle epoch => Sys2Proof.Machine.execImgDamaged handle epoch s
  | .alloc mid token path cmd => Sys2Proof.Machine.execAlloc mid token path cmd s
  | .free mid token path cmd => Sys2Proof.Machine.execFree mid token path cmd s
  | .move mid token path cmd => Sys2Proof.Machine.execMove mid token path cmd s
  | .give mid token path cmd => Sys2Proof.Machine.execGive mid token path cmd s
  | .query mid token path cmd => Sys2Proof.Machine.execQuery mid token path cmd s
  | .t2Register mid token path cmd => Sys2Proof.Machine.execT2Register mid token path cmd s
  | .t2Release mid token path cmd => Sys2Proof.Machine.execT2Release mid token path cmd s
  | .setTableFrames mid token path cmd => Sys2Proof.Machine.execSetTableFrames mid token path cmd s
  | .rangeStatusPop mid path => Sys2Proof.Machine.execRangeStatusPop mid path s
  | .moveCopyRoundEnd id => Sys2Proof.Machine.execMoveCopyRoundEnd id s
  | .moveCommit id => Sys2Proof.Machine.execMoveCommit id s
  | .moveDrainEnd id holdNs => Sys2Proof.Machine.execMoveDrainEnd id holdNs s
  | .translatorMiss client addr => Sys2Proof.Machine.execTranslatorMiss client addr s
  | .t2ReadError addr granules => Sys2Proof.Machine.execT2ReadError addr granules s
  | .compress mid token path cmd => Sys2Proof.Machine.execCompress mid token path cmd s
  | .expand mid token path cmd => Sys2Proof.Machine.execExpand mid token path cmd s
  | .loadTable mid token path cmd => Sys2Proof.Machine.execLoadTable mid token path cmd s
  | .loadTableCommit chan => Sys2Proof.Machine.execLoadTableCommit chan s
  | .zstatusPop mid path => Sys2Proof.Machine.execZstatusPop mid path s
  | .chanAssign w chan data => Sys2Proof.Machine.execChanAssign w chan data s
  | .doorbell mid chan value => Sys2Proof.Machine.execDoorbell mid chan value s
  | .descriptorRead chan line => Sys2Proof.Machine.execDescriptorRead chan line s
  | .inputCopyEnd chan seq => Sys2Proof.Machine.execInputCopyEnd chan seq s
  | .outputTransferEnd chan seq fail => Sys2Proof.Machine.execOutputTransferEnd chan seq fail s
  | .completionWrite chan => Sys2Proof.Machine.execCompletionWrite chan s
  | .cqHeadWrite w chan value => Sys2Proof.Machine.execCqHeadWrite w chan value s
  | .cancel w chan seq => Sys2Proof.Machine.execCancel w chan seq s
  | .holdWrite w chan hold => Sys2Proof.Machine.execHoldWrite w chan hold s
  | .held chan => Sys2Proof.Machine.execHeld chan s
  | .replay w chan => Sys2Proof.Machine.execReplay w chan s
  | .sqDiscard w chan => Sys2Proof.Machine.execSqDiscard w chan s
  | .functionLevelReset function => Sys2Proof.Machine.execFunctionLevelReset function s
  | .resvSustained w chan grade handle => Sys2Proof.Machine.execResvSustained w chan grade handle s
  | .resvFrame w chan grade handle => Sys2Proof.Machine.execResvFrame w chan grade handle s
  | .resvRelease w chan => Sys2Proof.Machine.execResvRelease w chan s
  | .resvInvalidClass w chan grade handle => Sys2Proof.Machine.execResvInvalidClass w chan grade handle s
  | .resvDone chan => Sys2Proof.Machine.execResvDone chan s
  | .resvPeriodStart chan => Sys2Proof.Machine.execResvPeriodStart chan s
  | .reservationRevocation tile => Sys2Proof.Machine.execReservationRevocation tile s
  | .coalesceTimerExpire chan => Sys2Proof.Machine.execCoalesceTimerExpire chan s
  | .mbxSend mid mbx => Sys2Proof.Machine.execMbxSend mid mbx s
  | .mbxRecvPop mid mbx => Sys2Proof.Machine.execMbxRecvPop mid mbx s
  | .mailboxInvalid env op => Sys2Proof.Machine.execMailboxInvalid env op s
  | .idProgram env field data => Sys2Proof.Machine.execIdProgram env field data s
  | .hostLinkUp port lanes rate => Sys2Proof.Machine.execHostLinkUp port lanes rate s
  | .hostLinkDown port => Sys2Proof.Machine.execHostLinkDown port s
  | .perst port => Sys2Proof.Machine.execPerst port s
  | .cplTimeout port => Sys2Proof.Machine.execCplTimeout port s
  | .bar4Access mid off write data => Sys2Proof.Machine.execBar4Access mid off write data s
  | .ringFlit port f pkts => Sys2Proof.Machine.execRingFlit port f pkts s
  | .ringReplay port count => Sys2Proof.Machine.execRingReplay port count s
  | .ringPacket port p => Sys2Proof.Machine.execRingPacket port p s
  | .e2eAck port src vc eseq => Sys2Proof.Machine.execE2eAck port src vc eseq s
  | .e2eDrop dst => Sys2Proof.Machine.execE2eDrop dst s
  | .ringBreak port => Sys2Proof.Machine.execRingBreak port s
  | .enumStart => Sys2Proof.Machine.execEnumStart s
  | .enum port nextId ringId => Sys2Proof.Machine.execEnum port nextId ringId s
  | .enumReturnTimeout => Sys2Proof.Machine.execEnumReturnTimeout s
  | .joinAck node serial => Sys2Proof.Machine.execJoinAck node serial s
  | .enumDone closed nodes => Sys2Proof.Machine.execEnumDone closed nodes s
  | .join serial => Sys2Proof.Machine.execJoin serial s
  | .beaconSend => Sys2Proof.Machine.execBeaconSend s
  | .beacon node serial seed head closed nodes => Sys2Proof.Machine.execBeacon node serial seed head closed nodes s
  | .leaveWrite w port leave => Sys2Proof.Machine.execLeaveWrite w port leave s
  | .reenum w port => Sys2Proof.Machine.execReenum w port s
  | .wakeGo w port node => Sys2Proof.Machine.execWakeGo w port node s
  | .wakeRelay port node => Sys2Proof.Machine.execWakeRelay port node s
  | .wakeOrderedSet port first second => Sys2Proof.Machine.execWakeOrderedSet port first second s
  | .bypassChange => Sys2Proof.Machine.execBypassChange s
  | .ringLinkTrained port lanes => Sys2Proof.Machine.execRingLinkTrained port lanes s
  | .rdmaReadResponse port qpn psn bytes => Sys2Proof.Machine.execRdmaReadResponse port qpn psn bytes s
  | .rdmaReadRestart port qpn => Sys2Proof.Machine.execRdmaReadRestart port qpn s
  | .congestionNotification port qpn => Sys2Proof.Machine.execCongestionNotification port qpn s
  | .rateIncrease port qpn => Sys2Proof.Machine.execRateIncrease port qpn s
  | .rxDrop port => Sys2Proof.Machine.execRxDrop port s
  | .ethLink port up => Sys2Proof.Machine.execEthLink port up s
  | .leaseRenewSend => Sys2Proof.Machine.execLeaseRenewSend s
  | .renew replica from_ token => Sys2Proof.Machine.execRenew replica from_ token s
  | .leaseExpire => Sys2Proof.Machine.execLeaseExpire s
  | .staleWriteGate cc => Sys2Proof.Machine.execStaleWriteGate cc s
  | .refereePoll cc => Sys2Proof.Machine.execRefereePoll cc s
  | .replicaExchange => Sys2Proof.Machine.execReplicaExchange s
  | .partition replica => Sys2Proof.Machine.execPartition replica s
  | .partitionAlone replica => Sys2Proof.Machine.execPartitionAlone replica s
  | .rejoin => Sys2Proof.Machine.execRejoin s
  | .acquire replica from_ => Sys2Proof.Machine.execAcquire replica from_ s
  | .takeoverGuardEnd cc => Sys2Proof.Machine.execTakeoverGuardEnd cc s
  | .tokenAnnounce cc => Sys2Proof.Machine.execTokenAnnounce cc s
  | .yield w cc => Sys2Proof.Machine.execYield w cc s
  | .ccHeartbeat cc => Sys2Proof.Machine.execCcHeartbeat cc s
  | .peerLost lost => Sys2Proof.Machine.execPeerLost lost s
  | .ccWatchdogExpire cc => Sys2Proof.Machine.execCcWatchdogExpire cc s
  | .halfFence half cause => Sys2Proof.Machine.execHalfFence half cause s
  | .halfLossCompletions half => Sys2Proof.Machine.execHalfLossCompletions half s
  | .halfReturn half failed => Sys2Proof.Machine.execHalfReturn half failed s
  | .migEngineFence half => Sys2Proof.Machine.execMigEngineFence half s
  | .groupFenced group training => Sys2Proof.Machine.execGroupFenced group training s
  | .bridgeRetrain group ok => Sys2Proof.Machine.execBridgeRetrain group ok s
  | .replicaRestart replica ok => Sys2Proof.Machine.execReplicaRestart replica ok s
  | .leaderless => Sys2Proof.Machine.execLeaderless s
  | .fwUpdate env ref length => Sys2Proof.Machine.execFwUpdate env ref length s
  | .fwUpdateStepEnd => Sys2Proof.Machine.execFwUpdateStepEnd s
  | .fwFailed cc => Sys2Proof.Machine.execFwFailed cc s
  | .sagWarn half depth => Sys2Proof.Machine.execSagWarn half depth s
  | .sagClear => Sys2Proof.Machine.execSagClear s
  | .sagReset half depth => Sys2Proof.Machine.execSagReset half depth s
  | .railLoss aon => Sys2Proof.Machine.execRailLoss aon s
  | .sagMinClr w => Sys2Proof.Machine.execSagMinClr w s
  | .pfVoteWrite w floorN floorS => Sys2Proof.Machine.execPfVoteWrite w floorN floorS s
  | .pwrCmdOff w => Sys2Proof.Machine.execPwrCmdOff w s
  | .pwrCmdInvalid w op => Sys2Proof.Machine.execPwrCmdInvalid w op s
  | .tileIdleEntry tile => Sys2Proof.Machine.execTileIdleEntry tile s
  | .tileDwellExpire tile => Sys2Proof.Machine.execTileDwellExpire tile s
  | .halfDwellExpire half => Sys2Proof.Machine.execHalfDwellExpire half s
  | .levelEntryComplete dom => Sys2Proof.Machine.execLevelEntryComplete dom s
  | .wake src => Sys2Proof.Machine.execWake src s
  | .levelExitComplete dom => Sys2Proof.Machine.execLevelExitComplete dom s
  | .wakeAtReached => Sys2Proof.Machine.execWakeAtReached s
  | .powerSample centiwatts => Sys2Proof.Machine.execPowerSample centiwatts s
  | .thermalSensorReading sensor r => Sys2Proof.Machine.execThermalSensorReading sensor r s
  | .boostChange tile => Sys2Proof.Machine.execBoostChange tile s
  | .thmMaxClr w => Sys2Proof.Machine.execThmMaxClr w s
  | .stateSave => Sys2Proof.Machine.execStateSave s
  | .stateRestore bad => Sys2Proof.Machine.execStateRestore bad s
  | .powerOnReset => Sys2Proof.Machine.execPowerOnReset s
  | .externalReset => Sys2Proof.Machine.execExternalReset s
  | .bothCcLostReset => Sys2Proof.Machine.execBothCcLostReset s
  | .thermalTrip sensor => Sys2Proof.Machine.execThermalTrip sensor s
  | .resetRelease => Sys2Proof.Machine.execResetRelease s
  | .startUpSequence world => Sys2Proof.Machine.execStartUpSequence world s
  | .boardMemoryTraining n ok mib mts => Sys2Proof.Machine.execBoardMemoryTraining n ok mib mts s
  | .firstLease => Sys2Proof.Machine.execFirstLease s
  | .firstLeaseFallback => Sys2Proof.Machine.execFirstLeaseFallback s
  | .versionRestore handle sigOk => Sys2Proof.Machine.execVersionRestore handle sigOk s
  | .ringSettleTimeout => Sys2Proof.Machine.execRingSettleTimeout s
  | .recovCmd w image readOk programOk => Sys2Proof.Machine.execRecovCmd w image readOk programOk s
  | .idDone => Sys2Proof.Machine.execIdDone s
  | .debugSessionClose => Sys2Proof.Machine.execDebugSessionClose s
  | .caParity n => Sys2Proof.Machine.execCaParity n s
  | .linkReturnToL0 port => Sys2Proof.Machine.execLinkReturnToL0 port s
  | .configurationRequest c => Sys2Proof.Machine.execConfigurationRequest c s

end Sys2Proof.Machine
end

