-- ==== Sys2Proof/Safety.lean ====
section
/-! DEFINITION. What a step may change, in the terms the statements use: the parts of the state, and the registers. -/

namespace Sys2Proof.Machine

/-- The parts of the state, one for each field. -/
inductive Fld where
  | pins | fuses | phase | timer | timerFrac | regs | latched | causes | staleMid | tiles | sram | sramPoison
  | mesh | rowBus | scaleBus | range | zip | packed | bindings | reqs | chans | serials | handles | versions
  | rallies | selects | deferred | ws | mail | hostFns | badSlots | parity | powerN | powerS | votes | samples
  | lowSamples | ring | qps | heldOut | replicaN | replicaS | complexN | complexS | update | boot | restores
  | releasedAt | sensors | save | record | free | out | pending
  deriving DecidableEq, Repr

/-- A part is the same in two states. -/
def Fld.same : Fld → State → State → Prop
  | .pins, s, t => t.pins = s.pins
  | .fuses, s, t => t.fuses = s.fuses
  | .phase, s, t => t.phase = s.phase
  | .timer, s, t => t.timer = s.timer
  | .timerFrac, s, t => t.timerFrac = s.timerFrac
  | .regs, s, t => t.regs = s.regs
  | .latched, s, t => t.latched = s.latched
  | .causes, s, t => t.causes = s.causes
  | .staleMid, s, t => t.staleMid = s.staleMid
  | .tiles, s, t => t.tiles = s.tiles
  | .sram, s, t => t.sram = s.sram
  | .sramPoison, s, t => t.sramPoison = s.sramPoison
  | .mesh, s, t => t.mesh = s.mesh
  | .rowBus, s, t => t.rowBus = s.rowBus
  | .scaleBus, s, t => t.scaleBus = s.scaleBus
  | .range, s, t => t.range = s.range
  | .zip, s, t => t.zip = s.zip
  | .packed, s, t => t.packed = s.packed
  | .bindings, s, t => t.bindings = s.bindings
  | .reqs, s, t => t.reqs = s.reqs
  | .chans, s, t => t.chans = s.chans
  | .serials, s, t => t.serials = s.serials
  | .handles, s, t => t.handles = s.handles
  | .versions, s, t => t.versions = s.versions
  | .rallies, s, t => t.rallies = s.rallies
  | .selects, s, t => t.selects = s.selects
  | .deferred, s, t => t.deferred = s.deferred
  | .ws, s, t => t.ws = s.ws
  | .mail, s, t => t.mail = s.mail
  | .hostFns, s, t => t.hostFns = s.hostFns
  | .badSlots, s, t => t.badSlots = s.badSlots
  | .parity, s, t => t.parity = s.parity
  | .powerN, s, t => t.powerN = s.powerN
  | .powerS, s, t => t.powerS = s.powerS
  | .votes, s, t => t.votes = s.votes
  | .samples, s, t => t.samples = s.samples
  | .lowSamples, s, t => t.lowSamples = s.lowSamples
  | .ring, s, t => t.ring = s.ring
  | .qps, s, t => t.qps = s.qps
  | .heldOut, s, t => t.heldOut = s.heldOut
  | .replicaN, s, t => t.replicaN = s.replicaN
  | .replicaS, s, t => t.replicaS = s.replicaS
  | .complexN, s, t => t.complexN = s.complexN
  | .complexS, s, t => t.complexS = s.complexS
  | .update, s, t => t.update = s.update
  | .boot, s, t => t.boot = s.boot
  | .restores, s, t => t.restores = s.restores
  | .releasedAt, s, t => t.releasedAt = s.releasedAt
  | .sensors, s, t => t.sensors = s.sensors
  | .save, s, t => t.save = s.save
  | .record, s, t => t.record = s.record
  | .free, s, t => t.free = s.free
  | .out, s, t => t.out = s.out
  | .pending, s, t => t.pending = s.pending

/-- Registers: where they lie (0: on every page; a page type of `pageType`; 1 << 17 plus a page number: on that page)
and the first and the last offset. -/
abbrev RegSpan := Nat × Nat × Nat

/-- Registers of one page. -/
def span (p : Page) (lo hi : Nat) : RegSpan := (0x20000 + pageNum p, lo, hi)

/-- The type of the page that holds a BAR0 offset; 1 << 16 where there is none. -/
def typeAt (a : Nat) : Nat := match pageAt (a / 0x1000) with
  | some p => pageType p
  | none => 0x10000

/-- A BAR0 offset lies in a span. -/
def RegSpan.holds (x : RegSpan) (a : Nat) : Bool :=
  decide (x.2.1 ≤ a % 0x1000 ∧ a % 0x1000 ≤ x.2.2) && (decide (x.1 = 0) || decide (typeAt a = x.1) || decide (0x20000 + a / 0x1000 = x.1))

/-- The bytes and poison marks of the range are in their canonical form. -/
def Range.wf (r : Range) : Bool := swf (fun _ => 0) 0 r.mem && swf (fun _ => false) 0 r.poison

/-- The register file, tile SRAM and the range are in their canonical form: keys strictly rise and no pair holds what its
unlisted key reads as. -/
def canonical (s : State) : Bool :=
  swf resetWord 0 s.regs && swf (fun _ => 0) 0 s.sram && swf (fun _ => false) 0 s.sramPoison && s.range.wf

/-- t differs from s in the parts m alone; of the registers, in those of the spans r alone, unless m names the
registers as a whole; the canonical form of s is kept. -/
structure Only (m : List Fld) (r : List RegSpan) (s t : State) : Prop where
  parts : ∀ x, x ∉ m → x ≠ .regs → x.same s t
  words : Fld.regs ∉ m → ∀ a, r.any (fun x => x.holds a) = false → regWord t a = regWord s a
  keeps : canonical s = true → canonical t = true

/-- The outcome is a next state that differs from s in the parts m and the registers r alone. -/
def Gives (m : List Fld) (r : List RegSpan) (s : State) (o : Host.Outcome State Fault Refusal) : Prop :=
  ∃ t, o = .next t ∧ Only m r s t

/-- Event `i` of a page is latched in EVT_RAW (R26). -/
def eventSet (p : Page) (i : Nat) (s : State) : Bool := (fget p Reg.EVT_RAW_RAW s).testBit i

/-- The checks that a register write must pass: the page served (R410), in the writer's view (R40), its unit present
(R39), the writer admitted, the token not below the unit's (R33). -/
def Admitted (w : Wr) (p : Page) (off : Nat) (s : State) : Prop :=
  served s p = true ∧ sees s w.mid p = true ∧ present s p = true ∧ admits s w.mid p off = true ∧
    (pageShared p = true → isCC w.mid = true → fget p Reg.EPOCH_TOKEN s ≤ w.token.toNat)

/-- The token that a shared unit holds after an admitted write: a control complex's own (R33). -/
def tokenAfter (w : Wr) (p : Page) (s : State) : Nat :=
  if pageShared p = true ∧ isCC w.mid = true then w.token.toNat else fget p Reg.EPOCH_TOKEN s

end Sys2Proof.Machine
end

