-- ==== Sys2Proof/Claims.lean ====
section
/-! DEFINITION. The words of the spec that the statements use: what an event, an admitted write, a block's next state are. -/

namespace Sys2Proof.Machine

/-- A page that is no mailbox's: its events are kept in its EVT_RAW alone (R331). -/
def notMbx : Page → Bool
  | .mbx _ => false
  | _ => true

/-- A page whose moves start and stop no work of its own besides the block itself. -/
def plainBlock : Page → Bool
  | .mig _ | .wsc _ | .mbx _ | .cap | .fus => false
  | _ => true

/-- A page whose stop ends nothing besides the block itself. -/
def quietStop : Page → Bool
  | .mig _ | .hp _ | .rg _ | .eth _ | .d2d _ | .bm _ | .mbx _ | .cap | .fus => false
  | _ => true

/-- The block state after EN is written (R31). -/
def enMove (b : Blk) (fence en : Bool) : Blk :=
  match b, en with
  | .off, true => if fence then .off else .starting
  | .on, false => .stopping
  | .stopping, true => .restartPending
  | .restartPending, false => .stopping
  | b, _ => b

/-- The block state after a stop sequence has completed (R31). -/
def stopMove (b : Blk) (fence : Bool) : Blk :=
  match b with
  | .restartPending => if fence then .off else .starting
  | _ => .off

/-- The bridge's ends, which fence as one unit (R17). -/
def isBridge : Page → Bool
  | .d2d _ => true
  | _ => false

/-- A control complex's page, which stands for its half (R366). -/
def isComplex : Page → Bool
  | .cc _ => true
  | _ => false

/-- A page behind which work ends, and may raise events of its own, as its fence begins. -/
def workPage : Page → Bool
  | .wsc _ | .mig _ | .chan _ => true
  | _ => false

/-- The weight store's pages: its commands look at a fence of theirs anew. -/
def storePage : Page → Bool
  | .wsc _ | .die _ => true
  | _ => false

/-- A page whose fence is its own alone: no unit behind it has work to end. -/
def plainFence : Page → Bool
  | .rf _ | .hp _ | .rg _ | .eth _ | .pmu | .thm | .sec | .dbg | .aon | .bm _ | .mbx _ => true
  | _ => false

/-- The low word of a 64-bit counter, whose read latches the high word (R75, R162, R314, R379, R405). -/
def latchPair (p : Page) (o : Nat) : Bool :=
  match p with
  | .tile _ => decide (o = 0x140 ∨ o = 0x148 ∨ o = 0x410)
  | .chan _ => decide (o = 0x170)
  | .rf _ => decide (o = 0x108)
  | .aon => decide (o = 0x104)
  | _ => false

/-- A page whose block-specific registers have no effect beyond what they store. -/
def storesOnly : Page → Bool
  | .cap | .d2d _ | .rf _ | .hp _ | .eth _ | .fus | .aon | .bm _ => true
  | _ => false

/-- The access reaches the page: served (R410), in the sender's view (R40), its unit present (R39). -/
def Reaches (mid : W16) (p : Page) (s : State) : Prop := served s p = true ∧ sees s mid p = true ∧ present s p = true

/-- The SEC page takes a denial (R39, R44): ACCESS_DENIED, the count, and the record where none was kept. -/
def DenialTaken (mid : W16) (kind addr : Nat) (s t : State) : Prop :=
  eventSet .sec 4 t = true ∧ fget .sec Reg.SEC_AD_CNT_COUNT t = min (fget .sec Reg.SEC_AD_CNT_COUNT s + 1) 65535 ∧
  fget .sec Reg.SEC_AD_REC_MID_VALID t = 1 ∧
  (fget .sec Reg.SEC_AD_REC_MID_VALID s = 0 →
    fget .sec Reg.SEC_AD_REC_MID_MID t = mid.toNat ∧ fget .sec Reg.SEC_AD_REC_MID_KIND t = kind ∧
    fget .sec Reg.SEC_AD_REC_ADDR_LO_ADDR t = addr % 2 ^ 32 ∧ fget .sec Reg.SEC_AD_REC_ADDR_HI_ADDR t = addr / 2 ^ 32 % 2 ^ 16) ∧
  (fget .sec Reg.SEC_AD_REC_MID_VALID s ≠ 0 → Only [.heldOut, .out] [span .sec 0x018 0x018, span .sec 0x11C 0x11C] s t) ∧
  Only [.heldOut, .out] [span .sec 0x018 0x018, span .sec 0x110 0x11C] s t

/-- The LOCK of a page stops a write of it (R35): LOCKED_WRITE on the page and on the SEC page, the count, and the record
where none was kept. -/
def LockStops (mid : W16) (p : Page) (off : Nat) (data : W32) (s t : State) : Prop :=
  eventSet p 3 t = true ∧ eventSet .sec 3 t = true ∧
  fget .sec Reg.SEC_LW_CNT_COUNT t = min (fget .sec Reg.SEC_LW_CNT_COUNT s + 1) 65535 ∧
  fget .sec Reg.SEC_LW_REC_MID_VALID t = 1 ∧
  (fget .sec Reg.SEC_LW_REC_MID_VALID s = 0 →
    fget .sec Reg.SEC_LW_REC_MID_MID t = mid.toNat ∧ fget .sec Reg.SEC_LW_REC_OFF_OFFSET t = regAddr p off % 2 ^ 26 ∧
    fget .sec Reg.SEC_LW_REC_DATA_DATA t = data.toNat) ∧
  (fget .sec Reg.SEC_LW_REC_MID_VALID s ≠ 0 → Only [.heldOut, .out] [span p 0x018 0x018, span p 0x02C 0x02C,
    span .sec 0x018 0x018, span .sec 0x10C 0x10C] s t) ∧
  Only [.heldOut, .out] [span p 0x018 0x018, span p 0x02C 0x02C, span .sec 0x018 0x018, span .sec 0x100 0x10C] s t

/-- R62's conditions to refuse a bank write command, in the order of its table. -/
def bankRefusals (p : Nat) (bank : Bool) (wset mepoch : Nat) (rows : Nat) (s : State) : List Bool :=
  let k := (tileOf p s).bank bank
  let o := (tileOf p s).bank (!bank)
  [decide (rows = 0 ∨ 128 < rows), decide (o.st ≠ .empty ∧ o.wset.toNat = wset ∧ o.mepoch.toNat = mepoch),
   decide (k.st = .fenced) || fenced (tilePage p) s, decide (k.st = .writing ∨ k.st = .writeHeld)]

/-- A bank write or a row is refused (R62): REASON and MID are kept, WRITE_REJECT is raised, nothing else changes. -/
def WriteRejected (p reason : Nat) (mid : W16) (s t : State) : Prop :=
  fget (tilePage p) Reg.TILE_WR_REJECT_REASON t = reason ∧ fget (tilePage p) Reg.TILE_WR_REJECT_MID t = mid.toNat ∧
  eventSet (tilePage p) 10 t = true ∧ t.tiles = s.tiles

/-- The TASK_END message of a task is on the mesh, to the control complex of its request (R141, R142). -/
def TaskEnded (d : Desc) (status : W16) (poison : Bool) (s t : State) : Prop :=
  .taskEnd (ccFor d.cch s) ⟨d.channel, d.seq, d.tmpl, d.cch, status, poison, none⟩ ∈ t.mesh

/-- A channel has assigned one completion more, under the next CSEQ (R306, R311). -/
def Completes (chan : Nat) (seq : W32) (status : W16) (poison : Bool) (s t : State) : Prop :=
  ∃ y, (chanOf chan t).cpls = (chanOf chan s).cpls ++ [y] ∧ y.seq = seq ∧ y.status = status ∧ y.poison = poison ∧
    y.cseq = BitVec.ofNat 32 (fget (chanPage chan) Reg.CHAN_CUR_POST_VALUE s) ∧
    fget (chanPage chan) Reg.CHAN_CUR_POST_VALUE t = (fget (chanPage chan) Reg.CHAN_CUR_POST_VALUE s + 1) % 2 ^ 32

end Sys2Proof.Machine
end

