-- ==== Sys2Proof/Frames.lean ====
section
/-! DEFINITION. The frame of every command: the parts of the state and the registers that it may change. -/

namespace Sys2Proof.Machine

/-- All parts of the state but those named. -/
def but (l : List Fld) : List Fld :=
  [.pins, .fuses, .phase, .timer, .timerFrac, .regs, .latched, .causes, .staleMid, .tiles, .sram, .sramPoison, .mesh,
   .rowBus, .scaleBus, .range, .zip, .packed, .bindings, .reqs, .chans, .serials, .handles, .versions, .rallies, .selects,
   .deferred, .ws, .mail, .hostFns, .badSlots, .parity, .powerN, .powerS, .votes, .samples, .lowSamples, .ring, .qps,
   .heldOut, .replicaN, .replicaS, .complexN, .complexS, .update, .boot, .restores, .releasedAt, .sensors, .save, .record,
   .free, .out, .pending].filter fun x => !l.contains x

/-- What a command may change: parts of the state, and registers, as (page type of `pageType`, first offset, last offset),
page type 0 standing for every page. A write's refusals are in it: the record on the SEC page (R35, R39, R44), the events
(R26), the token of the page (R33) and the mark of the complex that sent a stale one. -/
def frameOf : Instr → List Fld × List RegSpan
  | .registerWrite .. | .dbgReset .. | .bar4Access .. | .ringFlit .. | .ringPacket .. | .recovCmd .. =>
    (but [.fuses, .timer, .timerFrac, .releasedAt, .pending], [])
  | .bar0ReservedWrite .. | .absentUnitPageWrite .. =>
    ([.heldOut, .out], [(0xb0, 0x18, 0x18), (0xb0, 0x110, 0x11c)])
  | .counterLatchRead .. =>
    ([.latched, .range, .zip, .ws, .mail, .ring, .heldOut, .free, .out], [(0x0, 0x18, 0x18), (0x70, 0x10c, 0x10c), (0x71,
     0x11c, 0x11c)])
  | .enWrite .. =>
    ([.staleMid, .range, .zip, .ws, .mail, .heldOut, .out], [(0x0, 0x10, 0x18), (0x0, 0x2c, 0x2c), (0x10, 0x880, 0x880),
     (0x30, 0x120, 0x134), (0x30, 0x13c, 0x13c), (0x30, 0x144, 0x144), (0x40, 0x130, 0x13c), (0x40, 0x204, 0x224),
     (0xb0, 0x110, 0x11c)])
  | .startSequenceComplete .. =>
    ([.tiles, .range, .zip, .ws, .mail, .heldOut, .out], [(0x0, 0x14, 0x18), (0x30, 0x120, 0x134), (0x30, 0x13c, 0x13c),
     (0x30, 0x144, 0x144), (0x40, 0x130, 0x13c), (0x40, 0x204, 0x224)])
  | .stopSequenceComplete .. =>
    ([.tiles, .range, .zip, .ws, .mail, .hostFns, .votes, .ring, .heldOut, .out], [(0x0, 0x14, 0x18), (0x30, 0x120,
     0x134), (0x30, 0x13c, 0x13c), (0x30, 0x144, 0x144), (0x40, 0x130, 0x13c), (0x40, 0x204, 0x224), (0x48, 0x100,
     0x100), (0x50, 0x134, 0x138), (0x70, 0x104, 0x104), (0x71, 0x100, 0x100), (0x71, 0x108, 0x108), (0x71, 0x110,
     0x110), (0x71, 0x118, 0x118), (0x72, 0x140, 0x140)])
  | .evtClrWrite .. | .mbxSend .. | .mbxRecvPop .. =>
    ([.staleMid, .mail, .heldOut, .out], [(0x0, 0x18, 0x18), (0x0, 0x2c, 0x2c), (0x10, 0x880, 0x880), (0xb0, 0x110,
     0x11c)])
  | .fenceReq .. =>
    ([.causes, .staleMid, .tiles, .mesh, .range, .zip, .reqs, .chans, .ws, .mail, .heldOut, .replicaN, .replicaS,
     .complexN, .complexS, .out], [(0x0, 0x14, 0x18), (0x0, 0x28, 0x2c), (0x10, 0x880, 0x880), (0x20, 0x104, 0x104),
     (0x20, 0x204, 0x204), (0x30, 0x120, 0x134), (0x30, 0x13c, 0x13c), (0x30, 0x144, 0x144), (0x40, 0x130, 0x13c),
     (0x40, 0x204, 0x224), (0x50, 0x128, 0x128), (0x50, 0x178, 0x178), (0x80, 0x100, 0x100), (0x90, 0x108, 0x10c),
     (0xb0, 0x110, 0x11c)])
  | .fenceRelease .. =>
    ([.causes, .staleMid, .tiles, .ws, .mail, .heldOut, .complexN, .complexS, .out], [(0x0, 0x14, 0x18), (0x0, 0x28,
     0x2c), (0x10, 0x880, 0x880), (0x20, 0x300, 0x300), (0x20, 0x350, 0x350), (0x30, 0x120, 0x134), (0x30, 0x13c,
     0x13c), (0x30, 0x144, 0x144), (0x80, 0x100, 0x100), (0xb0, 0x110, 0x11c)])
  | .lockSet .. =>
    ([.staleMid, .mail, .heldOut, .out], [(0x0, 0x18, 0x18), (0x0, 0x2c, 0x30), (0x10, 0x880, 0x880), (0xb0, 0x110,
     0x11c)])
  | .lockedTableEntryWrite .. =>
    ([.staleMid, .mail, .heldOut, .out], [(0x0, 0x18, 0x18), (0x0, 0x2c, 0x2c), (0x10, 0x880, 0x880), (0x71, 0x400,
     0x41f), (0xb0, 0x100, 0x11c), (0xb0, 0x400, 0x5ff)])
  | .tableError .. =>
    ([.heldOut, .out], [(0x71, 0x18, 0x18), (0x71, 0x400, 0x41f), (0xb0, 0x18, 0x18), (0xb0, 0x400, 0x5ff)])
  | .bar2Read .. =>
    ([.causes, .range, .badSlots, .ring, .heldOut, .out], [(0x40, 0x18, 0x18), (0x40, 0x120, 0x12c), (0x40, 0x134,
     0x13c), (0x48, 0x14, 0x18), (0x48, 0x28, 0x28), (0x48, 0x110, 0x110), (0x48, 0x118, 0x118), (0x70, 0x18, 0x18),
     (0x70, 0x108, 0x10c), (0x71, 0x18, 0x18), (0x71, 0x11c, 0x11c)])
  | .bar2Write .. =>
    ([.range, .ring, .heldOut, .out], [(0x40, 0x18, 0x18), (0x40, 0x130, 0x13c), (0x70, 0x18, 0x18), (0x70, 0x108,
     0x10c), (0x71, 0x18, 0x18), (0x71, 0x11c, 0x11c), (0xb0, 0x18, 0x18), (0xb0, 0x110, 0x11c)])
  | .dbgWake .. =>
    ([.pins, .phase, .staleMid, .tiles, .mail, .powerN, .powerS, .heldOut, .out], [(0x10, 0x880, 0x880), (0xa0, 0x18,
     0x18), (0xa1, 0x18, 0x18), (0xa1, 0x100, 0x108), (0xa1, 0x11c, 0x11c), (0xb0, 0x18, 0x18), (0xb0, 0x110, 0x11c),
     (0xb1, 0x18, 0x18), (0xb1, 0x2c, 0x2c)])
  | .debugSessionOpen .. =>
    ([.heldOut, .out], [(0xb1, 0x18, 0x18), (0xb1, 0x100, 0x100), (0xb1, 0x10c, 0x10c)])
  | .bankWriteCommand .. =>
    ([.staleMid, .tiles, .mesh, .range, .heldOut, .out], [(0x10, 0x880, 0x880), (0x20, 0x18, 0x18), (0x20, 0x2c, 0x2c),
     (0x20, 0x134, 0x138), (0x20, 0x15c, 0x15c), (0x20, 0x410, 0x420), (0x40, 0x130, 0x130), (0xb0, 0x18, 0x18),
     (0xb0, 0x110, 0x11c)])
  | .refillRowFrame .. =>
    ([.tiles, .mesh, .rowBus, .range, .heldOut, .out], [(0x20, 0x18, 0x18), (0x20, 0x138, 0x138), (0x20, 0x154, 0x154),
     (0x20, 0x15c, 0x15c), (0x20, 0x238, 0x23c), (0x20, 0x318, 0x318), (0x20, 0x410, 0x420), (0x40, 0x130, 0x130)])
  | .scaleFrame .. =>
    ([.tiles, .sram, .sramPoison, .mesh, .scaleBus, .range, .heldOut, .out], [(0x20, 0x18, 0x18), (0x20, 0x138, 0x138),
     (0x20, 0x15c, 0x15c), (0x20, 0x238, 0x23c), (0x20, 0x410, 0x420), (0x40, 0x130, 0x130)])
  | .passStart .. =>
    ([.tiles, .heldOut, .out], [(0x20, 0x18, 0x18), (0x20, 0x104, 0x104), (0x20, 0x148, 0x14c), (0x20, 0x160, 0x160)])
  | .passEnd .. =>
    ([.causes, .tiles, .mesh, .range, .heldOut, .out], [(0x20, 0x14, 0x18), (0x20, 0x28, 0x28), (0x20, 0x104, 0x104),
     (0x20, 0x140, 0x144), (0x20, 0x158, 0x15c), (0x20, 0x204, 0x204), (0x20, 0x300, 0x310), (0x20, 0x410, 0x420),
     (0x40, 0x130, 0x130)])
  | .refreshSlot .. =>
    ([.tiles], [(0x20, 0x320, 0x324)])
  | .refreshDeferLimit .. =>
    ([.tiles], [(0x20, 0x320, 0x320)])
  | .refreshLate .. =>
    ([.timer, .causes, .tiles, .mesh, .range, .heldOut, .out], [(0x20, 0x14, 0x18), (0x20, 0x28, 0x28), (0x20, 0x104,
     0x104), (0x20, 0x15c, 0x15c), (0x20, 0x204, 0x204), (0x20, 0x300, 0x300), (0x20, 0x328, 0x328), (0x20, 0x410,
     0x420), (0x40, 0x130, 0x130)])
  | .calibrationDue .. | .tileDwellExpire .. =>
    ([.timer, .tiles], [])
  | .calDueLate .. =>
    ([.timer, .tiles, .heldOut, .out], [(0x20, 0x18, 0x18)])
  | .calibrationStart .. =>
    ([.tiles], [(0x20, 0x300, 0x300)])
  | .calibrationEnd .. =>
    ([.timer, .causes, .tiles, .mesh, .heldOut, .out], [(0x20, 0x14, 0x18), (0x20, 0x28, 0x28), (0x20, 0x104, 0x104),
     (0x20, 0x204, 0x204), (0x20, 0x300, 0x300), (0x20, 0x338, 0x340)])
  | .repairRewrite .. | .repairTestClear .. =>
    ([.staleMid, .tiles, .heldOut, .out], [(0x10, 0x880, 0x880), (0x20, 0x18, 0x18), (0x20, 0x2c, 0x2c), (0x20, 0x314,
     0x318), (0xb0, 0x18, 0x18), (0xb0, 0x110, 0x11c)])
  | .repairEnd .. =>
    ([.causes, .tiles, .sram, .sramPoison, .mesh, .range, .heldOut, .out], [(0x20, 0x14, 0x18), (0x20, 0x28, 0x28),
     (0x20, 0x104, 0x104), (0x20, 0x15c, 0x15c), (0x20, 0x204, 0x204), (0x20, 0x300, 0x300), (0x20, 0x318, 0x31c),
     (0x20, 0x410, 0x420), (0x40, 0x130, 0x130)])
  | .repairHoldExpire .. =>
    ([.timer, .tiles, .mesh, .range, .heldOut, .out], [(0x20, 0x18, 0x18), (0x20, 0x15c, 0x15c), (0x20, 0x300, 0x300),
     (0x20, 0x410, 0x420), (0x40, 0x130, 0x130)])
  | .colsumSweepStart .. =>
    ([.tiles], [(0x20, 0x204, 0x204)])
  | .colsumSweepEnd .. =>
    ([.causes, .tiles, .sram, .sramPoison, .mesh, .range, .heldOut, .out], [(0x20, 0x14, 0x18), (0x20, 0x28, 0x28),
     (0x20, 0x104, 0x104), (0x20, 0x140, 0x144), (0x20, 0x15c, 0x15c), (0x20, 0x204, 0x204), (0x20, 0x240, 0x240),
     (0x20, 0x300, 0x300), (0x20, 0x310, 0x310), (0x20, 0x410, 0x420), (0x40, 0x130, 0x130)])
  | .substCmd .. =>
    ([.staleMid, .heldOut, .out], [(0x10, 0x880, 0x880), (0x20, 0x18, 0x18), (0x20, 0x2c, 0x2c), (0x20, 0x350, 0x354),
     (0xb0, 0x18, 0x18), (0xb0, 0x110, 0x11c)])
  | .benchSubstitutionStart .. =>
    ([.regs, .tiles, .sram, .sramPoison, .heldOut, .out], [])
  | .dequeTransfer .. =>
    ([.tiles, .mesh, .range, .heldOut, .out], [(0x20, 0x18, 0x18), (0x20, 0x15c, 0x15c), (0x20, 0x410, 0x420), (0x40,
     0x130, 0x130)])
  | .pairHeartbeat .. =>
    ([.tiles, .mesh], [])
  | .pairHeartbeatLost .. =>
    ([.causes, .tiles, .mesh, .heldOut, .out], [(0x20, 0x14, 0x18), (0x20, 0x28, 0x28), (0x20, 0x104, 0x104), (0x20,
     0x204, 0x204)])
  | .take .. =>
    ([.tiles, .mesh, .range, .heldOut, .out], [(0x20, 0x18, 0x18), (0x20, 0x15c, 0x15c), (0x20, 0x350, 0x350), (0x20,
     0x358, 0x358), (0x20, 0x410, 0x420), (0x40, 0x130, 0x130)])
  | .mirrorReform .. =>
    ([.regs, .tiles, .sram, .sramPoison], [])
  | .taskPost .. | .timeLimit .. =>
    ([.tiles, .mesh, .range, .heldOut, .out], [(0x20, 0x18, 0x18), (0x20, 0x15c, 0x15c), (0x20, 0x410, 0x420), (0x20,
     0x43c, 0x43c), (0x40, 0x130, 0x130)])
  | .signal .. =>
    ([.tiles, .mesh, .range, .heldOut, .out], [(0x20, 0x18, 0x18), (0x20, 0x15c, 0x15c), (0x20, 0x410, 0x420), (0x20,
     0x438, 0x43c), (0x40, 0x130, 0x130)])
  | .signalReturn .. | .taskEndMessage .. | .rallyJoin .. | .halfLossCompletions .. =>
    ([.tiles, .mesh, .rowBus, .scaleBus, .range, .reqs, .chans, .rallies, .heldOut, .out], [(0x20, 0x18, 0x18), (0x20,
     0x15c, 0x15c), (0x20, 0x410, 0x420), (0x40, 0x130, 0x130), (0x50, 0x18, 0x18), (0x50, 0x128, 0x128), (0x50,
     0x178, 0x178)])
  | .taskSelect .. =>
    ([.tiles, .mesh, .range, .heldOut, .out], [(0x20, 0x18, 0x18), (0x20, 0x104, 0x104), (0x20, 0x150, 0x150), (0x20,
     0x15c, 0x15c), (0x20, 0x204, 0x204), (0x20, 0x238, 0x23c), (0x20, 0x410, 0x420), (0x20, 0x434, 0x434), (0x20,
     0x43c, 0x43c), (0x40, 0x18, 0x18), (0x40, 0x130, 0x13c)])
  | .cimVectorEnd .. =>
    ([.tiles, .sram, .sramPoison, .range, .heldOut, .out], [(0x20, 0x18, 0x18), (0x20, 0x204, 0x204), (0x20, 0x230,
     0x23c), (0x20, 0x248, 0x248), (0x40, 0x18, 0x18), (0x40, 0x130, 0x13c)])
  | .adapterValues .. =>
    ([.tiles, .range, .heldOut, .out], [(0x20, 0x18, 0x18), (0x20, 0x204, 0x204), (0x20, 0x230, 0x230), (0x20, 0x238,
     0x23c), (0x40, 0x18, 0x18), (0x40, 0x130, 0x13c)])
  | .taskEnd .. =>
    ([.tiles, .sram, .sramPoison, .mesh, .range, .heldOut, .out], [(0x20, 0x18, 0x18), (0x20, 0x104, 0x104), (0x20,
     0x15c, 0x15c), (0x20, 0x204, 0x204), (0x20, 0x220, 0x22c), (0x20, 0x244, 0x244), (0x20, 0x24c, 0x24c), (0x20,
     0x410, 0x420), (0x20, 0x43c, 0x43c), (0x40, 0x18, 0x18), (0x40, 0x130, 0x13c)])
  | .purge .. =>
    ([.tiles, .mesh, .range, .heldOut, .out], [(0x20, 0x18, 0x18), (0x20, 0x104, 0x104), (0x20, 0x15c, 0x15c), (0x20,
     0x204, 0x204), (0x20, 0x410, 0x420), (0x20, 0x43c, 0x43c), (0x40, 0x130, 0x130)])
  | .creditReturn .. =>
    ([.tiles, .mesh, .reqs], [])
  | .stealProbeSend .. =>
    ([.tiles, .mesh, .free], [(0x20, 0x424, 0x424)])
  | .stealProbe .. =>
    ([.tiles, .mesh, .range, .heldOut, .out], [(0x20, 0x18, 0x18), (0x20, 0x15c, 0x15c), (0x20, 0x410, 0x420), (0x20,
     0x430, 0x430), (0x20, 0x43c, 0x43c), (0x40, 0x130, 0x130)])
  | .stealGrant .. =>
    ([.tiles, .mesh, .heldOut, .out], [(0x20, 0x18, 0x18), (0x20, 0x428, 0x428), (0x20, 0x43c, 0x43c)])
  | .stealDeny .. =>
    ([.tiles, .mesh], [(0x20, 0x42c, 0x42c)])
  | .stealBackoffExpire .. | .partitionAlone .. =>
    ([.timer], [])
  | .wsReadRefill .. | .wsReadCopy .. | .wsProgram .. | .wsErase .. =>
    ([.staleMid, .ws, .heldOut, .out], [(0x10, 0x880, 0x880), (0x30, 0x18, 0x18), (0x30, 0x2c, 0x2c), (0x30, 0x120,
     0x134), (0x30, 0x13c, 0x13c), (0x30, 0x144, 0x144), (0x30, 0x180, 0x19c), (0xb0, 0x18, 0x18), (0xb0, 0x110,
     0x11c)])
  | .wsStatusPop .. =>
    ([.ws, .ring, .heldOut, .out], [(0x70, 0x18, 0x18), (0x70, 0x10c, 0x10c), (0x71, 0x18, 0x18), (0x71, 0x11c, 0x11c)])
  | .codeWordReadEnd .. =>
    ([.causes, .rowBus, .scaleBus, .range, .ws, .heldOut, .free, .out], [(0x30, 0x18, 0x18), (0x30, 0x118, 0x118), (0x30,
     0x120, 0x13c), (0x30, 0x144, 0x144), (0x31, 0x14, 0x18), (0x31, 0x28, 0x28), (0x31, 0x100, 0x100), (0x31, 0x110,
     0x12c), (0x40, 0x130, 0x130)])
  | .senseTimeout .. =>
    ([.causes, .ws, .heldOut, .out], [(0x30, 0x18, 0x18), (0x30, 0x120, 0x134), (0x30, 0x13c, 0x13c), (0x30, 0x144,
     0x144), (0x31, 0x14, 0x18), (0x31, 0x28, 0x28), (0x31, 0x100, 0x100), (0x31, 0x110, 0x12c)])
  | .weakHeadRead .. =>
    ([.latched, .ws, .ring, .heldOut, .out], [(0x70, 0x18, 0x18), (0x70, 0x10c, 0x10c), (0x71, 0x18, 0x18), (0x71, 0x11c,
     0x11c)])
  | .programCwDone .. | .eraseVerify .. =>
    ([.ws, .heldOut, .out], [(0x30, 0x18, 0x18), (0x30, 0x120, 0x134), (0x30, 0x13c, 0x144)])
  | .programLoopLimit .. =>
    ([.causes, .ws, .heldOut, .out], [(0x30, 0x18, 0x18), (0x30, 0x120, 0x134), (0x30, 0x13c, 0x144), (0x31, 0x14, 0x18),
     (0x31, 0x28, 0x28), (0x31, 0x100, 0x100), (0x31, 0x110, 0x12c)])
  | .intentRecordProgrammed .. | .eraseBreak .. | .eraseProgressLimit .. =>
    ([.ws, .heldOut, .out], [(0x30, 0x18, 0x18), (0x30, 0x120, 0x134), (0x30, 0x13c, 0x13c), (0x30, 0x144, 0x144)])
  | .eraseSuspendHoldExpire .. =>
    ([.timer, .ws], [])
  | .eraseResume .. =>
    ([.ws], [])
  | .intentScan .. =>
    ([.ws, .heldOut, .out], [(0x30, 0x18, 0x18), (0x30, 0x108, 0x108)])
  | .planeFenceReq .. =>
    ([.causes, .staleMid, .ws, .heldOut, .out], [(0x10, 0x880, 0x880), (0x30, 0x18, 0x18), (0x30, 0x120, 0x134), (0x30,
     0x13c, 0x13c), (0x30, 0x144, 0x144), (0x31, 0x14, 0x18), (0x31, 0x28, 0x2c), (0x31, 0x100, 0x104), (0x31, 0x110,
     0x12c), (0xb0, 0x18, 0x18), (0xb0, 0x110, 0x11c)])
  | .loopMaxClr .. =>
    ([.staleMid, .heldOut, .out], [(0x10, 0x880, 0x880), (0x30, 0x18, 0x18), (0x30, 0x2c, 0x2c), (0x30, 0x140, 0x140),
     (0xb0, 0x18, 0x18), (0xb0, 0x110, 0x11c)])
  | .idRead .. =>
    ([.regs, .staleMid, .heldOut, .out], [])
  | .idProgramField .. =>
    ([.staleMid, .ws, .heldOut, .out], [(0x10, 0x880, 0x880), (0x30, 0x18, 0x18), (0x30, 0x2c, 0x2c), (0x30, 0x200,
     0x204), (0xb0, 0x18, 0x18), (0xb0, 0x110, 0x11c)])
  | .idCmdInvalidOp .. =>
    ([.staleMid, .heldOut, .out], [(0x10, 0x880, 0x880), (0x30, 0x18, 0x18), (0x30, 0x2c, 0x2c), (0x30, 0x200, 0x204),
     (0xb0, 0x18, 0x18), (0xb0, 0x110, 0x11c)])
  | .firmwareFetchMiss .. =>
    ([.causes, .tiles, .mesh, .range, .zip, .reqs, .ws, .mail, .heldOut, .replicaN, .replicaS, .complexN, .complexS,
     .out], [(0x0, 0x14, 0x18), (0x0, 0x28, 0x28), (0x10, 0x880, 0x880), (0x20, 0x104, 0x104), (0x20, 0x204, 0x204),
     (0x30, 0x118, 0x118), (0x30, 0x120, 0x13c), (0x30, 0x144, 0x144), (0x30, 0x260, 0x264), (0x31, 0x100, 0x100),
     (0x31, 0x110, 0x12c), (0x40, 0x130, 0x13c), (0x40, 0x204, 0x224), (0x90, 0x108, 0x10c)])
  | .rallyGatherExpire .. =>
    ([.timer, .rallies], [])
  | .rallyFlip .. =>
    ([.tiles, .mesh, .rowBus, .scaleBus, .range, .reqs, .chans, .versions, .rallies, .ws, .heldOut, .free, .out], [(0x10,
     0x18, 0x18), (0x20, 0x18, 0x18), (0x20, 0x15c, 0x15c), (0x20, 0x410, 0x420), (0x30, 0x18, 0x18), (0x30, 0x120,
     0x134), (0x40, 0x130, 0x130), (0x50, 0x18, 0x18), (0x50, 0x128, 0x128), (0x50, 0x178, 0x178)])
  | .restoreHoldExpire .. =>
    ([.timer, .tiles, .mesh, .rowBus, .scaleBus, .range, .reqs, .chans, .versions, .rallies, .ws, .heldOut, .free, .out],
     [(0x10, 0x18, 0x18), (0x20, 0x18, 0x18), (0x20, 0x15c, 0x15c), (0x20, 0x410, 0x420), (0x30, 0x18, 0x18), (0x30,
     0x120, 0x134), (0x40, 0x130, 0x130), (0x50, 0x18, 0x18), (0x50, 0x128, 0x128), (0x50, 0x178, 0x178)])
  | .secondSourceRead .. =>
    ([.rowBus, .rallies], [])
  | .sequencerTakeover .. =>
    ([.rallies], [])
  | .heldChunkSwitch .. =>
    ([.versions, .rallies, .ws], [])
  | .fetch .. =>
    ([.range, .packed, .bindings, .handles, .versions, .rallies, .deferred, .ws, .mail, .ring, .qps, .heldOut, .out],
     [(0x10, 0x18, 0x18), (0x20, 0x358, 0x358), (0x70, 0x18, 0x18), (0x70, 0x10c, 0x10c), (0x71, 0x18, 0x18), (0x71,
     0x11c, 0x11c), (0xb0, 0x124, 0x128)])
  | .activate .. =>
    ([.tiles, .sram, .sramPoison, .mesh, .rowBus, .scaleBus, .range, .packed, .handles, .versions, .rallies, .deferred,
     .ws, .mail, .heldOut, .out], [(0x10, 0x18, 0x18), (0x20, 0x18, 0x18), (0x20, 0x15c, 0x15c), (0x20, 0x358,
     0x358), (0x20, 0x408, 0x408), (0x20, 0x410, 0x420), (0x40, 0x130, 0x130)])
  | .replace .. =>
    ([.tiles, .mesh, .rowBus, .scaleBus, .range, .handles, .versions, .rallies, .deferred, .mail, .heldOut, .out],
     [(0x10, 0x18, 0x18), (0x20, 0x18, 0x18), (0x20, 0x15c, 0x15c), (0x20, 0x410, 0x420), (0x40, 0x130, 0x130)])
  | .relocate .. =>
    ([.handles, .versions, .rallies, .deferred, .ws, .mail, .heldOut, .out], [])
  | .retire .. =>
    ([.packed, .bindings, .handles, .versions, .rallies, .deferred, .ws, .mail, .heldOut, .out], [(0x10, 0x18, 0x18),
     (0x20, 0x358, 0x358)])
  | .sourceRelease .. =>
    ([.handles, .versions, .deferred, .mail, .heldOut, .out], [])
  | .adapterBind .. | .adapterUnbind .. =>
    ([.bindings, .handles, .deferred, .mail, .heldOut, .out], [])
  | .manifestChunkLanded .. | .fetchSourceTimeout .. =>
    ([.packed, .bindings, .handles, .versions, .rallies, .ws, .mail, .heldOut, .out], [(0x10, 0x18, 0x18), (0x20, 0x358,
     0x358)])
  | .manifestChunkVerified .. | .imgDamaged .. =>
    ([.versions, .heldOut, .out], [(0x10, 0x18, 0x18)])
  | .shadowSwitch .. | .huddleSwitch .. | .imgRevoked .. =>
    ([.tiles, .mesh, .reqs, .chans, .handles, .versions, .mail, .heldOut, .out], [(0x10, 0x18, 0x18), (0x50, 0x18, 0x18),
     (0x50, 0x128, 0x128), (0x50, 0x168, 0x168), (0x50, 0x178, 0x178)])
  | .pinWindowExpire .. =>
    ([.timer, .versions], [])
  | .huddleLayerRewrite .. =>
    ([.tiles, .mesh, .rowBus, .scaleBus, .range, .handles, .heldOut, .out], [(0x20, 0x18, 0x18), (0x20, 0x15c, 0x15c),
     (0x20, 0x410, 0x420), (0x40, 0x130, 0x130)])
  | .versionRetired .. =>
    ([.packed, .bindings, .handles, .versions, .rallies, .ws, .heldOut, .out], [(0x10, 0x18, 0x18), (0x20, 0x358, 0x358)])
  | .blockRelocate .. =>
    ([.handles, .versions, .rallies, .ws], [])
  | .alloc .. | .free .. | .move .. | .give .. | .query .. | .t2Register .. | .t2Release .. | .setTableFrames .. =>
    ([.staleMid, .tiles, .range, .heldOut, .out], [(0x10, 0x880, 0x880), (0x40, 0x18, 0x18), (0x40, 0x2c, 0x2c), (0x40,
     0x180, 0x19c), (0x50, 0x18, 0x18), (0x50, 0x2c, 0x2c), (0x50, 0x200, 0x21c), (0xb0, 0x18, 0x18), (0xb0, 0x110,
     0x11c)])
  | .rangeStatusPop .. | .moveCopyRoundEnd .. =>
    ([.range, .ring, .heldOut, .out], [(0x70, 0x18, 0x18), (0x70, 0x10c, 0x10c), (0x71, 0x18, 0x18), (0x71, 0x11c,
     0x11c)])
  | .moveCommit .. =>
    ([.tiles, .range, .heldOut, .out], [(0x40, 0x18, 0x18), (0x40, 0x114, 0x114), (0x50, 0x18, 0x18)])
  | .moveDrainEnd .. =>
    ([.tiles, .range, .ring, .heldOut, .out], [(0x40, 0x18, 0x18), (0x40, 0x110, 0x110), (0x40, 0x118, 0x118), (0x40,
     0x130, 0x130), (0x50, 0x18, 0x18), (0x70, 0x18, 0x18), (0x70, 0x10c, 0x10c), (0x71, 0x18, 0x18), (0x71, 0x11c,
     0x11c)])
  | .translatorMiss .. =>
    ([.range], [])
  | .t2ReadError .. =>
    ([.range], [(0x40, 0x130, 0x130)])
  | .compress .. | .expand .. | .loadTable .. =>
    ([.staleMid, .range, .zip, .heldOut, .out], [(0x10, 0x880, 0x880), (0x40, 0x18, 0x18), (0x40, 0x2c, 0x2c), (0x40,
     0x130, 0x13c), (0x40, 0x204, 0x224), (0x40, 0x280, 0x29c), (0x50, 0x18, 0x18), (0x50, 0x2c, 0x2c), (0x50, 0x280,
     0x29c), (0xb0, 0x18, 0x18), (0xb0, 0x110, 0x11c)])
  | .loadTableCommit .. =>
    ([.range, .zip, .heldOut, .out], [(0x40, 0x18, 0x18), (0x40, 0x130, 0x13c), (0x40, 0x204, 0x224), (0x50, 0x18, 0x18)])
  | .zstatusPop .. =>
    ([.zip, .ring, .heldOut, .out], [(0x70, 0x18, 0x18), (0x70, 0x10c, 0x10c), (0x71, 0x18, 0x18), (0x71, 0x11c, 0x11c)])
  | .chanAssign .. =>
    ([.staleMid, .zip, .chans, .heldOut, .out], [(0x10, 0x880, 0x880), (0x50, 0x18, 0x18), (0x50, 0x2c, 0x2c), (0x50,
     0x104, 0x10c), (0x50, 0x120, 0x12c), (0x50, 0x160, 0x168), (0x50, 0x178, 0x178), (0x50, 0x180, 0x180), (0xb0,
     0x18, 0x18), (0xb0, 0x100, 0x11c)])
  | .doorbell .. =>
    ([.staleMid, .heldOut, .out], [(0x10, 0x880, 0x880), (0x50, 0x18, 0x18), (0x50, 0x2c, 0x2c), (0x50, 0x120, 0x120),
     (0x50, 0x17c, 0x180), (0xb0, 0x18, 0x18), (0xb0, 0x110, 0x11c)])
  | .descriptorRead .. =>
    ([.tiles, .mesh, .reqs, .chans, .ring, .heldOut, .out], [(0x50, 0x18, 0x18), (0x50, 0x124, 0x128), (0x50, 0x168,
     0x168), (0x50, 0x178, 0x178), (0x70, 0x18, 0x18), (0x70, 0x10c, 0x10c), (0x71, 0x18, 0x18), (0x71, 0x11c,
     0x11c)])
  | .inputCopyEnd .. =>
    ([.tiles, .mesh, .range, .reqs, .chans, .heldOut, .out], [(0x40, 0x18, 0x18), (0x40, 0x130, 0x13c), (0x50, 0x18,
     0x18), (0x50, 0x128, 0x128), (0x50, 0x178, 0x178)])
  | .outputTransferEnd .. =>
    ([.tiles, .mesh, .range, .reqs, .chans, .ring, .heldOut, .out], [(0x40, 0x18, 0x18), (0x40, 0x130, 0x13c), (0x50,
     0x18, 0x18), (0x50, 0x128, 0x128), (0x50, 0x178, 0x178), (0x70, 0x18, 0x18), (0x70, 0x10c, 0x10c), (0x71, 0x18,
     0x18), (0x71, 0x11c, 0x11c)])
  | .completionWrite .. =>
    ([.chans, .ring, .heldOut, .out], [(0x50, 0x18, 0x18), (0x70, 0x18, 0x18), (0x70, 0x10c, 0x10c), (0x71, 0x18, 0x18),
     (0x71, 0x11c, 0x11c)])
  | .cqHeadWrite .. =>
    ([.staleMid, .chans, .heldOut, .out], [(0x10, 0x880, 0x880), (0x50, 0x18, 0x18), (0x50, 0x2c, 0x2c), (0x50, 0x12c,
     0x12c), (0xb0, 0x18, 0x18), (0xb0, 0x110, 0x11c)])
  | .cancel .. =>
    ([.staleMid, .tiles, .mesh, .reqs, .chans, .heldOut, .out], [(0x10, 0x880, 0x880), (0x50, 0x18, 0x18), (0x50, 0x2c,
     0x2c), (0x50, 0x128, 0x128), (0x50, 0x140, 0x140), (0x50, 0x178, 0x178), (0xb0, 0x18, 0x18), (0xb0, 0x110,
     0x11c)])
  | .holdWrite .. =>
    ([.staleMid, .chans, .ring, .heldOut, .out], [(0x10, 0x880, 0x880), (0x50, 0x18, 0x18), (0x50, 0x2c, 0x2c), (0x50,
     0x134, 0x138), (0x70, 0x18, 0x18), (0x70, 0x10c, 0x10c), (0x71, 0x18, 0x18), (0x71, 0x11c, 0x11c), (0xb0, 0x18,
     0x18), (0xb0, 0x110, 0x11c)])
  | .held .. =>
    ([.heldOut, .out], [(0x50, 0x18, 0x18), (0x50, 0x138, 0x138)])
  | .replay .. =>
    ([.staleMid, .chans, .heldOut, .out], [(0x10, 0x880, 0x880), (0x50, 0x18, 0x18), (0x50, 0x2c, 0x2c), (0xb0, 0x18,
     0x18), (0xb0, 0x110, 0x11c)])
  | .sqDiscard .. =>
    ([.staleMid, .heldOut, .out], [(0x10, 0x880, 0x880), (0x50, 0x18, 0x18), (0x50, 0x2c, 0x2c), (0x50, 0x120, 0x120),
     (0xb0, 0x18, 0x18), (0xb0, 0x110, 0x11c)])
  | .functionLevelReset .. =>
    ([.mail, .hostFns, .votes, .heldOut, .out], [(0x50, 0x134, 0x138), (0x70, 0x18, 0x18)])
  | .resvSustained .. | .resvFrame .. | .resvInvalidClass .. =>
    ([.staleMid, .heldOut, .out], [(0x10, 0x880, 0x880), (0x50, 0x18, 0x18), (0x50, 0x2c, 0x2c), (0x50, 0x15c, 0x160),
     (0xb0, 0x18, 0x18), (0xb0, 0x110, 0x11c)])
  | .resvRelease .. =>
    ([.staleMid, .chans, .heldOut, .out], [(0x10, 0x880, 0x880), (0x50, 0x18, 0x18), (0x50, 0x2c, 0x2c), (0x50, 0x15c,
     0x168), (0xb0, 0x18, 0x18), (0xb0, 0x110, 0x11c)])
  | .resvDone .. =>
    ([.chans, .serials, .heldOut, .out], [(0x50, 0x18, 0x18), (0x50, 0x160, 0x160)])
  | .resvPeriodStart .. =>
    ([.timer, .chans], [(0x50, 0x160, 0x168)])
  | .reservationRevocation .. =>
    ([.chans, .heldOut, .out], [(0x50, 0x18, 0x18), (0x50, 0x128, 0x128), (0x50, 0x160, 0x168)])
  | .coalesceTimerExpire .. =>
    ([.timer, .chans, .heldOut, .out], [])
  | .mailboxInvalid .. =>
    ([.mail, .heldOut, .out], [])
  | .idProgram .. =>
    ([.deferred, .ws, .mail, .heldOut, .out], [(0x30, 0x18, 0x18), (0x30, 0x204, 0x204)])
  | .hostLinkUp .. =>
    ([.causes, .mail, .hostFns, .heldOut, .out], [(0x70, 0x14, 0x18), (0x70, 0x28, 0x28), (0x70, 0x104, 0x104)])
  | .hostLinkDown .. | .perst .. =>
    ([.mail, .hostFns, .votes, .heldOut, .out], [(0x50, 0x134, 0x138), (0x70, 0x18, 0x18), (0x70, 0x104, 0x104)])
  | .cplTimeout .. =>
    ([.heldOut, .out], [(0x70, 0x18, 0x18), (0x70, 0x108, 0x108)])
  | .ringReplay .. =>
    ([.ring], [(0x71, 0x110, 0x114)])
  | .e2eAck .. =>
    ([.ring, .out], [])
  | .e2eDrop .. =>
    ([.timer, .ring, .heldOut, .out], [(0x70, 0x18, 0x18), (0x70, 0x108, 0x10c), (0x71, 0x18, 0x18), (0x71, 0x11c,
     0x11c)])
  | .ringBreak .. =>
    ([.ring, .heldOut, .out], [(0x71, 0x18, 0x18), (0x71, 0x100, 0x100), (0x71, 0x108, 0x108), (0x71, 0x110, 0x110),
     (0x71, 0x118, 0x118)])
  | .enumStart .. =>
    ([.timer, .ring, .heldOut, .out], [(0x70, 0x18, 0x18), (0x70, 0x10c, 0x10c), (0x71, 0x18, 0x18), (0x71, 0x100,
     0x104), (0x71, 0x11c, 0x11c)])
  | .enum .. | .beacon .. =>
    ([.phase, .ring, .heldOut, .out], [(0x1, 0x18, 0x18), (0x70, 0x18, 0x18), (0x70, 0x10c, 0x10c), (0x71, 0x18, 0x18),
     (0x71, 0x100, 0x108), (0x71, 0x11c, 0x11c), (0xb0, 0x600, 0x600), (0xb0, 0x608, 0x608)])
  | .enumReturnTimeout .. =>
    ([.phase, .timer, .ring, .heldOut, .out], [(0x1, 0x18, 0x18), (0x70, 0x18, 0x18), (0x70, 0x10c, 0x10c), (0x71, 0x18,
     0x18), (0x71, 0x100, 0x100), (0x71, 0x108, 0x108), (0x71, 0x11c, 0x11c), (0xb0, 0x600, 0x600), (0xb0, 0x608,
     0x608)])
  | .joinAck .. =>
    ([.ring], [])
  | .enumDone .. =>
    ([.phase, .ring, .heldOut, .out], [(0x1, 0x18, 0x18), (0x71, 0x18, 0x18), (0x71, 0x100, 0x100), (0x71, 0x108, 0x108),
     (0xb0, 0x600, 0x600), (0xb0, 0x608, 0x608)])
  | .join .. =>
    ([.ring, .heldOut, .out], [(0x70, 0x18, 0x18), (0x70, 0x10c, 0x10c), (0x71, 0x18, 0x18), (0x71, 0x100, 0x100), (0x71,
     0x108, 0x108), (0x71, 0x11c, 0x11c)])
  | .beaconSend .. =>
    ([.ring, .heldOut, .out], [(0x70, 0x18, 0x18), (0x70, 0x10c, 0x10c), (0x71, 0x18, 0x18), (0x71, 0x11c, 0x11c)])
  | .leaveWrite .. =>
    ([.staleMid, .heldOut, .out], [(0x10, 0x880, 0x880), (0x71, 0x18, 0x18), (0x71, 0x2c, 0x2c), (0x71, 0x10c, 0x10c),
     (0xb0, 0x18, 0x18), (0xb0, 0x110, 0x11c)])
  | .reenum .. =>
    ([.staleMid, .ring, .heldOut, .out], [(0x10, 0x880, 0x880), (0x70, 0x18, 0x18), (0x70, 0x10c, 0x10c), (0x71, 0x18,
     0x18), (0x71, 0x2c, 0x2c), (0x71, 0x100, 0x104), (0x71, 0x11c, 0x11c), (0xb0, 0x18, 0x18), (0xb0, 0x110, 0x11c)])
  | .wakeGo .. =>
    ([.staleMid, .ring, .heldOut, .out], [(0x10, 0x880, 0x880), (0x70, 0x18, 0x18), (0x70, 0x10c, 0x10c), (0x71, 0x18,
     0x18), (0x71, 0x2c, 0x2c), (0x71, 0x10c, 0x110), (0x71, 0x11c, 0x11c), (0xb0, 0x18, 0x18), (0xb0, 0x110, 0x11c)])
  | .wakeRelay .. =>
    ([.ring, .heldOut, .out], [(0x70, 0x18, 0x18), (0x70, 0x10c, 0x10c), (0x71, 0x18, 0x18), (0x71, 0x110, 0x110), (0x71,
     0x11c, 0x11c)])
  | .wakeOrderedSet .. =>
    ([.pins, .phase, .tiles, .powerN, .powerS, .heldOut, .out], [(0xa0, 0x18, 0x18), (0xa1, 0x18, 0x18), (0xa1, 0x100,
     0x108), (0xa1, 0x11c, 0x11c)])
  | .bypassChange .. =>
    ([.ring], [(0x71, 0x100, 0x100), (0x71, 0x110, 0x110)])
  | .ringLinkTrained .. =>
    ([.causes, .ring, .heldOut, .out], [(0x71, 0x14, 0x18), (0x71, 0x28, 0x28), (0x71, 0x100, 0x100), (0x71, 0x108,
     0x108), (0x71, 0x110, 0x110), (0x71, 0x118, 0x118)])
  | .rdmaReadResponse .. =>
    ([.qps], [(0x72, 0x14c, 0x14c)])
  | .rdmaReadRestart .. =>
    ([.ring, .heldOut, .out], [(0x70, 0x18, 0x18), (0x70, 0x10c, 0x10c), (0x71, 0x18, 0x18), (0x71, 0x11c, 0x11c), (0x72,
     0x18, 0x18), (0x72, 0x148, 0x148)])
  | .congestionNotification .. =>
    ([.qps], [])
  | .rateIncrease .. =>
    ([.timer, .qps], [])
  | .rxDrop .. =>
    ([.heldOut, .out], [(0x72, 0x18, 0x18), (0x72, 0x144, 0x144)])
  | .ethLink .. =>
    ([.heldOut, .out], [(0x72, 0x18, 0x18), (0x72, 0x140, 0x140)])
  | .leaseRenewSend .. =>
    ([.mesh], [])
  | .renew .. =>
    ([.mesh, .complexN, .complexS], [(0x90, 0x108, 0x10c)])
  | .leaseExpire .. =>
    ([.timer, .mail, .heldOut, .out], [(0x10, 0x18, 0x18), (0x10, 0x880, 0x880)])
  | .staleWriteGate .. =>
    ([.heldOut, .out], [(0x10, 0x18, 0x18), (0x10, 0x880, 0x880), (0x10, 0x898, 0x898)])
  | .refereePoll .. =>
    ([.heldOut, .complexN, .complexS, .out], [(0x10, 0x18, 0x18), (0x10, 0x880, 0x884)])
  | .replicaExchange .. =>
    ([.replicaN, .replicaS], [(0x90, 0x100, 0x100)])
  | .partition .. =>
    ([.timer, .heldOut, .replicaN, .replicaS, .out], [(0x90, 0x18, 0x18), (0x90, 0x100, 0x100), (0x90, 0x114, 0x114)])
  | .rejoin .. | .replicaRestart .. =>
    ([.regs, .heldOut, .replicaN, .replicaS, .out], [])
  | .acquire .. =>
    ([.mesh, .mail, .heldOut, .replicaN, .replicaS, .complexN, .complexS, .out], [(0x10, 0x18, 0x18), (0x10, 0x880,
     0x884), (0x90, 0x18, 0x18), (0x90, 0x100, 0x110)])
  | .takeoverGuardEnd .. =>
    ([.timer, .mesh], [])
  | .tokenAnnounce .. =>
    ([.staleMid, .tiles, .sram, .sramPoison, .mesh, .rowBus, .scaleBus, .range, .packed, .bindings, .handles, .versions,
     .rallies, .deferred, .ws, .mail, .ring, .qps, .heldOut, .out], [(0x0, 0x18, 0x18), (0x0, 0x2c, 0x2c), (0x10,
     0x880, 0x880), (0x20, 0x15c, 0x15c), (0x20, 0x358, 0x358), (0x20, 0x408, 0x408), (0x20, 0x410, 0x420), (0x40,
     0x130, 0x130), (0x70, 0x10c, 0x10c), (0x71, 0x11c, 0x11c), (0xb0, 0x124, 0x128)])
  | .yield .. =>
    ([.staleMid, .mail, .heldOut, .replicaN, .replicaS, .complexN, .complexS, .out], [(0x10, 0x18, 0x18), (0x10, 0x2c,
     0x2c), (0x10, 0x880, 0x880), (0x90, 0x108, 0x10c), (0xb0, 0x18, 0x18), (0xb0, 0x110, 0x11c)])
  | .ccHeartbeat .. =>
    ([.complexN, .complexS], [])
  | .peerLost .. =>
    ([.timer, .heldOut, .complexN, .complexS, .out], [(0x10, 0x18, 0x18), (0x10, 0x894, 0x894)])
  | .ccWatchdogExpire .. | .halfFence .. =>
    ([.causes, .tiles, .mesh, .range, .zip, .reqs, .ws, .mail, .heldOut, .replicaN, .replicaS, .complexN, .complexS,
     .out], [(0x0, 0x14, 0x18), (0x0, 0x28, 0x28), (0x10, 0x880, 0x880), (0x20, 0x104, 0x104), (0x20, 0x204, 0x204),
     (0x30, 0x120, 0x134), (0x30, 0x13c, 0x13c), (0x30, 0x144, 0x144), (0x40, 0x130, 0x13c), (0x40, 0x204, 0x224),
     (0x90, 0x108, 0x10c)])
  | .halfReturn .. =>
    ([.causes, .tiles, .mail, .heldOut, .complexN, .complexS, .out], [(0x0, 0x14, 0x18), (0x0, 0x28, 0x28), (0x10, 0x880,
     0x884)])
  | .migEngineFence .. =>
    ([.causes, .tiles, .range, .zip, .heldOut, .out], [(0x40, 0x14, 0x18), (0x40, 0x28, 0x28), (0x40, 0x130, 0x13c),
     (0x40, 0x204, 0x224), (0x50, 0x18, 0x18)])
  | .groupFenced .. =>
    ([.causes, .heldOut, .out], [(0x80, 0x14, 0x18), (0x80, 0x28, 0x28), (0x80, 0x100, 0x100), (0x80, 0x10c, 0x10c)])
  | .bridgeRetrain .. =>
    ([.causes, .heldOut, .out], [(0x80, 0x14, 0x18), (0x80, 0x28, 0x28), (0x80, 0x100, 0x104)])
  | .leaderless .. =>
    ([.timer, .mail, .heldOut, .out], [(0x10, 0x18, 0x18), (0x10, 0x880, 0x880), (0x90, 0x18, 0x18), (0x90, 0x100,
     0x100)])
  | .fwUpdate .. =>
    ([.mail, .heldOut, .update, .out], [(0x10, 0x18, 0x18), (0x10, 0x88c, 0x88c)])
  | .fwUpdateStepEnd .. =>
    ([.ws, .mail, .heldOut, .replicaN, .replicaS, .complexN, .complexS, .update, .boot, .out], [(0x10, 0x18, 0x18),
     (0x10, 0x880, 0x880), (0x10, 0x88c, 0x890), (0x90, 0x108, 0x10c), (0xb0, 0x124, 0x128)])
  | .fwFailed .. =>
    ([.mail, .heldOut, .complexN, .complexS, .update, .boot, .out], [(0x10, 0x18, 0x18), (0x10, 0x880, 0x880), (0x10,
     0x88c, 0x890)])
  | .sagWarn .. =>
    ([.heldOut, .out], [(0xa0, 0x18, 0x18), (0xa0, 0x144, 0x144), (0xa0, 0x700, 0x708)])
  | .sagClear .. =>
    ([.heldOut, .out], [(0xa0, 0x18, 0x18), (0xa0, 0x144, 0x144), (0xa0, 0x700, 0x700)])
  | .sagReset .. | .externalReset .. | .bothCcLostReset .. | .thermalTrip .. =>
    (but [.fuses, .timer, .timerFrac, .releasedAt, .out, .pending], [])
  | .railLoss .. | .powerOnReset .. =>
    (but [.fuses, .out, .pending], [])
  | .sagMinClr .. =>
    ([.staleMid, .heldOut, .out], [(0x10, 0x880, 0x880), (0xa0, 0x18, 0x18), (0xa0, 0x2c, 0x2c), (0xa0, 0x704, 0x704),
     (0xb0, 0x18, 0x18), (0xb0, 0x110, 0x11c)])
  | .pfVoteWrite .. =>
    ([.staleMid, .votes, .heldOut, .out], [(0x10, 0x880, 0x880), (0xa0, 0x18, 0x18), (0xa0, 0x2c, 0x2c), (0xb0, 0x18,
     0x18), (0xb0, 0x110, 0x11c)])
  | .pwrCmdOff .. =>
    ([.staleMid, .heldOut, .record, .out], [(0x10, 0x880, 0x880), (0xa0, 0x18, 0x18), (0xa0, 0x2c, 0x2c), (0xa0, 0x120,
     0x124), (0xb0, 0x18, 0x18), (0xb0, 0x110, 0x11c)])
  | .pwrCmdInvalid .. =>
    ([.staleMid, .heldOut, .out], [(0x10, 0x880, 0x880), (0xa0, 0x18, 0x18), (0xa0, 0x2c, 0x2c), (0xa0, 0x120, 0x124),
     (0xb0, 0x18, 0x18), (0xb0, 0x110, 0x11c)])
  | .tileIdleEntry .. | .boostChange .. =>
    ([.tiles], [])
  | .halfDwellExpire .. =>
    ([.timer, .range, .powerN, .powerS], [(0x40, 0x110, 0x110), (0xa0, 0x108, 0x108)])
  | .levelEntryComplete .. =>
    ([.tiles, .mail, .powerN, .powerS, .heldOut, .out], [(0x20, 0x320, 0x320), (0xa0, 0x18, 0x18)])
  | .wake .. =>
    ([.pins, .phase, .tiles, .mail, .powerN, .powerS, .heldOut, .out], [(0xa0, 0x18, 0x18), (0xa1, 0x18, 0x18), (0xa1,
     0x100, 0x108), (0xa1, 0x11c, 0x11c)])
  | .levelExitComplete .. =>
    ([.tiles, .mesh, .rowBus, .scaleBus, .range, .mail, .powerN, .powerS, .heldOut, .out], [(0x20, 0x18, 0x18), (0x20,
     0x15c, 0x15c), (0x20, 0x320, 0x320), (0x20, 0x410, 0x420), (0x40, 0x130, 0x130), (0xa0, 0x18, 0x18)])
  | .wakeAtReached .. =>
    ([.pins, .phase, .timer, .tiles, .mail, .powerN, .powerS, .heldOut, .out], [(0xa0, 0x18, 0x18), (0xa1, 0x18, 0x18),
     (0xa1, 0x100, 0x108), (0xa1, 0x11c, 0x11c)])
  | .powerSample .. =>
    ([.samples, .lowSamples, .heldOut, .out], [(0xa0, 0x18, 0x18), (0xa0, 0x144, 0x148)])
  | .thermalSensorReading .. =>
    ([.tiles, .heldOut, .sensors, .out], [(0x20, 0x18, 0x18), (0x20, 0x104, 0x104), (0x20, 0x160, 0x160), (0xa0, 0x18,
     0x18), (0xa0, 0x144, 0x148), (0xa2, 0x18, 0x18), (0xa2, 0x108, 0x108), (0xa2, 0x110, 0x114)])
  | .thmMaxClr .. =>
    ([.staleMid, .heldOut, .out], [(0x10, 0x880, 0x880), (0xa2, 0x18, 0x18), (0xa2, 0x2c, 0x2c), (0xa2, 0x108, 0x108),
     (0xb0, 0x18, 0x18), (0xb0, 0x110, 0x11c)])
  | .stateSave .. =>
    (but [.fuses, .timer, .timerFrac, .replicaN, .replicaS, .boot, .releasedAt, .sensors, .record, .out, .pending], [])
  | .stateRestore .. =>
    ([.regs, .votes, .boot, .save], [])
  | .resetRelease .. =>
    ([.pins, .phase, .releasedAt], [])
  | .startUpSequence .. =>
    ([.phase, .timer, .regs, .causes, .tiles, .sram, .sramPoison, .mesh, .rowBus, .scaleBus, .range, .zip, .packed,
     .bindings, .reqs, .handles, .versions, .rallies, .deferred, .ws, .mail, .votes, .ring, .qps, .heldOut,
     .replicaN, .replicaS, .complexN, .complexS, .boot, .restores, .save, .record, .out], [])
  | .boardMemoryTraining .. =>
    ([.causes, .heldOut, .out], [(0x48, 0x14, 0x18), (0x48, 0x28, 0x28), (0x48, 0x100, 0x108), (0x48, 0x114, 0x114)])
  | .firstLease .. =>
    ([.tiles, .sram, .sramPoison, .mesh, .rowBus, .scaleBus, .range, .packed, .bindings, .handles, .versions, .rallies,
     .deferred, .ws, .mail, .ring, .qps, .heldOut, .replicaN, .replicaS, .complexN, .complexS, .out], [(0x10, 0x18,
     0x18), (0x10, 0x880, 0x884), (0x20, 0x18, 0x18), (0x20, 0x15c, 0x15c), (0x20, 0x358, 0x358), (0x20, 0x408,
     0x408), (0x20, 0x410, 0x420), (0x40, 0x130, 0x130), (0x70, 0x18, 0x18), (0x70, 0x10c, 0x10c), (0x71, 0x18,
     0x18), (0x71, 0x11c, 0x11c), (0x90, 0x18, 0x18), (0x90, 0x100, 0x110), (0xb0, 0x124, 0x128)])
  | .firstLeaseFallback .. =>
    ([.timer, .tiles, .sram, .sramPoison, .mesh, .rowBus, .scaleBus, .range, .packed, .bindings, .handles, .versions,
     .rallies, .deferred, .ws, .mail, .ring, .qps, .heldOut, .replicaN, .replicaS, .complexN, .complexS, .out],
     [(0x10, 0x18, 0x18), (0x10, 0x880, 0x884), (0x20, 0x18, 0x18), (0x20, 0x15c, 0x15c), (0x20, 0x358, 0x358),
     (0x20, 0x408, 0x408), (0x20, 0x410, 0x420), (0x40, 0x130, 0x130), (0x70, 0x18, 0x18), (0x70, 0x10c, 0x10c),
     (0x71, 0x18, 0x18), (0x71, 0x11c, 0x11c), (0x90, 0x18, 0x18), (0x90, 0x100, 0x110), (0xb0, 0x124, 0x128)])
  | .versionRestore .. =>
    ([.tiles, .sram, .sramPoison, .mesh, .rowBus, .scaleBus, .range, .packed, .bindings, .reqs, .chans, .handles,
     .versions, .rallies, .ws, .heldOut, .restores, .out], [(0x10, 0x18, 0x18), (0x20, 0x18, 0x18), (0x20, 0x15c,
     0x15c), (0x20, 0x358, 0x358), (0x20, 0x408, 0x408), (0x20, 0x410, 0x420), (0x40, 0x130, 0x130), (0x50, 0x18,
     0x18), (0x50, 0x128, 0x128), (0x50, 0x168, 0x168), (0x50, 0x178, 0x178), (0xb0, 0x124, 0x128)])
  | .ringSettleTimeout .. =>
    ([.phase, .timer, .heldOut, .out], [(0x1, 0x18, 0x18), (0xb0, 0x600, 0x600), (0xb0, 0x608, 0x608)])
  | .idDone .. =>
    ([.deferred, .ws, .mail, .heldOut, .out], [(0x30, 0x18, 0x18), (0x30, 0x204, 0x208), (0x30, 0x240, 0x258), (0xb1,
     0x100, 0x100)])
  | .debugSessionClose .. =>
    ([], [(0xb1, 0x100, 0x100)])
  | .caParity .. =>
    ([.causes, .parity, .heldOut, .out], [(0x48, 0x14, 0x18), (0x48, 0x28, 0x28), (0x48, 0x10c, 0x10c)])
  | .linkReturnToL0 .. =>
    ([.heldOut, .out], [(0x70, 0x104, 0x104)])
  | .configurationRequest .. =>
    ([.mail, .hostFns], [(0x70, 0x104, 0x104)])

end Sys2Proof.Machine
end

