-- ==== Sys2Proof/Certificates/Slice0/Obligations.lean ====
section
/-! DEFINITION. The statements for the provers: what the commands do, from the numbered rules of the spec. -/

open Sys2Proof Sys2Proof.Machine

/-! ## The block as a whole -/

/-- A step takes the front command of the queue and runs it on the state with the queue's rest. -/
def Obligations.StepTakesFrontCommand : Prop :=
  ∀ (c : Instr) (rest : List Instr) (s : State),
    step { s with pending := c :: rest } = exec c { s with pending := rest }

/-- The model's choice (log entry 3), with R399's rate at OFF: on an empty queue a step is one tick of the device timer, at OFF
one cycle of the 32.768 kHz clock; nothing else changes. -/
def Obligations.IdleStepTicksTimer : Prop :=
  ∀ s : State, s.pending = [] → ∃ t, step s = .next t ∧ Only [.timer, .timerFrac] [] s t ∧
    (s.phase ≠ .off → t.timer = s.timer + 1 ∧ t.timerFrac = s.timerFrac) ∧
    (s.phase = .off → 32768 * t.timer + t.timerFrac = 32768 * s.timer + s.timerFrac + 62500000 ∧ t.timerFrac < 32768)

/-- Every step from every state keeps the canonical form of the register file, of tile SRAM and of the range's bytes and
poison marks. -/
def Obligations.StepKeepsCanonicalForm : Prop :=
  ∀ s t : State, canonical s = true → step s = .next t → canonical t = true

/-- The invariant of StepKeepsCanonicalForm holds right after reset, where every register reads its reset word (R26), the
timer is 0 (R314) and nothing is queued, running, placed or stored. -/
def Obligations.ResetState : Prop :=
  canonical State.reset = true ∧ (∀ a, regWord State.reset a = resetWord a) ∧ State.reset.timer = 0 ∧
    State.reset.pending = [] ∧ State.reset.reqs = [] ∧ State.reset.versions = [] ∧ State.reset.bindings = [] ∧
    State.reset.mesh = [] ∧ State.reset.out = [] ∧ State.reset.phase = .starting

/-- Commands are taken first in, first out: whatever the front command is, a step answers a next state, and its queue is the
rest of the old one. No command changes the fuse map (R46: the FUS page shows the map; nothing programs it). -/
def Obligations.StepTakesCommandsInOrder : Prop :=
  ∀ s : State, ∃ t, step s = .next t ∧ t.pending = s.pending.tail ∧ t.fuses = s.fuses

/-! ## Registers, events, blocks -/

/-- R28 (with R11) and R12: an admitted write of EVT_CLR clears the named events, then those of the same cycle set theirs; an
admitted write of LOCK sets it. The token of a shared unit follows R33; nothing else changes but an interrupt that leaves. -/
def Obligations.EventClearAndLock : Prop :=
  (∀ (w : Wr) (p : Page) (clear setNow : W32) (s : State), notMbx p = true → Admitted w p 0x020 s →
    ∃ t, exec (.evtClrWrite w p clear setNow) s = .next t ∧
      (∀ i, i < 32 → eventSet p i t = (setNow.getLsbD i || (eventSet p i s && !clear.getLsbD i))) ∧
      fget p Reg.EPOCH_TOKEN t = tokenAfter w p s ∧
      Only [.heldOut, .out] [span p 0x018 0x018, span p 0x02C 0x02C] s t) ∧
  (∀ (w : Wr) (p : Page) (s : State), Admitted w p 0x030 s →
    ∃ t, exec (.lockSet w p) s = .next t ∧ locked p t = true ∧ fget p Reg.EPOCH_TOKEN t = tokenAfter w p s ∧
      Only [] [span p 0x02C 0x02C, span p 0x030 0x030] s t)

/-- R31: an admitted write of EN, the end of a start and the end of a stop move a block as the transition table says, and
STATE_CHANGE is raised where the block reaches ON or OFF. -/
def Obligations.BlockStartStop : Prop :=
  (∀ (w : Wr) (p : Page) (en : Bool) (s : State), fixedPage p = false → Admitted w p 0x010 s →
    ∃ t, exec (.enWrite w p en) s = .next t ∧ fget p Reg.BLK_CTRL_EN t = (if en then 1 else 0) ∧
      blk p t = enMove (blk p s) (fenced p s) en ∧ fget p Reg.EPOCH_TOKEN t = tokenAfter w p s ∧
      (plainBlock p = true →
        Only [.mail] [span p 0x010 0x010, span p 0x014 0x014, span p 0x02C 0x02C] s t)) ∧
  (∀ (p : Page) (s : State), fixedPage p = false → notMbx p = true → pageType p ≠ 0x48 → blk p s = .starting →
    ∃ t, exec (.startSequenceComplete p) s = .next t ∧
      blk p t = (if fget p Reg.BLK_CTRL_EN s = 0 ∨ fenced p s = true then .stopping else .on) ∧
      fget p Reg.BLK_CTRL_EN t = fget p Reg.BLK_CTRL_EN s ∧
      (plainBlock p = true → eventSet p 0 t = true ∧
        Only [.tiles, .mail, .heldOut, .out] [span p 0x014 0x014, span p 0x018 0x018] s t)) ∧
  (∀ (p : Page) (s : State), fixedPage p = false → notMbx p = true → (blk p s = .stopping ∨ blk p s = .restartPending) →
    stopHeld p s = false →
    ∃ t, exec (.stopSequenceComplete p) s = .next t ∧ blk p t = stopMove (blk p s) (fenced p s) ∧
      fget p Reg.BLK_CTRL_EN t = fget p Reg.BLK_CTRL_EN s ∧
      (quietStop p = true ∧ plainBlock p = true → eventSet p 0 t = true ∧
        Only [.mail, .heldOut, .out] [span p 0x014 0x014, span p 0x018 0x018] s t))

/-! ## Register writes -/

/-- R29, R30, R13, R26: a write of 8 bytes is two writes of 4 in ascending order; a write of another size, or a misaligned
one, does nothing but raise BAD_ACCESS on its page; a write of a reserved offset of a page has no effect; an admitted write of
EVT_EN stores it. -/
def Obligations.RegisterWriteSizes : Prop :=
  (∀ (w : Wr) (off : BitVec 26) (data : W64) (s : State), off.toNat % 8 = 0 →
    ∃ m t, exec (.registerWrite w off 4 data) s = .next m ∧ exec (.registerWrite w (off + 4) 4 (data >>> 32)) m = .next t ∧
      exec (.registerWrite w off 8 data) s = .next t) ∧
  (∀ (w : Wr) (p : Page) (o : Nat) (off : BitVec 26) (size : Nat) (data : W64) (s : State), off.toNat = regAddr p o →
    o < 0x1000 → notMbx p = true → Reaches w.mid p s → ¬(size = 4 ∧ o % 4 = 0) → ¬(size = 8 ∧ o % 8 = 0) →
    ∃ t, exec (.registerWrite w off size data) s = .next t ∧ eventSet p 5 t = true ∧
      Only [.heldOut, .out] [span p 0x018 0x018] s t) ∧
  (∀ (w : Wr) (p : Page) (o : Nat) (off : BitVec 26) (data : W64) (s : State), off.toNat = regAddr p o →
    o < 0x1000 → o % 4 = 0 → Reaches w.mid p s → reservedOff p o = true →
    exec (.registerWrite w off 4 data) s = .next s) ∧
  (∀ (w : Wr) (p : Page) (off : BitVec 26) (data : W64) (s : State), off.toNat = regAddr p 0x01C → notMbx p = true →
    Admitted w p 0x01C s →
    ∃ t, exec (.registerWrite w off 4 data) s = .next t ∧ fget p Reg.EVT_EN_EN t = data.toNat % 2 ^ 32 ∧
      fget p Reg.EPOCH_TOKEN t = tokenAfter w p s ∧
      Only [.heldOut, .out] [span p 0x01C 0x01C, span p 0x02C 0x02C] s t)

/-- R10, R13: an admitted write of a register of a page whose registers only store takes each field by its access:
a writable field takes the bits written, a write-1-to-clear field loses them, a read-only field keeps its value. -/
def Obligations.RegisterFieldWrite : Prop :=
  ∀ (w : Wr) (p : Page) (f : Field) (i : Nat) (off : BitVec 26) (data : W64) (s : State), storesOnly p = true →
    f ∈ blockFields p → i < f.count → off.toNat = regAddr p (f.off + 4 * i) → Admitted w p (f.off + 4 * i) s →
    (isRwl p (f.off + 4 * i) = true → locked p s = false) →
    ∃ t, exec (.registerWrite w off 4 data) s = .next t ∧
      fgetI p f i t = (match f.acc with
        | .rw | .rwl => bitsOf data.toNat f.lo f.width
        | .w1c => fgetI p f i s &&& (2 ^ f.width - 1 - bitsOf data.toNat f.lo f.width)
        | .w1s => fgetI p f i s ||| bitsOf data.toNat f.lo f.width
        | .ro | .wo => fgetI p f i s) ∧
      fget p Reg.EPOCH_TOKEN t = tokenAfter w p s ∧
      Only [] [span p (f.off + 4 * i) (f.off + 4 * i), span p 0x02C 0x02C] s t

/-- R39, R40, R27, R33, R44: what becomes of a write that is not admitted (LOCK stands for every register): a page out of the
writer's view and a reserved offset are denials of kind 0, the page of an absent unit one of kind 1, a MID that the page does
not admit raises ACCESS_DENIED on it, and a token below the page's raises STALE_EPOCH, is recorded and marks the complex. -/
def Obligations.RefusedWrites : Prop :=
  (∀ (w : Wr) (p : Page) (s : State), served s p = true → sees s w.mid p = false →
    ∃ t, exec (.lockSet w p) s = .next t ∧ DenialTaken w.mid 0 (regAddr p 0x030) s t) ∧
  (∀ (w : Wr) (p : Page) (s : State), Reaches w.mid p s → notMbx p = true → admits s w.mid p 0x030 = false →
    ∃ t, exec (.lockSet w p) s = .next t ∧ eventSet p 4 t = true ∧ Only [.heldOut, .out] [span p 0x018 0x018] s t) ∧
  (∀ (w : Wr) (p : Page) (s : State), Reaches w.mid p s → notMbx p = true → admits s w.mid p 0x030 = true →
    pageShared p = true → isCC w.mid = true → w.token.toNat < fget p Reg.EPOCH_TOKEN s →
    ∃ t, exec (.lockSet w p) s = .next t ∧ eventSet p 2 t = true ∧
      sget none (pageNum p) t.staleMid = some w.mid ∧ fget (.cc (ccHalf w.mid)) Reg.CC_CC_ROLE_STALE t = 1 ∧
      Only [.staleMid, .heldOut, .out] [span p 0x018 0x018, span (.cc (ccHalf w.mid)) 0x880 0x880] s t) ∧
  (∀ (w : Wr) (off : BitVec 26) (data : W32) (s : State), pageAt (off.toNat / 0x1000) = none → served s .sec = true →
    ∃ t, exec (.bar0ReservedWrite w off data) s = .next t ∧ DenialTaken w.mid 0 off.toNat s t) ∧
  (∀ (w : Wr) (off : BitVec 26) (data : W32) (p : Page) (s : State), pageAt (off.toNat / 0x1000) = some p →
    served s p = true → present s p = false → off.toNat % 0x1000 ≠ 0x020 →
    ∃ t, exec (.absentUnitPageWrite w off data) s = .next t ∧ DenialTaken w.mid 1 off.toNat s t)

/-- R35, R36, R324, R347: an entry of a locked table is stored while its page is unlocked, valid where it is written with
VALID 1 and passes its check, and with VALID 0 otherwise, a failed check raising the table's event; the LOCK stops it, and
stops a register of fields that LOCK protects; a table error drops the entry. -/
def Obligations.LockedTables : Prop :=
  (∀ (w : Wr) (m : Fin 64) (data : W64) (s : State), m.val ≠ 63 → Admitted w .sec (0x400 + 8 * m.val) s →
    locked .sec s = false →
    ∃ t, exec (.lockedTableEntryWrite w (.mbt m data)) s = .next t ∧
      mbtEntry t m.val = data.toNat % 2 ^ 54 + (if data.getLsbD 63 = true ∧ mbtOk data = true then 2 ^ 63 else 0) ∧
      (data.getLsbD 63 = true → mbtOk data = false → eventSet .sec 8 t = true) ∧
      Only [.heldOut, .out] [span .sec 0x018 0x018, span .sec 0x02C 0x02C,
        span .sec (0x400 + 8 * m.val) (0x404 + 8 * m.val)] s t) ∧
  (∀ (w : Wr) (i : Fin 8) (data : W32) (s : State), Admitted w (.rg 0) (0x400 + 4 * i.val) s → locked (.rg 0) s = false →
    ∃ t, exec (.lockedTableEntryWrite w (.admin i data)) s = .next t ∧
      fgetI (.rg 0) Reg.RG_ADMIN_MID i.val t = data.toNat % 2 ^ 16 ∧
      fgetI (.rg 0) Reg.RG_ADMIN_VALID i.val t = (if data.getLsbD 31 = true ∧ adminOk data = true then 1 else 0) ∧
      (data.getLsbD 31 = true → adminOk data = false → eventSet (.rg 0) 15 t = true) ∧
      Only [.heldOut, .out] [span (.rg 0) 0x018 0x018, span (.rg 0) (0x400 + 4 * i.val) (0x400 + 4 * i.val)] s t) ∧
  (∀ (w : Wr) (e : TableEntry) (s : State), Admitted w (entryPlace e).1 (entryPlace e).2.1 s →
    locked (entryPlace e).1 s = true →
    ∃ t, exec (.lockedTableEntryWrite w e) s = .next t ∧ LockStops w.mid (entryPlace e).1 (entryPlace e).2.1 (entryPlace e).2.2 s t) ∧
  (∀ (w : Wr) (p : Page) (o : Nat) (off : BitVec 26) (data : W64) (s : State), storesOnly p = true → off.toNat = regAddr p o →
    0x100 ≤ o → o < 0x1000 → o % 4 = 0 → isRwl p o = true → Admitted w p o s → locked p s = true →
    ∃ t, exec (.registerWrite w off 4 data) s = .next t ∧ LockStops w.mid p o (BitVec.ofNat 32 data.toNat) s t) ∧
  (∀ (m : Fin 64) (data : W64) (s : State), m.val ≠ 63 →
    ∃ t, exec (.tableError (.mbt m data)) s = .next t ∧ mbtValid t m.val = false ∧ eventSet .sec 6 t = true ∧
      Only [.heldOut, .out] [span .sec 0x018 0x018, span .sec (0x400 + 8 * m.val) (0x404 + 8 * m.val)] s t) ∧
  (∀ (i : Fin 8) (data : W32) (s : State),
    ∃ t, exec (.tableError (.admin i data)) s = .next t ∧ fgetI (.rg 0) Reg.RG_ADMIN_VALID i.val t = 0 ∧
      eventSet (.rg 0) 6 t = true ∧
      Only [.heldOut, .out] [span (.rg 0) 0x018 0x018, span (.rg 0) (0x400 + 4 * i.val) (0x400 + 4 * i.val)] s t)

/-! ## Fences, latched counters, BAR2, debug sessions -/

/-- R26, R31, R438 (with R129, R313, R366 to R371 for what the unit does): an admitted FENCE.REQ fences the unit. The first
fence sets CAUSE 2, counts, raises FENCED and lets a unit at ON begin to stop; a further one leaves CAUSE, COUNT and the
block's state and keeps its cause. Fencing the bridge fences both its ends with both groups, CAUSE 7. -/
def Obligations.FenceRequest : Prop :=
  (∀ (w : Wr) (p : Page) (s : State), fixedPage p = false → isBridge p = false → Admitted w p 0x028 s →
    reqAdmitted w.mid p s = true →
    ∃ t, exec (.fenceReq w p) s = .next t ∧ fenced p t = true ∧ fget p Reg.BLK_CTRL_EN t = fget p Reg.BLK_CTRL_EN s ∧
      fget p Reg.EPOCH_TOKEN t = tokenAfter w p s ∧
      (fenced p s = true → fget p Reg.FENCE_CAUSE t = fget p Reg.FENCE_CAUSE s ∧
        fget p Reg.FENCE_COUNT t = fget p Reg.FENCE_COUNT s ∧ blk p t = blk p s ∧
        causesOf p t = causesOf p s ++ [(2, false)] ∧
        (storePage p = false → Only [.causes, .mail] [span p 0x02C 0x02C] s t)) ∧
      (fenced p s = false → fget p Reg.FENCE_CAUSE t = 2 ∧ fget p Reg.FENCE_COUNT t = min (fget p Reg.FENCE_COUNT s + 1) 255 ∧
        blk p t = (if blk p s = .on then .stopping else blk p s) ∧ (notMbx p = true → workPage p = false → eventSet p 1 t = true)) ∧
      (plainFence p = true → Only [.causes, .mail, .heldOut, .out]
        [span p 0x014 0x014, span p 0x018 0x018, span p 0x028 0x028, span p 0x02C 0x02C] s t)) ∧
  (∀ (w : Wr) (h : Half) (s : State), Admitted w (.d2d h) 0x028 s →
    ∃ t, exec (.fenceReq w (.d2d h)) s = .next t ∧
      ∀ k : Half, fenced (.d2d k) t = true ∧ fget (.d2d k) Reg.FENCE_CAUSE t = 7 ∧
        fget (.d2d k) Reg.D2D_D2D_STAT_GROUP_FENCED t = 3 ∧ fget (.d2d k) Reg.D2D_D2D_STAT_GROUP_UP t = 0)

/-- R26, R438 (with R129, R281, R313, R366, R371, R372 for the repair path): an admitted FENCE.RELEASE ends a fence whose
repair path, and that of every cause kept, has completed: FENCED and CAUSE clear, and a unit at OFF with EN = 1 starts;
otherwise FENCED stays 1. On a control complex's page it starts the return of the half; the bridge's groups retrain. -/
def Obligations.FenceReleased : Prop :=
  (∀ (w : Wr) (p : Page) (fails : List (Page × Fin 6)) (s : State), isBridge p = false → isComplex p = false →
    Admitted w p 0x028 s → releaseAdmitted w.mid p s = true → fenced p s = true →
    ∃ t, exec (.fenceRelease w p fails) s = .next t ∧ fget p Reg.FENCE_COUNT t = fget p Reg.FENCE_COUNT s ∧
      fget p Reg.EPOCH_TOKEN t = tokenAfter w p s ∧
      (repairClean (fails.map fun x => x.1) p s = true → (∀ c ∈ causesOf p s, c.1 = 3 → c.2 = true) →
        fenced p t = false ∧ fget p Reg.FENCE_CAUSE t = 0 ∧ causesOf p t = [] ∧
        blk p t = (if blk p s = .off ∧ fget p Reg.BLK_CTRL_EN s = 1 then .starting else blk p s)) ∧
      ((repairClean (fails.map fun x => x.1) p s = false ∨ ∃ c ∈ causesOf p s, c.1 = 3 ∧ c.2 = false) →
        fenced p t = true ∧ fget p Reg.FENCE_CAUSE t = fget p Reg.FENCE_CAUSE s ∧ blk p t = blk p s) ∧
      (plainFence p = true → Only [.causes, .mail, .heldOut, .out]
        [span p 0x014 0x014, span p 0x018 0x018, span p 0x028 0x028, span p 0x02C 0x02C] s t)) ∧
  (∀ (w : Wr) (h : Half) (fails : List (Page × Fin 6)) (s : State), Admitted w (.cc h) 0x028 s → fenced (.cc h) s = true →
    ∃ t, exec (.fenceRelease w (.cc h) fails) s = .next t ∧ (complex h t).returning = true ∧ fenced (.cc h) t = true ∧
      Only [.complexN, .complexS, .mail] [span (.cc h) 0x02C 0x02C] s t) ∧
  (∀ (w : Wr) (h : Half) (fails : List (Page × Fin 6)) (s : State), Admitted w (.d2d h) 0x028 s → fenced (.d2d h) s = true →
    (∀ k, (fails.map fun x => x.1).contains (.d2d k) = false) →
    ∃ t, exec (.fenceRelease w (.d2d h) fails) s = .next t ∧
      ∀ k : Half, fenced (.d2d k) t = false ∧ fget (.d2d k) Reg.D2D_D2D_STAT_GROUP_FENCED t = 0 ∧
        fget (.d2d k) Reg.D2D_D2D_STAT_GROUP_UP t = 3)

/-- R75 (and R162, R314, R379, R405 which follow it): a read of the low word of a 64-bit counter returns it and latches the
high word; the next read of the high word returns the latched word and ends the latch. -/
def Obligations.CounterLatch : Prop :=
  ∀ (mid : W16) (p : Page) (o : Nat) (lo hi : BitVec 26) (s : State), latchPair p o = true → lo.toNat = regAddr p o →
    hi.toNat = regAddr p (o + 4) → served s p = true → sees s mid p = true →
    ∃ t u, exec (.counterLatchRead mid lo) s = .next t ∧ exec (.counterLatchRead mid hi) t = .next u ∧
      t.out = s.out ++ [.readData mid lo.toNat ((sget none lo.toNat s.latched).getD (readValue mid p o s))] ∧
      u.out = t.out ++ [.readData mid hi.toNat (readValue mid p (o + 4) s)] ∧
      sget none hi.toNat t.latched = some (readValue mid p (o + 4) s) ∧ sget none hi.toNat u.latched = none ∧
      Only [.latched, .out] [] s t ∧ Only [.latched, .out] [] t u

/-- R41, R261, R276, R277, R369: an access through BAR2 reaches BAR2_BASE + offset. One that a page it touches does not
admit ends as Completer Abort with ACCESS_DENIED on the host port's page; a read returns the bytes, those of poisoned
granules as zeros, with POISON_OUT; a write of a page homed in a fenced unit is discarded and recorded on the SEC page; any
other write stores its bytes, and nothing outside them. -/
def Obligations.Bar2Access : Prop :=
  (∀ (mid : W16) (off : BitVec 36) (len : Nat) (err : Option ReadError) (s : State), bar2Reaches mid s = true →
    hostMay mid false (bar2Addr mid off s) len s = false →
    ∃ t, exec (.bar2Read mid off len err) s = .next t ∧ eventSet (.hp (Fin.ofNat 2 (midPort mid))) 4 t = true ∧
      t.out.getLast? = some (.completerAbort mid (bar2Addr mid off s)) ∧ t.range = s.range) ∧
  (∀ (mid : W16) (off : BitVec 36) (len : Nat) (s : State), bar2Reaches mid s = true →
    hostMay mid false (bar2Addr mid off s) len s = true → rangePoison (bar2Addr mid off s) len s = false →
    ∃ t, exec (.bar2Read mid off len none) s = .next t ∧ Only [.out] [] s t ∧
      t.out = s.out ++ [.bar2Data mid (bar2Addr mid off s) (sentBytes (bar2Addr mid off s) len s) false]) ∧
  (∀ (mid : W16) (off : BitVec 36) (len : Nat) (s : State), bar2Reaches mid s = true →
    hostMay mid false (bar2Addr mid off s) len s = true → rangePoison (bar2Addr mid off s) len s = true →
    ∃ t, exec (.bar2Read mid off len none) s = .next t ∧ eventSet (.hp (Fin.ofNat 2 (midPort mid))) 8 t = true ∧
      Out.bar2Data mid (bar2Addr mid off s) (sentBytes (bar2Addr mid off s) len s) true ∈ t.out ∧ t.range = s.range) ∧
  (∀ (mid : W16) (off : BitVec 36) (bytes : List Byte) (poison : Bool) (s : State), bar2Reaches mid s = true →
    hostMay mid true (bar2Addr mid off s) bytes.length s = false →
    ∃ t, exec (.bar2Write mid off bytes poison) s = .next t ∧ eventSet (.hp (Fin.ofNat 2 (midPort mid))) 4 t = true ∧
      t.out.getLast? = some (.completerAbort mid (bar2Addr mid off s)) ∧ t.range = s.range) ∧
  (∀ (mid : W16) (off : BitVec 36) (bytes : List Byte) (poison : Bool) (s : State), bar2Reaches mid s = true →
    hostMay mid true (bar2Addr mid off s) bytes.length s = true →
    (spanPages (bar2Addr mid off s) bytes.length).any (fun q => homeFenced (homeOf q s) s) = true →
    ∃ t, exec (.bar2Write mid off bytes poison) s = .next t ∧ eventSet .sec 9 t = true ∧ eventSet .sec 4 t = true ∧
      eventSet (.hp (Fin.ofNat 2 (midPort mid))) 4 t = true ∧ t.range = s.range ∧
      (fget .sec Reg.SEC_AD_REC_MID_VALID s = 0 → fget .sec Reg.SEC_AD_REC_MID_MID t = mid.toNat ∧
        fget .sec Reg.SEC_AD_REC_MID_KIND t = 2)) ∧
  (∀ (mid : W16) (off : BitVec 36) (bytes : List Byte) (poison : Bool) (s : State), bar2Reaches mid s = true →
    hostMay mid true (bar2Addr mid off s) bytes.length s = true →
    (spanPages (bar2Addr mid off s) bytes.length).any (fun q => homeFenced (homeOf q s) s) = false →
    ∃ t, exec (.bar2Write mid off bytes poison) s = .next t ∧
      rangeBytes (bar2Addr mid off s) bytes.length t = bytes ∧
      (∀ a, (a < bar2Addr mid off s ∨ bar2Addr mid off s + bytes.length ≤ a) → rangeBytes a 1 t = rangeBytes a 1 s) ∧
      (poison = true → bytes ≠ [] → rangePoison (bar2Addr mid off s) bytes.length t = true) ∧
      t.range.homes = s.range.homes ∧ Only [.range] [(0x40, 0x130, 0x130)] s t)

/-- R45, R423: a session that opens on the debug pins while DEBUG_LOCK is 0 sets SESSION, counts (saturating) and raises
SESSION's event; its close clears SESSION. -/
def Obligations.DebugSessions : Prop :=
  (∀ s : State, debugLock s = false → s.phase ≠ .off → fget .dbg Reg.DBG_DBG_STAT_SESSION s = 0 →
    ∃ t, exec .debugSessionOpen s = .next t ∧ fget .dbg Reg.DBG_DBG_STAT_SESSION t = 1 ∧
      fget .dbg Reg.DBG_DBG_SESS_CNT_COUNT t = min (fget .dbg Reg.DBG_DBG_SESS_CNT_COUNT s + 1) 65535 ∧
      eventSet .dbg 8 t = true ∧
      Only [.heldOut, .out] [span .dbg 0x018 0x018, span .dbg 0x100 0x100, span .dbg 0x10C 0x10C] s t) ∧
  (∀ s : State, ∃ t, exec .debugSessionClose s = .next t ∧ fget .dbg Reg.DBG_DBG_STAT_SESSION t = 0 ∧
    fget .dbg Reg.DBG_DBG_STAT_DEBUG_LOCK t = fget .dbg Reg.DBG_DBG_STAT_DEBUG_LOCK s ∧ Only [] [span .dbg 0x100 0x100] s t)

/-! ## The frame of every command -/

/-- Every command answers a next state, which differs from the state before only in the parts and the registers that
`frameOf` names for that command, and keeps the canonical form of memory and registers. -/
def Obligations.FrameOfEveryCommand : Prop :=
  ∀ (c : Instr) (s : State), ∃ t, exec c s = .next t ∧ Only (frameOf c).1 (frameOf c).2 s t

/-! ## Bank writes and the frames of the refill buses -/

/-- R61, R62: an admitted write of BANK_WR_CMD with GO = 1 is refused with the lowest REASON of the table whose condition
holds; otherwise the bank takes the tag of BANK_WR_TAG and the configuration, its records clear, and it is WRITE_HELD while a
task uses it, WRITING otherwise; the tile's other bank keeps its rows. -/
def Obligations.BankWrites : Prop :=
  (∀ (w : Wr) (tile : Fin 1056) (data : W32) (s : State) (i : Nat), Admitted w (.tile tile) 0x134 s → data.getLsbD 31 = true →
    (bankRefusals tile.val (data.getLsbD 0) (fget (.tile tile) Reg.TILE_BANK_WR_TAG_WSET s)
      (fget (.tile tile) Reg.TILE_BANK_WR_TAG_MEPOCH s) (bitsOf data.toNat 8 8) s).findIdx? id = some i →
    ∃ t, exec (.bankWriteCommand w tile data) s = .next t ∧ WriteRejected tile.val (i + 1) w.mid s t ∧
      Only [.heldOut, .out] [span (.tile tile) 0x018 0x018, span (.tile tile) 0x02C 0x02C, span (.tile tile) 0x134 0x138] s t) ∧
  (∀ (w : Wr) (tile : Fin 1056) (data : W32) (s : State), Admitted w (.tile tile) 0x134 s → data.getLsbD 31 = true →
    (bankRefusals tile.val (data.getLsbD 0) (fget (.tile tile) Reg.TILE_BANK_WR_TAG_WSET s)
      (fget (.tile tile) Reg.TILE_BANK_WR_TAG_MEPOCH s) (bitsOf data.toNat 8 8) s).all not = true →
    ∃ t, exec (.bankWriteCommand w tile data) s = .next t ∧
      (tileOf tile.val t).bank (data.getLsbD 0) =
        { st := if ((tileOf tile.val s).ctxs.any fun c => decide (c.bank = data.getLsbD 0)) = true then .writeHeld else .writing,
          wset := BitVec.ofNat 16 (fget (.tile tile) Reg.TILE_BANK_WR_TAG_WSET s),
          mepoch := BitVec.ofNat 16 (fget (.tile tile) Reg.TILE_BANK_WR_TAG_MEPOCH s),
          wfmt := BitVec.ofNat 2 (bitsOf data.toNat 1 2), fold := BitVec.ofNat 2 (bitsOf data.toNat 3 2),
          rows := bitsOf data.toNat 8 8, tbl := BitVec.ofNat 8 (fget (.tile tile) Reg.TILE_TBL_WR_BASE_BASE s) } ∧
      ((tileOf tile.val t).bank (!data.getLsbD 0)).mem = ((tileOf tile.val s).bank (!data.getLsbD 0)).mem)

/-- R62, R64, R67, R217: a row frame whose logical tile no tile serves is dropped; a row for a bank that is not being written,
or beyond its ROWS, is refused with reason 5 or 6; any other row is stored with its popcount (R57: BI5 forces four columns to
0), counted, its poison counted and first recorded (a row with RESTORE brings none), and the last row makes the bank READY. -/
def Obligations.RowFrames : Prop :=
  (∀ (f : RowFrame) (s : State), serving f.ltile.toNat s = none →
    exec (.refillRowFrame f) s = .next { s with rowBus := s.rowBus.erase f }) ∧
  (∀ (f : RowFrame) (p : Fin 1056) (s : State), frameTiles f.ltile.toNat s = [p.val] →
    ((tileOf p.val s).bank f.bank).st ≠ .writing → (f.restore = true → ((tileOf p.val s).bank f.bank).st ≠ .ready) →
    ∃ t, exec (.refillRowFrame f) s = .next t ∧ WriteRejected p.val 5 f.sender s t) ∧
  (∀ (f : RowFrame) (p : Fin 1056) (s : State), frameTiles f.ltile.toNat s = [p.val] →
    ((tileOf p.val s).bank f.bank).st = .writing → ((tileOf p.val s).bank f.bank).ran = false →
    ((tileOf p.val s).bank f.bank).rows ≤ f.row.val →
    ∃ t, exec (.refillRowFrame f) s = .next t ∧ WriteRejected p.val 6 f.sender s t) ∧
  (∀ (f : RowFrame) (p : Fin 1056) (s : State) (b : Bank), frameTiles f.ltile.toNat s = [p.val] →
    b = (tileOf p.val s).bank f.bank → (b.st = .writing ∨ (f.restore = true ∧ b.st = .ready)) →
    (f.restore = true → b.ran = false) → f.row.val < b.rows → (b.bseq = none ∨ b.bseq = some f.bseq) →
    (tileOf p.val s).repair = none →
    ∃ t k, exec (.refillRowFrame f) s = .next t ∧ k = (tileOf p.val t).bank f.bank ∧
      sget none (f.sub.val * 128 + f.row.val) k.mem = some
        ⟨if b.wfmt = 2 then BitVec.ofNat 1024 (f.data.toNat % 2 ^ 1020) else f.data,
         BitVec.ofNat 11 (popcount 1024 (if b.wfmt = 2 then BitVec.ofNat 1024 (f.data.toNat % 2 ^ 1020) else f.data).toNat),
         f.poison && !f.restore⟩ ∧
      (∀ i, i ≠ f.sub.val * 128 + f.row.val → sget none i k.mem = sget none i b.mem) ∧
      k.poisonRows = (if f.poison = true ∧ f.restore = false then b.poisonRows + 1 else b.poisonRows) ∧
      k.bseq = some f.bseq ∧ k.wset = b.wset ∧ k.mepoch = b.mepoch ∧ k.rows = b.rows ∧
      k.st = (if b.st = .writing ∧ rowsComplete k = true then .ready else b.st) ∧
      (b.st = .writing → rowsComplete k = true → eventSet (tilePage p.val) 11 t = true) ∧
      fget (tilePage p.val) Reg.TILE_ROW_WR_CNT_COUNT t = (fget (tilePage p.val) Reg.TILE_ROW_WR_CNT_COUNT s + 1) % 2 ^ 32)

/-- R88, R211: a scale frame whose logical tile no tile serves is dropped; a bank that takes no scales refuses it with reason 5;
the codes of one whose BSEQ and configuration match the bank's are stored in its bank table; a mismatch marks the bank skewed,
counts and raises SKEW. -/
def Obligations.ScaleFrames : Prop :=
  (∀ (f : ScaleFrame) (s : State), serving f.ltile.toNat s = none →
    exec (.scaleFrame f) s = .next { s with scaleBus := s.scaleBus.erase f }) ∧
  (∀ (f : ScaleFrame) (p : Fin 1056) (s : State) (b : Bank), frameTiles f.ltile.toNat s = [p.val] →
    b = (tileOf p.val s).bank f.bank →
    (¬(b.st = .writing ∨ b.st = .ready) ∨ scalesDone b = true ∨ b.skewed = true) →
    ∃ t, exec (.scaleFrame f) s = .next t ∧ WriteRejected p.val 5 f.sender s t) ∧
  (∀ (f : ScaleFrame) (p : Fin 1056) (s : State) (b : Bank), frameTiles f.ltile.toNat s = [p.val] →
    b = (tileOf p.val s).bank f.bank → (b.st = .writing ∨ b.st = .ready) → scalesDone b = false → b.skewed = false →
    b.bseqOk = true → (b.bseq = none ∨ b.bseq = some (nth 0 f.bytes 0)) → leNat ((f.bytes.drop 4).take 2) = b.wset.toNat →
    (nth 0 f.bytes 1).toNat % 4 = b.wfmt.toNat → (nth 0 f.bytes 1).toNat / 4 % 4 = b.fold.toNat →
    leNat ((f.bytes.drop 2).take 2) = 32 * wfmtOutputs b.wfmt →
    ∃ t, exec (.scaleFrame f) s = .next t ∧
      (tileOf p.val t).bank f.bank = { b with bseq := some (nth 0 f.bytes 0), codes := 32 * wfmtOutputs b.wfmt } ∧
      t.sram = ssetAll 0 (p.val * 65536 + b.tbl.toNat * 256) ((f.bytes.drop 16).take (32 * wfmtOutputs b.wfmt)) s.sram) ∧
  (∀ (f : ScaleFrame) (p : Fin 1056) (s : State) (b : Bank), frameTiles f.ltile.toNat s = [p.val] →
    b = (tileOf p.val s).bank f.bank → (b.st = .writing ∨ b.st = .ready) → scalesDone b = false → b.skewed = false →
    leNat ((f.bytes.drop 4).take 2) ≠ b.wset.toNat →
    ∃ t, exec (.scaleFrame f) s = .next t ∧ ((tileOf p.val t).bank f.bank).skewed = true ∧
      ((tileOf p.val t).bank f.bank).zpcValid = false ∧ eventSet (tilePage p.val) 16 t = true ∧ t.sram = s.sram ∧
      fget (tilePage p.val) Reg.TILE_SKEW_CNT_COUNT t = min (fget (tilePage p.val) Reg.TILE_SKEW_CNT_COUNT s + 1) 65535)

/-! ## Passes, refresh, calibration -/

/-- R52, R54, R58, R69: at a pass slot above 84.0 °C the tile raises THERM_HOLD, counts, and issues no pass; in a tile that
is not held, the running task's next pass starts on its subarray (plane and row group by the pass order), or, where its input
plane is zero on every enabled row and SKIP_EN = 1, is skipped and counted. -/
def Obligations.PassStarts : Prop :=
  (∀ (tile : Fin 1056) (sub : Fin 8) (s : State), (tileOf tile.val s).thermHold = false →
    840 < (sensorOf (regionOf tile.val) s).temp →
    ∃ t, exec (.passStart tile sub) s = .next t ∧ eventSet (.tile tile) 13 t = true ∧
      fget (.tile tile) Reg.TILE_ARRAY_STAT_THERM_HOLD t = 1 ∧
      fget (.tile tile) Reg.TILE_THERM_HOLD_CNT_COUNT t = min (fget (.tile tile) Reg.TILE_THERM_HOLD_CNT_COUNT s + 1) 65535 ∧
      (tileOf tile.val t).thermHold = true ∧ (tileOf tile.val t).subs = (tileOf tile.val s).subs ∧
      (tileOf tile.val t).ctxs = (tileOf tile.val s).ctxs) ∧
  (∀ (tile : Fin 1056) (sub : Fin 8) (s : State) (a : Nat) (c : Ctx) (u : Sub), (tileOf tile.val s).thermHold = false →
    (sensorOf (regionOf tile.val) s).temp ≤ 840 → (tileOf tile.val s).cur = some a → ctxOf (tileOf tile.val s) a = some c →
    u = (tileOf tile.val s).sub (8 * bankNum c.bank + sub.val) → u.pass = none → u.calRun = none →
    (u.calDue = true → u.calHard = false) → c.finished = false → c.held = none → nth 0 c.pos sub.val < 4 * c.vin.planes →
    c.vin.poisonGroups.contains (sub.val % foldSubs ((tileOf tile.val s).bank c.bank).fold * 4 +
      nth 0 c.pos sub.val / max 1 c.vin.planes) = false →
    (driven ((tileOf tile.val s).bank c.bank) c.vin sub.val (nth 0 c.pos sub.val / max 1 c.vin.planes)
        (nth 0 c.pos sub.val % max 1 c.vin.planes) ≠ [] ∨ fget (.tile tile) Reg.TILE_ARRAY_CFG_SKIP_EN s = 0 →
      ∃ t, exec (.passStart tile sub) s = .next t ∧
        (tileOf tile.val t).sub (8 * bankNum c.bank + sub.val) = { u with
          pass := some ⟨c.age, nth 0 c.pos sub.val / max 1 c.vin.planes, nth 0 c.pos sub.val % max 1 c.vin.planes, false⟩ } ∧
        (∀ i, i ≠ 8 * bankNum c.bank + sub.val → (tileOf tile.val t).sub i = (tileOf tile.val s).sub i) ∧
        Only [.tiles] [span (.tile tile) 0x104 0x104] s t) ∧
    (driven ((tileOf tile.val s).bank c.bank) c.vin sub.val (nth 0 c.pos sub.val / max 1 c.vin.planes)
        (nth 0 c.pos sub.val % max 1 c.vin.planes) = [] → fget (.tile tile) Reg.TILE_ARRAY_CFG_SKIP_EN s = 1 →
      ∃ t, exec (.passStart tile sub) s = .next t ∧ (tileOf tile.val t).subs = (tileOf tile.val s).subs ∧
        wideGet (.tile tile) Reg.TILE_SKIP_CNT_LO_COUNT Reg.TILE_SKIP_CNT_HI_COUNT t =
          (wideGet (.tile tile) Reg.TILE_SKIP_CNT_LO_COUNT Reg.TILE_SKIP_CNT_HI_COUNT s + 1) % 2 ^ 64 ∧
        Only [.tiles] [span (.tile tile) 0x148 0x14C] s t))

/-- R111, R113, R114, R118: a pass whose counts and checksums agree counts in PASS_CNT and moves its subarray on; the first
time they do not, the pass is issued again; a repeated pass that does not agree is a persistent mismatch: CSUM_PERSIST counts,
its event is raised, and the bank is fenced under REPAIR_HOLD. A subarray with no pass in flight is left as it is. -/
def Obligations.PassEnds : Prop :=
  (∀ (tile : Fin 1056) (sub : Fin 8) (errs : List (Nat × Nat)) (s : State),
    ((tileOf tile.val s).sub sub.val).pass = none → ((tileOf tile.val s).sub (8 + sub.val)).pass = none →
    exec (.passEnd tile sub errs) s = .next s) ∧
  (∀ (tile : Fin 1056) (sub : Fin 8) (errs : List (Nat × Nat)) (s : State) (bank : Bool) (q : Pass) (c : Ctx) (b : Bank)
      (rows : List Nat),
    b = (tileOf tile.val s).bank bank → ((tileOf tile.val s).sub (8 * bankNum bank + sub.val)).pass = some q →
    (bank = true → ((tileOf tile.val s).sub sub.val).pass = none) → ctxOf (tileOf tile.val s) q.age = some c →
    rows = driven b c.vin sub.val q.group q.plane →
    (passDelta b sub.val q.group rows errs = 0 → refMismatch b sub.val q.group rows errs = false → outOfRange errs = 0 →
      q.retry = false →
      ∃ t, exec (.passEnd tile sub errs) s = .next t ∧
        ((tileOf tile.val t).sub (8 * bankNum bank + sub.val)).pass = none ∧
        wideGet (.tile tile) Reg.TILE_PASS_CNT_LO_COUNT Reg.TILE_PASS_CNT_HI_COUNT t =
          (wideGet (.tile tile) Reg.TILE_PASS_CNT_LO_COUNT Reg.TILE_PASS_CNT_HI_COUNT s + 1) % 2 ^ 64 ∧
        (consumesPoison b sub.val q.group rows = true → eventSet (.tile tile) 12 t = true) ∧
        (tileOf tile.val t).ctxs.length = (tileOf tile.val s).ctxs.length) ∧
    (passDelta b sub.val q.group rows errs ≠ 0 ∨ refMismatch b sub.val q.group rows errs = true → q.retry = false →
      ∃ t, exec (.passEnd tile sub errs) s = .next t ∧
        ((tileOf tile.val t).sub (8 * bankNum bank + sub.val)).pass = some { q with retry := true } ∧
        fget (.tile tile) Reg.TILE_CSUM_REC_VALID t = 1 ∧ (tileOf tile.val t).ctxs = (tileOf tile.val s).ctxs) ∧
    (passDelta b sub.val q.group rows errs ≠ 0 ∨ refMismatch b sub.val q.group rows errs = true → q.retry = true →
      isPrimary tile.val s = false → recentRepairs (tileOf tile.val s) s < 2 →
      ∃ t, exec (.passEnd tile sub errs) s = .next t ∧ eventSet (.tile tile) 21 t = true ∧
        fget (.tile tile) Reg.TILE_CSUM_PERSIST_CNT_COUNT t = min (fget (.tile tile) Reg.TILE_CSUM_PERSIST_CNT_COUNT s + 1) 65535 ∧
        ((tileOf tile.val t).bank bank).st = .fenced ∧ ((tileOf tile.val t).bank bank).hold = true))

/-- R119, R120, R121: a refresh slot restores the subarray's next row; while a row arrives for its WRITING bank it is deferred,
256 times at most, after which the refresh takes the slot; a tile whose arrays are not kept has none. A sweep that is late
counts, raises REFRESH_LATE and begins anew; one that is late on an EMPTY bank fences no bank. -/
def Obligations.Refreshes : Prop :=
  (∀ (tile : Fin 1056) (i : Fin 16) (r : Bool) (s : State), arraysKept (tileOf tile.val s) = false →
    exec (.refreshSlot tile i r) s = .next s) ∧
  (∀ (tile : Fin 1056) (i : Fin 16) (r : Bool) (s : State), arraysKept (tileOf tile.val s) = true →
    (r = false ∨ ((tileOf tile.val s).bank (decide (8 ≤ i.val))).st ≠ .writing ∨ 256 ≤ ((tileOf tile.val s).sub i.val).defer) →
    ∃ t, exec (.refreshSlot tile i r) s = .next t ∧
      ((tileOf tile.val t).sub i.val).refRow = (((tileOf tile.val s).sub i.val).refRow + 1) % 128 ∧
      ((tileOf tile.val t).sub i.val).defer = 0 ∧ Only [.tiles] [span (.tile tile) 0x320 0x320] s t) ∧
  (∀ (tile : Fin 1056) (i : Fin 16) (s : State), arraysKept (tileOf tile.val s) = true →
    ((tileOf tile.val s).bank (decide (8 ≤ i.val))).st = .writing → ((tileOf tile.val s).sub i.val).defer < 256 →
    ∃ t, exec (.refreshSlot tile i true) s = .next t ∧
      (tileOf tile.val t).sub i.val = { (tileOf tile.val s).sub i.val with defer := ((tileOf tile.val s).sub i.val).defer + 1 } ∧
      fget (.tile tile) Reg.TILE_REF_DEFER_MAX_SLOTS t =
        max (fget (.tile tile) Reg.TILE_REF_DEFER_MAX_SLOTS s) (((tileOf tile.val s).sub i.val).defer + 1) ∧
      Only [.tiles] [span (.tile tile) 0x324 0x324] s t) ∧
  (∀ (tile : Fin 1056) (i : Fin 16) (s : State),
    (((tileOf tile.val s).sub i.val).defer < 256 → exec (.refreshDeferLimit tile i) s = .next s) ∧
    (256 ≤ ((tileOf tile.val s).sub i.val).defer → ∃ t, exec (.refreshDeferLimit tile i) s = .next t ∧
      ((tileOf tile.val t).sub i.val).refRow = (((tileOf tile.val s).sub i.val).refRow + 1) % 128 ∧
      ((tileOf tile.val t).sub i.val).defer = 0 ∧ Only [.tiles] [span (.tile tile) 0x320 0x320] s t)) ∧
  (∀ (tile : Fin 1056) (i : Fin 16) (s : State), ((tileOf tile.val s).sub i.val).refRow ≠ 0 →
    arraysKept (tileOf tile.val s) = true →
    ∃ t, exec (.refreshLate tile i) s = .next t ∧ eventSet (.tile tile) 24 t = true ∧
      fget (.tile tile) Reg.TILE_REF_LATE_CNT_COUNT t = min (fget (.tile tile) Reg.TILE_REF_LATE_CNT_COUNT s + 1) 65535 ∧
      s.timer ≤ t.timer ∧
      ((tileOf tile.val s).lateAt = [] → ((tileOf tile.val s).bank (decide (8 ≤ i.val))).st = .empty →
        ((tileOf tile.val t).sub i.val).refRow = 0 ∧ ∀ b, (tileOf tile.val t).bank b = (tileOf tile.val s).bank b))

/-- R123, R124, R126: a calibration falls due by age or temperature; one that stays due too long raises its event and starts
at the next pass boundary; it starts when its subarray is idle and no other of its bank calibrates; its end records time and
temperature, counts and takes the trims, while a failing converter fences the tile with CAUSE 6. -/
def Obligations.Calibrations : Prop :=
  (∀ (tile : Fin 1056) (i : Fin 16) (s : State),
    ∃ t, exec (.calibrationDue tile i) s = .next t ∧
      (tileOf tile.val t).sub i.val = { (tileOf tile.val s).sub i.val with calDue := true } ∧
      t.timer = (if 32 ≤ ((sensorOf (regionOf tile.val) s).temp - ((tileOf tile.val s).sub i.val).calTemp).natAbs then s.timer
        else max s.timer (((tileOf tile.val s).sub i.val).calAt + ticks 9600)) ∧ Only [.tiles, .timer] [] s t) ∧
  (∀ (tile : Fin 1056) (i : Fin 16) (s : State), ((tileOf tile.val s).sub i.val).calDue = true →
    ((tileOf tile.val s).sub i.val).calRun = none →
    ∃ t, exec (.calDueLate tile i) s = .next t ∧ eventSet (.tile tile) 27 t = true ∧
      (tileOf tile.val t).sub i.val = { (tileOf tile.val s).sub i.val with calHard := true } ∧
      Only [.tiles, .timer, .heldOut, .out] [span (.tile tile) 0x018 0x018] s t) ∧
  (∀ (tile : Fin 1056) (i : Fin 16) (s : State), ((tileOf tile.val s).sub i.val).calDue = true →
    (∀ j, j < 8 → ((tileOf tile.val s).sub (i.val / 8 * 8 + j)).calRun = none) → ((tileOf tile.val s).sub i.val).pass = none →
    arraysKept (tileOf tile.val s) = true →
    (subIdle (tileOf tile.val s) i.val = true ∨ ((tileOf tile.val s).sub i.val).calHard = true) →
    ∃ t, exec (.calibrationStart tile i) s = .next t ∧ ((tileOf tile.val t).sub i.val).calRun = some s.timer ∧
      fget (.tile tile) Reg.TILE_INTEG_STAT_CAL_BUSY t = 1 ∧ fget (.tile tile) Reg.TILE_INTEG_STAT_CAL_SUB t = i.val ∧
      Only [.tiles] [span (.tile tile) 0x300 0x300] s t) ∧
  (∀ (tile : Fin 1056) (i : Fin 16) (r : CalResult) (s : State) (a : Nat), ((tileOf tile.val s).sub i.val).calRun = some a →
    (r.fail = none → ∃ t, exec (.calibrationEnd tile i r) s = .next t ∧
      (tileOf tile.val t).sub i.val = { (tileOf tile.val s).sub i.val with calAt := max s.timer (a + 125),
                                                                             calTemp := (sensorOf (regionOf tile.val) s).temp,
                                                                             calDue := false, calHard := false, calRun := none } ∧
      fget (.tile tile) Reg.TILE_CAL_CNT_COUNT t = (fget (.tile tile) Reg.TILE_CAL_CNT_COUNT s + 1) % 2 ^ 32 ∧
      fget (.tile tile) Reg.TILE_CAL_TRIM_OFFSET_MAX t = r.offMax.toNat ∧
      fget (.tile tile) Reg.TILE_CAL_TRIM_GAIN_MAX t = r.gainMax.toNat) ∧
    (∀ c, r.fail = some c → ∃ t, exec (.calibrationEnd tile i r) s = .next t ∧ fenced (.tile tile) t = true ∧
      (fenced (.tile tile) s = false → fget (.tile tile) Reg.FENCE_CAUSE t = 6) ∧ eventSet (.tile tile) 23 t = true ∧
      fget (.tile tile) (if 8 ≤ i.val then Reg.TILE_INTEG_STAT_SUBF_B else Reg.TILE_INTEG_STAT_SUBF_A) t =
        (fget (.tile tile) (if 8 ≤ i.val then Reg.TILE_INTEG_STAT_SUBF_B else Reg.TILE_INTEG_STAT_SUBF_A) s ||| 2 ^ (i.val % 8)) ∧
      (fget (.tile tile) Reg.TILE_CAL_FAIL_REC_VALID s = 0 → fget (.tile tile) Reg.TILE_CAL_FAIL_REC_VALID t = 1 ∧
        fget (.tile tile) Reg.TILE_CAL_FAIL_REC_CONVERTER t = c.1.val ∧ fget (.tile tile) Reg.TILE_CAL_FAIL_REC_KIND t = c.2.val)))

/-! ## Repair and the column-sum sweep -/

/-- R115, R116, R118: an admitted REPAIR_CMD of a FENCED bank of a tile where no repair runs begins (a rewrite, where the tile
itself is not fenced): the bank is rewritten or filled with test patterns; any other is refused with STATE 5. A repair that
does not end clean leaves its bank FENCED and fences the tile; a clean test leaves its bank EMPTY and counts; a bank whose
REPAIR_HOLD expires is held no longer. -/
def Obligations.Repairs : Prop :=
  (∀ (w : Wr) (tile : Fin 1056) (bank : Bool) (s : State), Admitted w (.tile tile) 0x314 s →
    ((tileOf tile.val s).bank bank).st = .fenced → (tileOf tile.val s).repair = none → fenced (.tile tile) s = false →
    ∃ t, exec (.repairRewrite w tile bank) s = .next t ∧ ((tileOf tile.val t).bank bank).st = .writing ∧
      ((tileOf tile.val t).bank bank).mem = [] ∧ (tileOf tile.val t).repair = some ⟨bank, false, s.timer⟩ ∧
      fget (.tile tile) Reg.TILE_REPAIR_STAT_STATE t = 1 ∧ fget (.tile tile) Reg.TILE_REPAIR_STAT_BANK t = bankNum bank) ∧
  (∀ (w : Wr) (tile : Fin 1056) (bank : Bool) (s : State), Admitted w (.tile tile) 0x314 s →
    ((tileOf tile.val s).bank bank).st ≠ .fenced ∨ (tileOf tile.val s).repair ≠ none ∨ fenced (.tile tile) s = true →
    ∃ t, exec (.repairRewrite w tile bank) s = .next t ∧ fget (.tile tile) Reg.TILE_REPAIR_STAT_STATE t = 5 ∧
      Only [] [span (.tile tile) 0x02C 0x02C, span (.tile tile) 0x314 0x318] s t) ∧
  (∀ (w : Wr) (tile : Fin 1056) (bank : Bool) (s : State), Admitted w (.tile tile) 0x314 s →
    ((tileOf tile.val s).bank bank).st = .fenced → (tileOf tile.val s).repair = none →
    ∃ t, exec (.repairTestClear w tile bank) s = .next t ∧ ((tileOf tile.val t).bank bank).st = .fenced ∧
      ((tileOf tile.val t).bank bank).mem = [] ∧ (tileOf tile.val t).repair = some ⟨bank, true, s.timer⟩ ∧
      fget (.tile tile) Reg.TILE_REPAIR_STAT_STATE t = 2 ∧ fget (.tile tile) Reg.TILE_REPAIR_STAT_BANK t = bankNum bank) ∧
  (∀ (tile : Fin 1056) (s : State) (r : Repair), (tileOf tile.val s).repair = some r →
    ∃ t, exec (.repairEnd tile false) s = .next t ∧ fenced (.tile tile) t = true ∧ eventSet (.tile tile) 22 t = true ∧
      fget (.tile tile) Reg.TILE_REPAIR_STAT_STATE t = 5 ∧ (tileOf tile.val t).repair = none ∧
      ((tileOf tile.val t).bank r.bank).st = .fenced) ∧
  (∀ (tile : Fin 1056) (s : State) (r : Repair), (tileOf tile.val s).repair = some r → r.test = true →
    ∃ t, exec (.repairEnd tile true) s = .next t ∧ (tileOf tile.val t).bank r.bank = {} ∧ eventSet (.tile tile) 22 t = true ∧
      fget (.tile tile) Reg.TILE_REPAIR_STAT_STATE t = 4 ∧
      fget (.tile tile) Reg.TILE_REPAIR_CNT_COUNT t = min (fget (.tile tile) Reg.TILE_REPAIR_CNT_COUNT s + 1) 65535) ∧
  (∀ (tile : Fin 1056) (bank : Bool) (s : State), ((tileOf tile.val s).bank bank).hold = true →
    ((tileOf tile.val s).bank bank).st = .fenced → (tileOf tile.val s).repair = none →
    ∃ t, exec (.repairHoldExpire tile bank) s = .next t ∧
      (tileOf tile.val t).bank bank = { (tileOf tile.val s).bank bank with hold := false } ∧
      fget (.tile tile) (if bank then Reg.TILE_INTEG_STAT_HOLD_B else Reg.TILE_INTEG_STAT_HOLD_A) t = 0 ∧
      t.timer = max s.timer (((tileOf tile.val s).bank bank).holdAt + ticks 100))

/-- R84, R89, R90, R103: the sweep a bank owes starts between tasks; its end over true counts leaves the bank swept, ZPC
entries stored and valid, 32 passes counted; one with a column that disagrees marks and fences the bank. A vector whose passes
are done waits with HOLDING = 1 for adapter values where the record asks for them; values that come with no vector held do
nothing; those of its TAG are added to the held values and the vector goes on. -/
def Obligations.SweepsAndVectors : Prop :=
  (∀ (tile : Fin 1056) (bank : Bool) (s : State), sweepOwed tile.val ((tileOf tile.val s).bank bank) s = true →
    (tileOf tile.val s).cur = none → (tileOf tile.val s).sweep = none → fenced (.tile tile) s = false →
    ∃ t, exec (.colsumSweepStart tile bank) s = .next t ∧ (tileOf tile.val t).sweep = some bank ∧
      fget (.tile tile) Reg.TILE_PP_STAT_SWEEP t = 1 ∧ Only [.tiles] [span (.tile tile) 0x204 0x204] s t) ∧
  (∀ (tile : Fin 1056) (bank : Bool) (s : State), (tileOf tile.val s).sweep = some bank →
    ∃ t, exec (.colsumSweepEnd tile bank []) s = .next t ∧ (tileOf tile.val t).sweep = none ∧
      (tileOf tile.val t).bank bank = { (tileOf tile.val s).bank bank with swept := true, zpcValid := true } ∧
      t.sram = (sweepStore tile.val bank [] s).sram ∧
      wideGet (.tile tile) Reg.TILE_PASS_CNT_LO_COUNT Reg.TILE_PASS_CNT_HI_COUNT t =
        (wideGet (.tile tile) Reg.TILE_PASS_CNT_LO_COUNT Reg.TILE_PASS_CNT_HI_COUNT s + 32) % 2 ^ 64) ∧
  (∀ (tile : Fin 1056) (bank : Bool) (errs : List (Fin 8 × Fin 4 × Nat × Nat)) (x : Nat × Nat) (s : State),
    (tileOf tile.val s).sweep = some bank → sweepCsumBad ((tileOf tile.val s).bank bank) errs = false →
    colsumBadAt ((tileOf tile.val s).bank bank) errs = some x →
    ∃ t, exec (.colsumSweepEnd tile bank errs) s = .next t ∧ eventSet (.tile tile) 17 t = true ∧
      (isPrimary tile.val s = false → ((tileOf tile.val t).bank bank).st = .fenced ∧
        ((tileOf tile.val t).bank bank).colsumBad = true)) ∧
  (∀ (tile : Fin 1056) (s : State) (a : Nat) (c : Ctx) (e : Entry), (tileOf tile.val s).cur = some a →
    ctxOf (tileOf tile.val s) a = some c → entryOf (tileOf tile.val s) a = some e → vectorDone (tileOf tile.val s) c = true →
    c.finished = false → c.held = none → pprMode c.ppr ≠ 4 → pprAdapter c.ppr = true →
    ∃ t, exec (.cimVectorEnd tile) s = .next t ∧ fget (.tile tile) Reg.TILE_PP_STAT_HOLDING t = 1 ∧
      t.range = s.range ∧ t.mesh = s.mesh ∧
      (∀ y ∈ (tileOf tile.val t).ctxs, y.age = c.age → y.held ≠ none)) ∧
  (∀ (tile : Fin 1056) (tag : Byte) (vals : List W32) (poison : Bool) (s : State),
    (∀ c ∈ (tileOf tile.val s).ctxs, c.held = none) → exec (.adapterValues tile tag vals poison) s = .next s) ∧
  (∀ (tile : Fin 1056) (tag : Byte) (vals : List W32) (poison : Bool) (s : State) (c : Ctx) (e : Entry),
    (tileOf tile.val s).ctxs = [c] → c.held ≠ none → entryOf (tileOf tile.val s) c.age = some e →
    ∃ t, exec (.adapterValues tile tag vals poison) s = .next t ∧ fget (.tile tile) Reg.TILE_PP_STAT_HOLDING t = 0 ∧
      (tag.toNat = c.vec % 256 → ∃ x, t = emitVector tile.val e.d c ((((c.held.getD ⟨[]⟩).vals.zip
        (List.range (c.held.getD ⟨[]⟩).vals.length)).map fun v => (fadd v.1.1 (nth 0 vals v.2), v.1.2 || poison))) x ∧
        Only [.heldOut, .out] [span (.tile tile) 0x018 0x018] s x))

/-! ## The bench and mirrored pairs -/

/-- R127, R128, R129, R160: an admitted SUBST_CMD with GO = 1 whose bench tile is free and whose FROM tile of the same half can
be replaced moves the number; a substitution gives the nearest free bench tile the number, the failed tile's template settings
and banks that are WRITING under the same tags; the deque of a fenced tile moves to its replacement, spill queue with it, and
without one every entry ends. -/
def Obligations.BenchTakesOver : Prop :=
  (∀ (w : Wr) (tile : Fin 1056) (data : W32) (s : State), Admitted w (.tile tile) 0x354 s → data.getLsbD 31 = true →
    benchFree tile.val s = true → bitsOf data.toNat 0 11 < 1056 → replaceable (bitsOf data.toNat 0 11) s = true →
    tileHalf (bitsOf data.toNat 0 11) = tileHalf tile.val → bitsOf data.toNat 0 11 ≠ tile.val →
    ∃ t, exec (.substCmd w tile data) s = .next t ∧ logicalOf tile.val t = logicalOf (bitsOf data.toNat 0 11) s ∧
      logicalOf (bitsOf data.toNat 0 11) t = 0x7FF ∧ fget (.tile tile) Reg.TILE_BENCH_MAP_ASSIGNED t = 1 ∧
      fget (.tile tile) Reg.TILE_BENCH_MAP_REPLACED t = bitsOf data.toNat 0 11 ∧ eventSet (.tile tile) 25 t = true) ∧
  (∀ (failed : Fin 1056) (s : State), replaceable failed.val s = false → exec (.benchSubstitutionStart failed) s = .next s) ∧
  (∀ (failed : Fin 1056) (b : Fin 1056) (s : State), replaceable failed.val s = true → b ≠ failed →
    nearestBench failed.val s = some b.val →
    ∃ t, exec (.benchSubstitutionStart failed) s = .next t ∧ logicalOf b.val t = logicalOf failed.val s ∧
      logicalOf failed.val t = 0x7FF ∧ fget (.tile b) Reg.TILE_BENCH_MAP_REPLACED t = failed.val ∧
      eventSet (.tile failed) 25 t = true ∧ eventSet (.tile b) 25 t = true ∧
      fget (.tile b) Reg.TILE_TMPL_CFG_BASE t = fget (.tile failed) Reg.TILE_TMPL_CFG_BASE s ∧
      ∀ bank, ((tileOf failed.val s).bank bank).st ≠ .empty →
        ((tileOf b.val t).bank bank).st = .writing ∧ ((tileOf b.val t).bank bank).mem = [] ∧
        ((tileOf b.val t).bank bank).wset = ((tileOf failed.val s).bank bank).wset ∧
        ((tileOf b.val t).bank bank).mepoch = ((tileOf failed.val s).bank bank).mepoch) ∧
  (∀ (failed : Fin 1056) (ok : Bool) (s : State), fenced (.tile failed) s = false →
    exec (.dequeTransfer failed ok) s = .next s) ∧
  (∀ (failed : Fin 1056) (b : Nat) (s : State), fenced (.tile failed) s = true → replacementOf failed.val s = some b →
    b ≠ failed.val →
    ∃ t, exec (.dequeTransfer failed true) s = .next t ∧ (tileOf failed.val t).spill = [] ∧
      (tileOf failed.val t).deque = [] ∧ (tileOf b t).spill = (tileOf b s).spill ++ (tileOf failed.val s).spill) ∧
  (∀ (failed : Fin 1056) (s : State), fenced (.tile failed) s = true →
    ∃ t, exec (.dequeTransfer failed false) s = .next t ∧ (tileOf failed.val t).deque = [] ∧
      (tileOf failed.val t).spill = [] ∧ (tileOf failed.val t).spilling = false)

/-- R130, R131: a tile of a pair that is not fenced tells its peer; three missed heartbeats fence the primary, or send TAKE
where it is fenced already; TAKE switches the roles and moves the logical number to the mirror, with MIRROR events on both
tiles; a reformed pair has LOST = 0 on both sides and the fresh tile as its mirror. -/
def Obligations.MirroredPairs : Prop :=
  (∀ (tile : Fin 1056) (s : State), inPair tile.val s = true → fenced (.tile tile) s = false →
    ∃ t, exec (.pairHeartbeat tile) s = .next t ∧ t.mesh = s.mesh ++ [.heartbeat (mirrorPeer tile.val s)] ∧
      (tileOf (mirrorPeer tile.val s) t).missed = 0 ∧ Only [.tiles, .mesh] [] s t) ∧
  (∀ (tile : Fin 1056) (s : State), inPair tile.val s = false ∨ fenced (.tile tile) s = true →
    exec (.pairHeartbeat tile) s = .next s) ∧
  (∀ (mirror : Fin 1056) (s : State), inPair mirror.val s = true → fget (.tile mirror) Reg.TILE_MIRROR_MAP_ROLE s = 1 →
    ∃ t, exec (.pairHeartbeatLost mirror) s = .next t ∧ fenced (tilePage (mirrorPeer mirror.val s)) t = true ∧
      (fenced (tilePage (mirrorPeer mirror.val s)) s = true → t.mesh = s.mesh ++ [.take mirror.val])) ∧
  (∀ (mirror : Fin 1056) (q : Nat) (s : State), inPair mirror.val s = true → q = mirrorPeer mirror.val s →
    tilePage q ≠ .tile mirror → fget (.tile mirror) Reg.TILE_MIRROR_MAP_ROLE s = 1 → fenced (.tile mirror) s = false →
    ∃ t, exec (.take mirror) s = .next t ∧ fget (.tile mirror) Reg.TILE_MIRROR_MAP_ROLE t = 0 ∧
      fget (.tile mirror) Reg.TILE_MIRROR_MAP_LOST t = 1 ∧ logicalOf mirror.val t = logicalOf q s ∧
      logicalOf q t = logicalOf mirror.val s ∧ eventSet (.tile mirror) 26 t = true ∧ eventSet (tilePage q) 26 t = true) ∧
  (∀ (survivor fresh : Fin 1056) (s : State), inPair survivor.val s = true →
    fget (.tile survivor) Reg.TILE_MIRROR_MAP_LOST s = 1 → fenced (.tile fresh) s = false →
    tileHalf fresh.val ≠ tileHalf survivor.val → (benchFree fresh.val s = true ∨ fresh.val = mirrorPeer survivor.val s) →
    ∃ t, exec (.mirrorReform survivor fresh) s = .next t ∧ fget (.tile fresh) Reg.TILE_MIRROR_MAP_PEER t = survivor.val ∧
      fget (.tile fresh) Reg.TILE_MIRROR_MAP_VALID t = 1 ∧ fget (.tile fresh) Reg.TILE_MIRROR_MAP_ROLE t = 1 ∧
      fget (.tile fresh) Reg.TILE_MIRROR_MAP_LOST t = 0 ∧ fget (.tile survivor) Reg.TILE_MIRROR_MAP_PEER t = fresh.val ∧
      fget (.tile survivor) Reg.TILE_MIRROR_MAP_LOST t = 0)

/-! ## Posts, signals and purges -/

/-- R32, R65, R136, R138, R143, R145: a post takes a POSTED slot with the next age, a shadow too; a full partition takes
nothing; a fenced tile or one that serves nothing gives the credit back and ends the task UNIT_FENCED; an invalid descriptor
ends with DESC_INVALID; a CIM task that matches no bank raises BANK_MISS; a vector task of the tile's own resets its backoff. -/
def Obligations.TaskPosts : Prop :=
  (∀ (tile : Fin 1056) (d : Desc) (poster : Half) (s : State), fenced (.tile tile) s = false → logicalOf tile.val s ≠ 0x7FF →
    partUse (tileOf tile.val s) .posted < 176 →
    ∃ t, exec (.taskPost tile d true poster) s = .next t ∧ tileOf tile.val t = { tileOf tile.val s with
      deque := (tileOf tile.val s).deque ++ [⟨d, .shadow, .posted, poster, (tileOf tile.val s).ages, 0, none⟩],
      ages := (tileOf tile.val s).ages + 1 }) ∧
  (∀ (tile : Fin 1056) (d : Desc) (poster : Half) (s : State), fenced (.tile tile) s = false → logicalOf tile.val s ≠ 0x7FF →
    partUse (tileOf tile.val s) .posted < 176 → descValid d false = true → d.stolen = false → d.deps = 0 → d.kind ≠ 0 →
    (∀ e ∈ (tileOf tile.val s).deque, e.d.kind ≠ 0 ∨ (e.st ≠ .ready ∧ e.st ≠ .held)) →
    ∃ t, exec (.taskPost tile d false poster) s = .next t ∧ (tileOf tile.val t).deque =
      (tileOf tile.val s).deque ++ [⟨d, .ready, .posted, poster, (tileOf tile.val s).ages, 0, none⟩] ∧
      (tileOf tile.val t).denies = 0 ∧ (tileOf tile.val t).backoffUntil = 0) ∧
  (∀ (tile : Fin 1056) (d : Desc) (poster : Half) (s : State), fenced (.tile tile) s = false → logicalOf tile.val s ≠ 0x7FF →
    partUse (tileOf tile.val s) .posted < 176 → descValid d false = true → d.stolen = false → d.deps = 0 → d.kind = 0 →
    standing (releaseHeld (tileOf tile.val s)) d = .misses →
    ∃ t, exec (.taskPost tile d false poster) s = .next t ∧ eventSet (.tile tile) 9 t = true) ∧
  (∀ (tile : Fin 1056) (d : Desc) (poster : Half) (s : State), fenced (.tile tile) s = false → logicalOf tile.val s ≠ 0x7FF →
    partUse (tileOf tile.val s) .posted < 176 → descValid d false = false ∨ d.stolen = true ∨ d.deps ≠ 0 →
    (∀ e ∈ (tileOf tile.val s).deque, e.age ≠ (tileOf tile.val s).ages) →
    ∃ t, exec (.taskPost tile d false poster) s = .next t ∧ TaskEnded d 0x0026 false s t) ∧
  (∀ (tile : Fin 1056) (d : Desc) (shadow : Bool) (poster : Half) (s : State), fenced (.tile tile) s = false →
    logicalOf tile.val s ≠ 0x7FF → 176 ≤ partUse (tileOf tile.val s) .posted →
    ∃ t, exec (.taskPost tile d shadow poster) s = .next t ∧ Only [.mesh] [] s t) ∧
  (∀ (tile : Fin 1056) (d : Desc) (shadow : Bool) (poster : Half) (s : State),
    fenced (.tile tile) s = true ∨ logicalOf tile.val s = 0x7FF →
    ∃ t, exec (.taskPost tile d shadow poster) s = .next t ∧ .credit tile.val (ccFor poster s) ∈ t.mesh ∧
      (shadow = false → TaskEnded d 0x0011 false s t))

/-- R139, R140, R142, R148, R149, R160: a signal lowers DEPS of the WAITING entry of its key, which is READY at 0; without one
it builds a task, DESC_INVALID where the tile has no such template; in spill mode or beside a full partition it joins the spill
queue; a fenced tile sends it on. A purge leaves no entry and no spilled signal of its request. A TASK_END is counted; a
signal with no tile to go to ends its request UNIT_FENCED with POISON; a returned credit is held again. -/
def Obligations.SignalsAndEnds : Prop :=
  (∀ (tile : Fin 1056) (sig : Signal) (s : State), fenced (.tile tile) s = true →
    ∃ t m, exec (.signal tile sig) s = .next t ∧ t.mesh = s.mesh.erase (.signal tile.val sig) ++ [m] ∧
      ((∃ p, serving sig.ltile.toNat s = some p ∧ m = .signal p sig) ∨
        (serving sig.ltile.toNat s = none ∧ m = .signalBack sig)) ∧ Only [.mesh] [] s t) ∧
  (∀ (tile : Fin 1056) (sig : Signal) (s : State), fenced (.tile tile) s = false →
    (tileOf tile.val s).spilling = true ∨ mustSpill tile.val sig s = true →
    ∃ t, exec (.signal tile sig) s = .next t ∧ (tileOf tile.val t).spill = (tileOf tile.val s).spill ++ [sig] ∧
      (tileOf tile.val t).spilling = true ∧ (tileOf tile.val t).deque = (tileOf tile.val s).deque ∧
      fget (.tile tile) Reg.TILE_SPILL_CNT_COUNT t = (fget (.tile tile) Reg.TILE_SPILL_CNT_COUNT s + 1) % 2 ^ 32 ∧
      ((tileOf tile.val s).spilling = false → eventSet (.tile tile) 30 t = true)) ∧
  (∀ (tile : Fin 1056) (sig : Signal) (s : State) (e : Entry), fenced (.tile tile) s = false →
    (tileOf tile.val s).spilling = false → mustSpill tile.val sig s = false →
    ((tileOf tile.val s).deque.filter (keyed sig))[0]? = some e → e.d.deps ≠ 1 →
    ∃ t, exec (.signal tile sig) s = .next t ∧ (tileOf tile.val t).deque = (tileOf tile.val s).deque.map fun x =>
      if x.age = e.age then { x with d := { x.d with deps := x.d.deps - 1 } } else x) ∧
  (∀ (tile : Fin 1056) (sig : Signal) (s : State) (e : Entry), fenced (.tile tile) s = false →
    (tileOf tile.val s).spilling = false → mustSpill tile.val sig s = false →
    ((tileOf tile.val s).deque.filter (keyed sig))[0]? = some e → e.d.deps = 1 →
    (∀ x ∈ (tileOf tile.val s).deque, x.d.kind ≠ 0) →
    ∃ t, exec (.signal tile sig) s = .next t ∧ (tileOf tile.val t).deque = (tileOf tile.val s).deque.map fun x =>
      if x.age = e.age then { x with d := { x.d with deps := 0 }, st := .ready } else x) ∧
  (∀ (tile : Fin 1056) (sig : Signal) (s : State), fenced (.tile tile) s = false →
    (tileOf tile.val s).spilling = false → mustSpill tile.val sig s = false →
    (tileOf tile.val s).deque.filter (keyed sig) = [] → templateAt tile.val sig.tmpl s = none →
    ∃ t m, exec (.signal tile sig) s = .next t ∧ .taskEnd (ccFor sig.req.cch s) m ∈ t.mesh ∧ m.status = 0x0026 ∧
      m.channel = sig.req.channel ∧ m.seq = sig.req.seq) ∧
  (∀ (tile : Fin 1056) (channel : BitVec 9) (seq : W32) (s : State),
    ∃ t, exec (.purge tile channel seq) s = .next t ∧
      (∀ e ∈ (tileOf tile.val t).deque, ¬(e.d.channel = channel ∧ e.d.seq = seq)) ∧
      (∀ g ∈ (tileOf tile.val t).spill, ¬(g.req.channel = channel ∧ g.req.seq = seq))) ∧
  (∀ (tile : Fin 1056) (poster : Half) (s : State), (tileOf tile.val s).creditOwn + (tileOf tile.val s).creditOther < 176 →
    ∃ x, exec (.creditReturn tile poster) s = .next (kickQueued x) ∧
      (tileOf tile.val x).creditOwn + (tileOf tile.val x).creditOther =
        (tileOf tile.val s).creditOwn + (tileOf tile.val s).creditOther + 1) ∧
  (∀ (cc : Half) (msg : EndMsg) (s : State) (r : Req), rallyOfTask msg.channel.toNat msg.seq s = none →
    reqAt msg.channel.toNat msg.seq s = some r → r.ends + 1 < r.need →
    ∃ t r', exec (.taskEndMessage cc msg) s = .next t ∧ r'.ends = r.ends + 1 ∧ r'.poison = (r.poison || msg.poison || decide (msg.status ≠ 0)) ∧
      r'.status = (if r.status = 0 then msg.status else r.status) ∧ r'.chan = r.chan ∧ r'.seq = r.seq ∧
      t.reqs = s.reqs.map (fun x => if x.chan = r.chan ∧ x.seq = r.seq then r' else x)) ∧
  (∀ (cc : Half) (msg : EndMsg) (s : State) (r : Req), rallyOfTask msg.channel.toNat msg.seq s = none →
    reqAt msg.channel.toNat msg.seq s = some r → r.need ≤ r.ends + 1 → r.st = .running → r.outLen = 0 →
    ∃ x, exec (.taskEndMessage cc msg) s = .next (kickQueued x) ∧
      Completes r.chan r.seq (if r.status = 0 then msg.status else r.status) (r.poison || msg.poison || decide (msg.status ≠ 0)) s x) ∧
  (∀ (sig : Signal) (s : State) (r : Req), rallyOfTask sig.req.channel.toNat sig.req.seq s = none →
    reqAt sig.req.channel.toNat sig.req.seq s = some r → r.st = .running →
    ∃ x, exec (.signalReturn sig) s = .next (kickQueued x) ∧ Completes r.chan r.seq 0x0011 true s x ∧
      ∀ y ∈ x.reqs, ¬(y.chan = r.chan ∧ y.seq = r.seq))

/-! ## Leadership -/

/-- R34: a grant that would take the token past 0xFFFF_FFFF is refused, and the current leader keeps its lease: HOLDER, TOKEN
and EXP stay, of every replica. -/
def Obligations.TokenLimit : Prop :=
  ∀ (replica from_ : Half) (s : State), acquireOk replica from_ s = true → tokenOf replica s = 2 ^ 32 - 1 →
    holderOf replica s ≠ holderNum from_ →
    ∃ t, exec (.acquire replica from_) s = .next t ∧ eventSet (.rf replica) 12 t = true ∧
      (∀ r, holderOf r t = holderOf r s ∧ tokenOf r t = tokenOf r s ∧ expOf r t = expOf r s) ∧
      Only [.mesh, .heldOut, .out] [span (.rf replica) 0x018 0x018] s t

/-! ## Selection, ends and steals of tasks -/

/-- R66, R97, R104, R136, R141, R145, R146, R147: a tile that may not run tasks selects none; the vector unit takes the
best-ranked READY vector task, a tuning task of a Sustained channel ends TUNE_DENIED; the array takes the best-ranked READY CIM
task on its matching bank; a unit's task ends with its status and sends TASK_END, a CIM task leaves its statistics; a vector
task past its limit ends with TIME_LIMIT. -/
def Obligations.TaskSelection : Prop :=
  (∀ (tile : Fin 1056) (unit : TileUnit) (s : State), selects tile.val s = false →
    exec (.taskSelect tile unit) s = .next s) ∧
  (∀ (tile : Fin 1056) (s : State) (e : Entry), selects tile.val s = true → (tileOf tile.val s).vec = none →
    bestOf s (candidates (tileOf tile.val s) .vector) = some e → ¬(e.d.kind = 2 ∧ e.d.cls = 0) →
    rangePoison e.d.auxRef.toNat 64 s = false →
    ∃ t, exec (.taskSelect tile .vector) s = .next t ∧ (tileOf tile.val t).vec = some (e.age, s.timer) ∧
      (tileOf tile.val t).deque = (tileOf tile.val s).deque.map (fun x => if x.age = e.age then { x with st := .running } else x) ∧
      Only [.tiles] [] s t) ∧
  (∀ (tile : Fin 1056) (s : State) (e : Entry), selects tile.val s = true → (tileOf tile.val s).vec = none →
    bestOf s (candidates (tileOf tile.val s) .vector) = some e → e.d.kind = 2 → e.d.cls = 0 →
    ∃ t, exec (.taskSelect tile .vector) s = .next t ∧ TaskEnded e.d 0x0024 false s t) ∧
  (∀ (tile : Fin 1056) (s : State) (e : Entry) (b : Bool) (r : List W32 × List Byte), selects tile.val s = true →
    (tileOf tile.val s).sweep = none → (tileOf tile.val s).cur = none →
    bestOf s (candidates (tileOf tile.val s) .array) = some e →
    bestOf s ((tileOf tile.val s).deque.filter fun x => decide (x.st = .suspended)) = none →
    standing (tileOf tile.val s) e.d = .runs b → sweepOwed tile.val ((tileOf tile.val s).bank b) s = false →
    readRecord tile.val e.d s = .ok r →
    ∃ t, exec (.taskSelect tile .array) s = .next t ∧ (tileOf tile.val t).cur = some e.age ∧
      (tileOf tile.val t).selBank = b ∧ ((tileOf tile.val t).bank b).ran = true ∧
      fget (.tile tile) Reg.TILE_ARRAY_STAT_SEL_BANK t = bankNum b ∧
      fget (.tile tile) Reg.TILE_ARRAY_STAT_RUNNING t = 1 ∧
      fget (.tile tile) Reg.TILE_FLIP_CNT_COUNT t = (if (tileOf tile.val s).ranBefore = true ∧ (tileOf tile.val s).selBank ≠ b
        then (fget (.tile tile) Reg.TILE_FLIP_CNT_COUNT s + 1) % 2 ^ 32 else fget (.tile tile) Reg.TILE_FLIP_CNT_COUNT s)) ∧
  (∀ (tile : Fin 1056) (r : KernelResult) (s : State) (v : Nat × Nat) (e : Entry), (tileOf tile.val s).vec = some v →
    entryOf (tileOf tile.val s) v.1 = some e → r.status ≠ 0 →
    ∃ t, exec (.taskEnd tile .vector r) s = .next t ∧ TaskEnded e.d r.status false s t ∧
      (0 < r.nans + r.ovfs → eventSet (.tile tile) 19 t = true)) ∧
  (∀ (tile : Fin 1056) (r : KernelResult) (s : State) (v : Nat × Nat) (e : Entry), (tileOf tile.val s).vec = some v →
    entryOf (tileOf tile.val s) v.1 = some e → r.status = 0 → r.writes = [] → e.d.kind ≠ 2 →
    ∃ t, exec (.taskEnd tile .vector r) s = .next t ∧ TaskEnded e.d 0 false s t) ∧
  (∀ (tile : Fin 1056) (r : KernelResult) (s : State) (a : Nat) (c : Ctx) (e : Entry), (tileOf tile.val s).cur = some a →
    ctxOf (tileOf tile.val s) a = some c → entryOf (tileOf tile.val s) c.age = some e → c.finished = true →
    ∃ t, exec (.taskEnd tile .array r) s = .next t ∧ TaskEnded e.d c.status c.poison s t ∧
      (c.status = 0 → pprMode c.ppr ∈ [1, 2, 3] →
        fget (.tile tile) Reg.TILE_LAST_STATS_COUNT_COUNT t = c.tot.count % 2 ^ 32)) ∧
  (∀ (tile : Fin 1056) (s : State) (v : Nat × Nat) (e : Entry), (tileOf tile.val s).vec = some v →
    entryOf (tileOf tile.val s) v.1 = some e →
    ∃ t, exec (.timeLimit tile) s = .next t ∧ TaskEnded e.d 0x0027 false s t ∧ eventSet (.tile tile) 31 t = true) ∧
  (∀ (tile : Fin 1056) (s : State), (tileOf tile.val s).vec = none → exec (.timeLimit tile) s = .next s)

/-- R151 to R155: a tile that meets the conditions and draws a victim in the mesh sends it a probe and counts it; a victim with
nothing stealable denies, one with a stealable task gives it and counts; a granted task takes a STOLEN slot as READY with STOLEN
set and resets the wait, or returns to its victim; a denial doubles the wait. -/
def Obligations.Steals : Prop :=
  (∀ (thief : Fin 1056) (s : State), mayProbe thief.val s = false → exec (.stealProbeSend thief) s = .next s) ∧
  (∀ (thief : Fin 1056) (s : State) (v : Nat), mayProbe thief.val s = true →
    (drawVictim thief.val (radiusOf thief.val s) 4 s).1 = some v →
    ∃ t, exec (.stealProbeSend thief) s = .next t ∧ (tileOf thief.val t).probe = true ∧
      t.mesh = s.mesh ++ [.probe v thief.val] ∧
      fget (.tile thief) Reg.TILE_STEAL_PROBE_CNT_COUNT t = (fget (.tile thief) Reg.TILE_STEAL_PROBE_CNT_COUNT s + 1) % 2 ^ 32) ∧
  (∀ (victim thief : Fin 1056) (s : State), fenced (.tile victim) s = true ∨ logicalOf victim.val s = 0x7FF ∨
      fget (.tile victim) Reg.TILE_DQ_CFG_GIVE_EN s = 0 ∨ stealable (tileOf victim.val s) = none →
    ∃ t, exec (.stealProbe victim thief) s = .next t ∧
      t.mesh = s.mesh.erase (.probe victim.val thief.val) ++ [.deny thief.val] ∧ Only [.mesh] [] s t) ∧
  (∀ (victim thief : Fin 1056) (s : State) (e : Entry), fenced (.tile victim) s = false → logicalOf victim.val s ≠ 0x7FF →
    fget (.tile victim) Reg.TILE_DQ_CFG_GIVE_EN s = 1 →
    ((tileOf victim.val s).level = .run ∨ (tileOf victim.val s).level = .idle) →
    stealable (tileOf victim.val s) = some e → (tileOf victim.val s).spill = [] →
    ∃ t g, exec (.stealProbe victim thief) s = .next t ∧ .grant victim.val g e.d e.age ∈ t.mesh ∧
      g.toNat = logicalOf thief.val s % 1024 ∧
      (∀ x ∈ (tileOf victim.val t).deque, x.age ≠ e.age) ∧
      fget (.tile victim) Reg.TILE_STEAL_GIVEN_CNT_COUNT t = (fget (.tile victim) Reg.TILE_STEAL_GIVEN_CNT_COUNT s + 1) % 2 ^ 32) ∧
  (∀ (victim : Fin 1056) (l : BitVec 10) (d : Desc) (age : Nat) (s : State) (p : Nat), serving l.toNat s = some p →
    ∃ t, exec (.stealGrant victim l d age) s = .next t ∧ (tileOf p t).deque = (tileOf p s).deque ++
      [⟨{ d with stolen := true }, .ready, .stolen, .north, (tileOf p s).ages, 0, some victim.val⟩] ∧
      (tileOf p t).probe = false ∧ (tileOf p t).denies = 0 ∧ (tileOf p t).backoffUntil = 0 ∧
      fget (tilePage p) Reg.TILE_STEAL_GRANT_CNT_COUNT t = (fget (tilePage p) Reg.TILE_STEAL_GRANT_CNT_COUNT s + 1) % 2 ^ 32) ∧
  (∀ (victim : Fin 1056) (l : BitVec 10) (d : Desc) (age : Nat) (s : State), serving l.toNat s = none →
    ∃ t, exec (.stealGrant victim l d age) s = .next t ∧ ∃ x, (tileOf victim.val t).deque = (tileOf victim.val s).deque ++ [x] ∧
      x.d = { d with stolen := false } ∧ x.age = age ∧ x.st = .ready) ∧
  (∀ (thief : Fin 1056) (s : State),
    ∃ t, exec (.stealDeny thief) s = .next t ∧ (tileOf thief.val t).probe = false ∧
      (tileOf thief.val t).denies = (tileOf thief.val s).denies + 1 ∧
      (tileOf thief.val t).backoffUntil = s.timer + 2 ^ min (fget (.tile thief) Reg.TILE_DQ_CFG_BO_MIN s + (tileOf thief.val s).denies)
        (max (fget (.tile thief) Reg.TILE_DQ_CFG_BO_MIN s) (fget (.tile thief) Reg.TILE_DQ_CFG_BO_MAX s)) ∧
      fget (.tile thief) Reg.TILE_STEAL_DENY_CNT_COUNT t = (fget (.tile thief) Reg.TILE_STEAL_DENY_CNT_COUNT s + 1) % 2 ^ 32) ∧
  (∀ (thief : Fin 1056) (s : State), ∃ t, exec (.stealBackoffExpire thief) s = .next t ∧
    t.timer = max s.timer (tileOf thief.val s).backoffUntil ∧ Only [.timer] [] s t)

/-! ## Rallies -/

/-- R196, R201, R202, R204, R213, R215 to R217, R219: a waiting request joins the FORMING rally at the lowest free slot and
takes its epoch where it has begun; GATHER closes the wait; a flip whose conditions hold makes the next chunk RUNNING on the
other bank and records period and stall; an expired RESTORE hold counts and flips without the rows; a second source's rows go
out with RESTORE and its code word is remembered; the other control complex takes the sequencers of a fenced one; a held chunk
that has places is programmed and held no longer. -/
def Obligations.Rallies : Prop :=
  (∀ (ctx : Fin 16) (chan : Fin 512) (seq : W32) (s : State), mayJoin (rallyOf ctx.val s) chan.val seq s = none →
    exec (.rallyJoin ctx chan seq) s = .next s) ∧
  (∀ (ctx : Fin 16) (chan : Fin 512) (seq : W32) (s : State) (r : Req) (x : Version × Plan) (slot e : Nat),
    mayJoin (rallyOf ctx.val s) chan.val seq s = some r → currentPlan (rallyOf ctx.val s) s = some x →
    (rallyOf ctx.val s).forming.closed = false → freeSlot x.2.bMax (rallyOf ctx.val s).forming.members = some slot →
    (rallyOf ctx.val s).forming.begun = some e → ¬(r.policy = 1 ∧ r.pinEpoch ≠ e) →
    ∃ t, exec (.rallyJoin ctx chan seq) s = .next t ∧
      (rallyOf ctx.val t).forming.members = (rallyOf ctx.val s).forming.members ++ [⟨slot, chan.val, seq⟩] ∧
      (rallyOf ctx.val t).running = (rallyOf ctx.val s).running ∧
      t.reqs = s.reqs.map (fun y => if y.chan = r.chan ∧ y.seq = r.seq then { r with epoch := e } else y)) ∧
  (∀ (ctx : Fin 16) (s : State) (x : Version × Plan), currentPlan (rallyOf ctx.val s) s = some x →
    (rallyOf ctx.val s).forming.members ≠ [] → (rallyOf ctx.val s).forming.gathered = false →
    ∃ t, exec (.rallyGatherExpire ctx) s = .next t ∧ (rallyOf ctx.val t).forming.gathered = true ∧
      t.timer = max s.timer ((rallyOf ctx.val s).forming.firstAt + ticks x.2.gatherUs)) ∧
  (∀ (ctx : Fin 16) (c f : Nat) (s : State), (rallyOf ctx.val s).handle = none → exec (.rallyFlip ctx c f) s = .next s) ∧
  (∀ (ctx : Fin 16) (c f : Nat) (s : State) (h : Nat) (hs : HandleSt) (r : Rally) (m : Member) (e : Nat) (v : Version) (p : Plan),
    (rallyOf ctx.val s).handle = some h → handleSt h s = some hs → (rallyOf ctx.val s).running = some r → r.begun = some e →
    rallyPlan (rallyOf ctx.val s) e s = some (v, p) → r.chunk + 2 < p.chunks → lead r = some m →
    chunkEnded p r.chunk m hs.tiles s = true → chunkReady p (r.chunk + 1) v.epoch (!(rallyOf ctx.val s).bank) hs.tiles s = true →
    setWhole hs.tiles s = true → awaitsRestore v hs.sustained p (r.chunk + 1) (!(rallyOf ctx.val s).bank) hs.tiles s = false →
    ∃ t, exec (.rallyFlip ctx c f) s = .next t ∧ (rallyOf ctx.val t).running = some { r with chunk := r.chunk + 1 } ∧
      (rallyOf ctx.val t).bank = !(rallyOf ctx.val s).bank ∧ (rallyOf ctx.val t).periodNs = max c f % 2 ^ 24 ∧
      (rallyOf ctx.val t).holdAt = none) ∧
  (∀ (ctx : Fin 16) (s : State) (t0 : Nat), (rallyOf ctx.val s).holdAt = some t0 →
    ∃ x, exec (.restoreHoldExpire ctx) s = .next (tryFlip ctx.val true 0 (rallyOf ctx.val s).periodNs x) ∧
      (rallyOf ctx.val x).expired = min ((rallyOf ctx.val s).expired + 1) 65535 ∧ (rallyOf ctx.val x).holdAt = none ∧
      x.timer = max s.timer (t0 + ticks 40)) ∧
  (∀ (ctx : Fin 16) (s : State), (rallyOf ctx.val s).holdAt = none → exec (.restoreHoldExpire ctx) s = .next s) ∧
  (∀ (ctx : Fin 16) (cwa : BitVec 25) (frames : List RowFrame) (s : State) (v : Version), v ∈ s.versions →
    (rallyOf ctx.val s).handle = some v.handle → cwa.toNat ∈ v.blocks →
    ∃ t, exec (.secondSourceRead ctx cwa frames) s = .next t ∧ cwa.toNat ∈ (rallyOf ctx.val t).second ∧
      t.rowBus = s.rowBus ++ (frames.filter fun f => (rallyTiles (rallyOf ctx.val s) s).contains f.ltile.toNat).map fun f =>
        { f with restore := true, poison := false }) ∧
  (∀ (h : Half) (s : State), fenced (.cc h) s = true →
    ∃ t, exec (.sequencerTakeover h) s = .next t ∧
      (∀ c ∈ t.rallies, c.2.handle ≠ none → c.2.home ≠ h) ∧ t.rallies.length = s.rallies.length) ∧
  (∀ (h : Half) (s : State), fenced (.cc h) s = false → exec (.sequencerTakeover h) s = .next s) ∧
  (∀ (ctx : Fin 16) (chunk : Nat) (s : State) (x : Version × Plan) (pl : List (Nat × Nat)),
    chunk ∈ (rallyOf ctx.val s).inT1 → currentPlan (rallyOf ctx.val s) s = some x → placeChunk x.1 x.2 chunk s = some pl →
    ∃ t, exec (.heldChunkSwitch ctx chunk) s = .next t ∧ chunk ∉ (rallyOf ctx.val t).inT1 ∧
      chunk ∉ (rallyOf ctx.val t).inT2) ∧
  (∀ (ctx : Fin 16) (chunk : Nat) (s : State), chunk ∉ (rallyOf ctx.val s).inT1 → chunk ∉ (rallyOf ctx.val s).inT2 →
    exec (.heldChunkSwitch ctx chunk) s = .next s)
end

