-- ==== Sys2Proof/Laws/Store.lean ====
section
/-! SUPPORT. Laws of the sparse store: what a read gives after a write, and that every write keeps the canonical form. -/

namespace Sys2Proof.Machine

/-! ## Reads after writes -/

theorem sget_sins_same {α : Type} (d : α) (k : Nat) (v : α) (m : Store α) : sget d k (sins k v m) = v := by
  induction m with
  | nil => simp [sins, sget]
  | cons x t ih =>
    obtain ⟨j, w⟩ := x
    simp only [sins]
    split
    · simp [sget]
    · split
      · simp [sget]
      · rename_i h1 h2
        have : ¬ j = k := fun h => h2 h.symm
        simp [sget, this, ih]

theorem sget_sins_other {α : Type} (d : α) (k i : Nat) (v : α) (m : Store α) (h : i ≠ k) :
    sget d i (sins k v m) = sget d i m := by
  induction m with
  | nil => simp [sins, sget, Ne.symm h]
  | cons x t ih =>
    obtain ⟨j, w⟩ := x
    simp only [sins]
    split
    · simp [sget, Ne.symm h]
    · split
      · rename_i h1 h2
        subst h2
        simp [sget, Ne.symm h]
      · simp [sget, ih]

/-- A read of a key that no kept pair has. -/
theorem sget_filter_none {α : Type} (d : α) (q : Nat × α → Bool) (i : Nat) (m : Store α)
    (h : ∀ x, q (i, x) = false) : sget d i (m.filter q) = d := by
  induction m with
  | nil => rfl
  | cons x t ih =>
    obtain ⟨j, w⟩ := x
    rw [List.filter_cons]
    split
    · rename_i hq
      have : j ≠ i := fun e => by rw [e, h w] at hq; cases hq
      simp only [sget, this, if_false]
      exact ih
    · exact ih

/-- A read of a key whose pairs are all kept. -/
theorem sget_filter_all {α : Type} (d : α) (q : Nat × α → Bool) (i : Nat) (m : Store α)
    (h : ∀ x, q (i, x) = true) : sget d i (m.filter q) = sget d i m := by
  induction m with
  | nil => rfl
  | cons x t ih =>
    obtain ⟨j, w⟩ := x
    rw [List.filter_cons]
    split
    · simp only [sget]
      rw [ih]
    · rename_i hq
      have : j ≠ i := fun e => hq (by rw [e]; exact h w)
      simp only [sget, this, if_false]
      exact ih

theorem sget_sdel_same {α : Type} (d : α) (k : Nat) (m : Store α) : sget d k (sdel k m) = d :=
  sget_filter_none d _ k m fun _ => by simp

theorem sget_sdel_other {α : Type} (d : α) (k i : Nat) (m : Store α) (h : i ≠ k) :
    sget d i (sdel k m) = sget d i m := sget_filter_all d _ i m fun _ => by simp [h]

/-- A read of the key just written gives the value written. -/
@[simp] theorem sget_sset_same {α : Type} [DecidableEq α] (d : α) (k : Nat) (v : α) (m : Store α) :
    sget d k (sset d k v m) = v := by
  unfold sset
  split
  · rename_i h; rw [h, sget_sdel_same]
  · exact sget_sins_same d k v m

/-- A write leaves every other key as it was, whatever an unlisted key reads as. -/
theorem sget_sset_other {α : Type} [DecidableEq α] (d e : α) (k i : Nat) (v : α) (m : Store α) (h : i ≠ k) :
    sget e i (sset d k v m) = sget e i m := by
  unfold sset
  split
  · exact sget_sdel_other e k i m h
  · exact sget_sins_other e k i v m h

/-- Both cases of a read after a write. -/
theorem sget_sset {α : Type} [DecidableEq α] (d : α) (k i : Nat) (v : α) (m : Store α) :
    sget d i (sset d k v m) = if i = k then v else sget d i m := by
  split
  · rename_i h; subst h; simp
  · rename_i h; exact sget_sset_other d d k i v m h

/-- A read inside the span of a write of consecutive keys. -/
theorem sget_ssetAll_in {α : Type} [DecidableEq α] (d : α) (vs : List α) (k i : Nat) (m : Store α) (h : i < vs.length) :
    sget d (k + i) (ssetAll d k vs m) = vs[i] := by
  induction vs generalizing k i with
  | nil => simp at h
  | cons v t ih =>
    simp only [ssetAll]
    cases i with
    | zero => simp
    | succ n =>
      have hn : n < t.length := by simpa using h
      rw [sget_sset_other d d k (k + (n + 1)) v _ (by omega)]
      have := ih (k + 1) n hn
      rw [show k + (n + 1) = k + 1 + n by omega, this]
      simp

/-- A read outside the span of a write of consecutive keys. -/
theorem sget_ssetAll_out {α : Type} [DecidableEq α] (d e : α) (vs : List α) (k i : Nat) (m : Store α)
    (h : i < k ∨ k + vs.length ≤ i) : sget e i (ssetAll d k vs m) = sget e i m := by
  induction vs generalizing k with
  | nil => rfl
  | cons v t ih =>
    simp only [List.length_cons] at h
    simp only [ssetAll]
    rw [sget_sset_other d e k i v _ (by omega), ih (k + 1) (by omega)]

/-- A read of a cleared key. -/
theorem sget_sclear_in {α : Type} (d : α) (lo hi i : Nat) (m : Store α) (h : lo ≤ i ∧ i < hi) :
    sget d i (sclear lo hi m) = d := sget_filter_none d _ i m fun _ => by simp; omega

/-- A read of a key that is not cleared. -/
theorem sget_sclear_out {α : Type} (d : α) (lo hi i : Nat) (m : Store α) (h : i < lo ∨ hi ≤ i) :
    sget d i (sclear lo hi m) = sget d i m := sget_filter_all d _ i m fun _ => by simp; omega

/-! ## The canonical form -/

theorem swf_mono {α : Type} [DecidableEq α] (d : Nat → α) (a b : Nat) (m : Store α) (hab : a ≤ b) (h : swf d b m = true) :
    swf d a m = true := by
  cases m with
  | nil => rfl
  | cons x t =>
    obtain ⟨k, v⟩ := x
    simp only [swf, Bool.and_eq_true, decide_eq_true_eq] at h ⊢
    exact ⟨⟨by omega, h.1.2⟩, h.2⟩

theorem swf_sins {α : Type} [DecidableEq α] (d : Nat → α) (k : Nat) (v : α) (lo : Nat) (m : Store α) (hk : lo ≤ k)
    (hv : v ≠ d k) (h : swf d lo m = true) : swf d lo (sins k v m) = true := by
  induction m generalizing lo with
  | nil => simp [sins, swf, hk, hv]
  | cons x t ih =>
    obtain ⟨j, w⟩ := x
    simp only [swf, Bool.and_eq_true, decide_eq_true_eq] at h
    simp only [sins]
    split
    · rename_i h1
      simp [swf, hk, hv, h.1.2, h.2]
      omega
    · split
      · rename_i h1 h2
        subst h2
        simp [swf, hk, hv, h.2]
      · rename_i h1 h2
        simp [swf, h.1.1, h.1.2, ih (j + 1) (by omega) h.2]

theorem swf_filter {α : Type} [DecidableEq α] (d : Nat → α) (q : Nat × α → Bool) (lo : Nat) (m : Store α)
    (h : swf d lo m = true) : swf d lo (m.filter q) = true := by
  induction m generalizing lo with
  | nil => rfl
  | cons x t ih =>
    obtain ⟨j, w⟩ := x
    simp only [swf, Bool.and_eq_true, decide_eq_true_eq] at h
    by_cases hq : q (j, w) = true
    · simp [hq, swf, h.1.1, h.1.2, ih (j + 1) h.2]
    · simp only [Bool.not_eq_true] at hq
      simp only [List.filter_cons, hq]
      exact swf_mono d lo (j + 1) _ (by omega) (ih (j + 1) h.2)

/-- A write keeps the canonical form, where the default given is the one of its key. -/
theorem swf_sset {α : Type} [DecidableEq α] (d : Nat → α) (k : Nat) (v : α) (m : Store α) (h : swf d 0 m = true) :
    swf d 0 (sset (d k) k v m) = true := by
  unfold sset
  split
  · exact swf_filter d _ 0 m h
  · rename_i hv
    exact swf_sins d k v 0 m (Nat.zero_le k) hv h

/-- A write of consecutive keys of one default keeps it. -/
theorem swf_ssetAll {α : Type} [DecidableEq α] (d : α) (k : Nat) (vs : List α) (m : Store α)
    (h : swf (fun _ => d) 0 m = true) : swf (fun _ => d) 0 (ssetAll d k vs m) = true := by
  induction vs generalizing k with
  | nil => exact h
  | cons v t ih => exact swf_sset (fun _ => d) k v _ (ih (k + 1))

/-- Clearing keeps it. -/
theorem swf_sclear {α : Type} [DecidableEq α] (d : Nat → α) (lo hi : Nat) (m : Store α) (h : swf d 0 m = true) :
    swf d 0 (sclear lo hi m) = true := swf_filter d _ 0 m h

end Sys2Proof.Machine
end

