-- ==== Sys2Proof/Laws/Regs.lean ====
section
/-! SUPPORT. Laws of pages and registers: where pages lie, and what a field reads after a field is written. -/

namespace Sys2Proof.Machine

/-! ## The page map (R38) -/

/-- The page map is read back as it is laid out. -/
theorem pageAt_pageNum (p : Page) : pageAt (pageNum p) = some p := by
  cases p with
  | cap | pmu | thm | sec | dbg | fus | aon => rfl
  | cc h | wsc h | mig h | d2d h | rf h => cases h <;> rfl
  | hp i | rg i | eth i =>
    match i with
    | 0 => rfl
    | 1 => rfl
  | die n =>
    have := n.isLt
    show pageAt (0x20 + n.val) = _
    unfold pageAt
    rw [if_neg, if_neg, if_neg, if_neg, if_neg, if_neg, if_neg, if_neg, if_neg, if_neg, if_neg, if_neg, if_neg, if_neg, if_neg, if_pos]
    · exact congrArg (fun x => some (Page.die x)) (Fin.ext (by simp only [Fin.val_ofNat]; omega))
    all_goals omega
  | bm n =>
    have := n.isLt
    show pageAt (0x30 + n.val) = _
    unfold pageAt
    rw [if_neg, if_neg, if_neg, if_neg, if_neg, if_neg, if_neg, if_neg, if_neg, if_neg, if_neg, if_neg, if_neg, if_neg, if_neg, if_neg, if_pos]
    · exact congrArg (fun x => some (Page.bm x)) (Fin.ext (by simp only [Fin.val_ofNat]; omega))
    all_goals omega
  | mbx n =>
    have := n.isLt
    show pageAt (0x100 + n.val) = _
    unfold pageAt
    rw [if_neg, if_neg, if_neg, if_neg, if_neg, if_neg, if_neg, if_neg, if_neg, if_neg, if_neg, if_neg, if_neg, if_neg, if_neg, if_neg, if_neg, if_pos]
    · exact congrArg (fun x => some (Page.mbx x)) (Fin.ext (by simp only [Fin.val_ofNat]; omega))
    all_goals omega
  | chan n =>
    have := n.isLt
    show pageAt (0x800 + n.val) = _
    unfold pageAt
    rw [if_neg, if_neg, if_neg, if_neg, if_neg, if_neg, if_neg, if_neg, if_neg, if_neg, if_neg, if_neg, if_neg, if_neg, if_neg, if_neg, if_neg, if_neg, if_pos]
    · exact congrArg (fun x => some (Page.chan x)) (Fin.ext (by simp only [Fin.val_ofNat]; omega))
    all_goals omega
  | tile n =>
    have := n.isLt
    show pageAt (0x1000 + n.val) = _
    unfold pageAt
    rw [if_neg, if_neg, if_neg, if_neg, if_neg, if_neg, if_neg, if_neg, if_neg, if_neg, if_neg, if_neg, if_neg, if_neg, if_neg, if_neg, if_neg, if_neg, if_neg, if_pos]
    · exact congrArg (fun x => some (Page.tile x)) (Fin.ext (by simp only [Fin.val_ofNat]; omega))
    all_goals omega

/-- Two pages never lie at one place. -/
theorem pageNum_inj {p q : Page} (h : pageNum p = pageNum q) : p = q := by
  have := pageAt_pageNum p
  rw [h, pageAt_pageNum q] at this
  exact (Option.some.inj this).symm

/-- Registers of different pages, or at different offsets, have different BAR0 offsets. -/
theorem regAddr_ne {p q : Page} {a b : Nat} (ha : a < 0x1000) (hb : b < 0x1000) (h : p ≠ q ∨ a ≠ b) :
    regAddr p a ≠ regAddr q b := by
  intro e
  unfold regAddr at e
  have h1 : pageNum p = pageNum q := by omega
  rcases h with h | h
  · exact h (pageNum_inj h1)
  · omega

/-! ## Words -/

@[simp] theorem regWord_set_same (a : Nat) (w : W32) (s : State) : regWord (setRegWord a w s) a = w := by
  simp [regWord, setRegWord]

theorem regWord_set_other (a b : Nat) (w : W32) (s : State) (h : b ≠ a) :
    regWord (setRegWord a w s) b = regWord s b := by
  simp only [regWord, setRegWord]
  exact sget_sset_other _ _ a b w s.regs h

/-! ## Bits -/

theorem bits_split (x lo w v : Nat) :
    (x % 2 ^ lo + v % 2 ^ w * 2 ^ lo + x / 2 ^ (lo + w) * 2 ^ (lo + w)) / 2 ^ lo =
      v % 2 ^ w + x / 2 ^ (lo + w) * 2 ^ w := by
  have h : x % 2 ^ lo + v % 2 ^ w * 2 ^ lo + x / 2 ^ (lo + w) * 2 ^ (lo + w) =
      x % 2 ^ lo + 2 ^ lo * (v % 2 ^ w + x / 2 ^ (lo + w) * 2 ^ w) := by
    rw [Nat.pow_add, Nat.mul_add]
    have : x / (2 ^ lo * 2 ^ w) * (2 ^ lo * 2 ^ w) = 2 ^ lo * (x / (2 ^ lo * 2 ^ w) * 2 ^ w) := by
      rw [← Nat.mul_assoc, ← Nat.mul_assoc, Nat.mul_comm (x / (2 ^ lo * 2 ^ w)) (2 ^ lo)]
    rw [this, Nat.mul_comm (v % 2 ^ w)]
    omega
  rw [h, Nat.add_mul_div_left _ _ (Nat.two_pow_pos lo), Nat.div_eq_of_lt (Nat.mod_lt _ (Nat.two_pow_pos lo)), Nat.zero_add]

theorem bits_top (x lo w v : Nat) :
    (x % 2 ^ lo + v % 2 ^ w * 2 ^ lo + x / 2 ^ (lo + w) * 2 ^ (lo + w)) / 2 ^ (lo + w) = x / 2 ^ (lo + w) := by
  conv => lhs; rw [Nat.pow_add 2 lo w, ← Nat.div_div_eq_div_mul]
  rw [← Nat.pow_add, bits_split, Nat.add_mul_div_right _ _ (Nat.two_pow_pos w),
    Nat.div_eq_of_lt (Nat.mod_lt _ (Nat.two_pow_pos w)), Nat.zero_add]

theorem bits_low (x lo w v : Nat) :
    (x % 2 ^ lo + v % 2 ^ w * 2 ^ lo + x / 2 ^ (lo + w) * 2 ^ (lo + w)) % 2 ^ lo = x % 2 ^ lo := by
  have h : x % 2 ^ lo + v % 2 ^ w * 2 ^ lo + x / 2 ^ (lo + w) * 2 ^ (lo + w) =
      x % 2 ^ lo + 2 ^ lo * (v % 2 ^ w + x / 2 ^ (lo + w) * 2 ^ w) := by
    rw [Nat.pow_add, Nat.mul_add]
    have : x / (2 ^ lo * 2 ^ w) * (2 ^ lo * 2 ^ w) = 2 ^ lo * (x / (2 ^ lo * 2 ^ w) * 2 ^ w) := by
      rw [← Nat.mul_assoc, ← Nat.mul_assoc, Nat.mul_comm (x / (2 ^ lo * 2 ^ w)) (2 ^ lo)]
    rw [this, Nat.mul_comm (v % 2 ^ w)]
    omega
  rw [h, Nat.add_mul_mod_self_left, Nat.mod_mod]

theorem putBits_toNat (x : W32) (lo w v : Nat) (h : lo + w ≤ 32) :
    (putBits x lo w v).toNat =
      x.toNat % 2 ^ lo + v % 2 ^ w * 2 ^ lo + x.toNat / 2 ^ (lo + w) * 2 ^ (lo + w) := by
  unfold putBits
  rw [BitVec.toNat_ofNat]
  apply Nat.mod_eq_of_lt
  have hx := x.isLt
  have h1 := bits_top x.toNat lo w v
  have hd : x.toNat / 2 ^ (lo + w) < 2 ^ (32 - (lo + w)) := by
    apply Nat.div_lt_of_lt_mul
    rw [← Nat.pow_add]
    have : lo + w + (32 - (lo + w)) = 32 := by omega
    rw [this]; exact hx
  have : (x.toNat % 2 ^ lo + v % 2 ^ w * 2 ^ lo + x.toNat / 2 ^ (lo + w) * 2 ^ (lo + w)) / 2 ^ (lo + w) <
      2 ^ (32 - (lo + w)) := by rw [h1]; exact hd
  have h2 := (Nat.div_lt_iff_lt_mul (Nat.two_pow_pos (lo + w))).mp this
  rw [← Nat.pow_add] at h2
  have : 32 - (lo + w) + (lo + w) = 32 := by omega
  rw [this] at h2
  exact h2

/-- The bits just put. -/
theorem bitsOf_putBits_same (x : W32) (lo w v : Nat) (h : lo + w ≤ 32) :
    bitsOf (putBits x lo w v).toNat lo w = v % 2 ^ w := by
  rw [putBits_toNat x lo w v h]
  unfold bitsOf
  rw [bits_split, Nat.add_mul_mod_self_right, Nat.mod_mod]

/-- Bits beside the ones put. -/
theorem bitsOf_putBits_other (x : W32) (lo w v i n : Nat) (h : lo + w ≤ 32) (ho : i + n ≤ lo ∨ lo + w ≤ i) :
    bitsOf (putBits x lo w v).toNat i n = bitsOf x.toNat i n := by
  rw [putBits_toNat x lo w v h]
  unfold bitsOf
  rcases ho with ho | ho
  · have key : ∀ y, y / 2 ^ i % 2 ^ n = y % 2 ^ lo / 2 ^ i % 2 ^ n := by
      intro y
      have : 2 ^ lo = 2 ^ i * 2 ^ (lo - i) := by rw [← Nat.pow_add]; congr 1; omega
      rw [this, Nat.mod_mul_right_div_self]
      have : 2 ^ (lo - i) = 2 ^ n * 2 ^ (lo - i - n) := by rw [← Nat.pow_add]; congr 1; omega
      rw [this, Nat.mod_mul_right_mod]
    rw [key, bits_low, ← key]
  · have : 2 ^ i = 2 ^ (lo + w) * 2 ^ (i - (lo + w)) := by rw [← Nat.pow_add]; congr 1; omega
    rw [this, ← Nat.div_div_eq_div_mul, bits_top, Nat.div_div_eq_div_mul]

/-! ## Fields -/

/-- The field lies in a page and in a word. -/
def fieldOk (f : Field) : Bool := decide (f.lo + f.width ≤ 32 ∧ f.off < 0x1000)

/-- Two fields share no bit of a page. -/
def fieldsApart (f g : Field) : Bool := decide (f.off ≠ g.off ∨ f.lo + f.width ≤ g.lo ∨ g.lo + g.width ≤ f.lo)

/-- A field reads what was written, within its width. -/
theorem fget_fset_same (p : Page) (f : Field) (v : Nat) (s : State) (h : fieldOk f = true := by decide) :
    fget p f (fset p f v s) = v % 2 ^ f.width := by
  simp only [fieldOk, decide_eq_true_eq] at h
  simp only [fget, fset, regWord_set_same]
  exact bitsOf_putBits_same _ _ _ _ h.1

/-- A field of a page is not changed by a write of one that shares no bit with it. -/
theorem fget_fset_apart (p : Page) (f g : Field) (v : Nat) (s : State) (hf : fieldOk f = true := by decide)
    (hg : fieldOk g = true := by decide) (h : fieldsApart f g = true := by decide) :
    fget p f (fset p g v s) = fget p f s := by
  simp only [fieldOk, fieldsApart, decide_eq_true_eq] at hf hg h
  by_cases ho : f.off = g.off
  · simp only [fget, fset, ho, regWord_set_same]
    refine bitsOf_putBits_other _ _ _ _ _ _ hg.1 ?_
    rcases h with h | h | h
    · exact absurd ho h
    · exact Or.inl h
    · exact Or.inr h
  · simp only [fget, fset]
    rw [regWord_set_other _ _ _ _ (regAddr_ne hf.2 hg.2 (Or.inr ho))]

/-- A field of one page is not changed by a write to another page. -/
theorem fget_fset_page (p q : Page) (f g : Field) (v : Nat) (s : State) (h : p ≠ q) (hf : fieldOk f = true := by decide)
    (hg : fieldOk g = true := by decide) : fget p f (fset q g v s) = fget p f s := by
  simp only [fieldOk, decide_eq_true_eq] at hf hg
  simp only [fget, fset]
  rw [regWord_set_other _ _ _ _ (regAddr_ne hf.2 hg.2 (Or.inl h))]

end Sys2Proof.Machine
end

