-- ==== Sys2Proof/Laws/Only.lean ====
section
/-! SUPPORT. How `Only` and `Gives` follow from the operations that a meaning is made of. -/

namespace Sys2Proof.Machine

theorem Fld.same_refl (x : Fld) (s : State) : x.same s s := by cases x <;> rfl

theorem Fld.same_trans (x : Fld) {s t u : State} (h : x.same s t) (k : x.same t u) : x.same s u := by
  cases x <;> exact Eq.trans k h

/-- A span lies in one of a list. -/
def RegSpan.inside (r : List RegSpan) (x : RegSpan) : Bool :=
  r.any fun y => Nat.ble y.2.1 x.2.1 && Nat.ble x.2.2 y.2.2 && (Nat.beq y.1 0 || Nat.beq y.1 x.1)

/-- A part is one of a list. -/
def Fld.inside (n : List Fld) (x : Fld) : Bool := n.any fun y => Nat.beq y.ctorIdx x.ctorIdx

theorem Fld.mem_of_inside {n : List Fld} {x : Fld} (h : Fld.inside n x = true) : x ∈ n := by
  obtain ⟨y, hy, h⟩ := List.any_eq_true.mp h
  have := congrArg Fld.ofNat (Nat.eq_of_beq_eq_true h)
  simp only [Fld.ofNat_ctorIdx] at this
  exact this ▸ hy

/-- All that m and r allow is allowed by n and q. -/
def within (m : List Fld) (r : List RegSpan) (n : List Fld) (q : List RegSpan) : Bool :=
  m.all (Fld.inside n) && (Fld.inside n .regs || r.all (RegSpan.inside q))

theorem RegSpan.holds_of_inside {q : List RegSpan} {x : RegSpan} {a : Nat} (h : x.inside q = true) (k : x.holds a = true) :
    q.any (fun x => x.holds a) = true := by
  unfold RegSpan.inside at h
  rw [List.any_eq_true] at h ⊢
  obtain ⟨y, hy, h⟩ := h
  refine ⟨y, hy, ?_⟩
  simp only [RegSpan.holds, Bool.and_eq_true, Bool.or_eq_true, decide_eq_true_eq] at k ⊢
  simp only [Bool.and_eq_true, Bool.or_eq_true, Nat.ble_eq] at h
  obtain ⟨⟨h1, h2⟩, h3⟩ := h
  obtain ⟨⟨k1, k2⟩, k3⟩ := k
  refine ⟨⟨by omega, by omega⟩, ?_⟩
  rcases h3 with h3 | h3
  · exact Or.inl (Or.inl (Nat.eq_of_beq_eq_true h3))
  · have h3 := Nat.eq_of_beq_eq_true h3
    rcases k3 with (k3 | k3) | k3
    · exact Or.inl (Or.inl (h3.trans k3))
    · exact Or.inl (Or.inr (k3.trans h3.symm))
    · exact Or.inr (k3.trans h3.symm)

namespace Only

theorem refl (m : List Fld) (r : List RegSpan) (s : State) : Only m r s s := ⟨fun x _ _ => x.same_refl s, fun _ _ _ => rfl, id⟩

theorem trans {m : List Fld} {r : List RegSpan} {s t u : State} (h : Only m r s t) (k : Only m r t u) : Only m r s u :=
  ⟨fun x hx hr => x.same_trans (h.1 x hx hr) (k.1 x hx hr), fun hm a ha => (k.2 hm a ha).trans (h.2 hm a ha),
    fun c => k.3 (h.3 c)⟩

theorem mono {m n : List Fld} {r q : List RegSpan} {s t : State} (hw : within m r n q = true) (h : Only m r s t) :
    Only n q s t := by
  unfold within at hw
  simp only [Bool.and_eq_true, Bool.or_eq_true, List.all_eq_true] at hw
  obtain ⟨h1, h2⟩ := hw
  refine ⟨fun x hx hr => h.1 x (fun hm => hx (Fld.mem_of_inside (h1 x hm))) hr, fun hm a ha => ?_, h.3⟩
  refine h.2 (fun hm' => hm (Fld.mem_of_inside (h1 _ hm'))) a ?_
  rw [List.any_eq_false]
  intro x hx hxa
  rcases h2 with h2 | h2
  · exact hm (Fld.mem_of_inside h2)
  · have := RegSpan.holds_of_inside (h2 x hx) hxa
    rw [this] at ha
    exact absurd ha (by decide)

/-- One more operation of fewer parts. -/
theorem step {m n : List Fld} {r q : List RegSpan} {s t u : State} (k : Only m r t u) (hw : within m r n q = true)
    (h : Only n q s t) : Only n q s u := h.trans (k.mono hw)

theorem ite {m : List Fld} {r : List RegSpan} {s t u : State} {c : Prop} [Decidable c] (h : Only m r s t)
    (k : Only m r s u) : Only m r s (if c then t else u) := by
  split
  · exact h
  · exact k

theorem foldl {α : Type} {m : List Fld} {r : List RegSpan} {s t : State} {f : State → α → State} {l : List α}
    (hf : ∀ s x, Only m r s (f s x)) (h : Only m r s t) : Only m r s (l.foldl f t) := by
  induction l generalizing t with
  | nil => exact h
  | cons x l ih => exact ih (h.trans (hf t x))

/-- The same, the state standing first in a pair. -/
theorem foldl_fst {α β : Type} {m : List Fld} {r : List RegSpan} {s : State} {t : State × β}
    {f : State × β → α → State × β} {l : List α} (hf : ∀ s x, Only m r s.1 (f s x).1) (h : Only m r s t.1) :
    Only m r s (l.foldl f t).1 := by
  induction l generalizing t with
  | nil => exact h
  | cons x l ih => exact ih (h.trans (hf t x))

/-- The same, the state standing second in a pair. -/
theorem foldl_snd {α β : Type} {m : List Fld} {r : List RegSpan} {s : State} {t : β × State}
    {f : β × State → α → β × State} {l : List α} (hf : ∀ s x, Only m r s.2 (f s x).2) (h : Only m r s t.2) :
    Only m r s (l.foldl f t).2 := by
  induction l generalizing t with
  | nil => exact h
  | cons x l ih => exact ih (h.trans (hf t x))

/-- A state that differs from `t` in listed parts. -/
theorem ofParts {m : List Fld} {r : List RegSpan} {s t u : State} (k : ∀ x, x ∉ m → x.same t u) (hr : u.regs = t.regs)
    (hc : canonical t = true → canonical u = true) (h : Only m r s t) : Only m r s u :=
  h.trans ⟨fun x hx _ => k x hx, fun _ a _ => by simp only [regWord, hr], hc⟩

/-- A state that differs from `t` in listed parts, registers among them. -/
theorem ofPartsAll {m : List Fld} {r : List RegSpan} {s t u : State} (hm : Fld.regs ∈ m) (k : ∀ x, x ∉ m → x.same t u)
    (hc : canonical t = true → canonical u = true) (h : Only m r s t) : Only m r s u :=
  h.trans ⟨fun x hx _ => k x hx, fun n => absurd hm n, hc⟩

theorem have_ {m : List Fld} {r : List RegSpan} {s t u : State} (h : Only m r s t) (k : Only m r s t → Only m r s u) :
    Only m r s u := k h

theorem haveFn {α : Type} {P : α → Prop} {t : α} {Q : Prop} (h : P t) (k : P t → Q) : Q := k h

theorem ite_snd {β : Type} {m : List Fld} {r : List RegSpan} {s : State} {t u : β × State} {c : Prop} [Decidable c]
    (h : Only m r s t.2) (k : Only m r s u.2) : Only m r s (if c then t else u).2 := by
  split
  · exact h
  · exact k

theorem ite_fst {β : Type} {m : List Fld} {r : List RegSpan} {s : State} {t u : State × β} {c : Prop} [Decidable c]
    (h : Only m r s t.1) (k : Only m r s u.1) : Only m r s (if c then t else u).1 := by
  split
  · exact h
  · exact k

theorem ofSnd {β : Type} {m : List Fld} {r : List RegSpan} {s t : State} {p : β × State} {x : β} (e : p = (x, t))
    (h : Only m r s p.2) : Only m r s t := by rw [e] at h; exact h

theorem ofFst {β : Type} {m : List Fld} {r : List RegSpan} {s t : State} {p : State × β} {x : β} (e : p = (t, x))
    (h : Only m r s p.1) : Only m r s t := by rw [e] at h; exact h

theorem ofSnd2 {β γ : Type} {m : List Fld} {r : List RegSpan} {s t : State} {p : β × γ × State} {x : β} {y : γ}
    (e : p = (x, y, t)) (h : Only m r s p.2.2) : Only m r s t := by rw [e] at h; exact h

theorem pair {β : Type} {m : List Fld} {r : List RegSpan} {s t : State} {x : β} (h : Only m r s t) :
    Only m r s (x, t).2 := h

theorem pairFst {β : Type} {m : List Fld} {r : List RegSpan} {s t : State} {x : β} (h : Only m r s t) :
    Only m r s (t, x).1 := h

end Only

namespace Gives

theorem next {m : List Fld} {r : List RegSpan} {s t : State} (h : Only m r s t) : Gives m r s (.next t) := ⟨t, rfl, h⟩

theorem ite {m : List Fld} {r : List RegSpan} {s : State} {o p : Host.Outcome State Fault Refusal} {c : Prop}
    [Decidable c] (h : Gives m r s o) (k : Gives m r s p) : Gives m r s (if c then o else p) := by
  split
  · exact h
  · exact k

theorem mono {m n : List Fld} {r q : List RegSpan} {s : State} {o : Host.Outcome State Fault Refusal}
    (hw : within m r n q = true) (h : Gives m r s o) : Gives n q s o := by
  obtain ⟨t, ht, k⟩ := h
  exact ⟨t, ht, k.mono hw⟩

/-- After a first operation. -/
theorem after {m n : List Fld} {p q : List RegSpan} {r s : State} {o : Host.Outcome State Fault Refusal}
    (k : Gives m p s o) (hw : within m p n q = true) (h : Only n q r s) : Gives n q r o := by
  obtain ⟨t, ht, k⟩ := k
  exact ⟨t, ht, h.trans (k.mono hw)⟩

theorem have_ {m : List Fld} {r : List RegSpan} {s t : State} {o : Host.Outcome State Fault Refusal} (h : Only m r s t)
    (k : Only m r s t → Gives m r s o) : Gives m r s o := k h

/-- The next state, named. -/
theorem only {m : List Fld} {r : List RegSpan} {s t : State} {o : Host.Outcome State Fault Refusal} (h : Gives m r s o)
    (k : o = .next t) : Only m r s t := by
  obtain ⟨u, hu, h⟩ := h
  rw [k] at hu
  cases hu
  exact h

end Gives

/-! ## Registers -/

theorem typeAt_regAddr (p : Page) (o : Nat) (h : o < 0x1000) : typeAt (regAddr p o) = pageType p := by
  unfold typeAt regAddr
  rw [show (pageNum p * 0x1000 + o) / 0x1000 = pageNum p by omega, pageAt_pageNum]

theorem canonical_setRegWord (a : Nat) (w : W32) (s : State) (h : canonical s = true) :
    canonical (setRegWord a w s) = true := by
  simp only [canonical, Bool.and_eq_true] at h ⊢
  exact ⟨⟨⟨swf_sset resetWord a w s.regs h.1.1.1, h.1.1.2⟩, h.1.2⟩, h.2⟩

/-- A register word of a page. -/
theorem setRegWord_only (k o : Nat) (p : Page) (w : W32) (s : State) (hk : pageType p = k) (ho : Nat.blt o 0x1000 = true) :
    Only [] [(k, o, o)] s (setRegWord (regAddr p o) w s) := by
  have ho : o < 0x1000 := by simpa using ho
  refine ⟨fun x _ hr => ?_, fun _ a ha => ?_, canonical_setRegWord _ _ _⟩
  · cases x <;> first | rfl | exact absurd rfl hr
  · refine regWord_set_other _ _ _ _ fun e => ?_
    subst e
    simp only [List.any_cons, List.any_nil, Bool.or_false, RegSpan.holds, typeAt_regAddr p o ho, hk, decide_true, Bool.or_true, Bool.true_or,
      Bool.and_true, decide_eq_false_iff_not] at ha
    refine ha ?_
    unfold regAddr
    omega

/-- The same, of that page alone. -/
theorem setRegWord_at (p : Page) (o : Nat) (w : W32) (s : State) (ho : Nat.blt o 0x1000 = true) :
    Only [] [span p o o] s (setRegWord (regAddr p o) w s) := by
  have ho : o < 0x1000 := by simpa using ho
  refine ⟨fun x _ hr => ?_, fun _ a ha => ?_, canonical_setRegWord _ _ _⟩
  · cases x <;> first | rfl | exact absurd rfl hr
  · refine regWord_set_other _ _ _ _ fun e => ?_
    subst e
    have h1 : regAddr p o / 0x1000 = pageNum p := by unfold regAddr; omega
    have h2 : regAddr p o % 0x1000 = o := by unfold regAddr; omega
    simp [RegSpan.holds, span, h1, h2] at ha

theorem fset_at (p : Page) (f : Field) (v : Nat) (s : State) (ho : Nat.blt f.off 0x1000 = true) :
    Only [] [span p f.off f.off] s (fset p f v s) := setRegWord_at p f.off _ s ho

theorem fset_only (k o : Nat) (p : Page) (f : Field) (v : Nat) (s : State) (hk : pageType p = k) (hf : f.off = o)
    (ho : Nat.blt o 0x1000 = true) : Only [] [(k, o, o)] s (fset p f v s) := by
  unfold fset
  rw [hf]
  exact setRegWord_only k o p _ s hk ho

theorem setRegWord_all (a : Nat) (w : W32) (s : State) : Only [.regs] [] s (setRegWord a w s) :=
  ⟨fun x _ hr => by cases x <;> first | rfl | exact absurd rfl hr, fun h => absurd (List.mem_singleton.mpr rfl) h,
    canonical_setRegWord _ _ _⟩

theorem fset_any (o : Nat) (p : Page) (f : Field) (v : Nat) (s : State) (hf : f.off = o) (ho : Nat.blt o 0x1000 = true) :
    Only [] [(0, o, o)] s (fset p f v s) :=
  (fset_only (pageType p) o p f v s rfl hf ho).mono (by simp [within, Fld.inside, RegSpan.inside])

theorem fset_all (p : Page) (f : Field) (v : Nat) (s : State) : Only [.regs] [] s (fset p f v s) := setRegWord_all _ _ _

theorem fsetI_all (p : Page) (f : Field) (i v : Nat) (s : State) : Only [.regs] [] s (fsetI p f i v s) := setRegWord_all _ _ _

theorem fsetI_only (k o : Nat) (p : Page) (f : Field) (i v : Nat) (s : State) (hk : pageType p = k) (hf : f.off + 4 * i = o)
    (ho : Nat.blt o 0x1000 = true) : Only [] [(k, o, o)] s (fsetI p f i v s) := by
  unfold fsetI
  rw [hf]
  exact setRegWord_only k o p _ s hk ho

/-! ## The canonical form -/

theorem canonical_eq (s : State) : canonical s = true ↔ (swf resetWord 0 s.regs = true ∧ swf (fun _ => 0) 0 s.sram = true ∧
    swf (fun _ => false) 0 s.sramPoison = true ∧ swf (fun _ => 0) 0 s.range.mem = true ∧
    swf (fun _ => false) 0 s.range.poison = true) := by
  simp only [canonical, Range.wf, Bool.and_eq_true, and_assoc]

theorem swf_put {α : Type} [DecidableEq α] (d : α) (k : Nat) (v : α) (m : Store α) (h : swf (fun _ => d) 0 m = true) :
    swf (fun _ => d) 0 (sset d k v m) = true := swf_sset (fun _ => d) k v m h

theorem swf_fold {α β : Type} [DecidableEq α] (d : Nat → α) (f : Store α → β → Store α) (l : List β) (m : Store α)
    (hf : ∀ m x, swf d 0 m = true → swf d 0 (f m x) = true) (h : swf d 0 m = true) : swf d 0 (l.foldl f m) = true := by
  induction l generalizing m with
  | nil => exact h
  | cons x l ih => exact ih _ (hf m x h)

/-- Writing one key after the other keeps it. -/
theorem swf_puts {α β : Type} [DecidableEq α] (d : α) (k : β → Nat) (v : β → α) (l : List β) (m : Store α)
    (h : swf (fun _ => d) 0 m = true) : swf (fun _ => d) 0 (l.foldl (fun m x => sset d (k x) (v x) m) m) = true :=
  swf_fold _ _ l m (fun m x h => swf_put d (k x) (v x) m h) h

/-- A change of the range that keeps its canonical form. -/
theorem canonical_range {s : State} {v : Range} (hv : s.range.wf = true → v.wf = true) (h : canonical s = true) :
    canonical { s with range := v } = true := by
  simp only [canonical, Bool.and_eq_true] at h ⊢
  exact ⟨h.1, hv h.2⟩

/-! ## One field at a time -/

theorem Only.set_pins {m : List Fld} {r : List RegSpan} {s t : State} {v} (hm : m.contains Fld.pins = true)
    (h : Only m r s t) : Only m r s { t with pins := v } := by
  refine h.trans ⟨fun x hx _ => ?_, fun _ _ _ => rfl, fun c => c⟩
  cases x <;> first | rfl | exact absurd (List.contains_iff_mem.mp hm) hx

theorem Only.set_fuses {m : List Fld} {r : List RegSpan} {s t : State} {v} (hm : m.contains Fld.fuses = true)
    (h : Only m r s t) : Only m r s { t with fuses := v } := by
  refine h.trans ⟨fun x hx _ => ?_, fun _ _ _ => rfl, fun c => c⟩
  cases x <;> first | rfl | exact absurd (List.contains_iff_mem.mp hm) hx

theorem Only.set_phase {m : List Fld} {r : List RegSpan} {s t : State} {v} (hm : m.contains Fld.phase = true)
    (h : Only m r s t) : Only m r s { t with phase := v } := by
  refine h.trans ⟨fun x hx _ => ?_, fun _ _ _ => rfl, fun c => c⟩
  cases x <;> first | rfl | exact absurd (List.contains_iff_mem.mp hm) hx

theorem Only.set_timer {m : List Fld} {r : List RegSpan} {s t : State} {v} (hm : m.contains Fld.timer = true)
    (h : Only m r s t) : Only m r s { t with timer := v } := by
  refine h.trans ⟨fun x hx _ => ?_, fun _ _ _ => rfl, fun c => c⟩
  cases x <;> first | rfl | exact absurd (List.contains_iff_mem.mp hm) hx

theorem Only.set_timerFrac {m : List Fld} {r : List RegSpan} {s t : State} {v} (hm : m.contains Fld.timerFrac = true)
    (h : Only m r s t) : Only m r s { t with timerFrac := v } := by
  refine h.trans ⟨fun x hx _ => ?_, fun _ _ _ => rfl, fun c => c⟩
  cases x <;> first | rfl | exact absurd (List.contains_iff_mem.mp hm) hx

theorem Only.set_regs {m : List Fld} {r : List RegSpan} {s t : State} {v} (hm : m.contains Fld.regs = true)
    (hc : canonical t = true → canonical { t with regs := v } = true) (h : Only m r s t) : Only m r s { t with regs := v } := by
  refine h.trans ⟨fun x hx _ => ?_, fun n => absurd (List.contains_iff_mem.mp hm) n, hc⟩
  cases x <;> first | rfl | exact absurd (List.contains_iff_mem.mp hm) hx

theorem Only.set_latched {m : List Fld} {r : List RegSpan} {s t : State} {v} (hm : m.contains Fld.latched = true)
    (h : Only m r s t) : Only m r s { t with latched := v } := by
  refine h.trans ⟨fun x hx _ => ?_, fun _ _ _ => rfl, fun c => c⟩
  cases x <;> first | rfl | exact absurd (List.contains_iff_mem.mp hm) hx

theorem Only.set_causes {m : List Fld} {r : List RegSpan} {s t : State} {v} (hm : m.contains Fld.causes = true)
    (h : Only m r s t) : Only m r s { t with causes := v } := by
  refine h.trans ⟨fun x hx _ => ?_, fun _ _ _ => rfl, fun c => c⟩
  cases x <;> first | rfl | exact absurd (List.contains_iff_mem.mp hm) hx

theorem Only.set_staleMid {m : List Fld} {r : List RegSpan} {s t : State} {v} (hm : m.contains Fld.staleMid = true)
    (h : Only m r s t) : Only m r s { t with staleMid := v } := by
  refine h.trans ⟨fun x hx _ => ?_, fun _ _ _ => rfl, fun c => c⟩
  cases x <;> first | rfl | exact absurd (List.contains_iff_mem.mp hm) hx

theorem Only.set_tiles {m : List Fld} {r : List RegSpan} {s t : State} {v} (hm : m.contains Fld.tiles = true)
    (h : Only m r s t) : Only m r s { t with tiles := v } := by
  refine h.trans ⟨fun x hx _ => ?_, fun _ _ _ => rfl, fun c => c⟩
  cases x <;> first | rfl | exact absurd (List.contains_iff_mem.mp hm) hx

theorem Only.set_sram {m : List Fld} {r : List RegSpan} {s t : State} {v} (hm : m.contains Fld.sram = true)
    (hc : canonical t = true → canonical { t with sram := v } = true) (h : Only m r s t) : Only m r s { t with sram := v } := by
  refine h.trans ⟨fun x hx _ => ?_, fun _ _ _ => rfl, hc⟩
  cases x <;> first | rfl | exact absurd (List.contains_iff_mem.mp hm) hx

theorem Only.set_sramPoison {m : List Fld} {r : List RegSpan} {s t : State} {v} (hm : m.contains Fld.sramPoison = true)
    (hc : canonical t = true → canonical { t with sramPoison := v } = true) (h : Only m r s t) : Only m r s { t with sramPoison := v } := by
  refine h.trans ⟨fun x hx _ => ?_, fun _ _ _ => rfl, hc⟩
  cases x <;> first | rfl | exact absurd (List.contains_iff_mem.mp hm) hx

theorem Only.set_mesh {m : List Fld} {r : List RegSpan} {s t : State} {v} (hm : m.contains Fld.mesh = true)
    (h : Only m r s t) : Only m r s { t with mesh := v } := by
  refine h.trans ⟨fun x hx _ => ?_, fun _ _ _ => rfl, fun c => c⟩
  cases x <;> first | rfl | exact absurd (List.contains_iff_mem.mp hm) hx

theorem Only.set_rowBus {m : List Fld} {r : List RegSpan} {s t : State} {v} (hm : m.contains Fld.rowBus = true)
    (h : Only m r s t) : Only m r s { t with rowBus := v } := by
  refine h.trans ⟨fun x hx _ => ?_, fun _ _ _ => rfl, fun c => c⟩
  cases x <;> first | rfl | exact absurd (List.contains_iff_mem.mp hm) hx

theorem Only.set_scaleBus {m : List Fld} {r : List RegSpan} {s t : State} {v} (hm : m.contains Fld.scaleBus = true)
    (h : Only m r s t) : Only m r s { t with scaleBus := v } := by
  refine h.trans ⟨fun x hx _ => ?_, fun _ _ _ => rfl, fun c => c⟩
  cases x <;> first | rfl | exact absurd (List.contains_iff_mem.mp hm) hx

theorem Only.set_range {m : List Fld} {r : List RegSpan} {s t : State} {v} (hm : m.contains Fld.range = true)
    (hc : canonical t = true → canonical { t with range := v } = true) (h : Only m r s t) : Only m r s { t with range := v } := by
  refine h.trans ⟨fun x hx _ => ?_, fun _ _ _ => rfl, hc⟩
  cases x <;> first | rfl | exact absurd (List.contains_iff_mem.mp hm) hx

theorem Only.set_zip {m : List Fld} {r : List RegSpan} {s t : State} {v} (hm : m.contains Fld.zip = true)
    (h : Only m r s t) : Only m r s { t with zip := v } := by
  refine h.trans ⟨fun x hx _ => ?_, fun _ _ _ => rfl, fun c => c⟩
  cases x <;> first | rfl | exact absurd (List.contains_iff_mem.mp hm) hx

theorem Only.set_packed {m : List Fld} {r : List RegSpan} {s t : State} {v} (hm : m.contains Fld.packed = true)
    (h : Only m r s t) : Only m r s { t with packed := v } := by
  refine h.trans ⟨fun x hx _ => ?_, fun _ _ _ => rfl, fun c => c⟩
  cases x <;> first | rfl | exact absurd (List.contains_iff_mem.mp hm) hx

theorem Only.set_bindings {m : List Fld} {r : List RegSpan} {s t : State} {v} (hm : m.contains Fld.bindings = true)
    (h : Only m r s t) : Only m r s { t with bindings := v } := by
  refine h.trans ⟨fun x hx _ => ?_, fun _ _ _ => rfl, fun c => c⟩
  cases x <;> first | rfl | exact absurd (List.contains_iff_mem.mp hm) hx

theorem Only.set_reqs {m : List Fld} {r : List RegSpan} {s t : State} {v} (hm : m.contains Fld.reqs = true)
    (h : Only m r s t) : Only m r s { t with reqs := v } := by
  refine h.trans ⟨fun x hx _ => ?_, fun _ _ _ => rfl, fun c => c⟩
  cases x <;> first | rfl | exact absurd (List.contains_iff_mem.mp hm) hx

theorem Only.set_chans {m : List Fld} {r : List RegSpan} {s t : State} {v} (hm : m.contains Fld.chans = true)
    (h : Only m r s t) : Only m r s { t with chans := v } := by
  refine h.trans ⟨fun x hx _ => ?_, fun _ _ _ => rfl, fun c => c⟩
  cases x <;> first | rfl | exact absurd (List.contains_iff_mem.mp hm) hx

theorem Only.set_serials {m : List Fld} {r : List RegSpan} {s t : State} {v} (hm : m.contains Fld.serials = true)
    (h : Only m r s t) : Only m r s { t with serials := v } := by
  refine h.trans ⟨fun x hx _ => ?_, fun _ _ _ => rfl, fun c => c⟩
  cases x <;> first | rfl | exact absurd (List.contains_iff_mem.mp hm) hx

theorem Only.set_handles {m : List Fld} {r : List RegSpan} {s t : State} {v} (hm : m.contains Fld.handles = true)
    (h : Only m r s t) : Only m r s { t with handles := v } := by
  refine h.trans ⟨fun x hx _ => ?_, fun _ _ _ => rfl, fun c => c⟩
  cases x <;> first | rfl | exact absurd (List.contains_iff_mem.mp hm) hx

theorem Only.set_versions {m : List Fld} {r : List RegSpan} {s t : State} {v} (hm : m.contains Fld.versions = true)
    (h : Only m r s t) : Only m r s { t with versions := v } := by
  refine h.trans ⟨fun x hx _ => ?_, fun _ _ _ => rfl, fun c => c⟩
  cases x <;> first | rfl | exact absurd (List.contains_iff_mem.mp hm) hx

theorem Only.set_rallies {m : List Fld} {r : List RegSpan} {s t : State} {v} (hm : m.contains Fld.rallies = true)
    (h : Only m r s t) : Only m r s { t with rallies := v } := by
  refine h.trans ⟨fun x hx _ => ?_, fun _ _ _ => rfl, fun c => c⟩
  cases x <;> first | rfl | exact absurd (List.contains_iff_mem.mp hm) hx

theorem Only.set_selects {m : List Fld} {r : List RegSpan} {s t : State} {v} (hm : m.contains Fld.selects = true)
    (h : Only m r s t) : Only m r s { t with selects := v } := by
  refine h.trans ⟨fun x hx _ => ?_, fun _ _ _ => rfl, fun c => c⟩
  cases x <;> first | rfl | exact absurd (List.contains_iff_mem.mp hm) hx

theorem Only.set_deferred {m : List Fld} {r : List RegSpan} {s t : State} {v} (hm : m.contains Fld.deferred = true)
    (h : Only m r s t) : Only m r s { t with deferred := v } := by
  refine h.trans ⟨fun x hx _ => ?_, fun _ _ _ => rfl, fun c => c⟩
  cases x <;> first | rfl | exact absurd (List.contains_iff_mem.mp hm) hx

theorem Only.set_ws {m : List Fld} {r : List RegSpan} {s t : State} {v} (hm : m.contains Fld.ws = true)
    (h : Only m r s t) : Only m r s { t with ws := v } := by
  refine h.trans ⟨fun x hx _ => ?_, fun _ _ _ => rfl, fun c => c⟩
  cases x <;> first | rfl | exact absurd (List.contains_iff_mem.mp hm) hx

theorem Only.set_mail {m : List Fld} {r : List RegSpan} {s t : State} {v} (hm : m.contains Fld.mail = true)
    (h : Only m r s t) : Only m r s { t with mail := v } := by
  refine h.trans ⟨fun x hx _ => ?_, fun _ _ _ => rfl, fun c => c⟩
  cases x <;> first | rfl | exact absurd (List.contains_iff_mem.mp hm) hx

theorem Only.set_hostFns {m : List Fld} {r : List RegSpan} {s t : State} {v} (hm : m.contains Fld.hostFns = true)
    (h : Only m r s t) : Only m r s { t with hostFns := v } := by
  refine h.trans ⟨fun x hx _ => ?_, fun _ _ _ => rfl, fun c => c⟩
  cases x <;> first | rfl | exact absurd (List.contains_iff_mem.mp hm) hx

theorem Only.set_badSlots {m : List Fld} {r : List RegSpan} {s t : State} {v} (hm : m.contains Fld.badSlots = true)
    (h : Only m r s t) : Only m r s { t with badSlots := v } := by
  refine h.trans ⟨fun x hx _ => ?_, fun _ _ _ => rfl, fun c => c⟩
  cases x <;> first | rfl | exact absurd (List.contains_iff_mem.mp hm) hx

theorem Only.set_parity {m : List Fld} {r : List RegSpan} {s t : State} {v} (hm : m.contains Fld.parity = true)
    (h : Only m r s t) : Only m r s { t with parity := v } := by
  refine h.trans ⟨fun x hx _ => ?_, fun _ _ _ => rfl, fun c => c⟩
  cases x <;> first | rfl | exact absurd (List.contains_iff_mem.mp hm) hx

theorem Only.set_powerN {m : List Fld} {r : List RegSpan} {s t : State} {v} (hm : m.contains Fld.powerN = true)
    (h : Only m r s t) : Only m r s { t with powerN := v } := by
  refine h.trans ⟨fun x hx _ => ?_, fun _ _ _ => rfl, fun c => c⟩
  cases x <;> first | rfl | exact absurd (List.contains_iff_mem.mp hm) hx

theorem Only.set_powerS {m : List Fld} {r : List RegSpan} {s t : State} {v} (hm : m.contains Fld.powerS = true)
    (h : Only m r s t) : Only m r s { t with powerS := v } := by
  refine h.trans ⟨fun x hx _ => ?_, fun _ _ _ => rfl, fun c => c⟩
  cases x <;> first | rfl | exact absurd (List.contains_iff_mem.mp hm) hx

theorem Only.set_votes {m : List Fld} {r : List RegSpan} {s t : State} {v} (hm : m.contains Fld.votes = true)
    (h : Only m r s t) : Only m r s { t with votes := v } := by
  refine h.trans ⟨fun x hx _ => ?_, fun _ _ _ => rfl, fun c => c⟩
  cases x <;> first | rfl | exact absurd (List.contains_iff_mem.mp hm) hx

theorem Only.set_samples {m : List Fld} {r : List RegSpan} {s t : State} {v} (hm : m.contains Fld.samples = true)
    (h : Only m r s t) : Only m r s { t with samples := v } := by
  refine h.trans ⟨fun x hx _ => ?_, fun _ _ _ => rfl, fun c => c⟩
  cases x <;> first | rfl | exact absurd (List.contains_iff_mem.mp hm) hx

theorem Only.set_lowSamples {m : List Fld} {r : List RegSpan} {s t : State} {v} (hm : m.contains Fld.lowSamples = true)
    (h : Only m r s t) : Only m r s { t with lowSamples := v } := by
  refine h.trans ⟨fun x hx _ => ?_, fun _ _ _ => rfl, fun c => c⟩
  cases x <;> first | rfl | exact absurd (List.contains_iff_mem.mp hm) hx

theorem Only.set_ring {m : List Fld} {r : List RegSpan} {s t : State} {v} (hm : m.contains Fld.ring = true)
    (h : Only m r s t) : Only m r s { t with ring := v } := by
  refine h.trans ⟨fun x hx _ => ?_, fun _ _ _ => rfl, fun c => c⟩
  cases x <;> first | rfl | exact absurd (List.contains_iff_mem.mp hm) hx

theorem Only.set_qps {m : List Fld} {r : List RegSpan} {s t : State} {v} (hm : m.contains Fld.qps = true)
    (h : Only m r s t) : Only m r s { t with qps := v } := by
  refine h.trans ⟨fun x hx _ => ?_, fun _ _ _ => rfl, fun c => c⟩
  cases x <;> first | rfl | exact absurd (List.contains_iff_mem.mp hm) hx

theorem Only.set_heldOut {m : List Fld} {r : List RegSpan} {s t : State} {v} (hm : m.contains Fld.heldOut = true)
    (h : Only m r s t) : Only m r s { t with heldOut := v } := by
  refine h.trans ⟨fun x hx _ => ?_, fun _ _ _ => rfl, fun c => c⟩
  cases x <;> first | rfl | exact absurd (List.contains_iff_mem.mp hm) hx

theorem Only.set_replicaN {m : List Fld} {r : List RegSpan} {s t : State} {v} (hm : m.contains Fld.replicaN = true)
    (h : Only m r s t) : Only m r s { t with replicaN := v } := by
  refine h.trans ⟨fun x hx _ => ?_, fun _ _ _ => rfl, fun c => c⟩
  cases x <;> first | rfl | exact absurd (List.contains_iff_mem.mp hm) hx

theorem Only.set_replicaS {m : List Fld} {r : List RegSpan} {s t : State} {v} (hm : m.contains Fld.replicaS = true)
    (h : Only m r s t) : Only m r s { t with replicaS := v } := by
  refine h.trans ⟨fun x hx _ => ?_, fun _ _ _ => rfl, fun c => c⟩
  cases x <;> first | rfl | exact absurd (List.contains_iff_mem.mp hm) hx

theorem Only.set_complexN {m : List Fld} {r : List RegSpan} {s t : State} {v} (hm : m.contains Fld.complexN = true)
    (h : Only m r s t) : Only m r s { t with complexN := v } := by
  refine h.trans ⟨fun x hx _ => ?_, fun _ _ _ => rfl, fun c => c⟩
  cases x <;> first | rfl | exact absurd (List.contains_iff_mem.mp hm) hx

theorem Only.set_complexS {m : List Fld} {r : List RegSpan} {s t : State} {v} (hm : m.contains Fld.complexS = true)
    (h : Only m r s t) : Only m r s { t with complexS := v } := by
  refine h.trans ⟨fun x hx _ => ?_, fun _ _ _ => rfl, fun c => c⟩
  cases x <;> first | rfl | exact absurd (List.contains_iff_mem.mp hm) hx

theorem Only.set_update {m : List Fld} {r : List RegSpan} {s t : State} {v} (hm : m.contains Fld.update = true)
    (h : Only m r s t) : Only m r s { t with update := v } := by
  refine h.trans ⟨fun x hx _ => ?_, fun _ _ _ => rfl, fun c => c⟩
  cases x <;> first | rfl | exact absurd (List.contains_iff_mem.mp hm) hx

theorem Only.set_boot {m : List Fld} {r : List RegSpan} {s t : State} {v} (hm : m.contains Fld.boot = true)
    (h : Only m r s t) : Only m r s { t with boot := v } := by
  refine h.trans ⟨fun x hx _ => ?_, fun _ _ _ => rfl, fun c => c⟩
  cases x <;> first | rfl | exact absurd (List.contains_iff_mem.mp hm) hx

theorem Only.set_restores {m : List Fld} {r : List RegSpan} {s t : State} {v} (hm : m.contains Fld.restores = true)
    (h : Only m r s t) : Only m r s { t with restores := v } := by
  refine h.trans ⟨fun x hx _ => ?_, fun _ _ _ => rfl, fun c => c⟩
  cases x <;> first | rfl | exact absurd (List.contains_iff_mem.mp hm) hx

theorem Only.set_releasedAt {m : List Fld} {r : List RegSpan} {s t : State} {v} (hm : m.contains Fld.releasedAt = true)
    (h : Only m r s t) : Only m r s { t with releasedAt := v } := by
  refine h.trans ⟨fun x hx _ => ?_, fun _ _ _ => rfl, fun c => c⟩
  cases x <;> first | rfl | exact absurd (List.contains_iff_mem.mp hm) hx

theorem Only.set_sensors {m : List Fld} {r : List RegSpan} {s t : State} {v} (hm : m.contains Fld.sensors = true)
    (h : Only m r s t) : Only m r s { t with sensors := v } := by
  refine h.trans ⟨fun x hx _ => ?_, fun _ _ _ => rfl, fun c => c⟩
  cases x <;> first | rfl | exact absurd (List.contains_iff_mem.mp hm) hx

theorem Only.set_save {m : List Fld} {r : List RegSpan} {s t : State} {v} (hm : m.contains Fld.save = true)
    (h : Only m r s t) : Only m r s { t with save := v } := by
  refine h.trans ⟨fun x hx _ => ?_, fun _ _ _ => rfl, fun c => c⟩
  cases x <;> first | rfl | exact absurd (List.contains_iff_mem.mp hm) hx

theorem Only.set_record {m : List Fld} {r : List RegSpan} {s t : State} {v} (hm : m.contains Fld.record = true)
    (h : Only m r s t) : Only m r s { t with record := v } := by
  refine h.trans ⟨fun x hx _ => ?_, fun _ _ _ => rfl, fun c => c⟩
  cases x <;> first | rfl | exact absurd (List.contains_iff_mem.mp hm) hx

theorem Only.set_free {m : List Fld} {r : List RegSpan} {s t : State} {v} (hm : m.contains Fld.free = true)
    (h : Only m r s t) : Only m r s { t with free := v } := by
  refine h.trans ⟨fun x hx _ => ?_, fun _ _ _ => rfl, fun c => c⟩
  cases x <;> first | rfl | exact absurd (List.contains_iff_mem.mp hm) hx

theorem Only.set_out {m : List Fld} {r : List RegSpan} {s t : State} {v} (hm : m.contains Fld.out = true)
    (h : Only m r s t) : Only m r s { t with out := v } := by
  refine h.trans ⟨fun x hx _ => ?_, fun _ _ _ => rfl, fun c => c⟩
  cases x <;> first | rfl | exact absurd (List.contains_iff_mem.mp hm) hx

theorem Only.set_pending {m : List Fld} {r : List RegSpan} {s t : State} {v} (hm : m.contains Fld.pending = true)
    (h : Only m r s t) : Only m r s { t with pending := v } := by
  refine h.trans ⟨fun x hx _ => ?_, fun _ _ _ => rfl, fun c => c⟩
  cases x <;> first | rfl | exact absurd (List.contains_iff_mem.mp hm) hx

end Sys2Proof.Machine
end

