-- ==== Sys2Proof/Laws/OnlyOps.lean ====
section
/-! SUPPORT. What the operations and the meanings of Machine/Ops.lean can change (`Only`, `Gives`): the parts of the state and the
registers, whatever the operands are. -/

namespace Sys2Proof.Machine

set_option linter.unusedSimpArgs false
set_option maxRecDepth 20000
set_option Elab.async false

theorem wrapInc_only (k0 o1 : Nat) : ∀ a0 a1 a2 s, pageType a0 = k0 → Nat.beq k0 0x60 = false → a1.off = o1 → Nat.blt o1 0x1000 = true → Only [] [(k0, o1, o1)] s (wrapInc a0 a1 a2 s) := by
  intro a0 a1 a2 s hk0 hn0 hf1 hb1
  unfold wrapInc
  refine Only.step (fset_only k0 o1 _ _ _ _ hk0 hf1 hb1) (by first | decide +kernel | simp [within, Fld.inside, RegSpan.inside]) ?_
  exact Only.refl _ _ _

theorem wrapInc_any (o1 : Nat) : ∀ a0 a1 a2 s, a1.off = o1 → Nat.blt o1 0x1000 = true → Only [] [(0x0, o1, o1)] s (wrapInc a0 a1 a2 s) := by
  intro a0 a1 a2 s hf1 hb1
  unfold wrapInc
  refine Only.step (fset_any o1 _ _ _ _ hf1 hb1) (by first | decide +kernel | simp [within, Fld.inside, RegSpan.inside]) ?_
  exact Only.refl _ _ _

theorem setMail_only : ∀ a0 a1 a2 s, Only [.mail] [] s (setMail a0 a1 a2 s) := by
  intro a0 a1 a2 s
  unfold setMail
  refine Only.set_mail (by decide +kernel) ?_
  exact Only.refl _ _ _

theorem raiseMail_only : ∀ a0 a1 a2 s, Only [.mail] [] s (raiseMail a0 a1 a2 s) := by
  intro a0 a1 a2 s
  unfold raiseMail
  extract_lets +onlyGivenNames x1
  clear_value x1
  refine Only.step (setMail_only _ _ _ _) (by decide +kernel) ?_
  exact Only.refl _ _ _

theorem holdOut_only : ∀ a0 a1 s, Only [.heldOut] [] s (holdOut a0 a1 s) := by
  intro a0 a1 s
  unfold holdOut
  extract_lets +onlyGivenNames x1
  clear_value x1
  refine Only.set_heldOut (by decide +kernel) ?_
  exact Only.refl _ _ _

theorem push_only : ∀ a0 s, Only [.out] [] s (push a0 s) := by
  intro a0 s
  unfold push
  refine Only.set_out (by decide +kernel) ?_
  exact Only.refl _ _ _

theorem sendIrq_only : ∀ a0 a1 s, Only [.heldOut, .out] [] s (sendIrq a0 a1 s) := by
  intro a0 a1 s
  unfold sendIrq
  refine Only.ite ?_ ?_
  · refine Only.step (holdOut_only _ _ _) (by decide +kernel) ?_
    exact Only.refl _ _ _
  · refine Only.step (push_only _ _) (by decide +kernel) ?_
    exact Only.refl _ _ _

theorem interrupt_only : ∀ a0 a1 s, Only [.heldOut, .out] [] s (interrupt a0 a1 s) := by
  intro a0 a1 s
  unfold interrupt
  refine Only.step (sendIrq_only _ _ _) (by decide +kernel) ?_
  exact Only.refl _ _ _

theorem deviceInterrupt_only : ∀ s, Only [.heldOut, .out] [] s (deviceInterrupt s) := by
  intro s
  unfold deviceInterrupt
  extract_lets +onlyGivenNames x1
  refine Only.haveFn (P := fun x => ∀ y1_0 y1_1, Only [.heldOut, .out] [] y1_1 (x y1_0 y1_1)) (t := x1) ?_ fun hx1 => ?_
  · intro y1_0 y1_1
    subst x1
    dsimp -zeta only
    refine Only.ite ?_ ?_
    · refine Only.step (sendIrq_only _ _ _) (by decide +kernel) ?_
      exact Only.refl _ _ _
    · exact Only.refl _ _ _
  clear_value x1
  refine Only.trans ?_ (hx1 ..)
  refine Only.trans ?_ (hx1 ..)
  exact Only.refl _ _ _

theorem pageInterrupt_only (k0 : Nat) : ∀ a0 s, pageType a0 = k0 → Nat.beq k0 0x60 = false → Only [.heldOut, .out] [] s (pageInterrupt a0 s) := by
  intro a0 s hk0 hn0
  unfold pageInterrupt
  split
  · refine Only.step (interrupt_only _ _ _) (by first | decide +kernel | simp [within, Fld.inside, RegSpan.inside]) ?_
    exact Only.refl _ _ _
  · refine Only.step (deviceInterrupt_only _) (by first | decide +kernel | simp [within, Fld.inside, RegSpan.inside]) ?_
    exact Only.refl _ _ _

theorem pageInterrupt_any : ∀ a0 s, Only [.heldOut, .out] [] s (pageInterrupt a0 s) := by
  intro a0 s
  unfold pageInterrupt
  split
  · refine Only.step (interrupt_only _ _ _) (by decide +kernel) ?_
    exact Only.refl _ _ _
  · refine Only.step (deviceInterrupt_only _) (by decide +kernel) ?_
    exact Only.refl _ _ _

theorem raise_only (k0 : Nat) : ∀ a0 a1 s, pageType a0 = k0 → Nat.beq k0 0x60 = false → Only [.heldOut, .out] [(k0, 0x18, 0x18)] s (raise a0 a1 s) := by
  intro a0 a1 s hk0 hn0
  unfold raise
  split
  · subst hk0
    exact absurd hn0 (by simp [pageType])
  · extract_lets +onlyGivenNames x1
    clear_value x1
    extract_lets +onlyGivenNames x2
    refine Only.ite ?_ ?_
    · refine Only.step (pageInterrupt_only k0 _ _ hk0 hn0) (by simp [within, Fld.inside]) ?_
      subst x2
      refine Only.step (fset_only k0 0x18 _ _ _ _ hk0 rfl rfl) (by first | decide +kernel | simp [within, Fld.inside, RegSpan.inside]) ?_
      exact Only.refl _ _ _
    · subst x2
      refine Only.step (fset_only k0 0x18 _ _ _ _ hk0 rfl rfl) (by first | decide +kernel | simp [within, Fld.inside, RegSpan.inside]) ?_
      exact Only.refl _ _ _

theorem raise_any : ∀ a0 a1 s, Only [.mail, .heldOut, .out] [(0x0, 0x18, 0x18)] s (raise a0 a1 s) := by
  intro a0 a1 s
  unfold raise
  split
  · refine Only.step (raiseMail_only _ _ _ _) (by decide +kernel) ?_
    refine Only.step (raiseMail_only _ _ _ _) (by decide +kernel) ?_
    exact Only.refl _ _ _
  · extract_lets +onlyGivenNames x1
    clear_value x1
    extract_lets +onlyGivenNames x2
    refine Only.ite ?_ ?_
    · refine Only.step (pageInterrupt_any _ _) (by decide +kernel) ?_
      subst x2
      refine Only.step (fset_any 0x18 _ _ _ _ rfl rfl) (by decide +kernel) ?_
      exact Only.refl _ _ _
    · subst x2
      refine Only.step (fset_any 0x18 _ _ _ _ rfl rfl) (by decide +kernel) ?_
      exact Only.refl _ _ _

theorem satInc_only (k0 o1 : Nat) : ∀ a0 a1 a2 s, pageType a0 = k0 → Nat.beq k0 0x60 = false → a1.off = o1 → Nat.blt o1 0x1000 = true → Only [] [(k0, o1, o1)] s (satInc a0 a1 a2 s) := by
  intro a0 a1 a2 s hk0 hn0 hf1 hb1
  unfold satInc
  refine Only.step (fset_only k0 o1 _ _ _ _ hk0 hf1 hb1) (by first | decide +kernel | simp [within, Fld.inside, RegSpan.inside]) ?_
  exact Only.refl _ _ _

theorem satInc_any (o1 : Nat) : ∀ a0 a1 a2 s, a1.off = o1 → Nat.blt o1 0x1000 = true → Only [] [(0x0, o1, o1)] s (satInc a0 a1 a2 s) := by
  intro a0 a1 a2 s hf1 hb1
  unfold satInc
  refine Only.step (fset_any o1 _ _ _ _ hf1 hb1) (by first | decide +kernel | simp [within, Fld.inside, RegSpan.inside]) ?_
  exact Only.refl _ _ _

theorem modRing_only : ∀ a0 s, Only [.ring] [] s (modRing a0 s) := by
  intro a0 s
  unfold modRing
  refine Only.set_ring (by decide +kernel) ?_
  exact Only.refl _ _ _

theorem setRingPort_only : ∀ a0 a1 s, Only [.ring] [] s (setRingPort a0 a1 s) := by
  intro a0 a1 s
  unfold setRingPort
  refine Only.step (modRing_only _ _) (by decide +kernel) ?_
  exact Only.refl _ _ _

theorem launch_only : ∀ a0 a1 s, Only [.ring, .out] [] s (launch a0 a1 s) := by
  intro a0 a1 s
  unfold launch
  extract_lets +onlyGivenNames x1
  clear_value x1
  extract_lets +onlyGivenNames x2
  clear_value x2
  refine Only.ite ?_ ?_
  · refine Only.step (push_only _ _) (by decide +kernel) ?_
    refine Only.step (setRingPort_only _ _ _) (by decide +kernel) ?_
    exact Only.refl _ _ _
  · refine Only.step (setRingPort_only _ _ _) (by decide +kernel) ?_
    exact Only.refl _ _ _

theorem setTile_only : ∀ a0 a1 s, Only [.tiles] [] s (setTile a0 a1 s) := by
  intro a0 a1 s
  unfold setTile
  refine Only.set_tiles (by decide +kernel) ?_
  exact Only.refl _ _ _

theorem modTile_only : ∀ a0 a1 s, Only [.tiles] [] s (modTile a0 a1 s) := by
  intro a0 a1 s
  unfold modTile
  refine Only.step (setTile_only _ _ _) (by decide +kernel) ?_
  exact Only.refl _ _ _

theorem send_only : ∀ a0 s, Only [.mesh] [] s (send a0 s) := by
  intro a0 s
  unfold send
  refine Only.set_mesh (by decide +kernel) ?_
  exact Only.refl _ _ _

theorem wideSet_only (k0 o1 o2 : Nat) : ∀ a0 a1 a2 a3 s, pageType a0 = k0 → Nat.beq k0 0x60 = false → a1.off = o1 → Nat.blt o1 0x1000 = true → a2.off = o2 → Nat.blt o2 0x1000 = true → Only [] [(k0, o1, o1), (k0, o2, o2)] s (wideSet a0 a1 a2 a3 s) := by
  intro a0 a1 a2 a3 s hk0 hn0 hf1 hb1 hf2 hb2
  unfold wideSet
  refine Only.step (fset_only k0 o2 _ _ _ _ hk0 hf2 hb2) (by first | decide +kernel | simp [within, Fld.inside, RegSpan.inside]) ?_
  refine Only.step (fset_only k0 o1 _ _ _ _ hk0 hf1 hb1) (by first | decide +kernel | simp [within, Fld.inside, RegSpan.inside]) ?_
  exact Only.refl _ _ _

theorem wideSet_any (o1 o2 : Nat) : ∀ a0 a1 a2 a3 s, a1.off = o1 → Nat.blt o1 0x1000 = true → a2.off = o2 → Nat.blt o2 0x1000 = true → Only [] [(0x0, o1, o1), (0x0, o2, o2)] s (wideSet a0 a1 a2 a3 s) := by
  intro a0 a1 a2 a3 s hf1 hb1 hf2 hb2
  unfold wideSet
  refine Only.step (fset_any o2 _ _ _ _ hf2 hb2) (by first | decide +kernel | simp [within, Fld.inside, RegSpan.inside]) ?_
  refine Only.step (fset_any o1 _ _ _ _ hf1 hb1) (by first | decide +kernel | simp [within, Fld.inside, RegSpan.inside]) ?_
  exact Only.refl _ _ _

theorem ringSend_only : ∀ a0 s, Only [.ring, .out] [] s (ringSend a0 s) := by
  intro a0 s
  unfold ringSend
  extract_lets +onlyGivenNames x1
  clear_value x1
  extract_lets +onlyGivenNames x2
  clear_value x2
  extract_lets +onlyGivenNames x3
  clear_value x3
  extract_lets +onlyGivenNames x4
  clear_value x4
  extract_lets +onlyGivenNames x5
  clear_value x5
  extract_lets +onlyGivenNames x6
  refine Only.have_ (t := x6) ?_ fun hx6 => ?_
  · subst x6
    refine Only.step (modRing_only _ _) (by decide +kernel) ?_
    exact Only.refl _ _ _
  clear_value x6
  refine Only.ite ?_ ?_
  · extract_lets +onlyGivenNames x7
    clear_value x7
    refine Only.step (setRingPort_only _ _ _) (by decide +kernel) ?_
    assumption
  · refine Only.step (launch_only _ _ _) (by decide +kernel) ?_
    assumption

theorem ringDropped_only : ∀ s, Only [.heldOut, .out] [(0x71, 0x18, 0x18), (0x71, 0x11c, 0x11c)] s (ringDropped s) := by
  intro s
  unfold ringDropped
  refine Only.step (raise_only 0x71 _ _ _ rfl rfl) (by decide +kernel) ?_
  refine Only.step (satInc_only 0x71 0x11c _ _ _ _ rfl rfl rfl rfl) (by decide +kernel) ?_
  exact Only.refl _ _ _

theorem remoteWrite_only : ∀ a0 a1 a2 a3 s, Only [.ring, .heldOut, .out] [(0x71, 0x18, 0x18), (0x71, 0x11c, 0x11c)] s (remoteWrite a0 a1 a2 a3 s) := by
  intro a0 a1 a2 a3 s
  unfold remoteWrite
  extract_lets +onlyGivenNames x1
  clear_value x1
  refine Only.foldl (fun s x => ?_) ?_
  · refine Only.ite ?_ ?_
    · refine Only.step (ringSend_only _ _) (by decide +kernel) ?_
      exact Only.refl _ _ _
    · refine Only.step (ringDropped_only _) (by decide +kernel) ?_
      exact Only.refl _ _ _
  · exact Only.refl _ _ _

theorem poisonOut_only : ∀ a0 a1 s, Only [.heldOut, .out] [(0x70, 0x18, 0x18), (0x70, 0x10c, 0x10c)] s (poisonOut a0 a1 s) := by
  intro a0 a1 s
  unfold poisonOut
  extract_lets +onlyGivenNames x1
  refine Only.ite ?_ ?_
  · exact Only.refl _ _ _
  · refine Only.step (raise_only 0x70 _ _ _ rfl rfl) (by decide +kernel) ?_
    refine Only.step (wrapInc_only 0x70 0x10c _ _ _ _ rfl rfl rfl rfl) (by decide +kernel) ?_
    exact Only.refl _ _ _

theorem emit_only : ∀ a0 s, Only [.ring, .heldOut, .out] [(0x70, 0x18, 0x18), (0x70, 0x10c, 0x10c), (0x71, 0x18, 0x18), (0x71, 0x11c, 0x11c)] s (emit a0 s) := by
  intro a0 s
  unfold emit
  split
  · refine Only.ite ?_ ?_
    · refine Only.step (remoteWrite_only _ _ _ _ _) (by decide +kernel) ?_
      exact Only.refl _ _ _
    · extract_lets +onlyGivenNames x1
      refine Only.have_ (t := x1) ?_ fun hx1 => ?_
      · subst x1
        refine Only.step (poisonOut_only _ _ _) (by decide +kernel) ?_
        exact Only.refl _ _ _
      clear_value x1
      refine Only.ite ?_ ?_
      · refine Only.step (holdOut_only _ _ _) (by decide +kernel) ?_
        assumption
      · refine Only.step (push_only _ _) (by decide +kernel) ?_
        assumption
  · refine Only.ite ?_ ?_
    · refine Only.ite ?_ ?_
      · refine Only.step (ringSend_only _ _) (by decide +kernel) ?_
        exact Only.refl _ _ _
      · exact Only.refl _ _ _
    · refine Only.step (push_only _ _) (by decide +kernel) ?_
      exact Only.refl _ _ _
  · refine Only.step (sendIrq_only _ _ _) (by decide +kernel) ?_
    exact Only.refl _ _ _
  · refine Only.step (push_only _ _) (by decide +kernel) ?_
    exact Only.refl _ _ _

theorem wideInc_only (k0 o1 o2 : Nat) : ∀ a0 a1 a2 a3 s, pageType a0 = k0 → Nat.beq k0 0x60 = false → a1.off = o1 → Nat.blt o1 0x1000 = true → a2.off = o2 → Nat.blt o2 0x1000 = true → Only [] [(k0, o1, o1), (k0, o2, o2)] s (wideInc a0 a1 a2 a3 s) := by
  intro a0 a1 a2 a3 s hk0 hn0 hf1 hb1 hf2 hb2
  unfold wideInc
  extract_lets +onlyGivenNames x1
  clear_value x1
  refine Only.step (fset_only k0 o2 _ _ _ _ hk0 hf2 hb2) (by first | decide +kernel | simp [within, Fld.inside, RegSpan.inside]) ?_
  refine Only.step (fset_only k0 o1 _ _ _ _ hk0 hf1 hb1) (by first | decide +kernel | simp [within, Fld.inside, RegSpan.inside]) ?_
  exact Only.refl _ _ _

theorem wideInc_any (o1 o2 : Nat) : ∀ a0 a1 a2 a3 s, a1.off = o1 → Nat.blt o1 0x1000 = true → a2.off = o2 → Nat.blt o2 0x1000 = true → Only [] [(0x0, o1, o1), (0x0, o2, o2)] s (wideInc a0 a1 a2 a3 s) := by
  intro a0 a1 a2 a3 s hf1 hb1 hf2 hb2
  unfold wideInc
  extract_lets +onlyGivenNames x1
  clear_value x1
  refine Only.step (fset_any o2 _ _ _ _ hf2 hb2) (by first | decide +kernel | simp [within, Fld.inside, RegSpan.inside]) ?_
  refine Only.step (fset_any o1 _ _ _ _ hf1 hb1) (by first | decide +kernel | simp [within, Fld.inside, RegSpan.inside]) ?_
  exact Only.refl _ _ _

theorem reach_only : ∀ a0 s, Only [.timer] [] s (reach a0 s) := by
  intro a0 s
  unfold reach
  refine Only.set_timer (by decide +kernel) ?_
  exact Only.refl _ _ _

theorem draw_only : ∀ s, Only [.free] [] s (draw s) := by
  intro s
  unfold draw
  refine Only.set_free (by decide +kernel) ?_
  exact Only.refl _ _ _

theorem storeCmd_only (k0 o1 : Nat) : ∀ a0 a1 a2 s, pageType a0 = k0 → a1 = o1 → Nat.blt o1 0xF00 = true → Only [] [(k0, o1, o1 + 0x1c)] s (storeCmd a0 a1 a2 s) := by
  intro a0 a1 a2 s hk0 hf1 hb1
  subst hf1
  have hb1 : a1 < 0xF00 := by simpa using hb1
  have key : ∀ l : List Nat, (∀ i ∈ l, i < 8) → ∀ t, Only [] [(k0, a1, a1 + 0x1c)] s t → Only [] [(k0, a1, a1 + 0x1c)] s
      (l.foldl (fun s i => setRegWord (regAddr a0 (a1 + 4 * i)) (BitVec.ofNat 32 (cmdWord a2 i)) s) t) := by
    intro l
    induction l with
    | nil => intro _ t h; exact h
    | cons i l ih =>
      intro hl t h
      refine ih (fun j hj => hl j (List.mem_cons_of_mem _ hj)) _ (Only.step (setRegWord_only k0 (a1 + 4 * i) _ _ _ hk0 ?_) ?_ h)
      · have := hl i List.mem_cons_self
        simp only [Nat.blt_eq]; omega
      · have := hl i List.mem_cons_self
        simp [within, Fld.inside, RegSpan.inside]; omega
  exact key _ (by simp) s (Only.refl _ _ _)

theorem drain_only : ∀ a0 s, Only [.ring, .out] [] s (drain a0 s) := by
  intro a0 s
  unfold drain
  extract_lets +onlyGivenNames x1
  clear_value x1
  refine Only.foldl (fun s x => ?_) ?_
  · refine Only.step (launch_only _ _ _) (by decide +kernel) ?_
    exact Only.refl _ _ _
  · refine Only.step (setRingPort_only _ _ _) (by decide +kernel) ?_
    exact Only.refl _ _ _

theorem arrive_only : ∀ a0 s, Only [.mesh] [] s (arrive a0 s) := by
  intro a0 s
  unfold arrive
  refine Only.set_mesh (by decide +kernel) ?_
  exact Only.refl _ _ _


end Sys2Proof.Machine
end

