-- ==== Sys2Proof/Laws/OnlyFlags.lean ====
section
/-! SUPPORT. What the operations and the meanings of Machine/Flags.lean can change (`Only`, `Gives`): the parts of the state and the
registers, whatever the operands are. -/

namespace Sys2Proof.Machine

set_option linter.unusedSimpArgs false
set_option maxRecDepth 20000
set_option Elab.async false

theorem denyRecord_only : ∀ a0 a1 a2 s, Only [.heldOut, .out] [(0xb0, 0x18, 0x18), (0xb0, 0x110, 0x110), (0xb0, 0x114, 0x114), (0xb0, 0x118, 0x118), (0xb0, 0x11c, 0x11c)] s (denyRecord a0 a1 a2 s) := by
  intro a0 a1 a2 s
  unfold denyRecord
  extract_lets +onlyGivenNames x1
  refine Only.have_ (t := x1) ?_ fun hx1 => ?_
  · subst x1
    refine Only.ite ?_ ?_
    · refine Only.step (fset_only 0xb0 0x110 _ _ _ _ rfl rfl rfl) (by decide +kernel) ?_
      refine Only.step (fset_only 0xb0 0x118 _ _ _ _ rfl rfl rfl) (by decide +kernel) ?_
      refine Only.step (fset_only 0xb0 0x114 _ _ _ _ rfl rfl rfl) (by decide +kernel) ?_
      refine Only.step (fset_only 0xb0 0x110 _ _ _ _ rfl rfl rfl) (by decide +kernel) ?_
      refine Only.step (fset_only 0xb0 0x110 _ _ _ _ rfl rfl rfl) (by decide +kernel) ?_
      exact Only.refl _ _ _
    · exact Only.refl _ _ _
  clear_value x1
  refine Only.step (raise_only 0xb0 _ _ _ rfl rfl) (by decide +kernel) ?_
  refine Only.step (satInc_only 0xb0 0x11c _ _ _ _ rfl rfl rfl rfl) (by decide +kernel) ?_
  assumption

theorem accessDenied_only (k0 : Nat) : ∀ a0 s, pageType a0 = k0 → Nat.beq k0 0x60 = false → Only [.heldOut, .out] [(k0, 0x18, 0x18)] s (accessDenied a0 s) := by
  intro a0 s hk0 hn0
  unfold accessDenied
  refine Only.step (raise_only k0 _ _ _ hk0 hn0) (by first | decide +kernel | simp [within, Fld.inside, RegSpan.inside]) ?_
  exact Only.refl _ _ _

theorem accessDenied_any : ∀ a0 s, Only [.mail, .heldOut, .out] [(0x0, 0x18, 0x18)] s (accessDenied a0 s) := by
  intro a0 s
  unfold accessDenied
  refine Only.step (raise_any _ _ _) (by decide +kernel) ?_
  exact Only.refl _ _ _

theorem epochCheck_go (k0 : Nat) : ∀ a0 a1 s t, pageType a1 = k0 → Nat.beq k0 0x60 = false → epochCheck a0 a1 s = .go t → Only [.staleMid, .heldOut, .out] [(k0, 0x18, 0x18), (k0, 0x2c, 0x2c), (0x10, 0x880, 0x880)] s t := by
  intro a0 a1 s t hk0 hn0 h
  unfold epochCheck at h
  split at h
  · simp only at h
    split at h
    · cases h
    · cases h
      refine Only.step (fset_only k0 0x2c _ _ _ _ hk0 rfl rfl) (by first | decide +kernel | simp [within, Fld.inside, RegSpan.inside]) ?_
      exact Only.refl _ _ _
  · cases h
    exact Only.refl _ _ _

theorem epochCheck_goAny : ∀ a0 a1 s t, epochCheck a0 a1 s = .go t → Only [.staleMid, .mail, .heldOut, .out] [(0x0, 0x18, 0x18), (0x0, 0x2c, 0x2c), (0x10, 0x880, 0x880)] s t := by
  intro a0 a1 s t h
  unfold epochCheck at h
  split at h
  · simp only at h
    split at h
    · cases h
    · cases h
      refine Only.step (fset_any 0x2c _ _ _ _ rfl rfl) (by decide +kernel) ?_
      exact Only.refl _ _ _
  · cases h
    exact Only.refl _ _ _

theorem epochCheck_stop (k0 : Nat) : ∀ a0 a1 s t, pageType a1 = k0 → Nat.beq k0 0x60 = false → epochCheck a0 a1 s = .stop t → Only [.staleMid, .heldOut, .out] [(k0, 0x18, 0x18), (k0, 0x2c, 0x2c), (0x10, 0x880, 0x880)] s t := by
  intro a0 a1 s t hk0 hn0 h
  unfold epochCheck at h
  split at h
  · simp only at h
    split at h
    · cases h
      refine Only.step (raise_only k0 _ _ _ hk0 hn0) (by first | decide +kernel | simp [within, Fld.inside, RegSpan.inside]) ?_
      refine Only.step (fset_only 0x10 0x880 _ _ _ _ rfl rfl rfl) (by first | decide +kernel | simp [within, Fld.inside, RegSpan.inside]) ?_
      refine Only.set_staleMid (by decide +kernel) ?_
      exact Only.refl _ _ _
    · cases h
  · cases h

theorem epochCheck_stopAny : ∀ a0 a1 s t, epochCheck a0 a1 s = .stop t → Only [.staleMid, .mail, .heldOut, .out] [(0x0, 0x18, 0x18), (0x0, 0x2c, 0x2c), (0x10, 0x880, 0x880)] s t := by
  intro a0 a1 s t h
  unfold epochCheck at h
  split at h
  · simp only at h
    split at h
    · cases h
      refine Only.step (raise_any _ _ _) (by decide +kernel) ?_
      refine Only.step (fset_only 0x10 0x880 _ _ _ _ rfl rfl rfl) (by decide +kernel) ?_
      refine Only.set_staleMid (by decide +kernel) ?_
      exact Only.refl _ _ _
    · cases h
  · cases h

theorem writeGate_go (k0 : Nat) : ∀ a0 a1 a2 s t, pageType a1 = k0 → Nat.beq k0 0x60 = false → writeGate a0 a1 a2 s = .go t → Only [.staleMid, .heldOut, .out] [(k0, 0x18, 0x18), (k0, 0x2c, 0x2c), (0x10, 0x880, 0x880), (0xb0, 0x18, 0x18), (0xb0, 0x110, 0x110), (0xb0, 0x114, 0x114), (0xb0, 0x118, 0x118), (0xb0, 0x11c, 0x11c)] s t := by
  intro a0 a1 a2 s t hk0 hn0 h
  unfold writeGate at h
  split at h
  · cases h
  split at h
  · cases h
  split at h
  · cases h
  split at h
  · cases h
  · exact (epochCheck_go k0 _ _ _ _ hk0 hn0 h).mono (by first | decide +kernel | simp [within, Fld.inside, RegSpan.inside])

theorem writeGate_goAny : ∀ a0 a1 a2 s t, writeGate a0 a1 a2 s = .go t → Only [.staleMid, .mail, .heldOut, .out] [(0x0, 0x18, 0x18), (0x0, 0x2c, 0x2c), (0x10, 0x880, 0x880), (0xb0, 0x18, 0x18), (0xb0, 0x110, 0x110), (0xb0, 0x114, 0x114), (0xb0, 0x118, 0x118), (0xb0, 0x11c, 0x11c)] s t := by
  intro a0 a1 a2 s t h
  unfold writeGate at h
  split at h
  · cases h
  split at h
  · cases h
  split at h
  · cases h
  split at h
  · cases h
  · exact (epochCheck_goAny _ _ _ _ h).mono (by decide +kernel)

theorem writeGate_stop (k0 : Nat) : ∀ a0 a1 a2 s t, pageType a1 = k0 → Nat.beq k0 0x60 = false → writeGate a0 a1 a2 s = .stop t → Only [.staleMid, .heldOut, .out] [(k0, 0x18, 0x18), (k0, 0x2c, 0x2c), (0x10, 0x880, 0x880), (0xb0, 0x18, 0x18), (0xb0, 0x110, 0x110), (0xb0, 0x114, 0x114), (0xb0, 0x118, 0x118), (0xb0, 0x11c, 0x11c)] s t := by
  intro a0 a1 a2 s t hk0 hn0 h
  unfold writeGate at h
  split at h
  · cases h
    exact Only.refl _ _ _
  split at h
  · cases h
    exact (denyRecord_only _ _ _ _).mono (by first | decide +kernel | simp [within, Fld.inside, RegSpan.inside])
  split at h
  · cases h
    exact (denyRecord_only _ _ _ _).mono (by first | decide +kernel | simp [within, Fld.inside, RegSpan.inside])
  split at h
  · cases h
    exact (accessDenied_only k0 _ _ hk0 hn0).mono (by first | decide +kernel | simp [within, Fld.inside, RegSpan.inside])
  · exact (epochCheck_stop k0 _ _ _ _ hk0 hn0 h).mono (by first | decide +kernel | simp [within, Fld.inside, RegSpan.inside])

theorem writeGate_stopAny : ∀ a0 a1 a2 s t, writeGate a0 a1 a2 s = .stop t → Only [.staleMid, .mail, .heldOut, .out] [(0x0, 0x18, 0x18), (0x0, 0x2c, 0x2c), (0x10, 0x880, 0x880), (0xb0, 0x18, 0x18), (0xb0, 0x110, 0x110), (0xb0, 0x114, 0x114), (0xb0, 0x118, 0x118), (0xb0, 0x11c, 0x11c)] s t := by
  intro a0 a1 a2 s t h
  unfold writeGate at h
  split at h
  · cases h
    exact Only.refl _ _ _
  split at h
  · cases h
    exact (denyRecord_only _ _ _ _).mono (by decide +kernel)
  split at h
  · cases h
    exact (denyRecord_only _ _ _ _).mono (by decide +kernel)
  split at h
  · cases h
    exact (accessDenied_any _ _).mono (by decide +kernel)
  · exact (epochCheck_stopAny _ _ _ _ h).mono (by decide +kernel)

theorem guardedMask (k0 : Nat) : ∀ a0 s, pageType a0 = k0 → Only [.staleMid, .heldOut, .out] [(k0, 0x18, 0x18), (k0, 0x2c, 0x2c), (0x10, 0x880, 0x880), (0xb0, 0x18, 0x18), (0xb0, 0x110, 0x110), (0xb0, 0x114, 0x114), (0xb0, 0x118, 0x118), (0xb0, 0x11c, 0x11c)] s s := by
  intro _ s _
  exact Only.refl _ _ s

theorem guardedMaskAny : ∀ s, Only [.staleMid, .mail, .heldOut, .out] [(0x0, 0x18, 0x18), (0x0, 0x2c, 0x2c), (0x10, 0x880, 0x880), (0xb0, 0x18, 0x18), (0xb0, 0x110, 0x110), (0xb0, 0x114, 0x114), (0xb0, 0x118, 0x118), (0xb0, 0x11c, 0x11c)] s s := by
  intro s
  exact Only.refl _ _ s

theorem guarded_only {m : List Fld} {r : List RegSpan} {w p off s u} {f : State → State} (k0 : Nat) (hk0 : pageType p = k0)
    (hn0 : Nat.beq k0 0x60 = false) (hm : within [.staleMid, .heldOut, .out] [(k0, 0x18, 0x18), (k0, 0x2c, 0x2c), (0x10, 0x880, 0x880), (0xb0, 0x18, 0x18), (0xb0, 0x110, 0x110), (0xb0, 0x114, 0x114), (0xb0, 0x118, 0x118), (0xb0, 0x11c, 0x11c)] m r = true)
    (hf : ∀ s, Only m r s (f s)) (h : Only m r u s) : Only m r u (guarded w p off f s) := by
  unfold guarded
  split
  · exact (h.trans ((writeGate_go k0 _ _ _ _ _ hk0 hn0 ‹_›).mono hm)).trans (hf _)
  · exact h.trans ((writeGate_stop k0 _ _ _ _ _ hk0 hn0 ‹_›).mono hm)

theorem guarded_any {m : List Fld} {r : List RegSpan} {w p off s u} {f : State → State}
    (hm : within [.staleMid, .mail, .heldOut, .out] [(0x0, 0x18, 0x18), (0x0, 0x2c, 0x2c), (0x10, 0x880, 0x880), (0xb0, 0x18, 0x18), (0xb0, 0x110, 0x110), (0xb0, 0x114, 0x114), (0xb0, 0x118, 0x118), (0xb0, 0x11c, 0x11c)] m r = true)
    (hf : ∀ s, Only m r s (f s)) (h : Only m r u s) : Only m r u (guarded w p off f s) := by
  unfold guarded
  split
  · exact (h.trans ((writeGate_goAny _ _ _ _ _ ‹_›).mono hm)).trans (hf _)
  · exact h.trans ((writeGate_stopAny _ _ _ _ _ ‹_›).mono hm)

theorem setBlk_only (k0 : Nat) : ∀ a0 a1 s, pageType a0 = k0 → Nat.beq k0 0x60 = false → Only [.heldOut, .out] [(k0, 0x14, 0x14), (k0, 0x18, 0x18)] s (setBlk a0 a1 s) := by
  intro a0 a1 s hk0 hn0
  unfold setBlk
  extract_lets +onlyGivenNames x1
  refine Only.have_ (t := x1) ?_ fun hx1 => ?_
  · subst x1
    refine Only.step (fset_only k0 0x14 _ _ _ _ hk0 rfl rfl) (by first | decide +kernel | simp [within, Fld.inside, RegSpan.inside]) ?_
    exact Only.refl _ _ _
  clear_value x1
  refine Only.ite ?_ ?_
  · refine Only.step (raise_only k0 _ _ _ hk0 hn0) (by first | decide +kernel | simp [within, Fld.inside, RegSpan.inside]) ?_
    assumption
  · assumption

theorem setBlk_any : ∀ a0 a1 s, Only [.mail, .heldOut, .out] [(0x0, 0x14, 0x14), (0x0, 0x18, 0x18)] s (setBlk a0 a1 s) := by
  intro a0 a1 s
  unfold setBlk
  extract_lets +onlyGivenNames x1
  refine Only.have_ (t := x1) ?_ fun hx1 => ?_
  · subst x1
    refine Only.step (fset_any 0x14 _ _ _ _ rfl rfl) (by decide +kernel) ?_
    exact Only.refl _ _ _
  clear_value x1
  refine Only.ite ?_ ?_
  · refine Only.step (raise_any _ _ _) (by decide +kernel) ?_
    assumption
  · assumption

theorem writeEn_only (k0 : Nat) : ∀ a0 a1 s, pageType a0 = k0 → Nat.beq k0 0x60 = false → Only [.heldOut, .out] [(k0, 0x10, 0x10), (k0, 0x14, 0x14), (k0, 0x18, 0x18)] s (writeEn a0 a1 s) := by
  intro a0 a1 s hk0 hn0
  unfold writeEn
  refine Only.ite ?_ ?_
  · exact Only.refl _ _ _
  · extract_lets +onlyGivenNames x1
    refine Only.have_ (t := x1) ?_ fun hx1 => ?_
    · subst x1
      refine Only.step (fset_only k0 0x10 _ _ _ _ hk0 rfl rfl) (by first | decide +kernel | simp [within, Fld.inside, RegSpan.inside]) ?_
      exact Only.refl _ _ _
    clear_value x1
    split
    · refine Only.ite ?_ ?_
      · assumption
      · refine Only.step (setBlk_only k0 _ _ _ hk0 hn0) (by first | decide +kernel | simp [within, Fld.inside, RegSpan.inside]) ?_
        assumption
    · refine Only.step (setBlk_only k0 _ _ _ hk0 hn0) (by first | decide +kernel | simp [within, Fld.inside, RegSpan.inside]) ?_
      assumption
    · refine Only.step (setBlk_only k0 _ _ _ hk0 hn0) (by first | decide +kernel | simp [within, Fld.inside, RegSpan.inside]) ?_
      assumption
    · refine Only.step (setBlk_only k0 _ _ _ hk0 hn0) (by first | decide +kernel | simp [within, Fld.inside, RegSpan.inside]) ?_
      assumption
    · assumption

theorem writeEn_any : ∀ a0 a1 s, Only [.mail, .heldOut, .out] [(0x0, 0x10, 0x10), (0x0, 0x14, 0x14), (0x0, 0x18, 0x18)] s (writeEn a0 a1 s) := by
  intro a0 a1 s
  unfold writeEn
  refine Only.ite ?_ ?_
  · exact Only.refl _ _ _
  · extract_lets +onlyGivenNames x1
    refine Only.have_ (t := x1) ?_ fun hx1 => ?_
    · subst x1
      split
      · refine Only.step (fset_any 0x10 _ _ _ _ rfl rfl) (by decide +kernel) ?_
        exact Only.refl _ _ _
      · refine Only.step (fset_any 0x10 _ _ _ _ rfl rfl) (by decide +kernel) ?_
        exact Only.refl _ _ _
    clear_value x1
    split
    · refine Only.ite ?_ ?_
      · assumption
      · refine Only.step (setBlk_any _ _ _) (by decide +kernel) ?_
        assumption
    · refine Only.step (setBlk_any _ _ _) (by decide +kernel) ?_
      assumption
    · refine Only.step (setBlk_any _ _ _) (by decide +kernel) ?_
      assumption
    · refine Only.step (setBlk_any _ _ _) (by decide +kernel) ?_
      assumption
    · assumption

theorem startDone_only (k0 : Nat) : ∀ a0 s, pageType a0 = k0 → Nat.beq k0 0x60 = false → Only [.heldOut, .out] [(k0, 0x14, 0x14), (k0, 0x18, 0x18)] s (startDone a0 s) := by
  intro a0 s hk0 hn0
  unfold startDone
  refine Only.ite ?_ ?_
  · extract_lets +onlyGivenNames x1
    refine Only.have_ (t := x1) ?_ fun hx1 => ?_
    · subst x1
      refine Only.step (setBlk_only k0 _ _ _ hk0 hn0) (by first | decide +kernel | simp [within, Fld.inside, RegSpan.inside]) ?_
      exact Only.refl _ _ _
    clear_value x1
    refine Only.ite ?_ ?_
    · refine Only.step (setBlk_only k0 _ _ _ hk0 hn0) (by first | decide +kernel | simp [within, Fld.inside, RegSpan.inside]) ?_
      assumption
    · assumption
  · exact Only.refl _ _ _

theorem startDone_any : ∀ a0 s, Only [.mail, .heldOut, .out] [(0x0, 0x14, 0x14), (0x0, 0x18, 0x18)] s (startDone a0 s) := by
  intro a0 s
  unfold startDone
  refine Only.ite ?_ ?_
  · extract_lets +onlyGivenNames x1
    refine Only.have_ (t := x1) ?_ fun hx1 => ?_
    · subst x1
      refine Only.step (setBlk_any _ _ _) (by decide +kernel) ?_
      exact Only.refl _ _ _
    clear_value x1
    refine Only.ite ?_ ?_
    · refine Only.step (setBlk_any _ _ _) (by decide +kernel) ?_
      assumption
    · assumption
  · exact Only.refl _ _ _

theorem stopDone_only (k0 : Nat) : ∀ a0 s, pageType a0 = k0 → Nat.beq k0 0x60 = false → Only [.heldOut, .out] [(k0, 0x14, 0x14), (k0, 0x18, 0x18)] s (stopDone a0 s) := by
  intro a0 s hk0 hn0
  unfold stopDone
  split
  · refine Only.step (setBlk_only k0 _ _ _ hk0 hn0) (by first | decide +kernel | simp [within, Fld.inside, RegSpan.inside]) ?_
    exact Only.refl _ _ _
  · extract_lets +onlyGivenNames x1
    refine Only.have_ (t := x1) ?_ fun hx1 => ?_
    · subst x1
      refine Only.step (setBlk_only k0 _ _ _ hk0 hn0) (by first | decide +kernel | simp [within, Fld.inside, RegSpan.inside]) ?_
      exact Only.refl _ _ _
    clear_value x1
    refine Only.ite ?_ ?_
    · assumption
    · refine Only.step (setBlk_only k0 _ _ _ hk0 hn0) (by first | decide +kernel | simp [within, Fld.inside, RegSpan.inside]) ?_
      assumption
  · exact Only.refl _ _ _

theorem stopDone_any : ∀ a0 s, Only [.mail, .heldOut, .out] [(0x0, 0x14, 0x14), (0x0, 0x18, 0x18)] s (stopDone a0 s) := by
  intro a0 s
  unfold stopDone
  split
  · refine Only.step (setBlk_any _ _ _) (by decide +kernel) ?_
    exact Only.refl _ _ _
  · extract_lets +onlyGivenNames x1
    refine Only.have_ (t := x1) ?_ fun hx1 => ?_
    · subst x1
      refine Only.step (setBlk_any _ _ _) (by decide +kernel) ?_
      exact Only.refl _ _ _
    clear_value x1
    refine Only.ite ?_ ?_
    · assumption
    · refine Only.step (setBlk_any _ _ _) (by decide +kernel) ?_
      assumption
  · exact Only.refl _ _ _

theorem setCauses_only (k0 : Nat) : ∀ a0 a1 s, pageType a0 = k0 → Nat.beq k0 0x60 = false → Only [.causes] [] s (setCauses a0 a1 s) := by
  intro a0 a1 s hk0 hn0
  unfold setCauses
  refine Only.set_causes (by simp) ?_
  exact Only.refl _ _ _

theorem setCauses_any : ∀ a0 a1 s, Only [.causes] [] s (setCauses a0 a1 s) := by
  intro a0 a1 s
  unfold setCauses
  refine Only.set_causes (by decide +kernel) ?_
  exact Only.refl _ _ _

theorem unfence_only (k0 : Nat) : ∀ a0 s, pageType a0 = k0 → Nat.beq k0 0x60 = false → Only [.causes, .heldOut, .out] [(k0, 0x14, 0x14), (k0, 0x18, 0x18), (k0, 0x28, 0x28)] s (unfence a0 s) := by
  intro a0 s hk0 hn0
  unfold unfence
  extract_lets +onlyGivenNames x1
  refine Only.have_ (t := x1) ?_ fun hx1 => ?_
  · subst x1
    refine Only.step (fset_only k0 0x28 _ _ _ _ hk0 rfl rfl) (by first | decide +kernel | simp [within, Fld.inside, RegSpan.inside]) ?_
    refine Only.step (fset_only k0 0x28 _ _ _ _ hk0 rfl rfl) (by first | decide +kernel | simp [within, Fld.inside, RegSpan.inside]) ?_
    refine Only.step (setCauses_only k0 _ _ _ hk0 hn0) (by first | decide +kernel | simp [within, Fld.inside, RegSpan.inside]) ?_
    exact Only.refl _ _ _
  clear_value x1
  refine Only.ite ?_ ?_
  · refine Only.step (setBlk_only k0 _ _ _ hk0 hn0) (by first | decide +kernel | simp [within, Fld.inside, RegSpan.inside]) ?_
    assumption
  · assumption

theorem unfence_any : ∀ a0 s, Only [.causes, .mail, .heldOut, .out] [(0x0, 0x14, 0x14), (0x0, 0x18, 0x18), (0x0, 0x28, 0x28)] s (unfence a0 s) := by
  intro a0 s
  unfold unfence
  extract_lets +onlyGivenNames x1
  refine Only.have_ (t := x1) ?_ fun hx1 => ?_
  · subst x1
    refine Only.step (fset_any 0x28 _ _ _ _ rfl rfl) (by decide +kernel) ?_
    refine Only.step (fset_any 0x28 _ _ _ _ rfl rfl) (by decide +kernel) ?_
    refine Only.step (setCauses_any _ _ _) (by decide +kernel) ?_
    exact Only.refl _ _ _
  clear_value x1
  refine Only.ite ?_ ?_
  · refine Only.step (setBlk_any _ _ _) (by decide +kernel) ?_
    assumption
  · assumption

theorem fencePage_only (k0 : Nat) : ∀ a0 a1 s, pageType a0 = k0 → Nat.beq k0 0x60 = false → Only [.causes, .heldOut, .out] [(k0, 0x14, 0x14), (k0, 0x18, 0x18), (k0, 0x28, 0x28)] s (fencePage a0 a1 s) := by
  intro a0 a1 s hk0 hn0
  unfold fencePage
  refine Only.ite ?_ ?_
  · exact Only.refl _ _ _
  · refine Only.ite ?_ ?_
    · refine Only.step (setCauses_only k0 _ _ _ hk0 hn0) (by first | decide +kernel | simp [within, Fld.inside, RegSpan.inside]) ?_
      exact Only.refl _ _ _
    · extract_lets +onlyGivenNames x1
      refine Only.have_ (t := x1) ?_ fun hx1 => ?_
      · subst x1
        refine Only.step (setCauses_only k0 _ _ _ hk0 hn0) (by first | decide +kernel | simp [within, Fld.inside, RegSpan.inside]) ?_
        exact Only.refl _ _ _
      clear_value x1
      extract_lets +onlyGivenNames x2
      refine Only.have_ (t := x2) ?_ fun hx2 => ?_
      · subst x2
        refine Only.step (raise_only k0 _ _ _ hk0 hn0) (by first | decide +kernel | simp [within, Fld.inside, RegSpan.inside]) ?_
        refine Only.step (satInc_only k0 0x28 _ _ _ _ hk0 hn0 rfl rfl) (by first | decide +kernel | simp [within, Fld.inside, RegSpan.inside]) ?_
        refine Only.step (fset_only k0 0x28 _ _ _ _ hk0 rfl rfl) (by first | decide +kernel | simp [within, Fld.inside, RegSpan.inside]) ?_
        refine Only.step (fset_only k0 0x28 _ _ _ _ hk0 rfl rfl) (by first | decide +kernel | simp [within, Fld.inside, RegSpan.inside]) ?_
        assumption
      clear_value x2
      refine Only.ite ?_ ?_
      · refine Only.step (setBlk_only k0 _ _ _ hk0 hn0) (by first | decide +kernel | simp [within, Fld.inside, RegSpan.inside]) ?_
        assumption
      · assumption

theorem fencePage_any : ∀ a0 a1 s, Only [.causes, .mail, .heldOut, .out] [(0x0, 0x14, 0x14), (0x0, 0x18, 0x18), (0x0, 0x28, 0x28)] s (fencePage a0 a1 s) := by
  intro a0 a1 s
  unfold fencePage
  refine Only.ite ?_ ?_
  · exact Only.refl _ _ _
  · refine Only.ite ?_ ?_
    · refine Only.step (setCauses_any _ _ _) (by decide +kernel) ?_
      exact Only.refl _ _ _
    · extract_lets +onlyGivenNames x1
      refine Only.have_ (t := x1) ?_ fun hx1 => ?_
      · subst x1
        refine Only.step (setCauses_any _ _ _) (by decide +kernel) ?_
        exact Only.refl _ _ _
      clear_value x1
      extract_lets +onlyGivenNames x2
      refine Only.have_ (t := x2) ?_ fun hx2 => ?_
      · subst x2
        refine Only.step (raise_any _ _ _) (by decide +kernel) ?_
        refine Only.step (satInc_any 0x28 _ _ _ _ rfl rfl) (by decide +kernel) ?_
        refine Only.step (fset_any 0x28 _ _ _ _ rfl rfl) (by decide +kernel) ?_
        refine Only.step (fset_any 0x28 _ _ _ _ rfl rfl) (by decide +kernel) ?_
        assumption
      clear_value x2
      refine Only.ite ?_ ?_
      · refine Only.step (setBlk_any _ _ _) (by decide +kernel) ?_
        assumption
      · assumption

theorem lockedWrite_only (k1 : Nat) : ∀ a0 a1 a2 a3 s, pageType a1 = k1 → Nat.beq k1 0x60 = false → Only [.heldOut, .out] [(0xb0, 0x18, 0x18), (0xb0, 0x100, 0x100), (0xb0, 0x104, 0x104), (0xb0, 0x108, 0x108), (0xb0, 0x10c, 0x10c), (k1, 0x18, 0x18)] s (lockedWrite a0 a1 a2 a3 s) := by
  intro a0 a1 a2 a3 s hk1 hn1
  unfold lockedWrite
  extract_lets +onlyGivenNames x1
  refine Only.have_ (t := x1) ?_ fun hx1 => ?_
  · subst x1
    refine Only.ite ?_ ?_
    · refine Only.step (fset_only 0xb0 0x100 _ _ _ _ rfl rfl rfl) (by first | decide +kernel | simp [within, Fld.inside, RegSpan.inside]) ?_
      refine Only.step (fset_only 0xb0 0x108 _ _ _ _ rfl rfl rfl) (by first | decide +kernel | simp [within, Fld.inside, RegSpan.inside]) ?_
      refine Only.step (fset_only 0xb0 0x104 _ _ _ _ rfl rfl rfl) (by first | decide +kernel | simp [within, Fld.inside, RegSpan.inside]) ?_
      refine Only.step (fset_only 0xb0 0x100 _ _ _ _ rfl rfl rfl) (by first | decide +kernel | simp [within, Fld.inside, RegSpan.inside]) ?_
      exact Only.refl _ _ _
    · exact Only.refl _ _ _
  clear_value x1
  extract_lets +onlyGivenNames x2
  refine Only.have_ (t := x2) ?_ fun hx2 => ?_
  · subst x2
    refine Only.step (satInc_only 0xb0 0x10c _ _ _ _ rfl rfl rfl rfl) (by first | decide +kernel | simp [within, Fld.inside, RegSpan.inside]) ?_
    assumption
  clear_value x2
  refine Only.ite ?_ ?_
  · refine Only.step (raise_only 0xb0 _ _ _ rfl rfl) (by first | decide +kernel | simp [within, Fld.inside, RegSpan.inside]) ?_
    assumption
  · refine Only.step (raise_only 0xb0 _ _ _ rfl rfl) (by first | decide +kernel | simp [within, Fld.inside, RegSpan.inside]) ?_
    refine Only.step (raise_only k1 _ _ _ hk1 hn1) (by first | decide +kernel | simp [within, Fld.inside, RegSpan.inside]) ?_
    assumption

theorem lockedWrite_any : ∀ a0 a1 a2 a3 s, Only [.mail, .heldOut, .out] [(0x0, 0x18, 0x18), (0xb0, 0x100, 0x100), (0xb0, 0x104, 0x104), (0xb0, 0x108, 0x108), (0xb0, 0x10c, 0x10c)] s (lockedWrite a0 a1 a2 a3 s) := by
  intro a0 a1 a2 a3 s
  unfold lockedWrite
  extract_lets +onlyGivenNames x1
  refine Only.have_ (t := x1) ?_ fun hx1 => ?_
  · subst x1
    refine Only.ite ?_ ?_
    · refine Only.step (fset_only 0xb0 0x100 _ _ _ _ rfl rfl rfl) (by decide +kernel) ?_
      refine Only.step (fset_only 0xb0 0x108 _ _ _ _ rfl rfl rfl) (by decide +kernel) ?_
      refine Only.step (fset_only 0xb0 0x104 _ _ _ _ rfl rfl rfl) (by decide +kernel) ?_
      refine Only.step (fset_only 0xb0 0x100 _ _ _ _ rfl rfl rfl) (by decide +kernel) ?_
      exact Only.refl _ _ _
    · exact Only.refl _ _ _
  clear_value x1
  extract_lets +onlyGivenNames x2
  refine Only.have_ (t := x2) ?_ fun hx2 => ?_
  · subst x2
    refine Only.step (satInc_only 0xb0 0x10c _ _ _ _ rfl rfl rfl rfl) (by decide +kernel) ?_
    assumption
  clear_value x2
  refine Only.ite ?_ ?_
  · refine Only.step (raise_only 0xb0 _ _ _ rfl rfl) (by decide +kernel) ?_
    assumption
  · refine Only.step (raise_only 0xb0 _ _ _ rfl rfl) (by decide +kernel) ?_
    refine Only.step (raise_any _ _ _) (by decide +kernel) ?_
    assumption

theorem guardedRwlMask (k0 : Nat) : ∀ a0 s, pageType a0 = k0 → Only [.staleMid, .heldOut, .out] [(k0, 0x18, 0x18), (k0, 0x2c, 0x2c), (0x10, 0x880, 0x880), (0xb0, 0x18, 0x18), (0xb0, 0x110, 0x110), (0xb0, 0x114, 0x114), (0xb0, 0x118, 0x118), (0xb0, 0x11c, 0x11c), (0xb0, 0x100, 0x100), (0xb0, 0x104, 0x104), (0xb0, 0x108, 0x108), (0xb0, 0x10c, 0x10c)] s s := by
  intro _ s _
  exact Only.refl _ _ s

theorem guardedRwlMaskAny : ∀ s, Only [.staleMid, .mail, .heldOut, .out] [(0x0, 0x18, 0x18), (0x0, 0x2c, 0x2c), (0x10, 0x880, 0x880), (0xb0, 0x18, 0x18), (0xb0, 0x110, 0x110), (0xb0, 0x114, 0x114), (0xb0, 0x118, 0x118), (0xb0, 0x11c, 0x11c), (0xb0, 0x100, 0x100), (0xb0, 0x104, 0x104), (0xb0, 0x108, 0x108), (0xb0, 0x10c, 0x10c)] s s := by
  intro s
  exact Only.refl _ _ s

theorem within_within {m n l : List Fld} {r q x : List RegSpan} (h : within m r n q = true) (k : within n q l x = true) :
    within m r l x = true := by
  unfold within RegSpan.inside at *
  simp only [Bool.and_eq_true, Bool.or_eq_true, List.all_eq_true, List.any_eq_true, List.contains_iff_mem, Nat.ble_eq, Nat.beq_eq] at *
  obtain ⟨h1, h2⟩ := h
  obtain ⟨k1, k2⟩ := k
  refine ⟨fun y hy => k1 y (Fld.mem_of_inside (h1 y hy)), ?_⟩
  rcases k2 with k2 | k2
  · exact Or.inl k2
  rcases h2 with h2 | h2
  · exact Or.inl (k1 _ (Fld.mem_of_inside h2))
  · refine Or.inr fun y hy => ?_
    obtain ⟨z, hz, ⟨⟨a1, a2⟩, a3⟩⟩ := h2 y hy
    obtain ⟨w, hw, ⟨⟨b1, b2⟩, b3⟩⟩ := k2 z hz
    refine ⟨w, hw, ⟨⟨Nat.le_trans b1 a1, Nat.le_trans a2 b2⟩, ?_⟩⟩
    rcases b3 with b3 | b3
    · exact Or.inl b3
    · rcases a3 with a3 | a3
      · exact Or.inl (b3.trans a3)
      · exact Or.inr (b3.trans a3)

theorem within_trans {m n l : List Fld} {r q x : List RegSpan} (h : within m r n q = true) (k : within n q l x = true)
    {s t : State} (o : Only m r s t) : Only l x s t := by
  exact (o.mono h).mono k

theorem guardedRwl_only {m : List Fld} {r : List RegSpan} {w p off d s u} {f : State → State} (k0 : Nat) (hk0 : pageType p = k0)
    (hn0 : Nat.beq k0 0x60 = false) (hm : within [.staleMid, .heldOut, .out] [(k0, 0x18, 0x18), (k0, 0x2c, 0x2c), (0x10, 0x880, 0x880), (0xb0, 0x18, 0x18), (0xb0, 0x110, 0x110), (0xb0, 0x114, 0x114), (0xb0, 0x118, 0x118), (0xb0, 0x11c, 0x11c), (0xb0, 0x100, 0x100), (0xb0, 0x104, 0x104), (0xb0, 0x108, 0x108), (0xb0, 0x10c, 0x10c)] m r = true)
    (hf : ∀ s, Only m r s (f s)) (h : Only m r u s) : Only m r u (guardedRwl w p off d f s) := by
  unfold guardedRwl guarded
  split
  · refine (h.trans (within_trans (by first | decide +kernel | simp [within, Fld.inside, RegSpan.inside]) hm (writeGate_go k0 _ _ _ _ _ hk0 hn0 ‹_›))).trans ?_
    refine Only.ite ?_ (hf _)
    exact within_trans (by first | decide +kernel | simp [within, Fld.inside, RegSpan.inside]) hm (lockedWrite_only k0 _ _ _ _ _ hk0 hn0)
  · exact h.trans (within_trans (by first | decide +kernel | simp [within, Fld.inside, RegSpan.inside]) hm (writeGate_stop k0 _ _ _ _ _ hk0 hn0 ‹_›))

theorem guardedRwl_any {m : List Fld} {r : List RegSpan} {w p off d s u} {f : State → State}
    (hm : within [.staleMid, .mail, .heldOut, .out] [(0x0, 0x18, 0x18), (0x0, 0x2c, 0x2c), (0x10, 0x880, 0x880), (0xb0, 0x18, 0x18), (0xb0, 0x110, 0x110), (0xb0, 0x114, 0x114), (0xb0, 0x118, 0x118), (0xb0, 0x11c, 0x11c), (0xb0, 0x100, 0x100), (0xb0, 0x104, 0x104), (0xb0, 0x108, 0x108), (0xb0, 0x10c, 0x10c)] m r = true)
    (hf : ∀ s, Only m r s (f s)) (h : Only m r u s) : Only m r u (guardedRwl w p off d f s) := by
  unfold guardedRwl guarded
  split
  · refine (h.trans (within_trans (by decide +kernel) hm (writeGate_goAny _ _ _ _ _ ‹_›))).trans ?_
    refine Only.ite ?_ (hf _)
    exact within_trans (by decide +kernel) hm (lockedWrite_any _ _ _ _ _)
  · exact h.trans (within_trans (by decide +kernel) hm (writeGate_stopAny _ _ _ _ _ ‹_›))

theorem hostAbort_only : ∀ a0 a1 s, Only [.ring, .heldOut, .out] [(0x70, 0x18, 0x18), (0x70, 0x108, 0x108), (0x70, 0x10c, 0x10c), (0x71, 0x18, 0x18), (0x71, 0x11c, 0x11c)] s (hostAbort a0 a1 s) := by
  intro a0 a1 s
  unfold hostAbort
  refine Only.step (emit_only _ _) (by decide +kernel) ?_
  refine Only.step (satInc_only 0x70 0x108 _ _ _ _ rfl rfl rfl rfl) (by decide +kernel) ?_
  exact Only.refl _ _ _

theorem causeDone_only (k0 : Nat) : ∀ a0 a1 s, pageType a0 = k0 → Nat.beq k0 0x60 = false → Only [.causes] [] s (causeDone a0 a1 s) := by
  intro a0 a1 s hk0 hn0
  unfold causeDone
  refine Only.step (setCauses_only k0 _ _ _ hk0 hn0) (by first | decide +kernel | simp [within, Fld.inside, RegSpan.inside]) ?_
  exact Only.refl _ _ _

theorem causeDone_any : ∀ a0 a1 s, Only [.causes] [] s (causeDone a0 a1 s) := by
  intro a0 a1 s
  unfold causeDone
  refine Only.step (setCauses_any _ _ _) (by decide +kernel) ?_
  exact Only.refl _ _ _


end Sys2Proof.Machine
end

