-- ==== Sys2Proof/Laws/OnlyMemory.lean ====
section
/-! SUPPORT. What the operations and the meanings of Machine/Memory.lean can change (`Only`, `Gives`): the parts of the state and the
registers, whatever the operands are. -/

namespace Sys2Proof.Machine

set_option linter.unusedSimpArgs false
set_option maxRecDepth 20000
set_option Elab.async false

theorem sramWrite_only : ∀ a0 a1 a2 s, Only [.sram, .sramPoison] [] s (sramWrite a0 a1 a2 s) := by
  intro a0 a1 a2 s
  refine (Only.set_sram (v := ssetAll 0 (a0 * 65536 + a1) a2 s.sram) (by decide +kernel) (fun h => ?_) (Only.refl _ _ s)).trans
    (Only.set_sramPoison (by decide +kernel) (fun h => ?_) (Only.refl _ _ _))
  · rw [canonical_eq] at h ⊢
    exact ⟨h.1, swf_ssetAll _ _ _ _ h.2.1, h.2.2⟩
  · rw [canonical_eq] at h ⊢
    refine ⟨h.1, h.2.1, swf_fold _ _ _ _ (fun m x k => ?_) h.2.2.1, h.2.2.2⟩
    split
    · exact swf_put _ _ _ _ k
    · exact k

theorem rangeDenied_only : ∀ a0 a1 s, Only [.heldOut, .out] [(0x40, 0x18, 0x18), (0x40, 0x134, 0x134), (0x40, 0x138, 0x138), (0x40, 0x13c, 0x13c)] s (rangeDenied a0 a1 s) := by
  intro a0 a1 s
  unfold rangeDenied
  extract_lets +onlyGivenNames x1
  extract_lets +onlyGivenNames x2
  refine Only.have_ (t := x2) ?_ fun hx2 => ?_
  · subst x2
    refine Only.step (satInc_only 0x40 0x134 _ _ _ _ rfl rfl rfl rfl) (by decide +kernel) ?_
    exact Only.refl _ _ _
  clear_value x2
  extract_lets +onlyGivenNames x3
  refine Only.have_ (t := x3) ?_ fun hx3 => ?_
  · subst x3
    refine Only.ite ?_ ?_
    · refine Only.step (fset_only 0x40 0x13c _ _ _ _ rfl rfl rfl) (by decide +kernel) ?_
      refine Only.step (fset_only 0x40 0x13c _ _ _ _ rfl rfl rfl) (by decide +kernel) ?_
      refine Only.step (fset_only 0x40 0x138 _ _ _ _ rfl rfl rfl) (by decide +kernel) ?_
      refine Only.step (fset_only 0x40 0x134 _ _ _ _ rfl rfl rfl) (by decide +kernel) ?_
      assumption
    · assumption
  clear_value x3
  refine Only.step (raise_only 0x40 _ _ _ rfl rfl) (by decide +kernel) ?_
  assumption

theorem markWrite_only : ∀ a0 a1 a2 s, Only [.range] [] s (markWrite a0 a1 a2 s) := by
  intro a0 a1 a2 s
  refine Only.set_range (by decide +kernel) (canonical_range ?_) (Only.refl _ _ _)
  generalize spanGranules a0 a1 = l
  generalize s.range = r
  induction l generalizing r with
  | nil => exact id
  | cons g l ih =>
    refine fun h => ih _ ?_
    simp only [Range.wf, Bool.and_eq_true] at h ⊢
    refine ⟨h.1, ?_⟩
    split
    · exact swf_put _ _ _ _ h.2
    · split
      · exact swf_put _ _ _ _ h.2
      · exact h.2

theorem countPoison_only : ∀ a0 a1 s, Only [] [(0x40, 0x130, 0x130)] s (countPoison a0 a1 s) := by
  intro a0 a1 s
  unfold countPoison
  extract_lets +onlyGivenNames x1
  clear_value x1
  extract_lets +onlyGivenNames x2
  clear_value x2
  refine Only.ite ?_ ?_
  · refine Only.step (wrapInc_only 0x40 0x130 _ _ _ _ rfl rfl rfl rfl) (by decide +kernel) ?_
    exact Only.refl _ _ _
  · exact Only.refl _ _ _

theorem rangeWrite_only : ∀ a0 a1 a2 s, Only [.range] [(0x40, 0x130, 0x130)] s (rangeWrite a0 a1 a2 s) := by
  intro a0 a1 a2 s
  unfold rangeWrite
  extract_lets +onlyGivenNames x1
  refine Only.have_ (t := x1) ?_ fun hx1 => ?_
  · subst x1
    refine Only.step (markWrite_only _ _ _ _) (by decide +kernel) ?_
    exact Only.refl _ _ _
  clear_value x1
  extract_lets +onlyGivenNames x2
  extract_lets +onlyGivenNames x3
  refine Only.have_ (t := x3) ?_ fun hx3 => ?_
  · subst x3
    refine Only.set_range (by decide +kernel) (by
      intro h; rw [canonical_eq] at h ⊢; obtain ⟨c1, c2, c3, c4, c5⟩ := h
      refine ⟨?_, ?_, ?_, ?_, ?_⟩ <;> first | assumption | rfl | exact swf_ssetAll _ _ _ _ ‹_› | exact swf_put _ _ _ _ ‹_› | exact swf_puts _ _ _ _ _ ‹_› | exact swf_filter _ _ _ _ ‹_› | (dsimp only; first | assumption | rfl | exact swf_ssetAll _ _ _ _ ‹_› | exact swf_put _ _ _ _ ‹_› | exact swf_puts _ _ _ _ _ ‹_› | exact swf_filter _ _ _ _ ‹_›)) ?_
    assumption
  clear_value x3
  refine Only.ite ?_ ?_
  · refine Only.step (countPoison_only _ _ _) (by decide +kernel) ?_
    assumption
  · assumption

theorem setHome_only : ∀ a0 a1 s, Only [.range] [] s (setHome a0 a1 s) := by
  intro a0 a1 s
  unfold setHome
  refine Only.set_range (by decide +kernel) (by
      intro h; rw [canonical_eq] at h ⊢; obtain ⟨c1, c2, c3, c4, c5⟩ := h
      refine ⟨?_, ?_, ?_, ?_, ?_⟩ <;> first | assumption | rfl | exact swf_ssetAll _ _ _ _ ‹_› | exact swf_put _ _ _ _ ‹_› | exact swf_puts _ _ _ _ _ ‹_› | exact swf_filter _ _ _ _ ‹_› | (dsimp only; first | assumption | rfl | exact swf_ssetAll _ _ _ _ ‹_› | exact swf_put _ _ _ _ ‹_› | exact swf_puts _ _ _ _ _ ‹_› | exact swf_filter _ _ _ _ ‹_›)) ?_
  exact Only.refl _ _ _

theorem poisonExtent_only : ∀ a0 a1 s, Only [.range] [(0x40, 0x130, 0x130)] s (poisonExtent a0 a1 s) := by
  intro a0 a1 s
  unfold poisonExtent
  extract_lets +onlyGivenNames x1
  clear_value x1
  extract_lets +onlyGivenNames x2
  extract_lets +onlyGivenNames x3
  refine Only.have_ (t := x3) ?_ fun hx3 => ?_
  · subst x3
    refine Only.set_range (by decide +kernel) (by
      intro h; rw [canonical_eq] at h ⊢; obtain ⟨c1, c2, c3, c4, c5⟩ := h
      refine ⟨?_, ?_, ?_, ?_, ?_⟩ <;> first | assumption | rfl | exact swf_ssetAll _ _ _ _ ‹_› | exact swf_put _ _ _ _ ‹_› | exact swf_puts _ _ _ _ _ ‹_› | exact swf_filter _ _ _ _ ‹_› | (dsimp only; first | assumption | rfl | exact swf_ssetAll _ _ _ _ ‹_› | exact swf_put _ _ _ _ ‹_› | exact swf_puts _ _ _ _ _ ‹_› | exact swf_filter _ _ _ _ ‹_›)) ?_
    exact Only.refl _ _ _
  clear_value x3
  refine Only.step (countPoison_only _ _ _) (by decide +kernel) ?_
  assumption

theorem slotError_only : ∀ a0 s, Only [.causes, .badSlots, .heldOut, .out] [(0x48, 0x14, 0x14), (0x48, 0x18, 0x18), (0x48, 0x28, 0x28), (0x48, 0x110, 0x110), (0x48, 0x118, 0x118)] s (slotError a0 s) := by
  intro a0 s
  unfold slotError
  extract_lets +onlyGivenNames x1
  clear_value x1
  extract_lets +onlyGivenNames x2
  extract_lets +onlyGivenNames x3
  refine Only.have_ (t := x3) ?_ fun hx3 => ?_
  · subst x3
    refine Only.ite ?_ ?_
    · exact Only.refl _ _ _
    · refine Only.step (satInc_only 0x48 0x110 _ _ _ _ rfl rfl rfl rfl) (by decide +kernel) ?_
      exact Only.refl _ _ _
  clear_value x3
  extract_lets +onlyGivenNames x4
  refine Only.have_ (t := x4) ?_ fun hx4 => ?_
  · subst x4
    refine Only.set_badSlots (by decide +kernel) ?_
    assumption
  clear_value x4
  extract_lets +onlyGivenNames x5
  clear_value x5
  extract_lets +onlyGivenNames x6
  refine Only.have_ (t := x6) ?_ fun hx6 => ?_
  · subst x6
    refine Only.step (fset_only 0x48 0x110 _ _ _ _ rfl rfl rfl) (by decide +kernel) ?_
    assumption
  clear_value x6
  extract_lets +onlyGivenNames x7
  refine Only.have_ (t := x7) ?_ fun hx7 => ?_
  · subst x7
    refine Only.ite ?_ ?_
    · refine Only.step (fset_only 0x48 0x118 _ _ _ _ rfl rfl rfl) (by decide +kernel) ?_
      refine Only.step (fset_only 0x48 0x118 _ _ _ _ rfl rfl rfl) (by decide +kernel) ?_
      assumption
    · assumption
  clear_value x7
  extract_lets +onlyGivenNames x8
  refine Only.have_ (t := x8) ?_ fun hx8 => ?_
  · subst x8
    refine Only.step (raise_only 0x48 _ _ _ rfl rfl) (by decide +kernel) ?_
    assumption
  clear_value x8
  refine Only.ite ?_ ?_
  · refine Only.step (fencePage_only 0x48 _ _ _ rfl rfl) (by decide +kernel) ?_
    assumption
  · assumption

theorem poisonGranule_only : ∀ a0 s, Only [.range] [] s (poisonGranule a0 s) := by
  intro a0 s
  unfold poisonGranule
  refine Only.set_range (by decide +kernel) (by
      intro h; rw [canonical_eq] at h ⊢; obtain ⟨c1, c2, c3, c4, c5⟩ := h
      refine ⟨?_, ?_, ?_, ?_, ?_⟩ <;> first | assumption | rfl | exact swf_ssetAll _ _ _ _ ‹_› | exact swf_put _ _ _ _ ‹_› | exact swf_puts _ _ _ _ _ ‹_› | exact swf_filter _ _ _ _ ‹_› | (dsimp only; first | assumption | rfl | exact swf_ssetAll _ _ _ _ ‹_› | exact swf_put _ _ _ _ ‹_› | exact swf_puts _ _ _ _ _ ‹_› | exact swf_filter _ _ _ _ ‹_›)) ?_
  exact Only.refl _ _ _

theorem storageError_only : ∀ a0 a1 s, Only [.causes, .range, .badSlots, .heldOut, .out] [(0x40, 0x18, 0x18), (0x40, 0x120, 0x120), (0x40, 0x124, 0x124), (0x40, 0x128, 0x128), (0x40, 0x12c, 0x12c), (0x48, 0x14, 0x14), (0x48, 0x18, 0x18), (0x48, 0x28, 0x28), (0x48, 0x110, 0x110), (0x48, 0x118, 0x118)] s (storageError a0 a1 s) := by
  intro a0 a1 s
  unfold storageError
  extract_lets +onlyGivenNames x1
  clear_value x1
  refine Only.ite ?_ ?_
  · exact Only.refl _ _ _
  · extract_lets +onlyGivenNames x2
    clear_value x2
    extract_lets +onlyGivenNames x3
    extract_lets +onlyGivenNames x4
    refine Only.have_ (t := x4) ?_ fun hx4 => ?_
    · subst x4
      refine Only.ite ?_ ?_
      · refine Only.ite ?_ ?_
        · refine Only.step (satInc_only 0x40 0x120 _ _ _ _ rfl rfl rfl rfl) (by decide +kernel) ?_
          exact Only.refl _ _ _
        · refine Only.step (satInc_only 0x40 0x120 _ _ _ _ rfl rfl rfl rfl) (by decide +kernel) ?_
          exact Only.refl _ _ _
      · refine Only.ite ?_ ?_
        · refine Only.step (satInc_only 0x40 0x124 _ _ _ _ rfl rfl rfl rfl) (by decide +kernel) ?_
          exact Only.refl _ _ _
        · refine Only.step (satInc_only 0x40 0x124 _ _ _ _ rfl rfl rfl rfl) (by decide +kernel) ?_
          exact Only.refl _ _ _
    clear_value x4
    extract_lets +onlyGivenNames x5
    refine Only.have_ (t := x5) ?_ fun hx5 => ?_
    · subst x5
      refine Only.ite ?_ ?_
      · refine Only.step (fset_only 0x40 0x12c _ _ _ _ rfl rfl rfl) (by decide +kernel) ?_
        refine Only.step (fset_only 0x40 0x12c _ _ _ _ rfl rfl rfl) (by decide +kernel) ?_
        refine Only.step (fset_only 0x40 0x12c _ _ _ _ rfl rfl rfl) (by decide +kernel) ?_
        refine Only.step (fset_only 0x40 0x12c _ _ _ _ rfl rfl rfl) (by decide +kernel) ?_
        refine Only.step (fset_only 0x40 0x12c _ _ _ _ rfl rfl rfl) (by decide +kernel) ?_
        refine Only.step (fset_only 0x40 0x128 _ _ _ _ rfl rfl rfl) (by decide +kernel) ?_
        assumption
      · assumption
    clear_value x5
    extract_lets +onlyGivenNames x6
    refine Only.have_ (t := x6) ?_ fun hx6 => ?_
    · subst x6
      refine Only.step (raise_only 0x40 _ _ _ rfl rfl) (by decide +kernel) ?_
      assumption
    clear_value x6
    refine Only.ite ?_ ?_
    · assumption
    · extract_lets +onlyGivenNames x7
      refine Only.have_ (t := x7) ?_ fun hx7 => ?_
      · subst x7
        refine Only.step (poisonGranule_only _ _) (by decide +kernel) ?_
        assumption
      clear_value x7
      refine Only.ite ?_ ?_
      · refine Only.step (slotError_only _ _) (by decide +kernel) ?_
        assumption
      · assumption


end Sys2Proof.Machine
end

