-- ==== Sys2Proof/Laws/OnlyArray.lean ====
section
/-! SUPPORT. What the operations and the meanings of Machine/Array.lean can change (`Only`, `Gives`): the parts of the state and the
registers, whatever the operands are. -/

namespace Sys2Proof.Machine

set_option linter.unusedSimpArgs false
set_option maxRecDepth 20000
set_option Elab.async false

theorem sweepStore_only : ∀ a0 a1 a2 s, Only [.sram, .sramPoison] [] s (sweepStore a0 a1 a2 s) := by
  intro a0 a1 a2 s
  unfold sweepStore
  extract_lets +onlyGivenNames x1
  clear_value x1
  extract_lets +onlyGivenNames x2
  clear_value x2
  extract_lets +onlyGivenNames x3
  clear_value x3
  refine Only.step (sramWrite_only _ _ _ _) (by decide +kernel) ?_
  exact Only.refl _ _ _


end Sys2Proof.Machine
end

