-- ==== Sys2Proof/Laws/OnlyPages.lean ====
section
/-! SUPPORT. What the operations and the meanings of Machine/Pages.lean can change (`Only`, `Gives`): the parts of the state and the
registers, whatever the operands are. -/

namespace Sys2Proof.Machine

set_option linter.unusedSimpArgs false
set_option maxRecDepth 20000
set_option Elab.async false

theorem clearEvents_only (k0 : Nat) : ∀ a0 a1 a2 a3 s, pageType a0 = k0 → Nat.beq k0 0x60 = false → Only [.mail, .heldOut, .out] [(k0, 0x18, 0x18)] s (clearEvents a0 a1 a2 a3 s) := by
  intro a0 a1 a2 a3 s hk0 hn0
  unfold clearEvents
  split
  · split
    · extract_lets +onlyGivenNames x1
      clear_value x1
      refine Only.step (setMail_only _ _ _ _) (by first | decide +kernel | simp [within, Fld.inside, RegSpan.inside]) ?_
      exact Only.refl _ _ _
    · exact Only.refl _ _ _
  · extract_lets +onlyGivenNames x2
    clear_value x2
    extract_lets +onlyGivenNames x3
    refine Only.have_ (t := x3) ?_ fun hx3 => ?_
    · subst x3
      refine Only.step (fset_only k0 0x18 _ _ _ _ hk0 rfl rfl) (by first | decide +kernel | simp [within, Fld.inside, RegSpan.inside]) ?_
      exact Only.refl _ _ _
    clear_value x3
    refine Only.ite ?_ ?_
    · refine Only.step (pageInterrupt_only k0 _ _ hk0 hn0) (by first | decide +kernel | simp [within, Fld.inside, RegSpan.inside]) ?_
      assumption
    · assumption

theorem clearEvents_any : ∀ a0 a1 a2 a3 s, Only [.mail, .heldOut, .out] [(0x0, 0x18, 0x18)] s (clearEvents a0 a1 a2 a3 s) := by
  intro a0 a1 a2 a3 s
  unfold clearEvents
  split
  · split
    · extract_lets +onlyGivenNames x1
      clear_value x1
      refine Only.step (setMail_only _ _ _ _) (by decide +kernel) ?_
      exact Only.refl _ _ _
    · exact Only.refl _ _ _
  · extract_lets +onlyGivenNames x2
    clear_value x2
    extract_lets +onlyGivenNames x3
    refine Only.have_ (t := x3) ?_ fun hx3 => ?_
    · subst x3
      refine Only.step (fset_any 0x18 _ _ _ _ rfl rfl) (by decide +kernel) ?_
      exact Only.refl _ _ _
    clear_value x3
    refine Only.ite ?_ ?_
    · refine Only.step (pageInterrupt_any _ _) (by decide +kernel) ?_
      assumption
    · assumption

theorem execEvtClrWrite_gives (k1 : Nat) : ∀ a0 a1 a2 a3 s, pageType a1 = k1 → Nat.beq k1 0x60 = false → Gives [.staleMid, .mail, .heldOut, .out] [(0x10, 0x880, 0x880), (0xb0, 0x18, 0x18), (0xb0, 0x110, 0x110), (0xb0, 0x114, 0x114), (0xb0, 0x118, 0x118), (0xb0, 0x11c, 0x11c), (k1, 0x18, 0x18), (k1, 0x2c, 0x2c)] s (execEvtClrWrite a0 a1 a2 a3 s) := by
  intro a0 a1 a2 a3 s hk1 hn1
  unfold execEvtClrWrite
  refine Gives.next ?_
  refine guarded_only k1 hk1 hn1 (by first | decide +kernel | simp [within, Fld.inside, RegSpan.inside]) (fun s => ?_) ?_
  · refine Only.step (clearEvents_only k1 _ _ _ _ _ hk1 hn1) (by first | decide +kernel | simp [within, Fld.inside, RegSpan.inside]) ?_
    exact Only.refl _ _ _
  · exact Only.refl _ _ _

theorem execEvtClrWrite_any : ∀ a0 a1 a2 a3 s, Gives [.staleMid, .mail, .heldOut, .out] [(0x0, 0x18, 0x18), (0x0, 0x2c, 0x2c), (0x10, 0x880, 0x880), (0xb0, 0x110, 0x110), (0xb0, 0x114, 0x114), (0xb0, 0x118, 0x118), (0xb0, 0x11c, 0x11c)] s (execEvtClrWrite a0 a1 a2 a3 s) := by
  intro a0 a1 a2 a3 s
  unfold execEvtClrWrite
  refine Gives.next ?_
  refine guarded_any (by decide +kernel) (fun s => ?_) ?_
  · refine Only.step (clearEvents_any _ _ _ _ _) (by decide +kernel) ?_
    exact Only.refl _ _ _
  · exact Only.refl _ _ _

theorem execLockSet_gives (k1 : Nat) : ∀ a0 a1 s, pageType a1 = k1 → Nat.beq k1 0x60 = false → Gives [.staleMid, .heldOut, .out] [(0x10, 0x880, 0x880), (0xb0, 0x18, 0x18), (0xb0, 0x110, 0x110), (0xb0, 0x114, 0x114), (0xb0, 0x118, 0x118), (0xb0, 0x11c, 0x11c), (k1, 0x18, 0x18), (k1, 0x2c, 0x2c), (k1, 0x30, 0x30)] s (execLockSet a0 a1 s) := by
  intro a0 a1 s hk1 hn1
  unfold execLockSet
  refine Gives.next ?_
  refine guarded_only k1 hk1 hn1 (by first | decide +kernel | simp [within, Fld.inside, RegSpan.inside]) (fun s => ?_) ?_
  · refine Only.step (fset_only k1 0x30 _ _ _ _ hk1 rfl rfl) (by first | decide +kernel | simp [within, Fld.inside, RegSpan.inside]) ?_
    exact Only.refl _ _ _
  · exact Only.refl _ _ _

theorem execLockSet_any : ∀ a0 a1 s, Gives [.staleMid, .mail, .heldOut, .out] [(0x0, 0x18, 0x18), (0x0, 0x2c, 0x2c), (0x0, 0x30, 0x30), (0x10, 0x880, 0x880), (0xb0, 0x110, 0x110), (0xb0, 0x114, 0x114), (0xb0, 0x118, 0x118), (0xb0, 0x11c, 0x11c)] s (execLockSet a0 a1 s) := by
  intro a0 a1 s
  unfold execLockSet
  refine Gives.next ?_
  refine guarded_any (by decide +kernel) (fun s => ?_) ?_
  · refine Only.step (fset_any 0x30 _ _ _ _ rfl rfl) (by decide +kernel) ?_
    exact Only.refl _ _ _
  · exact Only.refl _ _ _

theorem storeMbt_only : ∀ a0 a1 a2 s, Only [] [(0xb0, 0x400, 0x5ff)] s (storeMbt a0 a1 a2 s) := by
  intro a0 a1 a2 s
  have := a0.isLt
  unfold storeMbt
  extract_lets +onlyGivenNames x1
  refine Only.step (setRegWord_only 0xb0 (0x404 + 8 * a0.val) _ _ _ rfl (by simp only [Nat.blt_eq]; omega)) (by simp [within, Fld.inside, RegSpan.inside]; omega) ?_
  refine Only.step (setRegWord_only 0xb0 (0x400 + 8 * a0.val) _ _ _ rfl (by simp only [Nat.blt_eq]; omega)) (by simp [within, Fld.inside, RegSpan.inside]; omega) ?_
  exact Only.refl _ _ _

theorem storeAdmin_only : ∀ a0 a1 a2 s, Only [] [(0x71, 0x400, 0x41f)] s (storeAdmin a0 a1 a2 s) := by
  intro a0 a1 a2 s
  have := a0.isLt
  unfold storeAdmin
  refine Only.step (fsetI_only 0x71 (0x400 + 4 * a0.val) _ _ _ _ _ rfl rfl (by simp only [Nat.blt_eq]; omega)) (by simp [within, Fld.inside, RegSpan.inside]; omega) ?_
  refine Only.step (fsetI_only 0x71 (0x400 + 4 * a0.val) _ _ _ _ _ rfl rfl (by simp only [Nat.blt_eq]; omega)) (by simp [within, Fld.inside, RegSpan.inside]; omega) ?_
  exact Only.refl _ _ _

theorem writeEntry_only : ∀ a0 s, Only [.heldOut, .out] [(0x71, 0x18, 0x18), (0x71, 0x400, 0x41f), (0xb0, 0x18, 0x18), (0xb0, 0x400, 0x5ff)] s (writeEntry a0 s) := by
  intro a0 s
  unfold writeEntry
  split
  · refine Only.ite ?_ ?_
    · exact Only.refl _ _ _
    · refine Only.ite ?_ ?_
      · refine Only.step (storeMbt_only _ _ _ _) (by decide +kernel) ?_
        exact Only.refl _ _ _
      · refine Only.ite ?_ ?_
        · refine Only.step (storeMbt_only _ _ _ _) (by decide +kernel) ?_
          exact Only.refl _ _ _
        · refine Only.step (raise_only 0xb0 _ _ _ rfl rfl) (by decide +kernel) ?_
          refine Only.step (storeMbt_only _ _ _ _) (by decide +kernel) ?_
          exact Only.refl _ _ _
  · refine Only.ite ?_ ?_
    · refine Only.step (storeAdmin_only _ _ _ _) (by decide +kernel) ?_
      exact Only.refl _ _ _
    · refine Only.ite ?_ ?_
      · refine Only.step (storeAdmin_only _ _ _ _) (by decide +kernel) ?_
        exact Only.refl _ _ _
      · refine Only.step (raise_only 0x71 _ _ _ rfl rfl) (by decide +kernel) ?_
        refine Only.step (storeAdmin_only _ _ _ _) (by decide +kernel) ?_
        exact Only.refl _ _ _

theorem execLockedTableEntryWrite_gives : ∀ a0 a1 s, Gives [.staleMid, .mail, .heldOut, .out] [(0x0, 0x18, 0x18), (0x0, 0x2c, 0x2c), (0x10, 0x880, 0x880), (0x71, 0x400, 0x41f), (0xb0, 0x100, 0x100), (0xb0, 0x104, 0x104), (0xb0, 0x108, 0x108), (0xb0, 0x10c, 0x10c), (0xb0, 0x110, 0x110), (0xb0, 0x114, 0x114), (0xb0, 0x118, 0x118), (0xb0, 0x11c, 0x11c), (0xb0, 0x400, 0x5ff)] s (execLockedTableEntryWrite a0 a1 s) := by
  intro a0 a1 s
  unfold execLockedTableEntryWrite
  extract_lets +onlyGivenNames x1
  refine Gives.next ?_
  refine guardedRwl_any (by decide +kernel) (fun s => ?_) ?_
  · refine Only.step (writeEntry_only _ _) (by decide +kernel) ?_
    exact Only.refl _ _ _
  · exact Only.refl _ _ _

theorem execBar0ReservedWrite_gives : ∀ a0 a1 a2 s, Gives [.heldOut, .out] [(0xb0, 0x18, 0x18), (0xb0, 0x110, 0x110), (0xb0, 0x114, 0x114), (0xb0, 0x118, 0x118), (0xb0, 0x11c, 0x11c)] s (execBar0ReservedWrite a0 a1 a2 s) := by
  intro a0 a1 a2 s
  unfold execBar0ReservedWrite
  split
  · refine Gives.next ?_
    refine Only.ite ?_ ?_
    · refine Only.step (denyRecord_only _ _ _ _) (by decide +kernel) ?_
      exact Only.refl _ _ _
    · exact Only.refl _ _ _
  · refine Gives.next ?_
    exact Only.refl _ _ _

theorem execAbsentUnitPageWrite_gives : ∀ a0 a1 a2 s, Gives [.heldOut, .out] [(0xb0, 0x18, 0x18), (0xb0, 0x110, 0x110), (0xb0, 0x114, 0x114), (0xb0, 0x118, 0x118), (0xb0, 0x11c, 0x11c)] s (execAbsentUnitPageWrite a0 a1 a2 s) := by
  intro a0 a1 a2 s
  unfold execAbsentUnitPageWrite
  split
  · refine Gives.ite ?_ ?_
    · refine Gives.next ?_
      refine Only.step (denyRecord_only _ _ _ _) (by decide +kernel) ?_
      exact Only.refl _ _ _
    · refine Gives.next ?_
      exact Only.refl _ _ _
  · refine Gives.next ?_
    exact Only.refl _ _ _

theorem dropAdmin_only : ∀ a0 s, Only [] [(0x71, 0x400, 0x41f)] s (dropAdmin a0 s) := by
  intro a0 s
  have := a0.isLt
  unfold dropAdmin
  refine Only.step (fsetI_only 0x71 (0x400 + 4 * a0.val) _ _ _ _ _ rfl rfl (by simp only [Nat.blt_eq]; omega)) (by simp [within, Fld.inside, RegSpan.inside]; omega) ?_
  exact Only.refl _ _ _

theorem execTableError_gives : ∀ a0 s, Gives [.heldOut, .out] [(0x71, 0x18, 0x18), (0x71, 0x400, 0x41f), (0xb0, 0x18, 0x18), (0xb0, 0x400, 0x5ff)] s (execTableError a0 s) := by
  intro a0 s
  unfold execTableError
  split
  · refine Gives.ite ?_ ?_
    · refine Gives.next ?_
      refine Only.step (raise_only 0xb0 _ _ _ rfl rfl) (by decide +kernel) ?_
      exact Only.refl _ _ _
    · refine Gives.next ?_
      refine Only.step (raise_only 0xb0 _ _ _ rfl rfl) (by decide +kernel) ?_
      refine Only.step (storeMbt_only _ _ _ _) (by decide +kernel) ?_
      exact Only.refl _ _ _
  · refine Gives.next ?_
    refine Only.step (raise_only 0x71 _ _ _ rfl rfl) (by decide +kernel) ?_
    refine Only.step (dropAdmin_only _ _) (by decide +kernel) ?_
    exact Only.refl _ _ _

theorem bar2Denied_only : ∀ a0 a1 s, Only [.heldOut, .out] [(0x40, 0x18, 0x18), (0x40, 0x134, 0x134), (0x40, 0x138, 0x138), (0x40, 0x13c, 0x13c), (0x70, 0x18, 0x18), (0x70, 0x108, 0x108)] s (bar2Denied a0 a1 s) := by
  intro a0 a1 s
  unfold bar2Denied
  extract_lets +onlyGivenNames x1
  refine Only.step (accessDenied_only 0x70 _ _ rfl rfl) (by decide +kernel) ?_
  refine Only.step (satInc_only 0x70 0x108 _ _ _ _ rfl rfl rfl rfl) (by decide +kernel) ?_
  refine Only.step (rangeDenied_only _ _ _) (by decide +kernel) ?_
  exact Only.refl _ _ _

theorem execBar2Read_gives : ∀ a0 a1 a2 a3 s, Gives [.causes, .range, .badSlots, .ring, .heldOut, .out] [(0x40, 0x18, 0x18), (0x40, 0x120, 0x120), (0x40, 0x124, 0x124), (0x40, 0x128, 0x128), (0x40, 0x12c, 0x12c), (0x40, 0x134, 0x134), (0x40, 0x138, 0x138), (0x40, 0x13c, 0x13c), (0x48, 0x14, 0x14), (0x48, 0x18, 0x18), (0x48, 0x28, 0x28), (0x48, 0x110, 0x110), (0x48, 0x118, 0x118), (0x70, 0x18, 0x18), (0x70, 0x108, 0x108), (0x70, 0x10c, 0x10c), (0x71, 0x18, 0x18), (0x71, 0x11c, 0x11c)] s (execBar2Read a0 a1 a2 a3 s) := by
  intro a0 a1 a2 a3 s
  unfold execBar2Read
  refine Gives.ite ?_ ?_
  · refine Gives.next ?_
    exact Only.refl _ _ _
  · extract_lets +onlyGivenNames x1
    clear_value x1
    refine Gives.ite ?_ ?_
    · refine Gives.next ?_
      refine Only.step (emit_only _ _) (by decide +kernel) ?_
      refine Only.step (bar2Denied_only _ _ _) (by decide +kernel) ?_
      exact Only.refl _ _ _
    · extract_lets +onlyGivenNames x2
      refine Gives.have_ (t := x2) ?_ fun hx2 => ?_
      · subst x2
        split
        · refine Only.ite ?_ ?_
          · refine Only.step (storageError_only _ _ _) (by decide +kernel) ?_
            exact Only.refl _ _ _
          · exact Only.refl _ _ _
        · exact Only.refl _ _ _
      clear_value x2
      extract_lets +onlyGivenNames x3
      clear_value x3
      extract_lets +onlyGivenNames x4
      extract_lets +onlyGivenNames x5
      refine Gives.have_ (t := x5) ?_ fun hx5 => ?_
      · subst x5
        refine Only.step (emit_only _ _) (by decide +kernel) ?_
        assumption
      clear_value x5
      refine Gives.next ?_
      refine Only.ite ?_ ?_
      · refine Only.step (raise_only 0x70 _ _ _ rfl rfl) (by decide +kernel) ?_
        refine Only.step (wrapInc_only 0x70 0x10c _ _ _ _ rfl rfl rfl rfl) (by decide +kernel) ?_
        assumption
      · assumption

theorem execBar2Write_gives : ∀ a0 a1 a2 a3 s, Gives [.range, .ring, .heldOut, .out] [(0x40, 0x18, 0x18), (0x40, 0x130, 0x130), (0x40, 0x134, 0x134), (0x40, 0x138, 0x138), (0x40, 0x13c, 0x13c), (0x70, 0x18, 0x18), (0x70, 0x108, 0x108), (0x70, 0x10c, 0x10c), (0x71, 0x18, 0x18), (0x71, 0x11c, 0x11c), (0xb0, 0x18, 0x18), (0xb0, 0x110, 0x110), (0xb0, 0x114, 0x114), (0xb0, 0x118, 0x118), (0xb0, 0x11c, 0x11c)] s (execBar2Write a0 a1 a2 a3 s) := by
  intro a0 a1 a2 a3 s
  unfold execBar2Write
  refine Gives.ite ?_ ?_
  · refine Gives.next ?_
    exact Only.refl _ _ _
  · extract_lets +onlyGivenNames x1
    clear_value x1
    refine Gives.ite ?_ ?_
    · refine Gives.next ?_
      refine Only.step (emit_only _ _) (by decide +kernel) ?_
      refine Only.step (bar2Denied_only _ _ _) (by decide +kernel) ?_
      exact Only.refl _ _ _
    · refine Gives.ite ?_ ?_
      · refine Gives.next ?_
        refine Only.step (accessDenied_only 0x70 _ _ rfl rfl) (by decide +kernel) ?_
        refine Only.step (raise_only 0xb0 _ _ _ rfl rfl) (by decide +kernel) ?_
        refine Only.step (denyRecord_only _ _ _ _) (by decide +kernel) ?_
        exact Only.refl _ _ _
      · refine Gives.next ?_
        refine Only.step (rangeWrite_only _ _ _ _) (by decide +kernel) ?_
        exact Only.refl _ _ _

theorem execDebugSessionOpen_gives : ∀ s, Gives [.heldOut, .out] [(0xb1, 0x18, 0x18), (0xb1, 0x100, 0x100), (0xb1, 0x10c, 0x10c)] s (execDebugSessionOpen s) := by
  intro s
  unfold execDebugSessionOpen
  refine Gives.ite ?_ ?_
  · refine Gives.next ?_
    exact Only.refl _ _ _
  · refine Gives.next ?_
    refine Only.step (raise_only 0xb1 _ _ _ rfl rfl) (by decide +kernel) ?_
    refine Only.step (satInc_only 0xb1 0x10c _ _ _ _ rfl rfl rfl rfl) (by decide +kernel) ?_
    refine Only.step (fset_only 0xb1 0x100 _ _ _ _ rfl rfl rfl) (by decide +kernel) ?_
    exact Only.refl _ _ _

theorem execDebugSessionClose_gives : ∀ s, Gives [] [(0xb1, 0x100, 0x100)] s (execDebugSessionClose s) := by
  intro s
  unfold execDebugSessionClose
  refine Gives.next ?_
  refine Only.step (fset_only 0xb1 0x100 _ _ _ _ rfl rfl rfl) (by decide +kernel) ?_
  exact Only.refl _ _ _


end Sys2Proof.Machine
end

