-- ==== Sys2Proof/Laws/OnlyDeque.lean ====
section
/-! SUPPORT. What the operations and the meanings of Machine/Deque.lean can change (`Only`, `Gives`): the parts of the state and the
registers, whatever the operands are. -/

namespace Sys2Proof.Machine

set_option linter.unusedSimpArgs false
set_option maxRecDepth 20000
set_option Elab.async false

theorem noteRunning_only : ∀ a0 s, Only [] [(0x20, 0x104, 0x104), (0x20, 0x204, 0x204)] s (noteRunning a0 s) := by
  intro a0 s
  unfold noteRunning
  extract_lets +onlyGivenNames x1
  clear_value x1
  refine Only.step (fset_only 0x20 0x204 _ _ _ _ rfl rfl rfl) (by decide +kernel) ?_
  refine Only.step (fset_only 0x20 0x104 _ _ _ _ rfl rfl rfl) (by decide +kernel) ?_
  exact Only.refl _ _ _

theorem fenceTile_only : ∀ a0 a1 s, Only [.causes, .tiles, .mesh, .heldOut, .out] [(0x20, 0x14, 0x14), (0x20, 0x18, 0x18), (0x20, 0x28, 0x28), (0x20, 0x104, 0x104), (0x20, 0x204, 0x204)] s (fenceTile a0 a1 s) := by
  intro a0 a1 s
  unfold fenceTile
  extract_lets +onlyGivenNames x1
  clear_value x1
  extract_lets +onlyGivenNames x2
  refine Only.have_ (t := x2) ?_ fun hx2 => ?_
  · subst x2
    refine Only.step (fencePage_only 0x20 _ _ _ rfl rfl) (by decide +kernel) ?_
    exact Only.refl _ _ _
  clear_value x2
  refine Only.ite ?_ ?_
  · assumption
  · extract_lets +onlyGivenNames x3
    clear_value x3
    extract_lets +onlyGivenNames x4
    extract_lets +onlyGivenNames x5
    refine Only.have_ (t := x5) ?_ fun hx5 => ?_
    · subst x5
      refine Only.step (modTile_only _ _ _) (by decide +kernel) ?_
      assumption
    clear_value x5
    extract_lets +onlyGivenNames x6
    refine Only.have_ (t := x6) ?_ fun hx6 => ?_
    · subst x6
      refine Only.step (noteRunning_only _ _) (by decide +kernel) ?_
      assumption
    clear_value x6
    refine Only.ite ?_ ?_
    · refine Only.step (send_only _ _) (by decide +kernel) ?_
      assumption
    · assumption

theorem clearHold_only : ∀ a0 a1 s, Only [.tiles] [(0x20, 0x300, 0x300)] s (clearHold a0 a1 s) := by
  intro a0 a1 s
  unfold clearHold
  extract_lets +onlyGivenNames x1
  refine Only.have_ (t := x1) ?_ fun hx1 => ?_
  · subst x1
    refine Only.step (modTile_only _ _ _) (by decide +kernel) ?_
    exact Only.refl _ _ _
  clear_value x1
  split
  · refine Only.step (fset_only 0x20 0x300 _ _ _ _ rfl rfl rfl) (by decide +kernel) ?_
    refine Only.step (fset_only 0x20 0x300 _ _ _ _ rfl rfl rfl) (by decide +kernel) ?_
    assumption
  · refine Only.step (fset_only 0x20 0x300 _ _ _ _ rfl rfl rfl) (by decide +kernel) ?_
    refine Only.step (fset_only 0x20 0x300 _ _ _ _ rfl rfl rfl) (by decide +kernel) ?_
    assumption

theorem recordFail_only : ∀ a0 a1 a2 s, Only [.heldOut, .out] [(0x20, 0x18, 0x18), (0x20, 0x418, 0x418), (0x20, 0x41c, 0x41c), (0x20, 0x420, 0x420)] s (recordFail a0 a1 a2 s) := by
  intro a0 a1 a2 s
  unfold recordFail
  extract_lets +onlyGivenNames x1
  extract_lets +onlyGivenNames x2
  refine Only.have_ (t := x2) ?_ fun hx2 => ?_
  · subst x2
    refine Only.step (satInc_only 0x20 0x418 _ _ _ _ rfl rfl rfl rfl) (by decide +kernel) ?_
    exact Only.refl _ _ _
  clear_value x2
  extract_lets +onlyGivenNames x3
  refine Only.have_ (t := x3) ?_ fun hx3 => ?_
  · subst x3
    refine Only.ite ?_ ?_
    · refine Only.step (fset_only 0x20 0x41c _ _ _ _ rfl rfl rfl) (by decide +kernel) ?_
      refine Only.step (fset_only 0x20 0x420 _ _ _ _ rfl rfl rfl) (by decide +kernel) ?_
      refine Only.step (fset_only 0x20 0x41c _ _ _ _ rfl rfl rfl) (by decide +kernel) ?_
      refine Only.step (fset_only 0x20 0x41c _ _ _ _ rfl rfl rfl) (by decide +kernel) ?_
      refine Only.step (fset_only 0x20 0x41c _ _ _ _ rfl rfl rfl) (by decide +kernel) ?_
      assumption
    · assumption
  clear_value x3
  refine Only.step (raise_only 0x20 _ _ _ rfl rfl) (by decide +kernel) ?_
  assumption

theorem sendSignal_only : ∀ a0 s, Only [.mesh] [] s (sendSignal a0 s) := by
  intro a0 s
  unfold sendSignal
  split
  · refine Only.step (send_only _ _) (by decide +kernel) ?_
    exact Only.refl _ _ _
  · refine Only.step (send_only _ _) (by decide +kernel) ?_
    exact Only.refl _ _ _

theorem dropShadow_only : ∀ a0 a1 s, Only [.tiles] [] s (dropShadow a0 a1 s) := by
  intro a0 a1 s
  unfold dropShadow
  refine Only.ite ?_ ?_
  · refine Only.step (modTile_only _ _ _) (by decide +kernel) ?_
    exact Only.refl _ _ _
  · exact Only.refl _ _ _

theorem returnCredit_only : ∀ a0 a1 s, Only [.mesh] [] s (returnCredit a0 a1 s) := by
  intro a0 a1 s
  unfold returnCredit
  refine Only.ite ?_ ?_
  · refine Only.step (send_only _ _) (by decide +kernel) ?_
    exact Only.refl _ _ _
  · exact Only.refl _ _ _

theorem endTaskCore_only : ∀ a0 a1 a2 a3 s, Only [.tiles, .mesh, .range, .heldOut, .out] [(0x20, 0x18, 0x18), (0x20, 0x410, 0x410), (0x20, 0x414, 0x414), (0x20, 0x418, 0x418), (0x20, 0x41c, 0x41c), (0x20, 0x420, 0x420), (0x40, 0x130, 0x130)] s (endTaskCore a0 a1 a2 a3 s) := by
  intro a0 a1 a2 a3 s
  unfold endTaskCore
  extract_lets +onlyGivenNames x1
  refine Only.have_ (t := x1) ?_ fun hx1 => ?_
  · subst x1
    refine Only.step (wideInc_only 0x20 0x410 0x414 _ _ _ _ _ rfl rfl rfl rfl rfl rfl) (by decide +kernel) ?_
    exact Only.refl _ _ _
  clear_value x1
  extract_lets +onlyGivenNames x2
  refine Only.have_ (t := x2) ?_ fun hx2 => ?_
  · subst x2
    refine Only.ite ?_ ?_
    · assumption
    · refine Only.step (poisonExtent_only _ _ _) (by decide +kernel) ?_
      refine Only.step (recordFail_only _ _ _ _) (by decide +kernel) ?_
      assumption
  clear_value x2
  extract_lets +onlyGivenNames x3
  refine Only.have_ (t := x3) ?_ fun hx3 => ?_
  · subst x3
    refine Only.foldl (fun s x => ?_) ?_
    · refine Only.step (sendSignal_only _ _) (by decide +kernel) ?_
      exact Only.refl _ _ _
    · assumption
  clear_value x3
  extract_lets +onlyGivenNames x4
  refine Only.have_ (t := x4) ?_ fun hx4 => ?_
  · subst x4
    refine Only.step (send_only _ _) (by decide +kernel) ?_
    assumption
  clear_value x4
  extract_lets +onlyGivenNames x5
  refine Only.have_ (t := x5) ?_ fun hx5 => ?_
  · subst x5
    refine Only.step (modTile_only _ _ _) (by decide +kernel) ?_
    assumption
  clear_value x5
  refine Only.step (dropShadow_only _ _ _) (by decide +kernel) ?_
  refine Only.step (returnCredit_only _ _ _) (by decide +kernel) ?_
  assumption

theorem settle_only : ∀ a0 s, Only [.tiles, .mesh, .range, .heldOut, .out] [(0x20, 0x18, 0x18), (0x20, 0x15c, 0x15c), (0x20, 0x410, 0x410), (0x20, 0x414, 0x414), (0x20, 0x418, 0x418), (0x20, 0x41c, 0x41c), (0x20, 0x420, 0x420), (0x40, 0x130, 0x130)] s (settle a0 s) := by
  intro a0 s
  unfold settle
  extract_lets +onlyGivenNames x1
  refine Only.have_ (t := x1) ?_ fun hx1 => ?_
  · subst x1
    refine Only.step (modTile_only _ _ _) (by decide +kernel) ?_
    exact Only.refl _ _ _
  clear_value x1
  extract_lets +onlyGivenNames x2
  clear_value x2
  extract_lets +onlyGivenNames x3
  extract_lets +onlyGivenNames x4
  refine Only.have_ (t := x4) ?_ fun hx4 => ?_
  · subst x4
    refine Only.step (setTile_only _ _ _) (by decide +kernel) ?_
    assumption
  clear_value x4
  extract_lets +onlyGivenNames x5
  clear_value x5
  refine Only.foldl (fun s x => ?_) ?_
  · refine Only.step (endTaskCore_only _ _ _ _ _) (by decide +kernel) ?_
    refine Only.step (raise_only 0x20 _ _ _ rfl rfl) (by decide +kernel) ?_
    refine Only.step (satInc_only 0x20 0x15c _ _ _ _ rfl rfl rfl rfl) (by decide +kernel) ?_
    exact Only.refl _ _ _
  · assumption

theorem writeReject_only : ∀ a0 a1 a2 s, Only [.heldOut, .out] [(0x20, 0x18, 0x18), (0x20, 0x138, 0x138)] s (writeReject a0 a1 a2 s) := by
  intro a0 a1 a2 s
  unfold writeReject
  refine Only.step (raise_only 0x20 _ _ _ rfl rfl) (by decide +kernel) ?_
  refine Only.step (fset_only 0x20 0x138 _ _ _ _ rfl rfl rfl) (by decide +kernel) ?_
  refine Only.step (fset_only 0x20 0x138 _ _ _ _ rfl rfl rfl) (by decide +kernel) ?_
  exact Only.refl _ _ _

theorem noteUse_only : ∀ a0 a1 s, Only [.heldOut, .out] [(0x20, 0x18, 0x18), (0x20, 0x43c, 0x43c)] s (noteUse a0 a1 s) := by
  intro a0 a1 s
  unfold noteUse
  extract_lets +onlyGivenNames x1
  clear_value x1
  extract_lets +onlyGivenNames x2
  extract_lets +onlyGivenNames x3
  refine Only.have_ (t := x3) ?_ fun hx3 => ?_
  · subst x3
    refine Only.ite ?_ ?_
    · subst x2
      split
      · refine Only.step (fset_only 0x20 0x43c _ _ _ _ rfl rfl rfl) (by decide +kernel) ?_
        exact Only.refl _ _ _
      · refine Only.step (fset_only 0x20 0x43c _ _ _ _ rfl rfl rfl) (by decide +kernel) ?_
        exact Only.refl _ _ _
      · refine Only.step (fset_only 0x20 0x43c _ _ _ _ rfl rfl rfl) (by decide +kernel) ?_
        exact Only.refl _ _ _
    · exact Only.refl _ _ _
  clear_value x3
  refine Only.ite ?_ ?_
  · refine Only.step (raise_only 0x20 _ _ _ rfl rfl) (by decide +kernel) ?_
    assumption
  · assumption

theorem pushEntry_only : ∀ a0 a1 a2 a3 a4 a5 s, Only [.tiles, .heldOut, .out] [(0x20, 0x18, 0x18), (0x20, 0x43c, 0x43c)] s (pushEntry a0 a1 a2 a3 a4 a5 s) := by
  intro a0 a1 a2 a3 a4 a5 s
  unfold pushEntry
  extract_lets +onlyGivenNames x1
  clear_value x1
  extract_lets +onlyGivenNames x2
  clear_value x2
  refine Only.step (noteUse_only _ _ _) (by decide +kernel) ?_
  refine Only.step (setTile_only _ _ _) (by decide +kernel) ?_
  exact Only.refl _ _ _

theorem modEntry_only : ∀ a0 a1 a2 s, Only [.tiles] [] s (modEntry a0 a1 a2 s) := by
  intro a0 a1 a2 s
  unfold modEntry
  refine Only.step (modTile_only _ _ _) (by decide +kernel) ?_
  exact Only.refl _ _ _

theorem setCtx_only : ∀ a0 a1 s, Only [.tiles] [] s (setCtx a0 a1 s) := by
  intro a0 a1 s
  unfold setCtx
  refine Only.step (modTile_only _ _ _) (by decide +kernel) ?_
  exact Only.refl _ _ _

theorem failUnbuilt_only : ∀ a0 a1 a2 s, Only [.tiles, .mesh, .range, .heldOut, .out] [(0x20, 0x18, 0x18), (0x20, 0x410, 0x410), (0x20, 0x414, 0x414), (0x20, 0x418, 0x418), (0x20, 0x41c, 0x41c), (0x20, 0x420, 0x420), (0x40, 0x130, 0x130)] s (failUnbuilt a0 a1 a2 s) := by
  intro a0 a1 a2 s
  unfold failUnbuilt
  extract_lets +onlyGivenNames x1
  clear_value x1
  refine Only.step (endTaskCore_only _ _ _ _ _) (by decide +kernel) ?_
  refine Only.step (modTile_only _ _ _) (by decide +kernel) ?_
  exact Only.refl _ _ _

theorem ownVectorReady_only : ∀ a0 a1 s, Only [.tiles] [] s (ownVectorReady a0 a1 s) := by
  intro a0 a1 s
  unfold ownVectorReady
  refine Only.ite ?_ ?_
  · exact Only.refl _ _ _
  · refine Only.step (modTile_only _ _ _) (by decide +kernel) ?_
    exact Only.refl _ _ _

theorem takeSignal_only : ∀ a0 a1 s, Only [.tiles, .mesh, .range, .heldOut, .out] [(0x20, 0x18, 0x18), (0x20, 0x15c, 0x15c), (0x20, 0x410, 0x410), (0x20, 0x414, 0x414), (0x20, 0x418, 0x418), (0x20, 0x41c, 0x41c), (0x20, 0x420, 0x420), (0x20, 0x43c, 0x43c), (0x40, 0x130, 0x130)] s (takeSignal a0 a1 s) := by
  intro a0 a1 s
  unfold takeSignal
  extract_lets +onlyGivenNames x1
  clear_value x1
  split
  · refine Only.ite ?_ ?_
    · extract_lets +onlyGivenNames x2
      refine Only.have_ (t := x2) ?_ fun hx2 => ?_
      · subst x2
        refine Only.step (modEntry_only _ _ _ _) (by decide +kernel) ?_
        exact Only.refl _ _ _
      clear_value x2
      refine Only.step (settle_only _ _) (by decide +kernel) ?_
      refine Only.step (ownVectorReady_only _ _ _) (by decide +kernel) ?_
      assumption
    · refine Only.step (modEntry_only _ _ _ _) (by decide +kernel) ?_
      exact Only.refl _ _ _
  · split
    · refine Only.step (failUnbuilt_only _ _ _ _) (by decide +kernel) ?_
      exact Only.refl _ _ _
    · extract_lets +onlyGivenNames x3
      clear_value x3
      extract_lets +onlyGivenNames x4
      clear_value x4
      refine Only.ite ?_ ?_
      · refine Only.step (failUnbuilt_only _ _ _ _) (by decide +kernel) ?_
        exact Only.refl _ _ _
      · refine Only.ite ?_ ?_
        · refine Only.step (failUnbuilt_only _ _ _ _) (by decide +kernel) ?_
          exact Only.refl _ _ _
        · refine Only.ite ?_ ?_
          · refine Only.step (failUnbuilt_only _ _ _ _) (by decide +kernel) ?_
            exact Only.refl _ _ _
          · refine Only.ite ?_ ?_
            · extract_lets +onlyGivenNames x5
              clear_value x5
              refine Only.step (settle_only _ _) (by decide +kernel) ?_
              refine Only.step (ownVectorReady_only _ _ _) (by decide +kernel) ?_
              refine Only.step (pushEntry_only _ _ _ _ _ _ _) (by decide +kernel) ?_
              exact Only.refl _ _ _
            · refine Only.step (pushEntry_only _ _ _ _ _ _ _) (by decide +kernel) ?_
              exact Only.refl _ _ _

theorem drainSpill_only : ∀ a0 a1 s, Only [.tiles, .mesh, .range, .heldOut, .out] [(0x20, 0x18, 0x18), (0x20, 0x15c, 0x15c), (0x20, 0x410, 0x410), (0x20, 0x414, 0x414), (0x20, 0x418, 0x418), (0x20, 0x41c, 0x41c), (0x20, 0x420, 0x420), (0x20, 0x43c, 0x43c), (0x40, 0x130, 0x130)] s (drainSpill a0 a1 s) := by
  intro a0 a1
  induction a0 with
  | zero => intro s; exact Only.refl _ _ _
  | succ n ih =>
    intro s
    unfold drainSpill
    extract_lets +onlyGivenNames x1
    clear_value x1
    split
    · refine Only.ite ?_ ?_
      · exact (modTile_only _ _ _).mono (by decide +kernel)
      · exact Only.refl _ _ _
    · refine Only.ite (Only.refl _ _ _) ?_
      extract_lets +onlyGivenNames x2
      have h2 : Only [.tiles, .mesh, .range, .heldOut, .out] [(0x20, 0x18, 0x18), (0x20, 0x15c, 0x15c), (0x20, 0x410, 0x410), (0x20, 0x414, 0x414), (0x20, 0x418, 0x418), (0x20, 0x41c, 0x41c), (0x20, 0x420, 0x420), (0x20, 0x43c, 0x43c), (0x40, 0x130, 0x130)] s x2 := by
        subst x2
        refine Only.step (takeSignal_only _ _ _) (by decide +kernel) ?_
        refine Only.step (setTile_only _ _ _) (by decide +kernel) ?_
        exact Only.refl _ _ _
      clear_value x2
      refine Only.trans ?_ (ih _)
      refine Only.ite ?_ h2
      refine Only.step (modTile_only _ _ _) (by decide +kernel) h2

theorem endTask_only : ∀ a0 a1 a2 a3 s, Only [.tiles, .mesh, .range, .heldOut, .out] [(0x20, 0x18, 0x18), (0x20, 0x15c, 0x15c), (0x20, 0x410, 0x410), (0x20, 0x414, 0x414), (0x20, 0x418, 0x418), (0x20, 0x41c, 0x41c), (0x20, 0x420, 0x420), (0x20, 0x43c, 0x43c), (0x40, 0x130, 0x130)] s (endTask a0 a1 a2 a3 s) := by
  intro a0 a1 a2 a3 s
  unfold endTask
  extract_lets +onlyGivenNames x1
  refine Only.have_ (t := x1) ?_ fun hx1 => ?_
  · subst x1
    refine Only.step (settle_only _ _) (by decide +kernel) ?_
    refine Only.step (endTaskCore_only _ _ _ _ _) (by decide +kernel) ?_
    exact Only.refl _ _ _
  clear_value x1
  refine Only.step (drainSpill_only _ _ _) (by decide +kernel) ?_
  assumption

theorem fenceBank_only : ∀ a0 a1 a2 s, Only [.causes, .tiles, .mesh, .range, .heldOut, .out] [(0x20, 0x14, 0x14), (0x20, 0x18, 0x18), (0x20, 0x28, 0x28), (0x20, 0x104, 0x104), (0x20, 0x15c, 0x15c), (0x20, 0x204, 0x204), (0x20, 0x300, 0x300), (0x20, 0x410, 0x410), (0x20, 0x414, 0x414), (0x20, 0x418, 0x418), (0x20, 0x41c, 0x41c), (0x20, 0x420, 0x420), (0x40, 0x130, 0x130)] s (fenceBank a0 a1 a2 s) := by
  intro a0 a1 a2 s
  unfold fenceBank
  refine Only.ite ?_ ?_
  · refine Only.step (fenceTile_only _ _ _) (by decide +kernel) ?_
    exact Only.refl _ _ _
  · extract_lets +onlyGivenNames x1
    refine Only.have_ (t := x1) ?_ fun hx1 => ?_
    · subst x1
      refine Only.step (modTile_only _ _ _) (by decide +kernel) ?_
      exact Only.refl _ _ _
    clear_value x1
    extract_lets +onlyGivenNames x2
    refine Only.have_ (t := x2) ?_ fun hx2 => ?_
    · subst x2
      split
      · refine Only.step (fset_only 0x20 0x300 _ _ _ _ rfl rfl rfl) (by decide +kernel) ?_
        assumption
      · refine Only.step (fset_only 0x20 0x300 _ _ _ _ rfl rfl rfl) (by decide +kernel) ?_
        assumption
    clear_value x2
    extract_lets +onlyGivenNames x3
    extract_lets +onlyGivenNames x4
    refine Only.have_ (t := x4) ?_ fun hx4 => ?_
    · subst x4
      subst x3
      split
      · refine Only.step (fset_only 0x20 0x300 _ _ _ _ rfl rfl rfl) (by decide +kernel) ?_
        assumption
      · refine Only.step (fset_only 0x20 0x300 _ _ _ _ rfl rfl rfl) (by decide +kernel) ?_
        assumption
    clear_value x4
    refine Only.step (settle_only _ _) (by decide +kernel) ?_
    refine Only.step (noteRunning_only _ _) (by decide +kernel) ?_
    assumption

theorem persistent_only : ∀ a0 a1 a2 s, Only [.causes, .tiles, .mesh, .range, .heldOut, .out] [(0x20, 0x14, 0x14), (0x20, 0x18, 0x18), (0x20, 0x28, 0x28), (0x20, 0x104, 0x104), (0x20, 0x15c, 0x15c), (0x20, 0x204, 0x204), (0x20, 0x300, 0x300), (0x20, 0x310, 0x310), (0x20, 0x410, 0x410), (0x20, 0x414, 0x414), (0x20, 0x418, 0x418), (0x20, 0x41c, 0x41c), (0x20, 0x420, 0x420), (0x40, 0x130, 0x130)] s (persistent a0 a1 a2 s) := by
  intro a0 a1 a2 s
  unfold persistent
  extract_lets +onlyGivenNames x1
  extract_lets +onlyGivenNames x2
  refine Only.have_ (t := x2) ?_ fun hx2 => ?_
  · subst x2
    refine Only.step (raise_only 0x20 _ _ _ rfl rfl) (by decide +kernel) ?_
    refine Only.step (satInc_only 0x20 0x310 _ _ _ _ rfl rfl rfl rfl) (by decide +kernel) ?_
    exact Only.refl _ _ _
  clear_value x2
  extract_lets +onlyGivenNames x3
  clear_value x3
  extract_lets +onlyGivenNames x4
  refine Only.have_ (t := x4) ?_ fun hx4 => ?_
  · subst x4
    refine Only.step (fenceBank_only _ _ _ _) (by decide +kernel) ?_
    assumption
  clear_value x4
  refine Only.ite ?_ ?_
  · refine Only.step (fenceTile_only _ _ _) (by decide +kernel) ?_
    assumption
  · assumption

theorem bankReady_only : ∀ a0 a1 s, Only [.tiles, .mesh, .range, .heldOut, .out] [(0x20, 0x18, 0x18), (0x20, 0x15c, 0x15c), (0x20, 0x410, 0x410), (0x20, 0x414, 0x414), (0x20, 0x418, 0x418), (0x20, 0x41c, 0x41c), (0x20, 0x420, 0x420), (0x40, 0x130, 0x130)] s (bankReady a0 a1 s) := by
  intro a0 a1 s
  unfold bankReady
  extract_lets +onlyGivenNames x1
  refine Only.have_ (t := x1) ?_ fun hx1 => ?_
  · subst x1
    refine Only.step (modTile_only _ _ _) (by decide +kernel) ?_
    exact Only.refl _ _ _
  clear_value x1
  refine Only.step (settle_only _ _) (by decide +kernel) ?_
  refine Only.step (raise_only 0x20 _ _ _ rfl rfl) (by decide +kernel) ?_
  assumption

theorem recordSkew_only : ∀ a0 a1 a2 a3 a4 s, Only [.heldOut, .out] [(0x20, 0x18, 0x18), (0x20, 0x238, 0x238), (0x20, 0x23c, 0x23c)] s (recordSkew a0 a1 a2 a3 a4 s) := by
  intro a0 a1 a2 a3 a4 s
  unfold recordSkew
  extract_lets +onlyGivenNames x1
  extract_lets +onlyGivenNames x2
  refine Only.have_ (t := x2) ?_ fun hx2 => ?_
  · subst x2
    refine Only.step (satInc_only 0x20 0x23c _ _ _ _ rfl rfl rfl rfl) (by decide +kernel) ?_
    exact Only.refl _ _ _
  clear_value x2
  extract_lets +onlyGivenNames x3
  refine Only.have_ (t := x3) ?_ fun hx3 => ?_
  · subst x3
    refine Only.ite ?_ ?_
    · refine Only.step (fset_only 0x20 0x238 _ _ _ _ rfl rfl rfl) (by decide +kernel) ?_
      refine Only.step (fset_only 0x20 0x238 _ _ _ _ rfl rfl rfl) (by decide +kernel) ?_
      refine Only.step (fset_only 0x20 0x238 _ _ _ _ rfl rfl rfl) (by decide +kernel) ?_
      refine Only.step (fset_only 0x20 0x238 _ _ _ _ rfl rfl rfl) (by decide +kernel) ?_
      refine Only.step (fset_only 0x20 0x238 _ _ _ _ rfl rfl rfl) (by decide +kernel) ?_
      assumption
    · assumption
  clear_value x3
  refine Only.step (raise_only 0x20 _ _ _ rfl rfl) (by decide +kernel) ?_
  assumption


end Sys2Proof.Machine
end

