-- ==== Sys2Proof/Laws/OnlyTile.lean ====
section
/-! SUPPORT. What the operations and the meanings of Machine/Tile.lean can change (`Only`, `Gives`): the parts of the state and the
registers, whatever the operands are. -/

namespace Sys2Proof.Machine

set_option linter.unusedSimpArgs false
set_option maxRecDepth 20000
set_option Elab.async false

theorem calibrated_only : ∀ a0 a1 s, Only [.tiles] [] s (calibrated a0 a1 s) := by
  intro a0 a1 s
  unfold calibrated
  extract_lets +onlyGivenNames x1
  clear_value x1
  refine Only.step (modTile_only _ _ _) (by decide +kernel) ?_
  exact Only.refl _ _ _

theorem substitute_only : ∀ a0 a1 s, Only [.heldOut, .out] [(0x20, 0x18, 0x18), (0x20, 0x350, 0x350)] s (substitute a0 a1 s) := by
  intro a0 a1 s
  unfold substitute
  extract_lets +onlyGivenNames x1
  clear_value x1
  refine Only.step (raise_only 0x20 _ _ _ rfl rfl) (by decide +kernel) ?_
  refine Only.step (fset_only 0x20 0x350 _ _ _ _ rfl rfl rfl) (by decide +kernel) ?_
  refine Only.step (fset_only 0x20 0x350 _ _ _ _ rfl rfl rfl) (by decide +kernel) ?_
  refine Only.step (fset_only 0x20 0x350 _ _ _ _ rfl rfl rfl) (by decide +kernel) ?_
  refine Only.step (fset_only 0x20 0x350 _ _ _ _ rfl rfl rfl) (by decide +kernel) ?_
  exact Only.refl _ _ _

theorem startBankWrite_only : ∀ a0 a1 a2 a3 a4 a5 a6 a7 s, Only [.tiles, .mesh, .range, .heldOut, .out] [(0x20, 0x18, 0x18), (0x20, 0x15c, 0x15c), (0x20, 0x410, 0x410), (0x20, 0x414, 0x414), (0x20, 0x418, 0x418), (0x20, 0x41c, 0x41c), (0x20, 0x420, 0x420), (0x40, 0x130, 0x130)] s (startBankWrite a0 a1 a2 a3 a4 a5 a6 a7 s) := by
  intro a0 a1 a2 a3 a4 a5 a6 a7 s
  unfold startBankWrite
  extract_lets +onlyGivenNames x1
  clear_value x1
  extract_lets +onlyGivenNames x2
  clear_value x2
  refine Only.step (settle_only _ _) (by decide +kernel) ?_
  refine Only.step (setTile_only _ _ _) (by decide +kernel) ?_
  exact Only.refl _ _ _

theorem bankWriteCmd_only : ∀ a0 a1 a2 s, Only [.tiles, .mesh, .range, .heldOut, .out] [(0x20, 0x18, 0x18), (0x20, 0x134, 0x134), (0x20, 0x138, 0x138), (0x20, 0x15c, 0x15c), (0x20, 0x410, 0x410), (0x20, 0x414, 0x414), (0x20, 0x418, 0x418), (0x20, 0x41c, 0x41c), (0x20, 0x420, 0x420), (0x40, 0x130, 0x130)] s (bankWriteCmd a0 a1 a2 s) := by
  intro a0 a1 a2 s
  unfold bankWriteCmd
  extract_lets +onlyGivenNames x1
  extract_lets +onlyGivenNames x2
  clear_value x2
  extract_lets +onlyGivenNames x3
  refine Only.have_ (t := x3) ?_ fun hx3 => ?_
  · subst x3
    refine Only.step (fset_only 0x20 0x134 _ _ _ _ rfl rfl rfl) (by decide +kernel) ?_
    refine Only.step (fset_only 0x20 0x134 _ _ _ _ rfl rfl rfl) (by decide +kernel) ?_
    refine Only.step (fset_only 0x20 0x134 _ _ _ _ rfl rfl rfl) (by decide +kernel) ?_
    refine Only.step (fset_only 0x20 0x134 _ _ _ _ rfl rfl rfl) (by decide +kernel) ?_
    exact Only.refl _ _ _
  clear_value x3
  refine Only.ite ?_ ?_
  · assumption
  · extract_lets +onlyGivenNames x4
    clear_value x4
    extract_lets +onlyGivenNames x5
    clear_value x5
    extract_lets +onlyGivenNames x6
    clear_value x6
    extract_lets +onlyGivenNames x7
    clear_value x7
    refine Only.ite ?_ ?_
    · refine Only.step (writeReject_only _ _ _ _) (by decide +kernel) ?_
      assumption
    · refine Only.step (startBankWrite_only _ _ _ _ _ _ _ _ _) (by decide +kernel) ?_
      assumption

theorem execBankWriteCommand_gives : ∀ a0 a1 a2 s, Gives [.staleMid, .tiles, .mesh, .range, .heldOut, .out] [(0x10, 0x880, 0x880), (0x20, 0x18, 0x18), (0x20, 0x2c, 0x2c), (0x20, 0x134, 0x134), (0x20, 0x138, 0x138), (0x20, 0x15c, 0x15c), (0x20, 0x410, 0x410), (0x20, 0x414, 0x414), (0x20, 0x418, 0x418), (0x20, 0x41c, 0x41c), (0x20, 0x420, 0x420), (0x40, 0x130, 0x130), (0xb0, 0x18, 0x18), (0xb0, 0x110, 0x110), (0xb0, 0x114, 0x114), (0xb0, 0x118, 0x118), (0xb0, 0x11c, 0x11c)] s (execBankWriteCommand a0 a1 a2 s) := by
  intro a0 a1 a2 s
  unfold execBankWriteCommand
  refine Gives.next ?_
  refine guarded_only 0x20 rfl rfl (by decide +kernel) (fun s => ?_) ?_
  · refine Only.step (bankWriteCmd_only _ _ _ _) (by decide +kernel) ?_
    exact Only.refl _ _ _
  · exact Only.refl _ _ _

theorem startRepair_only : ∀ a0 a1 a2 s, Only [.tiles] [(0x20, 0x314, 0x314), (0x20, 0x318, 0x318)] s (startRepair a0 a1 a2 s) := by
  intro a0 a1 a2 s
  unfold startRepair
  extract_lets +onlyGivenNames x1
  extract_lets +onlyGivenNames x2
  clear_value x2
  extract_lets +onlyGivenNames x3
  clear_value x3
  extract_lets +onlyGivenNames x4
  refine Only.have_ (t := x4) ?_ fun hx4 => ?_
  · subst x4
    refine Only.step (fset_only 0x20 0x314 _ _ _ _ rfl rfl rfl) (by decide +kernel) ?_
    refine Only.step (fset_only 0x20 0x314 _ _ _ _ rfl rfl rfl) (by decide +kernel) ?_
    exact Only.refl _ _ _
  clear_value x4
  refine Only.ite ?_ ?_
  · refine Only.step (fset_only 0x20 0x318 _ _ _ _ rfl rfl rfl) (by decide +kernel) ?_
    assumption
  · extract_lets +onlyGivenNames x5
    clear_value x5
    refine Only.step (fset_only 0x20 0x318 _ _ _ _ rfl rfl rfl) (by decide +kernel) ?_
    refine Only.step (fset_only 0x20 0x318 _ _ _ _ rfl rfl rfl) (by decide +kernel) ?_
    refine Only.step (setTile_only _ _ _) (by decide +kernel) ?_
    assumption

theorem execSubstCmd_gives : ∀ a0 a1 a2 s, Gives [.staleMid, .heldOut, .out] [(0x10, 0x880, 0x880), (0x20, 0x18, 0x18), (0x20, 0x2c, 0x2c), (0x20, 0x350, 0x350), (0x20, 0x354, 0x354), (0xb0, 0x18, 0x18), (0xb0, 0x110, 0x110), (0xb0, 0x114, 0x114), (0xb0, 0x118, 0x118), (0xb0, 0x11c, 0x11c)] s (execSubstCmd a0 a1 a2 s) := by
  intro a0 a1 a2 s
  unfold execSubstCmd
  extract_lets +onlyGivenNames x1
  clear_value x1
  refine Gives.next ?_
  refine guarded_only 0x20 rfl rfl (by decide +kernel) (fun s => ?_) ?_
  · extract_lets +onlyGivenNames x2
    refine Only.have_ (t := x2) ?_ fun hx2 => ?_
    · subst x2
      refine Only.step (fset_only 0x20 0x354 _ _ _ _ rfl rfl rfl) (by decide +kernel) ?_
      exact Only.refl _ _ _
    clear_value x2
    refine Only.ite ?_ ?_
    · refine Only.step (substitute_only _ _ _) (by decide +kernel) ?_
      assumption
    · assumption
  · exact Only.refl _ _ _

theorem thermalHold_only : ∀ a0 s, Only [.tiles, .heldOut, .out] [(0x20, 0x18, 0x18), (0x20, 0x104, 0x104), (0x20, 0x160, 0x160)] s (thermalHold a0 s) := by
  intro a0 s
  unfold thermalHold
  extract_lets +onlyGivenNames x1
  clear_value x1
  extract_lets +onlyGivenNames x2
  clear_value x2
  extract_lets +onlyGivenNames x3
  refine Only.ite ?_ ?_
  · refine Only.step (raise_only 0x20 _ _ _ rfl rfl) (by decide +kernel) ?_
    refine Only.step (satInc_only 0x20 0x160 _ _ _ _ rfl rfl rfl rfl) (by decide +kernel) ?_
    refine Only.step (fset_only 0x20 0x104 _ _ _ _ rfl rfl rfl) (by decide +kernel) ?_
    refine Only.step (setTile_only _ _ _) (by decide +kernel) ?_
    exact Only.refl _ _ _
  · refine Only.ite ?_ ?_
    · refine Only.step (fset_only 0x20 0x104 _ _ _ _ rfl rfl rfl) (by decide +kernel) ?_
      refine Only.step (setTile_only _ _ _) (by decide +kernel) ?_
      exact Only.refl _ _ _
    · exact Only.refl _ _ _

theorem passStart_only : ∀ a0 a1 s, Only [.tiles, .heldOut, .out] [(0x20, 0x18, 0x18), (0x20, 0x104, 0x104), (0x20, 0x148, 0x148), (0x20, 0x14c, 0x14c), (0x20, 0x160, 0x160)] s (passStart a0 a1 s) := by
  intro a0 a1 s
  unfold passStart
  extract_lets +onlyGivenNames x1
  refine Only.have_ (t := x1) ?_ fun hx1 => ?_
  · subst x1
    refine Only.step (thermalHold_only _ _) (by decide +kernel) ?_
    exact Only.refl _ _ _
  clear_value x1
  extract_lets +onlyGivenNames x2
  clear_value x2
  extract_lets +onlyGivenNames x3
  split
  · assumption
  · extract_lets +onlyGivenNames x4
    clear_value x4
    extract_lets +onlyGivenNames x5
    clear_value x5
    extract_lets +onlyGivenNames x6
    clear_value x6
    extract_lets +onlyGivenNames x7
    clear_value x7
    extract_lets +onlyGivenNames x8
    clear_value x8
    extract_lets +onlyGivenNames x9
    clear_value x9
    extract_lets +onlyGivenNames x10
    clear_value x10
    refine Only.ite ?_ ?_
    · assumption
    · refine Only.ite ?_ ?_
      · refine Only.step (fset_only 0x20 0x104 _ _ _ _ rfl rfl rfl) (by decide +kernel) ?_
        assumption
      · refine Only.ite ?_ ?_
        · refine Only.step (setCtx_only _ _ _) (by decide +kernel) ?_
          assumption
        · refine Only.ite ?_ ?_
          · refine Only.step (wideInc_only 0x20 0x148 0x14c _ _ _ _ _ rfl rfl rfl rfl rfl rfl) (by decide +kernel) ?_
            refine Only.step (setCtx_only _ _ _) (by decide +kernel) ?_
            assumption
          · refine Only.step (fset_only 0x20 0x104 _ _ _ _ rfl rfl rfl) (by decide +kernel) ?_
            refine Only.step (setTile_only _ _ _) (by decide +kernel) ?_
            assumption

theorem execPassStart_gives : ∀ a0 a1 s, Gives [.tiles, .heldOut, .out] [(0x20, 0x18, 0x18), (0x20, 0x104, 0x104), (0x20, 0x148, 0x148), (0x20, 0x14c, 0x14c), (0x20, 0x160, 0x160)] s (execPassStart a0 a1 s) := by
  intro a0 a1 s
  unfold execPassStart
  refine Gives.next ?_
  refine Only.step (passStart_only _ _ _) (by decide +kernel) ?_
  exact Only.refl _ _ _

theorem recordMismatch_only : ∀ a0 a1 a2 a3 a4 a5 a6 s, Only [] [(0x20, 0x304, 0x304), (0x20, 0x308, 0x308)] s (recordMismatch a0 a1 a2 a3 a4 a5 a6 s) := by
  intro a0 a1 a2 a3 a4 a5 a6 s
  unfold recordMismatch
  extract_lets +onlyGivenNames x1
  refine Only.ite ?_ ?_
  · exact Only.refl _ _ _
  · refine Only.step (fset_only 0x20 0x304 _ _ _ _ rfl rfl rfl) (by decide +kernel) ?_
    refine Only.step (fset_only 0x20 0x308 _ _ _ _ rfl rfl rfl) (by decide +kernel) ?_
    refine Only.step (fset_only 0x20 0x304 _ _ _ _ rfl rfl rfl) (by decide +kernel) ?_
    refine Only.step (fset_only 0x20 0x304 _ _ _ _ rfl rfl rfl) (by decide +kernel) ?_
    refine Only.step (fset_only 0x20 0x304 _ _ _ _ rfl rfl rfl) (by decide +kernel) ?_
    refine Only.step (fset_only 0x20 0x304 _ _ _ _ rfl rfl rfl) (by decide +kernel) ?_
    refine Only.step (fset_only 0x20 0x304 _ _ _ _ rfl rfl rfl) (by decide +kernel) ?_
    refine Only.step (fset_only 0x20 0x304 _ _ _ _ rfl rfl rfl) (by decide +kernel) ?_
    refine Only.step (fset_only 0x20 0x304 _ _ _ _ rfl rfl rfl) (by decide +kernel) ?_
    exact Only.refl _ _ _

theorem passEnd_only : ∀ a0 a1 a2 a3 a4 a5 s, Only [.causes, .tiles, .mesh, .range, .heldOut, .out] [(0x20, 0x14, 0x14), (0x20, 0x18, 0x18), (0x20, 0x28, 0x28), (0x20, 0x104, 0x104), (0x20, 0x140, 0x140), (0x20, 0x144, 0x144), (0x20, 0x158, 0x158), (0x20, 0x15c, 0x15c), (0x20, 0x204, 0x204), (0x20, 0x300, 0x300), (0x20, 0x304, 0x304), (0x20, 0x308, 0x308), (0x20, 0x30c, 0x30c), (0x20, 0x310, 0x310), (0x20, 0x410, 0x410), (0x20, 0x414, 0x414), (0x20, 0x418, 0x418), (0x20, 0x41c, 0x41c), (0x20, 0x420, 0x420), (0x40, 0x130, 0x130)] s (passEnd a0 a1 a2 a3 a4 a5 s) := by
  intro a0 a1 a2 a3 a4 a5 s
  unfold passEnd
  extract_lets +onlyGivenNames x1
  clear_value x1
  extract_lets +onlyGivenNames x2
  extract_lets +onlyGivenNames x3
  clear_value x3
  extract_lets +onlyGivenNames x4
  clear_value x4
  extract_lets +onlyGivenNames x5
  clear_value x5
  extract_lets +onlyGivenNames x6
  clear_value x6
  extract_lets +onlyGivenNames x7
  clear_value x7
  extract_lets +onlyGivenNames x8
  clear_value x8
  extract_lets +onlyGivenNames x9
  clear_value x9
  extract_lets +onlyGivenNames x10
  refine Only.have_ (t := x10) ?_ fun hx10 => ?_
  · subst x10
    refine Only.step (wideInc_only 0x20 0x140 0x144 _ _ _ _ _ rfl rfl rfl rfl rfl rfl) (by decide +kernel) ?_
    exact Only.refl _ _ _
  clear_value x10
  extract_lets +onlyGivenNames x11
  refine Only.have_ (t := x11) ?_ fun hx11 => ?_
  · subst x11
    refine Only.ite ?_ ?_
    · refine Only.step (raise_only 0x20 _ _ _ rfl rfl) (by decide +kernel) ?_
      refine Only.step (satInc_only 0x20 0x158 _ _ _ _ rfl rfl rfl rfl) (by decide +kernel) ?_
      assumption
    · assumption
  clear_value x11
  refine Only.ite ?_ ?_
  · extract_lets +onlyGivenNames x12
    refine Only.have_ (t := x12) ?_ fun hx12 => ?_
    · subst x12
      refine Only.step (recordMismatch_only _ _ _ _ _ _ _ _) (by decide +kernel) ?_
      assumption
    clear_value x12
    refine Only.ite ?_ ?_
    · refine Only.step (persistent_only _ _ _ _) (by decide +kernel) ?_
      refine Only.step (modTile_only _ _ _) (by decide +kernel) ?_
      assumption
    · refine Only.step (modTile_only _ _ _) (by decide +kernel) ?_
      assumption
  · extract_lets +onlyGivenNames x13
    refine Only.have_ (t := x13) ?_ fun hx13 => ?_
    · subst x13
      refine Only.step (wrapInc_only 0x20 0x30c _ _ _ _ rfl rfl rfl rfl) (by decide +kernel) ?_
      assumption
    clear_value x13
    extract_lets +onlyGivenNames x14
    refine Only.have_ (t := x14) ?_ fun hx14 => ?_
    · subst x14
      refine Only.ite ?_ ?_
      · refine Only.step (fset_only 0x20 0x304 _ _ _ _ rfl rfl rfl) (by decide +kernel) ?_
        assumption
      · assumption
    clear_value x14
    extract_lets +onlyGivenNames x15
    refine Only.have_ (t := x15) ?_ fun hx15 => ?_
    · subst x15
      refine Only.ite ?_ ?_
      · refine Only.step (raise_only 0x20 _ _ _ rfl rfl) (by decide +kernel) ?_
        assumption
      · assumption
    clear_value x15
    extract_lets +onlyGivenNames x16
    refine Only.have_ (t := x16) ?_ fun hx16 => ?_
    · subst x16
      refine Only.ite ?_ ?_
      · refine Only.step (raise_only 0x20 _ _ _ rfl rfl) (by decide +kernel) ?_
        assumption
      · assumption
    clear_value x16
    extract_lets +onlyGivenNames x17
    clear_value x17
    extract_lets +onlyGivenNames x18
    refine Only.have_ (t := x18) ?_ fun hx18 => ?_
    · subst x18
      refine Only.step (modTile_only _ _ _) (by decide +kernel) ?_
      assumption
    clear_value x18
    refine Only.step (setCtx_only _ _ _) (by decide +kernel) ?_
    assumption

theorem execPassEnd_gives : ∀ a0 a1 a2 s, Gives [.causes, .tiles, .mesh, .range, .heldOut, .out] [(0x20, 0x14, 0x14), (0x20, 0x18, 0x18), (0x20, 0x28, 0x28), (0x20, 0x104, 0x104), (0x20, 0x140, 0x140), (0x20, 0x144, 0x144), (0x20, 0x158, 0x158), (0x20, 0x15c, 0x15c), (0x20, 0x204, 0x204), (0x20, 0x300, 0x300), (0x20, 0x304, 0x304), (0x20, 0x308, 0x308), (0x20, 0x30c, 0x30c), (0x20, 0x310, 0x310), (0x20, 0x410, 0x410), (0x20, 0x414, 0x414), (0x20, 0x418, 0x418), (0x20, 0x41c, 0x41c), (0x20, 0x420, 0x420), (0x40, 0x130, 0x130)] s (execPassEnd a0 a1 a2 s) := by
  intro a0 a1 a2 s
  unfold execPassEnd
  extract_lets +onlyGivenNames x1
  clear_value x1
  extract_lets +onlyGivenNames x2
  split
  · refine Gives.next ?_
    refine Only.step (passEnd_only _ _ _ _ _ _ _) (by decide +kernel) ?_
    exact Only.refl _ _ _
  · refine Gives.next ?_
    refine Only.step (passEnd_only _ _ _ _ _ _ _) (by decide +kernel) ?_
    exact Only.refl _ _ _
  · refine Gives.next ?_
    exact Only.refl _ _ _

theorem refreshRow_only : ∀ a0 a1 s, Only [.tiles] [(0x20, 0x320, 0x320)] s (refreshRow a0 a1 s) := by
  intro a0 a1 s
  unfold refreshRow
  extract_lets +onlyGivenNames x1
  clear_value x1
  extract_lets +onlyGivenNames x2
  clear_value x2
  extract_lets +onlyGivenNames x3
  extract_lets +onlyGivenNames x4
  clear_value x4
  extract_lets +onlyGivenNames x5
  clear_value x5
  extract_lets +onlyGivenNames x6
  clear_value x6
  extract_lets +onlyGivenNames x7
  clear_value x7
  extract_lets +onlyGivenNames x8
  refine Only.have_ (t := x8) ?_ fun hx8 => ?_
  · subst x8
    refine Only.step (setTile_only _ _ _) (by decide +kernel) ?_
    exact Only.refl _ _ _
  clear_value x8
  refine Only.ite ?_ ?_
  · refine Only.step (fset_only 0x20 0x320 _ _ _ _ rfl rfl rfl) (by decide +kernel) ?_
    refine Only.step (fset_only 0x20 0x320 _ _ _ _ rfl rfl rfl) (by decide +kernel) ?_
    assumption
  · assumption

theorem execRefreshSlot_gives : ∀ a0 a1 a2 s, Gives [.tiles] [(0x20, 0x320, 0x320), (0x20, 0x324, 0x324)] s (execRefreshSlot a0 a1 a2 s) := by
  intro a0 a1 a2 s
  unfold execRefreshSlot
  extract_lets +onlyGivenNames x1
  clear_value x1
  extract_lets +onlyGivenNames x2
  clear_value x2
  extract_lets +onlyGivenNames x3
  clear_value x3
  refine Gives.ite ?_ ?_
  · refine Gives.next ?_
    exact Only.refl _ _ _
  · refine Gives.ite ?_ ?_
    · extract_lets +onlyGivenNames x4
      clear_value x4
      extract_lets +onlyGivenNames x5
      refine Gives.have_ (t := x5) ?_ fun hx5 => ?_
      · subst x5
        refine Only.step (setTile_only _ _ _) (by decide +kernel) ?_
        exact Only.refl _ _ _
      clear_value x5
      refine Gives.next ?_
      refine Only.ite ?_ ?_
      · refine Only.step (fset_only 0x20 0x324 _ _ _ _ rfl rfl rfl) (by decide +kernel) ?_
        assumption
      · assumption
    · refine Gives.next ?_
      refine Only.step (refreshRow_only _ _ _) (by decide +kernel) ?_
      exact Only.refl _ _ _

theorem execRefreshDeferLimit_gives : ∀ a0 a1 s, Gives [.tiles] [(0x20, 0x320, 0x320)] s (execRefreshDeferLimit a0 a1 s) := by
  intro a0 a1 s
  unfold execRefreshDeferLimit
  refine Gives.ite ?_ ?_
  · refine Gives.next ?_
    refine Only.step (refreshRow_only _ _ _) (by decide +kernel) ?_
    exact Only.refl _ _ _
  · refine Gives.next ?_
    exact Only.refl _ _ _

theorem execRefreshLate_gives : ∀ a0 a1 s, Gives [.timer, .causes, .tiles, .mesh, .range, .heldOut, .out] [(0x20, 0x14, 0x14), (0x20, 0x18, 0x18), (0x20, 0x28, 0x28), (0x20, 0x104, 0x104), (0x20, 0x15c, 0x15c), (0x20, 0x204, 0x204), (0x20, 0x300, 0x300), (0x20, 0x328, 0x328), (0x20, 0x410, 0x410), (0x20, 0x414, 0x414), (0x20, 0x418, 0x418), (0x20, 0x41c, 0x41c), (0x20, 0x420, 0x420), (0x40, 0x130, 0x130)] s (execRefreshLate a0 a1 s) := by
  intro a0 a1 s
  unfold execRefreshLate
  extract_lets +onlyGivenNames x1
  clear_value x1
  extract_lets +onlyGivenNames x2
  clear_value x2
  extract_lets +onlyGivenNames x3
  clear_value x3
  refine Gives.ite ?_ ?_
  · refine Gives.next ?_
    exact Only.refl _ _ _
  · extract_lets +onlyGivenNames x4
    refine Gives.have_ (t := x4) ?_ fun hx4 => ?_
    · subst x4
      refine Only.step (reach_only _ _) (by decide +kernel) ?_
      exact Only.refl _ _ _
    clear_value x4
    extract_lets +onlyGivenNames x5
    clear_value x5
    extract_lets +onlyGivenNames x6
    refine Gives.have_ (t := x6) ?_ fun hx6 => ?_
    · subst x6
      refine Only.step (modTile_only _ _ _) (by decide +kernel) ?_
      assumption
    clear_value x6
    extract_lets +onlyGivenNames x7
    refine Gives.have_ (t := x7) ?_ fun hx7 => ?_
    · subst x7
      refine Only.step (modTile_only _ _ _) (by decide +kernel) ?_
      assumption
    clear_value x7
    extract_lets +onlyGivenNames x8
    refine Gives.have_ (t := x8) ?_ fun hx8 => ?_
    · subst x8
      refine Only.step (raise_only 0x20 _ _ _ rfl rfl) (by decide +kernel) ?_
      refine Only.step (satInc_only 0x20 0x328 _ _ _ _ rfl rfl rfl rfl) (by decide +kernel) ?_
      assumption
    clear_value x8
    extract_lets +onlyGivenNames x9
    clear_value x9
    extract_lets +onlyGivenNames x10
    refine Gives.have_ (t := x10) ?_ fun hx10 => ?_
    · subst x10
      refine Only.ite ?_ ?_
      · assumption
      · refine Only.step (fenceBank_only _ _ _ _) (by decide +kernel) ?_
        assumption
    clear_value x10
    refine Gives.next ?_
    refine Only.ite ?_ ?_
    · refine Only.step (fenceTile_only _ _ _) (by decide +kernel) ?_
      assumption
    · assumption

theorem execCalibrationDue_gives : ∀ a0 a1 s, Gives [.timer, .tiles] [] s (execCalibrationDue a0 a1 s) := by
  intro a0 a1 s
  unfold execCalibrationDue
  extract_lets +onlyGivenNames x1
  clear_value x1
  extract_lets +onlyGivenNames x2
  clear_value x2
  extract_lets +onlyGivenNames x3
  refine Gives.have_ (t := x3) ?_ fun hx3 => ?_
  · subst x3
    refine Only.ite ?_ ?_
    · exact Only.refl _ _ _
    · refine Only.step (reach_only _ _) (by decide +kernel) ?_
      exact Only.refl _ _ _
  clear_value x3
  refine Gives.next ?_
  refine Only.step (modTile_only _ _ _) (by decide +kernel) ?_
  assumption

theorem execCalDueLate_gives : ∀ a0 a1 s, Gives [.timer, .tiles, .heldOut, .out] [(0x20, 0x18, 0x18)] s (execCalDueLate a0 a1 s) := by
  intro a0 a1 s
  unfold execCalDueLate
  extract_lets +onlyGivenNames x1
  clear_value x1
  refine Gives.ite ?_ ?_
  · refine Gives.next ?_
    exact Only.refl _ _ _
  · extract_lets +onlyGivenNames x2
    clear_value x2
    extract_lets +onlyGivenNames x3
    refine Gives.have_ (t := x3) ?_ fun hx3 => ?_
    · subst x3
      refine Only.ite ?_ ?_
      · exact Only.refl _ _ _
      · refine Only.step (reach_only _ _) (by decide +kernel) ?_
        exact Only.refl _ _ _
    clear_value x3
    refine Gives.next ?_
    refine Only.step (raise_only 0x20 _ _ _ rfl rfl) (by decide +kernel) ?_
    refine Only.step (modTile_only _ _ _) (by decide +kernel) ?_
    assumption

theorem execCalibrationStart_gives : ∀ a0 a1 s, Gives [.tiles] [(0x20, 0x300, 0x300)] s (execCalibrationStart a0 a1 s) := by
  intro a0 a1 s
  unfold execCalibrationStart
  extract_lets +onlyGivenNames x1
  clear_value x1
  extract_lets +onlyGivenNames x2
  clear_value x2
  extract_lets +onlyGivenNames x3
  clear_value x3
  extract_lets +onlyGivenNames x4
  clear_value x4
  refine Gives.ite ?_ ?_
  · refine Gives.next ?_
    refine Only.step (fset_only 0x20 0x300 _ _ _ _ rfl rfl rfl) (by decide +kernel) ?_
    refine Only.step (fset_only 0x20 0x300 _ _ _ _ rfl rfl rfl) (by decide +kernel) ?_
    refine Only.step (setTile_only _ _ _) (by decide +kernel) ?_
    exact Only.refl _ _ _
  · refine Gives.next ?_
    exact Only.refl _ _ _

theorem execCalibrationEnd_gives : ∀ a0 a1 a2 s, Gives [.timer, .causes, .tiles, .mesh, .heldOut, .out] [(0x20, 0x14, 0x14), (0x20, 0x18, 0x18), (0x20, 0x28, 0x28), (0x20, 0x104, 0x104), (0x20, 0x204, 0x204), (0x20, 0x300, 0x300), (0x20, 0x338, 0x338), (0x20, 0x33c, 0x33c), (0x20, 0x340, 0x340)] s (execCalibrationEnd a0 a1 a2 s) := by
  intro a0 a1 a2 s
  unfold execCalibrationEnd
  extract_lets +onlyGivenNames x1
  clear_value x1
  extract_lets +onlyGivenNames x2
  split
  · refine Gives.next ?_
    exact Only.refl _ _ _
  · extract_lets +onlyGivenNames x3
    refine Gives.have_ (t := x3) ?_ fun hx3 => ?_
    · subst x3
      refine Only.step (calibrated_only _ _ _) (by decide +kernel) ?_
      refine Only.step (reach_only _ _) (by decide +kernel) ?_
      exact Only.refl _ _ _
    clear_value x3
    extract_lets +onlyGivenNames x4
    clear_value x4
    extract_lets +onlyGivenNames x5
    refine Gives.have_ (t := x5) ?_ fun hx5 => ?_
    · subst x5
      refine Only.step (fset_only 0x20 0x104 _ _ _ _ rfl rfl rfl) (by decide +kernel) ?_
      refine Only.step (fset_only 0x20 0x300 _ _ _ _ rfl rfl rfl) (by decide +kernel) ?_
      refine Only.step (fset_only 0x20 0x300 _ _ _ _ rfl rfl rfl) (by decide +kernel) ?_
      assumption
    clear_value x5
    split
    · refine Gives.next ?_
      refine Only.step (fset_only 0x20 0x33c _ _ _ _ rfl rfl rfl) (by decide +kernel) ?_
      refine Only.step (fset_only 0x20 0x33c _ _ _ _ rfl rfl rfl) (by decide +kernel) ?_
      refine Only.step (wrapInc_only 0x20 0x338 _ _ _ _ rfl rfl rfl rfl) (by decide +kernel) ?_
      assumption
    · extract_lets +onlyGivenNames x6
      refine Gives.have_ (t := x6) ?_ fun hx6 => ?_
      · subst x6
        refine Only.ite ?_ ?_
        · refine Only.step (fset_only 0x20 0x340 _ _ _ _ rfl rfl rfl) (by decide +kernel) ?_
          refine Only.step (fset_only 0x20 0x340 _ _ _ _ rfl rfl rfl) (by decide +kernel) ?_
          refine Only.step (fset_only 0x20 0x340 _ _ _ _ rfl rfl rfl) (by decide +kernel) ?_
          refine Only.step (fset_only 0x20 0x340 _ _ _ _ rfl rfl rfl) (by decide +kernel) ?_
          refine Only.step (fset_only 0x20 0x340 _ _ _ _ rfl rfl rfl) (by decide +kernel) ?_
          assumption
        · assumption
      clear_value x6
      extract_lets +onlyGivenNames x7
      refine Gives.have_ (t := x7) ?_ fun hx7 => ?_
      · subst x7
        refine Only.step (raise_only 0x20 _ _ _ rfl rfl) (by decide +kernel) ?_
        assumption
      clear_value x7
      extract_lets +onlyGivenNames x8
      refine Gives.next ?_
      refine Only.step (fenceTile_only _ _ _) (by decide +kernel) ?_
      subst x8
      split
      · refine Only.step (fset_only 0x20 0x300 _ _ _ _ rfl rfl rfl) (by decide +kernel) ?_
        assumption
      · refine Only.step (fset_only 0x20 0x300 _ _ _ _ rfl rfl rfl) (by decide +kernel) ?_
        assumption

theorem execRepairRewrite_gives : ∀ a0 a1 a2 s, Gives [.staleMid, .tiles, .heldOut, .out] [(0x10, 0x880, 0x880), (0x20, 0x18, 0x18), (0x20, 0x2c, 0x2c), (0x20, 0x314, 0x314), (0x20, 0x318, 0x318), (0xb0, 0x18, 0x18), (0xb0, 0x110, 0x110), (0xb0, 0x114, 0x114), (0xb0, 0x118, 0x118), (0xb0, 0x11c, 0x11c)] s (execRepairRewrite a0 a1 a2 s) := by
  intro a0 a1 a2 s
  unfold execRepairRewrite
  refine Gives.next ?_
  refine guarded_only 0x20 rfl rfl (by decide +kernel) (fun s => ?_) ?_
  · refine Only.step (startRepair_only _ _ _ _) (by decide +kernel) ?_
    exact Only.refl _ _ _
  · exact Only.refl _ _ _

theorem execRepairTestClear_gives : ∀ a0 a1 a2 s, Gives [.staleMid, .tiles, .heldOut, .out] [(0x10, 0x880, 0x880), (0x20, 0x18, 0x18), (0x20, 0x2c, 0x2c), (0x20, 0x314, 0x314), (0x20, 0x318, 0x318), (0xb0, 0x18, 0x18), (0xb0, 0x110, 0x110), (0xb0, 0x114, 0x114), (0xb0, 0x118, 0x118), (0xb0, 0x11c, 0x11c)] s (execRepairTestClear a0 a1 a2 s) := by
  intro a0 a1 a2 s
  unfold execRepairTestClear
  refine Gives.next ?_
  refine guarded_only 0x20 rfl rfl (by decide +kernel) (fun s => ?_) ?_
  · refine Only.step (startRepair_only _ _ _ _) (by decide +kernel) ?_
    exact Only.refl _ _ _
  · exact Only.refl _ _ _

theorem repairDone_only : ∀ a0 s, Only [.tiles] [(0x20, 0x318, 0x318), (0x20, 0x31c, 0x31c)] s (repairDone a0 s) := by
  intro a0 s
  unfold repairDone
  extract_lets +onlyGivenNames x1
  refine Only.have_ (t := x1) ?_ fun hx1 => ?_
  · subst x1
    refine Only.step (modTile_only _ _ _) (by decide +kernel) ?_
    exact Only.refl _ _ _
  clear_value x1
  refine Only.step (fset_only 0x20 0x318 _ _ _ _ rfl rfl rfl) (by decide +kernel) ?_
  refine Only.step (satInc_only 0x20 0x31c _ _ _ _ rfl rfl rfl rfl) (by decide +kernel) ?_
  refine Only.step (fset_only 0x20 0x318 _ _ _ _ rfl rfl rfl) (by decide +kernel) ?_
  assumption

theorem execRepairEnd_gives : ∀ a0 a1 s, Gives [.causes, .tiles, .sram, .sramPoison, .mesh, .range, .heldOut, .out] [(0x20, 0x14, 0x14), (0x20, 0x18, 0x18), (0x20, 0x28, 0x28), (0x20, 0x104, 0x104), (0x20, 0x15c, 0x15c), (0x20, 0x204, 0x204), (0x20, 0x300, 0x300), (0x20, 0x318, 0x318), (0x20, 0x31c, 0x31c), (0x20, 0x410, 0x410), (0x20, 0x414, 0x414), (0x20, 0x418, 0x418), (0x20, 0x41c, 0x41c), (0x20, 0x420, 0x420), (0x40, 0x130, 0x130)] s (execRepairEnd a0 a1 s) := by
  intro a0 a1 s
  unfold execRepairEnd
  extract_lets +onlyGivenNames x1
  clear_value x1
  extract_lets +onlyGivenNames x2
  extract_lets +onlyGivenNames x3
  clear_value x3
  split
  · refine Gives.next ?_
    exact Only.refl _ _ _
  · extract_lets +onlyGivenNames x4
    clear_value x4
    extract_lets +onlyGivenNames x5
    refine Gives.have_ (t := x5) ?_ fun hx5 => ?_
    · subst x5
      refine Only.step (raise_only 0x20 _ _ _ rfl rfl) (by decide +kernel) ?_
      refine Only.step (setTile_only _ _ _) (by decide +kernel) ?_
      exact Only.refl _ _ _
    clear_value x5
    refine Gives.ite ?_ ?_
    · extract_lets +onlyGivenNames x6
      refine Gives.have_ (t := x6) ?_ fun hx6 => ?_
      · subst x6
        refine Only.step (modTile_only _ _ _) (by decide +kernel) ?_
        assumption
      clear_value x6
      refine Gives.next ?_
      refine Only.step (fenceTile_only _ _ _) (by decide +kernel) ?_
      refine Only.step (fset_only 0x20 0x318 _ _ _ _ rfl rfl rfl) (by decide +kernel) ?_
      assumption
    · refine Gives.ite ?_ ?_
      · extract_lets +onlyGivenNames x7
        refine Gives.have_ (t := x7) ?_ fun hx7 => ?_
        · subst x7
          refine Only.step (clearHold_only _ _ _) (by decide +kernel) ?_
          refine Only.step (repairDone_only _ _) (by decide +kernel) ?_
          assumption
        clear_value x7
        refine Gives.next ?_
        refine Only.step (settle_only _ _) (by decide +kernel) ?_
        refine Only.step (modTile_only _ _ _) (by decide +kernel) ?_
        assumption
      · refine Gives.ite ?_ ?_
        · extract_lets +onlyGivenNames x8
          refine Gives.have_ (t := x8) ?_ fun hx8 => ?_
          · subst x8
            refine Only.step (sweepStore_only _ _ _ _) (by decide +kernel) ?_
            refine Only.step (clearHold_only _ _ _) (by decide +kernel) ?_
            refine Only.step (repairDone_only _ _) (by decide +kernel) ?_
            assumption
          clear_value x8
          extract_lets +onlyGivenNames x9
          refine Gives.have_ (t := x9) ?_ fun hx9 => ?_
          · subst x9
            refine Only.step (modTile_only _ _ _) (by decide +kernel) ?_
            assumption
          clear_value x9
          refine Gives.next ?_
          refine Only.step (bankReady_only _ _ _) (by decide +kernel) ?_
          assumption
        · refine Gives.next ?_
          refine Only.step (setTile_only _ _ _) (by decide +kernel) ?_
          assumption

theorem execRepairHoldExpire_gives : ∀ a0 a1 s, Gives [.timer, .tiles, .mesh, .range, .heldOut, .out] [(0x20, 0x18, 0x18), (0x20, 0x15c, 0x15c), (0x20, 0x300, 0x300), (0x20, 0x410, 0x410), (0x20, 0x414, 0x414), (0x20, 0x418, 0x418), (0x20, 0x41c, 0x41c), (0x20, 0x420, 0x420), (0x40, 0x130, 0x130)] s (execRepairHoldExpire a0 a1 s) := by
  intro a0 a1 s
  unfold execRepairHoldExpire
  extract_lets +onlyGivenNames x1
  clear_value x1
  extract_lets +onlyGivenNames x2
  clear_value x2
  refine Gives.ite ?_ ?_
  · extract_lets +onlyGivenNames x3
    refine Gives.have_ (t := x3) ?_ fun hx3 => ?_
    · subst x3
      refine Only.step (modTile_only _ _ _) (by decide +kernel) ?_
      refine Only.step (reach_only _ _) (by decide +kernel) ?_
      exact Only.refl _ _ _
    clear_value x3
    refine Gives.next ?_
    refine Only.step (settle_only _ _) (by decide +kernel) ?_
    split
    · refine Only.step (fset_only 0x20 0x300 _ _ _ _ rfl rfl rfl) (by decide +kernel) ?_
      assumption
    · refine Only.step (fset_only 0x20 0x300 _ _ _ _ rfl rfl rfl) (by decide +kernel) ?_
      assumption
  · refine Gives.next ?_
    exact Only.refl _ _ _

theorem execColsumSweepStart_gives : ∀ a0 a1 s, Gives [.tiles] [(0x20, 0x204, 0x204)] s (execColsumSweepStart a0 a1 s) := by
  intro a0 a1 s
  unfold execColsumSweepStart
  extract_lets +onlyGivenNames x1
  clear_value x1
  extract_lets +onlyGivenNames x2
  clear_value x2
  refine Gives.ite ?_ ?_
  · refine Gives.next ?_
    refine Only.step (fset_only 0x20 0x204 _ _ _ _ rfl rfl rfl) (by decide +kernel) ?_
    refine Only.step (setTile_only _ _ _) (by decide +kernel) ?_
    exact Only.refl _ _ _
  · refine Gives.next ?_
    exact Only.refl _ _ _

theorem execColsumSweepEnd_gives : ∀ a0 a1 a2 s, Gives [.causes, .tiles, .sram, .sramPoison, .mesh, .range, .heldOut, .out] [(0x20, 0x14, 0x14), (0x20, 0x18, 0x18), (0x20, 0x28, 0x28), (0x20, 0x104, 0x104), (0x20, 0x140, 0x140), (0x20, 0x144, 0x144), (0x20, 0x15c, 0x15c), (0x20, 0x204, 0x204), (0x20, 0x240, 0x240), (0x20, 0x300, 0x300), (0x20, 0x310, 0x310), (0x20, 0x410, 0x410), (0x20, 0x414, 0x414), (0x20, 0x418, 0x418), (0x20, 0x41c, 0x41c), (0x20, 0x420, 0x420), (0x40, 0x130, 0x130)] s (execColsumSweepEnd a0 a1 a2 s) := by
  intro a0 a1 a2 s
  unfold execColsumSweepEnd
  extract_lets +onlyGivenNames x1
  clear_value x1
  extract_lets +onlyGivenNames x2
  extract_lets +onlyGivenNames x3
  clear_value x3
  refine Gives.ite ?_ ?_
  · refine Gives.next ?_
    exact Only.refl _ _ _
  · extract_lets +onlyGivenNames x4
    clear_value x4
    extract_lets +onlyGivenNames x5
    refine Gives.have_ (t := x5) ?_ fun hx5 => ?_
    · subst x5
      refine Only.step (wideInc_only 0x20 0x140 0x144 _ _ _ _ _ rfl rfl rfl rfl rfl rfl) (by decide +kernel) ?_
      refine Only.step (fset_only 0x20 0x204 _ _ _ _ rfl rfl rfl) (by decide +kernel) ?_
      refine Only.step (setTile_only _ _ _) (by decide +kernel) ?_
      exact Only.refl _ _ _
    clear_value x5
    refine Gives.ite ?_ ?_
    · refine Gives.next ?_
      refine Only.step (persistent_only _ _ _ _) (by decide +kernel) ?_
      assumption
    · split
      · extract_lets +onlyGivenNames x6
        refine Gives.have_ (t := x6) ?_ fun hx6 => ?_
        · subst x6
          refine Only.ite ?_ ?_
          · refine Only.step (fset_only 0x20 0x240 _ _ _ _ rfl rfl rfl) (by decide +kernel) ?_
            refine Only.step (fset_only 0x20 0x240 _ _ _ _ rfl rfl rfl) (by decide +kernel) ?_
            refine Only.step (fset_only 0x20 0x240 _ _ _ _ rfl rfl rfl) (by decide +kernel) ?_
            refine Only.step (fset_only 0x20 0x240 _ _ _ _ rfl rfl rfl) (by decide +kernel) ?_
            assumption
          · assumption
        clear_value x6
        extract_lets +onlyGivenNames x7
        refine Gives.have_ (t := x7) ?_ fun hx7 => ?_
        · subst x7
          refine Only.step (modTile_only _ _ _) (by decide +kernel) ?_
          assumption
        clear_value x7
        refine Gives.next ?_
        refine Only.step (fenceBank_only _ _ _ _) (by decide +kernel) ?_
        refine Only.step (raise_only 0x20 _ _ _ rfl rfl) (by decide +kernel) ?_
        assumption
      · extract_lets +onlyGivenNames x8
        refine Gives.have_ (t := x8) ?_ fun hx8 => ?_
        · subst x8
          refine Only.step (sweepStore_only _ _ _ _) (by decide +kernel) ?_
          assumption
        clear_value x8
        refine Gives.next ?_
        refine Only.step (modTile_only _ _ _) (by decide +kernel) ?_
        assumption

theorem inherit_only : ∀ a0 a1 s, Only [.regs, .tiles, .sram, .sramPoison] [] s (inherit a0 a1 s) := by
  intro a0 a1 s
  unfold inherit
  extract_lets +onlyGivenNames x1
  clear_value x1
  extract_lets +onlyGivenNames x2
  refine Only.haveFn (P := fun x => ∀ y2_0 y2_1, Only [.regs, .tiles, .sram, .sramPoison] [] y2_1 (x y2_0 y2_1)) (t := x2) ?_ fun hx2 => ?_
  · intro y2_0 y2_1
    subst x2
    dsimp -zeta only
    refine Only.step (fset_all _ _ _ _) (by decide +kernel) ?_
    exact Only.refl _ _ _
  clear_value x2
  extract_lets +onlyGivenNames x3
  refine Only.have_ (t := x3) ?_ fun hx3 => ?_
  · subst x3
    refine Only.trans ?_ (hx2 ..)
    refine Only.trans ?_ (hx2 ..)
    refine Only.trans ?_ (hx2 ..)
    exact Only.refl _ _ _
  clear_value x3
  extract_lets +onlyGivenNames x4
  extract_lets +onlyGivenNames x5
  refine Only.have_ (t := x5) ?_ fun hx5 => ?_
  · subst x5
    refine Only.step (modTile_only _ _ _) (by decide +kernel) ?_
    assumption
  clear_value x5
  extract_lets +onlyGivenNames x6
  clear_value x6
  extract_lets +onlyGivenNames x7
  refine Only.have_ (t := x7) ?_ fun hx7 => ?_
  · subst x7
    refine Only.set_sram (by decide +kernel) (by
      intro h; rw [canonical_eq] at h ⊢; obtain ⟨c1, c2, c3, c4, c5⟩ := h
      refine ⟨?_, ?_, ?_, ?_, ?_⟩ <;> first | assumption | rfl | exact swf_ssetAll _ _ _ _ ‹_› | exact swf_put _ _ _ _ ‹_› | exact swf_puts _ _ _ _ _ ‹_› | exact swf_filter _ _ _ _ ‹_› | (dsimp only; first | assumption | rfl | exact swf_ssetAll _ _ _ _ ‹_› | exact swf_put _ _ _ _ ‹_› | exact swf_puts _ _ _ _ _ ‹_› | exact swf_filter _ _ _ _ ‹_›)) ?_
    assumption
  clear_value x7
  extract_lets +onlyGivenNames x8
  clear_value x8
  refine Only.set_sramPoison (by decide +kernel) (by
      intro h; rw [canonical_eq] at h ⊢; obtain ⟨c1, c2, c3, c4, c5⟩ := h
      refine ⟨?_, ?_, ?_, ?_, ?_⟩ <;> first | assumption | rfl | exact swf_ssetAll _ _ _ _ ‹_› | exact swf_put _ _ _ _ ‹_› | exact swf_puts _ _ _ _ _ ‹_› | exact swf_filter _ _ _ _ ‹_› | (dsimp only; first | assumption | rfl | exact swf_ssetAll _ _ _ _ ‹_› | exact swf_put _ _ _ _ ‹_› | exact swf_puts _ _ _ _ _ ‹_› | exact swf_filter _ _ _ _ ‹_›)) ?_
  assumption

theorem reassign_only : ∀ a0 s t, reassign a0 s = some t → Only [.regs, .tiles, .sram, .sramPoison] [] s t := by
  intro a0 s t h
  unfold reassign at h
  split at h
  · cases h
  · extract_lets +onlyGivenNames x1 at h
    cases h
    refine Only.step (inherit_only _ _ _) (by decide +kernel) ?_
    refine Only.step (fset_only 0x20 0x350 _ _ _ _ rfl rfl rfl) (by decide +kernel) ?_
    refine Only.step (fset_only 0x20 0x350 _ _ _ _ rfl rfl rfl) (by decide +kernel) ?_
    exact Only.refl _ _ _

theorem execBenchSubstitutionStart_gives : ∀ a0 s, Gives [.regs, .tiles, .sram, .sramPoison, .heldOut, .out] [] s (execBenchSubstitutionStart a0 s) := by
  intro a0 s
  unfold execBenchSubstitutionStart
  extract_lets +onlyGivenNames x1
  clear_value x1
  refine Gives.ite ?_ ?_
  · refine Gives.next ?_
    exact Only.refl _ _ _
  · extract_lets +onlyGivenNames x2
    refine Gives.have_ (t := x2) ?_ fun hx2 => ?_
    · subst x2
      refine Only.step (raise_only 0x20 _ _ _ rfl rfl) (by decide +kernel) ?_
      exact Only.refl _ _ _
    clear_value x2
    split
    · refine Gives.next ?_
      refine Only.step (inherit_only _ _ _) (by decide +kernel) ?_
      refine Only.step (substitute_only _ _ _) (by decide +kernel) ?_
      assumption
    · extract_lets +onlyGivenNames x3
      clear_value x3
      refine Gives.ite ?_ ?_
      · split
        · refine Gives.next ?_
          refine Only.step (reassign_only _ _ _ ‹_›) (by decide +kernel) ?_
          assumption
        · refine Gives.next ?_
          refine Only.step (fset_only 0x20 0x350 _ _ _ _ rfl rfl rfl) (by decide +kernel) ?_
          assumption
      · refine Gives.next ?_
        refine Only.step (fset_only 0x20 0x350 _ _ _ _ rfl rfl rfl) (by decide +kernel) ?_
        assumption

theorem execDequeTransfer_gives : ∀ a0 a1 s, Gives [.tiles, .mesh, .range, .heldOut, .out] [(0x20, 0x18, 0x18), (0x20, 0x15c, 0x15c), (0x20, 0x410, 0x410), (0x20, 0x414, 0x414), (0x20, 0x418, 0x418), (0x20, 0x41c, 0x41c), (0x20, 0x420, 0x420), (0x40, 0x130, 0x130)] s (execDequeTransfer a0 a1 s) := by
  intro a0 a1 s
  unfold execDequeTransfer
  extract_lets +onlyGivenNames x1
  clear_value x1
  refine Gives.ite ?_ ?_
  · refine Gives.next ?_
    exact Only.refl _ _ _
  · extract_lets +onlyGivenNames x2
    clear_value x2
    split
    · extract_lets +onlyGivenNames x3
      refine Gives.have_ (t := x3) ?_ fun hx3 => ?_
      · subst x3
        refine Only.step (setTile_only _ _ _) (by decide +kernel) ?_
        exact Only.refl _ _ _
      clear_value x3
      extract_lets +onlyGivenNames x4
      extract_lets +onlyGivenNames x5
      refine Gives.have_ (t := x5) ?_ fun hx5 => ?_
      · subst x5
        refine Only.step (modTile_only _ _ _) (by decide +kernel) ?_
        assumption
      clear_value x5
      refine Gives.next ?_
      refine Only.step (settle_only _ _) (by decide +kernel) ?_
      assumption
    · extract_lets +onlyGivenNames x6
      refine Gives.have_ (t := x6) ?_ fun hx6 => ?_
      · subst x6
        refine Only.foldl (fun s x => ?_) ?_
        · refine Only.ite ?_ ?_
          · exact Only.refl _ _ _
          · refine Only.step (endTaskCore_only _ _ _ _ _) (by decide +kernel) ?_
            exact Only.refl _ _ _
        · exact Only.refl _ _ _
      clear_value x6
      refine Gives.next ?_
      refine Only.step (modTile_only _ _ _) (by decide +kernel) ?_
      assumption

theorem execPairHeartbeat_gives : ∀ a0 s, Gives [.tiles, .mesh] [] s (execPairHeartbeat a0 s) := by
  intro a0 s
  unfold execPairHeartbeat
  refine Gives.ite ?_ ?_
  · extract_lets +onlyGivenNames x1
    clear_value x1
    refine Gives.next ?_
    refine Only.step (send_only _ _) (by decide +kernel) ?_
    refine Only.step (modTile_only _ _ _) (by decide +kernel) ?_
    exact Only.refl _ _ _
  · refine Gives.next ?_
    exact Only.refl _ _ _

theorem execPairHeartbeatLost_gives : ∀ a0 s, Gives [.causes, .tiles, .mesh, .heldOut, .out] [(0x20, 0x14, 0x14), (0x20, 0x18, 0x18), (0x20, 0x28, 0x28), (0x20, 0x104, 0x104), (0x20, 0x204, 0x204)] s (execPairHeartbeatLost a0 s) := by
  intro a0 s
  unfold execPairHeartbeatLost
  extract_lets +onlyGivenNames x1
  clear_value x1
  refine Gives.ite ?_ ?_
  · extract_lets +onlyGivenNames x2
    refine Gives.have_ (t := x2) ?_ fun hx2 => ?_
    · subst x2
      refine Only.step (modTile_only _ _ _) (by decide +kernel) ?_
      exact Only.refl _ _ _
    clear_value x2
    refine Gives.next ?_
    refine Only.ite ?_ ?_
    · refine Only.step (send_only _ _) (by decide +kernel) ?_
      assumption
    · refine Only.step (fenceTile_only _ _ _) (by decide +kernel) ?_
      assumption
  · refine Gives.next ?_
    exact Only.refl _ _ _

theorem execTake_gives : ∀ a0 s, Gives [.tiles, .mesh, .range, .heldOut, .out] [(0x20, 0x18, 0x18), (0x20, 0x15c, 0x15c), (0x20, 0x350, 0x350), (0x20, 0x358, 0x358), (0x20, 0x410, 0x410), (0x20, 0x414, 0x414), (0x20, 0x418, 0x418), (0x20, 0x41c, 0x41c), (0x20, 0x420, 0x420), (0x40, 0x130, 0x130)] s (execTake a0 s) := by
  intro a0 s
  unfold execTake
  extract_lets +onlyGivenNames x1
  clear_value x1
  extract_lets +onlyGivenNames x2
  refine Gives.have_ (t := x2) ?_ fun hx2 => ?_
  · subst x2
    refine Only.step (arrive_only _ _) (by decide +kernel) ?_
    exact Only.refl _ _ _
  clear_value x2
  refine Gives.ite ?_ ?_
  · extract_lets +onlyGivenNames x3
    clear_value x3
    extract_lets +onlyGivenNames x4
    clear_value x4
    extract_lets +onlyGivenNames x5
    clear_value x5
    extract_lets +onlyGivenNames x6
    refine Gives.have_ (t := x6) ?_ fun hx6 => ?_
    · subst x6
      refine Only.step (raise_only 0x20 _ _ _ rfl rfl) (by decide +kernel) ?_
      refine Only.step (raise_only 0x20 _ _ _ rfl rfl) (by decide +kernel) ?_
      refine Only.step (fset_only 0x20 0x358 _ _ _ _ rfl rfl rfl) (by decide +kernel) ?_
      refine Only.step (fset_only 0x20 0x358 _ _ _ _ rfl rfl rfl) (by decide +kernel) ?_
      refine Only.step (fset_only 0x20 0x358 _ _ _ _ rfl rfl rfl) (by decide +kernel) ?_
      refine Only.step (fset_only 0x20 0x350 _ _ _ _ rfl rfl rfl) (by decide +kernel) ?_
      refine Only.step (fset_only 0x20 0x350 _ _ _ _ rfl rfl rfl) (by decide +kernel) ?_
      assumption
    clear_value x6
    extract_lets +onlyGivenNames x7
    refine Gives.have_ (t := x7) ?_ fun hx7 => ?_
    · subst x7
      refine Only.step (modTile_only _ _ _) (by decide +kernel) ?_
      assumption
    clear_value x7
    refine Gives.next ?_
    refine Only.step (settle_only _ _) (by decide +kernel) ?_
    assumption
  · refine Gives.next ?_
    assumption

theorem execMirrorReform_gives : ∀ a0 a1 s, Gives [.regs, .tiles, .sram, .sramPoison] [] s (execMirrorReform a0 a1 s) := by
  intro a0 a1 s
  unfold execMirrorReform
  extract_lets +onlyGivenNames x1
  clear_value x1
  extract_lets +onlyGivenNames x2
  clear_value x2
  refine Gives.ite ?_ ?_
  · extract_lets +onlyGivenNames x3
    refine Gives.have_ (t := x3) ?_ fun hx3 => ?_
    · subst x3
      refine Only.step (inherit_only _ _ _) (by decide +kernel) ?_
      exact Only.refl _ _ _
    clear_value x3
    refine Gives.next ?_
    refine Only.step (fset_only 0x20 0x358 _ _ _ _ rfl rfl rfl) (by decide +kernel) ?_
    refine Only.step (fset_only 0x20 0x358 _ _ _ _ rfl rfl rfl) (by decide +kernel) ?_
    refine Only.step (fset_only 0x20 0x358 _ _ _ _ rfl rfl rfl) (by decide +kernel) ?_
    refine Only.step (fset_only 0x20 0x358 _ _ _ _ rfl rfl rfl) (by decide +kernel) ?_
    refine Only.step (fset_only 0x20 0x358 _ _ _ _ rfl rfl rfl) (by decide +kernel) ?_
    refine Only.step (fset_only 0x20 0x358 _ _ _ _ rfl rfl rfl) (by decide +kernel) ?_
    assumption
  · refine Gives.next ?_
    exact Only.refl _ _ _


end Sys2Proof.Machine
end

