-- ==== Sys2Proof/Laws/OnlyNumbers.lean ====
section
/-! SUPPORT. What the operations and the meanings of Machine/Numbers.lean can change (`Only`, `Gives`): the parts of the state and the
registers, whatever the operands are. -/

namespace Sys2Proof.Machine

set_option linter.unusedSimpArgs false
set_option maxRecDepth 20000
set_option Elab.async false

theorem skewBank_only : ∀ a0 a1 a2 a3 a4 s, Only [.tiles, .mesh, .range, .heldOut, .out] [(0x20, 0x18, 0x18), (0x20, 0x15c, 0x15c), (0x20, 0x238, 0x238), (0x20, 0x23c, 0x23c), (0x20, 0x410, 0x410), (0x20, 0x414, 0x414), (0x20, 0x418, 0x418), (0x20, 0x41c, 0x41c), (0x20, 0x420, 0x420), (0x40, 0x130, 0x130)] s (skewBank a0 a1 a2 a3 a4 s) := by
  intro a0 a1 a2 a3 a4 s
  unfold skewBank
  refine Only.step (settle_only _ _) (by decide +kernel) ?_
  refine Only.step (recordSkew_only _ _ _ _ _ _) (by decide +kernel) ?_
  refine Only.step (modTile_only _ _ _) (by decide +kernel) ?_
  exact Only.refl _ _ _

theorem takeRow_only : ∀ a0 a1 s, Only [.tiles, .mesh, .range, .heldOut, .out] [(0x20, 0x18, 0x18), (0x20, 0x138, 0x138), (0x20, 0x154, 0x154), (0x20, 0x15c, 0x15c), (0x20, 0x238, 0x238), (0x20, 0x23c, 0x23c), (0x20, 0x318, 0x318), (0x20, 0x410, 0x410), (0x20, 0x414, 0x414), (0x20, 0x418, 0x418), (0x20, 0x41c, 0x41c), (0x20, 0x420, 0x420), (0x40, 0x130, 0x130)] s (takeRow a0 a1 s) := by
  intro a0 a1 s
  unfold takeRow
  extract_lets +onlyGivenNames x1
  extract_lets +onlyGivenNames x2
  clear_value x2
  extract_lets +onlyGivenNames x3
  clear_value x3
  refine Only.ite ?_ ?_
  · refine Only.step (writeReject_only _ _ _ _) (by decide +kernel) ?_
    exact Only.refl _ _ _
  · refine Only.ite ?_ ?_
    · refine Only.step (writeReject_only _ _ _ _) (by decide +kernel) ?_
      exact Only.refl _ _ _
    · extract_lets +onlyGivenNames x4
      clear_value x4
      extract_lets +onlyGivenNames x5
      clear_value x5
      extract_lets +onlyGivenNames x6
      clear_value x6
      extract_lets +onlyGivenNames x7
      refine Only.have_ (t := x7) ?_ fun hx7 => ?_
      · subst x7
        refine Only.step (wrapInc_only 0x20 0x154 _ _ _ _ rfl rfl rfl rfl) (by decide +kernel) ?_
        refine Only.step (modTile_only _ _ _) (by decide +kernel) ?_
        exact Only.refl _ _ _
      clear_value x7
      extract_lets +onlyGivenNames x8
      refine Only.have_ (t := x8) ?_ fun hx8 => ?_
      · subst x8
        refine Only.ite ?_ ?_
        · refine Only.step (skewBank_only _ _ _ _ _ _) (by decide +kernel) ?_
          assumption
        · assumption
      clear_value x8
      refine Only.ite ?_ ?_
      · split
        · refine Only.ite ?_ ?_
          · refine Only.step (fset_only 0x20 0x318 _ _ _ _ rfl rfl rfl) (by decide +kernel) ?_
            assumption
          · refine Only.step (bankReady_only _ _ _) (by decide +kernel) ?_
            assumption
        · refine Only.step (bankReady_only _ _ _) (by decide +kernel) ?_
          assumption
      · assumption

theorem execRefillRowFrame_gives : ∀ a0 s, Gives [.tiles, .mesh, .rowBus, .range, .heldOut, .out] [(0x20, 0x18, 0x18), (0x20, 0x138, 0x138), (0x20, 0x154, 0x154), (0x20, 0x15c, 0x15c), (0x20, 0x238, 0x238), (0x20, 0x23c, 0x23c), (0x20, 0x318, 0x318), (0x20, 0x410, 0x410), (0x20, 0x414, 0x414), (0x20, 0x418, 0x418), (0x20, 0x41c, 0x41c), (0x20, 0x420, 0x420), (0x40, 0x130, 0x130)] s (execRefillRowFrame a0 s) := by
  intro a0 s
  unfold execRefillRowFrame
  extract_lets +onlyGivenNames x1
  refine Gives.have_ (t := x1) ?_ fun hx1 => ?_
  · subst x1
    refine Only.set_rowBus (by decide +kernel) ?_
    exact Only.refl _ _ _
  clear_value x1
  refine Gives.next ?_
  refine Only.foldl (fun s x => ?_) ?_
  · refine Only.step (takeRow_only _ _ _) (by decide +kernel) ?_
    exact Only.refl _ _ _
  · assumption

theorem takeScales_only : ∀ a0 a1 s, Only [.tiles, .sram, .sramPoison, .mesh, .range, .heldOut, .out] [(0x20, 0x18, 0x18), (0x20, 0x138, 0x138), (0x20, 0x15c, 0x15c), (0x20, 0x238, 0x238), (0x20, 0x23c, 0x23c), (0x20, 0x410, 0x410), (0x20, 0x414, 0x414), (0x20, 0x418, 0x418), (0x20, 0x41c, 0x41c), (0x20, 0x420, 0x420), (0x40, 0x130, 0x130)] s (takeScales a0 a1 s) := by
  intro a0 a1 s
  unfold takeScales
  extract_lets +onlyGivenNames x1
  clear_value x1
  extract_lets +onlyGivenNames x2
  clear_value x2
  extract_lets +onlyGivenNames x3
  clear_value x3
  extract_lets +onlyGivenNames x4
  clear_value x4
  extract_lets +onlyGivenNames x5
  clear_value x5
  refine Only.ite ?_ ?_
  · refine Only.step (writeReject_only _ _ _ _) (by decide +kernel) ?_
    exact Only.refl _ _ _
  · extract_lets +onlyGivenNames x6
    clear_value x6
    extract_lets +onlyGivenNames x7
    clear_value x7
    refine Only.ite ?_ ?_
    · refine Only.step (skewBank_only _ _ _ _ _ _) (by decide +kernel) ?_
      exact Only.refl _ _ _
    · extract_lets +onlyGivenNames x8
      clear_value x8
      extract_lets +onlyGivenNames x9
      refine Only.have_ (t := x9) ?_ fun hx9 => ?_
      · subst x9
        refine Only.step (sramWrite_only _ _ _ _) (by decide +kernel) ?_
        exact Only.refl _ _ _
      clear_value x9
      extract_lets +onlyGivenNames x10
      clear_value x10
      extract_lets +onlyGivenNames x11
      refine Only.have_ (t := x11) ?_ fun hx11 => ?_
      · subst x11
        refine Only.ite ?_ ?_
        · refine Only.set_sramPoison (by decide +kernel) (by
      intro h; rw [canonical_eq] at h ⊢; obtain ⟨c1, c2, c3, c4, c5⟩ := h
      refine ⟨?_, ?_, ?_, ?_, ?_⟩ <;> first | assumption | rfl | exact swf_ssetAll _ _ _ _ ‹_› | exact swf_put _ _ _ _ ‹_› | exact swf_puts _ _ _ _ _ ‹_› | exact swf_filter _ _ _ _ ‹_› | (dsimp only; first | assumption | rfl | exact swf_ssetAll _ _ _ _ ‹_› | exact swf_put _ _ _ _ ‹_› | exact swf_puts _ _ _ _ _ ‹_› | exact swf_filter _ _ _ _ ‹_›)) ?_
          assumption
        · assumption
      clear_value x11
      refine Only.step (settle_only _ _) (by decide +kernel) ?_
      refine Only.step (modTile_only _ _ _) (by decide +kernel) ?_
      assumption

theorem execScaleFrame_gives : ∀ a0 s, Gives [.tiles, .sram, .sramPoison, .mesh, .scaleBus, .range, .heldOut, .out] [(0x20, 0x18, 0x18), (0x20, 0x138, 0x138), (0x20, 0x15c, 0x15c), (0x20, 0x238, 0x238), (0x20, 0x23c, 0x23c), (0x20, 0x410, 0x410), (0x20, 0x414, 0x414), (0x20, 0x418, 0x418), (0x20, 0x41c, 0x41c), (0x20, 0x420, 0x420), (0x40, 0x130, 0x130)] s (execScaleFrame a0 s) := by
  intro a0 s
  unfold execScaleFrame
  extract_lets +onlyGivenNames x1
  refine Gives.have_ (t := x1) ?_ fun hx1 => ?_
  · subst x1
    refine Only.set_scaleBus (by decide +kernel) ?_
    exact Only.refl _ _ _
  clear_value x1
  refine Gives.next ?_
  refine Only.foldl (fun s x => ?_) ?_
  · refine Only.step (takeScales_only _ _ _) (by decide +kernel) ?_
    exact Only.refl _ _ _
  · assumption

theorem beginVector_only : ∀ a0 a1 a2 s, Only [.tiles, .heldOut, .out] [(0x20, 0x18, 0x18), (0x20, 0x238, 0x238), (0x20, 0x23c, 0x23c), (0x40, 0x18, 0x18), (0x40, 0x134, 0x134), (0x40, 0x138, 0x138), (0x40, 0x13c, 0x13c)] s (beginVector a0 a1 a2 s) := by
  intro a0 a1 a2 s
  unfold beginVector
  extract_lets +onlyGivenNames x1
  extract_lets +onlyGivenNames x2
  clear_value x2
  extract_lets +onlyGivenNames x3
  clear_value x3
  extract_lets +onlyGivenNames x4
  clear_value x4
  extract_lets +onlyGivenNames x5
  clear_value x5
  extract_lets +onlyGivenNames x6
  clear_value x6
  refine Only.ite ?_ ?_
  · refine Only.step (setCtx_only _ _ _) (by decide +kernel) ?_
    exact Only.refl _ _ _
  · extract_lets +onlyGivenNames x7
    clear_value x7
    extract_lets +onlyGivenNames x8
    clear_value x8
    extract_lets +onlyGivenNames x9
    refine Only.have_ (t := x9) ?_ fun hx9 => ?_
    · subst x9
      split
      · refine Only.step (recordSkew_only _ _ _ _ _ _) (by decide +kernel) ?_
        exact Only.refl _ _ _
      · exact Only.refl _ _ _
    clear_value x9
    extract_lets +onlyGivenNames x10
    refine Only.have_ (t := x10) ?_ fun hx10 => ?_
    · subst x10
      refine Only.ite ?_ ?_
      · refine Only.step (raise_only 0x20 _ _ _ rfl rfl) (by decide +kernel) ?_
        assumption
      · assumption
    clear_value x10
    refine Only.ite ?_ ?_
    · refine Only.step (setCtx_only _ _ _) (by decide +kernel) ?_
      refine Only.step (rangeDenied_only _ _ _) (by decide +kernel) ?_
      assumption
    · refine Only.ite ?_ ?_
      · refine Only.step (setCtx_only _ _ _) (by decide +kernel) ?_
        assumption
      · refine Only.ite ?_ ?_
        · refine Only.step (setCtx_only _ _ _) (by decide +kernel) ?_
          assumption
        · refine Only.step (setCtx_only _ _ _) (by decide +kernel) ?_
          assumption

theorem markElems_only : ∀ a0 a1 a2 s, Only [.range] [(0x40, 0x130, 0x130)] s (markElems a0 a1 a2 s) := by
  intro a0 a1 a2 s
  unfold markElems
  extract_lets +onlyGivenNames x1
  clear_value x1
  extract_lets +onlyGivenNames x2
  extract_lets +onlyGivenNames x3
  refine Only.have_ (t := x3) ?_ fun hx3 => ?_
  · subst x3
    refine Only.set_range (by decide +kernel) (by
      intro h; rw [canonical_eq] at h ⊢; obtain ⟨c1, c2, c3, c4, c5⟩ := h
      refine ⟨?_, ?_, ?_, ?_, ?_⟩ <;> first | assumption | rfl | exact swf_ssetAll _ _ _ _ ‹_› | exact swf_put _ _ _ _ ‹_› | exact swf_puts _ _ _ _ _ ‹_› | exact swf_filter _ _ _ _ ‹_› | (dsimp only; first | assumption | rfl | exact swf_ssetAll _ _ _ _ ‹_› | exact swf_put _ _ _ _ ‹_› | exact swf_puts _ _ _ _ _ ‹_› | exact swf_filter _ _ _ _ ‹_›)) ?_
    exact Only.refl _ _ _
  clear_value x3
  refine Only.step (countPoison_only _ _ _) (by decide +kernel) ?_
  assumption

theorem taskStore_only : ∀ a0 a1 a2 a3 a4 a5 a6 s, Only [.range, .heldOut, .out] [(0x40, 0x18, 0x18), (0x40, 0x130, 0x130), (0x40, 0x134, 0x134), (0x40, 0x138, 0x138), (0x40, 0x13c, 0x13c)] s (taskStore a0 a1 a2 a3 a4 a5 a6 s).2 := by
  intro a0 a1 a2 a3 a4 a5 a6 s
  unfold taskStore
  refine Only.ite_snd ?_ ?_
  · refine Only.pair ?_
    refine Only.step (rangeDenied_only _ _ _) (by decide +kernel) ?_
    exact Only.refl _ _ _
  · refine Only.ite_snd ?_ ?_
    · refine Only.pair ?_
      exact Only.refl _ _ _
    · refine Only.pair ?_
      refine Only.step (markElems_only _ _ _ _) (by decide +kernel) ?_
      refine Only.step (rangeWrite_only _ _ _ _) (by decide +kernel) ?_
      exact Only.refl _ _ _

theorem taskStore_only_eq : ∀ a0 a1 a2 a3 a4 a5 a6 s x t, taskStore a0 a1 a2 a3 a4 a5 a6 s = (x, t) → Only [.range, .heldOut, .out] [(0x40, 0x18, 0x18), (0x40, 0x130, 0x130), (0x40, 0x134, 0x134), (0x40, 0x138, 0x138), (0x40, 0x13c, 0x13c)] s t := by
  intro a0 a1 a2 a3 a4 a5 a6 s x t h
  have := taskStore_only a0 a1 a2 a3 a4 a5 a6 s
  rw [h] at this
  exact this

theorem nextVector_only : ∀ a0 a1 a2 s, Only [.tiles, .heldOut, .out] [(0x20, 0x18, 0x18), (0x20, 0x238, 0x238), (0x20, 0x23c, 0x23c), (0x40, 0x18, 0x18), (0x40, 0x134, 0x134), (0x40, 0x138, 0x138), (0x40, 0x13c, 0x13c)] s (nextVector a0 a1 a2 s) := by
  intro a0 a1 a2 s
  unfold nextVector
  extract_lets +onlyGivenNames x1
  clear_value x1
  extract_lets +onlyGivenNames x2
  refine Only.have_ (t := x2) ?_ fun hx2 => ?_
  · subst x2
    refine Only.step (modEntry_only _ _ _ _) (by decide +kernel) ?_
    exact Only.refl _ _ _
  clear_value x2
  refine Only.ite ?_ ?_
  · refine Only.step (setCtx_only _ _ _) (by decide +kernel) ?_
    assumption
  · refine Only.step (beginVector_only _ _ _ _) (by decide +kernel) ?_
    refine Only.step (setCtx_only _ _ _) (by decide +kernel) ?_
    assumption

theorem emitVector_only : ∀ a0 a1 a2 a3 s, Only [.tiles, .range, .heldOut, .out] [(0x20, 0x18, 0x18), (0x20, 0x204, 0x204), (0x20, 0x230, 0x230), (0x20, 0x238, 0x238), (0x20, 0x23c, 0x23c), (0x40, 0x18, 0x18), (0x40, 0x130, 0x130), (0x40, 0x134, 0x134), (0x40, 0x138, 0x138), (0x40, 0x13c, 0x13c)] s (emitVector a0 a1 a2 a3 s) := by
  intro a0 a1 a2 a3 s
  unfold emitVector
  extract_lets +onlyGivenNames x1
  extract_lets +onlyGivenNames x2
  clear_value x2
  extract_lets +onlyGivenNames x3
  clear_value x3
  extract_lets +onlyGivenNames x4
  clear_value x4
  extract_lets +onlyGivenNames x5
  clear_value x5
  extract_lets +onlyGivenNames x6
  refine Only.have_ (t := x6) ?_ fun hx6 => ?_
  · subst x6
    refine Only.step (fset_only 0x20 0x204 _ _ _ _ rfl rfl rfl) (by decide +kernel) ?_
    exact Only.refl _ _ _
  clear_value x6
  refine Only.ite ?_ ?_
  · extract_lets +onlyGivenNames x7
    clear_value x7
    split
    refine Only.ite ?_ ?_
    · refine Only.step (setCtx_only _ _ _) (by decide +kernel) ?_
      refine Only.step (taskStore_only_eq _ _ _ _ _ _ _ _ _ _ ‹_›) (by decide +kernel) ?_
      assumption
    · refine Only.step (nextVector_only _ _ _ _) (by decide +kernel) ?_
      refine Only.step (taskStore_only_eq _ _ _ _ _ _ _ _ _ _ ‹_›) (by decide +kernel) ?_
      assumption
  · extract_lets +onlyGivenNames x8
    clear_value x8
    extract_lets +onlyGivenNames x9
    refine Only.have_ (t := x9) ?_ fun hx9 => ?_
    · subst x9
      refine Only.ite ?_ ?_
      · refine Only.step (raise_only 0x20 _ _ _ rfl rfl) (by decide +kernel) ?_
        assumption
      · assumption
    clear_value x9
    extract_lets +onlyGivenNames x10
    clear_value x10
    extract_lets +onlyGivenNames x11
    clear_value x11
    extract_lets +onlyGivenNames x12
    clear_value x12
    extract_lets +onlyGivenNames x13
    clear_value x13
    extract_lets +onlyGivenNames x14
    clear_value x14
    extract_lets +onlyGivenNames x15
    clear_value x15
    extract_lets +onlyGivenNames x16
    refine Only.have_ (t := x16) ?_ fun hx16 => ?_
    · subst x16
      refine Only.ite ?_ ?_
      · refine Only.step (raise_only 0x20 _ _ _ rfl rfl) (by decide +kernel) ?_
        refine Only.step (wrapInc_only 0x20 0x230 _ _ _ _ rfl rfl rfl rfl) (by decide +kernel) ?_
        assumption
      · assumption
    clear_value x16
    extract_lets +onlyGivenNames x17
    clear_value x17
    extract_lets +onlyGivenNames x18
    clear_value x18
    extract_lets +onlyGivenNames x19
    clear_value x19
    extract_lets +onlyGivenNames x20
    clear_value x20
    split
    refine Only.ite ?_ ?_
    · refine Only.step (setCtx_only _ _ _) (by decide +kernel) ?_
      refine Only.step (taskStore_only_eq _ _ _ _ _ _ _ _ _ _ ‹_›) (by decide +kernel) ?_
      assumption
    · refine Only.step (nextVector_only _ _ _ _) (by decide +kernel) ?_
      refine Only.step (taskStore_only_eq _ _ _ _ _ _ _ _ _ _ ‹_›) (by decide +kernel) ?_
      assumption

theorem vectorEnd_only : ∀ a0 a1 a2 s, Only [.tiles, .sram, .sramPoison, .range, .heldOut, .out] [(0x20, 0x18, 0x18), (0x20, 0x204, 0x204), (0x20, 0x230, 0x230), (0x20, 0x234, 0x234), (0x20, 0x238, 0x238), (0x20, 0x23c, 0x23c), (0x20, 0x248, 0x248), (0x40, 0x18, 0x18), (0x40, 0x130, 0x130), (0x40, 0x134, 0x134), (0x40, 0x138, 0x138), (0x40, 0x13c, 0x13c)] s (vectorEnd a0 a1 a2 s) := by
  intro a0 a1 a2 s
  unfold vectorEnd
  extract_lets +onlyGivenNames x1
  extract_lets +onlyGivenNames x2
  clear_value x2
  extract_lets +onlyGivenNames x3
  clear_value x3
  extract_lets +onlyGivenNames x4
  clear_value x4
  extract_lets +onlyGivenNames x5
  clear_value x5
  extract_lets +onlyGivenNames x6
  clear_value x6
  extract_lets +onlyGivenNames x7
  clear_value x7
  extract_lets +onlyGivenNames x8
  refine Only.have_ (t := x8) ?_ fun hx8 => ?_
  · subst x8
    refine Only.ite ?_ ?_
    · refine Only.step (satInc_only 0x20 0x234 _ _ _ _ rfl rfl rfl rfl) (by decide +kernel) ?_
      exact Only.refl _ _ _
    · exact Only.refl _ _ _
  clear_value x8
  extract_lets +onlyGivenNames x9
  refine Only.have_ (t := x9) ?_ fun hx9 => ?_
  · subst x9
    refine Only.ite ?_ ?_
    · refine Only.step (satInc_only 0x20 0x248 _ _ _ _ rfl rfl rfl rfl) (by decide +kernel) ?_
      assumption
    · assumption
  clear_value x9
  extract_lets +onlyGivenNames x10
  refine Only.have_ (t := x10) ?_ fun hx10 => ?_
  · subst x10
    refine Only.ite ?_ ?_
    · refine Only.step (raise_only 0x20 _ _ _ rfl rfl) (by decide +kernel) ?_
      assumption
    · assumption
  clear_value x10
  refine Only.ite ?_ ?_
  · extract_lets +onlyGivenNames x11
    clear_value x11
    extract_lets +onlyGivenNames x12
    clear_value x12
    extract_lets +onlyGivenNames x13
    clear_value x13
    extract_lets +onlyGivenNames x14
    clear_value x14
    split
    refine Only.ite ?_ ?_
    · refine Only.step (setCtx_only _ _ _) (by decide +kernel) ?_
      refine Only.step (taskStore_only_eq _ _ _ _ _ _ _ _ _ _ ‹_›) (by decide +kernel) ?_
      assumption
    · refine Only.step (nextVector_only _ _ _ _) (by decide +kernel) ?_
      refine Only.step (taskStore_only_eq _ _ _ _ _ _ _ _ _ _ ‹_›) (by decide +kernel) ?_
      assumption
  · extract_lets +onlyGivenNames x15
    clear_value x15
    extract_lets +onlyGivenNames x16
    clear_value x16
    extract_lets +onlyGivenNames x17
    refine Only.have_ (t := x17) ?_ fun hx17 => ?_
    · subst x17
      refine Only.ite ?_ ?_
      · refine Only.step (raise_only 0x20 _ _ _ rfl rfl) (by decide +kernel) ?_
        assumption
      · assumption
    clear_value x17
    refine Only.ite ?_ ?_
    · extract_lets +onlyGivenNames x18
      clear_value x18
      refine Only.step (setCtx_only _ _ _) (by decide +kernel) ?_
      refine Only.step (fset_only 0x20 0x204 _ _ _ _ rfl rfl rfl) (by decide +kernel) ?_
      refine Only.step (sramWrite_only _ _ _ _) (by decide +kernel) ?_
      assumption
    · extract_lets +onlyGivenNames x19
      clear_value x19
      extract_lets +onlyGivenNames x20
      refine Only.have_ (t := x20) ?_ fun hx20 => ?_
      · subst x20
        refine Only.ite ?_ ?_
        · refine Only.step (sramWrite_only _ _ _ _) (by decide +kernel) ?_
          assumption
        · assumption
      clear_value x20
      refine Only.step (emitVector_only _ _ _ _ _) (by decide +kernel) ?_
      assumption

theorem execCimVectorEnd_gives : ∀ a0 s, Gives [.tiles, .sram, .sramPoison, .range, .heldOut, .out] [(0x20, 0x18, 0x18), (0x20, 0x204, 0x204), (0x20, 0x230, 0x230), (0x20, 0x234, 0x234), (0x20, 0x238, 0x238), (0x20, 0x23c, 0x23c), (0x20, 0x248, 0x248), (0x40, 0x18, 0x18), (0x40, 0x130, 0x130), (0x40, 0x134, 0x134), (0x40, 0x138, 0x138), (0x40, 0x13c, 0x13c)] s (execCimVectorEnd a0 s) := by
  intro a0 s
  unfold execCimVectorEnd
  extract_lets +onlyGivenNames x1
  clear_value x1
  split
  · refine Gives.next ?_
    exact Only.refl _ _ _
  · split
    · refine Gives.ite ?_ ?_
      · refine Gives.next ?_
        refine Only.step (vectorEnd_only _ _ _ _) (by decide +kernel) ?_
        exact Only.refl _ _ _
      · refine Gives.next ?_
        exact Only.refl _ _ _
    · refine Gives.next ?_
      exact Only.refl _ _ _

theorem execAdapterValues_gives : ∀ a0 a1 a2 a3 s, Gives [.tiles, .range, .heldOut, .out] [(0x20, 0x18, 0x18), (0x20, 0x204, 0x204), (0x20, 0x230, 0x230), (0x20, 0x238, 0x238), (0x20, 0x23c, 0x23c), (0x40, 0x18, 0x18), (0x40, 0x130, 0x130), (0x40, 0x134, 0x134), (0x40, 0x138, 0x138), (0x40, 0x13c, 0x13c)] s (execAdapterValues a0 a1 a2 a3 s) := by
  intro a0 a1 a2 a3 s
  unfold execAdapterValues
  extract_lets +onlyGivenNames x1
  clear_value x1
  extract_lets +onlyGivenNames x2
  clear_value x2
  split
  · refine Gives.next ?_
    exact Only.refl _ _ _
  · split
    · refine Gives.ite ?_ ?_
      · extract_lets +onlyGivenNames x3
        refine Gives.have_ (t := x3) ?_ fun hx3 => ?_
        · subst x3
          refine Only.step (recordSkew_only _ _ _ _ _ _) (by decide +kernel) ?_
          exact Only.refl _ _ _
        clear_value x3
        extract_lets +onlyGivenNames x4
        clear_value x4
        refine Gives.next ?_
        refine Only.step (emitVector_only _ _ _ _ _) (by decide +kernel) ?_
        refine Only.step (setCtx_only _ _ _) (by decide +kernel) ?_
        assumption
      · extract_lets +onlyGivenNames x5
        refine Gives.have_ (t := x5) ?_ fun hx5 => ?_
        · subst x5
          refine Only.ite ?_ ?_
          · refine Only.step (raise_only 0x20 _ _ _ rfl rfl) (by decide +kernel) ?_
            exact Only.refl _ _ _
          · exact Only.refl _ _ _
        clear_value x5
        extract_lets +onlyGivenNames x6
        clear_value x6
        refine Gives.next ?_
        refine Only.step (emitVector_only _ _ _ _ _) (by decide +kernel) ?_
        assumption
    · refine Gives.next ?_
      exact Only.refl _ _ _


end Sys2Proof.Machine
end

