-- ==== Sys2Proof/Laws/OnlyWork.lean ====
section
/-! SUPPORT. What the operations and the meanings of Machine/Work.lean can change (`Only`, `Gives`): the parts of the state and the
registers, whatever the operands are. -/

namespace Sys2Proof.Machine

set_option linter.unusedSimpArgs false
set_option maxRecDepth 20000
set_option Elab.async false

theorem addCredits_only : ∀ a0 a1 a2 s, Only [.tiles] [] s (addCredits a0 a1 a2 s) := by
  intro a0 a1 a2 s
  unfold addCredits
  refine Only.step (modTile_only _ _ _) (by decide +kernel) ?_
  exact Only.refl _ _ _

theorem creditReturn_only : ∀ a0 a1 s, Only [.tiles] [] s (creditReturn a0 a1 s) := by
  intro a0 a1 s
  unfold creditReturn
  extract_lets +onlyGivenNames x1
  clear_value x1
  extract_lets +onlyGivenNames x2
  clear_value x2
  refine Only.ite ?_ ?_
  · exact Only.refl _ _ _
  · refine Only.ite ?_ ?_
    · refine Only.step (addCredits_only _ _ _ _) (by decide +kernel) ?_
      exact Only.refl _ _ _
    · refine Only.step (addCredits_only _ _ _ _) (by decide +kernel) ?_
      exact Only.refl _ _ _

theorem taskPost_only : ∀ a0 a1 a2 a3 s, Only [.tiles, .mesh, .range, .heldOut, .out] [(0x20, 0x18, 0x18), (0x20, 0x15c, 0x15c), (0x20, 0x410, 0x410), (0x20, 0x414, 0x414), (0x20, 0x418, 0x418), (0x20, 0x41c, 0x41c), (0x20, 0x420, 0x420), (0x20, 0x43c, 0x43c), (0x40, 0x130, 0x130)] s (taskPost a0 a1 a2 a3 s) := by
  intro a0 a1 a2 a3 s
  unfold taskPost
  extract_lets +onlyGivenNames x1
  clear_value x1
  refine Only.ite ?_ ?_
  · extract_lets +onlyGivenNames x2
    refine Only.have_ (t := x2) ?_ fun hx2 => ?_
    · subst x2
      refine Only.step (send_only _ _) (by decide +kernel) ?_
      exact Only.refl _ _ _
    clear_value x2
    refine Only.ite ?_ ?_
    · assumption
    · refine Only.step (failUnbuilt_only _ _ _ _) (by decide +kernel) ?_
      assumption
  · refine Only.ite ?_ ?_
    · exact Only.refl _ _ _
    · refine Only.ite ?_ ?_
      · refine Only.step (pushEntry_only _ _ _ _ _ _ _) (by decide +kernel) ?_
        exact Only.refl _ _ _
      · extract_lets +onlyGivenNames x3
        refine Only.have_ (t := x3) ?_ fun hx3 => ?_
        · subst x3
          refine Only.step (pushEntry_only _ _ _ _ _ _ _) (by decide +kernel) ?_
          exact Only.refl _ _ _
        clear_value x3
        refine Only.ite ?_ ?_
        · split
          · refine Only.step (endTask_only _ _ _ _ _) (by decide +kernel) ?_
            assumption
          · assumption
        · refine Only.step (settle_only _ _) (by decide +kernel) ?_
          refine Only.step (ownVectorReady_only _ _ _) (by decide +kernel) ?_
          assumption

theorem execTaskPost_gives : ∀ a0 a1 a2 a3 s, Gives [.tiles, .mesh, .range, .heldOut, .out] [(0x20, 0x18, 0x18), (0x20, 0x15c, 0x15c), (0x20, 0x410, 0x410), (0x20, 0x414, 0x414), (0x20, 0x418, 0x418), (0x20, 0x41c, 0x41c), (0x20, 0x420, 0x420), (0x20, 0x43c, 0x43c), (0x40, 0x130, 0x130)] s (execTaskPost a0 a1 a2 a3 s) := by
  intro a0 a1 a2 a3 s
  unfold execTaskPost
  refine Gives.next ?_
  refine Only.step (taskPost_only _ _ _ _ _) (by decide +kernel) ?_
  refine Only.step (arrive_only _ _) (by decide +kernel) ?_
  exact Only.refl _ _ _

theorem execSignal_gives : ∀ a0 a1 s, Gives [.tiles, .mesh, .range, .heldOut, .out] [(0x20, 0x18, 0x18), (0x20, 0x15c, 0x15c), (0x20, 0x410, 0x410), (0x20, 0x414, 0x414), (0x20, 0x418, 0x418), (0x20, 0x41c, 0x41c), (0x20, 0x420, 0x420), (0x20, 0x438, 0x438), (0x20, 0x43c, 0x43c), (0x40, 0x130, 0x130)] s (execSignal a0 a1 s) := by
  intro a0 a1 s
  unfold execSignal
  extract_lets +onlyGivenNames x1
  clear_value x1
  extract_lets +onlyGivenNames x2
  refine Gives.have_ (t := x2) ?_ fun hx2 => ?_
  · subst x2
    refine Only.step (arrive_only _ _) (by decide +kernel) ?_
    exact Only.refl _ _ _
  clear_value x2
  extract_lets +onlyGivenNames x3
  clear_value x3
  refine Gives.ite ?_ ?_
  · refine Gives.next ?_
    refine Only.step (sendSignal_only _ _) (by decide +kernel) ?_
    assumption
  · refine Gives.ite ?_ ?_
    · extract_lets +onlyGivenNames x4
      refine Gives.have_ (t := x4) ?_ fun hx4 => ?_
      · subst x4
        refine Only.step (setTile_only _ _ _) (by decide +kernel) ?_
        assumption
      clear_value x4
      extract_lets +onlyGivenNames x5
      refine Gives.have_ (t := x5) ?_ fun hx5 => ?_
      · subst x5
        refine Only.step (wrapInc_only 0x20 0x438 _ _ _ _ rfl rfl rfl rfl) (by decide +kernel) ?_
        assumption
      clear_value x5
      refine Gives.next ?_
      refine Only.ite ?_ ?_
      · assumption
      · refine Only.step (raise_only 0x20 _ _ _ rfl rfl) (by decide +kernel) ?_
        assumption
    · refine Gives.next ?_
      refine Only.step (takeSignal_only _ _ _) (by decide +kernel) ?_
      assumption

theorem startArray_only : ∀ a0 a1 a2 s, Only [.tiles, .mesh, .range, .heldOut, .out] [(0x20, 0x18, 0x18), (0x20, 0x104, 0x104), (0x20, 0x150, 0x150), (0x20, 0x15c, 0x15c), (0x20, 0x204, 0x204), (0x20, 0x238, 0x238), (0x20, 0x23c, 0x23c), (0x20, 0x410, 0x410), (0x20, 0x414, 0x414), (0x20, 0x418, 0x418), (0x20, 0x41c, 0x41c), (0x20, 0x420, 0x420), (0x20, 0x43c, 0x43c), (0x40, 0x18, 0x18), (0x40, 0x130, 0x130), (0x40, 0x134, 0x134), (0x40, 0x138, 0x138), (0x40, 0x13c, 0x13c)] s (startArray a0 a1 a2 s) := by
  intro a0 a1 a2 s
  unfold startArray
  extract_lets +onlyGivenNames x1
  split
  · refine Only.step (endTask_only _ _ _ _ _) (by decide +kernel) ?_
    exact Only.refl _ _ _
  · extract_lets +onlyGivenNames x2
    clear_value x2
    extract_lets +onlyGivenNames x3
    refine Only.have_ (t := x3) ?_ fun hx3 => ?_
    · subst x3
      refine Only.ite ?_ ?_
      · refine Only.step (wrapInc_only 0x20 0x150 _ _ _ _ rfl rfl rfl rfl) (by decide +kernel) ?_
        exact Only.refl _ _ _
      · exact Only.refl _ _ _
    clear_value x3
    extract_lets +onlyGivenNames x4
    clear_value x4
    extract_lets +onlyGivenNames x5
    clear_value x5
    extract_lets +onlyGivenNames x6
    refine Only.have_ (t := x6) ?_ fun hx6 => ?_
    · subst x6
      refine Only.step (setTile_only _ _ _) (by decide +kernel) ?_
      assumption
    clear_value x6
    extract_lets +onlyGivenNames x7
    refine Only.have_ (t := x7) ?_ fun hx7 => ?_
    · subst x7
      refine Only.step (modTile_only _ _ _) (by decide +kernel) ?_
      assumption
    clear_value x7
    extract_lets +onlyGivenNames x8
    refine Only.have_ (t := x8) ?_ fun hx8 => ?_
    · subst x8
      refine Only.step (fset_only 0x20 0x104 _ _ _ _ rfl rfl rfl) (by decide +kernel) ?_
      refine Only.step (modEntry_only _ _ _ _) (by decide +kernel) ?_
      assumption
    clear_value x8
    refine Only.step (noteRunning_only _ _) (by decide +kernel) ?_
    refine Only.step (beginVector_only _ _ _ _) (by decide +kernel) ?_
    assumption

theorem suspend_only : ∀ a0 a1 s, Only [.tiles] [(0x20, 0x434, 0x434)] s (suspend a0 a1 s) := by
  intro a0 a1 s
  unfold suspend
  refine Only.step (wrapInc_only 0x20 0x434 _ _ _ _ rfl rfl rfl rfl) (by decide +kernel) ?_
  refine Only.step (modTile_only _ _ _) (by decide +kernel) ?_
  refine Only.step (modEntry_only _ _ _ _) (by decide +kernel) ?_
  exact Only.refl _ _ _

theorem resume_only : ∀ a0 a1 a2 s, Only [.tiles] [(0x20, 0x104, 0x104), (0x20, 0x150, 0x150), (0x20, 0x204, 0x204)] s (resume a0 a1 a2 s) := by
  intro a0 a1 a2 s
  unfold resume
  extract_lets +onlyGivenNames x1
  extract_lets +onlyGivenNames x2
  clear_value x2
  extract_lets +onlyGivenNames x3
  refine Only.have_ (t := x3) ?_ fun hx3 => ?_
  · subst x3
    refine Only.ite ?_ ?_
    · refine Only.step (wrapInc_only 0x20 0x150 _ _ _ _ rfl rfl rfl rfl) (by decide +kernel) ?_
      exact Only.refl _ _ _
    · exact Only.refl _ _ _
  clear_value x3
  extract_lets +onlyGivenNames x4
  refine Only.have_ (t := x4) ?_ fun hx4 => ?_
  · subst x4
    refine Only.step (modTile_only _ _ _) (by decide +kernel) ?_
    assumption
  clear_value x4
  refine Only.step (noteRunning_only _ _) (by decide +kernel) ?_
  refine Only.step (fset_only 0x20 0x104 _ _ _ _ rfl rfl rfl) (by decide +kernel) ?_
  refine Only.step (modEntry_only _ _ _ _) (by decide +kernel) ?_
  assumption

theorem arrayTake_only : ∀ a0 s, Only [.tiles, .mesh, .range, .heldOut, .out] [(0x20, 0x18, 0x18), (0x20, 0x104, 0x104), (0x20, 0x150, 0x150), (0x20, 0x15c, 0x15c), (0x20, 0x204, 0x204), (0x20, 0x238, 0x238), (0x20, 0x23c, 0x23c), (0x20, 0x410, 0x410), (0x20, 0x414, 0x414), (0x20, 0x418, 0x418), (0x20, 0x41c, 0x41c), (0x20, 0x420, 0x420), (0x20, 0x43c, 0x43c), (0x40, 0x18, 0x18), (0x40, 0x130, 0x130), (0x40, 0x134, 0x134), (0x40, 0x138, 0x138), (0x40, 0x13c, 0x13c)] s (arrayTake a0 s) := by
  intro a0 s
  unfold arrayTake
  extract_lets +onlyGivenNames x1
  clear_value x1
  extract_lets +onlyGivenNames x2
  clear_value x2
  split
  · refine Only.ite ?_ ?_
    · split
      · refine Only.ite ?_ ?_
        · exact Only.refl _ _ _
        · refine Only.step (startArray_only _ _ _ _) (by decide +kernel) ?_
          exact Only.refl _ _ _
      · exact Only.refl _ _ _
    · split
      · refine Only.step (resume_only _ _ _ _) (by decide +kernel) ?_
        exact Only.refl _ _ _
      · exact Only.refl _ _ _
  · split
    · refine Only.ite ?_ ?_
      · exact Only.refl _ _ _
      · refine Only.step (startArray_only _ _ _ _) (by decide +kernel) ?_
        exact Only.refl _ _ _
    · exact Only.refl _ _ _
  · split
    · refine Only.step (resume_only _ _ _ _) (by decide +kernel) ?_
      exact Only.refl _ _ _
    · exact Only.refl _ _ _
  · exact Only.refl _ _ _

theorem selectArray_only : ∀ a0 s, Only [.tiles, .mesh, .range, .heldOut, .out] [(0x20, 0x18, 0x18), (0x20, 0x104, 0x104), (0x20, 0x150, 0x150), (0x20, 0x15c, 0x15c), (0x20, 0x204, 0x204), (0x20, 0x238, 0x238), (0x20, 0x23c, 0x23c), (0x20, 0x410, 0x410), (0x20, 0x414, 0x414), (0x20, 0x418, 0x418), (0x20, 0x41c, 0x41c), (0x20, 0x420, 0x420), (0x20, 0x434, 0x434), (0x20, 0x43c, 0x43c), (0x40, 0x18, 0x18), (0x40, 0x130, 0x130), (0x40, 0x134, 0x134), (0x40, 0x138, 0x138), (0x40, 0x13c, 0x13c)] s (selectArray a0 s) := by
  intro a0 s
  unfold selectArray
  extract_lets +onlyGivenNames x1
  clear_value x1
  refine Only.ite ?_ ?_
  · exact Only.refl _ _ _
  · split
    · refine Only.step (arrayTake_only _ _) (by decide +kernel) ?_
      exact Only.refl _ _ _
    · split
      · refine Only.ite ?_ ?_
        · refine Only.step (arrayTake_only _ _) (by decide +kernel) ?_
          refine Only.step (suspend_only _ _ _) (by decide +kernel) ?_
          exact Only.refl _ _ _
        · exact Only.refl _ _ _
      · exact Only.refl _ _ _

theorem selectVector_only : ∀ a0 s, Only [.tiles, .mesh, .range, .heldOut, .out] [(0x20, 0x18, 0x18), (0x20, 0x15c, 0x15c), (0x20, 0x410, 0x410), (0x20, 0x414, 0x414), (0x20, 0x418, 0x418), (0x20, 0x41c, 0x41c), (0x20, 0x420, 0x420), (0x20, 0x43c, 0x43c), (0x40, 0x130, 0x130)] s (selectVector a0 s) := by
  intro a0 s
  unfold selectVector
  extract_lets +onlyGivenNames x1
  clear_value x1
  refine Only.ite ?_ ?_
  · exact Only.refl _ _ _
  · split
    · exact Only.refl _ _ _
    · refine Only.ite ?_ ?_
      · refine Only.step (endTask_only _ _ _ _ _) (by decide +kernel) ?_
        exact Only.refl _ _ _
      · refine Only.ite ?_ ?_
        · refine Only.step (endTask_only _ _ _ _ _) (by decide +kernel) ?_
          exact Only.refl _ _ _
        · refine Only.step (modTile_only _ _ _) (by decide +kernel) ?_
          refine Only.step (modEntry_only _ _ _ _) (by decide +kernel) ?_
          exact Only.refl _ _ _

theorem execTaskSelect_gives : ∀ a0 a1 s, Gives [.tiles, .mesh, .range, .heldOut, .out] [(0x20, 0x18, 0x18), (0x20, 0x104, 0x104), (0x20, 0x150, 0x150), (0x20, 0x15c, 0x15c), (0x20, 0x204, 0x204), (0x20, 0x238, 0x238), (0x20, 0x23c, 0x23c), (0x20, 0x410, 0x410), (0x20, 0x414, 0x414), (0x20, 0x418, 0x418), (0x20, 0x41c, 0x41c), (0x20, 0x420, 0x420), (0x20, 0x434, 0x434), (0x20, 0x43c, 0x43c), (0x40, 0x18, 0x18), (0x40, 0x130, 0x130), (0x40, 0x134, 0x134), (0x40, 0x138, 0x138), (0x40, 0x13c, 0x13c)] s (execTaskSelect a0 a1 s) := by
  intro a0 a1 s
  unfold execTaskSelect
  refine Gives.ite ?_ ?_
  · split
    · refine Gives.next ?_
      refine Only.step (selectArray_only _ _) (by decide +kernel) ?_
      exact Only.refl _ _ _
    · refine Gives.next ?_
      refine Only.step (selectVector_only _ _) (by decide +kernel) ?_
      exact Only.refl _ _ _
  · refine Gives.next ?_
    exact Only.refl _ _ _

theorem storeStats_only : ∀ a0 a1 s, Only [.sram, .sramPoison] [(0x20, 0x220, 0x220), (0x20, 0x224, 0x224), (0x20, 0x228, 0x228), (0x20, 0x22c, 0x22c)] s (storeStats a0 a1 s) := by
  intro a0 a1 s
  unfold storeStats
  extract_lets +onlyGivenNames x1
  extract_lets +onlyGivenNames x2
  clear_value x2
  extract_lets +onlyGivenNames x3
  refine Only.have_ (t := x3) ?_ fun hx3 => ?_
  · subst x3
    refine Only.step (fset_only 0x20 0x22c _ _ _ _ rfl rfl rfl) (by decide +kernel) ?_
    refine Only.step (fset_only 0x20 0x228 _ _ _ _ rfl rfl rfl) (by decide +kernel) ?_
    refine Only.step (fset_only 0x20 0x224 _ _ _ _ rfl rfl rfl) (by decide +kernel) ?_
    refine Only.step (fset_only 0x20 0x220 _ _ _ _ rfl rfl rfl) (by decide +kernel) ?_
    exact Only.refl _ _ _
  clear_value x3
  refine Only.ite ?_ ?_
  · refine Only.step (sramWrite_only _ _ _ _) (by decide +kernel) ?_
    assumption
  · assumption

theorem kernelWrite_only : ∀ a0 a1 a2 a3 s, Only [.range, .heldOut, .out] [(0x40, 0x18, 0x18), (0x40, 0x130, 0x130), (0x40, 0x134, 0x134), (0x40, 0x138, 0x138), (0x40, 0x13c, 0x13c)] s (kernelWrite a0 a1 a2 a3 s).2 := by
  intro a0 a1 a2 a3 s
  unfold kernelWrite
  refine Only.ite_snd ?_ ?_
  · refine Only.pair ?_
    exact Only.refl _ _ _
  · split
    refine Only.pair ?_
    refine Only.step (taskStore_only_eq _ _ _ _ _ _ _ _ _ _ ‹_›) (by decide +kernel) ?_
    exact Only.refl _ _ _

theorem kernelWrite_only_eq : ∀ a0 a1 a2 a3 s x t, kernelWrite a0 a1 a2 a3 s = (x, t) → Only [.range, .heldOut, .out] [(0x40, 0x18, 0x18), (0x40, 0x130, 0x130), (0x40, 0x134, 0x134), (0x40, 0x138, 0x138), (0x40, 0x13c, 0x13c)] s t := by
  intro a0 a1 a2 a3 s x t h
  have := kernelWrite_only a0 a1 a2 a3 s
  rw [h] at this
  exact this

theorem tuneBlock_only : ∀ a0 a1 a2 a3 a4 s, Only [.range, .heldOut, .out] [(0x40, 0x18, 0x18), (0x40, 0x130, 0x130), (0x40, 0x134, 0x134), (0x40, 0x138, 0x138), (0x40, 0x13c, 0x13c)] s (tuneBlock a0 a1 a2 a3 a4 s).2 := by
  intro a0 a1 a2 a3 a4 s
  unfold tuneBlock
  refine Only.ite_snd ?_ ?_
  · refine Only.pair ?_
    exact Only.refl _ _ _
  · refine Only.ite_snd ?_ ?_
    · refine Only.pair ?_
      refine Only.step (rangeDenied_only _ _ _) (by decide +kernel) ?_
      exact Only.refl _ _ _
    · refine Only.ite_snd ?_ ?_
      · refine Only.pair ?_
        exact Only.refl _ _ _
      · extract_lets +onlyGivenNames x1
        clear_value x1
        extract_lets +onlyGivenNames x2
        clear_value x2
        extract_lets +onlyGivenNames x3
        clear_value x3
        extract_lets +onlyGivenNames x4
        clear_value x4
        extract_lets +onlyGivenNames x5
        clear_value x5
        extract_lets +onlyGivenNames x6
        clear_value x6
        extract_lets +onlyGivenNames x7
        clear_value x7
        extract_lets +onlyGivenNames x8
        refine Only.pair ?_
        refine Only.step (rangeWrite_only _ _ _ _) (by decide +kernel) ?_
        refine Only.step (rangeWrite_only _ _ _ _) (by decide +kernel) ?_
        refine Only.step (rangeWrite_only _ _ _ _) (by decide +kernel) ?_
        exact Only.refl _ _ _

theorem tuneBlock_only_eq : ∀ a0 a1 a2 a3 a4 s x t, tuneBlock a0 a1 a2 a3 a4 s = (x, t) → Only [.range, .heldOut, .out] [(0x40, 0x18, 0x18), (0x40, 0x130, 0x130), (0x40, 0x134, 0x134), (0x40, 0x138, 0x138), (0x40, 0x13c, 0x13c)] s t := by
  intro a0 a1 a2 a3 a4 s x t h
  have := tuneBlock_only a0 a1 a2 a3 a4 s
  rw [h] at this
  exact this

theorem endVector_only : ∀ a0 a1 a2 s, Only [.tiles, .mesh, .range, .heldOut, .out] [(0x20, 0x18, 0x18), (0x20, 0x15c, 0x15c), (0x20, 0x244, 0x244), (0x20, 0x24c, 0x24c), (0x20, 0x410, 0x410), (0x20, 0x414, 0x414), (0x20, 0x418, 0x418), (0x20, 0x41c, 0x41c), (0x20, 0x420, 0x420), (0x20, 0x43c, 0x43c), (0x40, 0x18, 0x18), (0x40, 0x130, 0x130), (0x40, 0x134, 0x134), (0x40, 0x138, 0x138), (0x40, 0x13c, 0x13c)] s (endVector a0 a1 a2 s) := by
  intro a0 a1 a2 s
  unfold endVector
  extract_lets +onlyGivenNames x1
  extract_lets +onlyGivenNames x2
  refine Only.have_ (t := x2) ?_ fun hx2 => ?_
  · subst x2
    refine Only.ite ?_ ?_
    · refine Only.step (raise_only 0x20 _ _ _ rfl rfl) (by decide +kernel) ?_
      refine Only.step (satInc_only 0x20 0x244 _ _ _ _ rfl rfl rfl rfl) (by decide +kernel) ?_
      refine Only.step (satInc_only 0x20 0x244 _ _ _ _ rfl rfl rfl rfl) (by decide +kernel) ?_
      exact Only.refl _ _ _
    · exact Only.refl _ _ _
  clear_value x2
  refine Only.ite ?_ ?_
  · refine Only.step (endTask_only _ _ _ _ _) (by decide +kernel) ?_
    assumption
  · extract_lets +onlyGivenNames x3
    refine Only.ite ?_ ?_
    · refine Only.step (endTask_only _ _ _ _ _) (by decide +kernel) ?_
      subst x3
      refine Only.foldl_snd (fun s x => ?_) ?_
      · refine Only.step (kernelWrite_only _ _ _ _ _) (by decide +kernel) ?_
        exact Only.refl _ _ _
      · refine Only.pair ?_
        assumption
    · refine Only.ite ?_ ?_
      · refine Only.step (endTask_only _ _ _ _ _) (by decide +kernel) ?_
        subst x3
        refine Only.foldl_snd (fun s x => ?_) ?_
        · refine Only.step (kernelWrite_only _ _ _ _ _) (by decide +kernel) ?_
          exact Only.refl _ _ _
        · refine Only.pair ?_
          assumption
      · split
        · refine Only.step (endTask_only _ _ _ _ _) (by decide +kernel) ?_
          subst x3
          refine Only.foldl_snd (fun s x => ?_) ?_
          · refine Only.step (kernelWrite_only _ _ _ _ _) (by decide +kernel) ?_
            exact Only.refl _ _ _
          · refine Only.pair ?_
            assumption
        · extract_lets +onlyGivenNames x4
          clear_value x4
          extract_lets +onlyGivenNames x5
          refine Only.step (endTask_only _ _ _ _ _) (by decide +kernel) ?_
          refine Only.step (fset_only 0x20 0x24c _ _ _ _ rfl rfl rfl) (by decide +kernel) ?_
          subst x5
          refine Only.foldl_snd (fun s x => ?_) ?_
          · refine Only.step (tuneBlock_only _ _ _ _ _ _) (by decide +kernel) ?_
            exact Only.refl _ _ _
          · refine Only.pair ?_
            subst x3
            refine Only.foldl_snd (fun s x => ?_) ?_
            · refine Only.step (kernelWrite_only _ _ _ _ _) (by decide +kernel) ?_
              exact Only.refl _ _ _
            · refine Only.pair ?_
              assumption

theorem arrayEnd_only : ∀ a0 s, Only [.tiles, .sram, .sramPoison, .mesh, .range, .heldOut, .out] [(0x20, 0x18, 0x18), (0x20, 0x104, 0x104), (0x20, 0x15c, 0x15c), (0x20, 0x204, 0x204), (0x20, 0x220, 0x220), (0x20, 0x224, 0x224), (0x20, 0x228, 0x228), (0x20, 0x22c, 0x22c), (0x20, 0x410, 0x410), (0x20, 0x414, 0x414), (0x20, 0x418, 0x418), (0x20, 0x41c, 0x41c), (0x20, 0x420, 0x420), (0x20, 0x43c, 0x43c), (0x40, 0x130, 0x130)] s (arrayEnd a0 s) := by
  intro a0 s
  unfold arrayEnd
  extract_lets +onlyGivenNames x1
  clear_value x1
  split
  · exact Only.refl _ _ _
  · split
    · exact Only.refl _ _ _
    · refine Only.ite ?_ ?_
      · exact Only.refl _ _ _
      · extract_lets +onlyGivenNames x2
        refine Only.have_ (t := x2) ?_ fun hx2 => ?_
        · subst x2
          refine Only.ite ?_ ?_
          · refine Only.step (storeStats_only _ _ _) (by decide +kernel) ?_
            exact Only.refl _ _ _
          · exact Only.refl _ _ _
        clear_value x2
        refine Only.step (noteRunning_only _ _) (by decide +kernel) ?_
        refine Only.step (endTask_only _ _ _ _ _) (by decide +kernel) ?_
        assumption

theorem execTaskEnd_gives : ∀ a0 a1 a2 s, Gives [.tiles, .sram, .sramPoison, .mesh, .range, .heldOut, .out] ([(0x20, 0x18, 0x18), (0x20, 0x104, 0x104), (0x20, 0x15c, 0x15c), (0x20, 0x204, 0x204), (0x20, 0x220, 0x220), (0x20, 0x224, 0x224), (0x20, 0x228, 0x228), (0x20, 0x22c, 0x22c), (0x20, 0x244, 0x244), (0x20, 0x24c, 0x24c), (0x20, 0x410, 0x410), (0x20, 0x414, 0x414), (0x20, 0x418, 0x418), (0x20, 0x41c, 0x41c), (0x20, 0x420, 0x420), (0x20, 0x43c, 0x43c), (0x40, 0x18, 0x18), (0x40, 0x130, 0x130), (0x40, 0x134, 0x134), (0x40, 0x138, 0x138)] ++ [(0x40, 0x13c, 0x13c)] : List RegSpan) s (execTaskEnd a0 a1 a2 s) := by
  intro a0 a1 a2 s
  unfold execTaskEnd
  extract_lets +onlyGivenNames x1
  clear_value x1
  split
  · refine Gives.next ?_
    refine Only.step (arrayEnd_only _ _) (by decide +kernel) ?_
    exact Only.refl _ _ _
  · split
    · refine Gives.next ?_
      exact Only.refl _ _ _
    · split
      · refine Gives.next ?_
        refine Only.step (endVector_only _ _ _ _) (by decide +kernel) ?_
        exact Only.refl _ _ _
      · refine Gives.next ?_
        exact Only.refl _ _ _

theorem execTimeLimit_gives : ∀ a0 s, Gives [.tiles, .mesh, .range, .heldOut, .out] [(0x20, 0x18, 0x18), (0x20, 0x15c, 0x15c), (0x20, 0x410, 0x410), (0x20, 0x414, 0x414), (0x20, 0x418, 0x418), (0x20, 0x41c, 0x41c), (0x20, 0x420, 0x420), (0x20, 0x43c, 0x43c), (0x40, 0x130, 0x130)] s (execTimeLimit a0 s) := by
  intro a0 s
  unfold execTimeLimit
  extract_lets +onlyGivenNames x1
  clear_value x1
  split
  · refine Gives.next ?_
    exact Only.refl _ _ _
  · split
    · refine Gives.next ?_
      refine Only.step (endTask_only _ _ _ _ _) (by decide +kernel) ?_
      refine Only.step (raise_only 0x20 _ _ _ rfl rfl) (by decide +kernel) ?_
      exact Only.refl _ _ _
    · refine Gives.next ?_
      exact Only.refl _ _ _

theorem purge_only : ∀ a0 a1 a2 s, Only [.tiles, .mesh, .range, .heldOut, .out] [(0x20, 0x18, 0x18), (0x20, 0x104, 0x104), (0x20, 0x15c, 0x15c), (0x20, 0x204, 0x204), (0x20, 0x410, 0x410), (0x20, 0x414, 0x414), (0x20, 0x418, 0x418), (0x20, 0x41c, 0x41c), (0x20, 0x420, 0x420), (0x20, 0x43c, 0x43c), (0x40, 0x130, 0x130)] s (purge a0 a1 a2 s) := by
  intro a0 a1 a2 s
  unfold purge
  extract_lets +onlyGivenNames x1
  clear_value x1
  extract_lets +onlyGivenNames x2
  extract_lets +onlyGivenNames x3
  refine Only.have_ (t := x3) ?_ fun hx3 => ?_
  · subst x3
    refine Only.foldl (fun s x => ?_) ?_
    · refine Only.step (returnCredit_only _ _ _) (by decide +kernel) ?_
      refine Only.ite ?_ ?_
      · exact Only.refl _ _ _
      · refine Only.step (recordFail_only _ _ _ _) (by decide +kernel) ?_
        exact Only.refl _ _ _
    · exact Only.refl _ _ _
  clear_value x3
  extract_lets +onlyGivenNames x4
  extract_lets +onlyGivenNames x5
  refine Only.have_ (t := x5) ?_ fun hx5 => ?_
  · subst x5
    refine Only.step (modTile_only _ _ _) (by decide +kernel) ?_
    assumption
  clear_value x5
  extract_lets +onlyGivenNames x6
  refine Only.have_ (t := x6) ?_ fun hx6 => ?_
  · subst x6
    refine Only.step (settle_only _ _) (by decide +kernel) ?_
    refine Only.step (noteRunning_only _ _) (by decide +kernel) ?_
    assumption
  clear_value x6
  refine Only.step (drainSpill_only _ _ _) (by decide +kernel) ?_
  assumption

theorem execPurge_gives : ∀ a0 a1 a2 s, Gives [.tiles, .mesh, .range, .heldOut, .out] [(0x20, 0x18, 0x18), (0x20, 0x104, 0x104), (0x20, 0x15c, 0x15c), (0x20, 0x204, 0x204), (0x20, 0x410, 0x410), (0x20, 0x414, 0x414), (0x20, 0x418, 0x418), (0x20, 0x41c, 0x41c), (0x20, 0x420, 0x420), (0x20, 0x43c, 0x43c), (0x40, 0x130, 0x130)] s (execPurge a0 a1 a2 s) := by
  intro a0 a1 a2 s
  unfold execPurge
  refine Gives.next ?_
  refine Only.step (purge_only _ _ _ _) (by decide +kernel) ?_
  refine Only.step (arrive_only _ _) (by decide +kernel) ?_
  exact Only.refl _ _ _

theorem drawVictim_only : ∀ a0 a1 a2 s, Only [.free] [] s (drawVictim a0 a1 a2 s).2 := by
  intro a0 a1 a2 s
  induction a2 generalizing a0 a1 s with
  | zero =>
    unfold drawVictim
    refine Only.pair ?_
    exact Only.refl _ _ _
  | succ n ih =>
    unfold drawVictim
    extract_lets +onlyGivenNames x1
    clear_value x1
    extract_lets +onlyGivenNames x2
    clear_value x2
    split
    · refine Only.pair ?_
      refine Only.step (draw_only _) (by decide +kernel) ?_
      exact Only.refl _ _ _
    · refine Only.trans ?_ (ih ..)
      refine Only.step (draw_only _) (by decide +kernel) ?_
      exact Only.refl _ _ _

theorem drawVictim_only_eq : ∀ a0 a1 a2 s x t, drawVictim a0 a1 a2 s = (x, t) → Only [.free] [] s t := by
  intro a0 a1 a2 s x t h
  have := drawVictim_only a0 a1 a2 s
  rw [h] at this
  exact this

theorem execStealProbeSend_gives : ∀ a0 s, Gives [.tiles, .mesh, .free] [(0x20, 0x424, 0x424)] s (execStealProbeSend a0 s) := by
  intro a0 s
  unfold execStealProbeSend
  extract_lets +onlyGivenNames x1
  clear_value x1
  refine Gives.ite ?_ ?_
  · refine Gives.next ?_
    exact Only.refl _ _ _
  · extract_lets +onlyGivenNames x2
    refine Only.haveFn (P := fun x => Only [.tiles, .mesh, .free] [(0x20, 0x424, 0x424)] s x.2) (t := x2) ?_ fun hx2 => ?_
    · subst x2
      beta_reduce
      refine Only.step (drawVictim_only _ _ _ _) (by decide +kernel) ?_
      exact Only.refl _ _ _
    beta_reduce at hx2
    clear_value x2
    split
    · refine Gives.next ?_
      refine Only.step (send_only _ _) (by decide +kernel) ?_
      refine Only.step (wrapInc_only 0x20 0x424 _ _ _ _ rfl rfl rfl rfl) (by decide +kernel) ?_
      refine Only.step (modTile_only _ _ _) (by decide +kernel) ?_
      assumption
    · refine Gives.next ?_
      refine Only.step (modTile_only _ _ _) (by decide +kernel) ?_
      assumption

theorem execStealProbe_gives : ∀ a0 a1 s, Gives [.tiles, .mesh, .range, .heldOut, .out] [(0x20, 0x18, 0x18), (0x20, 0x15c, 0x15c), (0x20, 0x410, 0x410), (0x20, 0x414, 0x414), (0x20, 0x418, 0x418), (0x20, 0x41c, 0x41c), (0x20, 0x420, 0x420), (0x20, 0x430, 0x430), (0x20, 0x43c, 0x43c), (0x40, 0x130, 0x130)] s (execStealProbe a0 a1 s) := by
  intro a0 a1 s
  unfold execStealProbe
  extract_lets +onlyGivenNames x1
  clear_value x1
  extract_lets +onlyGivenNames x2
  refine Gives.have_ (t := x2) ?_ fun hx2 => ?_
  · subst x2
    refine Only.step (arrive_only _ _) (by decide +kernel) ?_
    exact Only.refl _ _ _
  clear_value x2
  extract_lets +onlyGivenNames x3
  clear_value x3
  extract_lets +onlyGivenNames x4
  clear_value x4
  split
  · refine Gives.next ?_
    refine Only.step (send_only _ _) (by decide +kernel) ?_
    assumption
  · extract_lets +onlyGivenNames x5
    refine Gives.have_ (t := x5) ?_ fun hx5 => ?_
    · subst x5
      refine Only.step (modTile_only _ _ _) (by decide +kernel) ?_
      assumption
    clear_value x5
    extract_lets +onlyGivenNames x6
    refine Gives.have_ (t := x6) ?_ fun hx6 => ?_
    · subst x6
      refine Only.step (returnCredit_only _ _ _) (by decide +kernel) ?_
      refine Only.step (wrapInc_only 0x20 0x430 _ _ _ _ rfl rfl rfl rfl) (by decide +kernel) ?_
      assumption
    clear_value x6
    extract_lets +onlyGivenNames x7
    refine Gives.have_ (t := x7) ?_ fun hx7 => ?_
    · subst x7
      refine Only.step (drainSpill_only _ _ _) (by decide +kernel) ?_
      assumption
    clear_value x7
    refine Gives.next ?_
    refine Only.step (send_only _ _) (by decide +kernel) ?_
    assumption

theorem execStealGrant_gives : ∀ a0 a1 a2 a3 s, Gives [.tiles, .mesh, .heldOut, .out] [(0x20, 0x18, 0x18), (0x20, 0x428, 0x428), (0x20, 0x43c, 0x43c)] s (execStealGrant a0 a1 a2 a3 s) := by
  intro a0 a1 a2 a3 s
  unfold execStealGrant
  extract_lets +onlyGivenNames x1
  refine Gives.have_ (t := x1) ?_ fun hx1 => ?_
  · subst x1
    refine Only.step (arrive_only _ _) (by decide +kernel) ?_
    exact Only.refl _ _ _
  clear_value x1
  split
  · extract_lets +onlyGivenNames x2
    refine Gives.have_ (t := x2) ?_ fun hx2 => ?_
    · subst x2
      refine Only.step (modTile_only _ _ _) (by decide +kernel) ?_
      assumption
    clear_value x2
    extract_lets +onlyGivenNames x3
    refine Gives.have_ (t := x3) ?_ fun hx3 => ?_
    · subst x3
      refine Only.step (wrapInc_only 0x20 0x428 _ _ _ _ rfl rfl rfl rfl) (by decide +kernel) ?_
      assumption
    clear_value x3
    refine Gives.next ?_
    refine Only.step (pushEntry_only _ _ _ _ _ _ _) (by decide +kernel) ?_
    assumption
  · extract_lets +onlyGivenNames x4
    clear_value x4
    refine Gives.next ?_
    refine Only.step (modTile_only _ _ _) (by decide +kernel) ?_
    assumption

theorem execStealDeny_gives : ∀ a0 s, Gives [.tiles, .mesh] [(0x20, 0x42c, 0x42c)] s (execStealDeny a0 s) := by
  intro a0 s
  unfold execStealDeny
  extract_lets +onlyGivenNames x1
  clear_value x1
  extract_lets +onlyGivenNames x2
  refine Gives.have_ (t := x2) ?_ fun hx2 => ?_
  · subst x2
    refine Only.step (arrive_only _ _) (by decide +kernel) ?_
    exact Only.refl _ _ _
  clear_value x2
  extract_lets +onlyGivenNames x3
  refine Gives.have_ (t := x3) ?_ fun hx3 => ?_
  · subst x3
    refine Only.step (wrapInc_only 0x20 0x42c _ _ _ _ rfl rfl rfl rfl) (by decide +kernel) ?_
    assumption
  clear_value x3
  refine Gives.next ?_
  refine Only.step (modTile_only _ _ _) (by decide +kernel) ?_
  assumption

theorem execStealBackoffExpire_gives : ∀ a0 s, Gives [.timer] [] s (execStealBackoffExpire a0 s) := by
  intro a0 s
  unfold execStealBackoffExpire
  refine Gives.next ?_
  refine Only.step (reach_only _ _) (by decide +kernel) ?_
  exact Only.refl _ _ _


end Sys2Proof.Machine
end

