-- ==== Sys2Proof/Laws/OnlyWeights.lean ====
section
/-! SUPPORT. What the operations and the meanings of Machine/Weights.lean can change (`Only`, `Gives`): the parts of the state and the
registers, whatever the operands are. -/

namespace Sys2Proof.Machine

set_option linter.unusedSimpArgs false
set_option maxRecDepth 20000
set_option Elab.async false

theorem modWs_only : ∀ a0 s, Only [.ws] [] s (modWs a0 s) := by
  intro a0 s
  unfold modWs
  refine Only.set_ws (by decide +kernel) ?_
  exact Only.refl _ _ _

theorem noteHist_only : ∀ a0 a1 s, Only [] [(0x30, 0x120, 0x120), (0x30, 0x124, 0x124), (0x30, 0x128, 0x128), (0x30, 0x12c, 0x12c)] s (noteHist a0 a1 s) := by
  intro a0 a1 s
  unfold noteHist
  split
  · refine Only.step (wrapInc_only 0x30 0x120 _ _ _ _ rfl rfl rfl rfl) (by decide +kernel) ?_
    exact Only.refl _ _ _
  · split
    · refine Only.step (wrapInc_only 0x30 0x124 _ _ _ _ rfl rfl rfl rfl) (by decide +kernel) ?_
      exact Only.refl _ _ _
    · split
      · refine Only.step (wrapInc_only 0x30 0x128 _ _ _ _ rfl rfl rfl rfl) (by decide +kernel) ?_
        exact Only.refl _ _ _
      · refine Only.step (wrapInc_only 0x30 0x12c _ _ _ _ rfl rfl rfl rfl) (by decide +kernel) ?_
        exact Only.refl _ _ _

theorem wsEnd_only : ∀ a0 a1 s, Only [.ws, .heldOut, .out] [(0x30, 0x18, 0x18), (0x30, 0x120, 0x120), (0x30, 0x124, 0x124), (0x30, 0x128, 0x128), (0x30, 0x12c, 0x12c), (0x30, 0x130, 0x130), (0x30, 0x134, 0x134)] s (wsEnd a0 a1 s) := by
  intro a0 a1 s
  unfold wsEnd
  extract_lets +onlyGivenNames x1
  extract_lets +onlyGivenNames x2
  clear_value x2
  extract_lets +onlyGivenNames x3
  clear_value x3
  extract_lets +onlyGivenNames x4
  refine Only.have_ (t := x4) ?_ fun hx4 => ?_
  · subst x4
    refine Only.step (modWs_only _ _) (by decide +kernel) ?_
    exact Only.refl _ _ _
  clear_value x4
  extract_lets +onlyGivenNames x5
  refine Only.have_ (t := x5) ?_ fun hx5 => ?_
  · subst x5
    refine Only.ite ?_ ?_
    · refine Only.step (noteHist_only _ _ _) (by decide +kernel) ?_
      assumption
    · assumption
  clear_value x5
  extract_lets +onlyGivenNames x6
  refine Only.have_ (t := x6) ?_ fun hx6 => ?_
  · subst x6
    refine Only.ite ?_ ?_
    · assumption
    · refine Only.step (fset_only 0x30 0x134 _ _ _ _ rfl rfl rfl) (by decide +kernel) ?_
      refine Only.step (fset_only 0x30 0x134 _ _ _ _ rfl rfl rfl) (by decide +kernel) ?_
      refine Only.step (fset_only 0x30 0x130 _ _ _ _ rfl rfl rfl) (by decide +kernel) ?_
      assumption
  clear_value x6
  refine Only.step (raise_only 0x30 _ _ _ rfl rfl) (by decide +kernel) ?_
  assumption

theorem wsFail_only : ∀ a0 a1 s, Only [.ws, .heldOut, .out] [(0x30, 0x18, 0x18), (0x30, 0x120, 0x120), (0x30, 0x124, 0x124), (0x30, 0x128, 0x128), (0x30, 0x12c, 0x12c), (0x30, 0x130, 0x130), (0x30, 0x134, 0x134)] s (wsFail a0 a1 s) := by
  intro a0 a1 s
  unfold wsFail
  refine Only.step (wsEnd_only _ _ _) (by decide +kernel) ?_
  exact Only.refl _ _ _

theorem setWsCmd_only : ∀ a0 s, Only [.ws] [] s (setWsCmd a0 s) := by
  intro a0 s
  unfold setWsCmd
  refine Only.step (modWs_only _ _) (by decide +kernel) ?_
  exact Only.refl _ _ _

theorem touchErase_only : ∀ a0 s, Only [.ws] [(0x30, 0x144, 0x144)] s (touchErase a0 s) := by
  intro a0 s
  unfold touchErase
  split
  · exact Only.refl _ _ _
  · refine Only.ite ?_ ?_
    · refine Only.step (setWsCmd_only _ _) (by decide +kernel) ?_
      exact Only.refl _ _ _
    · refine Only.step (satInc_only 0x30 0x144 _ _ _ _ rfl rfl rfl rfl) (by decide +kernel) ?_
      refine Only.step (setWsCmd_only _ _) (by decide +kernel) ?_
      exact Only.refl _ _ _

theorem setCw_only : ∀ a0 a1 s, Only [.ws] [] s (setCw a0 a1 s) := by
  intro a0 a1 s
  unfold setCw
  refine Only.step (modWs_only _ _) (by decide +kernel) ?_
  exact Only.refl _ _ _

theorem beginProgram_only : ∀ a0 s, Only [.ws, .heldOut, .out] [(0x30, 0x18, 0x18), (0x30, 0x120, 0x120), (0x30, 0x124, 0x124), (0x30, 0x128, 0x128), (0x30, 0x12c, 0x12c), (0x30, 0x130, 0x130), (0x30, 0x134, 0x134), (0x30, 0x13c, 0x13c)] s (beginProgram a0 s) := by
  intro a0 s
  unfold beginProgram
  extract_lets +onlyGivenNames x1
  extract_lets +onlyGivenNames x2
  clear_value x2
  extract_lets +onlyGivenNames x3
  clear_value x3
  extract_lets +onlyGivenNames x4
  clear_value x4
  refine Only.ite ?_ ?_
  · exact Only.refl _ _ _
  · refine Only.ite ?_ ?_
    · refine Only.step (wsFail_only _ _ _) (by decide +kernel) ?_
      exact Only.refl _ _ _
    · refine Only.ite ?_ ?_
      · refine Only.step (wsFail_only _ _ _) (by decide +kernel) ?_
        refine Only.step (raise_only 0x30 _ _ _ rfl rfl) (by decide +kernel) ?_
        refine Only.step (satInc_only 0x30 0x13c _ _ _ _ rfl rfl rfl rfl) (by decide +kernel) ?_
        exact Only.refl _ _ _
      · refine Only.ite ?_ ?_
        · refine Only.step (wsFail_only _ _ _) (by decide +kernel) ?_
          refine Only.step (satInc_only 0x30 0x13c _ _ _ _ rfl rfl rfl rfl) (by decide +kernel) ?_
          exact Only.refl _ _ _
        · refine Only.ite ?_ ?_
          · refine Only.step (wsFail_only _ _ _) (by decide +kernel) ?_
            exact Only.refl _ _ _
          · refine Only.step (setWsCmd_only _ _) (by decide +kernel) ?_
            refine Only.step (setCw_only _ _ _) (by decide +kernel) ?_
            exact Only.refl _ _ _

theorem kickOne_only : ∀ a0 s, Only [.ws, .heldOut, .out] [(0x30, 0x18, 0x18), (0x30, 0x120, 0x120), (0x30, 0x124, 0x124), (0x30, 0x128, 0x128), (0x30, 0x12c, 0x12c), (0x30, 0x130, 0x130), (0x30, 0x134, 0x134), (0x30, 0x13c, 0x13c), (0x30, 0x144, 0x144)] s (kickOne a0 s) := by
  intro a0 s
  unfold kickOne
  extract_lets +onlyGivenNames x1
  clear_value x1
  refine Only.ite ?_ ?_
  · exact Only.refl _ _ _
  · split
    · refine Only.step (wsFail_only _ _ _) (by decide +kernel) ?_
      exact Only.refl _ _ _
    · refine Only.ite ?_ ?_
      · exact Only.refl _ _ _
      · refine Only.ite ?_ ?_
        · refine Only.step (touchErase_only _ _) (by decide +kernel) ?_
          refine Only.step (setWsCmd_only _ _) (by decide +kernel) ?_
          exact Only.refl _ _ _
        · refine Only.ite ?_ ?_
          · refine Only.step (beginProgram_only _ _) (by decide +kernel) ?_
            exact Only.refl _ _ _
          · refine Only.ite ?_ ?_
            · refine Only.step (setWsCmd_only _ _) (by decide +kernel) ?_
              exact Only.refl _ _ _
            · exact Only.refl _ _ _

theorem wsKick_only : ∀ s, Only [.ws, .heldOut, .out] [(0x30, 0x18, 0x18), (0x30, 0x120, 0x120), (0x30, 0x124, 0x124), (0x30, 0x128, 0x128), (0x30, 0x12c, 0x12c), (0x30, 0x130, 0x130), (0x30, 0x134, 0x134), (0x30, 0x13c, 0x13c), (0x30, 0x144, 0x144)] s (wsKick s) := by
  intro s
  unfold wsKick
  refine Only.foldl (fun s x => ?_) ?_
  · split
    · refine Only.step (kickOne_only _ _) (by decide +kernel) ?_
      exact Only.refl _ _ _
    · exact Only.refl _ _ _
  · exact Only.refl _ _ _

theorem freeBytes_only : ∀ a0 s, Only [.free] [] s (freeBytes a0 s).2 := by
  intro a0 s
  unfold freeBytes
  refine Only.pair ?_
  refine Only.set_free (by decide +kernel) ?_
  exact Only.refl _ _ _

theorem freeBytes_only_eq : ∀ a0 s x t, freeBytes a0 s = (x, t) → Only [.free] [] s t := by
  intro a0 s x t h
  have := freeBytes_only a0 s
  rw [h] at this
  exact this

theorem clearBlock_only : ∀ a0 s, Only [.ws] [] s (clearBlock a0 s) := by
  intro a0 s
  unfold clearBlock
  refine Only.step (modWs_only _ _) (by decide +kernel) ?_
  exact Only.refl _ _ _

theorem fencePlane_only : ∀ a0 s, Only [.causes, .heldOut, .out] [(0x31, 0x14, 0x14), (0x31, 0x18, 0x18), (0x31, 0x28, 0x28), (0x31, 0x100, 0x100), (0x31, 0x110, 0x12c)] s (fencePlane a0 s) := by
  intro a0 s
  have : a0 % 256 / 32 < 8 := by omega
  unfold fencePlane
  extract_lets +onlyGivenNames x1 x2 x3
  refine Only.ite (Only.refl _ _ _) ?_
  extract_lets +onlyGivenNames x4
  have h4 : Only [.causes, .heldOut, .out] [(0x31, 0x14, 0x14), (0x31, 0x18, 0x18), (0x31, 0x28, 0x28), (0x31, 0x100, 0x100), (0x31, 0x110, 0x12c)] s x4 := by
    subst x4
    exact (fsetI_only 0x31 (0x110 + 4 * (a0 % 256 / 32)) _ _ _ _ _ rfl rfl (by simp only [Nat.blt_eq]; omega)).mono (by simp [within, Fld.inside, RegSpan.inside]; omega)
  clear_value x4
  extract_lets +onlyGivenNames x5
  clear_value x5
  extract_lets +onlyGivenNames x6
  have h6 : Only [.causes, .heldOut, .out] [(0x31, 0x14, 0x14), (0x31, 0x18, 0x18), (0x31, 0x28, 0x28), (0x31, 0x100, 0x100), (0x31, 0x110, 0x12c)] s x6 := by
    subst x6
    refine Only.step (raise_only 0x31 _ _ _ rfl rfl) (by decide +kernel) ?_
    exact Only.step (fset_only 0x31 0x100 _ _ _ _ rfl rfl rfl) (by decide +kernel) h4
  clear_value x6
  refine Only.ite ?_ h6
  exact Only.step (fencePage_only 0x31 _ _ _ rfl rfl) (by decide +kernel) h6

theorem loadIdentity_only : ∀ s, Only [.heldOut, .out] [(0x30, 0x18, 0x18), (0x30, 0x208, 0x208), (0x30, 0x240, 0x240), (0x30, 0x244, 0x244), (0x30, 0x248, 0x248), (0x30, 0x24c, 0x24c), (0x30, 0x250, 0x250), (0x30, 0x254, 0x254), (0x30, 0x258, 0x258), (0xb1, 0x100, 0x100)] s (loadIdentity s) := by
  intro s
  unfold loadIdentity
  extract_lets +onlyGivenNames x1
  extract_lets +onlyGivenNames x2
  clear_value x2
  extract_lets +onlyGivenNames x3
  extract_lets +onlyGivenNames x4
  clear_value x4
  extract_lets +onlyGivenNames x5
  clear_value x5
  extract_lets +onlyGivenNames x6
  clear_value x6
  extract_lets +onlyGivenNames x7
  clear_value x7
  extract_lets +onlyGivenNames x8
  refine Only.have_ (t := x8) ?_ fun hx8 => ?_
  · subst x8
    refine Only.step (fset_only 0x30 0x258 _ _ _ _ rfl rfl rfl) (by decide +kernel) ?_
    refine Only.step (fset_only 0x30 0x258 _ _ _ _ rfl rfl rfl) (by decide +kernel) ?_
    refine Only.step (fset_only 0x30 0x254 _ _ _ _ rfl rfl rfl) (by decide +kernel) ?_
    refine Only.step (fset_only 0x30 0x250 _ _ _ _ rfl rfl rfl) (by decide +kernel) ?_
    refine Only.step (fsetI_only 0x30 0x24c _ _ _ _ _ rfl rfl rfl) (by decide +kernel) ?_
    refine Only.step (fsetI_only 0x30 0x248 _ _ _ _ _ rfl rfl rfl) (by decide +kernel) ?_
    refine Only.step (fsetI_only 0x30 0x244 _ _ _ _ _ rfl rfl rfl) (by decide +kernel) ?_
    refine Only.step (fsetI_only 0x30 0x240 _ _ _ _ _ rfl rfl rfl) (by decide +kernel) ?_
    refine Only.step (fset_only 0x30 0x208 _ _ _ _ rfl rfl rfl) (by decide +kernel) ?_
    refine Only.step (fset_only 0x30 0x208 _ _ _ _ rfl rfl rfl) (by decide +kernel) ?_
    refine Only.step (fset_only 0x30 0x208 _ _ _ _ rfl rfl rfl) (by decide +kernel) ?_
    refine Only.step (fset_only 0x30 0x208 _ _ _ _ rfl rfl rfl) (by decide +kernel) ?_
    refine Only.step (fset_only 0x30 0x208 _ _ _ _ rfl rfl rfl) (by decide +kernel) ?_
    refine Only.step (fset_only 0xb1 0x100 _ _ _ _ rfl rfl rfl) (by decide +kernel) ?_
    refine Only.step (fset_only 0x30 0x208 _ _ _ _ rfl rfl rfl) (by decide +kernel) ?_
    refine Only.step (fset_only 0x30 0x208 _ _ _ _ rfl rfl rfl) (by decide +kernel) ?_
    exact Only.refl _ _ _
  clear_value x8
  refine Only.ite ?_ ?_
  · refine Only.step (raise_only 0x30 _ _ _ rfl rfl) (by decide +kernel) ?_
    assumption
  · assumption

theorem intentScan_only : ∀ a0 s, Only [.ws, .heldOut, .out] [(0x30, 0x18, 0x18), (0x30, 0x108, 0x108)] s (intentScan a0 s) := by
  intro a0 s
  unfold intentScan
  extract_lets +onlyGivenNames x1
  clear_value x1
  extract_lets +onlyGivenNames x2
  extract_lets +onlyGivenNames x3
  clear_value x3
  extract_lets +onlyGivenNames x4
  refine Only.have_ (t := x4) ?_ fun hx4 => ?_
  · subst x4
    refine Only.step (modWs_only _ _) (by decide +kernel) ?_
    exact Only.refl _ _ _
  clear_value x4
  extract_lets +onlyGivenNames x5
  refine Only.have_ (t := x5) ?_ fun hx5 => ?_
  · subst x5
    refine Only.step (fset_only 0x30 0x108 _ _ _ _ rfl rfl rfl) (by decide +kernel) ?_
    assumption
  clear_value x5
  refine Only.ite ?_ ?_
  · assumption
  · refine Only.step (raise_only 0x30 _ _ _ rfl rfl) (by decide +kernel) ?_
    assumption

theorem idCommandMask : ∀ s, Only [.staleMid, .heldOut, .out] [(0x30, 0x18, 0x18), (0x30, 0x2c, 0x2c), (0x10, 0x880, 0x880), (0xb0, 0x18, 0x18), (0xb0, 0x110, 0x110), (0xb0, 0x114, 0x114), (0xb0, 0x118, 0x118), (0xb0, 0x11c, 0x11c), (0x30, 0x200, 0x200)] s s := by
  intro s
  exact Only.refl _ _ s

theorem idCommand_only {m : List Fld} {r : List RegSpan} {w : Wr} {op field : Nat} {f : State → State} {s u : State}
    (hm : within [.staleMid, .heldOut, .out] [(0x30, 0x18, 0x18), (0x30, 0x2c, 0x2c), (0x10, 0x880, 0x880), (0xb0, 0x18, 0x18), (0xb0, 0x110, 0x110), (0xb0, 0x114, 0x114), (0xb0, 0x118, 0x118), (0xb0, 0x11c, 0x11c), (0x30, 0x200, 0x200)] m r = true) (hf : ∀ s, Only m r s (f s)) (h : Only m r u s) : Only m r u (idCommand w op field f s) := by
  unfold idCommand
  refine guarded_only 0x30 rfl rfl ?_ (fun s => ?_) h
  · exact within_within (by decide +kernel) hm
  · extract_lets +onlyGivenNames x1
    have h1 : Only m r s x1 := by
      subst x1
      exact Only.trans (within_trans (by decide +kernel) hm (fset_only 0x30 0x200 (.wsc .north) Reg.WSC_ID_CMD_FIELD field s rfl rfl rfl))
        (within_trans (by decide +kernel) hm (fset_only 0x30 0x200 (.wsc .north) Reg.WSC_ID_CMD_OP op _ rfl rfl rfl))
    exact Only.ite h1 (h1.trans (hf _))

theorem setIdStat_only : ∀ a0 a1 s, Only [] [(0x30, 0x204, 0x204)] s (setIdStat a0 a1 s) := by
  intro a0 a1 s
  unfold setIdStat
  refine Only.step (fset_only 0x30 0x204 _ _ _ _ rfl rfl rfl) (by decide +kernel) ?_
  refine Only.step (fset_only 0x30 0x204 _ _ _ _ rfl rfl rfl) (by decide +kernel) ?_
  exact Only.refl _ _ _

theorem execIdRead_gives : ∀ a0 a1 s, Gives [.regs, .staleMid, .heldOut, .out] [] s (execIdRead a0 a1 s) := by
  intro a0 a1 s
  unfold execIdRead
  extract_lets +onlyGivenNames x1
  clear_value x1
  refine Gives.next ?_
  refine idCommand_only (by decide +kernel) (fun s => ?_) ?_
  · extract_lets +onlyGivenNames x2
    refine Only.haveFn (P := fun x => ∀ y2_0 y2_1, Only [.regs, .staleMid, .heldOut, .out] [] y2_1 (x y2_0 y2_1)) (t := x2) ?_ fun hx2 => ?_
    · intro y2_0 y2_1
      subst x2
      dsimp -zeta only
      refine Only.foldl (fun s x => ?_) ?_
      · refine Only.step (fsetI_all _ _ _ _ _) (by decide +kernel) ?_
        exact Only.refl _ _ _
      · exact Only.refl _ _ _
    clear_value x2
    refine Only.step (raise_only 0x30 _ _ _ rfl rfl) (by decide +kernel) ?_
    split
    · refine Only.step (setIdStat_only _ _ _) (by decide +kernel) ?_
      exact Only.refl _ _ _
    · refine Only.step (setIdStat_only _ _ _) (by decide +kernel) ?_
      refine Only.trans ?_ (hx2 ..)
      exact Only.refl _ _ _
    · split
      · refine Only.step (setIdStat_only _ _ _) (by decide +kernel) ?_
        refine Only.trans ?_ (hx2 ..)
        exact Only.refl _ _ _
      · refine Only.step (setIdStat_only _ _ _) (by decide +kernel) ?_
        refine Only.trans ?_ (hx2 ..)
        exact Only.refl _ _ _
  · exact Only.refl _ _ _

theorem idProgram_only : ∀ a0 a1 a2 s, Only [.ws, .heldOut, .out] [(0x30, 0x18, 0x18), (0x30, 0x204, 0x204)] s (idProgram a0 a1 a2 s) := by
  intro a0 a1 a2 s
  unfold idProgram
  extract_lets +onlyGivenNames x1
  clear_value x1
  refine Only.ite ?_ ?_
  · refine Only.step (raise_only 0x30 _ _ _ rfl rfl) (by decide +kernel) ?_
    refine Only.step (setIdStat_only _ _ _) (by decide +kernel) ?_
    exact Only.refl _ _ _
  · refine Only.step (setIdStat_only _ _ _) (by decide +kernel) ?_
    refine Only.step (modWs_only _ _) (by decide +kernel) ?_
    exact Only.refl _ _ _

theorem execIdProgramField_gives : ∀ a0 a1 s, Gives [.staleMid, .ws, .heldOut, .out] [(0x10, 0x880, 0x880), (0x30, 0x18, 0x18), (0x30, 0x2c, 0x2c), (0x30, 0x200, 0x200), (0x30, 0x204, 0x204), (0xb0, 0x18, 0x18), (0xb0, 0x110, 0x110), (0xb0, 0x114, 0x114), (0xb0, 0x118, 0x118), (0xb0, 0x11c, 0x11c)] s (execIdProgramField a0 a1 s) := by
  intro a0 a1 s
  unfold execIdProgramField
  refine Gives.next ?_
  refine idCommand_only (by decide +kernel) (fun s => ?_) ?_
  · refine Only.step (idProgram_only _ _ _ _) (by decide +kernel) ?_
    exact Only.refl _ _ _
  · exact Only.refl _ _ _

theorem execIdCmdInvalidOp_gives : ∀ a0 a1 s, Gives [.staleMid, .heldOut, .out] [(0x10, 0x880, 0x880), (0x30, 0x18, 0x18), (0x30, 0x2c, 0x2c), (0x30, 0x200, 0x200), (0x30, 0x204, 0x204), (0xb0, 0x18, 0x18), (0xb0, 0x110, 0x110), (0xb0, 0x114, 0x114), (0xb0, 0x118, 0x118), (0xb0, 0x11c, 0x11c)] s (execIdCmdInvalidOp a0 a1 s) := by
  intro a0 a1 s
  unfold execIdCmdInvalidOp
  refine Gives.next ?_
  refine idCommand_only (by decide +kernel) (fun s => ?_) ?_
  · refine Only.ite ?_ ?_
    · refine Only.step (raise_only 0x30 _ _ _ rfl rfl) (by decide +kernel) ?_
      refine Only.step (setIdStat_only _ _ _) (by decide +kernel) ?_
      exact Only.refl _ _ _
    · exact Only.refl _ _ _
  · exact Only.refl _ _ _

theorem execLoopMaxClr_gives : ∀ a0 a1 s, Gives [.staleMid, .heldOut, .out] [(0x10, 0x880, 0x880), (0x30, 0x18, 0x18), (0x30, 0x2c, 0x2c), (0x30, 0x140, 0x140), (0xb0, 0x18, 0x18), (0xb0, 0x110, 0x110), (0xb0, 0x114, 0x114), (0xb0, 0x118, 0x118), (0xb0, 0x11c, 0x11c)] s (execLoopMaxClr a0 a1 s) := by
  intro a0 a1 s
  unfold execLoopMaxClr
  refine Gives.next ?_
  refine guarded_only 0x30 rfl rfl (by decide +kernel) (fun s => ?_) ?_
  · refine Only.step (fset_only 0x30 0x140 _ _ _ _ rfl rfl rfl) (by decide +kernel) ?_
    refine Only.step (fset_only 0x30 0x140 _ _ _ _ rfl rfl rfl) (by decide +kernel) ?_
    exact Only.refl _ _ _
  · exact Only.refl _ _ _

theorem wsPost_only : ∀ a0 a1 a2 s, Only [.staleMid, .ws, .heldOut, .out] [(0x10, 0x880, 0x880), (0x30, 0x18, 0x18), (0x30, 0x2c, 0x2c), (0x30, 0x120, 0x120), (0x30, 0x124, 0x124), (0x30, 0x128, 0x128), (0x30, 0x12c, 0x12c), (0x30, 0x130, 0x130), (0x30, 0x134, 0x134), (0x30, 0x13c, 0x13c), (0x30, 0x144, 0x144), (0x30, 0x180, 0x19c), (0xb0, 0x18, 0x18), (0xb0, 0x110, 0x110), (0xb0, 0x114, 0x114), (0xb0, 0x118, 0x118), (0xb0, 0x11c, 0x11c)] s (wsPost a0 a1 a2 s) := by
  intro a0 a1 a2 s
  unfold wsPost
  refine guarded_only 0x30 rfl rfl (by decide +kernel) (fun s => ?_) ?_
  · extract_lets +onlyGivenNames x1
    refine Only.have_ (t := x1) ?_ fun hx1 => ?_
    · subst x1
      refine Only.step (storeCmd_only 0x30 0x180 _ _ _ _ rfl rfl rfl) (by decide +kernel) ?_
      exact Only.refl _ _ _
    clear_value x1
    refine Only.ite ?_ ?_
    · refine Only.step (raise_only 0x30 _ _ _ rfl rfl) (by decide +kernel) ?_
      assumption
    · extract_lets +onlyGivenNames x2
      clear_value x2
      extract_lets +onlyGivenNames x3
      refine Only.have_ (t := x3) ?_ fun hx3 => ?_
      · subst x3
        refine Only.step (modWs_only _ _) (by decide +kernel) ?_
        assumption
      clear_value x3
      extract_lets +onlyGivenNames x4
      clear_value x4
      refine Only.ite ?_ ?_
      · refine Only.step (wsEnd_only _ _ _) (by decide +kernel) ?_
        assumption
      · refine Only.ite ?_ ?_
        · refine Only.step (wsEnd_only _ _ _) (by decide +kernel) ?_
          assumption
        · refine Only.ite ?_ ?_
          · refine Only.step (wsFail_only _ _ _) (by decide +kernel) ?_
            assumption
          · refine Only.step (wsKick_only _) (by decide +kernel) ?_
            assumption
  · exact Only.refl _ _ _

theorem execPlaneFenceReq_gives : ∀ a0 a1 a2 s, Gives [.causes, .staleMid, .ws, .heldOut, .out] ([(0x10, 0x880, 0x880), (0x30, 0x18, 0x18), (0x30, 0x120, 0x120), (0x30, 0x124, 0x124), (0x30, 0x128, 0x128), (0x30, 0x12c, 0x12c), (0x30, 0x130, 0x130), (0x30, 0x134, 0x134), (0x30, 0x13c, 0x13c), (0x30, 0x144, 0x144), (0x31, 0x14, 0x14), (0x31, 0x18, 0x18), (0x31, 0x28, 0x28), (0x31, 0x2c, 0x2c), (0x31, 0x100, 0x100), (0x31, 0x104, 0x104), (0x31, 0x110, 0x12c), (0xb0, 0x18, 0x18), (0xb0, 0x110, 0x110), (0xb0, 0x114, 0x114)] ++ [(0xb0, 0x118, 0x118), (0xb0, 0x11c, 0x11c)] : List RegSpan) s (execPlaneFenceReq a0 a1 a2 s) := by
  intro a0 a1 a2 s
  unfold execPlaneFenceReq
  refine Gives.next ?_
  refine guarded_only 0x31 rfl rfl (by decide +kernel) (fun s => ?_) ?_
  · extract_lets +onlyGivenNames x1
    clear_value x1
    extract_lets +onlyGivenNames x2
    refine Only.have_ (t := x2) ?_ fun hx2 => ?_
    · subst x2
      refine Only.step (fset_only 0x31 0x104 _ _ _ _ rfl rfl rfl) (by decide +kernel) ?_
      exact Only.refl _ _ _
    clear_value x2
    refine Only.ite ?_ ?_
    · refine Only.step (wsKick_only _) (by decide +kernel) ?_
      refine Only.step (fencePlane_only _ _) (by decide +kernel) ?_
      assumption
    · assumption
  · exact Only.refl _ _ _

theorem popWs_only : ∀ a0 s, Only [.ws] [] s (popWs a0 s) := by
  intro a0 s
  unfold popWs
  refine Only.step (modWs_only _ _) (by decide +kernel) ?_
  exact Only.refl _ _ _

theorem popWeak_only : ∀ a0 a1 s, Only [.ws] [] s (popWeak a0 a1 s) := by
  intro a0 a1 s
  unfold popWeak
  refine Only.ite ?_ ?_
  · refine Only.step (modWs_only _ _) (by decide +kernel) ?_
    exact Only.refl _ _ _
  · exact Only.refl _ _ _

theorem noteWeak_only : ∀ a0 a1 a2 s, Only [.ws, .heldOut, .out] [(0x30, 0x18, 0x18), (0x30, 0x118, 0x118)] s (noteWeak a0 a1 a2 s) := by
  intro a0 a1 a2 s
  unfold noteWeak
  extract_lets +onlyGivenNames x1
  extract_lets +onlyGivenNames x2
  clear_value x2
  refine Only.ite ?_ ?_
  · refine Only.step (raise_only 0x30 _ _ _ rfl rfl) (by decide +kernel) ?_
    exact Only.refl _ _ _
  · refine Only.ite ?_ ?_
    · refine Only.step (raise_only 0x30 _ _ _ rfl rfl) (by decide +kernel) ?_
      refine Only.step (satInc_only 0x30 0x118 _ _ _ _ rfl rfl rfl rfl) (by decide +kernel) ?_
      exact Only.refl _ _ _
    · extract_lets +onlyGivenNames x3
      clear_value x3
      refine Only.step (raise_only 0x30 _ _ _ rfl rfl) (by decide +kernel) ?_
      refine Only.step (modWs_only _ _) (by decide +kernel) ?_
      exact Only.refl _ _ _

theorem noteFailure_only : ∀ a0 a1 s, Only [.causes, .ws, .heldOut, .out] [(0x31, 0x14, 0x14), (0x31, 0x18, 0x18), (0x31, 0x28, 0x28), (0x31, 0x100, 0x100), (0x31, 0x110, 0x12c)] s (noteFailure a0 a1 s) := by
  intro a0 a1 s
  unfold noteFailure
  extract_lets +onlyGivenNames x1
  refine Only.have_ (t := x1) ?_ fun hx1 => ?_
  · subst x1
    refine Only.step (modWs_only _ _) (by decide +kernel) ?_
    exact Only.refl _ _ _
  clear_value x1
  extract_lets +onlyGivenNames x2
  clear_value x2
  refine Only.ite ?_ ?_
  · refine Only.step (fencePlane_only _ _) (by decide +kernel) ?_
    assumption
  · assumption

theorem bondCheck_only : ∀ a0 a1 s, Only [.causes, .ws, .heldOut, .out] [(0x31, 0x14, 0x14), (0x31, 0x18, 0x18), (0x31, 0x28, 0x28)] s (bondCheck a0 a1 s) := by
  intro a0 a1 s
  unfold bondCheck
  extract_lets +onlyGivenNames x1
  clear_value x1
  extract_lets +onlyGivenNames x2
  refine Only.have_ (t := x2) ?_ fun hx2 => ?_
  · subst x2
    refine Only.step (modWs_only _ _) (by decide +kernel) ?_
    exact Only.refl _ _ _
  clear_value x2
  refine Only.ite ?_ ?_
  · refine Only.step (fencePage_only 0x31 _ _ _ rfl rfl) (by decide +kernel) ?_
    assumption
  · assumption

theorem sendFrame_only : ∀ a0 s, Only [.rowBus, .scaleBus] [] s (sendFrame a0 s).2 := by
  intro a0 s
  unfold sendFrame
  extract_lets +onlyGivenNames x1
  clear_value x1
  refine Only.ite_snd ?_ ?_
  · refine Only.pair ?_
    exact Only.refl _ _ _
  · split
    · refine Only.pair ?_
      refine Only.set_rowBus (by decide +kernel) ?_
      exact Only.refl _ _ _
    · refine Only.pair ?_
      refine Only.set_scaleBus (by decide +kernel) ?_
      exact Only.refl _ _ _

theorem sendFrame_only_eq : ∀ a0 s x t, sendFrame a0 s = (x, t) → Only [.rowBus, .scaleBus] [] s t := by
  intro a0 s x t h
  have := sendFrame_only a0 s
  rw [h] at this
  exact this

theorem openGate_only : ∀ a0 a1 s, Only [.rowBus, .scaleBus, .ws, .heldOut, .out] [(0x30, 0x18, 0x18), (0x30, 0x120, 0x120), (0x30, 0x124, 0x124), (0x30, 0x128, 0x128), (0x30, 0x12c, 0x12c), (0x30, 0x130, 0x130), (0x30, 0x134, 0x134)] s (openGate a0 a1 s) := by
  intro a0 a1 s
  unfold openGate
  extract_lets +onlyGivenNames x1
  clear_value x1
  extract_lets +onlyGivenNames x2
  refine Only.have_ (t := x2) ?_ fun hx2 => ?_
  · subst x2
    refine Only.step (modWs_only _ _) (by decide +kernel) ?_
    exact Only.refl _ _ _
  clear_value x2
  extract_lets +onlyGivenNames x3
  refine Only.have_ (t := x3) ?_ fun hx3 => ?_
  · subst x3
    refine Only.foldl (fun s x => ?_) ?_
    · extract_lets +onlyGivenNames x4
      split
      · refine Only.step (setWsCmd_only _ _) (by decide +kernel) ?_
        refine Only.step (sendFrame_only _ _) (by decide +kernel) ?_
        exact Only.refl _ _ _
      · refine Only.step (sendFrame_only _ _) (by decide +kernel) ?_
        exact Only.refl _ _ _
    · assumption
  clear_value x3
  refine Only.foldl (fun s x => ?_) ?_
  · split
    · refine Only.ite ?_ ?_
      · refine Only.step (wsEnd_only _ _ _) (by decide +kernel) ?_
        exact Only.refl _ _ _
      · exact Only.refl _ _ _
    · exact Only.refl _ _ _
  · assumption

theorem retireBlock_only : ∀ a0 s, Only [.ws] [] s (retireBlock a0 s) := by
  intro a0 s
  unfold retireBlock
  refine Only.step (modWs_only _ _) (by decide +kernel) ?_
  exact Only.refl _ _ _

theorem execWsReadRefill_gives : ∀ a0 a1 a2 s, Gives [.staleMid, .ws, .heldOut, .out] [(0x10, 0x880, 0x880), (0x30, 0x18, 0x18), (0x30, 0x2c, 0x2c), (0x30, 0x120, 0x120), (0x30, 0x124, 0x124), (0x30, 0x128, 0x128), (0x30, 0x12c, 0x12c), (0x30, 0x130, 0x130), (0x30, 0x134, 0x134), (0x30, 0x13c, 0x13c), (0x30, 0x144, 0x144), (0x30, 0x180, 0x19c), (0xb0, 0x18, 0x18), (0xb0, 0x110, 0x110), (0xb0, 0x114, 0x114), (0xb0, 0x118, 0x118), (0xb0, 0x11c, 0x11c)] s (execWsReadRefill a0 a1 a2 s) := by
  intro a0 a1 a2 s
  unfold execWsReadRefill
  refine Gives.next ?_
  refine Only.step (wsPost_only _ _ _ _) (by decide +kernel) ?_
  exact Only.refl _ _ _

theorem execWsReadCopy_gives : ∀ a0 a1 a2 s, Gives [.staleMid, .ws, .heldOut, .out] [(0x10, 0x880, 0x880), (0x30, 0x18, 0x18), (0x30, 0x2c, 0x2c), (0x30, 0x120, 0x120), (0x30, 0x124, 0x124), (0x30, 0x128, 0x128), (0x30, 0x12c, 0x12c), (0x30, 0x130, 0x130), (0x30, 0x134, 0x134), (0x30, 0x13c, 0x13c), (0x30, 0x144, 0x144), (0x30, 0x180, 0x19c), (0xb0, 0x18, 0x18), (0xb0, 0x110, 0x110), (0xb0, 0x114, 0x114), (0xb0, 0x118, 0x118), (0xb0, 0x11c, 0x11c)] s (execWsReadCopy a0 a1 a2 s) := by
  intro a0 a1 a2 s
  unfold execWsReadCopy
  refine Gives.next ?_
  refine Only.step (wsPost_only _ _ _ _) (by decide +kernel) ?_
  exact Only.refl _ _ _

theorem execWsProgram_gives : ∀ a0 a1 a2 s, Gives [.staleMid, .ws, .heldOut, .out] [(0x10, 0x880, 0x880), (0x30, 0x18, 0x18), (0x30, 0x2c, 0x2c), (0x30, 0x120, 0x120), (0x30, 0x124, 0x124), (0x30, 0x128, 0x128), (0x30, 0x12c, 0x12c), (0x30, 0x130, 0x130), (0x30, 0x134, 0x134), (0x30, 0x13c, 0x13c), (0x30, 0x144, 0x144), (0x30, 0x180, 0x19c), (0xb0, 0x18, 0x18), (0xb0, 0x110, 0x110), (0xb0, 0x114, 0x114), (0xb0, 0x118, 0x118), (0xb0, 0x11c, 0x11c)] s (execWsProgram a0 a1 a2 s) := by
  intro a0 a1 a2 s
  unfold execWsProgram
  refine Gives.next ?_
  refine Only.step (wsPost_only _ _ _ _) (by decide +kernel) ?_
  exact Only.refl _ _ _

theorem execWsErase_gives : ∀ a0 a1 a2 s, Gives [.staleMid, .ws, .heldOut, .out] [(0x10, 0x880, 0x880), (0x30, 0x18, 0x18), (0x30, 0x2c, 0x2c), (0x30, 0x120, 0x120), (0x30, 0x124, 0x124), (0x30, 0x128, 0x128), (0x30, 0x12c, 0x12c), (0x30, 0x130, 0x130), (0x30, 0x134, 0x134), (0x30, 0x13c, 0x13c), (0x30, 0x144, 0x144), (0x30, 0x180, 0x19c), (0xb0, 0x18, 0x18), (0xb0, 0x110, 0x110), (0xb0, 0x114, 0x114), (0xb0, 0x118, 0x118), (0xb0, 0x11c, 0x11c)] s (execWsErase a0 a1 a2 s) := by
  intro a0 a1 a2 s
  unfold execWsErase
  refine Gives.next ?_
  refine Only.step (wsPost_only _ _ _ _) (by decide +kernel) ?_
  exact Only.refl _ _ _

theorem execWsStatusPop_gives : ∀ a0 a1 s, Gives [.ws, .ring, .heldOut, .out] [(0x70, 0x18, 0x18), (0x70, 0x10c, 0x10c), (0x71, 0x18, 0x18), (0x71, 0x11c, 0x11c)] s (execWsStatusPop a0 a1 s) := by
  intro a0 a1 s
  unfold execWsStatusPop
  refine Gives.ite ?_ ?_
  · refine Gives.next ?_
    refine Only.step (emit_only _ _) (by decide +kernel) ?_
    exact Only.refl _ _ _
  · extract_lets +onlyGivenNames x1
    clear_value x1
    refine Gives.next ?_
    refine Only.step (popWs_only _ _) (by decide +kernel) ?_
    refine Only.step (emit_only _ _) (by decide +kernel) ?_
    exact Only.refl _ _ _

theorem deliver_only : ∀ a0 a1 a2 s, Only [.rowBus, .scaleBus, .ws] [] s (deliver a0 a1 a2 s).2 := by
  intro a0 a1 a2 s
  unfold deliver
  extract_lets +onlyGivenNames x1
  clear_value x1
  refine Only.ite_snd ?_ ?_
  · refine Only.foldl_snd (fun s x => ?_) ?_
    · extract_lets +onlyGivenNames x2
      refine Only.pair ?_
      refine Only.step (sendFrame_only _ _) (by decide +kernel) ?_
      exact Only.refl _ _ _
    · refine Only.pair ?_
      exact Only.refl _ _ _
  · refine Only.pair ?_
    refine Only.step (modWs_only _ _) (by decide +kernel) ?_
    exact Only.refl _ _ _

theorem deliver_only_eq : ∀ a0 a1 a2 s x t, deliver a0 a1 a2 s = (x, t) → Only [.rowBus, .scaleBus, .ws] [] s t := by
  intro a0 a1 a2 s x t h
  have := deliver_only a0 a1 a2 s
  rw [h] at this
  exact this

theorem endScaleRun_only : ∀ a0 s, Only [.rowBus, .scaleBus, .ws] [] s (endScaleRun a0 s).2 := by
  intro a0 s
  unfold endScaleRun
  extract_lets +onlyGivenNames x1
  clear_value x1
  extract_lets +onlyGivenNames x2
  refine Only.ite_snd ?_ ?_
  · refine Only.pair ?_
    subst x2
    refine Only.foldl_snd (fun s x => ?_) ?_
    · extract_lets +onlyGivenNames x3
      refine Only.pair ?_
      refine Only.step (deliver_only _ _ _ _) (by decide +kernel) ?_
      exact Only.refl _ _ _
    · refine Only.pair ?_
      exact Only.refl _ _ _
  · subst x2
    refine Only.foldl_snd (fun s x => ?_) ?_
    · extract_lets +onlyGivenNames x4
      refine Only.pair ?_
      refine Only.step (deliver_only _ _ _ _) (by decide +kernel) ?_
      exact Only.refl _ _ _
    · refine Only.pair ?_
      exact Only.refl _ _ _

theorem endScaleRun_only_eq : ∀ a0 s x t, endScaleRun a0 s = (x, t) → Only [.rowBus, .scaleBus, .ws] [] s t := by
  intro a0 s x t h
  have := endScaleRun_only a0 s
  rw [h] at this
  exact this

theorem refillDone_only : ∀ a0 s, Only [.ws, .heldOut, .out] [(0x30, 0x18, 0x18), (0x30, 0x120, 0x120), (0x30, 0x124, 0x124), (0x30, 0x128, 0x128), (0x30, 0x12c, 0x12c), (0x30, 0x130, 0x130), (0x30, 0x134, 0x134)] s (refillDone a0 s) := by
  intro a0 s
  unfold refillDone
  refine Only.ite ?_ ?_
  · refine Only.step (setWsCmd_only _ _) (by decide +kernel) ?_
    exact Only.refl _ _ _
  · refine Only.step (wsEnd_only _ _ _) (by decide +kernel) ?_
    exact Only.refl _ _ _

theorem classify_only : ∀ a0 a1 a2 s, Only [.free] [] s (classify a0 a1 a2 s).2.2.2 := by
  intro a0 a1 a2 s
  unfold classify
  extract_lets +onlyGivenNames x1
  split
  · extract_lets +onlyGivenNames x2
    refine Only.pair ?_
    refine Only.step (freeBytes_only _ _) (by decide +kernel) ?_
    exact Only.refl _ _ _
  · split
    · extract_lets +onlyGivenNames x3
      refine Only.pair ?_
      refine Only.step (freeBytes_only _ _) (by decide +kernel) ?_
      exact Only.refl _ _ _
    · split
      · refine Only.pair ?_
        exact Only.refl _ _ _
      · refine Only.pair ?_
        exact Only.refl _ _ _

theorem classify_only_eq : ∀ a0 a1 a2 s x y z t, classify a0 a1 a2 s = (x, y, z, t) → Only [.free] [] s t := by
  intro a0 a1 a2 s x y z t h
  have := classify_only a0 a1 a2 s
  rw [h] at this
  exact this

theorem passOn_only : ∀ a0 a1 a2 s, Only [.rowBus, .scaleBus, .range, .ws, .heldOut, .out] [(0x30, 0x18, 0x18), (0x30, 0x120, 0x120), (0x30, 0x124, 0x124), (0x30, 0x128, 0x128), (0x30, 0x12c, 0x12c), (0x30, 0x130, 0x130), (0x30, 0x134, 0x134), (0x40, 0x130, 0x130)] s (passOn a0 a1 a2 s) := by
  intro a0 a1 a2 s
  unfold passOn
  extract_lets +onlyGivenNames x1
  clear_value x1
  extract_lets +onlyGivenNames x2
  clear_value x2
  refine Only.ite ?_ ?_
  · extract_lets +onlyGivenNames x3
    clear_value x3
    refine Only.ite ?_ ?_
    · refine Only.step (wsFail_only _ _ _) (by decide +kernel) ?_
      exact Only.refl _ _ _
    · refine Only.ite ?_ ?_
      · refine Only.step (wsFail_only _ _ _) (by decide +kernel) ?_
        exact Only.refl _ _ _
      · extract_lets +onlyGivenNames x4
        refine Only.have_ (t := x4) ?_ fun hx4 => ?_
        · subst x4
          refine Only.step (rangeWrite_only _ _ _ _) (by decide +kernel) ?_
          exact Only.refl _ _ _
        clear_value x4
        refine Only.ite ?_ ?_
        · refine Only.step (wsEnd_only _ _ _) (by decide +kernel) ?_
          assumption
        · refine Only.step (setWsCmd_only _ _) (by decide +kernel) ?_
          assumption
  · refine Only.ite ?_ ?_
    · extract_lets +onlyGivenNames x5
      extract_lets +onlyGivenNames x6
      clear_value x6
      refine Only.ite ?_ ?_
      · refine Only.step (refillDone_only _ _) (by decide +kernel) ?_
        refine Only.step (deliver_only _ _ _ _) (by decide +kernel) ?_
        exact Only.refl _ _ _
      · refine Only.step (setWsCmd_only _ _) (by decide +kernel) ?_
        refine Only.step (deliver_only _ _ _ _) (by decide +kernel) ?_
        exact Only.refl _ _ _
    · extract_lets +onlyGivenNames x7
      clear_value x7
      refine Only.ite ?_ ?_
      · extract_lets +onlyGivenNames x8
        refine Only.step (refillDone_only _ _) (by decide +kernel) ?_
        refine Only.step (endScaleRun_only _ _) (by decide +kernel) ?_
        exact Only.refl _ _ _
      · refine Only.step (setWsCmd_only _ _) (by decide +kernel) ?_
        exact Only.refl _ _ _

theorem noteCorrected_only : ∀ a0 a1 s, Only [.ws, .heldOut, .out] [(0x30, 0x18, 0x18), (0x30, 0x118, 0x118)] s (noteCorrected a0 a1 s).2 := by
  intro a0 a1 s
  unfold noteCorrected
  extract_lets +onlyGivenNames x1
  clear_value x1
  extract_lets +onlyGivenNames x2
  clear_value x2
  refine Only.pair ?_
  refine Only.ite ?_ ?_
  · refine Only.step (noteWeak_only _ _ _ _) (by decide +kernel) ?_
    exact Only.refl _ _ _
  · exact Only.refl _ _ _

theorem noteCorrected_only_eq : ∀ a0 a1 s x t, noteCorrected a0 a1 s = (x, t) → Only [.ws, .heldOut, .out] [(0x30, 0x18, 0x18), (0x30, 0x118, 0x118)] s t := by
  intro a0 a1 s x t h
  have := noteCorrected_only a0 a1 s
  rw [h] at this
  exact this

theorem readEnd_only : ∀ a0 a1 s, Only [.causes, .rowBus, .scaleBus, .range, .ws, .heldOut, .free, .out] [(0x30, 0x18, 0x18), (0x30, 0x118, 0x118), (0x30, 0x120, 0x120), (0x30, 0x124, 0x124), (0x30, 0x128, 0x128), (0x30, 0x12c, 0x12c), (0x30, 0x130, 0x130), (0x30, 0x134, 0x134), (0x30, 0x138, 0x138), (0x31, 0x14, 0x14), (0x31, 0x18, 0x18), (0x31, 0x28, 0x28), (0x31, 0x100, 0x100), (0x31, 0x110, 0x12c), (0x40, 0x130, 0x130)] s (readEnd a0 a1 s) := by
  intro a0 a1 s
  unfold readEnd
  extract_lets +onlyGivenNames x1
  extract_lets +onlyGivenNames x2
  clear_value x2
  extract_lets +onlyGivenNames x3
  refine Only.have_ (t := x3) ?_ fun hx3 => ?_
  · subst x3
    refine Only.step (bondCheck_only _ _ _) (by decide +kernel) ?_
    exact Only.refl _ _ _
  clear_value x3
  refine Only.ite ?_ ?_
  · assumption
  · extract_lets +onlyGivenNames x4
    clear_value x4
    extract_lets +onlyGivenNames x5
    extract_lets +onlyGivenNames x6
    refine Only.step (passOn_only _ _ _ _) (by decide +kernel) ?_
    refine Only.step (classify_only _ _ _ _) (by decide +kernel) ?_
    subst x5
    refine Only.ite_snd ?_ ?_
    · refine Only.step (noteCorrected_only _ _ _) (by decide +kernel) ?_
      assumption
    · refine Only.pair ?_
      refine Only.step (noteFailure_only _ _ _) (by decide +kernel) ?_
      refine Only.step (raise_only 0x30 _ _ _ rfl rfl) (by decide +kernel) ?_
      refine Only.step (satInc_only 0x30 0x138 _ _ _ _ rfl rfl rfl rfl) (by decide +kernel) ?_
      assumption

theorem execCodeWordReadEnd_gives : ∀ a0 a1 a2 s, Gives [.causes, .rowBus, .scaleBus, .range, .ws, .heldOut, .free, .out] [(0x30, 0x18, 0x18), (0x30, 0x118, 0x118), (0x30, 0x120, 0x120), (0x30, 0x124, 0x124), (0x30, 0x128, 0x128), (0x30, 0x12c, 0x12c), (0x30, 0x130, 0x130), (0x30, 0x134, 0x134), (0x30, 0x138, 0x138), (0x30, 0x13c, 0x13c), (0x30, 0x144, 0x144), (0x31, 0x14, 0x14), (0x31, 0x18, 0x18), (0x31, 0x28, 0x28), (0x31, 0x100, 0x100), (0x31, 0x110, 0x12c), (0x40, 0x130, 0x130)] s (execCodeWordReadEnd a0 a1 a2 s) := by
  intro a0 a1 a2 s
  unfold execCodeWordReadEnd
  split
  · refine Gives.ite ?_ ?_
    · refine Gives.next ?_
      refine Only.step (wsKick_only _) (by decide +kernel) ?_
      refine Only.step (readEnd_only _ _ _) (by decide +kernel) ?_
      exact Only.refl _ _ _
    · refine Gives.next ?_
      exact Only.refl _ _ _
  · refine Gives.next ?_
    exact Only.refl _ _ _

theorem execSenseTimeout_gives : ∀ a0 a1 s, Gives [.causes, .ws, .heldOut, .out] [(0x30, 0x18, 0x18), (0x30, 0x120, 0x120), (0x30, 0x124, 0x124), (0x30, 0x128, 0x128), (0x30, 0x12c, 0x12c), (0x30, 0x130, 0x130), (0x30, 0x134, 0x134), (0x30, 0x13c, 0x13c), (0x30, 0x144, 0x144), (0x31, 0x14, 0x14), (0x31, 0x18, 0x18), (0x31, 0x28, 0x28), (0x31, 0x100, 0x100), (0x31, 0x110, 0x12c)] s (execSenseTimeout a0 a1 s) := by
  intro a0 a1 s
  unfold execSenseTimeout
  split
  · refine Gives.ite ?_ ?_
    · refine Gives.ite ?_ ?_
      · refine Gives.next ?_
        refine Only.step (wsKick_only _) (by decide +kernel) ?_
        refine Only.step (wsFail_only _ _ _) (by decide +kernel) ?_
        refine Only.step (fencePlane_only _ _) (by decide +kernel) ?_
        exact Only.refl _ _ _
      · refine Gives.next ?_
        refine Only.step (setWsCmd_only _ _) (by decide +kernel) ?_
        exact Only.refl _ _ _
    · refine Gives.next ?_
      exact Only.refl _ _ _
  · refine Gives.next ?_
    exact Only.refl _ _ _

theorem execWeakHeadRead_gives : ∀ a0 a1 s, Gives [.latched, .ws, .ring, .heldOut, .out] [(0x70, 0x18, 0x18), (0x70, 0x10c, 0x10c), (0x71, 0x18, 0x18), (0x71, 0x11c, 0x11c)] s (execWeakHeadRead a0 a1 s) := by
  intro a0 a1 s
  unfold execWeakHeadRead
  extract_lets +onlyGivenNames x1
  clear_value x1
  refine Gives.ite ?_ ?_
  · refine Gives.next ?_
    refine Only.step (emit_only _ _) (by decide +kernel) ?_
    exact Only.refl _ _ _
  · extract_lets +onlyGivenNames x2
    clear_value x2
    refine Gives.next ?_
    refine Only.step (popWeak_only _ _ _) (by decide +kernel) ?_
    refine Only.step (emit_only _ _) (by decide +kernel) ?_
    refine Only.set_latched (by decide +kernel) ?_
    exact Only.refl _ _ _

theorem execProgramCwDone_gives : ∀ a0 a1 a2 s, Gives [.ws, .heldOut, .out] [(0x30, 0x18, 0x18), (0x30, 0x120, 0x120), (0x30, 0x124, 0x124), (0x30, 0x128, 0x128), (0x30, 0x12c, 0x12c), (0x30, 0x130, 0x130), (0x30, 0x134, 0x134), (0x30, 0x13c, 0x13c), (0x30, 0x140, 0x140), (0x30, 0x144, 0x144)] s (execProgramCwDone a0 a1 a2 s) := by
  intro a0 a1 a2 s
  unfold execProgramCwDone
  split
  · refine Gives.ite ?_ ?_
    · extract_lets +onlyGivenNames x1
      extract_lets +onlyGivenNames x2
      refine Gives.have_ (t := x2) ?_ fun hx2 => ?_
      · subst x2
        refine Only.ite ?_ ?_
        · refine Only.step (raise_only 0x30 _ _ _ rfl rfl) (by decide +kernel) ?_
          exact Only.refl _ _ _
        · exact Only.refl _ _ _
      clear_value x2
      extract_lets +onlyGivenNames x3
      refine Gives.have_ (t := x3) ?_ fun hx3 => ?_
      · subst x3
        refine Only.step (fset_only 0x30 0x140 _ _ _ _ rfl rfl rfl) (by decide +kernel) ?_
        assumption
      clear_value x3
      extract_lets +onlyGivenNames x4
      extract_lets +onlyGivenNames x5
      refine Gives.have_ (t := x5) ?_ fun hx5 => ?_
      · subst x5
        refine Only.ite ?_ ?_
        · refine Only.step (wsEnd_only _ _ _) (by decide +kernel) ?_
          assumption
        · refine Only.ite ?_ ?_
          · refine Only.step (wsFail_only _ _ _) (by decide +kernel) ?_
            refine Only.step (setWsCmd_only _ _) (by decide +kernel) ?_
            assumption
          · refine Only.step (setWsCmd_only _ _) (by decide +kernel) ?_
            assumption
      clear_value x5
      refine Gives.next ?_
      refine Only.step (wsKick_only _) (by decide +kernel) ?_
      assumption
    · refine Gives.next ?_
      exact Only.refl _ _ _
  · refine Gives.next ?_
    exact Only.refl _ _ _

theorem execProgramLoopLimit_gives : ∀ a0 a1 s, Gives [.causes, .ws, .heldOut, .out] [(0x30, 0x18, 0x18), (0x30, 0x120, 0x120), (0x30, 0x124, 0x124), (0x30, 0x128, 0x128), (0x30, 0x12c, 0x12c), (0x30, 0x130, 0x130), (0x30, 0x134, 0x134), (0x30, 0x13c, 0x13c), (0x30, 0x140, 0x140), (0x30, 0x144, 0x144), (0x31, 0x14, 0x14), (0x31, 0x18, 0x18), (0x31, 0x28, 0x28), (0x31, 0x100, 0x100), (0x31, 0x110, 0x12c)] s (execProgramLoopLimit a0 a1 s) := by
  intro a0 a1 s
  unfold execProgramLoopLimit
  split
  · refine Gives.ite ?_ ?_
    · extract_lets +onlyGivenNames x1
      extract_lets +onlyGivenNames x2
      clear_value x2
      extract_lets +onlyGivenNames x3
      refine Gives.have_ (t := x3) ?_ fun hx3 => ?_
      · subst x3
        refine Only.step (raise_only 0x30 _ _ _ rfl rfl) (by decide +kernel) ?_
        refine Only.step (satInc_only 0x30 0x13c _ _ _ _ rfl rfl rfl rfl) (by decide +kernel) ?_
        exact Only.refl _ _ _
      clear_value x3
      extract_lets +onlyGivenNames x4
      refine Gives.have_ (t := x4) ?_ fun hx4 => ?_
      · subst x4
        refine Only.ite ?_ ?_
        · refine Only.step (raise_only 0x30 _ _ _ rfl rfl) (by decide +kernel) ?_
          assumption
        · assumption
      clear_value x4
      extract_lets +onlyGivenNames x5
      refine Gives.have_ (t := x5) ?_ fun hx5 => ?_
      · subst x5
        refine Only.step (fset_only 0x30 0x140 _ _ _ _ rfl rfl rfl) (by decide +kernel) ?_
        assumption
      clear_value x5
      refine Gives.next ?_
      refine Only.step (wsKick_only _) (by decide +kernel) ?_
      refine Only.step (noteFailure_only _ _ _) (by decide +kernel) ?_
      refine Only.step (retireBlock_only _ _) (by decide +kernel) ?_
      refine Only.step (wsFail_only _ _ _) (by decide +kernel) ?_
      assumption
    · refine Gives.next ?_
      exact Only.refl _ _ _
  · refine Gives.next ?_
    exact Only.refl _ _ _

theorem writeLog_only : ∀ a0 a1 a2 a3 s, Only [.ws] [] s (writeLog a0 a1 a2 a3 s) := by
  intro a0 a1 a2 a3 s
  unfold writeLog
  extract_lets +onlyGivenNames x1
  clear_value x1
  extract_lets +onlyGivenNames x2
  refine Only.have_ (t := x2) ?_ fun hx2 => ?_
  · subst x2
    refine Only.ite ?_ ?_
    · refine Only.step (clearBlock_only _ _) (by decide +kernel) ?_
      exact Only.refl _ _ _
    · exact Only.refl _ _ _
  clear_value x2
  extract_lets +onlyGivenNames x3
  refine Only.have_ (t := x3) ?_ fun hx3 => ?_
  · subst x3
    refine Only.step (setCw_only _ _ _) (by decide +kernel) ?_
    assumption
  clear_value x3
  refine Only.step (modWs_only _ _) (by decide +kernel) ?_
  assumption

theorem execIntentRecordProgrammed_gives : ∀ a0 s, Gives [.ws, .heldOut, .out] [(0x30, 0x18, 0x18), (0x30, 0x120, 0x120), (0x30, 0x124, 0x124), (0x30, 0x128, 0x128), (0x30, 0x12c, 0x12c), (0x30, 0x130, 0x130), (0x30, 0x134, 0x134), (0x30, 0x13c, 0x13c), (0x30, 0x144, 0x144)] s (execIntentRecordProgrammed a0 s) := by
  intro a0 s
  unfold execIntentRecordProgrammed
  extract_lets +onlyGivenNames x1
  clear_value x1
  split
  · refine Gives.next ?_
    exact Only.refl _ _ _
  · extract_lets +onlyGivenNames x2
    refine Gives.have_ (t := x2) ?_ fun hx2 => ?_
    · subst x2
      refine Only.step (writeLog_only _ _ _ _ _) (by decide +kernel) ?_
      exact Only.refl _ _ _
    clear_value x2
    refine Gives.next ?_
    refine Only.step (wsKick_only _) (by decide +kernel) ?_
    refine Only.foldl (fun s x => ?_) ?_
    · refine Only.step (setWsCmd_only _ _) (by decide +kernel) ?_
      exact Only.refl _ _ _
    · assumption

theorem execEraseSuspendHoldExpire_gives : ∀ a0 a1 s, Gives [.timer, .ws] [] s (execEraseSuspendHoldExpire a0 a1 s) := by
  intro a0 a1 s
  unfold execEraseSuspendHoldExpire
  split
  · refine Gives.ite ?_ ?_
    · refine Gives.next ?_
      refine Only.step (setWsCmd_only _ _) (by decide +kernel) ?_
      refine Only.step (reach_only _ _) (by decide +kernel) ?_
      exact Only.refl _ _ _
    · refine Gives.next ?_
      exact Only.refl _ _ _
  · refine Gives.next ?_
    exact Only.refl _ _ _

theorem execEraseResume_gives : ∀ a0 a1 s, Gives [.ws] [] s (execEraseResume a0 a1 s) := by
  intro a0 a1 s
  unfold execEraseResume
  split
  · refine Gives.ite ?_ ?_
    · refine Gives.next ?_
      refine Only.step (setWsCmd_only _ _) (by decide +kernel) ?_
      exact Only.refl _ _ _
    · refine Gives.next ?_
      exact Only.refl _ _ _
  · refine Gives.next ?_
    exact Only.refl _ _ _

theorem execEraseBreak_gives : ∀ a0 a1 s, Gives [.ws, .heldOut, .out] [(0x30, 0x18, 0x18), (0x30, 0x120, 0x120), (0x30, 0x124, 0x124), (0x30, 0x128, 0x128), (0x30, 0x12c, 0x12c), (0x30, 0x130, 0x130), (0x30, 0x134, 0x134), (0x30, 0x13c, 0x13c), (0x30, 0x144, 0x144)] s (execEraseBreak a0 a1 s) := by
  intro a0 a1 s
  unfold execEraseBreak
  split
  · refine Gives.ite ?_ ?_
    · extract_lets +onlyGivenNames x1
      clear_value x1
      extract_lets +onlyGivenNames x2
      refine Gives.have_ (t := x2) ?_ fun hx2 => ?_
      · subst x2
        refine Only.step (satInc_only 0x30 0x144 _ _ _ _ rfl rfl rfl rfl) (by decide +kernel) ?_
        exact Only.refl _ _ _
      clear_value x2
      extract_lets +onlyGivenNames x3
      refine Gives.have_ (t := x3) ?_ fun hx3 => ?_
      · subst x3
        refine Only.step (modWs_only _ _) (by decide +kernel) ?_
        assumption
      clear_value x3
      refine Gives.next ?_
      refine Only.step (wsKick_only _) (by decide +kernel) ?_
      refine Only.step (raise_only 0x30 _ _ _ rfl rfl) (by decide +kernel) ?_
      assumption
    · refine Gives.next ?_
      exact Only.refl _ _ _
  · refine Gives.next ?_
    exact Only.refl _ _ _

theorem execEraseVerify_gives : ∀ a0 a1 a2 s, Gives [.ws, .heldOut, .out] [(0x30, 0x18, 0x18), (0x30, 0x120, 0x120), (0x30, 0x124, 0x124), (0x30, 0x128, 0x128), (0x30, 0x12c, 0x12c), (0x30, 0x130, 0x130), (0x30, 0x134, 0x134), (0x30, 0x13c, 0x13c), (0x30, 0x140, 0x140), (0x30, 0x144, 0x144)] s (execEraseVerify a0 a1 a2 s) := by
  intro a0 a1 a2 s
  unfold execEraseVerify
  split
  · refine Gives.ite ?_ ?_
    · extract_lets +onlyGivenNames x1
      extract_lets +onlyGivenNames x2
      clear_value x2
      extract_lets +onlyGivenNames x3
      refine Gives.have_ (t := x3) ?_ fun hx3 => ?_
      · subst x3
        refine Only.step (modWs_only _ _) (by decide +kernel) ?_
        refine Only.step (clearBlock_only _ _) (by decide +kernel) ?_
        exact Only.refl _ _ _
      clear_value x3
      extract_lets +onlyGivenNames x4
      refine Gives.have_ (t := x4) ?_ fun hx4 => ?_
      · subst x4
        refine Only.step (writeLog_only _ _ _ _ _) (by decide +kernel) ?_
        assumption
      clear_value x4
      extract_lets +onlyGivenNames x5
      refine Gives.have_ (t := x5) ?_ fun hx5 => ?_
      · subst x5
        refine Only.step (fset_only 0x30 0x140 _ _ _ _ rfl rfl rfl) (by decide +kernel) ?_
        assumption
      clear_value x5
      refine Gives.next ?_
      refine Only.step (wsKick_only _) (by decide +kernel) ?_
      refine Only.step (wsEnd_only _ _ _) (by decide +kernel) ?_
      assumption
    · refine Gives.next ?_
      exact Only.refl _ _ _
  · refine Gives.next ?_
    exact Only.refl _ _ _

theorem execEraseProgressLimit_gives : ∀ a0 a1 s, Gives [.ws, .heldOut, .out] [(0x30, 0x18, 0x18), (0x30, 0x120, 0x120), (0x30, 0x124, 0x124), (0x30, 0x128, 0x128), (0x30, 0x12c, 0x12c), (0x30, 0x130, 0x130), (0x30, 0x134, 0x134), (0x30, 0x13c, 0x13c), (0x30, 0x144, 0x144)] s (execEraseProgressLimit a0 a1 s) := by
  intro a0 a1 s
  unfold execEraseProgressLimit
  split
  · refine Gives.ite ?_ ?_
    · extract_lets +onlyGivenNames x1
      extract_lets +onlyGivenNames x2
      refine Gives.have_ (t := x2) ?_ fun hx2 => ?_
      · subst x2
        refine Only.step (raise_only 0x30 _ _ _ rfl rfl) (by decide +kernel) ?_
        refine Only.step (satInc_only 0x30 0x13c _ _ _ _ rfl rfl rfl rfl) (by decide +kernel) ?_
        exact Only.refl _ _ _
      clear_value x2
      refine Gives.next ?_
      refine Only.step (wsKick_only _) (by decide +kernel) ?_
      refine Only.step (retireBlock_only _ _) (by decide +kernel) ?_
      refine Only.step (wsFail_only _ _ _) (by decide +kernel) ?_
      assumption
    · refine Gives.next ?_
      exact Only.refl _ _ _
  · refine Gives.next ?_
    exact Only.refl _ _ _

theorem execIntentScan_gives : ∀ a0 s, Gives [.ws, .heldOut, .out] [(0x30, 0x18, 0x18), (0x30, 0x108, 0x108)] s (execIntentScan a0 s) := by
  intro a0 s
  unfold execIntentScan
  refine Gives.next ?_
  refine Only.step (intentScan_only _ _) (by decide +kernel) ?_
  exact Only.refl _ _ _


end Sys2Proof.Machine
end

