-- ==== Sys2Proof/Laws/OnlyRange.lean ====
section
/-! SUPPORT. What the operations and the meanings of Machine/Range.lean can change (`Only`, `Gives`): the parts of the state and the
registers, whatever the operands are. -/

namespace Sys2Proof.Machine

set_option linter.unusedSimpArgs false
set_option maxRecDepth 20000
set_option Elab.async false

theorem modRangeMask : ∀ s, Only [.range] [] s s := by
  intro s
  exact Only.refl _ _ s

theorem modRange_only {m : List Fld} {r : List RegSpan} {f : Range → Range} {s t : State}
    (hf : ∀ x : Range, x.wf = true → (f x).wf = true) (hm : within [.range] [] m r = true) (h : Only m r s t) :
    Only m r s (modRange f t) := by
  refine Only.trans h (Only.mono hm ?_)
  exact Only.set_range (by decide +kernel) (canonical_range (hf _)) (Only.refl _ _ t)

theorem rangeEnd_only : ∀ a0 a1 s, Only [.range, .heldOut, .out] [(0x40, 0x18, 0x18), (0x50, 0x18, 0x18)] s (rangeEnd a0 a1 s) := by
  intro a0 a1 s
  unfold rangeEnd
  extract_lets +onlyGivenNames x1
  refine Only.have_ (t := x1) ?_ fun hx1 => ?_
  · subst x1
    refine modRange_only (by first | exact fun r => id | (intro r h; simp only [Range.wf, Bool.and_eq_true] at h ⊢; first | exact h | exact ⟨swf_filter _ _ _ _ h.1, swf_filter _ _ _ _ h.2⟩)) (by decide +kernel) ?_
    exact Only.refl _ _ _
  clear_value x1
  extract_lets +onlyGivenNames x2
  refine Only.have_ (t := x2) ?_ fun hx2 => ?_
  · subst x2
    refine Only.ite ?_ ?_
    · refine Only.step (raise_only 0x40 _ _ _ rfl rfl) (by decide +kernel) ?_
      assumption
    · assumption
  clear_value x2
  split
  · refine Only.step (raise_only 0x40 _ _ _ rfl rfl) (by decide +kernel) ?_
    assumption
  · refine Only.step (raise_only 0x50 _ _ _ rfl rfl) (by decide +kernel) ?_
    assumption

theorem dropMove_only : ∀ a0 s, Only [.range] [] s (dropMove a0 s) := by
  intro a0 s
  unfold dropMove
  extract_lets +onlyGivenNames x1
  refine Only.have_ (t := x1) ?_ fun hx1 => ?_
  · subst x1
    refine modRange_only (by first | exact fun r => id | (intro r h; simp only [Range.wf, Bool.and_eq_true] at h ⊢; first | exact h | exact ⟨swf_filter _ _ _ _ h.1, swf_filter _ _ _ _ h.2⟩)) (by decide +kernel) ?_
    exact Only.refl _ _ _
  clear_value x1
  extract_lets +onlyGivenNames x2
  clear_value x2
  refine Only.ite ?_ ?_
  · refine Only.step (setHome_only _ _ _) (by decide +kernel) ?_
    assumption
  · assumption

theorem stopRange_only : ∀ a0 s, Only [.range, .heldOut, .out] [(0x40, 0x18, 0x18), (0x50, 0x18, 0x18)] s (stopRange a0 s) := by
  intro a0 s
  unfold stopRange
  extract_lets +onlyGivenNames x1
  clear_value x1
  refine Only.foldl (fun s x => ?_) ?_
  · extract_lets +onlyGivenNames x2
    clear_value x2
    refine Only.ite ?_ ?_
    · exact Only.refl _ _ _
    · refine Only.step (rangeEnd_only _ _ _) (by decide +kernel) ?_
      refine Only.foldl (fun s x => ?_) ?_
      · refine Only.step (dropMove_only _ _) (by decide +kernel) ?_
        exact Only.refl _ _ _
      · exact Only.refl _ _ _
  · exact Only.refl _ _ _

theorem t2Frame_only : ∀ a0 s, Only [.range] [] s (t2Frame a0 s).2 := by
  intro a0 s
  unfold t2Frame
  extract_lets +onlyGivenNames x1
  clear_value x1
  refine Only.ite_snd ?_ ?_
  · refine Only.ite_snd ?_ ?_
    · refine Only.pair ?_
      exact Only.refl _ _ _
    · refine Only.ite_snd ?_ ?_
      · refine Only.pair ?_
        exact Only.refl _ _ _
      · refine Only.pair ?_
        refine modRange_only (by first | exact fun r => id | (intro r h; simp only [Range.wf, Bool.and_eq_true] at h ⊢; first | exact h | exact ⟨swf_filter _ _ _ _ h.1, swf_filter _ _ _ _ h.2⟩)) (by decide +kernel) ?_
        exact Only.refl _ _ _
  · refine Only.ite_snd ?_ ?_
    · refine Only.pair ?_
      refine modRange_only (by first | exact fun r => id | (intro r h; simp only [Range.wf, Bool.and_eq_true] at h ⊢; first | exact h | exact ⟨swf_filter _ _ _ _ h.1, swf_filter _ _ _ _ h.2⟩)) (by decide +kernel) ?_
      exact Only.refl _ _ _
    · refine Only.pair ?_
      exact Only.refl _ _ _

theorem t2Frame_only_eq : ∀ a0 s x t, t2Frame a0 s = (x, t) → Only [.range] [] s t := by
  intro a0 s x t h
  have := t2Frame_only a0 s
  rw [h] at this
  exact this

theorem startMove_only : ∀ a0 a1 a2 a3 a4 s, Only [.range] [] s (startMove a0 a1 a2 a3 a4 s).2 := by
  intro a0 a1 a2 a3 a4 s
  unfold startMove
  extract_lets +onlyGivenNames x1
  clear_value x1
  refine Only.ite_snd ?_ ?_
  · refine Only.pair ?_
    exact Only.refl _ _ _
  · split
    · refine Only.pair ?_
      exact Only.refl _ _ _
    · extract_lets +onlyGivenNames x2
      clear_value x2
      refine Only.pair ?_
      refine Only.step (setHome_only _ _ _) (by decide +kernel) ?_
      refine modRange_only (by first | exact fun r => id | (intro r h; simp only [Range.wf, Bool.and_eq_true] at h ⊢; first | exact h | exact ⟨swf_filter _ _ _ _ h.1, swf_filter _ _ _ _ h.2⟩)) (by decide +kernel) ?_
      exact Only.refl _ _ _

theorem startMove_only_eq : ∀ a0 a1 a2 a3 a4 s x t, startMove a0 a1 a2 a3 a4 s = (x, t) → Only [.range] [] s t := by
  intro a0 a1 a2 a3 a4 s x t h
  have := startMove_only a0 a1 a2 a3 a4 s
  rw [h] at this
  exact this

theorem tableFrames_only : ∀ a0 s, Only [.tiles, .range] [] s (tableFrames a0 s).2 := by
  intro a0 s
  unfold tableFrames
  extract_lets +onlyGivenNames x1
  clear_value x1
  split
  · refine Only.step (startMove_only _ _ _ _ _ _) (by decide +kernel) ?_
    exact Only.refl _ _ _
  · split
    · refine Only.pair ?_
      exact Only.refl _ _ _
    · refine Only.pair ?_
      refine Only.step (modTile_only _ _ _) (by decide +kernel) ?_
      exact Only.refl _ _ _

theorem tableFrames_only_eq : ∀ a0 s x t, tableFrames a0 s = (x, t) → Only [.tiles, .range] [] s t := by
  intro a0 s x t h
  have := tableFrames_only a0 s
  rw [h] at this
  exact this

theorem deniedCommand_only : ∀ a0 s, Only [.heldOut, .out] [(0x40, 0x18, 0x18)] s (deniedCommand a0 s) := by
  intro a0 s
  unfold deniedCommand
  refine Only.step (raise_only 0x40 _ _ _ rfl rfl) (by decide +kernel) ?_
  exact Only.refl _ _ _

theorem clearFlags_only : ∀ a0 s, Only [.range] [] s (clearFlags a0 s) := by
  intro a0 s
  unfold clearFlags
  refine modRange_only (by first | exact fun r => id | (intro r h; simp only [Range.wf, Bool.and_eq_true] at h ⊢; first | exact h | exact ⟨swf_filter _ _ _ _ h.1, swf_filter _ _ _ _ h.2⟩)) (by decide +kernel) ?_
  exact Only.refl _ _ _

theorem allocPage_only : ∀ a0 a1 s, Only [.range, .heldOut, .out] [(0x40, 0x18, 0x18)] s (allocPage a0 a1 s).2 := by
  intro a0 a1 s
  unfold allocPage
  extract_lets +onlyGivenNames x1
  clear_value x1
  refine Only.ite_snd ?_ ?_
  · refine Only.pair ?_
    refine Only.step (deniedCommand_only _ _) (by decide +kernel) ?_
    exact Only.refl _ _ _
  · refine Only.ite_snd ?_ ?_
    · refine Only.pair ?_
      exact Only.refl _ _ _
    · refine Only.ite_snd ?_ ?_
      · refine Only.pair ?_
        exact Only.refl _ _ _
      · extract_lets +onlyGivenNames x2
        clear_value x2
        extract_lets +onlyGivenNames x3
        clear_value x3
        extract_lets +onlyGivenNames x4
        clear_value x4
        split
        · refine Only.pair ?_
          exact Only.refl _ _ _
        · refine Only.pair ?_
          refine Only.step (setHome_only _ _ _) (by decide +kernel) ?_
          refine Only.step (clearFlags_only _ _) (by decide +kernel) ?_
          exact Only.refl _ _ _

theorem allocPage_only_eq : ∀ a0 a1 s x t, allocPage a0 a1 s = (x, t) → Only [.range, .heldOut, .out] [(0x40, 0x18, 0x18)] s t := by
  intro a0 a1 s x t h
  have := allocPage_only a0 a1 s
  rw [h] at this
  exact this

theorem freePage_only : ∀ a0 s, Only [.range] [] s (freePage a0 s).2 := by
  intro a0 s
  unfold freePage
  extract_lets +onlyGivenNames x1
  clear_value x1
  refine Only.ite_snd ?_ ?_
  · refine Only.pair ?_
    exact Only.refl _ _ _
  · refine Only.pair ?_
    refine modRange_only (by first | exact fun r => id | (intro r h; simp only [Range.wf, Bool.and_eq_true] at h ⊢; first | exact h | exact ⟨swf_filter _ _ _ _ h.1, swf_filter _ _ _ _ h.2⟩)) (by decide +kernel) ?_
    refine Only.step (setHome_only _ _ _) (by decide +kernel) ?_
    refine Only.step (clearFlags_only _ _) (by decide +kernel) ?_
    exact Only.refl _ _ _

theorem freePage_only_eq : ∀ a0 s x t, freePage a0 s = (x, t) → Only [.range] [] s t := by
  intro a0 s x t h
  have := freePage_only a0 s
  rw [h] at this
  exact this

theorem movePage_only : ∀ a0 a1 s, Only [.range] [] s (movePage a0 a1 s).2 := by
  intro a0 a1 s
  unfold movePage
  extract_lets +onlyGivenNames x1
  clear_value x1
  refine Only.ite_snd ?_ ?_
  · refine Only.pair ?_
    refine Only.step (setHome_only _ _ _) (by decide +kernel) ?_
    exact Only.refl _ _ _
  · refine Only.ite_snd ?_ ?_
    · refine Only.pair ?_
      exact Only.refl _ _ _
    · refine Only.step (startMove_only _ _ _ _ _ _) (by decide +kernel) ?_
      exact Only.refl _ _ _

theorem movePage_only_eq : ∀ a0 a1 s x t, movePage a0 a1 s = (x, t) → Only [.range] [] s t := by
  intro a0 a1 s x t h
  have := movePage_only a0 a1 s
  rw [h] at this
  exact this

theorem givePage_only : ∀ a0 a1 s, Only [.range, .heldOut, .out] [(0x40, 0x18, 0x18)] s (givePage a0 a1 s).2 := by
  intro a0 a1 s
  unfold givePage
  extract_lets +onlyGivenNames x1
  clear_value x1
  extract_lets +onlyGivenNames x2
  clear_value x2
  refine Only.ite_snd ?_ ?_
  · refine Only.pair ?_
    refine Only.step (deniedCommand_only _ _) (by decide +kernel) ?_
    exact Only.refl _ _ _
  · refine Only.pair ?_
    refine Only.step (setHome_only _ _ _) (by decide +kernel) ?_
    exact Only.refl _ _ _

theorem givePage_only_eq : ∀ a0 a1 s x t, givePage a0 a1 s = (x, t) → Only [.range, .heldOut, .out] [(0x40, 0x18, 0x18)] s t := by
  intro a0 a1 s x t h
  have := givePage_only a0 a1 s
  rw [h] at this
  exact this

theorem rangePage_only : ∀ a0 s, Only [.tiles, .range, .heldOut, .out] [(0x40, 0x18, 0x18)] s (rangePage a0 s).2 := by
  intro a0 s
  unfold rangePage
  extract_lets +onlyGivenNames x1
  clear_value x1
  extract_lets +onlyGivenNames x2
  clear_value x2
  extract_lets +onlyGivenNames x3
  clear_value x3
  refine Only.ite_snd ?_ ?_
  · refine Only.ite_snd ?_ ?_
    · refine Only.step (t2Frame_only _ _) (by decide +kernel) ?_
      exact Only.refl _ _ _
    · refine Only.pair ?_
      exact Only.refl _ _ _
  · refine Only.ite_snd ?_ ?_
    · refine Only.ite_snd ?_ ?_
      · refine Only.step (tableFrames_only _ _) (by decide +kernel) ?_
        exact Only.refl _ _ _
      · refine Only.pair ?_
        exact Only.refl _ _ _
    · refine Only.ite_snd ?_ ?_
      · refine Only.step (allocPage_only _ _ _) (by decide +kernel) ?_
        exact Only.refl _ _ _
      · refine Only.ite_snd ?_ ?_
        · refine Only.pair ?_
          exact Only.refl _ _ _
        · refine Only.ite_snd ?_ ?_
          · refine Only.pair ?_
            refine Only.step (deniedCommand_only _ _) (by decide +kernel) ?_
            exact Only.refl _ _ _
          · refine Only.ite_snd ?_ ?_
            · refine Only.step (freePage_only _ _) (by decide +kernel) ?_
              exact Only.refl _ _ _
            · refine Only.ite_snd ?_ ?_
              · refine Only.step (movePage_only _ _ _) (by decide +kernel) ?_
                exact Only.refl _ _ _
              · refine Only.ite_snd ?_ ?_
                · refine Only.step (givePage_only _ _ _) (by decide +kernel) ?_
                  exact Only.refl _ _ _
                · refine Only.pair ?_
                  exact Only.refl _ _ _

theorem rangePage_only_eq : ∀ a0 s x t, rangePage a0 s = (x, t) → Only [.tiles, .range, .heldOut, .out] [(0x40, 0x18, 0x18)] s t := by
  intro a0 s x t h
  have := rangePage_only a0 s
  rw [h] at this
  exact this

theorem setRangeCmd_only : ∀ a0 s, Only [.range] [] s (setRangeCmd a0 s) := by
  intro a0 s
  unfold setRangeCmd
  refine modRange_only (by first | exact fun r => id | (intro r h; simp only [Range.wf, Bool.and_eq_true] at h ⊢; first | exact h | exact ⟨swf_filter _ _ _ _ h.1, swf_filter _ _ _ _ h.2⟩)) (by decide +kernel) ?_
  exact Only.refl _ _ _

theorem pageDone_only : ∀ a0 s, Only [.range] [] s (pageDone a0 s) := by
  intro a0 s
  unfold pageDone
  extract_lets +onlyGivenNames x1
  clear_value x1
  refine Only.step (setRangeCmd_only _ _) (by decide +kernel) ?_
  exact Only.refl _ _ _

theorem runRange_only : ∀ a0 a1 s, Only [.tiles, .range, .heldOut, .out] [(0x40, 0x18, 0x18), (0x50, 0x18, 0x18)] s (runRange a0 a1 s) := by
  intro a0 a1 s
  induction a0 generalizing a1 s with
  | zero =>
    unfold runRange
    exact Only.refl _ _ _
  | succ n ih =>
    unfold runRange
    split
    · exact Only.refl _ _ _
    · refine Only.ite ?_ ?_
      · refine Only.step (rangeEnd_only _ _ _) (by decide +kernel) ?_
        exact Only.refl _ _ _
      · refine Only.ite ?_ ?_
        · refine Only.step (rangeEnd_only _ _ _) (by decide +kernel) ?_
          exact Only.refl _ _ _
        · split
          · refine Only.trans ?_ (ih ..)
            refine Only.step (pageDone_only _ _) (by decide +kernel) ?_
            refine Only.step (rangePage_only_eq _ _ _ _ ‹_›) (by decide +kernel) ?_
            exact Only.refl _ _ _
          · refine Only.step (rangeEnd_only _ _ _) (by decide +kernel) ?_
            refine Only.step (rangePage_only_eq _ _ _ _ ‹_›) (by decide +kernel) ?_
            exact Only.refl _ _ _
          · refine Only.step (rangePage_only_eq _ _ _ _ ‹_›) (by decide +kernel) ?_
            exact Only.refl _ _ _

theorem kickRange_only : ∀ s, Only [.tiles, .range, .heldOut, .out] [(0x40, 0x18, 0x18), (0x50, 0x18, 0x18)] s (kickRange s) := by
  intro s
  unfold kickRange
  refine Only.foldl (fun s x => ?_) ?_
  · split
    · exact Only.refl _ _ _
    · refine Only.ite ?_ ?_
      · refine Only.step (runRange_only _ _ _) (by decide +kernel) ?_
        exact Only.refl _ _ _
      · exact Only.refl _ _ _
  · exact Only.refl _ _ _

theorem fenceRange_only : ∀ a0 s, Only [.tiles, .range, .heldOut, .out] [(0x40, 0x18, 0x18), (0x50, 0x18, 0x18)] s (fenceRange a0 s) := by
  intro a0 s
  unfold fenceRange
  extract_lets +onlyGivenNames x1
  refine Only.have_ (t := x1) ?_ fun hx1 => ?_
  · subst x1
    refine Only.foldl (fun s x => ?_) ?_
    · extract_lets +onlyGivenNames x2
      clear_value x2
      extract_lets +onlyGivenNames x3
      refine Only.have_ (t := x3) ?_ fun hx3 => ?_
      · subst x3
        refine Only.ite ?_ ?_
        · refine Only.step (setHome_only _ _ _) (by decide +kernel) ?_
          exact Only.refl _ _ _
        · exact Only.refl _ _ _
      clear_value x3
      refine Only.step (dropMove_only _ _) (by decide +kernel) ?_
      assumption
    · exact Only.refl _ _ _
  clear_value x1
  refine Only.step (kickRange_only _) (by decide +kernel) ?_
  refine Only.foldl (fun s x => ?_) ?_
  · refine Only.step (rangeEnd_only _ _ _) (by decide +kernel) ?_
    exact Only.refl _ _ _
  · assumption

theorem queueRange_only : ∀ a0 a1 a2 s, Only [.tiles, .range, .heldOut, .out] [(0x40, 0x18, 0x18), (0x50, 0x18, 0x18)] s (queueRange a0 a1 a2 s) := by
  intro a0 a1 a2 s
  unfold queueRange
  extract_lets +onlyGivenNames x1
  clear_value x1
  extract_lets +onlyGivenNames x2
  clear_value x2
  extract_lets +onlyGivenNames x3
  refine Only.have_ (t := x3) ?_ fun hx3 => ?_
  · subst x3
    refine modRange_only (by first | exact fun r => id | (intro r h; simp only [Range.wf, Bool.and_eq_true] at h ⊢; first | exact h | exact ⟨swf_filter _ _ _ _ h.1, swf_filter _ _ _ _ h.2⟩)) (by decide +kernel) ?_
    exact Only.refl _ _ _
  clear_value x3
  refine Only.ite ?_ ?_
  · refine Only.step (rangeEnd_only _ _ _) (by decide +kernel) ?_
    assumption
  · refine Only.ite ?_ ?_
    · refine Only.step (rangeEnd_only _ _ _) (by decide +kernel) ?_
      assumption
    · split
      · refine Only.step (runRange_only _ _ _) (by decide +kernel) ?_
        assumption
      · assumption
      · refine Only.step (rangeEnd_only _ _ _) (by decide +kernel) ?_
        assumption

theorem postRange_only : ∀ a0 a1 a2 a3 s, Only [.staleMid, .tiles, .range, .heldOut, .out] [(0x10, 0x880, 0x880), (0x40, 0x18, 0x18), (0x40, 0x2c, 0x2c), (0x40, 0x180, 0x19c), (0x50, 0x18, 0x18), (0x50, 0x2c, 0x2c), (0x50, 0x200, 0x21c), (0xb0, 0x18, 0x18), (0xb0, 0x110, 0x110), (0xb0, 0x114, 0x114), (0xb0, 0x118, 0x118), (0xb0, 0x11c, 0x11c)] s (postRange a0 a1 a2 a3 s) := by
  intro a0 a1 a2 a3 s
  unfold postRange
  split
  · refine guarded_only 0x40 rfl rfl (by decide +kernel) (fun s => ?_) ?_
    · extract_lets +onlyGivenNames x1
      refine Only.have_ (t := x1) ?_ fun hx1 => ?_
      · subst x1
        refine Only.step (storeCmd_only 0x40 0x180 _ _ _ _ rfl rfl rfl) (by decide +kernel) ?_
        exact Only.refl _ _ _
      clear_value x1
      refine Only.ite ?_ ?_
      · refine Only.step (raise_only 0x40 _ _ _ rfl rfl) (by decide +kernel) ?_
        assumption
      · refine Only.step (queueRange_only _ _ _ _) (by decide +kernel) ?_
        assumption
    · exact Only.refl _ _ _
  · refine guarded_only 0x50 rfl rfl (by decide +kernel) (fun s => ?_) ?_
    · extract_lets +onlyGivenNames x2
      refine Only.have_ (t := x2) ?_ fun hx2 => ?_
      · subst x2
        refine Only.step (storeCmd_only 0x50 0x200 _ _ _ _ rfl rfl rfl) (by decide +kernel) ?_
        exact Only.refl _ _ _
      clear_value x2
      refine Only.ite ?_ ?_
      · refine Only.step (raise_only 0x50 _ _ _ rfl rfl) (by decide +kernel) ?_
        assumption
      · refine Only.step (queueRange_only _ _ _ _) (by decide +kernel) ?_
        assumption
    · exact Only.refl _ _ _

theorem popRange_only : ∀ a0 s, Only [.range] [] s (popRange a0 s) := by
  intro a0 s
  unfold popRange
  refine modRange_only (by first | exact fun r => id | (intro r h; simp only [Range.wf, Bool.and_eq_true] at h ⊢; first | exact h | exact ⟨swf_filter _ _ _ _ h.1, swf_filter _ _ _ _ h.2⟩)) (by decide +kernel) ?_
  exact Only.refl _ _ _

theorem rangeRow_only : ∀ a0 a1 a2 a3 a4 s, Only [.staleMid, .tiles, .range, .heldOut, .out] [(0x10, 0x880, 0x880), (0x40, 0x18, 0x18), (0x40, 0x2c, 0x2c), (0x40, 0x180, 0x19c), (0x50, 0x18, 0x18), (0x50, 0x2c, 0x2c), (0x50, 0x200, 0x21c), (0xb0, 0x18, 0x18), (0xb0, 0x110, 0x110), (0xb0, 0x114, 0x114), (0xb0, 0x118, 0x118), (0xb0, 0x11c, 0x11c)] s (rangeRow a0 a1 a2 a3 a4 s) := by
  intro a0 a1 a2 a3 a4 s
  unfold rangeRow
  refine Only.ite ?_ ?_
  · refine Only.step (postRange_only _ _ _ _ _) (by decide +kernel) ?_
    exact Only.refl _ _ _
  · exact Only.refl _ _ _

theorem execAlloc_gives : ∀ a0 a1 a2 a3 s, Gives [.staleMid, .tiles, .range, .heldOut, .out] [(0x10, 0x880, 0x880), (0x40, 0x18, 0x18), (0x40, 0x2c, 0x2c), (0x40, 0x180, 0x19c), (0x50, 0x18, 0x18), (0x50, 0x2c, 0x2c), (0x50, 0x200, 0x21c), (0xb0, 0x18, 0x18), (0xb0, 0x110, 0x110), (0xb0, 0x114, 0x114), (0xb0, 0x118, 0x118), (0xb0, 0x11c, 0x11c)] s (execAlloc a0 a1 a2 a3 s) := by
  intro a0 a1 a2 a3 s
  unfold execAlloc
  refine Gives.next ?_
  refine Only.step (rangeRow_only _ _ _ _ _ _) (by decide +kernel) ?_
  exact Only.refl _ _ _

theorem execFree_gives : ∀ a0 a1 a2 a3 s, Gives [.staleMid, .tiles, .range, .heldOut, .out] [(0x10, 0x880, 0x880), (0x40, 0x18, 0x18), (0x40, 0x2c, 0x2c), (0x40, 0x180, 0x19c), (0x50, 0x18, 0x18), (0x50, 0x2c, 0x2c), (0x50, 0x200, 0x21c), (0xb0, 0x18, 0x18), (0xb0, 0x110, 0x110), (0xb0, 0x114, 0x114), (0xb0, 0x118, 0x118), (0xb0, 0x11c, 0x11c)] s (execFree a0 a1 a2 a3 s) := by
  intro a0 a1 a2 a3 s
  unfold execFree
  refine Gives.next ?_
  refine Only.step (rangeRow_only _ _ _ _ _ _) (by decide +kernel) ?_
  exact Only.refl _ _ _

theorem execMove_gives : ∀ a0 a1 a2 a3 s, Gives [.staleMid, .tiles, .range, .heldOut, .out] [(0x10, 0x880, 0x880), (0x40, 0x18, 0x18), (0x40, 0x2c, 0x2c), (0x40, 0x180, 0x19c), (0x50, 0x18, 0x18), (0x50, 0x2c, 0x2c), (0x50, 0x200, 0x21c), (0xb0, 0x18, 0x18), (0xb0, 0x110, 0x110), (0xb0, 0x114, 0x114), (0xb0, 0x118, 0x118), (0xb0, 0x11c, 0x11c)] s (execMove a0 a1 a2 a3 s) := by
  intro a0 a1 a2 a3 s
  unfold execMove
  refine Gives.next ?_
  refine Only.step (rangeRow_only _ _ _ _ _ _) (by decide +kernel) ?_
  exact Only.refl _ _ _

theorem execGive_gives : ∀ a0 a1 a2 a3 s, Gives [.staleMid, .tiles, .range, .heldOut, .out] [(0x10, 0x880, 0x880), (0x40, 0x18, 0x18), (0x40, 0x2c, 0x2c), (0x40, 0x180, 0x19c), (0x50, 0x18, 0x18), (0x50, 0x2c, 0x2c), (0x50, 0x200, 0x21c), (0xb0, 0x18, 0x18), (0xb0, 0x110, 0x110), (0xb0, 0x114, 0x114), (0xb0, 0x118, 0x118), (0xb0, 0x11c, 0x11c)] s (execGive a0 a1 a2 a3 s) := by
  intro a0 a1 a2 a3 s
  unfold execGive
  refine Gives.next ?_
  refine Only.step (rangeRow_only _ _ _ _ _ _) (by decide +kernel) ?_
  exact Only.refl _ _ _

theorem execQuery_gives : ∀ a0 a1 a2 a3 s, Gives [.staleMid, .tiles, .range, .heldOut, .out] [(0x10, 0x880, 0x880), (0x40, 0x18, 0x18), (0x40, 0x2c, 0x2c), (0x40, 0x180, 0x19c), (0x50, 0x18, 0x18), (0x50, 0x2c, 0x2c), (0x50, 0x200, 0x21c), (0xb0, 0x18, 0x18), (0xb0, 0x110, 0x110), (0xb0, 0x114, 0x114), (0xb0, 0x118, 0x118), (0xb0, 0x11c, 0x11c)] s (execQuery a0 a1 a2 a3 s) := by
  intro a0 a1 a2 a3 s
  unfold execQuery
  refine Gives.next ?_
  refine Only.step (rangeRow_only _ _ _ _ _ _) (by decide +kernel) ?_
  exact Only.refl _ _ _

theorem execT2Register_gives : ∀ a0 a1 a2 a3 s, Gives [.staleMid, .tiles, .range, .heldOut, .out] [(0x10, 0x880, 0x880), (0x40, 0x18, 0x18), (0x40, 0x2c, 0x2c), (0x40, 0x180, 0x19c), (0x50, 0x18, 0x18), (0x50, 0x2c, 0x2c), (0x50, 0x200, 0x21c), (0xb0, 0x18, 0x18), (0xb0, 0x110, 0x110), (0xb0, 0x114, 0x114), (0xb0, 0x118, 0x118), (0xb0, 0x11c, 0x11c)] s (execT2Register a0 a1 a2 a3 s) := by
  intro a0 a1 a2 a3 s
  unfold execT2Register
  refine Gives.next ?_
  refine Only.step (rangeRow_only _ _ _ _ _ _) (by decide +kernel) ?_
  exact Only.refl _ _ _

theorem execT2Release_gives : ∀ a0 a1 a2 a3 s, Gives [.staleMid, .tiles, .range, .heldOut, .out] [(0x10, 0x880, 0x880), (0x40, 0x18, 0x18), (0x40, 0x2c, 0x2c), (0x40, 0x180, 0x19c), (0x50, 0x18, 0x18), (0x50, 0x2c, 0x2c), (0x50, 0x200, 0x21c), (0xb0, 0x18, 0x18), (0xb0, 0x110, 0x110), (0xb0, 0x114, 0x114), (0xb0, 0x118, 0x118), (0xb0, 0x11c, 0x11c)] s (execT2Release a0 a1 a2 a3 s) := by
  intro a0 a1 a2 a3 s
  unfold execT2Release
  refine Gives.next ?_
  refine Only.step (rangeRow_only _ _ _ _ _ _) (by decide +kernel) ?_
  exact Only.refl _ _ _

theorem execSetTableFrames_gives : ∀ a0 a1 a2 a3 s, Gives [.staleMid, .tiles, .range, .heldOut, .out] [(0x10, 0x880, 0x880), (0x40, 0x18, 0x18), (0x40, 0x2c, 0x2c), (0x40, 0x180, 0x19c), (0x50, 0x18, 0x18), (0x50, 0x2c, 0x2c), (0x50, 0x200, 0x21c), (0xb0, 0x18, 0x18), (0xb0, 0x110, 0x110), (0xb0, 0x114, 0x114), (0xb0, 0x118, 0x118), (0xb0, 0x11c, 0x11c)] s (execSetTableFrames a0 a1 a2 a3 s) := by
  intro a0 a1 a2 a3 s
  unfold execSetTableFrames
  refine Gives.next ?_
  refine Only.step (rangeRow_only _ _ _ _ _ _) (by decide +kernel) ?_
  exact Only.refl _ _ _

theorem execRangeStatusPop_gives : ∀ a0 a1 s, Gives [.range, .ring, .heldOut, .out] [(0x70, 0x18, 0x18), (0x70, 0x10c, 0x10c), (0x71, 0x18, 0x18), (0x71, 0x11c, 0x11c)] s (execRangeStatusPop a0 a1 s) := by
  intro a0 a1 s
  unfold execRangeStatusPop
  extract_lets +onlyGivenNames x1
  extract_lets +onlyGivenNames x2
  clear_value x2
  refine Gives.ite ?_ ?_
  · refine Gives.next ?_
    refine Only.step (emit_only _ _) (by decide +kernel) ?_
    exact Only.refl _ _ _
  · refine Gives.next ?_
    refine Only.step (popRange_only _ _) (by decide +kernel) ?_
    refine Only.step (emit_only _ _) (by decide +kernel) ?_
    exact Only.refl _ _ _

theorem setMove_only : ∀ a0 s, Only [.range] [] s (setMove a0 s) := by
  intro a0 s
  unfold setMove
  refine modRange_only (by first | exact fun r => id | (intro r h; simp only [Range.wf, Bool.and_eq_true] at h ⊢; first | exact h | exact ⟨swf_filter _ _ _ _ h.1, swf_filter _ _ _ _ h.2⟩)) (by decide +kernel) ?_
  exact Only.refl _ _ _

theorem writeFrame_only : ∀ a0 a1 s, Only [.ring, .heldOut, .out] [(0x70, 0x18, 0x18), (0x70, 0x10c, 0x10c), (0x71, 0x18, 0x18), (0x71, 0x11c, 0x11c)] s (writeFrame a0 a1 s) := by
  intro a0 a1 s
  unfold writeFrame
  refine Only.ite ?_ ?_
  · extract_lets +onlyGivenNames x1
    clear_value x1
    extract_lets +onlyGivenNames x2
    extract_lets +onlyGivenNames x3
    refine Only.haveFn (P := fun x => ∀ y3_0 y3_1, Only [.ring, .heldOut, .out] [(0x70, 0x18, 0x18), (0x70, 0x10c, 0x10c), (0x71, 0x18, 0x18), (0x71, 0x11c, 0x11c)] y3_0 (x y3_0 y3_1)) (t := x3) ?_ fun hx3 => ?_
    · intro y3_0 y3_1
      subst x3
      dsimp -zeta only
      extract_lets +onlyGivenNames x4
      clear_value x4
      extract_lets +onlyGivenNames x5
      clear_value x5
      extract_lets +onlyGivenNames x6
      refine Only.have_ (t := x6) ?_ fun hx6 => ?_
      · subst x6
        refine Only.step (emit_only _ _) (by decide +kernel) ?_
        exact Only.refl _ _ _
      clear_value x6
      refine Only.ite ?_ ?_
      · refine Only.step (raise_only 0x70 _ _ _ rfl rfl) (by decide +kernel) ?_
        refine Only.step (wrapInc_only 0x70 0x10c _ _ _ _ rfl rfl rfl rfl) (by decide +kernel) ?_
        assumption
      · assumption
    clear_value x3
    refine Only.foldl (fun s x => ?_) ?_
    · refine Only.trans ?_ (hx3 ..)
      exact Only.refl _ _ _
    · exact Only.refl _ _ _
  · exact Only.refl _ _ _

theorem execMoveCopyRoundEnd_gives : ∀ a0 s, Gives [.range, .ring, .heldOut, .out] [(0x70, 0x18, 0x18), (0x70, 0x10c, 0x10c), (0x71, 0x18, 0x18), (0x71, 0x11c, 0x11c)] s (execMoveCopyRoundEnd a0 s) := by
  intro a0 s
  unfold execMoveCopyRoundEnd
  split
  · refine Gives.next ?_
    exact Only.refl _ _ _
  · refine Gives.ite ?_ ?_
    · refine Gives.next ?_
      exact Only.refl _ _ _
    · extract_lets +onlyGivenNames x1
      refine Gives.have_ (t := x1) ?_ fun hx1 => ?_
      · subst x1
        refine Only.ite ?_ ?_
        · refine Only.step (writeFrame_only _ _ _) (by decide +kernel) ?_
          exact Only.refl _ _ _
        · exact Only.refl _ _ _
      clear_value x1
      extract_lets +onlyGivenNames x2
      refine Gives.ite ?_ ?_
      · refine Gives.next ?_
        refine Only.step (setMove_only _ _) (by decide +kernel) ?_
        refine Only.step (writeFrame_only _ _ _) (by decide +kernel) ?_
        assumption
      · refine Gives.next ?_
        refine Only.step (setMove_only _ _) (by decide +kernel) ?_
        assumption

theorem moveLost_only : ∀ a0 s, Only [.tiles, .range, .heldOut, .out] [(0x40, 0x18, 0x18), (0x40, 0x114, 0x114), (0x50, 0x18, 0x18)] s (moveLost a0 s) := by
  intro a0 s
  unfold moveLost
  extract_lets +onlyGivenNames x1
  extract_lets +onlyGivenNames x2
  refine Only.have_ (t := x2) ?_ fun hx2 => ?_
  · subst x2
    refine Only.step (raise_only 0x40 _ _ _ rfl rfl) (by decide +kernel) ?_
    refine Only.step (satInc_only 0x40 0x114 _ _ _ _ rfl rfl rfl rfl) (by decide +kernel) ?_
    refine Only.step (dropMove_only _ _) (by decide +kernel) ?_
    exact Only.refl _ _ _
  clear_value x2
  split
  · assumption
  · extract_lets +onlyGivenNames x3
    clear_value x3
    extract_lets +onlyGivenNames x4
    clear_value x4
    refine Only.ite ?_ ?_
    · refine Only.ite ?_ ?_
      · refine Only.step (runRange_only _ _ _) (by decide +kernel) ?_
        assumption
      · refine Only.step (rangeEnd_only _ _ _) (by decide +kernel) ?_
        assumption
    · refine Only.ite ?_ ?_
      · refine Only.step (runRange_only _ _ _) (by decide +kernel) ?_
        assumption
      · refine Only.ite ?_ ?_
        · refine Only.step (runRange_only _ _ _) (by decide +kernel) ?_
          refine Only.step (pageDone_only _ _) (by decide +kernel) ?_
          assumption
        · refine Only.ite ?_ ?_
          · refine Only.step (rangeEnd_only _ _ _) (by decide +kernel) ?_
            refine Only.step (satInc_only 0x40 0x114 _ _ _ _ rfl rfl rfl rfl) (by decide +kernel) ?_
            assumption
          · refine Only.step (runRange_only _ _ _) (by decide +kernel) ?_
            refine Only.step (setRangeCmd_only _ _) (by decide +kernel) ?_
            assumption

theorem execMoveCommit_gives : ∀ a0 s, Gives [.tiles, .range, .heldOut, .out] [(0x40, 0x18, 0x18), (0x40, 0x114, 0x114), (0x50, 0x18, 0x18)] s (execMoveCommit a0 s) := by
  intro a0 s
  unfold execMoveCommit
  split
  · refine Gives.next ?_
    exact Only.refl _ _ _
  · extract_lets +onlyGivenNames x1
    clear_value x1
    refine Gives.ite ?_ ?_
    · refine Gives.next ?_
      exact Only.refl _ _ _
    · refine Gives.ite ?_ ?_
      · refine Gives.next ?_
        refine Only.step (kickRange_only _) (by decide +kernel) ?_
        refine Only.step (moveLost_only _ _) (by decide +kernel) ?_
        exact Only.refl _ _ _
      · refine Gives.next ?_
        refine Only.step (setMove_only _ _) (by decide +kernel) ?_
        refine modRange_only (by first | exact fun r => id | (intro r h; simp only [Range.wf, Bool.and_eq_true] at h ⊢; first | exact h | exact ⟨swf_filter _ _ _ _ h.1, swf_filter _ _ _ _ h.2⟩)) (by decide +kernel) ?_
        refine Only.step (setHome_only _ _ _) (by decide +kernel) ?_
        exact Only.refl _ _ _

theorem moveApply_only : ∀ a0 a1 s, Only [.tiles, .range, .ring, .heldOut, .out] [(0x40, 0x18, 0x18), (0x40, 0x110, 0x110), (0x40, 0x118, 0x118), (0x40, 0x130, 0x130), (0x50, 0x18, 0x18), (0x70, 0x18, 0x18), (0x70, 0x10c, 0x10c), (0x71, 0x18, 0x18), (0x71, 0x11c, 0x11c)] s (moveApply a0 a1 s) := by
  intro a0 a1 s
  unfold moveApply
  extract_lets +onlyGivenNames x1
  clear_value x1
  extract_lets +onlyGivenNames x2
  refine Only.have_ (t := x2) ?_ fun hx2 => ?_
  · subst x2
    refine Only.step (writeFrame_only _ _ _) (by decide +kernel) ?_
    exact Only.refl _ _ _
  clear_value x2
  extract_lets +onlyGivenNames x3
  refine Only.have_ (t := x3) ?_ fun hx3 => ?_
  · subst x3
    refine Only.ite ?_ ?_
    · refine Only.step (poisonExtent_only _ _ _) (by decide +kernel) ?_
      assumption
    · assumption
  clear_value x3
  extract_lets +onlyGivenNames x4
  clear_value x4
  extract_lets +onlyGivenNames x5
  refine Only.have_ (t := x5) ?_ fun hx5 => ?_
  · subst x5
    refine modRange_only (by first | exact fun r => id | (intro r h; simp only [Range.wf, Bool.and_eq_true] at h ⊢; first | exact h | exact ⟨swf_filter _ _ _ _ h.1, swf_filter _ _ _ _ h.2⟩)) (by decide +kernel) ?_
    assumption
  clear_value x5
  extract_lets +onlyGivenNames x6
  refine Only.have_ (t := x6) ?_ fun hx6 => ?_
  · subst x6
    refine modRange_only (by first | exact fun r => id | (intro r h; simp only [Range.wf, Bool.and_eq_true] at h ⊢; first | exact h | exact ⟨swf_filter _ _ _ _ h.1, swf_filter _ _ _ _ h.2⟩)) (by decide +kernel) ?_
    assumption
  clear_value x6
  extract_lets +onlyGivenNames x7
  refine Only.have_ (t := x7) ?_ fun hx7 => ?_
  · subst x7
    refine Only.step (setHome_only _ _ _) (by decide +kernel) ?_
    assumption
  clear_value x7
  extract_lets +onlyGivenNames x8
  extract_lets +onlyGivenNames x9
  refine Only.have_ (t := x9) ?_ fun hx9 => ?_
  · subst x9
    refine Only.step (wrapInc_only 0x40 0x110 _ _ _ _ rfl rfl rfl rfl) (by decide +kernel) ?_
    assumption
  clear_value x9
  extract_lets +onlyGivenNames x10
  refine Only.have_ (t := x10) ?_ fun hx10 => ?_
  · subst x10
    refine Only.ite ?_ ?_
    · refine Only.step (fset_only 0x40 0x118 _ _ _ _ rfl rfl rfl) (by decide +kernel) ?_
      assumption
    · assumption
  clear_value x10
  split
  · assumption
  · extract_lets +onlyGivenNames x11
    clear_value x11
    refine Only.ite ?_ ?_
    · refine Only.step (runRange_only _ _ _) (by decide +kernel) ?_
      refine Only.step (setRangeCmd_only _ _) (by decide +kernel) ?_
      assumption
    · refine Only.step (runRange_only _ _ _) (by decide +kernel) ?_
      refine Only.step (pageDone_only _ _) (by decide +kernel) ?_
      assumption

theorem execMoveDrainEnd_gives : ∀ a0 a1 s, Gives [.tiles, .range, .ring, .heldOut, .out] [(0x40, 0x18, 0x18), (0x40, 0x110, 0x110), (0x40, 0x118, 0x118), (0x40, 0x130, 0x130), (0x50, 0x18, 0x18), (0x70, 0x18, 0x18), (0x70, 0x10c, 0x10c), (0x71, 0x18, 0x18), (0x71, 0x11c, 0x11c)] s (execMoveDrainEnd a0 a1 s) := by
  intro a0 a1 s
  unfold execMoveDrainEnd
  split
  · refine Gives.next ?_
    exact Only.refl _ _ _
  · refine Gives.ite ?_ ?_
    · refine Gives.next ?_
      refine Only.step (kickRange_only _) (by decide +kernel) ?_
      refine Only.step (moveApply_only _ _ _) (by decide +kernel) ?_
      exact Only.refl _ _ _
    · refine Gives.next ?_
      exact Only.refl _ _ _

theorem execTranslatorMiss_gives : ∀ a0 a1 s, Gives [.range] [] s (execTranslatorMiss a0 a1 s) := by
  intro a0 a1 s
  unfold execTranslatorMiss
  extract_lets +onlyGivenNames x1
  clear_value x1
  refine Gives.ite ?_ ?_
  · refine Gives.next ?_
    exact Only.refl _ _ _
  · refine Gives.next ?_
    refine modRange_only (by first | exact fun r => id | (intro r h; simp only [Range.wf, Bool.and_eq_true] at h ⊢; first | exact h | exact ⟨swf_filter _ _ _ _ h.1, swf_filter _ _ _ _ h.2⟩)) (by decide +kernel) ?_
    exact Only.refl _ _ _

theorem execT2ReadError_gives : ∀ a0 a1 s, Gives [.range] [(0x40, 0x130, 0x130)] s (execT2ReadError a0 a1 s) := by
  intro a0 a1 s
  unfold execT2ReadError
  extract_lets +onlyGivenNames x1
  clear_value x1
  refine Gives.ite ?_ ?_
  · refine Gives.next ?_
    refine Only.step (poisonExtent_only _ _ _) (by decide +kernel) ?_
    exact Only.refl _ _ _
  · refine Gives.next ?_
    exact Only.refl _ _ _


end Sys2Proof.Machine
end

