-- ==== Sys2Proof/Laws/OnlyImage.lean ====
section
/-! SUPPORT. What the operations and the meanings of Machine/Image.lean can change (`Only`, `Gives`): the parts of the state and the
registers, whatever the operands are. -/

namespace Sys2Proof.Machine

set_option linter.unusedSimpArgs false
set_option maxRecDepth 20000
set_option Elab.async false

theorem raiseCcs_only : ∀ a0 s, Only [.heldOut, .out] [(0x10, 0x18, 0x18)] s (raiseCcs a0 s) := by
  intro a0 s
  unfold raiseCcs
  extract_lets +onlyGivenNames x1
  refine Only.haveFn (P := fun x => ∀ y1_0 y1_1, Only [.heldOut, .out] [(0x10, 0x18, 0x18)] y1_1 (x y1_0 y1_1)) (t := x1) ?_ fun hx1 => ?_
  · intro y1_0 y1_1
    subst x1
    dsimp -zeta only
    refine Only.ite ?_ ?_
    · refine Only.step (raise_only 0x10 _ _ _ rfl rfl) (by decide +kernel) ?_
      exact Only.refl _ _ _
    · exact Only.refl _ _ _
  clear_value x1
  refine Only.trans ?_ (hx1 ..)
  refine Only.trans ?_ (hx1 ..)
  exact Only.refl _ _ _

theorem modHandle_only : ∀ a0 a1 s, Only [.handles] [] s (modHandle a0 a1 s) := by
  intro a0 a1 s
  unfold modHandle
  refine Only.set_handles (by decide +kernel) ?_
  exact Only.refl _ _ _

theorem setVersion_only : ∀ a0 s, Only [.versions] [] s (setVersion a0 s) := by
  intro a0 s
  unfold setVersion
  refine Only.set_versions (by decide +kernel) ?_
  exact Only.refl _ _ _

theorem setState_only : ∀ a0 a1 s, Only [.versions, .heldOut, .out] [(0x10, 0x18, 0x18)] s (setState a0 a1 s) := by
  intro a0 a1 s
  unfold setState
  extract_lets +onlyGivenNames x1
  clear_value x1
  refine Only.step (raiseCcs_only _ _) (by decide +kernel) ?_
  refine Only.step (setVersion_only _ _) (by decide +kernel) ?_
  exact Only.refl _ _ _


end Sys2Proof.Machine
end

