-- ==== Sys2Proof/Laws/OnlyEthernet.lean ====
section
/-! SUPPORT. What the operations and the meanings of Machine/Ethernet.lean can change (`Only`, `Gives`): the parts of the state and the
registers, whatever the operands are. -/

namespace Sys2Proof.Machine

set_option linter.unusedSimpArgs false
set_option maxRecDepth 20000
set_option Elab.async false

theorem startReads_only : ∀ a0 s, Only [.ring, .qps, .heldOut, .out] [(0x70, 0x18, 0x18), (0x70, 0x10c, 0x10c), (0x71, 0x18, 0x18), (0x71, 0x11c, 0x11c)] s (startReads a0 s) := by
  intro a0 s
  unfold startReads
  refine Only.ite ?_ ?_
  · exact Only.refl _ _ _
  · refine Only.foldl (fun s x => ?_) ?_
    · extract_lets +onlyGivenNames x1
      clear_value x1
      refine Only.step (emit_only _ _) (by decide +kernel) ?_
      refine Only.set_qps (by decide +kernel) ?_
      exact Only.refl _ _ _
    · exact Only.refl _ _ _

theorem setQp_only : ∀ a0 s, Only [.qps] [] s (setQp a0 s) := by
  intro a0 s
  unfold setQp
  refine Only.set_qps (by decide +kernel) ?_
  exact Only.refl _ _ _

theorem onQp_only {m : List Fld} {r : List RegSpan} {port qpn : Nat} {f : Qp → State → State} {s u : State}
    (hf : ∀ q s, Only m r s (f q s)) (h : Only m r u s) : Only m r u (onQp port qpn f s) := by
  unfold onQp
  split
  · exact h
  split
  · exact h.trans (hf _ _)
  · exact h

theorem landPayload_only : ∀ a0 a1 s, Only [.qps] [(0x72, 0x14c, 0x14c)] s (landPayload a0 a1 s) := by
  intro a0 a1 s
  unfold landPayload
  extract_lets +onlyGivenNames x1
  clear_value x1
  extract_lets +onlyGivenNames x2
  refine Only.have_ (t := x2) ?_ fun hx2 => ?_
  · subst x2
    refine Only.step (wrapInc_only 0x72 0x14c _ _ _ _ rfl rfl rfl rfl) (by decide +kernel) ?_
    exact Only.refl _ _ _
  clear_value x2
  refine Only.step (setQp_only _ _) (by decide +kernel) ?_
  assumption

theorem execRdmaReadResponse_gives : ∀ a0 a1 a2 a3 s, Gives [.qps] [(0x72, 0x14c, 0x14c)] s (execRdmaReadResponse a0 a1 a2 a3 s) := by
  intro a0 a1 a2 a3 s
  unfold execRdmaReadResponse
  refine Gives.next ?_
  refine onQp_only (fun q s => ?_) ?_
  · refine Only.ite ?_ ?_
    · refine Only.step (landPayload_only _ _ _) (by decide +kernel) ?_
      exact Only.refl _ _ _
    · exact Only.refl _ _ _
  · exact Only.refl _ _ _

theorem execRdmaReadRestart_gives : ∀ a0 a1 s, Gives [.ring, .heldOut, .out] [(0x70, 0x18, 0x18), (0x70, 0x10c, 0x10c), (0x71, 0x18, 0x18), (0x71, 0x11c, 0x11c), (0x72, 0x18, 0x18), (0x72, 0x148, 0x148)] s (execRdmaReadRestart a0 a1 s) := by
  intro a0 a1 s
  unfold execRdmaReadRestart
  refine Gives.next ?_
  refine onQp_only (fun q s => ?_) ?_
  · refine Only.step (emit_only _ _) (by decide +kernel) ?_
    refine Only.step (raise_only 0x72 _ _ _ rfl rfl) (by decide +kernel) ?_
    refine Only.step (wrapInc_only 0x72 0x148 _ _ _ _ rfl rfl rfl rfl) (by decide +kernel) ?_
    exact Only.refl _ _ _
  · exact Only.refl _ _ _

theorem execCongestionNotification_gives : ∀ a0 a1 s, Gives [.qps] [] s (execCongestionNotification a0 a1 s) := by
  intro a0 a1 s
  unfold execCongestionNotification
  refine Gives.next ?_
  refine onQp_only (fun q s => ?_) ?_
  · refine Only.step (setQp_only _ _) (by decide +kernel) ?_
    exact Only.refl _ _ _
  · exact Only.refl _ _ _

theorem execRateIncrease_gives : ∀ a0 a1 s, Gives [.timer, .qps] [] s (execRateIncrease a0 a1 s) := by
  intro a0 a1 s
  unfold execRateIncrease
  refine Gives.next ?_
  refine onQp_only (fun q s => ?_) ?_
  · extract_lets +onlyGivenNames x1
    refine Only.have_ (t := x1) ?_ fun hx1 => ?_
    · subst x1
      refine Only.step (reach_only _ _) (by decide +kernel) ?_
      exact Only.refl _ _ _
    clear_value x1
    refine Only.step (setQp_only _ _) (by decide +kernel) ?_
    assumption
  · exact Only.refl _ _ _

theorem execRxDrop_gives : ∀ a0 s, Gives [.heldOut, .out] [(0x72, 0x18, 0x18), (0x72, 0x144, 0x144)] s (execRxDrop a0 s) := by
  intro a0 s
  unfold execRxDrop
  refine Gives.ite ?_ ?_
  · refine Gives.next ?_
    exact Only.refl _ _ _
  · refine Gives.next ?_
    refine Only.step (raise_only 0x72 _ _ _ rfl rfl) (by decide +kernel) ?_
    refine Only.step (wrapInc_only 0x72 0x144 _ _ _ _ rfl rfl rfl rfl) (by decide +kernel) ?_
    exact Only.refl _ _ _

theorem execEthLink_gives : ∀ a0 a1 s, Gives [.heldOut, .out] [(0x72, 0x18, 0x18), (0x72, 0x140, 0x140)] s (execEthLink a0 a1 s) := by
  intro a0 a1 s
  unfold execEthLink
  extract_lets +onlyGivenNames x1
  extract_lets +onlyGivenNames x2
  clear_value x2
  refine Gives.ite ?_ ?_
  · refine Gives.next ?_
    exact Only.refl _ _ _
  · refine Gives.next ?_
    refine Only.step (raise_only 0x72 _ _ _ rfl rfl) (by decide +kernel) ?_
    refine Only.step (fset_only 0x72 0x140 _ _ _ _ rfl rfl rfl) (by decide +kernel) ?_
    exact Only.refl _ _ _


end Sys2Proof.Machine
end

