-- ==== Sys2Proof/Laws/OnlyRequests.lean ====
section
/-! SUPPORT. What the operations and the meanings of Machine/Requests.lean can change (`Only`, `Gives`): the parts of the state and the
registers, whatever the operands are. -/

namespace Sys2Proof.Machine

set_option linter.unusedSimpArgs false
set_option maxRecDepth 20000
set_option Elab.async false

theorem setReq_only : ∀ a0 s, Only [.reqs] [] s (setReq a0 s) := by
  intro a0 s
  unfold setReq
  refine Only.set_reqs (by decide +kernel) ?_
  exact Only.refl _ _ _

theorem spend_only : ∀ a0 a1 s t, spend a0 a1 s = some t → Only [.tiles] [] s t := by
  intro a0 a1 s t h
  revert h
  induction a1 generalizing a0 s t with
  | nil =>
    intro h
    unfold spend at h
    cases h
    exact Only.refl _ _ _
  | cons x l ih =>
    intro h
    unfold spend at h
    split at h
    · cases h
    · refine Only.trans ?_ (ih _ _ _ h)
      refine Only.step (addCredits_only _ _ _ _) (by decide +kernel) ?_
      exact Only.refl _ _ _

theorem postRoots_only : ∀ a0 a1 a2 s t, postRoots a0 a1 a2 s = some t → Only [.tiles, .mesh] [] s t := by
  intro a0 a1 a2 s t h
  unfold postRoots at h
  extract_lets +onlyGivenNames x1 at h
  extract_lets +onlyGivenNames x2 at h
  split at h
  · cases h
  · cases h
    refine Only.foldl (fun s x => ?_) ?_
    · extract_lets +onlyGivenNames x3
      refine Only.have_ (t := x3) ?_ fun hx3 => ?_
      · subst x3
        split
        · refine Only.step (send_only _ _) (by decide +kernel) ?_
          exact Only.refl _ _ _
        · refine Only.step (send_only _ _) (by decide +kernel) ?_
          exact Only.refl _ _ _
      clear_value x3
      split
      · refine Only.step (send_only _ _) (by decide +kernel) ?_
        assumption
      · assumption
    · refine Only.step (spend_only _ _ _ _ ‹_›) (by decide +kernel) ?_
      exact Only.refl _ _ _

theorem startReq_only : ∀ a0 s, Only [.tiles, .mesh, .reqs] [] s (startReq a0 s) := by
  intro a0 s
  unfold startReq
  split
  · split
    · exact Only.refl _ _ _
    · refine Only.ite ?_ ?_
      · refine Only.step (setReq_only _ _) (by decide +kernel) ?_
        exact Only.refl _ _ _
      · refine Only.ite ?_ ?_
        · refine Only.step (setReq_only _ _) (by decide +kernel) ?_
          exact Only.refl _ _ _
        · split
          · refine Only.step (setReq_only _ _) (by decide +kernel) ?_
            refine Only.step (postRoots_only _ _ _ _ _ ‹_›) (by decide +kernel) ?_
            exact Only.refl _ _ _
          · refine Only.step (setReq_only _ _) (by decide +kernel) ?_
            exact Only.refl _ _ _
  · exact Only.refl _ _ _

theorem kickQueued_only : ∀ s, Only [.tiles, .mesh, .reqs] [] s (kickQueued s) := by
  intro s
  unfold kickQueued
  refine Only.foldl (fun s x => ?_) ?_
  · refine Only.step (startReq_only _ _) (by decide +kernel) ?_
    exact Only.refl _ _ _
  · exact Only.refl _ _ _

theorem setChan_only : ∀ a0 a1 s, Only [.chans] [] s (setChan a0 a1 s) := by
  intro a0 a1 s
  unfold setChan
  refine Only.set_chans (by decide +kernel) ?_
  exact Only.refl _ _ _

theorem assign_only : ∀ a0 a1 s, Only [.chans] [(0x50, 0x128, 0x128)] s (assign a0 a1 s) := by
  intro a0 a1 s
  unfold assign
  extract_lets +onlyGivenNames x1
  extract_lets +onlyGivenNames x2
  clear_value x2
  extract_lets +onlyGivenNames x3
  clear_value x3
  refine Only.step (fset_only 0x50 0x128 _ _ _ _ rfl rfl rfl) (by decide +kernel) ?_
  refine Only.step (setChan_only _ _ _) (by decide +kernel) ?_
  exact Only.refl _ _ _

theorem dropReq_only : ∀ a0 s, Only [.reqs] [] s (dropReq a0 s) := by
  intro a0 s
  unfold dropReq
  refine Only.set_reqs (by decide +kernel) ?_
  exact Only.refl _ _ _

theorem complete_only : ∀ a0 a1 s, Only [.reqs, .chans, .heldOut, .out] [(0x50, 0x18, 0x18), (0x50, 0x128, 0x128), (0x50, 0x178, 0x178)] s (complete a0 a1 s) := by
  intro a0 a1 s
  unfold complete
  extract_lets +onlyGivenNames x1
  clear_value x1
  extract_lets +onlyGivenNames x2
  extract_lets +onlyGivenNames x3
  refine Only.have_ (t := x3) ?_ fun hx3 => ?_
  · subst x3
    refine Only.step (assign_only _ _ _) (by decide +kernel) ?_
    refine Only.step (dropReq_only _ _) (by decide +kernel) ?_
    exact Only.refl _ _ _
  clear_value x3
  refine Only.ite ?_ ?_
  · refine Only.step (raise_only 0x50 _ _ _ rfl rfl) (by decide +kernel) ?_
    refine Only.step (satInc_only 0x50 0x178 _ _ _ _ rfl rfl rfl rfl) (by decide +kernel) ?_
    assumption
  · assumption

theorem sendPurges_only : ∀ a0 a1 a2 s, Only [.mesh] [] s (sendPurges a0 a1 a2 s) := by
  intro a0 a1 a2 s
  unfold sendPurges
  refine Only.foldl (fun s x => ?_) ?_
  · refine Only.step (send_only _ _) (by decide +kernel) ?_
    exact Only.refl _ _ _
  · exact Only.refl _ _ _

theorem abortReq_only : ∀ a0 a1 s, Only [.tiles, .mesh, .reqs, .chans, .heldOut, .out] [(0x50, 0x18, 0x18), (0x50, 0x128, 0x128), (0x50, 0x178, 0x178)] s (abortReq a0 a1 s) := by
  intro a0 a1 s
  unfold abortReq
  refine Only.step (kickQueued_only _) (by decide +kernel) ?_
  refine Only.step (complete_only _ _ _) (by decide +kernel) ?_
  refine Only.step (sendPurges_only _ _ _ _) (by decide +kernel) ?_
  exact Only.refl _ _ _

theorem mailIn_only : ∀ a0 a1 a2 s, Only [.mail, .heldOut, .out] [] s (mailIn a0 a1 a2 s) := by
  intro a0 a1 a2 s
  unfold mailIn
  extract_lets +onlyGivenNames x1
  clear_value x1
  extract_lets +onlyGivenNames x2
  refine Only.have_ (t := x2) ?_ fun hx2 => ?_
  · subst x2
    refine Only.step (raiseMail_only _ _ _ _) (by decide +kernel) ?_
    refine Only.step (setMail_only _ _ _ _) (by decide +kernel) ?_
    exact Only.refl _ _ _
  clear_value x2
  extract_lets +onlyGivenNames x3
  clear_value x3
  refine Only.ite ?_ ?_
  · refine Only.step (interrupt_only _ _ _) (by decide +kernel) ?_
    assumption
  · assumption

theorem mailReply_only : ∀ a0 a1 a2 s, Only [.mail, .heldOut, .out] [] s (mailReply a0 a1 a2 s) := by
  intro a0 a1 a2 s
  unfold mailReply
  extract_lets +onlyGivenNames x1
  clear_value x1
  refine Only.ite ?_ ?_
  · refine Only.step (setMail_only _ _ _ _) (by decide +kernel) ?_
    exact Only.refl _ _ _
  · refine Only.step (mailIn_only _ _ _ _) (by decide +kernel) ?_
    exact Only.refl _ _ _

theorem replyTo_only : ∀ a0 a1 s, Only [.mail, .heldOut, .out] [] s (replyTo a0 a1 s) := by
  intro a0 a1 s
  unfold replyTo
  split
  · refine Only.step (mailReply_only _ _ _ _) (by decide +kernel) ?_
    exact Only.refl _ _ _
  · exact Only.refl _ _ _

theorem reply_only : ∀ a0 a1 a2 a3 a4 s, Only [.mail, .heldOut, .out] [] s (reply a0 a1 a2 a3 a4 s) := by
  intro a0 a1 a2 a3 a4 s
  unfold reply
  refine Only.step (replyTo_only _ _ _) (by decide +kernel) ?_
  exact Only.refl _ _ _

theorem classify'_only : ∀ a0 a1 s, Only [.heldOut, .out] [(0x50, 0x18, 0x18), (0x50, 0x168, 0x168), (0x50, 0x178, 0x178)] s (classify' a0 a1 s).2 := by
  intro a0 a1 s
  unfold classify'
  extract_lets +onlyGivenNames x1
  split
  · refine Only.pair ?_
    exact Only.refl _ _ _
  · extract_lets +onlyGivenNames x2
    clear_value x2
    refine Only.ite_snd ?_ ?_
    · refine Only.pair ?_
      refine Only.step (fset_only 0x50 0x168 _ _ _ _ rfl rfl rfl) (by decide +kernel) ?_
      exact Only.refl _ _ _
    · refine Only.pair ?_
      refine Only.step (raise_only 0x50 _ _ _ rfl rfl) (by decide +kernel) ?_
      refine Only.step (satInc_only 0x50 0x178 _ _ _ _ rfl rfl rfl rfl) (by decide +kernel) ?_
      exact Only.refl _ _ _

theorem classify'_only_eq : ∀ a0 a1 s x t, classify' a0 a1 s = (x, t) → Only [.heldOut, .out] [(0x50, 0x18, 0x18), (0x50, 0x168, 0x168), (0x50, 0x178, 0x178)] s t := by
  intro a0 a1 s x t h
  have := classify'_only a0 a1 s
  rw [h] at this
  exact this

theorem admitStamped_only : ∀ a0 s, Only [.tiles, .mesh, .reqs, .chans, .heldOut, .out] [(0x50, 0x18, 0x18), (0x50, 0x128, 0x128), (0x50, 0x168, 0x168), (0x50, 0x178, 0x178)] s (admitStamped a0 s) := by
  intro a0 s
  unfold admitStamped
  split
  · refine Only.step (complete_only _ _ _) (by decide +kernel) ?_
    exact Only.refl _ _ _
  · extract_lets +onlyGivenNames x1
    clear_value x1
    split
    · refine Only.step (complete_only _ _ _) (by decide +kernel) ?_
      exact Only.refl _ _ _
    · extract_lets +onlyGivenNames x2
      clear_value x2
      refine Only.ite ?_ ?_
      · refine Only.step (complete_only _ _ _) (by decide +kernel) ?_
        exact Only.refl _ _ _
      · extract_lets +onlyGivenNames x3
        extract_lets +onlyGivenNames x4
        clear_value x4
        refine Only.ite ?_ ?_
        · refine Only.step (setReq_only _ _) (by decide +kernel) ?_
          refine Only.step (setReq_only _ _) (by decide +kernel) ?_
          refine Only.step (classify'_only _ _ _) (by decide +kernel) ?_
          exact Only.refl _ _ _
        · refine Only.step (startReq_only _ _) (by decide +kernel) ?_
          refine Only.step (setReq_only _ _) (by decide +kernel) ?_
          refine Only.step (classify'_only _ _ _) (by decide +kernel) ?_
          exact Only.refl _ _ _

theorem openHuddle_only : ∀ a0 s, Only [.tiles, .mesh, .reqs, .chans, .handles, .heldOut, .out] [(0x50, 0x18, 0x18), (0x50, 0x128, 0x128), (0x50, 0x168, 0x168), (0x50, 0x178, 0x178)] s (openHuddle a0 s) := by
  intro a0 s
  unfold openHuddle
  extract_lets +onlyGivenNames x1
  clear_value x1
  extract_lets +onlyGivenNames x2
  clear_value x2
  extract_lets +onlyGivenNames x3
  refine Only.have_ (t := x3) ?_ fun hx3 => ?_
  · subst x3
    refine Only.step (modHandle_only _ _ _) (by decide +kernel) ?_
    exact Only.refl _ _ _
  clear_value x3
  refine Only.foldl (fun s x => ?_) ?_
  · refine Only.step (admitStamped_only _ _) (by decide +kernel) ?_
    exact Only.refl _ _ _
  · assumption

theorem notice_only : ∀ a0 a1 a2 s, Only [.chans] [(0x50, 0x128, 0x128)] s (notice a0 a1 a2 s) := by
  intro a0 a1 a2 s
  unfold notice
  refine Only.step (assign_only _ _ _) (by decide +kernel) ?_
  exact Only.refl _ _ _

theorem endReq_only : ∀ a0 s, Only [.tiles, .mesh, .reqs, .chans, .heldOut, .out] [(0x50, 0x18, 0x18), (0x50, 0x128, 0x128), (0x50, 0x178, 0x178)] s (endReq a0 s) := by
  intro a0 s
  unfold endReq
  extract_lets +onlyGivenNames x1
  refine Only.have_ (t := x1) ?_ fun hx1 => ?_
  · subst x1
    refine Only.step (sendPurges_only _ _ _ _) (by decide +kernel) ?_
    exact Only.refl _ _ _
  clear_value x1
  refine Only.ite ?_ ?_
  · refine Only.step (setReq_only _ _) (by decide +kernel) ?_
    assumption
  · refine Only.step (kickQueued_only _) (by decide +kernel) ?_
    refine Only.step (complete_only _ _ _) (by decide +kernel) ?_
    assumption

theorem countEnd_only : ∀ a0 a1 s, Only [.tiles, .mesh, .reqs, .chans, .heldOut, .out] [(0x50, 0x18, 0x18), (0x50, 0x128, 0x128), (0x50, 0x178, 0x178)] s (countEnd a0 a1 s) := by
  intro a0 a1 s
  unfold countEnd
  extract_lets +onlyGivenNames x1
  clear_value x1
  extract_lets +onlyGivenNames x2
  clear_value x2
  extract_lets +onlyGivenNames x3
  refine Only.have_ (t := x3) ?_ fun hx3 => ?_
  · subst x3
    refine Only.step (setReq_only _ _) (by decide +kernel) ?_
    exact Only.refl _ _ _
  clear_value x3
  refine Only.ite ?_ ?_
  · refine Only.step (endReq_only _ _) (by decide +kernel) ?_
    assumption
  · assumption


end Sys2Proof.Machine
end

