-- ==== Sys2Proof/Laws/OnlyCompression.lean ====
section
/-! SUPPORT. What the operations and the meanings of Machine/Compression.lean can change (`Only`, `Gives`): the parts of the state and the
registers, whatever the operands are. -/

namespace Sys2Proof.Machine

set_option linter.unusedSimpArgs false
set_option maxRecDepth 20000
set_option Elab.async false

theorem modZip_only : ∀ a0 s, Only [.zip] [] s (modZip a0 s) := by
  intro a0 s
  unfold modZip
  refine Only.set_zip (by decide +kernel) ?_
  exact Only.refl _ _ _

theorem zEnd_only : ∀ a0 a1 s, Only [.zip, .heldOut, .out] [(0x40, 0x18, 0x18), (0x50, 0x18, 0x18)] s (zEnd a0 a1 s) := by
  intro a0 a1 s
  unfold zEnd
  extract_lets +onlyGivenNames x1
  clear_value x1
  extract_lets +onlyGivenNames x2
  refine Only.have_ (t := x2) ?_ fun hx2 => ?_
  · subst x2
    refine Only.step (modZip_only _ _) (by decide +kernel) ?_
    exact Only.refl _ _ _
  clear_value x2
  split
  · refine Only.step (raise_only 0x40 _ _ _ rfl rfl) (by decide +kernel) ?_
    assumption
  · refine Only.step (raise_only 0x50 _ _ _ rfl rfl) (by decide +kernel) ?_
    assumption

theorem zDenied_only : ∀ a0 a1 a2 s, Only [.heldOut, .out] [(0x40, 0x18, 0x18), (0x40, 0x134, 0x134), (0x40, 0x138, 0x138), (0x40, 0x13c, 0x13c)] s (zDenied a0 a1 a2 s) := by
  intro a0 a1 a2 s
  unfold zDenied
  refine Only.ite ?_ ?_
  · refine Only.step (rangeDenied_only _ _ _) (by decide +kernel) ?_
    exact Only.refl _ _ _
  · exact Only.refl _ _ _

theorem holdLoad_only : ∀ a0 s, Only [.zip, .heldOut, .out] [(0x40, 0x18, 0x18), (0x40, 0x134, 0x134), (0x40, 0x138, 0x138), (0x40, 0x13c, 0x13c), (0x40, 0x21c, 0x21c), (0x50, 0x18, 0x18)] s (holdLoad a0 s) := by
  intro a0 s
  unfold holdLoad
  split
  · refine Only.step (zEnd_only _ _ _) (by decide +kernel) ?_
    refine Only.step (zDenied_only _ _ _ _) (by decide +kernel) ?_
    exact Only.refl _ _ _
  · refine Only.ite ?_ ?_
    · refine Only.step (modZip_only _ _) (by decide +kernel) ?_
      exact Only.refl _ _ _
    · extract_lets +onlyGivenNames x1
      refine Only.step (zEnd_only _ _ _) (by decide +kernel) ?_
      refine Only.step (raise_only 0x40 _ _ _ rfl rfl) (by decide +kernel) ?_
      refine Only.step (satInc_only 0x40 0x21c _ _ _ _ rfl rfl rfl rfl) (by decide +kernel) ?_
      exact Only.refl _ _ _

theorem zRefuse_only : ∀ a0 a1 a2 a3 s, Only [.heldOut, .out] [(0x40, 0x18, 0x18), (0x40, 0x134, 0x134), (0x40, 0x138, 0x138), (0x40, 0x13c, 0x13c)] s (zRefuse a0 a1 a2 a3 s).2 := by
  intro a0 a1 a2 a3 s
  rw [zRefuse]
  refine Only.pair ?_
  refine Only.step (zDenied_only _ _ _ _) (by decide +kernel) ?_
  exact Only.refl _ _ _

theorem zRefuse_only_eq : ∀ a0 a1 a2 a3 s x t, zRefuse a0 a1 a2 a3 s = (x, t) → Only [.heldOut, .out] [(0x40, 0x18, 0x18), (0x40, 0x134, 0x134), (0x40, 0x138, 0x138), (0x40, 0x13c, 0x13c)] s t := by
  intro a0 a1 a2 a3 s x t h
  have := zRefuse_only a0 a1 a2 a3 s
  rw [h] at this
  exact this

theorem addKib_only (o1 : Nat) : ∀ a0 a1 a2 a3 s, a1.off = o1 → Nat.blt o1 0x1000 = true → Only [] [(0x40, o1, o1)] s (addKib a0 a1 a2 a3 s).2 := by
  intro a0 a1 a2 a3 s hf1 hb1
  rw [addKib]
  refine Only.pair ?_
  refine Only.step (wrapInc_only 0x40 o1 _ _ _ _ rfl rfl hf1 hb1) (by first | decide +kernel | simp [within, Fld.inside, RegSpan.inside]) ?_
  exact Only.refl _ _ _

theorem addKib_only_eq (o1 : Nat) : ∀ a0 a1 a2 a3 s x t, a1.off = o1 → Nat.blt o1 0x1000 = true → addKib a0 a1 a2 a3 s = (x, t) → Only [] [(0x40, o1, o1)] s t := by
  intro a0 a1 a2 a3 s x t hf1 hb1 h
  have := addKib_only o1 a0 a1 a2 a3 s hf1 hb1
  rw [h] at this
  exact this

theorem zCounted_only : ∀ a0 a1 a2 s, Only [.zip] [(0x40, 0x204, 0x204), (0x40, 0x20c, 0x20c), (0x40, 0x210, 0x210), (0x40, 0x214, 0x214)] s (zCounted a0 a1 a2 s) := by
  intro a0 a1 a2 s
  unfold zCounted
  extract_lets +onlyGivenNames x1
  extract_lets +onlyGivenNames x2
  refine Only.have_ (t := x2) ?_ fun hx2 => ?_
  · subst x2
    refine Only.step (wrapInc_only 0x40 0x204 _ _ _ _ rfl rfl rfl rfl) (by decide +kernel) ?_
    exact Only.refl _ _ _
  clear_value x2
  extract_lets +onlyGivenNames x3
  refine Only.have_ (t := x3) ?_ fun hx3 => ?_
  · subst x3
    refine Only.ite ?_ ?_
    · refine Only.step (wrapInc_only 0x40 0x20c _ _ _ _ rfl rfl rfl rfl) (by decide +kernel) ?_
      assumption
    · assumption
  clear_value x3
  extract_lets +onlyGivenNames x4
  refine Only.haveFn (P := fun x => Only [.zip] [(0x40, 0x204, 0x204), (0x40, 0x20c, 0x20c), (0x40, 0x210, 0x210), (0x40, 0x214, 0x214)] s x.2) (t := x4) ?_ fun hx4 => ?_
  · subst x4
    beta_reduce
    refine Only.step (addKib_only 0x210 _ _ _ _ _ rfl rfl) (by decide +kernel) ?_
    assumption
  beta_reduce at hx4
  clear_value x4
  extract_lets +onlyGivenNames x5
  refine Only.haveFn (P := fun x => Only [.zip] [(0x40, 0x204, 0x204), (0x40, 0x20c, 0x20c), (0x40, 0x210, 0x210), (0x40, 0x214, 0x214)] s x.2) (t := x5) ?_ fun hx5 => ?_
  · subst x5
    beta_reduce
    refine Only.step (addKib_only 0x214 _ _ _ _ _ rfl rfl) (by decide +kernel) ?_
    assumption
  beta_reduce at hx5
  clear_value x5
  refine Only.step (modZip_only _ _) (by decide +kernel) ?_
  assumption

theorem compressStore_only : ∀ a0 a1 a2 a3 a4 a5 s, Only [.range, .zip, .heldOut, .out] [(0x40, 0x18, 0x18), (0x40, 0x130, 0x130), (0x40, 0x134, 0x134), (0x40, 0x138, 0x138), (0x40, 0x13c, 0x13c), (0x40, 0x204, 0x204), (0x40, 0x20c, 0x20c), (0x40, 0x210, 0x210), (0x40, 0x214, 0x214)] s (compressStore a0 a1 a2 a3 a4 a5 s).2 := by
  intro a0 a1 a2 a3 a4 a5 s
  rw [compressStore]
  generalize zAccess a0 true a2 a4.1.length s = z
  cases z with
  | some x => exact Only.step (zRefuse_only _ _ _ _ _) (by decide +kernel) (Only.refl _ _ _)
  | none =>
    generalize zAccess a0 true a3 8 s = z
    cases z with
    | some x => exact Only.step (zRefuse_only _ _ _ _ _) (by decide +kernel) (Only.refl _ _ _)
    | none =>
      refine Only.pair ?_
      refine Only.step (zCounted_only _ _ _ _) (by decide +kernel) ?_
      refine Only.step (rangeWrite_only _ _ _ _) (by decide +kernel) ?_
      refine Only.step (rangeWrite_only _ _ _ _) (by decide +kernel) ?_
      exact Only.refl _ _ _

theorem compressStore_only_eq : ∀ a0 a1 a2 a3 a4 a5 s x t, compressStore a0 a1 a2 a3 a4 a5 s = (x, t) → Only [.range, .zip, .heldOut, .out] [(0x40, 0x18, 0x18), (0x40, 0x130, 0x130), (0x40, 0x134, 0x134), (0x40, 0x138, 0x138), (0x40, 0x13c, 0x13c), (0x40, 0x204, 0x204), (0x40, 0x20c, 0x20c), (0x40, 0x210, 0x210), (0x40, 0x214, 0x214)] s t := by
  intro a0 a1 a2 a3 a4 a5 s x t h
  have := compressStore_only a0 a1 a2 a3 a4 a5 s
  rw [h] at this
  exact this

theorem compressBlock_only : ∀ a0 a1 s, Only [.range, .zip, .heldOut, .out] [(0x40, 0x18, 0x18), (0x40, 0x130, 0x130), (0x40, 0x134, 0x134), (0x40, 0x138, 0x138), (0x40, 0x13c, 0x13c), (0x40, 0x204, 0x204), (0x40, 0x20c, 0x20c), (0x40, 0x210, 0x210), (0x40, 0x214, 0x214)] s (compressBlock a0 a1 s).2 := by
  intro a0 a1 s
  rw [compressBlock]
  refine Only.ite_snd ?_ ?_
  · refine Only.pair ?_
    exact Only.refl _ _ _
  · split
    · refine Only.step (zRefuse_only _ _ _ _ _) (by decide +kernel) ?_
      exact Only.refl _ _ _
    · refine Only.step (compressStore_only _ _ _ _ _ _ _) (by decide +kernel) ?_
      exact Only.refl _ _ _

theorem compressBlock_only_eq : ∀ a0 a1 s x t, compressBlock a0 a1 s = (x, t) → Only [.range, .zip, .heldOut, .out] [(0x40, 0x18, 0x18), (0x40, 0x130, 0x130), (0x40, 0x134, 0x134), (0x40, 0x138, 0x138), (0x40, 0x13c, 0x13c), (0x40, 0x204, 0x204), (0x40, 0x20c, 0x20c), (0x40, 0x210, 0x210), (0x40, 0x214, 0x214)] s t := by
  intro a0 a1 s x t h
  have := compressBlock_only a0 a1 s
  rw [h] at this
  exact this

theorem zFailed_only : ∀ a0 a1 a2 s, Only [.heldOut, .out] [(0x40, 0x18, 0x18), (0x40, 0x218, 0x218), (0x40, 0x21c, 0x21c), (0x40, 0x220, 0x220), (0x40, 0x224, 0x224)] s (zFailed a0 a1 a2 s) := by
  intro a0 a1 a2 s
  unfold zFailed
  extract_lets +onlyGivenNames x1
  extract_lets +onlyGivenNames x2
  clear_value x2
  extract_lets +onlyGivenNames x3
  refine Only.have_ (t := x3) ?_ fun hx3 => ?_
  · subst x3
    refine Only.ite ?_ ?_
    · refine Only.step (raise_only 0x40 _ _ _ rfl rfl) (by decide +kernel) ?_
      refine Only.step (satInc_only 0x40 0x218 _ _ _ _ rfl rfl rfl rfl) (by decide +kernel) ?_
      exact Only.refl _ _ _
    · refine Only.ite ?_ ?_
      · refine Only.step (raise_only 0x40 _ _ _ rfl rfl) (by decide +kernel) ?_
        refine Only.step (satInc_only 0x40 0x218 _ _ _ _ rfl rfl rfl rfl) (by decide +kernel) ?_
        exact Only.refl _ _ _
      · refine Only.step (raise_only 0x40 _ _ _ rfl rfl) (by decide +kernel) ?_
        refine Only.step (satInc_only 0x40 0x21c _ _ _ _ rfl rfl rfl rfl) (by decide +kernel) ?_
        exact Only.refl _ _ _
  clear_value x3
  refine Only.ite ?_ ?_
  · refine Only.step (fset_only 0x40 0x224 _ _ _ _ rfl rfl rfl) (by decide +kernel) ?_
    refine Only.step (fset_only 0x40 0x224 _ _ _ _ rfl rfl rfl) (by decide +kernel) ?_
    refine Only.step (fset_only 0x40 0x224 _ _ _ _ rfl rfl rfl) (by decide +kernel) ?_
    refine Only.step (fset_only 0x40 0x224 _ _ _ _ rfl rfl rfl) (by decide +kernel) ?_
    refine Only.step (fset_only 0x40 0x220 _ _ _ _ rfl rfl rfl) (by decide +kernel) ?_
    assumption
  · assumption

theorem expandBytes_only : ∀ a0 a1 a2 a3 a4 a5 a6 s, Only [.range, .heldOut, .out] [(0x40, 0x18, 0x18), (0x40, 0x130, 0x130), (0x40, 0x208, 0x208), (0x40, 0x218, 0x218), (0x40, 0x21c, 0x21c), (0x40, 0x220, 0x220), (0x40, 0x224, 0x224)] s (expandBytes a0 a1 a2 a3 a4 a5 a6 s).2 := by
  intro a0 a1 a2 a3 a4 a5 a6 s
  rw [expandBytes]
  split
  · refine Only.pair ?_
    refine Only.step (wrapInc_only 0x40 0x208 _ _ _ _ rfl rfl rfl rfl) (by decide +kernel) ?_
    refine Only.step (rangeWrite_only _ _ _ _) (by decide +kernel) ?_
    exact Only.refl _ _ _
  · refine Only.pair ?_
    refine Only.step (zFailed_only _ _ _ _) (by decide +kernel) ?_
    refine Only.step (rangeWrite_only _ _ _ _) (by decide +kernel) ?_
    exact Only.refl _ _ _

theorem expandBytes_only_eq : ∀ a0 a1 a2 a3 a4 a5 a6 s x t, expandBytes a0 a1 a2 a3 a4 a5 a6 s = (x, t) → Only [.range, .heldOut, .out] [(0x40, 0x18, 0x18), (0x40, 0x130, 0x130), (0x40, 0x208, 0x208), (0x40, 0x218, 0x218), (0x40, 0x21c, 0x21c), (0x40, 0x220, 0x220), (0x40, 0x224, 0x224)] s t := by
  intro a0 a1 a2 a3 a4 a5 a6 s x t h
  have := expandBytes_only a0 a1 a2 a3 a4 a5 a6 s
  rw [h] at this
  exact this

theorem expandEntry_only : ∀ a0 a1 a2 a3 a4 a5 a6 a7 s, Only [.range, .heldOut, .out] [(0x40, 0x18, 0x18), (0x40, 0x130, 0x130), (0x40, 0x134, 0x134), (0x40, 0x138, 0x138), (0x40, 0x13c, 0x13c), (0x40, 0x208, 0x208), (0x40, 0x218, 0x218), (0x40, 0x21c, 0x21c), (0x40, 0x220, 0x220), (0x40, 0x224, 0x224)] s (expandEntry a0 a1 a2 a3 a4 a5 a6 a7 s).2 := by
  intro a0 a1 a2 a3 a4 a5 a6 a7 s
  rw [expandEntry]
  split
  · refine Only.step (zRefuse_only _ _ _ _ _) (by decide +kernel) ?_
    exact Only.refl _ _ _
  · refine Only.ite_snd ?_ ?_
    · refine Only.pair ?_
      refine Only.step (rangeWrite_only _ _ _ _) (by decide +kernel) ?_
      exact Only.refl _ _ _
    · refine Only.step (expandBytes_only _ _ _ _ _ _ _ _) (by decide +kernel) ?_
      exact Only.refl _ _ _

theorem expandEntry_only_eq : ∀ a0 a1 a2 a3 a4 a5 a6 a7 s x t, expandEntry a0 a1 a2 a3 a4 a5 a6 a7 s = (x, t) → Only [.range, .heldOut, .out] [(0x40, 0x18, 0x18), (0x40, 0x130, 0x130), (0x40, 0x134, 0x134), (0x40, 0x138, 0x138), (0x40, 0x13c, 0x13c), (0x40, 0x208, 0x208), (0x40, 0x218, 0x218), (0x40, 0x21c, 0x21c), (0x40, 0x220, 0x220), (0x40, 0x224, 0x224)] s t := by
  intro a0 a1 a2 a3 a4 a5 a6 a7 s x t h
  have := expandEntry_only a0 a1 a2 a3 a4 a5 a6 a7 s
  rw [h] at this
  exact this

theorem expandBlock_only : ∀ a0 a1 s, Only [.range, .heldOut, .out] [(0x40, 0x18, 0x18), (0x40, 0x130, 0x130), (0x40, 0x134, 0x134), (0x40, 0x138, 0x138), (0x40, 0x13c, 0x13c), (0x40, 0x208, 0x208), (0x40, 0x218, 0x218), (0x40, 0x21c, 0x21c), (0x40, 0x220, 0x220), (0x40, 0x224, 0x224)] s (expandBlock a0 a1 s).2 := by
  intro a0 a1 s
  rw [expandBlock]
  refine Only.ite_snd ?_ ?_
  · refine Only.pair ?_
    exact Only.refl _ _ _
  · split
    · refine Only.step (zRefuse_only _ _ _ _ _) (by decide +kernel) ?_
      exact Only.refl _ _ _
    · refine Only.step (zRefuse_only _ _ _ _ _) (by decide +kernel) ?_
      exact Only.refl _ _ _
    · refine Only.step (expandEntry_only _ _ _ _ _ _ _ _ _) (by decide +kernel) ?_
      exact Only.refl _ _ _

theorem expandBlock_only_eq : ∀ a0 a1 s x t, expandBlock a0 a1 s = (x, t) → Only [.range, .heldOut, .out] [(0x40, 0x18, 0x18), (0x40, 0x130, 0x130), (0x40, 0x134, 0x134), (0x40, 0x138, 0x138), (0x40, 0x13c, 0x13c), (0x40, 0x208, 0x208), (0x40, 0x218, 0x218), (0x40, 0x21c, 0x21c), (0x40, 0x220, 0x220), (0x40, 0x224, 0x224)] s t := by
  intro a0 a1 s x t h
  have := expandBlock_only a0 a1 s
  rw [h] at this
  exact this

theorem runBlocks_only : ∀ a0 s, Only [.range, .zip, .heldOut, .out] [(0x40, 0x18, 0x18), (0x40, 0x130, 0x130), (0x40, 0x134, 0x134), (0x40, 0x138, 0x138), (0x40, 0x13c, 0x13c), (0x40, 0x204, 0x204), (0x40, 0x208, 0x208), (0x40, 0x20c, 0x20c), (0x40, 0x210, 0x210), (0x40, 0x214, 0x214), (0x40, 0x218, 0x218), (0x40, 0x21c, 0x21c), (0x40, 0x220, 0x220), (0x40, 0x224, 0x224), (0x50, 0x18, 0x18)] s (runBlocks a0 s) := by
  intro a0 s
  unfold runBlocks
  extract_lets +onlyGivenNames x1
  refine Only.step (zEnd_only _ _ _) (by decide +kernel) ?_
  subst x1
  refine Only.foldl_snd (fun s x => ?_) ?_
  · refine Only.ite_snd ?_ ?_
    · refine Only.step (compressBlock_only _ _ _) (by decide +kernel) ?_
      exact Only.refl _ _ _
    · refine Only.step (expandBlock_only _ _ _) (by decide +kernel) ?_
      exact Only.refl _ _ _
  · refine Only.pair ?_
    exact Only.refl _ _ _

theorem kickZip_only : ∀ s, Only [.range, .zip, .heldOut, .out] [(0x40, 0x18, 0x18), (0x40, 0x130, 0x130), (0x40, 0x134, 0x134), (0x40, 0x138, 0x138), (0x40, 0x13c, 0x13c), (0x40, 0x204, 0x204), (0x40, 0x208, 0x208), (0x40, 0x20c, 0x20c), (0x40, 0x210, 0x210), (0x40, 0x214, 0x214), (0x40, 0x218, 0x218), (0x40, 0x21c, 0x21c), (0x40, 0x220, 0x220), (0x40, 0x224, 0x224), (0x50, 0x18, 0x18)] s (kickZip s) := by
  intro s
  unfold kickZip
  refine Only.foldl (fun s x => ?_) ?_
  · split
    · exact Only.refl _ _ _
    · refine Only.ite ?_ ?_
      · exact Only.refl _ _ _
      · refine Only.ite ?_ ?_
        · refine Only.step (holdLoad_only _ _) (by decide +kernel) ?_
          exact Only.refl _ _ _
        · refine Only.step (runBlocks_only _ _) (by decide +kernel) ?_
          exact Only.refl _ _ _
  · exact Only.refl _ _ _

theorem stopZip_only : ∀ a0 s, Only [.range, .zip, .heldOut, .out] [(0x40, 0x18, 0x18), (0x40, 0x130, 0x130), (0x40, 0x134, 0x134), (0x40, 0x138, 0x138), (0x40, 0x13c, 0x13c), (0x40, 0x204, 0x204), (0x40, 0x208, 0x208), (0x40, 0x20c, 0x20c), (0x40, 0x210, 0x210), (0x40, 0x214, 0x214), (0x40, 0x218, 0x218), (0x40, 0x21c, 0x21c), (0x40, 0x220, 0x220), (0x40, 0x224, 0x224), (0x50, 0x18, 0x18)] s (stopZip a0 s) := by
  intro a0 s
  unfold stopZip
  refine Only.step (kickZip_only _) (by decide +kernel) ?_
  refine Only.foldl (fun s x => ?_) ?_
  · refine Only.step (zEnd_only _ _ _) (by decide +kernel) ?_
    exact Only.refl _ _ _
  · exact Only.refl _ _ _

theorem clearZslots_only : ∀ a0 s, Only [.zip] [] s (clearZslots a0 s) := by
  intro a0 s
  unfold clearZslots
  refine Only.step (modZip_only _ _) (by decide +kernel) ?_
  exact Only.refl _ _ _

theorem queueZip_only : ∀ a0 a1 a2 s, Only [.range, .zip, .heldOut, .out] [(0x40, 0x18, 0x18), (0x40, 0x130, 0x130), (0x40, 0x134, 0x134), (0x40, 0x138, 0x138), (0x40, 0x13c, 0x13c), (0x40, 0x204, 0x204), (0x40, 0x208, 0x208), (0x40, 0x20c, 0x20c), (0x40, 0x210, 0x210), (0x40, 0x214, 0x214), (0x40, 0x218, 0x218), (0x40, 0x21c, 0x21c), (0x40, 0x220, 0x220), (0x40, 0x224, 0x224), (0x50, 0x18, 0x18)] s (queueZip a0 a1 a2 s) := by
  intro a0 a1 a2 s
  unfold queueZip
  extract_lets +onlyGivenNames x1
  clear_value x1
  extract_lets +onlyGivenNames x2
  clear_value x2
  extract_lets +onlyGivenNames x3
  refine Only.have_ (t := x3) ?_ fun hx3 => ?_
  · subst x3
    refine Only.step (modZip_only _ _) (by decide +kernel) ?_
    exact Only.refl _ _ _
  clear_value x3
  refine Only.ite ?_ ?_
  · refine Only.step (zEnd_only _ _ _) (by decide +kernel) ?_
    assumption
  · refine Only.ite ?_ ?_
    · refine Only.step (zEnd_only _ _ _) (by decide +kernel) ?_
      assumption
    · split
      · refine Only.step (kickZip_only _) (by decide +kernel) ?_
        assumption
      · refine Only.step (kickZip_only _) (by decide +kernel) ?_
        assumption
      · refine Only.step (zEnd_only _ _ _) (by decide +kernel) ?_
        assumption

theorem postZip_only : ∀ a0 a1 a2 a3 s, Only [.staleMid, .range, .zip, .heldOut, .out] ([(0x10, 0x880, 0x880), (0x40, 0x18, 0x18), (0x40, 0x2c, 0x2c), (0x40, 0x130, 0x130), (0x40, 0x134, 0x134), (0x40, 0x138, 0x138), (0x40, 0x13c, 0x13c), (0x40, 0x204, 0x204), (0x40, 0x208, 0x208), (0x40, 0x20c, 0x20c), (0x40, 0x210, 0x210), (0x40, 0x214, 0x214), (0x40, 0x218, 0x218), (0x40, 0x21c, 0x21c), (0x40, 0x220, 0x220), (0x40, 0x224, 0x224), (0x40, 0x280, 0x29c), (0x50, 0x18, 0x18), (0x50, 0x2c, 0x2c), (0x50, 0x280, 0x29c)] ++ [(0xb0, 0x18, 0x18), (0xb0, 0x110, 0x110), (0xb0, 0x114, 0x114), (0xb0, 0x118, 0x118), (0xb0, 0x11c, 0x11c)] : List RegSpan) s (postZip a0 a1 a2 a3 s) := by
  intro a0 a1 a2 a3 s
  unfold postZip
  split
  · refine guarded_only 0x40 rfl rfl (by decide +kernel) (fun s => ?_) ?_
    · extract_lets +onlyGivenNames x1
      refine Only.have_ (t := x1) ?_ fun hx1 => ?_
      · subst x1
        refine Only.step (storeCmd_only 0x40 0x280 _ _ _ _ rfl rfl rfl) (by decide +kernel) ?_
        exact Only.refl _ _ _
      clear_value x1
      refine Only.ite ?_ ?_
      · refine Only.step (raise_only 0x40 _ _ _ rfl rfl) (by decide +kernel) ?_
        assumption
      · refine Only.step (queueZip_only _ _ _ _) (by decide +kernel) ?_
        assumption
    · exact Only.refl _ _ _
  · refine guarded_only 0x50 rfl rfl (by decide +kernel) (fun s => ?_) ?_
    · extract_lets +onlyGivenNames x2
      refine Only.have_ (t := x2) ?_ fun hx2 => ?_
      · subst x2
        refine Only.step (storeCmd_only 0x50 0x280 _ _ _ _ rfl rfl rfl) (by decide +kernel) ?_
        exact Only.refl _ _ _
      clear_value x2
      refine Only.ite ?_ ?_
      · refine Only.step (raise_only 0x50 _ _ _ rfl rfl) (by decide +kernel) ?_
        assumption
      · refine Only.step (queueZip_only _ _ _ _) (by decide +kernel) ?_
        assumption
    · exact Only.refl _ _ _

theorem popZip_only : ∀ a0 s, Only [.zip] [] s (popZip a0 s) := by
  intro a0 s
  unfold popZip
  refine Only.step (modZip_only _ _) (by decide +kernel) ?_
  exact Only.refl _ _ _

theorem setZslot_only : ∀ a0 a1 a2 s, Only [.zip] [] s (setZslot a0 a1 a2 s) := by
  intro a0 a1 a2 s
  unfold setZslot
  refine Only.step (modZip_only _ _) (by decide +kernel) ?_
  exact Only.refl _ _ _

theorem zipRow_only : ∀ a0 a1 a2 a3 a4 s, Only [.staleMid, .range, .zip, .heldOut, .out] ([(0x10, 0x880, 0x880), (0x40, 0x18, 0x18), (0x40, 0x2c, 0x2c), (0x40, 0x130, 0x130), (0x40, 0x134, 0x134), (0x40, 0x138, 0x138), (0x40, 0x13c, 0x13c), (0x40, 0x204, 0x204), (0x40, 0x208, 0x208), (0x40, 0x20c, 0x20c), (0x40, 0x210, 0x210), (0x40, 0x214, 0x214), (0x40, 0x218, 0x218), (0x40, 0x21c, 0x21c), (0x40, 0x220, 0x220), (0x40, 0x224, 0x224), (0x40, 0x280, 0x29c), (0x50, 0x18, 0x18), (0x50, 0x2c, 0x2c), (0x50, 0x280, 0x29c)] ++ [(0xb0, 0x18, 0x18), (0xb0, 0x110, 0x110), (0xb0, 0x114, 0x114), (0xb0, 0x118, 0x118), (0xb0, 0x11c, 0x11c)] : List RegSpan) s (zipRow a0 a1 a2 a3 a4 s) := by
  intro a0 a1 a2 a3 a4 s
  unfold zipRow
  refine Only.ite ?_ ?_
  · refine Only.step (postZip_only _ _ _ _ _) (by decide +kernel) ?_
    exact Only.refl _ _ _
  · exact Only.refl _ _ _

theorem execCompress_gives : ∀ a0 a1 a2 a3 s, Gives [.staleMid, .range, .zip, .heldOut, .out] ([(0x10, 0x880, 0x880), (0x40, 0x18, 0x18), (0x40, 0x2c, 0x2c), (0x40, 0x130, 0x130), (0x40, 0x134, 0x134), (0x40, 0x138, 0x138), (0x40, 0x13c, 0x13c), (0x40, 0x204, 0x204), (0x40, 0x208, 0x208), (0x40, 0x20c, 0x20c), (0x40, 0x210, 0x210), (0x40, 0x214, 0x214), (0x40, 0x218, 0x218), (0x40, 0x21c, 0x21c), (0x40, 0x220, 0x220), (0x40, 0x224, 0x224), (0x40, 0x280, 0x29c), (0x50, 0x18, 0x18), (0x50, 0x2c, 0x2c), (0x50, 0x280, 0x29c)] ++ [(0xb0, 0x18, 0x18), (0xb0, 0x110, 0x110), (0xb0, 0x114, 0x114), (0xb0, 0x118, 0x118), (0xb0, 0x11c, 0x11c)] : List RegSpan) s (execCompress a0 a1 a2 a3 s) := by
  intro a0 a1 a2 a3 s
  unfold execCompress
  refine Gives.next ?_
  refine Only.step (zipRow_only _ _ _ _ _ _) (by decide +kernel) ?_
  exact Only.refl _ _ _

theorem execExpand_gives : ∀ a0 a1 a2 a3 s, Gives [.staleMid, .range, .zip, .heldOut, .out] ([(0x10, 0x880, 0x880), (0x40, 0x18, 0x18), (0x40, 0x2c, 0x2c), (0x40, 0x130, 0x130), (0x40, 0x134, 0x134), (0x40, 0x138, 0x138), (0x40, 0x13c, 0x13c), (0x40, 0x204, 0x204), (0x40, 0x208, 0x208), (0x40, 0x20c, 0x20c), (0x40, 0x210, 0x210), (0x40, 0x214, 0x214), (0x40, 0x218, 0x218), (0x40, 0x21c, 0x21c), (0x40, 0x220, 0x220), (0x40, 0x224, 0x224), (0x40, 0x280, 0x29c), (0x50, 0x18, 0x18), (0x50, 0x2c, 0x2c), (0x50, 0x280, 0x29c)] ++ [(0xb0, 0x18, 0x18), (0xb0, 0x110, 0x110), (0xb0, 0x114, 0x114), (0xb0, 0x118, 0x118), (0xb0, 0x11c, 0x11c)] : List RegSpan) s (execExpand a0 a1 a2 a3 s) := by
  intro a0 a1 a2 a3 s
  unfold execExpand
  refine Gives.next ?_
  refine Only.step (zipRow_only _ _ _ _ _ _) (by decide +kernel) ?_
  exact Only.refl _ _ _

theorem execLoadTable_gives : ∀ a0 a1 a2 a3 s, Gives [.staleMid, .range, .zip, .heldOut, .out] ([(0x10, 0x880, 0x880), (0x40, 0x18, 0x18), (0x40, 0x2c, 0x2c), (0x40, 0x130, 0x130), (0x40, 0x134, 0x134), (0x40, 0x138, 0x138), (0x40, 0x13c, 0x13c), (0x40, 0x204, 0x204), (0x40, 0x208, 0x208), (0x40, 0x20c, 0x20c), (0x40, 0x210, 0x210), (0x40, 0x214, 0x214), (0x40, 0x218, 0x218), (0x40, 0x21c, 0x21c), (0x40, 0x220, 0x220), (0x40, 0x224, 0x224), (0x40, 0x280, 0x29c), (0x50, 0x18, 0x18), (0x50, 0x2c, 0x2c), (0x50, 0x280, 0x29c)] ++ [(0xb0, 0x18, 0x18), (0xb0, 0x110, 0x110), (0xb0, 0x114, 0x114), (0xb0, 0x118, 0x118), (0xb0, 0x11c, 0x11c)] : List RegSpan) s (execLoadTable a0 a1 a2 a3 s) := by
  intro a0 a1 a2 a3 s
  unfold execLoadTable
  refine Gives.next ?_
  refine Only.step (zipRow_only _ _ _ _ _ _) (by decide +kernel) ?_
  exact Only.refl _ _ _

theorem execLoadTableCommit_gives : ∀ a0 s, Gives [.range, .zip, .heldOut, .out] [(0x40, 0x18, 0x18), (0x40, 0x130, 0x130), (0x40, 0x134, 0x134), (0x40, 0x138, 0x138), (0x40, 0x13c, 0x13c), (0x40, 0x204, 0x204), (0x40, 0x208, 0x208), (0x40, 0x20c, 0x20c), (0x40, 0x210, 0x210), (0x40, 0x214, 0x214), (0x40, 0x218, 0x218), (0x40, 0x21c, 0x21c), (0x40, 0x220, 0x220), (0x40, 0x224, 0x224), (0x50, 0x18, 0x18)] s (execLoadTableCommit a0 s) := by
  intro a0 s
  unfold execLoadTableCommit
  split
  · refine Gives.next ?_
    exact Only.refl _ _ _
  · extract_lets +onlyGivenNames x1
    clear_value x1
    extract_lets +onlyGivenNames x2
    clear_value x2
    extract_lets +onlyGivenNames x3
    refine Gives.have_ (t := x3) ?_ fun hx3 => ?_
    · subst x3
      refine Only.step (setZslot_only _ _ _ _) (by decide +kernel) ?_
      exact Only.refl _ _ _
    clear_value x3
    refine Gives.next ?_
    refine Only.step (kickZip_only _) (by decide +kernel) ?_
    refine Only.step (zEnd_only _ _ _) (by decide +kernel) ?_
    refine Only.step (raise_only 0x40 _ _ _ rfl rfl) (by decide +kernel) ?_
    assumption

theorem execZstatusPop_gives : ∀ a0 a1 s, Gives [.zip, .ring, .heldOut, .out] [(0x70, 0x18, 0x18), (0x70, 0x10c, 0x10c), (0x71, 0x18, 0x18), (0x71, 0x11c, 0x11c)] s (execZstatusPop a0 a1 s) := by
  intro a0 a1 s
  unfold execZstatusPop
  extract_lets +onlyGivenNames x1
  refine Gives.ite ?_ ?_
  · refine Gives.next ?_
    refine Only.step (emit_only _ _) (by decide +kernel) ?_
    exact Only.refl _ _ _
  · extract_lets +onlyGivenNames x2
    clear_value x2
    refine Gives.next ?_
    refine Only.step (popZip_only _ _) (by decide +kernel) ?_
    refine Only.step (emit_only _ _) (by decide +kernel) ?_
    exact Only.refl _ _ _


end Sys2Proof.Machine
end

