-- ==== Sys2Proof/Laws/OnlyImages.lean ====
section
/-! SUPPORT. What the operations and the meanings of Machine/Images.lean can change (`Only`, `Gives`): the parts of the state and the
registers, whatever the operands are. -/

namespace Sys2Proof.Machine

set_option linter.unusedSimpArgs false
set_option maxRecDepth 20000
set_option Elab.async false

theorem eraseBlocks_only : ∀ a0 s, Only [.ws] [] s (eraseBlocks a0 s) := by
  intro a0 s
  unfold eraseBlocks
  refine Only.foldl (fun s x => ?_) ?_
  · refine Only.step (clearBlock_only _ _) (by decide +kernel) ?_
    exact Only.refl _ _ _
  · exact Only.refl _ _ _

theorem byLeaderMask : ∀ s, Only [.deferred] [] s s := by
  intro s
  exact Only.refl _ _ s

theorem cmdEnd_only {m : List Fld} {r : List RegSpan} {s t : State} {st : W16} {e : Nat} {l : Bool} (h : Only m r s t) :
    Only m r s (CmdEnd.mk st e t l).s := by
  exact h

theorem cmdEnd_ite {m : List Fld} {r : List RegSpan} {s : State} {c : Prop} [Decidable c] {t u : CmdEnd} (h : Only m r s t.s)
    (k : Only m r s u.s) : Only m r s (if c then t else u).s := by
  split
  · exact h
  · exact k

theorem byLeader_only {m : List Fld} {r : List RegSpan} {env : Env} {i : Instr} {f : State → State} {s u : State}
    (hm : within [.deferred] [] m r = true) (hf : ∀ s, Only m r s (f s)) (h : Only m r u s) :
    Only m r u (byLeader env i f s) := by
  unfold byLeader
  refine Only.ite h ?_
  split
  · exact h.trans ((Only.set_deferred (by decide) (Only.refl [.deferred] [] s)).mono hm)
  · exact h.trans (hf _)

theorem finishMask : ∀ s, Only [.handles, .mail, .heldOut, .out] [] s s := by
  intro s
  exact Only.refl _ _ s

theorem finish_only {m : List Fld} {r : List RegSpan} {env : Env} {op h : Nat} {e : CmdEnd} {s : State}
    (hm : within [.handles, .mail, .heldOut, .out] [] m r = true) (k : Only m r s e.s) : Only m r s (finish env op h e) := by
  unfold finish
  refine Only.ite k ?_
  extract_lets +onlyGivenNames x1
  have h1 : Only m r s x1 := by
    subst x1
    refine Only.ite k (k.trans ?_)
    exact within_trans (by decide +kernel) hm (modHandle_only _ _ _)
  clear_value x1
  exact h1.trans (within_trans (by decide +kernel) hm (reply_only _ _ _ _ _ _))

theorem refuse_only : ∀ a0 s, Only [] [] s (refuse a0 s).s := by
  intro a0 s
  unfold refuse
  refine cmdEnd_only ?_
  exact Only.refl _ _ _

theorem clearPairs_only : ∀ a0 s, Only [] [(0x20, 0x358, 0x358)] s (clearPairs a0 s) := by
  intro a0 s
  unfold clearPairs
  extract_lets +onlyGivenNames x1
  refine Only.haveFn (P := fun x => ∀ y1_0 y1_1, Only [] [(0x20, 0x358, 0x358)] y1_0 (x y1_0 y1_1)) (t := x1) ?_ fun hx1 => ?_
  · intro y1_0 y1_1
    subst x1
    dsimp -zeta only
    extract_lets +onlyGivenNames x2
    clear_value x2
    refine Only.step (fset_only 0x20 0x358 _ _ _ _ rfl rfl rfl) (by decide +kernel) ?_
    refine Only.step (fset_only 0x20 0x358 _ _ _ _ rfl rfl rfl) (by decide +kernel) ?_
    exact Only.refl _ _ _
  clear_value x1
  refine Only.foldl (fun s x => ?_) ?_
  · refine Only.trans ?_ (hx1 ..)
    exact Only.refl _ _ _
  · exact Only.refl _ _ _

theorem setRally_only : ∀ a0 a1 s, Only [.rallies] [] s (setRally a0 a1 s) := by
  intro a0 a1 s
  unfold setRally
  refine Only.set_rallies (by decide +kernel) ?_
  exact Only.refl _ _ _

theorem Only.set_packed_bindings : ∀ {m : List Fld} {r : List RegSpan} {s t : State} {v0 v1}, [.packed, .bindings].all (fun x => m.contains x) = true → Only m r s t → Only m r s { t with packed := v0, bindings := v1 } := by
  intro m r s t v0 v1 hm h
  refine h.trans ⟨fun x hx _ => ?_, fun _ _ _ => rfl, fun c => c⟩
  cases x <;> first | rfl | exact absurd (List.contains_iff_mem.mp (List.all_eq_true.mp hm _ (by simp))) hx

theorem releaseHandle_only : ∀ a0 s, Only [.packed, .bindings, .handles, .rallies] [(0x20, 0x358, 0x358)] s (releaseHandle a0 s) := by
  intro a0 s
  unfold releaseHandle
  refine Only.ite ?_ ?_
  · exact Only.refl _ _ _
  · extract_lets +onlyGivenNames x1
    refine Only.have_ (t := x1) ?_ fun hx1 => ?_
    · subst x1
      split
      · refine Only.step (clearPairs_only _ _) (by decide +kernel) ?_
        exact Only.refl _ _ _
      · exact Only.refl _ _ _
    clear_value x1
    extract_lets +onlyGivenNames x2
    refine Only.have_ (t := x2) ?_ fun hx2 => ?_
    · subst x2
      split
      · refine Only.step (setRally_only _ _ _) (by decide +kernel) ?_
        assumption
      · assumption
    clear_value x2
    extract_lets +onlyGivenNames x3
    refine Only.have_ (t := x3) ?_ fun hx3 => ?_
    · subst x3
      refine Only.step (modHandle_only _ _ _) (by decide +kernel) ?_
      assumption
    clear_value x3
    refine Only.set_packed_bindings (by decide +kernel) ?_
    assumption

theorem programAll_only : ∀ a0 s, Only [.ws] [] s (programAll a0 s) := by
  intro a0 s
  unfold programAll
  refine Only.foldl (fun s x => ?_) ?_
  · split
    · refine Only.ite ?_ ?_
      · exact Only.refl _ _ _
      · refine Only.step (setCw_only _ _ _) (by decide +kernel) ?_
        exact Only.refl _ _ _
    · exact Only.refl _ _ _
  · exact Only.refl _ _ _

theorem tryStore_only : ∀ a0 s, Only [.versions, .ws, .heldOut, .out] [(0x10, 0x18, 0x18)] s (tryStore a0 s) := by
  intro a0 s
  unfold tryStore
  refine Only.ite ?_ ?_
  · exact Only.refl _ _ _
  · split
    · exact Only.refl _ _ _
    · extract_lets +onlyGivenNames x1
      clear_value x1
      extract_lets +onlyGivenNames x2
      refine Only.have_ (t := x2) ?_ fun hx2 => ?_
      · subst x2
        refine Only.step (programAll_only _ _) (by decide +kernel) ?_
        refine Only.step (setVersion_only _ _) (by decide +kernel) ?_
        exact Only.refl _ _ _
      clear_value x2
      refine Only.ite ?_ ?_
      · refine Only.step (setState_only _ _ _) (by decide +kernel) ?_
        refine Only.step (setState_only _ _ _) (by decide +kernel) ?_
        assumption
      · assumption

theorem retireNow_only : ∀ a0 s, Only [.packed, .bindings, .handles, .versions, .rallies, .ws, .heldOut, .out] [(0x10, 0x18, 0x18), (0x20, 0x358, 0x358)] s (retireNow a0 s) := by
  intro a0 s
  unfold retireNow
  extract_lets +onlyGivenNames x1
  refine Only.have_ (t := x1) ?_ fun hx1 => ?_
  · subst x1
    refine Only.step (eraseBlocks_only _ _) (by decide +kernel) ?_
    exact Only.refl _ _ _
  clear_value x1
  extract_lets +onlyGivenNames x2
  refine Only.have_ (t := x2) ?_ fun hx2 => ?_
  · subst x2
    refine Only.step (setState_only _ _ _) (by decide +kernel) ?_
    assumption
  clear_value x2
  extract_lets +onlyGivenNames x3
  refine Only.have_ (t := x3) ?_ fun hx3 => ?_
  · subst x3
    refine Only.step (releaseHandle_only _ _) (by decide +kernel) ?_
    assumption
  clear_value x3
  refine Only.foldl (fun s x => ?_) ?_
  · refine Only.step (tryStore_only _ _) (by decide +kernel) ?_
    exact Only.refl _ _ _
  · assumption

theorem takeSpan_only : ∀ a0 a1 s, Only [.range] [] s (takeSpan a0 a1 s) := by
  intro a0 a1 s
  unfold takeSpan
  refine Only.foldl (fun s x => ?_) ?_
  · refine Only.step (setHome_only _ _ _) (by decide +kernel) ?_
    exact Only.refl _ _ _
  · exact Only.refl _ _ _

theorem countSig_only : ∀ a0 s, Only [] [(0xb0, 0x124, 0x124), (0xb0, 0x128, 0x128)] s (countSig a0 s) := by
  intro a0 s
  unfold countSig
  refine Only.ite ?_ ?_
  · refine Only.step (wrapInc_only 0xb0 0x124 _ _ _ _ rfl rfl rfl rfl) (by decide +kernel) ?_
    exact Only.refl _ _ _
  · refine Only.step (satInc_only 0xb0 0x128 _ _ _ _ rfl rfl rfl rfl) (by decide +kernel) ?_
    exact Only.refl _ _ _

theorem trust_only : ∀ a0 a1 s, Only [] [(0xb0, 0x124, 0x124), (0xb0, 0x128, 0x128)] s (trust a0 a1 s).2 := by
  intro a0 a1 s
  unfold trust
  extract_lets +onlyGivenNames x1
  clear_value x1
  refine Only.ite_snd ?_ ?_
  · refine Only.pair ?_
    exact Only.refl _ _ _
  · refine Only.ite_snd ?_ ?_
    · refine Only.pair ?_
      exact Only.refl _ _ _
    · split
      · refine Only.pair ?_
        exact Only.refl _ _ _
      · extract_lets +onlyGivenNames x2
        clear_value x2
        extract_lets +onlyGivenNames x3
        refine Only.have_ (t := x3) ?_ fun hx3 => ?_
        · subst x3
          refine Only.step (countSig_only _ _) (by decide +kernel) ?_
          exact Only.refl _ _ _
        clear_value x3
        refine Only.ite_snd ?_ ?_
        · refine Only.pair ?_
          assumption
        · refine Only.ite_snd ?_ ?_
          · refine Only.pair ?_
            assumption
          · refine Only.pair ?_
            assumption

theorem trust_only_eq : ∀ a0 a1 s x t, trust a0 a1 s = (x, t) → Only [] [(0xb0, 0x124, 0x124), (0xb0, 0x128, 0x128)] s t := by
  intro a0 a1 s x t h
  have := trust_only a0 a1 s
  rw [h] at this
  exact this

theorem startFetch_only : ∀ a0 a1 a2 s, Only [.range, .packed, .bindings, .handles, .versions, .rallies, .ws, .ring, .qps, .heldOut, .out] [(0x10, 0x18, 0x18), (0x20, 0x358, 0x358), (0x70, 0x18, 0x18), (0x70, 0x10c, 0x10c), (0x71, 0x18, 0x18), (0x71, 0x11c, 0x11c), (0xb0, 0x124, 0x124), (0xb0, 0x128, 0x128)] s (startFetch a0 a1 a2 s).s := by
  intro a0 a1 a2 s
  unfold startFetch
  extract_lets +onlyGivenNames x1
  clear_value x1
  extract_lets +onlyGivenNames x2
  refine Only.have_ (t := x2) ?_ fun hx2 => ?_
  · subst x2
    refine Only.step (modHandle_only _ _ _) (by decide +kernel) ?_
    exact Only.refl _ _ _
  clear_value x2
  extract_lets +onlyGivenNames x3
  clear_value x3
  extract_lets +onlyGivenNames x4
  clear_value x4
  extract_lets +onlyGivenNames x5
  refine Only.have_ (t := x5) ?_ fun hx5 => ?_
  · subst x5
    refine Only.set_versions (by decide +kernel) ?_
    assumption
  clear_value x5
  extract_lets +onlyGivenNames x6
  refine Only.have_ (t := x6) ?_ fun hx6 => ?_
  · subst x6
    refine Only.step (setState_only _ _ _) (by decide +kernel) ?_
    assumption
  clear_value x6
  extract_lets +onlyGivenNames x7
  refine cmdEnd_ite ?_ ?_
  · subst x7
    dsimp -zeta only
    refine Only.step (raiseCcs_only _ _) (by decide +kernel) ?_
    refine Only.step (retireNow_only _ _) (by decide +kernel) ?_
    assumption
  · refine cmdEnd_ite ?_ ?_
    · subst x7
      dsimp -zeta only
      refine Only.step (raiseCcs_only _ _) (by decide +kernel) ?_
      refine Only.step (retireNow_only _ _) (by decide +kernel) ?_
      assumption
    · refine cmdEnd_ite ?_ ?_
      · subst x7
        dsimp -zeta only
        refine Only.step (raiseCcs_only _ _) (by decide +kernel) ?_
        refine Only.step (retireNow_only _ _) (by decide +kernel) ?_
        assumption
      · extract_lets +onlyGivenNames x8
        refine Only.have_ (t := x8) ?_ fun hx8 => ?_
        · subst x8
          refine Only.ite ?_ ?_
          · refine Only.step (takeSpan_only _ _ _) (by decide +kernel) ?_
            assumption
          · assumption
        clear_value x8
        split
        · subst x7
          dsimp -zeta only
          refine Only.step (raiseCcs_only _ _) (by decide +kernel) ?_
          refine Only.step (retireNow_only _ _) (by decide +kernel) ?_
          refine Only.step (trust_only_eq _ _ _ _ _ ‹_›) (by decide +kernel) ?_
          assumption
        · refine cmdEnd_ite ?_ ?_
          · subst x7
            dsimp -zeta only
            refine Only.step (raiseCcs_only _ _) (by decide +kernel) ?_
            refine Only.step (retireNow_only _ _) (by decide +kernel) ?_
            refine Only.step (trust_only_eq _ _ _ _ _ ‹_›) (by decide +kernel) ?_
            assumption
          · extract_lets +onlyGivenNames x9
            clear_value x9
            extract_lets +onlyGivenNames x10
            clear_value x10
            refine cmdEnd_ite ?_ ?_
            · subst x7
              dsimp -zeta only
              refine Only.step (raiseCcs_only _ _) (by decide +kernel) ?_
              refine Only.step (retireNow_only _ _) (by decide +kernel) ?_
              refine Only.step (trust_only_eq _ _ _ _ _ ‹_›) (by decide +kernel) ?_
              assumption
            · refine cmdEnd_only ?_
              refine Only.step (startReads_only _ _) (by decide +kernel) ?_
              refine Only.step (setVersion_only _ _) (by decide +kernel) ?_
              refine Only.step (trust_only_eq _ _ _ _ _ ‹_›) (by decide +kernel) ?_
              assumption

theorem claimHandle_only : ∀ a0 a1 s, Only [.handles] [] s (claimHandle a0 a1 s) := by
  intro a0 a1 s
  unfold claimHandle
  split
  · refine Only.set_handles (by decide +kernel) ?_
    exact Only.refl _ _ _
  · refine Only.step (modHandle_only _ _ _) (by decide +kernel) ?_
    exact Only.refl _ _ _

theorem execFetch_gives : ∀ a0 a1 s, Gives [.range, .packed, .bindings, .handles, .versions, .rallies, .deferred, .ws, .mail, .ring, .qps, .heldOut, .out] [(0x10, 0x18, 0x18), (0x20, 0x358, 0x358), (0x70, 0x18, 0x18), (0x70, 0x10c, 0x10c), (0x71, 0x18, 0x18), (0x71, 0x11c, 0x11c), (0xb0, 0x124, 0x124), (0xb0, 0x128, 0x128)] s (execFetch a0 a1 s) := by
  intro a0 a1 s
  unfold execFetch
  refine Gives.next ?_
  refine byLeader_only (by decide +kernel) (fun s => ?_) ?_
  · extract_lets +onlyGivenNames x1
    clear_value x1
    refine Only.ite ?_ ?_
    · refine finish_only (by decide +kernel) ?_
      refine Only.step (refuse_only _ _) (by decide +kernel) ?_
      exact Only.refl _ _ _
    · refine Only.ite ?_ ?_
      · refine finish_only (by decide +kernel) ?_
        refine Only.step (refuse_only _ _) (by decide +kernel) ?_
        exact Only.refl _ _ _
      · split
        · refine finish_only (by decide +kernel) ?_
          refine Only.step (refuse_only _ _) (by decide +kernel) ?_
          exact Only.refl _ _ _
        · refine finish_only (by decide +kernel) ?_
          refine Only.step (startFetch_only _ _ _ _) (by decide +kernel) ?_
          refine Only.ite ?_ ?_
          · refine Only.step (claimHandle_only _ _ _) (by decide +kernel) ?_
            exact Only.refl _ _ _
          · exact Only.refl _ _ _
  · exact Only.refl _ _ _

theorem onHandleMask : ∀ s, Only [.deferred, .handles, .mail, .heldOut, .out] [] s s := by
  intro s
  exact Only.refl _ _ s

theorem onHandle_only {m : List Fld} {r : List RegSpan} {env : Env} {i : Instr} {op : Nat} {handle : W16}
    {f : HandleSt → State → CmdEnd} {s u : State} (hm : within [.deferred, .handles, .mail, .heldOut, .out] [] m r = true) (hf : ∀ x s, Only m r s (f x s).s)
    (h : Only m r u s) : Only m r u (onHandle env i op handle f s) := by
  unfold onHandle
  refine byLeader_only (within_within (by decide +kernel) hm) (fun s => ?_) h
  extract_lets +onlyGivenNames x1
  refine finish_only (within_within (by decide +kernel) hm) ?_
  split
  · exact Only.refl _ _ _
  · refine cmdEnd_ite (Only.refl _ _ _) (cmdEnd_ite (Only.refl _ _ _) (hf _ _))

theorem evictPages_only : ∀ a0 s t, evictPages a0 s = some t → Only [.range] [] s t := by
  intro a0 s t h
  revert h
  induction a0 generalizing s t with
  | nil =>
    intro h
    unfold evictPages at h
    cases h
    exact Only.refl _ _ _
  | cons x l ih =>
    intro h
    unfold evictPages at h
    split at h
    · cases h
    · extract_lets +onlyGivenNames x1 at h
      refine Only.trans ?_ (ih _ _ h)
      refine modRange_only (by first | exact fun r => id | (intro r h; simp only [Range.wf, Bool.and_eq_true] at h ⊢; first | exact h | exact ⟨swf_filter _ _ _ _ h.1, swf_filter _ _ _ _ h.2⟩)) (by decide +kernel) ?_
      refine Only.step (setHome_only _ _ _) (by decide +kernel) ?_
      exact Only.refl _ _ _

theorem evictTable_only : ∀ a0 a1 s t, evictTable a0 a1 s = some t → Only [.range] [] s t := by
  intro a0 a1 s t h
  unfold evictTable at h
  refine Only.step (evictPages_only _ _ _ h) (by decide +kernel) ?_
  exact Only.refl _ _ _

theorem evictTables_only : ∀ a0 a1 s t, evictTables a0 a1 s = some t → Only [.range] [] s t := by
  intro a0 a1 s t h
  revert h
  induction a1 generalizing a0 s t with
  | nil =>
    intro h
    unfold evictTables at h
    cases h
    exact Only.refl _ _ _
  | cons x l ih =>
    intro h
    unfold evictTables at h
    extract_lets +onlyGivenNames x1 at h
    split at h
    · cases h
    · refine Only.trans ?_ (ih _ _ _ h)
      refine Only.step (evictTable_only _ _ _ _ ‹_›) (by decide +kernel) ?_
      exact Only.refl _ _ _

theorem evictAll_only : ∀ a0 a1 s t, evictAll a0 a1 s = some t → Only [.range] [] s t := by
  intro a0 a1 s t h
  unfold evictAll at h
  refine Only.step (evictTables_only _ _ _ _ h) (by decide +kernel) ?_
  exact Only.refl _ _ _

theorem takePages_only : ∀ a0 a1 s t, takePages a0 a1 s = some t → Only [.range] [] s t := by
  intro a0 a1 s t h
  revert h
  induction a1 generalizing a0 s t with
  | nil =>
    intro h
    unfold takePages at h
    cases h
    exact Only.refl _ _ _
  | cons x l ih =>
    intro h
    unfold takePages at h
    split at h
    · cases h
    · split at h
      · cases h
      · refine Only.trans ?_ (ih _ _ _ h)
        refine Only.step (setHome_only _ _ _) (by decide +kernel) ?_
        refine Only.step (clearFlags_only _ _) (by decide +kernel) ?_
        exact Only.refl _ _ _

theorem takeBuffer_only : ∀ a0 a1 s t, takeBuffer a0 a1 s = some t → Only [.range] [] s t := by
  intro a0 a1 s t h
  unfold takeBuffer at h
  refine Only.step (takePages_only _ _ _ _ h) (by decide +kernel) ?_
  exact Only.refl _ _ _

theorem makeRoom_only : ∀ a0 a1 a2 s t, makeRoom a0 a1 a2 s = some t → Only [.range] [] s t := by
  intro a0 a1 a2 s t h
  unfold makeRoom at h
  split at h
  · cases h
  · refine Only.step (takeBuffer_only _ _ _ _ h) (by decide +kernel) ?_
    refine Only.step (evictAll_only _ _ _ _ ‹_›) (by decide +kernel) ?_
    exact Only.refl _ _ _

theorem storePart_only : ∀ a0 a1 s, Only [.versions, .ws] [] s (storePart a0 a1 s).2 := by
  intro a0 a1 s
  unfold storePart
  refine Only.ite_snd ?_ ?_
  · split
    · extract_lets +onlyGivenNames x1
      clear_value x1
      refine Only.pair ?_
      refine Only.step (programAll_only _ _) (by decide +kernel) ?_
      refine Only.step (setVersion_only _ _) (by decide +kernel) ?_
      exact Only.refl _ _ _
    · refine Only.pair ?_
      exact Only.refl _ _ _
  · refine Only.pair ?_
    exact Only.refl _ _ _

theorem storePart_only_eq : ∀ a0 a1 s x t, storePart a0 a1 s = (x, t) → Only [.versions, .ws] [] s t := by
  intro a0 a1 s x t h
  have := storePart_only a0 a1 s
  rw [h] at this
  exact this

theorem pair_only : ∀ a0 a1 s, Only [] [(0x20, 0x358, 0x358)] s (pair a0 a1 s) := by
  intro a0 a1 s
  unfold pair
  refine Only.step (fset_only 0x20 0x358 _ _ _ _ rfl rfl rfl) (by decide +kernel) ?_
  refine Only.step (fset_only 0x20 0x358 _ _ _ _ rfl rfl rfl) (by decide +kernel) ?_
  refine Only.step (fset_only 0x20 0x358 _ _ _ _ rfl rfl rfl) (by decide +kernel) ?_
  refine Only.step (fset_only 0x20 0x358 _ _ _ _ rfl rfl rfl) (by decide +kernel) ?_
  refine Only.step (fset_only 0x20 0x358 _ _ _ _ rfl rfl rfl) (by decide +kernel) ?_
  refine Only.step (fset_only 0x20 0x358 _ _ _ _ rfl rfl rfl) (by decide +kernel) ?_
  refine Only.step (fset_only 0x20 0x358 _ _ _ _ rfl rfl rfl) (by decide +kernel) ?_
  refine Only.step (fset_only 0x20 0x358 _ _ _ _ rfl rfl rfl) (by decide +kernel) ?_
  exact Only.refl _ _ _

theorem loadTable_only : ∀ a0 a1 a2 a3 s, Only [.tiles, .sram, .sramPoison] [(0x20, 0x408, 0x408)] s (loadTable a0 a1 a2 a3 s) := by
  intro a0 a1 a2 a3 s
  unfold loadTable
  extract_lets +onlyGivenNames x1
  clear_value x1
  extract_lets +onlyGivenNames x2
  refine Only.have_ (t := x2) ?_ fun hx2 => ?_
  · subst x2
    refine Only.step (modTile_only _ _ _) (by decide +kernel) ?_
    refine Only.step (sramWrite_only _ _ _ _) (by decide +kernel) ?_
    exact Only.refl _ _ _
  clear_value x2
  refine Only.step (fset_only 0x20 0x408 _ _ _ _ rfl rfl rfl) (by decide +kernel) ?_
  refine Only.step (fset_only 0x20 0x408 _ _ _ _ rfl rfl rfl) (by decide +kernel) ?_
  assumption

theorem Only.set_rowBus_scaleBus : ∀ {m : List Fld} {r : List RegSpan} {s t : State} {v0 v1}, [.rowBus, .scaleBus].all (fun x => m.contains x) = true → Only m r s t → Only m r s { t with rowBus := v0, scaleBus := v1 } := by
  intro m r s t v0 v1 hm h
  refine h.trans ⟨fun x hx _ => ?_, fun _ _ _ => rfl, fun c => c⟩
  cases x <;> first | rfl | exact absurd (List.contains_iff_mem.mp (List.all_eq_true.mp hm _ (by simp))) hx

theorem loadBank_only : ∀ a0 a1 a2 a3 a4 s, Only [.tiles, .mesh, .rowBus, .scaleBus, .range, .heldOut, .out] [(0x20, 0x18, 0x18), (0x20, 0x15c, 0x15c), (0x20, 0x410, 0x410), (0x20, 0x414, 0x414), (0x20, 0x418, 0x418), (0x20, 0x41c, 0x41c), (0x20, 0x420, 0x420), (0x40, 0x130, 0x130)] s (loadBank a0 a1 a2 a3 a4 s) := by
  intro a0 a1 a2 a3 a4 s
  unfold loadBank
  split
  · exact Only.refl _ _ _
  · extract_lets +onlyGivenNames x1
    clear_value x1
    extract_lets +onlyGivenNames x2
    refine Only.have_ (t := x2) ?_ fun hx2 => ?_
    · subst x2
      refine Only.foldl (fun s x => ?_) ?_
      · extract_lets +onlyGivenNames x3
        clear_value x3
        refine Only.ite ?_ ?_
        · exact Only.refl _ _ _
        · refine Only.step (startBankWrite_only _ _ _ _ _ _ _ _ _) (by decide +kernel) ?_
          exact Only.refl _ _ _
      · exact Only.refl _ _ _
    clear_value x2
    extract_lets +onlyGivenNames x4
    clear_value x4
    extract_lets +onlyGivenNames x5
    clear_value x5
    refine Only.set_rowBus_scaleBus (by decide +kernel) ?_
    assumption

theorem place_only : ∀ a0 a1 a2 a3 a4 a5 s, Only [.tiles, .sram, .sramPoison, .mesh, .rowBus, .scaleBus, .range, .packed, .handles, .rallies, .heldOut, .out] [(0x20, 0x18, 0x18), (0x20, 0x15c, 0x15c), (0x20, 0x358, 0x358), (0x20, 0x408, 0x408), (0x20, 0x410, 0x410), (0x20, 0x414, 0x414), (0x20, 0x418, 0x418), (0x20, 0x41c, 0x41c), (0x20, 0x420, 0x420), (0x40, 0x130, 0x130)] s (place a0 a1 a2 a3 a4 a5 s) := by
  intro a0 a1 a2 a3 a4 a5 s
  unfold place
  extract_lets +onlyGivenNames x1
  clear_value x1
  extract_lets +onlyGivenNames x2
  clear_value x2
  extract_lets +onlyGivenNames x3
  refine Only.have_ (t := x3) ?_ fun hx3 => ?_
  · subst x3
    refine Only.foldl (fun s x => ?_) ?_
    · split
      · refine Only.step (pair_only _ _ _) (by decide +kernel) ?_
        exact Only.refl _ _ _
      · exact Only.refl _ _ _
    · exact Only.refl _ _ _
  clear_value x3
  extract_lets +onlyGivenNames x4
  refine Only.have_ (t := x4) ?_ fun hx4 => ?_
  · subst x4
    refine Only.step (modHandle_only _ _ _) (by decide +kernel) ?_
    assumption
  clear_value x4
  extract_lets +onlyGivenNames x5
  refine Only.have_ (t := x5) ?_ fun hx5 => ?_
  · subst x5
    refine Only.foldl (fun s x => ?_) ?_
    · extract_lets +onlyGivenNames x6
      clear_value x6
      refine Only.foldl (fun s x => ?_) ?_
      · refine Only.step (loadTable_only _ _ _ _ _) (by decide +kernel) ?_
        exact Only.refl _ _ _
      · exact Only.refl _ _ _
    · assumption
  clear_value x5
  extract_lets +onlyGivenNames x7
  refine Only.have_ (t := x7) ?_ fun hx7 => ?_
  · subst x7
    refine Only.set_packed (by decide +kernel) ?_
    assumption
  clear_value x7
  split
  · refine Only.foldl (fun s x => ?_) ?_
    · refine Only.step (loadBank_only _ _ _ _ _ _) (by decide +kernel) ?_
      exact Only.refl _ _ _
    · assumption
  · extract_lets +onlyGivenNames x8
    clear_value x8
    refine Only.step (setRally_only _ _ _) (by decide +kernel) ?_
    assumption

theorem activate_only : ∀ a0 a1 a2 s, Only [.tiles, .sram, .sramPoison, .mesh, .rowBus, .scaleBus, .range, .packed, .handles, .versions, .rallies, .ws, .heldOut, .out] [(0x10, 0x18, 0x18), (0x20, 0x18, 0x18), (0x20, 0x15c, 0x15c), (0x20, 0x358, 0x358), (0x20, 0x408, 0x408), (0x20, 0x410, 0x410), (0x20, 0x414, 0x414), (0x20, 0x418, 0x418), (0x20, 0x41c, 0x41c), (0x20, 0x420, 0x420), (0x40, 0x130, 0x130)] s (activate a0 a1 a2 s).s := by
  intro a0 a1 a2 s
  unfold activate
  split
  · refine Only.step (refuse_only _ _) (by decide +kernel) ?_
    exact Only.refl _ _ _
  · refine Only.step (refuse_only _ _) (by decide +kernel) ?_
    exact Only.refl _ _ _
  · refine cmdEnd_ite ?_ ?_
    · refine Only.step (refuse_only _ _) (by decide +kernel) ?_
      exact Only.refl _ _ _
    · refine cmdEnd_ite ?_ ?_
      · refine Only.step (refuse_only _ _) (by decide +kernel) ?_
        exact Only.refl _ _ _
      · split
        · refine Only.step (refuse_only _ _) (by decide +kernel) ?_
          exact Only.refl _ _ _
        · refine cmdEnd_ite ?_ ?_
          · refine Only.step (refuse_only _ _) (by decide +kernel) ?_
            exact Only.refl _ _ _
          · split
            · refine Only.step (refuse_only _ _) (by decide +kernel) ?_
              exact Only.refl _ _ _
            · extract_lets +onlyGivenNames x1
              clear_value x1
              split
              · refine Only.step (refuse_only _ _) (by decide +kernel) ?_
                exact Only.refl _ _ _
              · extract_lets +onlyGivenNames x2
                clear_value x2
                extract_lets +onlyGivenNames x3
                clear_value x3
                extract_lets +onlyGivenNames x4
                clear_value x4
                refine cmdEnd_ite ?_ ?_
                · refine Only.step (refuse_only _ _) (by decide +kernel) ?_
                  exact Only.refl _ _ _
                · split
                  · refine Only.step (refuse_only _ _) (by decide +kernel) ?_
                    exact Only.refl _ _ _
                  · extract_lets +onlyGivenNames x5
                    extract_lets +onlyGivenNames x6
                    clear_value x6
                    extract_lets +onlyGivenNames x7
                    clear_value x7
                    extract_lets +onlyGivenNames x8
                    clear_value x8
                    extract_lets +onlyGivenNames x9
                    refine Only.have_ (t := x9) ?_ fun hx9 => ?_
                    · subst x9
                      refine Only.step (place_only _ _ _ _ _ _ _) (by decide +kernel) ?_
                      refine Only.step (setState_only _ _ _) (by decide +kernel) ?_
                      refine Only.step (storePart_only _ _ _) (by decide +kernel) ?_
                      refine Only.step (makeRoom_only _ _ _ _ _ ‹_›) (by decide +kernel) ?_
                      exact Only.refl _ _ _
                    clear_value x9
                    refine cmdEnd_only ?_
                    refine Only.step (modHandle_only _ _ _) (by decide +kernel) ?_
                    assumption

theorem execActivate_gives : ∀ a0 a1 a2 a3 s, Gives [.tiles, .sram, .sramPoison, .mesh, .rowBus, .scaleBus, .range, .packed, .handles, .versions, .rallies, .deferred, .ws, .mail, .heldOut, .out] [(0x10, 0x18, 0x18), (0x20, 0x18, 0x18), (0x20, 0x15c, 0x15c), (0x20, 0x358, 0x358), (0x20, 0x408, 0x408), (0x20, 0x410, 0x410), (0x20, 0x414, 0x414), (0x20, 0x418, 0x418), (0x20, 0x41c, 0x41c), (0x20, 0x420, 0x420), (0x40, 0x130, 0x130)] s (execActivate a0 a1 a2 a3 s) := by
  intro a0 a1 a2 a3 s
  unfold execActivate
  refine Gives.next ?_
  refine onHandle_only (by decide +kernel) (fun h s => ?_) ?_
  · refine Only.step (activate_only _ _ _ _) (by decide +kernel) ?_
    exact Only.refl _ _ _
  · exact Only.refl _ _ _

theorem switchVersions_only : ∀ a0 a1 s, Only [.versions, .heldOut, .out] [(0x10, 0x18, 0x18)] s (switchVersions a0 a1 s) := by
  intro a0 a1 s
  unfold switchVersions
  split
  · extract_lets +onlyGivenNames x1
    clear_value x1
    refine Only.step (setState_only _ _ _) (by decide +kernel) ?_
    refine Only.step (setState_only _ _ _) (by decide +kernel) ?_
    exact Only.refl _ _ _
  · exact Only.refl _ _ _

theorem streamedSwitch_only : ∀ a0 s, Only [.versions, .rallies, .heldOut, .out] [(0x10, 0x18, 0x18)] s (streamedSwitch a0 s) := by
  intro a0 s
  unfold streamedSwitch
  extract_lets +onlyGivenNames x1
  refine Only.have_ (t := x1) ?_ fun hx1 => ?_
  · subst x1
    refine Only.step (switchVersions_only _ _ _) (by decide +kernel) ?_
    exact Only.refl _ _ _
  clear_value x1
  split
  · assumption
  · extract_lets +onlyGivenNames x2
    clear_value x2
    refine Only.ite ?_ ?_
    · refine Only.step (setRally_only _ _ _) (by decide +kernel) ?_
      assumption
    · assumption

theorem startReplace_only : ∀ a0 a1 a2 a3 a4 s, Only [.tiles, .mesh, .rowBus, .scaleBus, .range, .handles, .versions, .rallies, .heldOut, .out] [(0x10, 0x18, 0x18), (0x20, 0x18, 0x18), (0x20, 0x15c, 0x15c), (0x20, 0x410, 0x410), (0x20, 0x414, 0x414), (0x20, 0x418, 0x418), (0x20, 0x41c, 0x41c), (0x20, 0x420, 0x420), (0x40, 0x130, 0x130)] s (startReplace a0 a1 a2 a3 a4 s).s := by
  intro a0 a1 a2 a3 a4 s
  unfold startReplace
  refine cmdEnd_ite ?_ ?_
  · refine Only.step (refuse_only _ _) (by decide +kernel) ?_
    exact Only.refl _ _ _
  · split
    · refine cmdEnd_ite ?_ ?_
      · refine Only.step (refuse_only _ _) (by decide +kernel) ?_
        exact Only.refl _ _ _
      · refine cmdEnd_ite ?_ ?_
        · refine Only.step (refuse_only _ _) (by decide +kernel) ?_
          exact Only.refl _ _ _
        · refine cmdEnd_ite ?_ ?_
          · refine Only.step (refuse_only _ _) (by decide +kernel) ?_
            exact Only.refl _ _ _
          · split
            · refine Only.step (refuse_only _ _) (by decide +kernel) ?_
              exact Only.refl _ _ _
            · split
              · refine Only.step (refuse_only _ _) (by decide +kernel) ?_
                exact Only.refl _ _ _
              · refine cmdEnd_ite ?_ ?_
                · refine cmdEnd_only ?_
                  refine Only.step (streamedSwitch_only _ _) (by decide +kernel) ?_
                  exact Only.refl _ _ _
                · refine cmdEnd_ite ?_ ?_
                  · refine Only.step (refuse_only _ _) (by decide +kernel) ?_
                    exact Only.refl _ _ _
                  · extract_lets +onlyGivenNames x1
                    refine Only.have_ (t := x1) ?_ fun hx1 => ?_
                    · subst x1
                      refine Only.step (modHandle_only _ _ _) (by decide +kernel) ?_
                      exact Only.refl _ _ _
                    clear_value x1
                    extract_lets +onlyGivenNames x2
                    refine Only.have_ (t := x2) ?_ fun hx2 => ?_
                    · subst x2
                      refine Only.ite ?_ ?_
                      · refine Only.foldl (fun s x => ?_) ?_
                        · refine Only.step (loadBank_only _ _ _ _ _ _) (by decide +kernel) ?_
                          exact Only.refl _ _ _
                        · assumption
                      · assumption
                    clear_value x2
                    refine cmdEnd_only ?_
                    assumption
    · refine Only.step (refuse_only _ _) (by decide +kernel) ?_
      exact Only.refl _ _ _

theorem execReplace_gives : ∀ a0 a1 a2 a3 a4 s, Gives [.tiles, .mesh, .rowBus, .scaleBus, .range, .handles, .versions, .rallies, .deferred, .mail, .heldOut, .out] [(0x10, 0x18, 0x18), (0x20, 0x18, 0x18), (0x20, 0x15c, 0x15c), (0x20, 0x410, 0x410), (0x20, 0x414, 0x414), (0x20, 0x418, 0x418), (0x20, 0x41c, 0x41c), (0x20, 0x420, 0x420), (0x40, 0x130, 0x130)] s (execReplace a0 a1 a2 a3 a4 s) := by
  intro a0 a1 a2 a3 a4 s
  unfold execReplace
  refine Gives.next ?_
  refine onHandle_only (by decide +kernel) (fun h s => ?_) ?_
  · refine Only.step (startReplace_only _ _ _ _ _ _) (by decide +kernel) ?_
    exact Only.refl _ _ _
  · exact Only.refl _ _ _

theorem fetchFail_only : ∀ a0 a1 s, Only [.packed, .bindings, .handles, .versions, .rallies, .ws, .mail, .heldOut, .out] [(0x10, 0x18, 0x18), (0x20, 0x358, 0x358)] s (fetchFail a0 a1 s) := by
  intro a0 a1 s
  unfold fetchFail
  refine finish_only (by decide +kernel) ?_
  refine cmdEnd_only ?_
  refine Only.step (raiseCcs_only _ _) (by decide +kernel) ?_
  refine Only.step (retireNow_only _ _) (by decide +kernel) ?_
  exact Only.refl _ _ _

theorem retire_only : ∀ a0 a1 s, Only [.packed, .bindings, .handles, .versions, .rallies, .ws, .mail, .heldOut, .out] [(0x10, 0x18, 0x18), (0x20, 0x358, 0x358)] s (retire a0 a1 s).s := by
  intro a0 a1 s
  unfold retire
  split
  · refine Only.step (refuse_only _ _) (by decide +kernel) ?_
    exact Only.refl _ _ _
  · refine cmdEnd_ite ?_ ?_
    · extract_lets +onlyGivenNames x1
      refine Only.have_ (t := x1) ?_ fun hx1 => ?_
      · subst x1
        refine Only.step (setState_only _ _ _) (by decide +kernel) ?_
        exact Only.refl _ _ _
      clear_value x1
      refine cmdEnd_only ?_
      refine Only.ite ?_ ?_
      · assumption
      · refine Only.step (retireNow_only _ _) (by decide +kernel) ?_
        assumption
    · refine cmdEnd_ite ?_ ?_
      · refine cmdEnd_only ?_
        refine Only.step (fetchFail_only _ _ _) (by decide +kernel) ?_
        exact Only.refl _ _ _
      · refine cmdEnd_ite ?_ ?_
        · refine cmdEnd_only ?_
          refine Only.step (retireNow_only _ _) (by decide +kernel) ?_
          exact Only.refl _ _ _
        · refine Only.step (refuse_only _ _) (by decide +kernel) ?_
          exact Only.refl _ _ _

theorem execRetire_gives : ∀ a0 a1 a2 s, Gives [.packed, .bindings, .handles, .versions, .rallies, .deferred, .ws, .mail, .heldOut, .out] [(0x10, 0x18, 0x18), (0x20, 0x358, 0x358)] s (execRetire a0 a1 a2 s) := by
  intro a0 a1 a2 s
  unfold execRetire
  refine Gives.next ?_
  refine onHandle_only (by decide +kernel) (fun h s => ?_) ?_
  · refine Only.step (retire_only _ _ _) (by decide +kernel) ?_
    exact Only.refl _ _ _
  · exact Only.refl _ _ _

theorem sourceRelease_only : ∀ a0 a1 s, Only [.versions] [] s (sourceRelease a0 a1 s).s := by
  intro a0 a1 s
  unfold sourceRelease
  split
  · refine Only.step (refuse_only _ _) (by decide +kernel) ?_
    exact Only.refl _ _ _
  · refine cmdEnd_ite ?_ ?_
    · refine Only.step (refuse_only _ _) (by decide +kernel) ?_
      exact Only.refl _ _ _
    · extract_lets +onlyGivenNames x1
      extract_lets +onlyGivenNames x2
      clear_value x2
      refine cmdEnd_only ?_
      refine Only.step (setVersion_only _ _) (by decide +kernel) ?_
      exact Only.refl _ _ _

theorem execSourceRelease_gives : ∀ a0 a1 a2 s, Gives [.handles, .versions, .deferred, .mail, .heldOut, .out] [] s (execSourceRelease a0 a1 a2 s) := by
  intro a0 a1 a2 s
  unfold execSourceRelease
  refine Gives.next ?_
  refine onHandle_only (by decide +kernel) (fun h s => ?_) ?_
  · refine Only.step (sourceRelease_only _ _ _) (by decide +kernel) ?_
    exact Only.refl _ _ _
  · exact Only.refl _ _ _

theorem remapDone_only : ∀ a0 s, Only [.rallies] [] s (remapDone a0 s) := by
  intro a0 s
  unfold remapDone
  refine Only.foldl (fun s x => ?_) ?_
  · extract_lets +onlyGivenNames x1
    clear_value x1
    extract_lets +onlyGivenNames x2
    clear_value x2
    refine Only.ite ?_ ?_
    · exact Only.refl _ _ _
    · refine Only.step (setRally_only _ _ _) (by decide +kernel) ?_
      exact Only.refl _ _ _
  · exact Only.refl _ _ _

theorem relocate_only : ∀ a0 s, Only [.handles, .versions, .rallies, .ws] [] s (relocate a0 s).s := by
  intro a0 s
  unfold relocate
  split
  · refine Only.step (refuse_only _ _) (by decide +kernel) ?_
    exact Only.refl _ _ _
  · refine cmdEnd_ite ?_ ?_
    · refine Only.step (refuse_only _ _) (by decide +kernel) ?_
      exact Only.refl _ _ _
    · split
      · refine Only.step (refuse_only _ _) (by decide +kernel) ?_
        exact Only.refl _ _ _
      · extract_lets +onlyGivenNames x1
        clear_value x1
        extract_lets +onlyGivenNames x2
        refine Only.have_ (t := x2) ?_ fun hx2 => ?_
        · subst x2
          refine Only.foldl (fun s x => ?_) ?_
          · extract_lets +onlyGivenNames x3
            clear_value x3
            refine Only.ite ?_ ?_
            · exact Only.refl _ _ _
            · refine Only.step (setCw_only _ _ _) (by decide +kernel) ?_
              exact Only.refl _ _ _
          · exact Only.refl _ _ _
        clear_value x2
        extract_lets +onlyGivenNames x4
        refine Only.have_ (t := x4) ?_ fun hx4 => ?_
        · subst x4
          refine Only.step (eraseBlocks_only _ _) (by decide +kernel) ?_
          refine Only.step (setVersion_only _ _) (by decide +kernel) ?_
          assumption
        clear_value x4
        extract_lets +onlyGivenNames x5
        refine Only.have_ (t := x5) ?_ fun hx5 => ?_
        · subst x5
          refine Only.foldl (fun s x => ?_) ?_
          · refine Only.step (remapDone_only _ _) (by decide +kernel) ?_
            exact Only.refl _ _ _
          · assumption
        clear_value x5
        refine cmdEnd_only ?_
        refine Only.step (modHandle_only _ _ _) (by decide +kernel) ?_
        assumption

theorem execRelocate_gives : ∀ a0 a1 s, Gives [.handles, .versions, .rallies, .deferred, .ws, .mail, .heldOut, .out] [] s (execRelocate a0 a1 s) := by
  intro a0 a1 s
  unfold execRelocate
  refine Gives.next ?_
  refine onHandle_only (by decide +kernel) (fun h s => ?_) ?_
  · refine Only.step (relocate_only _ _) (by decide +kernel) ?_
    exact Only.refl _ _ _
  · exact Only.refl _ _ _

theorem onBinding_only {m : List Fld} {r : List RegSpan} {env : Env} {i : Instr} {op : Nat} {channel handle : W16}
    {f : Version → State → CmdEnd} {s u : State} (hm : within [.deferred, .handles, .mail, .heldOut, .out] [] m r = true) (hf : ∀ x s, Only m r s (f x s).s)
    (h : Only m r u s) : Only m r u (onBinding env i op channel handle f s) := by
  unfold onBinding
  refine byLeader_only (within_within (by decide +kernel) hm) (fun s => ?_) h
  extract_lets +onlyGivenNames x1 x2
  refine finish_only (within_within (by decide +kernel) hm) ?_
  refine cmdEnd_ite (Only.refl _ _ _) ?_
  split
  · exact cmdEnd_ite (Only.refl _ _ _) (hf _ _)
  · exact Only.refl _ _ _

theorem bind_only : ∀ a0 a1 a2 s, Only [.bindings] [] s (bind a0 a1 a2 s).s := by
  intro a0 a1 a2 s
  unfold bind
  extract_lets +onlyGivenNames x1
  clear_value x1
  extract_lets +onlyGivenNames x2
  clear_value x2
  split
  · refine Only.step (refuse_only _ _) (by decide +kernel) ?_
    exact Only.refl _ _ _
  · refine cmdEnd_ite ?_ ?_
    · refine Only.step (refuse_only _ _) (by decide +kernel) ?_
      exact Only.refl _ _ _
    · refine cmdEnd_ite ?_ ?_
      · refine Only.step (refuse_only _ _) (by decide +kernel) ?_
        exact Only.refl _ _ _
      · refine cmdEnd_ite ?_ ?_
        · refine Only.step (refuse_only _ _) (by decide +kernel) ?_
          exact Only.refl _ _ _
        · extract_lets +onlyGivenNames x3
          clear_value x3
          refine cmdEnd_ite ?_ ?_
          · refine Only.step (refuse_only _ _) (by decide +kernel) ?_
            exact Only.refl _ _ _
          · extract_lets +onlyGivenNames x4
            clear_value x4
            refine cmdEnd_only ?_
            refine Only.set_bindings (by decide +kernel) ?_
            exact Only.refl _ _ _

theorem execAdapterBind_gives : ∀ a0 a1 s, Gives [.bindings, .handles, .deferred, .mail, .heldOut, .out] [] s (execAdapterBind a0 a1 s) := by
  intro a0 a1 s
  unfold execAdapterBind
  refine Gives.next ?_
  refine onBinding_only (by decide +kernel) (fun v s => ?_) ?_
  · refine Only.step (bind_only _ _ _ _) (by decide +kernel) ?_
    exact Only.refl _ _ _
  · exact Only.refl _ _ _

theorem unbind_only : ∀ a0 a1 a2 s, Only [.bindings] [] s (unbind a0 a1 a2 s).s := by
  intro a0 a1 a2 s
  unfold unbind
  extract_lets +onlyGivenNames x1
  refine cmdEnd_ite ?_ ?_
  · refine cmdEnd_only ?_
    refine Only.set_bindings (by decide +kernel) ?_
    exact Only.refl _ _ _
  · refine Only.step (refuse_only _ _) (by decide +kernel) ?_
    exact Only.refl _ _ _

theorem execAdapterUnbind_gives : ∀ a0 a1 a2 a3 s, Gives [.bindings, .handles, .deferred, .mail, .heldOut, .out] [] s (execAdapterUnbind a0 a1 a2 a3 s) := by
  intro a0 a1 a2 a3 s
  unfold execAdapterUnbind
  refine Gives.next ?_
  refine onBinding_only (by decide +kernel) (fun v s => ?_) ?_
  · refine Only.step (unbind_only _ _ _ _) (by decide +kernel) ?_
    exact Only.refl _ _ _
  · exact Only.refl _ _ _

theorem landed_only : ∀ a0 s, Only [.packed, .bindings, .handles, .versions, .rallies, .ws, .mail, .heldOut, .out] [(0x10, 0x18, 0x18), (0x20, 0x358, 0x358)] s (landed a0 s) := by
  intro a0 s
  unfold landed
  refine Only.ite ?_ ?_
  · refine Only.step (fetchFail_only _ _ _) (by decide +kernel) ?_
    exact Only.refl _ _ _
  · extract_lets +onlyGivenNames x1
    clear_value x1
    extract_lets +onlyGivenNames x2
    clear_value x2
    extract_lets +onlyGivenNames x3
    refine Only.have_ (t := x3) ?_ fun hx3 => ?_
    · subst x3
      refine Only.step (setState_only _ _ _) (by decide +kernel) ?_
      exact Only.refl _ _ _
    clear_value x3
    extract_lets +onlyGivenNames x4
    refine Only.have_ (t := x4) ?_ fun hx4 => ?_
    · subst x4
      refine Only.step (tryStore_only _ _) (by decide +kernel) ?_
      assumption
    clear_value x4
    split
    · assumption
    · refine Only.ite ?_ ?_
      · refine Only.step (fetchFail_only _ _ _) (by decide +kernel) ?_
        assumption
      · refine finish_only (by decide +kernel) ?_
        refine cmdEnd_only ?_
        assumption

theorem chunkFailed_only : ∀ a0 a1 s, Only [.handles, .versions, .heldOut, .out] [(0x10, 0x18, 0x18)] s (chunkFailed a0 a1 s).2 := by
  intro a0 a1 s
  unfold chunkFailed
  extract_lets +onlyGivenNames x1
  clear_value x1
  refine Only.pair ?_
  refine Only.step (raiseCcs_only _ _) (by decide +kernel) ?_
  refine Only.step (modHandle_only _ _ _) (by decide +kernel) ?_
  refine Only.step (setVersion_only _ _) (by decide +kernel) ?_
  exact Only.refl _ _ _

theorem chunkFailed_only_eq : ∀ a0 a1 s x t, chunkFailed a0 a1 s = (x, t) → Only [.handles, .versions, .heldOut, .out] [(0x10, 0x18, 0x18)] s t := by
  intro a0 a1 s x t h
  have := chunkFailed_only a0 a1 s
  rw [h] at this
  exact this

theorem landChunk_only : ∀ a0 a1 a2 s, Only [.packed, .bindings, .handles, .versions, .rallies, .ws, .mail, .heldOut, .out] [(0x10, 0x18, 0x18), (0x20, 0x358, 0x358)] s (landChunk a0 a1 a2 s) := by
  intro a0 a1 a2 s
  unfold landChunk
  refine Only.ite ?_ ?_
  · exact Only.refl _ _ _
  · refine Only.ite ?_ ?_
    · extract_lets +onlyGivenNames x1
      clear_value x1
      extract_lets +onlyGivenNames x2
      refine Only.have_ (t := x2) ?_ fun hx2 => ?_
      · subst x2
        refine Only.step (setVersion_only _ _) (by decide +kernel) ?_
        exact Only.refl _ _ _
      clear_value x2
      refine Only.ite ?_ ?_
      · refine Only.step (landed_only _ _) (by decide +kernel) ?_
        assumption
      · assumption
    · extract_lets +onlyGivenNames x3
      refine Only.ite ?_ ?_
      · refine Only.step (fetchFail_only _ _ _) (by decide +kernel) ?_
        refine Only.step (chunkFailed_only _ _ _) (by decide +kernel) ?_
        exact Only.refl _ _ _
      · refine Only.step (chunkFailed_only _ _ _) (by decide +kernel) ?_
        exact Only.refl _ _ _

theorem refetched_only : ∀ a0 a1 a2 s, Only [.handles, .versions, .heldOut, .out] [(0x10, 0x18, 0x18)] s (refetched a0 a1 a2 s) := by
  intro a0 a1 a2 s
  unfold refetched
  refine Only.ite ?_ ?_
  · exact Only.refl _ _ _
  · extract_lets +onlyGivenNames x1
    refine Only.have_ (t := x1) ?_ fun hx1 => ?_
    · subst x1
      refine Only.step (raiseCcs_only _ _) (by decide +kernel) ?_
      refine Only.step (modHandle_only _ _ _) (by decide +kernel) ?_
      exact Only.refl _ _ _
    clear_value x1
    refine Only.ite ?_ ?_
    · refine Only.step (setVersion_only _ _) (by decide +kernel) ?_
      assumption
    · extract_lets +onlyGivenNames x2
      refine Only.ite ?_ ?_
      · refine Only.step (raiseCcs_only _ _) (by decide +kernel) ?_
        refine Only.step (setVersion_only _ _) (by decide +kernel) ?_
        assumption
      · refine Only.step (setVersion_only _ _) (by decide +kernel) ?_
        assumption

theorem execManifestChunkLanded_gives : ∀ a0 a1 a2 a3 s, Gives [.packed, .bindings, .handles, .versions, .rallies, .ws, .mail, .heldOut, .out] [(0x10, 0x18, 0x18), (0x20, 0x358, 0x358)] s (execManifestChunkLanded a0 a1 a2 a3 s) := by
  intro a0 a1 a2 a3 s
  unfold execManifestChunkLanded
  extract_lets +onlyGivenNames x1
  clear_value x1
  split
  · refine Gives.next ?_
    refine Only.step (landChunk_only _ _ _ _) (by decide +kernel) ?_
    exact Only.refl _ _ _
  · split
    · refine Gives.next ?_
      refine Only.step (refetched_only _ _ _ _) (by decide +kernel) ?_
      exact Only.refl _ _ _
    · refine Gives.next ?_
      exact Only.refl _ _ _

theorem execFetchSourceTimeout_gives : ∀ a0 s, Gives [.packed, .bindings, .handles, .versions, .rallies, .ws, .mail, .heldOut, .out] [(0x10, 0x18, 0x18), (0x20, 0x358, 0x358)] s (execFetchSourceTimeout a0 s) := by
  intro a0 s
  unfold execFetchSourceTimeout
  split
  · refine Gives.next ?_
    refine Only.step (fetchFail_only _ _ _) (by decide +kernel) ?_
    exact Only.refl _ _ _
  · refine Gives.next ?_
    exact Only.refl _ _ _

theorem execManifestChunkVerified_gives : ∀ a0 a1 a2 a3 s, Gives [.versions, .heldOut, .out] [(0x10, 0x18, 0x18)] s (execManifestChunkVerified a0 a1 a2 a3 s) := by
  intro a0 a1 a2 a3 s
  unfold execManifestChunkVerified
  split
  · refine Gives.next ?_
    exact Only.refl _ _ _
  · refine Gives.ite ?_ ?_
    · refine Gives.next ?_
      exact Only.refl _ _ _
    · extract_lets +onlyGivenNames x1
      clear_value x1
      extract_lets +onlyGivenNames x2
      clear_value x2
      refine Gives.ite ?_ ?_
      · refine Gives.next ?_
        exact Only.refl _ _ _
      · extract_lets +onlyGivenNames x3
        refine Gives.ite ?_ ?_
        · refine Gives.next ?_
          refine Only.step (setVersion_only _ _) (by decide +kernel) ?_
          exact Only.refl _ _ _
        · refine Gives.ite ?_ ?_
          · refine Gives.next ?_
            refine Only.step (setState_only _ _ _) (by decide +kernel) ?_
            exact Only.refl _ _ _
          · refine Gives.next ?_
            refine Only.step (setVersion_only _ _) (by decide +kernel) ?_
            exact Only.refl _ _ _

theorem replaced_only : ∀ a0 s, Only [.tiles, .mesh, .reqs, .chans, .handles, .versions, .mail, .heldOut, .out] [(0x10, 0x18, 0x18), (0x50, 0x18, 0x18), (0x50, 0x128, 0x128), (0x50, 0x168, 0x168), (0x50, 0x178, 0x178)] s (replaced a0 s) := by
  intro a0 s
  unfold replaced
  extract_lets +onlyGivenNames x1
  clear_value x1
  extract_lets +onlyGivenNames x2
  refine Only.have_ (t := x2) ?_ fun hx2 => ?_
  · subst x2
    refine Only.step (switchVersions_only _ _ _) (by decide +kernel) ?_
    exact Only.refl _ _ _
  clear_value x2
  extract_lets +onlyGivenNames x3
  refine Only.have_ (t := x3) ?_ fun hx3 => ?_
  · subst x3
    refine Only.step (modHandle_only _ _ _) (by decide +kernel) ?_
    assumption
  clear_value x3
  extract_lets +onlyGivenNames x4
  refine Only.have_ (t := x4) ?_ fun hx4 => ?_
  · subst x4
    split
    · refine Only.step (reply_only _ _ _ _ _ _) (by decide +kernel) ?_
      assumption
    · assumption
  clear_value x4
  refine Only.ite ?_ ?_
  · refine Only.step (openHuddle_only _ _) (by decide +kernel) ?_
    assumption
  · assumption

theorem execShadowSwitch_gives : ∀ a0 s, Gives [.tiles, .mesh, .reqs, .chans, .handles, .versions, .mail, .heldOut, .out] [(0x10, 0x18, 0x18), (0x50, 0x18, 0x18), (0x50, 0x128, 0x128), (0x50, 0x168, 0x168), (0x50, 0x178, 0x178)] s (execShadowSwitch a0 s) := by
  intro a0 s
  unfold execShadowSwitch
  split
  · refine Gives.next ?_
    exact Only.refl _ _ _
  · split
    · refine Gives.ite ?_ ?_
      · refine Gives.next ?_
        refine Only.step (replaced_only _ _) (by decide +kernel) ?_
        exact Only.refl _ _ _
      · refine Gives.next ?_
        exact Only.refl _ _ _
    · refine Gives.next ?_
      exact Only.refl _ _ _

theorem execPinWindowExpire_gives : ∀ a0 s, Gives [.timer, .versions] [] s (execPinWindowExpire a0 s) := by
  intro a0 s
  unfold execPinWindowExpire
  split
  · refine Gives.next ?_
    exact Only.refl _ _ _
  · refine Gives.next ?_
    refine Only.step (setVersion_only _ _) (by decide +kernel) ?_
    refine Only.step (reach_only _ _) (by decide +kernel) ?_
    exact Only.refl _ _ _

theorem execHuddleLayerRewrite_gives : ∀ a0 s, Gives [.tiles, .mesh, .rowBus, .scaleBus, .range, .handles, .heldOut, .out] [(0x20, 0x18, 0x18), (0x20, 0x15c, 0x15c), (0x20, 0x410, 0x410), (0x20, 0x414, 0x414), (0x20, 0x418, 0x418), (0x20, 0x41c, 0x41c), (0x20, 0x420, 0x420), (0x40, 0x130, 0x130)] s (execHuddleLayerRewrite a0 s) := by
  intro a0 s
  unfold execHuddleLayerRewrite
  split
  · refine Gives.next ?_
    exact Only.refl _ _ _
  · split
    · extract_lets +onlyGivenNames x1
      clear_value x1
      split
      · extract_lets +onlyGivenNames x2
        clear_value x2
        refine Gives.ite ?_ ?_
        · extract_lets +onlyGivenNames x3
          refine Gives.have_ (t := x3) ?_ fun hx3 => ?_
          · subst x3
            refine Only.foldl (fun s x => ?_) ?_
            · refine Only.step (loadBank_only _ _ _ _ _ _) (by decide +kernel) ?_
              exact Only.refl _ _ _
            · exact Only.refl _ _ _
          clear_value x3
          refine Gives.next ?_
          refine Only.step (modHandle_only _ _ _) (by decide +kernel) ?_
          assumption
        · refine Gives.next ?_
          exact Only.refl _ _ _
      · refine Gives.next ?_
        exact Only.refl _ _ _
    · refine Gives.next ?_
      exact Only.refl _ _ _

theorem execHuddleSwitch_gives : ∀ a0 s, Gives [.tiles, .mesh, .reqs, .chans, .handles, .versions, .mail, .heldOut, .out] [(0x10, 0x18, 0x18), (0x50, 0x18, 0x18), (0x50, 0x128, 0x128), (0x50, 0x168, 0x168), (0x50, 0x178, 0x178)] s (execHuddleSwitch a0 s) := by
  intro a0 s
  unfold execHuddleSwitch
  split
  · refine Gives.next ?_
    exact Only.refl _ _ _
  · split
    · split
      · extract_lets +onlyGivenNames x1
        clear_value x1
        refine Gives.ite ?_ ?_
        · refine Gives.next ?_
          refine Only.step (replaced_only _ _) (by decide +kernel) ?_
          exact Only.refl _ _ _
        · refine Gives.next ?_
          exact Only.refl _ _ _
      · refine Gives.next ?_
        exact Only.refl _ _ _
    · refine Gives.next ?_
      exact Only.refl _ _ _

theorem execVersionRetired_gives : ∀ a0 s, Gives [.packed, .bindings, .handles, .versions, .rallies, .ws, .heldOut, .out] [(0x10, 0x18, 0x18), (0x20, 0x358, 0x358)] s (execVersionRetired a0 s) := by
  intro a0 s
  unfold execVersionRetired
  split
  · refine Gives.next ?_
    refine Only.ite ?_ ?_
    · exact Only.refl _ _ _
    · refine Only.step (retireNow_only _ _) (by decide +kernel) ?_
      exact Only.refl _ _ _
  · refine Gives.next ?_
    exact Only.refl _ _ _

theorem dropReplace_only : ∀ a0 a1 s, Only [.tiles, .mesh, .reqs, .chans, .handles, .mail, .heldOut, .out] [(0x50, 0x18, 0x18), (0x50, 0x128, 0x128), (0x50, 0x168, 0x168), (0x50, 0x178, 0x178)] s (dropReplace a0 a1 s) := by
  intro a0 a1 s
  unfold dropReplace
  split
  · exact Only.refl _ _ _
  · refine Only.ite ?_ ?_
    · exact Only.refl _ _ _
    · extract_lets +onlyGivenNames x1
      refine Only.have_ (t := x1) ?_ fun hx1 => ?_
      · subst x1
        refine Only.step (modHandle_only _ _ _) (by decide +kernel) ?_
        exact Only.refl _ _ _
      clear_value x1
      extract_lets +onlyGivenNames x2
      refine Only.have_ (t := x2) ?_ fun hx2 => ?_
      · subst x2
        split
        · refine Only.step (reply_only _ _ _ _ _ _) (by decide +kernel) ?_
          assumption
        · assumption
      clear_value x2
      refine Only.ite ?_ ?_
      · refine Only.step (openHuddle_only _ _) (by decide +kernel) ?_
        assumption
      · assumption

theorem execImgRevoked_gives : ∀ a0 s, Gives [.tiles, .mesh, .reqs, .chans, .handles, .versions, .mail, .heldOut, .out] [(0x10, 0x18, 0x18), (0x50, 0x18, 0x18), (0x50, 0x128, 0x128), (0x50, 0x168, 0x168), (0x50, 0x178, 0x178)] s (execImgRevoked a0 s) := by
  intro a0 s
  unfold execImgRevoked
  refine Gives.ite ?_ ?_
  · refine Gives.next ?_
    exact Only.refl _ _ _
  · extract_lets +onlyGivenNames x1
    clear_value x1
    extract_lets +onlyGivenNames x2
    refine Only.haveFn (P := fun x => ∀ y2_0 y2_1, Only [.tiles, .mesh, .reqs, .chans, .handles, .versions, .mail, .heldOut, .out] [(0x10, 0x18, 0x18), (0x50, 0x18, 0x18), (0x50, 0x128, 0x128), (0x50, 0x168, 0x168), (0x50, 0x178, 0x178)] y2_0 (x y2_0 y2_1)) (t := x2) ?_ fun hx2 => ?_
    · intro y2_0 y2_1
      subst x2
      dsimp -zeta only
      extract_lets +onlyGivenNames x3
      refine Only.have_ (t := x3) ?_ fun hx3 => ?_
      · subst x3
        refine Only.ite ?_ ?_
        · refine Only.step (reply_only _ _ _ _ _ _) (by decide +kernel) ?_
          exact Only.refl _ _ _
        · exact Only.refl _ _ _
      clear_value x3
      refine Only.step (dropReplace_only _ _ _) (by decide +kernel) ?_
      refine Only.step (setState_only _ _ _) (by decide +kernel) ?_
      assumption
    clear_value x2
    refine Gives.next ?_
    refine Only.step (raiseCcs_only _ _) (by decide +kernel) ?_
    refine Only.foldl (fun s x => ?_) ?_
    · refine Only.trans ?_ (hx2 ..)
      exact Only.refl _ _ _
    · exact Only.refl _ _ _

theorem moveBlock_only : ∀ a0 a1 a2 s, Only [.versions, .ws] [] s (moveBlock a0 a1 a2 s) := by
  intro a0 a1 a2 s
  unfold moveBlock
  extract_lets +onlyGivenNames x1
  clear_value x1
  refine Only.ite ?_ ?_
  · exact Only.refl _ _ _
  · extract_lets +onlyGivenNames x2
    refine Only.have_ (t := x2) ?_ fun hx2 => ?_
    · subst x2
      refine Only.foldl (fun s x => ?_) ?_
      · extract_lets +onlyGivenNames x3
        clear_value x3
        refine Only.ite ?_ ?_
        · exact Only.refl _ _ _
        · refine Only.step (setCw_only _ _ _) (by decide +kernel) ?_
          exact Only.refl _ _ _
      · exact Only.refl _ _ _
    clear_value x2
    refine Only.step (setVersion_only _ _) (by decide +kernel) ?_
    assumption

theorem execBlockRelocate_gives : ∀ a0 a1 s, Gives [.handles, .versions, .rallies, .ws] [] s (execBlockRelocate a0 a1 s) := by
  intro a0 a1 s
  unfold execBlockRelocate
  extract_lets +onlyGivenNames x1
  clear_value x1
  extract_lets +onlyGivenNames x2
  clear_value x2
  extract_lets +onlyGivenNames x3
  clear_value x3
  extract_lets +onlyGivenNames x4
  clear_value x4
  refine Gives.ite ?_ ?_
  · refine Gives.next ?_
    exact Only.refl _ _ _
  · extract_lets +onlyGivenNames x5
    clear_value x5
    extract_lets +onlyGivenNames x6
    refine Gives.have_ (t := x6) ?_ fun hx6 => ?_
    · subst x6
      refine Only.foldl (fun s x => ?_) ?_
      · refine Only.step (modHandle_only _ _ _) (by decide +kernel) ?_
        refine Only.step (moveBlock_only _ _ _ _) (by decide +kernel) ?_
        exact Only.refl _ _ _
      · exact Only.refl _ _ _
    clear_value x6
    refine Gives.next ?_
    refine Only.step (remapDone_only _ _) (by decide +kernel) ?_
    refine Only.step (clearBlock_only _ _) (by decide +kernel) ?_
    assumption

theorem execImgDamaged_gives : ∀ a0 a1 s, Gives [.versions, .heldOut, .out] [(0x10, 0x18, 0x18)] s (execImgDamaged a0 a1 s) := by
  intro a0 a1 s
  unfold execImgDamaged
  split
  · refine Gives.next ?_
    exact Only.refl _ _ _
  · refine Gives.ite ?_ ?_
    · refine Gives.next ?_
      refine Only.step (raiseCcs_only _ _) (by decide +kernel) ?_
      refine Only.step (setVersion_only _ _) (by decide +kernel) ?_
      exact Only.refl _ _ _
    · refine Gives.next ?_
      exact Only.refl _ _ _


end Sys2Proof.Machine
end

