-- ==== Sys2Proof/Laws/OnlyRally.lean ====
section
/-! SUPPORT. What the operations and the meanings of Machine/Rally.lean can change (`Only`, `Gives`): the parts of the state and the
registers, whatever the operands are. -/

namespace Sys2Proof.Machine

set_option linter.unusedSimpArgs false
set_option maxRecDepth 20000
set_option Elab.async false

theorem endMember_only : ∀ a0 a1 s, Only [.reqs, .chans, .heldOut, .out] [(0x50, 0x18, 0x18), (0x50, 0x128, 0x128), (0x50, 0x178, 0x178)] s (endMember a0 a1 s) := by
  intro a0 a1 s
  unfold endMember
  split
  · exact Only.refl _ _ _
  · refine Only.ite ?_ ?_
    · refine Only.step (dropReq_only _ _) (by decide +kernel) ?_
      exact Only.refl _ _ _
    · extract_lets +onlyGivenNames x1
      clear_value x1
      extract_lets +onlyGivenNames x2
      refine Only.ite ?_ ?_
      · refine Only.step (setReq_only _ _) (by decide +kernel) ?_
        exact Only.refl _ _ _
      · refine Only.step (complete_only _ _ _) (by decide +kernel) ?_
        exact Only.refl _ _ _

theorem stampMember_only : ∀ a0 a1 s, Only [.reqs, .chans, .heldOut, .out] [(0x50, 0x18, 0x18), (0x50, 0x128, 0x128), (0x50, 0x178, 0x178)] s (stampMember a0 a1 s).2 := by
  intro a0 a1 s
  unfold stampMember
  split
  · refine Only.pair ?_
    exact Only.refl _ _ _
  · refine Only.ite_snd ?_ ?_
    · refine Only.pair ?_
      refine Only.step (complete_only _ _ _) (by decide +kernel) ?_
      exact Only.refl _ _ _
    · refine Only.pair ?_
      refine Only.step (setReq_only _ _) (by decide +kernel) ?_
      exact Only.refl _ _ _

theorem stampMember_only_eq : ∀ a0 a1 s x t, stampMember a0 a1 s = (x, t) → Only [.reqs, .chans, .heldOut, .out] [(0x50, 0x18, 0x18), (0x50, 0x128, 0x128), (0x50, 0x178, 0x178)] s t := by
  intro a0 a1 s x t h
  have := stampMember_only a0 a1 s
  rw [h] at this
  exact this

theorem stampAll_only : ∀ a0 a1 s, Only [.reqs, .chans, .heldOut, .out] [(0x50, 0x18, 0x18), (0x50, 0x128, 0x128), (0x50, 0x178, 0x178)] s (stampAll a0 a1 s).2 := by
  intro a0 a1 s
  unfold stampAll
  refine Only.foldl_snd (fun s x => ?_) ?_
  · extract_lets +onlyGivenNames x1
    refine Only.pair ?_
    refine Only.step (stampMember_only _ _ _) (by decide +kernel) ?_
    exact Only.refl _ _ _
  · refine Only.pair ?_
    exact Only.refl _ _ _

theorem stampAll_only_eq : ∀ a0 a1 s x t, stampAll a0 a1 s = (x, t) → Only [.reqs, .chans, .heldOut, .out] [(0x50, 0x18, 0x18), (0x50, 0x128, 0x128), (0x50, 0x178, 0x178)] s t := by
  intro a0 a1 s x t h
  have := stampAll_only a0 a1 s
  rw [h] at this
  exact this

theorem loadChunk_only : ∀ a0 a1 a2 a3 s, Only [.tiles, .mesh, .rowBus, .scaleBus, .range, .heldOut, .out] [(0x20, 0x18, 0x18), (0x20, 0x15c, 0x15c), (0x20, 0x410, 0x410), (0x20, 0x414, 0x414), (0x20, 0x418, 0x418), (0x20, 0x41c, 0x41c), (0x20, 0x420, 0x420), (0x40, 0x130, 0x130)] s (loadChunk a0 a1 a2 a3 s) := by
  intro a0 a1 a2 a3 s
  unfold loadChunk
  split
  · exact Only.refl _ _ _
  · refine Only.foldl (fun s x => ?_) ?_
    · refine Only.step (loadBank_only _ _ _ _ _ _) (by decide +kernel) ?_
      exact Only.refl _ _ _
    · exact Only.refl _ _ _

theorem beginForming_only : ∀ a0 s, Only [.tiles, .mesh, .rowBus, .scaleBus, .range, .reqs, .chans, .rallies, .heldOut, .out] [(0x20, 0x18, 0x18), (0x20, 0x15c, 0x15c), (0x20, 0x410, 0x410), (0x20, 0x414, 0x414), (0x20, 0x418, 0x418), (0x20, 0x41c, 0x41c), (0x20, 0x420, 0x420), (0x40, 0x130, 0x130), (0x50, 0x18, 0x18), (0x50, 0x128, 0x128), (0x50, 0x178, 0x178)] s (beginForming a0 s) := by
  intro a0 s
  unfold beginForming
  extract_lets +onlyGivenNames x1
  clear_value x1
  split
  · exact Only.refl _ _ _
  · refine Only.ite ?_ ?_
    · exact Only.refl _ _ _
    · refine Only.ite ?_ ?_
      · extract_lets +onlyGivenNames x2
        refine Only.have_ (t := x2) ?_ fun hx2 => ?_
        · subst x2
          refine Only.foldl (fun s x => ?_) ?_
          · refine Only.step (complete_only _ _ _) (by decide +kernel) ?_
            exact Only.refl _ _ _
          · exact Only.refl _ _ _
        clear_value x2
        refine Only.step (setRally_only _ _ _) (by decide +kernel) ?_
        assumption
      · extract_lets +onlyGivenNames x3
        extract_lets +onlyGivenNames x4
        clear_value x4
        extract_lets +onlyGivenNames x5
        clear_value x5
        refine Only.step (loadChunk_only _ _ _ _ _) (by decide +kernel) ?_
        refine Only.step (setRally_only _ _ _) (by decide +kernel) ?_
        refine Only.step (stampAll_only _ _ _) (by decide +kernel) ?_
        exact Only.refl _ _ _

theorem endRally_only : ∀ a0 a1 s, Only [.tiles, .mesh, .rowBus, .scaleBus, .range, .reqs, .chans, .rallies, .heldOut, .out] [(0x20, 0x18, 0x18), (0x20, 0x15c, 0x15c), (0x20, 0x410, 0x410), (0x20, 0x414, 0x414), (0x20, 0x418, 0x418), (0x20, 0x41c, 0x41c), (0x20, 0x420, 0x420), (0x40, 0x130, 0x130), (0x50, 0x18, 0x18), (0x50, 0x128, 0x128), (0x50, 0x178, 0x178)] s (endRally a0 a1 s) := by
  intro a0 a1 s
  unfold endRally
  extract_lets +onlyGivenNames x1
  clear_value x1
  extract_lets +onlyGivenNames x2
  refine Only.have_ (t := x2) ?_ fun hx2 => ?_
  · subst x2
    split
    · refine Only.step (sendPurges_only _ _ _ _) (by decide +kernel) ?_
      exact Only.refl _ _ _
    · exact Only.refl _ _ _
  clear_value x2
  extract_lets +onlyGivenNames x3
  refine Only.have_ (t := x3) ?_ fun hx3 => ?_
  · subst x3
    refine Only.foldl (fun s x => ?_) ?_
    · refine Only.step (endMember_only _ _ _) (by decide +kernel) ?_
      exact Only.refl _ _ _
    · assumption
  clear_value x3
  extract_lets +onlyGivenNames x4
  clear_value x4
  extract_lets +onlyGivenNames x5
  refine Only.have_ (t := x5) ?_ fun hx5 => ?_
  · subst x5
    refine Only.step (setRally_only _ _ _) (by decide +kernel) ?_
    assumption
  clear_value x5
  refine Only.step (kickQueued_only _) (by decide +kernel) ?_
  refine Only.ite ?_ ?_
  · assumption
  · refine Only.step (beginForming_only _ _) (by decide +kernel) ?_
    assumption

theorem rallyFields_only : ∀ a0 a1 a2 s, Only [.free] [] s (rallyFields a0 a1 a2 s).2 := by
  intro a0 a1 a2 s
  unfold rallyFields
  extract_lets +onlyGivenNames x1
  clear_value x1
  extract_lets +onlyGivenNames x2
  clear_value x2
  extract_lets +onlyGivenNames x3
  clear_value x3
  extract_lets +onlyGivenNames x4
  clear_value x4
  extract_lets +onlyGivenNames x5
  clear_value x5
  extract_lets +onlyGivenNames x6
  clear_value x6
  refine Only.pair ?_
  refine Only.ite ?_ ?_
  · refine Only.step (draw_only _) (by decide +kernel) ?_
    exact Only.refl _ _ _
  · exact Only.refl _ _ _

theorem rallyFields_only_eq : ∀ a0 a1 a2 s x t, rallyFields a0 a1 a2 s = (x, t) → Only [.free] [] s t := by
  intro a0 a1 a2 s x t h
  have := rallyFields_only a0 a1 a2 s
  rw [h] at this
  exact this

theorem execRallyJoin_gives : ∀ a0 a1 a2 s, Gives [.tiles, .mesh, .rowBus, .scaleBus, .range, .reqs, .chans, .rallies, .heldOut, .out] [(0x20, 0x18, 0x18), (0x20, 0x15c, 0x15c), (0x20, 0x410, 0x410), (0x20, 0x414, 0x414), (0x20, 0x418, 0x418), (0x20, 0x41c, 0x41c), (0x20, 0x420, 0x420), (0x40, 0x130, 0x130), (0x50, 0x18, 0x18), (0x50, 0x128, 0x128), (0x50, 0x178, 0x178)] s (execRallyJoin a0 a1 a2 s) := by
  intro a0 a1 a2 s
  unfold execRallyJoin
  extract_lets +onlyGivenNames x1
  clear_value x1
  split
  · split
    · refine Gives.next ?_
      exact Only.refl _ _ _
    · extract_lets +onlyGivenNames x2
      clear_value x2
      extract_lets +onlyGivenNames x3
      clear_value x3
      extract_lets +onlyGivenNames x4
      clear_value x4
      extract_lets +onlyGivenNames x5
      clear_value x5
      split
      · refine Gives.ite ?_ ?_
        · refine Gives.next ?_
          refine Only.step (complete_only _ _ _) (by decide +kernel) ?_
          exact Only.refl _ _ _
        · refine Gives.next ?_
          refine Only.step (setRally_only _ _ _) (by decide +kernel) ?_
          refine Only.step (setReq_only _ _) (by decide +kernel) ?_
          exact Only.refl _ _ _
      · extract_lets +onlyGivenNames x6
        refine Gives.have_ (t := x6) ?_ fun hx6 => ?_
        · subst x6
          refine Only.step (setRally_only _ _ _) (by decide +kernel) ?_
          exact Only.refl _ _ _
        clear_value x6
        refine Gives.next ?_
        refine Only.ite ?_ ?_
        · refine Only.step (beginForming_only _ _) (by decide +kernel) ?_
          assumption
        · assumption
  · refine Gives.next ?_
    exact Only.refl _ _ _

theorem execRallyGatherExpire_gives : ∀ a0 s, Gives [.timer, .rallies] [] s (execRallyGatherExpire a0 s) := by
  intro a0 s
  unfold execRallyGatherExpire
  extract_lets +onlyGivenNames x1
  clear_value x1
  split
  · refine Gives.ite ?_ ?_
    · refine Gives.next ?_
      exact Only.refl _ _ _
    · extract_lets +onlyGivenNames x2
      refine Gives.have_ (t := x2) ?_ fun hx2 => ?_
      · subst x2
        refine Only.step (reach_only _ _) (by decide +kernel) ?_
        exact Only.refl _ _ _
      clear_value x2
      refine Gives.next ?_
      refine Only.step (setRally_only _ _ _) (by decide +kernel) ?_
      assumption
  · refine Gives.next ?_
    exact Only.refl _ _ _

theorem sendFlips_only : ∀ a0 a1 a2 a3 s, Only [.mesh] [] s (sendFlips a0 a1 a2 a3 s) := by
  intro a0 a1 a2 a3 s
  unfold sendFlips
  refine Only.foldl (fun s x => ?_) ?_
  · split
    · exact Only.refl _ _ _
    · refine Only.foldl (fun s x => ?_) ?_
      · refine Only.step (sendSignal_only _ _) (by decide +kernel) ?_
        exact Only.refl _ _ _
      · exact Only.refl _ _ _
  · exact Only.refl _ _ _

theorem openGates_only : ∀ a0 s, Only [.rowBus, .scaleBus, .ws, .heldOut, .out] [(0x30, 0x18, 0x18), (0x30, 0x120, 0x120), (0x30, 0x124, 0x124), (0x30, 0x128, 0x128), (0x30, 0x12c, 0x12c), (0x30, 0x130, 0x130), (0x30, 0x134, 0x134)] s (openGates a0 s) := by
  intro a0 s
  unfold openGates
  extract_lets +onlyGivenNames x1
  clear_value x1
  refine Only.foldl (fun s x => ?_) ?_
  · refine Only.step (openGate_only _ _ _) (by decide +kernel) ?_
    exact Only.refl _ _ _
  · exact Only.refl _ _ _

theorem countSkews_only : ∀ a0 a1 a2 a3 a4 s, Only [.versions, .rallies, .heldOut, .out] [(0x10, 0x18, 0x18)] s (countSkews a0 a1 a2 a3 a4 s) := by
  intro a0 a1 a2 a3 a4 s
  unfold countSkews
  extract_lets +onlyGivenNames x1
  clear_value x1
  extract_lets +onlyGivenNames x2
  clear_value x2
  extract_lets +onlyGivenNames x3
  clear_value x3
  refine Only.ite ?_ ?_
  · exact Only.refl _ _ _
  · extract_lets +onlyGivenNames x4
    clear_value x4
    extract_lets +onlyGivenNames x5
    refine Only.have_ (t := x5) ?_ fun hx5 => ?_
    · subst x5
      refine Only.ite ?_ ?_
      · refine Only.step (raiseCcs_only _ _) (by decide +kernel) ?_
        refine Only.step (setVersion_only _ _) (by decide +kernel) ?_
        exact Only.refl _ _ _
      · exact Only.refl _ _ _
    clear_value x5
    refine Only.step (setRally_only _ _ _) (by decide +kernel) ?_
    assumption

theorem doFlip_only : ∀ a0 a1 a2 a3 a4 a5 a6 a7 s, Only [.tiles, .mesh, .rowBus, .scaleBus, .range, .reqs, .chans, .versions, .rallies, .ws, .heldOut, .free, .out] [(0x10, 0x18, 0x18), (0x20, 0x18, 0x18), (0x20, 0x15c, 0x15c), (0x20, 0x410, 0x410), (0x20, 0x414, 0x414), (0x20, 0x418, 0x418), (0x20, 0x41c, 0x41c), (0x20, 0x420, 0x420), (0x30, 0x18, 0x18), (0x30, 0x120, 0x120), (0x30, 0x124, 0x124), (0x30, 0x128, 0x128), (0x30, 0x12c, 0x12c), (0x30, 0x130, 0x130), (0x30, 0x134, 0x134), (0x40, 0x130, 0x130), (0x50, 0x18, 0x18), (0x50, 0x128, 0x128), (0x50, 0x178, 0x178)] s (doFlip a0 a1 a2 a3 a4 a5 a6 a7 s) := by
  intro a0 a1 a2 a3 a4 a5 a6 a7 s
  unfold doFlip
  extract_lets +onlyGivenNames x1
  clear_value x1
  extract_lets +onlyGivenNames x2
  clear_value x2
  extract_lets +onlyGivenNames x3
  clear_value x3
  extract_lets +onlyGivenNames x4
  refine Only.have_ (t := x4) ?_ fun hx4 => ?_
  · subst x4
    refine Only.step (countSkews_only _ _ _ _ _ _) (by decide +kernel) ?_
    exact Only.refl _ _ _
  clear_value x4
  extract_lets +onlyGivenNames x5
  clear_value x5
  extract_lets +onlyGivenNames x6
  clear_value x6
  extract_lets +onlyGivenNames x7
  refine Only.have_ (t := x7) ?_ fun hx7 => ?_
  · subst x7
    refine Only.step (setRally_only _ _ _) (by decide +kernel) ?_
    assumption
  clear_value x7
  extract_lets +onlyGivenNames x8
  extract_lets +onlyGivenNames x9
  refine Only.have_ (t := x9) ?_ fun hx9 => ?_
  · subst x9
    refine Only.step (sendFlips_only _ _ _ _ _) (by decide +kernel) ?_
    refine Only.step (rallyFields_only _ _ _ _) (by decide +kernel) ?_
    assumption
  clear_value x9
  extract_lets +onlyGivenNames x10
  refine Only.have_ (t := x10) ?_ fun hx10 => ?_
  · subst x10
    refine Only.ite ?_ ?_
    · refine Only.step (loadChunk_only _ _ _ _ _) (by decide +kernel) ?_
      assumption
    · assumption
  clear_value x10
  extract_lets +onlyGivenNames x11
  refine Only.have_ (t := x11) ?_ fun hx11 => ?_
  · subst x11
    refine Only.step (openGates_only _ _) (by decide +kernel) ?_
    assumption
  clear_value x11
  refine Only.ite ?_ ?_
  · refine Only.step (beginForming_only _ _) (by decide +kernel) ?_
    assumption
  · assumption

theorem startRally_only : ∀ a0 a1 a2 a3 s t, startRally a0 a1 a2 a3 s = some t → Only [.tiles, .mesh, .rallies, .free] [] s t := by
  intro a0 a1 a2 a3 s t h
  unfold startRally at h
  extract_lets +onlyGivenNames x1 at h
  extract_lets +onlyGivenNames x2 at h
  split at h
  · cases h
  · split at h
    · cases h
    · cases h
      refine Only.step (setRally_only _ _ _) (by decide +kernel) ?_
      refine Only.step (postRoots_only _ _ _ _ _ ‹_›) (by decide +kernel) ?_
      refine Only.step (rallyFields_only _ _ _ _) (by decide +kernel) ?_
      exact Only.refl _ _ _

theorem tryFlip_only : ∀ a0 a1 a2 a3 s, Only [.tiles, .mesh, .rowBus, .scaleBus, .range, .reqs, .chans, .versions, .rallies, .ws, .heldOut, .free, .out] [(0x10, 0x18, 0x18), (0x20, 0x18, 0x18), (0x20, 0x15c, 0x15c), (0x20, 0x410, 0x410), (0x20, 0x414, 0x414), (0x20, 0x418, 0x418), (0x20, 0x41c, 0x41c), (0x20, 0x420, 0x420), (0x30, 0x18, 0x18), (0x30, 0x120, 0x120), (0x30, 0x124, 0x124), (0x30, 0x128, 0x128), (0x30, 0x12c, 0x12c), (0x30, 0x130, 0x130), (0x30, 0x134, 0x134), (0x40, 0x130, 0x130), (0x50, 0x18, 0x18), (0x50, 0x128, 0x128), (0x50, 0x178, 0x178)] s (tryFlip a0 a1 a2 a3 s) := by
  intro a0 a1 a2 a3 s
  unfold tryFlip
  extract_lets +onlyGivenNames x1
  clear_value x1
  split
  · exact Only.refl _ _ _
  · extract_lets +onlyGivenNames x2
    clear_value x2
    split
    · exact Only.refl _ _ _
    · extract_lets +onlyGivenNames x3
      clear_value x3
      extract_lets +onlyGivenNames x4
      clear_value x4
      extract_lets +onlyGivenNames x5
      clear_value x5
      refine Only.ite ?_ ?_
      · exact Only.refl _ _ _
      · refine Only.ite ?_ ?_
        · refine Only.ite ?_ ?_
          · refine Only.step (setRally_only _ _ _) (by decide +kernel) ?_
            exact Only.refl _ _ _
          · exact Only.refl _ _ _
        · refine Only.ite ?_ ?_
          · split
            · refine Only.step (doFlip_only _ _ _ _ _ _ _ _ _) (by decide +kernel) ?_
              refine Only.step (startRally_only _ _ _ _ _ _ ‹_›) (by decide +kernel) ?_
              exact Only.refl _ _ _
            · exact Only.refl _ _ _
          · refine Only.step (doFlip_only _ _ _ _ _ _ _ _ _) (by decide +kernel) ?_
            exact Only.refl _ _ _

theorem execRallyFlip_gives : ∀ a0 a1 a2 s, Gives [.tiles, .mesh, .rowBus, .scaleBus, .range, .reqs, .chans, .versions, .rallies, .ws, .heldOut, .free, .out] [(0x10, 0x18, 0x18), (0x20, 0x18, 0x18), (0x20, 0x15c, 0x15c), (0x20, 0x410, 0x410), (0x20, 0x414, 0x414), (0x20, 0x418, 0x418), (0x20, 0x41c, 0x41c), (0x20, 0x420, 0x420), (0x30, 0x18, 0x18), (0x30, 0x120, 0x120), (0x30, 0x124, 0x124), (0x30, 0x128, 0x128), (0x30, 0x12c, 0x12c), (0x30, 0x130, 0x130), (0x30, 0x134, 0x134), (0x40, 0x130, 0x130), (0x50, 0x18, 0x18), (0x50, 0x128, 0x128), (0x50, 0x178, 0x178)] s (execRallyFlip a0 a1 a2 s) := by
  intro a0 a1 a2 s
  unfold execRallyFlip
  refine Gives.next ?_
  refine Only.step (tryFlip_only _ _ _ _ _) (by decide +kernel) ?_
  exact Only.refl _ _ _

theorem execRestoreHoldExpire_gives : ∀ a0 s, Gives [.timer, .tiles, .mesh, .rowBus, .scaleBus, .range, .reqs, .chans, .versions, .rallies, .ws, .heldOut, .free, .out] [(0x10, 0x18, 0x18), (0x20, 0x18, 0x18), (0x20, 0x15c, 0x15c), (0x20, 0x410, 0x410), (0x20, 0x414, 0x414), (0x20, 0x418, 0x418), (0x20, 0x41c, 0x41c), (0x20, 0x420, 0x420), (0x30, 0x18, 0x18), (0x30, 0x120, 0x120), (0x30, 0x124, 0x124), (0x30, 0x128, 0x128), (0x30, 0x12c, 0x12c), (0x30, 0x130, 0x130), (0x30, 0x134, 0x134), (0x40, 0x130, 0x130), (0x50, 0x18, 0x18), (0x50, 0x128, 0x128), (0x50, 0x178, 0x178)] s (execRestoreHoldExpire a0 s) := by
  intro a0 s
  unfold execRestoreHoldExpire
  extract_lets +onlyGivenNames x1
  clear_value x1
  split
  · refine Gives.next ?_
    exact Only.refl _ _ _
  · extract_lets +onlyGivenNames x2
    refine Gives.have_ (t := x2) ?_ fun hx2 => ?_
    · subst x2
      refine Only.step (setRally_only _ _ _) (by decide +kernel) ?_
      refine Only.step (reach_only _ _) (by decide +kernel) ?_
      exact Only.refl _ _ _
    clear_value x2
    refine Gives.next ?_
    refine Only.step (tryFlip_only _ _ _ _ _) (by decide +kernel) ?_
    assumption

theorem execSecondSourceRead_gives : ∀ a0 a1 a2 s, Gives [.rowBus, .rallies] [] s (execSecondSourceRead a0 a1 a2 s) := by
  intro a0 a1 a2 s
  unfold execSecondSourceRead
  extract_lets +onlyGivenNames x1
  clear_value x1
  extract_lets +onlyGivenNames x2
  clear_value x2
  extract_lets +onlyGivenNames x3
  clear_value x3
  refine Gives.ite ?_ ?_
  · refine Gives.next ?_
    exact Only.refl _ _ _
  · extract_lets +onlyGivenNames x4
    clear_value x4
    extract_lets +onlyGivenNames x5
    clear_value x5
    refine Gives.next ?_
    refine Only.step (setRally_only _ _ _) (by decide +kernel) ?_
    refine Only.set_rowBus (by decide +kernel) ?_
    exact Only.refl _ _ _

theorem execSequencerTakeover_gives : ∀ a0 s, Gives [.rallies] [] s (execSequencerTakeover a0 s) := by
  intro a0 s
  unfold execSequencerTakeover
  refine Gives.ite ?_ ?_
  · refine Gives.next ?_
    exact Only.refl _ _ _
  · refine Gives.next ?_
    refine Only.set_rallies (by decide +kernel) ?_
    exact Only.refl _ _ _

theorem execHeldChunkSwitch_gives : ∀ a0 a1 s, Gives [.versions, .rallies, .ws] [] s (execHeldChunkSwitch a0 a1 s) := by
  intro a0 a1 s
  unfold execHeldChunkSwitch
  extract_lets +onlyGivenNames x1
  clear_value x1
  refine Gives.ite ?_ ?_
  · refine Gives.next ?_
    exact Only.refl _ _ _
  · split
    · refine Gives.next ?_
      exact Only.refl _ _ _
    · split
      · refine Gives.next ?_
        exact Only.refl _ _ _
      · extract_lets +onlyGivenNames x2
        clear_value x2
        extract_lets +onlyGivenNames x3
        clear_value x3
        extract_lets +onlyGivenNames x4
        clear_value x4
        extract_lets +onlyGivenNames x5
        refine Gives.have_ (t := x5) ?_ fun hx5 => ?_
        · subst x5
          refine Only.foldl (fun s x => ?_) ?_
          · refine Only.step (setCw_only _ _ _) (by decide +kernel) ?_
            exact Only.refl _ _ _
          · exact Only.refl _ _ _
        clear_value x5
        extract_lets +onlyGivenNames x6
        clear_value x6
        extract_lets +onlyGivenNames x7
        refine Gives.have_ (t := x7) ?_ fun hx7 => ?_
        · subst x7
          refine Only.step (setVersion_only _ _) (by decide +kernel) ?_
          assumption
        clear_value x7
        refine Gives.next ?_
        refine Only.step (setRally_only _ _ _) (by decide +kernel) ?_
        assumption

theorem countRallyEnd_only : ∀ a0 a1 a2 s, Only [.tiles, .mesh, .rowBus, .scaleBus, .range, .reqs, .chans, .rallies, .heldOut, .out] [(0x20, 0x18, 0x18), (0x20, 0x15c, 0x15c), (0x20, 0x410, 0x410), (0x20, 0x414, 0x414), (0x20, 0x418, 0x418), (0x20, 0x41c, 0x41c), (0x20, 0x420, 0x420), (0x40, 0x130, 0x130), (0x50, 0x18, 0x18), (0x50, 0x128, 0x128), (0x50, 0x178, 0x178)] s (countRallyEnd a0 a1 a2 s) := by
  intro a0 a1 a2 s
  unfold countRallyEnd
  extract_lets +onlyGivenNames x1
  clear_value x1
  extract_lets +onlyGivenNames x2
  clear_value x2
  extract_lets +onlyGivenNames x3
  clear_value x3
  extract_lets +onlyGivenNames x4
  clear_value x4
  extract_lets +onlyGivenNames x5
  refine Only.have_ (t := x5) ?_ fun hx5 => ?_
  · subst x5
    refine Only.step (setRally_only _ _ _) (by decide +kernel) ?_
    exact Only.refl _ _ _
  clear_value x5
  refine Only.ite ?_ ?_
  · refine Only.step (endRally_only _ _ _) (by decide +kernel) ?_
    assumption
  · assumption

theorem execTaskEndMessage_gives : ∀ a0 a1 s, Gives [.tiles, .mesh, .rowBus, .scaleBus, .range, .reqs, .chans, .rallies, .heldOut, .out] [(0x20, 0x18, 0x18), (0x20, 0x15c, 0x15c), (0x20, 0x410, 0x410), (0x20, 0x414, 0x414), (0x20, 0x418, 0x418), (0x20, 0x41c, 0x41c), (0x20, 0x420, 0x420), (0x40, 0x130, 0x130), (0x50, 0x18, 0x18), (0x50, 0x128, 0x128), (0x50, 0x178, 0x178)] s (execTaskEndMessage a0 a1 s) := by
  intro a0 a1 s
  unfold execTaskEndMessage
  extract_lets +onlyGivenNames x1
  refine Gives.have_ (t := x1) ?_ fun hx1 => ?_
  · subst x1
    refine Only.step (arrive_only _ _) (by decide +kernel) ?_
    exact Only.refl _ _ _
  clear_value x1
  split
  · refine Gives.next ?_
    refine Only.step (countRallyEnd_only _ _ _ _) (by decide +kernel) ?_
    assumption
  · split
    · refine Gives.next ?_
      refine Only.step (countEnd_only _ _ _) (by decide +kernel) ?_
      assumption
    · refine Gives.next ?_
      assumption

theorem execSignalReturn_gives : ∀ a0 s, Gives [.tiles, .mesh, .rowBus, .scaleBus, .range, .reqs, .chans, .rallies, .heldOut, .out] [(0x20, 0x18, 0x18), (0x20, 0x15c, 0x15c), (0x20, 0x410, 0x410), (0x20, 0x414, 0x414), (0x20, 0x418, 0x418), (0x20, 0x41c, 0x41c), (0x20, 0x420, 0x420), (0x40, 0x130, 0x130), (0x50, 0x18, 0x18), (0x50, 0x128, 0x128), (0x50, 0x178, 0x178)] s (execSignalReturn a0 s) := by
  intro a0 s
  unfold execSignalReturn
  extract_lets +onlyGivenNames x1
  refine Gives.have_ (t := x1) ?_ fun hx1 => ?_
  · subst x1
    refine Only.step (arrive_only _ _) (by decide +kernel) ?_
    exact Only.refl _ _ _
  clear_value x1
  split
  · refine Gives.next ?_
    refine Only.step (endRally_only _ _ _) (by decide +kernel) ?_
    assumption
  · split
    · refine Gives.ite ?_ ?_
      · refine Gives.next ?_
        refine Only.step (abortReq_only _ _ _) (by decide +kernel) ?_
        assumption
      · refine Gives.next ?_
        assumption
    · refine Gives.next ?_
      assumption

theorem execCreditReturn_gives : ∀ a0 a1 s, Gives [.tiles, .mesh, .reqs] [] s (execCreditReturn a0 a1 s) := by
  intro a0 a1 s
  unfold execCreditReturn
  refine Gives.next ?_
  refine Only.step (kickQueued_only _) (by decide +kernel) ?_
  refine Only.step (creditReturn_only _ _ _) (by decide +kernel) ?_
  refine Only.step (arrive_only _ _) (by decide +kernel) ?_
  exact Only.refl _ _ _


end Sys2Proof.Machine
end

