-- ==== Sys2Proof/Laws/OnlyChannels.lean ====
section
/-! SUPPORT. What the operations and the meanings of Machine/Channels.lean can change (`Only`, `Gives`): the parts of the state and the
registers, whatever the operands are. -/

namespace Sys2Proof.Machine

set_option linter.unusedSimpArgs false
set_option maxRecDepth 20000
set_option Elab.async false

theorem holdFunction_only : ∀ a0 s, Only [] [(0x50, 0x134, 0x134), (0x50, 0x138, 0x138)] s (holdFunction a0 s) := by
  intro a0 s
  unfold holdFunction
  refine Only.foldl (fun s x => ?_) ?_
  · refine Only.step (fset_only 0x50 0x138 _ _ _ _ rfl rfl rfl) (by decide +kernel) ?_
    refine Only.step (fset_only 0x50 0x134 _ _ _ _ rfl rfl rfl) (by decide +kernel) ?_
    exact Only.refl _ _ _
  · exact Only.refl _ _ _

theorem cancelReq_only : ∀ a0 s, Only [.tiles, .mesh, .reqs, .chans, .heldOut, .out] [(0x50, 0x18, 0x18), (0x50, 0x128, 0x128), (0x50, 0x178, 0x178)] s (cancelReq a0 s).2 := by
  intro a0 s
  unfold cancelReq
  refine Only.ite_snd ?_ ?_
  · refine Only.pair ?_
    refine Only.step (setReq_only _ _) (by decide +kernel) ?_
    exact Only.refl _ _ _
  · refine Only.pair ?_
    refine Only.step (abortReq_only _ _ _) (by decide +kernel) ?_
    exact Only.refl _ _ _

theorem cancelReq_only_eq : ∀ a0 s x t, cancelReq a0 s = (x, t) → Only [.tiles, .mesh, .reqs, .chans, .heldOut, .out] [(0x50, 0x18, 0x18), (0x50, 0x128, 0x128), (0x50, 0x178, 0x178)] s t := by
  intro a0 s x t h
  have := cancelReq_only a0 s
  rw [h] at this
  exact this

theorem cancelAll_only : ∀ a0 s, Only [.tiles, .mesh, .reqs, .chans, .heldOut, .out] [(0x50, 0x18, 0x18), (0x50, 0x128, 0x128), (0x50, 0x178, 0x178)] s (cancelAll a0 s) := by
  intro a0 s
  unfold cancelAll
  refine Only.foldl (fun s x => ?_) ?_
  · refine Only.step (cancelReq_only _ _) (by decide +kernel) ?_
    exact Only.refl _ _ _
  · exact Only.refl _ _ _

theorem cfgReject_only : ∀ a0 s, Only [.heldOut, .out] [(0x50, 0x18, 0x18)] s (cfgReject a0 s) := by
  intro a0 s
  unfold cfgReject
  refine Only.step (raise_only 0x50 _ _ _ rfl rfl) (by decide +kernel) ?_
  exact Only.refl _ _ _

theorem clearResv_only : ∀ a0 a1 s, Only [.chans] [(0x50, 0x160, 0x160), (0x50, 0x164, 0x164), (0x50, 0x168, 0x168)] s (clearResv a0 a1 s) := by
  intro a0 a1 s
  unfold clearResv
  extract_lets +onlyGivenNames x1
  extract_lets +onlyGivenNames x2
  clear_value x2
  extract_lets +onlyGivenNames x3
  refine Only.have_ (t := x3) ?_ fun hx3 => ?_
  · subst x3
    refine Only.step (setChan_only _ _ _) (by decide +kernel) ?_
    exact Only.refl _ _ _
  clear_value x3
  refine Only.step (fset_only 0x50 0x168 _ _ _ _ rfl rfl rfl) (by decide +kernel) ?_
  refine Only.step (fset_only 0x50 0x164 _ _ _ _ rfl rfl rfl) (by decide +kernel) ?_
  refine Only.step (fset_only 0x50 0x160 _ _ _ _ rfl rfl rfl) (by decide +kernel) ?_
  refine Only.step (fset_only 0x50 0x160 _ _ _ _ rfl rfl rfl) (by decide +kernel) ?_
  refine Only.step (fset_only 0x50 0x160 _ _ _ _ rfl rfl rfl) (by decide +kernel) ?_
  assumption

theorem resetReg_only (k0 o1 : Nat) : ∀ a0 a1 s, pageType a0 = k0 → a1 = o1 → Nat.blt o1 0x1000 = true → Only [] [(k0, o1, o1)] s (resetReg a0 a1 s) := by
  intro a0 a1 s hk hf hb
  subst hf
  exact setRegWord_only k0 a1 a0 _ s hk hb

theorem assignChan_only : ∀ a0 a1 s, Only [.zip, .chans, .heldOut, .out] [(0x50, 0x18, 0x18), (0x50, 0x104, 0x104), (0x50, 0x108, 0x108), (0x50, 0x10c, 0x10c), (0x50, 0x120, 0x120), (0x50, 0x124, 0x124), (0x50, 0x128, 0x128), (0x50, 0x12c, 0x12c), (0x50, 0x160, 0x160), (0x50, 0x164, 0x164), (0x50, 0x168, 0x168), (0x50, 0x178, 0x178), (0x50, 0x180, 0x180)] s (assignChan a0 a1 s) := by
  intro a0 a1 s
  unfold assignChan
  extract_lets +onlyGivenNames x1
  refine Only.ite ?_ ?_
  · refine Only.step (cfgReject_only _ _) (by decide +kernel) ?_
    exact Only.refl _ _ _
  · extract_lets +onlyGivenNames x2
    refine Only.have_ (t := x2) ?_ fun hx2 => ?_
    · subst x2
      refine Only.step (clearResv_only _ _ _) (by decide +kernel) ?_
      refine Only.step (setChan_only _ _ _) (by decide +kernel) ?_
      exact Only.refl _ _ _
    clear_value x2
    extract_lets +onlyGivenNames x3
    refine Only.have_ (t := x3) ?_ fun hx3 => ?_
    · subst x3
      refine Only.step (resetReg_only 0x50 0x178 _ _ _ rfl rfl rfl) (by decide +kernel) ?_
      refine Only.step (resetReg_only 0x50 0x12c _ _ _ rfl rfl rfl) (by decide +kernel) ?_
      refine Only.step (resetReg_only 0x50 0x128 _ _ _ rfl rfl rfl) (by decide +kernel) ?_
      refine Only.step (resetReg_only 0x50 0x124 _ _ _ rfl rfl rfl) (by decide +kernel) ?_
      refine Only.step (resetReg_only 0x50 0x120 _ _ _ rfl rfl rfl) (by decide +kernel) ?_
      refine Only.step (resetReg_only 0x50 0x10c _ _ _ rfl rfl rfl) (by decide +kernel) ?_
      refine Only.step (resetReg_only 0x50 0x104 _ _ _ rfl rfl rfl) (by decide +kernel) ?_
      assumption
    clear_value x3
    extract_lets +onlyGivenNames x4
    refine Only.have_ (t := x4) ?_ fun hx4 => ?_
    · subst x4
      refine Only.step (fset_only 0x50 0x160 _ _ _ _ rfl rfl rfl) (by decide +kernel) ?_
      refine Only.step (fset_only 0x50 0x180 _ _ _ _ rfl rfl rfl) (by decide +kernel) ?_
      assumption
    clear_value x4
    extract_lets +onlyGivenNames x5
    refine Only.have_ (t := x5) ?_ fun hx5 => ?_
    · subst x5
      refine Only.step (clearZslots_only _ _) (by decide +kernel) ?_
      assumption
    clear_value x5
    refine Only.step (setRegWord_only 0x50 _ _ _ _ rfl rfl) (by decide +kernel) ?_
    assumption

theorem execChanAssign_gives : ∀ a0 a1 a2 s, Gives [.staleMid, .zip, .chans, .heldOut, .out] ([(0x10, 0x880, 0x880), (0x50, 0x18, 0x18), (0x50, 0x2c, 0x2c), (0x50, 0x104, 0x104), (0x50, 0x108, 0x108), (0x50, 0x10c, 0x10c), (0x50, 0x120, 0x120), (0x50, 0x124, 0x124), (0x50, 0x128, 0x128), (0x50, 0x12c, 0x12c), (0x50, 0x160, 0x160), (0x50, 0x164, 0x164), (0x50, 0x168, 0x168), (0x50, 0x178, 0x178), (0x50, 0x180, 0x180), (0xb0, 0x18, 0x18), (0xb0, 0x100, 0x100), (0xb0, 0x104, 0x104), (0xb0, 0x108, 0x108), (0xb0, 0x10c, 0x10c)] ++ [(0xb0, 0x110, 0x110), (0xb0, 0x114, 0x114), (0xb0, 0x118, 0x118), (0xb0, 0x11c, 0x11c)] : List RegSpan) s (execChanAssign a0 a1 a2 s) := by
  intro a0 a1 a2 s
  unfold execChanAssign
  refine Gives.next ?_
  refine guardedRwl_only 0x50 rfl rfl (by decide +kernel) (fun s => ?_) ?_
  · refine Only.step (assignChan_only _ _ _) (by decide +kernel) ?_
    exact Only.refl _ _ _
  · exact Only.refl _ _ _

theorem dbReject_only : ∀ a0 a1 a2 s, Only [.heldOut, .out] [(0x50, 0x18, 0x18), (0x50, 0x17c, 0x17c), (0x50, 0x180, 0x180)] s (dbReject a0 a1 a2 s) := by
  intro a0 a1 a2 s
  unfold dbReject
  extract_lets +onlyGivenNames x1
  extract_lets +onlyGivenNames x2
  refine Only.have_ (t := x2) ?_ fun hx2 => ?_
  · subst x2
    refine Only.step (satInc_only 0x50 0x180 _ _ _ _ rfl rfl rfl rfl) (by decide +kernel) ?_
    exact Only.refl _ _ _
  clear_value x2
  extract_lets +onlyGivenNames x3
  refine Only.have_ (t := x3) ?_ fun hx3 => ?_
  · subst x3
    refine Only.ite ?_ ?_
    · refine Only.step (fset_only 0x50 0x180 _ _ _ _ rfl rfl rfl) (by decide +kernel) ?_
      refine Only.step (fset_only 0x50 0x180 _ _ _ _ rfl rfl rfl) (by decide +kernel) ?_
      refine Only.step (fset_only 0x50 0x17c _ _ _ _ rfl rfl rfl) (by decide +kernel) ?_
      assumption
    · assumption
  clear_value x3
  refine Only.step (raise_only 0x50 _ _ _ rfl rfl) (by decide +kernel) ?_
  assumption

theorem ringDoorbell_only : ∀ a0 a1 s, Only [.heldOut, .out] [(0x50, 0x18, 0x18), (0x50, 0x120, 0x120), (0x50, 0x17c, 0x17c), (0x50, 0x180, 0x180)] s (ringDoorbell a0 a1 s) := by
  intro a0 a1 s
  unfold ringDoorbell
  refine Only.ite ?_ ?_
  · refine Only.step (dbReject_only _ _ _ _) (by decide +kernel) ?_
    exact Only.refl _ _ _
  · refine Only.ite ?_ ?_
    · refine Only.step (fset_only 0x50 0x120 _ _ _ _ rfl rfl rfl) (by decide +kernel) ?_
      exact Only.refl _ _ _
    · refine Only.step (dbReject_only _ _ _ _) (by decide +kernel) ?_
      exact Only.refl _ _ _

theorem execDoorbell_gives : ∀ a0 a1 a2 s, Gives [.staleMid, .heldOut, .out] [(0x10, 0x880, 0x880), (0x50, 0x18, 0x18), (0x50, 0x2c, 0x2c), (0x50, 0x120, 0x120), (0x50, 0x17c, 0x17c), (0x50, 0x180, 0x180), (0xb0, 0x18, 0x18), (0xb0, 0x110, 0x110), (0xb0, 0x114, 0x114), (0xb0, 0x118, 0x118), (0xb0, 0x11c, 0x11c)] s (execDoorbell a0 a1 a2 s) := by
  intro a0 a1 a2 s
  unfold execDoorbell
  refine Gives.next ?_
  refine guarded_only 0x50 rfl rfl (by decide +kernel) (fun s => ?_) ?_
  · refine Only.step (ringDoorbell_only _ _ _) (by decide +kernel) ?_
    exact Only.refl _ _ _
  · exact Only.refl _ _ _

theorem acceptReq_only : ∀ a0 a1 a2 s, Only [.tiles, .mesh, .reqs, .chans, .heldOut, .out] [(0x50, 0x18, 0x18), (0x50, 0x128, 0x128), (0x50, 0x168, 0x168), (0x50, 0x178, 0x178)] s (acceptReq a0 a1 a2 s) := by
  intro a0 a1 a2 s
  unfold acceptReq
  extract_lets +onlyGivenNames x1
  clear_value x1
  extract_lets +onlyGivenNames x2
  refine Only.have_ (t := x2) ?_ fun hx2 => ?_
  · subst x2
    refine Only.set_reqs (by decide +kernel) ?_
    exact Only.refl _ _ _
  clear_value x2
  refine Only.ite ?_ ?_
  · refine Only.step (complete_only _ _ _) (by decide +kernel) ?_
    assumption
  · refine Only.ite ?_ ?_
    · refine Only.step (complete_only _ _ _) (by decide +kernel) ?_
      assumption
    · refine Only.ite ?_ ?_
      · refine Only.step (setReq_only _ _) (by decide +kernel) ?_
        assumption
      · refine Only.step (admitStamped_only _ _) (by decide +kernel) ?_
        assumption

theorem execDescriptorRead_gives : ∀ a0 a1 s, Gives [.tiles, .mesh, .reqs, .chans, .ring, .heldOut, .out] [(0x50, 0x18, 0x18), (0x50, 0x124, 0x124), (0x50, 0x128, 0x128), (0x50, 0x168, 0x168), (0x50, 0x178, 0x178), (0x70, 0x18, 0x18), (0x70, 0x10c, 0x10c), (0x71, 0x18, 0x18), (0x71, 0x11c, 0x11c)] s (execDescriptorRead a0 a1 s) := by
  intro a0 a1 s
  unfold execDescriptorRead
  extract_lets +onlyGivenNames x1
  clear_value x1
  extract_lets +onlyGivenNames x2
  refine Gives.ite ?_ ?_
  · refine Gives.next ?_
    exact Only.refl _ _ _
  · extract_lets +onlyGivenNames x3
    clear_value x3
    extract_lets +onlyGivenNames x4
    clear_value x4
    extract_lets +onlyGivenNames x5
    clear_value x5
    extract_lets +onlyGivenNames x6
    clear_value x6
    extract_lets +onlyGivenNames x7
    refine Gives.have_ (t := x7) ?_ fun hx7 => ?_
    · subst x7
      refine Only.ite ?_ ?_
      · exact Only.refl _ _ _
      · refine Only.step (emit_only _ _) (by decide +kernel) ?_
        exact Only.refl _ _ _
    clear_value x7
    refine Gives.next ?_
    refine Only.step (acceptReq_only _ _ _ _) (by decide +kernel) ?_
    refine Only.step (fset_only 0x50 0x124 _ _ _ _ rfl rfl rfl) (by decide +kernel) ?_
    assumption

theorem copyRange_only : ∀ a0 a1 a2 s, Only [.range] [(0x40, 0x130, 0x130)] s (copyRange a0 a1 a2 s) := by
  intro a0 a1 a2 s
  unfold copyRange
  extract_lets +onlyGivenNames x1
  clear_value x1
  extract_lets +onlyGivenNames x2
  refine Only.have_ (t := x2) ?_ fun hx2 => ?_
  · subst x2
    refine Only.step (rangeWrite_only _ _ _ _) (by decide +kernel) ?_
    exact Only.refl _ _ _
  clear_value x2
  refine Only.foldl (fun s x => ?_) ?_
  · refine Only.step (poisonExtent_only _ _ _) (by decide +kernel) ?_
    exact Only.refl _ _ _
  · assumption

theorem moveDenied_only : ∀ a0 a1 a2 s, Only [.heldOut, .out] [(0x40, 0x18, 0x18), (0x40, 0x134, 0x134), (0x40, 0x138, 0x138), (0x40, 0x13c, 0x13c)] s (moveDenied a0 a1 a2 s) := by
  intro a0 a1 a2 s
  unfold moveDenied
  refine Only.ite ?_ ?_
  · refine Only.step (rangeDenied_only _ _ _) (by decide +kernel) ?_
    exact Only.refl _ _ _
  · exact Only.refl _ _ _

theorem execInputCopyEnd_gives : ∀ a0 a1 s, Gives [.tiles, .mesh, .range, .reqs, .chans, .heldOut, .out] [(0x40, 0x18, 0x18), (0x40, 0x130, 0x130), (0x40, 0x134, 0x134), (0x40, 0x138, 0x138), (0x40, 0x13c, 0x13c), (0x50, 0x18, 0x18), (0x50, 0x128, 0x128), (0x50, 0x178, 0x178)] s (execInputCopyEnd a0 a1 s) := by
  intro a0 a1 s
  unfold execInputCopyEnd
  split
  · refine Gives.next ?_
    exact Only.refl _ _ _
  · refine Gives.ite ?_ ?_
    · refine Gives.next ?_
      exact Only.refl _ _ _
    · extract_lets +onlyGivenNames x1
      clear_value x1
      extract_lets +onlyGivenNames x2
      clear_value x2
      refine Gives.ite ?_ ?_
      · refine Gives.next ?_
        refine Only.step (kickQueued_only _) (by decide +kernel) ?_
        refine Only.step (complete_only _ _ _) (by decide +kernel) ?_
        refine Only.step (moveDenied_only _ _ _ _) (by decide +kernel) ?_
        exact Only.refl _ _ _
      · refine Gives.ite ?_ ?_
        · refine Gives.next ?_
          refine Only.step (kickQueued_only _) (by decide +kernel) ?_
          refine Only.step (complete_only _ _ _) (by decide +kernel) ?_
          refine Only.step (moveDenied_only _ _ _ _) (by decide +kernel) ?_
          exact Only.refl _ _ _
        · extract_lets +onlyGivenNames x3
          clear_value x3
          refine Gives.next ?_
          refine Only.step (startReq_only _ _) (by decide +kernel) ?_
          refine Only.step (setReq_only _ _) (by decide +kernel) ?_
          refine Only.step (copyRange_only _ _ _ _) (by decide +kernel) ?_
          exact Only.refl _ _ _

theorem transferOut_only : ∀ a0 a1 s, Only [.range, .ring, .heldOut, .out] [(0x40, 0x18, 0x18), (0x40, 0x130, 0x130), (0x40, 0x134, 0x134), (0x40, 0x138, 0x138), (0x40, 0x13c, 0x13c), (0x70, 0x18, 0x18), (0x70, 0x10c, 0x10c), (0x71, 0x18, 0x18), (0x71, 0x11c, 0x11c)] s (transferOut a0 a1 s).2 := by
  intro a0 a1 s
  unfold transferOut
  extract_lets +onlyGivenNames x1
  clear_value x1
  extract_lets +onlyGivenNames x2
  clear_value x2
  extract_lets +onlyGivenNames x3
  clear_value x3
  extract_lets +onlyGivenNames x4
  clear_value x4
  refine Only.ite_snd ?_ ?_
  · refine Only.pair ?_
    refine Only.step (moveDenied_only _ _ _ _) (by decide +kernel) ?_
    exact Only.refl _ _ _
  · refine Only.ite_snd ?_ ?_
    · refine Only.pair ?_
      refine Only.step (moveDenied_only _ _ _ _) (by decide +kernel) ?_
      exact Only.refl _ _ _
    · extract_lets +onlyGivenNames x5
      clear_value x5
      extract_lets +onlyGivenNames x6
      clear_value x6
      refine Only.ite_snd ?_ ?_
      · refine Only.pair ?_
        refine Only.step (emit_only _ _) (by decide +kernel) ?_
        exact Only.refl _ _ _
      · refine Only.pair ?_
        refine Only.step (copyRange_only _ _ _ _) (by decide +kernel) ?_
        exact Only.refl _ _ _

theorem transferOut_only_eq : ∀ a0 a1 s x t, transferOut a0 a1 s = (x, t) → Only [.range, .ring, .heldOut, .out] [(0x40, 0x18, 0x18), (0x40, 0x130, 0x130), (0x40, 0x134, 0x134), (0x40, 0x138, 0x138), (0x40, 0x13c, 0x13c), (0x70, 0x18, 0x18), (0x70, 0x10c, 0x10c), (0x71, 0x18, 0x18), (0x71, 0x11c, 0x11c)] s t := by
  intro a0 a1 s x t h
  have := transferOut_only a0 a1 s
  rw [h] at this
  exact this

theorem execOutputTransferEnd_gives : ∀ a0 a1 a2 s, Gives [.tiles, .mesh, .range, .reqs, .chans, .ring, .heldOut, .out] [(0x40, 0x18, 0x18), (0x40, 0x130, 0x130), (0x40, 0x134, 0x134), (0x40, 0x138, 0x138), (0x40, 0x13c, 0x13c), (0x50, 0x18, 0x18), (0x50, 0x128, 0x128), (0x50, 0x178, 0x178), (0x70, 0x18, 0x18), (0x70, 0x10c, 0x10c), (0x71, 0x18, 0x18), (0x71, 0x11c, 0x11c)] s (execOutputTransferEnd a0 a1 a2 s) := by
  intro a0 a1 a2 s
  unfold execOutputTransferEnd
  split
  · refine Gives.next ?_
    exact Only.refl _ _ _
  · refine Gives.ite ?_ ?_
    · split
      refine Gives.next ?_
      refine Only.step (kickQueued_only _) (by decide +kernel) ?_
      refine Only.step (complete_only _ _ _) (by decide +kernel) ?_
      refine Only.step (transferOut_only_eq _ _ _ _ _ ‹_›) (by decide +kernel) ?_
      exact Only.refl _ _ _
    · refine Gives.next ?_
      exact Only.refl _ _ _

theorem writeCpl_only : ∀ a0 a1 s, Only [.ring, .heldOut, .out] [(0x70, 0x18, 0x18), (0x70, 0x10c, 0x10c), (0x71, 0x18, 0x18), (0x71, 0x11c, 0x11c)] s (writeCpl a0 a1 s) := by
  intro a0 a1 s
  unfold writeCpl
  extract_lets +onlyGivenNames x1
  clear_value x1
  refine Only.step (emit_only _ _) (by decide +kernel) ?_
  exact Only.refl _ _ _

theorem chanInterrupt_only : ∀ a0 s, Only [.chans, .heldOut, .out] [] s (chanInterrupt a0 s) := by
  intro a0 s
  unfold chanInterrupt
  refine Only.step (pageInterrupt_only 0x50 _ _ rfl rfl) (by decide +kernel) ?_
  refine Only.step (setChan_only _ _ _) (by decide +kernel) ?_
  exact Only.refl _ _ _

theorem coalesce_only : ∀ a0 a1 s, Only [.chans, .heldOut, .out] [] s (coalesce a0 a1 s) := by
  intro a0 a1 s
  unfold coalesce
  extract_lets +onlyGivenNames x1
  clear_value x1
  extract_lets +onlyGivenNames x2
  clear_value x2
  extract_lets +onlyGivenNames x3
  refine Only.have_ (t := x3) ?_ fun hx3 => ?_
  · subst x3
    refine Only.step (setChan_only _ _ _) (by decide +kernel) ?_
    exact Only.refl _ _ _
  clear_value x3
  refine Only.ite ?_ ?_
  · refine Only.step (chanInterrupt_only _ _) (by decide +kernel) ?_
    assumption
  · assumption

theorem execCompletionWrite_gives : ∀ a0 s, Gives [.chans, .ring, .heldOut, .out] [(0x50, 0x18, 0x18), (0x70, 0x18, 0x18), (0x70, 0x10c, 0x10c), (0x71, 0x18, 0x18), (0x71, 0x11c, 0x11c)] s (execCompletionWrite a0 s) := by
  intro a0 s
  unfold execCompletionWrite
  extract_lets +onlyGivenNames x1
  clear_value x1
  split
  · refine Gives.next ?_
    exact Only.refl _ _ _
  · refine Gives.ite ?_ ?_
    · refine Gives.next ?_
      exact Only.refl _ _ _
    · refine Gives.ite ?_ ?_
      · extract_lets +onlyGivenNames x2
        clear_value x2
        extract_lets +onlyGivenNames x3
        refine Gives.have_ (t := x3) ?_ fun hx3 => ?_
        · subst x3
          refine Only.step (setChan_only _ _ _) (by decide +kernel) ?_
          exact Only.refl _ _ _
        clear_value x3
        refine Gives.next ?_
        refine Only.step (coalesce_only _ _ _) (by decide +kernel) ?_
        refine Only.step (writeCpl_only _ _ _) (by decide +kernel) ?_
        assumption
      · refine Gives.ite ?_ ?_
        · refine Gives.next ?_
          exact Only.refl _ _ _
        · refine Gives.next ?_
          refine Only.step (raise_only 0x50 _ _ _ rfl rfl) (by decide +kernel) ?_
          refine Only.step (setChan_only _ _ _) (by decide +kernel) ?_
          exact Only.refl _ _ _

theorem moveHead_only : ∀ a0 a1 s, Only [.chans, .heldOut, .out] [(0x50, 0x18, 0x18), (0x50, 0x12c, 0x12c)] s (moveHead a0 a1 s) := by
  intro a0 a1 s
  unfold moveHead
  extract_lets +onlyGivenNames x1
  clear_value x1
  refine Only.ite ?_ ?_
  · extract_lets +onlyGivenNames x2
    clear_value x2
    extract_lets +onlyGivenNames x3
    clear_value x3
    refine Only.step (fset_only 0x50 0x12c _ _ _ _ rfl rfl rfl) (by decide +kernel) ?_
    refine Only.step (setChan_only _ _ _) (by decide +kernel) ?_
    exact Only.refl _ _ _
  · refine Only.step (cfgReject_only _ _) (by decide +kernel) ?_
    exact Only.refl _ _ _

theorem execCqHeadWrite_gives : ∀ a0 a1 a2 s, Gives [.staleMid, .chans, .heldOut, .out] [(0x10, 0x880, 0x880), (0x50, 0x18, 0x18), (0x50, 0x2c, 0x2c), (0x50, 0x12c, 0x12c), (0xb0, 0x18, 0x18), (0xb0, 0x110, 0x110), (0xb0, 0x114, 0x114), (0xb0, 0x118, 0x118), (0xb0, 0x11c, 0x11c)] s (execCqHeadWrite a0 a1 a2 s) := by
  intro a0 a1 a2 s
  unfold execCqHeadWrite
  refine Gives.next ?_
  refine guarded_only 0x50 rfl rfl (by decide +kernel) (fun s => ?_) ?_
  · refine Only.step (moveHead_only _ _ _) (by decide +kernel) ?_
    exact Only.refl _ _ _
  · exact Only.refl _ _ _

theorem execCoalesceTimerExpire_gives : ∀ a0 s, Gives [.timer, .chans, .heldOut, .out] [] s (execCoalesceTimerExpire a0 s) := by
  intro a0 s
  unfold execCoalesceTimerExpire
  extract_lets +onlyGivenNames x1
  clear_value x1
  extract_lets +onlyGivenNames x2
  clear_value x2
  extract_lets +onlyGivenNames x3
  clear_value x3
  refine Gives.ite ?_ ?_
  · refine Gives.next ?_
    exact Only.refl _ _ _
  · refine Gives.next ?_
    refine Only.step (chanInterrupt_only _ _) (by decide +kernel) ?_
    refine Only.step (reach_only _ _) (by decide +kernel) ?_
    exact Only.refl _ _ _

theorem cancelSeq_only : ∀ a0 a1 s, Only [.tiles, .mesh, .reqs, .chans, .heldOut, .out] [(0x50, 0x18, 0x18), (0x50, 0x128, 0x128), (0x50, 0x140, 0x140), (0x50, 0x178, 0x178)] s (cancelSeq a0 a1 s) := by
  intro a0 a1 s
  unfold cancelSeq
  extract_lets +onlyGivenNames x1
  clear_value x1
  extract_lets +onlyGivenNames x2
  refine Only.step (fset_only 0x50 0x140 _ _ _ _ rfl rfl rfl) (by decide +kernel) ?_
  subst x2
  split
  · refine Only.step (cancelReq_only _ _) (by decide +kernel) ?_
    exact Only.refl _ _ _
  · refine Only.pair ?_
    exact Only.refl _ _ _

theorem execCancel_gives : ∀ a0 a1 a2 s, Gives [.staleMid, .tiles, .mesh, .reqs, .chans, .heldOut, .out] [(0x10, 0x880, 0x880), (0x50, 0x18, 0x18), (0x50, 0x2c, 0x2c), (0x50, 0x128, 0x128), (0x50, 0x140, 0x140), (0x50, 0x178, 0x178), (0xb0, 0x18, 0x18), (0xb0, 0x110, 0x110), (0xb0, 0x114, 0x114), (0xb0, 0x118, 0x118), (0xb0, 0x11c, 0x11c)] s (execCancel a0 a1 a2 s) := by
  intro a0 a1 a2 s
  unfold execCancel
  refine Gives.next ?_
  refine guarded_only 0x50 rfl rfl (by decide +kernel) (fun s => ?_) ?_
  · refine Only.step (cancelSeq_only _ _ _) (by decide +kernel) ?_
    exact Only.refl _ _ _
  · exact Only.refl _ _ _

theorem replayAll_only : ∀ a0 s, Only [.chans, .ring, .heldOut, .out] [(0x70, 0x18, 0x18), (0x70, 0x10c, 0x10c), (0x71, 0x18, 0x18), (0x71, 0x11c, 0x11c)] s (replayAll a0 s) := by
  intro a0 s
  unfold replayAll
  extract_lets +onlyGivenNames x1
  clear_value x1
  extract_lets +onlyGivenNames x2
  clear_value x2
  extract_lets +onlyGivenNames x3
  refine Only.have_ (t := x3) ?_ fun hx3 => ?_
  · subst x3
    refine Only.step (setChan_only _ _ _) (by decide +kernel) ?_
    exact Only.refl _ _ _
  clear_value x3
  extract_lets +onlyGivenNames x4
  refine Only.have_ (t := x4) ?_ fun hx4 => ?_
  · subst x4
    refine Only.foldl (fun s x => ?_) ?_
    · refine Only.step (writeCpl_only _ _ _) (by decide +kernel) ?_
      refine Only.step (setChan_only _ _ _) (by decide +kernel) ?_
      exact Only.refl _ _ _
    · assumption
  clear_value x4
  refine Only.ite ?_ ?_
  · assumption
  · refine Only.step (chanInterrupt_only _ _) (by decide +kernel) ?_
    assumption

theorem setHold_only : ∀ a0 a1 s, Only [.chans, .ring, .heldOut, .out] [(0x50, 0x134, 0x134), (0x50, 0x138, 0x138), (0x70, 0x18, 0x18), (0x70, 0x10c, 0x10c), (0x71, 0x18, 0x18), (0x71, 0x11c, 0x11c)] s (setHold a0 a1 s) := by
  intro a0 a1 s
  unfold setHold
  extract_lets +onlyGivenNames x1
  refine Only.ite ?_ ?_
  · refine Only.step (fset_only 0x50 0x134 _ _ _ _ rfl rfl rfl) (by decide +kernel) ?_
    exact Only.refl _ _ _
  · refine Only.ite ?_ ?_
    · extract_lets +onlyGivenNames x2
      refine Only.have_ (t := x2) ?_ fun hx2 => ?_
      · subst x2
        refine Only.step (fset_only 0x50 0x138 _ _ _ _ rfl rfl rfl) (by decide +kernel) ?_
        refine Only.step (fset_only 0x50 0x138 _ _ _ _ rfl rfl rfl) (by decide +kernel) ?_
        refine Only.step (fset_only 0x50 0x134 _ _ _ _ rfl rfl rfl) (by decide +kernel) ?_
        exact Only.refl _ _ _
      clear_value x2
      refine Only.ite ?_ ?_
      · refine Only.step (replayAll_only _ _) (by decide +kernel) ?_
        assumption
      · assumption
    · exact Only.refl _ _ _

theorem execHoldWrite_gives : ∀ a0 a1 a2 s, Gives [.staleMid, .chans, .ring, .heldOut, .out] [(0x10, 0x880, 0x880), (0x50, 0x18, 0x18), (0x50, 0x2c, 0x2c), (0x50, 0x134, 0x134), (0x50, 0x138, 0x138), (0x70, 0x18, 0x18), (0x70, 0x10c, 0x10c), (0x71, 0x18, 0x18), (0x71, 0x11c, 0x11c), (0xb0, 0x18, 0x18), (0xb0, 0x110, 0x110), (0xb0, 0x114, 0x114), (0xb0, 0x118, 0x118), (0xb0, 0x11c, 0x11c)] s (execHoldWrite a0 a1 a2 s) := by
  intro a0 a1 a2 s
  unfold execHoldWrite
  refine Gives.next ?_
  refine guarded_only 0x50 rfl rfl (by decide +kernel) (fun s => ?_) ?_
  · refine Only.step (setHold_only _ _ _) (by decide +kernel) ?_
    exact Only.refl _ _ _
  · exact Only.refl _ _ _

theorem execHeld_gives : ∀ a0 s, Gives [.heldOut, .out] [(0x50, 0x18, 0x18), (0x50, 0x138, 0x138)] s (execHeld a0 s) := by
  intro a0 s
  unfold execHeld
  extract_lets +onlyGivenNames x1
  refine Gives.ite ?_ ?_
  · refine Gives.next ?_
    refine Only.step (raise_only 0x50 _ _ _ rfl rfl) (by decide +kernel) ?_
    refine Only.step (fset_only 0x50 0x138 _ _ _ _ rfl rfl rfl) (by decide +kernel) ?_
    exact Only.refl _ _ _
  · refine Gives.next ?_
    exact Only.refl _ _ _

theorem whileHeld_only {m : List Fld} {r : List RegSpan} {c : Nat} {f : State → State} {s u : State}
    (hm : within [.heldOut, .out] [(0x50, 0x18, 0x18)] m r = true) (hf : ∀ s, Only m r s (f s)) (h : Only m r u s) : Only m r u (whileHeld c f s) := by
  unfold whileHeld
  exact Only.ite (h.trans (hf _)) (h.trans ((cfgReject_only _ _).mono hm))

theorem armReplay_only : ∀ a0 s, Only [.chans, .heldOut, .out] [(0x50, 0x18, 0x18)] s (armReplay a0 s) := by
  intro a0 s
  unfold armReplay
  refine whileHeld_only (by decide +kernel) (fun s => ?_) ?_
  · refine Only.step (setChan_only _ _ _) (by decide +kernel) ?_
    exact Only.refl _ _ _
  · exact Only.refl _ _ _

theorem execReplay_gives : ∀ a0 a1 s, Gives [.staleMid, .chans, .heldOut, .out] [(0x10, 0x880, 0x880), (0x50, 0x18, 0x18), (0x50, 0x2c, 0x2c), (0xb0, 0x18, 0x18), (0xb0, 0x110, 0x110), (0xb0, 0x114, 0x114), (0xb0, 0x118, 0x118), (0xb0, 0x11c, 0x11c)] s (execReplay a0 a1 s) := by
  intro a0 a1 s
  unfold execReplay
  refine Gives.next ?_
  refine guarded_only 0x50 rfl rfl (by decide +kernel) (fun s => ?_) ?_
  · refine Only.step (armReplay_only _ _) (by decide +kernel) ?_
    exact Only.refl _ _ _
  · exact Only.refl _ _ _

theorem sqDiscard_only : ∀ a0 s, Only [.heldOut, .out] [(0x50, 0x18, 0x18), (0x50, 0x120, 0x120)] s (sqDiscard a0 s) := by
  intro a0 s
  unfold sqDiscard
  refine whileHeld_only (by decide +kernel) (fun s => ?_) ?_
  · refine Only.step (fset_only 0x50 0x120 _ _ _ _ rfl rfl rfl) (by decide +kernel) ?_
    exact Only.refl _ _ _
  · exact Only.refl _ _ _

theorem execSqDiscard_gives : ∀ a0 a1 s, Gives [.staleMid, .heldOut, .out] [(0x10, 0x880, 0x880), (0x50, 0x18, 0x18), (0x50, 0x2c, 0x2c), (0x50, 0x120, 0x120), (0xb0, 0x18, 0x18), (0xb0, 0x110, 0x110), (0xb0, 0x114, 0x114), (0xb0, 0x118, 0x118), (0xb0, 0x11c, 0x11c)] s (execSqDiscard a0 a1 s) := by
  intro a0 a1 s
  unfold execSqDiscard
  refine Gives.next ?_
  refine guarded_only 0x50 rfl rfl (by decide +kernel) (fun s => ?_) ?_
  · refine Only.step (sqDiscard_only _ _) (by decide +kernel) ?_
    exact Only.refl _ _ _
  · exact Only.refl _ _ _

theorem resvCmd_only : ∀ a0 a1 a2 a3 s, Only [] [(0x50, 0x15c, 0x15c)] s (resvCmd a0 a1 a2 a3 s) := by
  intro a0 a1 a2 a3 s
  unfold resvCmd
  extract_lets +onlyGivenNames x1
  refine Only.step (fset_only 0x50 0x15c _ _ _ _ rfl rfl rfl) (by decide +kernel) ?_
  refine Only.step (fset_only 0x50 0x15c _ _ _ _ rfl rfl rfl) (by decide +kernel) ?_
  refine Only.step (fset_only 0x50 0x15c _ _ _ _ rfl rfl rfl) (by decide +kernel) ?_
  exact Only.refl _ _ _

theorem resvAsk_only : ∀ a0 a1 a2 a3 s, Only [] [(0x50, 0x15c, 0x15c), (0x50, 0x160, 0x160)] s (resvAsk a0 a1 a2 a3 s) := by
  intro a0 a1 a2 a3 s
  unfold resvAsk
  refine Only.step (fset_only 0x50 0x160 _ _ _ _ rfl rfl rfl) (by decide +kernel) ?_
  refine Only.step (resvCmd_only _ _ _ _ _) (by decide +kernel) ?_
  exact Only.refl _ _ _

theorem resvRefuse_only : ∀ a0 a1 s, Only [.heldOut, .out] [(0x50, 0x18, 0x18), (0x50, 0x160, 0x160)] s (resvRefuse a0 a1 s) := by
  intro a0 a1 s
  unfold resvRefuse
  extract_lets +onlyGivenNames x1
  refine Only.step (raise_only 0x50 _ _ _ rfl rfl) (by decide +kernel) ?_
  refine Only.step (fset_only 0x50 0x160 _ _ _ _ rfl rfl rfl) (by decide +kernel) ?_
  refine Only.step (fset_only 0x50 0x160 _ _ _ _ rfl rfl rfl) (by decide +kernel) ?_
  exact Only.refl _ _ _

theorem execResvSustained_gives : ∀ a0 a1 a2 a3 s, Gives [.staleMid, .heldOut, .out] [(0x10, 0x880, 0x880), (0x50, 0x18, 0x18), (0x50, 0x2c, 0x2c), (0x50, 0x15c, 0x15c), (0x50, 0x160, 0x160), (0xb0, 0x18, 0x18), (0xb0, 0x110, 0x110), (0xb0, 0x114, 0x114), (0xb0, 0x118, 0x118), (0xb0, 0x11c, 0x11c)] s (execResvSustained a0 a1 a2 a3 s) := by
  intro a0 a1 a2 a3 s
  unfold execResvSustained
  refine Gives.next ?_
  refine guarded_only 0x50 rfl rfl (by decide +kernel) (fun s => ?_) ?_
  · refine Only.step (resvAsk_only _ _ _ _ _) (by decide +kernel) ?_
    exact Only.refl _ _ _
  · exact Only.refl _ _ _

theorem execResvFrame_gives : ∀ a0 a1 a2 a3 s, Gives [.staleMid, .heldOut, .out] [(0x10, 0x880, 0x880), (0x50, 0x18, 0x18), (0x50, 0x2c, 0x2c), (0x50, 0x15c, 0x15c), (0x50, 0x160, 0x160), (0xb0, 0x18, 0x18), (0xb0, 0x110, 0x110), (0xb0, 0x114, 0x114), (0xb0, 0x118, 0x118), (0xb0, 0x11c, 0x11c)] s (execResvFrame a0 a1 a2 a3 s) := by
  intro a0 a1 a2 a3 s
  unfold execResvFrame
  refine Gives.next ?_
  refine guarded_only 0x50 rfl rfl (by decide +kernel) (fun s => ?_) ?_
  · refine Only.step (resvAsk_only _ _ _ _ _) (by decide +kernel) ?_
    exact Only.refl _ _ _
  · exact Only.refl _ _ _

theorem resvDrop_only : ∀ a0 s, Only [.chans, .heldOut, .out] [(0x50, 0x18, 0x18), (0x50, 0x15c, 0x15c), (0x50, 0x160, 0x160), (0x50, 0x164, 0x164), (0x50, 0x168, 0x168)] s (resvDrop a0 s) := by
  intro a0 s
  unfold resvDrop
  extract_lets +onlyGivenNames x1
  refine Only.step (raise_only 0x50 _ _ _ rfl rfl) (by decide +kernel) ?_
  refine Only.step (fset_only 0x50 0x160 _ _ _ _ rfl rfl rfl) (by decide +kernel) ?_
  refine Only.step (clearResv_only _ _ _) (by decide +kernel) ?_
  refine Only.step (fset_only 0x50 0x15c _ _ _ _ rfl rfl rfl) (by decide +kernel) ?_
  exact Only.refl _ _ _

theorem execResvRelease_gives : ∀ a0 a1 s, Gives [.staleMid, .chans, .heldOut, .out] [(0x10, 0x880, 0x880), (0x50, 0x18, 0x18), (0x50, 0x2c, 0x2c), (0x50, 0x15c, 0x15c), (0x50, 0x160, 0x160), (0x50, 0x164, 0x164), (0x50, 0x168, 0x168), (0xb0, 0x18, 0x18), (0xb0, 0x110, 0x110), (0xb0, 0x114, 0x114), (0xb0, 0x118, 0x118), (0xb0, 0x11c, 0x11c)] s (execResvRelease a0 a1 s) := by
  intro a0 a1 s
  unfold execResvRelease
  refine Gives.next ?_
  refine guarded_only 0x50 rfl rfl (by decide +kernel) (fun s => ?_) ?_
  · refine Only.step (resvDrop_only _ _) (by decide +kernel) ?_
    exact Only.refl _ _ _
  · exact Only.refl _ _ _

theorem execResvInvalidClass_gives : ∀ a0 a1 a2 a3 s, Gives [.staleMid, .heldOut, .out] [(0x10, 0x880, 0x880), (0x50, 0x18, 0x18), (0x50, 0x2c, 0x2c), (0x50, 0x15c, 0x15c), (0x50, 0x160, 0x160), (0xb0, 0x18, 0x18), (0xb0, 0x110, 0x110), (0xb0, 0x114, 0x114), (0xb0, 0x118, 0x118), (0xb0, 0x11c, 0x11c)] s (execResvInvalidClass a0 a1 a2 a3 s) := by
  intro a0 a1 a2 a3 s
  unfold execResvInvalidClass
  refine Gives.next ?_
  refine guarded_only 0x50 rfl rfl (by decide +kernel) (fun s => ?_) ?_
  · refine Only.step (resvRefuse_only _ _ _) (by decide +kernel) ?_
    refine Only.step (resvCmd_only _ _ _ _ _) (by decide +kernel) ?_
    exact Only.refl _ _ _
  · exact Only.refl _ _ _

theorem execResvDone_gives : ∀ a0 s, Gives [.chans, .serials, .heldOut, .out] [(0x50, 0x18, 0x18), (0x50, 0x160, 0x160)] s (execResvDone a0 s) := by
  intro a0 s
  unfold execResvDone
  extract_lets +onlyGivenNames x1
  clear_value x1
  extract_lets +onlyGivenNames x2
  refine Gives.ite ?_ ?_
  · refine Gives.next ?_
    exact Only.refl _ _ _
  · extract_lets +onlyGivenNames x3
    clear_value x3
    extract_lets +onlyGivenNames x4
    clear_value x4
    refine Gives.ite ?_ ?_
    · extract_lets +onlyGivenNames x5
      clear_value x5
      extract_lets +onlyGivenNames x6
      refine Gives.have_ (t := x6) ?_ fun hx6 => ?_
      · subst x6
        refine Only.step (setChan_only _ _ _) (by decide +kernel) ?_
        refine Only.set_serials (by decide +kernel) ?_
        exact Only.refl _ _ _
      clear_value x6
      refine Gives.next ?_
      refine Only.step (raise_only 0x50 _ _ _ rfl rfl) (by decide +kernel) ?_
      refine Only.step (fset_only 0x50 0x160 _ _ _ _ rfl rfl rfl) (by decide +kernel) ?_
      refine Only.step (fset_only 0x50 0x160 _ _ _ _ rfl rfl rfl) (by decide +kernel) ?_
      assumption
    · refine Gives.next ?_
      refine Only.step (resvRefuse_only _ _ _) (by decide +kernel) ?_
      exact Only.refl _ _ _

theorem beginPeriod_only : ∀ a0 a1 a2 s, Only [.timer, .chans] [(0x50, 0x160, 0x160), (0x50, 0x164, 0x164), (0x50, 0x168, 0x168)] s (beginPeriod a0 a1 a2 s) := by
  intro a0 a1 a2 s
  unfold beginPeriod
  extract_lets +onlyGivenNames x1
  extract_lets +onlyGivenNames x2
  clear_value x2
  extract_lets +onlyGivenNames x3
  refine Only.have_ (t := x3) ?_ fun hx3 => ?_
  · subst x3
    refine Only.step (setChan_only _ _ _) (by decide +kernel) ?_
    refine Only.step (reach_only _ _) (by decide +kernel) ?_
    exact Only.refl _ _ _
  clear_value x3
  refine Only.step (fset_only 0x50 0x160 _ _ _ _ rfl rfl rfl) (by decide +kernel) ?_
  refine Only.step (fset_only 0x50 0x160 _ _ _ _ rfl rfl rfl) (by decide +kernel) ?_
  refine Only.step (fset_only 0x50 0x164 _ _ _ _ rfl rfl rfl) (by decide +kernel) ?_
  refine Only.step (fset_only 0x50 0x168 _ _ _ _ rfl rfl rfl) (by decide +kernel) ?_
  assumption

theorem execResvPeriodStart_gives : ∀ a0 s, Gives [.timer, .chans] [(0x50, 0x160, 0x160), (0x50, 0x164, 0x164), (0x50, 0x168, 0x168)] s (execResvPeriodStart a0 s) := by
  intro a0 s
  unfold execResvPeriodStart
  extract_lets +onlyGivenNames x1
  clear_value x1
  extract_lets +onlyGivenNames x2
  clear_value x2
  split
  · refine Gives.next ?_
    exact Only.refl _ _ _
  · refine Gives.next ?_
    refine Only.step (beginPeriod_only _ _ _ _) (by decide +kernel) ?_
    exact Only.refl _ _ _
  · refine Gives.next ?_
    refine Only.step (beginPeriod_only _ _ _ _) (by decide +kernel) ?_
    exact Only.refl _ _ _
  · refine Gives.ite ?_ ?_
    · refine Gives.next ?_
      refine Only.step (beginPeriod_only _ _ _ _) (by decide +kernel) ?_
      exact Only.refl _ _ _
    · refine Gives.next ?_
      refine Only.step (beginPeriod_only _ _ _ _) (by decide +kernel) ?_
      exact Only.refl _ _ _

theorem revoke_only : ∀ a0 a1 s, Only [.chans, .heldOut, .out] [(0x50, 0x18, 0x18), (0x50, 0x128, 0x128), (0x50, 0x160, 0x160), (0x50, 0x164, 0x164), (0x50, 0x168, 0x168)] s (revoke a0 a1 s) := by
  intro a0 a1 s
  unfold revoke
  refine Only.step (notice_only _ _ _ _) (by decide +kernel) ?_
  refine Only.step (raise_only 0x50 _ _ _ rfl rfl) (by decide +kernel) ?_
  refine Only.step (clearResv_only _ _ _) (by decide +kernel) ?_
  exact Only.refl _ _ _

theorem revokeTile_only : ∀ a0 a1 s, Only [.chans, .heldOut, .out] [(0x50, 0x18, 0x18), (0x50, 0x128, 0x128), (0x50, 0x160, 0x160), (0x50, 0x164, 0x164), (0x50, 0x168, 0x168)] s (revokeTile a0 a1 s) := by
  intro a0 a1 s
  induction a1 generalizing a0 s with
  | zero =>
    unfold revokeTile
    exact Only.refl _ _ _
  | succ n ih =>
    unfold revokeTile
    refine Only.ite ?_ ?_
    · split
      · refine Only.trans ?_ (ih ..)
        refine Only.step (revoke_only _ _ _) (by decide +kernel) ?_
        exact Only.refl _ _ _
      · exact Only.refl _ _ _
    · exact Only.refl _ _ _

theorem revokeLost_only : ∀ s, Only [.chans, .heldOut, .out] [(0x50, 0x18, 0x18), (0x50, 0x128, 0x128), (0x50, 0x160, 0x160), (0x50, 0x164, 0x164), (0x50, 0x168, 0x168)] s (revokeLost s) := by
  intro s
  unfold revokeLost
  extract_lets +onlyGivenNames x1
  clear_value x1
  extract_lets +onlyGivenNames x2
  clear_value x2
  extract_lets +onlyGivenNames x3
  refine Only.have_ (t := x3) ?_ fun hx3 => ?_
  · subst x3
    refine Only.foldl (fun s x => ?_) ?_
    · refine Only.step (revokeTile_only _ _ _) (by decide +kernel) ?_
      exact Only.refl _ _ _
    · exact Only.refl _ _ _
  clear_value x3
  extract_lets +onlyGivenNames x4
  clear_value x4
  refine Only.foldl (fun s x => ?_) ?_
  · refine Only.step (notice_only _ _ _ _) (by decide +kernel) ?_
    exact Only.refl _ _ _
  · assumption

theorem execReservationRevocation_gives : ∀ a0 s, Gives [.chans, .heldOut, .out] [(0x50, 0x18, 0x18), (0x50, 0x128, 0x128), (0x50, 0x160, 0x160), (0x50, 0x164, 0x164), (0x50, 0x168, 0x168)] s (execReservationRevocation a0 s) := by
  intro a0 s
  unfold execReservationRevocation
  refine Gives.ite ?_ ?_
  · refine Gives.next ?_
    refine Only.step (revokeLost_only _) (by decide +kernel) ?_
    exact Only.refl _ _ _
  · refine Gives.next ?_
    exact Only.refl _ _ _


end Sys2Proof.Machine
end

