-- ==== Sys2Proof/Laws/OnlyHosts.lean ====
section
/-! SUPPORT. What the operations and the meanings of Machine/Hosts.lean can change (`Only`, `Gives`): the parts of the state and the
registers, whatever the operands are. -/

namespace Sys2Proof.Machine

set_option linter.unusedSimpArgs false
set_option maxRecDepth 20000
set_option Elab.async false

theorem setHostLink_only : ∀ a0 a1 a2 a3 s, Only [] [(0x70, 0x104, 0x104)] s (setHostLink a0 a1 a2 a3 s) := by
  intro a0 a1 a2 a3 s
  unfold setHostLink
  extract_lets +onlyGivenNames x1
  refine Only.step (fset_only 0x70 0x104 _ _ _ _ rfl rfl rfl) (by decide +kernel) ?_
  refine Only.step (fset_only 0x70 0x104 _ _ _ _ rfl rfl rfl) (by decide +kernel) ?_
  refine Only.step (fset_only 0x70 0x104 _ _ _ _ rfl rfl rfl) (by decide +kernel) ?_
  refine Only.step (fset_only 0x70 0x104 _ _ _ _ rfl rfl rfl) (by decide +kernel) ?_
  refine Only.step (fset_only 0x70 0x104 _ _ _ _ rfl rfl rfl) (by decide +kernel) ?_
  exact Only.refl _ _ _

theorem setHostFn_only : ∀ a0 a1 a2 s, Only [.hostFns] [] s (setHostFn a0 a1 a2 s) := by
  intro a0 a1 a2 s
  unfold setHostFn
  refine Only.set_hostFns (by decide +kernel) ?_
  exact Only.refl _ _ _

theorem flr_only : ∀ a0 s, Only [.hostFns, .votes] [(0x50, 0x134, 0x134), (0x50, 0x138, 0x138)] s (flr a0 s) := by
  intro a0 s
  unfold flr
  extract_lets +onlyGivenNames x1
  refine Only.have_ (t := x1) ?_ fun hx1 => ?_
  · subst x1
    refine Only.step (holdFunction_only _ _) (by decide +kernel) ?_
    refine Only.set_votes (by decide +kernel) ?_
    exact Only.refl _ _ _
  clear_value x1
  refine Only.ite ?_ ?_
  · extract_lets +onlyGivenNames x2
    clear_value x2
    refine Only.step (setHostFn_only _ _ _ _) (by decide +kernel) ?_
    assumption
  · assumption

theorem linkLost_only : ∀ a0 s, Only [.hostFns, .votes, .heldOut] [(0x50, 0x134, 0x134), (0x50, 0x138, 0x138), (0x70, 0x104, 0x104)] s (linkLost a0 s) := by
  intro a0 s
  unfold linkLost
  extract_lets +onlyGivenNames x1
  refine Only.have_ (t := x1) ?_ fun hx1 => ?_
  · subst x1
    refine Only.step (setHostLink_only _ _ _ _ _) (by decide +kernel) ?_
    exact Only.refl _ _ _
  clear_value x1
  extract_lets +onlyGivenNames x2
  refine Only.have_ (t := x2) ?_ fun hx2 => ?_
  · subst x2
    refine Only.set_heldOut (by decide +kernel) ?_
    assumption
  clear_value x2
  refine Only.foldl (fun s x => ?_) ?_
  · refine Only.step (flr_only _ _) (by decide +kernel) ?_
    exact Only.refl _ _ _
  · assumption

theorem withPeers_only {m : List Fld} {r : List RegSpan} {f : State → State} {s u : State}
    (hm : within [.mail] [] m r = true) (hf : ∀ s, Only m r s (f s)) (h : Only m r u s) : Only m r u (withPeers f s) := by
  unfold withPeers
  extract_lets +onlyGivenNames x1
  have h1 : Only m r u x1 := h.trans (hf _)
  clear_value x1
  extract_lets +onlyGivenNames x2
  have h2 : ∀ y e x, Only m r x (x2 y e x) := by
    intro y e x
    subst x2
    dsimp -zeta only
    exact Only.ite ((raiseMail_only _ _ _ _).mono hm) (Only.refl _ _ _)
  clear_value x2
  refine Only.foldl (fun s x => ?_) h1
  exact (h2 _ _ _).trans (h2 _ _ _)

theorem setHalfPower_only : ∀ a0 a1 s, Only [.powerN, .powerS] [] s (setHalfPower a0 a1 s) := by
  intro a0 a1 s
  unfold setHalfPower
  refine Only.ite ?_ ?_
  · refine Only.set_powerN (by decide +kernel) ?_
    exact Only.refl _ _ _
  · refine Only.set_powerS (by decide +kernel) ?_
    exact Only.refl _ _ _

theorem mailSend_only : ∀ a0 a1 s, Only [.mail, .heldOut, .out] [] s (mailSend a0 a1 s) := by
  intro a0 a1 s
  unfold mailSend
  split
  · exact Only.refl _ _ _
  · refine Only.ite ?_ ?_
    · refine Only.step (raiseMail_only _ _ _ _) (by decide +kernel) ?_
      exact Only.refl _ _ _
    · refine Only.step (mailIn_only _ _ _ _) (by decide +kernel) ?_
      exact Only.refl _ _ _

theorem execMbxSend_gives : ∀ a0 a1 s, Gives [.staleMid, .mail, .heldOut, .out] [(0x0, 0x18, 0x18), (0x0, 0x2c, 0x2c), (0x10, 0x880, 0x880), (0xb0, 0x110, 0x110), (0xb0, 0x114, 0x114), (0xb0, 0x118, 0x118), (0xb0, 0x11c, 0x11c)] s (execMbxSend a0 a1 s) := by
  intro a0 a1 s
  unfold execMbxSend
  refine Gives.next ?_
  refine guarded_any (by decide +kernel) (fun s => ?_) ?_
  · refine Only.step (mailSend_only _ _ _) (by decide +kernel) ?_
    exact Only.refl _ _ _
  · exact Only.refl _ _ _

theorem mailPop_only : ∀ a0 a1 s, Only [.mail, .heldOut, .out] [] s (mailPop a0 a1 s) := by
  intro a0 a1 s
  unfold mailPop
  split
  · exact Only.refl _ _ _
  · extract_lets +onlyGivenNames x1
    clear_value x1
    refine Only.ite ?_ ?_
    · exact Only.refl _ _ _
    · extract_lets +onlyGivenNames x2
      refine Only.have_ (t := x2) ?_ fun hx2 => ?_
      · subst x2
        refine Only.step (raiseMail_only _ _ _ _) (by decide +kernel) ?_
        refine Only.step (setMail_only _ _ _ _) (by decide +kernel) ?_
        exact Only.refl _ _ _
      clear_value x2
      split
      · refine Only.step (mailIn_only _ _ _ _) (by decide +kernel) ?_
        assumption
      · assumption

theorem execMbxRecvPop_gives : ∀ a0 a1 s, Gives [.staleMid, .mail, .heldOut, .out] [(0x0, 0x18, 0x18), (0x0, 0x2c, 0x2c), (0x10, 0x880, 0x880), (0xb0, 0x110, 0x110), (0xb0, 0x114, 0x114), (0xb0, 0x118, 0x118), (0xb0, 0x11c, 0x11c)] s (execMbxRecvPop a0 a1 s) := by
  intro a0 a1 s
  unfold execMbxRecvPop
  refine Gives.next ?_
  refine guarded_any (by decide +kernel) (fun s => ?_) ?_
  · refine Only.step (mailPop_only _ _ _) (by decide +kernel) ?_
    exact Only.refl _ _ _
  · exact Only.refl _ _ _

theorem execFunctionLevelReset_gives : ∀ a0 s, Gives [.mail, .hostFns, .votes, .heldOut, .out] [(0x50, 0x134, 0x134), (0x50, 0x138, 0x138), (0x70, 0x18, 0x18)] s (execFunctionLevelReset a0 s) := by
  intro a0 s
  unfold execFunctionLevelReset
  refine Gives.next ?_
  refine withPeers_only (by decide +kernel) (fun s => ?_) ?_
  · extract_lets +onlyGivenNames x1
    refine Only.have_ (t := x1) ?_ fun hx1 => ?_
    · subst x1
      refine Only.step (flr_only _ _) (by decide +kernel) ?_
      exact Only.refl _ _ _
    clear_value x1
    refine Only.ite ?_ ?_
    · refine Only.step (raise_only 0x70 _ _ _ rfl rfl) (by decide +kernel) ?_
      assumption
    · assumption
  · exact Only.refl _ _ _

theorem execHostLinkUp_gives : ∀ a0 a1 a2 s, Gives [.causes, .mail, .hostFns, .heldOut, .out] [(0x70, 0x14, 0x14), (0x70, 0x18, 0x18), (0x70, 0x28, 0x28), (0x70, 0x104, 0x104)] s (execHostLinkUp a0 a1 a2 s) := by
  intro a0 a1 a2 s
  unfold execHostLinkUp
  extract_lets +onlyGivenNames x1
  extract_lets +onlyGivenNames x2
  clear_value x2
  extract_lets +onlyGivenNames x3
  clear_value x3
  refine Gives.ite ?_ ?_
  · refine Gives.next ?_
    exact Only.refl _ _ _
  · refine Gives.ite ?_ ?_
    · refine Gives.next ?_
      refine withPeers_only (by decide +kernel) (fun s => ?_) ?_
      · refine Only.step (fencePage_only 0x70 _ _ _ rfl rfl) (by decide +kernel) ?_
        exact Only.refl _ _ _
      · exact Only.refl _ _ _
    · refine Gives.next ?_
      refine withPeers_only (by decide +kernel) (fun s => ?_) ?_
      · extract_lets +onlyGivenNames x4
        refine Only.have_ (t := x4) ?_ fun hx4 => ?_
        · subst x4
          refine Only.step (setHostLink_only _ _ _ _ _) (by decide +kernel) ?_
          exact Only.refl _ _ _
        clear_value x4
        extract_lets +onlyGivenNames x5
        clear_value x5
        extract_lets +onlyGivenNames x6
        refine Only.have_ (t := x6) ?_ fun hx6 => ?_
        · subst x6
          refine Only.step (setHostFn_only _ _ _ _) (by decide +kernel) ?_
          assumption
        clear_value x6
        refine Only.ite ?_ ?_
        · refine Only.step (raise_only 0x70 _ _ _ rfl rfl) (by decide +kernel) ?_
          assumption
        · assumption
      · exact Only.refl _ _ _

theorem execHostLinkDown_gives : ∀ a0 s, Gives [.mail, .hostFns, .votes, .heldOut, .out] [(0x50, 0x134, 0x134), (0x50, 0x138, 0x138), (0x70, 0x18, 0x18), (0x70, 0x104, 0x104)] s (execHostLinkDown a0 s) := by
  intro a0 s
  unfold execHostLinkDown
  refine Gives.ite ?_ ?_
  · refine Gives.next ?_
    exact Only.refl _ _ _
  · refine Gives.next ?_
    refine withPeers_only (by decide +kernel) (fun s => ?_) ?_
    · refine Only.step (raise_only 0x70 _ _ _ rfl rfl) (by decide +kernel) ?_
      refine Only.step (linkLost_only _ _) (by decide +kernel) ?_
      exact Only.refl _ _ _
    · exact Only.refl _ _ _

theorem execPerst_gives : ∀ a0 s, Gives [.mail, .hostFns, .votes, .heldOut, .out] [(0x50, 0x134, 0x134), (0x50, 0x138, 0x138), (0x70, 0x18, 0x18), (0x70, 0x104, 0x104)] s (execPerst a0 s) := by
  intro a0 s
  unfold execPerst
  refine Gives.ite ?_ ?_
  · refine Gives.next ?_
    exact Only.refl _ _ _
  · refine Gives.next ?_
    refine withPeers_only (by decide +kernel) (fun s => ?_) ?_
    · refine Only.step (raise_only 0x70 _ _ _ rfl rfl) (by decide +kernel) ?_
      refine Only.step (linkLost_only _ _) (by decide +kernel) ?_
      exact Only.refl _ _ _
    · exact Only.refl _ _ _

theorem execCplTimeout_gives : ∀ a0 s, Gives [.heldOut, .out] [(0x70, 0x18, 0x18), (0x70, 0x108, 0x108)] s (execCplTimeout a0 s) := by
  intro a0 s
  unfold execCplTimeout
  refine Gives.next ?_
  refine Only.step (raise_only 0x70 _ _ _ rfl rfl) (by decide +kernel) ?_
  refine Only.step (satInc_only 0x70 0x108 _ _ _ _ rfl rfl rfl rfl) (by decide +kernel) ?_
  exact Only.refl _ _ _

theorem execLinkReturnToL0_gives : ∀ a0 s, Gives [.heldOut, .out] [(0x70, 0x104, 0x104)] s (execLinkReturnToL0 a0 s) := by
  intro a0 s
  unfold execLinkReturnToL0
  refine Gives.ite ?_ ?_
  · refine Gives.next ?_
    exact Only.refl _ _ _
  · extract_lets +onlyGivenNames x1
    clear_value x1
    extract_lets +onlyGivenNames x2
    refine Gives.have_ (t := x2) ?_ fun hx2 => ?_
    · subst x2
      refine Only.step (fset_only 0x70 0x104 _ _ _ _ rfl rfl rfl) (by decide +kernel) ?_
      exact Only.refl _ _ _
    clear_value x2
    extract_lets +onlyGivenNames x3
    refine Gives.have_ (t := x3) ?_ fun hx3 => ?_
    · subst x3
      refine Only.set_heldOut (by decide +kernel) ?_
      assumption
    clear_value x3
    refine Gives.next ?_
    refine Only.foldl (fun s x => ?_) ?_
    · refine Only.step (push_only _ _) (by decide +kernel) ?_
      exact Only.refl _ _ _
    · assumption

theorem execConfigurationRequest_gives : ∀ a0 s, Gives [.mail, .hostFns] [(0x70, 0x104, 0x104)] s (execConfigurationRequest a0 s) := by
  intro a0 s
  unfold execConfigurationRequest
  refine Gives.ite ?_ ?_
  · refine Gives.next ?_
    exact Only.refl _ _ _
  · refine Gives.next ?_
    refine withPeers_only (by decide +kernel) (fun s => ?_) ?_
    · extract_lets +onlyGivenNames x1
      refine Only.have_ (t := x1) ?_ fun hx1 => ?_
      · subst x1
        refine Only.step (setHostFn_only _ _ _ _) (by decide +kernel) ?_
        exact Only.refl _ _ _
      clear_value x1
      refine Only.ite ?_ ?_
      · refine Only.step (fset_only 0x70 0x104 _ _ _ _ rfl rfl rfl) (by decide +kernel) ?_
        assumption
      · assumption
    · exact Only.refl _ _ _

theorem execMailboxInvalid_gives : ∀ a0 a1 s, Gives [.mail, .heldOut, .out] [] s (execMailboxInvalid a0 a1 s) := by
  intro a0 a1 s
  unfold execMailboxInvalid
  refine Gives.ite ?_ ?_
  · refine Gives.next ?_
    refine Only.step (reply_only _ _ _ _ _ _) (by decide +kernel) ?_
    exact Only.refl _ _ _
  · refine Gives.next ?_
    exact Only.refl _ _ _

theorem firmwareId_only : ∀ a0 a1 a2 s, Only [.ws, .mail, .heldOut, .out] [(0x30, 0x18, 0x18), (0x30, 0x204, 0x204)] s (firmwareId a0 a1 a2 s) := by
  intro a0 a1 a2 s
  unfold firmwareId
  extract_lets +onlyGivenNames x1
  clear_value x1
  extract_lets +onlyGivenNames x2
  clear_value x2
  extract_lets +onlyGivenNames x3
  refine Only.have_ (t := x3) ?_ fun hx3 => ?_
  · subst x3
    refine Only.ite ?_ ?_
    · refine Only.step (idProgram_only _ _ _ _) (by decide +kernel) ?_
      exact Only.refl _ _ _
    · exact Only.refl _ _ _
  clear_value x3
  refine Only.step (replyTo_only _ _ _) (by decide +kernel) ?_
  assumption

theorem execIdProgram_gives : ∀ a0 a1 a2 s, Gives [.deferred, .ws, .mail, .heldOut, .out] [(0x30, 0x18, 0x18), (0x30, 0x204, 0x204)] s (execIdProgram a0 a1 a2 s) := by
  intro a0 a1 a2 s
  unfold execIdProgram
  refine Gives.ite ?_ ?_
  · refine Gives.next ?_
    exact Only.refl _ _ _
  · refine Gives.ite ?_ ?_
    · refine Gives.next ?_
      refine Only.set_deferred (by decide +kernel) ?_
      exact Only.refl _ _ _
    · refine Gives.next ?_
      refine Only.step (firmwareId_only _ _ _ _) (by decide +kernel) ?_
      exact Only.refl _ _ _

theorem nextIdProgram_only : ∀ s, Only [.deferred, .ws, .mail, .heldOut, .out] [(0x30, 0x18, 0x18), (0x30, 0x204, 0x204)] s (nextIdProgram s) := by
  intro s
  unfold nextIdProgram
  split
  · refine Only.step (firmwareId_only _ _ _ _) (by decide +kernel) ?_
    refine Only.set_deferred (by decide +kernel) ?_
    exact Only.refl _ _ _
  · exact Only.refl _ _ _

theorem execIdDone_gives : ∀ s, Gives [.deferred, .ws, .mail, .heldOut, .out] [(0x30, 0x18, 0x18), (0x30, 0x204, 0x204), (0x30, 0x208, 0x208), (0x30, 0x240, 0x240), (0x30, 0x244, 0x244), (0x30, 0x248, 0x248), (0x30, 0x24c, 0x24c), (0x30, 0x250, 0x250), (0x30, 0x254, 0x254), (0x30, 0x258, 0x258), (0xb1, 0x100, 0x100)] s (execIdDone s) := by
  intro s
  unfold execIdDone
  split
  · refine Gives.next ?_
    exact Only.refl _ _ _
  · extract_lets +onlyGivenNames x1
    clear_value x1
    extract_lets +onlyGivenNames x2
    refine Gives.have_ (t := x2) ?_ fun hx2 => ?_
    · subst x2
      refine Only.step (modWs_only _ _) (by decide +kernel) ?_
      refine Only.step (setCw_only _ _ _) (by decide +kernel) ?_
      exact Only.refl _ _ _
    clear_value x2
    refine Gives.next ?_
    refine Only.step (nextIdProgram_only _) (by decide +kernel) ?_
    refine Only.step (raise_only 0x30 _ _ _ rfl rfl) (by decide +kernel) ?_
    refine Only.step (setIdStat_only _ _ _) (by decide +kernel) ?_
    refine Only.step (loadIdentity_only _) (by decide +kernel) ?_
    assumption


end Sys2Proof.Machine
end

