-- ==== Sys2Proof/Laws/OnlyRing.lean ====
section
/-! SUPPORT. What the operations and the meanings of Machine/Ring.lean can change (`Only`, `Gives`): the parts of the state and the
registers, whatever the operands are. -/

namespace Sys2Proof.Machine

set_option linter.unusedSimpArgs false
set_option maxRecDepth 20000
set_option Elab.async false

theorem dropLink_only : ∀ a0 s, Only [.ring] [(0x71, 0x110, 0x110)] s (dropLink a0 s) := by
  intro a0 s
  unfold dropLink
  extract_lets +onlyGivenNames x1
  refine Only.have_ (t := x1) ?_ fun hx1 => ?_
  · subst x1
    refine Only.step (fset_only 0x71 0x110 _ _ _ _ rfl rfl rfl) (by decide +kernel) ?_
    refine Only.step (fset_only 0x71 0x110 _ _ _ _ rfl rfl rfl) (by decide +kernel) ?_
    exact Only.refl _ _ _
  clear_value x1
  refine Only.step (setRingPort_only _ _ _) (by decide +kernel) ?_
  assumption

theorem resendAll_only : ∀ a0 s, Only [.ring, .out] [(0x71, 0x118, 0x118)] s (resendAll a0 s) := by
  intro a0 s
  unfold resendAll
  extract_lets +onlyGivenNames x1
  clear_value x1
  extract_lets +onlyGivenNames x2
  clear_value x2
  extract_lets +onlyGivenNames x3
  refine Only.have_ (t := x3) ?_ fun hx3 => ?_
  · subst x3
    refine Only.step (wrapInc_only 0x71 0x118 _ _ _ _ rfl rfl rfl rfl) (by decide +kernel) ?_
    exact Only.refl _ _ _
  clear_value x3
  extract_lets +onlyGivenNames x4
  clear_value x4
  extract_lets +onlyGivenNames x5
  refine Only.have_ (t := x5) ?_ fun hx5 => ?_
  · subst x5
    refine Only.step (modRing_only _ _) (by decide +kernel) ?_
    refine Only.step (setRingPort_only _ _ _) (by decide +kernel) ?_
    assumption
  clear_value x5
  refine Only.foldl (fun s x => ?_) ?_
  · refine Only.step (launch_only _ _ _) (by decide +kernel) ?_
    exact Only.refl _ _ _
  · assumption

theorem raiseRgs_only : ∀ a0 s, Only [.heldOut, .out] [(0x71, 0x18, 0x18)] s (raiseRgs a0 s) := by
  intro a0 s
  unfold raiseRgs
  refine Only.step (raise_only 0x71 _ _ _ rfl rfl) (by decide +kernel) ?_
  refine Only.step (raise_only 0x71 _ _ _ rfl rfl) (by decide +kernel) ?_
  exact Only.refl _ _ _

theorem setNodes_only : ∀ a0 a1 s, Only [.ring, .heldOut, .out] [(0x71, 0x18, 0x18), (0x71, 0x100, 0x100), (0x71, 0x108, 0x108)] s (setNodes a0 a1 s) := by
  intro a0 a1 s
  unfold setNodes
  extract_lets +onlyGivenNames x1
  extract_lets +onlyGivenNames x2
  clear_value x2
  extract_lets +onlyGivenNames x3
  extract_lets +onlyGivenNames x4
  clear_value x4
  extract_lets +onlyGivenNames x5
  clear_value x5
  extract_lets +onlyGivenNames x6
  refine Only.have_ (t := x6) ?_ fun hx6 => ?_
  · subst x6
    refine Only.step (modRing_only _ _) (by decide +kernel) ?_
    exact Only.refl _ _ _
  clear_value x6
  extract_lets +onlyGivenNames x7
  refine Only.have_ (t := x7) ?_ fun hx7 => ?_
  · subst x7
    refine Only.step (fset_only 0x71 0x100 _ _ _ _ rfl rfl rfl) (by decide +kernel) ?_
    refine Only.step (fset_only 0x71 0x100 _ _ _ _ rfl rfl rfl) (by decide +kernel) ?_
    refine Only.step (fset_only 0x71 0x108 _ _ _ _ rfl rfl rfl) (by decide +kernel) ?_
    assumption
  clear_value x7
  extract_lets +onlyGivenNames x8
  refine Only.have_ (t := x8) ?_ fun hx8 => ?_
  · subst x8
    refine Only.ite ?_ ?_
    · refine Only.step (raiseRgs_only _ _) (by decide +kernel) ?_
      assumption
    · assumption
  clear_value x8
  refine Only.ite ?_ ?_
  · refine Only.step (raiseRgs_only _ _) (by decide +kernel) ?_
    assumption
  · assumption

theorem breakAt_only : ∀ a0 s, Only [.ring, .heldOut, .out] [(0x71, 0x18, 0x18), (0x71, 0x100, 0x100), (0x71, 0x108, 0x108), (0x71, 0x110, 0x110), (0x71, 0x118, 0x118)] s (breakAt a0 s) := by
  intro a0 s
  unfold breakAt
  extract_lets +onlyGivenNames x1
  refine Only.have_ (t := x1) ?_ fun hx1 => ?_
  · subst x1
    refine Only.step (dropLink_only _ _) (by decide +kernel) ?_
    exact Only.refl _ _ _
  clear_value x1
  refine Only.ite ?_ ?_
  · assumption
  · extract_lets +onlyGivenNames x2
    clear_value x2
    extract_lets +onlyGivenNames x3
    clear_value x3
    refine Only.ite ?_ ?_
    · extract_lets +onlyGivenNames x4
      clear_value x4
      refine Only.step (resendAll_only _ _) (by decide +kernel) ?_
      refine Only.step (setNodes_only _ _ _) (by decide +kernel) ?_
      assumption
    · extract_lets +onlyGivenNames x5
      clear_value x5
      refine Only.step (raiseRgs_only _ _) (by decide +kernel) ?_
      refine Only.step (setNodes_only _ _ _) (by decide +kernel) ?_
      assumption

theorem becomeReady_only : ∀ s, Only [.phase, .heldOut, .out] [(0x1, 0x18, 0x18), (0xb0, 0x600, 0x600), (0xb0, 0x608, 0x608)] s (becomeReady s) := by
  intro s
  unfold becomeReady
  extract_lets +onlyGivenNames x1
  refine Only.have_ (t := x1) ?_ fun hx1 => ?_
  · subst x1
    refine Only.step (fset_only 0xb0 0x608 _ _ _ _ rfl rfl rfl) (by decide +kernel) ?_
    refine Only.step (fset_only 0xb0 0x600 _ _ _ _ rfl rfl rfl) (by decide +kernel) ?_
    exact Only.refl _ _ _
  clear_value x1
  refine Only.step (raise_only 0x1 _ _ _ rfl rfl) (by decide +kernel) ?_
  refine Only.set_phase (by decide +kernel) ?_
  assumption

theorem setLeave_only : ∀ a0 s, Only [] [(0x71, 0x10c, 0x10c)] s (setLeave a0 s) := by
  intro a0 s
  unfold setLeave
  refine Only.step (fset_only 0x71 0x10c _ _ _ _ rfl rfl rfl) (by decide +kernel) ?_
  exact Only.refl _ _ _

theorem setRingId_only : ∀ a0 s, Only [] [(0x71, 0x104, 0x104)] s (setRingId a0 s) := by
  intro a0 s
  unfold setRingId
  refine Only.step (fset_only 0x71 0x104 _ _ _ _ rfl rfl rfl) (by decide +kernel) ?_
  refine Only.step (fset_only 0x71 0x104 _ _ _ _ rfl rfl rfl) (by decide +kernel) ?_
  exact Only.refl _ _ _

theorem startEnum_only : ∀ s, Only [.ring, .heldOut, .out] [(0x70, 0x18, 0x18), (0x70, 0x10c, 0x10c), (0x71, 0x18, 0x18), (0x71, 0x100, 0x100), (0x71, 0x104, 0x104), (0x71, 0x11c, 0x11c)] s (startEnum s) := by
  intro s
  unfold startEnum
  extract_lets +onlyGivenNames x1
  clear_value x1
  extract_lets +onlyGivenNames x2
  refine Only.have_ (t := x2) ?_ fun hx2 => ?_
  · subst x2
    refine Only.step (setRingId_only _ _) (by decide +kernel) ?_
    refine Only.step (fset_only 0x71 0x100 _ _ _ _ rfl rfl rfl) (by decide +kernel) ?_
    refine Only.step (fset_only 0x71 0x100 _ _ _ _ rfl rfl rfl) (by decide +kernel) ?_
    exact Only.refl _ _ _
  clear_value x2
  extract_lets +onlyGivenNames x3
  refine Only.have_ (t := x3) ?_ fun hx3 => ?_
  · subst x3
    refine Only.step (modRing_only _ _) (by decide +kernel) ?_
    assumption
  clear_value x3
  refine Only.step (emit_only _ _) (by decide +kernel) ?_
  assumption

theorem reenum_only : ∀ s, Only [.ring, .heldOut, .out] [(0x70, 0x18, 0x18), (0x70, 0x10c, 0x10c), (0x71, 0x18, 0x18), (0x71, 0x100, 0x100), (0x71, 0x104, 0x104), (0x71, 0x11c, 0x11c)] s (reenum s) := by
  intro s
  unfold reenum
  refine Only.ite ?_ ?_
  · refine Only.step (startEnum_only _) (by decide +kernel) ?_
    exact Only.refl _ _ _
  · exact Only.refl _ _ _

theorem sendWake_only : ∀ a0 a1 s, Only [.ring, .heldOut, .out] [(0x70, 0x18, 0x18), (0x70, 0x10c, 0x10c), (0x71, 0x18, 0x18), (0x71, 0x110, 0x110), (0x71, 0x11c, 0x11c)] s (sendWake a0 a1 s) := by
  intro a0 a1 s
  unfold sendWake
  refine Only.step (dropLink_only _ _) (by decide +kernel) ?_
  refine Only.step (emit_only _ _) (by decide +kernel) ?_
  exact Only.refl _ _ _

theorem wakeNode_only : ∀ a0 s, Only [.ring, .heldOut, .out] [(0x70, 0x18, 0x18), (0x70, 0x10c, 0x10c), (0x71, 0x18, 0x18), (0x71, 0x10c, 0x10c), (0x71, 0x110, 0x110), (0x71, 0x11c, 0x11c)] s (wakeNode a0 s) := by
  intro a0 s
  unfold wakeNode
  extract_lets +onlyGivenNames x1
  refine Only.have_ (t := x1) ?_ fun hx1 => ?_
  · subst x1
    refine Only.step (fset_only 0x71 0x10c _ _ _ _ rfl rfl rfl) (by decide +kernel) ?_
    exact Only.refl _ _ _
  clear_value x1
  refine Only.ite ?_ ?_
  · refine Only.step (sendWake_only _ _ _) (by decide +kernel) ?_
    assumption
  · refine Only.step (sendWake_only _ _ _) (by decide +kernel) ?_
    refine Only.step (sendWake_only _ _ _) (by decide +kernel) ?_
    assumption

theorem foreign_only : ∀ a0 s, Only [.heldOut, .out] [(0x71, 0x18, 0x18), (0x71, 0x11c, 0x11c)] s (foreign a0 s) := by
  intro a0 s
  unfold foreign
  refine Only.step (raise_only 0x71 _ _ _ rfl rfl) (by decide +kernel) ?_
  refine Only.step (satInc_only 0x71 0x11c _ _ _ _ rfl rfl rfl rfl) (by decide +kernel) ?_
  exact Only.refl _ _ _

theorem forward_only : ∀ a0 a1 s, Only [.ring, .heldOut, .out] [(0x71, 0x18, 0x18), (0x71, 0x11c, 0x11c)] s (forward a0 a1 s) := by
  intro a0 a1 s
  unfold forward
  refine Only.ite ?_ ?_
  · refine Only.step (foreign_only _ _) (by decide +kernel) ?_
    exact Only.refl _ _ _
  · refine Only.step (launch_only _ _ _) (by decide +kernel) ?_
    exact Only.refl _ _ _

theorem inOrder_only : ∀ a0 a1 s, Only [.ring, .heldOut, .out] [(0x70, 0x18, 0x18), (0x70, 0x10c, 0x10c), (0x71, 0x18, 0x18), (0x71, 0x11c, 0x11c)] s (inOrder a0 a1 s).1 := by
  intro a0 a1 s
  unfold inOrder
  extract_lets +onlyGivenNames x1
  clear_value x1
  refine Only.ite_fst ?_ ?_
  · refine Only.pairFst ?_
    exact Only.refl _ _ _
  · extract_lets +onlyGivenNames x2
    refine Only.have_ (t := x2) ?_ fun hx2 => ?_
    · subst x2
      refine Only.step (modRing_only _ _) (by decide +kernel) ?_
      exact Only.refl _ _ _
    clear_value x2
    refine Only.pairFst ?_
    refine Only.step (emit_only _ _) (by decide +kernel) ?_
    assumption

theorem inOrder_only_eq : ∀ a0 a1 s t x, inOrder a0 a1 s = (t, x) → Only [.ring, .heldOut, .out] [(0x70, 0x18, 0x18), (0x70, 0x10c, 0x10c), (0x71, 0x18, 0x18), (0x71, 0x11c, 0x11c)] s t := by
  intro a0 a1 s t x h
  have := inOrder_only a0 a1 s
  rw [h] at this
  exact this

theorem takeAck_only : ∀ a0 a1 s, Only [.ring, .out] [] s (takeAck a0 a1 s) := by
  intro a0 a1 s
  unfold takeAck
  extract_lets +onlyGivenNames x1
  clear_value x1
  extract_lets +onlyGivenNames x2
  clear_value x2
  extract_lets +onlyGivenNames x3
  clear_value x3
  extract_lets +onlyGivenNames x4
  clear_value x4
  refine Only.step (drain_only _ _) (by decide +kernel) ?_
  refine Only.step (setRingPort_only _ _ _) (by decide +kernel) ?_
  exact Only.refl _ _ _

theorem takeFlit_only : ∀ a0 a1 s, Only [.ring, .heldOut, .out] [(0x70, 0x18, 0x18), (0x70, 0x10c, 0x10c), (0x71, 0x18, 0x18), (0x71, 0x11c, 0x11c)] s (takeFlit a0 a1 s).1 := by
  intro a0 a1 s
  unfold takeFlit
  extract_lets +onlyGivenNames x1
  clear_value x1
  extract_lets +onlyGivenNames x2
  clear_value x2
  refine Only.ite_fst ?_ ?_
  · refine Only.pairFst ?_
    refine Only.step (emit_only _ _) (by decide +kernel) ?_
    exact Only.refl _ _ _
  · extract_lets +onlyGivenNames x3
    refine Only.have_ (t := x3) ?_ fun hx3 => ?_
    · subst x3
      refine Only.step (setRingPort_only _ _ _) (by decide +kernel) ?_
      exact Only.refl _ _ _
    clear_value x3
    refine Only.pairFst ?_
    refine Only.step (takeAck_only _ _ _) (by decide +kernel) ?_
    refine Only.step (emit_only _ _) (by decide +kernel) ?_
    assumption

theorem takeFlit_only_eq : ∀ a0 a1 s t x, takeFlit a0 a1 s = (t, x) → Only [.ring, .heldOut, .out] [(0x70, 0x18, 0x18), (0x70, 0x10c, 0x10c), (0x71, 0x18, 0x18), (0x71, 0x11c, 0x11c)] s t := by
  intro a0 a1 s t x h
  have := takeFlit_only a0 a1 s
  rw [h] at this
  exact this

theorem controlBoth_only : ∀ a0 a1 s, Only [.ring, .heldOut, .out] [(0x70, 0x18, 0x18), (0x70, 0x10c, 0x10c), (0x71, 0x18, 0x18), (0x71, 0x11c, 0x11c)] s (controlBoth a0 a1 s) := by
  intro a0 a1 s
  unfold controlBoth
  refine Only.step (emit_only _ _) (by decide +kernel) ?_
  refine Only.step (emit_only _ _) (by decide +kernel) ?_
  exact Only.refl _ _ _

theorem ringSettled_only : ∀ s, Only [.phase, .heldOut, .out] [(0x1, 0x18, 0x18), (0xb0, 0x600, 0x600), (0xb0, 0x608, 0x608)] s (ringSettled s) := by
  intro s
  unfold ringSettled
  refine Only.ite ?_ ?_
  · refine Only.step (becomeReady_only _) (by decide +kernel) ?_
    exact Only.refl _ _ _
  · exact Only.refl _ _ _

theorem joined_only : ∀ a0 s, Only [.phase, .heldOut, .out] [(0x1, 0x18, 0x18), (0x71, 0x18, 0x18), (0x71, 0x100, 0x100), (0xb0, 0x600, 0x600), (0xb0, 0x608, 0x608)] s (joined a0 s) := by
  intro a0 s
  unfold joined
  refine Only.step (ringSettled_only _) (by decide +kernel) ?_
  refine Only.step (raiseRgs_only _ _) (by decide +kernel) ?_
  refine Only.step (fset_only 0x71 0x100 _ _ _ _ rfl rfl rfl) (by decide +kernel) ?_
  refine Only.step (fset_only 0x71 0x100 _ _ _ _ rfl rfl rfl) (by decide +kernel) ?_
  exact Only.refl _ _ _

theorem execRingBreak_gives : ∀ a0 s, Gives [.ring, .heldOut, .out] [(0x71, 0x18, 0x18), (0x71, 0x100, 0x100), (0x71, 0x108, 0x108), (0x71, 0x110, 0x110), (0x71, 0x118, 0x118)] s (execRingBreak a0 s) := by
  intro a0 s
  unfold execRingBreak
  refine Gives.ite ?_ ?_
  · refine Gives.next ?_
    refine Only.step (breakAt_only _ _) (by decide +kernel) ?_
    exact Only.refl _ _ _
  · refine Gives.next ?_
    exact Only.refl _ _ _

theorem execRingLinkTrained_gives : ∀ a0 a1 s, Gives [.causes, .ring, .heldOut, .out] [(0x71, 0x14, 0x14), (0x71, 0x18, 0x18), (0x71, 0x28, 0x28), (0x71, 0x100, 0x100), (0x71, 0x108, 0x108), (0x71, 0x110, 0x110), (0x71, 0x118, 0x118)] s (execRingLinkTrained a0 a1 s) := by
  intro a0 a1 s
  unfold execRingLinkTrained
  extract_lets +onlyGivenNames x1
  clear_value x1
  extract_lets +onlyGivenNames x2
  extract_lets +onlyGivenNames x3
  clear_value x3
  refine Gives.ite ?_ ?_
  · refine Gives.next ?_
    exact Only.refl _ _ _
  · refine Gives.ite ?_ ?_
    · refine Gives.next ?_
      refine Only.step (fencePage_only 0x71 _ _ _ rfl rfl) (by decide +kernel) ?_
      refine Only.step (breakAt_only _ _) (by decide +kernel) ?_
      exact Only.refl _ _ _
    · extract_lets +onlyGivenNames x4
      refine Gives.have_ (t := x4) ?_ fun hx4 => ?_
      · subst x4
        refine Only.step (fset_only 0x71 0x110 _ _ _ _ rfl rfl rfl) (by decide +kernel) ?_
        refine Only.step (fset_only 0x71 0x110 _ _ _ _ rfl rfl rfl) (by decide +kernel) ?_
        exact Only.refl _ _ _
      clear_value x4
      extract_lets +onlyGivenNames x5
      clear_value x5
      extract_lets +onlyGivenNames x6
      refine Gives.have_ (t := x6) ?_ fun hx6 => ?_
      · subst x6
        refine Only.step (setRingPort_only _ _ _) (by decide +kernel) ?_
        assumption
      clear_value x6
      refine Gives.next ?_
      refine Only.step (drain_only _ _) (by decide +kernel) ?_
      refine Only.ite ?_ ?_
      · refine Only.step (raise_only 0x71 _ _ _ rfl rfl) (by decide +kernel) ?_
        assumption
      · assumption

theorem execBypassChange_gives : ∀ s, Gives [.ring] [(0x71, 0x100, 0x100), (0x71, 0x110, 0x110)] s (execBypassChange s) := by
  intro s
  unfold execBypassChange
  refine Gives.ite ?_ ?_
  · refine Gives.next ?_
    exact Only.refl _ _ _
  · refine Gives.next ?_
    refine Only.step (dropLink_only _ _) (by decide +kernel) ?_
    refine Only.step (dropLink_only _ _) (by decide +kernel) ?_
    refine Only.step (fset_only 0x71 0x100 _ _ _ _ rfl rfl rfl) (by decide +kernel) ?_
    exact Only.refl _ _ _

theorem execRingReplay_gives : ∀ a0 a1 s, Gives [.ring] [(0x71, 0x110, 0x110), (0x71, 0x114, 0x114)] s (execRingReplay a0 a1 s) := by
  intro a0 a1 s
  unfold execRingReplay
  extract_lets +onlyGivenNames x1
  clear_value x1
  extract_lets +onlyGivenNames x2
  clear_value x2
  extract_lets +onlyGivenNames x3
  clear_value x3
  refine Gives.ite ?_ ?_
  · refine Gives.next ?_
    exact Only.refl _ _ _
  · extract_lets +onlyGivenNames x4
    refine Gives.have_ (t := x4) ?_ fun hx4 => ?_
    · subst x4
      refine Only.step (wrapInc_only 0x71 0x114 _ _ _ _ rfl rfl rfl rfl) (by decide +kernel) ?_
      exact Only.refl _ _ _
    clear_value x4
    extract_lets +onlyGivenNames x5
    refine Gives.have_ (t := x5) ?_ fun hx5 => ?_
    · subst x5
      refine Only.step (setRingPort_only _ _ _) (by decide +kernel) ?_
      assumption
    clear_value x5
    refine Gives.next ?_
    refine Only.ite ?_ ?_
    · refine Only.step (dropLink_only _ _) (by decide +kernel) ?_
      assumption
    · assumption

theorem execE2eAck_gives : ∀ a0 a1 a2 a3 s, Gives [.ring, .out] [] s (execE2eAck a0 a1 a2 a3 s) := by
  intro a0 a1 a2 a3 s
  unfold execE2eAck
  extract_lets +onlyGivenNames x1
  extract_lets +onlyGivenNames x2
  refine Gives.have_ (t := x2) ?_ fun hx2 => ?_
  · subst x2
    refine Only.step (modRing_only _ _) (by decide +kernel) ?_
    exact Only.refl _ _ _
  clear_value x2
  refine Gives.next ?_
  refine Only.ite ?_ ?_
  · refine Only.step (drain_only _ _) (by decide +kernel) ?_
    assumption
  · assumption

theorem abandon_only : ∀ s a1, Only [.ring, .heldOut, .out] [(0x70, 0x18, 0x18), (0x70, 0x108, 0x108), (0x70, 0x10c, 0x10c), (0x71, 0x18, 0x18), (0x71, 0x11c, 0x11c)] s (abandon s a1) := by
  intro s a1
  unfold abandon
  refine Only.ite ?_ ?_
  · refine Only.step (ringDropped_only _) (by decide +kernel) ?_
    exact Only.refl _ _ _
  · refine Only.ite ?_ ?_
    · split
      · refine Only.step (hostAbort_only _ _ _) (by decide +kernel) ?_
        refine Only.step (modRing_only _ _) (by decide +kernel) ?_
        exact Only.refl _ _ _
      · exact Only.refl _ _ _
    · exact Only.refl _ _ _

theorem execE2eDrop_gives : ∀ a0 s, Gives [.timer, .ring, .heldOut, .out] [(0x70, 0x18, 0x18), (0x70, 0x108, 0x108), (0x70, 0x10c, 0x10c), (0x71, 0x18, 0x18), (0x71, 0x11c, 0x11c)] s (execE2eDrop a0 s) := by
  intro a0 s
  unfold execE2eDrop
  split
  · refine Gives.next ?_
    exact Only.refl _ _ _
  · extract_lets +onlyGivenNames x1
    refine Gives.have_ (t := x1) ?_ fun hx1 => ?_
    · subst x1
      refine Only.step (reach_only _ _) (by decide +kernel) ?_
      exact Only.refl _ _ _
    clear_value x1
    extract_lets +onlyGivenNames x2
    clear_value x2
    extract_lets +onlyGivenNames x3
    extract_lets +onlyGivenNames x4
    refine Gives.have_ (t := x4) ?_ fun hx4 => ?_
    · subst x4
      refine Only.step (modRing_only _ _) (by decide +kernel) ?_
      assumption
    clear_value x4
    refine Gives.next ?_
    refine Only.foldl (fun s x => ?_) ?_
    · refine Only.step (abandon_only _ _) (by decide +kernel) ?_
      exact Only.refl _ _ _
    · assumption

theorem execEnumStart_gives : ∀ s, Gives [.timer, .ring, .heldOut, .out] [(0x70, 0x18, 0x18), (0x70, 0x10c, 0x10c), (0x71, 0x18, 0x18), (0x71, 0x100, 0x100), (0x71, 0x104, 0x104), (0x71, 0x11c, 0x11c)] s (execEnumStart s) := by
  intro s
  unfold execEnumStart
  split
  · refine Gives.next ?_
    exact Only.refl _ _ _
  · refine Gives.ite ?_ ?_
    · refine Gives.next ?_
      refine Only.step (startEnum_only _) (by decide +kernel) ?_
      refine Only.step (reach_only _ _) (by decide +kernel) ?_
      exact Only.refl _ _ _
    · refine Gives.next ?_
      exact Only.refl _ _ _

theorem serveJoin_only : ∀ a0 s, Only [.ring, .heldOut, .out] [(0x70, 0x18, 0x18), (0x70, 0x10c, 0x10c), (0x71, 0x18, 0x18), (0x71, 0x100, 0x100), (0x71, 0x108, 0x108), (0x71, 0x11c, 0x11c)] s (serveJoin a0 s) := by
  intro a0 s
  unfold serveJoin
  extract_lets +onlyGivenNames x1
  clear_value x1
  extract_lets +onlyGivenNames x2
  clear_value x2
  split
  · exact Only.refl _ _ _
  · extract_lets +onlyGivenNames x3
    clear_value x3
    extract_lets +onlyGivenNames x4
    clear_value x4
    extract_lets +onlyGivenNames x5
    refine Only.have_ (t := x5) ?_ fun hx5 => ?_
    · subst x5
      refine Only.step (modRing_only _ _) (by decide +kernel) ?_
      exact Only.refl _ _ _
    clear_value x5
    refine Only.step (controlBoth_only _ _ _) (by decide +kernel) ?_
    refine Only.step (setNodes_only _ _ _) (by decide +kernel) ?_
    assumption

theorem endEnum_only : ∀ a0 s, Only [.phase, .ring, .heldOut, .out] [(0x1, 0x18, 0x18), (0x70, 0x18, 0x18), (0x70, 0x10c, 0x10c), (0x71, 0x18, 0x18), (0x71, 0x100, 0x100), (0x71, 0x108, 0x108), (0x71, 0x11c, 0x11c), (0xb0, 0x600, 0x600), (0xb0, 0x608, 0x608)] s (endEnum a0 s) := by
  intro a0 s
  unfold endEnum
  extract_lets +onlyGivenNames x1
  clear_value x1
  extract_lets +onlyGivenNames x2
  clear_value x2
  extract_lets +onlyGivenNames x3
  refine Only.have_ (t := x3) ?_ fun hx3 => ?_
  · subst x3
    refine Only.step (modRing_only _ _) (by decide +kernel) ?_
    exact Only.refl _ _ _
  clear_value x3
  extract_lets +onlyGivenNames x4
  refine Only.have_ (t := x4) ?_ fun hx4 => ?_
  · subst x4
    refine Only.step (joined_only _ _) (by decide +kernel) ?_
    refine Only.step (setNodes_only _ _ _) (by decide +kernel) ?_
    refine Only.step (controlBoth_only _ _ _) (by decide +kernel) ?_
    assumption
  clear_value x4
  refine Only.foldl (fun s x => ?_) ?_
  · refine Only.step (serveJoin_only _ _) (by decide +kernel) ?_
    exact Only.refl _ _ _
  · assumption

theorem execEnum_gives : ∀ a0 a1 a2 s, Gives [.phase, .ring, .heldOut, .out] [(0x1, 0x18, 0x18), (0x70, 0x18, 0x18), (0x70, 0x10c, 0x10c), (0x71, 0x18, 0x18), (0x71, 0x100, 0x100), (0x71, 0x104, 0x104), (0x71, 0x108, 0x108), (0x71, 0x11c, 0x11c), (0xb0, 0x600, 0x600), (0xb0, 0x608, 0x608)] s (execEnum a0 a1 a2 s) := by
  intro a0 a1 a2 s
  unfold execEnum
  refine Gives.ite ?_ ?_
  · refine Gives.next ?_
    exact Only.refl _ _ _
  · refine Gives.ite ?_ ?_
    · refine Gives.ite ?_ ?_
      · refine Gives.next ?_
        refine Only.step (endEnum_only _ _) (by decide +kernel) ?_
        exact Only.refl _ _ _
      · refine Gives.next ?_
        exact Only.refl _ _ _
    · refine Gives.ite ?_ ?_
      · refine Gives.next ?_
        exact Only.refl _ _ _
      · refine Gives.ite ?_ ?_
        · refine Gives.next ?_
          refine Only.step (ringSettled_only _) (by decide +kernel) ?_
          refine Only.step (fset_only 0x71 0x100 _ _ _ _ rfl rfl rfl) (by decide +kernel) ?_
          exact Only.refl _ _ _
        · extract_lets +onlyGivenNames x1
          refine Gives.have_ (t := x1) ?_ fun hx1 => ?_
          · subst x1
            refine Only.step (setRingId_only _ _) (by decide +kernel) ?_
            refine Only.step (fset_only 0x71 0x100 _ _ _ _ rfl rfl rfl) (by decide +kernel) ?_
            refine Only.step (fset_only 0x71 0x100 _ _ _ _ rfl rfl rfl) (by decide +kernel) ?_
            exact Only.refl _ _ _
          clear_value x1
          extract_lets +onlyGivenNames x2
          refine Gives.have_ (t := x2) ?_ fun hx2 => ?_
          · subst x2
            refine Only.step (emit_only _ _) (by decide +kernel) ?_
            assumption
          clear_value x2
          refine Gives.next ?_
          refine Only.step (emit_only _ _) (by decide +kernel) ?_
          assumption

theorem execEnumReturnTimeout_gives : ∀ s, Gives [.phase, .timer, .ring, .heldOut, .out] [(0x1, 0x18, 0x18), (0x70, 0x18, 0x18), (0x70, 0x10c, 0x10c), (0x71, 0x18, 0x18), (0x71, 0x100, 0x100), (0x71, 0x108, 0x108), (0x71, 0x11c, 0x11c), (0xb0, 0x600, 0x600), (0xb0, 0x608, 0x608)] s (execEnumReturnTimeout s) := by
  intro s
  unfold execEnumReturnTimeout
  split
  · refine Gives.next ?_
    exact Only.refl _ _ _
  · refine Gives.ite ?_ ?_
    · refine Gives.next ?_
      exact Only.refl _ _ _
    · extract_lets +onlyGivenNames x1
      refine Gives.have_ (t := x1) ?_ fun hx1 => ?_
      · subst x1
        refine Only.step (reach_only _ _) (by decide +kernel) ?_
        exact Only.refl _ _ _
      clear_value x1
      refine Gives.ite ?_ ?_
      · refine Gives.next ?_
        refine Only.step (endEnum_only _ _) (by decide +kernel) ?_
        assumption
      · extract_lets +onlyGivenNames x2
        clear_value x2
        extract_lets +onlyGivenNames x3
        refine Gives.have_ (t := x3) ?_ fun hx3 => ?_
        · subst x3
          refine Only.step (modRing_only _ _) (by decide +kernel) ?_
          assumption
        clear_value x3
        refine Gives.next ?_
        refine Only.step (emit_only _ _) (by decide +kernel) ?_
        assumption

theorem execJoinAck_gives : ∀ a0 a1 s, Gives [.ring] [] s (execJoinAck a0 a1 s) := by
  intro a0 a1 s
  unfold execJoinAck
  refine Gives.ite ?_ ?_
  · extract_lets +onlyGivenNames x1
    clear_value x1
    refine Gives.next ?_
    refine Only.step (modRing_only _ _) (by decide +kernel) ?_
    exact Only.refl _ _ _
  · refine Gives.next ?_
    exact Only.refl _ _ _

theorem execEnumDone_gives : ∀ a0 a1 s, Gives [.phase, .ring, .heldOut, .out] [(0x1, 0x18, 0x18), (0x71, 0x18, 0x18), (0x71, 0x100, 0x100), (0x71, 0x108, 0x108), (0xb0, 0x600, 0x600), (0xb0, 0x608, 0x608)] s (execEnumDone a0 a1 s) := by
  intro a0 a1 s
  unfold execEnumDone
  refine Gives.ite ?_ ?_
  · refine Gives.next ?_
    refine Only.step (joined_only _ _) (by decide +kernel) ?_
    refine Only.step (setNodes_only _ _ _) (by decide +kernel) ?_
    exact Only.refl _ _ _
  · refine Gives.next ?_
    exact Only.refl _ _ _

theorem execJoin_gives : ∀ a0 s, Gives [.ring, .heldOut, .out] [(0x70, 0x18, 0x18), (0x70, 0x10c, 0x10c), (0x71, 0x18, 0x18), (0x71, 0x100, 0x100), (0x71, 0x108, 0x108), (0x71, 0x11c, 0x11c)] s (execJoin a0 s) := by
  intro a0 s
  unfold execJoin
  refine Gives.ite ?_ ?_
  · refine Gives.next ?_
    exact Only.refl _ _ _
  · refine Gives.ite ?_ ?_
    · refine Gives.next ?_
      refine Only.step (modRing_only _ _) (by decide +kernel) ?_
      exact Only.refl _ _ _
    · refine Gives.ite ?_ ?_
      · refine Gives.next ?_
        refine Only.step (serveJoin_only _ _) (by decide +kernel) ?_
        exact Only.refl _ _ _
      · refine Gives.next ?_
        exact Only.refl _ _ _

theorem execBeaconSend_gives : ∀ s, Gives [.ring, .heldOut, .out] [(0x70, 0x18, 0x18), (0x70, 0x10c, 0x10c), (0x71, 0x18, 0x18), (0x71, 0x11c, 0x11c)] s (execBeaconSend s) := by
  intro s
  unfold execBeaconSend
  refine Gives.ite ?_ ?_
  · refine Gives.next ?_
    exact Only.refl _ _ _
  · extract_lets +onlyGivenNames x1
    refine Gives.next ?_
    refine Only.step (emit_only _ _) (by decide +kernel) ?_
    exact Only.refl _ _ _

theorem beaconWaiting_only : ∀ a0 a1 s, Only [.phase, .ring, .heldOut, .out] [(0x1, 0x18, 0x18), (0x70, 0x18, 0x18), (0x70, 0x10c, 0x10c), (0x71, 0x18, 0x18), (0x71, 0x100, 0x100), (0x71, 0x104, 0x104), (0x71, 0x108, 0x108), (0x71, 0x11c, 0x11c), (0xb0, 0x600, 0x600), (0xb0, 0x608, 0x608)] s (beaconWaiting a0 a1 s) := by
  intro a0 a1 s
  unfold beaconWaiting
  extract_lets +onlyGivenNames x1
  clear_value x1
  refine Only.ite ?_ ?_
  · extract_lets +onlyGivenNames x2
    clear_value x2
    refine Only.step (joined_only _ _) (by decide +kernel) ?_
    refine Only.step (setNodes_only _ _ _) (by decide +kernel) ?_
    refine Only.step (setRingId_only _ _) (by decide +kernel) ?_
    exact Only.refl _ _ _
  · split
    · refine Only.step (joined_only _ _) (by decide +kernel) ?_
      refine Only.step (setNodes_only _ _ _) (by decide +kernel) ?_
      exact Only.refl _ _ _
    · refine Only.step (controlBoth_only _ _ _) (by decide +kernel) ?_
      exact Only.refl _ _ _

theorem execBeacon_gives : ∀ a0 a1 a2 a3 a4 a5 s, Gives [.phase, .ring, .heldOut, .out] [(0x1, 0x18, 0x18), (0x70, 0x18, 0x18), (0x70, 0x10c, 0x10c), (0x71, 0x18, 0x18), (0x71, 0x100, 0x100), (0x71, 0x104, 0x104), (0x71, 0x108, 0x108), (0x71, 0x11c, 0x11c), (0xb0, 0x600, 0x600), (0xb0, 0x608, 0x608)] s (execBeacon a0 a1 a2 a3 a4 a5 s) := by
  intro a0 a1 a2 a3 a4 a5 s
  unfold execBeacon
  extract_lets +onlyGivenNames x1
  clear_value x1
  extract_lets +onlyGivenNames x2
  refine Gives.have_ (t := x2) ?_ fun hx2 => ?_
  · subst x2
    refine Only.step (modRing_only _ _) (by decide +kernel) ?_
    exact Only.refl _ _ _
  clear_value x2
  extract_lets +onlyGivenNames x3
  refine Gives.have_ (t := x3) ?_ fun hx3 => ?_
  · subst x3
    refine Only.ite ?_ ?_
    · refine Only.step (raiseRgs_only _ _) (by decide +kernel) ?_
      refine Only.step (modRing_only _ _) (by decide +kernel) ?_
      assumption
    · assumption
  clear_value x3
  extract_lets +onlyGivenNames x4
  refine Gives.have_ (t := x4) ?_ fun hx4 => ?_
  · subst x4
    refine Only.ite ?_ ?_
    · refine Only.step (setRingId_only _ _) (by decide +kernel) ?_
      assumption
    · assumption
  clear_value x4
  extract_lets +onlyGivenNames x5
  refine Gives.have_ (t := x5) ?_ fun hx5 => ?_
  · subst x5
    refine Only.ite ?_ ?_
    · refine Only.step (modRing_only _ _) (by decide +kernel) ?_
      assumption
    · assumption
  clear_value x5
  refine Gives.ite ?_ ?_
  · refine Gives.next ?_
    refine Only.step (beaconWaiting_only _ _ _) (by decide +kernel) ?_
    assumption
  · refine Gives.ite ?_ ?_
    · refine Gives.next ?_
      refine Only.step (setNodes_only _ _ _) (by decide +kernel) ?_
      assumption
    · refine Gives.next ?_
      assumption

theorem execLeaveWrite_gives : ∀ a0 a1 a2 s, Gives [.staleMid, .heldOut, .out] [(0x10, 0x880, 0x880), (0x71, 0x18, 0x18), (0x71, 0x2c, 0x2c), (0x71, 0x10c, 0x10c), (0xb0, 0x18, 0x18), (0xb0, 0x110, 0x110), (0xb0, 0x114, 0x114), (0xb0, 0x118, 0x118), (0xb0, 0x11c, 0x11c)] s (execLeaveWrite a0 a1 a2 s) := by
  intro a0 a1 a2 s
  unfold execLeaveWrite
  refine Gives.next ?_
  refine guarded_only 0x71 rfl rfl (by decide +kernel) (fun s => ?_) ?_
  · refine Only.step (setLeave_only _ _) (by decide +kernel) ?_
    exact Only.refl _ _ _
  · exact Only.refl _ _ _

theorem execReenum_gives : ∀ a0 a1 s, Gives [.staleMid, .ring, .heldOut, .out] [(0x10, 0x880, 0x880), (0x70, 0x18, 0x18), (0x70, 0x10c, 0x10c), (0x71, 0x18, 0x18), (0x71, 0x2c, 0x2c), (0x71, 0x100, 0x100), (0x71, 0x104, 0x104), (0x71, 0x11c, 0x11c), (0xb0, 0x18, 0x18), (0xb0, 0x110, 0x110), (0xb0, 0x114, 0x114), (0xb0, 0x118, 0x118), (0xb0, 0x11c, 0x11c)] s (execReenum a0 a1 s) := by
  intro a0 a1 s
  unfold execReenum
  refine Gives.next ?_
  refine guarded_only 0x71 rfl rfl (by decide +kernel) (fun s => ?_) ?_
  · refine Only.step (reenum_only _) (by decide +kernel) ?_
    exact Only.refl _ _ _
  · exact Only.refl _ _ _

theorem execWakeGo_gives : ∀ a0 a1 a2 s, Gives [.staleMid, .ring, .heldOut, .out] [(0x10, 0x880, 0x880), (0x70, 0x18, 0x18), (0x70, 0x10c, 0x10c), (0x71, 0x18, 0x18), (0x71, 0x2c, 0x2c), (0x71, 0x10c, 0x10c), (0x71, 0x110, 0x110), (0x71, 0x11c, 0x11c), (0xb0, 0x18, 0x18), (0xb0, 0x110, 0x110), (0xb0, 0x114, 0x114), (0xb0, 0x118, 0x118), (0xb0, 0x11c, 0x11c)] s (execWakeGo a0 a1 a2 s) := by
  intro a0 a1 a2 s
  unfold execWakeGo
  refine Gives.next ?_
  refine guarded_only 0x71 rfl rfl (by decide +kernel) (fun s => ?_) ?_
  · refine Only.step (wakeNode_only _ _) (by decide +kernel) ?_
    exact Only.refl _ _ _
  · exact Only.refl _ _ _

theorem execWakeRelay_gives : ∀ a0 a1 s, Gives [.ring, .heldOut, .out] [(0x70, 0x18, 0x18), (0x70, 0x10c, 0x10c), (0x71, 0x18, 0x18), (0x71, 0x110, 0x110), (0x71, 0x11c, 0x11c)] s (execWakeRelay a0 a1 s) := by
  intro a0 a1 s
  unfold execWakeRelay
  refine Gives.ite ?_ ?_
  · refine Gives.next ?_
    refine Only.step (sendWake_only _ _ _) (by decide +kernel) ?_
    exact Only.refl _ _ _
  · refine Gives.next ?_
    exact Only.refl _ _ _


end Sys2Proof.Machine
end

