-- ==== Sys2Proof/Laws/OnlyHalves.lean ====
section
/-! SUPPORT. What the operations and the meanings of Machine/Halves.lean can change (`Only`, `Gives`): the parts of the state and the
registers, whatever the operands are. -/

namespace Sys2Proof.Machine

set_option linter.unusedSimpArgs false
set_option maxRecDepth 20000
set_option Elab.async false

theorem onBridge_only {m : List Fld} {r : List RegSpan} {f : Half → State → State} {s u : State}
    (hf : ∀ h s, Only m r s (f h s)) (h : Only m r u s) : Only m r u (onBridge f s) := by
  exact (h.trans (hf _ _)).trans (hf _ _)

theorem setGroups_only : ∀ a0 a1 s, Only [.causes, .heldOut, .out] [(0x80, 0x14, 0x14), (0x80, 0x18, 0x18), (0x80, 0x28, 0x28), (0x80, 0x100, 0x100)] s (setGroups a0 a1 s) := by
  intro a0 a1 s
  unfold setGroups
  extract_lets +onlyGivenNames x1
  extract_lets +onlyGivenNames x2
  clear_value x2
  extract_lets +onlyGivenNames x3
  refine Only.have_ (t := x3) ?_ fun hx3 => ?_
  · subst x3
    refine Only.step (fset_only 0x80 0x100 _ _ _ _ rfl rfl rfl) (by decide +kernel) ?_
    refine Only.step (fset_only 0x80 0x100 _ _ _ _ rfl rfl rfl) (by decide +kernel) ?_
    refine Only.step (fset_only 0x80 0x100 _ _ _ _ rfl rfl rfl) (by decide +kernel) ?_
    exact Only.refl _ _ _
  clear_value x3
  refine Only.ite ?_ ?_
  · refine Only.ite ?_ ?_
    · refine Only.step (unfence_only 0x80 _ _ rfl rfl) (by decide +kernel) ?_
      assumption
    · assumption
  · extract_lets +onlyGivenNames x4
    refine Only.have_ (t := x4) ?_ fun hx4 => ?_
    · subst x4
      refine Only.ite ?_ ?_
      · assumption
      · refine Only.step (fencePage_only 0x80 _ _ _ rfl rfl) (by decide +kernel) ?_
        assumption
    clear_value x4
    extract_lets +onlyGivenNames x5
    clear_value x5
    refine Only.step (setCauses_only 0x80 _ _ _ rfl rfl) (by decide +kernel) ?_
    refine Only.step (fset_only 0x80 0x28 _ _ _ _ rfl rfl rfl) (by decide +kernel) ?_
    assumption

theorem moveCredits_only : ∀ a0 s, Only [.tiles] [] s (moveCredits a0 s) := by
  intro a0 s
  unfold moveCredits
  refine Only.foldl (fun s x => ?_) ?_
  · refine Only.ite ?_ ?_
    · refine Only.step (modTile_only _ _ _) (by decide +kernel) ?_
      exact Only.refl _ _ _
    · exact Only.refl _ _ _
  · exact Only.refl _ _ _

theorem setReplica_only : ∀ a0 a1 s, Only [.replicaN, .replicaS] [] s (setReplica a0 a1 s) := by
  intro a0 a1 s
  unfold setReplica
  refine Only.ite ?_ ?_
  · refine Only.set_replicaN (by decide +kernel) ?_
    exact Only.refl _ _ _
  · refine Only.set_replicaS (by decide +kernel) ?_
    exact Only.refl _ _ _

theorem setExp_only : ∀ a0 a1 s, Only [] [(0x90, 0x108, 0x108), (0x90, 0x10c, 0x10c)] s (setExp a0 a1 s) := by
  intro a0 a1 s
  unfold setExp
  refine Only.step (wideSet_only 0x90 0x108 0x10c _ _ _ _ _ rfl rfl rfl rfl rfl rfl) (by decide +kernel) ?_
  exact Only.refl _ _ _

theorem setComplex_only : ∀ a0 a1 s, Only [.complexN, .complexS] [] s (setComplex a0 a1 s) := by
  intro a0 a1 s
  unfold setComplex
  refine Only.ite ?_ ?_
  · refine Only.set_complexN (by decide +kernel) ?_
    exact Only.refl _ _ _
  · refine Only.set_complexS (by decide +kernel) ?_
    exact Only.refl _ _ _

theorem giveLease_only : ∀ a0 a1 s, Only [.replicaN, .replicaS, .complexN, .complexS] [(0x90, 0x108, 0x108), (0x90, 0x10c, 0x10c)] s (giveLease a0 a1 s) := by
  intro a0 a1 s
  unfold giveLease
  extract_lets +onlyGivenNames x1
  refine Only.haveFn (P := fun x => ∀ y1_0 y1_1, Only [.replicaN, .replicaS, .complexN, .complexS] [(0x90, 0x108, 0x108), (0x90, 0x10c, 0x10c)] y1_1 (x y1_0 y1_1)) (t := x1) ?_ fun hx1 => ?_
  · intro y1_0 y1_1
    subst x1
    dsimp -zeta only
    refine Only.ite ?_ ?_
    · refine Only.step (setReplica_only _ _ _) (by decide +kernel) ?_
      refine Only.step (setExp_only _ _ _) (by decide +kernel) ?_
      exact Only.refl _ _ _
    · exact Only.refl _ _ _
  clear_value x1
  extract_lets +onlyGivenNames x2
  refine Only.have_ (t := x2) ?_ fun hx2 => ?_
  · subst x2
    refine Only.trans ?_ (hx1 ..)
    refine Only.trans ?_ (hx1 ..)
    exact Only.refl _ _ _
  clear_value x2
  refine Only.step (setComplex_only _ _ _) (by decide +kernel) ?_
  assumption

theorem setRole_only : ∀ a0 a1 s, Only [.heldOut, .out] [(0x10, 0x18, 0x18), (0x10, 0x880, 0x880)] s (setRole a0 a1 s) := by
  intro a0 a1 s
  unfold setRole
  extract_lets +onlyGivenNames x1
  clear_value x1
  extract_lets +onlyGivenNames x2
  refine Only.have_ (t := x2) ?_ fun hx2 => ?_
  · subst x2
    refine Only.step (fset_only 0x10 0x880 _ _ _ _ rfl rfl rfl) (by decide +kernel) ?_
    exact Only.refl _ _ _
  clear_value x2
  refine Only.ite ?_ ?_
  · refine Only.step (raise_only 0x10 _ _ _ rfl rfl) (by decide +kernel) ?_
    assumption
  · assumption

theorem halfDown_only : ∀ a0 s, Only [.causes, .tiles, .mesh, .range, .zip, .reqs, .ws, .mail, .heldOut, .replicaN, .replicaS, .complexN, .complexS, .out] ([(0x0, 0x14, 0x14), (0x0, 0x18, 0x18), (0x0, 0x28, 0x28), (0x10, 0x880, 0x880), (0x20, 0x104, 0x104), (0x20, 0x204, 0x204), (0x30, 0x120, 0x120), (0x30, 0x124, 0x124), (0x30, 0x128, 0x128), (0x30, 0x12c, 0x12c), (0x30, 0x130, 0x130), (0x30, 0x134, 0x134), (0x30, 0x13c, 0x13c), (0x30, 0x144, 0x144), (0x40, 0x130, 0x130), (0x40, 0x134, 0x134), (0x40, 0x138, 0x138), (0x40, 0x13c, 0x13c), (0x40, 0x204, 0x204), (0x40, 0x208, 0x208)] ++ [(0x40, 0x20c, 0x20c), (0x40, 0x210, 0x210), (0x40, 0x214, 0x214), (0x40, 0x218, 0x218), (0x40, 0x21c, 0x21c), (0x40, 0x220, 0x220), (0x40, 0x224, 0x224), (0x90, 0x108, 0x108), (0x90, 0x10c, 0x10c)] : List RegSpan) s (halfDown a0 s) := by
  intro a0 s
  unfold halfDown
  extract_lets +onlyGivenNames x1
  refine Only.have_ (t := x1) ?_ fun hx1 => ?_
  · subst x1
    refine Only.foldl (fun s x => ?_) ?_
    · refine Only.ite ?_ ?_
      · refine Only.step (fenceTile_only _ _ _) (by decide +kernel) ?_
        exact Only.refl _ _ _
      · exact Only.refl _ _ _
    · exact Only.refl _ _ _
  clear_value x1
  extract_lets +onlyGivenNames x2
  refine Only.have_ (t := x2) ?_ fun hx2 => ?_
  · subst x2
    refine Only.foldl (fun s x => ?_) ?_
    · refine Only.ite ?_ ?_
      · refine Only.step (fencePage_any _ _ _) (by decide +kernel) ?_
        exact Only.refl _ _ _
      · exact Only.refl _ _ _
    · assumption
  clear_value x2
  extract_lets +onlyGivenNames x3
  refine Only.have_ (t := x3) ?_ fun hx3 => ?_
  · subst x3
    refine Only.step (stopZip_only _ _) (by decide +kernel) ?_
    refine Only.step (fenceRange_only _ _) (by decide +kernel) ?_
    assumption
  clear_value x3
  extract_lets +onlyGivenNames x4
  refine Only.have_ (t := x4) ?_ fun hx4 => ?_
  · subst x4
    refine Only.step (wsKick_only _) (by decide +kernel) ?_
    refine Only.step (moveCredits_only _ _) (by decide +kernel) ?_
    assumption
  clear_value x4
  extract_lets +onlyGivenNames x5
  refine Only.have_ (t := x5) ?_ fun hx5 => ?_
  · subst x5
    refine Only.set_reqs (by decide +kernel) ?_
    assumption
  clear_value x5
  extract_lets +onlyGivenNames x6
  refine Only.have_ (t := x6) ?_ fun hx6 => ?_
  · subst x6
    refine Only.step (giveLease_only _ _ _) (by decide +kernel) ?_
    assumption
  clear_value x6
  extract_lets +onlyGivenNames x7
  clear_value x7
  extract_lets +onlyGivenNames x8
  refine Only.have_ (t := x8) ?_ fun hx8 => ?_
  · subst x8
    refine Only.step (setComplex_only _ _ _) (by decide +kernel) ?_
    assumption
  clear_value x8
  refine Only.step (setRole_only _ _ _) (by decide +kernel) ?_
  refine Only.step (fset_only 0x10 0x880 _ _ _ _ rfl rfl rfl) (by decide +kernel) ?_
  assumption

theorem fenceHalf_only : ∀ a0 a1 s, Only [.causes, .tiles, .mesh, .range, .zip, .reqs, .ws, .mail, .heldOut, .replicaN, .replicaS, .complexN, .complexS, .out] ([(0x0, 0x14, 0x14), (0x0, 0x18, 0x18), (0x0, 0x28, 0x28), (0x10, 0x880, 0x880), (0x20, 0x104, 0x104), (0x20, 0x204, 0x204), (0x30, 0x120, 0x120), (0x30, 0x124, 0x124), (0x30, 0x128, 0x128), (0x30, 0x12c, 0x12c), (0x30, 0x130, 0x130), (0x30, 0x134, 0x134), (0x30, 0x13c, 0x13c), (0x30, 0x144, 0x144), (0x40, 0x130, 0x130), (0x40, 0x134, 0x134), (0x40, 0x138, 0x138), (0x40, 0x13c, 0x13c), (0x40, 0x204, 0x204), (0x40, 0x208, 0x208)] ++ [(0x40, 0x20c, 0x20c), (0x40, 0x210, 0x210), (0x40, 0x214, 0x214), (0x40, 0x218, 0x218), (0x40, 0x21c, 0x21c), (0x40, 0x220, 0x220), (0x40, 0x224, 0x224), (0x90, 0x108, 0x108), (0x90, 0x10c, 0x10c)] : List RegSpan) s (fenceHalf a0 a1 s) := by
  intro a0 a1 s
  unfold fenceHalf
  refine Only.ite ?_ ?_
  · exact Only.refl _ _ _
  · refine Only.ite ?_ ?_
    · refine Only.step (fencePage_only 0x10 _ _ _ rfl rfl) (by decide +kernel) ?_
      exact Only.refl _ _ _
    · refine withPeers_only (by decide +kernel) (fun s => ?_) ?_
      · refine Only.step (raiseCcs_only _ _) (by decide +kernel) ?_
        refine Only.step (halfDown_only _ _) (by decide +kernel) ?_
        refine Only.step (fencePage_only 0x10 _ _ _ rfl rfl) (by decide +kernel) ?_
        exact Only.refl _ _ _
      · exact Only.refl _ _ _

theorem grantLease_only : ∀ a0 a1 a2 s, Only [.heldOut, .replicaN, .replicaS, .out] [(0x90, 0x18, 0x18), (0x90, 0x100, 0x100), (0x90, 0x104, 0x104), (0x90, 0x108, 0x108), (0x90, 0x10c, 0x10c), (0x90, 0x110, 0x110)] s (grantLease a0 a1 a2 s) := by
  intro a0 a1 a2 s
  unfold grantLease
  extract_lets +onlyGivenNames x1
  extract_lets +onlyGivenNames x2
  clear_value x2
  extract_lets +onlyGivenNames x3
  refine Only.have_ (t := x3) ?_ fun hx3 => ?_
  · subst x3
    refine Only.step (setExp_only _ _ _) (by decide +kernel) ?_
    exact Only.refl _ _ _
  clear_value x3
  extract_lets +onlyGivenNames x4
  refine Only.have_ (t := x4) ?_ fun hx4 => ?_
  · subst x4
    refine Only.step (fset_only 0x90 0x100 _ _ _ _ rfl rfl rfl) (by decide +kernel) ?_
    assumption
  clear_value x4
  refine Only.ite ?_ ?_
  · assumption
  · extract_lets +onlyGivenNames x5
    refine Only.have_ (t := x5) ?_ fun hx5 => ?_
    · subst x5
      refine Only.step (fset_only 0x90 0x100 _ _ _ _ rfl rfl rfl) (by decide +kernel) ?_
      refine Only.step (fset_only 0x90 0x100 _ _ _ _ rfl rfl rfl) (by decide +kernel) ?_
      refine Only.step (fset_only 0x90 0x104 _ _ _ _ rfl rfl rfl) (by decide +kernel) ?_
      assumption
    clear_value x5
    extract_lets +onlyGivenNames x6
    refine Only.have_ (t := x6) ?_ fun hx6 => ?_
    · subst x6
      refine Only.ite ?_ ?_
      · refine Only.step (satInc_only 0x90 0x110 _ _ _ _ rfl rfl rfl rfl) (by decide +kernel) ?_
        assumption
      · refine Only.ite ?_ ?_
        · assumption
        · refine Only.step (satInc_only 0x90 0x110 _ _ _ _ rfl rfl rfl rfl) (by decide +kernel) ?_
          assumption
    clear_value x6
    refine Only.step (raise_only 0x90 _ _ _ rfl rfl) (by decide +kernel) ?_
    refine Only.step (setReplica_only _ _ _) (by decide +kernel) ?_
    assumption

theorem nextOf_only {m : List Fld} {r : List RegSpan} {o : Host.Outcome State Fault Refusal} {s u : State}
    (k : Gives m r s o) (h : Only m r u s) : Only m r u (nextOf s o) := by
  obtain ⟨t, ht, k⟩ := k
  subst ht
  exact h.trans k

theorem resume'_only : ∀ a0 s, Only [.tiles, .sram, .sramPoison, .mesh, .rowBus, .scaleBus, .range, .packed, .bindings, .handles, .versions, .rallies, .deferred, .ws, .mail, .ring, .qps, .heldOut, .out] [(0x10, 0x18, 0x18), (0x20, 0x18, 0x18), (0x20, 0x15c, 0x15c), (0x20, 0x358, 0x358), (0x20, 0x408, 0x408), (0x20, 0x410, 0x410), (0x20, 0x414, 0x414), (0x20, 0x418, 0x418), (0x20, 0x41c, 0x41c), (0x20, 0x420, 0x420), (0x40, 0x130, 0x130), (0x70, 0x18, 0x18), (0x70, 0x10c, 0x10c), (0x71, 0x18, 0x18), (0x71, 0x11c, 0x11c), (0xb0, 0x124, 0x124), (0xb0, 0x128, 0x128)] s (resume' a0 s) := by
  intro a0 s
  unfold resume'
  refine nextOf_only ?_ ?_
  · split
    · refine Gives.after (execFetch_gives _ _ _) (by decide +kernel) ?_
      exact Only.refl _ _ _
    · refine Gives.after (execActivate_gives _ _ _ _ _) (by decide +kernel) ?_
      exact Only.refl _ _ _
    · refine Gives.after (execReplace_gives _ _ _ _ _ _) (by decide +kernel) ?_
      exact Only.refl _ _ _
    · refine Gives.after (execRetire_gives _ _ _ _) (by decide +kernel) ?_
      exact Only.refl _ _ _
    · refine Gives.after (execSourceRelease_gives _ _ _ _) (by decide +kernel) ?_
      exact Only.refl _ _ _
    · refine Gives.after (execRelocate_gives _ _ _) (by decide +kernel) ?_
      exact Only.refl _ _ _
    · refine Gives.after (execAdapterBind_gives _ _ _) (by decide +kernel) ?_
      exact Only.refl _ _ _
    · refine Gives.after (execAdapterUnbind_gives _ _ _ _ _) (by decide +kernel) ?_
      exact Only.refl _ _ _
    · refine Gives.next ?_
      exact Only.refl _ _ _
  · exact Only.refl _ _ _

theorem runDeferred_only : ∀ s, Only [.tiles, .sram, .sramPoison, .mesh, .rowBus, .scaleBus, .range, .packed, .bindings, .handles, .versions, .rallies, .deferred, .ws, .mail, .ring, .qps, .heldOut, .out] [(0x10, 0x18, 0x18), (0x20, 0x18, 0x18), (0x20, 0x15c, 0x15c), (0x20, 0x358, 0x358), (0x20, 0x408, 0x408), (0x20, 0x410, 0x410), (0x20, 0x414, 0x414), (0x20, 0x418, 0x418), (0x20, 0x41c, 0x41c), (0x20, 0x420, 0x420), (0x40, 0x130, 0x130), (0x70, 0x18, 0x18), (0x70, 0x10c, 0x10c), (0x71, 0x18, 0x18), (0x71, 0x11c, 0x11c), (0xb0, 0x124, 0x124), (0xb0, 0x128, 0x128)] s (runDeferred s) := by
  intro s
  unfold runDeferred
  refine Only.foldl (fun s x => ?_) ?_
  · refine Only.step (resume'_only _ _) (by decide +kernel) ?_
    exact Only.refl _ _ _
  · refine Only.set_deferred (by decide +kernel) ?_
    exact Only.refl _ _ _

theorem writeArea_only : ∀ a0 a1 s, Only [.ws] [] s (writeArea a0 a1 s) := by
  intro a0 a1 s
  unfold writeArea
  extract_lets +onlyGivenNames x1
  refine Only.haveFn (P := fun x => ∀ y1_0 y1_1, Only [.ws] [] y1_0 (x y1_0 y1_1)) (t := x1) ?_ fun hx1 => ?_
  · intro y1_0 y1_1
    subst x1
    dsimp -zeta only
    refine Only.step (clearBlock_only _ _) (by decide +kernel) ?_
    exact Only.refl _ _ _
  clear_value x1
  extract_lets +onlyGivenNames x2
  refine Only.have_ (t := x2) ?_ fun hx2 => ?_
  · subst x2
    refine Only.foldl (fun s x => ?_) ?_
    · refine Only.trans ?_ (hx1 ..)
      exact Only.refl _ _ _
    · exact Only.refl _ _ _
  clear_value x2
  refine Only.foldl (fun s x => ?_) ?_
  · extract_lets +onlyGivenNames x3
    clear_value x3
    extract_lets +onlyGivenNames x4
    clear_value x4
    refine Only.step (setCw_only _ _ _) (by decide +kernel) ?_
    refine Only.step (setCw_only _ _ _) (by decide +kernel) ?_
    exact Only.refl _ _ _
  · assumption

theorem handoff_only : ∀ a0 s, Only [.heldOut, .replicaN, .replicaS, .complexN, .complexS, .out] [(0x10, 0x18, 0x18), (0x10, 0x880, 0x880), (0x90, 0x108, 0x108), (0x90, 0x10c, 0x10c)] s (handoff a0 s) := by
  intro a0 s
  unfold handoff
  refine Only.ite ?_ ?_
  · exact Only.refl _ _ _
  · refine Only.step (setRole_only _ _ _) (by decide +kernel) ?_
    refine Only.step (giveLease_only _ _ _) (by decide +kernel) ?_
    exact Only.refl _ _ _

theorem execYield_gives : ∀ a0 a1 s, Gives [.staleMid, .mail, .heldOut, .replicaN, .replicaS, .complexN, .complexS, .out] [(0x10, 0x18, 0x18), (0x10, 0x2c, 0x2c), (0x10, 0x880, 0x880), (0x90, 0x108, 0x108), (0x90, 0x10c, 0x10c), (0xb0, 0x18, 0x18), (0xb0, 0x110, 0x110), (0xb0, 0x114, 0x114), (0xb0, 0x118, 0x118), (0xb0, 0x11c, 0x11c)] s (execYield a0 a1 s) := by
  intro a0 a1 s
  unfold execYield
  refine Gives.next ?_
  refine guarded_only 0x10 rfl rfl (by decide +kernel) (fun s => ?_) ?_
  · refine withPeers_only (by decide +kernel) (fun s => ?_) ?_
    · refine Only.step (handoff_only _ _) (by decide +kernel) ?_
      exact Only.refl _ _ _
    · exact Only.refl _ _ _
  · exact Only.refl _ _ _

theorem execLeaseRenewSend_gives : ∀ s, Gives [.mesh] [] s (execLeaseRenewSend s) := by
  intro s
  unfold execLeaseRenewSend
  split
  · refine Gives.next ?_
    exact Only.refl _ _ _
  · refine Gives.ite ?_ ?_
    · refine Gives.next ?_
      exact Only.refl _ _ _
    · extract_lets +onlyGivenNames x1
      clear_value x1
      extract_lets +onlyGivenNames x2
      refine Only.haveFn (P := fun x => ∀ y2_0 y2_1, Only [.mesh] [] y2_1 (x y2_0 y2_1)) (t := x2) ?_ fun hx2 => ?_
      · intro y2_0 y2_1
        subst x2
        dsimp -zeta only
        refine Only.ite ?_ ?_
        · refine Only.step (send_only _ _) (by decide +kernel) ?_
          exact Only.refl _ _ _
        · exact Only.refl _ _ _
      clear_value x2
      refine Gives.next ?_
      refine Only.trans ?_ (hx2 ..)
      refine Only.trans ?_ (hx2 ..)
      exact Only.refl _ _ _

theorem execRenew_gives : ∀ a0 a1 a2 s, Gives [.mesh, .complexN, .complexS] [(0x90, 0x108, 0x108), (0x90, 0x10c, 0x10c)] s (execRenew a0 a1 a2 s) := by
  intro a0 a1 a2 s
  unfold execRenew
  extract_lets +onlyGivenNames x1
  refine Gives.have_ (t := x1) ?_ fun hx1 => ?_
  · subst x1
    refine Only.step (arrive_only _ _) (by decide +kernel) ?_
    exact Only.refl _ _ _
  clear_value x1
  refine Gives.ite ?_ ?_
  · refine Gives.next ?_
    assumption
  · extract_lets +onlyGivenNames x2
    refine Gives.have_ (t := x2) ?_ fun hx2 => ?_
    · subst x2
      refine Only.step (setExp_only _ _ _) (by decide +kernel) ?_
      assumption
    clear_value x2
    refine Gives.next ?_
    refine Only.step (setComplex_only _ _ _) (by decide +kernel) ?_
    assumption

theorem execLeaseExpire_gives : ∀ s, Gives [.timer, .mail, .heldOut, .out] [(0x10, 0x18, 0x18), (0x10, 0x880, 0x880)] s (execLeaseExpire s) := by
  intro s
  unfold execLeaseExpire
  split
  · refine Gives.next ?_
    exact Only.refl _ _ _
  · refine Gives.next ?_
    refine withPeers_only (by decide +kernel) (fun s => ?_) ?_
    · refine Only.step (setRole_only _ _ _) (by decide +kernel) ?_
      exact Only.refl _ _ _
    · refine Only.step (reach_only _ _) (by decide +kernel) ?_
      exact Only.refl _ _ _

theorem execStaleWriteGate_gives : ∀ a0 s, Gives [.heldOut, .out] [(0x10, 0x18, 0x18), (0x10, 0x880, 0x880), (0x10, 0x898, 0x898)] s (execStaleWriteGate a0 s) := by
  intro a0 s
  unfold execStaleWriteGate
  refine Gives.ite ?_ ?_
  · refine Gives.next ?_
    exact Only.refl _ _ _
  · refine Gives.next ?_
    refine Only.step (setRole_only _ _ _) (by decide +kernel) ?_
    refine Only.step (satInc_only 0x10 0x898 _ _ _ _ rfl rfl rfl rfl) (by decide +kernel) ?_
    exact Only.refl _ _ _

theorem execRefereePoll_gives : ∀ a0 s, Gives [.heldOut, .complexN, .complexS, .out] [(0x10, 0x18, 0x18), (0x10, 0x880, 0x880), (0x10, 0x884, 0x884)] s (execRefereePoll a0 s) := by
  intro a0 s
  unfold execRefereePoll
  refine Gives.ite ?_ ?_
  · refine Gives.next ?_
    exact Only.refl _ _ _
  · extract_lets +onlyGivenNames x1
    refine Gives.have_ (t := x1) ?_ fun hx1 => ?_
    · subst x1
      refine Only.step (fset_only 0x10 0x880 _ _ _ _ rfl rfl rfl) (by decide +kernel) ?_
      refine Only.step (fset_only 0x10 0x884 _ _ _ _ rfl rfl rfl) (by decide +kernel) ?_
      exact Only.refl _ _ _
    clear_value x1
    extract_lets +onlyGivenNames x2
    clear_value x2
    extract_lets +onlyGivenNames x3
    refine Gives.have_ (t := x3) ?_ fun hx3 => ?_
    · subst x3
      refine Only.step (setComplex_only _ _ _) (by decide +kernel) ?_
      assumption
    clear_value x3
    refine Gives.next ?_
    refine Only.step (setRole_only _ _ _) (by decide +kernel) ?_
    assumption

theorem execReplicaExchange_gives : ∀ s, Gives [.replicaN, .replicaS] [(0x90, 0x100, 0x100)] s (execReplicaExchange s) := by
  intro s
  unfold execReplicaExchange
  refine Gives.ite ?_ ?_
  · refine Gives.next ?_
    exact Only.refl _ _ _
  · extract_lets +onlyGivenNames x1
    refine Only.haveFn (P := fun x => ∀ y1_0 y1_1, Only [.replicaN, .replicaS] [(0x90, 0x100, 0x100)] y1_1 (x y1_0 y1_1)) (t := x1) ?_ fun hx1 => ?_
    · intro y1_0 y1_1
      subst x1
      dsimp -zeta only
      refine Only.step (fset_only 0x90 0x100 _ _ _ _ rfl rfl rfl) (by decide +kernel) ?_
      refine Only.step (setReplica_only _ _ _) (by decide +kernel) ?_
      exact Only.refl _ _ _
    clear_value x1
    refine Gives.next ?_
    refine Only.trans ?_ (hx1 ..)
    refine Only.trans ?_ (hx1 ..)
    exact Only.refl _ _ _

theorem execPartition_gives : ∀ a0 s, Gives [.timer, .heldOut, .replicaN, .replicaS, .out] [(0x90, 0x18, 0x18), (0x90, 0x100, 0x100), (0x90, 0x114, 0x114)] s (execPartition a0 s) := by
  intro a0 s
  unfold execPartition
  extract_lets +onlyGivenNames x1
  refine Gives.ite ?_ ?_
  · refine Gives.next ?_
    exact Only.refl _ _ _
  · extract_lets +onlyGivenNames x2
    refine Gives.have_ (t := x2) ?_ fun hx2 => ?_
    · subst x2
      refine Only.step (reach_only _ _) (by decide +kernel) ?_
      exact Only.refl _ _ _
    clear_value x2
    extract_lets +onlyGivenNames x3
    clear_value x3
    extract_lets +onlyGivenNames x4
    refine Gives.have_ (t := x4) ?_ fun hx4 => ?_
    · subst x4
      refine Only.step (setReplica_only _ _ _) (by decide +kernel) ?_
      assumption
    clear_value x4
    extract_lets +onlyGivenNames x5
    refine Gives.have_ (t := x5) ?_ fun hx5 => ?_
    · subst x5
      refine Only.step (satInc_only 0x90 0x114 _ _ _ _ rfl rfl rfl rfl) (by decide +kernel) ?_
      refine Only.step (fset_only 0x90 0x100 _ _ _ _ rfl rfl rfl) (by decide +kernel) ?_
      refine Only.step (fset_only 0x90 0x100 _ _ _ _ rfl rfl rfl) (by decide +kernel) ?_
      refine Only.step (fset_only 0x90 0x100 _ _ _ _ rfl rfl rfl) (by decide +kernel) ?_
      assumption
    clear_value x5
    refine Gives.next ?_
    refine Only.step (raise_only 0x90 _ _ _ rfl rfl) (by decide +kernel) ?_
    assumption

theorem execPartitionAlone_gives : ∀ a0 s, Gives [.timer] [] s (execPartitionAlone a0 s) := by
  intro a0 s
  unfold execPartitionAlone
  refine Gives.ite ?_ ?_
  · refine Gives.next ?_
    refine Only.step (reach_only _ _) (by decide +kernel) ?_
    exact Only.refl _ _ _
  · refine Gives.next ?_
    exact Only.refl _ _ _

theorem copyLease_only : ∀ a0 a1 s, Only [.regs, .heldOut, .out] [] s (copyLease a0 a1 s) := by
  intro a0 a1 s
  unfold copyLease
  extract_lets +onlyGivenNames x1
  clear_value x1
  extract_lets +onlyGivenNames x2
  refine Only.haveFn (P := fun x => ∀ y2_0 y2_1, Only [.regs, .heldOut, .out] [] y2_1 (x y2_0 y2_1)) (t := x2) ?_ fun hx2 => ?_
  · intro y2_0 y2_1
    subst x2
    dsimp -zeta only
    refine Only.step (fset_all _ _ _ _) (by decide +kernel) ?_
    exact Only.refl _ _ _
  clear_value x2
  extract_lets +onlyGivenNames x3
  refine Only.have_ (t := x3) ?_ fun hx3 => ?_
  · subst x3
    refine Only.trans ?_ (hx2 ..)
    refine Only.trans ?_ (hx2 ..)
    refine Only.trans ?_ (hx2 ..)
    refine Only.trans ?_ (hx2 ..)
    refine Only.trans ?_ (hx2 ..)
    refine Only.trans ?_ (hx2 ..)
    exact Only.refl _ _ _
  clear_value x3
  refine Only.ite ?_ ?_
  · refine Only.step (raise_only 0x90 _ _ _ rfl rfl) (by decide +kernel) ?_
    assumption
  · assumption

theorem execRejoin_gives : ∀ s, Gives [.regs, .heldOut, .replicaN, .replicaS, .out] [] s (execRejoin s) := by
  intro s
  unfold execRejoin
  refine Gives.ite ?_ ?_
  · refine Gives.next ?_
    exact Only.refl _ _ _
  · extract_lets +onlyGivenNames x1
    clear_value x1
    extract_lets +onlyGivenNames x2
    refine Only.haveFn (P := fun x => ∀ y2_0 y2_1, Only [.regs, .heldOut, .replicaN, .replicaS, .out] [] y2_1 (x y2_0 y2_1)) (t := x2) ?_ fun hx2 => ?_
    · intro y2_0 y2_1
      subst x2
      dsimp -zeta only
      extract_lets +onlyGivenNames x3
      refine Only.have_ (t := x3) ?_ fun hx3 => ?_
      · subst x3
        refine Only.step (fset_only 0x90 0x100 _ _ _ _ rfl rfl rfl) (by decide +kernel) ?_
        refine Only.step (fset_only 0x90 0x100 _ _ _ _ rfl rfl rfl) (by decide +kernel) ?_
        refine Only.step (fset_only 0x90 0x100 _ _ _ _ rfl rfl rfl) (by decide +kernel) ?_
        exact Only.refl _ _ _
      clear_value x3
      refine Only.step (raise_only 0x90 _ _ _ rfl rfl) (by decide +kernel) ?_
      refine Only.step (setReplica_only _ _ _) (by decide +kernel) ?_
      assumption
    clear_value x2
    refine Gives.next ?_
    refine Only.trans ?_ (hx2 ..)
    refine Only.trans ?_ (hx2 ..)
    refine Only.step (copyLease_only _ _ _) (by decide +kernel) ?_
    exact Only.refl _ _ _

theorem execReplicaRestart_gives : ∀ a0 a1 s, Gives [.regs, .heldOut, .replicaN, .replicaS, .out] [] s (execReplicaRestart a0 a1 s) := by
  intro a0 a1 s
  unfold execReplicaRestart
  extract_lets +onlyGivenNames x1
  clear_value x1
  refine Gives.ite ?_ ?_
  · refine Gives.next ?_
    exact Only.refl _ _ _
  · extract_lets +onlyGivenNames x2
    refine Gives.have_ (t := x2) ?_ fun hx2 => ?_
    · subst x2
      refine Only.step (satInc_only 0x90 0x114 _ _ _ _ rfl rfl rfl rfl) (by decide +kernel) ?_
      exact Only.refl _ _ _
    clear_value x2
    refine Gives.ite ?_ ?_
    · extract_lets +onlyGivenNames x3
      refine Gives.have_ (t := x3) ?_ fun hx3 => ?_
      · subst x3
        refine Only.step (setReplica_only _ _ _) (by decide +kernel) ?_
        assumption
      clear_value x3
      refine Gives.next ?_
      refine Only.ite ?_ ?_
      · refine Only.step (copyLease_only _ _ _) (by decide +kernel) ?_
        assumption
      · assumption
    · extract_lets +onlyGivenNames x4
      clear_value x4
      refine Gives.next ?_
      refine Only.step (setReplica_only _ _ _) (by decide +kernel) ?_
      assumption

theorem execLeaderless_gives : ∀ s, Gives [.timer, .mail, .heldOut, .out] [(0x10, 0x18, 0x18), (0x10, 0x880, 0x880), (0x90, 0x18, 0x18), (0x90, 0x100, 0x100)] s (execLeaderless s) := by
  intro s
  unfold execLeaderless
  extract_lets +onlyGivenNames x1
  clear_value x1
  refine Gives.ite ?_ ?_
  · refine Gives.next ?_
    exact Only.refl _ _ _
  · extract_lets +onlyGivenNames x2
    refine Gives.have_ (t := x2) ?_ fun hx2 => ?_
    · subst x2
      refine Only.step (reach_only _ _) (by decide +kernel) ?_
      exact Only.refl _ _ _
    clear_value x2
    extract_lets +onlyGivenNames x3
    refine Gives.have_ (t := x3) ?_ fun hx3 => ?_
    · subst x3
      split
      · refine withPeers_only (by decide +kernel) (fun s => ?_) ?_
        · refine Only.step (setRole_only _ _ _) (by decide +kernel) ?_
          exact Only.refl _ _ _
        · assumption
      · assumption
    clear_value x3
    refine Gives.next ?_
    refine Only.step (raise_only 0x90 _ _ _ rfl rfl) (by decide +kernel) ?_
    refine Only.step (fset_only 0x90 0x100 _ _ _ _ rfl rfl rfl) (by decide +kernel) ?_
    assumption

theorem execTakeoverGuardEnd_gives : ∀ a0 s, Gives [.timer, .mesh] [] s (execTakeoverGuardEnd a0 s) := by
  intro a0 s
  unfold execTakeoverGuardEnd
  refine Gives.ite ?_ ?_
  · refine Gives.next ?_
    exact Only.refl _ _ _
  · extract_lets +onlyGivenNames x1
    refine Gives.have_ (t := x1) ?_ fun hx1 => ?_
    · subst x1
      refine Only.step (reach_only _ _) (by decide +kernel) ?_
      exact Only.refl _ _ _
    clear_value x1
    extract_lets +onlyGivenNames x2
    refine Only.haveFn (P := fun x => ∀ y2_0 y2_1, Only [.timer, .mesh] [] y2_1 (x y2_0 y2_1)) (t := x2) ?_ fun hx2 => ?_
    · intro y2_0 y2_1
      subst x2
      dsimp -zeta only
      refine Only.ite ?_ ?_
      · refine Only.step (send_only _ _) (by decide +kernel) ?_
        exact Only.refl _ _ _
      · exact Only.refl _ _ _
    clear_value x2
    refine Gives.next ?_
    refine Only.trans ?_ (hx2 ..)
    refine Only.trans ?_ (hx2 ..)
    assumption

theorem lead'_only : ∀ a0 s, Only [.mesh, .heldOut, .complexN, .complexS, .out] [(0x10, 0x18, 0x18), (0x10, 0x880, 0x880), (0x10, 0x884, 0x884)] s (lead' a0 s) := by
  intro a0 s
  unfold lead'
  extract_lets +onlyGivenNames x1
  refine Only.have_ (t := x1) ?_ fun hx1 => ?_
  · subst x1
    refine Only.ite ?_ ?_
    · refine Only.step (setRole_only _ _ _) (by decide +kernel) ?_
      exact Only.refl _ _ _
    · exact Only.refl _ _ _
  clear_value x1
  extract_lets +onlyGivenNames x2
  clear_value x2
  extract_lets +onlyGivenNames x3
  refine Only.have_ (t := x3) ?_ fun hx3 => ?_
  · subst x3
    refine Only.step (fset_only 0x10 0x884 _ _ _ _ rfl rfl rfl) (by decide +kernel) ?_
    refine Only.step (setComplex_only _ _ _) (by decide +kernel) ?_
    assumption
  clear_value x3
  refine Only.step (send_only _ _) (by decide +kernel) ?_
  refine Only.step (setRole_only _ _ _) (by decide +kernel) ?_
  assumption

theorem execAcquire_gives : ∀ a0 a1 s, Gives [.mesh, .mail, .heldOut, .replicaN, .replicaS, .complexN, .complexS, .out] [(0x10, 0x18, 0x18), (0x10, 0x880, 0x880), (0x10, 0x884, 0x884), (0x90, 0x18, 0x18), (0x90, 0x100, 0x100), (0x90, 0x104, 0x104), (0x90, 0x108, 0x108), (0x90, 0x10c, 0x10c), (0x90, 0x110, 0x110)] s (execAcquire a0 a1 s) := by
  intro a0 a1 s
  unfold execAcquire
  extract_lets +onlyGivenNames x1
  refine Gives.have_ (t := x1) ?_ fun hx1 => ?_
  · subst x1
    refine Only.step (arrive_only _ _) (by decide +kernel) ?_
    exact Only.refl _ _ _
  clear_value x1
  refine Gives.ite ?_ ?_
  · refine Gives.next ?_
    assumption
  · refine Gives.ite ?_ ?_
    · refine Gives.next ?_
      refine Only.step (raise_only 0x90 _ _ _ rfl rfl) (by decide +kernel) ?_
      assumption
    · extract_lets +onlyGivenNames x2
      clear_value x2
      extract_lets +onlyGivenNames x3
      refine Gives.have_ (t := x3) ?_ fun hx3 => ?_
      · subst x3
        refine Only.step (grantLease_only _ _ _ _) (by decide +kernel) ?_
        assumption
      clear_value x3
      refine Gives.next ?_
      refine Only.ite ?_ ?_
      · refine withPeers_only (by decide +kernel) (fun s => ?_) ?_
        · refine Only.step (lead'_only _ _) (by decide +kernel) ?_
          exact Only.refl _ _ _
        · assumption
      · assumption

theorem execTokenAnnounce_gives : ∀ a0 s, Gives [.staleMid, .tiles, .sram, .sramPoison, .mesh, .rowBus, .scaleBus, .range, .packed, .bindings, .handles, .versions, .rallies, .deferred, .ws, .mail, .ring, .qps, .heldOut, .out] [(0x0, 0x18, 0x18), (0x0, 0x2c, 0x2c), (0x10, 0x880, 0x880), (0x20, 0x15c, 0x15c), (0x20, 0x358, 0x358), (0x20, 0x408, 0x408), (0x20, 0x410, 0x410), (0x20, 0x414, 0x414), (0x20, 0x418, 0x418), (0x20, 0x41c, 0x41c), (0x20, 0x420, 0x420), (0x40, 0x130, 0x130), (0x70, 0x10c, 0x10c), (0x71, 0x11c, 0x11c), (0xb0, 0x124, 0x124), (0xb0, 0x128, 0x128)] s (execTokenAnnounce a0 s) := by
  intro a0 s
  unfold execTokenAnnounce
  extract_lets +onlyGivenNames x1
  refine Gives.have_ (t := x1) ?_ fun hx1 => ?_
  · subst x1
    refine Only.step (arrive_only _ _) (by decide +kernel) ?_
    exact Only.refl _ _ _
  clear_value x1
  refine Gives.ite ?_ ?_
  · refine Gives.next ?_
    assumption
  · extract_lets +onlyGivenNames x2
    clear_value x2
    extract_lets +onlyGivenNames x3
    refine Only.haveFn (P := fun x => ∀ y3_0 y3_1, Only [.staleMid, .tiles, .sram, .sramPoison, .mesh, .rowBus, .scaleBus, .range, .packed, .bindings, .handles, .versions, .rallies, .deferred, .ws, .mail, .ring, .qps, .heldOut, .out] [(0x0, 0x18, 0x18), (0x0, 0x2c, 0x2c), (0x10, 0x880, 0x880), (0x20, 0x15c, 0x15c), (0x20, 0x358, 0x358), (0x20, 0x408, 0x408), (0x20, 0x410, 0x410), (0x20, 0x414, 0x414), (0x20, 0x418, 0x418), (0x20, 0x41c, 0x41c), (0x20, 0x420, 0x420), (0x40, 0x130, 0x130), (0x70, 0x10c, 0x10c), (0x71, 0x11c, 0x11c), (0xb0, 0x124, 0x124), (0xb0, 0x128, 0x128)] y3_0 (x y3_0 y3_1)) (t := x3) ?_ fun hx3 => ?_
    · intro y3_0 y3_1
      subst x3
      dsimp -zeta only
      refine Only.ite ?_ ?_
      · split
        · refine Only.step (epochCheck_goAny _ _ _ _ ‹_›) (by decide +kernel) ?_
          exact Only.refl _ _ _
        · refine Only.step (epochCheck_stopAny _ _ _ _ ‹_›) (by decide +kernel) ?_
          exact Only.refl _ _ _
      · exact Only.refl _ _ _
    clear_value x3
    refine Gives.next ?_
    refine Only.step (runDeferred_only _) (by decide +kernel) ?_
    refine Only.foldl (fun s x => ?_) ?_
    · refine Only.trans ?_ (hx3 ..)
      exact Only.refl _ _ _
    · assumption

theorem execCcHeartbeat_gives : ∀ a0 s, Gives [.complexN, .complexS] [] s (execCcHeartbeat a0 s) := by
  intro a0 s
  unfold execCcHeartbeat
  refine Gives.ite ?_ ?_
  · refine Gives.next ?_
    exact Only.refl _ _ _
  · extract_lets +onlyGivenNames x1
    clear_value x1
    extract_lets +onlyGivenNames x2
    refine Gives.have_ (t := x2) ?_ fun hx2 => ?_
    · subst x2
      refine Only.step (setComplex_only _ _ _) (by decide +kernel) ?_
      exact Only.refl _ _ _
    clear_value x2
    refine Gives.next ?_
    refine Only.step (setComplex_only _ _ _) (by decide +kernel) ?_
    assumption

theorem execPeerLost_gives : ∀ a0 s, Gives [.timer, .heldOut, .complexN, .complexS, .out] [(0x10, 0x18, 0x18), (0x10, 0x894, 0x894)] s (execPeerLost a0 s) := by
  intro a0 s
  unfold execPeerLost
  extract_lets +onlyGivenNames x1
  clear_value x1
  refine Gives.ite ?_ ?_
  · refine Gives.next ?_
    exact Only.refl _ _ _
  · extract_lets +onlyGivenNames x2
    refine Gives.have_ (t := x2) ?_ fun hx2 => ?_
    · subst x2
      refine Only.step (reach_only _ _) (by decide +kernel) ?_
      exact Only.refl _ _ _
    clear_value x2
    extract_lets +onlyGivenNames x3
    clear_value x3
    extract_lets +onlyGivenNames x4
    refine Gives.have_ (t := x4) ?_ fun hx4 => ?_
    · subst x4
      refine Only.step (setComplex_only _ _ _) (by decide +kernel) ?_
      assumption
    clear_value x4
    refine Gives.next ?_
    refine Only.step (raise_only 0x10 _ _ _ rfl rfl) (by decide +kernel) ?_
    refine Only.step (wrapInc_only 0x10 0x894 _ _ _ _ rfl rfl rfl rfl) (by decide +kernel) ?_
    assumption

theorem execCcWatchdogExpire_gives : ∀ a0 s, Gives [.causes, .tiles, .mesh, .range, .zip, .reqs, .ws, .mail, .heldOut, .replicaN, .replicaS, .complexN, .complexS, .out] ([(0x0, 0x14, 0x14), (0x0, 0x18, 0x18), (0x0, 0x28, 0x28), (0x10, 0x880, 0x880), (0x20, 0x104, 0x104), (0x20, 0x204, 0x204), (0x30, 0x120, 0x120), (0x30, 0x124, 0x124), (0x30, 0x128, 0x128), (0x30, 0x12c, 0x12c), (0x30, 0x130, 0x130), (0x30, 0x134, 0x134), (0x30, 0x13c, 0x13c), (0x30, 0x144, 0x144), (0x40, 0x130, 0x130), (0x40, 0x134, 0x134), (0x40, 0x138, 0x138), (0x40, 0x13c, 0x13c), (0x40, 0x204, 0x204), (0x40, 0x208, 0x208)] ++ [(0x40, 0x20c, 0x20c), (0x40, 0x210, 0x210), (0x40, 0x214, 0x214), (0x40, 0x218, 0x218), (0x40, 0x21c, 0x21c), (0x40, 0x220, 0x220), (0x40, 0x224, 0x224), (0x90, 0x108, 0x108), (0x90, 0x10c, 0x10c)] : List RegSpan) s (execCcWatchdogExpire a0 s) := by
  intro a0 s
  unfold execCcWatchdogExpire
  refine Gives.ite ?_ ?_
  · refine Gives.next ?_
    exact Only.refl _ _ _
  · refine Gives.next ?_
    refine Only.step (fenceHalf_only _ _ _) (by decide +kernel) ?_
    refine Only.step (setComplex_only _ _ _) (by decide +kernel) ?_
    exact Only.refl _ _ _

theorem execHalfFence_gives : ∀ a0 a1 s, Gives [.causes, .tiles, .mesh, .range, .zip, .reqs, .ws, .mail, .heldOut, .replicaN, .replicaS, .complexN, .complexS, .out] ([(0x0, 0x14, 0x14), (0x0, 0x18, 0x18), (0x0, 0x28, 0x28), (0x10, 0x880, 0x880), (0x20, 0x104, 0x104), (0x20, 0x204, 0x204), (0x30, 0x120, 0x120), (0x30, 0x124, 0x124), (0x30, 0x128, 0x128), (0x30, 0x12c, 0x12c), (0x30, 0x130, 0x130), (0x30, 0x134, 0x134), (0x30, 0x13c, 0x13c), (0x30, 0x144, 0x144), (0x40, 0x130, 0x130), (0x40, 0x134, 0x134), (0x40, 0x138, 0x138), (0x40, 0x13c, 0x13c), (0x40, 0x204, 0x204), (0x40, 0x208, 0x208)] ++ [(0x40, 0x20c, 0x20c), (0x40, 0x210, 0x210), (0x40, 0x214, 0x214), (0x40, 0x218, 0x218), (0x40, 0x21c, 0x21c), (0x40, 0x220, 0x220), (0x40, 0x224, 0x224), (0x90, 0x108, 0x108), (0x90, 0x10c, 0x10c)] : List RegSpan) s (execHalfFence a0 a1 s) := by
  intro a0 a1 s
  unfold execHalfFence
  refine Gives.next ?_
  refine Only.step (fenceHalf_only _ _ _) (by decide +kernel) ?_
  exact Only.refl _ _ _

theorem execHalfLossCompletions_gives : ∀ a0 s, Gives [.tiles, .mesh, .rowBus, .scaleBus, .range, .reqs, .chans, .rallies, .heldOut, .out] [(0x20, 0x18, 0x18), (0x20, 0x15c, 0x15c), (0x20, 0x410, 0x410), (0x20, 0x414, 0x414), (0x20, 0x418, 0x418), (0x20, 0x41c, 0x41c), (0x20, 0x420, 0x420), (0x40, 0x130, 0x130), (0x50, 0x18, 0x18), (0x50, 0x128, 0x128), (0x50, 0x178, 0x178)] s (execHalfLossCompletions a0 s) := by
  intro a0 s
  unfold execHalfLossCompletions
  refine Gives.ite ?_ ?_
  · refine Gives.next ?_
    exact Only.refl _ _ _
  · extract_lets +onlyGivenNames x1
    clear_value x1
    extract_lets +onlyGivenNames x2
    clear_value x2
    extract_lets +onlyGivenNames x3
    refine Gives.have_ (t := x3) ?_ fun hx3 => ?_
    · subst x3
      refine Only.foldl (fun s x => ?_) ?_
      · refine Only.step (abortReq_only _ _ _) (by decide +kernel) ?_
        exact Only.refl _ _ _
      · exact Only.refl _ _ _
    clear_value x3
    refine Gives.next ?_
    refine Only.foldl (fun s x => ?_) ?_
    · refine Only.step (endRally_only _ _ _) (by decide +kernel) ?_
      exact Only.refl _ _ _
    · assumption

theorem unitReturn_only (k1 : Nat) : ∀ a0 a1 s, pageType a1 = k1 → Nat.beq k1 0x60 = false → Only [.causes, .tiles, .heldOut, .out] [(k1, 0x14, 0x14), (k1, 0x18, 0x18), (k1, 0x28, 0x28)] s (unitReturn a0 a1 s) := by
  intro a0 a1 s hk1 hn1
  unfold unitReturn
  refine Only.ite ?_ ?_
  · exact Only.refl _ _ _
  · extract_lets +onlyGivenNames x1
    refine Only.have_ (t := x1) ?_ fun hx1 => ?_
    · subst x1
      refine Only.step (causeDone_only k1 _ _ _ hk1 hn1) (by first | decide +kernel | simp [within, Fld.inside, RegSpan.inside]) ?_
      exact Only.refl _ _ _
    clear_value x1
    refine Only.ite ?_ ?_
    · refine Only.step (setCauses_only k1 _ _ _ hk1 hn1) (by first | decide +kernel | simp [within, Fld.inside, RegSpan.inside]) ?_
      assumption
    · refine Only.ite ?_ ?_
      · extract_lets +onlyGivenNames x2
        refine Only.have_ (t := x2) ?_ fun hx2 => ?_
        · subst x2
          refine Only.step (unfence_only k1 _ _ hk1 hn1) (by first | decide +kernel | simp [within, Fld.inside, RegSpan.inside]) ?_
          refine Only.ite ?_ ?_
          · refine Only.step (stopDone_only k1 _ _ hk1 hn1) (by first | decide +kernel | simp [within, Fld.inside, RegSpan.inside]) ?_
            assumption
          · assumption
        clear_value x2
        split
        · refine Only.step (modTile_only _ _ _) (by first | decide +kernel | simp [within, Fld.inside, RegSpan.inside]) ?_
          assumption
        · assumption
      · assumption

theorem unitReturn_any : ∀ a0 a1 s, Only [.causes, .tiles, .mail, .heldOut, .out] [(0x0, 0x14, 0x14), (0x0, 0x18, 0x18), (0x0, 0x28, 0x28)] s (unitReturn a0 a1 s) := by
  intro a0 a1 s
  unfold unitReturn
  refine Only.ite ?_ ?_
  · exact Only.refl _ _ _
  · extract_lets +onlyGivenNames x1
    refine Only.have_ (t := x1) ?_ fun hx1 => ?_
    · subst x1
      refine Only.step (causeDone_any _ _ _) (by decide +kernel) ?_
      exact Only.refl _ _ _
    clear_value x1
    refine Only.ite ?_ ?_
    · refine Only.step (setCauses_any _ _ _) (by decide +kernel) ?_
      assumption
    · refine Only.ite ?_ ?_
      · extract_lets +onlyGivenNames x2
        refine Only.have_ (t := x2) ?_ fun hx2 => ?_
        · subst x2
          refine Only.step (unfence_any _ _) (by decide +kernel) ?_
          refine Only.ite ?_ ?_
          · refine Only.step (stopDone_any _ _) (by decide +kernel) ?_
            assumption
          · assumption
        clear_value x2
        split
        · refine Only.step (modTile_only _ _ _) (by decide +kernel) ?_
          assumption
        · assumption
      · assumption

theorem execHalfReturn_gives : ∀ a0 a1 s, Gives [.causes, .tiles, .mail, .heldOut, .complexN, .complexS, .out] [(0x0, 0x14, 0x14), (0x0, 0x18, 0x18), (0x0, 0x28, 0x28), (0x10, 0x880, 0x880), (0x10, 0x884, 0x884)] s (execHalfReturn a0 a1 s) := by
  intro a0 a1 s
  unfold execHalfReturn
  refine Gives.ite ?_ ?_
  · refine Gives.next ?_
    exact Only.refl _ _ _
  · refine Gives.next ?_
    refine withPeers_only (by decide +kernel) (fun s => ?_) ?_
    · extract_lets +onlyGivenNames x1
      refine Only.have_ (t := x1) ?_ fun hx1 => ?_
      · subst x1
        refine Only.step (setCauses_only 0x10 _ _ _ rfl rfl) (by decide +kernel) ?_
        exact Only.refl _ _ _
      clear_value x1
      extract_lets +onlyGivenNames x2
      refine Only.have_ (t := x2) ?_ fun hx2 => ?_
      · subst x2
        refine Only.step (unfence_only 0x10 _ _ rfl rfl) (by decide +kernel) ?_
        refine Only.ite ?_ ?_
        · refine Only.step (stopDone_only 0x10 _ _ rfl rfl) (by decide +kernel) ?_
          assumption
        · assumption
      clear_value x2
      extract_lets +onlyGivenNames x3
      refine Only.have_ (t := x3) ?_ fun hx3 => ?_
      · subst x3
        refine Only.foldl (fun s x => ?_) ?_
        · refine Only.step (unitReturn_any _ _ _) (by decide +kernel) ?_
          exact Only.refl _ _ _
        · assumption
      clear_value x3
      extract_lets +onlyGivenNames x4
      refine Only.have_ (t := x4) ?_ fun hx4 => ?_
      · subst x4
        refine Only.foldl (fun s x => ?_) ?_
        · refine Only.step (unitReturn_only 0x20 _ _ _ rfl rfl) (by decide +kernel) ?_
          exact Only.refl _ _ _
        · assumption
      clear_value x4
      extract_lets +onlyGivenNames x5
      refine Only.have_ (t := x5) ?_ fun hx5 => ?_
      · subst x5
        refine Only.step (fset_only 0x10 0x880 _ _ _ _ rfl rfl rfl) (by decide +kernel) ?_
        refine Only.step (fset_only 0x10 0x880 _ _ _ _ rfl rfl rfl) (by decide +kernel) ?_
        refine Only.step (fset_only 0x10 0x884 _ _ _ _ rfl rfl rfl) (by decide +kernel) ?_
        assumption
      clear_value x5
      extract_lets +onlyGivenNames x6
      refine Only.have_ (t := x6) ?_ fun hx6 => ?_
      · subst x6
        refine Only.step (setComplex_only _ _ _) (by decide +kernel) ?_
        assumption
      clear_value x6
      refine Only.step (setRole_only _ _ _) (by decide +kernel) ?_
      assumption
    · exact Only.refl _ _ _

theorem execMigEngineFence_gives : ∀ a0 s, Gives [.causes, .tiles, .range, .zip, .heldOut, .out] [(0x40, 0x14, 0x14), (0x40, 0x18, 0x18), (0x40, 0x28, 0x28), (0x40, 0x130, 0x130), (0x40, 0x134, 0x134), (0x40, 0x138, 0x138), (0x40, 0x13c, 0x13c), (0x40, 0x204, 0x204), (0x40, 0x208, 0x208), (0x40, 0x20c, 0x20c), (0x40, 0x210, 0x210), (0x40, 0x214, 0x214), (0x40, 0x218, 0x218), (0x40, 0x21c, 0x21c), (0x40, 0x220, 0x220), (0x40, 0x224, 0x224), (0x50, 0x18, 0x18)] s (execMigEngineFence a0 s) := by
  intro a0 s
  unfold execMigEngineFence
  refine Gives.ite ?_ ?_
  · refine Gives.next ?_
    refine Only.ite ?_ ?_
    · refine Only.step (fencePage_only 0x40 _ _ _ rfl rfl) (by decide +kernel) ?_
      exact Only.refl _ _ _
    · exact Only.refl _ _ _
  · refine Gives.next ?_
    refine Only.step (stopZip_only _ _) (by decide +kernel) ?_
    refine Only.step (fenceRange_only _ _) (by decide +kernel) ?_
    refine Only.step (fencePage_only 0x40 _ _ _ rfl rfl) (by decide +kernel) ?_
    exact Only.refl _ _ _

theorem execGroupFenced_gives : ∀ a0 a1 s, Gives [.causes, .heldOut, .out] [(0x80, 0x14, 0x14), (0x80, 0x18, 0x18), (0x80, 0x28, 0x28), (0x80, 0x100, 0x100), (0x80, 0x10c, 0x10c)] s (execGroupFenced a0 a1 s) := by
  intro a0 a1 s
  unfold execGroupFenced
  extract_lets +onlyGivenNames x1
  clear_value x1
  refine Gives.ite ?_ ?_
  · refine Gives.next ?_
    exact Only.refl _ _ _
  · extract_lets +onlyGivenNames x2
    clear_value x2
    refine Gives.next ?_
    refine onBridge_only (fun h s => ?_) ?_
    · extract_lets +onlyGivenNames x3
      extract_lets +onlyGivenNames x4
      refine Only.have_ (t := x4) ?_ fun hx4 => ?_
      · subst x4
        refine Only.step (setGroups_only _ _ _) (by decide +kernel) ?_
        exact Only.refl _ _ _
      clear_value x4
      extract_lets +onlyGivenNames x5
      refine Only.have_ (t := x5) ?_ fun hx5 => ?_
      · subst x5
        refine Only.ite ?_ ?_
        · assumption
        · refine Only.step (fset_only 0x80 0x10c _ _ _ _ rfl rfl rfl) (by decide +kernel) ?_
          refine Only.step (fset_only 0x80 0x10c _ _ _ _ rfl rfl rfl) (by decide +kernel) ?_
          refine Only.step (fset_only 0x80 0x10c _ _ _ _ rfl rfl rfl) (by decide +kernel) ?_
          assumption
      clear_value x5
      extract_lets +onlyGivenNames x6
      refine Only.have_ (t := x6) ?_ fun hx6 => ?_
      · subst x6
        refine Only.step (raise_only 0x80 _ _ _ rfl rfl) (by decide +kernel) ?_
        assumption
      clear_value x6
      refine Only.ite ?_ ?_
      · refine Only.step (raise_only 0x80 _ _ _ rfl rfl) (by decide +kernel) ?_
        assumption
      · assumption
    · exact Only.refl _ _ _

theorem execBridgeRetrain_gives : ∀ a0 a1 s, Gives [.causes, .heldOut, .out] [(0x80, 0x14, 0x14), (0x80, 0x18, 0x18), (0x80, 0x28, 0x28), (0x80, 0x100, 0x100), (0x80, 0x104, 0x104)] s (execBridgeRetrain a0 a1 s) := by
  intro a0 a1 s
  unfold execBridgeRetrain
  extract_lets +onlyGivenNames x1
  clear_value x1
  refine Gives.ite ?_ ?_
  · refine Gives.next ?_
    exact Only.refl _ _ _
  · refine Gives.next ?_
    refine onBridge_only (fun h s => ?_) ?_
    · extract_lets +onlyGivenNames x2
      extract_lets +onlyGivenNames x3
      refine Only.have_ (t := x3) ?_ fun hx3 => ?_
      · subst x3
        refine Only.step (satInc_only 0x80 0x104 _ _ _ _ rfl rfl rfl rfl) (by decide +kernel) ?_
        exact Only.refl _ _ _
      clear_value x3
      refine Only.ite ?_ ?_
      · refine Only.step (raise_only 0x80 _ _ _ rfl rfl) (by decide +kernel) ?_
        refine Only.step (setGroups_only _ _ _) (by decide +kernel) ?_
        refine Only.step (satInc_only 0x80 0x104 _ _ _ _ rfl rfl rfl rfl) (by decide +kernel) ?_
        assumption
      · assumption
    · exact Only.refl _ _ _

theorem setUpd_only : ∀ a0 s, Only [.heldOut, .out] [(0x10, 0x18, 0x18), (0x10, 0x88c, 0x88c)] s (setUpd a0 s) := by
  intro a0 s
  unfold setUpd
  extract_lets +onlyGivenNames x1
  refine Only.haveFn (P := fun x => ∀ y1_0 y1_1, Only [.heldOut, .out] [(0x10, 0x18, 0x18), (0x10, 0x88c, 0x88c)] y1_1 (x y1_0 y1_1)) (t := x1) ?_ fun hx1 => ?_
  · intro y1_0 y1_1
    subst x1
    dsimp -zeta only
    refine Only.ite ?_ ?_
    · refine Only.step (raise_only 0x10 _ _ _ rfl rfl) (by decide +kernel) ?_
      refine Only.step (fset_only 0x10 0x88c _ _ _ _ rfl rfl rfl) (by decide +kernel) ?_
      exact Only.refl _ _ _
    · exact Only.refl _ _ _
  clear_value x1
  refine Only.trans ?_ (hx1 ..)
  refine Only.trans ?_ (hx1 ..)
  exact Only.refl _ _ _

theorem fwReply_only : ∀ a0 a1 s, Only [.mail, .heldOut, .out] [] s (fwReply a0 a1 s) := by
  intro a0 a1 s
  unfold fwReply
  refine Only.step (reply_only _ _ _ _ _ _) (by decide +kernel) ?_
  exact Only.refl _ _ _

theorem fwEnd_only : ∀ a0 a1 s, Only [.mail, .heldOut, .update, .out] [(0x10, 0x18, 0x18), (0x10, 0x88c, 0x88c)] s (fwEnd a0 a1 s) := by
  intro a0 a1 s
  unfold fwEnd
  refine Only.step (fwReply_only _ _ _) (by decide +kernel) ?_
  refine Only.step (setUpd_only _ _) (by decide +kernel) ?_
  refine Only.set_update (by decide +kernel) ?_
  exact Only.refl _ _ _

theorem execFwUpdate_gives : ∀ a0 a1 a2 s, Gives [.mail, .heldOut, .update, .out] [(0x10, 0x18, 0x18), (0x10, 0x88c, 0x88c)] s (execFwUpdate a0 a1 a2 s) := by
  intro a0 a1 a2 s
  unfold execFwUpdate
  refine Gives.ite ?_ ?_
  · refine Gives.next ?_
    exact Only.refl _ _ _
  · refine Gives.ite ?_ ?_
    · refine Gives.next ?_
      refine Only.step (fwReply_only _ _ _) (by decide +kernel) ?_
      exact Only.refl _ _ _
    · split
      · refine Gives.next ?_
        refine Only.step (fwReply_only _ _ _) (by decide +kernel) ?_
        exact Only.refl _ _ _
      · refine Gives.ite ?_ ?_
        · refine Gives.next ?_
          refine Only.step (fwReply_only _ _ _) (by decide +kernel) ?_
          exact Only.refl _ _ _
        · refine Gives.ite ?_ ?_
          · refine Gives.next ?_
            refine Only.step (fwReply_only _ _ _) (by decide +kernel) ?_
            exact Only.refl _ _ _
          · refine Gives.ite ?_ ?_
            · refine Gives.next ?_
              refine Only.step (fwReply_only _ _ _) (by decide +kernel) ?_
              exact Only.refl _ _ _
            · extract_lets +onlyGivenNames x1
              clear_value x1
              refine Gives.next ?_
              refine Only.step (setUpd_only _ _) (by decide +kernel) ?_
              refine Only.set_update (by decide +kernel) ?_
              exact Only.refl _ _ _

theorem setNextArea_only : ∀ a0 s, Only [.boot] [(0x10, 0x88c, 0x88c)] s (setNextArea a0 s) := by
  intro a0 s
  unfold setNextArea
  extract_lets +onlyGivenNames x1
  refine Only.haveFn (P := fun x => ∀ y1_0 y1_1, Only [.boot] [(0x10, 0x88c, 0x88c)] y1_1 (x y1_0 y1_1)) (t := x1) ?_ fun hx1 => ?_
  · intro y1_0 y1_1
    subst x1
    dsimp -zeta only
    refine Only.ite ?_ ?_
    · refine Only.step (fset_only 0x10 0x88c _ _ _ _ rfl rfl rfl) (by decide +kernel) ?_
      exact Only.refl _ _ _
    · exact Only.refl _ _ _
  clear_value x1
  refine Only.trans ?_ (hx1 ..)
  refine Only.trans ?_ (hx1 ..)
  refine Only.set_boot (by decide +kernel) ?_
  exact Only.refl _ _ _

theorem ccDown_only : ∀ a0 s, Only [.heldOut, .out] [(0x10, 0x18, 0x18), (0x10, 0x880, 0x880)] s (ccDown a0 s) := by
  intro a0 s
  unfold ccDown
  refine Only.step (fset_only 0x10 0x880 _ _ _ _ rfl rfl rfl) (by decide +kernel) ?_
  refine Only.step (setRole_only _ _ _) (by decide +kernel) ?_
  exact Only.refl _ _ _

theorem ccUp_only : ∀ a0 a1 a2 s, Only [.heldOut, .complexN, .complexS, .out] [(0x10, 0x18, 0x18), (0x10, 0x880, 0x880), (0x10, 0x88c, 0x88c), (0x10, 0x890, 0x890)] s (ccUp a0 a1 a2 s) := by
  intro a0 a1 a2 s
  unfold ccUp
  extract_lets +onlyGivenNames x1
  refine Only.have_ (t := x1) ?_ fun hx1 => ?_
  · subst x1
    refine Only.step (fset_only 0x10 0x880 _ _ _ _ rfl rfl rfl) (by decide +kernel) ?_
    refine Only.step (fset_only 0x10 0x890 _ _ _ _ rfl rfl rfl) (by decide +kernel) ?_
    refine Only.step (fset_only 0x10 0x88c _ _ _ _ rfl rfl rfl) (by decide +kernel) ?_
    exact Only.refl _ _ _
  clear_value x1
  refine Only.step (setRole_only _ _ _) (by decide +kernel) ?_
  refine Only.step (setComplex_only _ _ _) (by decide +kernel) ?_
  assumption

theorem fwStep_only : ∀ a0 s, Only [.ws, .mail, .heldOut, .replicaN, .replicaS, .complexN, .complexS, .update, .boot, .out] [(0x10, 0x18, 0x18), (0x10, 0x880, 0x880), (0x10, 0x88c, 0x88c), (0x10, 0x890, 0x890), (0x90, 0x108, 0x108), (0x90, 0x10c, 0x10c), (0xb0, 0x124, 0x124), (0xb0, 0x128, 0x128)] s (fwStep a0 s) := by
  intro a0 s
  unfold fwStep
  extract_lets +onlyGivenNames x1
  refine Only.haveFn (P := fun x => ∀ y1_0 y1_1, Only [.ws, .mail, .heldOut, .replicaN, .replicaS, .complexN, .complexS, .update, .boot, .out] [(0x10, 0x18, 0x18), (0x10, 0x880, 0x880), (0x10, 0x88c, 0x88c), (0x10, 0x890, 0x890), (0x90, 0x108, 0x108), (0x90, 0x10c, 0x10c), (0xb0, 0x124, 0x124), (0xb0, 0x128, 0x128)] y1_1 (x y1_0 y1_1)) (t := x1) ?_ fun hx1 => ?_
  · intro y1_0 y1_1
    subst x1
    dsimp -zeta only
    refine Only.set_update (by decide +kernel) ?_
    exact Only.refl _ _ _
  clear_value x1
  extract_lets +onlyGivenNames x2
  clear_value x2
  refine Only.ite ?_ ?_
  · extract_lets +onlyGivenNames x3
    clear_value x3
    extract_lets +onlyGivenNames x4
    refine Only.have_ (t := x4) ?_ fun hx4 => ?_
    · subst x4
      refine Only.step (countSig_only _ _) (by decide +kernel) ?_
      exact Only.refl _ _ _
    clear_value x4
    refine Only.ite ?_ ?_
    · refine Only.step (fwEnd_only _ _ _) (by decide +kernel) ?_
      assumption
    · refine Only.ite ?_ ?_
      · refine Only.step (fwEnd_only _ _ _) (by decide +kernel) ?_
        assumption
      · refine Only.step (setUpd_only _ _) (by decide +kernel) ?_
        refine Only.trans ?_ (hx1 ..)
        assumption
  · refine Only.ite ?_ ?_
    · refine Only.trans ?_ (hx1 ..)
      refine Only.step (writeArea_only _ _ _) (by decide +kernel) ?_
      exact Only.refl _ _ _
    · refine Only.ite ?_ ?_
      · extract_lets +onlyGivenNames x5
        refine Only.have_ (t := x5) ?_ fun hx5 => ?_
        · subst x5
          refine Only.step (setNextArea_only _ _) (by decide +kernel) ?_
          exact Only.refl _ _ _
        clear_value x5
        refine Only.ite ?_ ?_
        · refine Only.step (setUpd_only _ _) (by decide +kernel) ?_
          refine Only.step (ccDown_only _ _) (by decide +kernel) ?_
          refine Only.trans ?_ (hx1 ..)
          assumption
        · refine Only.step (setUpd_only _ _) (by decide +kernel) ?_
          refine Only.step (ccDown_only _ _) (by decide +kernel) ?_
          refine Only.trans ?_ (hx1 ..)
          assumption
      · refine Only.ite ?_ ?_
        · refine Only.step (setUpd_only _ _) (by decide +kernel) ?_
          refine Only.step (handoff_only _ _) (by decide +kernel) ?_
          refine Only.step (ccUp_only _ _ _ _) (by decide +kernel) ?_
          refine Only.trans ?_ (hx1 ..)
          exact Only.refl _ _ _
        · refine Only.ite ?_ ?_
          · refine Only.ite ?_ ?_
            · refine Only.step (setUpd_only _ _) (by decide +kernel) ?_
              refine Only.step (ccDown_only _ _) (by decide +kernel) ?_
              refine Only.trans ?_ (hx1 ..)
              exact Only.refl _ _ _
            · exact Only.refl _ _ _
          · refine Only.ite ?_ ?_
            · extract_lets +onlyGivenNames x6
              refine Only.have_ (t := x6) ?_ fun hx6 => ?_
              · subst x6
                refine Only.step (ccUp_only _ _ _ _) (by decide +kernel) ?_
                refine Only.trans ?_ (hx1 ..)
                exact Only.refl _ _ _
              clear_value x6
              extract_lets +onlyGivenNames x7
              clear_value x7
              extract_lets +onlyGivenNames x8
              refine Only.have_ (t := x8) ?_ fun hx8 => ?_
              · subst x8
                refine Only.set_boot (by decide +kernel) ?_
                assumption
              clear_value x8
              refine Only.ite ?_ ?_
              · refine Only.step (setRole_only _ _ _) (by decide +kernel) ?_
                assumption
              · assumption
            · refine Only.step (fwReply_only _ _ _) (by decide +kernel) ?_
              refine Only.step (setUpd_only _ _) (by decide +kernel) ?_
              refine Only.set_update (by decide +kernel) ?_
              exact Only.refl _ _ _

theorem execFwUpdateStepEnd_gives : ∀ s, Gives [.ws, .mail, .heldOut, .replicaN, .replicaS, .complexN, .complexS, .update, .boot, .out] [(0x10, 0x18, 0x18), (0x10, 0x880, 0x880), (0x10, 0x88c, 0x88c), (0x10, 0x890, 0x890), (0x90, 0x108, 0x108), (0x90, 0x10c, 0x10c), (0xb0, 0x124, 0x124), (0xb0, 0x128, 0x128)] s (execFwUpdateStepEnd s) := by
  intro s
  unfold execFwUpdateStepEnd
  split
  · refine Gives.next ?_
    exact Only.refl _ _ _
  · refine Gives.next ?_
    refine withPeers_only (by decide +kernel) (fun s => ?_) ?_
    · refine Only.step (fwStep_only _ _) (by decide +kernel) ?_
      exact Only.refl _ _ _
    · exact Only.refl _ _ _

theorem execFwFailed_gives : ∀ a0 s, Gives [.mail, .heldOut, .complexN, .complexS, .update, .boot, .out] [(0x10, 0x18, 0x18), (0x10, 0x880, 0x880), (0x10, 0x88c, 0x88c), (0x10, 0x890, 0x890)] s (execFwFailed a0 s) := by
  intro a0 s
  unfold execFwFailed
  split
  · refine Gives.next ?_
    exact Only.refl _ _ _
  · refine Gives.ite ?_ ?_
    · extract_lets +onlyGivenNames x1
      clear_value x1
      extract_lets +onlyGivenNames x2
      refine Gives.have_ (t := x2) ?_ fun hx2 => ?_
      · subst x2
        refine Only.step (ccUp_only _ _ _ _) (by decide +kernel) ?_
        refine Only.step (setNextArea_only _ _) (by decide +kernel) ?_
        exact Only.refl _ _ _
      clear_value x2
      extract_lets +onlyGivenNames x3
      refine Gives.have_ (t := x3) ?_ fun hx3 => ?_
      · subst x3
        refine Only.ite ?_ ?_
        · refine Only.step (setRole_only _ _ _) (by decide +kernel) ?_
          assumption
        · assumption
      clear_value x3
      refine Gives.next ?_
      refine Only.step (fwEnd_only _ _ _) (by decide +kernel) ?_
      assumption
    · refine Gives.next ?_
      exact Only.refl _ _ _

theorem fetchRead_only : ∀ a0 a1 s, Only [.causes, .ws, .heldOut, .out] [(0x30, 0x18, 0x18), (0x30, 0x118, 0x118), (0x30, 0x120, 0x120), (0x30, 0x124, 0x124), (0x30, 0x128, 0x128), (0x30, 0x12c, 0x12c), (0x30, 0x138, 0x138), (0x31, 0x14, 0x14), (0x31, 0x18, 0x18), (0x31, 0x28, 0x28), (0x31, 0x100, 0x100), (0x31, 0x110, 0x12c)] s (fetchRead a0 a1 s).2 := by
  intro a0 a1 s
  unfold fetchRead
  extract_lets +onlyGivenNames x1
  refine Only.ite_snd ?_ ?_
  · extract_lets +onlyGivenNames x2
    clear_value x2
    extract_lets +onlyGivenNames x3
    refine Only.have_ (t := x3) ?_ fun hx3 => ?_
    · subst x3
      refine Only.step (noteHist_only _ _ _) (by decide +kernel) ?_
      exact Only.refl _ _ _
    clear_value x3
    refine Only.pair ?_
    refine Only.ite ?_ ?_
    · refine Only.step (noteWeak_only _ _ _ _) (by decide +kernel) ?_
      assumption
    · assumption
  · refine Only.pair ?_
    refine Only.step (noteFailure_only _ _ _) (by decide +kernel) ?_
    refine Only.step (raise_only 0x30 _ _ _ rfl rfl) (by decide +kernel) ?_
    refine Only.step (satInc_only 0x30 0x138 _ _ _ _ rfl rfl rfl rfl) (by decide +kernel) ?_
    exact Only.refl _ _ _

theorem fetchRead_only_eq : ∀ a0 a1 s x t, fetchRead a0 a1 s = (x, t) → Only [.causes, .ws, .heldOut, .out] [(0x30, 0x18, 0x18), (0x30, 0x118, 0x118), (0x30, 0x120, 0x120), (0x30, 0x124, 0x124), (0x30, 0x128, 0x128), (0x30, 0x12c, 0x12c), (0x30, 0x138, 0x138), (0x31, 0x14, 0x14), (0x31, 0x18, 0x18), (0x31, 0x28, 0x28), (0x31, 0x100, 0x100), (0x31, 0x110, 0x12c)] s t := by
  intro a0 a1 s x t h
  have := fetchRead_only a0 a1 s
  rw [h] at this
  exact this

theorem bufferCw_only : ∀ a0 a1 s, Only [.complexN, .complexS] [] s (bufferCw a0 a1 s) := by
  intro a0 a1 s
  unfold bufferCw
  extract_lets +onlyGivenNames x1
  clear_value x1
  refine Only.step (setComplex_only _ _ _) (by decide +kernel) ?_
  exact Only.refl _ _ _

theorem execFirmwareFetchMiss_gives : ∀ a0 a1 a2 a3 s, Gives [.causes, .tiles, .mesh, .range, .zip, .reqs, .ws, .mail, .heldOut, .replicaN, .replicaS, .complexN, .complexS, .out] ([(0x0, 0x14, 0x14), (0x0, 0x18, 0x18), (0x0, 0x28, 0x28), (0x10, 0x880, 0x880), (0x20, 0x104, 0x104), (0x20, 0x204, 0x204), (0x30, 0x118, 0x118), (0x30, 0x120, 0x120), (0x30, 0x124, 0x124), (0x30, 0x128, 0x128), (0x30, 0x12c, 0x12c), (0x30, 0x130, 0x130), (0x30, 0x134, 0x134), (0x30, 0x138, 0x138), (0x30, 0x13c, 0x13c), (0x30, 0x144, 0x144), (0x30, 0x260, 0x260), (0x30, 0x264, 0x264), (0x31, 0x100, 0x100), (0x31, 0x110, 0x12c)] ++ [(0x40, 0x130, 0x130), (0x40, 0x134, 0x134), (0x40, 0x138, 0x138), (0x40, 0x13c, 0x13c), (0x40, 0x204, 0x204), (0x40, 0x208, 0x208), (0x40, 0x20c, 0x20c), (0x40, 0x210, 0x210), (0x40, 0x214, 0x214), (0x40, 0x218, 0x218), (0x40, 0x21c, 0x21c), (0x40, 0x220, 0x220), (0x40, 0x224, 0x224), (0x90, 0x108, 0x108), (0x90, 0x10c, 0x10c)] : List RegSpan) s (execFirmwareFetchMiss a0 a1 a2 a3 s) := by
  intro a0 a1 a2 a3 s
  unfold execFirmwareFetchMiss
  refine Gives.ite ?_ ?_
  · refine Gives.next ?_
    exact Only.refl _ _ _
  · extract_lets +onlyGivenNames x1
    clear_value x1
    extract_lets +onlyGivenNames x2
    refine Gives.have_ (t := x2) ?_ fun hx2 => ?_
    · subst x2
      refine Only.step (bondCheck_only _ _ _) (by decide +kernel) ?_
      exact Only.refl _ _ _
    clear_value x2
    refine Gives.ite ?_ ?_
    · refine Gives.next ?_
      assumption
    · extract_lets +onlyGivenNames x3
      refine Gives.ite ?_ ?_
      · refine Gives.next ?_
        refine Only.step (bufferCw_only _ _ _) (by decide +kernel) ?_
        refine Only.step (fetchRead_only _ _ _) (by decide +kernel) ?_
        refine Only.step (wrapInc_only 0x30 0x260 _ _ _ _ rfl rfl rfl rfl) (by decide +kernel) ?_
        assumption
      · extract_lets +onlyGivenNames x4
        refine Gives.have_ (t := x4) ?_ fun hx4 => ?_
        · subst x4
          refine Only.step (raise_only 0x30 _ _ _ rfl rfl) (by decide +kernel) ?_
          refine Only.step (satInc_only 0x30 0x264 _ _ _ _ rfl rfl rfl rfl) (by decide +kernel) ?_
          refine Only.step (fetchRead_only _ _ _) (by decide +kernel) ?_
          refine Only.step (wrapInc_only 0x30 0x260 _ _ _ _ rfl rfl rfl rfl) (by decide +kernel) ?_
          assumption
        clear_value x4
        extract_lets +onlyGivenNames x5
        refine Gives.ite ?_ ?_
        · refine Gives.next ?_
          refine Only.step (bufferCw_only _ _ _) (by decide +kernel) ?_
          refine Only.step (fetchRead_only _ _ _) (by decide +kernel) ?_
          assumption
        · refine Gives.next ?_
          refine Only.step (fenceHalf_only _ _ _) (by decide +kernel) ?_
          refine Only.step (fetchRead_only _ _ _) (by decide +kernel) ?_
          assumption


end Sys2Proof.Machine
end

