-- ==== Sys2Proof/Laws/OnlyPower.lean ====
section
/-! SUPPORT. What the operations and the meanings of Machine/Power.lean can change (`Only`, `Gives`): the parts of the state and the
registers, whatever the operands are. -/

namespace Sys2Proof.Machine

set_option linter.unusedSimpArgs false
set_option maxRecDepth 20000
set_option Elab.async false

theorem noteWake_only : ∀ a0 a1 a2 a3 s, Only [.heldOut, .out] [(0xa0, 0x18, 0x18), (0xa1, 0x18, 0x18), (0xa1, 0x100, 0x100), (0xa1, 0x104, 0x104), (0xa1, 0x108, 0x108), (0xa1, 0x11c, 0x11c)] s (noteWake a0 a1 a2 a3 s) := by
  intro a0 a1 a2 a3 s
  unfold noteWake
  extract_lets +onlyGivenNames x1
  extract_lets +onlyGivenNames x2
  refine Only.have_ (t := x2) ?_ fun hx2 => ?_
  · subst x2
    refine Only.step (wrapInc_only 0xa1 0x11c _ _ _ _ rfl rfl rfl rfl) (by decide +kernel) ?_
    refine Only.step (wideSet_only 0xa1 0x104 0x108 _ _ _ _ _ rfl rfl rfl rfl rfl rfl) (by decide +kernel) ?_
    refine Only.step (fset_only 0xa1 0x100 _ _ _ _ rfl rfl rfl) (by decide +kernel) ?_
    refine Only.step (fset_only 0xa1 0x100 _ _ _ _ rfl rfl rfl) (by decide +kernel) ?_
    refine Only.step (fset_only 0xa1 0x100 _ _ _ _ rfl rfl rfl) (by decide +kernel) ?_
    refine Only.step (fset_only 0xa1 0x100 _ _ _ _ rfl rfl rfl) (by decide +kernel) ?_
    refine Only.step (fset_only 0xa1 0x100 _ _ _ _ rfl rfl rfl) (by decide +kernel) ?_
    refine Only.step (fset_only 0xa1 0x100 _ _ _ _ rfl rfl rfl) (by decide +kernel) ?_
    exact Only.refl _ _ _
  clear_value x2
  extract_lets +onlyGivenNames x3
  refine Only.have_ (t := x3) ?_ fun hx3 => ?_
  · subst x3
    refine Only.step (raise_only 0xa1 _ _ _ rfl rfl) (by decide +kernel) ?_
    assumption
  clear_value x3
  refine Only.ite ?_ ?_
  · refine Only.step (raise_only 0xa0 _ _ _ rfl rfl) (by decide +kernel) ?_
    assumption
  · assumption

theorem Only.set_pins_phase : ∀ {m : List Fld} {r : List RegSpan} {s t : State} {v0 v1}, [.pins, .phase].all (fun x => m.contains x) = true → Only m r s t → Only m r s { t with pins := v0, phase := v1 } := by
  intro m r s t v0 v1 hm h
  refine h.trans ⟨fun x hx _ => ?_, fun _ _ _ => rfl, fun c => c⟩
  cases x <;> first | rfl | exact absurd (List.contains_iff_mem.mp (List.all_eq_true.mp hm _ (by simp))) hx

theorem wakeFromOff_only : ∀ a0 s, Only [.pins, .phase, .heldOut, .out] [(0xa0, 0x18, 0x18), (0xa1, 0x18, 0x18), (0xa1, 0x100, 0x100), (0xa1, 0x104, 0x104), (0xa1, 0x108, 0x108), (0xa1, 0x11c, 0x11c)] s (wakeFromOff a0 s) := by
  intro a0 s
  unfold wakeFromOff
  refine Only.step (noteWake_only _ _ _ _ _) (by decide +kernel) ?_
  refine Only.set_pins_phase (by decide +kernel) ?_
  exact Only.refl _ _ _

theorem wakeHalf_only : ∀ a0 a1 a2 s, Only [.powerN, .powerS, .heldOut, .out] [(0xa0, 0x18, 0x18), (0xa1, 0x18, 0x18), (0xa1, 0x100, 0x100), (0xa1, 0x104, 0x104), (0xa1, 0x108, 0x108), (0xa1, 0x11c, 0x11c)] s (wakeHalf a0 a1 a2 s) := by
  intro a0 a1 a2 s
  unfold wakeHalf
  extract_lets +onlyGivenNames x1
  clear_value x1
  split
  · exact Only.refl _ _ _
  · extract_lets +onlyGivenNames x2
    refine Only.have_ (t := x2) ?_ fun hx2 => ?_
    · subst x2
      refine Only.step (setHalfPower_only _ _ _) (by decide +kernel) ?_
      exact Only.refl _ _ _
    clear_value x2
    refine Only.ite ?_ ?_
    · refine Only.step (noteWake_only _ _ _ _ _) (by decide +kernel) ?_
      assumption
    · assumption
  · refine Only.ite ?_ ?_
    · exact Only.refl _ _ _
    · extract_lets +onlyGivenNames x3
      refine Only.have_ (t := x3) ?_ fun hx3 => ?_
      · subst x3
        refine Only.step (setHalfPower_only _ _ _) (by decide +kernel) ?_
        exact Only.refl _ _ _
      clear_value x3
      refine Only.ite ?_ ?_
      · refine Only.step (noteWake_only _ _ _ _ _) (by decide +kernel) ?_
        assumption
      · assumption

theorem wakeTile_only : ∀ a0 a1 s, Only [.tiles, .powerN, .powerS, .heldOut, .out] [(0xa0, 0x18, 0x18), (0xa1, 0x18, 0x18), (0xa1, 0x100, 0x100), (0xa1, 0x104, 0x104), (0xa1, 0x108, 0x108), (0xa1, 0x11c, 0x11c)] s (wakeTile a0 a1 s) := by
  intro a0 a1 s
  unfold wakeTile
  extract_lets +onlyGivenNames x1
  clear_value x1
  extract_lets +onlyGivenNames x2
  clear_value x2
  extract_lets +onlyGivenNames x3
  clear_value x3
  refine Only.ite ?_ ?_
  · refine Only.step (wakeHalf_only _ _ _ _) (by decide +kernel) ?_
    exact Only.refl _ _ _
  · split
    · exact Only.refl _ _ _
    · refine Only.step (noteWake_only _ _ _ _ _) (by decide +kernel) ?_
      refine Only.step (setTile_only _ _ _) (by decide +kernel) ?_
      exact Only.refl _ _ _
    · refine Only.ite ?_ ?_
      · exact Only.refl _ _ _
      · refine Only.step (noteWake_only _ _ _ _ _) (by decide +kernel) ?_
        refine Only.step (setTile_only _ _ _) (by decide +kernel) ?_
        exact Only.refl _ _ _

theorem wakeBy_only : ∀ a0 a1 s, Only [.pins, .phase, .tiles, .powerN, .powerS, .heldOut, .out] [(0xa0, 0x18, 0x18), (0xa1, 0x18, 0x18), (0xa1, 0x100, 0x100), (0xa1, 0x104, 0x104), (0xa1, 0x108, 0x108), (0xa1, 0x11c, 0x11c)] s (wakeBy a0 a1 s) := by
  intro a0 a1 s
  unfold wakeBy
  refine Only.ite ?_ ?_
  · refine Only.ite ?_ ?_
    · refine Only.step (wakeFromOff_only _ _) (by decide +kernel) ?_
      exact Only.refl _ _ _
    · exact Only.refl _ _ _
  · refine Only.ite ?_ ?_
    · refine Only.ite ?_ ?_
      · exact Only.refl _ _ _
      · refine Only.step (noteWake_only _ _ _ _ _) (by decide +kernel) ?_
        refine Only.step (setHalfPower_only _ _ _) (by decide +kernel) ?_
        exact Only.refl _ _ _
    · split
      · refine Only.step (wakeTile_only _ _ _) (by decide +kernel) ?_
        exact Only.refl _ _ _
      · extract_lets +onlyGivenNames x1
        clear_value x1
        split
        · exact Only.refl _ _ _
        · refine Only.foldl (fun s x => ?_) ?_
          · refine Only.step (wakeHalf_only _ _ _ _) (by decide +kernel) ?_
            exact Only.refl _ _ _
          · refine Only.step (wakeHalf_only _ _ _ _) (by decide +kernel) ?_
            exact Only.refl _ _ _

theorem cutPrograms_only : ∀ s, Only [.ws, .free] [] s (cutPrograms s) := by
  intro s
  unfold cutPrograms
  refine Only.foldl (fun s x => ?_) ?_
  · extract_lets +onlyGivenNames x1
    refine Only.step (setCw_only _ _ _) (by decide +kernel) ?_
    refine Only.step (freeBytes_only _ _) (by decide +kernel) ?_
    exact Only.refl _ _ _
  · exact Only.refl _ _ _

theorem Only.set_regs_latched_causes_staleMid_tiles_sram_sramPoison_mesh_rowBus_scaleBus_range_zip_packed_bindings_reqs_chans_serials_handles_versions_rallies_selects_deferred_ws_mail_hostFns_badSlots_parity_powerN_powerS_votes_samples_lowSamples_ring_qps_heldOut_complexN_complexS_update_restores : ∀ {m : List Fld} {r : List RegSpan} {s t : State} {v0 v1 v2 v3 v4 v5 v6 v7 v8 v9 v10 v11 v12 v13 v14 v15 v16 v17 v18 v19 v20 v21 v22 v23 v24 v25 v26 v27 v28 v29 v30 v31 v32 v33 v34 v35 v36 v37 v38}, [.regs, .latched, .causes, .staleMid, .tiles, .sram, .sramPoison, .mesh, .rowBus, .scaleBus, .range, .zip, .packed, .bindings, .reqs, .chans, .serials, .handles, .versions, .rallies, .selects, .deferred, .ws, .mail, .hostFns, .badSlots, .parity, .powerN, .powerS, .votes, .samples, .lowSamples, .ring, .qps, .heldOut, .complexN, .complexS, .update, .restores].all (fun x => m.contains x) = true → (canonical t = true → canonical { t with regs := v0, latched := v1, causes := v2, staleMid := v3, tiles := v4, sram := v5, sramPoison := v6, mesh := v7, rowBus := v8, scaleBus := v9, range := v10, zip := v11, packed := v12, bindings := v13, reqs := v14, chans := v15, serials := v16, handles := v17, versions := v18, rallies := v19, selects := v20, deferred := v21, ws := v22, mail := v23, hostFns := v24, badSlots := v25, parity := v26, powerN := v27, powerS := v28, votes := v29, samples := v30, lowSamples := v31, ring := v32, qps := v33, heldOut := v34, complexN := v35, complexS := v36, update := v37, restores := v38 } = true) → Only m r s t → Only m r s { t with regs := v0, latched := v1, causes := v2, staleMid := v3, tiles := v4, sram := v5, sramPoison := v6, mesh := v7, rowBus := v8, scaleBus := v9, range := v10, zip := v11, packed := v12, bindings := v13, reqs := v14, chans := v15, serials := v16, handles := v17, versions := v18, rallies := v19, selects := v20, deferred := v21, ws := v22, mail := v23, hostFns := v24, badSlots := v25, parity := v26, powerN := v27, powerS := v28, votes := v29, samples := v30, lowSamples := v31, ring := v32, qps := v33, heldOut := v34, complexN := v35, complexS := v36, update := v37, restores := v38 } := by
  intro m r s t v0 v1 v2 v3 v4 v5 v6 v7 v8 v9 v10 v11 v12 v13 v14 v15 v16 v17 v18 v19 v20 v21 v22 v23 v24 v25 v26 v27 v28 v29 v30 v31 v32 v33 v34 v35 v36 v37 v38 hm hc h
  refine h.trans ⟨fun x hx _ => ?_, fun n => absurd (List.contains_iff_mem.mp (List.all_eq_true.mp hm _ (by simp))) n, hc⟩
  cases x <;> first | rfl | exact absurd (List.contains_iff_mem.mp (List.all_eq_true.mp hm _ (by simp))) hx

theorem coreLoss_only : ∀ s, Only ([Fld.regs, Fld.latched, Fld.causes, Fld.staleMid, Fld.tiles, Fld.sram, Fld.sramPoison, Fld.mesh, Fld.rowBus, Fld.scaleBus, Fld.range, Fld.zip, Fld.packed, Fld.bindings, Fld.reqs, Fld.chans, Fld.serials, Fld.handles, Fld.versions, Fld.rallies] ++ [Fld.selects, Fld.deferred, Fld.ws, Fld.mail, Fld.hostFns, Fld.badSlots, Fld.parity, Fld.powerN, Fld.powerS, Fld.votes, Fld.samples, Fld.lowSamples, Fld.ring, Fld.qps, Fld.heldOut, Fld.complexN, Fld.complexS, Fld.update, Fld.restores, Fld.free] : List Fld) [] s (coreLoss s) := by
  intro s
  unfold coreLoss
  extract_lets +onlyGivenNames x1
  refine Only.have_ (t := x1) ?_ fun hx1 => ?_
  · subst x1
    refine Only.step (cutPrograms_only _) (by decide +kernel) ?_
    exact Only.refl _ _ _
  clear_value x1
  extract_lets +onlyGivenNames x2
  refine Only.have_ (t := x2) ?_ fun hx2 => ?_
  · subst x2
    refine Only.step (eraseBlocks_only _ _) (by decide +kernel) ?_
    assumption
  clear_value x2
  refine Only.set_regs_latched_causes_staleMid_tiles_sram_sramPoison_mesh_rowBus_scaleBus_range_zip_packed_bindings_reqs_chans_serials_handles_versions_rallies_selects_deferred_ws_mail_hostFns_badSlots_parity_powerN_powerS_votes_samples_lowSamples_ring_qps_heldOut_complexN_complexS_update_restores (by decide +kernel) (by
      intro h; rw [canonical_eq] at h ⊢; obtain ⟨c1, c2, c3, c4, c5⟩ := h
      refine ⟨?_, ?_, ?_, ?_, ?_⟩ <;> first | assumption | rfl | exact swf_ssetAll _ _ _ _ ‹_› | exact swf_put _ _ _ _ ‹_› | exact swf_puts _ _ _ _ _ ‹_› | exact swf_filter _ _ _ _ ‹_› | (dsimp only; first | assumption | rfl | exact swf_ssetAll _ _ _ _ ‹_› | exact swf_put _ _ _ _ ‹_› | exact swf_puts _ _ _ _ _ ‹_› | exact swf_filter _ _ _ _ ‹_›)) ?_
  assumption

theorem badGroup_only : ∀ a0 a1 s, Only [] [(0x0, 0x30, 0x30)] s (badGroup a0 a1 s) := by
  intro a0 a1 s
  unfold badGroup
  refine Only.ite ?_ ?_
  · refine Only.foldl (fun s x => ?_) ?_
    · refine Only.step (fset_any 0x30 _ _ _ _ rfl rfl) (by decide +kernel) ?_
      exact Only.refl _ _ _
    · exact Only.refl _ _ _
  · exact Only.refl _ _ _

theorem putGroup_only : ∀ a0 s, Only [.regs] [] s (putGroup a0 s) := by
  intro a0 s
  unfold putGroup
  refine Only.foldl (fun s x => ?_) ?_
  · refine Only.step (setRegWord_all _ _ _) (by decide +kernel) ?_
    exact Only.refl _ _ _
  · exact Only.refl _ _ _

theorem restoreSave_only : ∀ a0 a1 s, Only [.regs, .votes, .boot, .save] [] s (restoreSave a0 a1 s) := by
  intro a0 a1 s
  unfold restoreSave
  extract_lets +onlyGivenNames x1
  refine Only.haveFn (P := fun x => ∀ y1_0 y1_1, Only [.regs, .votes, .boot, .save] [] y1_0 (x y1_0 y1_1)) (t := x1) ?_ fun hx1 => ?_
  · intro y1_0 y1_1
    subst x1
    dsimp -zeta only
    refine Only.ite ?_ ?_
    · refine Only.step (badGroup_only _ _ _) (by decide +kernel) ?_
      exact Only.refl _ _ _
    · refine Only.step (putGroup_only _ _) (by decide +kernel) ?_
      exact Only.refl _ _ _
  clear_value x1
  extract_lets +onlyGivenNames x2
  refine Only.have_ (t := x2) ?_ fun hx2 => ?_
  · subst x2
    refine Only.trans ?_ (hx1 ..)
    refine Only.trans ?_ (hx1 ..)
    refine Only.trans ?_ (hx1 ..)
    refine Only.trans ?_ (hx1 ..)
    exact Only.refl _ _ _
  clear_value x2
  extract_lets +onlyGivenNames x3
  refine Only.have_ (t := x3) ?_ fun hx3 => ?_
  · subst x3
    refine Only.ite ?_ ?_
    · assumption
    · refine Only.set_votes (by decide +kernel) ?_
      assumption
  clear_value x3
  extract_lets +onlyGivenNames x4
  refine Only.have_ (t := x4) ?_ fun hx4 => ?_
  · subst x4
    refine Only.ite ?_ ?_
    · refine Only.set_boot (by decide +kernel) ?_
      assumption
    · assumption
  clear_value x4
  extract_lets +onlyGivenNames x5
  refine Only.have_ (t := x5) ?_ fun hx5 => ?_
  · subst x5
    refine Only.trans ?_ (hx1 ..)
    assumption
  clear_value x5
  refine Only.step (fset_only 0xa1 0x118 _ _ _ _ rfl rfl rfl) (by decide +kernel) ?_
  refine Only.step (fset_only 0xa1 0x118 _ _ _ _ rfl rfl rfl) (by decide +kernel) ?_
  refine Only.set_save (by decide +kernel) ?_
  assumption

theorem offRefused_only : ∀ a0 s, Only [.heldOut, .out] [(0xa0, 0x18, 0x18), (0xa0, 0x124, 0x124)] s (offRefused a0 s) := by
  intro a0 s
  unfold offRefused
  refine Only.step (raise_only 0xa0 _ _ _ rfl rfl) (by decide +kernel) ?_
  refine Only.step (fset_only 0xa0 0x124 _ _ _ _ rfl rfl rfl) (by decide +kernel) ?_
  refine Only.step (fset_only 0xa0 0x124 _ _ _ _ rfl rfl rfl) (by decide +kernel) ?_
  exact Only.refl _ _ _

theorem execPwrCmdOff_gives : ∀ a0 s, Gives [.staleMid, .heldOut, .record, .out] [(0x10, 0x880, 0x880), (0xa0, 0x18, 0x18), (0xa0, 0x2c, 0x2c), (0xa0, 0x120, 0x120), (0xa0, 0x124, 0x124), (0xb0, 0x18, 0x18), (0xb0, 0x110, 0x110), (0xb0, 0x114, 0x114), (0xb0, 0x118, 0x118), (0xb0, 0x11c, 0x11c)] s (execPwrCmdOff a0 s) := by
  intro a0 s
  unfold execPwrCmdOff
  refine Gives.next ?_
  refine guarded_only 0xa0 rfl rfl (by decide +kernel) (fun s => ?_) ?_
  · extract_lets +onlyGivenNames x1
    refine Only.have_ (t := x1) ?_ fun hx1 => ?_
    · subst x1
      refine Only.step (fset_only 0xa0 0x120 _ _ _ _ rfl rfl rfl) (by decide +kernel) ?_
      exact Only.refl _ _ _
    clear_value x1
    refine Only.ite ?_ ?_
    · assumption
    · refine Only.ite ?_ ?_
      · refine Only.step (offRefused_only _ _) (by decide +kernel) ?_
        assumption
      · extract_lets +onlyGivenNames x2
        refine Only.have_ (t := x2) ?_ fun hx2 => ?_
        · subst x2
          refine Only.step (fset_only 0xa0 0x124 _ _ _ _ rfl rfl rfl) (by decide +kernel) ?_
          refine Only.step (fset_only 0xa0 0x124 _ _ _ _ rfl rfl rfl) (by decide +kernel) ?_
          assumption
        clear_value x2
        refine Only.set_record (by decide +kernel) ?_
        assumption
  · exact Only.refl _ _ _

theorem execPwrCmdInvalid_gives : ∀ a0 a1 s, Gives [.staleMid, .heldOut, .out] [(0x10, 0x880, 0x880), (0xa0, 0x18, 0x18), (0xa0, 0x2c, 0x2c), (0xa0, 0x120, 0x120), (0xa0, 0x124, 0x124), (0xb0, 0x18, 0x18), (0xb0, 0x110, 0x110), (0xb0, 0x114, 0x114), (0xb0, 0x118, 0x118), (0xb0, 0x11c, 0x11c)] s (execPwrCmdInvalid a0 a1 s) := by
  intro a0 a1 s
  unfold execPwrCmdInvalid
  refine Gives.ite ?_ ?_
  · refine Gives.next ?_
    exact Only.refl _ _ _
  · refine Gives.next ?_
    refine guarded_only 0xa0 rfl rfl (by decide +kernel) (fun s => ?_) ?_
    · refine Only.step (offRefused_only _ _) (by decide +kernel) ?_
      refine Only.step (fset_only 0xa0 0x120 _ _ _ _ rfl rfl rfl) (by decide +kernel) ?_
      exact Only.refl _ _ _
    · exact Only.refl _ _ _

theorem writeVote_only : ∀ a0 a1 a2 s, Only [.votes, .heldOut, .out] [(0xa0, 0x18, 0x18)] s (writeVote a0 a1 a2 s) := by
  intro a0 a1 a2 s
  unfold writeVote
  extract_lets +onlyGivenNames x1
  clear_value x1
  refine Only.ite ?_ ?_
  · refine Only.set_votes (by decide +kernel) ?_
    exact Only.refl _ _ _
  · refine Only.ite ?_ ?_
    · refine Only.set_votes (by decide +kernel) ?_
      exact Only.refl _ _ _
    · refine Only.ite ?_ ?_
      · refine Only.step (accessDenied_only 0xa0 _ _ rfl rfl) (by decide +kernel) ?_
        exact Only.refl _ _ _
      · refine Only.set_votes (by decide +kernel) ?_
        exact Only.refl _ _ _

theorem execPfVoteWrite_gives : ∀ a0 a1 a2 s, Gives [.staleMid, .votes, .heldOut, .out] [(0x10, 0x880, 0x880), (0xa0, 0x18, 0x18), (0xa0, 0x2c, 0x2c), (0xb0, 0x18, 0x18), (0xb0, 0x110, 0x110), (0xb0, 0x114, 0x114), (0xb0, 0x118, 0x118), (0xb0, 0x11c, 0x11c)] s (execPfVoteWrite a0 a1 a2 s) := by
  intro a0 a1 a2 s
  unfold execPfVoteWrite
  refine Gives.next ?_
  refine guarded_only 0xa0 rfl rfl (by decide +kernel) (fun s => ?_) ?_
  · refine Only.step (writeVote_only _ _ _ _) (by decide +kernel) ?_
    exact Only.refl _ _ _
  · exact Only.refl _ _ _

theorem execSagMinClr_gives : ∀ a0 s, Gives [.staleMid, .heldOut, .out] [(0x10, 0x880, 0x880), (0xa0, 0x18, 0x18), (0xa0, 0x2c, 0x2c), (0xa0, 0x704, 0x704), (0xb0, 0x18, 0x18), (0xb0, 0x110, 0x110), (0xb0, 0x114, 0x114), (0xb0, 0x118, 0x118), (0xb0, 0x11c, 0x11c)] s (execSagMinClr a0 s) := by
  intro a0 s
  unfold execSagMinClr
  refine Gives.next ?_
  refine guarded_only 0xa0 rfl rfl (by decide +kernel) (fun s => ?_) ?_
  · refine Only.step (fset_only 0xa0 0x704 _ _ _ _ rfl rfl rfl) (by decide +kernel) ?_
    refine Only.step (fset_only 0xa0 0x704 _ _ _ _ rfl rfl rfl) (by decide +kernel) ?_
    exact Only.refl _ _ _
  · exact Only.refl _ _ _

theorem execThmMaxClr_gives : ∀ a0 s, Gives [.staleMid, .heldOut, .out] [(0x10, 0x880, 0x880), (0xa2, 0x18, 0x18), (0xa2, 0x2c, 0x2c), (0xa2, 0x108, 0x108), (0xb0, 0x18, 0x18), (0xb0, 0x110, 0x110), (0xb0, 0x114, 0x114), (0xb0, 0x118, 0x118), (0xb0, 0x11c, 0x11c)] s (execThmMaxClr a0 s) := by
  intro a0 s
  unfold execThmMaxClr
  refine Gives.next ?_
  refine guarded_only 0xa2 rfl rfl (by decide +kernel) (fun s => ?_) ?_
  · refine Only.step (fset_only 0xa2 0x108 _ _ _ _ rfl rfl rfl) (by decide +kernel) ?_
    refine Only.step (fset_only 0xa2 0x108 _ _ _ _ rfl rfl rfl) (by decide +kernel) ?_
    exact Only.refl _ _ _
  · exact Only.refl _ _ _

theorem enterTile_only : ∀ a0 a1 s, Only [.tiles] [] s (enterTile a0 a1 s) := by
  intro a0 a1 s
  unfold enterTile
  refine Only.step (modTile_only _ _ _) (by decide +kernel) ?_
  exact Only.refl _ _ _

theorem execTileIdleEntry_gives : ∀ a0 s, Gives [.tiles] [] s (execTileIdleEntry a0 s) := by
  intro a0 s
  unfold execTileIdleEntry
  refine Gives.ite ?_ ?_
  · refine Gives.next ?_
    refine Only.step (modTile_only _ _ _) (by decide +kernel) ?_
    refine Only.step (enterTile_only _ _ _) (by decide +kernel) ?_
    exact Only.refl _ _ _
  · refine Gives.next ?_
    exact Only.refl _ _ _

theorem execTileDwellExpire_gives : ∀ a0 s, Gives [.timer, .tiles] [] s (execTileDwellExpire a0 s) := by
  intro a0 s
  unfold execTileDwellExpire
  extract_lets +onlyGivenNames x1
  clear_value x1
  extract_lets +onlyGivenNames x2
  clear_value x2
  extract_lets +onlyGivenNames x3
  clear_value x3
  extract_lets +onlyGivenNames x4
  clear_value x4
  refine Gives.ite ?_ ?_
  · refine Gives.next ?_
    exact Only.refl _ _ _
  · refine Gives.next ?_
    refine Only.step (enterTile_only _ _ _) (by decide +kernel) ?_
    refine Only.step (reach_only _ _) (by decide +kernel) ?_
    exact Only.refl _ _ _

theorem movePages_only : ∀ a0 a1 s t, movePages a0 a1 s = some t → Only [.range] [(0x40, 0x110, 0x110)] s t := by
  intro a0 a1 s t h
  revert h
  induction a1 generalizing a0 s t with
  | nil =>
    intro h
    unfold movePages at h
    cases h
    exact Only.refl _ _ _
  | cons x l ih =>
    intro h
    unfold movePages at h
    split at h
    · cases h
    · extract_lets +onlyGivenNames x1 at h
      refine Only.trans ?_ (ih _ _ _ h)
      refine Only.step (wrapInc_only 0x40 0x110 _ _ _ _ rfl rfl rfl rfl) (by decide +kernel) ?_
      refine modRange_only (by first | exact fun r => id | (intro r h; simp only [Range.wf, Bool.and_eq_true] at h ⊢; first | exact h | exact ⟨swf_filter _ _ _ _ h.1, swf_filter _ _ _ _ h.2⟩)) (by decide +kernel) ?_
      refine Only.step (setHome_only _ _ _) (by decide +kernel) ?_
      exact Only.refl _ _ _

theorem moveOut_only : ∀ a0 s t, moveOut a0 s = some t → Only [.range] [(0x40, 0x110, 0x110)] s t := by
  intro a0 s t h
  unfold moveOut at h
  refine Only.step (movePages_only _ _ _ _ h) (by decide +kernel) ?_
  exact Only.refl _ _ _

theorem enterHalf_only : ∀ a0 a1 s, Only [.powerN, .powerS] [] s (enterHalf a0 a1 s) := by
  intro a0 a1 s
  unfold enterHalf
  refine Only.step (setHalfPower_only _ _ _) (by decide +kernel) ?_
  exact Only.refl _ _ _

theorem execHalfDwellExpire_gives : ∀ a0 s, Gives [.timer, .range, .powerN, .powerS] [(0x40, 0x110, 0x110), (0xa0, 0x108, 0x108)] s (execHalfDwellExpire a0 s) := by
  intro a0 s
  unfold execHalfDwellExpire
  extract_lets +onlyGivenNames x1
  clear_value x1
  extract_lets +onlyGivenNames x2
  clear_value x2
  refine Gives.ite ?_ ?_
  · refine Gives.next ?_
    exact Only.refl _ _ _
  · extract_lets +onlyGivenNames x3
    refine Gives.have_ (t := x3) ?_ fun hx3 => ?_
    · subst x3
      refine Only.step (reach_only _ _) (by decide +kernel) ?_
      exact Only.refl _ _ _
    clear_value x3
    refine Gives.ite ?_ ?_
    · split
      · refine Gives.next ?_
        refine Only.step (enterHalf_only _ _ _) (by decide +kernel) ?_
        refine Only.step (fset_only 0xa0 0x108 _ _ _ _ rfl rfl rfl) (by decide +kernel) ?_
        refine Only.step (moveOut_only _ _ _ ‹_›) (by decide +kernel) ?_
        assumption
      · extract_lets +onlyGivenNames x4
        refine Gives.have_ (t := x4) ?_ fun hx4 => ?_
        · subst x4
          refine Only.step (fset_only 0xa0 0x108 _ _ _ _ rfl rfl rfl) (by decide +kernel) ?_
          assumption
        clear_value x4
        refine Gives.next ?_
        refine Only.ite ?_ ?_
        · refine Only.step (enterHalf_only _ _ _) (by decide +kernel) ?_
          assumption
        · assumption
    · refine Gives.next ?_
      refine Only.step (enterHalf_only _ _ _) (by decide +kernel) ?_
      assumption

theorem tileEntered_only : ∀ a0 a1 s, Only [.tiles] [(0x20, 0x320, 0x320)] s (tileEntered a0 a1 s) := by
  intro a0 a1 s
  unfold tileEntered
  extract_lets +onlyGivenNames x1
  clear_value x1
  extract_lets +onlyGivenNames x2
  refine Only.have_ (t := x2) ?_ fun hx2 => ?_
  · subst x2
    refine Only.step (fset_only 0x20 0x320 _ _ _ _ rfl rfl rfl) (by decide +kernel) ?_
    exact Only.refl _ _ _
  clear_value x2
  refine Only.step (modTile_only _ _ _) (by decide +kernel) ?_
  assumption

theorem halfEntered_only : ∀ a0 a1 s, Only [.tiles, .powerN, .powerS, .heldOut, .out] [(0xa0, 0x18, 0x18)] s (halfEntered a0 a1 s) := by
  intro a0 a1 s
  unfold halfEntered
  extract_lets +onlyGivenNames x1
  clear_value x1
  extract_lets +onlyGivenNames x2
  refine Only.have_ (t := x2) ?_ fun hx2 => ?_
  · subst x2
    refine Only.step (setHalfPower_only _ _ _) (by decide +kernel) ?_
    exact Only.refl _ _ _
  clear_value x2
  extract_lets +onlyGivenNames x3
  refine Only.have_ (t := x3) ?_ fun hx3 => ?_
  · subst x3
    refine Only.ite ?_ ?_
    · refine Only.foldl (fun s x => ?_) ?_
      · refine Only.step (modTile_only _ _ _) (by decide +kernel) ?_
        exact Only.refl _ _ _
      · assumption
    · assumption
  clear_value x3
  refine Only.step (raise_only 0xa0 _ _ _ rfl rfl) (by decide +kernel) ?_
  assumption

theorem execLevelEntryComplete_gives : ∀ a0 s, Gives [.tiles, .mail, .powerN, .powerS, .heldOut, .out] [(0x20, 0x320, 0x320), (0xa0, 0x18, 0x18)] s (execLevelEntryComplete a0 s) := by
  intro a0 s
  unfold execLevelEntryComplete
  split
  · split
    · refine Gives.next ?_
      refine withPeers_only (by decide +kernel) (fun s => ?_) ?_
      · refine Only.step (halfEntered_only _ _ _) (by decide +kernel) ?_
        exact Only.refl _ _ _
      · exact Only.refl _ _ _
    · refine Gives.next ?_
      exact Only.refl _ _ _
  · split
    · refine Gives.next ?_
      refine Only.step (tileEntered_only _ _ _) (by decide +kernel) ?_
      exact Only.refl _ _ _
    · refine Gives.next ?_
      exact Only.refl _ _ _

theorem execWake_gives : ∀ a0 s, Gives [.pins, .phase, .tiles, .mail, .powerN, .powerS, .heldOut, .out] [(0xa0, 0x18, 0x18), (0xa1, 0x18, 0x18), (0xa1, 0x100, 0x100), (0xa1, 0x104, 0x104), (0xa1, 0x108, 0x108), (0xa1, 0x11c, 0x11c)] s (execWake a0 s) := by
  intro a0 s
  unfold execWake
  refine Gives.next ?_
  refine withPeers_only (by decide +kernel) (fun s => ?_) ?_
  · refine Only.step (wakeBy_only _ _ _) (by decide +kernel) ?_
    exact Only.refl _ _ _
  · exact Only.refl _ _ _

theorem execWakeAtReached_gives : ∀ s, Gives [.pins, .phase, .timer, .tiles, .mail, .powerN, .powerS, .heldOut, .out] [(0xa0, 0x18, 0x18), (0xa1, 0x18, 0x18), (0xa1, 0x100, 0x100), (0xa1, 0x104, 0x104), (0xa1, 0x108, 0x108), (0xa1, 0x11c, 0x11c)] s (execWakeAtReached s) := by
  intro s
  unfold execWakeAtReached
  extract_lets +onlyGivenNames x1
  clear_value x1
  refine Gives.ite ?_ ?_
  · refine Gives.next ?_
    exact Only.refl _ _ _
  · refine Gives.next ?_
    refine withPeers_only (by decide +kernel) (fun s => ?_) ?_
    · refine Only.step (wakeBy_only _ _ _) (by decide +kernel) ?_
      exact Only.refl _ _ _
    · refine Only.step (reach_only _ _) (by decide +kernel) ?_
      exact Only.refl _ _ _

theorem tileRuns_only : ∀ a0 s, Only [.tiles] [(0x20, 0x320, 0x320)] s (tileRuns a0 s) := by
  intro a0 s
  unfold tileRuns
  extract_lets +onlyGivenNames x1
  clear_value x1
  extract_lets +onlyGivenNames x2
  refine Only.have_ (t := x2) ?_ fun hx2 => ?_
  · subst x2
    refine Only.step (modTile_only _ _ _) (by decide +kernel) ?_
    exact Only.refl _ _ _
  clear_value x2
  extract_lets +onlyGivenNames x3
  refine Only.have_ (t := x3) ?_ fun hx3 => ?_
  · subst x3
    refine Only.step (fset_only 0x20 0x320 _ _ _ _ rfl rfl rfl) (by decide +kernel) ?_
    assumption
  clear_value x3
  refine Only.ite ?_ ?_
  · refine Only.foldl (fun s x => ?_) ?_
    · refine Only.step (calibrated_only _ _ _) (by decide +kernel) ?_
      exact Only.refl _ _ _
    · assumption
  · assumption

theorem reloadHalf_only : ∀ a0 s, Only [.tiles, .mesh, .rowBus, .scaleBus, .range, .heldOut, .out] [(0x20, 0x18, 0x18), (0x20, 0x15c, 0x15c), (0x20, 0x410, 0x410), (0x20, 0x414, 0x414), (0x20, 0x418, 0x418), (0x20, 0x41c, 0x41c), (0x20, 0x420, 0x420), (0x40, 0x130, 0x130)] s (reloadHalf a0 s) := by
  intro a0 s
  unfold reloadHalf
  refine Only.foldl (fun s x => ?_) ?_
  · split
    · exact Only.refl _ _ _
    · split
      · exact Only.refl _ _ _
      · refine Only.ite ?_ ?_
        · exact Only.refl _ _ _
        · refine Only.foldl (fun s x => ?_) ?_
          · extract_lets +onlyGivenNames x1
            clear_value x1
            extract_lets +onlyGivenNames x2
            clear_value x2
            refine Only.ite ?_ ?_
            · refine Only.step (loadBank_only _ _ _ _ _ _) (by decide +kernel) ?_
              exact Only.refl _ _ _
            · exact Only.refl _ _ _
          · exact Only.refl _ _ _
  · exact Only.refl _ _ _

theorem execLevelExitComplete_gives : ∀ a0 s, Gives [.tiles, .mesh, .rowBus, .scaleBus, .range, .mail, .powerN, .powerS, .heldOut, .out] [(0x20, 0x18, 0x18), (0x20, 0x15c, 0x15c), (0x20, 0x320, 0x320), (0x20, 0x410, 0x410), (0x20, 0x414, 0x414), (0x20, 0x418, 0x418), (0x20, 0x41c, 0x41c), (0x20, 0x420, 0x420), (0x40, 0x130, 0x130), (0xa0, 0x18, 0x18)] s (execLevelExitComplete a0 s) := by
  intro a0 s
  unfold execLevelExitComplete
  split
  · refine Gives.ite ?_ ?_
    · refine Gives.next ?_
      exact Only.refl _ _ _
    · refine Gives.next ?_
      refine withPeers_only (by decide +kernel) (fun s => ?_) ?_
      · extract_lets +onlyGivenNames x1
        refine Only.have_ (t := x1) ?_ fun hx1 => ?_
        · subst x1
          refine Only.step (setHalfPower_only _ _ _) (by decide +kernel) ?_
          exact Only.refl _ _ _
        clear_value x1
        extract_lets +onlyGivenNames x2
        refine Only.have_ (t := x2) ?_ fun hx2 => ?_
        · subst x2
          refine Only.foldl (fun s x => ?_) ?_
          · refine Only.ite ?_ ?_
            · exact Only.refl _ _ _
            · refine Only.step (tileRuns_only _ _) (by decide +kernel) ?_
              exact Only.refl _ _ _
          · assumption
        clear_value x2
        refine Only.step (raise_only 0xa0 _ _ _ rfl rfl) (by decide +kernel) ?_
        refine Only.step (reloadHalf_only _ _) (by decide +kernel) ?_
        assumption
      · exact Only.refl _ _ _
  · refine Gives.ite ?_ ?_
    · refine Gives.next ?_
      refine Only.step (tileRuns_only _ _) (by decide +kernel) ?_
      exact Only.refl _ _ _
    · refine Gives.next ?_
      exact Only.refl _ _ _

theorem takeSave_only : ∀ s, Only [.save] [(0xa1, 0x118, 0x118)] s (takeSave s) := by
  intro s
  unfold takeSave
  extract_lets +onlyGivenNames x1
  clear_value x1
  extract_lets +onlyGivenNames x2
  clear_value x2
  refine Only.step (satInc_only 0xa1 0x118 _ _ _ _ rfl rfl rfl rfl) (by decide +kernel) ?_
  refine Only.step (fset_only 0xa1 0x118 _ _ _ _ rfl rfl rfl) (by decide +kernel) ?_
  refine Only.step (fset_only 0xa1 0x118 _ _ _ _ rfl rfl rfl) (by decide +kernel) ?_
  refine Only.set_save (by decide +kernel) ?_
  exact Only.refl _ _ _

theorem goOff_only : ∀ s, Only ([Fld.pins, Fld.phase, Fld.regs, Fld.latched, Fld.causes, Fld.staleMid, Fld.tiles, Fld.sram, Fld.sramPoison, Fld.mesh, Fld.rowBus, Fld.scaleBus, Fld.range, Fld.zip, Fld.packed, Fld.bindings, Fld.reqs, Fld.chans, Fld.serials, Fld.handles] ++ [Fld.versions, Fld.rallies, Fld.selects, Fld.deferred, Fld.ws, Fld.mail, Fld.hostFns, Fld.badSlots, Fld.parity, Fld.powerN, Fld.powerS, Fld.votes, Fld.samples, Fld.lowSamples, Fld.ring, Fld.qps, Fld.heldOut, Fld.complexN, Fld.complexS, Fld.update] ++ [Fld.restores, Fld.free] : List Fld) [] s (goOff s) := by
  intro s
  unfold goOff
  extract_lets +onlyGivenNames x1
  clear_value x1
  extract_lets +onlyGivenNames x2
  refine Only.have_ (t := x2) ?_ fun hx2 => ?_
  · subst x2
    refine Only.step (coreLoss_only _) (by decide +kernel) ?_
    exact Only.refl _ _ _
  clear_value x2
  refine Only.set_pins_phase (by decide +kernel) ?_
  assumption

theorem execStateSave_gives : ∀ s, Gives ([Fld.pins, Fld.phase, Fld.regs, Fld.latched, Fld.causes, Fld.staleMid, Fld.tiles, Fld.sram, Fld.sramPoison, Fld.mesh, Fld.rowBus, Fld.scaleBus, Fld.range, Fld.zip, Fld.packed, Fld.bindings, Fld.reqs, Fld.chans, Fld.serials, Fld.handles] ++ [Fld.versions, Fld.rallies, Fld.selects, Fld.deferred, Fld.ws, Fld.mail, Fld.hostFns, Fld.badSlots, Fld.parity, Fld.powerN, Fld.powerS, Fld.votes, Fld.samples, Fld.lowSamples, Fld.ring, Fld.qps, Fld.heldOut, Fld.complexN, Fld.complexS, Fld.update] ++ [Fld.restores, Fld.save, Fld.free] : List Fld) [] s (execStateSave s) := by
  intro s
  unfold execStateSave
  extract_lets +onlyGivenNames x1
  refine Gives.ite ?_ ?_
  · refine Gives.next ?_
    refine Only.step (goOff_only _) (by decide +kernel) ?_
    refine Only.step (takeSave_only _) (by decide +kernel) ?_
    exact Only.refl _ _ _
  · refine Gives.ite ?_ ?_
    · refine Gives.next ?_
      refine Only.step (takeSave_only _) (by decide +kernel) ?_
      exact Only.refl _ _ _
    · refine Gives.next ?_
      exact Only.refl _ _ _

theorem execStateRestore_gives : ∀ a0 s, Gives [.regs, .votes, .boot, .save] [] s (execStateRestore a0 s) := by
  intro a0 s
  unfold execStateRestore
  extract_lets +onlyGivenNames x1
  clear_value x1
  extract_lets +onlyGivenNames x2
  clear_value x2
  split
  · refine Gives.next ?_
    exact Only.refl _ _ _
  · refine Gives.ite ?_ ?_
    · refine Gives.next ?_
      refine Only.step (restoreSave_only _ _ _) (by decide +kernel) ?_
      exact Only.refl _ _ _
    · refine Gives.ite ?_ ?_
      · refine Gives.next ?_
        exact Only.refl _ _ _
      · extract_lets +onlyGivenNames x3
        refine Gives.have_ (t := x3) ?_ fun hx3 => ?_
        · subst x3
          refine Only.step (fset_only 0xa1 0x118 _ _ _ _ rfl rfl rfl) (by decide +kernel) ?_
          exact Only.refl _ _ _
        clear_value x3
        refine Gives.next ?_
        refine Only.ite ?_ ?_
        · refine Only.foldl (fun s x => ?_) ?_
          · refine Only.step (badGroup_only _ _ _) (by decide +kernel) ?_
            exact Only.refl _ _ _
          · assumption
        · assumption

theorem setPassLimit_only : ∀ s, Only [] [(0xa0, 0x144, 0x144)] s (setPassLimit s) := by
  intro s
  unfold setPassLimit
  extract_lets +onlyGivenNames x1
  clear_value x1
  extract_lets +onlyGivenNames x2
  clear_value x2
  extract_lets +onlyGivenNames x3
  clear_value x3
  refine Only.step (fset_only 0xa0 0x144 _ _ _ _ rfl rfl rfl) (by decide +kernel) ?_
  exact Only.refl _ _ _

theorem Only.set_samples_lowSamples : ∀ {m : List Fld} {r : List RegSpan} {s t : State} {v0 v1}, [.samples, .lowSamples].all (fun x => m.contains x) = true → Only m r s t → Only m r s { t with samples := v0, lowSamples := v1 } := by
  intro m r s t v0 v1 hm h
  refine h.trans ⟨fun x hx _ => ?_, fun _ _ _ => rfl, fun c => c⟩
  cases x <;> first | rfl | exact absurd (List.contains_iff_mem.mp (List.all_eq_true.mp hm _ (by simp))) hx

theorem execPowerSample_gives : ∀ a0 s, Gives [.samples, .lowSamples, .heldOut, .out] [(0xa0, 0x18, 0x18), (0xa0, 0x144, 0x144), (0xa0, 0x148, 0x148)] s (execPowerSample a0 s) := by
  intro a0 s
  unfold execPowerSample
  refine Gives.ite ?_ ?_
  · refine Gives.next ?_
    exact Only.refl _ _ _
  · extract_lets +onlyGivenNames x1
    clear_value x1
    extract_lets +onlyGivenNames x2
    clear_value x2
    extract_lets +onlyGivenNames x3
    clear_value x3
    extract_lets +onlyGivenNames x4
    clear_value x4
    extract_lets +onlyGivenNames x5
    clear_value x5
    extract_lets +onlyGivenNames x6
    clear_value x6
    extract_lets +onlyGivenNames x7
    refine Gives.have_ (t := x7) ?_ fun hx7 => ?_
    · subst x7
      refine Only.set_samples_lowSamples (by decide +kernel) ?_
      exact Only.refl _ _ _
    clear_value x7
    extract_lets +onlyGivenNames x8
    refine Gives.have_ (t := x8) ?_ fun hx8 => ?_
    · subst x8
      refine Only.step (fset_only 0xa0 0x144 _ _ _ _ rfl rfl rfl) (by decide +kernel) ?_
      refine Only.step (fset_only 0xa0 0x144 _ _ _ _ rfl rfl rfl) (by decide +kernel) ?_
      assumption
    clear_value x8
    extract_lets +onlyGivenNames x9
    refine Gives.have_ (t := x9) ?_ fun hx9 => ?_
    · subst x9
      refine Only.ite ?_ ?_
      · refine Only.step (raise_only 0xa0 _ _ _ rfl rfl) (by decide +kernel) ?_
        refine Only.step (satInc_only 0xa0 0x148 _ _ _ _ rfl rfl rfl rfl) (by decide +kernel) ?_
        assumption
      · assumption
    clear_value x9
    refine Gives.next ?_
    refine Only.step (setPassLimit_only _) (by decide +kernel) ?_
    assumption

theorem throttle_only : ∀ s, Only [.heldOut, .out] [(0xa0, 0x18, 0x18), (0xa0, 0x144, 0x144), (0xa0, 0x148, 0x148)] s (throttle s) := by
  intro s
  unfold throttle
  extract_lets +onlyGivenNames x1
  clear_value x1
  extract_lets +onlyGivenNames x2
  clear_value x2
  extract_lets +onlyGivenNames x3
  clear_value x3
  extract_lets +onlyGivenNames x4
  refine Only.have_ (t := x4) ?_ fun hx4 => ?_
  · subst x4
    refine Only.step (fset_only 0xa0 0x144 _ _ _ _ rfl rfl rfl) (by decide +kernel) ?_
    exact Only.refl _ _ _
  clear_value x4
  refine Only.step (setPassLimit_only _) (by decide +kernel) ?_
  refine Only.ite ?_ ?_
  · refine Only.step (raise_only 0xa0 _ _ _ rfl rfl) (by decide +kernel) ?_
    refine Only.step (satInc_only 0xa0 0x148 _ _ _ _ rfl rfl rfl rfl) (by decide +kernel) ?_
    assumption
  · assumption

theorem markFailed_only : ∀ a0 s, Only [.heldOut, .out] [(0xa2, 0x18, 0x18), (0xa2, 0x110, 0x110), (0xa2, 0x114, 0x114)] s (markFailed a0 s) := by
  intro a0 s
  unfold markFailed
  extract_lets +onlyGivenNames x1
  refine Only.step (raise_only 0xa2 _ _ _ rfl rfl) (by decide +kernel) ?_
  subst x1
  split
  · refine Only.step (fset_only 0xa2 0x110 _ _ _ _ rfl rfl rfl) (by decide +kernel) ?_
    exact Only.refl _ _ _
  · refine Only.step (fset_only 0xa2 0x114 _ _ _ _ rfl rfl rfl) (by decide +kernel) ?_
    exact Only.refl _ _ _

theorem useReading_only : ∀ a0 s, Only [.tiles, .heldOut, .out] [(0x20, 0x18, 0x18), (0x20, 0x104, 0x104), (0x20, 0x160, 0x160), (0xa0, 0x18, 0x18), (0xa0, 0x144, 0x144), (0xa0, 0x148, 0x148), (0xa2, 0x18, 0x18), (0xa2, 0x108, 0x108)] s (useReading a0 s) := by
  intro a0 s
  unfold useReading
  extract_lets +onlyGivenNames x1
  clear_value x1
  extract_lets +onlyGivenNames x2
  refine Only.have_ (t := x2) ?_ fun hx2 => ?_
  · subst x2
    refine Only.ite ?_ ?_
    · refine Only.step (fset_only 0xa2 0x108 _ _ _ _ rfl rfl rfl) (by decide +kernel) ?_
      refine Only.step (fset_only 0xa2 0x108 _ _ _ _ rfl rfl rfl) (by decide +kernel) ?_
      exact Only.refl _ _ _
    · exact Only.refl _ _ _
  clear_value x2
  extract_lets +onlyGivenNames x3
  refine Only.have_ (t := x3) ?_ fun hx3 => ?_
  · subst x3
    refine Only.ite ?_ ?_
    · refine Only.step (raise_only 0xa2 _ _ _ rfl rfl) (by decide +kernel) ?_
      assumption
    · assumption
  clear_value x3
  refine Only.ite ?_ ?_
  · assumption
  · extract_lets +onlyGivenNames x4
    clear_value x4
    refine Only.step (throttle_only _) (by decide +kernel) ?_
    refine Only.foldl (fun s x => ?_) ?_
    · refine Only.ite ?_ ?_
      · refine Only.step (thermalHold_only _ _) (by decide +kernel) ?_
        exact Only.refl _ _ _
      · exact Only.refl _ _ _
    · assumption

theorem execThermalSensorReading_gives : ∀ a0 a1 s, Gives [.tiles, .heldOut, .sensors, .out] [(0x20, 0x18, 0x18), (0x20, 0x104, 0x104), (0x20, 0x160, 0x160), (0xa0, 0x18, 0x18), (0xa0, 0x144, 0x144), (0xa0, 0x148, 0x148), (0xa2, 0x18, 0x18), (0xa2, 0x108, 0x108), (0xa2, 0x110, 0x110), (0xa2, 0x114, 0x114)] s (execThermalSensorReading a0 a1 s) := by
  intro a0 a1 s
  unfold execThermalSensorReading
  refine Gives.ite ?_ ?_
  · refine Gives.next ?_
    exact Only.refl _ _ _
  · extract_lets +onlyGivenNames x1
    clear_value x1
    extract_lets +onlyGivenNames x2
    clear_value x2
    extract_lets +onlyGivenNames x3
    refine Only.haveFn (P := fun x => ∀ y3_0 y3_1, Only [.tiles, .heldOut, .sensors, .out] [(0x20, 0x18, 0x18), (0x20, 0x104, 0x104), (0x20, 0x160, 0x160), (0xa0, 0x18, 0x18), (0xa0, 0x144, 0x144), (0xa0, 0x148, 0x148), (0xa2, 0x18, 0x18), (0xa2, 0x108, 0x108), (0xa2, 0x110, 0x110), (0xa2, 0x114, 0x114)] y3_1 (x y3_0 y3_1)) (t := x3) ?_ fun hx3 => ?_
    · intro y3_0 y3_1
      subst x3
      dsimp -zeta only
      refine Only.set_sensors (by decide +kernel) ?_
      exact Only.refl _ _ _
    clear_value x3
    extract_lets +onlyGivenNames x4
    refine Gives.have_ (t := x4) ?_ fun hx4 => ?_
    · subst x4
      refine Only.trans ?_ (hx3 ..)
      exact Only.refl _ _ _
    clear_value x4
    extract_lets +onlyGivenNames x5
    refine Gives.have_ (t := x5) ?_ fun hx5 => ?_
    · subst x5
      refine Only.ite ?_ ?_
      · refine Only.ite ?_ ?_
        · assumption
        · refine Only.step (markFailed_only _ _) (by decide +kernel) ?_
          assumption
      · refine Only.trans ?_ (hx3 ..)
        exact Only.refl _ _ _
    clear_value x5
    refine Gives.next ?_
    refine Only.step (useReading_only _ _) (by decide +kernel) ?_
    assumption

theorem execBoostChange_gives : ∀ a0 s, Gives [.tiles] [] s (execBoostChange a0 s) := by
  intro a0 s
  unfold execBoostChange
  refine Gives.ite ?_ ?_
  · refine Gives.next ?_
    refine Only.step (modTile_only _ _ _) (by decide +kernel) ?_
    exact Only.refl _ _ _
  · refine Gives.next ?_
    exact Only.refl _ _ _

theorem noteSag_only : ∀ a0 a1 s, Only [] [(0xa0, 0x704, 0x704)] s (noteSag a0 a1 s) := by
  intro a0 a1 s
  unfold noteSag
  extract_lets +onlyGivenNames x1
  subst x1
  split
  · refine Only.step (fset_only 0xa0 0x704 _ _ _ _ rfl rfl rfl) (by decide +kernel) ?_
    exact Only.refl _ _ _
  · refine Only.step (fset_only 0xa0 0x704 _ _ _ _ rfl rfl rfl) (by decide +kernel) ?_
    exact Only.refl _ _ _

theorem execSagWarn_gives : ∀ a0 a1 s, Gives [.heldOut, .out] [(0xa0, 0x18, 0x18), (0xa0, 0x144, 0x144), (0xa0, 0x700, 0x700), (0xa0, 0x704, 0x704), (0xa0, 0x708, 0x708)] s (execSagWarn a0 a1 s) := by
  intro a0 a1 s
  unfold execSagWarn
  refine Gives.ite ?_ ?_
  · refine Gives.next ?_
    exact Only.refl _ _ _
  · extract_lets +onlyGivenNames x1
    refine Gives.have_ (t := x1) ?_ fun hx1 => ?_
    · subst x1
      refine Only.step (noteSag_only _ _ _) (by decide +kernel) ?_
      exact Only.refl _ _ _
    clear_value x1
    extract_lets +onlyGivenNames x2
    refine Gives.have_ (t := x2) ?_ fun hx2 => ?_
    · subst x2
      split
      · refine Only.step (fset_only 0xa0 0x700 _ _ _ _ rfl rfl rfl) (by decide +kernel) ?_
        assumption
      · refine Only.step (fset_only 0xa0 0x700 _ _ _ _ rfl rfl rfl) (by decide +kernel) ?_
        assumption
    clear_value x2
    refine Gives.ite ?_ ?_
    · refine Gives.next ?_
      assumption
    · extract_lets +onlyGivenNames x3
      refine Gives.have_ (t := x3) ?_ fun hx3 => ?_
      · subst x3
        refine Only.step (fset_only 0xa0 0x18 _ _ _ _ rfl rfl rfl) (by decide +kernel) ?_
        refine Only.step (wrapInc_only 0xa0 0x708 _ _ _ _ rfl rfl rfl rfl) (by decide +kernel) ?_
        refine Only.step (fset_only 0xa0 0x700 _ _ _ _ rfl rfl rfl) (by decide +kernel) ?_
        assumption
      clear_value x3
      refine Gives.next ?_
      refine Only.step (setPassLimit_only _) (by decide +kernel) ?_
      refine Only.foldl (fun s x => ?_) ?_
      · refine Only.step (interrupt_only _ _ _) (by decide +kernel) ?_
        exact Only.refl _ _ _
      · assumption

theorem execSagClear_gives : ∀ s, Gives [.heldOut, .out] [(0xa0, 0x18, 0x18), (0xa0, 0x144, 0x144), (0xa0, 0x700, 0x700)] s (execSagClear s) := by
  intro s
  unfold execSagClear
  refine Gives.ite ?_ ?_
  · refine Gives.next ?_
    exact Only.refl _ _ _
  · extract_lets +onlyGivenNames x1
    refine Gives.have_ (t := x1) ?_ fun hx1 => ?_
    · subst x1
      refine Only.step (fset_only 0xa0 0x700 _ _ _ _ rfl rfl rfl) (by decide +kernel) ?_
      refine Only.step (fset_only 0xa0 0x700 _ _ _ _ rfl rfl rfl) (by decide +kernel) ?_
      refine Only.step (fset_only 0xa0 0x700 _ _ _ _ rfl rfl rfl) (by decide +kernel) ?_
      exact Only.refl _ _ _
    clear_value x1
    refine Gives.next ?_
    refine Only.step (raise_only 0xa0 _ _ _ rfl rfl) (by decide +kernel) ?_
    refine Only.step (setPassLimit_only _) (by decide +kernel) ?_
    assumption


end Sys2Proof.Machine
end

