-- ==== Sys2Proof/Laws/OnlyBoot.lean ====
section
/-! SUPPORT. What the operations and the meanings of Machine/Boot.lean can change (`Only`, `Gives`): the parts of the state and the
registers, whatever the operands are. -/

namespace Sys2Proof.Machine

set_option linter.unusedSimpArgs false
set_option maxRecDepth 20000
set_option Elab.async false

theorem deviceReset_only : ∀ a0 s, Only ([Fld.pins, Fld.phase, Fld.regs, Fld.latched, Fld.causes, Fld.staleMid, Fld.tiles, Fld.sram, Fld.sramPoison, Fld.mesh, Fld.rowBus, Fld.scaleBus, Fld.range, Fld.zip, Fld.packed, Fld.bindings, Fld.reqs, Fld.chans, Fld.serials, Fld.handles] ++ [Fld.versions, Fld.rallies, Fld.selects, Fld.deferred, Fld.ws, Fld.mail, Fld.hostFns, Fld.badSlots, Fld.parity, Fld.powerN, Fld.powerS, Fld.votes, Fld.samples, Fld.lowSamples, Fld.ring, Fld.qps, Fld.heldOut, Fld.replicaN, Fld.replicaS, Fld.complexN] ++ [Fld.complexS, Fld.update, Fld.boot, Fld.restores, Fld.sensors, Fld.save, Fld.record, Fld.free] : List Fld) [] s (deviceReset a0 s) := by
  intro a0 s
  unfold deviceReset
  extract_lets +onlyGivenNames x1
  clear_value x1
  extract_lets +onlyGivenNames x2
  refine Only.have_ (t := x2) ?_ fun hx2 => ?_
  · subst x2
    refine Only.step (coreLoss_only _) (by decide +kernel) ?_
    refine Only.ofParts (t := s) (fun x hx => ?_) rfl id (Only.refl _ _ _)
    cases x <;> first | rfl | exact absurd (by decide +kernel) hx
  have hc : canonical s = true → canonical { x2 with
      regs := aonAfterReset s, phase := .resetHeld, causes := s.causes.filter fun c => decide (c.1 = pageNum .aon),
      pins := { s.pins with resetL := decide (a0 = 1), railEn := true,
                            thermTrip := decide (a0 = 4) || (x1 && s.pins.thermTrip) },
      sensors := s.sensors.map fun x => (x.1, { x.2 with failed := false }) } = true := fun h => by
    have k := hx2.keeps h
    rw [canonical_eq] at h k ⊢
    exact ⟨swf_filter _ _ _ _ h.1, k.2⟩
  clear_value x2
  refine Only.step (fset_only 0xa1 0x118 _ _ _ _ rfl rfl rfl) (by decide +kernel) ?_
  refine Only.step (fset_only 0xa1 0x10c _ _ _ _ rfl rfl rfl) (by decide +kernel) ?_
  refine ⟨fun x hx hr => ?_, fun n => absurd (by decide +kernel) n, hc⟩
  have := hx2.parts x hx hr
  cases x <;> first | exact this | exact absurd (by decide +kernel) hx

theorem Only.set_timer_timerFrac_regs_causes_releasedAt : ∀ {m : List Fld} {r : List RegSpan} {s t : State} {v0 v1 v2 v3 v4}, [.timer, .timerFrac, .regs, .causes, .releasedAt].all (fun x => m.contains x) = true → (canonical t = true → canonical { t with timer := v0, timerFrac := v1, regs := v2, causes := v3, releasedAt := v4 } = true) → Only m r s t → Only m r s { t with timer := v0, timerFrac := v1, regs := v2, causes := v3, releasedAt := v4 } := by
  intro m r s t v0 v1 v2 v3 v4 hm hc h
  refine h.trans ⟨fun x hx _ => ?_, fun n => absurd (List.contains_iff_mem.mp (List.all_eq_true.mp hm _ (by simp))) n, hc⟩
  cases x <;> first | rfl | exact absurd (List.contains_iff_mem.mp (List.all_eq_true.mp hm _ (by simp))) hx

theorem powerOn_only : ∀ s, Only ([Fld.pins, Fld.phase, Fld.timer, Fld.timerFrac, Fld.regs, Fld.latched, Fld.causes, Fld.staleMid, Fld.tiles, Fld.sram, Fld.sramPoison, Fld.mesh, Fld.rowBus, Fld.scaleBus, Fld.range, Fld.zip, Fld.packed, Fld.bindings, Fld.reqs, Fld.chans] ++ [Fld.serials, Fld.handles, Fld.versions, Fld.rallies, Fld.selects, Fld.deferred, Fld.ws, Fld.mail, Fld.hostFns, Fld.badSlots, Fld.parity, Fld.powerN, Fld.powerS, Fld.votes, Fld.samples, Fld.lowSamples, Fld.ring, Fld.qps, Fld.heldOut, Fld.replicaN] ++ [Fld.replicaS, Fld.complexN, Fld.complexS, Fld.update, Fld.boot, Fld.restores, Fld.releasedAt, Fld.sensors, Fld.save, Fld.record, Fld.free] : List Fld) [] s (powerOn s) := by
  intro s
  unfold powerOn
  extract_lets +onlyGivenNames x1
  refine Only.have_ (t := x1) ?_ fun hx1 => ?_
  · subst x1
    refine Only.step (deviceReset_only _ _) (by decide +kernel) ?_
    refine Only.set_regs (by decide +kernel) (by
      intro h; rw [canonical_eq] at h ⊢; obtain ⟨c1, c2, c3, c4, c5⟩ := h
      refine ⟨?_, ?_, ?_, ?_, ?_⟩ <;> first | assumption | rfl | exact swf_ssetAll _ _ _ _ ‹_› | exact swf_put _ _ _ _ ‹_› | exact swf_puts _ _ _ _ _ ‹_› | exact swf_filter _ _ _ _ ‹_› | (dsimp only; first | assumption | rfl | exact swf_ssetAll _ _ _ _ ‹_› | exact swf_put _ _ _ _ ‹_› | exact swf_puts _ _ _ _ _ ‹_› | exact swf_filter _ _ _ _ ‹_›)) ?_
    exact Only.refl _ _ _
  clear_value x1
  refine Only.set_timer_timerFrac_regs_causes_releasedAt (by decide +kernel) (by
      intro h; rw [canonical_eq] at h ⊢; obtain ⟨c1, c2, c3, c4, c5⟩ := h
      refine ⟨?_, ?_, ?_, ?_, ?_⟩ <;> first | assumption | rfl | exact swf_ssetAll _ _ _ _ ‹_› | exact swf_put _ _ _ _ ‹_› | exact swf_puts _ _ _ _ _ ‹_› | exact swf_filter _ _ _ _ ‹_› | (dsimp only; first | assumption | rfl | exact swf_ssetAll _ _ _ _ ‹_› | exact swf_put _ _ _ _ ‹_› | exact swf_puts _ _ _ _ _ ‹_› | exact swf_filter _ _ _ _ ‹_›)) ?_
  assumption

theorem execPowerOnReset_gives : ∀ s, Gives ([Fld.pins, Fld.phase, Fld.timer, Fld.timerFrac, Fld.regs, Fld.latched, Fld.causes, Fld.staleMid, Fld.tiles, Fld.sram, Fld.sramPoison, Fld.mesh, Fld.rowBus, Fld.scaleBus, Fld.range, Fld.zip, Fld.packed, Fld.bindings, Fld.reqs, Fld.chans] ++ [Fld.serials, Fld.handles, Fld.versions, Fld.rallies, Fld.selects, Fld.deferred, Fld.ws, Fld.mail, Fld.hostFns, Fld.badSlots, Fld.parity, Fld.powerN, Fld.powerS, Fld.votes, Fld.samples, Fld.lowSamples, Fld.ring, Fld.qps, Fld.heldOut, Fld.replicaN] ++ [Fld.replicaS, Fld.complexN, Fld.complexS, Fld.update, Fld.boot, Fld.restores, Fld.releasedAt, Fld.sensors, Fld.save, Fld.record, Fld.free] : List Fld) [] s (execPowerOnReset s) := by
  intro s
  unfold execPowerOnReset
  refine Gives.next ?_
  refine Only.step (powerOn_only _) (by decide +kernel) ?_
  exact Only.refl _ _ _

theorem execExternalReset_gives : ∀ s, Gives ([Fld.pins, Fld.phase, Fld.regs, Fld.latched, Fld.causes, Fld.staleMid, Fld.tiles, Fld.sram, Fld.sramPoison, Fld.mesh, Fld.rowBus, Fld.scaleBus, Fld.range, Fld.zip, Fld.packed, Fld.bindings, Fld.reqs, Fld.chans, Fld.serials, Fld.handles] ++ [Fld.versions, Fld.rallies, Fld.selects, Fld.deferred, Fld.ws, Fld.mail, Fld.hostFns, Fld.badSlots, Fld.parity, Fld.powerN, Fld.powerS, Fld.votes, Fld.samples, Fld.lowSamples, Fld.ring, Fld.qps, Fld.heldOut, Fld.replicaN, Fld.replicaS, Fld.complexN] ++ [Fld.complexS, Fld.update, Fld.boot, Fld.restores, Fld.sensors, Fld.save, Fld.record, Fld.free] : List Fld) [] s (execExternalReset s) := by
  intro s
  unfold execExternalReset
  refine Gives.next ?_
  refine Only.step (deviceReset_only _ _) (by decide +kernel) ?_
  exact Only.refl _ _ _

theorem execSagReset_gives : ∀ a0 a1 s, Gives ([Fld.pins, Fld.phase, Fld.regs, Fld.latched, Fld.causes, Fld.staleMid, Fld.tiles, Fld.sram, Fld.sramPoison, Fld.mesh, Fld.rowBus, Fld.scaleBus, Fld.range, Fld.zip, Fld.packed, Fld.bindings, Fld.reqs, Fld.chans, Fld.serials, Fld.handles] ++ [Fld.versions, Fld.rallies, Fld.selects, Fld.deferred, Fld.ws, Fld.mail, Fld.hostFns, Fld.badSlots, Fld.parity, Fld.powerN, Fld.powerS, Fld.votes, Fld.samples, Fld.lowSamples, Fld.ring, Fld.qps, Fld.heldOut, Fld.replicaN, Fld.replicaS, Fld.complexN] ++ [Fld.complexS, Fld.update, Fld.boot, Fld.restores, Fld.sensors, Fld.save, Fld.record, Fld.free] : List Fld) [] s (execSagReset a0 a1 s) := by
  intro a0 a1 s
  unfold execSagReset
  refine Gives.ite ?_ ?_
  · refine Gives.next ?_
    exact Only.refl _ _ _
  · refine Gives.next ?_
    refine Only.step (deviceReset_only _ _) (by decide +kernel) ?_
    exact Only.refl _ _ _

theorem execRailLoss_gives : ∀ a0 s, Gives ([Fld.pins, Fld.phase, Fld.timer, Fld.timerFrac, Fld.regs, Fld.latched, Fld.causes, Fld.staleMid, Fld.tiles, Fld.sram, Fld.sramPoison, Fld.mesh, Fld.rowBus, Fld.scaleBus, Fld.range, Fld.zip, Fld.packed, Fld.bindings, Fld.reqs, Fld.chans] ++ [Fld.serials, Fld.handles, Fld.versions, Fld.rallies, Fld.selects, Fld.deferred, Fld.ws, Fld.mail, Fld.hostFns, Fld.badSlots, Fld.parity, Fld.powerN, Fld.powerS, Fld.votes, Fld.samples, Fld.lowSamples, Fld.ring, Fld.qps, Fld.heldOut, Fld.replicaN] ++ [Fld.replicaS, Fld.complexN, Fld.complexS, Fld.update, Fld.boot, Fld.restores, Fld.releasedAt, Fld.sensors, Fld.save, Fld.record, Fld.free] : List Fld) [] s (execRailLoss a0 s) := by
  intro a0 s
  unfold execRailLoss
  refine Gives.ite ?_ ?_
  · refine Gives.next ?_
    refine Only.step (powerOn_only _) (by decide +kernel) ?_
    exact Only.refl _ _ _
  · refine Gives.ite ?_ ?_
    · refine Gives.next ?_
      exact Only.refl _ _ _
    · refine Gives.next ?_
      refine Only.step (deviceReset_only _ _) (by decide +kernel) ?_
      exact Only.refl _ _ _

theorem execBothCcLostReset_gives : ∀ s, Gives ([Fld.pins, Fld.phase, Fld.regs, Fld.latched, Fld.causes, Fld.staleMid, Fld.tiles, Fld.sram, Fld.sramPoison, Fld.mesh, Fld.rowBus, Fld.scaleBus, Fld.range, Fld.zip, Fld.packed, Fld.bindings, Fld.reqs, Fld.chans, Fld.serials, Fld.handles] ++ [Fld.versions, Fld.rallies, Fld.selects, Fld.deferred, Fld.ws, Fld.mail, Fld.hostFns, Fld.badSlots, Fld.parity, Fld.powerN, Fld.powerS, Fld.votes, Fld.samples, Fld.lowSamples, Fld.ring, Fld.qps, Fld.heldOut, Fld.replicaN, Fld.replicaS, Fld.complexN] ++ [Fld.complexS, Fld.update, Fld.boot, Fld.restores, Fld.sensors, Fld.save, Fld.record, Fld.free] : List Fld) [] s (execBothCcLostReset s) := by
  intro s
  unfold execBothCcLostReset
  refine Gives.ite ?_ ?_
  · refine Gives.next ?_
    refine Only.step (deviceReset_only _ _) (by decide +kernel) ?_
    exact Only.refl _ _ _
  · refine Gives.next ?_
    exact Only.refl _ _ _

theorem execThermalTrip_gives : ∀ a0 s, Gives ([Fld.pins, Fld.phase, Fld.regs, Fld.latched, Fld.causes, Fld.staleMid, Fld.tiles, Fld.sram, Fld.sramPoison, Fld.mesh, Fld.rowBus, Fld.scaleBus, Fld.range, Fld.zip, Fld.packed, Fld.bindings, Fld.reqs, Fld.chans, Fld.serials, Fld.handles] ++ [Fld.versions, Fld.rallies, Fld.selects, Fld.deferred, Fld.ws, Fld.mail, Fld.hostFns, Fld.badSlots, Fld.parity, Fld.powerN, Fld.powerS, Fld.votes, Fld.samples, Fld.lowSamples, Fld.ring, Fld.qps, Fld.heldOut, Fld.replicaN, Fld.replicaS, Fld.complexN] ++ [Fld.complexS, Fld.update, Fld.boot, Fld.restores, Fld.sensors, Fld.save, Fld.record, Fld.free] : List Fld) [] s (execThermalTrip a0 s) := by
  intro a0 s
  unfold execThermalTrip
  refine Gives.ite ?_ ?_
  · refine Gives.next ?_
    refine Only.step (deviceReset_only _ _) (by decide +kernel) ?_
    exact Only.refl _ _ _
  · refine Gives.next ?_
    exact Only.refl _ _ _

theorem execDbgReset_gives : ∀ a0 a1 s, Gives ([Fld.pins, Fld.phase, Fld.regs, Fld.latched, Fld.causes, Fld.staleMid, Fld.tiles, Fld.sram, Fld.sramPoison, Fld.mesh, Fld.rowBus, Fld.scaleBus, Fld.range, Fld.zip, Fld.packed, Fld.bindings, Fld.reqs, Fld.chans, Fld.serials, Fld.handles] ++ [Fld.versions, Fld.rallies, Fld.selects, Fld.deferred, Fld.ws, Fld.mail, Fld.hostFns, Fld.badSlots, Fld.parity, Fld.powerN, Fld.powerS, Fld.votes, Fld.samples, Fld.lowSamples, Fld.ring, Fld.qps, Fld.heldOut, Fld.replicaN, Fld.replicaS, Fld.complexN] ++ [Fld.complexS, Fld.update, Fld.boot, Fld.restores, Fld.sensors, Fld.save, Fld.record, Fld.free, Fld.out] : List Fld) [] s (execDbgReset a0 a1 s) := by
  intro a0 a1 s
  unfold execDbgReset
  refine Gives.ite ?_ ?_
  · refine Gives.next ?_
    exact Only.refl _ _ _
  · refine Gives.next ?_
    refine guarded_only 0xb1 rfl rfl (by decide +kernel) (fun s => ?_) ?_
    · refine Only.ite ?_ ?_
      · refine Only.step (deviceReset_only _ _) (by decide +kernel) ?_
        exact Only.refl _ _ _
      · refine Only.step (raise_only 0xb1 _ _ _ rfl rfl) (by decide +kernel) ?_
        exact Only.refl _ _ _
    · exact Only.refl _ _ _

theorem Only.set_pins_phase_releasedAt : ∀ {m : List Fld} {r : List RegSpan} {s t : State} {v0 v1 v2}, [.pins, .phase, .releasedAt].all (fun x => m.contains x) = true → Only m r s t → Only m r s { t with pins := v0, phase := v1, releasedAt := v2 } := by
  intro m r s t v0 v1 v2 hm h
  refine h.trans ⟨fun x hx _ => ?_, fun _ _ _ => rfl, fun c => c⟩
  cases x <;> first | rfl | exact absurd (List.contains_iff_mem.mp (List.all_eq_true.mp hm _ (by simp))) hx

theorem execResetRelease_gives : ∀ s, Gives [.pins, .phase, .releasedAt] [] s (execResetRelease s) := by
  intro s
  unfold execResetRelease
  extract_lets +onlyGivenNames x1
  clear_value x1
  refine Gives.ite ?_ ?_
  · refine Gives.next ?_
    exact Only.refl _ _ _
  · refine Gives.next ?_
    refine Only.set_pins_phase_releasedAt (by decide +kernel) ?_
    exact Only.refl _ _ _

theorem loadFuses_only : ∀ s, Only [.causes, .mail, .heldOut, .out] [(0x0, 0x14, 0x14), (0x0, 0x18, 0x18), (0x0, 0x28, 0x28), (0xb2, 0x100, 0x100)] s (loadFuses s) := by
  intro s
  unfold loadFuses
  extract_lets +onlyGivenNames x1
  refine Only.have_ (t := x1) ?_ fun hx1 => ?_
  · subst x1
    refine Only.step (fset_only 0xb2 0x100 _ _ _ _ rfl rfl rfl) (by decide +kernel) ?_
    exact Only.refl _ _ _
  clear_value x1
  refine Only.ite ?_ ?_
  · assumption
  · extract_lets +onlyGivenNames x2
    refine Only.have_ (t := x2) ?_ fun hx2 => ?_
    · subst x2
      refine Only.step (raise_only 0xb2 _ _ _ rfl rfl) (by decide +kernel) ?_
      refine Only.step (fset_only 0xb2 0x100 _ _ _ _ rfl rfl rfl) (by decide +kernel) ?_
      assumption
    clear_value x2
    refine Only.foldl (fun s x => ?_) ?_
    · split
      · refine Only.ite ?_ ?_
        · refine Only.step (fencePage_any _ _ _) (by decide +kernel) ?_
          exact Only.refl _ _ _
        · exact Only.refl _ _ _
      · exact Only.refl _ _ _
    · assumption

theorem bootMode_only : ∀ s, Only [] [(0xb0, 0x600, 0x600)] s (bootMode s) := by
  intro s
  unfold bootMode
  extract_lets +onlyGivenNames x1
  clear_value x1
  extract_lets +onlyGivenNames x2
  clear_value x2
  extract_lets +onlyGivenNames x3
  refine Only.have_ (t := x3) ?_ fun hx3 => ?_
  · subst x3
    refine Only.ite ?_ ?_
    · refine Only.step (fset_only 0xb0 0x600 _ _ _ _ rfl rfl rfl) (by decide +kernel) ?_
      exact Only.refl _ _ _
    · exact Only.refl _ _ _
  clear_value x3
  refine Only.step (fset_only 0xb0 0x600 _ _ _ _ rfl rfl rfl) (by decide +kernel) ?_
  assumption

theorem areaBad_only : ∀ a0 s, Only [] [(0xb0, 0x600, 0x600)] s (areaBad a0 s) := by
  intro a0 s
  unfold areaBad
  split
  · refine Only.step (fset_only 0xb0 0x600 _ _ _ _ rfl rfl rfl) (by decide +kernel) ?_
    exact Only.refl _ _ _
  · refine Only.step (fset_only 0xb0 0x600 _ _ _ _ rfl rfl rfl) (by decide +kernel) ?_
    exact Only.refl _ _ _

theorem chooseArea_only : ∀ a0 s, Only [] [(0xb0, 0x600, 0x600)] s (chooseArea a0 s).2 := by
  intro a0 s
  unfold chooseArea
  extract_lets +onlyGivenNames x1
  clear_value x1
  refine Only.ite_snd ?_ ?_
  · refine Only.pair ?_
    exact Only.refl _ _ _
  · extract_lets +onlyGivenNames x2
    refine Only.have_ (t := x2) ?_ fun hx2 => ?_
    · subst x2
      refine Only.step (areaBad_only _ _) (by decide +kernel) ?_
      exact Only.refl _ _ _
    clear_value x2
    refine Only.ite_snd ?_ ?_
    · refine Only.pair ?_
      refine Only.step (fset_only 0xb0 0x600 _ _ _ _ rfl rfl rfl) (by decide +kernel) ?_
      assumption
    · refine Only.pair ?_
      refine Only.step (areaBad_only _ _) (by decide +kernel) ?_
      assumption

theorem chooseArea_only_eq : ∀ a0 s x t, chooseArea a0 s = (x, t) → Only [] [(0xb0, 0x600, 0x600)] s t := by
  intro a0 s x t h
  have := chooseArea_only a0 s
  rw [h] at this
  exact this

theorem runFirmware_only : ∀ a0 a1 s, Only [.heldOut, .boot, .out] [(0x10, 0x18, 0x18), (0x10, 0x880, 0x880), (0x10, 0x884, 0x884), (0x10, 0x88c, 0x88c), (0x10, 0x890, 0x890), (0xb0, 0x600, 0x600)] s (runFirmware a0 a1 s) := by
  intro a0 a1 s
  unfold runFirmware
  extract_lets +onlyGivenNames x1
  refine Only.have_ (t := x1) ?_ fun hx1 => ?_
  · subst x1
    refine Only.step (fset_only 0xb0 0x600 _ _ _ _ rfl rfl rfl) (by decide +kernel) ?_
    exact Only.refl _ _ _
  clear_value x1
  extract_lets +onlyGivenNames x2
  refine Only.have_ (t := x2) ?_ fun hx2 => ?_
  · subst x2
    refine Only.set_boot (by decide +kernel) ?_
    assumption
  clear_value x2
  extract_lets +onlyGivenNames x3
  refine Only.haveFn (P := fun x => ∀ y3_0 y3_1, Only [.heldOut, .boot, .out] [(0x10, 0x18, 0x18), (0x10, 0x880, 0x880), (0x10, 0x884, 0x884), (0x10, 0x88c, 0x88c), (0x10, 0x890, 0x890), (0xb0, 0x600, 0x600)] y3_1 (x y3_0 y3_1)) (t := x3) ?_ fun hx3 => ?_
  · intro y3_0 y3_1
    subst x3
    dsimp -zeta only
    refine Only.ite ?_ ?_
    · exact Only.refl _ _ _
    · extract_lets +onlyGivenNames x4
      refine Only.have_ (t := x4) ?_ fun hx4 => ?_
      · subst x4
        refine Only.step (fset_only 0x10 0x880 _ _ _ _ rfl rfl rfl) (by decide +kernel) ?_
        refine Only.step (fset_only 0x10 0x884 _ _ _ _ rfl rfl rfl) (by decide +kernel) ?_
        refine Only.step (fset_only 0x10 0x890 _ _ _ _ rfl rfl rfl) (by decide +kernel) ?_
        refine Only.step (fset_only 0x10 0x88c _ _ _ _ rfl rfl rfl) (by decide +kernel) ?_
        refine Only.step (fset_only 0x10 0x88c _ _ _ _ rfl rfl rfl) (by decide +kernel) ?_
        exact Only.refl _ _ _
      clear_value x4
      refine Only.ite ?_ ?_
      · assumption
      · refine Only.step (setRole_only _ _ _) (by decide +kernel) ?_
        assumption
  clear_value x3
  refine Only.trans ?_ (hx3 ..)
  refine Only.trans ?_ (hx3 ..)
  assumption

theorem trainBm_only : ∀ a0 a1 a2 a3 s, Only [.causes, .heldOut, .out] [(0x48, 0x14, 0x14), (0x48, 0x18, 0x18), (0x48, 0x28, 0x28), (0x48, 0x100, 0x100), (0x48, 0x104, 0x104), (0x48, 0x108, 0x108), (0x48, 0x114, 0x114)] s (trainBm a0 a1 a2 a3 s) := by
  intro a0 a1 a2 a3 s
  unfold trainBm
  extract_lets +onlyGivenNames x1
  refine Only.ite ?_ ?_
  · refine Only.step (satInc_only 0x48 0x114 _ _ _ _ rfl rfl rfl rfl) (by decide +kernel) ?_
    refine Only.step (fset_only 0x48 0x108 _ _ _ _ rfl rfl rfl) (by decide +kernel) ?_
    refine Only.step (fset_only 0x48 0x104 _ _ _ _ rfl rfl rfl) (by decide +kernel) ?_
    refine Only.step (fset_only 0x48 0x100 _ _ _ _ rfl rfl rfl) (by decide +kernel) ?_
    refine Only.step (fset_only 0x48 0x100 _ _ _ _ rfl rfl rfl) (by decide +kernel) ?_
    refine Only.step (fset_only 0x48 0x100 _ _ _ _ rfl rfl rfl) (by decide +kernel) ?_
    exact Only.refl _ _ _
  · refine Only.step (fencePage_only 0x48 _ _ _ rfl rfl) (by decide +kernel) ?_
    refine Only.step (raise_only 0x48 _ _ _ rfl rfl) (by decide +kernel) ?_
    refine Only.step (fset_only 0x48 0x100 _ _ _ _ rfl rfl rfl) (by decide +kernel) ?_
    exact Only.refl _ _ _

theorem execBoardMemoryTraining_gives : ∀ a0 a1 a2 a3 s, Gives [.causes, .heldOut, .out] [(0x48, 0x14, 0x14), (0x48, 0x18, 0x18), (0x48, 0x28, 0x28), (0x48, 0x100, 0x100), (0x48, 0x104, 0x104), (0x48, 0x108, 0x108), (0x48, 0x114, 0x114)] s (execBoardMemoryTraining a0 a1 a2 a3 s) := by
  intro a0 a1 a2 a3 s
  unfold execBoardMemoryTraining
  refine Gives.ite ?_ ?_
  · refine Gives.next ?_
    refine Only.step (startDone_only 0x48 _ _ rfl rfl) (by decide +kernel) ?_
    refine Only.step (trainBm_only _ _ _ _ _) (by decide +kernel) ?_
    exact Only.refl _ _ _
  · refine Gives.next ?_
    exact Only.refl _ _ _

theorem execCaParity_gives : ∀ a0 s, Gives [.causes, .parity, .heldOut, .out] [(0x48, 0x14, 0x14), (0x48, 0x18, 0x18), (0x48, 0x28, 0x28), (0x48, 0x10c, 0x10c)] s (execCaParity a0 s) := by
  intro a0 s
  unfold execCaParity
  extract_lets +onlyGivenNames x1
  refine Gives.ite ?_ ?_
  · refine Gives.next ?_
    exact Only.refl _ _ _
  · extract_lets +onlyGivenNames x2
    clear_value x2
    extract_lets +onlyGivenNames x3
    refine Gives.have_ (t := x3) ?_ fun hx3 => ?_
    · subst x3
      refine Only.step (raise_only 0x48 _ _ _ rfl rfl) (by decide +kernel) ?_
      refine Only.step (satInc_only 0x48 0x10c _ _ _ _ rfl rfl rfl rfl) (by decide +kernel) ?_
      refine Only.set_parity (by decide +kernel) ?_
      exact Only.refl _ _ _
    clear_value x3
    refine Gives.next ?_
    refine Only.ite ?_ ?_
    · refine Only.step (fencePage_only 0x48 _ _ _ rfl rfl) (by decide +kernel) ?_
      assumption
    · assumption

theorem bistFailed_only (k0 : Nat) : ∀ a0 a1 s, pageType a0 = k0 → Nat.beq k0 0x60 = false → Only [] [(0xb0, 0x604, 0x604), (0xb0, 0x60c, 0x60c)] s (bistFailed a0 a1 s) := by
  intro a0 a1 s hk0 hn0
  unfold bistFailed
  extract_lets +onlyGivenNames x1
  refine Only.have_ (t := x1) ?_ fun hx1 => ?_
  · subst x1
    refine Only.step (fset_only 0xb0 0x604 _ _ _ _ rfl rfl rfl) (by first | decide +kernel | simp [within, Fld.inside, RegSpan.inside]) ?_
    exact Only.refl _ _ _
  clear_value x1
  refine Only.ite ?_ ?_
  · assumption
  · refine Only.step (fset_only 0xb0 0x60c _ _ _ _ rfl rfl rfl) (by first | decide +kernel | simp [within, Fld.inside, RegSpan.inside]) ?_
    refine Only.step (fset_only 0xb0 0x60c _ _ _ _ rfl rfl rfl) (by first | decide +kernel | simp [within, Fld.inside, RegSpan.inside]) ?_
    refine Only.step (fset_only 0xb0 0x60c _ _ _ _ rfl rfl rfl) (by first | decide +kernel | simp [within, Fld.inside, RegSpan.inside]) ?_
    assumption

theorem bistFailed_any : ∀ a0 a1 s, Only [] [(0xb0, 0x604, 0x604), (0xb0, 0x60c, 0x60c)] s (bistFailed a0 a1 s) := by
  intro a0 a1 s
  unfold bistFailed
  extract_lets +onlyGivenNames x1
  refine Only.have_ (t := x1) ?_ fun hx1 => ?_
  · subst x1
    refine Only.step (fset_only 0xb0 0x604 _ _ _ _ rfl rfl rfl) (by decide +kernel) ?_
    exact Only.refl _ _ _
  clear_value x1
  refine Only.ite ?_ ?_
  · assumption
  · refine Only.step (fset_only 0xb0 0x60c _ _ _ _ rfl rfl rfl) (by decide +kernel) ?_
    refine Only.step (fset_only 0xb0 0x60c _ _ _ _ rfl rfl rfl) (by decide +kernel) ?_
    refine Only.step (fset_only 0xb0 0x60c _ _ _ _ rfl rfl rfl) (by decide +kernel) ?_
    assumption

theorem failUnit_only : ∀ a0 s, Only [.causes, .tiles, .mesh, .range, .zip, .reqs, .ws, .mail, .heldOut, .replicaN, .replicaS, .complexN, .complexS, .out] ([(0x0, 0x14, 0x14), (0x0, 0x18, 0x18), (0x0, 0x28, 0x28), (0x10, 0x880, 0x880), (0x20, 0x104, 0x104), (0x20, 0x204, 0x204), (0x30, 0x120, 0x120), (0x30, 0x124, 0x124), (0x30, 0x128, 0x128), (0x30, 0x12c, 0x12c), (0x30, 0x130, 0x130), (0x30, 0x134, 0x134), (0x30, 0x13c, 0x13c), (0x30, 0x144, 0x144), (0x40, 0x130, 0x130), (0x40, 0x134, 0x134), (0x40, 0x138, 0x138), (0x40, 0x13c, 0x13c), (0x40, 0x204, 0x204), (0x40, 0x208, 0x208)] ++ [(0x40, 0x20c, 0x20c), (0x40, 0x210, 0x210), (0x40, 0x214, 0x214), (0x40, 0x218, 0x218), (0x40, 0x21c, 0x21c), (0x40, 0x220, 0x220), (0x40, 0x224, 0x224), (0x90, 0x108, 0x108), (0x90, 0x10c, 0x10c), (0x90, 0x114, 0x114), (0xb0, 0x604, 0x604), (0xb0, 0x60c, 0x60c)] : List RegSpan) s (failUnit a0 s) := by
  intro a0 s
  unfold failUnit
  refine Only.ite ?_ ?_
  · exact Only.refl _ _ _
  · extract_lets +onlyGivenNames x1
    refine Only.have_ (t := x1) ?_ fun hx1 => ?_
    · subst x1
      refine Only.step (bistFailed_any _ _ _) (by decide +kernel) ?_
      exact Only.refl _ _ _
    clear_value x1
    split
    · refine Only.step (satInc_only 0x90 0x114 _ _ _ _ rfl rfl rfl rfl) (by decide +kernel) ?_
      assumption
    · refine Only.step (fenceHalf_only _ _ _) (by decide +kernel) ?_
      assumption
    · extract_lets +onlyGivenNames x2
      clear_value x2
      extract_lets +onlyGivenNames x3
      refine Only.have_ (t := x3) ?_ fun hx3 => ?_
      · subst x3
        refine Only.step (fenceTile_only _ _ _) (by decide +kernel) ?_
        assumption
      clear_value x3
      refine Only.ite ?_ ?_
      · assumption
      · refine Only.step (satInc_only 0xb0 0x604 _ _ _ _ rfl rfl rfl rfl) (by decide +kernel) ?_
        assumption
    · refine Only.step (fencePage_any _ _ _) (by decide +kernel) ?_
      assumption

theorem failPlane_only : ∀ a0 a1 s, Only [.causes, .heldOut, .out] [(0x31, 0x14, 0x14), (0x31, 0x18, 0x18), (0x31, 0x28, 0x28), (0x31, 0x100, 0x100), (0x31, 0x110, 0x12c), (0xb0, 0x604, 0x604), (0xb0, 0x60c, 0x60c)] s (failPlane a0 a1 s) := by
  intro a0 a1 s
  unfold failPlane
  refine Only.ite ?_ ?_
  · exact Only.refl _ _ _
  · extract_lets +onlyGivenNames x1
    refine Only.have_ (t := x1) ?_ fun hx1 => ?_
    · subst x1
      refine Only.step (bistFailed_only 0x31 _ _ _ rfl rfl) (by decide +kernel) ?_
      exact Only.refl _ _ _
    clear_value x1
    refine Only.ite ?_ ?_
    · assumption
    · refine Only.step (fencePlane_only _ _) (by decide +kernel) ?_
      assumption

theorem calibrateAll_only : ∀ s, Only [.tiles] [] s (calibrateAll s) := by
  intro s
  unfold calibrateAll
  refine Only.foldl (fun s x => ?_) ?_
  · refine Only.ite ?_ ?_
    · extract_lets +onlyGivenNames x1
      clear_value x1
      refine Only.step (modTile_only _ _ _) (by decide +kernel) ?_
      exact Only.refl _ _ _
    · exact Only.refl _ _ _
  · exact Only.refl _ _ _

theorem numberTiles_only : ∀ s, Only [] [(0x20, 0x350, 0x350)] s (numberTiles s) := by
  intro s
  unfold numberTiles
  extract_lets +onlyGivenNames x1
  clear_value x1
  refine Only.foldl (fun s x => ?_) ?_
  · refine Only.step (fset_only 0x20 0x350 _ _ _ _ rfl rfl rfl) (by decide +kernel) ?_
    exact Only.refl _ _ _
  · exact Only.refl _ _ _

theorem coverFenced_only : ∀ s, Only [.heldOut, .out] [(0x20, 0x18, 0x18), (0x20, 0x350, 0x350)] s (coverFenced s) := by
  intro s
  unfold coverFenced
  refine Only.foldl (fun s x => ?_) ?_
  · split
    · refine Only.step (substitute_only _ _ _) (by decide +kernel) ?_
      exact Only.refl _ _ _
    · exact Only.refl _ _ _
  · exact Only.refl _ _ _

theorem selfTest_only : ∀ a0 a1 s, Only [.causes, .tiles, .mesh, .range, .zip, .reqs, .ws, .mail, .heldOut, .replicaN, .replicaS, .complexN, .complexS, .out] ([(0x0, 0x14, 0x14), (0x0, 0x18, 0x18), (0x0, 0x28, 0x28), (0x10, 0x880, 0x880), (0x20, 0x104, 0x104), (0x20, 0x204, 0x204), (0x20, 0x350, 0x350), (0x30, 0x120, 0x120), (0x30, 0x124, 0x124), (0x30, 0x128, 0x128), (0x30, 0x12c, 0x12c), (0x30, 0x130, 0x130), (0x30, 0x134, 0x134), (0x30, 0x13c, 0x13c), (0x30, 0x144, 0x144), (0x31, 0x100, 0x100), (0x31, 0x110, 0x12c), (0x40, 0x130, 0x130), (0x40, 0x134, 0x134), (0x40, 0x138, 0x138)] ++ [(0x40, 0x13c, 0x13c), (0x40, 0x204, 0x204), (0x40, 0x208, 0x208), (0x40, 0x20c, 0x20c), (0x40, 0x210, 0x210), (0x40, 0x214, 0x214), (0x40, 0x218, 0x218), (0x40, 0x21c, 0x21c), (0x40, 0x220, 0x220), (0x40, 0x224, 0x224), (0x90, 0x108, 0x108), (0x90, 0x10c, 0x10c), (0x90, 0x114, 0x114), (0xb0, 0x604, 0x604), (0xb0, 0x60c, 0x60c)] : List RegSpan) s (selfTest a0 a1 s) := by
  intro a0 a1 s
  unfold selfTest
  extract_lets +onlyGivenNames x1
  refine Only.have_ (t := x1) ?_ fun hx1 => ?_
  · subst x1
    refine Only.step (numberTiles_only _) (by decide +kernel) ?_
    refine Only.step (calibrateAll_only _) (by decide +kernel) ?_
    exact Only.refl _ _ _
  clear_value x1
  extract_lets +onlyGivenNames x2
  refine Only.have_ (t := x2) ?_ fun hx2 => ?_
  · subst x2
    refine Only.foldl (fun s x => ?_) ?_
    · refine Only.step (failUnit_only _ _) (by decide +kernel) ?_
      exact Only.refl _ _ _
    · assumption
  clear_value x2
  extract_lets +onlyGivenNames x3
  refine Only.have_ (t := x3) ?_ fun hx3 => ?_
  · subst x3
    refine Only.foldl (fun s x => ?_) ?_
    · refine Only.step (failPlane_only _ _ _) (by decide +kernel) ?_
      exact Only.refl _ _ _
    · assumption
  clear_value x3
  refine Only.step (coverFenced_only _) (by decide +kernel) ?_
  assumption

theorem trainAll_only : ∀ a0 s, Only [.causes, .heldOut, .out] [(0x48, 0x14, 0x14), (0x48, 0x18, 0x18), (0x48, 0x28, 0x28), (0x48, 0x100, 0x100), (0x48, 0x104, 0x104), (0x48, 0x108, 0x108), (0x48, 0x114, 0x114), (0xb0, 0x604, 0x604), (0xb0, 0x60c, 0x60c)] s (trainAll a0 s) := by
  intro a0 s
  unfold trainAll
  refine Only.foldl (fun s x => ?_) ?_
  · extract_lets +onlyGivenNames x1
    clear_value x1
    refine Only.ite ?_ ?_
    · exact Only.refl _ _ _
    · extract_lets +onlyGivenNames x2
      clear_value x2
      extract_lets +onlyGivenNames x3
      refine Only.have_ (t := x3) ?_ fun hx3 => ?_
      · subst x3
        refine Only.step (trainBm_only _ _ _ _ _) (by decide +kernel) ?_
        exact Only.refl _ _ _
      clear_value x3
      refine Only.ite ?_ ?_
      · refine Only.step (bistFailed_only 0x48 _ _ _ rfl rfl) (by decide +kernel) ?_
        assumption
      · assumption
  · exact Only.refl _ _ _

theorem firstLease_only : ∀ a0 s, Only ([Fld.tiles, Fld.sram, Fld.sramPoison, Fld.mesh, Fld.rowBus, Fld.scaleBus, Fld.range, Fld.packed, Fld.bindings, Fld.handles, Fld.versions, Fld.rallies, Fld.deferred, Fld.ws, Fld.mail, Fld.ring, Fld.qps, Fld.heldOut, Fld.replicaN, Fld.replicaS] ++ [Fld.complexN, Fld.complexS, Fld.out] : List Fld) ([(0x10, 0x18, 0x18), (0x10, 0x880, 0x880), (0x10, 0x884, 0x884), (0x20, 0x18, 0x18), (0x20, 0x15c, 0x15c), (0x20, 0x358, 0x358), (0x20, 0x408, 0x408), (0x20, 0x410, 0x410), (0x20, 0x414, 0x414), (0x20, 0x418, 0x418), (0x20, 0x41c, 0x41c), (0x20, 0x420, 0x420), (0x40, 0x130, 0x130), (0x70, 0x18, 0x18), (0x70, 0x10c, 0x10c), (0x71, 0x18, 0x18), (0x71, 0x11c, 0x11c), (0x90, 0x18, 0x18), (0x90, 0x100, 0x100), (0x90, 0x104, 0x104)] ++ [(0x90, 0x108, 0x108), (0x90, 0x10c, 0x10c), (0x90, 0x110, 0x110), (0xb0, 0x124, 0x124), (0xb0, 0x128, 0x128)] : List RegSpan) s (firstLease a0 s) := by
  intro a0 s
  unfold firstLease
  extract_lets +onlyGivenNames x1
  clear_value x1
  refine Only.ite ?_ ?_
  · exact Only.refl _ _ _
  · refine Only.ite ?_ ?_
    · refine Only.foldl (fun s x => ?_) ?_
      · refine Only.step (raise_only 0x90 _ _ _ rfl rfl) (by decide +kernel) ?_
        exact Only.refl _ _ _
      · exact Only.refl _ _ _
    · extract_lets +onlyGivenNames x2
      refine Only.have_ (t := x2) ?_ fun hx2 => ?_
      · subst x2
        refine Only.foldl (fun s x => ?_) ?_
        · refine Only.step (grantLease_only _ _ _ _) (by decide +kernel) ?_
          exact Only.refl _ _ _
        · exact Only.refl _ _ _
      clear_value x2
      extract_lets +onlyGivenNames x3
      clear_value x3
      extract_lets +onlyGivenNames x4
      refine Only.have_ (t := x4) ?_ fun hx4 => ?_
      · subst x4
        refine Only.step (fset_only 0x10 0x884 _ _ _ _ rfl rfl rfl) (by decide +kernel) ?_
        refine Only.step (setComplex_only _ _ _) (by decide +kernel) ?_
        assumption
      clear_value x4
      refine Only.step (runDeferred_only _) (by decide +kernel) ?_
      refine Only.step (setRole_only _ _ _) (by decide +kernel) ?_
      assumption

theorem execFirstLease_gives : ∀ s, Gives ([Fld.tiles, Fld.sram, Fld.sramPoison, Fld.mesh, Fld.rowBus, Fld.scaleBus, Fld.range, Fld.packed, Fld.bindings, Fld.handles, Fld.versions, Fld.rallies, Fld.deferred, Fld.ws, Fld.mail, Fld.ring, Fld.qps, Fld.heldOut, Fld.replicaN, Fld.replicaS] ++ [Fld.complexN, Fld.complexS, Fld.out] : List Fld) ([(0x10, 0x18, 0x18), (0x10, 0x880, 0x880), (0x10, 0x884, 0x884), (0x20, 0x18, 0x18), (0x20, 0x15c, 0x15c), (0x20, 0x358, 0x358), (0x20, 0x408, 0x408), (0x20, 0x410, 0x410), (0x20, 0x414, 0x414), (0x20, 0x418, 0x418), (0x20, 0x41c, 0x41c), (0x20, 0x420, 0x420), (0x40, 0x130, 0x130), (0x70, 0x18, 0x18), (0x70, 0x10c, 0x10c), (0x71, 0x18, 0x18), (0x71, 0x11c, 0x11c), (0x90, 0x18, 0x18), (0x90, 0x100, 0x100), (0x90, 0x104, 0x104)] ++ [(0x90, 0x108, 0x108), (0x90, 0x10c, 0x10c), (0x90, 0x110, 0x110), (0xb0, 0x124, 0x124), (0xb0, 0x128, 0x128)] : List RegSpan) s (execFirstLease s) := by
  intro s
  unfold execFirstLease
  refine Gives.ite ?_ ?_
  · refine Gives.next ?_
    refine withPeers_only (by decide +kernel) (fun s => ?_) ?_
    · refine Only.step (firstLease_only _ _) (by decide +kernel) ?_
      exact Only.refl _ _ _
    · exact Only.refl _ _ _
  · refine Gives.next ?_
    exact Only.refl _ _ _

theorem execFirstLeaseFallback_gives : ∀ s, Gives ([Fld.timer, Fld.tiles, Fld.sram, Fld.sramPoison, Fld.mesh, Fld.rowBus, Fld.scaleBus, Fld.range, Fld.packed, Fld.bindings, Fld.handles, Fld.versions, Fld.rallies, Fld.deferred, Fld.ws, Fld.mail, Fld.ring, Fld.qps, Fld.heldOut, Fld.replicaN] ++ [Fld.replicaS, Fld.complexN, Fld.complexS, Fld.out] : List Fld) ([(0x10, 0x18, 0x18), (0x10, 0x880, 0x880), (0x10, 0x884, 0x884), (0x20, 0x18, 0x18), (0x20, 0x15c, 0x15c), (0x20, 0x358, 0x358), (0x20, 0x408, 0x408), (0x20, 0x410, 0x410), (0x20, 0x414, 0x414), (0x20, 0x418, 0x418), (0x20, 0x41c, 0x41c), (0x20, 0x420, 0x420), (0x40, 0x130, 0x130), (0x70, 0x18, 0x18), (0x70, 0x10c, 0x10c), (0x71, 0x18, 0x18), (0x71, 0x11c, 0x11c), (0x90, 0x18, 0x18), (0x90, 0x100, 0x100), (0x90, 0x104, 0x104)] ++ [(0x90, 0x108, 0x108), (0x90, 0x10c, 0x10c), (0x90, 0x110, 0x110), (0xb0, 0x124, 0x124), (0xb0, 0x128, 0x128)] : List RegSpan) s (execFirstLeaseFallback s) := by
  intro s
  unfold execFirstLeaseFallback
  refine Gives.ite ?_ ?_
  · refine Gives.next ?_
    refine withPeers_only (by decide +kernel) (fun s => ?_) ?_
    · refine Only.step (firstLease_only _ _) (by decide +kernel) ?_
      exact Only.refl _ _ _
    · refine Only.step (reach_only _ _) (by decide +kernel) ?_
      exact Only.refl _ _ _
  · refine Gives.next ?_
    exact Only.refl _ _ _

theorem restoreOff_only : ∀ s, Only [.regs, .votes, .boot, .save, .record] [] s (restoreOff s) := by
  intro s
  unfold restoreOff
  split
  · exact Only.refl _ _ _
  · extract_lets +onlyGivenNames x1
    refine Only.have_ (t := x1) ?_ fun hx1 => ?_
    · subst x1
      split
      · refine Only.step (restoreSave_only _ _ _) (by decide +kernel) ?_
        exact Only.refl _ _ _
      · exact Only.refl _ _ _
    clear_value x1
    refine Only.step (fset_only 0xb0 0x600 _ _ _ _ rfl rfl rfl) (by decide +kernel) ?_
    refine Only.step (putGroup_only _ _) (by decide +kernel) ?_
    refine Only.set_record (by decide +kernel) ?_
    assumption

theorem catalogue_only : ∀ s, Only [.packed, .bindings, .handles, .versions, .rallies, .ws, .heldOut, .restores, .out] [(0x10, 0x18, 0x18), (0x20, 0x358, 0x358)] s (catalogue s) := by
  intro s
  unfold catalogue
  extract_lets +onlyGivenNames x1
  refine Only.have_ (t := x1) ?_ fun hx1 => ?_
  · subst x1
    refine Only.foldl (fun s x => ?_) ?_
    · refine Only.step (retireNow_only _ _) (by decide +kernel) ?_
      exact Only.refl _ _ _
    · exact Only.refl _ _ _
  clear_value x1
  extract_lets +onlyGivenNames x2
  refine Only.set_restores (by decide +kernel) ?_
  assumption

theorem replace'_only : ∀ a0 a1 s, Only [.tiles, .sram, .sramPoison, .mesh, .rowBus, .scaleBus, .range, .packed, .handles, .versions, .rallies, .heldOut, .out] [(0x20, 0x18, 0x18), (0x20, 0x15c, 0x15c), (0x20, 0x358, 0x358), (0x20, 0x408, 0x408), (0x20, 0x410, 0x410), (0x20, 0x414, 0x414), (0x20, 0x418, 0x418), (0x20, 0x41c, 0x41c), (0x20, 0x420, 0x420), (0x40, 0x130, 0x130)] s (replace' a0 a1 s) := by
  intro a0 a1 s
  unfold replace'
  extract_lets +onlyGivenNames x1
  refine Only.have_ (t := x1) ?_ fun hx1 => ?_
  · subst x1
    refine Only.step (modHandle_only _ _ _) (by decide +kernel) ?_
    refine Only.step (setVersion_only _ _) (by decide +kernel) ?_
    exact Only.refl _ _ _
  clear_value x1
  split
  · split
    · assumption
    · extract_lets +onlyGivenNames x2
      clear_value x2
      split
      · assumption
      · extract_lets +onlyGivenNames x3
        clear_value x3
        extract_lets +onlyGivenNames x4
        clear_value x4
        refine Only.ite ?_ ?_
        · assumption
        · split
          · assumption
          · extract_lets +onlyGivenNames x5
            clear_value x5
            refine Only.step (place_only _ _ _ _ _ _ _) (by decide +kernel) ?_
            refine Only.step (setVersion_only _ _) (by decide +kernel) ?_
            refine Only.step (makeRoom_only _ _ _ _ _ ‹_›) (by decide +kernel) ?_
            exact Only.refl _ _ _
  · assumption

theorem restoreVersion_only : ∀ a0 a1 s, Only [.tiles, .sram, .sramPoison, .mesh, .rowBus, .scaleBus, .range, .packed, .bindings, .handles, .versions, .rallies, .ws, .heldOut, .out] [(0x10, 0x18, 0x18), (0x20, 0x18, 0x18), (0x20, 0x15c, 0x15c), (0x20, 0x358, 0x358), (0x20, 0x408, 0x408), (0x20, 0x410, 0x410), (0x20, 0x414, 0x414), (0x20, 0x418, 0x418), (0x20, 0x41c, 0x41c), (0x20, 0x420, 0x420), (0x40, 0x130, 0x130), (0xb0, 0x124, 0x124), (0xb0, 0x128, 0x128)] s (restoreVersion a0 a1 s) := by
  intro a0 a1 s
  unfold restoreVersion
  extract_lets +onlyGivenNames x1
  clear_value x1
  extract_lets +onlyGivenNames x2
  clear_value x2
  extract_lets +onlyGivenNames x3
  refine Only.have_ (t := x3) ?_ fun hx3 => ?_
  · subst x3
    refine Only.ite ?_ ?_
    · exact Only.refl _ _ _
    · refine Only.step (countSig_only _ _) (by decide +kernel) ?_
      exact Only.refl _ _ _
  clear_value x3
  refine Only.ite ?_ ?_
  · refine Only.step (retireNow_only _ _) (by decide +kernel) ?_
    assumption
  · refine Only.ite ?_ ?_
    · split
      · refine Only.step (replace'_only _ _ _) (by decide +kernel) ?_
        assumption
      · assumption
    · refine Only.step (setVersion_only _ _) (by decide +kernel) ?_
      assumption

theorem execVersionRestore_gives : ∀ a0 a1 s, Gives [.tiles, .sram, .sramPoison, .mesh, .rowBus, .scaleBus, .range, .packed, .bindings, .reqs, .chans, .handles, .versions, .rallies, .ws, .heldOut, .restores, .out] [(0x10, 0x18, 0x18), (0x20, 0x18, 0x18), (0x20, 0x15c, 0x15c), (0x20, 0x358, 0x358), (0x20, 0x408, 0x408), (0x20, 0x410, 0x410), (0x20, 0x414, 0x414), (0x20, 0x418, 0x418), (0x20, 0x41c, 0x41c), (0x20, 0x420, 0x420), (0x40, 0x130, 0x130), (0x50, 0x18, 0x18), (0x50, 0x128, 0x128), (0x50, 0x168, 0x168), (0x50, 0x178, 0x178), (0xb0, 0x124, 0x124), (0xb0, 0x128, 0x128)] s (execVersionRestore a0 a1 s) := by
  intro a0 a1 s
  unfold execVersionRestore
  extract_lets +onlyGivenNames x1
  clear_value x1
  split
  · refine Gives.next ?_
    exact Only.refl _ _ _
  · extract_lets +onlyGivenNames x2
    refine Gives.have_ (t := x2) ?_ fun hx2 => ?_
    · subst x2
      refine Only.set_restores (by decide +kernel) ?_
      exact Only.refl _ _ _
    clear_value x2
    extract_lets +onlyGivenNames x3
    refine Gives.have_ (t := x3) ?_ fun hx3 => ?_
    · subst x3
      split
      · refine Only.step (restoreVersion_only _ _ _) (by decide +kernel) ?_
        assumption
      · assumption
    clear_value x3
    refine Gives.next ?_
    refine Only.ite ?_ ?_
    · assumption
    · refine Only.step (openHuddle_only _ _) (by decide +kernel) ?_
      assumption

theorem startUnit_only (k0 : Nat) : ∀ a0 s, pageType a0 = k0 → Nat.beq k0 0x60 = false → Only [.heldOut, .out] [(k0, 0x10, 0x10), (k0, 0x14, 0x14), (k0, 0x18, 0x18)] s (startUnit a0 s) := by
  intro a0 s hk0 hn0
  unfold startUnit
  refine Only.ite ?_ ?_
  · exact Only.refl _ _ _
  · extract_lets +onlyGivenNames x1
    refine Only.have_ (t := x1) ?_ fun hx1 => ?_
    · subst x1
      refine Only.step (fset_only k0 0x10 _ _ _ _ hk0 rfl rfl) (by first | decide +kernel | simp [within, Fld.inside, RegSpan.inside]) ?_
      exact Only.refl _ _ _
    clear_value x1
    refine Only.ite ?_ ?_
    · refine Only.step (fset_only k0 0x14 _ _ _ _ hk0 rfl rfl) (by first | decide +kernel | simp [within, Fld.inside, RegSpan.inside]) ?_
      assumption
    · refine Only.ite ?_ ?_
      · assumption
      · refine Only.step (setBlk_only k0 _ _ _ hk0 hn0) (by first | decide +kernel | simp [within, Fld.inside, RegSpan.inside]) ?_
        assumption

theorem startUnit_any : ∀ a0 s, Only [.mail, .heldOut, .out] [(0x0, 0x10, 0x10), (0x0, 0x14, 0x14), (0x0, 0x18, 0x18)] s (startUnit a0 s) := by
  intro a0 s
  unfold startUnit
  refine Only.ite ?_ ?_
  · exact Only.refl _ _ _
  · extract_lets +onlyGivenNames x1
    refine Only.have_ (t := x1) ?_ fun hx1 => ?_
    · subst x1
      refine Only.step (fset_any 0x10 _ _ _ _ rfl rfl) (by decide +kernel) ?_
      exact Only.refl _ _ _
    clear_value x1
    refine Only.ite ?_ ?_
    · refine Only.step (fset_any 0x14 _ _ _ _ rfl rfl) (by decide +kernel) ?_
      assumption
    · refine Only.ite ?_ ?_
      · assumption
      · refine Only.step (setBlk_any _ _ _) (by decide +kernel) ?_
        assumption

theorem joinHalves_only : ∀ s, Only [.replicaN, .replicaS] [(0x80, 0x100, 0x100), (0x90, 0x100, 0x100)] s (joinHalves s) := by
  intro s
  unfold joinHalves
  refine Only.ite ?_ ?_
  · exact Only.refl _ _ _
  · extract_lets +onlyGivenNames x1
    refine Only.haveFn (P := fun x => ∀ y1_0 y1_1, Only [.replicaN, .replicaS] [(0x80, 0x100, 0x100), (0x90, 0x100, 0x100)] y1_1 (x y1_0 y1_1)) (t := x1) ?_ fun hx1 => ?_
    · intro y1_0 y1_1
      subst x1
      dsimp -zeta only
      refine Only.step (fset_only 0x90 0x100 _ _ _ _ rfl rfl rfl) (by decide +kernel) ?_
      refine Only.step (fset_only 0x80 0x100 _ _ _ _ rfl rfl rfl) (by decide +kernel) ?_
      exact Only.refl _ _ _
    clear_value x1
    extract_lets +onlyGivenNames x2
    refine Only.have_ (t := x2) ?_ fun hx2 => ?_
    · subst x2
      refine Only.trans ?_ (hx1 ..)
      refine Only.trans ?_ (hx1 ..)
      exact Only.refl _ _ _
    clear_value x2
    refine Only.step (setReplica_only _ _ _) (by decide +kernel) ?_
    refine Only.step (setReplica_only _ _ _) (by decide +kernel) ?_
    assumption

theorem startRest_only : ∀ a0 a1 a2 s, Only ([Fld.phase, Fld.timer, Fld.regs, Fld.causes, Fld.tiles, Fld.sram, Fld.sramPoison, Fld.mesh, Fld.rowBus, Fld.scaleBus, Fld.range, Fld.zip, Fld.packed, Fld.bindings, Fld.reqs, Fld.handles, Fld.versions, Fld.rallies, Fld.deferred, Fld.ws] ++ [Fld.mail, Fld.votes, Fld.ring, Fld.qps, Fld.heldOut, Fld.replicaN, Fld.replicaS, Fld.complexN, Fld.complexS, Fld.boot, Fld.restores, Fld.save, Fld.record, Fld.out] : List Fld) [] s (startRest a0 a1 a2 s) := by
  intro a0 a1 a2 s
  unfold startRest
  extract_lets +onlyGivenNames x1
  refine Only.have_ (t := x1) ?_ fun hx1 => ?_
  · subst x1
    refine Only.step (runFirmware_only _ _ _) (by decide +kernel) ?_
    refine Only.step (bootMode_only _) (by decide +kernel) ?_
    exact Only.refl _ _ _
  clear_value x1
  extract_lets +onlyGivenNames x2
  refine Only.have_ (t := x2) ?_ fun hx2 => ?_
  · subst x2
    refine Only.step (selfTest_only _ _ _) (by decide +kernel) ?_
    refine Only.step (trainAll_only _ _) (by decide +kernel) ?_
    assumption
  clear_value x2
  extract_lets +onlyGivenNames x3
  refine Only.have_ (t := x3) ?_ fun hx3 => ?_
  · subst x3
    refine Only.step (reach_only _ _) (by decide +kernel) ?_
    assumption
  clear_value x3
  refine Only.ite ?_ ?_
  · refine Only.step (fset_only 0xb0 0x600 _ _ _ _ rfl rfl rfl) (by decide +kernel) ?_
    refine Only.set_phase (by decide +kernel) ?_
    assumption
  · extract_lets +onlyGivenNames x4
    refine Only.have_ (t := x4) ?_ fun hx4 => ?_
    · subst x4
      refine Only.step (joinHalves_only _) (by decide +kernel) ?_
      refine Only.foldl (fun s x => ?_) ?_
      · refine Only.step (startUnit_any _ _) (by decide +kernel) ?_
        exact Only.refl _ _ _
      · refine Only.step (restoreOff_only _) (by decide +kernel) ?_
        assumption
    clear_value x4
    extract_lets +onlyGivenNames x5
    refine Only.have_ (t := x5) ?_ fun hx5 => ?_
    · subst x5
      refine Only.ite ?_ ?_
      · refine Only.step (raise_only 0xa2 _ _ _ rfl rfl) (by decide +kernel) ?_
        assumption
      · assumption
    clear_value x5
    extract_lets +onlyGivenNames x6
    clear_value x6
    extract_lets +onlyGivenNames x7
    refine Only.have_ (t := x7) ?_ fun hx7 => ?_
    · subst x7
      refine Only.ite ?_ ?_
      · refine Only.step (firstLease_only _ _) (by decide +kernel) ?_
        assumption
      · refine Only.step (firstLease_only _ _) (by decide +kernel) ?_
        refine Only.step (reach_only _ _) (by decide +kernel) ?_
        assumption
    clear_value x7
    extract_lets +onlyGivenNames x8
    refine Only.have_ (t := x8) ?_ fun hx8 => ?_
    · subst x8
      refine Only.step (fset_only 0xb0 0x600 _ _ _ _ rfl rfl rfl) (by decide +kernel) ?_
      refine Only.step (catalogue_only _) (by decide +kernel) ?_
      assumption
    clear_value x8
    refine Only.ite ?_ ?_
    · refine Only.step (becomeReady_only _) (by decide +kernel) ?_
      assumption
    · assumption

theorem execStartUpSequence_gives : ∀ a0 s, Gives ([Fld.phase, Fld.timer, Fld.regs, Fld.causes, Fld.tiles, Fld.sram, Fld.sramPoison, Fld.mesh, Fld.rowBus, Fld.scaleBus, Fld.range, Fld.zip, Fld.packed, Fld.bindings, Fld.reqs, Fld.handles, Fld.versions, Fld.rallies, Fld.deferred, Fld.ws] ++ [Fld.mail, Fld.votes, Fld.ring, Fld.qps, Fld.heldOut, Fld.replicaN, Fld.replicaS, Fld.complexN, Fld.complexS, Fld.boot, Fld.restores, Fld.save, Fld.record, Fld.out] : List Fld) [] s (execStartUpSequence a0 s) := by
  intro a0 s
  unfold execStartUpSequence
  refine Gives.ite ?_ ?_
  · refine Gives.next ?_
    exact Only.refl _ _ _
  · extract_lets +onlyGivenNames x1
    clear_value x1
    extract_lets +onlyGivenNames x2
    refine Gives.have_ (t := x2) ?_ fun hx2 => ?_
    · subst x2
      refine Only.step (loadIdentity_only _) (by decide +kernel) ?_
      refine Only.step (loadFuses_only _) (by decide +kernel) ?_
      exact Only.refl _ _ _
    clear_value x2
    extract_lets +onlyGivenNames x3
    refine Gives.have_ (t := x3) ?_ fun hx3 => ?_
    · subst x3
      refine Only.step (intentScan_only _ _) (by decide +kernel) ?_
      assumption
    clear_value x3
    extract_lets +onlyGivenNames x4
    refine Gives.have_ (t := x4) ?_ fun hx4 => ?_
    · subst x4
      refine Only.ite ?_ ?_
      · assumption
      · refine Only.step (intentScan_only _ _) (by decide +kernel) ?_
        assumption
    clear_value x4
    extract_lets +onlyGivenNames x5
    split
    · refine Gives.next ?_
      refine Only.step (startUnit_only 0x70 _ _ rfl rfl) (by decide +kernel) ?_
      refine Only.step (fset_only 0xb0 0x600 _ _ _ _ rfl rfl rfl) (by decide +kernel) ?_
      extract_lets +onlyGivenNames x6
      refine Only.have_ (t := x6) ?_ fun hx6 => ?_
      · subst x6
        refine Only.step (chooseArea_only _ _) (by decide +kernel) ?_
        assumption
      clear_value x6
      refine Only.set_phase (by decide +kernel) ?_
      assumption
    · refine Gives.next ?_
      refine withPeers_only (by decide +kernel) (fun s => ?_) ?_
      · refine Only.step (startRest_only _ _ _ _) (by decide +kernel) ?_
        exact Only.refl _ _ _
      · refine Only.step (chooseArea_only _ _) (by decide +kernel) ?_
        assumption

theorem execRingSettleTimeout_gives : ∀ s, Gives [.phase, .timer, .heldOut, .out] [(0x1, 0x18, 0x18), (0xb0, 0x600, 0x600), (0xb0, 0x608, 0x608)] s (execRingSettleTimeout s) := by
  intro s
  unfold execRingSettleTimeout
  refine Gives.ite ?_ ?_
  · refine Gives.next ?_
    refine Only.step (becomeReady_only _) (by decide +kernel) ?_
    refine Only.step (reach_only _ _) (by decide +kernel) ?_
    exact Only.refl _ _ _
  · refine Gives.next ?_
    exact Only.refl _ _ _

theorem setRecov_only : ∀ a0 a1 s, Only [] [(0xb0, 0x620, 0x620)] s (setRecov a0 a1 s) := by
  intro a0 a1 s
  unfold setRecov
  refine Only.step (fset_only 0xb0 0x620 _ _ _ _ rfl rfl rfl) (by decide +kernel) ?_
  refine Only.step (fset_only 0xb0 0x620 _ _ _ _ rfl rfl rfl) (by decide +kernel) ?_
  exact Only.refl _ _ _

theorem recover_only : ∀ a0 a1 a2 s, Only ([Fld.pins, Fld.phase, Fld.regs, Fld.latched, Fld.causes, Fld.staleMid, Fld.tiles, Fld.sram, Fld.sramPoison, Fld.mesh, Fld.rowBus, Fld.scaleBus, Fld.range, Fld.zip, Fld.packed, Fld.bindings, Fld.reqs, Fld.chans, Fld.serials, Fld.handles] ++ [Fld.versions, Fld.rallies, Fld.selects, Fld.deferred, Fld.ws, Fld.mail, Fld.hostFns, Fld.badSlots, Fld.parity, Fld.powerN, Fld.powerS, Fld.votes, Fld.samples, Fld.lowSamples, Fld.ring, Fld.qps, Fld.heldOut, Fld.replicaN, Fld.replicaS, Fld.complexN] ++ [Fld.complexS, Fld.update, Fld.boot, Fld.restores, Fld.sensors, Fld.save, Fld.record, Fld.free, Fld.out] : List Fld) [] s (recover a0 a1 a2 s) := by
  intro a0 a1 a2 s
  unfold recover
  extract_lets +onlyGivenNames x1
  clear_value x1
  refine Only.ite ?_ ?_
  · refine Only.step (setRecov_only _ _ _) (by decide +kernel) ?_
    exact Only.refl _ _ _
  · extract_lets +onlyGivenNames x2
    clear_value x2
    extract_lets +onlyGivenNames x3
    refine Only.have_ (t := x3) ?_ fun hx3 => ?_
    · subst x3
      refine Only.step (emit_only _ _) (by decide +kernel) ?_
      exact Only.refl _ _ _
    clear_value x3
    extract_lets +onlyGivenNames x4
    clear_value x4
    refine Only.ite ?_ ?_
    · refine Only.step (setRecov_only _ _ _) (by decide +kernel) ?_
      refine Only.step (writeArea_only _ _ _) (by decide +kernel) ?_
      assumption
    · refine Only.ite ?_ ?_
      · refine Only.step (setRecov_only _ _ _) (by decide +kernel) ?_
        refine Only.step (writeArea_only _ _ _) (by decide +kernel) ?_
        assumption
      · extract_lets +onlyGivenNames x5
        clear_value x5
        extract_lets +onlyGivenNames x6
        refine Only.have_ (t := x6) ?_ fun hx6 => ?_
        · subst x6
          refine Only.step (countSig_only _ _) (by decide +kernel) ?_
          assumption
        clear_value x6
        refine Only.ite ?_ ?_
        · refine Only.step (deviceReset_only _ _) (by decide +kernel) ?_
          refine Only.step (setRecov_only _ _ _) (by decide +kernel) ?_
          refine Only.step (writeArea_only _ _ _) (by decide +kernel) ?_
          assumption
        · refine Only.step (setRecov_only _ _ _) (by decide +kernel) ?_
          refine Only.step (writeArea_only _ _ _) (by decide +kernel) ?_
          assumption

theorem execRecovCmd_gives : ∀ a0 a1 a2 a3 s, Gives ([Fld.pins, Fld.phase, Fld.regs, Fld.latched, Fld.causes, Fld.staleMid, Fld.tiles, Fld.sram, Fld.sramPoison, Fld.mesh, Fld.rowBus, Fld.scaleBus, Fld.range, Fld.zip, Fld.packed, Fld.bindings, Fld.reqs, Fld.chans, Fld.serials, Fld.handles] ++ [Fld.versions, Fld.rallies, Fld.selects, Fld.deferred, Fld.ws, Fld.mail, Fld.hostFns, Fld.badSlots, Fld.parity, Fld.powerN, Fld.powerS, Fld.votes, Fld.samples, Fld.lowSamples, Fld.ring, Fld.qps, Fld.heldOut, Fld.replicaN, Fld.replicaS, Fld.complexN] ++ [Fld.complexS, Fld.update, Fld.boot, Fld.restores, Fld.sensors, Fld.save, Fld.record, Fld.free, Fld.out] : List Fld) [] s (execRecovCmd a0 a1 a2 a3 s) := by
  intro a0 a1 a2 a3 s
  unfold execRecovCmd
  refine Gives.next ?_
  refine guarded_only 0xb0 rfl rfl (by decide +kernel) (fun s => ?_) ?_
  · refine Only.step (recover_only _ _ _ _) (by decide +kernel) ?_
    exact Only.refl _ _ _
  · exact Only.refl _ _ _


end Sys2Proof.Machine
end

