-- ==== Sys2Proof/Laws/OnlyBlocks.lean ====
section
/-! SUPPORT. What the operations and the meanings of Machine/Blocks.lean can change (`Only`, `Gives`): the parts of the state and the
registers, whatever the operands are. -/

namespace Sys2Proof.Machine

set_option linter.unusedSimpArgs false
set_option maxRecDepth 20000
set_option Elab.async false

theorem stopStore_only : ∀ a0 s, Only [.ws, .heldOut, .out] [(0x30, 0x18, 0x18), (0x30, 0x120, 0x120), (0x30, 0x124, 0x124), (0x30, 0x128, 0x128), (0x30, 0x12c, 0x12c), (0x30, 0x130, 0x130), (0x30, 0x134, 0x134)] s (stopStore a0 s) := by
  intro a0 s
  unfold stopStore
  refine Only.foldl (fun s x => ?_) ?_
  · refine Only.step (wsEnd_only _ _ _) (by decide +kernel) ?_
    exact Only.refl _ _ _
  · exact Only.refl _ _ _

theorem stopBegins_only (k0 : Nat) : ∀ a0 s, pageType a0 = k0 → Nat.beq k0 0x60 = false → Only [.range, .zip, .ws, .heldOut, .out] ([(0x30, 0x18, 0x18), (0x30, 0x120, 0x120), (0x30, 0x124, 0x124), (0x30, 0x128, 0x128), (0x30, 0x12c, 0x12c), (0x30, 0x130, 0x130), (0x30, 0x134, 0x134), (0x30, 0x13c, 0x13c), (0x30, 0x144, 0x144), (0x40, 0x18, 0x18), (0x40, 0x130, 0x130), (0x40, 0x134, 0x134), (0x40, 0x138, 0x138), (0x40, 0x13c, 0x13c), (0x40, 0x204, 0x204), (0x40, 0x208, 0x208), (0x40, 0x20c, 0x20c), (0x40, 0x210, 0x210), (0x40, 0x214, 0x214), (0x40, 0x218, 0x218)] ++ [(0x40, 0x21c, 0x21c), (0x40, 0x220, 0x220), (0x40, 0x224, 0x224), (0x50, 0x18, 0x18)] : List RegSpan) s (stopBegins a0 s) := by
  intro a0 s hk0 hn0
  unfold stopBegins
  split
  · refine Only.step (stopZip_only _ _) (by first | decide +kernel | simp [within, Fld.inside, RegSpan.inside]) ?_
    refine Only.step (stopRange_only _ _) (by first | decide +kernel | simp [within, Fld.inside, RegSpan.inside]) ?_
    exact Only.refl _ _ _
  · refine Only.step (wsKick_only _) (by first | decide +kernel | simp [within, Fld.inside, RegSpan.inside]) ?_
    refine Only.step (stopStore_only _ _) (by first | decide +kernel | simp [within, Fld.inside, RegSpan.inside]) ?_
    exact Only.refl _ _ _
  · exact Only.refl _ _ _

theorem stopBegins_any : ∀ a0 s, Only [.range, .zip, .ws, .heldOut, .out] ([(0x30, 0x18, 0x18), (0x30, 0x120, 0x120), (0x30, 0x124, 0x124), (0x30, 0x128, 0x128), (0x30, 0x12c, 0x12c), (0x30, 0x130, 0x130), (0x30, 0x134, 0x134), (0x30, 0x13c, 0x13c), (0x30, 0x144, 0x144), (0x40, 0x18, 0x18), (0x40, 0x130, 0x130), (0x40, 0x134, 0x134), (0x40, 0x138, 0x138), (0x40, 0x13c, 0x13c), (0x40, 0x204, 0x204), (0x40, 0x208, 0x208), (0x40, 0x20c, 0x20c), (0x40, 0x210, 0x210), (0x40, 0x214, 0x214), (0x40, 0x218, 0x218)] ++ [(0x40, 0x21c, 0x21c), (0x40, 0x220, 0x220), (0x40, 0x224, 0x224), (0x50, 0x18, 0x18)] : List RegSpan) s (stopBegins a0 s) := by
  intro a0 s
  unfold stopBegins
  split
  · refine Only.step (stopZip_only _ _) (by decide +kernel) ?_
    refine Only.step (stopRange_only _ _) (by decide +kernel) ?_
    exact Only.refl _ _ _
  · refine Only.step (wsKick_only _) (by decide +kernel) ?_
    refine Only.step (stopStore_only _ _) (by decide +kernel) ?_
    exact Only.refl _ _ _
  · exact Only.refl _ _ _

theorem ringDown_only : ∀ a0 s, Only [.ring, .heldOut, .out] [(0x71, 0x18, 0x18), (0x71, 0x100, 0x100), (0x71, 0x108, 0x108), (0x71, 0x110, 0x110), (0x71, 0x118, 0x118)] s (ringDown a0 s) := by
  intro a0 s
  unfold ringDown
  refine Only.ite ?_ ?_
  · refine Only.step (breakAt_only _ _) (by decide +kernel) ?_
    exact Only.refl _ _ _
  · exact Only.refl _ _ _

theorem bridgeDown_only : ∀ s, Only [.heldOut, .out] [(0x80, 0x18, 0x18)] s (bridgeDown s) := by
  intro s
  unfold bridgeDown
  refine Only.ite ?_ ?_
  · exact Only.refl _ _ _
  · refine onBridge_only (fun h s => ?_) ?_
    · refine Only.step (raise_only 0x80 _ _ _ rfl rfl) (by decide +kernel) ?_
      exact Only.refl _ _ _
    · exact Only.refl _ _ _

theorem stopEnds_only (k0 : Nat) : ∀ a0 s, pageType a0 = k0 → Nat.beq k0 0x60 = false → Only [.tiles, .range, .zip, .hostFns, .votes, .ring, .heldOut, .out] ([(0x40, 0x18, 0x18), (0x40, 0x130, 0x130), (0x40, 0x134, 0x134), (0x40, 0x138, 0x138), (0x40, 0x13c, 0x13c), (0x40, 0x204, 0x204), (0x40, 0x208, 0x208), (0x40, 0x20c, 0x20c), (0x40, 0x210, 0x210), (0x40, 0x214, 0x214), (0x40, 0x218, 0x218), (0x40, 0x21c, 0x21c), (0x40, 0x220, 0x220), (0x40, 0x224, 0x224), (0x48, 0x100, 0x100), (0x50, 0x18, 0x18), (0x50, 0x134, 0x134), (0x50, 0x138, 0x138), (0x70, 0x18, 0x18), (0x70, 0x104, 0x104)] ++ [(0x71, 0x18, 0x18), (0x71, 0x100, 0x100), (0x71, 0x108, 0x108), (0x71, 0x110, 0x110), (0x71, 0x118, 0x118), (0x72, 0x18, 0x18), (0x72, 0x140, 0x140), (0x80, 0x18, 0x18)] : List RegSpan) s (stopEnds a0 s) := by
  intro a0 s hk0 hn0
  unfold stopEnds
  split
  · refine Only.ite ?_ ?_
    · refine Only.step (raise_only 0x70 _ _ _ rfl rfl) (by first | decide +kernel | simp [within, Fld.inside, RegSpan.inside]) ?_
      refine Only.step (linkLost_only _ _) (by first | decide +kernel | simp [within, Fld.inside, RegSpan.inside]) ?_
      exact Only.refl _ _ _
    · exact Only.refl _ _ _
  · refine Only.step (ringDown_only _ _) (by first | decide +kernel | simp [within, Fld.inside, RegSpan.inside]) ?_
    exact Only.refl _ _ _
  · refine Only.ite ?_ ?_
    · refine Only.step (raise_only 0x72 _ _ _ rfl rfl) (by first | decide +kernel | simp [within, Fld.inside, RegSpan.inside]) ?_
      refine Only.step (fset_only 0x72 0x140 _ _ _ _ rfl rfl rfl) (by first | decide +kernel | simp [within, Fld.inside, RegSpan.inside]) ?_
      exact Only.refl _ _ _
    · exact Only.refl _ _ _
  · refine Only.step (fset_only 0x48 0x100 _ _ _ _ rfl rfl rfl) (by first | decide +kernel | simp [within, Fld.inside, RegSpan.inside]) ?_
    exact Only.refl _ _ _
  · refine Only.step (bridgeDown_only _) (by first | decide +kernel | simp [within, Fld.inside, RegSpan.inside]) ?_
    exact Only.refl _ _ _
  · refine Only.step (kickZip_only _) (by first | decide +kernel | simp [within, Fld.inside, RegSpan.inside]) ?_
    refine Only.step (kickRange_only _) (by first | decide +kernel | simp [within, Fld.inside, RegSpan.inside]) ?_
    exact Only.refl _ _ _
  · exact Only.refl _ _ _

theorem stopEnds_any : ∀ a0 s, Only [.tiles, .range, .zip, .hostFns, .votes, .ring, .heldOut, .out] ([(0x40, 0x18, 0x18), (0x40, 0x130, 0x130), (0x40, 0x134, 0x134), (0x40, 0x138, 0x138), (0x40, 0x13c, 0x13c), (0x40, 0x204, 0x204), (0x40, 0x208, 0x208), (0x40, 0x20c, 0x20c), (0x40, 0x210, 0x210), (0x40, 0x214, 0x214), (0x40, 0x218, 0x218), (0x40, 0x21c, 0x21c), (0x40, 0x220, 0x220), (0x40, 0x224, 0x224), (0x48, 0x100, 0x100), (0x50, 0x18, 0x18), (0x50, 0x134, 0x134), (0x50, 0x138, 0x138), (0x70, 0x18, 0x18), (0x70, 0x104, 0x104)] ++ [(0x71, 0x18, 0x18), (0x71, 0x100, 0x100), (0x71, 0x108, 0x108), (0x71, 0x110, 0x110), (0x71, 0x118, 0x118), (0x72, 0x18, 0x18), (0x72, 0x140, 0x140), (0x80, 0x18, 0x18)] : List RegSpan) s (stopEnds a0 s) := by
  intro a0 s
  unfold stopEnds
  split
  · refine Only.ite ?_ ?_
    · refine Only.step (raise_only 0x70 _ _ _ rfl rfl) (by decide +kernel) ?_
      refine Only.step (linkLost_only _ _) (by decide +kernel) ?_
      exact Only.refl _ _ _
    · exact Only.refl _ _ _
  · refine Only.step (ringDown_only _ _) (by decide +kernel) ?_
    exact Only.refl _ _ _
  · refine Only.ite ?_ ?_
    · refine Only.step (raise_only 0x72 _ _ _ rfl rfl) (by decide +kernel) ?_
      refine Only.step (fset_only 0x72 0x140 _ _ _ _ rfl rfl rfl) (by decide +kernel) ?_
      exact Only.refl _ _ _
    · exact Only.refl _ _ _
  · refine Only.step (fset_only 0x48 0x100 _ _ _ _ rfl rfl rfl) (by decide +kernel) ?_
    exact Only.refl _ _ _
  · refine Only.step (bridgeDown_only _) (by decide +kernel) ?_
    exact Only.refl _ _ _
  · refine Only.step (kickZip_only _) (by decide +kernel) ?_
    refine Only.step (kickRange_only _) (by decide +kernel) ?_
    exact Only.refl _ _ _
  · exact Only.refl _ _ _

theorem startEnds_only (k0 : Nat) : ∀ a0 s, pageType a0 = k0 → Nat.beq k0 0x60 = false → Only [.tiles, .range, .zip, .ws, .heldOut, .out] ([(0x30, 0x18, 0x18), (0x30, 0x120, 0x120), (0x30, 0x124, 0x124), (0x30, 0x128, 0x128), (0x30, 0x12c, 0x12c), (0x30, 0x130, 0x130), (0x30, 0x134, 0x134), (0x30, 0x13c, 0x13c), (0x30, 0x144, 0x144), (0x40, 0x18, 0x18), (0x40, 0x130, 0x130), (0x40, 0x134, 0x134), (0x40, 0x138, 0x138), (0x40, 0x13c, 0x13c), (0x40, 0x204, 0x204), (0x40, 0x208, 0x208), (0x40, 0x20c, 0x20c), (0x40, 0x210, 0x210), (0x40, 0x214, 0x214), (0x40, 0x218, 0x218)] ++ [(0x40, 0x21c, 0x21c), (0x40, 0x220, 0x220), (0x40, 0x224, 0x224), (0x50, 0x18, 0x18)] : List RegSpan) s (startEnds a0 s) := by
  intro a0 s hk0 hn0
  unfold startEnds
  split
  · refine Only.foldl (fun s x => ?_) ?_
    · refine Only.step (calibrated_only _ _ _) (by first | decide +kernel | simp [within, Fld.inside, RegSpan.inside]) ?_
      exact Only.refl _ _ _
    · exact Only.refl _ _ _
  · refine Only.step (kickZip_only _) (by first | decide +kernel | simp [within, Fld.inside, RegSpan.inside]) ?_
    refine Only.step (kickRange_only _) (by first | decide +kernel | simp [within, Fld.inside, RegSpan.inside]) ?_
    exact Only.refl _ _ _
  · refine Only.step (wsKick_only _) (by first | decide +kernel | simp [within, Fld.inside, RegSpan.inside]) ?_
    exact Only.refl _ _ _
  · exact Only.refl _ _ _

theorem startEnds_any : ∀ a0 s, Only [.tiles, .range, .zip, .ws, .heldOut, .out] ([(0x30, 0x18, 0x18), (0x30, 0x120, 0x120), (0x30, 0x124, 0x124), (0x30, 0x128, 0x128), (0x30, 0x12c, 0x12c), (0x30, 0x130, 0x130), (0x30, 0x134, 0x134), (0x30, 0x13c, 0x13c), (0x30, 0x144, 0x144), (0x40, 0x18, 0x18), (0x40, 0x130, 0x130), (0x40, 0x134, 0x134), (0x40, 0x138, 0x138), (0x40, 0x13c, 0x13c), (0x40, 0x204, 0x204), (0x40, 0x208, 0x208), (0x40, 0x20c, 0x20c), (0x40, 0x210, 0x210), (0x40, 0x214, 0x214), (0x40, 0x218, 0x218)] ++ [(0x40, 0x21c, 0x21c), (0x40, 0x220, 0x220), (0x40, 0x224, 0x224), (0x50, 0x18, 0x18)] : List RegSpan) s (startEnds a0 s) := by
  intro a0 s
  unfold startEnds
  split
  · refine Only.foldl (fun s x => ?_) ?_
    · refine Only.step (calibrated_only _ _ _) (by decide +kernel) ?_
      exact Only.refl _ _ _
    · exact Only.refl _ _ _
  · refine Only.step (kickZip_only _) (by decide +kernel) ?_
    refine Only.step (kickRange_only _) (by decide +kernel) ?_
    exact Only.refl _ _ _
  · refine Only.step (wsKick_only _) (by decide +kernel) ?_
    exact Only.refl _ _ _
  · exact Only.refl _ _ _

theorem moved_only {m : List Fld} {r : List RegSpan} {p : Page} {f : Page → State → State} {s u : State}
    (hm : within [.range, .zip, .ws, .heldOut, .out] [(0x30, 0x18, 0x18), (0x30, 0x120, 0x120), (0x30, 0x124, 0x124), (0x30, 0x128, 0x128), (0x30, 0x12c, 0x12c), (0x30, 0x130, 0x130), (0x30, 0x134, 0x134), (0x30, 0x13c, 0x13c), (0x30, 0x144, 0x144), (0x40, 0x18, 0x18), (0x40, 0x130, 0x130), (0x40, 0x134, 0x134), (0x40, 0x138, 0x138), (0x40, 0x13c, 0x13c), (0x40, 0x204, 0x204), (0x40, 0x208, 0x208), (0x40, 0x20c, 0x20c), (0x40, 0x210, 0x210), (0x40, 0x214, 0x214), (0x40, 0x218, 0x218), (0x40, 0x21c, 0x21c), (0x40, 0x220, 0x220), (0x40, 0x224, 0x224), (0x50, 0x18, 0x18)] m r = true) (hf : ∀ p s, Only m r s (f p s)) (h : Only m r u s) : Only m r u (moved p f s) := by
  unfold moved
  extract_lets +onlyGivenNames x1
  clear_value x1
  extract_lets +onlyGivenNames x2
  have h2 : Only m r u x2 := by
    subst x2
    refine Only.foldl (fun s x => ?_) (h.trans (hf _ _))
    exact Only.ite (hf _ _) (Only.refl _ _ _)
  clear_value x2
  refine Only.ite ?_ h2
  exact h2.trans ((stopBegins_any _ _).mono hm)

theorem execEnWrite_gives (k1 : Nat) : ∀ a0 a1 a2 s, pageType a1 = k1 → Nat.beq k1 0x60 = false → Gives [.staleMid, .range, .zip, .ws, .mail, .heldOut, .out] ([(0x0, 0x10, 0x10), (0x0, 0x14, 0x14), (0x0, 0x18, 0x18), (0x10, 0x880, 0x880), (0x30, 0x120, 0x120), (0x30, 0x124, 0x124), (0x30, 0x128, 0x128), (0x30, 0x12c, 0x12c), (0x30, 0x130, 0x130), (0x30, 0x134, 0x134), (0x30, 0x13c, 0x13c), (0x30, 0x144, 0x144), (0x40, 0x130, 0x130), (0x40, 0x134, 0x134), (0x40, 0x138, 0x138), (0x40, 0x13c, 0x13c), (0x40, 0x204, 0x204), (0x40, 0x208, 0x208), (0x40, 0x20c, 0x20c), (0x40, 0x210, 0x210)] ++ [(0x40, 0x214, 0x214), (0x40, 0x218, 0x218), (0x40, 0x21c, 0x21c), (0x40, 0x220, 0x220), (0x40, 0x224, 0x224), (0xb0, 0x110, 0x110), (0xb0, 0x114, 0x114), (0xb0, 0x118, 0x118), (0xb0, 0x11c, 0x11c), (k1, 0x2c, 0x2c)] : List RegSpan) s (execEnWrite a0 a1 a2 s) := by
  intro a0 a1 a2 s hk1 hn1
  unfold execEnWrite
  refine Gives.next ?_
  refine guarded_only k1 hk1 hn1 (by first | decide +kernel | simp [within, Fld.inside, RegSpan.inside]) (fun s => ?_) ?_
  · refine withPeers_only (by first | decide +kernel | simp [within, Fld.inside, RegSpan.inside]) (fun s => ?_) ?_
    · refine moved_only (by first | decide +kernel | simp [within, Fld.inside, RegSpan.inside]) (fun q s => ?_) ?_
      · refine Only.step (writeEn_any _ _ _) (by first | decide +kernel | simp [within, Fld.inside, RegSpan.inside]) ?_
        exact Only.refl _ _ _
      · exact Only.refl _ _ _
    · exact Only.refl _ _ _
  · exact Only.refl _ _ _

theorem execEnWrite_any : ∀ a0 a1 a2 s, Gives [.staleMid, .range, .zip, .ws, .mail, .heldOut, .out] ([(0x0, 0x10, 0x10), (0x0, 0x14, 0x14), (0x0, 0x18, 0x18), (0x0, 0x2c, 0x2c), (0x10, 0x880, 0x880), (0x30, 0x120, 0x120), (0x30, 0x124, 0x124), (0x30, 0x128, 0x128), (0x30, 0x12c, 0x12c), (0x30, 0x130, 0x130), (0x30, 0x134, 0x134), (0x30, 0x13c, 0x13c), (0x30, 0x144, 0x144), (0x40, 0x130, 0x130), (0x40, 0x134, 0x134), (0x40, 0x138, 0x138), (0x40, 0x13c, 0x13c), (0x40, 0x204, 0x204), (0x40, 0x208, 0x208), (0x40, 0x20c, 0x20c)] ++ [(0x40, 0x210, 0x210), (0x40, 0x214, 0x214), (0x40, 0x218, 0x218), (0x40, 0x21c, 0x21c), (0x40, 0x220, 0x220), (0x40, 0x224, 0x224), (0xb0, 0x110, 0x110), (0xb0, 0x114, 0x114), (0xb0, 0x118, 0x118), (0xb0, 0x11c, 0x11c)] : List RegSpan) s (execEnWrite a0 a1 a2 s) := by
  intro a0 a1 a2 s
  unfold execEnWrite
  refine Gives.next ?_
  refine guarded_any (by decide +kernel) (fun s => ?_) ?_
  · refine withPeers_only (by decide +kernel) (fun s => ?_) ?_
    · refine moved_only (by decide +kernel) (fun q s => ?_) ?_
      · refine Only.step (writeEn_any _ _ _) (by decide +kernel) ?_
        exact Only.refl _ _ _
      · exact Only.refl _ _ _
    · exact Only.refl _ _ _
  · exact Only.refl _ _ _

theorem execStartSequenceComplete_gives (k0 : Nat) : ∀ a0 s, pageType a0 = k0 → Nat.beq k0 0x60 = false → Gives [.tiles, .range, .zip, .ws, .mail, .heldOut, .out] ([(0x0, 0x14, 0x14), (0x0, 0x18, 0x18), (0x30, 0x120, 0x120), (0x30, 0x124, 0x124), (0x30, 0x128, 0x128), (0x30, 0x12c, 0x12c), (0x30, 0x130, 0x130), (0x30, 0x134, 0x134), (0x30, 0x13c, 0x13c), (0x30, 0x144, 0x144), (0x40, 0x130, 0x130), (0x40, 0x134, 0x134), (0x40, 0x138, 0x138), (0x40, 0x13c, 0x13c), (0x40, 0x204, 0x204), (0x40, 0x208, 0x208), (0x40, 0x20c, 0x20c), (0x40, 0x210, 0x210), (0x40, 0x214, 0x214), (0x40, 0x218, 0x218)] ++ [(0x40, 0x21c, 0x21c), (0x40, 0x220, 0x220), (0x40, 0x224, 0x224)] : List RegSpan) s (execStartSequenceComplete a0 s) := by
  intro a0 s hk0 hn0
  unfold execStartSequenceComplete
  extract_lets +onlyGivenNames x1
  clear_value x1
  refine Gives.ite ?_ ?_
  · refine Gives.next ?_
    refine withPeers_only (by first | decide +kernel | simp [within, Fld.inside, RegSpan.inside]) (fun s => ?_) ?_
    · refine moved_only (by first | decide +kernel | simp [within, Fld.inside, RegSpan.inside]) (fun q s => ?_) ?_
      · refine Only.step (startDone_any _ _) (by first | decide +kernel | simp [within, Fld.inside, RegSpan.inside]) ?_
        exact Only.refl _ _ _
      · refine Only.step (startEnds_only k0 _ _ hk0 hn0) (by first | decide +kernel | simp [within, Fld.inside, RegSpan.inside]) ?_
        exact Only.refl _ _ _
    · exact Only.refl _ _ _
  · refine Gives.next ?_
    exact Only.refl _ _ _

theorem execStartSequenceComplete_any : ∀ a0 s, Gives [.tiles, .range, .zip, .ws, .mail, .heldOut, .out] ([(0x0, 0x14, 0x14), (0x0, 0x18, 0x18), (0x30, 0x120, 0x120), (0x30, 0x124, 0x124), (0x30, 0x128, 0x128), (0x30, 0x12c, 0x12c), (0x30, 0x130, 0x130), (0x30, 0x134, 0x134), (0x30, 0x13c, 0x13c), (0x30, 0x144, 0x144), (0x40, 0x130, 0x130), (0x40, 0x134, 0x134), (0x40, 0x138, 0x138), (0x40, 0x13c, 0x13c), (0x40, 0x204, 0x204), (0x40, 0x208, 0x208), (0x40, 0x20c, 0x20c), (0x40, 0x210, 0x210), (0x40, 0x214, 0x214), (0x40, 0x218, 0x218)] ++ [(0x40, 0x21c, 0x21c), (0x40, 0x220, 0x220), (0x40, 0x224, 0x224)] : List RegSpan) s (execStartSequenceComplete a0 s) := by
  intro a0 s
  unfold execStartSequenceComplete
  extract_lets +onlyGivenNames x1
  clear_value x1
  refine Gives.ite ?_ ?_
  · refine Gives.next ?_
    refine withPeers_only (by decide +kernel) (fun s => ?_) ?_
    · refine moved_only (by decide +kernel) (fun q s => ?_) ?_
      · refine Only.step (startDone_any _ _) (by decide +kernel) ?_
        exact Only.refl _ _ _
      · refine Only.step (startEnds_any _ _) (by decide +kernel) ?_
        exact Only.refl _ _ _
    · exact Only.refl _ _ _
  · refine Gives.next ?_
    exact Only.refl _ _ _

theorem execStopSequenceComplete_gives (k0 : Nat) : ∀ a0 s, pageType a0 = k0 → Nat.beq k0 0x60 = false → Gives [.tiles, .range, .zip, .ws, .mail, .hostFns, .votes, .ring, .heldOut, .out] ([(0x0, 0x14, 0x14), (0x0, 0x18, 0x18), (0x30, 0x120, 0x120), (0x30, 0x124, 0x124), (0x30, 0x128, 0x128), (0x30, 0x12c, 0x12c), (0x30, 0x130, 0x130), (0x30, 0x134, 0x134), (0x30, 0x13c, 0x13c), (0x30, 0x144, 0x144), (0x40, 0x130, 0x130), (0x40, 0x134, 0x134), (0x40, 0x138, 0x138), (0x40, 0x13c, 0x13c), (0x40, 0x204, 0x204), (0x40, 0x208, 0x208), (0x40, 0x20c, 0x20c), (0x40, 0x210, 0x210), (0x40, 0x214, 0x214), (0x40, 0x218, 0x218)] ++ [(0x40, 0x21c, 0x21c), (0x40, 0x220, 0x220), (0x40, 0x224, 0x224), (0x48, 0x100, 0x100), (0x50, 0x134, 0x134), (0x50, 0x138, 0x138), (0x70, 0x104, 0x104), (0x71, 0x100, 0x100), (0x71, 0x108, 0x108), (0x71, 0x110, 0x110), (0x71, 0x118, 0x118), (0x72, 0x140, 0x140)] : List RegSpan) s (execStopSequenceComplete a0 s) := by
  intro a0 s hk0 hn0
  unfold execStopSequenceComplete
  refine Gives.ite ?_ ?_
  · refine Gives.next ?_
    refine withPeers_only (by first | decide +kernel | simp [within, Fld.inside, RegSpan.inside]) (fun s => ?_) ?_
    · refine Only.step (stopEnds_only k0 _ _ hk0 hn0) (by first | decide +kernel | simp [within, Fld.inside, RegSpan.inside]) ?_
      refine moved_only (by first | decide +kernel | simp [within, Fld.inside, RegSpan.inside]) (fun q s => ?_) ?_
      · refine Only.step (stopDone_any _ _) (by first | decide +kernel | simp [within, Fld.inside, RegSpan.inside]) ?_
        exact Only.refl _ _ _
      · exact Only.refl _ _ _
    · exact Only.refl _ _ _
  · refine Gives.next ?_
    exact Only.refl _ _ _

theorem execStopSequenceComplete_any : ∀ a0 s, Gives [.tiles, .range, .zip, .ws, .mail, .hostFns, .votes, .ring, .heldOut, .out] ([(0x0, 0x14, 0x14), (0x0, 0x18, 0x18), (0x30, 0x120, 0x120), (0x30, 0x124, 0x124), (0x30, 0x128, 0x128), (0x30, 0x12c, 0x12c), (0x30, 0x130, 0x130), (0x30, 0x134, 0x134), (0x30, 0x13c, 0x13c), (0x30, 0x144, 0x144), (0x40, 0x130, 0x130), (0x40, 0x134, 0x134), (0x40, 0x138, 0x138), (0x40, 0x13c, 0x13c), (0x40, 0x204, 0x204), (0x40, 0x208, 0x208), (0x40, 0x20c, 0x20c), (0x40, 0x210, 0x210), (0x40, 0x214, 0x214), (0x40, 0x218, 0x218)] ++ [(0x40, 0x21c, 0x21c), (0x40, 0x220, 0x220), (0x40, 0x224, 0x224), (0x48, 0x100, 0x100), (0x50, 0x134, 0x134), (0x50, 0x138, 0x138), (0x70, 0x104, 0x104), (0x71, 0x100, 0x100), (0x71, 0x108, 0x108), (0x71, 0x110, 0x110), (0x71, 0x118, 0x118), (0x72, 0x140, 0x140)] : List RegSpan) s (execStopSequenceComplete a0 s) := by
  intro a0 s
  unfold execStopSequenceComplete
  refine Gives.ite ?_ ?_
  · refine Gives.next ?_
    refine withPeers_only (by decide +kernel) (fun s => ?_) ?_
    · refine Only.step (stopEnds_any _ _) (by decide +kernel) ?_
      refine moved_only (by decide +kernel) (fun q s => ?_) ?_
      · refine Only.step (stopDone_any _ _) (by decide +kernel) ?_
        exact Only.refl _ _ _
      · exact Only.refl _ _ _
    · exact Only.refl _ _ _
  · refine Gives.next ?_
    exact Only.refl _ _ _

theorem fenceBridge_only : ∀ s, Only [.causes, .heldOut, .out] [(0x80, 0x14, 0x14), (0x80, 0x18, 0x18), (0x80, 0x28, 0x28), (0x80, 0x100, 0x100)] s (fenceBridge s) := by
  intro s
  unfold fenceBridge
  refine Only.ite ?_ ?_
  · exact Only.refl _ _ _
  · extract_lets +onlyGivenNames x1
    clear_value x1
    extract_lets +onlyGivenNames x2
    refine Only.have_ (t := x2) ?_ fun hx2 => ?_
    · subst x2
      refine onBridge_only (fun h s => ?_) ?_
      · refine Only.step (setGroups_only _ _ _) (by decide +kernel) ?_
        exact Only.refl _ _ _
      · exact Only.refl _ _ _
    clear_value x2
    refine Only.ite ?_ ?_
    · assumption
    · refine Only.step (bridgeDown_only _) (by decide +kernel) ?_
      assumption

theorem fenceUnit_only (k0 : Nat) : ∀ a0 s, pageType a0 = k0 → Nat.beq k0 0x60 = false → Only [.causes, .tiles, .mesh, .range, .zip, .reqs, .chans, .ws, .mail, .heldOut, .replicaN, .replicaS, .complexN, .complexS, .out] ([(0x0, 0x14, 0x14), (0x0, 0x18, 0x18), (0x0, 0x28, 0x28), (0x10, 0x880, 0x880), (0x20, 0x104, 0x104), (0x20, 0x204, 0x204), (0x30, 0x120, 0x120), (0x30, 0x124, 0x124), (0x30, 0x128, 0x128), (0x30, 0x12c, 0x12c), (0x30, 0x130, 0x130), (0x30, 0x134, 0x134), (0x30, 0x13c, 0x13c), (0x30, 0x144, 0x144), (0x40, 0x130, 0x130), (0x40, 0x134, 0x134), (0x40, 0x138, 0x138), (0x40, 0x13c, 0x13c), (0x40, 0x204, 0x204), (0x40, 0x208, 0x208)] ++ [(0x40, 0x20c, 0x20c), (0x40, 0x210, 0x210), (0x40, 0x214, 0x214), (0x40, 0x218, 0x218), (0x40, 0x21c, 0x21c), (0x40, 0x220, 0x220), (0x40, 0x224, 0x224), (0x50, 0x128, 0x128), (0x50, 0x178, 0x178), (0x80, 0x100, 0x100), (0x90, 0x108, 0x108), (0x90, 0x10c, 0x10c)] : List RegSpan) s (fenceUnit a0 s) := by
  intro a0 s hk0 hn0
  unfold fenceUnit
  split
  · refine Only.step (fenceHalf_only _ _ _) (by first | decide +kernel | simp [within, Fld.inside, RegSpan.inside]) ?_
    exact Only.refl _ _ _
  · refine Only.step (fenceTile_only _ _ _) (by first | decide +kernel | simp [within, Fld.inside, RegSpan.inside]) ?_
    exact Only.refl _ _ _
  · refine Only.ite ?_ ?_
    · refine Only.step (fencePage_any _ _ _) (by first | decide +kernel | simp [within, Fld.inside, RegSpan.inside]) ?_
      exact Only.refl _ _ _
    · refine Only.step (stopZip_only _ _) (by first | decide +kernel | simp [within, Fld.inside, RegSpan.inside]) ?_
      refine Only.step (fenceRange_only _ _) (by first | decide +kernel | simp [within, Fld.inside, RegSpan.inside]) ?_
      refine Only.step (fencePage_any _ _ _) (by first | decide +kernel | simp [within, Fld.inside, RegSpan.inside]) ?_
      exact Only.refl _ _ _
  · refine Only.step (wsKick_only _) (by first | decide +kernel | simp [within, Fld.inside, RegSpan.inside]) ?_
    refine Only.step (fencePage_any _ _ _) (by first | decide +kernel | simp [within, Fld.inside, RegSpan.inside]) ?_
    exact Only.refl _ _ _
  · refine Only.step (wsKick_only _) (by first | decide +kernel | simp [within, Fld.inside, RegSpan.inside]) ?_
    refine Only.step (fencePage_any _ _ _) (by first | decide +kernel | simp [within, Fld.inside, RegSpan.inside]) ?_
    exact Only.refl _ _ _
  · refine Only.ite ?_ ?_
    · refine Only.step (fencePage_any _ _ _) (by first | decide +kernel | simp [within, Fld.inside, RegSpan.inside]) ?_
      exact Only.refl _ _ _
    · refine Only.step (cancelAll_only _ _) (by first | decide +kernel | simp [within, Fld.inside, RegSpan.inside]) ?_
      refine Only.step (fencePage_any _ _ _) (by first | decide +kernel | simp [within, Fld.inside, RegSpan.inside]) ?_
      exact Only.refl _ _ _
  · refine Only.step (fenceBridge_only _) (by first | decide +kernel | simp [within, Fld.inside, RegSpan.inside]) ?_
    exact Only.refl _ _ _
  · refine Only.step (fencePage_any _ _ _) (by first | decide +kernel | simp [within, Fld.inside, RegSpan.inside]) ?_
    exact Only.refl _ _ _

theorem fenceUnit_any : ∀ a0 s, Only [.causes, .tiles, .mesh, .range, .zip, .reqs, .chans, .ws, .mail, .heldOut, .replicaN, .replicaS, .complexN, .complexS, .out] ([(0x0, 0x14, 0x14), (0x0, 0x18, 0x18), (0x0, 0x28, 0x28), (0x10, 0x880, 0x880), (0x20, 0x104, 0x104), (0x20, 0x204, 0x204), (0x30, 0x120, 0x120), (0x30, 0x124, 0x124), (0x30, 0x128, 0x128), (0x30, 0x12c, 0x12c), (0x30, 0x130, 0x130), (0x30, 0x134, 0x134), (0x30, 0x13c, 0x13c), (0x30, 0x144, 0x144), (0x40, 0x130, 0x130), (0x40, 0x134, 0x134), (0x40, 0x138, 0x138), (0x40, 0x13c, 0x13c), (0x40, 0x204, 0x204), (0x40, 0x208, 0x208)] ++ [(0x40, 0x20c, 0x20c), (0x40, 0x210, 0x210), (0x40, 0x214, 0x214), (0x40, 0x218, 0x218), (0x40, 0x21c, 0x21c), (0x40, 0x220, 0x220), (0x40, 0x224, 0x224), (0x50, 0x128, 0x128), (0x50, 0x178, 0x178), (0x80, 0x100, 0x100), (0x90, 0x108, 0x108), (0x90, 0x10c, 0x10c)] : List RegSpan) s (fenceUnit a0 s) := by
  intro a0 s
  unfold fenceUnit
  split
  · refine Only.step (fenceHalf_only _ _ _) (by decide +kernel) ?_
    exact Only.refl _ _ _
  · refine Only.step (fenceTile_only _ _ _) (by decide +kernel) ?_
    exact Only.refl _ _ _
  · refine Only.ite ?_ ?_
    · refine Only.step (fencePage_any _ _ _) (by decide +kernel) ?_
      exact Only.refl _ _ _
    · refine Only.step (stopZip_only _ _) (by decide +kernel) ?_
      refine Only.step (fenceRange_only _ _) (by decide +kernel) ?_
      refine Only.step (fencePage_any _ _ _) (by decide +kernel) ?_
      exact Only.refl _ _ _
  · refine Only.step (wsKick_only _) (by decide +kernel) ?_
    refine Only.step (fencePage_any _ _ _) (by decide +kernel) ?_
    exact Only.refl _ _ _
  · refine Only.step (wsKick_only _) (by decide +kernel) ?_
    refine Only.step (fencePage_any _ _ _) (by decide +kernel) ?_
    exact Only.refl _ _ _
  · refine Only.ite ?_ ?_
    · refine Only.step (fencePage_any _ _ _) (by decide +kernel) ?_
      exact Only.refl _ _ _
    · refine Only.step (cancelAll_only _ _) (by decide +kernel) ?_
      refine Only.step (fencePage_any _ _ _) (by decide +kernel) ?_
      exact Only.refl _ _ _
  · refine Only.step (fenceBridge_only _) (by decide +kernel) ?_
    exact Only.refl _ _ _
  · refine Only.step (fencePage_any _ _ _) (by decide +kernel) ?_
    exact Only.refl _ _ _

theorem execFenceReq_gives (k1 : Nat) : ∀ a0 a1 s, pageType a1 = k1 → Nat.beq k1 0x60 = false → Gives [.causes, .staleMid, .tiles, .mesh, .range, .zip, .reqs, .chans, .ws, .mail, .heldOut, .replicaN, .replicaS, .complexN, .complexS, .out] ([(0x0, 0x14, 0x14), (0x0, 0x18, 0x18), (0x0, 0x28, 0x28), (0x10, 0x880, 0x880), (0x20, 0x104, 0x104), (0x20, 0x204, 0x204), (0x30, 0x120, 0x120), (0x30, 0x124, 0x124), (0x30, 0x128, 0x128), (0x30, 0x12c, 0x12c), (0x30, 0x130, 0x130), (0x30, 0x134, 0x134), (0x30, 0x13c, 0x13c), (0x30, 0x144, 0x144), (0x40, 0x130, 0x130), (0x40, 0x134, 0x134), (0x40, 0x138, 0x138), (0x40, 0x13c, 0x13c), (0x40, 0x204, 0x204), (0x40, 0x208, 0x208)] ++ [(0x40, 0x20c, 0x20c), (0x40, 0x210, 0x210), (0x40, 0x214, 0x214), (0x40, 0x218, 0x218), (0x40, 0x21c, 0x21c), (0x40, 0x220, 0x220), (0x40, 0x224, 0x224), (0x50, 0x128, 0x128), (0x50, 0x178, 0x178), (0x80, 0x100, 0x100), (0x90, 0x108, 0x108), (0x90, 0x10c, 0x10c), (0xb0, 0x110, 0x110), (0xb0, 0x114, 0x114), (0xb0, 0x118, 0x118), (0xb0, 0x11c, 0x11c), (k1, 0x2c, 0x2c)] : List RegSpan) s (execFenceReq a0 a1 s) := by
  intro a0 a1 s hk1 hn1
  unfold execFenceReq
  refine Gives.next ?_
  refine guarded_only k1 hk1 hn1 (by first | decide +kernel | simp [within, Fld.inside, RegSpan.inside]) (fun s => ?_) ?_
  · refine Only.ite ?_ ?_
    · exact Only.refl _ _ _
    · refine Only.ite ?_ ?_
      · refine withPeers_only (by first | decide +kernel | simp [within, Fld.inside, RegSpan.inside]) (fun s => ?_) ?_
        · refine Only.step (fenceUnit_any _ _) (by first | decide +kernel | simp [within, Fld.inside, RegSpan.inside]) ?_
          exact Only.refl _ _ _
        · exact Only.refl _ _ _
      · refine Only.step (accessDenied_any _ _) (by first | decide +kernel | simp [within, Fld.inside, RegSpan.inside]) ?_
        exact Only.refl _ _ _
  · exact Only.refl _ _ _

theorem execFenceReq_any : ∀ a0 a1 s, Gives [.causes, .staleMid, .tiles, .mesh, .range, .zip, .reqs, .chans, .ws, .mail, .heldOut, .replicaN, .replicaS, .complexN, .complexS, .out] ([(0x0, 0x14, 0x14), (0x0, 0x18, 0x18), (0x0, 0x28, 0x28), (0x0, 0x2c, 0x2c), (0x10, 0x880, 0x880), (0x20, 0x104, 0x104), (0x20, 0x204, 0x204), (0x30, 0x120, 0x120), (0x30, 0x124, 0x124), (0x30, 0x128, 0x128), (0x30, 0x12c, 0x12c), (0x30, 0x130, 0x130), (0x30, 0x134, 0x134), (0x30, 0x13c, 0x13c), (0x30, 0x144, 0x144), (0x40, 0x130, 0x130), (0x40, 0x134, 0x134), (0x40, 0x138, 0x138), (0x40, 0x13c, 0x13c), (0x40, 0x204, 0x204)] ++ [(0x40, 0x208, 0x208), (0x40, 0x20c, 0x20c), (0x40, 0x210, 0x210), (0x40, 0x214, 0x214), (0x40, 0x218, 0x218), (0x40, 0x21c, 0x21c), (0x40, 0x220, 0x220), (0x40, 0x224, 0x224), (0x50, 0x128, 0x128), (0x50, 0x178, 0x178), (0x80, 0x100, 0x100), (0x90, 0x108, 0x108), (0x90, 0x10c, 0x10c), (0xb0, 0x110, 0x110), (0xb0, 0x114, 0x114), (0xb0, 0x118, 0x118), (0xb0, 0x11c, 0x11c)] : List RegSpan) s (execFenceReq a0 a1 s) := by
  intro a0 a1 s
  unfold execFenceReq
  refine Gives.next ?_
  refine guarded_any (by decide +kernel) (fun s => ?_) ?_
  · refine Only.ite ?_ ?_
    · exact Only.refl _ _ _
    · refine Only.ite ?_ ?_
      · refine withPeers_only (by decide +kernel) (fun s => ?_) ?_
        · refine Only.step (fenceUnit_any _ _) (by decide +kernel) ?_
          exact Only.refl _ _ _
        · exact Only.refl _ _ _
      · refine Only.step (accessDenied_any _ _) (by decide +kernel) ?_
        exact Only.refl _ _ _
  · exact Only.refl _ _ _

theorem joinBench_only : ∀ a0 s, Only [.tiles] [(0x20, 0x300, 0x300), (0x20, 0x350, 0x350)] s (joinBench a0 s) := by
  intro a0 s
  unfold joinBench
  extract_lets +onlyGivenNames x1
  extract_lets +onlyGivenNames x2
  refine Only.have_ (t := x2) ?_ fun hx2 => ?_
  · subst x2
    refine Only.step (clearHold_only _ _ _) (by decide +kernel) ?_
    refine Only.step (clearHold_only _ _ _) (by decide +kernel) ?_
    exact Only.refl _ _ _
  clear_value x2
  refine Only.step (fset_only 0x20 0x350 _ _ _ _ rfl rfl rfl) (by decide +kernel) ?_
  refine Only.step (fset_only 0x20 0x350 _ _ _ _ rfl rfl rfl) (by decide +kernel) ?_
  refine Only.step (fset_only 0x20 0x350 _ _ _ _ rfl rfl rfl) (by decide +kernel) ?_
  assumption

theorem ownRepairs_only (k0 : Nat) : ∀ a0 s, pageType a0 = k0 → Nat.beq k0 0x60 = false → Only [.causes] [] s (ownRepairs a0 s) := by
  intro a0 s hk0 hn0
  unfold ownRepairs
  refine Only.step (setCauses_only k0 _ _ _ hk0 hn0) (by first | decide +kernel | simp [within, Fld.inside, RegSpan.inside]) ?_
  exact Only.refl _ _ _

theorem ownRepairs_any : ∀ a0 s, Only [.causes] [] s (ownRepairs a0 s) := by
  intro a0 s
  unfold ownRepairs
  refine Only.step (setCauses_any _ _ _) (by decide +kernel) ?_
  exact Only.refl _ _ _

theorem endFence_only (k0 : Nat) : ∀ a0 s, pageType a0 = k0 → Nat.beq k0 0x60 = false → Only [.causes, .tiles, .ws, .heldOut, .out] [(0x20, 0x300, 0x300), (0x20, 0x350, 0x350), (0x30, 0x18, 0x18), (0x30, 0x120, 0x120), (0x30, 0x124, 0x124), (0x30, 0x128, 0x128), (0x30, 0x12c, 0x12c), (0x30, 0x130, 0x130), (0x30, 0x134, 0x134), (0x30, 0x13c, 0x13c), (0x30, 0x144, 0x144), (k0, 0x14, 0x14), (k0, 0x18, 0x18), (k0, 0x28, 0x28)] s (endFence a0 s) := by
  intro a0 s hk0 hn0
  unfold endFence
  refine Only.ite ?_ ?_
  · extract_lets +onlyGivenNames x1
    refine Only.have_ (t := x1) ?_ fun hx1 => ?_
    · subst x1
      refine Only.step (unfence_only k0 _ _ hk0 hn0) (by first | decide +kernel | simp [within, Fld.inside, RegSpan.inside]) ?_
      exact Only.refl _ _ _
    clear_value x1
    split
    · refine Only.step (joinBench_only _ _) (by first | decide +kernel | simp [within, Fld.inside, RegSpan.inside]) ?_
      assumption
    · refine Only.step (wsKick_only _) (by first | decide +kernel | simp [within, Fld.inside, RegSpan.inside]) ?_
      assumption
    · refine Only.step (wsKick_only _) (by first | decide +kernel | simp [within, Fld.inside, RegSpan.inside]) ?_
      assumption
    · assumption
  · exact Only.refl _ _ _

theorem endFence_any : ∀ a0 s, Only [.causes, .tiles, .ws, .mail, .heldOut, .out] [(0x0, 0x14, 0x14), (0x0, 0x18, 0x18), (0x0, 0x28, 0x28), (0x20, 0x300, 0x300), (0x20, 0x350, 0x350), (0x30, 0x120, 0x120), (0x30, 0x124, 0x124), (0x30, 0x128, 0x128), (0x30, 0x12c, 0x12c), (0x30, 0x130, 0x130), (0x30, 0x134, 0x134), (0x30, 0x13c, 0x13c), (0x30, 0x144, 0x144)] s (endFence a0 s) := by
  intro a0 s
  unfold endFence
  refine Only.ite ?_ ?_
  · extract_lets +onlyGivenNames x1
    refine Only.have_ (t := x1) ?_ fun hx1 => ?_
    · subst x1
      refine Only.step (unfence_any _ _) (by decide +kernel) ?_
      exact Only.refl _ _ _
    clear_value x1
    split
    · refine Only.step (joinBench_only _ _) (by decide +kernel) ?_
      assumption
    · refine Only.step (wsKick_only _) (by decide +kernel) ?_
      assumption
    · refine Only.step (wsKick_only _) (by decide +kernel) ?_
      assumption
    · assumption
  · exact Only.refl _ _ _

theorem releaseUnit_only (k1 : Nat) : ∀ a0 a1 s, pageType a1 = k1 → Nat.beq k1 0x60 = false → Only [.causes, .tiles, .ws, .mail, .heldOut, .complexN, .complexS, .out] [(0x0, 0x14, 0x14), (0x0, 0x18, 0x18), (0x0, 0x28, 0x28), (0x20, 0x300, 0x300), (0x20, 0x350, 0x350), (0x30, 0x120, 0x120), (0x30, 0x124, 0x124), (0x30, 0x128, 0x128), (0x30, 0x12c, 0x12c), (0x30, 0x130, 0x130), (0x30, 0x134, 0x134), (0x30, 0x13c, 0x13c), (0x30, 0x144, 0x144), (0x80, 0x100, 0x100)] s (releaseUnit a0 a1 s) := by
  intro a0 a1 s hk1 hn1
  unfold releaseUnit
  refine Only.ite ?_ ?_
  · exact Only.refl _ _ _
  · split
    · refine Only.step (setComplex_only _ _ _) (by first | decide +kernel | simp [within, Fld.inside, RegSpan.inside]) ?_
      exact Only.refl _ _ _
    · refine Only.ite ?_ ?_
      · exact Only.refl _ _ _
      · refine onBridge_only (fun h s => ?_) ?_
        · refine Only.step (setGroups_only _ _ _) (by first | decide +kernel | simp [within, Fld.inside, RegSpan.inside]) ?_
          exact Only.refl _ _ _
        · exact Only.refl _ _ _
    · refine Only.ite ?_ ?_
      · refine Only.step (endFence_any _ _) (by first | decide +kernel | simp [within, Fld.inside, RegSpan.inside]) ?_
        refine Only.step (ownRepairs_any _ _) (by first | decide +kernel | simp [within, Fld.inside, RegSpan.inside]) ?_
        exact Only.refl _ _ _
      · exact Only.refl _ _ _

theorem releaseUnit_any : ∀ a0 a1 s, Only [.causes, .tiles, .ws, .mail, .heldOut, .complexN, .complexS, .out] [(0x0, 0x14, 0x14), (0x0, 0x18, 0x18), (0x0, 0x28, 0x28), (0x20, 0x300, 0x300), (0x20, 0x350, 0x350), (0x30, 0x120, 0x120), (0x30, 0x124, 0x124), (0x30, 0x128, 0x128), (0x30, 0x12c, 0x12c), (0x30, 0x130, 0x130), (0x30, 0x134, 0x134), (0x30, 0x13c, 0x13c), (0x30, 0x144, 0x144), (0x80, 0x100, 0x100)] s (releaseUnit a0 a1 s) := by
  intro a0 a1 s
  unfold releaseUnit
  refine Only.ite ?_ ?_
  · exact Only.refl _ _ _
  · split
    · refine Only.step (setComplex_only _ _ _) (by decide +kernel) ?_
      exact Only.refl _ _ _
    · refine Only.ite ?_ ?_
      · exact Only.refl _ _ _
      · refine onBridge_only (fun h s => ?_) ?_
        · refine Only.step (setGroups_only _ _ _) (by decide +kernel) ?_
          exact Only.refl _ _ _
        · exact Only.refl _ _ _
    · refine Only.ite ?_ ?_
      · refine Only.step (endFence_any _ _) (by decide +kernel) ?_
        refine Only.step (ownRepairs_any _ _) (by decide +kernel) ?_
        exact Only.refl _ _ _
      · exact Only.refl _ _ _

theorem execFenceRelease_gives (k1 : Nat) : ∀ a0 a1 a2 s, pageType a1 = k1 → Nat.beq k1 0x60 = false → Gives [.causes, .staleMid, .tiles, .ws, .mail, .heldOut, .complexN, .complexS, .out] [(0x0, 0x14, 0x14), (0x0, 0x18, 0x18), (0x0, 0x28, 0x28), (0x10, 0x880, 0x880), (0x20, 0x300, 0x300), (0x20, 0x350, 0x350), (0x30, 0x120, 0x120), (0x30, 0x124, 0x124), (0x30, 0x128, 0x128), (0x30, 0x12c, 0x12c), (0x30, 0x130, 0x130), (0x30, 0x134, 0x134), (0x30, 0x13c, 0x13c), (0x30, 0x144, 0x144), (0x80, 0x100, 0x100), (0xb0, 0x110, 0x110), (0xb0, 0x114, 0x114), (0xb0, 0x118, 0x118), (0xb0, 0x11c, 0x11c), (k1, 0x2c, 0x2c)] s (execFenceRelease a0 a1 a2 s) := by
  intro a0 a1 a2 s hk1 hn1
  unfold execFenceRelease
  refine Gives.next ?_
  refine guarded_only k1 hk1 hn1 (by first | decide +kernel | simp [within, Fld.inside, RegSpan.inside]) (fun s => ?_) ?_
  · refine Only.ite ?_ ?_
    · refine withPeers_only (by first | decide +kernel | simp [within, Fld.inside, RegSpan.inside]) (fun s => ?_) ?_
      · refine Only.step (releaseUnit_any _ _ _) (by first | decide +kernel | simp [within, Fld.inside, RegSpan.inside]) ?_
        exact Only.refl _ _ _
      · exact Only.refl _ _ _
    · refine Only.step (accessDenied_any _ _) (by first | decide +kernel | simp [within, Fld.inside, RegSpan.inside]) ?_
      exact Only.refl _ _ _
  · exact Only.refl _ _ _

theorem execFenceRelease_any : ∀ a0 a1 a2 s, Gives [.causes, .staleMid, .tiles, .ws, .mail, .heldOut, .complexN, .complexS, .out] [(0x0, 0x14, 0x14), (0x0, 0x18, 0x18), (0x0, 0x28, 0x28), (0x0, 0x2c, 0x2c), (0x10, 0x880, 0x880), (0x20, 0x300, 0x300), (0x20, 0x350, 0x350), (0x30, 0x120, 0x120), (0x30, 0x124, 0x124), (0x30, 0x128, 0x128), (0x30, 0x12c, 0x12c), (0x30, 0x130, 0x130), (0x30, 0x134, 0x134), (0x30, 0x13c, 0x13c), (0x30, 0x144, 0x144), (0x80, 0x100, 0x100), (0xb0, 0x110, 0x110), (0xb0, 0x114, 0x114), (0xb0, 0x118, 0x118), (0xb0, 0x11c, 0x11c)] s (execFenceRelease a0 a1 a2 s) := by
  intro a0 a1 a2 s
  unfold execFenceRelease
  refine Gives.next ?_
  refine guarded_any (by decide +kernel) (fun s => ?_) ?_
  · refine Only.ite ?_ ?_
    · refine withPeers_only (by decide +kernel) (fun s => ?_) ?_
      · refine Only.step (releaseUnit_any _ _ _) (by decide +kernel) ?_
        exact Only.refl _ _ _
      · exact Only.refl _ _ _
    · refine Only.step (accessDenied_any _ _) (by decide +kernel) ?_
      exact Only.refl _ _ _
  · exact Only.refl _ _ _

theorem wakeTiles_only : ∀ a0 s, Only [.tiles] [] s (wakeTiles a0 s) := by
  intro a0 s
  unfold wakeTiles
  refine Only.ite ?_ ?_
  · exact Only.refl _ _ _
  · refine Only.foldl (fun s x => ?_) ?_
    · extract_lets +onlyGivenNames x1
      clear_value x1
      split
      · exact Only.refl _ _ _
      · refine Only.step (setTile_only _ _ _) (by decide +kernel) ?_
        exact Only.refl _ _ _
      · refine Only.ite ?_ ?_
        · exact Only.refl _ _ _
        · refine Only.step (setTile_only _ _ _) (by decide +kernel) ?_
          exact Only.refl _ _ _
    · exact Only.refl _ _ _

theorem wakeAll_only : ∀ s, Only [.pins, .phase, .tiles, .powerN, .powerS, .heldOut, .out] [(0xa0, 0x18, 0x18), (0xa1, 0x18, 0x18), (0xa1, 0x100, 0x100), (0xa1, 0x104, 0x104), (0xa1, 0x108, 0x108), (0xa1, 0x11c, 0x11c)] s (wakeAll s) := by
  intro s
  unfold wakeAll
  refine Only.ite ?_ ?_
  · refine Only.step (wakeBy_only _ _ _) (by decide +kernel) ?_
    exact Only.refl _ _ _
  · extract_lets +onlyGivenNames x1
    extract_lets +onlyGivenNames x2
    refine Only.have_ (t := x2) ?_ fun hx2 => ?_
    · subst x2
      refine Only.ite ?_ ?_
      · split
        · exact Only.refl _ _ _
        · refine Only.step (wakeTile_only _ _ _) (by decide +kernel) ?_
          exact Only.refl _ _ _
      · refine Only.step (wakeBy_only _ _ _) (by decide +kernel) ?_
        exact Only.refl _ _ _
    clear_value x2
    refine Only.step (wakeTiles_only _ _) (by decide +kernel) ?_
    refine Only.step (wakeTiles_only _ _) (by decide +kernel) ?_
    assumption

theorem execDbgWake_gives : ∀ a0 a1 s, Gives [.pins, .phase, .staleMid, .tiles, .mail, .powerN, .powerS, .heldOut, .out] [(0x10, 0x880, 0x880), (0xa0, 0x18, 0x18), (0xa1, 0x18, 0x18), (0xa1, 0x100, 0x100), (0xa1, 0x104, 0x104), (0xa1, 0x108, 0x108), (0xa1, 0x11c, 0x11c), (0xb0, 0x18, 0x18), (0xb0, 0x110, 0x110), (0xb0, 0x114, 0x114), (0xb0, 0x118, 0x118), (0xb0, 0x11c, 0x11c), (0xb1, 0x18, 0x18), (0xb1, 0x2c, 0x2c)] s (execDbgWake a0 a1 s) := by
  intro a0 a1 s
  unfold execDbgWake
  refine Gives.next ?_
  refine guarded_only 0xb1 rfl rfl (by decide +kernel) (fun s => ?_) ?_
  · refine Only.ite ?_ ?_
    · refine withPeers_only (by decide +kernel) (fun s => ?_) ?_
      · refine Only.step (wakeAll_only _) (by decide +kernel) ?_
        exact Only.refl _ _ _
      · exact Only.refl _ _ _
    · exact Only.refl _ _ _
  · exact Only.refl _ _ _

theorem execWakeOrderedSet_gives : ∀ a0 a1 a2 s, Gives [.pins, .phase, .tiles, .powerN, .powerS, .heldOut, .out] [(0xa0, 0x18, 0x18), (0xa1, 0x18, 0x18), (0xa1, 0x100, 0x100), (0xa1, 0x104, 0x104), (0xa1, 0x108, 0x108), (0xa1, 0x11c, 0x11c)] s (execWakeOrderedSet a0 a1 a2 s) := by
  intro a0 a1 a2 s
  unfold execWakeOrderedSet
  extract_lets +onlyGivenNames x1
  clear_value x1
  extract_lets +onlyGivenNames x2
  refine Gives.ite ?_ ?_
  · refine Gives.next ?_
    refine Only.step (wakeBy_only _ _ _) (by decide +kernel) ?_
    exact Only.refl _ _ _
  · refine Gives.next ?_
    exact Only.refl _ _ _


end Sys2Proof.Machine
end

