-- ==== Sys2Proof/Laws/OnlyReads.lean ====
section
/-! SUPPORT. What the operations and the meanings of Machine/Reads.lean can change (`Only`, `Gives`): the parts of the state and the
registers, whatever the operands are. -/

namespace Sys2Proof.Machine

set_option linter.unusedSimpArgs false
set_option maxRecDepth 20000
set_option Elab.async false

theorem removed_only (k1 : Nat) : ∀ a0 a1 a2 s, pageType a1 = k1 → Nat.beq k1 0x60 = false → Only [.range, .zip, .ws] [] s (removed a0 a1 a2 s) := by
  intro a0 a1 a2 s hk1 hn1
  unfold removed
  split
  · refine Only.ite ?_ ?_
    · refine Only.step (popWs_only _ _) (by first | decide +kernel | simp [within, Fld.inside, RegSpan.inside]) ?_
      exact Only.refl _ _ _
    · refine Only.ite ?_ ?_
      · refine Only.step (popWeak_only _ _ _) (by first | decide +kernel | simp [within, Fld.inside, RegSpan.inside]) ?_
        exact Only.refl _ _ _
      · exact Only.refl _ _ _
  · refine Only.ite ?_ ?_
    · refine Only.step (popRange_only _ _) (by first | decide +kernel | simp [within, Fld.inside, RegSpan.inside]) ?_
      exact Only.refl _ _ _
    · refine Only.ite ?_ ?_
      · refine Only.step (popZip_only _ _) (by first | decide +kernel | simp [within, Fld.inside, RegSpan.inside]) ?_
        exact Only.refl _ _ _
      · exact Only.refl _ _ _
  · refine Only.ite ?_ ?_
    · refine Only.step (popRange_only _ _) (by first | decide +kernel | simp [within, Fld.inside, RegSpan.inside]) ?_
      exact Only.refl _ _ _
    · refine Only.ite ?_ ?_
      · refine Only.step (popZip_only _ _) (by first | decide +kernel | simp [within, Fld.inside, RegSpan.inside]) ?_
        exact Only.refl _ _ _
      · exact Only.refl _ _ _
  · exact Only.refl _ _ _

theorem removed_any : ∀ a0 a1 a2 s, Only [.range, .zip, .ws] [] s (removed a0 a1 a2 s) := by
  intro a0 a1 a2 s
  unfold removed
  split
  · refine Only.ite ?_ ?_
    · refine Only.step (popWs_only _ _) (by decide +kernel) ?_
      exact Only.refl _ _ _
    · refine Only.ite ?_ ?_
      · refine Only.step (popWeak_only _ _ _) (by decide +kernel) ?_
        exact Only.refl _ _ _
      · exact Only.refl _ _ _
  · refine Only.ite ?_ ?_
    · refine Only.step (popRange_only _ _) (by decide +kernel) ?_
      exact Only.refl _ _ _
    · refine Only.ite ?_ ?_
      · refine Only.step (popZip_only _ _) (by decide +kernel) ?_
        exact Only.refl _ _ _
      · exact Only.refl _ _ _
  · refine Only.ite ?_ ?_
    · refine Only.step (popRange_only _ _) (by decide +kernel) ?_
      exact Only.refl _ _ _
    · refine Only.ite ?_ ?_
      · refine Only.step (popZip_only _ _) (by decide +kernel) ?_
        exact Only.refl _ _ _
      · exact Only.refl _ _ _
  · exact Only.refl _ _ _

theorem Only.set_latched_free : ∀ {m : List Fld} {r : List RegSpan} {s t : State} {v0 v1}, [.latched, .free].all (fun x => m.contains x) = true → Only m r s t → Only m r s { t with latched := v0, free := v1 } := by
  intro m r s t v0 v1 hm h
  refine h.trans ⟨fun x hx _ => ?_, fun _ _ _ => rfl, fun c => c⟩
  cases x <;> first | rfl | exact absurd (List.contains_iff_mem.mp (List.all_eq_true.mp hm _ (by simp))) hx

theorem readServed_only (k1 : Nat) : ∀ a0 a1 a2 s, pageType a1 = k1 → Nat.beq k1 0x60 = false → Only [.latched, .range, .zip, .ws, .free] [] s (readServed a0 a1 a2 s).2 := by
  intro a0 a1 a2 s hk1 hn1
  unfold readServed
  extract_lets +onlyGivenNames x1
  clear_value x1
  extract_lets +onlyGivenNames x2
  clear_value x2
  extract_lets +onlyGivenNames x3
  refine Only.have_ (t := x3) ?_ fun hx3 => ?_
  · subst x3
    refine Only.set_latched_free (by simp) ?_
    exact Only.refl _ _ _
  clear_value x3
  extract_lets +onlyGivenNames x4
  refine Only.have_ (t := x4) ?_ fun hx4 => ?_
  · subst x4
    refine Only.foldl (fun s x => ?_) ?_
    · refine Only.set_latched (by simp) ?_
      exact Only.refl _ _ _
    · assumption
  clear_value x4
  refine Only.pair ?_
  refine Only.step (removed_only k1 _ _ _ _ hk1 hn1) (by first | decide +kernel | simp [within, Fld.inside, RegSpan.inside]) ?_
  assumption

theorem readServed_only_eq (k1 : Nat) : ∀ a0 a1 a2 s x t, pageType a1 = k1 → Nat.beq k1 0x60 = false → readServed a0 a1 a2 s = (x, t) → Only [.latched, .range, .zip, .ws, .free] [] s t := by
  intro a0 a1 a2 s x t hk1 hn1 h
  have := readServed_only k1 a0 a1 a2 s hk1 hn1
  rw [h] at this
  exact this

theorem readServed_any : ∀ a0 a1 a2 s, Only [.latched, .range, .zip, .ws, .free] [] s (readServed a0 a1 a2 s).2 := by
  intro a0 a1 a2 s
  unfold readServed
  extract_lets +onlyGivenNames x1
  clear_value x1
  extract_lets +onlyGivenNames x2
  clear_value x2
  extract_lets +onlyGivenNames x3
  refine Only.have_ (t := x3) ?_ fun hx3 => ?_
  · subst x3
    refine Only.set_latched_free (by decide +kernel) ?_
    exact Only.refl _ _ _
  clear_value x3
  extract_lets +onlyGivenNames x4
  refine Only.have_ (t := x4) ?_ fun hx4 => ?_
  · subst x4
    refine Only.foldl (fun s x => ?_) ?_
    · refine Only.set_latched (by decide +kernel) ?_
      exact Only.refl _ _ _
    · assumption
  clear_value x4
  refine Only.pair ?_
  refine Only.step (removed_any _ _ _ _) (by decide +kernel) ?_
  assumption

theorem readServed_any_eq : ∀ a0 a1 a2 s x t, readServed a0 a1 a2 s = (x, t) → Only [.latched, .range, .zip, .ws, .free] [] s t := by
  intro a0 a1 a2 s x t h
  have := readServed_any a0 a1 a2 s
  rw [h] at this
  exact this

theorem readReg_only : ∀ a0 a1 s, Only [.latched, .range, .zip, .ws, .mail, .heldOut, .free, .out] [(0x0, 0x18, 0x18)] s (readReg a0 a1 s).2 := by
  intro a0 a1 s
  unfold readReg
  split
  · refine Only.pair ?_
    exact Only.refl _ _ _
  · refine Only.ite_snd ?_ ?_
    · refine Only.pair ?_
      exact Only.refl _ _ _
    · refine Only.ite_snd ?_ ?_
      · refine Only.pair ?_
        refine Only.step (raise_any _ _ _) (by decide +kernel) ?_
        exact Only.refl _ _ _
      · split
        · refine Only.ite_snd ?_ ?_
          · refine Only.pair ?_
            refine Only.step (accessDenied_any _ _) (by decide +kernel) ?_
            exact Only.refl _ _ _
          · refine Only.step (readServed_any _ _ _ _) (by decide +kernel) ?_
            exact Only.refl _ _ _
        · refine Only.step (readServed_any _ _ _ _) (by decide +kernel) ?_
          exact Only.refl _ _ _

theorem readReg_only_eq : ∀ a0 a1 s x t, readReg a0 a1 s = (x, t) → Only [.latched, .range, .zip, .ws, .mail, .heldOut, .free, .out] [(0x0, 0x18, 0x18)] s t := by
  intro a0 a1 s x t h
  have := readReg_only a0 a1 s
  rw [h] at this
  exact this

theorem execCounterLatchRead_gives : ∀ a0 a1 s, Gives [.latched, .range, .zip, .ws, .mail, .ring, .heldOut, .free, .out] [(0x0, 0x18, 0x18), (0x70, 0x10c, 0x10c), (0x71, 0x11c, 0x11c)] s (execCounterLatchRead a0 a1 s) := by
  intro a0 a1 s
  unfold execCounterLatchRead
  extract_lets +onlyGivenNames x1
  refine Gives.next ?_
  refine Only.step (emit_only _ _) (by decide +kernel) ?_
  refine Only.step (readReg_only _ _ _) (by decide +kernel) ?_
  exact Only.refl _ _ _


end Sys2Proof.Machine
end

