-- ==== Sys2Proof/Laws/OnlyCommands.lean ====
section
/-! SUPPORT. What the operations and the meanings of Machine/Commands.lean can change (`Only`, `Gives`): the parts of the state and the
registers, whatever the operands are. -/

namespace Sys2Proof.Machine

set_option linter.unusedSimpArgs false
set_option maxRecDepth 20000
set_option Elab.async false

theorem storeWord_only : ∀ a0 a1 a2 s, Only [.regs] [] s (storeWord a0 a1 a2 s) := by
  intro a0 a1 a2 s
  exact setRegWord_all _ _ _

theorem plainWrite_only (k1 : Nat) : ∀ a0 a1 a2 a3 s, pageType a1 = k1 → Nat.beq k1 0x60 = false → Only [.regs, .staleMid, .heldOut, .out] [] s (plainWrite a0 a1 a2 a3 s) := by
  intro a0 a1 a2 a3 s hk1 hn1
  unfold plainWrite
  refine Only.ite ?_ ?_
  · refine guardedRwl_only k1 hk1 hn1 (by first | decide +kernel | simp [within, Fld.inside, RegSpan.inside]) (fun s => ?_) ?_
    · refine Only.step (storeWord_only _ _ _ _) (by first | decide +kernel | simp [within, Fld.inside, RegSpan.inside]) ?_
      exact Only.refl _ _ _
    · exact Only.refl _ _ _
  · refine guarded_only k1 hk1 hn1 (by first | decide +kernel | simp [within, Fld.inside, RegSpan.inside]) (fun s => ?_) ?_
    · refine Only.step (storeWord_only _ _ _ _) (by first | decide +kernel | simp [within, Fld.inside, RegSpan.inside]) ?_
      exact Only.refl _ _ _
    · exact Only.refl _ _ _

theorem plainWrite_any : ∀ a0 a1 a2 a3 s, Only [.regs, .staleMid, .mail, .heldOut, .out] [] s (plainWrite a0 a1 a2 a3 s) := by
  intro a0 a1 a2 a3 s
  unfold plainWrite
  refine Only.ite ?_ ?_
  · refine guardedRwl_any (by decide +kernel) (fun s => ?_) ?_
    · refine Only.step (storeWord_only _ _ _ _) (by decide +kernel) ?_
      exact Only.refl _ _ _
    · exact Only.refl _ _ _
  · refine guarded_any (by decide +kernel) (fun s => ?_) ?_
    · refine Only.step (storeWord_only _ _ _ _) (by decide +kernel) ?_
      exact Only.refl _ _ _
    · exact Only.refl _ _ _

theorem storeThenMask : ∀ s, Only [.regs, .staleMid, .mail, .heldOut, .out] [] s s := by
  intro s
  exact Only.refl _ _ s

theorem storeThen_only {m : List Fld} {r : List RegSpan} {w : Wr} {p : Page} {off : Nat} {v : W32} {f : State → State}
    {s u : State} (hm : within [.regs, .staleMid, .mail, .heldOut, .out] [] m r = true) (hf : ∀ s, Only m r s (f s))
    (h : Only m r u s) : Only m r u (storeThen w p off v f s) := by
  unfold storeThen
  refine guarded_any (within_within (by decide +kernel) hm) (fun s => ?_) h
  exact (within_trans (by decide +kernel) hm (storeWord_only _ _ _ s)).trans (hf _)

theorem byRow_only {m : List Fld} {r : List RegSpan} {f : State → Host.Outcome State Fault Refusal} {s u : State}
    (hf : ∀ s, Gives m r s (f s)) (h : Only m r u s) : Only m r u (byRow f s) := by
  exact nextOf_only (hf _) h

theorem writeEvtEn_only (k1 : Nat) : ∀ a0 a1 a2 s, pageType a1 = k1 → Nat.beq k1 0x60 = false → Only [.mail, .heldOut, .out] [(k1, 0x1c, 0x1c)] s (writeEvtEn a0 a1 a2 s) := by
  intro a0 a1 a2 s hk1 hn1
  unfold writeEvtEn
  split
  · split
    · refine Only.step (setMail_only _ _ _ _) (by first | decide +kernel | simp [within, Fld.inside, RegSpan.inside]) ?_
      exact Only.refl _ _ _
    · exact Only.refl _ _ _
  · extract_lets +onlyGivenNames x1
    refine Only.have_ (t := x1) ?_ fun hx1 => ?_
    · subst x1
      refine Only.step (fset_only k1 0x1c _ _ _ _ hk1 rfl rfl) (by first | decide +kernel | simp [within, Fld.inside, RegSpan.inside]) ?_
      exact Only.refl _ _ _
    clear_value x1
    refine Only.ite ?_ ?_
    · refine Only.step (pageInterrupt_only k1 _ _ hk1 hn1) (by first | decide +kernel | simp [within, Fld.inside, RegSpan.inside]) ?_
      assumption
    · assumption

theorem writeEvtEn_any : ∀ a0 a1 a2 s, Only [.mail, .heldOut, .out] [(0x0, 0x1c, 0x1c)] s (writeEvtEn a0 a1 a2 s) := by
  intro a0 a1 a2 s
  unfold writeEvtEn
  split
  · split
    · refine Only.step (setMail_only _ _ _ _) (by decide +kernel) ?_
      exact Only.refl _ _ _
    · exact Only.refl _ _ _
  · extract_lets +onlyGivenNames x1
    refine Only.have_ (t := x1) ?_ fun hx1 => ?_
    · subst x1
      refine Only.step (fset_any 0x1c _ _ _ _ rfl rfl) (by decide +kernel) ?_
      exact Only.refl _ _ _
    clear_value x1
    refine Only.ite ?_ ?_
    · refine Only.step (pageInterrupt_any _ _) (by decide +kernel) ?_
      assumption
    · assumption

theorem writeRelease_only (k1 : Nat) : ∀ a0 a1 s, pageType a1 = k1 → Nat.beq k1 0x60 = false → Only [.causes, .staleMid, .tiles, .ws, .mail, .heldOut, .complexN, .complexS, .free, .out] [(0x0, 0x14, 0x14), (0x0, 0x18, 0x18), (0x0, 0x28, 0x28), (0x0, 0x2c, 0x2c), (0x10, 0x880, 0x880), (0x20, 0x300, 0x300), (0x20, 0x350, 0x350), (0x30, 0x120, 0x120), (0x30, 0x124, 0x124), (0x30, 0x128, 0x128), (0x30, 0x12c, 0x12c), (0x30, 0x130, 0x130), (0x30, 0x134, 0x134), (0x30, 0x13c, 0x13c), (0x30, 0x144, 0x144), (0x80, 0x100, 0x100), (0xb0, 0x110, 0x110), (0xb0, 0x114, 0x114), (0xb0, 0x118, 0x118), (0xb0, 0x11c, 0x11c)] s (writeRelease a0 a1 s) := by
  intro a0 a1 s hk1 hn1
  unfold writeRelease
  extract_lets +onlyGivenNames x1
  refine byRow_only (fun s => ?_) ?_
  · refine Gives.after (execFenceRelease_any _ _ _ _) (by first | decide +kernel | simp [within, Fld.inside, RegSpan.inside]) ?_
    exact Only.refl _ _ _
  · refine Only.step (draw_only _) (by first | decide +kernel | simp [within, Fld.inside, RegSpan.inside]) ?_
    exact Only.refl _ _ _

theorem writeRelease_any : ∀ a0 a1 s, Only [.causes, .staleMid, .tiles, .ws, .mail, .heldOut, .complexN, .complexS, .free, .out] [(0x0, 0x14, 0x14), (0x0, 0x18, 0x18), (0x0, 0x28, 0x28), (0x0, 0x2c, 0x2c), (0x10, 0x880, 0x880), (0x20, 0x300, 0x300), (0x20, 0x350, 0x350), (0x30, 0x120, 0x120), (0x30, 0x124, 0x124), (0x30, 0x128, 0x128), (0x30, 0x12c, 0x12c), (0x30, 0x130, 0x130), (0x30, 0x134, 0x134), (0x30, 0x13c, 0x13c), (0x30, 0x144, 0x144), (0x80, 0x100, 0x100), (0xb0, 0x110, 0x110), (0xb0, 0x114, 0x114), (0xb0, 0x118, 0x118), (0xb0, 0x11c, 0x11c)] s (writeRelease a0 a1 s) := by
  intro a0 a1 s
  unfold writeRelease
  extract_lets +onlyGivenNames x1
  refine byRow_only (fun s => ?_) ?_
  · refine Gives.after (execFenceRelease_any _ _ _ _) (by decide +kernel) ?_
    exact Only.refl _ _ _
  · refine Only.step (draw_only _) (by decide +kernel) ?_
    exact Only.refl _ _ _

theorem writeCommon_any : ∀ a0 a1 a2 a3 s, Only [.causes, .staleMid, .tiles, .mesh, .range, .zip, .reqs, .chans, .ws, .mail, .heldOut, .replicaN, .replicaS, .complexN, .complexS, .free, .out] ([(0x0, 0x10, 0x10), (0x0, 0x14, 0x14), (0x0, 0x18, 0x18), (0x0, 0x1c, 0x1c), (0x0, 0x28, 0x28), (0x0, 0x2c, 0x2c), (0x0, 0x30, 0x30), (0x10, 0x880, 0x880), (0x20, 0x104, 0x104), (0x20, 0x204, 0x204), (0x20, 0x300, 0x300), (0x20, 0x350, 0x350), (0x30, 0x120, 0x120), (0x30, 0x124, 0x124), (0x30, 0x128, 0x128), (0x30, 0x12c, 0x12c), (0x30, 0x130, 0x130), (0x30, 0x134, 0x134), (0x30, 0x13c, 0x13c), (0x30, 0x144, 0x144)] ++ [(0x40, 0x130, 0x130), (0x40, 0x134, 0x134), (0x40, 0x138, 0x138), (0x40, 0x13c, 0x13c), (0x40, 0x204, 0x204), (0x40, 0x208, 0x208), (0x40, 0x20c, 0x20c), (0x40, 0x210, 0x210), (0x40, 0x214, 0x214), (0x40, 0x218, 0x218), (0x40, 0x21c, 0x21c), (0x40, 0x220, 0x220), (0x40, 0x224, 0x224), (0x50, 0x128, 0x128), (0x50, 0x178, 0x178), (0x80, 0x100, 0x100), (0x90, 0x108, 0x108), (0x90, 0x10c, 0x10c), (0xb0, 0x110, 0x110), (0xb0, 0x114, 0x114)] ++ [(0xb0, 0x118, 0x118), (0xb0, 0x11c, 0x11c)] : List RegSpan) s (writeCommon a0 a1 a2 a3 s) := by
  intro a0 a1 a2 a3 s
  unfold writeCommon
  refine Only.ite ?_ ?_
  · refine byRow_only (fun s => ?_) ?_
    · refine Gives.after (execEnWrite_any _ _ _ _) (by decide +kernel) ?_
      exact Only.refl _ _ _
    · exact Only.refl _ _ _
  · refine Only.ite ?_ ?_
    · refine guarded_any (by decide +kernel) (fun s => ?_) ?_
      · refine Only.step (writeEvtEn_any _ _ _ _) (by decide +kernel) ?_
        exact Only.refl _ _ _
      · exact Only.refl _ _ _
    · refine Only.ite ?_ ?_
      · refine byRow_only (fun s => ?_) ?_
        · refine Gives.after (execEvtClrWrite_any _ _ _ _ _) (by decide +kernel) ?_
          exact Only.refl _ _ _
        · exact Only.refl _ _ _
      · refine Only.ite ?_ ?_
        · refine Only.ite ?_ ?_
          · refine byRow_only (fun s => ?_) ?_
            · refine Gives.after (execFenceReq_any _ _ _) (by decide +kernel) ?_
              exact Only.refl _ _ _
            · exact Only.refl _ _ _
          · refine Only.ite ?_ ?_
            · refine Only.step (writeRelease_any _ _ _) (by decide +kernel) ?_
              exact Only.refl _ _ _
            · refine guarded_any (by decide +kernel) (fun s => ?_) ?_
              · exact Only.refl _ _ _
              · exact Only.refl _ _ _
        · refine Only.ite ?_ ?_
          · refine byRow_only (fun s => ?_) ?_
            · refine Gives.after (execLockSet_any _ _ _) (by decide +kernel) ?_
              exact Only.refl _ _ _
            · exact Only.refl _ _ _
          · refine guarded_any (by decide +kernel) (fun s => ?_) ?_
            · exact Only.refl _ _ _
            · exact Only.refl _ _ _

theorem writeTile_only : ∀ a0 a1 a2 a3 s, Only [.regs, .staleMid, .tiles, .mesh, .range, .heldOut, .out] [] s (writeTile a0 a1 a2 a3 s) := by
  intro a0 a1 a2 a3 s
  unfold writeTile
  refine Only.ite ?_ ?_
  · refine byRow_only (fun s => ?_) ?_
    · refine Gives.after (execBankWriteCommand_gives _ _ _ _) (by decide +kernel) ?_
      exact Only.refl _ _ _
    · exact Only.refl _ _ _
  · refine Only.ite ?_ ?_
    · refine guarded_only 0x20 rfl rfl (by decide +kernel) (fun s => ?_) ?_
      · refine Only.step (startRepair_only _ _ _ _) (by decide +kernel) ?_
        exact Only.refl _ _ _
      · exact Only.refl _ _ _
    · refine Only.ite ?_ ?_
      · refine byRow_only (fun s => ?_) ?_
        · refine Gives.after (execSubstCmd_gives _ _ _ _) (by decide +kernel) ?_
          exact Only.refl _ _ _
        · exact Only.refl _ _ _
      · refine Only.step (plainWrite_only 0x20 _ _ _ _ _ rfl rfl) (by decide +kernel) ?_
        exact Only.refl _ _ _

theorem writeId_only : ∀ a0 a1 s, Only [.regs, .staleMid, .ws, .heldOut, .out] [] s (writeId a0 a1 s) := by
  intro a0 a1 s
  unfold writeId
  extract_lets +onlyGivenNames x1
  clear_value x1
  refine Only.ite ?_ ?_
  · refine byRow_only (fun s => ?_) ?_
    · refine Gives.after (execIdRead_gives _ _ _) (by decide +kernel) ?_
      exact Only.refl _ _ _
    · exact Only.refl _ _ _
  · refine Only.ite ?_ ?_
    · refine byRow_only (fun s => ?_) ?_
      · refine Gives.after (execIdProgramField_gives _ _ _) (by decide +kernel) ?_
        exact Only.refl _ _ _
      · exact Only.refl _ _ _
    · refine byRow_only (fun s => ?_) ?_
      · refine Gives.after (execIdCmdInvalidOp_gives _ _ _) (by decide +kernel) ?_
        exact Only.refl _ _ _
      · exact Only.refl _ _ _

theorem writeWsc_only : ∀ a0 a1 a2 a3 s, Only [.regs, .staleMid, .ws, .mail, .heldOut, .out] [] s (writeWsc a0 a1 a2 a3 s) := by
  intro a0 a1 a2 a3 s
  unfold writeWsc
  extract_lets +onlyGivenNames x1
  refine Only.ite ?_ ?_
  · refine storeThen_only (by decide +kernel) (fun s => ?_) ?_
    · refine Only.step (wsKick_only _) (by decide +kernel) ?_
      exact Only.refl _ _ _
    · exact Only.refl _ _ _
  · refine Only.ite ?_ ?_
    · refine Only.ite ?_ ?_
      · refine byRow_only (fun s => ?_) ?_
        · refine Gives.after (execLoopMaxClr_gives _ _ _) (by decide +kernel) ?_
          exact Only.refl _ _ _
        · exact Only.refl _ _ _
      · refine guarded_only 0x30 rfl rfl (by decide +kernel) (fun s => ?_) ?_
        · exact Only.refl _ _ _
        · exact Only.refl _ _ _
    · refine Only.ite ?_ ?_
      · refine Only.step (wsPost_only _ _ _ _) (by decide +kernel) ?_
        exact Only.refl _ _ _
      · refine Only.ite ?_ ?_
        · refine Only.step (writeId_only _ _ _) (by decide +kernel) ?_
          exact Only.refl _ _ _
        · refine Only.step (plainWrite_only 0x30 _ _ _ _ _ rfl rfl) (by decide +kernel) ?_
          exact Only.refl _ _ _

theorem writeSelect_only (k1 : Nat) : ∀ a0 a1 a2 a3 a4 s, pageType a1 = k1 → Nat.beq k1 0x60 = false → Only [.staleMid, .selects, .heldOut, .out] [(0x10, 0x880, 0x880), (0xb0, 0x18, 0x18), (0xb0, 0x110, 0x110), (0xb0, 0x114, 0x114), (0xb0, 0x118, 0x118), (0xb0, 0x11c, 0x11c), (k1, 0x18, 0x18), (k1, 0x2c, 0x2c)] s (writeSelect a0 a1 a2 a3 a4 s) := by
  intro a0 a1 a2 a3 a4 s hk1 hn1
  unfold writeSelect
  refine guarded_only k1 hk1 hn1 (by first | decide +kernel | simp [within, Fld.inside, RegSpan.inside]) (fun s => ?_) ?_
  · refine Only.set_selects (by simp) ?_
    exact Only.refl _ _ _
  · exact Only.refl _ _ _

theorem writeSelect_any : ∀ a0 a1 a2 a3 a4 s, Only [.staleMid, .selects, .mail, .heldOut, .out] [(0x0, 0x18, 0x18), (0x0, 0x2c, 0x2c), (0x10, 0x880, 0x880), (0xb0, 0x110, 0x110), (0xb0, 0x114, 0x114), (0xb0, 0x118, 0x118), (0xb0, 0x11c, 0x11c)] s (writeSelect a0 a1 a2 a3 a4 s) := by
  intro a0 a1 a2 a3 a4 s
  unfold writeSelect
  refine guarded_any (by decide +kernel) (fun s => ?_) ?_
  · refine Only.set_selects (by decide +kernel) ?_
    exact Only.refl _ _ _
  · exact Only.refl _ _ _

theorem writeCc_only : ∀ a0 a1 a2 a3 s, Only [.regs, .staleMid, .selects, .mail, .heldOut, .replicaN, .replicaS, .complexN, .complexS, .out] [] s (writeCc a0 a1 a2 a3 s) := by
  intro a0 a1 a2 a3 s
  unfold writeCc
  refine Only.ite ?_ ?_
  · refine Only.step (writeSelect_only 0x10 _ _ _ _ _ _ rfl rfl) (by decide +kernel) ?_
    exact Only.refl _ _ _
  · refine Only.ite ?_ ?_
    · refine Only.step (writeSelect_only 0x10 _ _ _ _ _ _ rfl rfl) (by decide +kernel) ?_
      exact Only.refl _ _ _
    · refine Only.ite ?_ ?_
      · refine byRow_only (fun s => ?_) ?_
        · refine Gives.after (execYield_gives _ _ _) (by decide +kernel) ?_
          exact Only.refl _ _ _
        · exact Only.refl _ _ _
      · refine Only.step (plainWrite_only 0x10 _ _ _ _ _ rfl rfl) (by decide +kernel) ?_
        exact Only.refl _ _ _

theorem writeMig_only : ∀ a0 a1 a2 a3 s, Only [.regs, .staleMid, .tiles, .range, .zip, .heldOut, .out] [] s (writeMig a0 a1 a2 a3 s) := by
  intro a0 a1 a2 a3 s
  unfold writeMig
  extract_lets +onlyGivenNames x1
  refine Only.ite ?_ ?_
  · refine Only.step (postRange_only _ _ _ _ _) (by decide +kernel) ?_
    exact Only.refl _ _ _
  · refine Only.ite ?_ ?_
    · refine Only.step (postZip_only _ _ _ _ _) (by decide +kernel) ?_
      exact Only.refl _ _ _
    · refine Only.ite ?_ ?_
      · refine guarded_only 0x40 rfl rfl (by decide +kernel) (fun s => ?_) ?_
        · refine Only.step (modZip_only _ _) (by decide +kernel) ?_
          exact Only.refl _ _ _
        · exact Only.refl _ _ _
      · refine Only.step (plainWrite_only 0x40 _ _ _ _ _ rfl rfl) (by decide +kernel) ?_
        exact Only.refl _ _ _

theorem writeCtrl_only : ∀ a0 a1 s, Only [.chans, .ring, .heldOut, .out] [(0x50, 0x18, 0x18), (0x50, 0x120, 0x120), (0x50, 0x134, 0x134), (0x50, 0x138, 0x138), (0x70, 0x18, 0x18), (0x70, 0x10c, 0x10c), (0x71, 0x18, 0x18), (0x71, 0x11c, 0x11c)] s (writeCtrl a0 a1 s) := by
  intro a0 a1 s
  unfold writeCtrl
  refine Only.ite ?_ ?_
  · refine Only.step (cfgReject_only _ _) (by decide +kernel) ?_
    exact Only.refl _ _ _
  · extract_lets +onlyGivenNames x1
    refine Only.have_ (t := x1) ?_ fun hx1 => ?_
    · subst x1
      refine Only.ite ?_ ?_
      · refine Only.step (sqDiscard_only _ _) (by decide +kernel) ?_
        exact Only.refl _ _ _
      · exact Only.refl _ _ _
    clear_value x1
    extract_lets +onlyGivenNames x2
    refine Only.have_ (t := x2) ?_ fun hx2 => ?_
    · subst x2
      refine Only.ite ?_ ?_
      · refine Only.step (armReplay_only _ _) (by decide +kernel) ?_
        assumption
      · assumption
    clear_value x2
    refine Only.step (setHold_only _ _ _) (by decide +kernel) ?_
    assumption

theorem writeResv_only : ∀ a0 a1 a2 s, Only [.staleMid, .chans, .heldOut, .out] [(0x10, 0x880, 0x880), (0x50, 0x18, 0x18), (0x50, 0x2c, 0x2c), (0x50, 0x15c, 0x15c), (0x50, 0x160, 0x160), (0x50, 0x164, 0x164), (0x50, 0x168, 0x168), (0xb0, 0x18, 0x18), (0xb0, 0x110, 0x110), (0xb0, 0x114, 0x114), (0xb0, 0x118, 0x118), (0xb0, 0x11c, 0x11c)] s (writeResv a0 a1 a2 s) := by
  intro a0 a1 a2 s
  unfold writeResv
  extract_lets +onlyGivenNames x1
  clear_value x1
  extract_lets +onlyGivenNames x2
  clear_value x2
  extract_lets +onlyGivenNames x3
  clear_value x3
  refine Only.ite ?_ ?_
  · refine byRow_only (fun s => ?_) ?_
    · refine Gives.after (execResvSustained_gives _ _ _ _ _) (by decide +kernel) ?_
      exact Only.refl _ _ _
    · exact Only.refl _ _ _
  · refine Only.ite ?_ ?_
    · refine byRow_only (fun s => ?_) ?_
      · refine Gives.after (execResvFrame_gives _ _ _ _ _) (by decide +kernel) ?_
        exact Only.refl _ _ _
      · exact Only.refl _ _ _
    · refine Only.ite ?_ ?_
      · refine byRow_only (fun s => ?_) ?_
        · refine Gives.after (execResvRelease_gives _ _ _) (by decide +kernel) ?_
          exact Only.refl _ _ _
        · exact Only.refl _ _ _
      · refine byRow_only (fun s => ?_) ?_
        · refine Gives.after (execResvInvalidClass_gives _ _ _ _ _) (by decide +kernel) ?_
          exact Only.refl _ _ _
        · exact Only.refl _ _ _

theorem writeChan_only : ∀ a0 a1 a2 a3 s, Only [.regs, .staleMid, .tiles, .mesh, .range, .zip, .reqs, .chans, .ring, .heldOut, .out] [] s (writeChan a0 a1 a2 a3 s) := by
  intro a0 a1 a2 a3 s
  unfold writeChan
  extract_lets +onlyGivenNames x1
  refine Only.ite ?_ ?_
  · refine byRow_only (fun s => ?_) ?_
    · refine Gives.after (execDoorbell_gives _ _ _ _) (by decide +kernel) ?_
      exact Only.refl _ _ _
    · exact Only.refl _ _ _
  · refine Only.ite ?_ ?_
    · refine guarded_only 0x50 rfl rfl (by decide +kernel) (fun s => ?_) ?_
      · refine Only.ite ?_ ?_
        · refine Only.step (storeWord_only _ _ _ _) (by decide +kernel) ?_
          exact Only.refl _ _ _
        · refine Only.step (cfgReject_only _ _) (by decide +kernel) ?_
          exact Only.refl _ _ _
      · exact Only.refl _ _ _
    · refine Only.ite ?_ ?_
      · refine byRow_only (fun s => ?_) ?_
        · refine Gives.after (execChanAssign_gives _ _ _ _) (by decide +kernel) ?_
          exact Only.refl _ _ _
        · exact Only.refl _ _ _
      · refine Only.ite ?_ ?_
        · refine guarded_only 0x50 rfl rfl (by decide +kernel) (fun s => ?_) ?_
          · refine Only.ite ?_ ?_
            · refine Only.step (storeWord_only _ _ _ _) (by decide +kernel) ?_
              exact Only.refl _ _ _
            · refine Only.step (cfgReject_only _ _) (by decide +kernel) ?_
              exact Only.refl _ _ _
          · exact Only.refl _ _ _
        · refine Only.ite ?_ ?_
          · refine byRow_only (fun s => ?_) ?_
            · refine Gives.after (execCqHeadWrite_gives _ _ _ _) (by decide +kernel) ?_
              exact Only.refl _ _ _
            · exact Only.refl _ _ _
          · refine Only.ite ?_ ?_
            · refine guarded_only 0x50 rfl rfl (by decide +kernel) (fun s => ?_) ?_
              · refine Only.step (writeCtrl_only _ _ _) (by decide +kernel) ?_
                exact Only.refl _ _ _
              · exact Only.refl _ _ _
            · refine Only.ite ?_ ?_
              · refine byRow_only (fun s => ?_) ?_
                · refine Gives.after (execCancel_gives _ _ _ _) (by decide +kernel) ?_
                  exact Only.refl _ _ _
                · exact Only.refl _ _ _
              · refine Only.ite ?_ ?_
                · refine Only.step (writeResv_only _ _ _ _) (by decide +kernel) ?_
                  exact Only.refl _ _ _
                · refine Only.ite ?_ ?_
                  · refine Only.step (postRange_only _ _ _ _ _) (by decide +kernel) ?_
                    exact Only.refl _ _ _
                  · refine Only.ite ?_ ?_
                    · refine Only.step (postZip_only _ _ _ _ _) (by decide +kernel) ?_
                      exact Only.refl _ _ _
                    · refine Only.step (plainWrite_only 0x50 _ _ _ _ _ rfl rfl) (by decide +kernel) ?_
                      exact Only.refl _ _ _

theorem writeMbx_only : ∀ a0 a1 a2 a3 s, Only [.staleMid, .mail, .heldOut, .out] [(0x0, 0x18, 0x18), (0x0, 0x2c, 0x2c), (0x10, 0x880, 0x880), (0xb0, 0x110, 0x110), (0xb0, 0x114, 0x114), (0xb0, 0x118, 0x118), (0xb0, 0x11c, 0x11c)] s (writeMbx a0 a1 a2 a3 s) := by
  intro a0 a1 a2 a3 s
  unfold writeMbx
  refine Only.ite ?_ ?_
  · refine byRow_only (fun s => ?_) ?_
    · refine Gives.after (execMbxSend_gives _ _ _) (by decide +kernel) ?_
      exact Only.refl _ _ _
    · exact Only.refl _ _ _
  · refine Only.ite ?_ ?_
    · refine byRow_only (fun s => ?_) ?_
      · refine Gives.after (execMbxRecvPop_gives _ _ _) (by decide +kernel) ?_
        exact Only.refl _ _ _
      · exact Only.refl _ _ _
    · refine guarded_any (by decide +kernel) (fun s => ?_) ?_
      · split
        · extract_lets +onlyGivenNames x1
          clear_value x1
          refine Only.ite ?_ ?_
          · refine Only.step (setMail_only _ _ _ _) (by decide +kernel) ?_
            exact Only.refl _ _ _
          · exact Only.refl _ _ _
        · exact Only.refl _ _ _
      · exact Only.refl _ _ _

theorem ringCtrl_only : ∀ a0 s, Only [.ring, .heldOut, .out] [(0x70, 0x18, 0x18), (0x70, 0x10c, 0x10c), (0x71, 0x18, 0x18), (0x71, 0x100, 0x100), (0x71, 0x104, 0x104), (0x71, 0x10c, 0x10c), (0x71, 0x110, 0x110), (0x71, 0x11c, 0x11c)] s (ringCtrl a0 s) := by
  intro a0 s
  unfold ringCtrl
  extract_lets +onlyGivenNames x1
  clear_value x1
  extract_lets +onlyGivenNames x2
  refine Only.have_ (t := x2) ?_ fun hx2 => ?_
  · subst x2
    refine Only.step (fset_only 0x71 0x10c _ _ _ _ rfl rfl rfl) (by decide +kernel) ?_
    refine Only.step (setLeave_only _ _) (by decide +kernel) ?_
    exact Only.refl _ _ _
  clear_value x2
  extract_lets +onlyGivenNames x3
  refine Only.have_ (t := x3) ?_ fun hx3 => ?_
  · subst x3
    refine Only.ite ?_ ?_
    · refine Only.step (reenum_only _) (by decide +kernel) ?_
      assumption
    · assumption
  clear_value x3
  refine Only.ite ?_ ?_
  · refine Only.step (wakeNode_only _ _) (by decide +kernel) ?_
    assumption
  · assumption

theorem writeRg_only : ∀ a0 a1 a2 a3 s, Only [.regs, .staleMid, .mail, .ring, .heldOut, .out] [] s (writeRg a0 a1 a2 a3 s) := by
  intro a0 a1 a2 a3 s
  unfold writeRg
  refine Only.ite ?_ ?_
  · refine guarded_only 0x71 rfl rfl (by decide +kernel) (fun s => ?_) ?_
    · refine Only.step (ringCtrl_only _ _) (by decide +kernel) ?_
      exact Only.refl _ _ _
    · exact Only.refl _ _ _
  · refine Only.ite ?_ ?_
    · refine byRow_only (fun s => ?_) ?_
      · refine Gives.after (execLockedTableEntryWrite_gives _ _ _) (by decide +kernel) ?_
        exact Only.refl _ _ _
      · exact Only.refl _ _ _
    · refine Only.step (plainWrite_only 0x71 _ _ _ _ _ rfl rfl) (by decide +kernel) ?_
      exact Only.refl _ _ _

theorem writeMbtHalf_only : ∀ a0 a1 a2 s, Only [.staleMid, .heldOut, .out] [(0x10, 0x880, 0x880), (0x71, 0x18, 0x18), (0x71, 0x400, 0x41f), (0xb0, 0x18, 0x18), (0xb0, 0x2c, 0x2c), (0xb0, 0x100, 0x100), (0xb0, 0x104, 0x104), (0xb0, 0x108, 0x108), (0xb0, 0x10c, 0x10c), (0xb0, 0x110, 0x110), (0xb0, 0x114, 0x114), (0xb0, 0x118, 0x118), (0xb0, 0x11c, 0x11c), (0xb0, 0x400, 0x5ff)] s (writeMbtHalf a0 a1 a2 s) := by
  intro a0 a1 a2 s
  unfold writeMbtHalf
  extract_lets +onlyGivenNames x1
  clear_value x1
  extract_lets +onlyGivenNames x2
  clear_value x2
  extract_lets +onlyGivenNames x3
  clear_value x3
  refine guardedRwl_only 0xb0 rfl rfl (by decide +kernel) (fun s => ?_) ?_
  · refine Only.step (writeEntry_only _ _) (by decide +kernel) ?_
    exact Only.refl _ _ _
  · exact Only.refl _ _ _

theorem writeRecov_only : ∀ a0 s, Only ([Fld.pins, Fld.phase, Fld.regs, Fld.latched, Fld.causes, Fld.staleMid, Fld.tiles, Fld.sram, Fld.sramPoison, Fld.mesh, Fld.rowBus, Fld.scaleBus, Fld.range, Fld.zip, Fld.packed, Fld.bindings, Fld.reqs, Fld.chans, Fld.serials, Fld.handles] ++ [Fld.versions, Fld.rallies, Fld.selects, Fld.deferred, Fld.ws, Fld.mail, Fld.hostFns, Fld.badSlots, Fld.parity, Fld.powerN, Fld.powerS, Fld.votes, Fld.samples, Fld.lowSamples, Fld.ring, Fld.qps, Fld.heldOut, Fld.replicaN, Fld.replicaS, Fld.complexN] ++ [Fld.complexS, Fld.update, Fld.boot, Fld.restores, Fld.sensors, Fld.save, Fld.record, Fld.free, Fld.out] : List Fld) [] s (writeRecov a0 s) := by
  intro a0 s
  unfold writeRecov
  extract_lets +onlyGivenNames x1
  refine Only.haveFn (P := fun x => Only ([Fld.pins, Fld.phase, Fld.regs, Fld.latched, Fld.causes, Fld.staleMid, Fld.tiles, Fld.sram, Fld.sramPoison, Fld.mesh, Fld.rowBus, Fld.scaleBus, Fld.range, Fld.zip, Fld.packed, Fld.bindings, Fld.reqs, Fld.chans, Fld.serials, Fld.handles] ++ [Fld.versions, Fld.rallies, Fld.selects, Fld.deferred, Fld.ws, Fld.mail, Fld.hostFns, Fld.badSlots, Fld.parity, Fld.powerN, Fld.powerS, Fld.votes, Fld.samples, Fld.lowSamples, Fld.ring, Fld.qps, Fld.heldOut, Fld.replicaN, Fld.replicaS, Fld.complexN] ++ [Fld.complexS, Fld.update, Fld.boot, Fld.restores, Fld.sensors, Fld.save, Fld.record, Fld.free, Fld.out] : List Fld) [] s x.2) (t := x1) ?_ fun hx1 => ?_
  · subst x1
    beta_reduce
    refine Only.step (freeBytes_only _ _) (by decide +kernel) ?_
    exact Only.refl _ _ _
  beta_reduce at hx1
  clear_value x1
  extract_lets +onlyGivenNames x2
  refine Only.have_ (t := x2) ?_ fun hx2 => ?_
  · subst x2
    assumption
  clear_value x2
  refine byRow_only (fun s => ?_) ?_
  · refine Gives.after (execRecovCmd_gives _ _ _ _ _) (by decide +kernel) ?_
    exact Only.refl _ _ _
  · refine Only.step (draw_only _) (by decide +kernel) ?_
    refine Only.step (draw_only _) (by decide +kernel) ?_
    assumption

theorem writeSec_only : ∀ a0 a1 a2 s, Only ([Fld.pins, Fld.phase, Fld.regs, Fld.latched, Fld.causes, Fld.staleMid, Fld.tiles, Fld.sram, Fld.sramPoison, Fld.mesh, Fld.rowBus, Fld.scaleBus, Fld.range, Fld.zip, Fld.packed, Fld.bindings, Fld.reqs, Fld.chans, Fld.serials, Fld.handles] ++ [Fld.versions, Fld.rallies, Fld.selects, Fld.deferred, Fld.ws, Fld.mail, Fld.hostFns, Fld.badSlots, Fld.parity, Fld.powerN, Fld.powerS, Fld.votes, Fld.samples, Fld.lowSamples, Fld.ring, Fld.qps, Fld.heldOut, Fld.replicaN, Fld.replicaS, Fld.complexN] ++ [Fld.complexS, Fld.update, Fld.boot, Fld.restores, Fld.sensors, Fld.save, Fld.record, Fld.free, Fld.out] : List Fld) [] s (writeSec a0 a1 a2 s) := by
  intro a0 a1 a2 s
  unfold writeSec
  refine Only.ite ?_ ?_
  · refine Only.step (writeMbtHalf_only _ _ _ _) (by decide +kernel) ?_
    exact Only.refl _ _ _
  · refine Only.ite ?_ ?_
    · refine Only.step (writeRecov_only _ _) (by decide +kernel) ?_
      exact Only.refl _ _ _
    · refine Only.step (plainWrite_only 0xb0 _ _ _ _ _ rfl rfl) (by decide +kernel) ?_
      exact Only.refl _ _ _

theorem writePmu_only : ∀ a0 a1 a2 s, Only [.regs, .staleMid, .votes, .heldOut, .record, .out] [] s (writePmu a0 a1 a2 s) := by
  intro a0 a1 a2 s
  unfold writePmu
  refine Only.ite ?_ ?_
  · refine Only.ite ?_ ?_
    · refine byRow_only (fun s => ?_) ?_
      · refine Gives.after (execPwrCmdOff_gives _ _) (by decide +kernel) ?_
        exact Only.refl _ _ _
      · exact Only.refl _ _ _
    · refine byRow_only (fun s => ?_) ?_
      · refine Gives.after (execPwrCmdInvalid_gives _ _ _) (by decide +kernel) ?_
        exact Only.refl _ _ _
      · exact Only.refl _ _ _
  · refine Only.ite ?_ ?_
    · refine byRow_only (fun s => ?_) ?_
      · refine Gives.after (execPfVoteWrite_gives _ _ _ _) (by decide +kernel) ?_
        exact Only.refl _ _ _
      · exact Only.refl _ _ _
    · refine Only.ite ?_ ?_
      · refine byRow_only (fun s => ?_) ?_
        · refine Gives.after (execSagMinClr_gives _ _) (by decide +kernel) ?_
          exact Only.refl _ _ _
        · exact Only.refl _ _ _
      · refine Only.step (plainWrite_only 0xa0 _ _ _ _ _ rfl rfl) (by decide +kernel) ?_
        exact Only.refl _ _ _

theorem writeBlock_only (k1 : Nat) : ∀ a0 a1 a2 a3 s, pageType a1 = k1 → Nat.beq k1 0x60 = false → Only ([Fld.pins, Fld.phase, Fld.regs, Fld.latched, Fld.causes, Fld.staleMid, Fld.tiles, Fld.sram, Fld.sramPoison, Fld.mesh, Fld.rowBus, Fld.scaleBus, Fld.range, Fld.zip, Fld.packed, Fld.bindings, Fld.reqs, Fld.chans, Fld.serials, Fld.handles] ++ [Fld.versions, Fld.rallies, Fld.selects, Fld.deferred, Fld.ws, Fld.mail, Fld.hostFns, Fld.badSlots, Fld.parity, Fld.powerN, Fld.powerS, Fld.votes, Fld.samples, Fld.lowSamples, Fld.ring, Fld.qps, Fld.heldOut, Fld.replicaN, Fld.replicaS, Fld.complexN] ++ [Fld.complexS, Fld.update, Fld.boot, Fld.restores, Fld.sensors, Fld.save, Fld.record, Fld.free, Fld.out] : List Fld) [] s (writeBlock a0 a1 a2 a3 s) := by
  intro a0 a1 a2 a3 s hk1 hn1
  unfold writeBlock
  split
  · refine Only.step (writeTile_only _ _ _ _ _) (by first | decide +kernel | simp [within, Fld.inside, RegSpan.inside]) ?_
    exact Only.refl _ _ _
  · refine Only.step (writeWsc_only _ _ _ _ _) (by first | decide +kernel | simp [within, Fld.inside, RegSpan.inside]) ?_
    exact Only.refl _ _ _
  · refine Only.step (writeCc_only _ _ _ _ _) (by first | decide +kernel | simp [within, Fld.inside, RegSpan.inside]) ?_
    exact Only.refl _ _ _
  · refine Only.step (writeMig_only _ _ _ _ _) (by first | decide +kernel | simp [within, Fld.inside, RegSpan.inside]) ?_
    exact Only.refl _ _ _
  · refine Only.step (writeChan_only _ _ _ _ _) (by first | decide +kernel | simp [within, Fld.inside, RegSpan.inside]) ?_
    exact Only.refl _ _ _
  · refine Only.step (writeMbx_only _ _ _ _ _) (by first | decide +kernel | simp [within, Fld.inside, RegSpan.inside]) ?_
    exact Only.refl _ _ _
  · refine Only.step (writeRg_only _ _ _ _ _) (by first | decide +kernel | simp [within, Fld.inside, RegSpan.inside]) ?_
    exact Only.refl _ _ _
  · refine Only.step (writeSec_only _ _ _ _) (by first | decide +kernel | simp [within, Fld.inside, RegSpan.inside]) ?_
    exact Only.refl _ _ _
  · refine Only.step (writePmu_only _ _ _ _) (by first | decide +kernel | simp [within, Fld.inside, RegSpan.inside]) ?_
    exact Only.refl _ _ _
  · refine Only.ite ?_ ?_
    · refine byRow_only (fun s => ?_) ?_
      · refine Gives.after (execPlaneFenceReq_gives _ _ _ _) (by first | decide +kernel | simp [within, Fld.inside, RegSpan.inside]) ?_
        exact Only.refl _ _ _
      · exact Only.refl _ _ _
    · refine Only.step (plainWrite_only 0x31 _ _ _ _ _ rfl rfl) (by first | decide +kernel | simp [within, Fld.inside, RegSpan.inside]) ?_
      exact Only.refl _ _ _
  · refine Only.ite ?_ ?_
    · refine byRow_only (fun s => ?_) ?_
      · refine Gives.after (execThmMaxClr_gives _ _) (by first | decide +kernel | simp [within, Fld.inside, RegSpan.inside]) ?_
        exact Only.refl _ _ _
      · exact Only.refl _ _ _
    · refine Only.step (plainWrite_only 0xa2 _ _ _ _ _ rfl rfl) (by first | decide +kernel | simp [within, Fld.inside, RegSpan.inside]) ?_
      exact Only.refl _ _ _
  · refine Only.ite ?_ ?_
    · refine byRow_only (fun s => ?_) ?_
      · refine Gives.after (execDbgReset_gives _ _ _) (by first | decide +kernel | simp [within, Fld.inside, RegSpan.inside]) ?_
        exact Only.refl _ _ _
      · exact Only.refl _ _ _
    · refine Only.ite ?_ ?_
      · refine byRow_only (fun s => ?_) ?_
        · refine Gives.after (execDbgWake_gives _ _ _) (by first | decide +kernel | simp [within, Fld.inside, RegSpan.inside]) ?_
          exact Only.refl _ _ _
        · exact Only.refl _ _ _
      · refine Only.step (plainWrite_only 0xb1 _ _ _ _ _ rfl rfl) (by first | decide +kernel | simp [within, Fld.inside, RegSpan.inside]) ?_
        exact Only.refl _ _ _
  · refine Only.step (plainWrite_only 0x1 _ _ _ _ _ rfl rfl) (by first | decide +kernel | simp [within, Fld.inside, RegSpan.inside]) ?_
    exact Only.refl _ _ _
  · refine Only.step (plainWrite_only 0x80 _ _ _ _ _ rfl rfl) (by first | decide +kernel | simp [within, Fld.inside, RegSpan.inside]) ?_
    exact Only.refl _ _ _
  · refine Only.step (plainWrite_only 0x90 _ _ _ _ _ rfl rfl) (by first | decide +kernel | simp [within, Fld.inside, RegSpan.inside]) ?_
    exact Only.refl _ _ _
  · refine Only.step (plainWrite_only 0x70 _ _ _ _ _ rfl rfl) (by first | decide +kernel | simp [within, Fld.inside, RegSpan.inside]) ?_
    exact Only.refl _ _ _
  · refine Only.step (plainWrite_only 0x72 _ _ _ _ _ rfl rfl) (by first | decide +kernel | simp [within, Fld.inside, RegSpan.inside]) ?_
    exact Only.refl _ _ _
  · refine Only.step (plainWrite_only 0xb2 _ _ _ _ _ rfl rfl) (by first | decide +kernel | simp [within, Fld.inside, RegSpan.inside]) ?_
    exact Only.refl _ _ _
  · refine Only.step (plainWrite_only 0xa1 _ _ _ _ _ rfl rfl) (by first | decide +kernel | simp [within, Fld.inside, RegSpan.inside]) ?_
    exact Only.refl _ _ _
  · refine Only.step (plainWrite_only 0x48 _ _ _ _ _ rfl rfl) (by first | decide +kernel | simp [within, Fld.inside, RegSpan.inside]) ?_
    exact Only.refl _ _ _

theorem writeBlock_any : ∀ a0 a1 a2 a3 s, Only ([Fld.pins, Fld.phase, Fld.regs, Fld.latched, Fld.causes, Fld.staleMid, Fld.tiles, Fld.sram, Fld.sramPoison, Fld.mesh, Fld.rowBus, Fld.scaleBus, Fld.range, Fld.zip, Fld.packed, Fld.bindings, Fld.reqs, Fld.chans, Fld.serials, Fld.handles] ++ [Fld.versions, Fld.rallies, Fld.selects, Fld.deferred, Fld.ws, Fld.mail, Fld.hostFns, Fld.badSlots, Fld.parity, Fld.powerN, Fld.powerS, Fld.votes, Fld.samples, Fld.lowSamples, Fld.ring, Fld.qps, Fld.heldOut, Fld.replicaN, Fld.replicaS, Fld.complexN] ++ [Fld.complexS, Fld.update, Fld.boot, Fld.restores, Fld.sensors, Fld.save, Fld.record, Fld.free, Fld.out] : List Fld) [] s (writeBlock a0 a1 a2 a3 s) := by
  intro a0 a1 a2 a3 s
  unfold writeBlock
  split
  · refine Only.step (writeTile_only _ _ _ _ _) (by decide +kernel) ?_
    exact Only.refl _ _ _
  · refine Only.step (writeWsc_only _ _ _ _ _) (by decide +kernel) ?_
    exact Only.refl _ _ _
  · refine Only.step (writeCc_only _ _ _ _ _) (by decide +kernel) ?_
    exact Only.refl _ _ _
  · refine Only.step (writeMig_only _ _ _ _ _) (by decide +kernel) ?_
    exact Only.refl _ _ _
  · refine Only.step (writeChan_only _ _ _ _ _) (by decide +kernel) ?_
    exact Only.refl _ _ _
  · refine Only.step (writeMbx_only _ _ _ _ _) (by decide +kernel) ?_
    exact Only.refl _ _ _
  · refine Only.step (writeRg_only _ _ _ _ _) (by decide +kernel) ?_
    exact Only.refl _ _ _
  · refine Only.step (writeSec_only _ _ _ _) (by decide +kernel) ?_
    exact Only.refl _ _ _
  · refine Only.step (writePmu_only _ _ _ _) (by decide +kernel) ?_
    exact Only.refl _ _ _
  · refine Only.ite ?_ ?_
    · refine byRow_only (fun s => ?_) ?_
      · refine Gives.after (execPlaneFenceReq_gives _ _ _ _) (by decide +kernel) ?_
        exact Only.refl _ _ _
      · exact Only.refl _ _ _
    · refine Only.step (plainWrite_only 0x31 _ _ _ _ _ rfl rfl) (by decide +kernel) ?_
      exact Only.refl _ _ _
  · refine Only.ite ?_ ?_
    · refine byRow_only (fun s => ?_) ?_
      · refine Gives.after (execThmMaxClr_gives _ _) (by decide +kernel) ?_
        exact Only.refl _ _ _
      · exact Only.refl _ _ _
    · refine Only.step (plainWrite_only 0xa2 _ _ _ _ _ rfl rfl) (by decide +kernel) ?_
      exact Only.refl _ _ _
  · refine Only.ite ?_ ?_
    · refine byRow_only (fun s => ?_) ?_
      · refine Gives.after (execDbgReset_gives _ _ _) (by decide +kernel) ?_
        exact Only.refl _ _ _
      · exact Only.refl _ _ _
    · refine Only.ite ?_ ?_
      · refine byRow_only (fun s => ?_) ?_
        · refine Gives.after (execDbgWake_gives _ _ _) (by decide +kernel) ?_
          exact Only.refl _ _ _
        · exact Only.refl _ _ _
      · refine Only.step (plainWrite_only 0xb1 _ _ _ _ _ rfl rfl) (by decide +kernel) ?_
        exact Only.refl _ _ _
  · refine Only.step (plainWrite_only 0x1 _ _ _ _ _ rfl rfl) (by decide +kernel) ?_
    exact Only.refl _ _ _
  · refine Only.step (plainWrite_only 0x80 _ _ _ _ _ rfl rfl) (by decide +kernel) ?_
    exact Only.refl _ _ _
  · refine Only.step (plainWrite_only 0x90 _ _ _ _ _ rfl rfl) (by decide +kernel) ?_
    exact Only.refl _ _ _
  · refine Only.step (plainWrite_only 0x70 _ _ _ _ _ rfl rfl) (by decide +kernel) ?_
    exact Only.refl _ _ _
  · refine Only.step (plainWrite_only 0x72 _ _ _ _ _ rfl rfl) (by decide +kernel) ?_
    exact Only.refl _ _ _
  · refine Only.step (plainWrite_only 0xb2 _ _ _ _ _ rfl rfl) (by decide +kernel) ?_
    exact Only.refl _ _ _
  · refine Only.step (plainWrite_only 0xa1 _ _ _ _ _ rfl rfl) (by decide +kernel) ?_
    exact Only.refl _ _ _
  · refine Only.step (plainWrite_only 0x48 _ _ _ _ _ rfl rfl) (by decide +kernel) ?_
    exact Only.refl _ _ _

theorem writeReg_only : ∀ a0 a1 a2 s, Only ([Fld.pins, Fld.phase, Fld.regs, Fld.latched, Fld.causes, Fld.staleMid, Fld.tiles, Fld.sram, Fld.sramPoison, Fld.mesh, Fld.rowBus, Fld.scaleBus, Fld.range, Fld.zip, Fld.packed, Fld.bindings, Fld.reqs, Fld.chans, Fld.serials, Fld.handles] ++ [Fld.versions, Fld.rallies, Fld.selects, Fld.deferred, Fld.ws, Fld.mail, Fld.hostFns, Fld.badSlots, Fld.parity, Fld.powerN, Fld.powerS, Fld.votes, Fld.samples, Fld.lowSamples, Fld.ring, Fld.qps, Fld.heldOut, Fld.replicaN, Fld.replicaS, Fld.complexN] ++ [Fld.complexS, Fld.update, Fld.boot, Fld.restores, Fld.sensors, Fld.save, Fld.record, Fld.free, Fld.out] : List Fld) [] s (writeReg a0 a1 a2 s) := by
  intro a0 a1 a2 s
  unfold writeReg
  extract_lets +onlyGivenNames x1
  clear_value x1
  split
  · refine Only.ite ?_ ?_
    · refine Only.step (denyRecord_only _ _ _ _) (by decide +kernel) ?_
      exact Only.refl _ _ _
    · exact Only.refl _ _ _
  · refine Only.ite ?_ ?_
    · exact Only.refl _ _ _
    · refine Only.ite ?_ ?_
      · refine Only.step (writeCommon_any _ _ _ _ _) (by decide +kernel) ?_
        exact Only.refl _ _ _
      · refine Only.step (writeBlock_any _ _ _ _ _) (by decide +kernel) ?_
        exact Only.refl _ _ _

theorem badAccess_only : ∀ a0 a1 s, Only [.mail, .heldOut, .out] [(0x0, 0x18, 0x18), (0xb0, 0x110, 0x110), (0xb0, 0x114, 0x114), (0xb0, 0x118, 0x118), (0xb0, 0x11c, 0x11c)] s (badAccess a0 a1 s) := by
  intro a0 a1 s
  unfold badAccess
  split
  · refine Only.ite ?_ ?_
    · refine Only.step (denyRecord_only _ _ _ _) (by decide +kernel) ?_
      exact Only.refl _ _ _
    · exact Only.refl _ _ _
  · refine Only.ite ?_ ?_
    · exact Only.refl _ _ _
    · refine Only.ite ?_ ?_
      · refine Only.step (denyRecord_only _ _ _ _) (by decide +kernel) ?_
        exact Only.refl _ _ _
      · refine Only.ite ?_ ?_
        · refine Only.step (denyRecord_only _ _ _ _) (by decide +kernel) ?_
          exact Only.refl _ _ _
        · refine Only.step (raise_any _ _ _) (by decide +kernel) ?_
          exact Only.refl _ _ _

theorem execRegisterWrite_gives : ∀ a0 a1 a2 a3 s, Gives ([Fld.pins, Fld.phase, Fld.regs, Fld.latched, Fld.causes, Fld.staleMid, Fld.tiles, Fld.sram, Fld.sramPoison, Fld.mesh, Fld.rowBus, Fld.scaleBus, Fld.range, Fld.zip, Fld.packed, Fld.bindings, Fld.reqs, Fld.chans, Fld.serials, Fld.handles] ++ [Fld.versions, Fld.rallies, Fld.selects, Fld.deferred, Fld.ws, Fld.mail, Fld.hostFns, Fld.badSlots, Fld.parity, Fld.powerN, Fld.powerS, Fld.votes, Fld.samples, Fld.lowSamples, Fld.ring, Fld.qps, Fld.heldOut, Fld.replicaN, Fld.replicaS, Fld.complexN] ++ [Fld.complexS, Fld.update, Fld.boot, Fld.restores, Fld.sensors, Fld.save, Fld.record, Fld.free, Fld.out] : List Fld) [] s (execRegisterWrite a0 a1 a2 a3 s) := by
  intro a0 a1 a2 a3 s
  unfold execRegisterWrite
  extract_lets +onlyGivenNames x1
  clear_value x1
  refine Gives.ite ?_ ?_
  · refine Gives.next ?_
    refine Only.step (writeReg_only _ _ _ _) (by decide +kernel) ?_
    exact Only.refl _ _ _
  · refine Gives.ite ?_ ?_
    · refine Gives.next ?_
      refine Only.step (writeReg_only _ _ _ _) (by decide +kernel) ?_
      refine Only.step (writeReg_only _ _ _ _) (by decide +kernel) ?_
      exact Only.refl _ _ _
    · refine Gives.next ?_
      refine Only.step (badAccess_only _ _ _) (by decide +kernel) ?_
      exact Only.refl _ _ _

theorem windowSend_only : ∀ a0 a1 a2 a3 a4 a5 s, Only [.ring, .out] [] s (windowSend a0 a1 a2 a3 a4 a5 s) := by
  intro a0 a1 a2 a3 a4 a5 s
  unfold windowSend
  refine Only.ite ?_ ?_
  · refine Only.step (ringSend_only _ _) (by decide +kernel) ?_
    exact Only.refl _ _ _
  · extract_lets +onlyGivenNames x1
    clear_value x1
    extract_lets +onlyGivenNames x2
    refine Only.have_ (t := x2) ?_ fun hx2 => ?_
    · subst x2
      refine Only.step (modRing_only _ _) (by decide +kernel) ?_
      exact Only.refl _ _ _
    clear_value x2
    refine Only.step (ringSend_only _ _) (by decide +kernel) ?_
    assumption

theorem execBar4Access_gives : ∀ a0 a1 a2 a3 s, Gives ([Fld.pins, Fld.phase, Fld.regs, Fld.latched, Fld.causes, Fld.staleMid, Fld.tiles, Fld.sram, Fld.sramPoison, Fld.mesh, Fld.rowBus, Fld.scaleBus, Fld.range, Fld.zip, Fld.packed, Fld.bindings, Fld.reqs, Fld.chans, Fld.serials, Fld.handles] ++ [Fld.versions, Fld.rallies, Fld.selects, Fld.deferred, Fld.ws, Fld.mail, Fld.hostFns, Fld.badSlots, Fld.parity, Fld.powerN, Fld.powerS, Fld.votes, Fld.samples, Fld.lowSamples, Fld.ring, Fld.qps, Fld.heldOut, Fld.replicaN, Fld.replicaS, Fld.complexN] ++ [Fld.complexS, Fld.update, Fld.boot, Fld.restores, Fld.sensors, Fld.save, Fld.record, Fld.free, Fld.out] : List Fld) [] s (execBar4Access a0 a1 a2 a3 s) := by
  intro a0 a1 a2 a3 s
  unfold execBar4Access
  extract_lets +onlyGivenNames x1
  extract_lets +onlyGivenNames x2
  clear_value x2
  extract_lets +onlyGivenNames x3
  refine Gives.ite ?_ ?_
  · refine Gives.next ?_
    exact Only.refl _ _ _
  · refine Gives.ite ?_ ?_
    · refine Gives.next ?_
      refine Only.ite ?_ ?_
      · exact Only.refl _ _ _
      · refine Only.step (emit_only _ _) (by decide +kernel) ?_
        exact Only.refl _ _ _
    · refine Gives.ite ?_ ?_
      · refine Gives.ite ?_ ?_
        · refine Gives.next ?_
          refine Only.ite ?_ ?_
          · refine Only.step (writeReg_only _ _ _ _) (by decide +kernel) ?_
            exact Only.refl _ _ _
          · refine Only.step (badAccess_only _ _ _) (by decide +kernel) ?_
            exact Only.refl _ _ _
        · extract_lets +onlyGivenNames x4
          refine Only.haveFn (P := fun x => Only ([Fld.pins, Fld.phase, Fld.regs, Fld.latched, Fld.causes, Fld.staleMid, Fld.tiles, Fld.sram, Fld.sramPoison, Fld.mesh, Fld.rowBus, Fld.scaleBus, Fld.range, Fld.zip, Fld.packed, Fld.bindings, Fld.reqs, Fld.chans, Fld.serials, Fld.handles] ++ [Fld.versions, Fld.rallies, Fld.selects, Fld.deferred, Fld.ws, Fld.mail, Fld.hostFns, Fld.badSlots, Fld.parity, Fld.powerN, Fld.powerS, Fld.votes, Fld.samples, Fld.lowSamples, Fld.ring, Fld.qps, Fld.heldOut, Fld.replicaN, Fld.replicaS, Fld.complexN] ++ [Fld.complexS, Fld.update, Fld.boot, Fld.restores, Fld.sensors, Fld.save, Fld.record, Fld.free, Fld.out] : List Fld) [] s x.2) (t := x4) ?_ fun hx4 => ?_
          · subst x4
            beta_reduce
            refine Only.step (readReg_only _ _ _) (by decide +kernel) ?_
            exact Only.refl _ _ _
          beta_reduce at hx4
          clear_value x4
          refine Gives.next ?_
          refine Only.step (emit_only _ _) (by decide +kernel) ?_
          assumption
      · refine Gives.ite ?_ ?_
        · refine Gives.next ?_
          refine Only.ite ?_ ?_
          · refine Only.step (ringDropped_only _) (by decide +kernel) ?_
            exact Only.refl _ _ _
          · refine Only.step (hostAbort_only _ _ _) (by decide +kernel) ?_
            exact Only.refl _ _ _
        · refine Gives.next ?_
          refine Only.step (windowSend_only _ _ _ _ _ _ _) (by decide +kernel) ?_
          exact Only.refl _ _ _

theorem writeWords_only : ∀ a0 a1 a2 s, Only ([Fld.pins, Fld.phase, Fld.regs, Fld.latched, Fld.causes, Fld.staleMid, Fld.tiles, Fld.sram, Fld.sramPoison, Fld.mesh, Fld.rowBus, Fld.scaleBus, Fld.range, Fld.zip, Fld.packed, Fld.bindings, Fld.reqs, Fld.chans, Fld.serials, Fld.handles] ++ [Fld.versions, Fld.rallies, Fld.selects, Fld.deferred, Fld.ws, Fld.mail, Fld.hostFns, Fld.badSlots, Fld.parity, Fld.powerN, Fld.powerS, Fld.votes, Fld.samples, Fld.lowSamples, Fld.ring, Fld.qps, Fld.heldOut, Fld.replicaN, Fld.replicaS, Fld.complexN] ++ [Fld.complexS, Fld.update, Fld.boot, Fld.restores, Fld.sensors, Fld.save, Fld.record, Fld.free, Fld.out] : List Fld) [] s (writeWords a0 a1 a2 s) := by
  intro a0 a1 a2 s
  induction a2 generalizing a0 a1 s with
  | nil =>
    unfold writeWords
    exact Only.refl _ _ _
  | cons x l ih =>
    unfold writeWords
    refine Only.trans ?_ (ih ..)
    refine Only.ite ?_ ?_
    · refine Only.step (writeReg_only _ _ _ _) (by decide +kernel) ?_
      exact Only.refl _ _ _
    · refine Only.step (badAccess_only _ _ _) (by decide +kernel) ?_
      exact Only.refl _ _ _

theorem readWords_only : ∀ a0 a1 a2 s, Only [.latched, .range, .zip, .ws, .mail, .heldOut, .free, .out] [(0x0, 0x18, 0x18)] s (readWords a0 a1 a2 s).2 := by
  intro a0 a1 a2 s
  induction a2 generalizing a0 a1 s with
  | zero =>
    unfold readWords
    refine Only.pair ?_
    exact Only.refl _ _ _
  | succ n ih =>
    unfold readWords
    extract_lets +onlyGivenNames x1
    refine Only.haveFn (P := fun x => Only [.latched, .range, .zip, .ws, .mail, .heldOut, .free, .out] [(0x0, 0x18, 0x18)] s x.2) (t := x1) ?_ fun hx1 => ?_
    · subst x1
      beta_reduce
      refine Only.step (readReg_only _ _ _) (by decide +kernel) ?_
      exact Only.refl _ _ _
    beta_reduce at hx1
    clear_value x1
    extract_lets +onlyGivenNames x2
    refine Only.pair ?_
    subst x2
    refine Only.trans ?_ (ih ..)
    assumption

theorem readWords_only_eq : ∀ a0 a1 a2 s x t, readWords a0 a1 a2 s = (x, t) → Only [.latched, .range, .zip, .ws, .mail, .heldOut, .free, .out] [(0x0, 0x18, 0x18)] s t := by
  intro a0 a1 a2 s x t h
  have := readWords_only a0 a1 a2 s
  rw [h] at this
  exact this

theorem ringWriteRange_only : ∀ a0 s, Only [.range, .heldOut, .out] [(0x40, 0x18, 0x18), (0x40, 0x130, 0x130), (0x40, 0x134, 0x134), (0x40, 0x138, 0x138), (0x40, 0x13c, 0x13c), (0xb0, 0x18, 0x18), (0xb0, 0x110, 0x110), (0xb0, 0x114, 0x114), (0xb0, 0x118, 0x118), (0xb0, 0x11c, 0x11c)] s (ringWriteRange a0 s) := by
  intro a0 s
  unfold ringWriteRange
  extract_lets +onlyGivenNames x1
  clear_value x1
  extract_lets +onlyGivenNames x2
  clear_value x2
  refine Only.ite ?_ ?_
  · refine Only.step (rangeDenied_only _ _ _) (by decide +kernel) ?_
    exact Only.refl _ _ _
  · refine Only.ite ?_ ?_
    · refine Only.step (raise_only 0xb0 _ _ _ rfl rfl) (by decide +kernel) ?_
      refine Only.step (denyRecord_only _ _ _ _) (by decide +kernel) ?_
      exact Only.refl _ _ _
    · refine Only.step (rangeWrite_only _ _ _ _) (by decide +kernel) ?_
      exact Only.refl _ _ _

theorem answer_only : ∀ a0 a1 a2 a3 s, Only [.ring, .out] [] s (answer a0 a1 a2 a3 s) := by
  intro a0 a1 a2 a3 s
  unfold answer
  refine Only.ite ?_ ?_
  · refine Only.step (ringSend_only _ _) (by decide +kernel) ?_
    exact Only.refl _ _ _
  · exact Only.refl _ _ _

theorem ringReadRange_only : ∀ a0 s, Only [.ring, .heldOut, .out] [(0x40, 0x18, 0x18), (0x40, 0x134, 0x134), (0x40, 0x138, 0x138), (0x40, 0x13c, 0x13c)] s (ringReadRange a0 s) := by
  intro a0 s
  unfold ringReadRange
  extract_lets +onlyGivenNames x1
  clear_value x1
  extract_lets +onlyGivenNames x2
  clear_value x2
  refine Only.ite ?_ ?_
  · refine Only.step (answer_only _ _ _ _ _) (by decide +kernel) ?_
    refine Only.step (rangeDenied_only _ _ _) (by decide +kernel) ?_
    exact Only.refl _ _ _
  · refine Only.step (answer_only _ _ _ _ _) (by decide +kernel) ?_
    exact Only.refl _ _ _

theorem takeCpl_only : ∀ a0 s, Only [.ring, .heldOut, .out] [(0x70, 0x18, 0x18), (0x70, 0x108, 0x108), (0x70, 0x10c, 0x10c), (0x71, 0x18, 0x18), (0x71, 0x11c, 0x11c)] s (takeCpl a0 s) := by
  intro a0 s
  unfold takeCpl
  split
  · exact Only.refl _ _ _
  · extract_lets +onlyGivenNames x1
    refine Only.have_ (t := x1) ?_ fun hx1 => ?_
    · subst x1
      refine Only.step (modRing_only _ _) (by decide +kernel) ?_
      exact Only.refl _ _ _
    clear_value x1
    split
    · refine Only.ite ?_ ?_
      · refine Only.step (emit_only _ _) (by decide +kernel) ?_
        assumption
      · refine Only.step (hostAbort_only _ _ _) (by decide +kernel) ?_
        assumption
    · refine Only.step (hostAbort_only _ _ _) (by decide +kernel) ?_
      assumption

theorem accept_only : ∀ a0 s, Only ([Fld.pins, Fld.phase, Fld.regs, Fld.latched, Fld.causes, Fld.staleMid, Fld.tiles, Fld.sram, Fld.sramPoison, Fld.mesh, Fld.rowBus, Fld.scaleBus, Fld.range, Fld.zip, Fld.packed, Fld.bindings, Fld.reqs, Fld.chans, Fld.serials, Fld.handles] ++ [Fld.versions, Fld.rallies, Fld.selects, Fld.deferred, Fld.ws, Fld.mail, Fld.hostFns, Fld.badSlots, Fld.parity, Fld.powerN, Fld.powerS, Fld.votes, Fld.samples, Fld.lowSamples, Fld.ring, Fld.qps, Fld.heldOut, Fld.replicaN, Fld.replicaS, Fld.complexN] ++ [Fld.complexS, Fld.update, Fld.boot, Fld.restores, Fld.sensors, Fld.save, Fld.record, Fld.free, Fld.out] : List Fld) [] s (accept a0 s) := by
  intro a0 s
  unfold accept
  extract_lets +onlyGivenNames x1
  clear_value x1
  refine Only.ite ?_ ?_
  · refine Only.ite ?_ ?_
    · extract_lets +onlyGivenNames x2
      clear_value x2
      refine Only.step (emit_only _ _) (by decide +kernel) ?_
      exact Only.refl _ _ _
    · refine Only.ite ?_ ?_
      · refine Only.step (writeWords_only _ _ _ _) (by decide +kernel) ?_
        exact Only.refl _ _ _
      · refine Only.step (ringWriteRange_only _ _) (by decide +kernel) ?_
        exact Only.refl _ _ _
  · refine Only.ite ?_ ?_
    · refine Only.ite ?_ ?_
      · refine Only.step (emit_only _ _) (by decide +kernel) ?_
        exact Only.refl _ _ _
      · refine Only.ite ?_ ?_
        · extract_lets +onlyGivenNames x3
          refine Only.haveFn (P := fun x => Only ([Fld.pins, Fld.phase, Fld.regs, Fld.latched, Fld.causes, Fld.staleMid, Fld.tiles, Fld.sram, Fld.sramPoison, Fld.mesh, Fld.rowBus, Fld.scaleBus, Fld.range, Fld.zip, Fld.packed, Fld.bindings, Fld.reqs, Fld.chans, Fld.serials, Fld.handles] ++ [Fld.versions, Fld.rallies, Fld.selects, Fld.deferred, Fld.ws, Fld.mail, Fld.hostFns, Fld.badSlots, Fld.parity, Fld.powerN, Fld.powerS, Fld.votes, Fld.samples, Fld.lowSamples, Fld.ring, Fld.qps, Fld.heldOut, Fld.replicaN, Fld.replicaS, Fld.complexN] ++ [Fld.complexS, Fld.update, Fld.boot, Fld.restores, Fld.sensors, Fld.save, Fld.record, Fld.free, Fld.out] : List Fld) [] s x.2) (t := x3) ?_ fun hx3 => ?_
          · subst x3
            beta_reduce
            refine Only.step (readWords_only _ _ _ _) (by decide +kernel) ?_
            exact Only.refl _ _ _
          beta_reduce at hx3
          clear_value x3
          refine Only.step (answer_only _ _ _ _ _) (by decide +kernel) ?_
          assumption
        · refine Only.step (ringReadRange_only _ _) (by decide +kernel) ?_
          exact Only.refl _ _ _
    · refine Only.step (takeCpl_only _ _) (by decide +kernel) ?_
      exact Only.refl _ _ _

theorem receive_only : ∀ a0 a1 s, Only ([Fld.pins, Fld.phase, Fld.regs, Fld.latched, Fld.causes, Fld.staleMid, Fld.tiles, Fld.sram, Fld.sramPoison, Fld.mesh, Fld.rowBus, Fld.scaleBus, Fld.range, Fld.zip, Fld.packed, Fld.bindings, Fld.reqs, Fld.chans, Fld.serials, Fld.handles] ++ [Fld.versions, Fld.rallies, Fld.selects, Fld.deferred, Fld.ws, Fld.mail, Fld.hostFns, Fld.badSlots, Fld.parity, Fld.powerN, Fld.powerS, Fld.votes, Fld.samples, Fld.lowSamples, Fld.ring, Fld.qps, Fld.heldOut, Fld.replicaN, Fld.replicaS, Fld.complexN] ++ [Fld.complexS, Fld.update, Fld.boot, Fld.restores, Fld.sensors, Fld.save, Fld.record, Fld.free, Fld.out] : List Fld) [] s (receive a0 a1 s) := by
  intro a0 a1 s
  unfold receive
  extract_lets +onlyGivenNames x1
  clear_value x1
  refine Only.ite ?_ ?_
  · exact Only.refl _ _ _
  · refine Only.ite ?_ ?_
    · refine Only.step (foreign_only _ _) (by decide +kernel) ?_
      exact Only.refl _ _ _
    · refine Only.ite ?_ ?_
      · refine Only.ite ?_ ?_
        · refine Only.step (forward_only _ _ _) (by decide +kernel) ?_
          exact Only.refl _ _ _
        · exact Only.refl _ _ _
      · refine Only.ite ?_ ?_
        · split
          · refine Only.step (accept_only _ _) (by decide +kernel) ?_
            refine Only.step (inOrder_only_eq _ _ _ _ _ ‹_›) (by decide +kernel) ?_
            exact Only.refl _ _ _
          · refine Only.step (inOrder_only_eq _ _ _ _ _ ‹_›) (by decide +kernel) ?_
            exact Only.refl _ _ _
        · refine Only.step (forward_only _ _ _) (by decide +kernel) ?_
          exact Only.refl _ _ _

theorem execRingPacket_gives : ∀ a0 a1 s, Gives ([Fld.pins, Fld.phase, Fld.regs, Fld.latched, Fld.causes, Fld.staleMid, Fld.tiles, Fld.sram, Fld.sramPoison, Fld.mesh, Fld.rowBus, Fld.scaleBus, Fld.range, Fld.zip, Fld.packed, Fld.bindings, Fld.reqs, Fld.chans, Fld.serials, Fld.handles] ++ [Fld.versions, Fld.rallies, Fld.selects, Fld.deferred, Fld.ws, Fld.mail, Fld.hostFns, Fld.badSlots, Fld.parity, Fld.powerN, Fld.powerS, Fld.votes, Fld.samples, Fld.lowSamples, Fld.ring, Fld.qps, Fld.heldOut, Fld.replicaN, Fld.replicaS, Fld.complexN] ++ [Fld.complexS, Fld.update, Fld.boot, Fld.restores, Fld.sensors, Fld.save, Fld.record, Fld.free, Fld.out] : List Fld) [] s (execRingPacket a0 a1 s) := by
  intro a0 a1 s
  unfold execRingPacket
  refine Gives.next ?_
  refine Only.step (receive_only _ _ _) (by decide +kernel) ?_
  exact Only.refl _ _ _

theorem execRingFlit_gives : ∀ a0 a1 a2 s, Gives ([Fld.pins, Fld.phase, Fld.regs, Fld.latched, Fld.causes, Fld.staleMid, Fld.tiles, Fld.sram, Fld.sramPoison, Fld.mesh, Fld.rowBus, Fld.scaleBus, Fld.range, Fld.zip, Fld.packed, Fld.bindings, Fld.reqs, Fld.chans, Fld.serials, Fld.handles] ++ [Fld.versions, Fld.rallies, Fld.selects, Fld.deferred, Fld.ws, Fld.mail, Fld.hostFns, Fld.badSlots, Fld.parity, Fld.powerN, Fld.powerS, Fld.votes, Fld.samples, Fld.lowSamples, Fld.ring, Fld.qps, Fld.heldOut, Fld.replicaN, Fld.replicaS, Fld.complexN] ++ [Fld.complexS, Fld.update, Fld.boot, Fld.restores, Fld.sensors, Fld.save, Fld.record, Fld.free, Fld.out] : List Fld) [] s (execRingFlit a0 a1 a2 s) := by
  intro a0 a1 a2 s
  unfold execRingFlit
  refine Gives.ite ?_ ?_
  · refine Gives.next ?_
    exact Only.refl _ _ _
  · split
    · refine Gives.next ?_
      refine Only.foldl (fun s x => ?_) ?_
      · refine Only.step (receive_only _ _ _) (by decide +kernel) ?_
        exact Only.refl _ _ _
      · refine Only.step (takeFlit_only_eq _ _ _ _ _ ‹_›) (by decide +kernel) ?_
        exact Only.refl _ _ _
    · refine Gives.next ?_
      refine Only.step (takeFlit_only_eq _ _ _ _ _ ‹_›) (by decide +kernel) ?_
      exact Only.refl _ _ _


end Sys2Proof.Machine
end

