-- ==== Sys2Proof/Laws/Effects.lean ====
section
/-! SUPPORT. What the shared operations do to the fields and events that the statements name: registers after a write, events
after they are raised, writes behind their checks. -/

namespace Sys2Proof.Machine

/-! ## Fields that an operation leaves -/

/-- The field's register lies in none of the spans. -/
def clear (r : List RegSpan) (p : Page) (off : Nat) : Bool :=
  r.all fun x => !(decide (x.2.1 ≤ off ∧ off ≤ x.2.2) &&
    (decide (x.1 = 0) || decide (x.1 = pageType p) || decide (x.1 = 0x20000 + pageNum p)))

theorem Only.word {m : List Fld} {r : List RegSpan} {s t : State} (h : Only m r s t) (hm : Fld.inside m .regs = false)
    (p : Page) (off : Nat) (ho : off < 0x1000) (hr : clear r p off = true) :
    regWord t (regAddr p off) = regWord s (regAddr p off) := by
  refine h.words (fun k => ?_) _ ?_
  · have : Fld.inside m .regs = true := List.any_eq_true.mpr ⟨_, k, by decide⟩
    rw [this] at hm
    cases hm
  · have h1 : regAddr p off / 0x1000 = pageNum p := by unfold regAddr; omega
    have h2 : regAddr p off % 0x1000 = off := by unfold regAddr; omega
    rw [List.any_eq_false]
    intro x hx hh
    have := List.all_eq_true.mp hr x hx
    simp only [RegSpan.holds, typeAt_regAddr p off ho, h1, h2] at hh
    simp only [Bool.not_eq_true', Bool.and_eq_false_iff, Bool.or_eq_false_iff] at this
    simp only [Bool.and_eq_true, Bool.or_eq_true] at hh
    obtain ⟨ha, hb⟩ := hh
    rcases this with k | ⟨⟨k1, k2⟩, k3⟩
    · rw [k] at ha; cases ha
    · rcases hb with (hb | hb) | hb
      · rw [k1] at hb; cases hb
      · simp only [decide_eq_true_eq] at hb
        simp [hb] at k2
      · simp only [decide_eq_true_eq] at hb
        simp [hb] at k3

/-- A field outside the spans keeps its value. -/
theorem Only.fget {m : List Fld} {r : List RegSpan} {s t : State} (h : Only m r s t) (p : Page) (f : Field)
    (hm : Fld.inside m .regs = false) (hf : Nat.blt f.off 0x1000 = true) (hr : clear r p f.off = true) :
    fget p f t = fget p f s := by
  simp only [Machine.fget]
  rw [h.word hm p f.off (by simpa using hf) hr]

theorem Only.fgetI {m : List Fld} {r : List RegSpan} {s t : State} (h : Only m r s t) (p : Page) (f : Field) (i : Nat)
    (hm : Fld.inside m .regs = false) (hf : Nat.blt (f.off + 4 * i) 0x1000 = true) (hr : clear r p (f.off + 4 * i) = true) :
    fgetI p f i t = fgetI p f i s := by
  simp only [Machine.fgetI]
  rw [h.word hm p _ (by simpa using hf) hr]

/-! ## Events -/

theorem pageInterrupt_fget (p q : Page) (f : Field) (s : State) : fget q f (pageInterrupt p s) = fget q f s := by
  have h := pageInterrupt_any p s
  simp only [fget]
  exact congrArg (fun w => bitsOf w.toNat f.lo f.width) (h.words (by decide) _ (by simp))

theorem raise_raw (p : Page) (i : Nat) (s : State) (hp : notMbx p = true) :
    fget p Reg.EVT_RAW_RAW (raise p i s) = (fget p Reg.EVT_RAW_RAW s ||| 2 ^ i) % 2 ^ 32 := by
  have k : ∀ t : State, fget p Reg.EVT_RAW_RAW (if evtStat p s = 0 ∧ evtStat p t ≠ 0 then pageInterrupt p t else t) =
      fget p Reg.EVT_RAW_RAW t := by
    intro t
    split
    · exact pageInterrupt_fget _ _ _ _
    · rfl
  cases p <;> first | (cases hp; done) | exact (k _).trans (fget_fset_same _ _ _ _)

/-- A raised event is latched. -/
@[simp] theorem eventSet_raise (p : Page) (i : Nat) (s : State) (hp : notMbx p = true) (hi : i < 32) :
    eventSet p i (raise p i s) = true := by
  unfold eventSet
  rw [raise_raw p i s hp, Nat.testBit_mod_two_pow, Nat.testBit_or, Nat.testBit_two_pow_self]
  simp [hi]

theorem raise_raw_other (p q : Page) (i : Nat) (s : State) (h : p ≠ q) :
    fget p Reg.EVT_RAW_RAW (raise q i s) = fget p Reg.EVT_RAW_RAW s := by
  have k : ∀ t : State, fget p Reg.EVT_RAW_RAW (if evtStat q s = 0 ∧ evtStat q t ≠ 0 then pageInterrupt q t else t) =
      fget p Reg.EVT_RAW_RAW t := by
    intro t
    split
    · exact pageInterrupt_fget _ _ _ _
    · rfl
  cases q <;> first | rfl | exact (k _).trans (fget_fset_page _ _ _ _ _ _ h)

/-- An event stays latched when others are raised. -/
theorem eventSet_raise_of (p q : Page) (i j : Nat) (s : State) (h : eventSet p i s = true) :
    eventSet p i (raise q j s) = true := by
  by_cases e : p = q
  · subst e
    unfold eventSet at *
    by_cases hm : notMbx p = true
    · have hi : i < 32 := by
        by_contra hn
        have : (fget p Reg.EVT_RAW_RAW s) < 2 ^ i := lt_of_lt_of_le (b := 2 ^ 32) (Nat.mod_lt _ (by decide))
          (Nat.pow_le_pow_right (by decide) (by omega))
        rw [Nat.testBit_lt_two_pow this] at h
        cases h
      rw [raise_raw p j s hm, Nat.testBit_mod_two_pow, Nat.testBit_or, h]
      simp [hi]
    · cases p <;> first | exact h | exact absurd rfl hm
  · unfold eventSet at *
    rw [raise_raw_other p q j s e]
    exact h

/-- An event stays latched through an operation that writes no EVT_RAW of its page. -/
theorem Only.event {m : List Fld} {r : List RegSpan} {s t : State} (h : Only m r s t) (p : Page) (i : Nat)
    (hm : Fld.inside m .regs = false) (hr : clear r p 0x018 = true) : eventSet p i t = eventSet p i s := by
  unfold eventSet
  rw [h.fget p _ hm (by decide) hr]

/-! ## Writes behind their checks -/

theorem guarded_admitted (w : Wr) (p : Page) (off : Nat) (f : State → State) (s : State) (h : Admitted w p off s) :
    guarded w p off f s = f (if pageShared p = true ∧ isCC w.mid = true then fset p Reg.EPOCH_TOKEN w.token.toNat s else s) := by
  obtain ⟨h1, h2, h3, h4, h5⟩ := h
  simp only [guarded, writeGate, h1, h2, h3, h4, epochCheck, Bool.true_eq_false, if_false, false_and]
  split
  · rename_i k
    split at k
    · rename_i c
      rw [if_neg (Nat.not_lt.mpr (h5 c.1 c.2))] at k
      cases k
      rw [if_pos c]
    · rename_i c
      cases k
      rw [if_neg c]
  · rename_i k
    split at k
    · rename_i c
      rw [if_neg (Nat.not_lt.mpr (h5 c.1 c.2))] at k
      cases k
    · cases k

/-- The state a write acts on once admitted. -/
def opened (w : Wr) (p : Page) (s : State) : State :=
  if pageShared p = true ∧ isCC w.mid = true then fset p Reg.EPOCH_TOKEN w.token.toNat s else s

theorem guarded_opened {w : Wr} {p : Page} {off : Nat} {f : State → State} {s : State} (h : Admitted w p off s) :
    guarded w p off f s = f (opened w p s) := guarded_admitted w p off f s h

theorem opened_at (w : Wr) (p : Page) (s : State) : Only [] [span p 0x02C 0x02C] s (opened w p s) := by
  unfold opened
  split
  · exact fset_at p Reg.EPOCH_TOKEN _ s (by decide)
  · exact Only.refl _ _ _

theorem opened_token (w : Wr) (p : Page) (s : State) : fget p Reg.EPOCH_TOKEN (opened w p s) = tokenAfter w p s := by
  unfold opened tokenAfter
  split
  · rw [fget_fset_same _ _ _ _]
    exact Nat.mod_eq_of_lt w.token.isLt
  · rfl

theorem opened_fget (w : Wr) (p q : Page) (f : Field) (s : State) (hf : Nat.blt f.off 0x1000 = true := by decide)
    (ho : Nat.beq f.off 0x02C = false := by decide) : fget q f (opened w p s) = fget q f s := by
  refine (opened_at w p s).fget q f rfl hf ?_
  have : f.off ≠ 0x02C := by intro h; rw [h] at ho; cases ho
  simp only [clear, span, List.all_cons, List.all_nil, Bool.and_true]
  rw [show decide (0x02C ≤ f.off ∧ f.off ≤ 0x02C) = false by simp; omega]
  rfl

/-! ## The same operations, of one page alone -/

theorem span_inside (p : Page) (a b c d : Nat) (l : List RegSpan) (h : span p c d ∈ l) (h1 : c ≤ a) (h2 : b ≤ d) :
    RegSpan.inside l (span p a b) = true := by
  refine List.any_eq_true.mpr ⟨_, h, ?_⟩
  simp [span, h1, h2]

theorem raise_at (p : Page) (i : Nat) (s : State) (hp : notMbx p = true) :
    Only [.heldOut, .out] [span p 0x018 0x018] s (raise p i s) := by
  have k : ∀ t : State, Only [.heldOut, .out] [span p 0x018 0x018] s t →
      Only [.heldOut, .out] [span p 0x018 0x018] s (if evtStat p s = 0 ∧ evtStat p t ≠ 0 then pageInterrupt p t else t) := by
    intro t h
    split
    · exact h.trans ((pageInterrupt_any p t).mono rfl)
    · exact h
  have f : ∀ v, Only [.heldOut, .out] [span p 0x018 0x018] s (fset p Reg.EVT_RAW_RAW v s) := fun v =>
    (fset_at p Reg.EVT_RAW_RAW v s rfl).mono (by simp [within, Fld.inside, RegSpan.inside, span, Reg.EVT_RAW_RAW])
  cases p <;> first | (cases hp; done) | exact k _ (f _)

/-- On a mailbox page an event goes to its ends. -/
theorem raise_mbx (m : Fin 64) (i : Nat) (s : State) : Only [.mail] [] s (raise (.mbx m) i s) :=
  (raiseMail_only _ _ _ _).trans (raiseMail_only _ _ _ _)

theorem raise_page (p : Page) (i : Nat) (s : State) :
    Only [.mail, .heldOut, .out] [span p 0x018 0x018] s (raise p i s) := by
  by_cases h : notMbx p = true
  · exact (raise_at p i s h).mono (by simp [within, Fld.inside, RegSpan.inside, span])
  · cases p <;> first | exact absurd rfl h | exact (raise_mbx _ _ _).mono (by simp [within, Fld.inside])

/-- The peers of mailboxes are told in their ends alone. -/
theorem withPeers_mail (f : State → State) (s : State) : Only [.mail] [] (f s) (withPeers f s) := by
  unfold withPeers
  extract_lets x one
  refine Only.foldl (fun s m => ?_) (Only.refl _ _ _)
  have h : ∀ m e x, Only [.mail] [] x (one m e x) := by
    intro m e x
    dsimp only [one]
    split
    · exact raiseMail_only _ _ _ _
    · exact Only.refl _ _ _
  exact (h _ _ _).trans (h _ _ _)

theorem withPeers_fget (f : State → State) (s : State) (p : Page) (g : Field) :
    fget p g (withPeers f s) = fget p g (f s) := by
  simp only [fget]
  exact congrArg (fun w => bitsOf w.toNat g.lo g.width) ((withPeers_mail f s).words (by decide) _ (by simp))

/-! ## Block states -/

theorem blk_congr {p : Page} {s t : State} (h : fget p Reg.BLK_STATE_STATE t = fget p Reg.BLK_STATE_STATE s) :
    blk p t = blk p s := by
  simp only [blk, h]

theorem fenced_congr {p : Page} {s t : State} (h : fget p Reg.FENCE_FENCED t = fget p Reg.FENCE_FENCED s) :
    fenced p t = fenced p s := by
  simp only [fenced, h]

theorem withPeers_blk (f : State → State) (s : State) (p : Page) : blk p (withPeers f s) = blk p (f s) :=
  blk_congr (withPeers_fget f s p _)

theorem raise_fget (p q : Page) (i : Nat) (f : Field) (s : State) (hf : Nat.blt f.off 0x1000 = true := by decide)
    (h : Nat.beq f.off 0x018 = false := by decide) : fget q f (raise p i s) = fget q f s := by
  refine (raise_page p i s).fget q f rfl hf ?_
  have : f.off ≠ 0x018 := by intro e; rw [e] at h; cases h
  simp only [clear, span, List.all_cons, List.all_nil, Bool.and_true]
  rw [show decide (0x018 ≤ f.off ∧ f.off ≤ 0x018) = false by simp; omega]
  rfl

theorem setBlk_page (p : Page) (b : Blk) (s : State) :
    Only [.mail, .heldOut, .out] [span p 0x014 0x014, span p 0x018 0x018] s (setBlk p b s) := by
  unfold setBlk
  have h : Only [.mail, .heldOut, .out] [span p 0x014 0x014, span p 0x018 0x018] s (fset p Reg.BLK_STATE_STATE b.num s) :=
    (fset_at p Reg.BLK_STATE_STATE _ s rfl).mono (by simp [within, Fld.inside, RegSpan.inside, span, Reg.BLK_STATE_STATE])
  dsimp only
  split
  · exact h.trans ((raise_page _ _ _).mono (by simp [within, Fld.inside, RegSpan.inside, span]))
  · exact h

@[simp] theorem blk_setBlk (p : Page) (b : Blk) (s : State) : blk p (setBlk p b s) = b := by
  have h : fget p Reg.BLK_STATE_STATE (setBlk p b s) = b.num := by
    unfold setBlk
    dsimp only
    split
    · rw [raise_fget p p 0 _ _, fget_fset_same _ _ _ _]
      cases b <;> rfl
    · rw [fget_fset_same _ _ _ _]
      cases b <;> rfl
  unfold blk
  rw [h]
  cases b <;> rfl

theorem setBlk_fget (p q : Page) (b : Blk) (f : Field) (s : State) (hf : fieldOk f = true := by decide)
    (h1 : Nat.beq f.off 0x014 = false := by decide) (h2 : Nat.beq f.off 0x018 = false := by decide) :
    fget q f (setBlk p b s) = fget q f s := by
  have hf' : Nat.blt f.off 0x1000 = true := by
    simp only [fieldOk, decide_eq_true_eq] at hf
    simpa using hf.2
  refine (setBlk_page p b s).fget q f rfl hf' ?_
  have e1 : f.off ≠ 0x014 := by intro e; rw [e] at h1; cases h1
  have e2 : f.off ≠ 0x018 := by intro e; rw [e] at h2; cases h2
  simp only [clear, span, List.all_cons, List.all_nil, Bool.and_true]
  rw [show decide (0x014 ≤ f.off ∧ f.off ≤ 0x014) = false by simp; omega,
    show decide (0x018 ≤ f.off ∧ f.off ≤ 0x018) = false by simp; omega]
  rfl

/-- Reaching ON or OFF raises STATE_CHANGE. -/
theorem setBlk_event (p : Page) (b : Blk) (s : State) (hp : notMbx p = true) (hb : b = .on ∨ b = .off) :
    eventSet p 0 (setBlk p b s) = true := by
  unfold setBlk
  dsimp only
  rw [if_pos hb]
  exact eventSet_raise p 0 _ hp (by decide)

theorem setBlk_event_of (p q : Page) (b : Blk) (i : Nat) (s : State) (h : eventSet p i s = true) :
    eventSet p i (setBlk q b s) = true := by
  unfold setBlk
  dsimp only
  have k : eventSet p i (fset q Reg.BLK_STATE_STATE b.num s) = true := by
    unfold eventSet at *
    by_cases e : p = q
    · subst e
      rw [fget_fset_apart _ _ _ _ _]
      exact h
    · rw [fget_fset_page _ _ _ _ _ _ e]
      exact h
  split
  · exact eventSet_raise_of _ _ _ _ _ k
  · exact k

theorem setBlk_blk_other (p q : Page) (b : Blk) (s : State) (h : p ≠ q) : blk p (setBlk q b s) = blk p s := by
  refine blk_congr ?_
  unfold setBlk
  dsimp only
  split
  · rw [raise_fget _ _ _ _ _, fget_fset_page _ _ _ _ _ _ h]
  · rw [fget_fset_page _ _ _ _ _ _ h]

end Sys2Proof.Machine
end

