-- ==== Sys2Proof/Laws/State.lean ====
section
/-! SUPPORT. What each update of the state leaves as it was: one lemma for each field. -/

namespace Sys2Proof.Machine

/-! ### setRegWord -/
@[simp] theorem setRegWord_pins (a : Nat) (w : W32) (s : State) : (setRegWord a w s).pins = s.pins := id rfl
@[simp] theorem setRegWord_fuses (a : Nat) (w : W32) (s : State) : (setRegWord a w s).fuses = s.fuses := id rfl
@[simp] theorem setRegWord_phase (a : Nat) (w : W32) (s : State) : (setRegWord a w s).phase = s.phase := id rfl
@[simp] theorem setRegWord_timer (a : Nat) (w : W32) (s : State) : (setRegWord a w s).timer = s.timer := id rfl
@[simp] theorem setRegWord_timerFrac (a : Nat) (w : W32) (s : State) : (setRegWord a w s).timerFrac = s.timerFrac := id rfl
@[simp] theorem setRegWord_latched (a : Nat) (w : W32) (s : State) : (setRegWord a w s).latched = s.latched := id rfl
@[simp] theorem setRegWord_causes (a : Nat) (w : W32) (s : State) : (setRegWord a w s).causes = s.causes := id rfl
@[simp] theorem setRegWord_staleMid (a : Nat) (w : W32) (s : State) : (setRegWord a w s).staleMid = s.staleMid := id rfl
@[simp] theorem setRegWord_tiles (a : Nat) (w : W32) (s : State) : (setRegWord a w s).tiles = s.tiles := id rfl
@[simp] theorem setRegWord_sram (a : Nat) (w : W32) (s : State) : (setRegWord a w s).sram = s.sram := id rfl
@[simp] theorem setRegWord_sramPoison (a : Nat) (w : W32) (s : State) : (setRegWord a w s).sramPoison = s.sramPoison := id rfl
@[simp] theorem setRegWord_mesh (a : Nat) (w : W32) (s : State) : (setRegWord a w s).mesh = s.mesh := id rfl
@[simp] theorem setRegWord_rowBus (a : Nat) (w : W32) (s : State) : (setRegWord a w s).rowBus = s.rowBus := id rfl
@[simp] theorem setRegWord_scaleBus (a : Nat) (w : W32) (s : State) : (setRegWord a w s).scaleBus = s.scaleBus := id rfl
@[simp] theorem setRegWord_range (a : Nat) (w : W32) (s : State) : (setRegWord a w s).range = s.range := id rfl
@[simp] theorem setRegWord_zip (a : Nat) (w : W32) (s : State) : (setRegWord a w s).zip = s.zip := id rfl
@[simp] theorem setRegWord_packed (a : Nat) (w : W32) (s : State) : (setRegWord a w s).packed = s.packed := id rfl
@[simp] theorem setRegWord_bindings (a : Nat) (w : W32) (s : State) : (setRegWord a w s).bindings = s.bindings := id rfl
@[simp] theorem setRegWord_reqs (a : Nat) (w : W32) (s : State) : (setRegWord a w s).reqs = s.reqs := id rfl
@[simp] theorem setRegWord_chans (a : Nat) (w : W32) (s : State) : (setRegWord a w s).chans = s.chans := id rfl
@[simp] theorem setRegWord_serials (a : Nat) (w : W32) (s : State) : (setRegWord a w s).serials = s.serials := id rfl
@[simp] theorem setRegWord_handles (a : Nat) (w : W32) (s : State) : (setRegWord a w s).handles = s.handles := id rfl
@[simp] theorem setRegWord_versions (a : Nat) (w : W32) (s : State) : (setRegWord a w s).versions = s.versions := id rfl
@[simp] theorem setRegWord_rallies (a : Nat) (w : W32) (s : State) : (setRegWord a w s).rallies = s.rallies := id rfl
@[simp] theorem setRegWord_selects (a : Nat) (w : W32) (s : State) : (setRegWord a w s).selects = s.selects := id rfl
@[simp] theorem setRegWord_deferred (a : Nat) (w : W32) (s : State) : (setRegWord a w s).deferred = s.deferred := id rfl
@[simp] theorem setRegWord_ws (a : Nat) (w : W32) (s : State) : (setRegWord a w s).ws = s.ws := id rfl
@[simp] theorem setRegWord_mail (a : Nat) (w : W32) (s : State) : (setRegWord a w s).mail = s.mail := id rfl
@[simp] theorem setRegWord_hostFns (a : Nat) (w : W32) (s : State) : (setRegWord a w s).hostFns = s.hostFns := id rfl
@[simp] theorem setRegWord_badSlots (a : Nat) (w : W32) (s : State) : (setRegWord a w s).badSlots = s.badSlots := id rfl
@[simp] theorem setRegWord_parity (a : Nat) (w : W32) (s : State) : (setRegWord a w s).parity = s.parity := id rfl
@[simp] theorem setRegWord_powerN (a : Nat) (w : W32) (s : State) : (setRegWord a w s).powerN = s.powerN := id rfl
@[simp] theorem setRegWord_powerS (a : Nat) (w : W32) (s : State) : (setRegWord a w s).powerS = s.powerS := id rfl
@[simp] theorem setRegWord_votes (a : Nat) (w : W32) (s : State) : (setRegWord a w s).votes = s.votes := id rfl
@[simp] theorem setRegWord_samples (a : Nat) (w : W32) (s : State) : (setRegWord a w s).samples = s.samples := id rfl
@[simp] theorem setRegWord_lowSamples (a : Nat) (w : W32) (s : State) : (setRegWord a w s).lowSamples = s.lowSamples := id rfl
@[simp] theorem setRegWord_ring (a : Nat) (w : W32) (s : State) : (setRegWord a w s).ring = s.ring := id rfl
@[simp] theorem setRegWord_qps (a : Nat) (w : W32) (s : State) : (setRegWord a w s).qps = s.qps := id rfl
@[simp] theorem setRegWord_heldOut (a : Nat) (w : W32) (s : State) : (setRegWord a w s).heldOut = s.heldOut := id rfl
@[simp] theorem setRegWord_replicaN (a : Nat) (w : W32) (s : State) : (setRegWord a w s).replicaN = s.replicaN := id rfl
@[simp] theorem setRegWord_replicaS (a : Nat) (w : W32) (s : State) : (setRegWord a w s).replicaS = s.replicaS := id rfl
@[simp] theorem setRegWord_complexN (a : Nat) (w : W32) (s : State) : (setRegWord a w s).complexN = s.complexN := id rfl
@[simp] theorem setRegWord_complexS (a : Nat) (w : W32) (s : State) : (setRegWord a w s).complexS = s.complexS := id rfl
@[simp] theorem setRegWord_update (a : Nat) (w : W32) (s : State) : (setRegWord a w s).update = s.update := id rfl
@[simp] theorem setRegWord_boot (a : Nat) (w : W32) (s : State) : (setRegWord a w s).boot = s.boot := id rfl
@[simp] theorem setRegWord_restores (a : Nat) (w : W32) (s : State) : (setRegWord a w s).restores = s.restores := id rfl
@[simp] theorem setRegWord_releasedAt (a : Nat) (w : W32) (s : State) : (setRegWord a w s).releasedAt = s.releasedAt := id rfl
@[simp] theorem setRegWord_sensors (a : Nat) (w : W32) (s : State) : (setRegWord a w s).sensors = s.sensors := id rfl
@[simp] theorem setRegWord_save (a : Nat) (w : W32) (s : State) : (setRegWord a w s).save = s.save := id rfl
@[simp] theorem setRegWord_record (a : Nat) (w : W32) (s : State) : (setRegWord a w s).record = s.record := id rfl
@[simp] theorem setRegWord_free (a : Nat) (w : W32) (s : State) : (setRegWord a w s).free = s.free := id rfl
@[simp] theorem setRegWord_out (a : Nat) (w : W32) (s : State) : (setRegWord a w s).out = s.out := id rfl
@[simp] theorem setRegWord_pending (a : Nat) (w : W32) (s : State) : (setRegWord a w s).pending = s.pending := id rfl

/-! ### fset -/
@[simp] theorem fset_pins (p : Page) (f : Field) (v : Nat) (s : State) : (fset p f v s).pins = s.pins := id rfl
@[simp] theorem fset_fuses (p : Page) (f : Field) (v : Nat) (s : State) : (fset p f v s).fuses = s.fuses := id rfl
@[simp] theorem fset_phase (p : Page) (f : Field) (v : Nat) (s : State) : (fset p f v s).phase = s.phase := id rfl
@[simp] theorem fset_timer (p : Page) (f : Field) (v : Nat) (s : State) : (fset p f v s).timer = s.timer := id rfl
@[simp] theorem fset_timerFrac (p : Page) (f : Field) (v : Nat) (s : State) : (fset p f v s).timerFrac = s.timerFrac := id rfl
@[simp] theorem fset_latched (p : Page) (f : Field) (v : Nat) (s : State) : (fset p f v s).latched = s.latched := id rfl
@[simp] theorem fset_causes (p : Page) (f : Field) (v : Nat) (s : State) : (fset p f v s).causes = s.causes := id rfl
@[simp] theorem fset_staleMid (p : Page) (f : Field) (v : Nat) (s : State) : (fset p f v s).staleMid = s.staleMid := id rfl
@[simp] theorem fset_tiles (p : Page) (f : Field) (v : Nat) (s : State) : (fset p f v s).tiles = s.tiles := id rfl
@[simp] theorem fset_sram (p : Page) (f : Field) (v : Nat) (s : State) : (fset p f v s).sram = s.sram := id rfl
@[simp] theorem fset_sramPoison (p : Page) (f : Field) (v : Nat) (s : State) : (fset p f v s).sramPoison = s.sramPoison := id rfl
@[simp] theorem fset_mesh (p : Page) (f : Field) (v : Nat) (s : State) : (fset p f v s).mesh = s.mesh := id rfl
@[simp] theorem fset_rowBus (p : Page) (f : Field) (v : Nat) (s : State) : (fset p f v s).rowBus = s.rowBus := id rfl
@[simp] theorem fset_scaleBus (p : Page) (f : Field) (v : Nat) (s : State) : (fset p f v s).scaleBus = s.scaleBus := id rfl
@[simp] theorem fset_range (p : Page) (f : Field) (v : Nat) (s : State) : (fset p f v s).range = s.range := id rfl
@[simp] theorem fset_zip (p : Page) (f : Field) (v : Nat) (s : State) : (fset p f v s).zip = s.zip := id rfl
@[simp] theorem fset_packed (p : Page) (f : Field) (v : Nat) (s : State) : (fset p f v s).packed = s.packed := id rfl
@[simp] theorem fset_bindings (p : Page) (f : Field) (v : Nat) (s : State) : (fset p f v s).bindings = s.bindings := id rfl
@[simp] theorem fset_reqs (p : Page) (f : Field) (v : Nat) (s : State) : (fset p f v s).reqs = s.reqs := id rfl
@[simp] theorem fset_chans (p : Page) (f : Field) (v : Nat) (s : State) : (fset p f v s).chans = s.chans := id rfl
@[simp] theorem fset_serials (p : Page) (f : Field) (v : Nat) (s : State) : (fset p f v s).serials = s.serials := id rfl
@[simp] theorem fset_handles (p : Page) (f : Field) (v : Nat) (s : State) : (fset p f v s).handles = s.handles := id rfl
@[simp] theorem fset_versions (p : Page) (f : Field) (v : Nat) (s : State) : (fset p f v s).versions = s.versions := id rfl
@[simp] theorem fset_rallies (p : Page) (f : Field) (v : Nat) (s : State) : (fset p f v s).rallies = s.rallies := id rfl
@[simp] theorem fset_selects (p : Page) (f : Field) (v : Nat) (s : State) : (fset p f v s).selects = s.selects := id rfl
@[simp] theorem fset_deferred (p : Page) (f : Field) (v : Nat) (s : State) : (fset p f v s).deferred = s.deferred := id rfl
@[simp] theorem fset_ws (p : Page) (f : Field) (v : Nat) (s : State) : (fset p f v s).ws = s.ws := id rfl
@[simp] theorem fset_mail (p : Page) (f : Field) (v : Nat) (s : State) : (fset p f v s).mail = s.mail := id rfl
@[simp] theorem fset_hostFns (p : Page) (f : Field) (v : Nat) (s : State) : (fset p f v s).hostFns = s.hostFns := id rfl
@[simp] theorem fset_badSlots (p : Page) (f : Field) (v : Nat) (s : State) : (fset p f v s).badSlots = s.badSlots := id rfl
@[simp] theorem fset_parity (p : Page) (f : Field) (v : Nat) (s : State) : (fset p f v s).parity = s.parity := id rfl
@[simp] theorem fset_powerN (p : Page) (f : Field) (v : Nat) (s : State) : (fset p f v s).powerN = s.powerN := id rfl
@[simp] theorem fset_powerS (p : Page) (f : Field) (v : Nat) (s : State) : (fset p f v s).powerS = s.powerS := id rfl
@[simp] theorem fset_votes (p : Page) (f : Field) (v : Nat) (s : State) : (fset p f v s).votes = s.votes := id rfl
@[simp] theorem fset_samples (p : Page) (f : Field) (v : Nat) (s : State) : (fset p f v s).samples = s.samples := id rfl
@[simp] theorem fset_lowSamples (p : Page) (f : Field) (v : Nat) (s : State) : (fset p f v s).lowSamples = s.lowSamples := id rfl
@[simp] theorem fset_ring (p : Page) (f : Field) (v : Nat) (s : State) : (fset p f v s).ring = s.ring := id rfl
@[simp] theorem fset_qps (p : Page) (f : Field) (v : Nat) (s : State) : (fset p f v s).qps = s.qps := id rfl
@[simp] theorem fset_heldOut (p : Page) (f : Field) (v : Nat) (s : State) : (fset p f v s).heldOut = s.heldOut := id rfl
@[simp] theorem fset_replicaN (p : Page) (f : Field) (v : Nat) (s : State) : (fset p f v s).replicaN = s.replicaN := id rfl
@[simp] theorem fset_replicaS (p : Page) (f : Field) (v : Nat) (s : State) : (fset p f v s).replicaS = s.replicaS := id rfl
@[simp] theorem fset_complexN (p : Page) (f : Field) (v : Nat) (s : State) : (fset p f v s).complexN = s.complexN := id rfl
@[simp] theorem fset_complexS (p : Page) (f : Field) (v : Nat) (s : State) : (fset p f v s).complexS = s.complexS := id rfl
@[simp] theorem fset_update (p : Page) (f : Field) (v : Nat) (s : State) : (fset p f v s).update = s.update := id rfl
@[simp] theorem fset_boot (p : Page) (f : Field) (v : Nat) (s : State) : (fset p f v s).boot = s.boot := id rfl
@[simp] theorem fset_restores (p : Page) (f : Field) (v : Nat) (s : State) : (fset p f v s).restores = s.restores := id rfl
@[simp] theorem fset_releasedAt (p : Page) (f : Field) (v : Nat) (s : State) : (fset p f v s).releasedAt = s.releasedAt := id rfl
@[simp] theorem fset_sensors (p : Page) (f : Field) (v : Nat) (s : State) : (fset p f v s).sensors = s.sensors := id rfl
@[simp] theorem fset_save (p : Page) (f : Field) (v : Nat) (s : State) : (fset p f v s).save = s.save := id rfl
@[simp] theorem fset_record (p : Page) (f : Field) (v : Nat) (s : State) : (fset p f v s).record = s.record := id rfl
@[simp] theorem fset_free (p : Page) (f : Field) (v : Nat) (s : State) : (fset p f v s).free = s.free := id rfl
@[simp] theorem fset_out (p : Page) (f : Field) (v : Nat) (s : State) : (fset p f v s).out = s.out := id rfl
@[simp] theorem fset_pending (p : Page) (f : Field) (v : Nat) (s : State) : (fset p f v s).pending = s.pending := id rfl

/-! ### fsetI -/
@[simp] theorem fsetI_pins (p : Page) (f : Field) (i v : Nat) (s : State) : (fsetI p f i v s).pins = s.pins := id rfl
@[simp] theorem fsetI_fuses (p : Page) (f : Field) (i v : Nat) (s : State) : (fsetI p f i v s).fuses = s.fuses := id rfl
@[simp] theorem fsetI_phase (p : Page) (f : Field) (i v : Nat) (s : State) : (fsetI p f i v s).phase = s.phase := id rfl
@[simp] theorem fsetI_timer (p : Page) (f : Field) (i v : Nat) (s : State) : (fsetI p f i v s).timer = s.timer := id rfl
@[simp] theorem fsetI_timerFrac (p : Page) (f : Field) (i v : Nat) (s : State) : (fsetI p f i v s).timerFrac = s.timerFrac := id rfl
@[simp] theorem fsetI_latched (p : Page) (f : Field) (i v : Nat) (s : State) : (fsetI p f i v s).latched = s.latched := id rfl
@[simp] theorem fsetI_causes (p : Page) (f : Field) (i v : Nat) (s : State) : (fsetI p f i v s).causes = s.causes := id rfl
@[simp] theorem fsetI_staleMid (p : Page) (f : Field) (i v : Nat) (s : State) : (fsetI p f i v s).staleMid = s.staleMid := id rfl
@[simp] theorem fsetI_tiles (p : Page) (f : Field) (i v : Nat) (s : State) : (fsetI p f i v s).tiles = s.tiles := id rfl
@[simp] theorem fsetI_sram (p : Page) (f : Field) (i v : Nat) (s : State) : (fsetI p f i v s).sram = s.sram := id rfl
@[simp] theorem fsetI_sramPoison (p : Page) (f : Field) (i v : Nat) (s : State) : (fsetI p f i v s).sramPoison = s.sramPoison := id rfl
@[simp] theorem fsetI_mesh (p : Page) (f : Field) (i v : Nat) (s : State) : (fsetI p f i v s).mesh = s.mesh := id rfl
@[simp] theorem fsetI_rowBus (p : Page) (f : Field) (i v : Nat) (s : State) : (fsetI p f i v s).rowBus = s.rowBus := id rfl
@[simp] theorem fsetI_scaleBus (p : Page) (f : Field) (i v : Nat) (s : State) : (fsetI p f i v s).scaleBus = s.scaleBus := id rfl
@[simp] theorem fsetI_range (p : Page) (f : Field) (i v : Nat) (s : State) : (fsetI p f i v s).range = s.range := id rfl
@[simp] theorem fsetI_zip (p : Page) (f : Field) (i v : Nat) (s : State) : (fsetI p f i v s).zip = s.zip := id rfl
@[simp] theorem fsetI_packed (p : Page) (f : Field) (i v : Nat) (s : State) : (fsetI p f i v s).packed = s.packed := id rfl
@[simp] theorem fsetI_bindings (p : Page) (f : Field) (i v : Nat) (s : State) : (fsetI p f i v s).bindings = s.bindings := id rfl
@[simp] theorem fsetI_reqs (p : Page) (f : Field) (i v : Nat) (s : State) : (fsetI p f i v s).reqs = s.reqs := id rfl
@[simp] theorem fsetI_chans (p : Page) (f : Field) (i v : Nat) (s : State) : (fsetI p f i v s).chans = s.chans := id rfl
@[simp] theorem fsetI_serials (p : Page) (f : Field) (i v : Nat) (s : State) : (fsetI p f i v s).serials = s.serials := id rfl
@[simp] theorem fsetI_handles (p : Page) (f : Field) (i v : Nat) (s : State) : (fsetI p f i v s).handles = s.handles := id rfl
@[simp] theorem fsetI_versions (p : Page) (f : Field) (i v : Nat) (s : State) : (fsetI p f i v s).versions = s.versions := id rfl
@[simp] theorem fsetI_rallies (p : Page) (f : Field) (i v : Nat) (s : State) : (fsetI p f i v s).rallies = s.rallies := id rfl
@[simp] theorem fsetI_selects (p : Page) (f : Field) (i v : Nat) (s : State) : (fsetI p f i v s).selects = s.selects := id rfl
@[simp] theorem fsetI_deferred (p : Page) (f : Field) (i v : Nat) (s : State) : (fsetI p f i v s).deferred = s.deferred := id rfl
@[simp] theorem fsetI_ws (p : Page) (f : Field) (i v : Nat) (s : State) : (fsetI p f i v s).ws = s.ws := id rfl
@[simp] theorem fsetI_mail (p : Page) (f : Field) (i v : Nat) (s : State) : (fsetI p f i v s).mail = s.mail := id rfl
@[simp] theorem fsetI_hostFns (p : Page) (f : Field) (i v : Nat) (s : State) : (fsetI p f i v s).hostFns = s.hostFns := id rfl
@[simp] theorem fsetI_badSlots (p : Page) (f : Field) (i v : Nat) (s : State) : (fsetI p f i v s).badSlots = s.badSlots := id rfl
@[simp] theorem fsetI_parity (p : Page) (f : Field) (i v : Nat) (s : State) : (fsetI p f i v s).parity = s.parity := id rfl
@[simp] theorem fsetI_powerN (p : Page) (f : Field) (i v : Nat) (s : State) : (fsetI p f i v s).powerN = s.powerN := id rfl
@[simp] theorem fsetI_powerS (p : Page) (f : Field) (i v : Nat) (s : State) : (fsetI p f i v s).powerS = s.powerS := id rfl
@[simp] theorem fsetI_votes (p : Page) (f : Field) (i v : Nat) (s : State) : (fsetI p f i v s).votes = s.votes := id rfl
@[simp] theorem fsetI_samples (p : Page) (f : Field) (i v : Nat) (s : State) : (fsetI p f i v s).samples = s.samples := id rfl
@[simp] theorem fsetI_lowSamples (p : Page) (f : Field) (i v : Nat) (s : State) : (fsetI p f i v s).lowSamples = s.lowSamples := id rfl
@[simp] theorem fsetI_ring (p : Page) (f : Field) (i v : Nat) (s : State) : (fsetI p f i v s).ring = s.ring := id rfl
@[simp] theorem fsetI_qps (p : Page) (f : Field) (i v : Nat) (s : State) : (fsetI p f i v s).qps = s.qps := id rfl
@[simp] theorem fsetI_heldOut (p : Page) (f : Field) (i v : Nat) (s : State) : (fsetI p f i v s).heldOut = s.heldOut := id rfl
@[simp] theorem fsetI_replicaN (p : Page) (f : Field) (i v : Nat) (s : State) : (fsetI p f i v s).replicaN = s.replicaN := id rfl
@[simp] theorem fsetI_replicaS (p : Page) (f : Field) (i v : Nat) (s : State) : (fsetI p f i v s).replicaS = s.replicaS := id rfl
@[simp] theorem fsetI_complexN (p : Page) (f : Field) (i v : Nat) (s : State) : (fsetI p f i v s).complexN = s.complexN := id rfl
@[simp] theorem fsetI_complexS (p : Page) (f : Field) (i v : Nat) (s : State) : (fsetI p f i v s).complexS = s.complexS := id rfl
@[simp] theorem fsetI_update (p : Page) (f : Field) (i v : Nat) (s : State) : (fsetI p f i v s).update = s.update := id rfl
@[simp] theorem fsetI_boot (p : Page) (f : Field) (i v : Nat) (s : State) : (fsetI p f i v s).boot = s.boot := id rfl
@[simp] theorem fsetI_restores (p : Page) (f : Field) (i v : Nat) (s : State) : (fsetI p f i v s).restores = s.restores := id rfl
@[simp] theorem fsetI_releasedAt (p : Page) (f : Field) (i v : Nat) (s : State) : (fsetI p f i v s).releasedAt = s.releasedAt := id rfl
@[simp] theorem fsetI_sensors (p : Page) (f : Field) (i v : Nat) (s : State) : (fsetI p f i v s).sensors = s.sensors := id rfl
@[simp] theorem fsetI_save (p : Page) (f : Field) (i v : Nat) (s : State) : (fsetI p f i v s).save = s.save := id rfl
@[simp] theorem fsetI_record (p : Page) (f : Field) (i v : Nat) (s : State) : (fsetI p f i v s).record = s.record := id rfl
@[simp] theorem fsetI_free (p : Page) (f : Field) (i v : Nat) (s : State) : (fsetI p f i v s).free = s.free := id rfl
@[simp] theorem fsetI_out (p : Page) (f : Field) (i v : Nat) (s : State) : (fsetI p f i v s).out = s.out := id rfl
@[simp] theorem fsetI_pending (p : Page) (f : Field) (i v : Nat) (s : State) : (fsetI p f i v s).pending = s.pending := id rfl

/-! ### wrapInc -/
@[simp] theorem wrapInc_pins (p : Page) (f : Field) (n : Nat) (s : State) : (wrapInc p f n s).pins = s.pins := id rfl
@[simp] theorem wrapInc_fuses (p : Page) (f : Field) (n : Nat) (s : State) : (wrapInc p f n s).fuses = s.fuses := id rfl
@[simp] theorem wrapInc_phase (p : Page) (f : Field) (n : Nat) (s : State) : (wrapInc p f n s).phase = s.phase := id rfl
@[simp] theorem wrapInc_timer (p : Page) (f : Field) (n : Nat) (s : State) : (wrapInc p f n s).timer = s.timer := id rfl
@[simp] theorem wrapInc_timerFrac (p : Page) (f : Field) (n : Nat) (s : State) : (wrapInc p f n s).timerFrac = s.timerFrac := id rfl
@[simp] theorem wrapInc_latched (p : Page) (f : Field) (n : Nat) (s : State) : (wrapInc p f n s).latched = s.latched := id rfl
@[simp] theorem wrapInc_causes (p : Page) (f : Field) (n : Nat) (s : State) : (wrapInc p f n s).causes = s.causes := id rfl
@[simp] theorem wrapInc_staleMid (p : Page) (f : Field) (n : Nat) (s : State) : (wrapInc p f n s).staleMid = s.staleMid := id rfl
@[simp] theorem wrapInc_tiles (p : Page) (f : Field) (n : Nat) (s : State) : (wrapInc p f n s).tiles = s.tiles := id rfl
@[simp] theorem wrapInc_sram (p : Page) (f : Field) (n : Nat) (s : State) : (wrapInc p f n s).sram = s.sram := id rfl
@[simp] theorem wrapInc_sramPoison (p : Page) (f : Field) (n : Nat) (s : State) : (wrapInc p f n s).sramPoison = s.sramPoison := id rfl
@[simp] theorem wrapInc_mesh (p : Page) (f : Field) (n : Nat) (s : State) : (wrapInc p f n s).mesh = s.mesh := id rfl
@[simp] theorem wrapInc_rowBus (p : Page) (f : Field) (n : Nat) (s : State) : (wrapInc p f n s).rowBus = s.rowBus := id rfl
@[simp] theorem wrapInc_scaleBus (p : Page) (f : Field) (n : Nat) (s : State) : (wrapInc p f n s).scaleBus = s.scaleBus := id rfl
@[simp] theorem wrapInc_range (p : Page) (f : Field) (n : Nat) (s : State) : (wrapInc p f n s).range = s.range := id rfl
@[simp] theorem wrapInc_zip (p : Page) (f : Field) (n : Nat) (s : State) : (wrapInc p f n s).zip = s.zip := id rfl
@[simp] theorem wrapInc_packed (p : Page) (f : Field) (n : Nat) (s : State) : (wrapInc p f n s).packed = s.packed := id rfl
@[simp] theorem wrapInc_bindings (p : Page) (f : Field) (n : Nat) (s : State) : (wrapInc p f n s).bindings = s.bindings := id rfl
@[simp] theorem wrapInc_reqs (p : Page) (f : Field) (n : Nat) (s : State) : (wrapInc p f n s).reqs = s.reqs := id rfl
@[simp] theorem wrapInc_chans (p : Page) (f : Field) (n : Nat) (s : State) : (wrapInc p f n s).chans = s.chans := id rfl
@[simp] theorem wrapInc_serials (p : Page) (f : Field) (n : Nat) (s : State) : (wrapInc p f n s).serials = s.serials := id rfl
@[simp] theorem wrapInc_handles (p : Page) (f : Field) (n : Nat) (s : State) : (wrapInc p f n s).handles = s.handles := id rfl
@[simp] theorem wrapInc_versions (p : Page) (f : Field) (n : Nat) (s : State) : (wrapInc p f n s).versions = s.versions := id rfl
@[simp] theorem wrapInc_rallies (p : Page) (f : Field) (n : Nat) (s : State) : (wrapInc p f n s).rallies = s.rallies := id rfl
@[simp] theorem wrapInc_selects (p : Page) (f : Field) (n : Nat) (s : State) : (wrapInc p f n s).selects = s.selects := id rfl
@[simp] theorem wrapInc_deferred (p : Page) (f : Field) (n : Nat) (s : State) : (wrapInc p f n s).deferred = s.deferred := id rfl
@[simp] theorem wrapInc_ws (p : Page) (f : Field) (n : Nat) (s : State) : (wrapInc p f n s).ws = s.ws := id rfl
@[simp] theorem wrapInc_mail (p : Page) (f : Field) (n : Nat) (s : State) : (wrapInc p f n s).mail = s.mail := id rfl
@[simp] theorem wrapInc_hostFns (p : Page) (f : Field) (n : Nat) (s : State) : (wrapInc p f n s).hostFns = s.hostFns := id rfl
@[simp] theorem wrapInc_badSlots (p : Page) (f : Field) (n : Nat) (s : State) : (wrapInc p f n s).badSlots = s.badSlots := id rfl
@[simp] theorem wrapInc_parity (p : Page) (f : Field) (n : Nat) (s : State) : (wrapInc p f n s).parity = s.parity := id rfl
@[simp] theorem wrapInc_powerN (p : Page) (f : Field) (n : Nat) (s : State) : (wrapInc p f n s).powerN = s.powerN := id rfl
@[simp] theorem wrapInc_powerS (p : Page) (f : Field) (n : Nat) (s : State) : (wrapInc p f n s).powerS = s.powerS := id rfl
@[simp] theorem wrapInc_votes (p : Page) (f : Field) (n : Nat) (s : State) : (wrapInc p f n s).votes = s.votes := id rfl
@[simp] theorem wrapInc_samples (p : Page) (f : Field) (n : Nat) (s : State) : (wrapInc p f n s).samples = s.samples := id rfl
@[simp] theorem wrapInc_lowSamples (p : Page) (f : Field) (n : Nat) (s : State) : (wrapInc p f n s).lowSamples = s.lowSamples := id rfl
@[simp] theorem wrapInc_ring (p : Page) (f : Field) (n : Nat) (s : State) : (wrapInc p f n s).ring = s.ring := id rfl
@[simp] theorem wrapInc_qps (p : Page) (f : Field) (n : Nat) (s : State) : (wrapInc p f n s).qps = s.qps := id rfl
@[simp] theorem wrapInc_heldOut (p : Page) (f : Field) (n : Nat) (s : State) : (wrapInc p f n s).heldOut = s.heldOut := id rfl
@[simp] theorem wrapInc_replicaN (p : Page) (f : Field) (n : Nat) (s : State) : (wrapInc p f n s).replicaN = s.replicaN := id rfl
@[simp] theorem wrapInc_replicaS (p : Page) (f : Field) (n : Nat) (s : State) : (wrapInc p f n s).replicaS = s.replicaS := id rfl
@[simp] theorem wrapInc_complexN (p : Page) (f : Field) (n : Nat) (s : State) : (wrapInc p f n s).complexN = s.complexN := id rfl
@[simp] theorem wrapInc_complexS (p : Page) (f : Field) (n : Nat) (s : State) : (wrapInc p f n s).complexS = s.complexS := id rfl
@[simp] theorem wrapInc_update (p : Page) (f : Field) (n : Nat) (s : State) : (wrapInc p f n s).update = s.update := id rfl
@[simp] theorem wrapInc_boot (p : Page) (f : Field) (n : Nat) (s : State) : (wrapInc p f n s).boot = s.boot := id rfl
@[simp] theorem wrapInc_restores (p : Page) (f : Field) (n : Nat) (s : State) : (wrapInc p f n s).restores = s.restores := id rfl
@[simp] theorem wrapInc_releasedAt (p : Page) (f : Field) (n : Nat) (s : State) : (wrapInc p f n s).releasedAt = s.releasedAt := id rfl
@[simp] theorem wrapInc_sensors (p : Page) (f : Field) (n : Nat) (s : State) : (wrapInc p f n s).sensors = s.sensors := id rfl
@[simp] theorem wrapInc_save (p : Page) (f : Field) (n : Nat) (s : State) : (wrapInc p f n s).save = s.save := id rfl
@[simp] theorem wrapInc_record (p : Page) (f : Field) (n : Nat) (s : State) : (wrapInc p f n s).record = s.record := id rfl
@[simp] theorem wrapInc_free (p : Page) (f : Field) (n : Nat) (s : State) : (wrapInc p f n s).free = s.free := id rfl
@[simp] theorem wrapInc_out (p : Page) (f : Field) (n : Nat) (s : State) : (wrapInc p f n s).out = s.out := id rfl
@[simp] theorem wrapInc_pending (p : Page) (f : Field) (n : Nat) (s : State) : (wrapInc p f n s).pending = s.pending := id rfl

/-! ### satInc -/
@[simp] theorem satInc_pins (p : Page) (f : Field) (n : Nat) (s : State) : (satInc p f n s).pins = s.pins := id rfl
@[simp] theorem satInc_fuses (p : Page) (f : Field) (n : Nat) (s : State) : (satInc p f n s).fuses = s.fuses := id rfl
@[simp] theorem satInc_phase (p : Page) (f : Field) (n : Nat) (s : State) : (satInc p f n s).phase = s.phase := id rfl
@[simp] theorem satInc_timer (p : Page) (f : Field) (n : Nat) (s : State) : (satInc p f n s).timer = s.timer := id rfl
@[simp] theorem satInc_timerFrac (p : Page) (f : Field) (n : Nat) (s : State) : (satInc p f n s).timerFrac = s.timerFrac := id rfl
@[simp] theorem satInc_latched (p : Page) (f : Field) (n : Nat) (s : State) : (satInc p f n s).latched = s.latched := id rfl
@[simp] theorem satInc_causes (p : Page) (f : Field) (n : Nat) (s : State) : (satInc p f n s).causes = s.causes := id rfl
@[simp] theorem satInc_staleMid (p : Page) (f : Field) (n : Nat) (s : State) : (satInc p f n s).staleMid = s.staleMid := id rfl
@[simp] theorem satInc_tiles (p : Page) (f : Field) (n : Nat) (s : State) : (satInc p f n s).tiles = s.tiles := id rfl
@[simp] theorem satInc_sram (p : Page) (f : Field) (n : Nat) (s : State) : (satInc p f n s).sram = s.sram := id rfl
@[simp] theorem satInc_sramPoison (p : Page) (f : Field) (n : Nat) (s : State) : (satInc p f n s).sramPoison = s.sramPoison := id rfl
@[simp] theorem satInc_mesh (p : Page) (f : Field) (n : Nat) (s : State) : (satInc p f n s).mesh = s.mesh := id rfl
@[simp] theorem satInc_rowBus (p : Page) (f : Field) (n : Nat) (s : State) : (satInc p f n s).rowBus = s.rowBus := id rfl
@[simp] theorem satInc_scaleBus (p : Page) (f : Field) (n : Nat) (s : State) : (satInc p f n s).scaleBus = s.scaleBus := id rfl
@[simp] theorem satInc_range (p : Page) (f : Field) (n : Nat) (s : State) : (satInc p f n s).range = s.range := id rfl
@[simp] theorem satInc_zip (p : Page) (f : Field) (n : Nat) (s : State) : (satInc p f n s).zip = s.zip := id rfl
@[simp] theorem satInc_packed (p : Page) (f : Field) (n : Nat) (s : State) : (satInc p f n s).packed = s.packed := id rfl
@[simp] theorem satInc_bindings (p : Page) (f : Field) (n : Nat) (s : State) : (satInc p f n s).bindings = s.bindings := id rfl
@[simp] theorem satInc_reqs (p : Page) (f : Field) (n : Nat) (s : State) : (satInc p f n s).reqs = s.reqs := id rfl
@[simp] theorem satInc_chans (p : Page) (f : Field) (n : Nat) (s : State) : (satInc p f n s).chans = s.chans := id rfl
@[simp] theorem satInc_serials (p : Page) (f : Field) (n : Nat) (s : State) : (satInc p f n s).serials = s.serials := id rfl
@[simp] theorem satInc_handles (p : Page) (f : Field) (n : Nat) (s : State) : (satInc p f n s).handles = s.handles := id rfl
@[simp] theorem satInc_versions (p : Page) (f : Field) (n : Nat) (s : State) : (satInc p f n s).versions = s.versions := id rfl
@[simp] theorem satInc_rallies (p : Page) (f : Field) (n : Nat) (s : State) : (satInc p f n s).rallies = s.rallies := id rfl
@[simp] theorem satInc_selects (p : Page) (f : Field) (n : Nat) (s : State) : (satInc p f n s).selects = s.selects := id rfl
@[simp] theorem satInc_deferred (p : Page) (f : Field) (n : Nat) (s : State) : (satInc p f n s).deferred = s.deferred := id rfl
@[simp] theorem satInc_ws (p : Page) (f : Field) (n : Nat) (s : State) : (satInc p f n s).ws = s.ws := id rfl
@[simp] theorem satInc_mail (p : Page) (f : Field) (n : Nat) (s : State) : (satInc p f n s).mail = s.mail := id rfl
@[simp] theorem satInc_hostFns (p : Page) (f : Field) (n : Nat) (s : State) : (satInc p f n s).hostFns = s.hostFns := id rfl
@[simp] theorem satInc_badSlots (p : Page) (f : Field) (n : Nat) (s : State) : (satInc p f n s).badSlots = s.badSlots := id rfl
@[simp] theorem satInc_parity (p : Page) (f : Field) (n : Nat) (s : State) : (satInc p f n s).parity = s.parity := id rfl
@[simp] theorem satInc_powerN (p : Page) (f : Field) (n : Nat) (s : State) : (satInc p f n s).powerN = s.powerN := id rfl
@[simp] theorem satInc_powerS (p : Page) (f : Field) (n : Nat) (s : State) : (satInc p f n s).powerS = s.powerS := id rfl
@[simp] theorem satInc_votes (p : Page) (f : Field) (n : Nat) (s : State) : (satInc p f n s).votes = s.votes := id rfl
@[simp] theorem satInc_samples (p : Page) (f : Field) (n : Nat) (s : State) : (satInc p f n s).samples = s.samples := id rfl
@[simp] theorem satInc_lowSamples (p : Page) (f : Field) (n : Nat) (s : State) : (satInc p f n s).lowSamples = s.lowSamples := id rfl
@[simp] theorem satInc_ring (p : Page) (f : Field) (n : Nat) (s : State) : (satInc p f n s).ring = s.ring := id rfl
@[simp] theorem satInc_qps (p : Page) (f : Field) (n : Nat) (s : State) : (satInc p f n s).qps = s.qps := id rfl
@[simp] theorem satInc_heldOut (p : Page) (f : Field) (n : Nat) (s : State) : (satInc p f n s).heldOut = s.heldOut := id rfl
@[simp] theorem satInc_replicaN (p : Page) (f : Field) (n : Nat) (s : State) : (satInc p f n s).replicaN = s.replicaN := id rfl
@[simp] theorem satInc_replicaS (p : Page) (f : Field) (n : Nat) (s : State) : (satInc p f n s).replicaS = s.replicaS := id rfl
@[simp] theorem satInc_complexN (p : Page) (f : Field) (n : Nat) (s : State) : (satInc p f n s).complexN = s.complexN := id rfl
@[simp] theorem satInc_complexS (p : Page) (f : Field) (n : Nat) (s : State) : (satInc p f n s).complexS = s.complexS := id rfl
@[simp] theorem satInc_update (p : Page) (f : Field) (n : Nat) (s : State) : (satInc p f n s).update = s.update := id rfl
@[simp] theorem satInc_boot (p : Page) (f : Field) (n : Nat) (s : State) : (satInc p f n s).boot = s.boot := id rfl
@[simp] theorem satInc_restores (p : Page) (f : Field) (n : Nat) (s : State) : (satInc p f n s).restores = s.restores := id rfl
@[simp] theorem satInc_releasedAt (p : Page) (f : Field) (n : Nat) (s : State) : (satInc p f n s).releasedAt = s.releasedAt := id rfl
@[simp] theorem satInc_sensors (p : Page) (f : Field) (n : Nat) (s : State) : (satInc p f n s).sensors = s.sensors := id rfl
@[simp] theorem satInc_save (p : Page) (f : Field) (n : Nat) (s : State) : (satInc p f n s).save = s.save := id rfl
@[simp] theorem satInc_record (p : Page) (f : Field) (n : Nat) (s : State) : (satInc p f n s).record = s.record := id rfl
@[simp] theorem satInc_free (p : Page) (f : Field) (n : Nat) (s : State) : (satInc p f n s).free = s.free := id rfl
@[simp] theorem satInc_out (p : Page) (f : Field) (n : Nat) (s : State) : (satInc p f n s).out = s.out := id rfl
@[simp] theorem satInc_pending (p : Page) (f : Field) (n : Nat) (s : State) : (satInc p f n s).pending = s.pending := id rfl

/-! ### wideInc -/
@[simp] theorem wideInc_pins (p : Page) (f g : Field) (n : Nat) (s : State) : (wideInc p f g n s).pins = s.pins := id rfl
@[simp] theorem wideInc_fuses (p : Page) (f g : Field) (n : Nat) (s : State) : (wideInc p f g n s).fuses = s.fuses := id rfl
@[simp] theorem wideInc_phase (p : Page) (f g : Field) (n : Nat) (s : State) : (wideInc p f g n s).phase = s.phase := id rfl
@[simp] theorem wideInc_timer (p : Page) (f g : Field) (n : Nat) (s : State) : (wideInc p f g n s).timer = s.timer := id rfl
@[simp] theorem wideInc_timerFrac (p : Page) (f g : Field) (n : Nat) (s : State) : (wideInc p f g n s).timerFrac = s.timerFrac := id rfl
@[simp] theorem wideInc_latched (p : Page) (f g : Field) (n : Nat) (s : State) : (wideInc p f g n s).latched = s.latched := id rfl
@[simp] theorem wideInc_causes (p : Page) (f g : Field) (n : Nat) (s : State) : (wideInc p f g n s).causes = s.causes := id rfl
@[simp] theorem wideInc_staleMid (p : Page) (f g : Field) (n : Nat) (s : State) : (wideInc p f g n s).staleMid = s.staleMid := id rfl
@[simp] theorem wideInc_tiles (p : Page) (f g : Field) (n : Nat) (s : State) : (wideInc p f g n s).tiles = s.tiles := id rfl
@[simp] theorem wideInc_sram (p : Page) (f g : Field) (n : Nat) (s : State) : (wideInc p f g n s).sram = s.sram := id rfl
@[simp] theorem wideInc_sramPoison (p : Page) (f g : Field) (n : Nat) (s : State) : (wideInc p f g n s).sramPoison = s.sramPoison := id rfl
@[simp] theorem wideInc_mesh (p : Page) (f g : Field) (n : Nat) (s : State) : (wideInc p f g n s).mesh = s.mesh := id rfl
@[simp] theorem wideInc_rowBus (p : Page) (f g : Field) (n : Nat) (s : State) : (wideInc p f g n s).rowBus = s.rowBus := id rfl
@[simp] theorem wideInc_scaleBus (p : Page) (f g : Field) (n : Nat) (s : State) : (wideInc p f g n s).scaleBus = s.scaleBus := id rfl
@[simp] theorem wideInc_range (p : Page) (f g : Field) (n : Nat) (s : State) : (wideInc p f g n s).range = s.range := id rfl
@[simp] theorem wideInc_zip (p : Page) (f g : Field) (n : Nat) (s : State) : (wideInc p f g n s).zip = s.zip := id rfl
@[simp] theorem wideInc_packed (p : Page) (f g : Field) (n : Nat) (s : State) : (wideInc p f g n s).packed = s.packed := id rfl
@[simp] theorem wideInc_bindings (p : Page) (f g : Field) (n : Nat) (s : State) : (wideInc p f g n s).bindings = s.bindings := id rfl
@[simp] theorem wideInc_reqs (p : Page) (f g : Field) (n : Nat) (s : State) : (wideInc p f g n s).reqs = s.reqs := id rfl
@[simp] theorem wideInc_chans (p : Page) (f g : Field) (n : Nat) (s : State) : (wideInc p f g n s).chans = s.chans := id rfl
@[simp] theorem wideInc_serials (p : Page) (f g : Field) (n : Nat) (s : State) : (wideInc p f g n s).serials = s.serials := id rfl
@[simp] theorem wideInc_handles (p : Page) (f g : Field) (n : Nat) (s : State) : (wideInc p f g n s).handles = s.handles := id rfl
@[simp] theorem wideInc_versions (p : Page) (f g : Field) (n : Nat) (s : State) : (wideInc p f g n s).versions = s.versions := id rfl
@[simp] theorem wideInc_rallies (p : Page) (f g : Field) (n : Nat) (s : State) : (wideInc p f g n s).rallies = s.rallies := id rfl
@[simp] theorem wideInc_selects (p : Page) (f g : Field) (n : Nat) (s : State) : (wideInc p f g n s).selects = s.selects := id rfl
@[simp] theorem wideInc_deferred (p : Page) (f g : Field) (n : Nat) (s : State) : (wideInc p f g n s).deferred = s.deferred := id rfl
@[simp] theorem wideInc_ws (p : Page) (f g : Field) (n : Nat) (s : State) : (wideInc p f g n s).ws = s.ws := id rfl
@[simp] theorem wideInc_mail (p : Page) (f g : Field) (n : Nat) (s : State) : (wideInc p f g n s).mail = s.mail := id rfl
@[simp] theorem wideInc_hostFns (p : Page) (f g : Field) (n : Nat) (s : State) : (wideInc p f g n s).hostFns = s.hostFns := id rfl
@[simp] theorem wideInc_badSlots (p : Page) (f g : Field) (n : Nat) (s : State) : (wideInc p f g n s).badSlots = s.badSlots := id rfl
@[simp] theorem wideInc_parity (p : Page) (f g : Field) (n : Nat) (s : State) : (wideInc p f g n s).parity = s.parity := id rfl
@[simp] theorem wideInc_powerN (p : Page) (f g : Field) (n : Nat) (s : State) : (wideInc p f g n s).powerN = s.powerN := id rfl
@[simp] theorem wideInc_powerS (p : Page) (f g : Field) (n : Nat) (s : State) : (wideInc p f g n s).powerS = s.powerS := id rfl
@[simp] theorem wideInc_votes (p : Page) (f g : Field) (n : Nat) (s : State) : (wideInc p f g n s).votes = s.votes := id rfl
@[simp] theorem wideInc_samples (p : Page) (f g : Field) (n : Nat) (s : State) : (wideInc p f g n s).samples = s.samples := id rfl
@[simp] theorem wideInc_lowSamples (p : Page) (f g : Field) (n : Nat) (s : State) : (wideInc p f g n s).lowSamples = s.lowSamples := id rfl
@[simp] theorem wideInc_ring (p : Page) (f g : Field) (n : Nat) (s : State) : (wideInc p f g n s).ring = s.ring := id rfl
@[simp] theorem wideInc_qps (p : Page) (f g : Field) (n : Nat) (s : State) : (wideInc p f g n s).qps = s.qps := id rfl
@[simp] theorem wideInc_heldOut (p : Page) (f g : Field) (n : Nat) (s : State) : (wideInc p f g n s).heldOut = s.heldOut := id rfl
@[simp] theorem wideInc_replicaN (p : Page) (f g : Field) (n : Nat) (s : State) : (wideInc p f g n s).replicaN = s.replicaN := id rfl
@[simp] theorem wideInc_replicaS (p : Page) (f g : Field) (n : Nat) (s : State) : (wideInc p f g n s).replicaS = s.replicaS := id rfl
@[simp] theorem wideInc_complexN (p : Page) (f g : Field) (n : Nat) (s : State) : (wideInc p f g n s).complexN = s.complexN := id rfl
@[simp] theorem wideInc_complexS (p : Page) (f g : Field) (n : Nat) (s : State) : (wideInc p f g n s).complexS = s.complexS := id rfl
@[simp] theorem wideInc_update (p : Page) (f g : Field) (n : Nat) (s : State) : (wideInc p f g n s).update = s.update := id rfl
@[simp] theorem wideInc_boot (p : Page) (f g : Field) (n : Nat) (s : State) : (wideInc p f g n s).boot = s.boot := id rfl
@[simp] theorem wideInc_restores (p : Page) (f g : Field) (n : Nat) (s : State) : (wideInc p f g n s).restores = s.restores := id rfl
@[simp] theorem wideInc_releasedAt (p : Page) (f g : Field) (n : Nat) (s : State) : (wideInc p f g n s).releasedAt = s.releasedAt := id rfl
@[simp] theorem wideInc_sensors (p : Page) (f g : Field) (n : Nat) (s : State) : (wideInc p f g n s).sensors = s.sensors := id rfl
@[simp] theorem wideInc_save (p : Page) (f g : Field) (n : Nat) (s : State) : (wideInc p f g n s).save = s.save := id rfl
@[simp] theorem wideInc_record (p : Page) (f g : Field) (n : Nat) (s : State) : (wideInc p f g n s).record = s.record := id rfl
@[simp] theorem wideInc_free (p : Page) (f g : Field) (n : Nat) (s : State) : (wideInc p f g n s).free = s.free := id rfl
@[simp] theorem wideInc_out (p : Page) (f g : Field) (n : Nat) (s : State) : (wideInc p f g n s).out = s.out := id rfl
@[simp] theorem wideInc_pending (p : Page) (f g : Field) (n : Nat) (s : State) : (wideInc p f g n s).pending = s.pending := id rfl

/-! ### wideSet -/
@[simp] theorem wideSet_pins (p : Page) (f g : Field) (n : Nat) (s : State) : (wideSet p f g n s).pins = s.pins := id rfl
@[simp] theorem wideSet_fuses (p : Page) (f g : Field) (n : Nat) (s : State) : (wideSet p f g n s).fuses = s.fuses := id rfl
@[simp] theorem wideSet_phase (p : Page) (f g : Field) (n : Nat) (s : State) : (wideSet p f g n s).phase = s.phase := id rfl
@[simp] theorem wideSet_timer (p : Page) (f g : Field) (n : Nat) (s : State) : (wideSet p f g n s).timer = s.timer := id rfl
@[simp] theorem wideSet_timerFrac (p : Page) (f g : Field) (n : Nat) (s : State) : (wideSet p f g n s).timerFrac = s.timerFrac := id rfl
@[simp] theorem wideSet_latched (p : Page) (f g : Field) (n : Nat) (s : State) : (wideSet p f g n s).latched = s.latched := id rfl
@[simp] theorem wideSet_causes (p : Page) (f g : Field) (n : Nat) (s : State) : (wideSet p f g n s).causes = s.causes := id rfl
@[simp] theorem wideSet_staleMid (p : Page) (f g : Field) (n : Nat) (s : State) : (wideSet p f g n s).staleMid = s.staleMid := id rfl
@[simp] theorem wideSet_tiles (p : Page) (f g : Field) (n : Nat) (s : State) : (wideSet p f g n s).tiles = s.tiles := id rfl
@[simp] theorem wideSet_sram (p : Page) (f g : Field) (n : Nat) (s : State) : (wideSet p f g n s).sram = s.sram := id rfl
@[simp] theorem wideSet_sramPoison (p : Page) (f g : Field) (n : Nat) (s : State) : (wideSet p f g n s).sramPoison = s.sramPoison := id rfl
@[simp] theorem wideSet_mesh (p : Page) (f g : Field) (n : Nat) (s : State) : (wideSet p f g n s).mesh = s.mesh := id rfl
@[simp] theorem wideSet_rowBus (p : Page) (f g : Field) (n : Nat) (s : State) : (wideSet p f g n s).rowBus = s.rowBus := id rfl
@[simp] theorem wideSet_scaleBus (p : Page) (f g : Field) (n : Nat) (s : State) : (wideSet p f g n s).scaleBus = s.scaleBus := id rfl
@[simp] theorem wideSet_range (p : Page) (f g : Field) (n : Nat) (s : State) : (wideSet p f g n s).range = s.range := id rfl
@[simp] theorem wideSet_zip (p : Page) (f g : Field) (n : Nat) (s : State) : (wideSet p f g n s).zip = s.zip := id rfl
@[simp] theorem wideSet_packed (p : Page) (f g : Field) (n : Nat) (s : State) : (wideSet p f g n s).packed = s.packed := id rfl
@[simp] theorem wideSet_bindings (p : Page) (f g : Field) (n : Nat) (s : State) : (wideSet p f g n s).bindings = s.bindings := id rfl
@[simp] theorem wideSet_reqs (p : Page) (f g : Field) (n : Nat) (s : State) : (wideSet p f g n s).reqs = s.reqs := id rfl
@[simp] theorem wideSet_chans (p : Page) (f g : Field) (n : Nat) (s : State) : (wideSet p f g n s).chans = s.chans := id rfl
@[simp] theorem wideSet_serials (p : Page) (f g : Field) (n : Nat) (s : State) : (wideSet p f g n s).serials = s.serials := id rfl
@[simp] theorem wideSet_handles (p : Page) (f g : Field) (n : Nat) (s : State) : (wideSet p f g n s).handles = s.handles := id rfl
@[simp] theorem wideSet_versions (p : Page) (f g : Field) (n : Nat) (s : State) : (wideSet p f g n s).versions = s.versions := id rfl
@[simp] theorem wideSet_rallies (p : Page) (f g : Field) (n : Nat) (s : State) : (wideSet p f g n s).rallies = s.rallies := id rfl
@[simp] theorem wideSet_selects (p : Page) (f g : Field) (n : Nat) (s : State) : (wideSet p f g n s).selects = s.selects := id rfl
@[simp] theorem wideSet_deferred (p : Page) (f g : Field) (n : Nat) (s : State) : (wideSet p f g n s).deferred = s.deferred := id rfl
@[simp] theorem wideSet_ws (p : Page) (f g : Field) (n : Nat) (s : State) : (wideSet p f g n s).ws = s.ws := id rfl
@[simp] theorem wideSet_mail (p : Page) (f g : Field) (n : Nat) (s : State) : (wideSet p f g n s).mail = s.mail := id rfl
@[simp] theorem wideSet_hostFns (p : Page) (f g : Field) (n : Nat) (s : State) : (wideSet p f g n s).hostFns = s.hostFns := id rfl
@[simp] theorem wideSet_badSlots (p : Page) (f g : Field) (n : Nat) (s : State) : (wideSet p f g n s).badSlots = s.badSlots := id rfl
@[simp] theorem wideSet_parity (p : Page) (f g : Field) (n : Nat) (s : State) : (wideSet p f g n s).parity = s.parity := id rfl
@[simp] theorem wideSet_powerN (p : Page) (f g : Field) (n : Nat) (s : State) : (wideSet p f g n s).powerN = s.powerN := id rfl
@[simp] theorem wideSet_powerS (p : Page) (f g : Field) (n : Nat) (s : State) : (wideSet p f g n s).powerS = s.powerS := id rfl
@[simp] theorem wideSet_votes (p : Page) (f g : Field) (n : Nat) (s : State) : (wideSet p f g n s).votes = s.votes := id rfl
@[simp] theorem wideSet_samples (p : Page) (f g : Field) (n : Nat) (s : State) : (wideSet p f g n s).samples = s.samples := id rfl
@[simp] theorem wideSet_lowSamples (p : Page) (f g : Field) (n : Nat) (s : State) : (wideSet p f g n s).lowSamples = s.lowSamples := id rfl
@[simp] theorem wideSet_ring (p : Page) (f g : Field) (n : Nat) (s : State) : (wideSet p f g n s).ring = s.ring := id rfl
@[simp] theorem wideSet_qps (p : Page) (f g : Field) (n : Nat) (s : State) : (wideSet p f g n s).qps = s.qps := id rfl
@[simp] theorem wideSet_heldOut (p : Page) (f g : Field) (n : Nat) (s : State) : (wideSet p f g n s).heldOut = s.heldOut := id rfl
@[simp] theorem wideSet_replicaN (p : Page) (f g : Field) (n : Nat) (s : State) : (wideSet p f g n s).replicaN = s.replicaN := id rfl
@[simp] theorem wideSet_replicaS (p : Page) (f g : Field) (n : Nat) (s : State) : (wideSet p f g n s).replicaS = s.replicaS := id rfl
@[simp] theorem wideSet_complexN (p : Page) (f g : Field) (n : Nat) (s : State) : (wideSet p f g n s).complexN = s.complexN := id rfl
@[simp] theorem wideSet_complexS (p : Page) (f g : Field) (n : Nat) (s : State) : (wideSet p f g n s).complexS = s.complexS := id rfl
@[simp] theorem wideSet_update (p : Page) (f g : Field) (n : Nat) (s : State) : (wideSet p f g n s).update = s.update := id rfl
@[simp] theorem wideSet_boot (p : Page) (f g : Field) (n : Nat) (s : State) : (wideSet p f g n s).boot = s.boot := id rfl
@[simp] theorem wideSet_restores (p : Page) (f g : Field) (n : Nat) (s : State) : (wideSet p f g n s).restores = s.restores := id rfl
@[simp] theorem wideSet_releasedAt (p : Page) (f g : Field) (n : Nat) (s : State) : (wideSet p f g n s).releasedAt = s.releasedAt := id rfl
@[simp] theorem wideSet_sensors (p : Page) (f g : Field) (n : Nat) (s : State) : (wideSet p f g n s).sensors = s.sensors := id rfl
@[simp] theorem wideSet_save (p : Page) (f g : Field) (n : Nat) (s : State) : (wideSet p f g n s).save = s.save := id rfl
@[simp] theorem wideSet_record (p : Page) (f g : Field) (n : Nat) (s : State) : (wideSet p f g n s).record = s.record := id rfl
@[simp] theorem wideSet_free (p : Page) (f g : Field) (n : Nat) (s : State) : (wideSet p f g n s).free = s.free := id rfl
@[simp] theorem wideSet_out (p : Page) (f g : Field) (n : Nat) (s : State) : (wideSet p f g n s).out = s.out := id rfl
@[simp] theorem wideSet_pending (p : Page) (f g : Field) (n : Nat) (s : State) : (wideSet p f g n s).pending = s.pending := id rfl

/-! ### push -/
@[simp] theorem push_pins (o : Out) (s : State) : (push o s).pins = s.pins := id rfl
@[simp] theorem push_fuses (o : Out) (s : State) : (push o s).fuses = s.fuses := id rfl
@[simp] theorem push_phase (o : Out) (s : State) : (push o s).phase = s.phase := id rfl
@[simp] theorem push_timer (o : Out) (s : State) : (push o s).timer = s.timer := id rfl
@[simp] theorem push_timerFrac (o : Out) (s : State) : (push o s).timerFrac = s.timerFrac := id rfl
@[simp] theorem push_regs (o : Out) (s : State) : (push o s).regs = s.regs := id rfl
@[simp] theorem push_latched (o : Out) (s : State) : (push o s).latched = s.latched := id rfl
@[simp] theorem push_causes (o : Out) (s : State) : (push o s).causes = s.causes := id rfl
@[simp] theorem push_staleMid (o : Out) (s : State) : (push o s).staleMid = s.staleMid := id rfl
@[simp] theorem push_tiles (o : Out) (s : State) : (push o s).tiles = s.tiles := id rfl
@[simp] theorem push_sram (o : Out) (s : State) : (push o s).sram = s.sram := id rfl
@[simp] theorem push_sramPoison (o : Out) (s : State) : (push o s).sramPoison = s.sramPoison := id rfl
@[simp] theorem push_mesh (o : Out) (s : State) : (push o s).mesh = s.mesh := id rfl
@[simp] theorem push_rowBus (o : Out) (s : State) : (push o s).rowBus = s.rowBus := id rfl
@[simp] theorem push_scaleBus (o : Out) (s : State) : (push o s).scaleBus = s.scaleBus := id rfl
@[simp] theorem push_range (o : Out) (s : State) : (push o s).range = s.range := id rfl
@[simp] theorem push_zip (o : Out) (s : State) : (push o s).zip = s.zip := id rfl
@[simp] theorem push_packed (o : Out) (s : State) : (push o s).packed = s.packed := id rfl
@[simp] theorem push_bindings (o : Out) (s : State) : (push o s).bindings = s.bindings := id rfl
@[simp] theorem push_reqs (o : Out) (s : State) : (push o s).reqs = s.reqs := id rfl
@[simp] theorem push_chans (o : Out) (s : State) : (push o s).chans = s.chans := id rfl
@[simp] theorem push_serials (o : Out) (s : State) : (push o s).serials = s.serials := id rfl
@[simp] theorem push_handles (o : Out) (s : State) : (push o s).handles = s.handles := id rfl
@[simp] theorem push_versions (o : Out) (s : State) : (push o s).versions = s.versions := id rfl
@[simp] theorem push_rallies (o : Out) (s : State) : (push o s).rallies = s.rallies := id rfl
@[simp] theorem push_selects (o : Out) (s : State) : (push o s).selects = s.selects := id rfl
@[simp] theorem push_deferred (o : Out) (s : State) : (push o s).deferred = s.deferred := id rfl
@[simp] theorem push_ws (o : Out) (s : State) : (push o s).ws = s.ws := id rfl
@[simp] theorem push_mail (o : Out) (s : State) : (push o s).mail = s.mail := id rfl
@[simp] theorem push_hostFns (o : Out) (s : State) : (push o s).hostFns = s.hostFns := id rfl
@[simp] theorem push_badSlots (o : Out) (s : State) : (push o s).badSlots = s.badSlots := id rfl
@[simp] theorem push_parity (o : Out) (s : State) : (push o s).parity = s.parity := id rfl
@[simp] theorem push_powerN (o : Out) (s : State) : (push o s).powerN = s.powerN := id rfl
@[simp] theorem push_powerS (o : Out) (s : State) : (push o s).powerS = s.powerS := id rfl
@[simp] theorem push_votes (o : Out) (s : State) : (push o s).votes = s.votes := id rfl
@[simp] theorem push_samples (o : Out) (s : State) : (push o s).samples = s.samples := id rfl
@[simp] theorem push_lowSamples (o : Out) (s : State) : (push o s).lowSamples = s.lowSamples := id rfl
@[simp] theorem push_ring (o : Out) (s : State) : (push o s).ring = s.ring := id rfl
@[simp] theorem push_qps (o : Out) (s : State) : (push o s).qps = s.qps := id rfl
@[simp] theorem push_heldOut (o : Out) (s : State) : (push o s).heldOut = s.heldOut := id rfl
@[simp] theorem push_replicaN (o : Out) (s : State) : (push o s).replicaN = s.replicaN := id rfl
@[simp] theorem push_replicaS (o : Out) (s : State) : (push o s).replicaS = s.replicaS := id rfl
@[simp] theorem push_complexN (o : Out) (s : State) : (push o s).complexN = s.complexN := id rfl
@[simp] theorem push_complexS (o : Out) (s : State) : (push o s).complexS = s.complexS := id rfl
@[simp] theorem push_update (o : Out) (s : State) : (push o s).update = s.update := id rfl
@[simp] theorem push_boot (o : Out) (s : State) : (push o s).boot = s.boot := id rfl
@[simp] theorem push_restores (o : Out) (s : State) : (push o s).restores = s.restores := id rfl
@[simp] theorem push_releasedAt (o : Out) (s : State) : (push o s).releasedAt = s.releasedAt := id rfl
@[simp] theorem push_sensors (o : Out) (s : State) : (push o s).sensors = s.sensors := id rfl
@[simp] theorem push_save (o : Out) (s : State) : (push o s).save = s.save := id rfl
@[simp] theorem push_record (o : Out) (s : State) : (push o s).record = s.record := id rfl
@[simp] theorem push_free (o : Out) (s : State) : (push o s).free = s.free := id rfl
@[simp] theorem push_pending (o : Out) (s : State) : (push o s).pending = s.pending := id rfl

/-! ### send -/
@[simp] theorem send_pins (m : Msg) (s : State) : (send m s).pins = s.pins := id rfl
@[simp] theorem send_fuses (m : Msg) (s : State) : (send m s).fuses = s.fuses := id rfl
@[simp] theorem send_phase (m : Msg) (s : State) : (send m s).phase = s.phase := id rfl
@[simp] theorem send_timer (m : Msg) (s : State) : (send m s).timer = s.timer := id rfl
@[simp] theorem send_timerFrac (m : Msg) (s : State) : (send m s).timerFrac = s.timerFrac := id rfl
@[simp] theorem send_regs (m : Msg) (s : State) : (send m s).regs = s.regs := id rfl
@[simp] theorem send_latched (m : Msg) (s : State) : (send m s).latched = s.latched := id rfl
@[simp] theorem send_causes (m : Msg) (s : State) : (send m s).causes = s.causes := id rfl
@[simp] theorem send_staleMid (m : Msg) (s : State) : (send m s).staleMid = s.staleMid := id rfl
@[simp] theorem send_tiles (m : Msg) (s : State) : (send m s).tiles = s.tiles := id rfl
@[simp] theorem send_sram (m : Msg) (s : State) : (send m s).sram = s.sram := id rfl
@[simp] theorem send_sramPoison (m : Msg) (s : State) : (send m s).sramPoison = s.sramPoison := id rfl
@[simp] theorem send_rowBus (m : Msg) (s : State) : (send m s).rowBus = s.rowBus := id rfl
@[simp] theorem send_scaleBus (m : Msg) (s : State) : (send m s).scaleBus = s.scaleBus := id rfl
@[simp] theorem send_range (m : Msg) (s : State) : (send m s).range = s.range := id rfl
@[simp] theorem send_zip (m : Msg) (s : State) : (send m s).zip = s.zip := id rfl
@[simp] theorem send_packed (m : Msg) (s : State) : (send m s).packed = s.packed := id rfl
@[simp] theorem send_bindings (m : Msg) (s : State) : (send m s).bindings = s.bindings := id rfl
@[simp] theorem send_reqs (m : Msg) (s : State) : (send m s).reqs = s.reqs := id rfl
@[simp] theorem send_chans (m : Msg) (s : State) : (send m s).chans = s.chans := id rfl
@[simp] theorem send_serials (m : Msg) (s : State) : (send m s).serials = s.serials := id rfl
@[simp] theorem send_handles (m : Msg) (s : State) : (send m s).handles = s.handles := id rfl
@[simp] theorem send_versions (m : Msg) (s : State) : (send m s).versions = s.versions := id rfl
@[simp] theorem send_rallies (m : Msg) (s : State) : (send m s).rallies = s.rallies := id rfl
@[simp] theorem send_selects (m : Msg) (s : State) : (send m s).selects = s.selects := id rfl
@[simp] theorem send_deferred (m : Msg) (s : State) : (send m s).deferred = s.deferred := id rfl
@[simp] theorem send_ws (m : Msg) (s : State) : (send m s).ws = s.ws := id rfl
@[simp] theorem send_mail (m : Msg) (s : State) : (send m s).mail = s.mail := id rfl
@[simp] theorem send_hostFns (m : Msg) (s : State) : (send m s).hostFns = s.hostFns := id rfl
@[simp] theorem send_badSlots (m : Msg) (s : State) : (send m s).badSlots = s.badSlots := id rfl
@[simp] theorem send_parity (m : Msg) (s : State) : (send m s).parity = s.parity := id rfl
@[simp] theorem send_powerN (m : Msg) (s : State) : (send m s).powerN = s.powerN := id rfl
@[simp] theorem send_powerS (m : Msg) (s : State) : (send m s).powerS = s.powerS := id rfl
@[simp] theorem send_votes (m : Msg) (s : State) : (send m s).votes = s.votes := id rfl
@[simp] theorem send_samples (m : Msg) (s : State) : (send m s).samples = s.samples := id rfl
@[simp] theorem send_lowSamples (m : Msg) (s : State) : (send m s).lowSamples = s.lowSamples := id rfl
@[simp] theorem send_ring (m : Msg) (s : State) : (send m s).ring = s.ring := id rfl
@[simp] theorem send_qps (m : Msg) (s : State) : (send m s).qps = s.qps := id rfl
@[simp] theorem send_heldOut (m : Msg) (s : State) : (send m s).heldOut = s.heldOut := id rfl
@[simp] theorem send_replicaN (m : Msg) (s : State) : (send m s).replicaN = s.replicaN := id rfl
@[simp] theorem send_replicaS (m : Msg) (s : State) : (send m s).replicaS = s.replicaS := id rfl
@[simp] theorem send_complexN (m : Msg) (s : State) : (send m s).complexN = s.complexN := id rfl
@[simp] theorem send_complexS (m : Msg) (s : State) : (send m s).complexS = s.complexS := id rfl
@[simp] theorem send_update (m : Msg) (s : State) : (send m s).update = s.update := id rfl
@[simp] theorem send_boot (m : Msg) (s : State) : (send m s).boot = s.boot := id rfl
@[simp] theorem send_restores (m : Msg) (s : State) : (send m s).restores = s.restores := id rfl
@[simp] theorem send_releasedAt (m : Msg) (s : State) : (send m s).releasedAt = s.releasedAt := id rfl
@[simp] theorem send_sensors (m : Msg) (s : State) : (send m s).sensors = s.sensors := id rfl
@[simp] theorem send_save (m : Msg) (s : State) : (send m s).save = s.save := id rfl
@[simp] theorem send_record (m : Msg) (s : State) : (send m s).record = s.record := id rfl
@[simp] theorem send_free (m : Msg) (s : State) : (send m s).free = s.free := id rfl
@[simp] theorem send_out (m : Msg) (s : State) : (send m s).out = s.out := id rfl
@[simp] theorem send_pending (m : Msg) (s : State) : (send m s).pending = s.pending := id rfl

/-! ### arrive -/
@[simp] theorem arrive_pins (m : Msg) (s : State) : (arrive m s).pins = s.pins := id rfl
@[simp] theorem arrive_fuses (m : Msg) (s : State) : (arrive m s).fuses = s.fuses := id rfl
@[simp] theorem arrive_phase (m : Msg) (s : State) : (arrive m s).phase = s.phase := id rfl
@[simp] theorem arrive_timer (m : Msg) (s : State) : (arrive m s).timer = s.timer := id rfl
@[simp] theorem arrive_timerFrac (m : Msg) (s : State) : (arrive m s).timerFrac = s.timerFrac := id rfl
@[simp] theorem arrive_regs (m : Msg) (s : State) : (arrive m s).regs = s.regs := id rfl
@[simp] theorem arrive_latched (m : Msg) (s : State) : (arrive m s).latched = s.latched := id rfl
@[simp] theorem arrive_causes (m : Msg) (s : State) : (arrive m s).causes = s.causes := id rfl
@[simp] theorem arrive_staleMid (m : Msg) (s : State) : (arrive m s).staleMid = s.staleMid := id rfl
@[simp] theorem arrive_tiles (m : Msg) (s : State) : (arrive m s).tiles = s.tiles := id rfl
@[simp] theorem arrive_sram (m : Msg) (s : State) : (arrive m s).sram = s.sram := id rfl
@[simp] theorem arrive_sramPoison (m : Msg) (s : State) : (arrive m s).sramPoison = s.sramPoison := id rfl
@[simp] theorem arrive_rowBus (m : Msg) (s : State) : (arrive m s).rowBus = s.rowBus := id rfl
@[simp] theorem arrive_scaleBus (m : Msg) (s : State) : (arrive m s).scaleBus = s.scaleBus := id rfl
@[simp] theorem arrive_range (m : Msg) (s : State) : (arrive m s).range = s.range := id rfl
@[simp] theorem arrive_zip (m : Msg) (s : State) : (arrive m s).zip = s.zip := id rfl
@[simp] theorem arrive_packed (m : Msg) (s : State) : (arrive m s).packed = s.packed := id rfl
@[simp] theorem arrive_bindings (m : Msg) (s : State) : (arrive m s).bindings = s.bindings := id rfl
@[simp] theorem arrive_reqs (m : Msg) (s : State) : (arrive m s).reqs = s.reqs := id rfl
@[simp] theorem arrive_chans (m : Msg) (s : State) : (arrive m s).chans = s.chans := id rfl
@[simp] theorem arrive_serials (m : Msg) (s : State) : (arrive m s).serials = s.serials := id rfl
@[simp] theorem arrive_handles (m : Msg) (s : State) : (arrive m s).handles = s.handles := id rfl
@[simp] theorem arrive_versions (m : Msg) (s : State) : (arrive m s).versions = s.versions := id rfl
@[simp] theorem arrive_rallies (m : Msg) (s : State) : (arrive m s).rallies = s.rallies := id rfl
@[simp] theorem arrive_selects (m : Msg) (s : State) : (arrive m s).selects = s.selects := id rfl
@[simp] theorem arrive_deferred (m : Msg) (s : State) : (arrive m s).deferred = s.deferred := id rfl
@[simp] theorem arrive_ws (m : Msg) (s : State) : (arrive m s).ws = s.ws := id rfl
@[simp] theorem arrive_mail (m : Msg) (s : State) : (arrive m s).mail = s.mail := id rfl
@[simp] theorem arrive_hostFns (m : Msg) (s : State) : (arrive m s).hostFns = s.hostFns := id rfl
@[simp] theorem arrive_badSlots (m : Msg) (s : State) : (arrive m s).badSlots = s.badSlots := id rfl
@[simp] theorem arrive_parity (m : Msg) (s : State) : (arrive m s).parity = s.parity := id rfl
@[simp] theorem arrive_powerN (m : Msg) (s : State) : (arrive m s).powerN = s.powerN := id rfl
@[simp] theorem arrive_powerS (m : Msg) (s : State) : (arrive m s).powerS = s.powerS := id rfl
@[simp] theorem arrive_votes (m : Msg) (s : State) : (arrive m s).votes = s.votes := id rfl
@[simp] theorem arrive_samples (m : Msg) (s : State) : (arrive m s).samples = s.samples := id rfl
@[simp] theorem arrive_lowSamples (m : Msg) (s : State) : (arrive m s).lowSamples = s.lowSamples := id rfl
@[simp] theorem arrive_ring (m : Msg) (s : State) : (arrive m s).ring = s.ring := id rfl
@[simp] theorem arrive_qps (m : Msg) (s : State) : (arrive m s).qps = s.qps := id rfl
@[simp] theorem arrive_heldOut (m : Msg) (s : State) : (arrive m s).heldOut = s.heldOut := id rfl
@[simp] theorem arrive_replicaN (m : Msg) (s : State) : (arrive m s).replicaN = s.replicaN := id rfl
@[simp] theorem arrive_replicaS (m : Msg) (s : State) : (arrive m s).replicaS = s.replicaS := id rfl
@[simp] theorem arrive_complexN (m : Msg) (s : State) : (arrive m s).complexN = s.complexN := id rfl
@[simp] theorem arrive_complexS (m : Msg) (s : State) : (arrive m s).complexS = s.complexS := id rfl
@[simp] theorem arrive_update (m : Msg) (s : State) : (arrive m s).update = s.update := id rfl
@[simp] theorem arrive_boot (m : Msg) (s : State) : (arrive m s).boot = s.boot := id rfl
@[simp] theorem arrive_restores (m : Msg) (s : State) : (arrive m s).restores = s.restores := id rfl
@[simp] theorem arrive_releasedAt (m : Msg) (s : State) : (arrive m s).releasedAt = s.releasedAt := id rfl
@[simp] theorem arrive_sensors (m : Msg) (s : State) : (arrive m s).sensors = s.sensors := id rfl
@[simp] theorem arrive_save (m : Msg) (s : State) : (arrive m s).save = s.save := id rfl
@[simp] theorem arrive_record (m : Msg) (s : State) : (arrive m s).record = s.record := id rfl
@[simp] theorem arrive_free (m : Msg) (s : State) : (arrive m s).free = s.free := id rfl
@[simp] theorem arrive_out (m : Msg) (s : State) : (arrive m s).out = s.out := id rfl
@[simp] theorem arrive_pending (m : Msg) (s : State) : (arrive m s).pending = s.pending := id rfl

/-! ### draw -/
@[simp] theorem draw_pins (s : State) : (draw s).pins = s.pins := id rfl
@[simp] theorem draw_fuses (s : State) : (draw s).fuses = s.fuses := id rfl
@[simp] theorem draw_phase (s : State) : (draw s).phase = s.phase := id rfl
@[simp] theorem draw_timer (s : State) : (draw s).timer = s.timer := id rfl
@[simp] theorem draw_timerFrac (s : State) : (draw s).timerFrac = s.timerFrac := id rfl
@[simp] theorem draw_regs (s : State) : (draw s).regs = s.regs := id rfl
@[simp] theorem draw_latched (s : State) : (draw s).latched = s.latched := id rfl
@[simp] theorem draw_causes (s : State) : (draw s).causes = s.causes := id rfl
@[simp] theorem draw_staleMid (s : State) : (draw s).staleMid = s.staleMid := id rfl
@[simp] theorem draw_tiles (s : State) : (draw s).tiles = s.tiles := id rfl
@[simp] theorem draw_sram (s : State) : (draw s).sram = s.sram := id rfl
@[simp] theorem draw_sramPoison (s : State) : (draw s).sramPoison = s.sramPoison := id rfl
@[simp] theorem draw_mesh (s : State) : (draw s).mesh = s.mesh := id rfl
@[simp] theorem draw_rowBus (s : State) : (draw s).rowBus = s.rowBus := id rfl
@[simp] theorem draw_scaleBus (s : State) : (draw s).scaleBus = s.scaleBus := id rfl
@[simp] theorem draw_range (s : State) : (draw s).range = s.range := id rfl
@[simp] theorem draw_zip (s : State) : (draw s).zip = s.zip := id rfl
@[simp] theorem draw_packed (s : State) : (draw s).packed = s.packed := id rfl
@[simp] theorem draw_bindings (s : State) : (draw s).bindings = s.bindings := id rfl
@[simp] theorem draw_reqs (s : State) : (draw s).reqs = s.reqs := id rfl
@[simp] theorem draw_chans (s : State) : (draw s).chans = s.chans := id rfl
@[simp] theorem draw_serials (s : State) : (draw s).serials = s.serials := id rfl
@[simp] theorem draw_handles (s : State) : (draw s).handles = s.handles := id rfl
@[simp] theorem draw_versions (s : State) : (draw s).versions = s.versions := id rfl
@[simp] theorem draw_rallies (s : State) : (draw s).rallies = s.rallies := id rfl
@[simp] theorem draw_selects (s : State) : (draw s).selects = s.selects := id rfl
@[simp] theorem draw_deferred (s : State) : (draw s).deferred = s.deferred := id rfl
@[simp] theorem draw_ws (s : State) : (draw s).ws = s.ws := id rfl
@[simp] theorem draw_mail (s : State) : (draw s).mail = s.mail := id rfl
@[simp] theorem draw_hostFns (s : State) : (draw s).hostFns = s.hostFns := id rfl
@[simp] theorem draw_badSlots (s : State) : (draw s).badSlots = s.badSlots := id rfl
@[simp] theorem draw_parity (s : State) : (draw s).parity = s.parity := id rfl
@[simp] theorem draw_powerN (s : State) : (draw s).powerN = s.powerN := id rfl
@[simp] theorem draw_powerS (s : State) : (draw s).powerS = s.powerS := id rfl
@[simp] theorem draw_votes (s : State) : (draw s).votes = s.votes := id rfl
@[simp] theorem draw_samples (s : State) : (draw s).samples = s.samples := id rfl
@[simp] theorem draw_lowSamples (s : State) : (draw s).lowSamples = s.lowSamples := id rfl
@[simp] theorem draw_ring (s : State) : (draw s).ring = s.ring := id rfl
@[simp] theorem draw_qps (s : State) : (draw s).qps = s.qps := id rfl
@[simp] theorem draw_heldOut (s : State) : (draw s).heldOut = s.heldOut := id rfl
@[simp] theorem draw_replicaN (s : State) : (draw s).replicaN = s.replicaN := id rfl
@[simp] theorem draw_replicaS (s : State) : (draw s).replicaS = s.replicaS := id rfl
@[simp] theorem draw_complexN (s : State) : (draw s).complexN = s.complexN := id rfl
@[simp] theorem draw_complexS (s : State) : (draw s).complexS = s.complexS := id rfl
@[simp] theorem draw_update (s : State) : (draw s).update = s.update := id rfl
@[simp] theorem draw_boot (s : State) : (draw s).boot = s.boot := id rfl
@[simp] theorem draw_restores (s : State) : (draw s).restores = s.restores := id rfl
@[simp] theorem draw_releasedAt (s : State) : (draw s).releasedAt = s.releasedAt := id rfl
@[simp] theorem draw_sensors (s : State) : (draw s).sensors = s.sensors := id rfl
@[simp] theorem draw_save (s : State) : (draw s).save = s.save := id rfl
@[simp] theorem draw_record (s : State) : (draw s).record = s.record := id rfl
@[simp] theorem draw_out (s : State) : (draw s).out = s.out := id rfl
@[simp] theorem draw_pending (s : State) : (draw s).pending = s.pending := id rfl

/-! ### reach -/
@[simp] theorem reach_pins (n : Nat) (s : State) : (reach n s).pins = s.pins := id rfl
@[simp] theorem reach_fuses (n : Nat) (s : State) : (reach n s).fuses = s.fuses := id rfl
@[simp] theorem reach_phase (n : Nat) (s : State) : (reach n s).phase = s.phase := id rfl
@[simp] theorem reach_timerFrac (n : Nat) (s : State) : (reach n s).timerFrac = s.timerFrac := id rfl
@[simp] theorem reach_regs (n : Nat) (s : State) : (reach n s).regs = s.regs := id rfl
@[simp] theorem reach_latched (n : Nat) (s : State) : (reach n s).latched = s.latched := id rfl
@[simp] theorem reach_causes (n : Nat) (s : State) : (reach n s).causes = s.causes := id rfl
@[simp] theorem reach_staleMid (n : Nat) (s : State) : (reach n s).staleMid = s.staleMid := id rfl
@[simp] theorem reach_tiles (n : Nat) (s : State) : (reach n s).tiles = s.tiles := id rfl
@[simp] theorem reach_sram (n : Nat) (s : State) : (reach n s).sram = s.sram := id rfl
@[simp] theorem reach_sramPoison (n : Nat) (s : State) : (reach n s).sramPoison = s.sramPoison := id rfl
@[simp] theorem reach_mesh (n : Nat) (s : State) : (reach n s).mesh = s.mesh := id rfl
@[simp] theorem reach_rowBus (n : Nat) (s : State) : (reach n s).rowBus = s.rowBus := id rfl
@[simp] theorem reach_scaleBus (n : Nat) (s : State) : (reach n s).scaleBus = s.scaleBus := id rfl
@[simp] theorem reach_range (n : Nat) (s : State) : (reach n s).range = s.range := id rfl
@[simp] theorem reach_zip (n : Nat) (s : State) : (reach n s).zip = s.zip := id rfl
@[simp] theorem reach_packed (n : Nat) (s : State) : (reach n s).packed = s.packed := id rfl
@[simp] theorem reach_bindings (n : Nat) (s : State) : (reach n s).bindings = s.bindings := id rfl
@[simp] theorem reach_reqs (n : Nat) (s : State) : (reach n s).reqs = s.reqs := id rfl
@[simp] theorem reach_chans (n : Nat) (s : State) : (reach n s).chans = s.chans := id rfl
@[simp] theorem reach_serials (n : Nat) (s : State) : (reach n s).serials = s.serials := id rfl
@[simp] theorem reach_handles (n : Nat) (s : State) : (reach n s).handles = s.handles := id rfl
@[simp] theorem reach_versions (n : Nat) (s : State) : (reach n s).versions = s.versions := id rfl
@[simp] theorem reach_rallies (n : Nat) (s : State) : (reach n s).rallies = s.rallies := id rfl
@[simp] theorem reach_selects (n : Nat) (s : State) : (reach n s).selects = s.selects := id rfl
@[simp] theorem reach_deferred (n : Nat) (s : State) : (reach n s).deferred = s.deferred := id rfl
@[simp] theorem reach_ws (n : Nat) (s : State) : (reach n s).ws = s.ws := id rfl
@[simp] theorem reach_mail (n : Nat) (s : State) : (reach n s).mail = s.mail := id rfl
@[simp] theorem reach_hostFns (n : Nat) (s : State) : (reach n s).hostFns = s.hostFns := id rfl
@[simp] theorem reach_badSlots (n : Nat) (s : State) : (reach n s).badSlots = s.badSlots := id rfl
@[simp] theorem reach_parity (n : Nat) (s : State) : (reach n s).parity = s.parity := id rfl
@[simp] theorem reach_powerN (n : Nat) (s : State) : (reach n s).powerN = s.powerN := id rfl
@[simp] theorem reach_powerS (n : Nat) (s : State) : (reach n s).powerS = s.powerS := id rfl
@[simp] theorem reach_votes (n : Nat) (s : State) : (reach n s).votes = s.votes := id rfl
@[simp] theorem reach_samples (n : Nat) (s : State) : (reach n s).samples = s.samples := id rfl
@[simp] theorem reach_lowSamples (n : Nat) (s : State) : (reach n s).lowSamples = s.lowSamples := id rfl
@[simp] theorem reach_ring (n : Nat) (s : State) : (reach n s).ring = s.ring := id rfl
@[simp] theorem reach_qps (n : Nat) (s : State) : (reach n s).qps = s.qps := id rfl
@[simp] theorem reach_heldOut (n : Nat) (s : State) : (reach n s).heldOut = s.heldOut := id rfl
@[simp] theorem reach_replicaN (n : Nat) (s : State) : (reach n s).replicaN = s.replicaN := id rfl
@[simp] theorem reach_replicaS (n : Nat) (s : State) : (reach n s).replicaS = s.replicaS := id rfl
@[simp] theorem reach_complexN (n : Nat) (s : State) : (reach n s).complexN = s.complexN := id rfl
@[simp] theorem reach_complexS (n : Nat) (s : State) : (reach n s).complexS = s.complexS := id rfl
@[simp] theorem reach_update (n : Nat) (s : State) : (reach n s).update = s.update := id rfl
@[simp] theorem reach_boot (n : Nat) (s : State) : (reach n s).boot = s.boot := id rfl
@[simp] theorem reach_restores (n : Nat) (s : State) : (reach n s).restores = s.restores := id rfl
@[simp] theorem reach_releasedAt (n : Nat) (s : State) : (reach n s).releasedAt = s.releasedAt := id rfl
@[simp] theorem reach_sensors (n : Nat) (s : State) : (reach n s).sensors = s.sensors := id rfl
@[simp] theorem reach_save (n : Nat) (s : State) : (reach n s).save = s.save := id rfl
@[simp] theorem reach_record (n : Nat) (s : State) : (reach n s).record = s.record := id rfl
@[simp] theorem reach_free (n : Nat) (s : State) : (reach n s).free = s.free := id rfl
@[simp] theorem reach_out (n : Nat) (s : State) : (reach n s).out = s.out := id rfl
@[simp] theorem reach_pending (n : Nat) (s : State) : (reach n s).pending = s.pending := id rfl

/-! ### setTile -/
@[simp] theorem setTile_pins (n : Nat) (x : Tile) (s : State) : (setTile n x s).pins = s.pins := id rfl
@[simp] theorem setTile_fuses (n : Nat) (x : Tile) (s : State) : (setTile n x s).fuses = s.fuses := id rfl
@[simp] theorem setTile_phase (n : Nat) (x : Tile) (s : State) : (setTile n x s).phase = s.phase := id rfl
@[simp] theorem setTile_timer (n : Nat) (x : Tile) (s : State) : (setTile n x s).timer = s.timer := id rfl
@[simp] theorem setTile_timerFrac (n : Nat) (x : Tile) (s : State) : (setTile n x s).timerFrac = s.timerFrac := id rfl
@[simp] theorem setTile_regs (n : Nat) (x : Tile) (s : State) : (setTile n x s).regs = s.regs := id rfl
@[simp] theorem setTile_latched (n : Nat) (x : Tile) (s : State) : (setTile n x s).latched = s.latched := id rfl
@[simp] theorem setTile_causes (n : Nat) (x : Tile) (s : State) : (setTile n x s).causes = s.causes := id rfl
@[simp] theorem setTile_staleMid (n : Nat) (x : Tile) (s : State) : (setTile n x s).staleMid = s.staleMid := id rfl
@[simp] theorem setTile_sram (n : Nat) (x : Tile) (s : State) : (setTile n x s).sram = s.sram := id rfl
@[simp] theorem setTile_sramPoison (n : Nat) (x : Tile) (s : State) : (setTile n x s).sramPoison = s.sramPoison := id rfl
@[simp] theorem setTile_mesh (n : Nat) (x : Tile) (s : State) : (setTile n x s).mesh = s.mesh := id rfl
@[simp] theorem setTile_rowBus (n : Nat) (x : Tile) (s : State) : (setTile n x s).rowBus = s.rowBus := id rfl
@[simp] theorem setTile_scaleBus (n : Nat) (x : Tile) (s : State) : (setTile n x s).scaleBus = s.scaleBus := id rfl
@[simp] theorem setTile_range (n : Nat) (x : Tile) (s : State) : (setTile n x s).range = s.range := id rfl
@[simp] theorem setTile_zip (n : Nat) (x : Tile) (s : State) : (setTile n x s).zip = s.zip := id rfl
@[simp] theorem setTile_packed (n : Nat) (x : Tile) (s : State) : (setTile n x s).packed = s.packed := id rfl
@[simp] theorem setTile_bindings (n : Nat) (x : Tile) (s : State) : (setTile n x s).bindings = s.bindings := id rfl
@[simp] theorem setTile_reqs (n : Nat) (x : Tile) (s : State) : (setTile n x s).reqs = s.reqs := id rfl
@[simp] theorem setTile_chans (n : Nat) (x : Tile) (s : State) : (setTile n x s).chans = s.chans := id rfl
@[simp] theorem setTile_serials (n : Nat) (x : Tile) (s : State) : (setTile n x s).serials = s.serials := id rfl
@[simp] theorem setTile_handles (n : Nat) (x : Tile) (s : State) : (setTile n x s).handles = s.handles := id rfl
@[simp] theorem setTile_versions (n : Nat) (x : Tile) (s : State) : (setTile n x s).versions = s.versions := id rfl
@[simp] theorem setTile_rallies (n : Nat) (x : Tile) (s : State) : (setTile n x s).rallies = s.rallies := id rfl
@[simp] theorem setTile_selects (n : Nat) (x : Tile) (s : State) : (setTile n x s).selects = s.selects := id rfl
@[simp] theorem setTile_deferred (n : Nat) (x : Tile) (s : State) : (setTile n x s).deferred = s.deferred := id rfl
@[simp] theorem setTile_ws (n : Nat) (x : Tile) (s : State) : (setTile n x s).ws = s.ws := id rfl
@[simp] theorem setTile_mail (n : Nat) (x : Tile) (s : State) : (setTile n x s).mail = s.mail := id rfl
@[simp] theorem setTile_hostFns (n : Nat) (x : Tile) (s : State) : (setTile n x s).hostFns = s.hostFns := id rfl
@[simp] theorem setTile_badSlots (n : Nat) (x : Tile) (s : State) : (setTile n x s).badSlots = s.badSlots := id rfl
@[simp] theorem setTile_parity (n : Nat) (x : Tile) (s : State) : (setTile n x s).parity = s.parity := id rfl
@[simp] theorem setTile_powerN (n : Nat) (x : Tile) (s : State) : (setTile n x s).powerN = s.powerN := id rfl
@[simp] theorem setTile_powerS (n : Nat) (x : Tile) (s : State) : (setTile n x s).powerS = s.powerS := id rfl
@[simp] theorem setTile_votes (n : Nat) (x : Tile) (s : State) : (setTile n x s).votes = s.votes := id rfl
@[simp] theorem setTile_samples (n : Nat) (x : Tile) (s : State) : (setTile n x s).samples = s.samples := id rfl
@[simp] theorem setTile_lowSamples (n : Nat) (x : Tile) (s : State) : (setTile n x s).lowSamples = s.lowSamples := id rfl
@[simp] theorem setTile_ring (n : Nat) (x : Tile) (s : State) : (setTile n x s).ring = s.ring := id rfl
@[simp] theorem setTile_qps (n : Nat) (x : Tile) (s : State) : (setTile n x s).qps = s.qps := id rfl
@[simp] theorem setTile_heldOut (n : Nat) (x : Tile) (s : State) : (setTile n x s).heldOut = s.heldOut := id rfl
@[simp] theorem setTile_replicaN (n : Nat) (x : Tile) (s : State) : (setTile n x s).replicaN = s.replicaN := id rfl
@[simp] theorem setTile_replicaS (n : Nat) (x : Tile) (s : State) : (setTile n x s).replicaS = s.replicaS := id rfl
@[simp] theorem setTile_complexN (n : Nat) (x : Tile) (s : State) : (setTile n x s).complexN = s.complexN := id rfl
@[simp] theorem setTile_complexS (n : Nat) (x : Tile) (s : State) : (setTile n x s).complexS = s.complexS := id rfl
@[simp] theorem setTile_update (n : Nat) (x : Tile) (s : State) : (setTile n x s).update = s.update := id rfl
@[simp] theorem setTile_boot (n : Nat) (x : Tile) (s : State) : (setTile n x s).boot = s.boot := id rfl
@[simp] theorem setTile_restores (n : Nat) (x : Tile) (s : State) : (setTile n x s).restores = s.restores := id rfl
@[simp] theorem setTile_releasedAt (n : Nat) (x : Tile) (s : State) : (setTile n x s).releasedAt = s.releasedAt := id rfl
@[simp] theorem setTile_sensors (n : Nat) (x : Tile) (s : State) : (setTile n x s).sensors = s.sensors := id rfl
@[simp] theorem setTile_save (n : Nat) (x : Tile) (s : State) : (setTile n x s).save = s.save := id rfl
@[simp] theorem setTile_record (n : Nat) (x : Tile) (s : State) : (setTile n x s).record = s.record := id rfl
@[simp] theorem setTile_free (n : Nat) (x : Tile) (s : State) : (setTile n x s).free = s.free := id rfl
@[simp] theorem setTile_out (n : Nat) (x : Tile) (s : State) : (setTile n x s).out = s.out := id rfl
@[simp] theorem setTile_pending (n : Nat) (x : Tile) (s : State) : (setTile n x s).pending = s.pending := id rfl

/-! ### modTile -/
@[simp] theorem modTile_pins (n : Nat) (f : Tile → Tile) (s : State) : (modTile n f s).pins = s.pins := id rfl
@[simp] theorem modTile_fuses (n : Nat) (f : Tile → Tile) (s : State) : (modTile n f s).fuses = s.fuses := id rfl
@[simp] theorem modTile_phase (n : Nat) (f : Tile → Tile) (s : State) : (modTile n f s).phase = s.phase := id rfl
@[simp] theorem modTile_timer (n : Nat) (f : Tile → Tile) (s : State) : (modTile n f s).timer = s.timer := id rfl
@[simp] theorem modTile_timerFrac (n : Nat) (f : Tile → Tile) (s : State) : (modTile n f s).timerFrac = s.timerFrac := id rfl
@[simp] theorem modTile_regs (n : Nat) (f : Tile → Tile) (s : State) : (modTile n f s).regs = s.regs := id rfl
@[simp] theorem modTile_latched (n : Nat) (f : Tile → Tile) (s : State) : (modTile n f s).latched = s.latched := id rfl
@[simp] theorem modTile_causes (n : Nat) (f : Tile → Tile) (s : State) : (modTile n f s).causes = s.causes := id rfl
@[simp] theorem modTile_staleMid (n : Nat) (f : Tile → Tile) (s : State) : (modTile n f s).staleMid = s.staleMid := id rfl
@[simp] theorem modTile_sram (n : Nat) (f : Tile → Tile) (s : State) : (modTile n f s).sram = s.sram := id rfl
@[simp] theorem modTile_sramPoison (n : Nat) (f : Tile → Tile) (s : State) : (modTile n f s).sramPoison = s.sramPoison := id rfl
@[simp] theorem modTile_mesh (n : Nat) (f : Tile → Tile) (s : State) : (modTile n f s).mesh = s.mesh := id rfl
@[simp] theorem modTile_rowBus (n : Nat) (f : Tile → Tile) (s : State) : (modTile n f s).rowBus = s.rowBus := id rfl
@[simp] theorem modTile_scaleBus (n : Nat) (f : Tile → Tile) (s : State) : (modTile n f s).scaleBus = s.scaleBus := id rfl
@[simp] theorem modTile_range (n : Nat) (f : Tile → Tile) (s : State) : (modTile n f s).range = s.range := id rfl
@[simp] theorem modTile_zip (n : Nat) (f : Tile → Tile) (s : State) : (modTile n f s).zip = s.zip := id rfl
@[simp] theorem modTile_packed (n : Nat) (f : Tile → Tile) (s : State) : (modTile n f s).packed = s.packed := id rfl
@[simp] theorem modTile_bindings (n : Nat) (f : Tile → Tile) (s : State) : (modTile n f s).bindings = s.bindings := id rfl
@[simp] theorem modTile_reqs (n : Nat) (f : Tile → Tile) (s : State) : (modTile n f s).reqs = s.reqs := id rfl
@[simp] theorem modTile_chans (n : Nat) (f : Tile → Tile) (s : State) : (modTile n f s).chans = s.chans := id rfl
@[simp] theorem modTile_serials (n : Nat) (f : Tile → Tile) (s : State) : (modTile n f s).serials = s.serials := id rfl
@[simp] theorem modTile_handles (n : Nat) (f : Tile → Tile) (s : State) : (modTile n f s).handles = s.handles := id rfl
@[simp] theorem modTile_versions (n : Nat) (f : Tile → Tile) (s : State) : (modTile n f s).versions = s.versions := id rfl
@[simp] theorem modTile_rallies (n : Nat) (f : Tile → Tile) (s : State) : (modTile n f s).rallies = s.rallies := id rfl
@[simp] theorem modTile_selects (n : Nat) (f : Tile → Tile) (s : State) : (modTile n f s).selects = s.selects := id rfl
@[simp] theorem modTile_deferred (n : Nat) (f : Tile → Tile) (s : State) : (modTile n f s).deferred = s.deferred := id rfl
@[simp] theorem modTile_ws (n : Nat) (f : Tile → Tile) (s : State) : (modTile n f s).ws = s.ws := id rfl
@[simp] theorem modTile_mail (n : Nat) (f : Tile → Tile) (s : State) : (modTile n f s).mail = s.mail := id rfl
@[simp] theorem modTile_hostFns (n : Nat) (f : Tile → Tile) (s : State) : (modTile n f s).hostFns = s.hostFns := id rfl
@[simp] theorem modTile_badSlots (n : Nat) (f : Tile → Tile) (s : State) : (modTile n f s).badSlots = s.badSlots := id rfl
@[simp] theorem modTile_parity (n : Nat) (f : Tile → Tile) (s : State) : (modTile n f s).parity = s.parity := id rfl
@[simp] theorem modTile_powerN (n : Nat) (f : Tile → Tile) (s : State) : (modTile n f s).powerN = s.powerN := id rfl
@[simp] theorem modTile_powerS (n : Nat) (f : Tile → Tile) (s : State) : (modTile n f s).powerS = s.powerS := id rfl
@[simp] theorem modTile_votes (n : Nat) (f : Tile → Tile) (s : State) : (modTile n f s).votes = s.votes := id rfl
@[simp] theorem modTile_samples (n : Nat) (f : Tile → Tile) (s : State) : (modTile n f s).samples = s.samples := id rfl
@[simp] theorem modTile_lowSamples (n : Nat) (f : Tile → Tile) (s : State) : (modTile n f s).lowSamples = s.lowSamples := id rfl
@[simp] theorem modTile_ring (n : Nat) (f : Tile → Tile) (s : State) : (modTile n f s).ring = s.ring := id rfl
@[simp] theorem modTile_qps (n : Nat) (f : Tile → Tile) (s : State) : (modTile n f s).qps = s.qps := id rfl
@[simp] theorem modTile_heldOut (n : Nat) (f : Tile → Tile) (s : State) : (modTile n f s).heldOut = s.heldOut := id rfl
@[simp] theorem modTile_replicaN (n : Nat) (f : Tile → Tile) (s : State) : (modTile n f s).replicaN = s.replicaN := id rfl
@[simp] theorem modTile_replicaS (n : Nat) (f : Tile → Tile) (s : State) : (modTile n f s).replicaS = s.replicaS := id rfl
@[simp] theorem modTile_complexN (n : Nat) (f : Tile → Tile) (s : State) : (modTile n f s).complexN = s.complexN := id rfl
@[simp] theorem modTile_complexS (n : Nat) (f : Tile → Tile) (s : State) : (modTile n f s).complexS = s.complexS := id rfl
@[simp] theorem modTile_update (n : Nat) (f : Tile → Tile) (s : State) : (modTile n f s).update = s.update := id rfl
@[simp] theorem modTile_boot (n : Nat) (f : Tile → Tile) (s : State) : (modTile n f s).boot = s.boot := id rfl
@[simp] theorem modTile_restores (n : Nat) (f : Tile → Tile) (s : State) : (modTile n f s).restores = s.restores := id rfl
@[simp] theorem modTile_releasedAt (n : Nat) (f : Tile → Tile) (s : State) : (modTile n f s).releasedAt = s.releasedAt := id rfl
@[simp] theorem modTile_sensors (n : Nat) (f : Tile → Tile) (s : State) : (modTile n f s).sensors = s.sensors := id rfl
@[simp] theorem modTile_save (n : Nat) (f : Tile → Tile) (s : State) : (modTile n f s).save = s.save := id rfl
@[simp] theorem modTile_record (n : Nat) (f : Tile → Tile) (s : State) : (modTile n f s).record = s.record := id rfl
@[simp] theorem modTile_free (n : Nat) (f : Tile → Tile) (s : State) : (modTile n f s).free = s.free := id rfl
@[simp] theorem modTile_out (n : Nat) (f : Tile → Tile) (s : State) : (modTile n f s).out = s.out := id rfl
@[simp] theorem modTile_pending (n : Nat) (f : Tile → Tile) (s : State) : (modTile n f s).pending = s.pending := id rfl

/-! ### setCtx -/
@[simp] theorem setCtx_pins (n : Nat) (c : Ctx) (s : State) : (setCtx n c s).pins = s.pins := id rfl
@[simp] theorem setCtx_fuses (n : Nat) (c : Ctx) (s : State) : (setCtx n c s).fuses = s.fuses := id rfl
@[simp] theorem setCtx_phase (n : Nat) (c : Ctx) (s : State) : (setCtx n c s).phase = s.phase := id rfl
@[simp] theorem setCtx_timer (n : Nat) (c : Ctx) (s : State) : (setCtx n c s).timer = s.timer := id rfl
@[simp] theorem setCtx_timerFrac (n : Nat) (c : Ctx) (s : State) : (setCtx n c s).timerFrac = s.timerFrac := id rfl
@[simp] theorem setCtx_regs (n : Nat) (c : Ctx) (s : State) : (setCtx n c s).regs = s.regs := id rfl
@[simp] theorem setCtx_latched (n : Nat) (c : Ctx) (s : State) : (setCtx n c s).latched = s.latched := id rfl
@[simp] theorem setCtx_causes (n : Nat) (c : Ctx) (s : State) : (setCtx n c s).causes = s.causes := id rfl
@[simp] theorem setCtx_staleMid (n : Nat) (c : Ctx) (s : State) : (setCtx n c s).staleMid = s.staleMid := id rfl
@[simp] theorem setCtx_sram (n : Nat) (c : Ctx) (s : State) : (setCtx n c s).sram = s.sram := id rfl
@[simp] theorem setCtx_sramPoison (n : Nat) (c : Ctx) (s : State) : (setCtx n c s).sramPoison = s.sramPoison := id rfl
@[simp] theorem setCtx_mesh (n : Nat) (c : Ctx) (s : State) : (setCtx n c s).mesh = s.mesh := id rfl
@[simp] theorem setCtx_rowBus (n : Nat) (c : Ctx) (s : State) : (setCtx n c s).rowBus = s.rowBus := id rfl
@[simp] theorem setCtx_scaleBus (n : Nat) (c : Ctx) (s : State) : (setCtx n c s).scaleBus = s.scaleBus := id rfl
@[simp] theorem setCtx_range (n : Nat) (c : Ctx) (s : State) : (setCtx n c s).range = s.range := id rfl
@[simp] theorem setCtx_zip (n : Nat) (c : Ctx) (s : State) : (setCtx n c s).zip = s.zip := id rfl
@[simp] theorem setCtx_packed (n : Nat) (c : Ctx) (s : State) : (setCtx n c s).packed = s.packed := id rfl
@[simp] theorem setCtx_bindings (n : Nat) (c : Ctx) (s : State) : (setCtx n c s).bindings = s.bindings := id rfl
@[simp] theorem setCtx_reqs (n : Nat) (c : Ctx) (s : State) : (setCtx n c s).reqs = s.reqs := id rfl
@[simp] theorem setCtx_chans (n : Nat) (c : Ctx) (s : State) : (setCtx n c s).chans = s.chans := id rfl
@[simp] theorem setCtx_serials (n : Nat) (c : Ctx) (s : State) : (setCtx n c s).serials = s.serials := id rfl
@[simp] theorem setCtx_handles (n : Nat) (c : Ctx) (s : State) : (setCtx n c s).handles = s.handles := id rfl
@[simp] theorem setCtx_versions (n : Nat) (c : Ctx) (s : State) : (setCtx n c s).versions = s.versions := id rfl
@[simp] theorem setCtx_rallies (n : Nat) (c : Ctx) (s : State) : (setCtx n c s).rallies = s.rallies := id rfl
@[simp] theorem setCtx_selects (n : Nat) (c : Ctx) (s : State) : (setCtx n c s).selects = s.selects := id rfl
@[simp] theorem setCtx_deferred (n : Nat) (c : Ctx) (s : State) : (setCtx n c s).deferred = s.deferred := id rfl
@[simp] theorem setCtx_ws (n : Nat) (c : Ctx) (s : State) : (setCtx n c s).ws = s.ws := id rfl
@[simp] theorem setCtx_mail (n : Nat) (c : Ctx) (s : State) : (setCtx n c s).mail = s.mail := id rfl
@[simp] theorem setCtx_hostFns (n : Nat) (c : Ctx) (s : State) : (setCtx n c s).hostFns = s.hostFns := id rfl
@[simp] theorem setCtx_badSlots (n : Nat) (c : Ctx) (s : State) : (setCtx n c s).badSlots = s.badSlots := id rfl
@[simp] theorem setCtx_parity (n : Nat) (c : Ctx) (s : State) : (setCtx n c s).parity = s.parity := id rfl
@[simp] theorem setCtx_powerN (n : Nat) (c : Ctx) (s : State) : (setCtx n c s).powerN = s.powerN := id rfl
@[simp] theorem setCtx_powerS (n : Nat) (c : Ctx) (s : State) : (setCtx n c s).powerS = s.powerS := id rfl
@[simp] theorem setCtx_votes (n : Nat) (c : Ctx) (s : State) : (setCtx n c s).votes = s.votes := id rfl
@[simp] theorem setCtx_samples (n : Nat) (c : Ctx) (s : State) : (setCtx n c s).samples = s.samples := id rfl
@[simp] theorem setCtx_lowSamples (n : Nat) (c : Ctx) (s : State) : (setCtx n c s).lowSamples = s.lowSamples := id rfl
@[simp] theorem setCtx_ring (n : Nat) (c : Ctx) (s : State) : (setCtx n c s).ring = s.ring := id rfl
@[simp] theorem setCtx_qps (n : Nat) (c : Ctx) (s : State) : (setCtx n c s).qps = s.qps := id rfl
@[simp] theorem setCtx_heldOut (n : Nat) (c : Ctx) (s : State) : (setCtx n c s).heldOut = s.heldOut := id rfl
@[simp] theorem setCtx_replicaN (n : Nat) (c : Ctx) (s : State) : (setCtx n c s).replicaN = s.replicaN := id rfl
@[simp] theorem setCtx_replicaS (n : Nat) (c : Ctx) (s : State) : (setCtx n c s).replicaS = s.replicaS := id rfl
@[simp] theorem setCtx_complexN (n : Nat) (c : Ctx) (s : State) : (setCtx n c s).complexN = s.complexN := id rfl
@[simp] theorem setCtx_complexS (n : Nat) (c : Ctx) (s : State) : (setCtx n c s).complexS = s.complexS := id rfl
@[simp] theorem setCtx_update (n : Nat) (c : Ctx) (s : State) : (setCtx n c s).update = s.update := id rfl
@[simp] theorem setCtx_boot (n : Nat) (c : Ctx) (s : State) : (setCtx n c s).boot = s.boot := id rfl
@[simp] theorem setCtx_restores (n : Nat) (c : Ctx) (s : State) : (setCtx n c s).restores = s.restores := id rfl
@[simp] theorem setCtx_releasedAt (n : Nat) (c : Ctx) (s : State) : (setCtx n c s).releasedAt = s.releasedAt := id rfl
@[simp] theorem setCtx_sensors (n : Nat) (c : Ctx) (s : State) : (setCtx n c s).sensors = s.sensors := id rfl
@[simp] theorem setCtx_save (n : Nat) (c : Ctx) (s : State) : (setCtx n c s).save = s.save := id rfl
@[simp] theorem setCtx_record (n : Nat) (c : Ctx) (s : State) : (setCtx n c s).record = s.record := id rfl
@[simp] theorem setCtx_free (n : Nat) (c : Ctx) (s : State) : (setCtx n c s).free = s.free := id rfl
@[simp] theorem setCtx_out (n : Nat) (c : Ctx) (s : State) : (setCtx n c s).out = s.out := id rfl
@[simp] theorem setCtx_pending (n : Nat) (c : Ctx) (s : State) : (setCtx n c s).pending = s.pending := id rfl

/-! ### modEntry -/
@[simp] theorem modEntry_pins (n a : Nat) (f : Entry → Entry) (s : State) : (modEntry n a f s).pins = s.pins := id rfl
@[simp] theorem modEntry_fuses (n a : Nat) (f : Entry → Entry) (s : State) : (modEntry n a f s).fuses = s.fuses := id rfl
@[simp] theorem modEntry_phase (n a : Nat) (f : Entry → Entry) (s : State) : (modEntry n a f s).phase = s.phase := id rfl
@[simp] theorem modEntry_timer (n a : Nat) (f : Entry → Entry) (s : State) : (modEntry n a f s).timer = s.timer := id rfl
@[simp] theorem modEntry_timerFrac (n a : Nat) (f : Entry → Entry) (s : State) : (modEntry n a f s).timerFrac = s.timerFrac := id rfl
@[simp] theorem modEntry_regs (n a : Nat) (f : Entry → Entry) (s : State) : (modEntry n a f s).regs = s.regs := id rfl
@[simp] theorem modEntry_latched (n a : Nat) (f : Entry → Entry) (s : State) : (modEntry n a f s).latched = s.latched := id rfl
@[simp] theorem modEntry_causes (n a : Nat) (f : Entry → Entry) (s : State) : (modEntry n a f s).causes = s.causes := id rfl
@[simp] theorem modEntry_staleMid (n a : Nat) (f : Entry → Entry) (s : State) : (modEntry n a f s).staleMid = s.staleMid := id rfl
@[simp] theorem modEntry_sram (n a : Nat) (f : Entry → Entry) (s : State) : (modEntry n a f s).sram = s.sram := id rfl
@[simp] theorem modEntry_sramPoison (n a : Nat) (f : Entry → Entry) (s : State) : (modEntry n a f s).sramPoison = s.sramPoison := id rfl
@[simp] theorem modEntry_mesh (n a : Nat) (f : Entry → Entry) (s : State) : (modEntry n a f s).mesh = s.mesh := id rfl
@[simp] theorem modEntry_rowBus (n a : Nat) (f : Entry → Entry) (s : State) : (modEntry n a f s).rowBus = s.rowBus := id rfl
@[simp] theorem modEntry_scaleBus (n a : Nat) (f : Entry → Entry) (s : State) : (modEntry n a f s).scaleBus = s.scaleBus := id rfl
@[simp] theorem modEntry_range (n a : Nat) (f : Entry → Entry) (s : State) : (modEntry n a f s).range = s.range := id rfl
@[simp] theorem modEntry_zip (n a : Nat) (f : Entry → Entry) (s : State) : (modEntry n a f s).zip = s.zip := id rfl
@[simp] theorem modEntry_packed (n a : Nat) (f : Entry → Entry) (s : State) : (modEntry n a f s).packed = s.packed := id rfl
@[simp] theorem modEntry_bindings (n a : Nat) (f : Entry → Entry) (s : State) : (modEntry n a f s).bindings = s.bindings := id rfl
@[simp] theorem modEntry_reqs (n a : Nat) (f : Entry → Entry) (s : State) : (modEntry n a f s).reqs = s.reqs := id rfl
@[simp] theorem modEntry_chans (n a : Nat) (f : Entry → Entry) (s : State) : (modEntry n a f s).chans = s.chans := id rfl
@[simp] theorem modEntry_serials (n a : Nat) (f : Entry → Entry) (s : State) : (modEntry n a f s).serials = s.serials := id rfl
@[simp] theorem modEntry_handles (n a : Nat) (f : Entry → Entry) (s : State) : (modEntry n a f s).handles = s.handles := id rfl
@[simp] theorem modEntry_versions (n a : Nat) (f : Entry → Entry) (s : State) : (modEntry n a f s).versions = s.versions := id rfl
@[simp] theorem modEntry_rallies (n a : Nat) (f : Entry → Entry) (s : State) : (modEntry n a f s).rallies = s.rallies := id rfl
@[simp] theorem modEntry_selects (n a : Nat) (f : Entry → Entry) (s : State) : (modEntry n a f s).selects = s.selects := id rfl
@[simp] theorem modEntry_deferred (n a : Nat) (f : Entry → Entry) (s : State) : (modEntry n a f s).deferred = s.deferred := id rfl
@[simp] theorem modEntry_ws (n a : Nat) (f : Entry → Entry) (s : State) : (modEntry n a f s).ws = s.ws := id rfl
@[simp] theorem modEntry_mail (n a : Nat) (f : Entry → Entry) (s : State) : (modEntry n a f s).mail = s.mail := id rfl
@[simp] theorem modEntry_hostFns (n a : Nat) (f : Entry → Entry) (s : State) : (modEntry n a f s).hostFns = s.hostFns := id rfl
@[simp] theorem modEntry_badSlots (n a : Nat) (f : Entry → Entry) (s : State) : (modEntry n a f s).badSlots = s.badSlots := id rfl
@[simp] theorem modEntry_parity (n a : Nat) (f : Entry → Entry) (s : State) : (modEntry n a f s).parity = s.parity := id rfl
@[simp] theorem modEntry_powerN (n a : Nat) (f : Entry → Entry) (s : State) : (modEntry n a f s).powerN = s.powerN := id rfl
@[simp] theorem modEntry_powerS (n a : Nat) (f : Entry → Entry) (s : State) : (modEntry n a f s).powerS = s.powerS := id rfl
@[simp] theorem modEntry_votes (n a : Nat) (f : Entry → Entry) (s : State) : (modEntry n a f s).votes = s.votes := id rfl
@[simp] theorem modEntry_samples (n a : Nat) (f : Entry → Entry) (s : State) : (modEntry n a f s).samples = s.samples := id rfl
@[simp] theorem modEntry_lowSamples (n a : Nat) (f : Entry → Entry) (s : State) : (modEntry n a f s).lowSamples = s.lowSamples := id rfl
@[simp] theorem modEntry_ring (n a : Nat) (f : Entry → Entry) (s : State) : (modEntry n a f s).ring = s.ring := id rfl
@[simp] theorem modEntry_qps (n a : Nat) (f : Entry → Entry) (s : State) : (modEntry n a f s).qps = s.qps := id rfl
@[simp] theorem modEntry_heldOut (n a : Nat) (f : Entry → Entry) (s : State) : (modEntry n a f s).heldOut = s.heldOut := id rfl
@[simp] theorem modEntry_replicaN (n a : Nat) (f : Entry → Entry) (s : State) : (modEntry n a f s).replicaN = s.replicaN := id rfl
@[simp] theorem modEntry_replicaS (n a : Nat) (f : Entry → Entry) (s : State) : (modEntry n a f s).replicaS = s.replicaS := id rfl
@[simp] theorem modEntry_complexN (n a : Nat) (f : Entry → Entry) (s : State) : (modEntry n a f s).complexN = s.complexN := id rfl
@[simp] theorem modEntry_complexS (n a : Nat) (f : Entry → Entry) (s : State) : (modEntry n a f s).complexS = s.complexS := id rfl
@[simp] theorem modEntry_update (n a : Nat) (f : Entry → Entry) (s : State) : (modEntry n a f s).update = s.update := id rfl
@[simp] theorem modEntry_boot (n a : Nat) (f : Entry → Entry) (s : State) : (modEntry n a f s).boot = s.boot := id rfl
@[simp] theorem modEntry_restores (n a : Nat) (f : Entry → Entry) (s : State) : (modEntry n a f s).restores = s.restores := id rfl
@[simp] theorem modEntry_releasedAt (n a : Nat) (f : Entry → Entry) (s : State) : (modEntry n a f s).releasedAt = s.releasedAt := id rfl
@[simp] theorem modEntry_sensors (n a : Nat) (f : Entry → Entry) (s : State) : (modEntry n a f s).sensors = s.sensors := id rfl
@[simp] theorem modEntry_save (n a : Nat) (f : Entry → Entry) (s : State) : (modEntry n a f s).save = s.save := id rfl
@[simp] theorem modEntry_record (n a : Nat) (f : Entry → Entry) (s : State) : (modEntry n a f s).record = s.record := id rfl
@[simp] theorem modEntry_free (n a : Nat) (f : Entry → Entry) (s : State) : (modEntry n a f s).free = s.free := id rfl
@[simp] theorem modEntry_out (n a : Nat) (f : Entry → Entry) (s : State) : (modEntry n a f s).out = s.out := id rfl
@[simp] theorem modEntry_pending (n a : Nat) (f : Entry → Entry) (s : State) : (modEntry n a f s).pending = s.pending := id rfl

/-! ### setMail -/
@[simp] theorem setMail_pins (m : Nat) (e : Bool) (x : MbxEnd) (s : State) : (setMail m e x s).pins = s.pins := id rfl
@[simp] theorem setMail_fuses (m : Nat) (e : Bool) (x : MbxEnd) (s : State) : (setMail m e x s).fuses = s.fuses := id rfl
@[simp] theorem setMail_phase (m : Nat) (e : Bool) (x : MbxEnd) (s : State) : (setMail m e x s).phase = s.phase := id rfl
@[simp] theorem setMail_timer (m : Nat) (e : Bool) (x : MbxEnd) (s : State) : (setMail m e x s).timer = s.timer := id rfl
@[simp] theorem setMail_timerFrac (m : Nat) (e : Bool) (x : MbxEnd) (s : State) : (setMail m e x s).timerFrac = s.timerFrac := id rfl
@[simp] theorem setMail_regs (m : Nat) (e : Bool) (x : MbxEnd) (s : State) : (setMail m e x s).regs = s.regs := id rfl
@[simp] theorem setMail_latched (m : Nat) (e : Bool) (x : MbxEnd) (s : State) : (setMail m e x s).latched = s.latched := id rfl
@[simp] theorem setMail_causes (m : Nat) (e : Bool) (x : MbxEnd) (s : State) : (setMail m e x s).causes = s.causes := id rfl
@[simp] theorem setMail_staleMid (m : Nat) (e : Bool) (x : MbxEnd) (s : State) : (setMail m e x s).staleMid = s.staleMid := id rfl
@[simp] theorem setMail_tiles (m : Nat) (e : Bool) (x : MbxEnd) (s : State) : (setMail m e x s).tiles = s.tiles := id rfl
@[simp] theorem setMail_sram (m : Nat) (e : Bool) (x : MbxEnd) (s : State) : (setMail m e x s).sram = s.sram := id rfl
@[simp] theorem setMail_sramPoison (m : Nat) (e : Bool) (x : MbxEnd) (s : State) : (setMail m e x s).sramPoison = s.sramPoison := id rfl
@[simp] theorem setMail_mesh (m : Nat) (e : Bool) (x : MbxEnd) (s : State) : (setMail m e x s).mesh = s.mesh := id rfl
@[simp] theorem setMail_rowBus (m : Nat) (e : Bool) (x : MbxEnd) (s : State) : (setMail m e x s).rowBus = s.rowBus := id rfl
@[simp] theorem setMail_scaleBus (m : Nat) (e : Bool) (x : MbxEnd) (s : State) : (setMail m e x s).scaleBus = s.scaleBus := id rfl
@[simp] theorem setMail_range (m : Nat) (e : Bool) (x : MbxEnd) (s : State) : (setMail m e x s).range = s.range := id rfl
@[simp] theorem setMail_zip (m : Nat) (e : Bool) (x : MbxEnd) (s : State) : (setMail m e x s).zip = s.zip := id rfl
@[simp] theorem setMail_packed (m : Nat) (e : Bool) (x : MbxEnd) (s : State) : (setMail m e x s).packed = s.packed := id rfl
@[simp] theorem setMail_bindings (m : Nat) (e : Bool) (x : MbxEnd) (s : State) : (setMail m e x s).bindings = s.bindings := id rfl
@[simp] theorem setMail_reqs (m : Nat) (e : Bool) (x : MbxEnd) (s : State) : (setMail m e x s).reqs = s.reqs := id rfl
@[simp] theorem setMail_chans (m : Nat) (e : Bool) (x : MbxEnd) (s : State) : (setMail m e x s).chans = s.chans := id rfl
@[simp] theorem setMail_serials (m : Nat) (e : Bool) (x : MbxEnd) (s : State) : (setMail m e x s).serials = s.serials := id rfl
@[simp] theorem setMail_handles (m : Nat) (e : Bool) (x : MbxEnd) (s : State) : (setMail m e x s).handles = s.handles := id rfl
@[simp] theorem setMail_versions (m : Nat) (e : Bool) (x : MbxEnd) (s : State) : (setMail m e x s).versions = s.versions := id rfl
@[simp] theorem setMail_rallies (m : Nat) (e : Bool) (x : MbxEnd) (s : State) : (setMail m e x s).rallies = s.rallies := id rfl
@[simp] theorem setMail_selects (m : Nat) (e : Bool) (x : MbxEnd) (s : State) : (setMail m e x s).selects = s.selects := id rfl
@[simp] theorem setMail_deferred (m : Nat) (e : Bool) (x : MbxEnd) (s : State) : (setMail m e x s).deferred = s.deferred := id rfl
@[simp] theorem setMail_ws (m : Nat) (e : Bool) (x : MbxEnd) (s : State) : (setMail m e x s).ws = s.ws := id rfl
@[simp] theorem setMail_hostFns (m : Nat) (e : Bool) (x : MbxEnd) (s : State) : (setMail m e x s).hostFns = s.hostFns := id rfl
@[simp] theorem setMail_badSlots (m : Nat) (e : Bool) (x : MbxEnd) (s : State) : (setMail m e x s).badSlots = s.badSlots := id rfl
@[simp] theorem setMail_parity (m : Nat) (e : Bool) (x : MbxEnd) (s : State) : (setMail m e x s).parity = s.parity := id rfl
@[simp] theorem setMail_powerN (m : Nat) (e : Bool) (x : MbxEnd) (s : State) : (setMail m e x s).powerN = s.powerN := id rfl
@[simp] theorem setMail_powerS (m : Nat) (e : Bool) (x : MbxEnd) (s : State) : (setMail m e x s).powerS = s.powerS := id rfl
@[simp] theorem setMail_votes (m : Nat) (e : Bool) (x : MbxEnd) (s : State) : (setMail m e x s).votes = s.votes := id rfl
@[simp] theorem setMail_samples (m : Nat) (e : Bool) (x : MbxEnd) (s : State) : (setMail m e x s).samples = s.samples := id rfl
@[simp] theorem setMail_lowSamples (m : Nat) (e : Bool) (x : MbxEnd) (s : State) : (setMail m e x s).lowSamples = s.lowSamples := id rfl
@[simp] theorem setMail_ring (m : Nat) (e : Bool) (x : MbxEnd) (s : State) : (setMail m e x s).ring = s.ring := id rfl
@[simp] theorem setMail_qps (m : Nat) (e : Bool) (x : MbxEnd) (s : State) : (setMail m e x s).qps = s.qps := id rfl
@[simp] theorem setMail_heldOut (m : Nat) (e : Bool) (x : MbxEnd) (s : State) : (setMail m e x s).heldOut = s.heldOut := id rfl
@[simp] theorem setMail_replicaN (m : Nat) (e : Bool) (x : MbxEnd) (s : State) : (setMail m e x s).replicaN = s.replicaN := id rfl
@[simp] theorem setMail_replicaS (m : Nat) (e : Bool) (x : MbxEnd) (s : State) : (setMail m e x s).replicaS = s.replicaS := id rfl
@[simp] theorem setMail_complexN (m : Nat) (e : Bool) (x : MbxEnd) (s : State) : (setMail m e x s).complexN = s.complexN := id rfl
@[simp] theorem setMail_complexS (m : Nat) (e : Bool) (x : MbxEnd) (s : State) : (setMail m e x s).complexS = s.complexS := id rfl
@[simp] theorem setMail_update (m : Nat) (e : Bool) (x : MbxEnd) (s : State) : (setMail m e x s).update = s.update := id rfl
@[simp] theorem setMail_boot (m : Nat) (e : Bool) (x : MbxEnd) (s : State) : (setMail m e x s).boot = s.boot := id rfl
@[simp] theorem setMail_restores (m : Nat) (e : Bool) (x : MbxEnd) (s : State) : (setMail m e x s).restores = s.restores := id rfl
@[simp] theorem setMail_releasedAt (m : Nat) (e : Bool) (x : MbxEnd) (s : State) : (setMail m e x s).releasedAt = s.releasedAt := id rfl
@[simp] theorem setMail_sensors (m : Nat) (e : Bool) (x : MbxEnd) (s : State) : (setMail m e x s).sensors = s.sensors := id rfl
@[simp] theorem setMail_save (m : Nat) (e : Bool) (x : MbxEnd) (s : State) : (setMail m e x s).save = s.save := id rfl
@[simp] theorem setMail_record (m : Nat) (e : Bool) (x : MbxEnd) (s : State) : (setMail m e x s).record = s.record := id rfl
@[simp] theorem setMail_free (m : Nat) (e : Bool) (x : MbxEnd) (s : State) : (setMail m e x s).free = s.free := id rfl
@[simp] theorem setMail_out (m : Nat) (e : Bool) (x : MbxEnd) (s : State) : (setMail m e x s).out = s.out := id rfl
@[simp] theorem setMail_pending (m : Nat) (e : Bool) (x : MbxEnd) (s : State) : (setMail m e x s).pending = s.pending := id rfl

/-! ### modRing -/
@[simp] theorem modRing_pins (f : Ring → Ring) (s : State) : (modRing f s).pins = s.pins := id rfl
@[simp] theorem modRing_fuses (f : Ring → Ring) (s : State) : (modRing f s).fuses = s.fuses := id rfl
@[simp] theorem modRing_phase (f : Ring → Ring) (s : State) : (modRing f s).phase = s.phase := id rfl
@[simp] theorem modRing_timer (f : Ring → Ring) (s : State) : (modRing f s).timer = s.timer := id rfl
@[simp] theorem modRing_timerFrac (f : Ring → Ring) (s : State) : (modRing f s).timerFrac = s.timerFrac := id rfl
@[simp] theorem modRing_regs (f : Ring → Ring) (s : State) : (modRing f s).regs = s.regs := id rfl
@[simp] theorem modRing_latched (f : Ring → Ring) (s : State) : (modRing f s).latched = s.latched := id rfl
@[simp] theorem modRing_causes (f : Ring → Ring) (s : State) : (modRing f s).causes = s.causes := id rfl
@[simp] theorem modRing_staleMid (f : Ring → Ring) (s : State) : (modRing f s).staleMid = s.staleMid := id rfl
@[simp] theorem modRing_tiles (f : Ring → Ring) (s : State) : (modRing f s).tiles = s.tiles := id rfl
@[simp] theorem modRing_sram (f : Ring → Ring) (s : State) : (modRing f s).sram = s.sram := id rfl
@[simp] theorem modRing_sramPoison (f : Ring → Ring) (s : State) : (modRing f s).sramPoison = s.sramPoison := id rfl
@[simp] theorem modRing_mesh (f : Ring → Ring) (s : State) : (modRing f s).mesh = s.mesh := id rfl
@[simp] theorem modRing_rowBus (f : Ring → Ring) (s : State) : (modRing f s).rowBus = s.rowBus := id rfl
@[simp] theorem modRing_scaleBus (f : Ring → Ring) (s : State) : (modRing f s).scaleBus = s.scaleBus := id rfl
@[simp] theorem modRing_range (f : Ring → Ring) (s : State) : (modRing f s).range = s.range := id rfl
@[simp] theorem modRing_zip (f : Ring → Ring) (s : State) : (modRing f s).zip = s.zip := id rfl
@[simp] theorem modRing_packed (f : Ring → Ring) (s : State) : (modRing f s).packed = s.packed := id rfl
@[simp] theorem modRing_bindings (f : Ring → Ring) (s : State) : (modRing f s).bindings = s.bindings := id rfl
@[simp] theorem modRing_reqs (f : Ring → Ring) (s : State) : (modRing f s).reqs = s.reqs := id rfl
@[simp] theorem modRing_chans (f : Ring → Ring) (s : State) : (modRing f s).chans = s.chans := id rfl
@[simp] theorem modRing_serials (f : Ring → Ring) (s : State) : (modRing f s).serials = s.serials := id rfl
@[simp] theorem modRing_handles (f : Ring → Ring) (s : State) : (modRing f s).handles = s.handles := id rfl
@[simp] theorem modRing_versions (f : Ring → Ring) (s : State) : (modRing f s).versions = s.versions := id rfl
@[simp] theorem modRing_rallies (f : Ring → Ring) (s : State) : (modRing f s).rallies = s.rallies := id rfl
@[simp] theorem modRing_selects (f : Ring → Ring) (s : State) : (modRing f s).selects = s.selects := id rfl
@[simp] theorem modRing_deferred (f : Ring → Ring) (s : State) : (modRing f s).deferred = s.deferred := id rfl
@[simp] theorem modRing_ws (f : Ring → Ring) (s : State) : (modRing f s).ws = s.ws := id rfl
@[simp] theorem modRing_mail (f : Ring → Ring) (s : State) : (modRing f s).mail = s.mail := id rfl
@[simp] theorem modRing_hostFns (f : Ring → Ring) (s : State) : (modRing f s).hostFns = s.hostFns := id rfl
@[simp] theorem modRing_badSlots (f : Ring → Ring) (s : State) : (modRing f s).badSlots = s.badSlots := id rfl
@[simp] theorem modRing_parity (f : Ring → Ring) (s : State) : (modRing f s).parity = s.parity := id rfl
@[simp] theorem modRing_powerN (f : Ring → Ring) (s : State) : (modRing f s).powerN = s.powerN := id rfl
@[simp] theorem modRing_powerS (f : Ring → Ring) (s : State) : (modRing f s).powerS = s.powerS := id rfl
@[simp] theorem modRing_votes (f : Ring → Ring) (s : State) : (modRing f s).votes = s.votes := id rfl
@[simp] theorem modRing_samples (f : Ring → Ring) (s : State) : (modRing f s).samples = s.samples := id rfl
@[simp] theorem modRing_lowSamples (f : Ring → Ring) (s : State) : (modRing f s).lowSamples = s.lowSamples := id rfl
@[simp] theorem modRing_qps (f : Ring → Ring) (s : State) : (modRing f s).qps = s.qps := id rfl
@[simp] theorem modRing_heldOut (f : Ring → Ring) (s : State) : (modRing f s).heldOut = s.heldOut := id rfl
@[simp] theorem modRing_replicaN (f : Ring → Ring) (s : State) : (modRing f s).replicaN = s.replicaN := id rfl
@[simp] theorem modRing_replicaS (f : Ring → Ring) (s : State) : (modRing f s).replicaS = s.replicaS := id rfl
@[simp] theorem modRing_complexN (f : Ring → Ring) (s : State) : (modRing f s).complexN = s.complexN := id rfl
@[simp] theorem modRing_complexS (f : Ring → Ring) (s : State) : (modRing f s).complexS = s.complexS := id rfl
@[simp] theorem modRing_update (f : Ring → Ring) (s : State) : (modRing f s).update = s.update := id rfl
@[simp] theorem modRing_boot (f : Ring → Ring) (s : State) : (modRing f s).boot = s.boot := id rfl
@[simp] theorem modRing_restores (f : Ring → Ring) (s : State) : (modRing f s).restores = s.restores := id rfl
@[simp] theorem modRing_releasedAt (f : Ring → Ring) (s : State) : (modRing f s).releasedAt = s.releasedAt := id rfl
@[simp] theorem modRing_sensors (f : Ring → Ring) (s : State) : (modRing f s).sensors = s.sensors := id rfl
@[simp] theorem modRing_save (f : Ring → Ring) (s : State) : (modRing f s).save = s.save := id rfl
@[simp] theorem modRing_record (f : Ring → Ring) (s : State) : (modRing f s).record = s.record := id rfl
@[simp] theorem modRing_free (f : Ring → Ring) (s : State) : (modRing f s).free = s.free := id rfl
@[simp] theorem modRing_out (f : Ring → Ring) (s : State) : (modRing f s).out = s.out := id rfl
@[simp] theorem modRing_pending (f : Ring → Ring) (s : State) : (modRing f s).pending = s.pending := id rfl

/-! ### setRingPort -/
@[simp] theorem setRingPort_pins (i : Nat) (x : RingPort) (s : State) : (setRingPort i x s).pins = s.pins := id rfl
@[simp] theorem setRingPort_fuses (i : Nat) (x : RingPort) (s : State) : (setRingPort i x s).fuses = s.fuses := id rfl
@[simp] theorem setRingPort_phase (i : Nat) (x : RingPort) (s : State) : (setRingPort i x s).phase = s.phase := id rfl
@[simp] theorem setRingPort_timer (i : Nat) (x : RingPort) (s : State) : (setRingPort i x s).timer = s.timer := id rfl
@[simp] theorem setRingPort_timerFrac (i : Nat) (x : RingPort) (s : State) : (setRingPort i x s).timerFrac = s.timerFrac := id rfl
@[simp] theorem setRingPort_regs (i : Nat) (x : RingPort) (s : State) : (setRingPort i x s).regs = s.regs := id rfl
@[simp] theorem setRingPort_latched (i : Nat) (x : RingPort) (s : State) : (setRingPort i x s).latched = s.latched := id rfl
@[simp] theorem setRingPort_causes (i : Nat) (x : RingPort) (s : State) : (setRingPort i x s).causes = s.causes := id rfl
@[simp] theorem setRingPort_staleMid (i : Nat) (x : RingPort) (s : State) : (setRingPort i x s).staleMid = s.staleMid := id rfl
@[simp] theorem setRingPort_tiles (i : Nat) (x : RingPort) (s : State) : (setRingPort i x s).tiles = s.tiles := id rfl
@[simp] theorem setRingPort_sram (i : Nat) (x : RingPort) (s : State) : (setRingPort i x s).sram = s.sram := id rfl
@[simp] theorem setRingPort_sramPoison (i : Nat) (x : RingPort) (s : State) : (setRingPort i x s).sramPoison = s.sramPoison := id rfl
@[simp] theorem setRingPort_mesh (i : Nat) (x : RingPort) (s : State) : (setRingPort i x s).mesh = s.mesh := id rfl
@[simp] theorem setRingPort_rowBus (i : Nat) (x : RingPort) (s : State) : (setRingPort i x s).rowBus = s.rowBus := id rfl
@[simp] theorem setRingPort_scaleBus (i : Nat) (x : RingPort) (s : State) : (setRingPort i x s).scaleBus = s.scaleBus := id rfl
@[simp] theorem setRingPort_range (i : Nat) (x : RingPort) (s : State) : (setRingPort i x s).range = s.range := id rfl
@[simp] theorem setRingPort_zip (i : Nat) (x : RingPort) (s : State) : (setRingPort i x s).zip = s.zip := id rfl
@[simp] theorem setRingPort_packed (i : Nat) (x : RingPort) (s : State) : (setRingPort i x s).packed = s.packed := id rfl
@[simp] theorem setRingPort_bindings (i : Nat) (x : RingPort) (s : State) : (setRingPort i x s).bindings = s.bindings := id rfl
@[simp] theorem setRingPort_reqs (i : Nat) (x : RingPort) (s : State) : (setRingPort i x s).reqs = s.reqs := id rfl
@[simp] theorem setRingPort_chans (i : Nat) (x : RingPort) (s : State) : (setRingPort i x s).chans = s.chans := id rfl
@[simp] theorem setRingPort_serials (i : Nat) (x : RingPort) (s : State) : (setRingPort i x s).serials = s.serials := id rfl
@[simp] theorem setRingPort_handles (i : Nat) (x : RingPort) (s : State) : (setRingPort i x s).handles = s.handles := id rfl
@[simp] theorem setRingPort_versions (i : Nat) (x : RingPort) (s : State) : (setRingPort i x s).versions = s.versions := id rfl
@[simp] theorem setRingPort_rallies (i : Nat) (x : RingPort) (s : State) : (setRingPort i x s).rallies = s.rallies := id rfl
@[simp] theorem setRingPort_selects (i : Nat) (x : RingPort) (s : State) : (setRingPort i x s).selects = s.selects := id rfl
@[simp] theorem setRingPort_deferred (i : Nat) (x : RingPort) (s : State) : (setRingPort i x s).deferred = s.deferred := id rfl
@[simp] theorem setRingPort_ws (i : Nat) (x : RingPort) (s : State) : (setRingPort i x s).ws = s.ws := id rfl
@[simp] theorem setRingPort_mail (i : Nat) (x : RingPort) (s : State) : (setRingPort i x s).mail = s.mail := id rfl
@[simp] theorem setRingPort_hostFns (i : Nat) (x : RingPort) (s : State) : (setRingPort i x s).hostFns = s.hostFns := id rfl
@[simp] theorem setRingPort_badSlots (i : Nat) (x : RingPort) (s : State) : (setRingPort i x s).badSlots = s.badSlots := id rfl
@[simp] theorem setRingPort_parity (i : Nat) (x : RingPort) (s : State) : (setRingPort i x s).parity = s.parity := id rfl
@[simp] theorem setRingPort_powerN (i : Nat) (x : RingPort) (s : State) : (setRingPort i x s).powerN = s.powerN := id rfl
@[simp] theorem setRingPort_powerS (i : Nat) (x : RingPort) (s : State) : (setRingPort i x s).powerS = s.powerS := id rfl
@[simp] theorem setRingPort_votes (i : Nat) (x : RingPort) (s : State) : (setRingPort i x s).votes = s.votes := id rfl
@[simp] theorem setRingPort_samples (i : Nat) (x : RingPort) (s : State) : (setRingPort i x s).samples = s.samples := id rfl
@[simp] theorem setRingPort_lowSamples (i : Nat) (x : RingPort) (s : State) : (setRingPort i x s).lowSamples = s.lowSamples := id rfl
@[simp] theorem setRingPort_qps (i : Nat) (x : RingPort) (s : State) : (setRingPort i x s).qps = s.qps := id rfl
@[simp] theorem setRingPort_heldOut (i : Nat) (x : RingPort) (s : State) : (setRingPort i x s).heldOut = s.heldOut := id rfl
@[simp] theorem setRingPort_replicaN (i : Nat) (x : RingPort) (s : State) : (setRingPort i x s).replicaN = s.replicaN := id rfl
@[simp] theorem setRingPort_replicaS (i : Nat) (x : RingPort) (s : State) : (setRingPort i x s).replicaS = s.replicaS := id rfl
@[simp] theorem setRingPort_complexN (i : Nat) (x : RingPort) (s : State) : (setRingPort i x s).complexN = s.complexN := id rfl
@[simp] theorem setRingPort_complexS (i : Nat) (x : RingPort) (s : State) : (setRingPort i x s).complexS = s.complexS := id rfl
@[simp] theorem setRingPort_update (i : Nat) (x : RingPort) (s : State) : (setRingPort i x s).update = s.update := id rfl
@[simp] theorem setRingPort_boot (i : Nat) (x : RingPort) (s : State) : (setRingPort i x s).boot = s.boot := id rfl
@[simp] theorem setRingPort_restores (i : Nat) (x : RingPort) (s : State) : (setRingPort i x s).restores = s.restores := id rfl
@[simp] theorem setRingPort_releasedAt (i : Nat) (x : RingPort) (s : State) : (setRingPort i x s).releasedAt = s.releasedAt := id rfl
@[simp] theorem setRingPort_sensors (i : Nat) (x : RingPort) (s : State) : (setRingPort i x s).sensors = s.sensors := id rfl
@[simp] theorem setRingPort_save (i : Nat) (x : RingPort) (s : State) : (setRingPort i x s).save = s.save := id rfl
@[simp] theorem setRingPort_record (i : Nat) (x : RingPort) (s : State) : (setRingPort i x s).record = s.record := id rfl
@[simp] theorem setRingPort_free (i : Nat) (x : RingPort) (s : State) : (setRingPort i x s).free = s.free := id rfl
@[simp] theorem setRingPort_out (i : Nat) (x : RingPort) (s : State) : (setRingPort i x s).out = s.out := id rfl
@[simp] theorem setRingPort_pending (i : Nat) (x : RingPort) (s : State) : (setRingPort i x s).pending = s.pending := id rfl

/-! ### modRange -/
@[simp] theorem modRange_pins (f : Range → Range) (s : State) : (modRange f s).pins = s.pins := id rfl
@[simp] theorem modRange_fuses (f : Range → Range) (s : State) : (modRange f s).fuses = s.fuses := id rfl
@[simp] theorem modRange_phase (f : Range → Range) (s : State) : (modRange f s).phase = s.phase := id rfl
@[simp] theorem modRange_timer (f : Range → Range) (s : State) : (modRange f s).timer = s.timer := id rfl
@[simp] theorem modRange_timerFrac (f : Range → Range) (s : State) : (modRange f s).timerFrac = s.timerFrac := id rfl
@[simp] theorem modRange_regs (f : Range → Range) (s : State) : (modRange f s).regs = s.regs := id rfl
@[simp] theorem modRange_latched (f : Range → Range) (s : State) : (modRange f s).latched = s.latched := id rfl
@[simp] theorem modRange_causes (f : Range → Range) (s : State) : (modRange f s).causes = s.causes := id rfl
@[simp] theorem modRange_staleMid (f : Range → Range) (s : State) : (modRange f s).staleMid = s.staleMid := id rfl
@[simp] theorem modRange_tiles (f : Range → Range) (s : State) : (modRange f s).tiles = s.tiles := id rfl
@[simp] theorem modRange_sram (f : Range → Range) (s : State) : (modRange f s).sram = s.sram := id rfl
@[simp] theorem modRange_sramPoison (f : Range → Range) (s : State) : (modRange f s).sramPoison = s.sramPoison := id rfl
@[simp] theorem modRange_mesh (f : Range → Range) (s : State) : (modRange f s).mesh = s.mesh := id rfl
@[simp] theorem modRange_rowBus (f : Range → Range) (s : State) : (modRange f s).rowBus = s.rowBus := id rfl
@[simp] theorem modRange_scaleBus (f : Range → Range) (s : State) : (modRange f s).scaleBus = s.scaleBus := id rfl
@[simp] theorem modRange_zip (f : Range → Range) (s : State) : (modRange f s).zip = s.zip := id rfl
@[simp] theorem modRange_packed (f : Range → Range) (s : State) : (modRange f s).packed = s.packed := id rfl
@[simp] theorem modRange_bindings (f : Range → Range) (s : State) : (modRange f s).bindings = s.bindings := id rfl
@[simp] theorem modRange_reqs (f : Range → Range) (s : State) : (modRange f s).reqs = s.reqs := id rfl
@[simp] theorem modRange_chans (f : Range → Range) (s : State) : (modRange f s).chans = s.chans := id rfl
@[simp] theorem modRange_serials (f : Range → Range) (s : State) : (modRange f s).serials = s.serials := id rfl
@[simp] theorem modRange_handles (f : Range → Range) (s : State) : (modRange f s).handles = s.handles := id rfl
@[simp] theorem modRange_versions (f : Range → Range) (s : State) : (modRange f s).versions = s.versions := id rfl
@[simp] theorem modRange_rallies (f : Range → Range) (s : State) : (modRange f s).rallies = s.rallies := id rfl
@[simp] theorem modRange_selects (f : Range → Range) (s : State) : (modRange f s).selects = s.selects := id rfl
@[simp] theorem modRange_deferred (f : Range → Range) (s : State) : (modRange f s).deferred = s.deferred := id rfl
@[simp] theorem modRange_ws (f : Range → Range) (s : State) : (modRange f s).ws = s.ws := id rfl
@[simp] theorem modRange_mail (f : Range → Range) (s : State) : (modRange f s).mail = s.mail := id rfl
@[simp] theorem modRange_hostFns (f : Range → Range) (s : State) : (modRange f s).hostFns = s.hostFns := id rfl
@[simp] theorem modRange_badSlots (f : Range → Range) (s : State) : (modRange f s).badSlots = s.badSlots := id rfl
@[simp] theorem modRange_parity (f : Range → Range) (s : State) : (modRange f s).parity = s.parity := id rfl
@[simp] theorem modRange_powerN (f : Range → Range) (s : State) : (modRange f s).powerN = s.powerN := id rfl
@[simp] theorem modRange_powerS (f : Range → Range) (s : State) : (modRange f s).powerS = s.powerS := id rfl
@[simp] theorem modRange_votes (f : Range → Range) (s : State) : (modRange f s).votes = s.votes := id rfl
@[simp] theorem modRange_samples (f : Range → Range) (s : State) : (modRange f s).samples = s.samples := id rfl
@[simp] theorem modRange_lowSamples (f : Range → Range) (s : State) : (modRange f s).lowSamples = s.lowSamples := id rfl
@[simp] theorem modRange_ring (f : Range → Range) (s : State) : (modRange f s).ring = s.ring := id rfl
@[simp] theorem modRange_qps (f : Range → Range) (s : State) : (modRange f s).qps = s.qps := id rfl
@[simp] theorem modRange_heldOut (f : Range → Range) (s : State) : (modRange f s).heldOut = s.heldOut := id rfl
@[simp] theorem modRange_replicaN (f : Range → Range) (s : State) : (modRange f s).replicaN = s.replicaN := id rfl
@[simp] theorem modRange_replicaS (f : Range → Range) (s : State) : (modRange f s).replicaS = s.replicaS := id rfl
@[simp] theorem modRange_complexN (f : Range → Range) (s : State) : (modRange f s).complexN = s.complexN := id rfl
@[simp] theorem modRange_complexS (f : Range → Range) (s : State) : (modRange f s).complexS = s.complexS := id rfl
@[simp] theorem modRange_update (f : Range → Range) (s : State) : (modRange f s).update = s.update := id rfl
@[simp] theorem modRange_boot (f : Range → Range) (s : State) : (modRange f s).boot = s.boot := id rfl
@[simp] theorem modRange_restores (f : Range → Range) (s : State) : (modRange f s).restores = s.restores := id rfl
@[simp] theorem modRange_releasedAt (f : Range → Range) (s : State) : (modRange f s).releasedAt = s.releasedAt := id rfl
@[simp] theorem modRange_sensors (f : Range → Range) (s : State) : (modRange f s).sensors = s.sensors := id rfl
@[simp] theorem modRange_save (f : Range → Range) (s : State) : (modRange f s).save = s.save := id rfl
@[simp] theorem modRange_record (f : Range → Range) (s : State) : (modRange f s).record = s.record := id rfl
@[simp] theorem modRange_free (f : Range → Range) (s : State) : (modRange f s).free = s.free := id rfl
@[simp] theorem modRange_out (f : Range → Range) (s : State) : (modRange f s).out = s.out := id rfl
@[simp] theorem modRange_pending (f : Range → Range) (s : State) : (modRange f s).pending = s.pending := id rfl

/-! ### setHome -/
@[simp] theorem setHome_pins (n : Nat) (h : Home) (s : State) : (setHome n h s).pins = s.pins := id rfl
@[simp] theorem setHome_fuses (n : Nat) (h : Home) (s : State) : (setHome n h s).fuses = s.fuses := id rfl
@[simp] theorem setHome_phase (n : Nat) (h : Home) (s : State) : (setHome n h s).phase = s.phase := id rfl
@[simp] theorem setHome_timer (n : Nat) (h : Home) (s : State) : (setHome n h s).timer = s.timer := id rfl
@[simp] theorem setHome_timerFrac (n : Nat) (h : Home) (s : State) : (setHome n h s).timerFrac = s.timerFrac := id rfl
@[simp] theorem setHome_regs (n : Nat) (h : Home) (s : State) : (setHome n h s).regs = s.regs := id rfl
@[simp] theorem setHome_latched (n : Nat) (h : Home) (s : State) : (setHome n h s).latched = s.latched := id rfl
@[simp] theorem setHome_causes (n : Nat) (h : Home) (s : State) : (setHome n h s).causes = s.causes := id rfl
@[simp] theorem setHome_staleMid (n : Nat) (h : Home) (s : State) : (setHome n h s).staleMid = s.staleMid := id rfl
@[simp] theorem setHome_tiles (n : Nat) (h : Home) (s : State) : (setHome n h s).tiles = s.tiles := id rfl
@[simp] theorem setHome_sram (n : Nat) (h : Home) (s : State) : (setHome n h s).sram = s.sram := id rfl
@[simp] theorem setHome_sramPoison (n : Nat) (h : Home) (s : State) : (setHome n h s).sramPoison = s.sramPoison := id rfl
@[simp] theorem setHome_mesh (n : Nat) (h : Home) (s : State) : (setHome n h s).mesh = s.mesh := id rfl
@[simp] theorem setHome_rowBus (n : Nat) (h : Home) (s : State) : (setHome n h s).rowBus = s.rowBus := id rfl
@[simp] theorem setHome_scaleBus (n : Nat) (h : Home) (s : State) : (setHome n h s).scaleBus = s.scaleBus := id rfl
@[simp] theorem setHome_zip (n : Nat) (h : Home) (s : State) : (setHome n h s).zip = s.zip := id rfl
@[simp] theorem setHome_packed (n : Nat) (h : Home) (s : State) : (setHome n h s).packed = s.packed := id rfl
@[simp] theorem setHome_bindings (n : Nat) (h : Home) (s : State) : (setHome n h s).bindings = s.bindings := id rfl
@[simp] theorem setHome_reqs (n : Nat) (h : Home) (s : State) : (setHome n h s).reqs = s.reqs := id rfl
@[simp] theorem setHome_chans (n : Nat) (h : Home) (s : State) : (setHome n h s).chans = s.chans := id rfl
@[simp] theorem setHome_serials (n : Nat) (h : Home) (s : State) : (setHome n h s).serials = s.serials := id rfl
@[simp] theorem setHome_handles (n : Nat) (h : Home) (s : State) : (setHome n h s).handles = s.handles := id rfl
@[simp] theorem setHome_versions (n : Nat) (h : Home) (s : State) : (setHome n h s).versions = s.versions := id rfl
@[simp] theorem setHome_rallies (n : Nat) (h : Home) (s : State) : (setHome n h s).rallies = s.rallies := id rfl
@[simp] theorem setHome_selects (n : Nat) (h : Home) (s : State) : (setHome n h s).selects = s.selects := id rfl
@[simp] theorem setHome_deferred (n : Nat) (h : Home) (s : State) : (setHome n h s).deferred = s.deferred := id rfl
@[simp] theorem setHome_ws (n : Nat) (h : Home) (s : State) : (setHome n h s).ws = s.ws := id rfl
@[simp] theorem setHome_mail (n : Nat) (h : Home) (s : State) : (setHome n h s).mail = s.mail := id rfl
@[simp] theorem setHome_hostFns (n : Nat) (h : Home) (s : State) : (setHome n h s).hostFns = s.hostFns := id rfl
@[simp] theorem setHome_badSlots (n : Nat) (h : Home) (s : State) : (setHome n h s).badSlots = s.badSlots := id rfl
@[simp] theorem setHome_parity (n : Nat) (h : Home) (s : State) : (setHome n h s).parity = s.parity := id rfl
@[simp] theorem setHome_powerN (n : Nat) (h : Home) (s : State) : (setHome n h s).powerN = s.powerN := id rfl
@[simp] theorem setHome_powerS (n : Nat) (h : Home) (s : State) : (setHome n h s).powerS = s.powerS := id rfl
@[simp] theorem setHome_votes (n : Nat) (h : Home) (s : State) : (setHome n h s).votes = s.votes := id rfl
@[simp] theorem setHome_samples (n : Nat) (h : Home) (s : State) : (setHome n h s).samples = s.samples := id rfl
@[simp] theorem setHome_lowSamples (n : Nat) (h : Home) (s : State) : (setHome n h s).lowSamples = s.lowSamples := id rfl
@[simp] theorem setHome_ring (n : Nat) (h : Home) (s : State) : (setHome n h s).ring = s.ring := id rfl
@[simp] theorem setHome_qps (n : Nat) (h : Home) (s : State) : (setHome n h s).qps = s.qps := id rfl
@[simp] theorem setHome_heldOut (n : Nat) (h : Home) (s : State) : (setHome n h s).heldOut = s.heldOut := id rfl
@[simp] theorem setHome_replicaN (n : Nat) (h : Home) (s : State) : (setHome n h s).replicaN = s.replicaN := id rfl
@[simp] theorem setHome_replicaS (n : Nat) (h : Home) (s : State) : (setHome n h s).replicaS = s.replicaS := id rfl
@[simp] theorem setHome_complexN (n : Nat) (h : Home) (s : State) : (setHome n h s).complexN = s.complexN := id rfl
@[simp] theorem setHome_complexS (n : Nat) (h : Home) (s : State) : (setHome n h s).complexS = s.complexS := id rfl
@[simp] theorem setHome_update (n : Nat) (h : Home) (s : State) : (setHome n h s).update = s.update := id rfl
@[simp] theorem setHome_boot (n : Nat) (h : Home) (s : State) : (setHome n h s).boot = s.boot := id rfl
@[simp] theorem setHome_restores (n : Nat) (h : Home) (s : State) : (setHome n h s).restores = s.restores := id rfl
@[simp] theorem setHome_releasedAt (n : Nat) (h : Home) (s : State) : (setHome n h s).releasedAt = s.releasedAt := id rfl
@[simp] theorem setHome_sensors (n : Nat) (h : Home) (s : State) : (setHome n h s).sensors = s.sensors := id rfl
@[simp] theorem setHome_save (n : Nat) (h : Home) (s : State) : (setHome n h s).save = s.save := id rfl
@[simp] theorem setHome_record (n : Nat) (h : Home) (s : State) : (setHome n h s).record = s.record := id rfl
@[simp] theorem setHome_free (n : Nat) (h : Home) (s : State) : (setHome n h s).free = s.free := id rfl
@[simp] theorem setHome_out (n : Nat) (h : Home) (s : State) : (setHome n h s).out = s.out := id rfl
@[simp] theorem setHome_pending (n : Nat) (h : Home) (s : State) : (setHome n h s).pending = s.pending := id rfl

/-! ### modZip -/
@[simp] theorem modZip_pins (f : Zip → Zip) (s : State) : (modZip f s).pins = s.pins := id rfl
@[simp] theorem modZip_fuses (f : Zip → Zip) (s : State) : (modZip f s).fuses = s.fuses := id rfl
@[simp] theorem modZip_phase (f : Zip → Zip) (s : State) : (modZip f s).phase = s.phase := id rfl
@[simp] theorem modZip_timer (f : Zip → Zip) (s : State) : (modZip f s).timer = s.timer := id rfl
@[simp] theorem modZip_timerFrac (f : Zip → Zip) (s : State) : (modZip f s).timerFrac = s.timerFrac := id rfl
@[simp] theorem modZip_regs (f : Zip → Zip) (s : State) : (modZip f s).regs = s.regs := id rfl
@[simp] theorem modZip_latched (f : Zip → Zip) (s : State) : (modZip f s).latched = s.latched := id rfl
@[simp] theorem modZip_causes (f : Zip → Zip) (s : State) : (modZip f s).causes = s.causes := id rfl
@[simp] theorem modZip_staleMid (f : Zip → Zip) (s : State) : (modZip f s).staleMid = s.staleMid := id rfl
@[simp] theorem modZip_tiles (f : Zip → Zip) (s : State) : (modZip f s).tiles = s.tiles := id rfl
@[simp] theorem modZip_sram (f : Zip → Zip) (s : State) : (modZip f s).sram = s.sram := id rfl
@[simp] theorem modZip_sramPoison (f : Zip → Zip) (s : State) : (modZip f s).sramPoison = s.sramPoison := id rfl
@[simp] theorem modZip_mesh (f : Zip → Zip) (s : State) : (modZip f s).mesh = s.mesh := id rfl
@[simp] theorem modZip_rowBus (f : Zip → Zip) (s : State) : (modZip f s).rowBus = s.rowBus := id rfl
@[simp] theorem modZip_scaleBus (f : Zip → Zip) (s : State) : (modZip f s).scaleBus = s.scaleBus := id rfl
@[simp] theorem modZip_range (f : Zip → Zip) (s : State) : (modZip f s).range = s.range := id rfl
@[simp] theorem modZip_packed (f : Zip → Zip) (s : State) : (modZip f s).packed = s.packed := id rfl
@[simp] theorem modZip_bindings (f : Zip → Zip) (s : State) : (modZip f s).bindings = s.bindings := id rfl
@[simp] theorem modZip_reqs (f : Zip → Zip) (s : State) : (modZip f s).reqs = s.reqs := id rfl
@[simp] theorem modZip_chans (f : Zip → Zip) (s : State) : (modZip f s).chans = s.chans := id rfl
@[simp] theorem modZip_serials (f : Zip → Zip) (s : State) : (modZip f s).serials = s.serials := id rfl
@[simp] theorem modZip_handles (f : Zip → Zip) (s : State) : (modZip f s).handles = s.handles := id rfl
@[simp] theorem modZip_versions (f : Zip → Zip) (s : State) : (modZip f s).versions = s.versions := id rfl
@[simp] theorem modZip_rallies (f : Zip → Zip) (s : State) : (modZip f s).rallies = s.rallies := id rfl
@[simp] theorem modZip_selects (f : Zip → Zip) (s : State) : (modZip f s).selects = s.selects := id rfl
@[simp] theorem modZip_deferred (f : Zip → Zip) (s : State) : (modZip f s).deferred = s.deferred := id rfl
@[simp] theorem modZip_ws (f : Zip → Zip) (s : State) : (modZip f s).ws = s.ws := id rfl
@[simp] theorem modZip_mail (f : Zip → Zip) (s : State) : (modZip f s).mail = s.mail := id rfl
@[simp] theorem modZip_hostFns (f : Zip → Zip) (s : State) : (modZip f s).hostFns = s.hostFns := id rfl
@[simp] theorem modZip_badSlots (f : Zip → Zip) (s : State) : (modZip f s).badSlots = s.badSlots := id rfl
@[simp] theorem modZip_parity (f : Zip → Zip) (s : State) : (modZip f s).parity = s.parity := id rfl
@[simp] theorem modZip_powerN (f : Zip → Zip) (s : State) : (modZip f s).powerN = s.powerN := id rfl
@[simp] theorem modZip_powerS (f : Zip → Zip) (s : State) : (modZip f s).powerS = s.powerS := id rfl
@[simp] theorem modZip_votes (f : Zip → Zip) (s : State) : (modZip f s).votes = s.votes := id rfl
@[simp] theorem modZip_samples (f : Zip → Zip) (s : State) : (modZip f s).samples = s.samples := id rfl
@[simp] theorem modZip_lowSamples (f : Zip → Zip) (s : State) : (modZip f s).lowSamples = s.lowSamples := id rfl
@[simp] theorem modZip_ring (f : Zip → Zip) (s : State) : (modZip f s).ring = s.ring := id rfl
@[simp] theorem modZip_qps (f : Zip → Zip) (s : State) : (modZip f s).qps = s.qps := id rfl
@[simp] theorem modZip_heldOut (f : Zip → Zip) (s : State) : (modZip f s).heldOut = s.heldOut := id rfl
@[simp] theorem modZip_replicaN (f : Zip → Zip) (s : State) : (modZip f s).replicaN = s.replicaN := id rfl
@[simp] theorem modZip_replicaS (f : Zip → Zip) (s : State) : (modZip f s).replicaS = s.replicaS := id rfl
@[simp] theorem modZip_complexN (f : Zip → Zip) (s : State) : (modZip f s).complexN = s.complexN := id rfl
@[simp] theorem modZip_complexS (f : Zip → Zip) (s : State) : (modZip f s).complexS = s.complexS := id rfl
@[simp] theorem modZip_update (f : Zip → Zip) (s : State) : (modZip f s).update = s.update := id rfl
@[simp] theorem modZip_boot (f : Zip → Zip) (s : State) : (modZip f s).boot = s.boot := id rfl
@[simp] theorem modZip_restores (f : Zip → Zip) (s : State) : (modZip f s).restores = s.restores := id rfl
@[simp] theorem modZip_releasedAt (f : Zip → Zip) (s : State) : (modZip f s).releasedAt = s.releasedAt := id rfl
@[simp] theorem modZip_sensors (f : Zip → Zip) (s : State) : (modZip f s).sensors = s.sensors := id rfl
@[simp] theorem modZip_save (f : Zip → Zip) (s : State) : (modZip f s).save = s.save := id rfl
@[simp] theorem modZip_record (f : Zip → Zip) (s : State) : (modZip f s).record = s.record := id rfl
@[simp] theorem modZip_free (f : Zip → Zip) (s : State) : (modZip f s).free = s.free := id rfl
@[simp] theorem modZip_out (f : Zip → Zip) (s : State) : (modZip f s).out = s.out := id rfl
@[simp] theorem modZip_pending (f : Zip → Zip) (s : State) : (modZip f s).pending = s.pending := id rfl

/-! ### setReq -/
@[simp] theorem setReq_pins (r : Req) (s : State) : (setReq r s).pins = s.pins := id rfl
@[simp] theorem setReq_fuses (r : Req) (s : State) : (setReq r s).fuses = s.fuses := id rfl
@[simp] theorem setReq_phase (r : Req) (s : State) : (setReq r s).phase = s.phase := id rfl
@[simp] theorem setReq_timer (r : Req) (s : State) : (setReq r s).timer = s.timer := id rfl
@[simp] theorem setReq_timerFrac (r : Req) (s : State) : (setReq r s).timerFrac = s.timerFrac := id rfl
@[simp] theorem setReq_regs (r : Req) (s : State) : (setReq r s).regs = s.regs := id rfl
@[simp] theorem setReq_latched (r : Req) (s : State) : (setReq r s).latched = s.latched := id rfl
@[simp] theorem setReq_causes (r : Req) (s : State) : (setReq r s).causes = s.causes := id rfl
@[simp] theorem setReq_staleMid (r : Req) (s : State) : (setReq r s).staleMid = s.staleMid := id rfl
@[simp] theorem setReq_tiles (r : Req) (s : State) : (setReq r s).tiles = s.tiles := id rfl
@[simp] theorem setReq_sram (r : Req) (s : State) : (setReq r s).sram = s.sram := id rfl
@[simp] theorem setReq_sramPoison (r : Req) (s : State) : (setReq r s).sramPoison = s.sramPoison := id rfl
@[simp] theorem setReq_mesh (r : Req) (s : State) : (setReq r s).mesh = s.mesh := id rfl
@[simp] theorem setReq_rowBus (r : Req) (s : State) : (setReq r s).rowBus = s.rowBus := id rfl
@[simp] theorem setReq_scaleBus (r : Req) (s : State) : (setReq r s).scaleBus = s.scaleBus := id rfl
@[simp] theorem setReq_range (r : Req) (s : State) : (setReq r s).range = s.range := id rfl
@[simp] theorem setReq_zip (r : Req) (s : State) : (setReq r s).zip = s.zip := id rfl
@[simp] theorem setReq_packed (r : Req) (s : State) : (setReq r s).packed = s.packed := id rfl
@[simp] theorem setReq_bindings (r : Req) (s : State) : (setReq r s).bindings = s.bindings := id rfl
@[simp] theorem setReq_chans (r : Req) (s : State) : (setReq r s).chans = s.chans := id rfl
@[simp] theorem setReq_serials (r : Req) (s : State) : (setReq r s).serials = s.serials := id rfl
@[simp] theorem setReq_handles (r : Req) (s : State) : (setReq r s).handles = s.handles := id rfl
@[simp] theorem setReq_versions (r : Req) (s : State) : (setReq r s).versions = s.versions := id rfl
@[simp] theorem setReq_rallies (r : Req) (s : State) : (setReq r s).rallies = s.rallies := id rfl
@[simp] theorem setReq_selects (r : Req) (s : State) : (setReq r s).selects = s.selects := id rfl
@[simp] theorem setReq_deferred (r : Req) (s : State) : (setReq r s).deferred = s.deferred := id rfl
@[simp] theorem setReq_ws (r : Req) (s : State) : (setReq r s).ws = s.ws := id rfl
@[simp] theorem setReq_mail (r : Req) (s : State) : (setReq r s).mail = s.mail := id rfl
@[simp] theorem setReq_hostFns (r : Req) (s : State) : (setReq r s).hostFns = s.hostFns := id rfl
@[simp] theorem setReq_badSlots (r : Req) (s : State) : (setReq r s).badSlots = s.badSlots := id rfl
@[simp] theorem setReq_parity (r : Req) (s : State) : (setReq r s).parity = s.parity := id rfl
@[simp] theorem setReq_powerN (r : Req) (s : State) : (setReq r s).powerN = s.powerN := id rfl
@[simp] theorem setReq_powerS (r : Req) (s : State) : (setReq r s).powerS = s.powerS := id rfl
@[simp] theorem setReq_votes (r : Req) (s : State) : (setReq r s).votes = s.votes := id rfl
@[simp] theorem setReq_samples (r : Req) (s : State) : (setReq r s).samples = s.samples := id rfl
@[simp] theorem setReq_lowSamples (r : Req) (s : State) : (setReq r s).lowSamples = s.lowSamples := id rfl
@[simp] theorem setReq_ring (r : Req) (s : State) : (setReq r s).ring = s.ring := id rfl
@[simp] theorem setReq_qps (r : Req) (s : State) : (setReq r s).qps = s.qps := id rfl
@[simp] theorem setReq_heldOut (r : Req) (s : State) : (setReq r s).heldOut = s.heldOut := id rfl
@[simp] theorem setReq_replicaN (r : Req) (s : State) : (setReq r s).replicaN = s.replicaN := id rfl
@[simp] theorem setReq_replicaS (r : Req) (s : State) : (setReq r s).replicaS = s.replicaS := id rfl
@[simp] theorem setReq_complexN (r : Req) (s : State) : (setReq r s).complexN = s.complexN := id rfl
@[simp] theorem setReq_complexS (r : Req) (s : State) : (setReq r s).complexS = s.complexS := id rfl
@[simp] theorem setReq_update (r : Req) (s : State) : (setReq r s).update = s.update := id rfl
@[simp] theorem setReq_boot (r : Req) (s : State) : (setReq r s).boot = s.boot := id rfl
@[simp] theorem setReq_restores (r : Req) (s : State) : (setReq r s).restores = s.restores := id rfl
@[simp] theorem setReq_releasedAt (r : Req) (s : State) : (setReq r s).releasedAt = s.releasedAt := id rfl
@[simp] theorem setReq_sensors (r : Req) (s : State) : (setReq r s).sensors = s.sensors := id rfl
@[simp] theorem setReq_save (r : Req) (s : State) : (setReq r s).save = s.save := id rfl
@[simp] theorem setReq_record (r : Req) (s : State) : (setReq r s).record = s.record := id rfl
@[simp] theorem setReq_free (r : Req) (s : State) : (setReq r s).free = s.free := id rfl
@[simp] theorem setReq_out (r : Req) (s : State) : (setReq r s).out = s.out := id rfl
@[simp] theorem setReq_pending (r : Req) (s : State) : (setReq r s).pending = s.pending := id rfl

/-! ### dropReq -/
@[simp] theorem dropReq_pins (r : Req) (s : State) : (dropReq r s).pins = s.pins := id rfl
@[simp] theorem dropReq_fuses (r : Req) (s : State) : (dropReq r s).fuses = s.fuses := id rfl
@[simp] theorem dropReq_phase (r : Req) (s : State) : (dropReq r s).phase = s.phase := id rfl
@[simp] theorem dropReq_timer (r : Req) (s : State) : (dropReq r s).timer = s.timer := id rfl
@[simp] theorem dropReq_timerFrac (r : Req) (s : State) : (dropReq r s).timerFrac = s.timerFrac := id rfl
@[simp] theorem dropReq_regs (r : Req) (s : State) : (dropReq r s).regs = s.regs := id rfl
@[simp] theorem dropReq_latched (r : Req) (s : State) : (dropReq r s).latched = s.latched := id rfl
@[simp] theorem dropReq_causes (r : Req) (s : State) : (dropReq r s).causes = s.causes := id rfl
@[simp] theorem dropReq_staleMid (r : Req) (s : State) : (dropReq r s).staleMid = s.staleMid := id rfl
@[simp] theorem dropReq_tiles (r : Req) (s : State) : (dropReq r s).tiles = s.tiles := id rfl
@[simp] theorem dropReq_sram (r : Req) (s : State) : (dropReq r s).sram = s.sram := id rfl
@[simp] theorem dropReq_sramPoison (r : Req) (s : State) : (dropReq r s).sramPoison = s.sramPoison := id rfl
@[simp] theorem dropReq_mesh (r : Req) (s : State) : (dropReq r s).mesh = s.mesh := id rfl
@[simp] theorem dropReq_rowBus (r : Req) (s : State) : (dropReq r s).rowBus = s.rowBus := id rfl
@[simp] theorem dropReq_scaleBus (r : Req) (s : State) : (dropReq r s).scaleBus = s.scaleBus := id rfl
@[simp] theorem dropReq_range (r : Req) (s : State) : (dropReq r s).range = s.range := id rfl
@[simp] theorem dropReq_zip (r : Req) (s : State) : (dropReq r s).zip = s.zip := id rfl
@[simp] theorem dropReq_packed (r : Req) (s : State) : (dropReq r s).packed = s.packed := id rfl
@[simp] theorem dropReq_bindings (r : Req) (s : State) : (dropReq r s).bindings = s.bindings := id rfl
@[simp] theorem dropReq_chans (r : Req) (s : State) : (dropReq r s).chans = s.chans := id rfl
@[simp] theorem dropReq_serials (r : Req) (s : State) : (dropReq r s).serials = s.serials := id rfl
@[simp] theorem dropReq_handles (r : Req) (s : State) : (dropReq r s).handles = s.handles := id rfl
@[simp] theorem dropReq_versions (r : Req) (s : State) : (dropReq r s).versions = s.versions := id rfl
@[simp] theorem dropReq_rallies (r : Req) (s : State) : (dropReq r s).rallies = s.rallies := id rfl
@[simp] theorem dropReq_selects (r : Req) (s : State) : (dropReq r s).selects = s.selects := id rfl
@[simp] theorem dropReq_deferred (r : Req) (s : State) : (dropReq r s).deferred = s.deferred := id rfl
@[simp] theorem dropReq_ws (r : Req) (s : State) : (dropReq r s).ws = s.ws := id rfl
@[simp] theorem dropReq_mail (r : Req) (s : State) : (dropReq r s).mail = s.mail := id rfl
@[simp] theorem dropReq_hostFns (r : Req) (s : State) : (dropReq r s).hostFns = s.hostFns := id rfl
@[simp] theorem dropReq_badSlots (r : Req) (s : State) : (dropReq r s).badSlots = s.badSlots := id rfl
@[simp] theorem dropReq_parity (r : Req) (s : State) : (dropReq r s).parity = s.parity := id rfl
@[simp] theorem dropReq_powerN (r : Req) (s : State) : (dropReq r s).powerN = s.powerN := id rfl
@[simp] theorem dropReq_powerS (r : Req) (s : State) : (dropReq r s).powerS = s.powerS := id rfl
@[simp] theorem dropReq_votes (r : Req) (s : State) : (dropReq r s).votes = s.votes := id rfl
@[simp] theorem dropReq_samples (r : Req) (s : State) : (dropReq r s).samples = s.samples := id rfl
@[simp] theorem dropReq_lowSamples (r : Req) (s : State) : (dropReq r s).lowSamples = s.lowSamples := id rfl
@[simp] theorem dropReq_ring (r : Req) (s : State) : (dropReq r s).ring = s.ring := id rfl
@[simp] theorem dropReq_qps (r : Req) (s : State) : (dropReq r s).qps = s.qps := id rfl
@[simp] theorem dropReq_heldOut (r : Req) (s : State) : (dropReq r s).heldOut = s.heldOut := id rfl
@[simp] theorem dropReq_replicaN (r : Req) (s : State) : (dropReq r s).replicaN = s.replicaN := id rfl
@[simp] theorem dropReq_replicaS (r : Req) (s : State) : (dropReq r s).replicaS = s.replicaS := id rfl
@[simp] theorem dropReq_complexN (r : Req) (s : State) : (dropReq r s).complexN = s.complexN := id rfl
@[simp] theorem dropReq_complexS (r : Req) (s : State) : (dropReq r s).complexS = s.complexS := id rfl
@[simp] theorem dropReq_update (r : Req) (s : State) : (dropReq r s).update = s.update := id rfl
@[simp] theorem dropReq_boot (r : Req) (s : State) : (dropReq r s).boot = s.boot := id rfl
@[simp] theorem dropReq_restores (r : Req) (s : State) : (dropReq r s).restores = s.restores := id rfl
@[simp] theorem dropReq_releasedAt (r : Req) (s : State) : (dropReq r s).releasedAt = s.releasedAt := id rfl
@[simp] theorem dropReq_sensors (r : Req) (s : State) : (dropReq r s).sensors = s.sensors := id rfl
@[simp] theorem dropReq_save (r : Req) (s : State) : (dropReq r s).save = s.save := id rfl
@[simp] theorem dropReq_record (r : Req) (s : State) : (dropReq r s).record = s.record := id rfl
@[simp] theorem dropReq_free (r : Req) (s : State) : (dropReq r s).free = s.free := id rfl
@[simp] theorem dropReq_out (r : Req) (s : State) : (dropReq r s).out = s.out := id rfl
@[simp] theorem dropReq_pending (r : Req) (s : State) : (dropReq r s).pending = s.pending := id rfl

/-! ### setChan -/
@[simp] theorem setChan_pins (c : Nat) (x : ChanSt) (s : State) : (setChan c x s).pins = s.pins := id rfl
@[simp] theorem setChan_fuses (c : Nat) (x : ChanSt) (s : State) : (setChan c x s).fuses = s.fuses := id rfl
@[simp] theorem setChan_phase (c : Nat) (x : ChanSt) (s : State) : (setChan c x s).phase = s.phase := id rfl
@[simp] theorem setChan_timer (c : Nat) (x : ChanSt) (s : State) : (setChan c x s).timer = s.timer := id rfl
@[simp] theorem setChan_timerFrac (c : Nat) (x : ChanSt) (s : State) : (setChan c x s).timerFrac = s.timerFrac := id rfl
@[simp] theorem setChan_regs (c : Nat) (x : ChanSt) (s : State) : (setChan c x s).regs = s.regs := id rfl
@[simp] theorem setChan_latched (c : Nat) (x : ChanSt) (s : State) : (setChan c x s).latched = s.latched := id rfl
@[simp] theorem setChan_causes (c : Nat) (x : ChanSt) (s : State) : (setChan c x s).causes = s.causes := id rfl
@[simp] theorem setChan_staleMid (c : Nat) (x : ChanSt) (s : State) : (setChan c x s).staleMid = s.staleMid := id rfl
@[simp] theorem setChan_tiles (c : Nat) (x : ChanSt) (s : State) : (setChan c x s).tiles = s.tiles := id rfl
@[simp] theorem setChan_sram (c : Nat) (x : ChanSt) (s : State) : (setChan c x s).sram = s.sram := id rfl
@[simp] theorem setChan_sramPoison (c : Nat) (x : ChanSt) (s : State) : (setChan c x s).sramPoison = s.sramPoison := id rfl
@[simp] theorem setChan_mesh (c : Nat) (x : ChanSt) (s : State) : (setChan c x s).mesh = s.mesh := id rfl
@[simp] theorem setChan_rowBus (c : Nat) (x : ChanSt) (s : State) : (setChan c x s).rowBus = s.rowBus := id rfl
@[simp] theorem setChan_scaleBus (c : Nat) (x : ChanSt) (s : State) : (setChan c x s).scaleBus = s.scaleBus := id rfl
@[simp] theorem setChan_range (c : Nat) (x : ChanSt) (s : State) : (setChan c x s).range = s.range := id rfl
@[simp] theorem setChan_zip (c : Nat) (x : ChanSt) (s : State) : (setChan c x s).zip = s.zip := id rfl
@[simp] theorem setChan_packed (c : Nat) (x : ChanSt) (s : State) : (setChan c x s).packed = s.packed := id rfl
@[simp] theorem setChan_bindings (c : Nat) (x : ChanSt) (s : State) : (setChan c x s).bindings = s.bindings := id rfl
@[simp] theorem setChan_reqs (c : Nat) (x : ChanSt) (s : State) : (setChan c x s).reqs = s.reqs := id rfl
@[simp] theorem setChan_serials (c : Nat) (x : ChanSt) (s : State) : (setChan c x s).serials = s.serials := id rfl
@[simp] theorem setChan_handles (c : Nat) (x : ChanSt) (s : State) : (setChan c x s).handles = s.handles := id rfl
@[simp] theorem setChan_versions (c : Nat) (x : ChanSt) (s : State) : (setChan c x s).versions = s.versions := id rfl
@[simp] theorem setChan_rallies (c : Nat) (x : ChanSt) (s : State) : (setChan c x s).rallies = s.rallies := id rfl
@[simp] theorem setChan_selects (c : Nat) (x : ChanSt) (s : State) : (setChan c x s).selects = s.selects := id rfl
@[simp] theorem setChan_deferred (c : Nat) (x : ChanSt) (s : State) : (setChan c x s).deferred = s.deferred := id rfl
@[simp] theorem setChan_ws (c : Nat) (x : ChanSt) (s : State) : (setChan c x s).ws = s.ws := id rfl
@[simp] theorem setChan_mail (c : Nat) (x : ChanSt) (s : State) : (setChan c x s).mail = s.mail := id rfl
@[simp] theorem setChan_hostFns (c : Nat) (x : ChanSt) (s : State) : (setChan c x s).hostFns = s.hostFns := id rfl
@[simp] theorem setChan_badSlots (c : Nat) (x : ChanSt) (s : State) : (setChan c x s).badSlots = s.badSlots := id rfl
@[simp] theorem setChan_parity (c : Nat) (x : ChanSt) (s : State) : (setChan c x s).parity = s.parity := id rfl
@[simp] theorem setChan_powerN (c : Nat) (x : ChanSt) (s : State) : (setChan c x s).powerN = s.powerN := id rfl
@[simp] theorem setChan_powerS (c : Nat) (x : ChanSt) (s : State) : (setChan c x s).powerS = s.powerS := id rfl
@[simp] theorem setChan_votes (c : Nat) (x : ChanSt) (s : State) : (setChan c x s).votes = s.votes := id rfl
@[simp] theorem setChan_samples (c : Nat) (x : ChanSt) (s : State) : (setChan c x s).samples = s.samples := id rfl
@[simp] theorem setChan_lowSamples (c : Nat) (x : ChanSt) (s : State) : (setChan c x s).lowSamples = s.lowSamples := id rfl
@[simp] theorem setChan_ring (c : Nat) (x : ChanSt) (s : State) : (setChan c x s).ring = s.ring := id rfl
@[simp] theorem setChan_qps (c : Nat) (x : ChanSt) (s : State) : (setChan c x s).qps = s.qps := id rfl
@[simp] theorem setChan_heldOut (c : Nat) (x : ChanSt) (s : State) : (setChan c x s).heldOut = s.heldOut := id rfl
@[simp] theorem setChan_replicaN (c : Nat) (x : ChanSt) (s : State) : (setChan c x s).replicaN = s.replicaN := id rfl
@[simp] theorem setChan_replicaS (c : Nat) (x : ChanSt) (s : State) : (setChan c x s).replicaS = s.replicaS := id rfl
@[simp] theorem setChan_complexN (c : Nat) (x : ChanSt) (s : State) : (setChan c x s).complexN = s.complexN := id rfl
@[simp] theorem setChan_complexS (c : Nat) (x : ChanSt) (s : State) : (setChan c x s).complexS = s.complexS := id rfl
@[simp] theorem setChan_update (c : Nat) (x : ChanSt) (s : State) : (setChan c x s).update = s.update := id rfl
@[simp] theorem setChan_boot (c : Nat) (x : ChanSt) (s : State) : (setChan c x s).boot = s.boot := id rfl
@[simp] theorem setChan_restores (c : Nat) (x : ChanSt) (s : State) : (setChan c x s).restores = s.restores := id rfl
@[simp] theorem setChan_releasedAt (c : Nat) (x : ChanSt) (s : State) : (setChan c x s).releasedAt = s.releasedAt := id rfl
@[simp] theorem setChan_sensors (c : Nat) (x : ChanSt) (s : State) : (setChan c x s).sensors = s.sensors := id rfl
@[simp] theorem setChan_save (c : Nat) (x : ChanSt) (s : State) : (setChan c x s).save = s.save := id rfl
@[simp] theorem setChan_record (c : Nat) (x : ChanSt) (s : State) : (setChan c x s).record = s.record := id rfl
@[simp] theorem setChan_free (c : Nat) (x : ChanSt) (s : State) : (setChan c x s).free = s.free := id rfl
@[simp] theorem setChan_out (c : Nat) (x : ChanSt) (s : State) : (setChan c x s).out = s.out := id rfl
@[simp] theorem setChan_pending (c : Nat) (x : ChanSt) (s : State) : (setChan c x s).pending = s.pending := id rfl

/-! ### setHandle -/
@[simp] theorem setHandle_pins (x : HandleSt) (s : State) : (setHandle x s).pins = s.pins := id rfl
@[simp] theorem setHandle_fuses (x : HandleSt) (s : State) : (setHandle x s).fuses = s.fuses := id rfl
@[simp] theorem setHandle_phase (x : HandleSt) (s : State) : (setHandle x s).phase = s.phase := id rfl
@[simp] theorem setHandle_timer (x : HandleSt) (s : State) : (setHandle x s).timer = s.timer := id rfl
@[simp] theorem setHandle_timerFrac (x : HandleSt) (s : State) : (setHandle x s).timerFrac = s.timerFrac := id rfl
@[simp] theorem setHandle_regs (x : HandleSt) (s : State) : (setHandle x s).regs = s.regs := id rfl
@[simp] theorem setHandle_latched (x : HandleSt) (s : State) : (setHandle x s).latched = s.latched := id rfl
@[simp] theorem setHandle_causes (x : HandleSt) (s : State) : (setHandle x s).causes = s.causes := id rfl
@[simp] theorem setHandle_staleMid (x : HandleSt) (s : State) : (setHandle x s).staleMid = s.staleMid := id rfl
@[simp] theorem setHandle_tiles (x : HandleSt) (s : State) : (setHandle x s).tiles = s.tiles := id rfl
@[simp] theorem setHandle_sram (x : HandleSt) (s : State) : (setHandle x s).sram = s.sram := id rfl
@[simp] theorem setHandle_sramPoison (x : HandleSt) (s : State) : (setHandle x s).sramPoison = s.sramPoison := id rfl
@[simp] theorem setHandle_mesh (x : HandleSt) (s : State) : (setHandle x s).mesh = s.mesh := id rfl
@[simp] theorem setHandle_rowBus (x : HandleSt) (s : State) : (setHandle x s).rowBus = s.rowBus := id rfl
@[simp] theorem setHandle_scaleBus (x : HandleSt) (s : State) : (setHandle x s).scaleBus = s.scaleBus := id rfl
@[simp] theorem setHandle_range (x : HandleSt) (s : State) : (setHandle x s).range = s.range := id rfl
@[simp] theorem setHandle_zip (x : HandleSt) (s : State) : (setHandle x s).zip = s.zip := id rfl
@[simp] theorem setHandle_packed (x : HandleSt) (s : State) : (setHandle x s).packed = s.packed := id rfl
@[simp] theorem setHandle_bindings (x : HandleSt) (s : State) : (setHandle x s).bindings = s.bindings := id rfl
@[simp] theorem setHandle_reqs (x : HandleSt) (s : State) : (setHandle x s).reqs = s.reqs := id rfl
@[simp] theorem setHandle_chans (x : HandleSt) (s : State) : (setHandle x s).chans = s.chans := id rfl
@[simp] theorem setHandle_serials (x : HandleSt) (s : State) : (setHandle x s).serials = s.serials := id rfl
@[simp] theorem setHandle_versions (x : HandleSt) (s : State) : (setHandle x s).versions = s.versions := id rfl
@[simp] theorem setHandle_rallies (x : HandleSt) (s : State) : (setHandle x s).rallies = s.rallies := id rfl
@[simp] theorem setHandle_selects (x : HandleSt) (s : State) : (setHandle x s).selects = s.selects := id rfl
@[simp] theorem setHandle_deferred (x : HandleSt) (s : State) : (setHandle x s).deferred = s.deferred := id rfl
@[simp] theorem setHandle_ws (x : HandleSt) (s : State) : (setHandle x s).ws = s.ws := id rfl
@[simp] theorem setHandle_mail (x : HandleSt) (s : State) : (setHandle x s).mail = s.mail := id rfl
@[simp] theorem setHandle_hostFns (x : HandleSt) (s : State) : (setHandle x s).hostFns = s.hostFns := id rfl
@[simp] theorem setHandle_badSlots (x : HandleSt) (s : State) : (setHandle x s).badSlots = s.badSlots := id rfl
@[simp] theorem setHandle_parity (x : HandleSt) (s : State) : (setHandle x s).parity = s.parity := id rfl
@[simp] theorem setHandle_powerN (x : HandleSt) (s : State) : (setHandle x s).powerN = s.powerN := id rfl
@[simp] theorem setHandle_powerS (x : HandleSt) (s : State) : (setHandle x s).powerS = s.powerS := id rfl
@[simp] theorem setHandle_votes (x : HandleSt) (s : State) : (setHandle x s).votes = s.votes := id rfl
@[simp] theorem setHandle_samples (x : HandleSt) (s : State) : (setHandle x s).samples = s.samples := id rfl
@[simp] theorem setHandle_lowSamples (x : HandleSt) (s : State) : (setHandle x s).lowSamples = s.lowSamples := id rfl
@[simp] theorem setHandle_ring (x : HandleSt) (s : State) : (setHandle x s).ring = s.ring := id rfl
@[simp] theorem setHandle_qps (x : HandleSt) (s : State) : (setHandle x s).qps = s.qps := id rfl
@[simp] theorem setHandle_heldOut (x : HandleSt) (s : State) : (setHandle x s).heldOut = s.heldOut := id rfl
@[simp] theorem setHandle_replicaN (x : HandleSt) (s : State) : (setHandle x s).replicaN = s.replicaN := id rfl
@[simp] theorem setHandle_replicaS (x : HandleSt) (s : State) : (setHandle x s).replicaS = s.replicaS := id rfl
@[simp] theorem setHandle_complexN (x : HandleSt) (s : State) : (setHandle x s).complexN = s.complexN := id rfl
@[simp] theorem setHandle_complexS (x : HandleSt) (s : State) : (setHandle x s).complexS = s.complexS := id rfl
@[simp] theorem setHandle_update (x : HandleSt) (s : State) : (setHandle x s).update = s.update := id rfl
@[simp] theorem setHandle_boot (x : HandleSt) (s : State) : (setHandle x s).boot = s.boot := id rfl
@[simp] theorem setHandle_restores (x : HandleSt) (s : State) : (setHandle x s).restores = s.restores := id rfl
@[simp] theorem setHandle_releasedAt (x : HandleSt) (s : State) : (setHandle x s).releasedAt = s.releasedAt := id rfl
@[simp] theorem setHandle_sensors (x : HandleSt) (s : State) : (setHandle x s).sensors = s.sensors := id rfl
@[simp] theorem setHandle_save (x : HandleSt) (s : State) : (setHandle x s).save = s.save := id rfl
@[simp] theorem setHandle_record (x : HandleSt) (s : State) : (setHandle x s).record = s.record := id rfl
@[simp] theorem setHandle_free (x : HandleSt) (s : State) : (setHandle x s).free = s.free := id rfl
@[simp] theorem setHandle_out (x : HandleSt) (s : State) : (setHandle x s).out = s.out := id rfl
@[simp] theorem setHandle_pending (x : HandleSt) (s : State) : (setHandle x s).pending = s.pending := id rfl

/-! ### modHandle -/
@[simp] theorem modHandle_pins (h : Nat) (f : HandleSt → HandleSt) (s : State) : (modHandle h f s).pins = s.pins := id rfl
@[simp] theorem modHandle_fuses (h : Nat) (f : HandleSt → HandleSt) (s : State) : (modHandle h f s).fuses = s.fuses := id rfl
@[simp] theorem modHandle_phase (h : Nat) (f : HandleSt → HandleSt) (s : State) : (modHandle h f s).phase = s.phase := id rfl
@[simp] theorem modHandle_timer (h : Nat) (f : HandleSt → HandleSt) (s : State) : (modHandle h f s).timer = s.timer := id rfl
@[simp] theorem modHandle_timerFrac (h : Nat) (f : HandleSt → HandleSt) (s : State) : (modHandle h f s).timerFrac = s.timerFrac := id rfl
@[simp] theorem modHandle_regs (h : Nat) (f : HandleSt → HandleSt) (s : State) : (modHandle h f s).regs = s.regs := id rfl
@[simp] theorem modHandle_latched (h : Nat) (f : HandleSt → HandleSt) (s : State) : (modHandle h f s).latched = s.latched := id rfl
@[simp] theorem modHandle_causes (h : Nat) (f : HandleSt → HandleSt) (s : State) : (modHandle h f s).causes = s.causes := id rfl
@[simp] theorem modHandle_staleMid (h : Nat) (f : HandleSt → HandleSt) (s : State) : (modHandle h f s).staleMid = s.staleMid := id rfl
@[simp] theorem modHandle_tiles (h : Nat) (f : HandleSt → HandleSt) (s : State) : (modHandle h f s).tiles = s.tiles := id rfl
@[simp] theorem modHandle_sram (h : Nat) (f : HandleSt → HandleSt) (s : State) : (modHandle h f s).sram = s.sram := id rfl
@[simp] theorem modHandle_sramPoison (h : Nat) (f : HandleSt → HandleSt) (s : State) : (modHandle h f s).sramPoison = s.sramPoison := id rfl
@[simp] theorem modHandle_mesh (h : Nat) (f : HandleSt → HandleSt) (s : State) : (modHandle h f s).mesh = s.mesh := id rfl
@[simp] theorem modHandle_rowBus (h : Nat) (f : HandleSt → HandleSt) (s : State) : (modHandle h f s).rowBus = s.rowBus := id rfl
@[simp] theorem modHandle_scaleBus (h : Nat) (f : HandleSt → HandleSt) (s : State) : (modHandle h f s).scaleBus = s.scaleBus := id rfl
@[simp] theorem modHandle_range (h : Nat) (f : HandleSt → HandleSt) (s : State) : (modHandle h f s).range = s.range := id rfl
@[simp] theorem modHandle_zip (h : Nat) (f : HandleSt → HandleSt) (s : State) : (modHandle h f s).zip = s.zip := id rfl
@[simp] theorem modHandle_packed (h : Nat) (f : HandleSt → HandleSt) (s : State) : (modHandle h f s).packed = s.packed := id rfl
@[simp] theorem modHandle_bindings (h : Nat) (f : HandleSt → HandleSt) (s : State) : (modHandle h f s).bindings = s.bindings := id rfl
@[simp] theorem modHandle_reqs (h : Nat) (f : HandleSt → HandleSt) (s : State) : (modHandle h f s).reqs = s.reqs := id rfl
@[simp] theorem modHandle_chans (h : Nat) (f : HandleSt → HandleSt) (s : State) : (modHandle h f s).chans = s.chans := id rfl
@[simp] theorem modHandle_serials (h : Nat) (f : HandleSt → HandleSt) (s : State) : (modHandle h f s).serials = s.serials := id rfl
@[simp] theorem modHandle_versions (h : Nat) (f : HandleSt → HandleSt) (s : State) : (modHandle h f s).versions = s.versions := id rfl
@[simp] theorem modHandle_rallies (h : Nat) (f : HandleSt → HandleSt) (s : State) : (modHandle h f s).rallies = s.rallies := id rfl
@[simp] theorem modHandle_selects (h : Nat) (f : HandleSt → HandleSt) (s : State) : (modHandle h f s).selects = s.selects := id rfl
@[simp] theorem modHandle_deferred (h : Nat) (f : HandleSt → HandleSt) (s : State) : (modHandle h f s).deferred = s.deferred := id rfl
@[simp] theorem modHandle_ws (h : Nat) (f : HandleSt → HandleSt) (s : State) : (modHandle h f s).ws = s.ws := id rfl
@[simp] theorem modHandle_mail (h : Nat) (f : HandleSt → HandleSt) (s : State) : (modHandle h f s).mail = s.mail := id rfl
@[simp] theorem modHandle_hostFns (h : Nat) (f : HandleSt → HandleSt) (s : State) : (modHandle h f s).hostFns = s.hostFns := id rfl
@[simp] theorem modHandle_badSlots (h : Nat) (f : HandleSt → HandleSt) (s : State) : (modHandle h f s).badSlots = s.badSlots := id rfl
@[simp] theorem modHandle_parity (h : Nat) (f : HandleSt → HandleSt) (s : State) : (modHandle h f s).parity = s.parity := id rfl
@[simp] theorem modHandle_powerN (h : Nat) (f : HandleSt → HandleSt) (s : State) : (modHandle h f s).powerN = s.powerN := id rfl
@[simp] theorem modHandle_powerS (h : Nat) (f : HandleSt → HandleSt) (s : State) : (modHandle h f s).powerS = s.powerS := id rfl
@[simp] theorem modHandle_votes (h : Nat) (f : HandleSt → HandleSt) (s : State) : (modHandle h f s).votes = s.votes := id rfl
@[simp] theorem modHandle_samples (h : Nat) (f : HandleSt → HandleSt) (s : State) : (modHandle h f s).samples = s.samples := id rfl
@[simp] theorem modHandle_lowSamples (h : Nat) (f : HandleSt → HandleSt) (s : State) : (modHandle h f s).lowSamples = s.lowSamples := id rfl
@[simp] theorem modHandle_ring (h : Nat) (f : HandleSt → HandleSt) (s : State) : (modHandle h f s).ring = s.ring := id rfl
@[simp] theorem modHandle_qps (h : Nat) (f : HandleSt → HandleSt) (s : State) : (modHandle h f s).qps = s.qps := id rfl
@[simp] theorem modHandle_heldOut (h : Nat) (f : HandleSt → HandleSt) (s : State) : (modHandle h f s).heldOut = s.heldOut := id rfl
@[simp] theorem modHandle_replicaN (h : Nat) (f : HandleSt → HandleSt) (s : State) : (modHandle h f s).replicaN = s.replicaN := id rfl
@[simp] theorem modHandle_replicaS (h : Nat) (f : HandleSt → HandleSt) (s : State) : (modHandle h f s).replicaS = s.replicaS := id rfl
@[simp] theorem modHandle_complexN (h : Nat) (f : HandleSt → HandleSt) (s : State) : (modHandle h f s).complexN = s.complexN := id rfl
@[simp] theorem modHandle_complexS (h : Nat) (f : HandleSt → HandleSt) (s : State) : (modHandle h f s).complexS = s.complexS := id rfl
@[simp] theorem modHandle_update (h : Nat) (f : HandleSt → HandleSt) (s : State) : (modHandle h f s).update = s.update := id rfl
@[simp] theorem modHandle_boot (h : Nat) (f : HandleSt → HandleSt) (s : State) : (modHandle h f s).boot = s.boot := id rfl
@[simp] theorem modHandle_restores (h : Nat) (f : HandleSt → HandleSt) (s : State) : (modHandle h f s).restores = s.restores := id rfl
@[simp] theorem modHandle_releasedAt (h : Nat) (f : HandleSt → HandleSt) (s : State) : (modHandle h f s).releasedAt = s.releasedAt := id rfl
@[simp] theorem modHandle_sensors (h : Nat) (f : HandleSt → HandleSt) (s : State) : (modHandle h f s).sensors = s.sensors := id rfl
@[simp] theorem modHandle_save (h : Nat) (f : HandleSt → HandleSt) (s : State) : (modHandle h f s).save = s.save := id rfl
@[simp] theorem modHandle_record (h : Nat) (f : HandleSt → HandleSt) (s : State) : (modHandle h f s).record = s.record := id rfl
@[simp] theorem modHandle_free (h : Nat) (f : HandleSt → HandleSt) (s : State) : (modHandle h f s).free = s.free := id rfl
@[simp] theorem modHandle_out (h : Nat) (f : HandleSt → HandleSt) (s : State) : (modHandle h f s).out = s.out := id rfl
@[simp] theorem modHandle_pending (h : Nat) (f : HandleSt → HandleSt) (s : State) : (modHandle h f s).pending = s.pending := id rfl

/-! ### setVersion -/
@[simp] theorem setVersion_pins (v : Version) (s : State) : (setVersion v s).pins = s.pins := id rfl
@[simp] theorem setVersion_fuses (v : Version) (s : State) : (setVersion v s).fuses = s.fuses := id rfl
@[simp] theorem setVersion_phase (v : Version) (s : State) : (setVersion v s).phase = s.phase := id rfl
@[simp] theorem setVersion_timer (v : Version) (s : State) : (setVersion v s).timer = s.timer := id rfl
@[simp] theorem setVersion_timerFrac (v : Version) (s : State) : (setVersion v s).timerFrac = s.timerFrac := id rfl
@[simp] theorem setVersion_regs (v : Version) (s : State) : (setVersion v s).regs = s.regs := id rfl
@[simp] theorem setVersion_latched (v : Version) (s : State) : (setVersion v s).latched = s.latched := id rfl
@[simp] theorem setVersion_causes (v : Version) (s : State) : (setVersion v s).causes = s.causes := id rfl
@[simp] theorem setVersion_staleMid (v : Version) (s : State) : (setVersion v s).staleMid = s.staleMid := id rfl
@[simp] theorem setVersion_tiles (v : Version) (s : State) : (setVersion v s).tiles = s.tiles := id rfl
@[simp] theorem setVersion_sram (v : Version) (s : State) : (setVersion v s).sram = s.sram := id rfl
@[simp] theorem setVersion_sramPoison (v : Version) (s : State) : (setVersion v s).sramPoison = s.sramPoison := id rfl
@[simp] theorem setVersion_mesh (v : Version) (s : State) : (setVersion v s).mesh = s.mesh := id rfl
@[simp] theorem setVersion_rowBus (v : Version) (s : State) : (setVersion v s).rowBus = s.rowBus := id rfl
@[simp] theorem setVersion_scaleBus (v : Version) (s : State) : (setVersion v s).scaleBus = s.scaleBus := id rfl
@[simp] theorem setVersion_range (v : Version) (s : State) : (setVersion v s).range = s.range := id rfl
@[simp] theorem setVersion_zip (v : Version) (s : State) : (setVersion v s).zip = s.zip := id rfl
@[simp] theorem setVersion_packed (v : Version) (s : State) : (setVersion v s).packed = s.packed := id rfl
@[simp] theorem setVersion_bindings (v : Version) (s : State) : (setVersion v s).bindings = s.bindings := id rfl
@[simp] theorem setVersion_reqs (v : Version) (s : State) : (setVersion v s).reqs = s.reqs := id rfl
@[simp] theorem setVersion_chans (v : Version) (s : State) : (setVersion v s).chans = s.chans := id rfl
@[simp] theorem setVersion_serials (v : Version) (s : State) : (setVersion v s).serials = s.serials := id rfl
@[simp] theorem setVersion_handles (v : Version) (s : State) : (setVersion v s).handles = s.handles := id rfl
@[simp] theorem setVersion_rallies (v : Version) (s : State) : (setVersion v s).rallies = s.rallies := id rfl
@[simp] theorem setVersion_selects (v : Version) (s : State) : (setVersion v s).selects = s.selects := id rfl
@[simp] theorem setVersion_deferred (v : Version) (s : State) : (setVersion v s).deferred = s.deferred := id rfl
@[simp] theorem setVersion_ws (v : Version) (s : State) : (setVersion v s).ws = s.ws := id rfl
@[simp] theorem setVersion_mail (v : Version) (s : State) : (setVersion v s).mail = s.mail := id rfl
@[simp] theorem setVersion_hostFns (v : Version) (s : State) : (setVersion v s).hostFns = s.hostFns := id rfl
@[simp] theorem setVersion_badSlots (v : Version) (s : State) : (setVersion v s).badSlots = s.badSlots := id rfl
@[simp] theorem setVersion_parity (v : Version) (s : State) : (setVersion v s).parity = s.parity := id rfl
@[simp] theorem setVersion_powerN (v : Version) (s : State) : (setVersion v s).powerN = s.powerN := id rfl
@[simp] theorem setVersion_powerS (v : Version) (s : State) : (setVersion v s).powerS = s.powerS := id rfl
@[simp] theorem setVersion_votes (v : Version) (s : State) : (setVersion v s).votes = s.votes := id rfl
@[simp] theorem setVersion_samples (v : Version) (s : State) : (setVersion v s).samples = s.samples := id rfl
@[simp] theorem setVersion_lowSamples (v : Version) (s : State) : (setVersion v s).lowSamples = s.lowSamples := id rfl
@[simp] theorem setVersion_ring (v : Version) (s : State) : (setVersion v s).ring = s.ring := id rfl
@[simp] theorem setVersion_qps (v : Version) (s : State) : (setVersion v s).qps = s.qps := id rfl
@[simp] theorem setVersion_heldOut (v : Version) (s : State) : (setVersion v s).heldOut = s.heldOut := id rfl
@[simp] theorem setVersion_replicaN (v : Version) (s : State) : (setVersion v s).replicaN = s.replicaN := id rfl
@[simp] theorem setVersion_replicaS (v : Version) (s : State) : (setVersion v s).replicaS = s.replicaS := id rfl
@[simp] theorem setVersion_complexN (v : Version) (s : State) : (setVersion v s).complexN = s.complexN := id rfl
@[simp] theorem setVersion_complexS (v : Version) (s : State) : (setVersion v s).complexS = s.complexS := id rfl
@[simp] theorem setVersion_update (v : Version) (s : State) : (setVersion v s).update = s.update := id rfl
@[simp] theorem setVersion_boot (v : Version) (s : State) : (setVersion v s).boot = s.boot := id rfl
@[simp] theorem setVersion_restores (v : Version) (s : State) : (setVersion v s).restores = s.restores := id rfl
@[simp] theorem setVersion_releasedAt (v : Version) (s : State) : (setVersion v s).releasedAt = s.releasedAt := id rfl
@[simp] theorem setVersion_sensors (v : Version) (s : State) : (setVersion v s).sensors = s.sensors := id rfl
@[simp] theorem setVersion_save (v : Version) (s : State) : (setVersion v s).save = s.save := id rfl
@[simp] theorem setVersion_record (v : Version) (s : State) : (setVersion v s).record = s.record := id rfl
@[simp] theorem setVersion_free (v : Version) (s : State) : (setVersion v s).free = s.free := id rfl
@[simp] theorem setVersion_out (v : Version) (s : State) : (setVersion v s).out = s.out := id rfl
@[simp] theorem setVersion_pending (v : Version) (s : State) : (setVersion v s).pending = s.pending := id rfl

/-! ### setRally -/
@[simp] theorem setRally_pins (i : Nat) (c : RallyCtx) (s : State) : (setRally i c s).pins = s.pins := id rfl
@[simp] theorem setRally_fuses (i : Nat) (c : RallyCtx) (s : State) : (setRally i c s).fuses = s.fuses := id rfl
@[simp] theorem setRally_phase (i : Nat) (c : RallyCtx) (s : State) : (setRally i c s).phase = s.phase := id rfl
@[simp] theorem setRally_timer (i : Nat) (c : RallyCtx) (s : State) : (setRally i c s).timer = s.timer := id rfl
@[simp] theorem setRally_timerFrac (i : Nat) (c : RallyCtx) (s : State) : (setRally i c s).timerFrac = s.timerFrac := id rfl
@[simp] theorem setRally_regs (i : Nat) (c : RallyCtx) (s : State) : (setRally i c s).regs = s.regs := id rfl
@[simp] theorem setRally_latched (i : Nat) (c : RallyCtx) (s : State) : (setRally i c s).latched = s.latched := id rfl
@[simp] theorem setRally_causes (i : Nat) (c : RallyCtx) (s : State) : (setRally i c s).causes = s.causes := id rfl
@[simp] theorem setRally_staleMid (i : Nat) (c : RallyCtx) (s : State) : (setRally i c s).staleMid = s.staleMid := id rfl
@[simp] theorem setRally_tiles (i : Nat) (c : RallyCtx) (s : State) : (setRally i c s).tiles = s.tiles := id rfl
@[simp] theorem setRally_sram (i : Nat) (c : RallyCtx) (s : State) : (setRally i c s).sram = s.sram := id rfl
@[simp] theorem setRally_sramPoison (i : Nat) (c : RallyCtx) (s : State) : (setRally i c s).sramPoison = s.sramPoison := id rfl
@[simp] theorem setRally_mesh (i : Nat) (c : RallyCtx) (s : State) : (setRally i c s).mesh = s.mesh := id rfl
@[simp] theorem setRally_rowBus (i : Nat) (c : RallyCtx) (s : State) : (setRally i c s).rowBus = s.rowBus := id rfl
@[simp] theorem setRally_scaleBus (i : Nat) (c : RallyCtx) (s : State) : (setRally i c s).scaleBus = s.scaleBus := id rfl
@[simp] theorem setRally_range (i : Nat) (c : RallyCtx) (s : State) : (setRally i c s).range = s.range := id rfl
@[simp] theorem setRally_zip (i : Nat) (c : RallyCtx) (s : State) : (setRally i c s).zip = s.zip := id rfl
@[simp] theorem setRally_packed (i : Nat) (c : RallyCtx) (s : State) : (setRally i c s).packed = s.packed := id rfl
@[simp] theorem setRally_bindings (i : Nat) (c : RallyCtx) (s : State) : (setRally i c s).bindings = s.bindings := id rfl
@[simp] theorem setRally_reqs (i : Nat) (c : RallyCtx) (s : State) : (setRally i c s).reqs = s.reqs := id rfl
@[simp] theorem setRally_chans (i : Nat) (c : RallyCtx) (s : State) : (setRally i c s).chans = s.chans := id rfl
@[simp] theorem setRally_serials (i : Nat) (c : RallyCtx) (s : State) : (setRally i c s).serials = s.serials := id rfl
@[simp] theorem setRally_handles (i : Nat) (c : RallyCtx) (s : State) : (setRally i c s).handles = s.handles := id rfl
@[simp] theorem setRally_versions (i : Nat) (c : RallyCtx) (s : State) : (setRally i c s).versions = s.versions := id rfl
@[simp] theorem setRally_selects (i : Nat) (c : RallyCtx) (s : State) : (setRally i c s).selects = s.selects := id rfl
@[simp] theorem setRally_deferred (i : Nat) (c : RallyCtx) (s : State) : (setRally i c s).deferred = s.deferred := id rfl
@[simp] theorem setRally_ws (i : Nat) (c : RallyCtx) (s : State) : (setRally i c s).ws = s.ws := id rfl
@[simp] theorem setRally_mail (i : Nat) (c : RallyCtx) (s : State) : (setRally i c s).mail = s.mail := id rfl
@[simp] theorem setRally_hostFns (i : Nat) (c : RallyCtx) (s : State) : (setRally i c s).hostFns = s.hostFns := id rfl
@[simp] theorem setRally_badSlots (i : Nat) (c : RallyCtx) (s : State) : (setRally i c s).badSlots = s.badSlots := id rfl
@[simp] theorem setRally_parity (i : Nat) (c : RallyCtx) (s : State) : (setRally i c s).parity = s.parity := id rfl
@[simp] theorem setRally_powerN (i : Nat) (c : RallyCtx) (s : State) : (setRally i c s).powerN = s.powerN := id rfl
@[simp] theorem setRally_powerS (i : Nat) (c : RallyCtx) (s : State) : (setRally i c s).powerS = s.powerS := id rfl
@[simp] theorem setRally_votes (i : Nat) (c : RallyCtx) (s : State) : (setRally i c s).votes = s.votes := id rfl
@[simp] theorem setRally_samples (i : Nat) (c : RallyCtx) (s : State) : (setRally i c s).samples = s.samples := id rfl
@[simp] theorem setRally_lowSamples (i : Nat) (c : RallyCtx) (s : State) : (setRally i c s).lowSamples = s.lowSamples := id rfl
@[simp] theorem setRally_ring (i : Nat) (c : RallyCtx) (s : State) : (setRally i c s).ring = s.ring := id rfl
@[simp] theorem setRally_qps (i : Nat) (c : RallyCtx) (s : State) : (setRally i c s).qps = s.qps := id rfl
@[simp] theorem setRally_heldOut (i : Nat) (c : RallyCtx) (s : State) : (setRally i c s).heldOut = s.heldOut := id rfl
@[simp] theorem setRally_replicaN (i : Nat) (c : RallyCtx) (s : State) : (setRally i c s).replicaN = s.replicaN := id rfl
@[simp] theorem setRally_replicaS (i : Nat) (c : RallyCtx) (s : State) : (setRally i c s).replicaS = s.replicaS := id rfl
@[simp] theorem setRally_complexN (i : Nat) (c : RallyCtx) (s : State) : (setRally i c s).complexN = s.complexN := id rfl
@[simp] theorem setRally_complexS (i : Nat) (c : RallyCtx) (s : State) : (setRally i c s).complexS = s.complexS := id rfl
@[simp] theorem setRally_update (i : Nat) (c : RallyCtx) (s : State) : (setRally i c s).update = s.update := id rfl
@[simp] theorem setRally_boot (i : Nat) (c : RallyCtx) (s : State) : (setRally i c s).boot = s.boot := id rfl
@[simp] theorem setRally_restores (i : Nat) (c : RallyCtx) (s : State) : (setRally i c s).restores = s.restores := id rfl
@[simp] theorem setRally_releasedAt (i : Nat) (c : RallyCtx) (s : State) : (setRally i c s).releasedAt = s.releasedAt := id rfl
@[simp] theorem setRally_sensors (i : Nat) (c : RallyCtx) (s : State) : (setRally i c s).sensors = s.sensors := id rfl
@[simp] theorem setRally_save (i : Nat) (c : RallyCtx) (s : State) : (setRally i c s).save = s.save := id rfl
@[simp] theorem setRally_record (i : Nat) (c : RallyCtx) (s : State) : (setRally i c s).record = s.record := id rfl
@[simp] theorem setRally_free (i : Nat) (c : RallyCtx) (s : State) : (setRally i c s).free = s.free := id rfl
@[simp] theorem setRally_out (i : Nat) (c : RallyCtx) (s : State) : (setRally i c s).out = s.out := id rfl
@[simp] theorem setRally_pending (i : Nat) (c : RallyCtx) (s : State) : (setRally i c s).pending = s.pending := id rfl

/-! ### modWs -/
@[simp] theorem modWs_pins (f : Weights → Weights) (s : State) : (modWs f s).pins = s.pins := id rfl
@[simp] theorem modWs_fuses (f : Weights → Weights) (s : State) : (modWs f s).fuses = s.fuses := id rfl
@[simp] theorem modWs_phase (f : Weights → Weights) (s : State) : (modWs f s).phase = s.phase := id rfl
@[simp] theorem modWs_timer (f : Weights → Weights) (s : State) : (modWs f s).timer = s.timer := id rfl
@[simp] theorem modWs_timerFrac (f : Weights → Weights) (s : State) : (modWs f s).timerFrac = s.timerFrac := id rfl
@[simp] theorem modWs_regs (f : Weights → Weights) (s : State) : (modWs f s).regs = s.regs := id rfl
@[simp] theorem modWs_latched (f : Weights → Weights) (s : State) : (modWs f s).latched = s.latched := id rfl
@[simp] theorem modWs_causes (f : Weights → Weights) (s : State) : (modWs f s).causes = s.causes := id rfl
@[simp] theorem modWs_staleMid (f : Weights → Weights) (s : State) : (modWs f s).staleMid = s.staleMid := id rfl
@[simp] theorem modWs_tiles (f : Weights → Weights) (s : State) : (modWs f s).tiles = s.tiles := id rfl
@[simp] theorem modWs_sram (f : Weights → Weights) (s : State) : (modWs f s).sram = s.sram := id rfl
@[simp] theorem modWs_sramPoison (f : Weights → Weights) (s : State) : (modWs f s).sramPoison = s.sramPoison := id rfl
@[simp] theorem modWs_mesh (f : Weights → Weights) (s : State) : (modWs f s).mesh = s.mesh := id rfl
@[simp] theorem modWs_rowBus (f : Weights → Weights) (s : State) : (modWs f s).rowBus = s.rowBus := id rfl
@[simp] theorem modWs_scaleBus (f : Weights → Weights) (s : State) : (modWs f s).scaleBus = s.scaleBus := id rfl
@[simp] theorem modWs_range (f : Weights → Weights) (s : State) : (modWs f s).range = s.range := id rfl
@[simp] theorem modWs_zip (f : Weights → Weights) (s : State) : (modWs f s).zip = s.zip := id rfl
@[simp] theorem modWs_packed (f : Weights → Weights) (s : State) : (modWs f s).packed = s.packed := id rfl
@[simp] theorem modWs_bindings (f : Weights → Weights) (s : State) : (modWs f s).bindings = s.bindings := id rfl
@[simp] theorem modWs_reqs (f : Weights → Weights) (s : State) : (modWs f s).reqs = s.reqs := id rfl
@[simp] theorem modWs_chans (f : Weights → Weights) (s : State) : (modWs f s).chans = s.chans := id rfl
@[simp] theorem modWs_serials (f : Weights → Weights) (s : State) : (modWs f s).serials = s.serials := id rfl
@[simp] theorem modWs_handles (f : Weights → Weights) (s : State) : (modWs f s).handles = s.handles := id rfl
@[simp] theorem modWs_versions (f : Weights → Weights) (s : State) : (modWs f s).versions = s.versions := id rfl
@[simp] theorem modWs_rallies (f : Weights → Weights) (s : State) : (modWs f s).rallies = s.rallies := id rfl
@[simp] theorem modWs_selects (f : Weights → Weights) (s : State) : (modWs f s).selects = s.selects := id rfl
@[simp] theorem modWs_deferred (f : Weights → Weights) (s : State) : (modWs f s).deferred = s.deferred := id rfl
@[simp] theorem modWs_mail (f : Weights → Weights) (s : State) : (modWs f s).mail = s.mail := id rfl
@[simp] theorem modWs_hostFns (f : Weights → Weights) (s : State) : (modWs f s).hostFns = s.hostFns := id rfl
@[simp] theorem modWs_badSlots (f : Weights → Weights) (s : State) : (modWs f s).badSlots = s.badSlots := id rfl
@[simp] theorem modWs_parity (f : Weights → Weights) (s : State) : (modWs f s).parity = s.parity := id rfl
@[simp] theorem modWs_powerN (f : Weights → Weights) (s : State) : (modWs f s).powerN = s.powerN := id rfl
@[simp] theorem modWs_powerS (f : Weights → Weights) (s : State) : (modWs f s).powerS = s.powerS := id rfl
@[simp] theorem modWs_votes (f : Weights → Weights) (s : State) : (modWs f s).votes = s.votes := id rfl
@[simp] theorem modWs_samples (f : Weights → Weights) (s : State) : (modWs f s).samples = s.samples := id rfl
@[simp] theorem modWs_lowSamples (f : Weights → Weights) (s : State) : (modWs f s).lowSamples = s.lowSamples := id rfl
@[simp] theorem modWs_ring (f : Weights → Weights) (s : State) : (modWs f s).ring = s.ring := id rfl
@[simp] theorem modWs_qps (f : Weights → Weights) (s : State) : (modWs f s).qps = s.qps := id rfl
@[simp] theorem modWs_heldOut (f : Weights → Weights) (s : State) : (modWs f s).heldOut = s.heldOut := id rfl
@[simp] theorem modWs_replicaN (f : Weights → Weights) (s : State) : (modWs f s).replicaN = s.replicaN := id rfl
@[simp] theorem modWs_replicaS (f : Weights → Weights) (s : State) : (modWs f s).replicaS = s.replicaS := id rfl
@[simp] theorem modWs_complexN (f : Weights → Weights) (s : State) : (modWs f s).complexN = s.complexN := id rfl
@[simp] theorem modWs_complexS (f : Weights → Weights) (s : State) : (modWs f s).complexS = s.complexS := id rfl
@[simp] theorem modWs_update (f : Weights → Weights) (s : State) : (modWs f s).update = s.update := id rfl
@[simp] theorem modWs_boot (f : Weights → Weights) (s : State) : (modWs f s).boot = s.boot := id rfl
@[simp] theorem modWs_restores (f : Weights → Weights) (s : State) : (modWs f s).restores = s.restores := id rfl
@[simp] theorem modWs_releasedAt (f : Weights → Weights) (s : State) : (modWs f s).releasedAt = s.releasedAt := id rfl
@[simp] theorem modWs_sensors (f : Weights → Weights) (s : State) : (modWs f s).sensors = s.sensors := id rfl
@[simp] theorem modWs_save (f : Weights → Weights) (s : State) : (modWs f s).save = s.save := id rfl
@[simp] theorem modWs_record (f : Weights → Weights) (s : State) : (modWs f s).record = s.record := id rfl
@[simp] theorem modWs_free (f : Weights → Weights) (s : State) : (modWs f s).free = s.free := id rfl
@[simp] theorem modWs_out (f : Weights → Weights) (s : State) : (modWs f s).out = s.out := id rfl
@[simp] theorem modWs_pending (f : Weights → Weights) (s : State) : (modWs f s).pending = s.pending := id rfl

/-! ### setWsCmd -/
@[simp] theorem setWsCmd_pins (c : WsCmd) (s : State) : (setWsCmd c s).pins = s.pins := id rfl
@[simp] theorem setWsCmd_fuses (c : WsCmd) (s : State) : (setWsCmd c s).fuses = s.fuses := id rfl
@[simp] theorem setWsCmd_phase (c : WsCmd) (s : State) : (setWsCmd c s).phase = s.phase := id rfl
@[simp] theorem setWsCmd_timer (c : WsCmd) (s : State) : (setWsCmd c s).timer = s.timer := id rfl
@[simp] theorem setWsCmd_timerFrac (c : WsCmd) (s : State) : (setWsCmd c s).timerFrac = s.timerFrac := id rfl
@[simp] theorem setWsCmd_regs (c : WsCmd) (s : State) : (setWsCmd c s).regs = s.regs := id rfl
@[simp] theorem setWsCmd_latched (c : WsCmd) (s : State) : (setWsCmd c s).latched = s.latched := id rfl
@[simp] theorem setWsCmd_causes (c : WsCmd) (s : State) : (setWsCmd c s).causes = s.causes := id rfl
@[simp] theorem setWsCmd_staleMid (c : WsCmd) (s : State) : (setWsCmd c s).staleMid = s.staleMid := id rfl
@[simp] theorem setWsCmd_tiles (c : WsCmd) (s : State) : (setWsCmd c s).tiles = s.tiles := id rfl
@[simp] theorem setWsCmd_sram (c : WsCmd) (s : State) : (setWsCmd c s).sram = s.sram := id rfl
@[simp] theorem setWsCmd_sramPoison (c : WsCmd) (s : State) : (setWsCmd c s).sramPoison = s.sramPoison := id rfl
@[simp] theorem setWsCmd_mesh (c : WsCmd) (s : State) : (setWsCmd c s).mesh = s.mesh := id rfl
@[simp] theorem setWsCmd_rowBus (c : WsCmd) (s : State) : (setWsCmd c s).rowBus = s.rowBus := id rfl
@[simp] theorem setWsCmd_scaleBus (c : WsCmd) (s : State) : (setWsCmd c s).scaleBus = s.scaleBus := id rfl
@[simp] theorem setWsCmd_range (c : WsCmd) (s : State) : (setWsCmd c s).range = s.range := id rfl
@[simp] theorem setWsCmd_zip (c : WsCmd) (s : State) : (setWsCmd c s).zip = s.zip := id rfl
@[simp] theorem setWsCmd_packed (c : WsCmd) (s : State) : (setWsCmd c s).packed = s.packed := id rfl
@[simp] theorem setWsCmd_bindings (c : WsCmd) (s : State) : (setWsCmd c s).bindings = s.bindings := id rfl
@[simp] theorem setWsCmd_reqs (c : WsCmd) (s : State) : (setWsCmd c s).reqs = s.reqs := id rfl
@[simp] theorem setWsCmd_chans (c : WsCmd) (s : State) : (setWsCmd c s).chans = s.chans := id rfl
@[simp] theorem setWsCmd_serials (c : WsCmd) (s : State) : (setWsCmd c s).serials = s.serials := id rfl
@[simp] theorem setWsCmd_handles (c : WsCmd) (s : State) : (setWsCmd c s).handles = s.handles := id rfl
@[simp] theorem setWsCmd_versions (c : WsCmd) (s : State) : (setWsCmd c s).versions = s.versions := id rfl
@[simp] theorem setWsCmd_rallies (c : WsCmd) (s : State) : (setWsCmd c s).rallies = s.rallies := id rfl
@[simp] theorem setWsCmd_selects (c : WsCmd) (s : State) : (setWsCmd c s).selects = s.selects := id rfl
@[simp] theorem setWsCmd_deferred (c : WsCmd) (s : State) : (setWsCmd c s).deferred = s.deferred := id rfl
@[simp] theorem setWsCmd_mail (c : WsCmd) (s : State) : (setWsCmd c s).mail = s.mail := id rfl
@[simp] theorem setWsCmd_hostFns (c : WsCmd) (s : State) : (setWsCmd c s).hostFns = s.hostFns := id rfl
@[simp] theorem setWsCmd_badSlots (c : WsCmd) (s : State) : (setWsCmd c s).badSlots = s.badSlots := id rfl
@[simp] theorem setWsCmd_parity (c : WsCmd) (s : State) : (setWsCmd c s).parity = s.parity := id rfl
@[simp] theorem setWsCmd_powerN (c : WsCmd) (s : State) : (setWsCmd c s).powerN = s.powerN := id rfl
@[simp] theorem setWsCmd_powerS (c : WsCmd) (s : State) : (setWsCmd c s).powerS = s.powerS := id rfl
@[simp] theorem setWsCmd_votes (c : WsCmd) (s : State) : (setWsCmd c s).votes = s.votes := id rfl
@[simp] theorem setWsCmd_samples (c : WsCmd) (s : State) : (setWsCmd c s).samples = s.samples := id rfl
@[simp] theorem setWsCmd_lowSamples (c : WsCmd) (s : State) : (setWsCmd c s).lowSamples = s.lowSamples := id rfl
@[simp] theorem setWsCmd_ring (c : WsCmd) (s : State) : (setWsCmd c s).ring = s.ring := id rfl
@[simp] theorem setWsCmd_qps (c : WsCmd) (s : State) : (setWsCmd c s).qps = s.qps := id rfl
@[simp] theorem setWsCmd_heldOut (c : WsCmd) (s : State) : (setWsCmd c s).heldOut = s.heldOut := id rfl
@[simp] theorem setWsCmd_replicaN (c : WsCmd) (s : State) : (setWsCmd c s).replicaN = s.replicaN := id rfl
@[simp] theorem setWsCmd_replicaS (c : WsCmd) (s : State) : (setWsCmd c s).replicaS = s.replicaS := id rfl
@[simp] theorem setWsCmd_complexN (c : WsCmd) (s : State) : (setWsCmd c s).complexN = s.complexN := id rfl
@[simp] theorem setWsCmd_complexS (c : WsCmd) (s : State) : (setWsCmd c s).complexS = s.complexS := id rfl
@[simp] theorem setWsCmd_update (c : WsCmd) (s : State) : (setWsCmd c s).update = s.update := id rfl
@[simp] theorem setWsCmd_boot (c : WsCmd) (s : State) : (setWsCmd c s).boot = s.boot := id rfl
@[simp] theorem setWsCmd_restores (c : WsCmd) (s : State) : (setWsCmd c s).restores = s.restores := id rfl
@[simp] theorem setWsCmd_releasedAt (c : WsCmd) (s : State) : (setWsCmd c s).releasedAt = s.releasedAt := id rfl
@[simp] theorem setWsCmd_sensors (c : WsCmd) (s : State) : (setWsCmd c s).sensors = s.sensors := id rfl
@[simp] theorem setWsCmd_save (c : WsCmd) (s : State) : (setWsCmd c s).save = s.save := id rfl
@[simp] theorem setWsCmd_record (c : WsCmd) (s : State) : (setWsCmd c s).record = s.record := id rfl
@[simp] theorem setWsCmd_free (c : WsCmd) (s : State) : (setWsCmd c s).free = s.free := id rfl
@[simp] theorem setWsCmd_out (c : WsCmd) (s : State) : (setWsCmd c s).out = s.out := id rfl
@[simp] theorem setWsCmd_pending (c : WsCmd) (s : State) : (setWsCmd c s).pending = s.pending := id rfl

/-! ### setHostFn -/
@[simp] theorem setHostFn_pins (i j : Nat) (x : HostFn) (s : State) : (setHostFn i j x s).pins = s.pins := id rfl
@[simp] theorem setHostFn_fuses (i j : Nat) (x : HostFn) (s : State) : (setHostFn i j x s).fuses = s.fuses := id rfl
@[simp] theorem setHostFn_phase (i j : Nat) (x : HostFn) (s : State) : (setHostFn i j x s).phase = s.phase := id rfl
@[simp] theorem setHostFn_timer (i j : Nat) (x : HostFn) (s : State) : (setHostFn i j x s).timer = s.timer := id rfl
@[simp] theorem setHostFn_timerFrac (i j : Nat) (x : HostFn) (s : State) : (setHostFn i j x s).timerFrac = s.timerFrac := id rfl
@[simp] theorem setHostFn_regs (i j : Nat) (x : HostFn) (s : State) : (setHostFn i j x s).regs = s.regs := id rfl
@[simp] theorem setHostFn_latched (i j : Nat) (x : HostFn) (s : State) : (setHostFn i j x s).latched = s.latched := id rfl
@[simp] theorem setHostFn_causes (i j : Nat) (x : HostFn) (s : State) : (setHostFn i j x s).causes = s.causes := id rfl
@[simp] theorem setHostFn_staleMid (i j : Nat) (x : HostFn) (s : State) : (setHostFn i j x s).staleMid = s.staleMid := id rfl
@[simp] theorem setHostFn_tiles (i j : Nat) (x : HostFn) (s : State) : (setHostFn i j x s).tiles = s.tiles := id rfl
@[simp] theorem setHostFn_sram (i j : Nat) (x : HostFn) (s : State) : (setHostFn i j x s).sram = s.sram := id rfl
@[simp] theorem setHostFn_sramPoison (i j : Nat) (x : HostFn) (s : State) : (setHostFn i j x s).sramPoison = s.sramPoison := id rfl
@[simp] theorem setHostFn_mesh (i j : Nat) (x : HostFn) (s : State) : (setHostFn i j x s).mesh = s.mesh := id rfl
@[simp] theorem setHostFn_rowBus (i j : Nat) (x : HostFn) (s : State) : (setHostFn i j x s).rowBus = s.rowBus := id rfl
@[simp] theorem setHostFn_scaleBus (i j : Nat) (x : HostFn) (s : State) : (setHostFn i j x s).scaleBus = s.scaleBus := id rfl
@[simp] theorem setHostFn_range (i j : Nat) (x : HostFn) (s : State) : (setHostFn i j x s).range = s.range := id rfl
@[simp] theorem setHostFn_zip (i j : Nat) (x : HostFn) (s : State) : (setHostFn i j x s).zip = s.zip := id rfl
@[simp] theorem setHostFn_packed (i j : Nat) (x : HostFn) (s : State) : (setHostFn i j x s).packed = s.packed := id rfl
@[simp] theorem setHostFn_bindings (i j : Nat) (x : HostFn) (s : State) : (setHostFn i j x s).bindings = s.bindings := id rfl
@[simp] theorem setHostFn_reqs (i j : Nat) (x : HostFn) (s : State) : (setHostFn i j x s).reqs = s.reqs := id rfl
@[simp] theorem setHostFn_chans (i j : Nat) (x : HostFn) (s : State) : (setHostFn i j x s).chans = s.chans := id rfl
@[simp] theorem setHostFn_serials (i j : Nat) (x : HostFn) (s : State) : (setHostFn i j x s).serials = s.serials := id rfl
@[simp] theorem setHostFn_handles (i j : Nat) (x : HostFn) (s : State) : (setHostFn i j x s).handles = s.handles := id rfl
@[simp] theorem setHostFn_versions (i j : Nat) (x : HostFn) (s : State) : (setHostFn i j x s).versions = s.versions := id rfl
@[simp] theorem setHostFn_rallies (i j : Nat) (x : HostFn) (s : State) : (setHostFn i j x s).rallies = s.rallies := id rfl
@[simp] theorem setHostFn_selects (i j : Nat) (x : HostFn) (s : State) : (setHostFn i j x s).selects = s.selects := id rfl
@[simp] theorem setHostFn_deferred (i j : Nat) (x : HostFn) (s : State) : (setHostFn i j x s).deferred = s.deferred := id rfl
@[simp] theorem setHostFn_ws (i j : Nat) (x : HostFn) (s : State) : (setHostFn i j x s).ws = s.ws := id rfl
@[simp] theorem setHostFn_mail (i j : Nat) (x : HostFn) (s : State) : (setHostFn i j x s).mail = s.mail := id rfl
@[simp] theorem setHostFn_badSlots (i j : Nat) (x : HostFn) (s : State) : (setHostFn i j x s).badSlots = s.badSlots := id rfl
@[simp] theorem setHostFn_parity (i j : Nat) (x : HostFn) (s : State) : (setHostFn i j x s).parity = s.parity := id rfl
@[simp] theorem setHostFn_powerN (i j : Nat) (x : HostFn) (s : State) : (setHostFn i j x s).powerN = s.powerN := id rfl
@[simp] theorem setHostFn_powerS (i j : Nat) (x : HostFn) (s : State) : (setHostFn i j x s).powerS = s.powerS := id rfl
@[simp] theorem setHostFn_votes (i j : Nat) (x : HostFn) (s : State) : (setHostFn i j x s).votes = s.votes := id rfl
@[simp] theorem setHostFn_samples (i j : Nat) (x : HostFn) (s : State) : (setHostFn i j x s).samples = s.samples := id rfl
@[simp] theorem setHostFn_lowSamples (i j : Nat) (x : HostFn) (s : State) : (setHostFn i j x s).lowSamples = s.lowSamples := id rfl
@[simp] theorem setHostFn_ring (i j : Nat) (x : HostFn) (s : State) : (setHostFn i j x s).ring = s.ring := id rfl
@[simp] theorem setHostFn_qps (i j : Nat) (x : HostFn) (s : State) : (setHostFn i j x s).qps = s.qps := id rfl
@[simp] theorem setHostFn_heldOut (i j : Nat) (x : HostFn) (s : State) : (setHostFn i j x s).heldOut = s.heldOut := id rfl
@[simp] theorem setHostFn_replicaN (i j : Nat) (x : HostFn) (s : State) : (setHostFn i j x s).replicaN = s.replicaN := id rfl
@[simp] theorem setHostFn_replicaS (i j : Nat) (x : HostFn) (s : State) : (setHostFn i j x s).replicaS = s.replicaS := id rfl
@[simp] theorem setHostFn_complexN (i j : Nat) (x : HostFn) (s : State) : (setHostFn i j x s).complexN = s.complexN := id rfl
@[simp] theorem setHostFn_complexS (i j : Nat) (x : HostFn) (s : State) : (setHostFn i j x s).complexS = s.complexS := id rfl
@[simp] theorem setHostFn_update (i j : Nat) (x : HostFn) (s : State) : (setHostFn i j x s).update = s.update := id rfl
@[simp] theorem setHostFn_boot (i j : Nat) (x : HostFn) (s : State) : (setHostFn i j x s).boot = s.boot := id rfl
@[simp] theorem setHostFn_restores (i j : Nat) (x : HostFn) (s : State) : (setHostFn i j x s).restores = s.restores := id rfl
@[simp] theorem setHostFn_releasedAt (i j : Nat) (x : HostFn) (s : State) : (setHostFn i j x s).releasedAt = s.releasedAt := id rfl
@[simp] theorem setHostFn_sensors (i j : Nat) (x : HostFn) (s : State) : (setHostFn i j x s).sensors = s.sensors := id rfl
@[simp] theorem setHostFn_save (i j : Nat) (x : HostFn) (s : State) : (setHostFn i j x s).save = s.save := id rfl
@[simp] theorem setHostFn_record (i j : Nat) (x : HostFn) (s : State) : (setHostFn i j x s).record = s.record := id rfl
@[simp] theorem setHostFn_free (i j : Nat) (x : HostFn) (s : State) : (setHostFn i j x s).free = s.free := id rfl
@[simp] theorem setHostFn_out (i j : Nat) (x : HostFn) (s : State) : (setHostFn i j x s).out = s.out := id rfl
@[simp] theorem setHostFn_pending (i j : Nat) (x : HostFn) (s : State) : (setHostFn i j x s).pending = s.pending := id rfl

/-! ### setQp -/
@[simp] theorem setQp_pins (q : Qp) (s : State) : (setQp q s).pins = s.pins := id rfl
@[simp] theorem setQp_fuses (q : Qp) (s : State) : (setQp q s).fuses = s.fuses := id rfl
@[simp] theorem setQp_phase (q : Qp) (s : State) : (setQp q s).phase = s.phase := id rfl
@[simp] theorem setQp_timer (q : Qp) (s : State) : (setQp q s).timer = s.timer := id rfl
@[simp] theorem setQp_timerFrac (q : Qp) (s : State) : (setQp q s).timerFrac = s.timerFrac := id rfl
@[simp] theorem setQp_regs (q : Qp) (s : State) : (setQp q s).regs = s.regs := id rfl
@[simp] theorem setQp_latched (q : Qp) (s : State) : (setQp q s).latched = s.latched := id rfl
@[simp] theorem setQp_causes (q : Qp) (s : State) : (setQp q s).causes = s.causes := id rfl
@[simp] theorem setQp_staleMid (q : Qp) (s : State) : (setQp q s).staleMid = s.staleMid := id rfl
@[simp] theorem setQp_tiles (q : Qp) (s : State) : (setQp q s).tiles = s.tiles := id rfl
@[simp] theorem setQp_sram (q : Qp) (s : State) : (setQp q s).sram = s.sram := id rfl
@[simp] theorem setQp_sramPoison (q : Qp) (s : State) : (setQp q s).sramPoison = s.sramPoison := id rfl
@[simp] theorem setQp_mesh (q : Qp) (s : State) : (setQp q s).mesh = s.mesh := id rfl
@[simp] theorem setQp_rowBus (q : Qp) (s : State) : (setQp q s).rowBus = s.rowBus := id rfl
@[simp] theorem setQp_scaleBus (q : Qp) (s : State) : (setQp q s).scaleBus = s.scaleBus := id rfl
@[simp] theorem setQp_range (q : Qp) (s : State) : (setQp q s).range = s.range := id rfl
@[simp] theorem setQp_zip (q : Qp) (s : State) : (setQp q s).zip = s.zip := id rfl
@[simp] theorem setQp_packed (q : Qp) (s : State) : (setQp q s).packed = s.packed := id rfl
@[simp] theorem setQp_bindings (q : Qp) (s : State) : (setQp q s).bindings = s.bindings := id rfl
@[simp] theorem setQp_reqs (q : Qp) (s : State) : (setQp q s).reqs = s.reqs := id rfl
@[simp] theorem setQp_chans (q : Qp) (s : State) : (setQp q s).chans = s.chans := id rfl
@[simp] theorem setQp_serials (q : Qp) (s : State) : (setQp q s).serials = s.serials := id rfl
@[simp] theorem setQp_handles (q : Qp) (s : State) : (setQp q s).handles = s.handles := id rfl
@[simp] theorem setQp_versions (q : Qp) (s : State) : (setQp q s).versions = s.versions := id rfl
@[simp] theorem setQp_rallies (q : Qp) (s : State) : (setQp q s).rallies = s.rallies := id rfl
@[simp] theorem setQp_selects (q : Qp) (s : State) : (setQp q s).selects = s.selects := id rfl
@[simp] theorem setQp_deferred (q : Qp) (s : State) : (setQp q s).deferred = s.deferred := id rfl
@[simp] theorem setQp_ws (q : Qp) (s : State) : (setQp q s).ws = s.ws := id rfl
@[simp] theorem setQp_mail (q : Qp) (s : State) : (setQp q s).mail = s.mail := id rfl
@[simp] theorem setQp_hostFns (q : Qp) (s : State) : (setQp q s).hostFns = s.hostFns := id rfl
@[simp] theorem setQp_badSlots (q : Qp) (s : State) : (setQp q s).badSlots = s.badSlots := id rfl
@[simp] theorem setQp_parity (q : Qp) (s : State) : (setQp q s).parity = s.parity := id rfl
@[simp] theorem setQp_powerN (q : Qp) (s : State) : (setQp q s).powerN = s.powerN := id rfl
@[simp] theorem setQp_powerS (q : Qp) (s : State) : (setQp q s).powerS = s.powerS := id rfl
@[simp] theorem setQp_votes (q : Qp) (s : State) : (setQp q s).votes = s.votes := id rfl
@[simp] theorem setQp_samples (q : Qp) (s : State) : (setQp q s).samples = s.samples := id rfl
@[simp] theorem setQp_lowSamples (q : Qp) (s : State) : (setQp q s).lowSamples = s.lowSamples := id rfl
@[simp] theorem setQp_ring (q : Qp) (s : State) : (setQp q s).ring = s.ring := id rfl
@[simp] theorem setQp_heldOut (q : Qp) (s : State) : (setQp q s).heldOut = s.heldOut := id rfl
@[simp] theorem setQp_replicaN (q : Qp) (s : State) : (setQp q s).replicaN = s.replicaN := id rfl
@[simp] theorem setQp_replicaS (q : Qp) (s : State) : (setQp q s).replicaS = s.replicaS := id rfl
@[simp] theorem setQp_complexN (q : Qp) (s : State) : (setQp q s).complexN = s.complexN := id rfl
@[simp] theorem setQp_complexS (q : Qp) (s : State) : (setQp q s).complexS = s.complexS := id rfl
@[simp] theorem setQp_update (q : Qp) (s : State) : (setQp q s).update = s.update := id rfl
@[simp] theorem setQp_boot (q : Qp) (s : State) : (setQp q s).boot = s.boot := id rfl
@[simp] theorem setQp_restores (q : Qp) (s : State) : (setQp q s).restores = s.restores := id rfl
@[simp] theorem setQp_releasedAt (q : Qp) (s : State) : (setQp q s).releasedAt = s.releasedAt := id rfl
@[simp] theorem setQp_sensors (q : Qp) (s : State) : (setQp q s).sensors = s.sensors := id rfl
@[simp] theorem setQp_save (q : Qp) (s : State) : (setQp q s).save = s.save := id rfl
@[simp] theorem setQp_record (q : Qp) (s : State) : (setQp q s).record = s.record := id rfl
@[simp] theorem setQp_free (q : Qp) (s : State) : (setQp q s).free = s.free := id rfl
@[simp] theorem setQp_out (q : Qp) (s : State) : (setQp q s).out = s.out := id rfl
@[simp] theorem setQp_pending (q : Qp) (s : State) : (setQp q s).pending = s.pending := id rfl

/-! ### setCauses -/
@[simp] theorem setCauses_pins (p : Page) (c : List (Nat × Bool)) (s : State) : (setCauses p c s).pins = s.pins := id rfl
@[simp] theorem setCauses_fuses (p : Page) (c : List (Nat × Bool)) (s : State) : (setCauses p c s).fuses = s.fuses := id rfl
@[simp] theorem setCauses_phase (p : Page) (c : List (Nat × Bool)) (s : State) : (setCauses p c s).phase = s.phase := id rfl
@[simp] theorem setCauses_timer (p : Page) (c : List (Nat × Bool)) (s : State) : (setCauses p c s).timer = s.timer := id rfl
@[simp] theorem setCauses_timerFrac (p : Page) (c : List (Nat × Bool)) (s : State) : (setCauses p c s).timerFrac = s.timerFrac := id rfl
@[simp] theorem setCauses_regs (p : Page) (c : List (Nat × Bool)) (s : State) : (setCauses p c s).regs = s.regs := id rfl
@[simp] theorem setCauses_latched (p : Page) (c : List (Nat × Bool)) (s : State) : (setCauses p c s).latched = s.latched := id rfl
@[simp] theorem setCauses_staleMid (p : Page) (c : List (Nat × Bool)) (s : State) : (setCauses p c s).staleMid = s.staleMid := id rfl
@[simp] theorem setCauses_tiles (p : Page) (c : List (Nat × Bool)) (s : State) : (setCauses p c s).tiles = s.tiles := id rfl
@[simp] theorem setCauses_sram (p : Page) (c : List (Nat × Bool)) (s : State) : (setCauses p c s).sram = s.sram := id rfl
@[simp] theorem setCauses_sramPoison (p : Page) (c : List (Nat × Bool)) (s : State) : (setCauses p c s).sramPoison = s.sramPoison := id rfl
@[simp] theorem setCauses_mesh (p : Page) (c : List (Nat × Bool)) (s : State) : (setCauses p c s).mesh = s.mesh := id rfl
@[simp] theorem setCauses_rowBus (p : Page) (c : List (Nat × Bool)) (s : State) : (setCauses p c s).rowBus = s.rowBus := id rfl
@[simp] theorem setCauses_scaleBus (p : Page) (c : List (Nat × Bool)) (s : State) : (setCauses p c s).scaleBus = s.scaleBus := id rfl
@[simp] theorem setCauses_range (p : Page) (c : List (Nat × Bool)) (s : State) : (setCauses p c s).range = s.range := id rfl
@[simp] theorem setCauses_zip (p : Page) (c : List (Nat × Bool)) (s : State) : (setCauses p c s).zip = s.zip := id rfl
@[simp] theorem setCauses_packed (p : Page) (c : List (Nat × Bool)) (s : State) : (setCauses p c s).packed = s.packed := id rfl
@[simp] theorem setCauses_bindings (p : Page) (c : List (Nat × Bool)) (s : State) : (setCauses p c s).bindings = s.bindings := id rfl
@[simp] theorem setCauses_reqs (p : Page) (c : List (Nat × Bool)) (s : State) : (setCauses p c s).reqs = s.reqs := id rfl
@[simp] theorem setCauses_chans (p : Page) (c : List (Nat × Bool)) (s : State) : (setCauses p c s).chans = s.chans := id rfl
@[simp] theorem setCauses_serials (p : Page) (c : List (Nat × Bool)) (s : State) : (setCauses p c s).serials = s.serials := id rfl
@[simp] theorem setCauses_handles (p : Page) (c : List (Nat × Bool)) (s : State) : (setCauses p c s).handles = s.handles := id rfl
@[simp] theorem setCauses_versions (p : Page) (c : List (Nat × Bool)) (s : State) : (setCauses p c s).versions = s.versions := id rfl
@[simp] theorem setCauses_rallies (p : Page) (c : List (Nat × Bool)) (s : State) : (setCauses p c s).rallies = s.rallies := id rfl
@[simp] theorem setCauses_selects (p : Page) (c : List (Nat × Bool)) (s : State) : (setCauses p c s).selects = s.selects := id rfl
@[simp] theorem setCauses_deferred (p : Page) (c : List (Nat × Bool)) (s : State) : (setCauses p c s).deferred = s.deferred := id rfl
@[simp] theorem setCauses_ws (p : Page) (c : List (Nat × Bool)) (s : State) : (setCauses p c s).ws = s.ws := id rfl
@[simp] theorem setCauses_mail (p : Page) (c : List (Nat × Bool)) (s : State) : (setCauses p c s).mail = s.mail := id rfl
@[simp] theorem setCauses_hostFns (p : Page) (c : List (Nat × Bool)) (s : State) : (setCauses p c s).hostFns = s.hostFns := id rfl
@[simp] theorem setCauses_badSlots (p : Page) (c : List (Nat × Bool)) (s : State) : (setCauses p c s).badSlots = s.badSlots := id rfl
@[simp] theorem setCauses_parity (p : Page) (c : List (Nat × Bool)) (s : State) : (setCauses p c s).parity = s.parity := id rfl
@[simp] theorem setCauses_powerN (p : Page) (c : List (Nat × Bool)) (s : State) : (setCauses p c s).powerN = s.powerN := id rfl
@[simp] theorem setCauses_powerS (p : Page) (c : List (Nat × Bool)) (s : State) : (setCauses p c s).powerS = s.powerS := id rfl
@[simp] theorem setCauses_votes (p : Page) (c : List (Nat × Bool)) (s : State) : (setCauses p c s).votes = s.votes := id rfl
@[simp] theorem setCauses_samples (p : Page) (c : List (Nat × Bool)) (s : State) : (setCauses p c s).samples = s.samples := id rfl
@[simp] theorem setCauses_lowSamples (p : Page) (c : List (Nat × Bool)) (s : State) : (setCauses p c s).lowSamples = s.lowSamples := id rfl
@[simp] theorem setCauses_ring (p : Page) (c : List (Nat × Bool)) (s : State) : (setCauses p c s).ring = s.ring := id rfl
@[simp] theorem setCauses_qps (p : Page) (c : List (Nat × Bool)) (s : State) : (setCauses p c s).qps = s.qps := id rfl
@[simp] theorem setCauses_heldOut (p : Page) (c : List (Nat × Bool)) (s : State) : (setCauses p c s).heldOut = s.heldOut := id rfl
@[simp] theorem setCauses_replicaN (p : Page) (c : List (Nat × Bool)) (s : State) : (setCauses p c s).replicaN = s.replicaN := id rfl
@[simp] theorem setCauses_replicaS (p : Page) (c : List (Nat × Bool)) (s : State) : (setCauses p c s).replicaS = s.replicaS := id rfl
@[simp] theorem setCauses_complexN (p : Page) (c : List (Nat × Bool)) (s : State) : (setCauses p c s).complexN = s.complexN := id rfl
@[simp] theorem setCauses_complexS (p : Page) (c : List (Nat × Bool)) (s : State) : (setCauses p c s).complexS = s.complexS := id rfl
@[simp] theorem setCauses_update (p : Page) (c : List (Nat × Bool)) (s : State) : (setCauses p c s).update = s.update := id rfl
@[simp] theorem setCauses_boot (p : Page) (c : List (Nat × Bool)) (s : State) : (setCauses p c s).boot = s.boot := id rfl
@[simp] theorem setCauses_restores (p : Page) (c : List (Nat × Bool)) (s : State) : (setCauses p c s).restores = s.restores := id rfl
@[simp] theorem setCauses_releasedAt (p : Page) (c : List (Nat × Bool)) (s : State) : (setCauses p c s).releasedAt = s.releasedAt := id rfl
@[simp] theorem setCauses_sensors (p : Page) (c : List (Nat × Bool)) (s : State) : (setCauses p c s).sensors = s.sensors := id rfl
@[simp] theorem setCauses_save (p : Page) (c : List (Nat × Bool)) (s : State) : (setCauses p c s).save = s.save := id rfl
@[simp] theorem setCauses_record (p : Page) (c : List (Nat × Bool)) (s : State) : (setCauses p c s).record = s.record := id rfl
@[simp] theorem setCauses_free (p : Page) (c : List (Nat × Bool)) (s : State) : (setCauses p c s).free = s.free := id rfl
@[simp] theorem setCauses_out (p : Page) (c : List (Nat × Bool)) (s : State) : (setCauses p c s).out = s.out := id rfl
@[simp] theorem setCauses_pending (p : Page) (c : List (Nat × Bool)) (s : State) : (setCauses p c s).pending = s.pending := id rfl

/-! ### raise -/
@[simp] theorem raise_pins (p : Page) (i : Nat) (s : State) : (raise p i s).pins = s.pins :=
  (raise_page p i s).parts .pins (by decide) (by decide)
@[simp] theorem raise_fuses (p : Page) (i : Nat) (s : State) : (raise p i s).fuses = s.fuses :=
  (raise_page p i s).parts .fuses (by decide) (by decide)
@[simp] theorem raise_phase (p : Page) (i : Nat) (s : State) : (raise p i s).phase = s.phase :=
  (raise_page p i s).parts .phase (by decide) (by decide)
@[simp] theorem raise_timer (p : Page) (i : Nat) (s : State) : (raise p i s).timer = s.timer :=
  (raise_page p i s).parts .timer (by decide) (by decide)
@[simp] theorem raise_timerFrac (p : Page) (i : Nat) (s : State) : (raise p i s).timerFrac = s.timerFrac :=
  (raise_page p i s).parts .timerFrac (by decide) (by decide)
@[simp] theorem raise_latched (p : Page) (i : Nat) (s : State) : (raise p i s).latched = s.latched :=
  (raise_page p i s).parts .latched (by decide) (by decide)
@[simp] theorem raise_causes (p : Page) (i : Nat) (s : State) : (raise p i s).causes = s.causes :=
  (raise_page p i s).parts .causes (by decide) (by decide)
@[simp] theorem raise_staleMid (p : Page) (i : Nat) (s : State) : (raise p i s).staleMid = s.staleMid :=
  (raise_page p i s).parts .staleMid (by decide) (by decide)
@[simp] theorem raise_tiles (p : Page) (i : Nat) (s : State) : (raise p i s).tiles = s.tiles :=
  (raise_page p i s).parts .tiles (by decide) (by decide)
@[simp] theorem raise_sram (p : Page) (i : Nat) (s : State) : (raise p i s).sram = s.sram :=
  (raise_page p i s).parts .sram (by decide) (by decide)
@[simp] theorem raise_sramPoison (p : Page) (i : Nat) (s : State) : (raise p i s).sramPoison = s.sramPoison :=
  (raise_page p i s).parts .sramPoison (by decide) (by decide)
@[simp] theorem raise_mesh (p : Page) (i : Nat) (s : State) : (raise p i s).mesh = s.mesh :=
  (raise_page p i s).parts .mesh (by decide) (by decide)
@[simp] theorem raise_rowBus (p : Page) (i : Nat) (s : State) : (raise p i s).rowBus = s.rowBus :=
  (raise_page p i s).parts .rowBus (by decide) (by decide)
@[simp] theorem raise_scaleBus (p : Page) (i : Nat) (s : State) : (raise p i s).scaleBus = s.scaleBus :=
  (raise_page p i s).parts .scaleBus (by decide) (by decide)
@[simp] theorem raise_range (p : Page) (i : Nat) (s : State) : (raise p i s).range = s.range :=
  (raise_page p i s).parts .range (by decide) (by decide)
@[simp] theorem raise_zip (p : Page) (i : Nat) (s : State) : (raise p i s).zip = s.zip :=
  (raise_page p i s).parts .zip (by decide) (by decide)
@[simp] theorem raise_packed (p : Page) (i : Nat) (s : State) : (raise p i s).packed = s.packed :=
  (raise_page p i s).parts .packed (by decide) (by decide)
@[simp] theorem raise_bindings (p : Page) (i : Nat) (s : State) : (raise p i s).bindings = s.bindings :=
  (raise_page p i s).parts .bindings (by decide) (by decide)
@[simp] theorem raise_reqs (p : Page) (i : Nat) (s : State) : (raise p i s).reqs = s.reqs :=
  (raise_page p i s).parts .reqs (by decide) (by decide)
@[simp] theorem raise_chans (p : Page) (i : Nat) (s : State) : (raise p i s).chans = s.chans :=
  (raise_page p i s).parts .chans (by decide) (by decide)
@[simp] theorem raise_serials (p : Page) (i : Nat) (s : State) : (raise p i s).serials = s.serials :=
  (raise_page p i s).parts .serials (by decide) (by decide)
@[simp] theorem raise_handles (p : Page) (i : Nat) (s : State) : (raise p i s).handles = s.handles :=
  (raise_page p i s).parts .handles (by decide) (by decide)
@[simp] theorem raise_versions (p : Page) (i : Nat) (s : State) : (raise p i s).versions = s.versions :=
  (raise_page p i s).parts .versions (by decide) (by decide)
@[simp] theorem raise_rallies (p : Page) (i : Nat) (s : State) : (raise p i s).rallies = s.rallies :=
  (raise_page p i s).parts .rallies (by decide) (by decide)
@[simp] theorem raise_selects (p : Page) (i : Nat) (s : State) : (raise p i s).selects = s.selects :=
  (raise_page p i s).parts .selects (by decide) (by decide)
@[simp] theorem raise_deferred (p : Page) (i : Nat) (s : State) : (raise p i s).deferred = s.deferred :=
  (raise_page p i s).parts .deferred (by decide) (by decide)
@[simp] theorem raise_ws (p : Page) (i : Nat) (s : State) : (raise p i s).ws = s.ws :=
  (raise_page p i s).parts .ws (by decide) (by decide)
@[simp] theorem raise_hostFns (p : Page) (i : Nat) (s : State) : (raise p i s).hostFns = s.hostFns :=
  (raise_page p i s).parts .hostFns (by decide) (by decide)
@[simp] theorem raise_badSlots (p : Page) (i : Nat) (s : State) : (raise p i s).badSlots = s.badSlots :=
  (raise_page p i s).parts .badSlots (by decide) (by decide)
@[simp] theorem raise_parity (p : Page) (i : Nat) (s : State) : (raise p i s).parity = s.parity :=
  (raise_page p i s).parts .parity (by decide) (by decide)
@[simp] theorem raise_powerN (p : Page) (i : Nat) (s : State) : (raise p i s).powerN = s.powerN :=
  (raise_page p i s).parts .powerN (by decide) (by decide)
@[simp] theorem raise_powerS (p : Page) (i : Nat) (s : State) : (raise p i s).powerS = s.powerS :=
  (raise_page p i s).parts .powerS (by decide) (by decide)
@[simp] theorem raise_votes (p : Page) (i : Nat) (s : State) : (raise p i s).votes = s.votes :=
  (raise_page p i s).parts .votes (by decide) (by decide)
@[simp] theorem raise_samples (p : Page) (i : Nat) (s : State) : (raise p i s).samples = s.samples :=
  (raise_page p i s).parts .samples (by decide) (by decide)
@[simp] theorem raise_lowSamples (p : Page) (i : Nat) (s : State) : (raise p i s).lowSamples = s.lowSamples :=
  (raise_page p i s).parts .lowSamples (by decide) (by decide)
@[simp] theorem raise_ring (p : Page) (i : Nat) (s : State) : (raise p i s).ring = s.ring :=
  (raise_page p i s).parts .ring (by decide) (by decide)
@[simp] theorem raise_qps (p : Page) (i : Nat) (s : State) : (raise p i s).qps = s.qps :=
  (raise_page p i s).parts .qps (by decide) (by decide)
@[simp] theorem raise_replicaN (p : Page) (i : Nat) (s : State) : (raise p i s).replicaN = s.replicaN :=
  (raise_page p i s).parts .replicaN (by decide) (by decide)
@[simp] theorem raise_replicaS (p : Page) (i : Nat) (s : State) : (raise p i s).replicaS = s.replicaS :=
  (raise_page p i s).parts .replicaS (by decide) (by decide)
@[simp] theorem raise_complexN (p : Page) (i : Nat) (s : State) : (raise p i s).complexN = s.complexN :=
  (raise_page p i s).parts .complexN (by decide) (by decide)
@[simp] theorem raise_complexS (p : Page) (i : Nat) (s : State) : (raise p i s).complexS = s.complexS :=
  (raise_page p i s).parts .complexS (by decide) (by decide)
@[simp] theorem raise_update (p : Page) (i : Nat) (s : State) : (raise p i s).update = s.update :=
  (raise_page p i s).parts .update (by decide) (by decide)
@[simp] theorem raise_boot (p : Page) (i : Nat) (s : State) : (raise p i s).boot = s.boot :=
  (raise_page p i s).parts .boot (by decide) (by decide)
@[simp] theorem raise_restores (p : Page) (i : Nat) (s : State) : (raise p i s).restores = s.restores :=
  (raise_page p i s).parts .restores (by decide) (by decide)
@[simp] theorem raise_releasedAt (p : Page) (i : Nat) (s : State) : (raise p i s).releasedAt = s.releasedAt :=
  (raise_page p i s).parts .releasedAt (by decide) (by decide)
@[simp] theorem raise_sensors (p : Page) (i : Nat) (s : State) : (raise p i s).sensors = s.sensors :=
  (raise_page p i s).parts .sensors (by decide) (by decide)
@[simp] theorem raise_save (p : Page) (i : Nat) (s : State) : (raise p i s).save = s.save :=
  (raise_page p i s).parts .save (by decide) (by decide)
@[simp] theorem raise_record (p : Page) (i : Nat) (s : State) : (raise p i s).record = s.record :=
  (raise_page p i s).parts .record (by decide) (by decide)
@[simp] theorem raise_free (p : Page) (i : Nat) (s : State) : (raise p i s).free = s.free :=
  (raise_page p i s).parts .free (by decide) (by decide)
@[simp] theorem raise_pending (p : Page) (i : Nat) (s : State) : (raise p i s).pending = s.pending :=
  (raise_page p i s).parts .pending (by decide) (by decide)
/-! ### setBlk -/
@[simp] theorem setBlk_pins (p : Page) (b : Blk) (s : State) : (setBlk p b s).pins = s.pins :=
  (setBlk_page p b s).parts .pins (by decide) (by decide)
@[simp] theorem setBlk_fuses (p : Page) (b : Blk) (s : State) : (setBlk p b s).fuses = s.fuses :=
  (setBlk_page p b s).parts .fuses (by decide) (by decide)
@[simp] theorem setBlk_phase (p : Page) (b : Blk) (s : State) : (setBlk p b s).phase = s.phase :=
  (setBlk_page p b s).parts .phase (by decide) (by decide)
@[simp] theorem setBlk_timer (p : Page) (b : Blk) (s : State) : (setBlk p b s).timer = s.timer :=
  (setBlk_page p b s).parts .timer (by decide) (by decide)
@[simp] theorem setBlk_timerFrac (p : Page) (b : Blk) (s : State) : (setBlk p b s).timerFrac = s.timerFrac :=
  (setBlk_page p b s).parts .timerFrac (by decide) (by decide)
@[simp] theorem setBlk_latched (p : Page) (b : Blk) (s : State) : (setBlk p b s).latched = s.latched :=
  (setBlk_page p b s).parts .latched (by decide) (by decide)
@[simp] theorem setBlk_causes (p : Page) (b : Blk) (s : State) : (setBlk p b s).causes = s.causes :=
  (setBlk_page p b s).parts .causes (by decide) (by decide)
@[simp] theorem setBlk_staleMid (p : Page) (b : Blk) (s : State) : (setBlk p b s).staleMid = s.staleMid :=
  (setBlk_page p b s).parts .staleMid (by decide) (by decide)
@[simp] theorem setBlk_tiles (p : Page) (b : Blk) (s : State) : (setBlk p b s).tiles = s.tiles :=
  (setBlk_page p b s).parts .tiles (by decide) (by decide)
@[simp] theorem setBlk_sram (p : Page) (b : Blk) (s : State) : (setBlk p b s).sram = s.sram :=
  (setBlk_page p b s).parts .sram (by decide) (by decide)
@[simp] theorem setBlk_sramPoison (p : Page) (b : Blk) (s : State) : (setBlk p b s).sramPoison = s.sramPoison :=
  (setBlk_page p b s).parts .sramPoison (by decide) (by decide)
@[simp] theorem setBlk_mesh (p : Page) (b : Blk) (s : State) : (setBlk p b s).mesh = s.mesh :=
  (setBlk_page p b s).parts .mesh (by decide) (by decide)
@[simp] theorem setBlk_rowBus (p : Page) (b : Blk) (s : State) : (setBlk p b s).rowBus = s.rowBus :=
  (setBlk_page p b s).parts .rowBus (by decide) (by decide)
@[simp] theorem setBlk_scaleBus (p : Page) (b : Blk) (s : State) : (setBlk p b s).scaleBus = s.scaleBus :=
  (setBlk_page p b s).parts .scaleBus (by decide) (by decide)
@[simp] theorem setBlk_range (p : Page) (b : Blk) (s : State) : (setBlk p b s).range = s.range :=
  (setBlk_page p b s).parts .range (by decide) (by decide)
@[simp] theorem setBlk_zip (p : Page) (b : Blk) (s : State) : (setBlk p b s).zip = s.zip :=
  (setBlk_page p b s).parts .zip (by decide) (by decide)
@[simp] theorem setBlk_packed (p : Page) (b : Blk) (s : State) : (setBlk p b s).packed = s.packed :=
  (setBlk_page p b s).parts .packed (by decide) (by decide)
@[simp] theorem setBlk_bindings (p : Page) (b : Blk) (s : State) : (setBlk p b s).bindings = s.bindings :=
  (setBlk_page p b s).parts .bindings (by decide) (by decide)
@[simp] theorem setBlk_reqs (p : Page) (b : Blk) (s : State) : (setBlk p b s).reqs = s.reqs :=
  (setBlk_page p b s).parts .reqs (by decide) (by decide)
@[simp] theorem setBlk_chans (p : Page) (b : Blk) (s : State) : (setBlk p b s).chans = s.chans :=
  (setBlk_page p b s).parts .chans (by decide) (by decide)
@[simp] theorem setBlk_serials (p : Page) (b : Blk) (s : State) : (setBlk p b s).serials = s.serials :=
  (setBlk_page p b s).parts .serials (by decide) (by decide)
@[simp] theorem setBlk_handles (p : Page) (b : Blk) (s : State) : (setBlk p b s).handles = s.handles :=
  (setBlk_page p b s).parts .handles (by decide) (by decide)
@[simp] theorem setBlk_versions (p : Page) (b : Blk) (s : State) : (setBlk p b s).versions = s.versions :=
  (setBlk_page p b s).parts .versions (by decide) (by decide)
@[simp] theorem setBlk_rallies (p : Page) (b : Blk) (s : State) : (setBlk p b s).rallies = s.rallies :=
  (setBlk_page p b s).parts .rallies (by decide) (by decide)
@[simp] theorem setBlk_selects (p : Page) (b : Blk) (s : State) : (setBlk p b s).selects = s.selects :=
  (setBlk_page p b s).parts .selects (by decide) (by decide)
@[simp] theorem setBlk_deferred (p : Page) (b : Blk) (s : State) : (setBlk p b s).deferred = s.deferred :=
  (setBlk_page p b s).parts .deferred (by decide) (by decide)
@[simp] theorem setBlk_ws (p : Page) (b : Blk) (s : State) : (setBlk p b s).ws = s.ws :=
  (setBlk_page p b s).parts .ws (by decide) (by decide)
@[simp] theorem setBlk_hostFns (p : Page) (b : Blk) (s : State) : (setBlk p b s).hostFns = s.hostFns :=
  (setBlk_page p b s).parts .hostFns (by decide) (by decide)
@[simp] theorem setBlk_badSlots (p : Page) (b : Blk) (s : State) : (setBlk p b s).badSlots = s.badSlots :=
  (setBlk_page p b s).parts .badSlots (by decide) (by decide)
@[simp] theorem setBlk_parity (p : Page) (b : Blk) (s : State) : (setBlk p b s).parity = s.parity :=
  (setBlk_page p b s).parts .parity (by decide) (by decide)
@[simp] theorem setBlk_powerN (p : Page) (b : Blk) (s : State) : (setBlk p b s).powerN = s.powerN :=
  (setBlk_page p b s).parts .powerN (by decide) (by decide)
@[simp] theorem setBlk_powerS (p : Page) (b : Blk) (s : State) : (setBlk p b s).powerS = s.powerS :=
  (setBlk_page p b s).parts .powerS (by decide) (by decide)
@[simp] theorem setBlk_votes (p : Page) (b : Blk) (s : State) : (setBlk p b s).votes = s.votes :=
  (setBlk_page p b s).parts .votes (by decide) (by decide)
@[simp] theorem setBlk_samples (p : Page) (b : Blk) (s : State) : (setBlk p b s).samples = s.samples :=
  (setBlk_page p b s).parts .samples (by decide) (by decide)
@[simp] theorem setBlk_lowSamples (p : Page) (b : Blk) (s : State) : (setBlk p b s).lowSamples = s.lowSamples :=
  (setBlk_page p b s).parts .lowSamples (by decide) (by decide)
@[simp] theorem setBlk_ring (p : Page) (b : Blk) (s : State) : (setBlk p b s).ring = s.ring :=
  (setBlk_page p b s).parts .ring (by decide) (by decide)
@[simp] theorem setBlk_qps (p : Page) (b : Blk) (s : State) : (setBlk p b s).qps = s.qps :=
  (setBlk_page p b s).parts .qps (by decide) (by decide)
@[simp] theorem setBlk_replicaN (p : Page) (b : Blk) (s : State) : (setBlk p b s).replicaN = s.replicaN :=
  (setBlk_page p b s).parts .replicaN (by decide) (by decide)
@[simp] theorem setBlk_replicaS (p : Page) (b : Blk) (s : State) : (setBlk p b s).replicaS = s.replicaS :=
  (setBlk_page p b s).parts .replicaS (by decide) (by decide)
@[simp] theorem setBlk_complexN (p : Page) (b : Blk) (s : State) : (setBlk p b s).complexN = s.complexN :=
  (setBlk_page p b s).parts .complexN (by decide) (by decide)
@[simp] theorem setBlk_complexS (p : Page) (b : Blk) (s : State) : (setBlk p b s).complexS = s.complexS :=
  (setBlk_page p b s).parts .complexS (by decide) (by decide)
@[simp] theorem setBlk_update (p : Page) (b : Blk) (s : State) : (setBlk p b s).update = s.update :=
  (setBlk_page p b s).parts .update (by decide) (by decide)
@[simp] theorem setBlk_boot (p : Page) (b : Blk) (s : State) : (setBlk p b s).boot = s.boot :=
  (setBlk_page p b s).parts .boot (by decide) (by decide)
@[simp] theorem setBlk_restores (p : Page) (b : Blk) (s : State) : (setBlk p b s).restores = s.restores :=
  (setBlk_page p b s).parts .restores (by decide) (by decide)
@[simp] theorem setBlk_releasedAt (p : Page) (b : Blk) (s : State) : (setBlk p b s).releasedAt = s.releasedAt :=
  (setBlk_page p b s).parts .releasedAt (by decide) (by decide)
@[simp] theorem setBlk_sensors (p : Page) (b : Blk) (s : State) : (setBlk p b s).sensors = s.sensors :=
  (setBlk_page p b s).parts .sensors (by decide) (by decide)
@[simp] theorem setBlk_save (p : Page) (b : Blk) (s : State) : (setBlk p b s).save = s.save :=
  (setBlk_page p b s).parts .save (by decide) (by decide)
@[simp] theorem setBlk_record (p : Page) (b : Blk) (s : State) : (setBlk p b s).record = s.record :=
  (setBlk_page p b s).parts .record (by decide) (by decide)
@[simp] theorem setBlk_free (p : Page) (b : Blk) (s : State) : (setBlk p b s).free = s.free :=
  (setBlk_page p b s).parts .free (by decide) (by decide)
@[simp] theorem setBlk_pending (p : Page) (b : Blk) (s : State) : (setBlk p b s).pending = s.pending :=
  (setBlk_page p b s).parts .pending (by decide) (by decide)

/-! ### Tiles -/

@[simp] theorem tileOf_setTile (p : Nat) (t : Tile) (s : State) : tileOf p (setTile p t s) = t := sget_sset_same _ _ _ _
theorem tileOf_setTile_ne {p q : Nat} (h : p ≠ q) (t : Tile) (s : State) : tileOf p (setTile q t s) = tileOf p s :=
  sget_sset_other _ _ _ _ _ _ h
@[simp] theorem tileOf_modTile (p : Nat) (f : Tile → Tile) (s : State) : tileOf p (modTile p f s) = f (tileOf p s) :=
  sget_sset_same _ _ _ _
theorem tileOf_modTile_ne {p q : Nat} (h : p ≠ q) (f : Tile → Tile) (s : State) : tileOf p (modTile q f s) = tileOf p s :=
  sget_sset_other _ _ _ _ _ _ h
@[simp] theorem tileOf_setRegWord (z : Nat) (a : Nat) (w : W32) (s : State) : tileOf z (setRegWord a w s) = tileOf z s := id rfl
@[simp] theorem tileOf_fset (z : Nat) (p : Page) (f : Field) (v : Nat) (s : State) : tileOf z (fset p f v s) = tileOf z s := id rfl
@[simp] theorem tileOf_fsetI (z : Nat) (p : Page) (f : Field) (i v : Nat) (s : State) : tileOf z (fsetI p f i v s) = tileOf z s := id rfl
@[simp] theorem tileOf_wrapInc (z : Nat) (p : Page) (f : Field) (n : Nat) (s : State) : tileOf z (wrapInc p f n s) = tileOf z s := id rfl
@[simp] theorem tileOf_satInc (z : Nat) (p : Page) (f : Field) (n : Nat) (s : State) : tileOf z (satInc p f n s) = tileOf z s := id rfl
@[simp] theorem tileOf_wideInc (z : Nat) (p : Page) (f g : Field) (n : Nat) (s : State) : tileOf z (wideInc p f g n s) = tileOf z s := id rfl
@[simp] theorem tileOf_wideSet (z : Nat) (p : Page) (f g : Field) (n : Nat) (s : State) : tileOf z (wideSet p f g n s) = tileOf z s := id rfl
@[simp] theorem tileOf_push (z : Nat) (o : Out) (s : State) : tileOf z (push o s) = tileOf z s := id rfl
@[simp] theorem tileOf_send (z : Nat) (m : Msg) (s : State) : tileOf z (send m s) = tileOf z s := id rfl
@[simp] theorem tileOf_arrive (z : Nat) (m : Msg) (s : State) : tileOf z (arrive m s) = tileOf z s := id rfl
@[simp] theorem tileOf_draw (z : Nat)  (s : State) : tileOf z (draw s) = tileOf z s := id rfl
@[simp] theorem tileOf_reach (z : Nat) (n : Nat) (s : State) : tileOf z (reach n s) = tileOf z s := id rfl
@[simp] theorem tileOf_setMail (z : Nat) (m : Nat) (e : Bool) (x : MbxEnd) (s : State) : tileOf z (setMail m e x s) = tileOf z s := id rfl
@[simp] theorem tileOf_modRing (z : Nat) (f : Ring → Ring) (s : State) : tileOf z (modRing f s) = tileOf z s := id rfl
@[simp] theorem tileOf_setRingPort (z : Nat) (i : Nat) (x : RingPort) (s : State) : tileOf z (setRingPort i x s) = tileOf z s := id rfl
@[simp] theorem tileOf_modRange (z : Nat) (f : Range → Range) (s : State) : tileOf z (modRange f s) = tileOf z s := id rfl
@[simp] theorem tileOf_setHome (z : Nat) (n : Nat) (h : Home) (s : State) : tileOf z (setHome n h s) = tileOf z s := id rfl
@[simp] theorem tileOf_modZip (z : Nat) (f : Zip → Zip) (s : State) : tileOf z (modZip f s) = tileOf z s := id rfl
@[simp] theorem tileOf_setReq (z : Nat) (r : Req) (s : State) : tileOf z (setReq r s) = tileOf z s := id rfl
@[simp] theorem tileOf_dropReq (z : Nat) (r : Req) (s : State) : tileOf z (dropReq r s) = tileOf z s := id rfl
@[simp] theorem tileOf_setChan (z : Nat) (c : Nat) (x : ChanSt) (s : State) : tileOf z (setChan c x s) = tileOf z s := id rfl
@[simp] theorem tileOf_setHandle (z : Nat) (x : HandleSt) (s : State) : tileOf z (setHandle x s) = tileOf z s := id rfl
@[simp] theorem tileOf_modHandle (z : Nat) (h : Nat) (f : HandleSt → HandleSt) (s : State) : tileOf z (modHandle h f s) = tileOf z s := id rfl
@[simp] theorem tileOf_setVersion (z : Nat) (v : Version) (s : State) : tileOf z (setVersion v s) = tileOf z s := id rfl
@[simp] theorem tileOf_setRally (z : Nat) (i : Nat) (c : RallyCtx) (s : State) : tileOf z (setRally i c s) = tileOf z s := id rfl
@[simp] theorem tileOf_modWs (z : Nat) (f : Weights → Weights) (s : State) : tileOf z (modWs f s) = tileOf z s := id rfl
@[simp] theorem tileOf_setWsCmd (z : Nat) (c : WsCmd) (s : State) : tileOf z (setWsCmd c s) = tileOf z s := id rfl
@[simp] theorem tileOf_setHostFn (z : Nat) (i j : Nat) (x : HostFn) (s : State) : tileOf z (setHostFn i j x s) = tileOf z s := id rfl
@[simp] theorem tileOf_setQp (z : Nat) (q : Qp) (s : State) : tileOf z (setQp q s) = tileOf z s := id rfl
@[simp] theorem tileOf_setCauses (z : Nat) (p : Page) (c : List (Nat × Bool)) (s : State) : tileOf z (setCauses p c s) = tileOf z s := id rfl
@[simp] theorem tileOf_raise (q : Nat) (p : Page) (i : Nat) (s : State) : tileOf q (raise p i s) = tileOf q s := by
  simp [tileOf]
@[simp] theorem tileOf_setBlk (q : Nat) (p : Page) (b : Blk) (s : State) : tileOf q (setBlk p b s) = tileOf q s := by
  simp [tileOf]
@[simp] theorem bank_setBank (t : Tile) (b : Bool) (k : Bank) : (t.setBank b k).bank b = k := by cases b <;> rfl
@[simp] theorem bank_setBank_not (t : Tile) (b : Bool) (k : Bank) : (t.setBank b k).bank (!b) = t.bank (!b) := by cases b <;> rfl
@[simp] theorem sub_setSub (t : Tile) (i : Nat) (u : Sub) : (t.setSub i u).sub i = u := sget_sset_same _ _ _ _
theorem sub_setSub_ne {i j : Nat} (h : i ≠ j) (t : Tile) (u : Sub) : (t.setSub j u).sub i = t.sub i :=
  sget_sset_other _ _ _ _ _ _ h
@[simp] theorem bank_setSub (t : Tile) (b : Bool) (i : Nat) (u : Sub) : (t.setSub i u).bank b = t.bank b := by cases b <;> rfl
@[simp] theorem sub_setBank (t : Tile) (b : Bool) (i : Nat) (k : Bank) : (t.setBank b k).sub i = t.sub i := by cases b <;> rfl

/-! ### Registers -/

@[simp] theorem fget_push (p : Page) (f : Field) (o : Out) (s : State) : fget p f (push o s) = fget p f s := id rfl
@[simp] theorem fget_send (p : Page) (f : Field) (m : Msg) (s : State) : fget p f (send m s) = fget p f s := id rfl
@[simp] theorem fget_arrive (p : Page) (f : Field) (m : Msg) (s : State) : fget p f (arrive m s) = fget p f s := id rfl
@[simp] theorem fget_draw (p : Page) (f : Field)  (s : State) : fget p f (draw s) = fget p f s := id rfl
@[simp] theorem fget_reach (p : Page) (f : Field) (n : Nat) (s : State) : fget p f (reach n s) = fget p f s := id rfl
@[simp] theorem fget_setTile (p : Page) (f : Field) (n : Nat) (x : Tile) (s : State) : fget p f (setTile n x s) = fget p f s := id rfl
@[simp] theorem fget_modTile (p : Page) (f : Field) (n : Nat) (g : Tile → Tile) (s : State) : fget p f (modTile n g s) = fget p f s := id rfl
@[simp] theorem fget_setCtx (p : Page) (f : Field) (n : Nat) (c : Ctx) (s : State) : fget p f (setCtx n c s) = fget p f s := id rfl
@[simp] theorem fget_modEntry (p : Page) (f : Field) (n a : Nat) (g : Entry → Entry) (s : State) : fget p f (modEntry n a g s) = fget p f s := id rfl
@[simp] theorem fget_setMail (p : Page) (f : Field) (m : Nat) (e : Bool) (x : MbxEnd) (s : State) : fget p f (setMail m e x s) = fget p f s := id rfl
@[simp] theorem fget_modRing (p : Page) (f : Field) (g : Ring → Ring) (s : State) : fget p f (modRing g s) = fget p f s := id rfl
@[simp] theorem fget_setRingPort (p : Page) (f : Field) (i : Nat) (x : RingPort) (s : State) : fget p f (setRingPort i x s) = fget p f s := id rfl
@[simp] theorem fget_modRange (p : Page) (f : Field) (g : Range → Range) (s : State) : fget p f (modRange g s) = fget p f s := id rfl
@[simp] theorem fget_setHome (p : Page) (f : Field) (n : Nat) (h : Home) (s : State) : fget p f (setHome n h s) = fget p f s := id rfl
@[simp] theorem fget_modZip (p : Page) (f : Field) (g : Zip → Zip) (s : State) : fget p f (modZip g s) = fget p f s := id rfl
@[simp] theorem fget_setReq (p : Page) (f : Field) (r : Req) (s : State) : fget p f (setReq r s) = fget p f s := id rfl
@[simp] theorem fget_dropReq (p : Page) (f : Field) (r : Req) (s : State) : fget p f (dropReq r s) = fget p f s := id rfl
@[simp] theorem fget_setChan (p : Page) (f : Field) (c : Nat) (x : ChanSt) (s : State) : fget p f (setChan c x s) = fget p f s := id rfl
@[simp] theorem fget_setHandle (p : Page) (f : Field) (x : HandleSt) (s : State) : fget p f (setHandle x s) = fget p f s := id rfl
@[simp] theorem fget_modHandle (p : Page) (f : Field) (h : Nat) (g : HandleSt → HandleSt) (s : State) : fget p f (modHandle h g s) = fget p f s := id rfl
@[simp] theorem fget_setVersion (p : Page) (f : Field) (v : Version) (s : State) : fget p f (setVersion v s) = fget p f s := id rfl
@[simp] theorem fget_setRally (p : Page) (f : Field) (i : Nat) (c : RallyCtx) (s : State) : fget p f (setRally i c s) = fget p f s := id rfl
@[simp] theorem fget_modWs (p : Page) (f : Field) (g : Weights → Weights) (s : State) : fget p f (modWs g s) = fget p f s := id rfl
@[simp] theorem fget_setWsCmd (p : Page) (f : Field) (c : WsCmd) (s : State) : fget p f (setWsCmd c s) = fget p f s := id rfl
@[simp] theorem fget_setHostFn (p : Page) (f : Field) (i j : Nat) (x : HostFn) (s : State) : fget p f (setHostFn i j x s) = fget p f s := id rfl
@[simp] theorem fget_setQp (p : Page) (f : Field) (q : Qp) (s : State) : fget p f (setQp q s) = fget p f s := id rfl
@[simp] theorem fget_setCauses (p : Page) (f : Field) (q : Page) (c : List (Nat × Bool)) (s : State) : fget p f (setCauses q c s) = fget p f s := id rfl

end Sys2Proof.Machine
end

