-- ==== Sys2Proof/WellFormed.lean ====
section
/-! DEFINITION. Which commands a sender can form: the checks the spec puts on a command before its own rule applies.
Commands whose operands are typed to their ranges have none. -/

namespace Sys2Proof

/-- A packet's payload is as long as LEN says and at most 512 bytes; reads and completions without data carry none
(R339). -/
def pktShape (p : RingPkt) : Bool :=
  decide (p.payload.length ≤ 128) &&
    (if p.ty = 0 ∨ p.ty = 3 then decide (p.payload.length = p.len.toNat) else if p.ty = 1 ∨ p.ty = 2 then p.payload.isEmpty else true)

/-- A request to firmware comes from a host function (R324, R326). -/
def reqShape (env : Env) : Bool := decide (env.mid.toNat / 8192 = 0)

/-- A command that a sender can form: access sizes (R29), window bounds (R41), converter codes of 6 bits on 1,040 columns
(R50, R70), packets (R339), node numbers (R343), chunk and response sizes (R238, R353). -/
def wellFormed : Instr → Bool
  | .registerWrite _ _ size _ => decide (size = 1 ∨ size = 2 ∨ size = 4 ∨ size = 8)
  | .bar2Read _ off len _ => decide (0 < len ∧ off.toNat + len ≤ 2 ^ 36)
  | .bar2Write _ off bytes _ => decide (0 < bytes.length ∧ off.toNat + bytes.length ≤ 2 ^ 36)
  | .passEnd _ _ errs => errs.all fun e => decide (e.1 < 1040 ∧ e.2 < 64)
  | .colsumSweepEnd _ _ errs => errs.all fun e => decide (e.2.2.1 < 1040 ∧ e.2.2.2 < 64)
  | .secondSourceRead _ _ frames => frames.all fun f => f.restore
  | .fetch env _ => reqShape env
  | .activate env _ _ _ => reqShape env
  | .replace env _ _ _ _ => reqShape env
  | .relocate env _ => reqShape env
  | .retire env _ _ => reqShape env
  | .sourceRelease env _ _ => reqShape env
  | .adapterBind env _ => reqShape env
  | .adapterUnbind env _ _ _ => reqShape env
  | .manifestChunkLanded _ _ bytes _ => decide (bytes.length ≤ 2 ^ 20)
  | .mailboxInvalid env _ => reqShape env
  | .idProgram env _ _ => reqShape env
  | .ringFlit _ _ pkts => pkts.all pktShape
  | .ringPacket _ p => pktShape p
  | .enum _ nextId _ => decide (nextId.toNat ≤ 32)
  | .rdmaReadResponse _ _ _ bytes => decide (bytes.length ≤ 4096)
  | .fwUpdate env _ _ => reqShape env
  | .bar0ReservedWrite _ _ _ | .absentUnitPageWrite _ _ _ | .counterLatchRead _ _ | .enWrite _ _ _ |
    .startSequenceComplete _ | .stopSequenceComplete _ | .evtClrWrite _ _ _ _ | .fenceReq _ _ |
    .fenceRelease _ _ _ | .lockSet _ _ | .lockedTableEntryWrite _ _ | .tableError _ | .dbgReset _ _ |
    .dbgWake _ _ | .debugSessionOpen | .bankWriteCommand _ _ _ | .refillRowFrame _ | .scaleFrame _ |
    .passStart _ _ | .refreshSlot _ _ _ | .refreshDeferLimit _ _ | .refreshLate _ _ | .calibrationDue _ _ |
    .calDueLate _ _ | .calibrationStart _ _ | .calibrationEnd _ _ _ | .repairRewrite _ _ _ |
    .repairTestClear _ _ _ | .repairEnd _ _ | .repairHoldExpire _ _ | .colsumSweepStart _ _ | .substCmd _ _ _ |
    .benchSubstitutionStart _ | .dequeTransfer _ _ | .pairHeartbeat _ | .pairHeartbeatLost _ | .take _ |
    .mirrorReform _ _ | .taskPost _ _ _ _ | .signal _ _ | .signalReturn _ | .taskSelect _ _ | .cimVectorEnd _ |
    .adapterValues _ _ _ _ | .taskEnd _ _ _ | .timeLimit _ | .taskEndMessage _ _ | .purge _ _ _ |
    .creditReturn _ _ | .stealProbeSend _ | .stealProbe _ _ | .stealGrant _ _ _ _ | .stealDeny _ |
    .stealBackoffExpire _ | .wsReadRefill _ _ _ | .wsReadCopy _ _ _ | .wsProgram _ _ _ | .wsErase _ _ _ |
    .wsStatusPop _ _ | .codeWordReadEnd _ _ _ | .senseTimeout _ _ | .weakHeadRead _ _ | .programCwDone _ _ _ |
    .programLoopLimit _ _ | .intentRecordProgrammed _ | .eraseSuspendHoldExpire _ _ | .eraseResume _ _ |
    .eraseBreak _ _ | .eraseVerify _ _ _ | .eraseProgressLimit _ _ | .intentScan _ | .planeFenceReq _ _ _ |
    .loopMaxClr _ _ | .idRead _ _ | .idProgramField _ _ | .idCmdInvalidOp _ _ | .firmwareFetchMiss _ _ _ _ |
    .rallyJoin _ _ _ | .rallyGatherExpire _ | .rallyFlip _ _ _ | .restoreHoldExpire _ | .sequencerTakeover _ |
    .heldChunkSwitch _ _ | .fetchSourceTimeout _ | .manifestChunkVerified _ _ _ _ | .shadowSwitch _ |
    .pinWindowExpire _ | .huddleLayerRewrite _ | .huddleSwitch _ | .versionRetired _ | .imgRevoked _ |
    .blockRelocate _ _ | .imgDamaged _ _ | .alloc _ _ _ _ | .free _ _ _ _ | .move _ _ _ _ | .give _ _ _ _ |
    .query _ _ _ _ | .t2Register _ _ _ _ | .t2Release _ _ _ _ | .setTableFrames _ _ _ _ | .rangeStatusPop _ _ |
    .moveCopyRoundEnd _ | .moveCommit _ | .moveDrainEnd _ _ | .translatorMiss _ _ | .t2ReadError _ _ |
    .compress _ _ _ _ | .expand _ _ _ _ | .loadTable _ _ _ _ | .loadTableCommit _ | .zstatusPop _ _ |
    .chanAssign _ _ _ | .doorbell _ _ _ | .descriptorRead _ _ | .inputCopyEnd _ _ | .outputTransferEnd _ _ _ |
    .completionWrite _ | .cqHeadWrite _ _ _ | .cancel _ _ _ | .holdWrite _ _ _ | .held _ | .replay _ _ |
    .sqDiscard _ _ | .functionLevelReset _ | .resvSustained _ _ _ _ | .resvFrame _ _ _ _ | .resvRelease _ _ |
    .resvInvalidClass _ _ _ _ | .resvDone _ | .resvPeriodStart _ | .reservationRevocation _ |
    .coalesceTimerExpire _ | .mbxSend _ _ | .mbxRecvPop _ _ | .hostLinkUp _ _ _ | .hostLinkDown _ | .perst _ |
    .cplTimeout _ | .bar4Access _ _ _ _ | .ringReplay _ _ | .e2eAck _ _ _ _ | .e2eDrop _ | .ringBreak _ |
    .enumStart | .enumReturnTimeout | .joinAck _ _ | .enumDone _ _ | .join _ | .beaconSend | .beacon _ _ _ _ _ _ |
    .leaveWrite _ _ _ | .reenum _ _ | .wakeGo _ _ _ | .wakeRelay _ _ | .wakeOrderedSet _ _ _ | .bypassChange |
    .ringLinkTrained _ _ | .rdmaReadRestart _ _ | .congestionNotification _ _ | .rateIncrease _ _ | .rxDrop _ |
    .ethLink _ _ | .leaseRenewSend | .renew _ _ _ | .leaseExpire | .staleWriteGate _ | .refereePoll _ |
    .replicaExchange | .partition _ | .partitionAlone _ | .rejoin | .acquire _ _ | .takeoverGuardEnd _ |
    .tokenAnnounce _ | .yield _ _ | .ccHeartbeat _ | .peerLost _ | .ccWatchdogExpire _ | .halfFence _ _ |
    .halfLossCompletions _ | .halfReturn _ _ | .migEngineFence _ | .groupFenced _ _ | .bridgeRetrain _ _ |
    .replicaRestart _ _ | .leaderless | .fwUpdateStepEnd | .fwFailed _ | .sagWarn _ _ | .sagClear |
    .sagReset _ _ | .railLoss _ | .sagMinClr _ | .pfVoteWrite _ _ _ | .pwrCmdOff _ | .pwrCmdInvalid _ _ |
    .tileIdleEntry _ | .tileDwellExpire _ | .halfDwellExpire _ | .levelEntryComplete _ | .wake _ |
    .levelExitComplete _ | .wakeAtReached | .powerSample _ | .thermalSensorReading _ _ | .boostChange _ |
    .thmMaxClr _ | .stateSave | .stateRestore _ | .powerOnReset | .externalReset | .bothCcLostReset |
    .thermalTrip _ | .resetRelease | .startUpSequence _ | .boardMemoryTraining _ _ _ _ | .firstLease |
    .firstLeaseFallback | .versionRestore _ _ | .ringSettleTimeout | .recovCmd _ _ _ _ | .idDone |
    .debugSessionClose | .caParity _ | .linkReturnToL0 _ | .configurationRequest _ => true

end Sys2Proof
end

