-- ==== Sys2Proof/Tests/Slice0.lean ====
section
/-! SUPPORT. Tests: ill-formed commands are refused, single steps on small states, and, for each statement with
hypotheses, a state and operands that meet them. -/

open Sys2Proof Sys2Proof.Machine

/-! ## Ill-formed commands are refused -/

/-- A host's physical function 0 of port 0 on an unjoined device. -/
def Sys2Proof.Machine.hostWr : Wr := ⟨0, 0⟩
/-- Control complex north with token 1. -/
def Sys2Proof.Machine.ccWr : Wr := ⟨0x20E0, 1⟩
/-- A message from a control complex: no host function. -/
def Sys2Proof.Machine.badEnv : Env := ⟨0, 0x20E0, 0⟩
/-- A message from a host function. -/
def Sys2Proof.Machine.hostEnv : Env := ⟨0, 0, 7⟩
/-- A read packet. -/
def Sys2Proof.Machine.readPkt : RingPkt := ⟨1, false, false, 1, 2, false, true, 0, 1, 0, 0, 0, 0, 0, 0, 0, 0, false, []⟩

theorem test_ill_register_write : wellFormed (.registerWrite hostWr 0 3 0) = false := by decide
theorem test_well_register_write : wellFormed (.registerWrite hostWr 0 8 0) = true := by decide
theorem test_ill_bar2_read : wellFormed (.bar2Read 0 0 0 none) = false := by decide
theorem test_ill_bar2_write : wellFormed (.bar2Write 0 (BitVec.ofNat 36 (2 ^ 36 - 1)) [1, 2] false) = false := by decide
theorem test_ill_pass_end : wellFormed (.passEnd 0 0 [(1040, 1)]) = false := by decide
theorem test_ill_sweep_end : wellFormed (.colsumSweepEnd 0 false [(0, 0, 0, 64)]) = false := by decide
theorem test_ill_second_source : wellFormed (.secondSourceRead 0 0 [⟨0, false, 0, 0, 0, false, false, 0, 0⟩]) = false := by decide
theorem test_ill_fetch : wellFormed (.fetch badEnv ⟨0, 0, 0, 0, false, false, false, [], []⟩) = false := by decide
theorem test_ill_activate : wellFormed (.activate badEnv 0 false ⟨[], 0, 0⟩) = false := by decide
theorem test_ill_replace : wellFormed (.replace badEnv 0 0 0 0) = false := by decide
theorem test_ill_relocate : wellFormed (.relocate badEnv 0) = false := by decide
theorem test_ill_retire : wellFormed (.retire badEnv 0 0) = false := by decide
theorem test_ill_source_release : wellFormed (.sourceRelease badEnv 0 0) = false := by decide
theorem test_ill_adapter_bind : wellFormed (.adapterBind badEnv ⟨0, 0, 0, 0, 0, 0, 0, 0⟩) = false := by decide
theorem test_ill_adapter_unbind : wellFormed (.adapterUnbind badEnv 0 0 0) = false := by decide
theorem test_ill_mailbox_invalid : wellFormed (.mailboxInvalid badEnv 0) = false := by decide
theorem test_ill_id_program : wellFormed (.idProgram badEnv 0 0) = false := by decide
theorem test_ill_fw_update : wellFormed (.fwUpdate badEnv 0 0) = false := by decide
theorem test_ill_ring_packet : wellFormed (.ringPacket 0 { readPkt with payload := [1] }) = false := by decide
theorem test_ill_ring_flit : wellFormed (.ringFlit 0 ⟨true, 0, 0, false, 0, 0⟩ [{ readPkt with payload := [1] }]) = false := by decide
theorem test_ill_enum : wellFormed (.enum 0 33 0) = false := by decide
theorem test_ill_chunk (n : Nat) (h : 2 ^ 20 < n) : wellFormed (.manifestChunkLanded 0 0 (List.replicate n 0) false) = false := by
  simp only [wellFormed, List.length_replicate, decide_eq_false_iff_not]; omega
theorem test_ill_rdma_response (n : Nat) (h : 4096 < n) : wellFormed (.rdmaReadResponse 0 0 0 (List.replicate n 0)) = false := by
  simp only [wellFormed, List.length_replicate, decide_eq_false_iff_not]; omega
end

section
/-! SUPPORT. Every step keeps the canonical form (O3). The content is the frame of every command, of which the canonical
form is a part: `Only` says that all a command changes passes through the writes that keep it. -/

namespace Sys2Proof.Machine

/-! ## The frame of a step -/

/-- What a command changes lies in its frame. One arm for each row of the opcode table: the command's own law names the
parts and the registers, and `rfl` finds them within what `frameOf` allows. -/
theorem exec_frame (c : Instr) (s : State) : Gives (frameOf c).1 (frameOf c).2 s (exec c s) := by
  cases c with
  | registerWrite w off size data => exact (execRegisterWrite_gives w off size data s).mono rfl
  | bar0ReservedWrite w off data => exact (execBar0ReservedWrite_gives w off data s).mono rfl
  | absentUnitPageWrite w off data => exact (execAbsentUnitPageWrite_gives w off data s).mono rfl
  | counterLatchRead mid off => exact (execCounterLatchRead_gives mid off s).mono rfl
  | enWrite w page en => exact (execEnWrite_any w page en s).mono rfl
  | startSequenceComplete page => exact (execStartSequenceComplete_any page s).mono rfl
  | stopSequenceComplete page => exact (execStopSequenceComplete_any page s).mono rfl
  | evtClrWrite w page clear setNow => exact (execEvtClrWrite_any w page clear setNow s).mono rfl
  | fenceReq w page => exact (execFenceReq_any w page s).mono rfl
  | fenceRelease w page bistFail => exact (execFenceRelease_any w page bistFail s).mono rfl
  | lockSet w page => exact (execLockSet_any w page s).mono rfl
  | lockedTableEntryWrite w entry => exact (execLockedTableEntryWrite_gives w entry s).mono rfl
  | tableError entry => exact (execTableError_gives entry s).mono rfl
  | bar2Read mid off len err => exact (execBar2Read_gives mid off len err s).mono rfl
  | bar2Write mid off bytes poison => exact (execBar2Write_gives mid off bytes poison s).mono rfl
  | dbgReset w data => exact (execDbgReset_gives w data s).mono rfl
  | dbgWake w data => exact (execDbgWake_gives w data s).mono rfl
  | debugSessionOpen => exact (execDebugSessionOpen_gives s).mono rfl
  | bankWriteCommand w tile data => exact (execBankWriteCommand_gives w tile data s).mono rfl
  | refillRowFrame f => exact (execRefillRowFrame_gives f s).mono rfl
  | scaleFrame f => exact (execScaleFrame_gives f s).mono rfl
  | passStart tile sub => exact (execPassStart_gives tile sub s).mono rfl
  | passEnd tile sub errs => exact (execPassEnd_gives tile sub errs s).mono rfl
  | refreshSlot tile slot rowArriving => exact (execRefreshSlot_gives tile slot rowArriving s).mono rfl
  | refreshDeferLimit tile slot => exact (execRefreshDeferLimit_gives tile slot s).mono rfl
  | refreshLate tile slot => exact (execRefreshLate_gives tile slot s).mono rfl
  | calibrationDue tile slot => exact (execCalibrationDue_gives tile slot s).mono rfl
  | calDueLate tile slot => exact (execCalDueLate_gives tile slot s).mono rfl
  | calibrationStart tile slot => exact (execCalibrationStart_gives tile slot s).mono rfl
  | calibrationEnd tile slot r => exact (execCalibrationEnd_gives tile slot r s).mono rfl
  | repairRewrite w tile bank => exact (execRepairRewrite_gives w tile bank s).mono rfl
  | repairTestClear w tile bank => exact (execRepairTestClear_gives w tile bank s).mono rfl
  | repairEnd tile clean => exact (execRepairEnd_gives tile clean s).mono rfl
  | repairHoldExpire tile bank => exact (execRepairHoldExpire_gives tile bank s).mono rfl
  | colsumSweepStart tile bank => exact (execColsumSweepStart_gives tile bank s).mono rfl
  | colsumSweepEnd tile bank errs => exact (execColsumSweepEnd_gives tile bank errs s).mono rfl
  | substCmd w tile data => exact (execSubstCmd_gives w tile data s).mono rfl
  | benchSubstitutionStart failed => exact (execBenchSubstitutionStart_gives failed s).mono rfl
  | dequeTransfer failed ok => exact (execDequeTransfer_gives failed ok s).mono rfl
  | pairHeartbeat tile => exact (execPairHeartbeat_gives tile s).mono rfl
  | pairHeartbeatLost mirror => exact (execPairHeartbeatLost_gives mirror s).mono rfl
  | take mirror => exact (execTake_gives mirror s).mono rfl
  | mirrorReform survivor fresh => exact (execMirrorReform_gives survivor fresh s).mono rfl
  | taskPost tile d shadow poster => exact (execTaskPost_gives tile d shadow poster s).mono rfl
  | signal tile sig => exact (execSignal_gives tile sig s).mono rfl
  | signalReturn sig => exact (execSignalReturn_gives sig s).mono rfl
  | taskSelect tile unit => exact (execTaskSelect_gives tile unit s).mono rfl
  | cimVectorEnd tile => exact (execCimVectorEnd_gives tile s).mono rfl
  | adapterValues tile tag vals poison => exact (execAdapterValues_gives tile tag vals poison s).mono rfl
  | taskEnd tile unit r => exact (execTaskEnd_gives tile unit r s).mono rfl
  | timeLimit tile => exact (execTimeLimit_gives tile s).mono rfl
  | taskEndMessage cc msg => exact (execTaskEndMessage_gives cc msg s).mono rfl
  | purge tile channel seq => exact (execPurge_gives tile channel seq s).mono rfl
  | creditReturn tile poster => exact (execCreditReturn_gives tile poster s).mono rfl
  | stealProbeSend thief => exact (execStealProbeSend_gives thief s).mono rfl
  | stealProbe victim thief => exact (execStealProbe_gives victim thief s).mono rfl
  | stealGrant victim thief d age => exact (execStealGrant_gives victim thief d age s).mono rfl
  | stealDeny thief => exact (execStealDeny_gives thief s).mono rfl
  | stealBackoffExpire thief => exact (execStealBackoffExpire_gives thief s).mono rfl
  | wsReadRefill w half cmd => exact (execWsReadRefill_gives w half cmd s).mono rfl
  | wsReadCopy w half cmd => exact (execWsReadCopy_gives w half cmd s).mono rfl
  | wsProgram w half cmd => exact (execWsProgram_gives w half cmd s).mono rfl
  | wsErase w half cmd => exact (execWsErase_gives w half cmd s).mono rfl
  | wsStatusPop mid half => exact (execWsStatusPop_gives mid half s).mono rfl
  | codeWordReadEnd half id r => exact (execCodeWordReadEnd_gives half id r s).mono rfl
  | senseTimeout half id => exact (execSenseTimeout_gives half id s).mono rfl
  | weakHeadRead mid half => exact (execWeakHeadRead_gives mid half s).mono rfl
  | programCwDone half id loops => exact (execProgramCwDone_gives half id loops s).mono rfl
  | programLoopLimit half id => exact (execProgramLoopLimit_gives half id s).mono rfl
  | intentRecordProgrammed die => exact (execIntentRecordProgrammed_gives die s).mono rfl
  | eraseSuspendHoldExpire half id => exact (execEraseSuspendHoldExpire_gives half id s).mono rfl
  | eraseResume half id => exact (execEraseResume_gives half id s).mono rfl
  | eraseBreak half id => exact (execEraseBreak_gives half id s).mono rfl
  | eraseVerify half id pulses => exact (execEraseVerify_gives half id pulses s).mono rfl
  | eraseProgressLimit half id => exact (execEraseProgressLimit_gives half id s).mono rfl
  | intentScan half => exact (execIntentScan_gives half s).mono rfl
  | planeFenceReq w die data => exact (execPlaneFenceReq_gives w die data s).mono rfl
  | loopMaxClr w half => exact (execLoopMaxClr_gives w half s).mono rfl
  | idRead w field => exact (execIdRead_gives w field s).mono rfl
  | idProgramField w field => exact (execIdProgramField_gives w field s).mono rfl
  | idCmdInvalidOp w data => exact (execIdCmdInvalidOp_gives w data s).mono rfl
  | firmwareFetchMiss cc cw r dup => exact (execFirmwareFetchMiss_gives cc cw r dup s).mono rfl
  | rallyJoin ctx chan seq => exact (execRallyJoin_gives ctx chan seq s).mono rfl
  | rallyGatherExpire ctx => exact (execRallyGatherExpire_gives ctx s).mono rfl
  | rallyFlip ctx computeNs refillNs => exact (execRallyFlip_gives ctx computeNs refillNs s).mono rfl
  | restoreHoldExpire ctx => exact (execRestoreHoldExpire_gives ctx s).mono rfl
  | secondSourceRead ctx cwa frames => exact (execSecondSourceRead_gives ctx cwa frames s).mono rfl
  | sequencerTakeover fenced => exact (execSequencerTakeover_gives fenced s).mono rfl
  | heldChunkSwitch ctx chunk => exact (execHeldChunkSwitch_gives ctx chunk s).mono rfl
  | fetch env a => exact (execFetch_gives env a s).mono rfl
  | activate env handle sustained place => exact (execActivate_gives env handle sustained place s).mono rfl
  | replace env handle mode holdUs pinMs => exact (execReplace_gives env handle mode holdUs pinMs s).mono rfl
  | relocate env handle => exact (execRelocate_gives env handle s).mono rfl
  | retire env handle which => exact (execRetire_gives env handle which s).mono rfl
  | sourceRelease env handle which => exact (execSourceRelease_gives env handle which s).mono rfl
  | adapterBind env a => exact (execAdapterBind_gives env a s).mono rfl
  | adapterUnbind env channel handle slot => exact (execAdapterUnbind_gives env channel handle slot s).mono rfl
  | manifestChunkLanded handle chunk bytes poison => exact (execManifestChunkLanded_gives handle chunk bytes poison s).mono rfl
  | fetchSourceTimeout handle => exact (execFetchSourceTimeout_gives handle s).mono rfl
  | manifestChunkVerified handle epoch chunk ok => exact (execManifestChunkVerified_gives handle epoch chunk ok s).mono rfl
  | shadowSwitch handle => exact (execShadowSwitch_gives handle s).mono rfl
  | pinWindowExpire handle => exact (execPinWindowExpire_gives handle s).mono rfl
  | huddleLayerRewrite handle => exact (execHuddleLayerRewrite_gives handle s).mono rfl
  | huddleSwitch handle => exact (execHuddleSwitch_gives handle s).mono rfl
  | versionRetired handle => exact (execVersionRetired_gives handle s).mono rfl
  | imgRevoked slot => exact (execImgRevoked_gives slot s).mono rfl
  | blockRelocate old new => exact (execBlockRelocate_gives old new s).mono rfl
  | imgDamaged handle epoch => exact (execImgDamaged_gives handle epoch s).mono rfl
  | alloc mid token path cmd => exact (execAlloc_gives mid token path cmd s).mono rfl
  | free mid token path cmd => exact (execFree_gives mid token path cmd s).mono rfl
  | move mid token path cmd => exact (execMove_gives mid token path cmd s).mono rfl
  | give mid token path cmd => exact (execGive_gives mid token path cmd s).mono rfl
  | query mid token path cmd => exact (execQuery_gives mid token path cmd s).mono rfl
  | t2Register mid token path cmd => exact (execT2Register_gives mid token path cmd s).mono rfl
  | t2Release mid token path cmd => exact (execT2Release_gives mid token path cmd s).mono rfl
  | setTableFrames mid token path cmd => exact (execSetTableFrames_gives mid token path cmd s).mono rfl
  | rangeStatusPop mid path => exact (execRangeStatusPop_gives mid path s).mono rfl
  | moveCopyRoundEnd id => exact (execMoveCopyRoundEnd_gives id s).mono rfl
  | moveCommit id => exact (execMoveCommit_gives id s).mono rfl
  | moveDrainEnd id holdNs => exact (execMoveDrainEnd_gives id holdNs s).mono rfl
  | translatorMiss client addr => exact (execTranslatorMiss_gives client addr s).mono rfl
  | t2ReadError addr granules => exact (execT2ReadError_gives addr granules s).mono rfl
  | compress mid token path cmd => exact (execCompress_gives mid token path cmd s).mono rfl
  | expand mid token path cmd => exact (execExpand_gives mid token path cmd s).mono rfl
  | loadTable mid token path cmd => exact (execLoadTable_gives mid token path cmd s).mono rfl
  | loadTableCommit chan => exact (execLoadTableCommit_gives chan s).mono rfl
  | zstatusPop mid path => exact (execZstatusPop_gives mid path s).mono rfl
  | chanAssign w chan data => exact (execChanAssign_gives w chan data s).mono rfl
  | doorbell mid chan value => exact (execDoorbell_gives mid chan value s).mono rfl
  | descriptorRead chan line => exact (execDescriptorRead_gives chan line s).mono rfl
  | inputCopyEnd chan seq => exact (execInputCopyEnd_gives chan seq s).mono rfl
  | outputTransferEnd chan seq fail => exact (execOutputTransferEnd_gives chan seq fail s).mono rfl
  | completionWrite chan => exact (execCompletionWrite_gives chan s).mono rfl
  | cqHeadWrite w chan value => exact (execCqHeadWrite_gives w chan value s).mono rfl
  | cancel w chan seq => exact (execCancel_gives w chan seq s).mono rfl
  | holdWrite w chan hold => exact (execHoldWrite_gives w chan hold s).mono rfl
  | held chan => exact (execHeld_gives chan s).mono rfl
  | replay w chan => exact (execReplay_gives w chan s).mono rfl
  | sqDiscard w chan => exact (execSqDiscard_gives w chan s).mono rfl
  | functionLevelReset function => exact (execFunctionLevelReset_gives function s).mono rfl
  | resvSustained w chan grade handle => exact (execResvSustained_gives w chan grade handle s).mono rfl
  | resvFrame w chan grade handle => exact (execResvFrame_gives w chan grade handle s).mono rfl
  | resvRelease w chan => exact (execResvRelease_gives w chan s).mono rfl
  | resvInvalidClass w chan grade handle => exact (execResvInvalidClass_gives w chan grade handle s).mono rfl
  | resvDone chan => exact (execResvDone_gives chan s).mono rfl
  | resvPeriodStart chan => exact (execResvPeriodStart_gives chan s).mono rfl
  | reservationRevocation tile => exact (execReservationRevocation_gives tile s).mono rfl
  | coalesceTimerExpire chan => exact (execCoalesceTimerExpire_gives chan s).mono rfl
  | mbxSend mid mbx => exact (execMbxSend_gives mid mbx s).mono rfl
  | mbxRecvPop mid mbx => exact (execMbxRecvPop_gives mid mbx s).mono rfl
  | mailboxInvalid env op => exact (execMailboxInvalid_gives env op s).mono rfl
  | idProgram env field data => exact (execIdProgram_gives env field data s).mono rfl
  | hostLinkUp port lanes rate => exact (execHostLinkUp_gives port lanes rate s).mono rfl
  | hostLinkDown port => exact (execHostLinkDown_gives port s).mono rfl
  | perst port => exact (execPerst_gives port s).mono rfl
  | cplTimeout port => exact (execCplTimeout_gives port s).mono rfl
  | bar4Access mid off write data => exact (execBar4Access_gives mid off write data s).mono rfl
  | ringFlit port f pkts => exact (execRingFlit_gives port f pkts s).mono rfl
  | ringReplay port count => exact (execRingReplay_gives port count s).mono rfl
  | ringPacket port p => exact (execRingPacket_gives port p s).mono rfl
  | e2eAck port src vc eseq => exact (execE2eAck_gives port src vc eseq s).mono rfl
  | e2eDrop dst => exact (execE2eDrop_gives dst s).mono rfl
  | ringBreak port => exact (execRingBreak_gives port s).mono rfl
  | enumStart => exact (execEnumStart_gives s).mono rfl
  | enum port nextId ringId => exact (execEnum_gives port nextId ringId s).mono rfl
  | enumReturnTimeout => exact (execEnumReturnTimeout_gives s).mono rfl
  | joinAck node serial => exact (execJoinAck_gives node serial s).mono rfl
  | enumDone closed nodes => exact (execEnumDone_gives closed nodes s).mono rfl
  | join serial => exact (execJoin_gives serial s).mono rfl
  | beaconSend => exact (execBeaconSend_gives s).mono rfl
  | beacon node serial seed head closed nodes => exact (execBeacon_gives node serial seed head closed nodes s).mono rfl
  | leaveWrite w port leave => exact (execLeaveWrite_gives w port leave s).mono rfl
  | reenum w port => exact (execReenum_gives w port s).mono rfl
  | wakeGo w port node => exact (execWakeGo_gives w port node s).mono rfl
  | wakeRelay port node => exact (execWakeRelay_gives port node s).mono rfl
  | wakeOrderedSet port first second => exact (execWakeOrderedSet_gives port first second s).mono rfl
  | bypassChange => exact (execBypassChange_gives s).mono rfl
  | ringLinkTrained port lanes => exact (execRingLinkTrained_gives port lanes s).mono rfl
  | rdmaReadResponse port qpn psn bytes => exact (execRdmaReadResponse_gives port qpn psn bytes s).mono rfl
  | rdmaReadRestart port qpn => exact (execRdmaReadRestart_gives port qpn s).mono rfl
  | congestionNotification port qpn => exact (execCongestionNotification_gives port qpn s).mono rfl
  | rateIncrease port qpn => exact (execRateIncrease_gives port qpn s).mono rfl
  | rxDrop port => exact (execRxDrop_gives port s).mono rfl
  | ethLink port up => exact (execEthLink_gives port up s).mono rfl
  | leaseRenewSend => exact (execLeaseRenewSend_gives s).mono rfl
  | renew replica from_ token => exact (execRenew_gives replica from_ token s).mono rfl
  | leaseExpire => exact (execLeaseExpire_gives s).mono rfl
  | staleWriteGate cc => exact (execStaleWriteGate_gives cc s).mono rfl
  | refereePoll cc => exact (execRefereePoll_gives cc s).mono rfl
  | replicaExchange => exact (execReplicaExchange_gives s).mono rfl
  | partition replica => exact (execPartition_gives replica s).mono rfl
  | partitionAlone replica => exact (execPartitionAlone_gives replica s).mono rfl
  | rejoin => exact (execRejoin_gives s).mono rfl
  | acquire replica from_ => exact (execAcquire_gives replica from_ s).mono rfl
  | takeoverGuardEnd cc => exact (execTakeoverGuardEnd_gives cc s).mono rfl
  | tokenAnnounce cc => exact (execTokenAnnounce_gives cc s).mono rfl
  | yield w cc => exact (execYield_gives w cc s).mono rfl
  | ccHeartbeat cc => exact (execCcHeartbeat_gives cc s).mono rfl
  | peerLost lost => exact (execPeerLost_gives lost s).mono rfl
  | ccWatchdogExpire cc => exact (execCcWatchdogExpire_gives cc s).mono rfl
  | halfFence half cause => exact (execHalfFence_gives half cause s).mono rfl
  | halfLossCompletions half => exact (execHalfLossCompletions_gives half s).mono rfl
  | halfReturn half failed => exact (execHalfReturn_gives half failed s).mono rfl
  | migEngineFence half => exact (execMigEngineFence_gives half s).mono rfl
  | groupFenced group training => exact (execGroupFenced_gives group training s).mono rfl
  | bridgeRetrain group ok => exact (execBridgeRetrain_gives group ok s).mono rfl
  | replicaRestart replica ok => exact (execReplicaRestart_gives replica ok s).mono rfl
  | leaderless => exact (execLeaderless_gives s).mono rfl
  | fwUpdate env ref length => exact (execFwUpdate_gives env ref length s).mono rfl
  | fwUpdateStepEnd => exact (execFwUpdateStepEnd_gives s).mono rfl
  | fwFailed cc => exact (execFwFailed_gives cc s).mono rfl
  | sagWarn half depth => exact (execSagWarn_gives half depth s).mono rfl
  | sagClear => exact (execSagClear_gives s).mono rfl
  | sagReset half depth => exact (execSagReset_gives half depth s).mono rfl
  | railLoss aon => exact (execRailLoss_gives aon s).mono rfl
  | sagMinClr w => exact (execSagMinClr_gives w s).mono rfl
  | pfVoteWrite w floorN floorS => exact (execPfVoteWrite_gives w floorN floorS s).mono rfl
  | pwrCmdOff w => exact (execPwrCmdOff_gives w s).mono rfl
  | pwrCmdInvalid w op => exact (execPwrCmdInvalid_gives w op s).mono rfl
  | tileIdleEntry tile => exact (execTileIdleEntry_gives tile s).mono rfl
  | tileDwellExpire tile => exact (execTileDwellExpire_gives tile s).mono rfl
  | halfDwellExpire half => exact (execHalfDwellExpire_gives half s).mono rfl
  | levelEntryComplete dom => exact (execLevelEntryComplete_gives dom s).mono rfl
  | wake src => exact (execWake_gives src s).mono rfl
  | levelExitComplete dom => exact (execLevelExitComplete_gives dom s).mono rfl
  | wakeAtReached => exact (execWakeAtReached_gives s).mono rfl
  | powerSample centiwatts => exact (execPowerSample_gives centiwatts s).mono rfl
  | thermalSensorReading sensor r => exact (execThermalSensorReading_gives sensor r s).mono rfl
  | boostChange tile => exact (execBoostChange_gives tile s).mono rfl
  | thmMaxClr w => exact (execThmMaxClr_gives w s).mono rfl
  | stateSave => exact (execStateSave_gives s).mono rfl
  | stateRestore bad => exact (execStateRestore_gives bad s).mono rfl
  | powerOnReset => exact (execPowerOnReset_gives s).mono rfl
  | externalReset => exact (execExternalReset_gives s).mono rfl
  | bothCcLostReset => exact (execBothCcLostReset_gives s).mono rfl
  | thermalTrip sensor => exact (execThermalTrip_gives sensor s).mono rfl
  | resetRelease => exact (execResetRelease_gives s).mono rfl
  | startUpSequence world => exact (execStartUpSequence_gives world s).mono rfl
  | boardMemoryTraining n ok mib mts => exact (execBoardMemoryTraining_gives n ok mib mts s).mono rfl
  | firstLease => exact (execFirstLease_gives s).mono rfl
  | firstLeaseFallback => exact (execFirstLeaseFallback_gives s).mono rfl
  | versionRestore handle sigOk => exact (execVersionRestore_gives handle sigOk s).mono rfl
  | ringSettleTimeout => exact (execRingSettleTimeout_gives s).mono rfl
  | recovCmd w image readOk programOk => exact (execRecovCmd_gives w image readOk programOk s).mono rfl
  | idDone => exact (execIdDone_gives s).mono rfl
  | debugSessionClose => exact (execDebugSessionClose_gives s).mono rfl
  | caParity n => exact (execCaParity_gives n s).mono rfl
  | linkReturnToL0 port => exact (execLinkReturnToL0_gives port s).mono rfl
  | configurationRequest c => exact (execConfigurationRequest_gives c s).mono rfl

/-- The idle step moves the device timer alone (R314, R399). -/
theorem tick_only (s : State) : Only [.timer, .timerFrac] [] s (tick s) := by
  have h : ∀ a b, Only [.timer, .timerFrac] [] s { s with timer := a, timerFrac := b } := fun a _ =>
    Only.set_timerFrac (t := { s with timer := a }) (by rfl) (Only.set_timer (by rfl) (Only.refl _ _ _))
  unfold tick
  split
  · exact h _ _
  · exact h _ s.timerFrac

/-! ## The canonical form -/

theorem exec_keeps_canonical {c : Instr} {s t : State} (hc : canonical s = true) (h : exec c s = .next t) :
    canonical t = true := ((exec_frame c s).only h).keeps hc

/-- The queue of commands has no part in the canonical form. -/
theorem canonical_pending (s : State) (q : List Instr) : canonical { s with pending := q } = canonical s := rfl

/-- Settles O3: a step runs the front command, whose frame keeps the canonical form, or moves the timer. -/
theorem stepKeepsCanonicalForm : Obligations.StepKeepsCanonicalForm := by
  intro s t hc h
  cases hq : s.pending with
  | nil =>
    simp only [step, hq] at h
    cases h
    exact (tick_only s).keeps hc
  | cons c rest =>
    simp only [step, hq] at h
    exact exec_keeps_canonical ((canonical_pending s rest).trans hc) h

/-- The state after reset is canonical, so the first step from it is one that StepKeepsCanonicalForm speaks of. -/
theorem canonical_reset : canonical State.reset = true := by rfl

theorem canonical_first_tick : canonical (tick State.reset) = true :=
  stepKeepsCanonicalForm State.reset _ canonical_reset rfl

end Sys2Proof.Machine
end

section
/-! SUPPORT. What a register write leaves in the fields of a page whose registers only store (O9): bits of a word, fields of
a register, the register tables, the path of the write. -/

namespace Sys2Proof.Machine

/-! ## Bits of a word under the bitwise operations -/

theorem bitsOf_and (a b lo n : Nat) : bitsOf (a &&& b) lo n = bitsOf a lo n &&& bitsOf b lo n := by
  simp only [bitsOf, Nat.and_div_two_pow, Nat.and_mod_two_pow]

theorem bitsOf_or (a b lo n : Nat) : bitsOf (a ||| b) lo n = bitsOf a lo n ||| bitsOf b lo n := by
  simp only [bitsOf, Nat.or_div_two_pow, Nat.or_mod_two_pow]

/-- Bits of the complement of a word, as the complement of its bits. -/
theorem bitsOf_not (v : W32) (lo n : Nat) (h : lo + n ≤ 32) :
    bitsOf (~~~v).toNat lo n = 2 ^ n - 1 - bitsOf v.toNat lo n := by
  have hb : bitsOf v.toNat lo n < 2 ^ n := Nat.mod_lt _ (Nat.two_pow_pos n)
  refine Nat.eq_of_testBit_eq fun i => ?_
  rw [Nat.sub_sub, Nat.add_comm 1, Nat.testBit_two_pow_sub_succ hb]
  simp only [bitsOf, Nat.testBit_mod_two_pow, Nat.testBit_div_two_pow, BitVec.testBit_toNat, BitVec.getLsbD_not]
  by_cases hi : i < n
  · simp [hi, show i + lo < 32 by omega]
  · simp [hi]

/-- Bits within the low 32 are those of the low word. -/
theorem bitsOf_lowWord (x lo n : Nat) (h : lo + n ≤ 32) : bitsOf (BitVec.ofNat 32 x).toNat lo n = bitsOf x lo n := by
  refine Nat.eq_of_testBit_eq fun i => ?_
  simp only [bitsOf, BitVec.toNat_ofNat, Nat.testBit_mod_two_pow, Nat.testBit_div_two_pow]
  by_cases hi : i < n
  · simp [hi, show i + lo < 32 by omega]
  · simp [hi]

/-! ## Storing a word field by field (R10) -/

/-- What a field of `width` bits holds after `v` is written over `old`, by its access (R10). -/
def fieldAfter (f : Field) (old v : Nat) : Nat :=
  match f.acc with
  | .rw | .rwl => v
  | .w1c => old &&& (2 ^ f.width - 1 - v)
  | .w1s => old ||| v
  | .ro | .wo => old

/-- Two fields of one register share no bit. -/
def BitsApart (f g : Field) : Prop := f.lo + f.width ≤ g.lo ∨ g.lo + g.width ≤ f.lo

theorem BitsApart.symm {f g : Field} (h : BitsApart f g) : BitsApart g f := Or.symm h

theorem storeField_same (v old : W32) (f : Field) (hf : f.lo + f.width ≤ 32) :
    bitsOf (storeField v old f).toNat f.lo f.width =
      fieldAfter f (bitsOf old.toNat f.lo f.width) (bitsOf v.toNat f.lo f.width) := by
  have hput : ∀ x : W32, bitsOf (putBits old f.lo f.width (bitsOf x.toNat f.lo f.width)).toNat f.lo f.width =
      bitsOf x.toNat f.lo f.width := fun x => (bitsOf_putBits_same _ _ _ _ hf).trans (Nat.mod_mod _ _)
  unfold storeField fieldAfter
  cases f.acc with
  | rw | rwl => exact hput v
  | w1c => exact (hput _).trans (by rw [BitVec.toNat_and, bitsOf_and, bitsOf_not v _ _ hf])
  | w1s => exact (hput _).trans (by rw [BitVec.toNat_or, bitsOf_or])
  | ro | wo => rfl

theorem storeField_apart (v old : W32) (f g : Field) (hg : g.lo + g.width ≤ 32) (h : BitsApart f g) :
    bitsOf (storeField v old g).toNat f.lo f.width = bitsOf old.toNat f.lo f.width := by
  unfold storeField
  cases g.acc with
  | rw | rwl | w1c | w1s => exact bitsOf_putBits_other _ _ _ _ _ _ hg h
  | ro | wo => rfl

/-- Storing other fields of the register leaves a field. -/
theorem storeFields_apart (v old : W32) (f : Field) (l : List Field)
    (h : ∀ g ∈ l, g.lo + g.width ≤ 32 ∧ BitsApart f g) :
    bitsOf (l.foldl (storeField v) old).toNat f.lo f.width = bitsOf old.toNat f.lo f.width := by
  induction l generalizing old with
  | nil => rfl
  | cons g l ih =>
    obtain ⟨hg, hl⟩ := List.forall_mem_cons.mp h
    exact (ih _ hl).trans (storeField_apart v old f g hg.1 hg.2)

/-- Each field of a register is stored by its own access, where the fields share no bit. -/
theorem storeFields_mem (v old : W32) (f : Field) (l : List Field) (hw : ∀ g ∈ l, g.lo + g.width ≤ 32)
    (ha : l.Pairwise BitsApart) (hf : f ∈ l) :
    bitsOf (l.foldl (storeField v) old).toNat f.lo f.width =
      fieldAfter f (bitsOf old.toNat f.lo f.width) (bitsOf v.toNat f.lo f.width) := by
  induction l generalizing old with
  | nil => cases hf
  | cons g l ih =>
    obtain ⟨hg, hl⟩ := List.forall_mem_cons.mp hw
    obtain ⟨hgl, hal⟩ := List.pairwise_cons.mp ha
    rw [List.foldl_cons]
    rcases List.mem_cons.mp hf with rfl | hf
    · rw [storeFields_apart v _ f l fun x hx => ⟨hl x hx, hgl x hx⟩, storeField_same v old f hg]
    · rw [ih _ hl hal hf, storeField_apart v old f g hg (hgl f hf).symm]

/-! ## The register tables of the pages that only store -/

/-- A block-specific field lies in its page behind the common registers, and in a word. -/
def inBlock (f : Field) : Bool :=
  decide (0x100 ≤ f.off ∧ f.off % 4 = 0 ∧ f.off + 4 * f.count ≤ 0x1000 ∧ f.lo + f.width ≤ 32)

/-- The registers of two fields differ, or the fields share no bit. -/
def runsApart (f g : Field) : Bool :=
  decide (f.off + 4 * f.count ≤ g.off ∨ g.off + 4 * g.count ≤ f.off ∨ f.lo + f.width ≤ g.lo ∨ g.lo + g.width ≤ f.lo)

theorem storesOnly_table (p : Page) (hp : storesOnly p = true) :
    (blockFields p).all inBlock = true ∧ (blockFields p).Pairwise fun f g => runsApart f g = true := by
  cases p with
  | cap | d2d | rf | hp | eth | fus | aon | bm => simp only [blockFields]; decide +kernel
  | cc | wsc | mig | rg | pmu | thm | sec | dbg | die | mbx | chan | tile => cases hp

theorem inBlock_of_mem {p : Page} (hp : storesOnly p = true) {f : Field} (hf : f ∈ blockFields p) :
    0x100 ≤ f.off ∧ f.off % 4 = 0 ∧ f.off + 4 * f.count ≤ 0x1000 ∧ f.lo + f.width ≤ 32 :=
  of_decide_eq_true (List.all_eq_true.mp (storesOnly_table p hp).1 f hf)

/-- Behind the common registers a register's fields are the block-specific ones that cover it. -/
theorem fieldsAt_block (p : Page) (o : Nat) (ho : 0x100 ≤ o) : fieldsAt p o = (blockFields p).filter (covers o) := by
  rw [fieldsAt, if_neg (by omega)]

theorem mem_fieldsAt {p : Page} {f : Field} (i : Nat) (hf : f ∈ blockFields p) (hi : i < f.count) (ho : 0x100 ≤ f.off) :
    f ∈ fieldsAt p (f.off + 4 * i) := by
  rw [fieldsAt_block p _ (by omega), List.mem_filter]
  exact ⟨hf, by simp only [covers, decide_eq_true_eq]; omega⟩

theorem fieldsAt_apart {p : Page} (hp : storesOnly p = true) {o : Nat} (ho : 0x100 ≤ o) :
    (fieldsAt p o).Pairwise BitsApart := by
  rw [fieldsAt_block p o ho]
  refine ((storesOnly_table p hp).2.filter _).imp_of_mem fun {f g} hf hg h => ?_
  have cf := (List.mem_filter.mp hf).2
  have cg := (List.mem_filter.mp hg).2
  simp only [covers, decide_eq_true_eq] at cf cg
  simp only [runsApart, decide_eq_true_eq] at h
  unfold BitsApart
  omega

/-! ## A write of a page that only stores -/

/-- A span of other offsets leaves a register, whichever page it is of. -/
theorem clear_span (p q : Page) {lo hi o : Nat} (h : o < lo ∨ hi < o) : clear [span p lo hi] q o = true := by
  have : decide (lo ≤ o ∧ o ≤ hi) = false := decide_eq_false (by omega)
  simp only [clear, span, List.all_cons, List.all_nil, this, Bool.false_and, Bool.not_false, Bool.and_self]

theorem storeWord_at (p : Page) (o : Nat) (v : W32) (s : State) (ho : o < 0x1000) :
    Only [] [span p o o] s (storeWord p o v s) := setRegWord_at p o _ s (by simpa using ho)

/-- A field of the register stored takes what its access makes of the word. -/
theorem storeWord_fgetI {p : Page} (hp : storesOnly p = true) {f : Field} {i : Nat} (hf : f ∈ blockFields p)
    (hi : i < f.count) (v : W32) (s : State) :
    fgetI p f i (storeWord p (f.off + 4 * i) v s) = fieldAfter f (fgetI p f i s) (bitsOf v.toNat f.lo f.width) := by
  obtain ⟨ho, -⟩ := inBlock_of_mem hp hf
  simp only [fgetI, storeWord, regWord_set_same]
  refine storeFields_mem v _ f _ (fun g hg => ?_) (fieldsAt_apart hp (by omega)) (mem_fieldsAt i hf hi ho)
  rw [fieldsAt_block p _ (by omega)] at hg
  exact (inBlock_of_mem hp (List.mem_filter.mp hg).1).2.2.2

/-- An admitted write that no LOCK stops stores its word, the token taken before. -/
theorem plainWrite_admitted {w : Wr} {p : Page} {o : Nat} {s : State} (v : W32) (h : Admitted w p o s)
    (hl : isRwl p o = true → locked p s = false) : plainWrite w p o v s = storeWord p o v (opened w p s) := by
  have hk : locked p (opened w p s) = locked p s := by simp only [locked, opened_fget w p p Reg.LOCK_LOCK s]
  unfold plainWrite
  split
  · rename_i hr
    rw [guardedRwl, guarded_opened h, hk, hl hr, if_neg (by decide)]
  · exact guarded_opened h

theorem writeBlock_storesOnly {w : Wr} {p : Page} (o : Nat) (v : W32) (s : State) (hp : storesOnly p = true) :
    writeBlock w p o v s = plainWrite w p o v s := by
  cases p with
  | cap | d2d | rf | hp | eth | fus | aon | bm => rfl
  | cc | wsc | mig | rg | pmu | thm | sec | dbg | die | mbx | chan | tile => cases hp

/-- On these pages an offset is reserved where no field lies. -/
theorem reservedOff_storesOnly {p : Page} (o : Nat) (hp : storesOnly p = true) :
    reservedOff p o = (fieldsAt p o).isEmpty := by
  cases p with
  | cap | d2d | rf | hp | eth | fus | aon | bm => exact Bool.or_false _
  | cc | wsc | mig | rg | pmu | thm | sec | dbg | die | mbx | chan | tile => cases hp

/-- A word written to a block-specific register that exists acts as its page says. -/
theorem writeReg_block {w : Wr} {p : Page} {o : Nat} (v : W32) (s : State) (ho : 0x100 ≤ o) (ho' : o < 0x1000)
    (hr : reservedOff p o = false) : writeReg w (regAddr p o) v s = writeBlock w p o v s := by
  have hd : regAddr p o / 0x1000 = pageNum p := by unfold regAddr; omega
  have hm : regAddr p o % 0x1000 = o := by unfold regAddr; omega
  simp only [writeReg, hd, hm, pageAt_pageNum, hr, Bool.false_and, Bool.false_eq_true, if_false]
  rw [if_neg (by omega)]

/-- A 4-byte write of a register that exists on a page that only stores, admitted and stopped by no LOCK. -/
theorem exec_registerWrite_stores {w : Wr} {p : Page} {o : Nat} {off : BitVec 26} (data : W64) {s : State}
    (hp : storesOnly p = true) (ho : 0x100 ≤ o) (ho' : o < 0x1000) (h4 : o % 4 = 0) (hr : fieldsAt p o ≠ [])
    (ha : off.toNat = regAddr p o) (hw : Admitted w p o s) (hl : isRwl p o = true → locked p s = false) :
    exec (.registerWrite w off 4 data) s = .next (storeWord p o (BitVec.ofNat 32 data.toNat) (opened w p s)) := by
  have hres : reservedOff p o = false := by rw [reservedOff_storesOnly o hp, List.isEmpty_eq_false_iff.mpr hr]
  have hal : regAddr p o % 4 = 0 := by unfold regAddr; omega
  show execRegisterWrite w off 4 data s = _
  rw [execRegisterWrite, ha, if_pos ⟨rfl, hal⟩, writeReg_block _ _ ho ho' hres, writeBlock_storesOnly _ _ _ hp,
    plainWrite_admitted _ hw hl]

/-- Settles O9: the word goes to the one register named, once its checks are passed; there the fields share no bit, so
each is stored by its own access whatever its neighbours are. -/
theorem registerFieldWrite : Obligations.RegisterFieldWrite := by
  intro w p f i off data s hp hf hi ha hw hl
  obtain ⟨ho, h4, he, hb⟩ := inBlock_of_mem hp hf
  have hlt : f.off + 4 * i < 0x1000 := by omega
  have hop := opened_at w p s
  have hst := storeWord_at p (f.off + 4 * i) (BitVec.ofNat 32 data.toNat) (opened w p s) hlt
  refine ⟨_, exec_registerWrite_stores data hp (by omega) hlt (by omega) (List.ne_nil_of_mem (mem_fieldsAt i hf hi ho))
    ha hw hl, ?_, ?_, ?_⟩
  · have hold : fgetI p f i (opened w p s) = fgetI p f i s :=
      hop.fgetI p f i rfl (by simpa using hlt) (clear_span p p (.inr (by omega)))
    rw [storeWord_fgetI hp hf hi, hold, bitsOf_lowWord _ _ _ hb]
    rfl
  · rw [hst.fget p Reg.EPOCH_TOKEN rfl rfl (clear_span p p (.inl (by simp only [Reg.EPOCH_TOKEN]; omega))), opened_token]
  · exact (hop.mono (by simp [within, Fld.inside, RegSpan.inside, span])).trans
      (hst.mono (by simp [within, Fld.inside, RegSpan.inside, span]))

/-- A write that RegisterFieldWrite speaks of: at reset the physical function of port 0 writes the last entry of HP0's run
BAR2_BASE, a field that LOCK protects and no LOCK holds. -/
theorem bar2Base_write_at_reset (data : W64) :
    ∃ t, exec (.registerWrite ⟨0, 0⟩ 0xB17C 4 data) State.reset = .next t ∧
      fgetI (.hp 0) Reg.HP_BAR2_BASE_REGION 15 t = bitsOf data.toNat 0 12 := by
  have hw : Admitted ⟨0, 0⟩ (.hp 0) 0x17C State.reset :=
    ⟨by rfl, by rfl, by rfl, by rfl, fun h => by cases h⟩
  obtain ⟨t, ht, hv, -, -⟩ := registerFieldWrite ⟨0, 0⟩ (.hp 0) Reg.HP_BAR2_BASE_REGION 15 0xB17C data State.reset rfl
    (by simp [blockFields, Reg.fieldsHp]) (by decide) (by decide) hw (fun _ => by rfl)
  exact ⟨t, ht, hv⟩

end Sys2Proof.Machine
end

section
/-! SUPPORT. The block as a whole (O1, O4, O5, O17): what a step takes from the queue, the frame of every command, reset. -/

namespace Sys2Proof.Machine

/-! ## What a step takes -/

/-- Settles O1: the arm of `step` for a queue that is not empty. -/
theorem stepTakesFrontCommand : Obligations.StepTakesFrontCommand := fun _ _ _ => rfl

/-- Settles O17: the frame of each command, as `exec_frame` finds it row by row. -/
theorem frameOfEveryCommand : Obligations.FrameOfEveryCommand := exec_frame

theorem Fld.notMem_of_inside {n : List Fld} {x : Fld} (h : Fld.inside n x = false) : x ∉ n := fun hx =>
  List.any_eq_false.mp h x hx (Nat.beq_refl _)

/-- No command's frame names the queue, which only the step itself takes from, or the fuse map (R46). -/
theorem frame_excludes (c : Instr) :
    Fld.inside (frameOf c).1 .pending = false ∧ Fld.inside (frameOf c).1 .fuses = false := by
  cases c <;> exact ⟨rfl, rfl⟩

/-- Settles O5: the frame of the front command leaves the rest of the queue and the fuse map; the tick leaves both. -/
theorem stepTakesCommandsInOrder : Obligations.StepTakesCommandsInOrder := by
  intro s
  cases hq : s.pending with
  | nil =>
    have h := tick_only s
    exact ⟨tick s, by simp only [step, hq], (h.parts .pending (by decide) (by decide)).trans hq,
      h.parts .fuses (by decide) (by decide)⟩
  | cons c rest =>
    obtain ⟨t, ht, h⟩ := exec_frame c { s with pending := rest }
    obtain ⟨hp, hf⟩ := frame_excludes c
    exact ⟨t, by simp only [step, hq, ht], h.parts .pending (Fld.notMem_of_inside hp) (by decide),
      h.parts .fuses (Fld.notMem_of_inside hf) (by decide)⟩

/-! ## Reset -/

/-- A step that StepTakesCommandsInOrder speaks of, with a queue that is not empty. -/
theorem reset_step_takes_front :
    ∃ t, step { State.reset with pending := [.debugSessionClose, .idDone] } = .next t ∧ t.pending = [.idDone] := by
  obtain ⟨t, ht, hq, -⟩ := stepTakesCommandsInOrder { State.reset with pending := [.debugSessionClose, .idDone] }
  exact ⟨t, ht, hq⟩

/-- No register is written at reset, so each reads its reset word (R26). -/
theorem regWord_reset (a : Nat) : regWord State.reset a = resetWord a := rfl

/-- Settles O4: the register file, the queue and the lists of work are empty at reset. -/
theorem resetState : Obligations.ResetState :=
  ⟨canonical_reset, regWord_reset, rfl, rfl, rfl, rfl, rfl, rfl, rfl, rfl⟩

end Sys2Proof.Machine
end

section
/-! SUPPORT. Fields, events and parts after one more operation: what the proofs of chapter 2 use of the laws before. -/

namespace Sys2Proof.Machine

/-! ## Spans of one page -/

theorem pageType_lt (p : Page) : pageType p < 0x20000 := by
  cases p <;> exact of_decide_eq_true rfl

/-- A span of one page leaves the registers of every other. -/
theorem clear_otherPage {p q : Page} (h : p ≠ q) (lo hi o : Nat) : clear [span q lo hi] p o = true := by
  have ht := pageType_lt p
  have h0 : decide (0x20000 + pageNum q = 0) = false := decide_eq_false (by omega)
  have h1 : decide (0x20000 + pageNum q = pageType p) = false := decide_eq_false (by omega)
  have h2 : decide (0x20000 + pageNum q = 0x20000 + pageNum p) = false :=
    decide_eq_false fun e => h (pageNum_inj (by omega))
  simp only [clear, span, List.all_cons, List.all_nil, h0, h1, h2, Bool.or_self, Bool.and_false, Bool.not_false,
    Bool.and_self]

/-! ## Fields that a state operation leaves, or writes

These say what the laws of the fields say, with the checks of the fields as plain hypotheses. -/

theorem fset_reads (p : Page) (f : Field) (v : Nat) (s : State) (h : fieldOk f = true) :
    fget p f (fset p f v s) = v % 2 ^ f.width := fget_fset_same p f v s h

theorem fset_keeps (p : Page) (f g : Field) (v : Nat) (s : State) (h : (fieldOk f && fieldOk g && fieldsApart f g) = true) :
    fget p f (fset p g v s) = fget p f s := by
  simp only [Bool.and_eq_true] at h
  obtain ⟨⟨hf, hg⟩, h⟩ := h
  exact fget_fset_apart p f g v s hf hg h

theorem raise_keeps (p q : Page) (i : Nat) (f : Field) (s : State)
    (h : (Nat.blt f.off 0x1000 && !Nat.beq f.off 0x018) = true) : fget q f (raise p i s) = fget q f s := by
  simp only [Bool.and_eq_true, Bool.not_eq_true'] at h
  obtain ⟨hf, h⟩ := h
  exact raise_fget p q i f s hf h

theorem opened_keeps (w : Wr) (p q : Page) (f : Field) (s : State)
    (h : (Nat.blt f.off 0x1000 && !Nat.beq f.off 0x02C) = true) : fget q f (opened w p s) = fget q f s := by
  simp only [Bool.and_eq_true, Bool.not_eq_true'] at h
  obtain ⟨hf, h⟩ := h
  exact opened_fget w p q f s hf h

/-! ## Counters -/

/-- A saturating counter counts up to its largest value. -/
theorem fget_satInc_same (p : Page) (f : Field) (n : Nat) (s : State) (h : fieldOk f = true) :
    fget p f (satInc p f n s) = min (fget p f s + n) (2 ^ f.width - 1) := by
  have hp := Nat.two_pow_pos f.width
  unfold satInc
  rw [fset_reads p f _ s h]
  exact Nat.mod_eq_of_lt (by unfold satAdd; omega)

/-- A saturating counter leaves the fields that share no bit with it. -/
theorem fget_satInc_apart (p : Page) (f g : Field) (n : Nat) (s : State)
    (h : (fieldOk f && fieldOk g && fieldsApart f g) = true) : fget p f (satInc p g n s) = fget p f s :=
  fset_keeps p f g _ s h

theorem satInc_at (p : Page) (f : Field) (n : Nat) (s : State) (ho : Nat.blt f.off 0x1000 = true) :
    Only [] [span p f.off f.off] s (satInc p f n s) := fset_at p f _ s ho

/-! ## Interrupts of events already latched -/

/-- Whether an interrupt leaves or not, the registers and the parts behind them stay. -/
theorem interruptIf_only (p : Page) (c : Prop) [Decidable c] (s : State) :
    Only [.heldOut, .out] [] s (if c then pageInterrupt p s else s) := by
  split
  · exact pageInterrupt_any p s
  · exact Only.refl _ _ _

theorem interruptIf_fget (p q : Page) (f : Field) (c : Prop) [Decidable c] (s : State) :
    fget q f (if c then pageInterrupt p s else s) = fget q f s := by
  split
  · exact pageInterrupt_fget p q f s
  · rfl

end Sys2Proof.Machine
end

section
/-! SUPPORT. Debug sessions, EVT_CLR and LOCK, the token's limit (O16, O6, O31). -/

namespace Sys2Proof.Machine

/-! ## Debug sessions (R45, R423) -/

/-- Settles O16: the three fields and the event lie in registers of their own on the DBG page. -/
theorem debugSessions : Obligations.DebugSessions := by
  refine ⟨fun s hl hp hs => ?_, fun s => ⟨_, rfl, ?_, ?_, ?_⟩⟩
  · have hex : exec .debugSessionOpen s = .next (raise .dbg 8 (satInc .dbg Reg.DBG_DBG_SESS_CNT_COUNT 1
        (fset .dbg Reg.DBG_DBG_STAT_SESSION 1 s))) := by
      show execDebugSessionOpen s = _
      rw [execDebugSessionOpen, if_neg (by simp [hl, hp, hs])]
    refine ⟨_, hex, ?_, ?_, ?_, ?_⟩
    · rw [raise_keeps _ _ _ _ _ rfl, fget_satInc_apart _ _ _ _ _ rfl, fset_reads _ _ _ _ rfl]
      rfl
    · rw [raise_keeps _ _ _ _ _ rfl, fget_satInc_same _ _ _ _ rfl, fset_keeps _ _ _ _ _ rfl]
      rfl
    · exact eventSet_raise .dbg 8 _ rfl (by decide)
    · exact (((fset_at .dbg Reg.DBG_DBG_STAT_SESSION 1 s rfl).mono rfl).trans
        ((satInc_at .dbg Reg.DBG_DBG_SESS_CNT_COUNT 1 _ rfl).mono rfl)).trans ((raise_at .dbg 8 _ rfl).mono rfl)
  · exact fset_reads .dbg Reg.DBG_DBG_STAT_SESSION 0 s rfl
  · exact fset_keeps .dbg Reg.DBG_DBG_STAT_DEBUG_LOCK Reg.DBG_DBG_STAT_SESSION 0 s rfl
  · exact fset_at .dbg Reg.DBG_DBG_STAT_SESSION 0 s rfl

/-- A session that DebugSessions speaks of: the first one after reset. -/
theorem debugSessionOpen_at_reset :
    ∃ t, exec .debugSessionOpen State.reset = .next t ∧ fget .dbg Reg.DBG_DBG_SESS_CNT_COUNT t = 1 := by
  obtain ⟨t, ht, -, hc, -⟩ := debugSessions.1 State.reset rfl (by decide) rfl
  exact ⟨t, ht, hc⟩

/-! ## The token's limit (R34) -/

/-- Settles O31: the refused grant raises event 12 on the replica's page and writes nothing else. -/
theorem tokenLimit : Obligations.TokenLimit := by
  intro r f s ha ht hh
  have hex : exec (.acquire r f) s = .next (raise (.rf r) 12 (arrive (.acquire r f) s)) := by
    show execAcquire r f s = _
    have ha' : acquireOk r f (arrive (.acquire r f) s) = true := ha
    have ht' : tokenOf r (arrive (.acquire r f) s) = 2 ^ 32 - 1 := ht
    have hh' : holderOf r (arrive (.acquire r f) s) ≠ holderNum f := hh
    simp only [execAcquire, ha', Bool.true_eq_false, if_false, if_pos (And.intro ht' hh')]
  have hon : Only [.mesh, .heldOut, .out] [span (.rf r) 0x018 0x018] s (raise (.rf r) 12 (arrive (.acquire r f) s)) :=
    ((arrive_only _ s).mono rfl).trans ((raise_at (.rf r) 12 _ rfl).mono
      (by simp [within, Fld.inside, RegSpan.inside, span]))
  refine ⟨_, hex, eventSet_raise (.rf r) 12 _ rfl (by decide), fun k => ⟨?_, ?_, ?_⟩, hon⟩
  · exact hon.fget (.rf k) Reg.RF_LEASE_STAT_HOLDER rfl rfl rfl
  · exact hon.fget (.rf k) Reg.RF_LEASE_TOKEN_TOKEN rfl rfl rfl
  · unfold expOf wideGet
    rw [hon.fget (.rf k) Reg.RF_LEASE_EXP_LO_EXP rfl rfl rfl, hon.fget (.rf k) Reg.RF_LEASE_EXP_HI_EXP rfl rfl rfl]

/-- A state that TokenLimit speaks of: RF-N at the largest token, no holder. -/
theorem acquire_at_token_limit :
    ∃ t, exec (.acquire .north .south) (fset (.rf .north) Reg.RF_LEASE_TOKEN_TOKEN 0xFFFFFFFF State.reset) = .next t ∧
      tokenOf .north t = 0xFFFFFFFF := by
  obtain ⟨t, ht, -, hk, -⟩ := tokenLimit .north .south (fset (.rf .north) Reg.RF_LEASE_TOKEN_TOKEN 0xFFFFFFFF State.reset)
    rfl rfl (by decide)
  obtain ⟨-, htok, -⟩ := hk .north
  exact ⟨t, ht, htok.trans rfl⟩

/-! ## EVT_CLR and LOCK (R28, R12) -/

/-- EVT_RAW after EVT_CLR: the named bits clear, then those of the same cycle are set (R11). -/
theorem clearEvents_raw (p : Page) (mid : W16) (clear setNow : W32) (s : State) (hp : notMbx p = true) :
    fget p Reg.EVT_RAW_RAW (clearEvents p mid clear setNow s) =
      ((BitVec.ofNat 32 (fget p Reg.EVT_RAW_RAW s) &&& ~~~clear) ||| setNow).toNat := by
  have hv := (fset_reads p Reg.EVT_RAW_RAW
    (((BitVec.ofNat 32 (fget p Reg.EVT_RAW_RAW s) &&& ~~~clear) ||| setNow).toNat) s rfl).trans
    (Nat.mod_eq_of_lt (BitVec.isLt _))
  cases p with
  | mbx m => cases hp
  | cap | cc | wsc | mig | d2d | rf | hp | rg | eth | pmu | thm | sec | dbg | fus | aon | die | bm | chan | tile =>
    exact (interruptIf_fget _ _ _ _ _).trans hv

/-- EVT_CLR writes EVT_RAW of its page; an interrupt may leave. -/
theorem clearEvents_at (p : Page) (mid : W16) (clear setNow : W32) (s : State) (hp : notMbx p = true) :
    Only [.heldOut, .out] [span p 0x018 0x018] s (clearEvents p mid clear setNow s) := by
  have hw : ∀ v, Only [.heldOut, .out] [span p 0x018 0x018] s (fset p Reg.EVT_RAW_RAW v s) := fun v =>
    (fset_at p Reg.EVT_RAW_RAW v s rfl).mono (by simp [within, Fld.inside, RegSpan.inside, span, Reg.EVT_RAW_RAW])
  cases p with
  | mbx m => cases hp
  | cap | cc | wsc | mig | d2d | rf | hp | rg | eth | pmu | thm | sec | dbg | fus | aon | die | bm | chan | tile =>
    exact (hw _).trans ((interruptIf_only _ _ _).mono rfl)

theorem clearEvents_event (p : Page) (mid : W16) (clear setNow : W32) (s : State) (i : Nat) (hp : notMbx p = true)
    (hi : i < 32) :
    eventSet p i (clearEvents p mid clear setNow s) = (setNow.getLsbD i || (eventSet p i s && !clear.getLsbD i)) := by
  unfold eventSet
  rw [clearEvents_raw p mid clear setNow s hp, BitVec.testBit_toNat]
  rw [BitVec.getLsbD_or, BitVec.getLsbD_and, BitVec.getLsbD_not, BitVec.getLsbD_ofNat, Bool.or_comm]
  simp [hi]

theorem evtClrWrite_admitted {w : Wr} {p : Page} {s : State} (clear setNow : W32) (h : Admitted w p 0x020 s) :
    exec (.evtClrWrite w p clear setNow) s = .next (clearEvents p w.mid clear setNow (opened w p s)) :=
  congrArg Host.Outcome.next (guarded_opened h)

theorem lockSet_admitted {w : Wr} {p : Page} {s : State} (h : Admitted w p 0x030 s) :
    exec (.lockSet w p) s = .next (fset p Reg.LOCK_LOCK 1 (opened w p s)) :=
  congrArg Host.Outcome.next (guarded_opened h)

/-- Settles O6: EVT_RAW, LOCK and the token lie in three registers of the page. -/
theorem eventClearAndLock : Obligations.EventClearAndLock := by
  refine ⟨fun w p clear setNow s hp h => ?_, fun w p s h => ?_⟩
  · have hop := opened_at w p s
    have hcl := clearEvents_at p w.mid clear setNow (opened w p s) hp
    refine ⟨_, evtClrWrite_admitted clear setNow h, fun i hi => ?_, ?_, ?_⟩
    · rw [clearEvents_event p _ _ _ _ i hp hi, hop.event p i rfl rfl]
    · rw [hcl.fget p Reg.EPOCH_TOKEN rfl rfl rfl, opened_token]
    · exact (hop.mono (by simp [within, Fld.inside, RegSpan.inside, span])).trans
        (hcl.mono (by simp [within, Fld.inside, RegSpan.inside, span]))
  · refine ⟨_, lockSet_admitted h, ?_, ?_, ?_⟩
    · simp only [locked, fset_reads p Reg.LOCK_LOCK 1 (opened w p s) rfl]
      rfl
    · rw [fset_keeps p Reg.EPOCH_TOKEN Reg.LOCK_LOCK _ _ rfl, opened_token]
    · exact ((opened_at w p s).mono (by simp [within, Fld.inside, RegSpan.inside, span])).trans
        ((fset_at p Reg.LOCK_LOCK 1 _ rfl).mono (by simp [within, Fld.inside, RegSpan.inside, span, Reg.LOCK_LOCK]))

/-- At reset the physical function of port 0 may write the common registers of HP0. -/
theorem admitted_hp0_at_reset {o : Nat} (ho : admits State.reset 0 (.hp 0) o = true) :
    Admitted ⟨0, 0⟩ (.hp 0) o State.reset := ⟨rfl, rfl, rfl, ho, fun h => by cases h⟩

/-- Writes that EventClearAndLock speaks of: the clear of an event that occurs in its cycle, and a LOCK. -/
theorem evtClr_and_lock_at_reset :
    (∃ t, exec (.evtClrWrite ⟨0, 0⟩ (.hp 0) 3 2) State.reset = .next t ∧ eventSet (.hp 0) 1 t = true) ∧
      ∃ t, exec (.lockSet ⟨0, 0⟩ (.hp 0)) State.reset = .next t ∧ locked (.hp 0) t = true := by
  obtain ⟨t, ht, hv, -⟩ := eventClearAndLock.1 ⟨0, 0⟩ (.hp 0) 3 2 State.reset rfl (admitted_hp0_at_reset rfl)
  obtain ⟨u, hu, hl, -⟩ := eventClearAndLock.2 ⟨0, 0⟩ (.hp 0) State.reset (admitted_hp0_at_reset rfl)
  exact ⟨⟨t, ht, hv 1 (by decide)⟩, u, hu, hl⟩

end Sys2Proof.Machine
end

section
/-! SUPPORT. The sizes of a register write and the common registers (O8). -/

namespace Sys2Proof.Machine

/-! ## Where a write goes (R29, R38) -/

theorem regAddr_div (p : Page) {o : Nat} (ho : o < 0x1000) : regAddr p o / 0x1000 = pageNum p := by
  unfold regAddr; omega

theorem regAddr_mod (p : Page) {o : Nat} (ho : o < 0x1000) : regAddr p o % 0x1000 = o := by
  unfold regAddr; omega

/-- A write of a word to an offset of a page. -/
theorem writeReg_page (w : Wr) (p : Page) {o : Nat} (v : W32) (s : State) (ho : o < 0x1000) :
    writeReg w (regAddr p o) v s =
      if (reservedOff p o && served s p && sees s w.mid p && present s p) = true then s
      else if o < 0x100 then writeCommon w p o v s else writeBlock w p o v s := by
  simp only [writeReg, regAddr_div p ho, regAddr_mod p ho, pageAt_pageNum]

/-- Where the writer reaches the page, a reserved offset takes nothing (R13). -/
theorem writeReg_reserved {w : Wr} {p : Page} {o : Nat} (v : W32) {s : State} (ho : o < 0x1000)
    (h : Reaches w.mid p s) (hr : reservedOff p o = true) : writeReg w (regAddr p o) v s = s := by
  obtain ⟨h1, h2, h3⟩ := h
  rw [writeReg_page w p v s ho, hr, h1, h2, h3]
  rfl

/-- A common register goes by its own rule where the offset holds one. -/
theorem writeReg_common {w : Wr} {p : Page} {o : Nat} (v : W32) (s : State) (ho : o < 0x100)
    (hr : reservedOff p o = false) : writeReg w (regAddr p o) v s = writeCommon w p o v s := by
  rw [writeReg_page w p v s (by omega), hr, if_neg (by simp), if_pos ho]

/-- A discarded write raises BAD_ACCESS where the writer reaches the page (R29). -/
theorem badAccess_page {w : Wr} {p : Page} {o : Nat} {s : State} (ho : o < 0x1000) (h : Reaches w.mid p s) :
    badAccess w (regAddr p o) s = raise p 5 s := by
  obtain ⟨h1, h2, h3⟩ := h
  simp only [badAccess, regAddr_div p ho, pageAt_pageNum, h1, h2, h3, Bool.true_eq_false, if_false]

/-! ## Sizes (R29, R30) -/

theorem exec_registerWrite_word (w : Wr) (off : BitVec 26) (data : W64) (s : State) (h : off.toNat % 4 = 0) :
    exec (.registerWrite w off 4 data) s = .next (writeReg w off.toNat (BitVec.ofNat 32 data.toNat) s) := by
  show execRegisterWrite w off 4 data s = _
  rw [execRegisterWrite, if_pos ⟨rfl, h⟩]

theorem exec_registerWrite_double (w : Wr) (off : BitVec 26) (data : W64) (s : State) (h : off.toNat % 8 = 0) :
    exec (.registerWrite w off 8 data) s = .next (writeReg w (off.toNat + 4) (BitVec.ofNat 32 (data.toNat / 2 ^ 32))
      (writeReg w off.toNat (BitVec.ofNat 32 data.toNat) s)) := by
  show execRegisterWrite w off 8 data s = _
  rw [execRegisterWrite, if_neg (by omega), if_pos ⟨rfl, h⟩]

theorem exec_registerWrite_discarded (w : Wr) (off : BitVec 26) (size : Nat) (data : W64) (s : State)
    (h4 : ¬(size = 4 ∧ off.toNat % 4 = 0)) (h8 : ¬(size = 8 ∧ off.toNat % 8 = 0)) :
    exec (.registerWrite w off size data) s = .next (badAccess w off.toNat s) := by
  show execRegisterWrite w off size data s = _
  rw [execRegisterWrite, if_neg h4, if_neg h8]

/-- The next word of an 8-byte offset does not leave BAR0. -/
theorem toNat_add_four (off : BitVec 26) (h : off.toNat % 8 = 0) : (off + 4).toNat = off.toNat + 4 := by
  have := off.isLt
  have h4 : (4 : BitVec 26).toNat = 4 := rfl
  rw [BitVec.toNat_add, h4, Nat.mod_eq_of_lt (by omega)]

/-! ## EVT_EN -/

/-- Every page has the same common registers. -/
theorem reservedOff_common (p : Page) {o : Nat} (ho : o < 0x100) :
    reservedOff p o = (Reg.fieldsAny.filter (covers o)).isEmpty := by
  have hs : ∀ h : Half, decide (h = .south ∧ 0x200 ≤ o ∧ o < 0x268) = false := fun _ => decide_eq_false (by omega)
  have hg : ∀ i : Fin 2, decide (i.val = 1 ∧ 0x400 ≤ o) = false := fun _ => decide_eq_false (by omega)
  unfold reservedOff fieldsAt
  rw [if_pos ho]
  cases p with
  | wsc h => simp only [hs, Bool.or_false]
  | rg i => simp only [hg, Bool.or_false]
  | cap | cc | mig | d2d | rf | hp | eth | pmu | thm | sec | dbg | fus | aon | die | bm | mbx | chan | tile =>
    exact Bool.or_false _

theorem reservedOff_evtEn (p : Page) : reservedOff p 0x01C = false :=
  (reservedOff_common p (by decide)).trans rfl

/-- EVT_EN takes the word. -/
theorem writeEvtEn_en (mid : W16) (p : Page) (v : W32) (s : State) (hp : notMbx p = true) :
    fget p Reg.EVT_EN_EN (writeEvtEn mid p v s) = v.toNat := by
  have hv := (fset_reads p Reg.EVT_EN_EN v.toNat s rfl).trans (Nat.mod_eq_of_lt v.isLt)
  cases p with
  | mbx m => cases hp
  | cap | cc | wsc | mig | d2d | rf | hp | rg | eth | pmu | thm | sec | dbg | fus | aon | die | bm | chan | tile =>
    exact (interruptIf_fget _ _ _ _ _).trans hv

/-- EVT_EN is stored in its page; an interrupt may leave. -/
theorem writeEvtEn_at (mid : W16) (p : Page) (v : W32) (s : State) (hp : notMbx p = true) :
    Only [.heldOut, .out] [span p 0x01C 0x01C] s (writeEvtEn mid p v s) := by
  have hw : Only [.heldOut, .out] [span p 0x01C 0x01C] s (fset p Reg.EVT_EN_EN v.toNat s) :=
    (fset_at p Reg.EVT_EN_EN _ s rfl).mono (by simp [within, Fld.inside, RegSpan.inside, span, Reg.EVT_EN_EN])
  cases p with
  | mbx m => cases hp
  | cap | cc | wsc | mig | d2d | rf | hp | rg | eth | pmu | thm | sec | dbg | fus | aon | die | bm | chan | tile =>
    exact hw.trans ((interruptIf_only _ _ _).mono rfl)

theorem writeReg_evtEn {w : Wr} {p : Page} (v : W32) {s : State} (h : Admitted w p 0x01C s) :
    writeReg w (regAddr p 0x01C) v s = writeEvtEn w.mid p v (opened w p s) := by
  rw [writeReg_common v s (by decide) (reservedOff_evtEn p), writeCommon, if_neg (by decide), if_pos rfl,
    guarded_opened h]

/-- Settles O8: an aligned word goes to `writeReg` once, a double word twice, anything else to `badAccess`. -/
theorem registerWriteSizes : Obligations.RegisterWriteSizes := by
  refine ⟨fun w off data s h8 => ?_, fun w p o off size data s ha ho hp h h4 h8 => ?_,
    fun w p o off data s ha ho h4 h hr => ?_, fun w p off data s ha hp h => ?_⟩
  · refine ⟨_, _, exec_registerWrite_word w off data s (by omega),
      exec_registerWrite_word w (off + 4) _ _ (by rw [toNat_add_four off h8]; omega), ?_⟩
    rw [exec_registerWrite_double w off data s h8, toNat_add_four off h8, BitVec.toNat_ushiftRight,
      Nat.shiftRight_eq_div_pow]
  · have ha4 : off.toNat % 4 = o % 4 := by rw [ha]; unfold regAddr; omega
    have ha8 : off.toNat % 8 = o % 8 := by rw [ha]; unfold regAddr; omega
    have hex := exec_registerWrite_discarded w off size data s (by rwa [ha4]) (by rwa [ha8])
    rw [ha, badAccess_page ho h] at hex
    exact ⟨_, hex, eventSet_raise p 5 s hp (by decide), raise_at p 5 s hp⟩
  · rw [exec_registerWrite_word w off data s (by rw [ha]; unfold regAddr; omega), ha, writeReg_reserved _ ho h hr]
  · have hex := exec_registerWrite_word w off data s (by rw [ha]; unfold regAddr; omega)
    rw [ha, writeReg_evtEn _ h] at hex
    have hop := opened_at w p s
    have hst := writeEvtEn_at w.mid p (BitVec.ofNat 32 data.toNat) (opened w p s) hp
    refine ⟨_, hex, ?_, ?_, ?_⟩
    · rw [writeEvtEn_en _ _ _ _ hp, BitVec.toNat_ofNat]
    · rw [hst.fget p Reg.EPOCH_TOKEN rfl rfl rfl, opened_token]
    · exact (hop.mono (by simp [within, Fld.inside, RegSpan.inside, span])).trans
        (hst.mono (by simp [within, Fld.inside, RegSpan.inside, span]))

/-- Writes that RegisterWriteSizes speaks of, of HP0 at reset: of 2 bytes, of a reserved offset, of EVT_EN. -/
theorem registerWrite_sizes_at_reset :
    (∃ t, exec (.registerWrite ⟨0, 0⟩ 0xB010 2 0) State.reset = .next t ∧ eventSet (.hp 0) 5 t = true) ∧
      exec (.registerWrite ⟨0, 0⟩ 0xBFFC 4 1) State.reset = .next State.reset ∧
      ∃ t, exec (.registerWrite ⟨0, 0⟩ 0xB01C 4 0x11) State.reset = .next t ∧ fget (.hp 0) Reg.EVT_EN_EN t = 0x11 := by
  have hr : Reaches 0 (.hp 0) State.reset := ⟨rfl, rfl, rfl⟩
  obtain ⟨-, hb, hz, he⟩ := registerWriteSizes
  obtain ⟨t, ht, hv, -⟩ := hb ⟨0, 0⟩ (.hp 0) 0x010 0xB010 2 0 State.reset rfl (by decide) rfl hr (by decide) (by decide)
  obtain ⟨u, hu, hw, -⟩ := he ⟨0, 0⟩ (.hp 0) 0xB01C 0x11 State.reset rfl rfl (admitted_hp0_at_reset rfl)
  exact ⟨⟨t, ht, hv⟩, hz ⟨0, 0⟩ (.hp 0) 0xFFC 0xBFFC 1 State.reset rfl (by decide) rfl hr rfl, u, hu, hw⟩

end Sys2Proof.Machine
end

section
/-! SUPPORT. Locked tables and the registers that LOCK protects (O11): the record of a stopped write, the entries of the
Mailbox Binding Table and of the Remote Admin Table. -/

namespace Sys2Proof.Machine

/-! ## Spans and runs of registers -/

theorem clear_cons (x : RegSpan) (r : List RegSpan) (p : Page) (o : Nat) :
    clear (x :: r) p o = (clear [x] p o && clear r p o) := by
  simp only [clear, List.all_cons, List.all_nil, Bool.and_true]

/-- Registers of a page lie in a wider span of it. -/
theorem Only.widen {p : Page} {a b c d : Nat} {s t : State} (h : Only [] [span p a b] s t) (h1 : c ≤ a) (h2 : b ≤ d) :
    Only [] [span p c d] s t :=
  h.mono (by simp [within, RegSpan.inside, span, h1, h2])

/-- A field is within its width. -/
theorem fget_lt (p : Page) (f : Field) (s : State) : fget p f s < 2 ^ f.width := Nat.mod_lt _ (Nat.two_pow_pos _)

theorem fgetI_fsetI_same (p : Page) (f : Field) (i v : Nat) (s : State) (h : f.lo + f.width ≤ 32) :
    fgetI p f i (fsetI p f i v s) = v % 2 ^ f.width := by
  simp only [fgetI, fsetI, regWord_set_same]
  exact bitsOf_putBits_same _ _ _ _ h

/-- Another field of the same register keeps its value. -/
theorem fgetI_fsetI_apart (p : Page) (f g : Field) (i v : Nat) (s : State) (hg : g.lo + g.width ≤ 32) (ho : f.off = g.off)
    (h : f.lo + f.width ≤ g.lo ∨ g.lo + g.width ≤ f.lo) : fgetI p f i (fsetI p g i v s) = fgetI p f i s := by
  simp only [fgetI, fsetI, ho, regWord_set_same]
  exact bitsOf_putBits_other _ _ _ _ _ _ hg h

theorem fsetI_at (p : Page) (f : Field) (i v : Nat) (s : State) (ho : f.off + 4 * i < 0x1000) :
    Only [] [span p (f.off + 4 * i) (f.off + 4 * i)] s (fsetI p f i v s) :=
  setRegWord_at p _ _ s (by simpa using ho)

/-! ## The record of a write that a LOCK stops (R35) -/

/-- The SEC page's part of `lockedWrite`: the first stopped write is recorded, every one counts. -/
def lockRecord (mid : W16) (p : Page) (off : Nat) (data : W32) (s : State) : State :=
  satInc .sec Reg.SEC_LW_CNT_COUNT 1 (if fget .sec Reg.SEC_LW_REC_MID_VALID s = 0 then
      s |> fset .sec Reg.SEC_LW_REC_MID_MID mid.toNat |> fset .sec Reg.SEC_LW_REC_OFF_OFFSET (regAddr p off)
        |> fset .sec Reg.SEC_LW_REC_DATA_DATA data.toNat |> fset .sec Reg.SEC_LW_REC_MID_VALID 1
    else s)

theorem lockedWrite_eq (mid : W16) (p : Page) (off : Nat) (data : W32) (s : State) :
    lockedWrite mid p off data s = if p = .sec then raise .sec 3 (lockRecord mid p off data s)
      else raise .sec 3 (raise p 3 (lockRecord mid p off data s)) := rfl

theorem lockRecord_count (mid : W16) (p : Page) (off : Nat) (data : W32) (s : State) :
    fget .sec Reg.SEC_LW_CNT_COUNT (lockRecord mid p off data s) = min (fget .sec Reg.SEC_LW_CNT_COUNT s + 1) 65535 := by
  unfold lockRecord
  rw [fget_satInc_same _ _ _ _ rfl]
  split
  · rw [fset_keeps _ _ _ _ _ rfl, fset_keeps _ _ _ _ _ rfl, fset_keeps _ _ _ _ _ rfl, fset_keeps _ _ _ _ _ rfl]
    rfl
  · rfl

theorem lockRecord_valid (mid : W16) (p : Page) (off : Nat) (data : W32) (s : State) :
    fget .sec Reg.SEC_LW_REC_MID_VALID (lockRecord mid p off data s) = 1 := by
  unfold lockRecord
  rw [fget_satInc_apart _ _ _ _ _ rfl]
  split
  · rw [fset_reads _ _ _ _ rfl]
    rfl
  · have h : fget .sec Reg.SEC_LW_REC_MID_VALID s < 2 := fget_lt _ _ _
    omega

/-- The first stopped write is recorded: who, where, what. -/
theorem lockRecord_first (mid : W16) (p : Page) (off : Nat) (data : W32) (s : State)
    (h : fget .sec Reg.SEC_LW_REC_MID_VALID s = 0) :
    fget .sec Reg.SEC_LW_REC_MID_MID (lockRecord mid p off data s) = mid.toNat ∧
      fget .sec Reg.SEC_LW_REC_OFF_OFFSET (lockRecord mid p off data s) = regAddr p off % 2 ^ 26 ∧
      fget .sec Reg.SEC_LW_REC_DATA_DATA (lockRecord mid p off data s) = data.toNat := by
  unfold lockRecord
  rw [if_pos h]
  refine ⟨?_, ?_, ?_⟩
  · rw [fget_satInc_apart _ _ _ _ _ rfl, fset_keeps _ _ _ _ _ rfl, fset_keeps _ _ _ _ _ rfl, fset_keeps _ _ _ _ _ rfl,
      fset_reads _ _ _ _ rfl]
    exact Nat.mod_eq_of_lt mid.isLt
  · rw [fget_satInc_apart _ _ _ _ _ rfl, fset_keeps _ _ _ _ _ rfl, fset_keeps _ _ _ _ _ rfl, fset_reads _ _ _ _ rfl]
    rfl
  · rw [fget_satInc_apart _ _ _ _ _ rfl, fset_keeps _ _ _ _ _ rfl, fset_reads _ _ _ _ rfl]
    exact Nat.mod_eq_of_lt data.isLt

theorem lockRecord_at (mid : W16) (p : Page) (off : Nat) (data : W32) (s : State) :
    Only [] [span .sec 0x100 0x10C] s (lockRecord mid p off data s) := by
  have hf : ∀ f v t, f.off = 0x100 ∨ f.off = 0x104 ∨ f.off = 0x108 → Only [] [span .sec 0x100 0x10C] t (fset .sec f v t) :=
    fun f v t h => (fset_at .sec f v t (by rcases h with h | h | h <;> rw [h] <;> rfl)).widen (by omega) (by omega)
  unfold lockRecord
  refine Only.trans ?_ ((satInc_at .sec Reg.SEC_LW_CNT_COUNT 1 _ rfl).mono rfl)
  split
  · exact (((hf _ _ _ (.inl rfl)).trans (hf _ _ _ (.inr (.inl rfl)))).trans (hf _ _ _ (.inr (.inr rfl)))).trans
      (hf _ _ _ (.inl rfl))
  · exact Only.refl _ _ _

/-- Later stopped writes only count. -/
theorem lockRecord_later (mid : W16) (p : Page) (off : Nat) (data : W32) (s : State)
    (h : fget .sec Reg.SEC_LW_REC_MID_VALID s ≠ 0) :
    Only [] [span .sec 0x10C 0x10C] s (lockRecord mid p off data s) := by
  unfold lockRecord
  rw [if_neg h]
  exact satInc_at .sec Reg.SEC_LW_CNT_COUNT 1 s rfl

/-- LOCKED_WRITE on the page and on the SEC page. -/
theorem lockedWrite_events (mid : W16) (p : Page) (off : Nat) (data : W32) (s : State) (hp : notMbx p = true) :
    eventSet p 3 (lockedWrite mid p off data s) = true ∧ eventSet .sec 3 (lockedWrite mid p off data s) = true := by
  rw [lockedWrite_eq]
  split
  · rename_i h
    subst h
    exact ⟨eventSet_raise .sec 3 _ rfl (by decide), eventSet_raise .sec 3 _ rfl (by decide)⟩
  · exact ⟨eventSet_raise_of p .sec 3 3 _ (eventSet_raise p 3 _ hp (by decide)), eventSet_raise .sec 3 _ rfl (by decide)⟩

/-- Past the record only events are raised. -/
theorem lockRecord_lockedWrite (mid : W16) (p : Page) (off : Nat) (data : W32) (s : State) (hp : notMbx p = true) :
    Only [.heldOut, .out] [span p 0x018 0x018, span .sec 0x018 0x018] (lockRecord mid p off data s)
      (lockedWrite mid p off data s) := by
  rw [lockedWrite_eq]
  have hs : ∀ t, Only [.heldOut, .out] [span p 0x018 0x018, span .sec 0x018 0x018] t (raise .sec 3 t) := fun t =>
    (raise_at .sec 3 t rfl).mono (by simp [within, Fld.inside, RegSpan.inside, span])
  split
  · exact hs _
  · exact ((raise_at p 3 _ hp).mono (by simp [within, Fld.inside, RegSpan.inside, span])).trans (hs _)

theorem lockedWrite_stops (mid : W16) (p : Page) (off : Nat) (data : W32) (s : State) (hp : notMbx p = true) :
    LockStops mid p off data s (lockedWrite mid p off data s) := by
  have hr := lockRecord_lockedWrite mid p off data s hp
  have hk : ∀ f, Nat.blt f.off 0x1000 = true → 0x100 ≤ f.off → fget .sec f (lockedWrite mid p off data s) =
      fget .sec f (lockRecord mid p off data s) := fun f hf hb => hr.fget .sec f rfl hf (by
    rw [clear_cons, clear_span p .sec (.inr (by omega)), clear_span .sec .sec (.inr (by omega))]; rfl)
  obtain ⟨he, hes⟩ := lockedWrite_events mid p off data s hp
  refine ⟨he, hes, ?_, ?_, fun h => ?_, fun h => ?_, ?_⟩
  · rw [hk _ rfl (by decide), lockRecord_count]
  · rw [hk _ rfl (by decide), lockRecord_valid]
  · rw [hk _ rfl (by decide), hk _ rfl (by decide), hk _ rfl (by decide)]
    exact lockRecord_first mid p off data s h
  · exact ((lockRecord_later mid p off data s h).mono (by simp [within, Fld.inside, RegSpan.inside, span])).trans
      (hr.mono (by simp [within, Fld.inside, RegSpan.inside, span]))
  · exact ((lockRecord_at mid p off data s).mono (by simp [within, Fld.inside, RegSpan.inside, span])).trans
      (hr.mono (by simp [within, Fld.inside, RegSpan.inside, span]))

/-- The token taken before the LOCK stops the write has no part in what is recorded. -/
theorem LockStops.of_opened {w : Wr} {p : Page} {mid : W16} {off : Nat} {data : W32} {s t : State}
    (h : LockStops mid p off data (opened w p s) t) : LockStops mid p off data s t := by
  have hc : fget .sec Reg.SEC_LW_CNT_COUNT (opened w p s) = fget .sec Reg.SEC_LW_CNT_COUNT s := opened_keeps w p .sec _ s rfl
  have hv : fget .sec Reg.SEC_LW_REC_MID_VALID (opened w p s) = fget .sec Reg.SEC_LW_REC_MID_VALID s :=
    opened_keeps w p .sec _ s rfl
  have hop := opened_at w p s
  obtain ⟨he, hes, hn, hvt, hf, hl, ho⟩ := h
  rw [hc] at hn
  rw [hv] at hf hl
  exact ⟨he, hes, hn, hvt, hf, fun k => (hop.mono (by simp [within, Fld.inside, RegSpan.inside, span])).trans (hl k),
    (hop.mono (by simp [within, Fld.inside, RegSpan.inside, span])).trans ho⟩

theorem locked_opened (w : Wr) (p : Page) (s : State) : locked p (opened w p s) = locked p s := by
  simp only [locked, opened_keeps w p p Reg.LOCK_LOCK s rfl]

/-- An admitted write of what a LOCK protects. -/
theorem guardedRwl_locked {w : Wr} {p : Page} {off : Nat} {data : W32} {f : State → State} {s : State}
    (h : Admitted w p off s) (hl : locked p s = true) :
    guardedRwl w p off data f s = lockedWrite w.mid p off data (opened w p s) := by
  rw [guardedRwl, guarded_opened h, locked_opened, if_pos hl]

theorem guardedRwl_unlocked {w : Wr} {p : Page} {off : Nat} {data : W32} {f : State → State} {s : State}
    (h : Admitted w p off s) (hl : locked p s = false) : guardedRwl w p off data f s = f (opened w p s) := by
  rw [guardedRwl, guarded_opened h, locked_opened, hl, if_neg (by decide)]

/-! ## The Mailbox Binding Table (R324) -/

/-- The 64 bits that `storeMbt` stores: 54 of the word written, and VALID. -/
def mbtStored (data : W64) (valid : Bool) : Nat := data.toNat % 2 ^ 54 + (if valid then 2 ^ 63 else 0)

theorem mbtEntry_storeMbt (m : Fin 64) (data : W64) (valid : Bool) (s : State) (hm : m.val ≠ 63) :
    mbtEntry (storeMbt m data valid s) m.val = mbtStored data valid := by
  have hne : regAddr .sec (0x400 + 8 * m.val) ≠ regAddr .sec (0x404 + 8 * m.val) := by unfold regAddr; omega
  have hd : data.toNat % 2 ^ 54 < 2 ^ 54 := Nat.mod_lt _ (by decide)
  simp only [mbtEntry, hm, if_false, storeMbt, regWord_set_same, regWord_set_other _ _ _ _ hne, BitVec.toNat_ofNat,
    mbtStored]
  split <;> omega

theorem storeMbt_at (m : Fin 64) (data : W64) (valid : Bool) (s : State) :
    Only [] [span .sec (0x400 + 8 * m.val) (0x404 + 8 * m.val)] s (storeMbt m data valid s) :=
  ((setRegWord_at .sec _ _ s (by simp; omega)).widen (by omega) (by omega)).trans
    ((setRegWord_at .sec _ _ _ (by simp; omega)).widen (by omega) (by omega))

/-- An event of the SEC page leaves the table. -/
theorem mbtEntry_raise (m : Fin 64) (i : Nat) (s : State) (hm : m.val ≠ 63) :
    mbtEntry (raise .sec i s) m.val = mbtEntry s m.val := by
  have hr := raise_at .sec i s rfl
  have hw : ∀ o, 0x400 ≤ o → o < 0x1000 → regWord (raise .sec i s) (regAddr .sec o) = regWord s (regAddr .sec o) :=
    fun o h1 h2 => hr.word rfl .sec o h2 (clear_span .sec .sec (.inr (by omega)))
  simp only [mbtEntry, hm, if_false, hw _ (show 0x400 ≤ 0x400 + 8 * m.val by omega) (by omega),
    hw _ (show 0x400 ≤ 0x404 + 8 * m.val by omega) (by omega)]

theorem getLsbD_63 (data : W64) : (bitsOf data.toNat 63 1 = 0) ↔ data.getLsbD 63 = false := by
  rw [← BitVec.testBit_toNat, Nat.testBit_eq_decide_div_mod_eq, decide_eq_false_iff_not, bitsOf]
  omega

/-- An entry is stored valid where it is written with VALID 1 and passes its check; a failed check raises event 8. -/
theorem writeEntry_mbt (m : Fin 64) (data : W64) (s : State) (hm : m.val ≠ 63) :
    writeEntry (.mbt m data) s =
      if data.getLsbD 63 = true ∧ mbtOk data = false then raise .sec 8 (storeMbt m data false s)
      else storeMbt m data (data.getLsbD 63 && mbtOk data) s := by
  cases hv : data.getLsbD 63 with
  | false => simp [writeEntry, hm, (getLsbD_63 data).mpr hv]
  | true =>
    have hb : bitsOf data.toNat 63 1 ≠ 0 := fun h => by rw [(getLsbD_63 data).mp h] at hv; cases hv
    cases hk : mbtOk data <;> simp [writeEntry, hm, hb, hk]

/-! ## The Remote Admin Table (R347) -/

theorem storeAdmin_at (i : Fin 8) (data : W32) (valid : Bool) (s : State) :
    Only [] [span (.rg 0) (0x400 + 4 * i.val) (0x400 + 4 * i.val)] s (storeAdmin i data valid s) :=
  (fsetI_at (.rg 0) Reg.RG_ADMIN_MID i.val _ s (by simp only [Reg.RG_ADMIN_MID]; omega)).trans
    (fsetI_at (.rg 0) Reg.RG_ADMIN_VALID i.val _ _ (by simp only [Reg.RG_ADMIN_VALID]; omega))

theorem storeAdmin_valid (i : Fin 8) (data : W32) (valid : Bool) (s : State) :
    fgetI (.rg 0) Reg.RG_ADMIN_VALID i.val (storeAdmin i data valid s) = if valid = true then 1 else 0 := by
  unfold storeAdmin
  rw [fgetI_fsetI_same _ _ _ _ _ (by decide)]
  cases valid <;> rfl

theorem storeAdmin_mid (i : Fin 8) (data : W32) (valid : Bool) (s : State) :
    fgetI (.rg 0) Reg.RG_ADMIN_MID i.val (storeAdmin i data valid s) = data.toNat % 2 ^ 16 := by
  unfold storeAdmin
  exact (fgetI_fsetI_apart (.rg 0) Reg.RG_ADMIN_MID Reg.RG_ADMIN_VALID _ _ _ (by decide) rfl (by decide)).trans
    (fgetI_fsetI_same _ _ _ _ _ (by decide))

theorem getLsbD_31 (data : W32) : (bitsOf data.toNat 31 1 = 0) ↔ data.getLsbD 31 = false := by
  rw [← BitVec.testBit_toNat, Nat.testBit_eq_decide_div_mod_eq, decide_eq_false_iff_not, bitsOf]
  omega

/-- The same of the Remote Admin Table, whose failed check raises event 15. -/
theorem writeEntry_admin (i : Fin 8) (data : W32) (s : State) :
    writeEntry (.admin i data) s =
      if data.getLsbD 31 = true ∧ adminOk data = false then raise (.rg 0) 15 (storeAdmin i data false s)
      else storeAdmin i data (data.getLsbD 31 && adminOk data) s := by
  cases hv : data.getLsbD 31 with
  | false => simp [writeEntry, (getLsbD_31 data).mpr hv]
  | true =>
    have hb : bitsOf data.toNat 31 1 ≠ 0 := fun h => by rw [(getLsbD_31 data).mp h] at hv; cases hv
    cases hk : adminOk data <;> simp [writeEntry, hb, hk]

/-- An event of RGA leaves its table. -/
theorem admin_raise (f : Field) (i : Fin 8) (j : Nat) (s : State) (hf : f.off = 0x400) :
    fgetI (.rg 0) f i.val (raise (.rg 0) j s) = fgetI (.rg 0) f i.val s :=
  (raise_at (.rg 0) j s rfl).fgetI (.rg 0) f i.val rfl (by rw [hf]; simp; omega)
    (clear_span _ _ (.inr (by omega)))

/-! ## The obligation -/

theorem lockedTableEntryWrite_admitted {w : Wr} {e : TableEntry} {s : State}
    (h : Admitted w (entryPlace e).1 (entryPlace e).2.1 s) (hl : locked (entryPlace e).1 s = false) :
    exec (.lockedTableEntryWrite w e) s = .next (writeEntry e (opened w (entryPlace e).1 s)) :=
  congrArg Host.Outcome.next (guardedRwl_unlocked h hl)

theorem opened_notShared {p : Page} (w : Wr) (s : State) (hp : pageShared p = false) : opened w p s = s := by
  rw [opened, if_neg (by simp [hp])]

theorem notMbx_entryPlace (e : TableEntry) : notMbx (entryPlace e).1 = true := by
  cases e <;> rfl

theorem notMbx_storesOnly {p : Page} (hp : storesOnly p = true) : notMbx p = true := by
  cases p with
  | mbx m => cases hp
  | cap | cc | wsc | mig | d2d | rf | hp | rg | eth | pmu | thm | sec | dbg | fus | aon | die | bm | chan | tile => rfl

/-- An admitted word for a register that LOCK protects, of a locked page that only stores. -/
theorem exec_registerWrite_locked {w : Wr} {p : Page} {o : Nat} {off : BitVec 26} (data : W64) {s : State}
    (hp : storesOnly p = true) (ha : off.toNat = regAddr p o) (ho : 0x100 ≤ o) (ho' : o < 0x1000) (h4 : o % 4 = 0)
    (hr : isRwl p o = true) (hw : Admitted w p o s) (hl : locked p s = true) :
    exec (.registerWrite w off 4 data) s = .next (lockedWrite w.mid p o (BitVec.ofNat 32 data.toNat) (opened w p s)) := by
  obtain ⟨f, hf, -⟩ := List.any_eq_true.mp hr
  have hres : reservedOff p o = false := by
    rw [reservedOff_storesOnly o hp, List.isEmpty_eq_false_iff.mpr (List.ne_nil_of_mem hf)]
  rw [exec_registerWrite_word w off data s (by rw [ha]; unfold regAddr; omega), ha, writeReg_block _ _ ho ho' hres,
    writeBlock_storesOnly _ _ _ hp, plainWrite, if_pos hr, guardedRwl_locked hw hl]

/-- An unlocked table takes the entry, valid or not (R36, R324). -/
theorem mbt_entry_written (w : Wr) (m : Fin 64) (data : W64) (s : State) (hm : m.val ≠ 63)
    (h : Admitted w .sec (0x400 + 8 * m.val) s) (hl : locked .sec s = false) :
    ∃ t, exec (.lockedTableEntryWrite w (.mbt m data)) s = .next t ∧
      mbtEntry t m.val = data.toNat % 2 ^ 54 + (if data.getLsbD 63 = true ∧ mbtOk data = true then 2 ^ 63 else 0) ∧
      (data.getLsbD 63 = true → mbtOk data = false → eventSet .sec 8 t = true) ∧
      Only [.heldOut, .out] [span .sec 0x018 0x018, span .sec 0x02C 0x02C,
        span .sec (0x400 + 8 * m.val) (0x404 + 8 * m.val)] s t := by
  have hop : Only [.heldOut, .out] [span .sec 0x018 0x018, span .sec 0x02C 0x02C,
      span .sec (0x400 + 8 * m.val) (0x404 + 8 * m.val)] s (opened w .sec s) :=
    (opened_at w .sec s).mono (by simp [within, Fld.inside, RegSpan.inside, span])
  have hst : ∀ v t, Only [.heldOut, .out] [span .sec 0x018 0x018, span .sec 0x02C 0x02C,
      span .sec (0x400 + 8 * m.val) (0x404 + 8 * m.val)] t (storeMbt m data v t) := fun v t =>
    (storeMbt_at m data v t).mono (by simp [within, Fld.inside, RegSpan.inside, span])
  refine ⟨_, lockedTableEntryWrite_admitted (e := .mbt m data) h hl, ?_⟩
  rw [writeEntry_mbt m data _ hm]
  split
  · rename_i hc
    obtain ⟨-, hk⟩ := hc
    refine ⟨?_, fun _ _ => eventSet_raise .sec 8 _ rfl (by decide), (hop.trans (hst _ _)).trans
      ((raise_at .sec 8 _ rfl).mono (by simp [within, Fld.inside, RegSpan.inside, span]))⟩
    rw [mbtEntry_raise m 8 _ hm, mbtEntry_storeMbt m data _ _ hm, mbtStored, hk]
    simp
  · rename_i hc
    refine ⟨?_, fun hv hk => absurd ⟨hv, hk⟩ hc, hop.trans (hst _ _)⟩
    simp only [mbtEntry_storeMbt m data _ _ hm, mbtStored, Bool.and_eq_true]

theorem admin_entry_written (w : Wr) (i : Fin 8) (data : W32) (s : State) (h : Admitted w (.rg 0) (0x400 + 4 * i.val) s)
    (hl : locked (.rg 0) s = false) :
    ∃ t, exec (.lockedTableEntryWrite w (.admin i data)) s = .next t ∧
      fgetI (.rg 0) Reg.RG_ADMIN_MID i.val t = data.toNat % 2 ^ 16 ∧
      fgetI (.rg 0) Reg.RG_ADMIN_VALID i.val t = (if data.getLsbD 31 = true ∧ adminOk data = true then 1 else 0) ∧
      (data.getLsbD 31 = true → adminOk data = false → eventSet (.rg 0) 15 t = true) ∧
      Only [.heldOut, .out] [span (.rg 0) 0x018 0x018, span (.rg 0) (0x400 + 4 * i.val) (0x400 + 4 * i.val)] s t := by
  have hst : ∀ v t, Only [.heldOut, .out] [span (.rg 0) 0x018 0x018,
      span (.rg 0) (0x400 + 4 * i.val) (0x400 + 4 * i.val)] t (storeAdmin i data v t) := fun v t =>
    (storeAdmin_at i data v t).mono (by simp [within, Fld.inside, RegSpan.inside, span])
  refine ⟨_, lockedTableEntryWrite_admitted (e := .admin i data) h hl, ?_⟩
  rw [writeEntry_admin, entryPlace, opened_notShared w s rfl]
  split
  · rename_i hc
    obtain ⟨-, hk⟩ := hc
    refine ⟨?_, ?_, fun _ _ => eventSet_raise (.rg 0) 15 _ rfl (by decide), (hst _ _).trans
      ((raise_at (.rg 0) 15 _ rfl).mono (by simp [within, Fld.inside, RegSpan.inside, span]))⟩
    · rw [admin_raise _ i _ _ rfl, storeAdmin_mid]
    · rw [admin_raise _ i _ _ rfl, storeAdmin_valid, hk]
      simp
  · rename_i hc
    refine ⟨storeAdmin_mid i data _ s, ?_, fun hv hk => absurd ⟨hv, hk⟩ hc, hst _ _⟩
    simp only [storeAdmin_valid, Bool.and_eq_true]

/-- A table error leaves the entry with VALID 0 (R36). -/
theorem mbt_entry_dropped (m : Fin 64) (data : W64) (s : State) (hm : m.val ≠ 63) :
    ∃ t, exec (.tableError (.mbt m data)) s = .next t ∧ mbtValid t m.val = false ∧ eventSet .sec 6 t = true ∧
      Only [.heldOut, .out] [span .sec 0x018 0x018, span .sec (0x400 + 8 * m.val) (0x404 + 8 * m.val)] s t := by
  have hex : exec (.tableError (.mbt m data)) s =
      .next (raise .sec 6 (storeMbt m (BitVec.ofNat 64 (mbtEntry s m.val)) false s)) := by
    show execTableError (.mbt m data) s = _
    rw [execTableError, if_neg hm]
  refine ⟨_, hex, ?_, eventSet_raise .sec 6 _ rfl (by decide),
    ((storeMbt_at m _ _ s).mono (by simp [within, Fld.inside, RegSpan.inside, span])).trans
      ((raise_at .sec 6 _ rfl).mono (by simp [within, Fld.inside, RegSpan.inside, span]))⟩
  have hb : ∀ d, bitsOf (mbtStored d false) 63 1 ≠ 1 := fun d => by
    have hd : d.toNat % 2 ^ 54 < 2 ^ 54 := Nat.mod_lt _ (by decide)
    simp only [mbtStored, bitsOf, Bool.false_eq_true, if_false]
    omega
  rw [mbtValid, mbtEntry_raise m 6 _ hm, mbtEntry_storeMbt m _ _ _ hm]
  exact decide_eq_false (hb _)

theorem admin_entry_dropped (i : Fin 8) (data : W32) (s : State) :
    ∃ t, exec (.tableError (.admin i data)) s = .next t ∧ fgetI (.rg 0) Reg.RG_ADMIN_VALID i.val t = 0 ∧
      eventSet (.rg 0) 6 t = true ∧
      Only [.heldOut, .out] [span (.rg 0) 0x018 0x018, span (.rg 0) (0x400 + 4 * i.val) (0x400 + 4 * i.val)] s t := by
  refine ⟨raise (.rg 0) 6 (dropAdmin i s), rfl, ?_, eventSet_raise (.rg 0) 6 _ rfl (by decide), ?_⟩
  · rw [admin_raise _ i _ _ rfl]
    exact fgetI_fsetI_same _ _ _ _ _ (by decide)
  · have hf := fsetI_at (.rg 0) Reg.RG_ADMIN_VALID i.val 0 s (by simp only [Reg.RG_ADMIN_VALID]; omega)
    exact (hf.mono (by simp [within, Fld.inside, RegSpan.inside, span, Reg.RG_ADMIN_VALID])).trans
      ((raise_at (.rg 0) 6 _ rfl).mono (by simp [within, Fld.inside, RegSpan.inside, span]))

/-- Settles O11: past its gates an entry goes to `writeEntry` on an unlocked page, to `lockedWrite` on a locked one. -/
theorem lockedTables : Obligations.LockedTables :=
  ⟨mbt_entry_written, admin_entry_written,
    fun w e _ h hl => ⟨_, congrArg Host.Outcome.next (guardedRwl_locked h hl),
      (lockedWrite_stops w.mid _ _ _ _ (notMbx_entryPlace e)).of_opened⟩,
    fun w p o _ data _ hp ha ho ho' h4 hr hw hl =>
      ⟨_, exec_registerWrite_locked data hp ha ho ho' h4 hr hw hl,
        (lockedWrite_stops w.mid p o _ _ (notMbx_storesOnly hp)).of_opened⟩,
    mbt_entry_dropped, admin_entry_dropped⟩

/-- Writes that LockedTables speaks of, at reset: an entry that fails its check, and one behind the LOCK of the SEC page. -/
theorem mbt_entry_at_reset :
    (∃ t, exec (.lockedTableEntryWrite ⟨0, 0⟩ (.mbt 0 0x8000000000000000)) State.reset = .next t ∧ eventSet .sec 8 t = true) ∧
      ∃ t, exec (.lockedTableEntryWrite ⟨0, 0⟩ (.mbt 0 1)) (fset .sec Reg.LOCK_LOCK 1 State.reset) = .next t ∧
        fget .sec Reg.SEC_LW_REC_OFF_OFFSET t = 0x13400 := by
  obtain ⟨hm, -, hl, -⟩ := lockedTables
  obtain ⟨t, ht, -, he, -⟩ := hm ⟨0, 0⟩ 0 0x8000000000000000 State.reset (by decide)
    ⟨rfl, rfl, rfl, rfl, fun _ h => by cases h⟩ rfl
  obtain ⟨u, hu, -, -, -, -, hf, -⟩ := hl ⟨0, 0⟩ (.mbt 0 1) (fset .sec Reg.LOCK_LOCK 1 State.reset)
    ⟨rfl, rfl, rfl, rfl, fun _ h => by cases h⟩ rfl
  obtain ⟨-, hoff, -⟩ := hf rfl
  exact ⟨⟨t, ht, he (by decide) (by decide)⟩, u, hu, hoff⟩

end Sys2Proof.Machine
end

section
/-! SUPPORT. The BAR2 window (O15): bytes and poison marks after a write of the range, denials, what leaves. -/

namespace Sys2Proof.Machine

/-! ## The range after a write (R273, R276) -/

/-- A write of a key before a run of keys leaves the run. -/
theorem sgetAll_sset_before {α : Type} [DecidableEq α] (d : α) (n j k : Nat) (v : α) (m : Store α) (h : k < j) :
    sgetAll d j n (sset d k v m) = sgetAll d j n m := by
  induction n generalizing j with
  | zero => rfl
  | succ n ih => rw [sgetAll, sgetAll, sget_sset_other d d k j v m (by omega), ih (j + 1) (by omega)]

/-- Consecutive keys just written read as what was written. -/
theorem sgetAll_ssetAll {α : Type} [DecidableEq α] (d : α) (k : Nat) (vs : List α) (m : Store α) :
    sgetAll d k vs.length (ssetAll d k vs m) = vs := by
  induction vs generalizing k with
  | nil => rfl
  | cons v vs ih =>
    rw [List.length_cons, ssetAll, sgetAll, sget_sset_same, sgetAll_sset_before _ _ _ _ _ _ (Nat.lt_succ_self k), ih (k + 1)]

/-- What no step of a fold changes. -/
theorem foldl_keeps {α β γ : Type} {f : β → α → β} (g : β → γ) (h : ∀ b a, g (f b a) = g b) (l : List α) (b : β) :
    g (l.foldl f b) = g b := by
  induction l generalizing b with
  | nil => rfl
  | cons a l ih => exact (ih (f b a)).trans (h b a)

/-- Every key of a list is marked. -/
theorem sget_foldl_mark {β : Type} {f : β → Nat → β} (g : β → Store Bool)
    (h : ∀ b k, g (f b k) = sset false k true (g b)) (l : List Nat) (b : β) (k : Nat)
    (hk : k ∈ l ∨ sget false k (g b) = true) : sget false k (g (l.foldl f b)) = true := by
  induction l generalizing b with
  | nil => exact hk.resolve_left (by simp)
  | cons a l ih =>
    refine ih (f b a) ?_
    rw [h b a, sget_sset]
    by_cases e : k = a
    · exact .inr (if_pos e)
    · rw [if_neg e]
      exact hk.imp_left fun hm => (List.mem_cons.mp hm).resolve_left e

theorem markWrite_mem (a n : Nat) (b : Bool) (s : State) : (markWrite a n b s).range.mem = s.range.mem := by
  unfold markWrite
  extract_lets one
  exact foldl_keeps (f := one) Range.mem (fun _ _ => rfl) _ _

theorem markWrite_homes (a n : Nat) (b : Bool) (s : State) : (markWrite a n b s).range.homes = s.range.homes := by
  unfold markWrite
  extract_lets one
  exact foldl_keeps (f := one) Range.homes (fun _ _ => rfl) _ _

/-- Poisoned data marks every granule it touches. -/
theorem markWrite_poison (a n g : Nat) (s : State) (hg : g ∈ spanGranules a n) :
    sget false g (markWrite a n true s).range.poison = true := by
  unfold markWrite
  extract_lets one
  exact sget_foldl_mark (f := one) Range.poison (fun _ _ => rfl) _ _ _ (.inl hg)

theorem countPoison_range (a n : Nat) (s : State) : (countPoison a n s).range = s.range :=
  (countPoison_only a n s).parts .range (by decide) (by decide)

/-- The range after a write: the bytes, the marks of its granules and the moves of its pages. -/
theorem rangeWrite_range (a : Nat) (bytes : List Byte) (poison : Bool) (s : State) :
    (rangeWrite a bytes poison s).range = { (markWrite a bytes.length poison s).range with
      mem := ssetAll 0 a bytes s.range.mem,
      moves := (markWrite a bytes.length poison s).range.moves.map (dirtyMoves a bytes.length) } := by
  unfold rangeWrite
  rw [← markWrite_mem a bytes.length poison s]
  cases poison
  · rfl
  · exact countPoison_range _ _ _

theorem rangeBytes_rangeWrite (a : Nat) (bytes : List Byte) (poison : Bool) (s : State) :
    rangeBytes a bytes.length (rangeWrite a bytes poison s) = bytes := by
  rw [rangeBytes, rangeWrite_range]
  exact sgetAll_ssetAll 0 a bytes _

/-- A write leaves every byte beside it. -/
theorem rangeBytes_rangeWrite_beside (a : Nat) (bytes : List Byte) (poison : Bool) (s : State) (i : Nat)
    (h : i < a ∨ a + bytes.length ≤ i) : rangeBytes i 1 (rangeWrite a bytes poison s) = rangeBytes i 1 s := by
  simp only [rangeBytes, rangeWrite_range, sgetAll, sget_ssetAll_out 0 0 bytes a i s.range.mem h]

theorem rangeWrite_homes (a : Nat) (bytes : List Byte) (poison : Bool) (s : State) :
    (rangeWrite a bytes poison s).range.homes = s.range.homes := by
  rw [rangeWrite_range]
  exact markWrite_homes _ _ _ _

/-- Poisoned bytes are read as poisoned. -/
theorem rangePoison_rangeWrite (a : Nat) (bytes : List Byte) (s : State) (h : bytes ≠ []) :
    rangePoison a bytes.length (rangeWrite a bytes true s) = true := by
  have hl : 0 < bytes.length := List.length_pos_iff.mpr h
  have hg : a / 64 ∈ spanGranules a bytes.length := by
    rw [spanGranules, if_neg (by omega)]
    exact List.mem_map.mpr ⟨0, List.mem_range.mpr (by omega), rfl⟩
  refine Bool.or_eq_true_iff.mpr (.inl (List.any_eq_true.mpr ⟨_, hg, ?_⟩))
  rw [rangeWrite_range]
  exact markWrite_poison a _ _ s hg

/-! ## What has left stays among what left -/

theorem push_out (o : Out) (s : State) : (push o s).out = s.out ++ [o] := rfl

theorem mem_out_sendIrq {o : Out} (mid : W16) (vec : Nat) {s : State} (h : o ∈ s.out) : o ∈ (sendIrq mid vec s).out := by
  unfold sendIrq
  split
  · exact h
  · exact List.mem_append_left _ h

theorem mem_out_deviceInterrupt {o : Out} {s : State} (h : o ∈ s.out) : o ∈ (deviceInterrupt s).out := by
  unfold deviceInterrupt
  extract_lets one
  have h1 : ∀ i t, o ∈ t.out → o ∈ (one i t).out := by
    intro i t ht
    simp only [one]
    split
    · exact mem_out_sendIrq _ _ ht
    · exact ht
  exact h1 _ _ (h1 _ _ h)

theorem mem_out_pageInterrupt {o : Out} (p : Page) {s : State} (h : o ∈ s.out) : o ∈ (pageInterrupt p s).out := by
  unfold pageInterrupt
  split
  · exact mem_out_sendIrq _ _ h
  · exact mem_out_deviceInterrupt h

theorem mem_out_raise {o : Out} (p : Page) (i : Nat) {s : State} (h : o ∈ s.out) : o ∈ (raise p i s).out := by
  unfold raise
  split
  · simpa only [raiseMail, setMail_out] using h
  · extract_lets before t
    have ht : o ∈ t.out := by rwa [show t = fset _ _ _ _ from rfl, fset_out]
    split
    · exact mem_out_pageInterrupt p ht
    · exact ht

/-! ## The record of a denial (R44) -/

/-- The first denial is recorded: who and why. -/
theorem denyRecord_first (mid : W16) (kind addr : Nat) (s : State) (hk : kind < 4)
    (h : fget .sec Reg.SEC_AD_REC_MID_VALID s = 0) :
    fget .sec Reg.SEC_AD_REC_MID_MID (denyRecord mid kind addr s) = mid.toNat ∧
      fget .sec Reg.SEC_AD_REC_MID_KIND (denyRecord mid kind addr s) = kind := by
  unfold denyRecord
  rw [if_pos h]
  refine ⟨?_, ?_⟩
  · rw [raise_keeps _ _ _ _ _ rfl, fget_satInc_apart _ _ _ _ _ rfl, fset_keeps _ _ _ _ _ rfl, fset_keeps _ _ _ _ _ rfl,
      fset_keeps _ _ _ _ _ rfl, fset_keeps _ _ _ _ _ rfl, fset_reads _ _ _ _ rfl]
    exact Nat.mod_eq_of_lt mid.isLt
  · rw [raise_keeps _ _ _ _ _ rfl, fget_satInc_apart _ _ _ _ _ rfl, fset_keeps _ _ _ _ _ rfl, fset_keeps _ _ _ _ _ rfl,
      fset_keeps _ _ _ _ _ rfl, fset_reads _ _ _ _ rfl]
    exact Nat.mod_eq_of_lt hk

theorem denyRecord_event (mid : W16) (kind addr : Nat) (s : State) : eventSet .sec 4 (denyRecord mid kind addr s) = true :=
  eventSet_raise .sec 4 _ rfl (by decide)

theorem denyRecord_range (mid : W16) (kind addr : Nat) (s : State) : (denyRecord mid kind addr s).range = s.range :=
  (denyRecord_only mid kind addr s).parts .range (by decide) (by decide)

/-! ## The two commands -/

/-- The host port's page that an access through BAR2 comes by. -/
def bar2Port (mid : W16) : Page := .hp (Fin.ofNat 2 (midPort mid))

theorem bar2Denied_event (mid : W16) (addr : Nat) (s : State) : eventSet (bar2Port mid) 4 (bar2Denied mid addr s) = true :=
  eventSet_raise (bar2Port mid) 4 _ rfl (by decide)

theorem bar2Denied_range (mid : W16) (addr : Nat) (s : State) : (bar2Denied mid addr s).range = s.range :=
  (bar2Denied_only mid addr s).parts .range (by decide) (by decide)

theorem eventSet_push (p : Page) (i : Nat) (o : Out) (s : State) : eventSet p i (push o s) = eventSet p i s := by
  rw [eventSet, fget_push, ← eventSet]

/-- What a denied access leaves: its event, its Completer Abort, the memory as it was. -/
theorem bar2Denied_shown (mid : W16) (addr : Nat) (s : State) :
    eventSet (bar2Port mid) 4 (push (.completerAbort mid addr) (bar2Denied mid addr s)) = true ∧
      (push (.completerAbort mid addr) (bar2Denied mid addr s)).out.getLast? = some (.completerAbort mid addr) ∧
      (push (.completerAbort mid addr) (bar2Denied mid addr s)).range = s.range := by
  refine ⟨?_, ?_, ?_⟩
  · rw [eventSet_push, bar2Denied_event]
  · rw [push_out, List.getLast?_concat]
  · rw [push_range, bar2Denied_range]

theorem bar2Read_denied {mid : W16} {off : BitVec 36} {len : Nat} {err : Option ReadError} {s : State}
    (h : bar2Reaches mid s = true) (hm : hostMay mid false (bar2Addr mid off s) len s = false) :
    exec (.bar2Read mid off len err) s =
      .next (push (.completerAbort mid (bar2Addr mid off s)) (bar2Denied mid (bar2Addr mid off s) s)) := by
  show execBar2Read mid off len err s = _
  simp only [execBar2Read, h, hm, Bool.true_eq_false, if_false, if_true]
  rfl

theorem bar2Read_admitted {mid : W16} {off : BitVec 36} {len : Nat} {s : State} (h : bar2Reaches mid s = true)
    (hm : hostMay mid false (bar2Addr mid off s) len s = true) :
    exec (.bar2Read mid off len none) s =
      .next (if rangePoison (bar2Addr mid off s) len s = true then raise (bar2Port mid) 8 (wrapInc (bar2Port mid)
          Reg.HP_POISON_OUT_CNT_COUNT 1 (push (.bar2Data mid (bar2Addr mid off s) (sentBytes (bar2Addr mid off s) len s)
            (rangePoison (bar2Addr mid off s) len s)) s))
        else push (.bar2Data mid (bar2Addr mid off s) (sentBytes (bar2Addr mid off s) len s)
          (rangePoison (bar2Addr mid off s) len s)) s) := by
  show execBar2Read mid off len none s = _
  simp only [execBar2Read, h, hm, Bool.true_eq_false, if_false]
  rfl

theorem bar2Write_denied {mid : W16} {off : BitVec 36} {bytes : List Byte} {poison : Bool} {s : State}
    (h : bar2Reaches mid s = true) (hm : hostMay mid true (bar2Addr mid off s) bytes.length s = false) :
    exec (.bar2Write mid off bytes poison) s =
      .next (push (.completerAbort mid (bar2Addr mid off s)) (bar2Denied mid (bar2Addr mid off s) s)) := by
  show execBar2Write mid off bytes poison s = _
  simp only [execBar2Write, h, hm, Bool.true_eq_false, if_false, if_true]
  rfl

/-- An admitted write: discarded and recorded where a page is homed in a fenced unit, stored otherwise. -/
theorem bar2Write_admitted {mid : W16} {off : BitVec 36} {bytes : List Byte} {poison : Bool} {s : State}
    (h : bar2Reaches mid s = true) (hm : hostMay mid true (bar2Addr mid off s) bytes.length s = true) :
    exec (.bar2Write mid off bytes poison) s =
      .next (if (spanPages (bar2Addr mid off s) bytes.length).any (fun q => homeFenced (homeOf q s) s) = true then
          raise (bar2Port mid) 4 (raise .sec 9 (denyRecord mid 2 (bar2Addr mid off s) s))
        else rangeWrite (bar2Addr mid off s) bytes poison s) := by
  show execBar2Write mid off bytes poison s = _
  simp only [execBar2Write, h, hm, Bool.true_eq_false, if_false]
  split <;> rfl

/-- Settles O15: a denied access, a read and a write each end in one place of `execBar2Read` and `execBar2Write`. -/
theorem bar2Access : Obligations.Bar2Access := by
  refine ⟨fun mid off len err s h hm => ?_, fun mid off len s h hm hp => ?_, fun mid off len s h hm hp => ?_,
    fun mid off bytes poison s h hm => ?_, fun mid off bytes poison s h hm hf => ?_,
    fun mid off bytes poison s h hm hf => ?_⟩
  · exact ⟨_, bar2Read_denied h hm, bar2Denied_shown mid _ s⟩
  · refine ⟨_, bar2Read_admitted h hm, ?_⟩
    simp only [hp, Bool.false_eq_true, if_false]
    exact ⟨push_only _ _, push_out _ _⟩
  · refine ⟨_, bar2Read_admitted h hm, ?_⟩
    simp only [hp, if_true]
    exact ⟨eventSet_raise (bar2Port mid) 8 _ rfl (by decide),
      mem_out_raise _ _ (by rw [wrapInc_out, push_out]; exact List.mem_append_right _ (List.mem_singleton.mpr rfl)),
      by rw [raise_range, wrapInc_range, push_range]⟩
  · exact ⟨_, bar2Write_denied h hm, bar2Denied_shown mid _ s⟩
  · refine ⟨_, bar2Write_admitted h hm, ?_⟩
    rw [if_pos hf]
    refine ⟨eventSet_raise_of _ _ _ _ _ (eventSet_raise .sec 9 _ rfl (by decide)),
      eventSet_raise_of _ _ _ _ _ (eventSet_raise_of _ _ _ _ _ (denyRecord_event mid 2 _ s)),
      eventSet_raise (bar2Port mid) 4 _ rfl (by decide), ?_, fun hv => ?_⟩
    · rw [raise_range, raise_range, denyRecord_range]
    · rw [raise_keeps _ _ _ _ _ rfl, raise_keeps _ _ _ _ _ rfl, raise_keeps _ _ _ _ _ rfl, raise_keeps _ _ _ _ _ rfl]
      exact denyRecord_first mid 2 _ s (by decide) hv
  · refine ⟨_, bar2Write_admitted h hm, ?_⟩
    rw [if_neg (by rw [hf]; decide)]
    refine ⟨rangeBytes_rangeWrite _ _ _ _, fun a ha => rangeBytes_rangeWrite_beside _ _ _ _ a ha, fun hp hb => ?_,
      rangeWrite_homes _ _ _ _, rangeWrite_only _ _ _ _⟩
    subst hp
    exact rangePoison_rangeWrite _ _ _ hb

/-- A state that Bar2Access speaks of: the device ready, page 0 of the range owned by the physical function of port 0. -/
def bar2State : State := { setHome 0 { st := .homed, ownerKind := 1, tier := 2 } State.reset with phase := .ready }

theorem bar2_write_and_read :
    ∃ t, exec (.bar2Write 0 5 [1, 2] false) bar2State = .next t ∧ rangeBytes 5 2 t = [1, 2] := by
  obtain ⟨-, -, -, -, -, hw⟩ := bar2Access
  obtain ⟨t, ht, hb, -⟩ := hw 0 5 [1, 2] false bar2State rfl rfl rfl
  exact ⟨t, ht, hb⟩

end Sys2Proof.Machine
end

section
/-! SUPPORT. Starting and stopping a block (O7): the moves of R31 on the page, and what the unit behind it leaves. -/

namespace Sys2Proof.Machine

/-! ## The moves of a page alone -/

theorem setBlk_quiet (p : Page) (b : Blk) (s : State) (h1 : b ≠ .on) (h2 : b ≠ .off) :
    Only [] [span p 0x014 0x014] s (setBlk p b s) := by
  unfold setBlk
  dsimp only
  rw [if_neg (by simp [h1, h2])]
  exact fset_at p Reg.BLK_STATE_STATE _ s rfl

/-- EN is written, and the block moves where R31 says so; neither ON nor OFF is reached. -/
theorem writeEn_page (p : Page) (en : Bool) (s : State) :
    Only [] [span p 0x010 0x010, span p 0x014 0x014] s (writeEn p en s) := by
  have hb : ∀ b t, b ≠ .on → b ≠ .off → Only [] [span p 0x010 0x010, span p 0x014 0x014] t (setBlk p b t) :=
    fun b t h1 h2 => (setBlk_quiet p b t h1 h2).mono (by simp [within, Fld.inside, RegSpan.inside, span])
  have he : Only [] [span p 0x010 0x010, span p 0x014 0x014] s (fset p Reg.BLK_CTRL_EN (if en then 1 else 0) s) :=
    (fset_at p Reg.BLK_CTRL_EN _ s rfl).mono (by simp [within, RegSpan.inside, span, Reg.BLK_CTRL_EN])
  unfold writeEn
  extract_lets t
  split
  · exact Only.refl _ _ _
  · split
    · split
      · exact he
      · exact he.trans (hb _ _ (by decide) (by decide))
    · exact he.trans (hb _ _ (by decide) (by decide))
    · exact he.trans (hb _ _ (by decide) (by decide))
    · exact he.trans (hb _ _ (by decide) (by decide))
    · exact he

theorem writeEn_en (p : Page) (en : Bool) (s : State) (hp : fixedPage p = false) :
    fget p Reg.BLK_CTRL_EN (writeEn p en s) = if en then 1 else 0 := by
  have he : fget p Reg.BLK_CTRL_EN (fset p Reg.BLK_CTRL_EN (if en then 1 else 0) s) = if en then 1 else 0 :=
    (fset_reads p Reg.BLK_CTRL_EN _ s rfl).trans (by cases en <;> rfl)
  have hb : ∀ b t, fget p Reg.BLK_CTRL_EN (setBlk p b t) = fget p Reg.BLK_CTRL_EN t := fun b t =>
    setBlk_fget p p b Reg.BLK_CTRL_EN t rfl rfl rfl
  unfold writeEn
  rw [hp, if_neg (by decide)]
  extract_lets t
  split
  · split
    · exact he
    · exact (hb _ _).trans he
  · exact (hb _ _).trans he
  · exact (hb _ _).trans he
  · exact (hb _ _).trans he
  · exact he

/-- The transition table of R31 for a write of EN. -/
theorem writeEn_blk (p : Page) (en : Bool) (s : State) (hp : fixedPage p = false) :
    blk p (writeEn p en s) = enMove (blk p s) (fenced p s) en := by
  have hb : blk p (fset p Reg.BLK_CTRL_EN (if en then 1 else 0) s) = blk p s := blk_congr (fset_keeps _ _ _ _ _ rfl)
  have hf : fenced p (fset p Reg.BLK_CTRL_EN (if en then 1 else 0) s) = fenced p s :=
    fenced_congr (fset_keeps _ _ _ _ _ rfl)
  unfold writeEn
  rw [hp, if_neg (by decide)]
  extract_lets t
  rw [show blk p t = blk p s from hb, show fenced p t = fenced p s from hf]
  cases en with
  | false =>
    cases h : blk p s with
    | on | restartPending => exact blk_setBlk _ _ _
    | off | starting | stopping => exact hb.trans h
  | true =>
    cases h : blk p s with
    | off =>
      simp only [enMove]
      split
      · exact hb.trans h
      · exact blk_setBlk _ _ _
    | stopping => exact blk_setBlk _ _ _
    | starting | on | restartPending => exact hb.trans h

theorem startDone_page (p : Page) (s : State) :
    Only [.mail, .heldOut, .out] [span p 0x014 0x014, span p 0x018 0x018] s (startDone p s) := by
  unfold startDone
  split
  · extract_lets t
    split
    · exact (setBlk_page p .on s).trans (setBlk_page p .stopping t)
    · exact setBlk_page p .on s
  · exact Only.refl _ _ _

/-- A start passes ON; a block whose EN is 0 or that is fenced goes on to STOPPING (R31). -/
theorem startDone_blk (p : Page) (s : State) (h : blk p s = .starting) :
    blk p (startDone p s) = if fget p Reg.BLK_CTRL_EN s = 0 ∨ fenced p s = true then .stopping else .on := by
  have he : fget p Reg.BLK_CTRL_EN (setBlk p .on s) = fget p Reg.BLK_CTRL_EN s :=
    setBlk_fget p p .on Reg.BLK_CTRL_EN s rfl rfl rfl
  have hf : fenced p (setBlk p .on s) = fenced p s := fenced_congr (setBlk_fget p p .on Reg.FENCE_FENCED s rfl rfl rfl)
  simp only [startDone, h, if_true, he, hf]
  split
  · exact blk_setBlk _ _ _
  · exact blk_setBlk _ _ _

theorem startDone_event (p : Page) (s : State) (hp : notMbx p = true) (h : blk p s = .starting) :
    eventSet p 0 (startDone p s) = true := by
  have he := setBlk_event p .on s hp (.inl rfl)
  simp only [startDone, h, if_true]
  split
  · exact setBlk_event_of _ _ _ _ _ he
  · exact he

theorem stopDone_page (p : Page) (s : State) :
    Only [.mail, .heldOut, .out] [span p 0x014 0x014, span p 0x018 0x018] s (stopDone p s) := by
  unfold stopDone
  split
  · exact setBlk_page p .off s
  · extract_lets t
    split
    · exact setBlk_page p .off s
    · exact (setBlk_page p .off s).trans (setBlk_page p .starting t)
  · exact Only.refl _ _ _

/-- A stop reaches OFF, and starts anew where EN was written 1 again and no fence holds it (R31). -/
theorem stopDone_blk (p : Page) (s : State) (h : blk p s = .stopping ∨ blk p s = .restartPending) :
    blk p (stopDone p s) = stopMove (blk p s) (fenced p s) := by
  have hf : fenced p (setBlk p .off s) = fenced p s := fenced_congr (setBlk_fget p p .off Reg.FENCE_FENCED s rfl rfl rfl)
  rcases h with h | h
  · simp only [stopDone, h, stopMove, blk_setBlk]
  · simp only [stopDone, h, stopMove, hf]
    split
    · exact blk_setBlk _ _ _
    · exact blk_setBlk _ _ _

theorem stopDone_event (p : Page) (s : State) (hp : notMbx p = true) (h : blk p s = .stopping ∨ blk p s = .restartPending) :
    eventSet p 0 (stopDone p s) = true := by
  have he := setBlk_event p .off s hp (.inr rfl)
  rcases h with h | h
  · simpa only [stopDone, h] using he
  · simp only [stopDone, h]
    split
    · exact he
    · exact setBlk_event_of _ _ _ _ _ he

/-! ## A page's move with its unit's (R191, R280) -/

theorem followers_ne {p q : Page} (h : q ∈ followers p) : p ≠ q := by
  cases p with
  | wsc k =>
    obtain ⟨i, -, rfl⟩ := List.mem_map.mp h
    exact fun e => by cases e
  | cap | cc | mig | d2d | rf | hp | rg | eth | pmu | thm | sec | dbg | fus | aon | die | bm | mbx | chan | tile => cases h

/-- A common register of a page, besides its events. -/
def ctrlField (f : Field) : Bool := decide (f.off < 0x100 ∧ f.off ≠ 0x018)

theorem ctrlField_lt {f : Field} (h : ctrlField f = true) : Nat.blt f.off 0x1000 = true := by
  simp only [ctrlField, decide_eq_true_eq] at h
  simp only [Nat.blt_eq]
  omega

/-- Spans of events and of block-specific registers, of whatever page. -/
def quietSpans (r : List RegSpan) : Bool := r.all fun x => decide (0x100 ≤ x.2.1 ∨ (0x018 ≤ x.2.1 ∧ x.2.2 ≤ 0x018))

/-- What changes events and block-specific registers alone leaves the other common registers of every page. -/
theorem Only.ctrl {m : List Fld} {r : List RegSpan} {s t : State} (h : Only m r s t) (p : Page) {f : Field}
    (hf : ctrlField f = true) (hm : Fld.inside m .regs = false) (hr : quietSpans r = true) :
    Machine.fget p f t = Machine.fget p f s := by
  refine h.fget p f hm (ctrlField_lt hf) (List.all_eq_true.mpr fun x hx => ?_)
  have hx := List.all_eq_true.mp hr x hx
  simp only [ctrlField, decide_eq_true_eq] at hf hx
  rw [show decide (x.2.1 ≤ f.off ∧ f.off ≤ x.2.2) = false from decide_eq_false (by omega)]
  rfl

/-- A page's own move decides its common registers: its followers are other pages, and a stop that begins writes none. -/
theorem moved_ctrl (p : Page) (f : Page → State → State) (s : State) {g : Field} (hg : ctrlField g = true)
    (hf : ∀ q t, p ≠ q → fget p g (f q t) = fget p g t) : fget p g (moved p f s) = fget p g (f p s) := by
  have hfold : ∀ l : List Page, (∀ q ∈ l, p ≠ q) → ∀ t, fget p g (l.foldl (fun s q => if present s q then f q s else s) t) =
      fget p g t := by
    intro l
    induction l with
    | nil => exact fun _ _ => rfl
    | cons q l ih =>
      intro hl t
      obtain ⟨hq, hl⟩ := List.forall_mem_cons.mp hl
      rw [List.foldl_cons, ih hl]
      split
      · exact hf q t hq
      · rfl
  unfold moved
  extract_lets was t
  have ht : fget p g t = fget p g (f p s) := hfold _ (fun q hq => followers_ne hq) _
  split
  · exact ((stopBegins_any p t).ctrl p hg rfl rfl).trans ht
  · exact ht

/-- A page without work behind it moves alone. -/
theorem moved_plain {p : Page} (f : Page → State → State) (s : State) (hp : plainBlock p = true) :
    moved p f s = f p s := by
  cases p with
  | mig | wsc | mbx | cap | fus => cases hp
  | cc | d2d | rf | hp | rg | eth | pmu | thm | sec | dbg | aon | die | bm | chan | tile =>
    exact ite_self (f _ s)

/-- A move that writes registers of its own page alone leaves those of the others. -/
theorem Only.otherPage2 {m : List Fld} {p q : Page} {a b c d : Nat} {s t : State}
    (h : Only m [span q a b, span q c d] s t) (hpq : p ≠ q) (f : Field) (hf : Nat.blt f.off 0x1000 = true)
    (hm : Fld.inside m .regs = false) : Machine.fget p f t = Machine.fget p f s :=
  h.fget p f hm hf (by rw [clear_cons, clear_otherPage hpq, clear_otherPage hpq]; rfl)

/-! ## EN (R31) -/

theorem enWrite_admitted {w : Wr} {p : Page} {s : State} (en : Bool) (h : Admitted w p 0x010 s) :
    exec (.enWrite w p en) s = .next (withPeers (moved p fun q => writeEn q en) (opened w p s)) :=
  congrArg Host.Outcome.next (guarded_opened h)

theorem movedEn_ctrl (p : Page) (en : Bool) (s : State) {g : Field} (hg : ctrlField g = true) :
    fget p g (withPeers (moved p fun q => writeEn q en) s) = fget p g (writeEn p en s) := by
  rw [withPeers_fget]
  exact moved_ctrl p _ s hg fun q t h => (writeEn_page q en t).otherPage2 h g (ctrlField_lt hg) rfl

/-- An admitted write of EN. -/
theorem enWrite_effect (w : Wr) (p : Page) (en : Bool) (s : State) (hp : fixedPage p = false) (h : Admitted w p 0x010 s) :
    ∃ t, exec (.enWrite w p en) s = .next t ∧ fget p Reg.BLK_CTRL_EN t = (if en then 1 else 0) ∧
      blk p t = enMove (blk p s) (fenced p s) en ∧ fget p Reg.EPOCH_TOKEN t = tokenAfter w p s ∧
      (plainBlock p = true →
        Only [.mail] [span p 0x010 0x010, span p 0x014 0x014, span p 0x02C 0x02C] s t) := by
  have hop := opened_at w p s
  have hwr := writeEn_page p en (opened w p s)
  refine ⟨_, enWrite_admitted en h, ?_, ?_, ?_, fun hb => ?_⟩
  · rw [movedEn_ctrl p en _ rfl, writeEn_en p en _ hp]
  · rw [blk_congr (movedEn_ctrl p en _ rfl), writeEn_blk p en _ hp, blk_congr (opened_keeps w p p _ s rfl),
      fenced_congr (opened_keeps w p p _ s rfl)]
  · rw [movedEn_ctrl p en _ rfl, hwr.fget p Reg.EPOCH_TOKEN rfl rfl rfl, opened_token]
  · have hpe := withPeers_mail (moved p fun q => writeEn q en) (opened w p s)
    rw [moved_plain _ _ hb] at hpe
    exact ((hop.mono (by simp [within, RegSpan.inside, span])).trans
      (hwr.mono (by simp [within, RegSpan.inside, span]))).trans (hpe.mono rfl)

/-! ## The end of a start (R31, R74) -/

theorem startSequenceComplete_next {p : Page} {s : State} (hp : pageType p ≠ 0x48) (h : blk p s = .starting) :
    exec (.startSequenceComplete p) s = .next (withPeers (fun s => moved p startDone (startEnds p s)) s) := by
  show execStartSequenceComplete p s = _
  cases p with
  | bm n => exact absurd rfl hp
  | cap | cc | wsc | mig | d2d | rf | hp | rg | eth | pmu | thm | sec | dbg | fus | aon | die | mbx | chan | tile =>
    exact if_pos ⟨h, rfl⟩

theorem movedStart_ctrl (p : Page) (s : State) {g : Field} (hg : ctrlField g = true) :
    fget p g (moved p startDone (startEnds p s)) = fget p g (startDone p (startEnds p s)) :=
  moved_ctrl p startDone _ hg fun q t h => (startDone_page q t).otherPage2 h g (ctrlField_lt hg) rfl

/-- A start ends the calibration of a tile's subarrays, and nothing behind other pages without work. -/
theorem startEnds_plain {p : Page} (s : State) (hp : plainBlock p = true) : Only [.tiles] [] s (startEnds p s) := by
  cases p with
  | mig | wsc | mbx | cap | fus => cases hp
  | tile t => exact Only.foldl (fun s i => calibrated_only t.val i s) (Only.refl _ _ _)
  | cc | d2d | rf | hp | rg | eth | pmu | thm | sec | dbg | aon | die | bm | chan => exact Only.refl _ _ _

theorem startSequenceComplete_effect (p : Page) (s : State) (hm : notMbx p = true) (hp : pageType p ≠ 0x48)
    (h : blk p s = .starting) :
    ∃ t, exec (.startSequenceComplete p) s = .next t ∧
      blk p t = (if fget p Reg.BLK_CTRL_EN s = 0 ∨ fenced p s = true then .stopping else .on) ∧
      fget p Reg.BLK_CTRL_EN t = fget p Reg.BLK_CTRL_EN s ∧
      (plainBlock p = true → eventSet p 0 t = true ∧
        Only [.tiles, .mail, .heldOut, .out] [span p 0x014 0x014, span p 0x018 0x018] s t) := by
  have hst := startEnds_any p s
  have hb : blk p (startEnds p s) = .starting := (blk_congr (hst.ctrl p rfl rfl rfl)).trans h
  have hdn := startDone_page p (startEnds p s)
  have hpe := withPeers_mail (fun s => moved p startDone (startEnds p s)) s
  refine ⟨_, startSequenceComplete_next hp h, ?_, ?_, fun hpl => ?_⟩
  · rw [withPeers_blk, blk_congr (movedStart_ctrl p s rfl), startDone_blk p _ hb, hst.ctrl p rfl rfl rfl,
      fenced_congr (hst.ctrl p rfl rfl rfl)]
  · rw [withPeers_fget, movedStart_ctrl p s rfl, hdn.fget p Reg.BLK_CTRL_EN rfl rfl rfl, hst.ctrl p rfl rfl rfl]
  · simp only [moved_plain startDone _ hpl] at hpe ⊢
    refine ⟨?_, (((startEnds_plain s hpl).mono rfl).trans (hdn.mono ?_)).trans (hpe.mono rfl)⟩
    · rw [hpe.event p 0 rfl rfl]
      exact startDone_event p _ hm hb
    · simp [within, Fld.inside, RegSpan.inside, span]

/-! ## The end of a stop (R31) -/

theorem stopSequenceComplete_next {p : Page} {s : State} (h : blk p s = .stopping ∨ blk p s = .restartPending)
    (hh : stopHeld p s = false) :
    exec (.stopSequenceComplete p) s = .next (withPeers (fun s => stopEnds p (moved p stopDone s)) s) := by
  show execStopSequenceComplete p s = _
  rw [execStopSequenceComplete, if_pos ⟨h, hh⟩]

theorem movedStop_ctrl (p : Page) (s : State) {g : Field} (hg : ctrlField g = true) :
    fget p g (stopEnds p (moved p stopDone s)) = fget p g (stopDone p s) :=
  ((stopEnds_any p _).ctrl p hg rfl rfl).trans
    (moved_ctrl p stopDone _ hg fun q t h => (stopDone_page q t).otherPage2 h g (ctrlField_lt hg) rfl)

theorem stopEnds_quiet {p : Page} (s : State) (hp : quietStop p = true) : stopEnds p s = s := by
  cases p with
  | mig | hp | rg | eth | d2d | bm | mbx | cap | fus => cases hp
  | cc | wsc | rf | pmu | thm | sec | dbg | aon | die | chan | tile => rfl

theorem stopSequenceComplete_effect (p : Page) (s : State) (hm : notMbx p = true)
    (h : blk p s = .stopping ∨ blk p s = .restartPending) (hh : stopHeld p s = false) :
    ∃ t, exec (.stopSequenceComplete p) s = .next t ∧ blk p t = stopMove (blk p s) (fenced p s) ∧
      fget p Reg.BLK_CTRL_EN t = fget p Reg.BLK_CTRL_EN s ∧
      (quietStop p = true ∧ plainBlock p = true → eventSet p 0 t = true ∧
        Only [.mail, .heldOut, .out] [span p 0x014 0x014, span p 0x018 0x018] s t) := by
  have hdn := stopDone_page p s
  have hpe := withPeers_mail (fun s => stopEnds p (moved p stopDone s)) s
  refine ⟨_, stopSequenceComplete_next h hh, ?_, ?_, fun ⟨hq, hpl⟩ => ?_⟩
  · rw [withPeers_blk, blk_congr (movedStop_ctrl p s rfl), stopDone_blk p s h]
  · rw [withPeers_fget, movedStop_ctrl p s rfl, hdn.fget p Reg.BLK_CTRL_EN rfl rfl rfl]
  · simp only [moved_plain stopDone _ hpl, stopEnds_quiet _ hq] at hpe ⊢
    refine ⟨?_, hdn.trans (hpe.mono rfl)⟩
    rw [hpe.event p 0 rfl rfl]
    exact stopDone_event p s hm h

/-- Settles O7: the page's own move decides its block state; its followers and its unit write no common register of it but
events. -/
theorem blockStartStop : Obligations.BlockStartStop :=
  ⟨fun w p en s hp h => enWrite_effect w p en s hp h,
    fun p s _ hm ht h => startSequenceComplete_effect p s hm ht h,
    fun p s _ hm h hh => stopSequenceComplete_effect p s hm h hh⟩

/-- Moves that BlockStartStop speaks of, of HP0 from reset: EN is written, and the start completes. -/
theorem hp0_starts :
    (∃ t, exec (.enWrite ⟨0, 0⟩ (.hp 0) true) State.reset = .next t ∧ blk (.hp 0) t = .starting) ∧
      ∃ t, exec (.startSequenceComplete (.hp 0)) (writeEn (.hp 0) true State.reset) = .next t ∧ blk (.hp 0) t = .on := by
  obtain ⟨he, hs, -⟩ := blockStartStop
  obtain ⟨t, ht, -, hb, -⟩ := he ⟨0, 0⟩ (.hp 0) true State.reset rfl (admitted_hp0_at_reset rfl)
  obtain ⟨u, hu, hc, -⟩ := hs (.hp 0) (writeEn (.hp 0) true State.reset) rfl rfl (by decide) rfl
  exact ⟨⟨t, ht, hb.trans rfl⟩, u, hu, hc.trans rfl⟩

end Sys2Proof.Machine
end

section
/-! SUPPORT. Fences of a page and of the units behind it (O12, O13): what a fence and its end write, and which registers
the work of a unit leaves. -/

namespace Sys2Proof.Machine

/-! ## The fence of a page (R26, R31, R438) -/

theorem causesOf_setCauses (p : Page) (c : List (Nat × Bool)) (s : State) : causesOf p (setCauses p c s) = c :=
  sget_sset_same [] (pageNum p) c s.causes

theorem causesOf_congr (p : Page) {s t : State} (h : t.causes = s.causes) : causesOf p t = causesOf p s := by
  rw [causesOf, h, ← causesOf]

/-- A further fence only keeps its cause. -/
theorem fencePage_again {p : Page} {s : State} (cause : Nat) (hp : fixedPage p = false) (h : fenced p s = true) :
    fencePage p cause s = setCauses p (causesOf p s ++ [(cause, false)]) s := by
  rw [fencePage, hp, if_neg (by decide), if_pos h]

/-- The state in which the first fence of a page has set FENCED, CAUSE, COUNT and its event. -/
def fenceMarked (p : Page) (cause : Nat) (s : State) : State :=
  setCauses p [(cause, false)] s |> fset p Reg.FENCE_FENCED 1 |> fset p Reg.FENCE_CAUSE cause |> satInc p Reg.FENCE_COUNT 1
    |> raise p 1

/-- The first fence marks the page, and a unit at ON begins to stop. -/
theorem fencePage_first {p : Page} {s : State} (cause : Nat) (hp : fixedPage p = false) (h : fenced p s = false) :
    fencePage p cause s = if blk p (fenceMarked p cause s) = .on then setBlk p .stopping (fenceMarked p cause s)
      else fenceMarked p cause s := by
  rw [fencePage, hp, if_neg (by decide), if_neg (by rw [h]; decide)]
  rfl

theorem fenceMarked_page (p : Page) (cause : Nat) (s : State) :
    Only [.causes, .mail, .heldOut, .out] [span p 0x018 0x018, span p 0x028 0x028] s (fenceMarked p cause s) := by
  have hf : ∀ (f : Field) v t, f.off = 0x028 →
      Only [.causes, .mail, .heldOut, .out] [span p 0x018 0x018, span p 0x028 0x028] t (fset p f v t) := fun f v t h =>
    (fset_at p f v t (by rw [h]; rfl)).mono (by simp [within, RegSpan.inside, span, h])
  exact ((((setCauses_any p _ s).mono (by simp [within, Fld.inside])).trans (hf _ _ _ rfl)).trans (hf _ _ _ rfl)).trans
    ((hf _ _ _ rfl).trans ((raise_page p 1 _).mono (by simp [within, Fld.inside, RegSpan.inside, span])))

theorem fenceMarked_event (p : Page) (cause : Nat) (s : State) (hp : notMbx p = true) :
    eventSet p 1 (fenceMarked p cause s) = true := eventSet_raise p 1 _ hp (by decide)

/-- FENCED, CAUSE and COUNT of the first fence. -/
theorem fenceMarked_fields (p : Page) (cause : Nat) (s : State) (hc : cause < 16) :
    fget p Reg.FENCE_FENCED (fenceMarked p cause s) = 1 ∧ fget p Reg.FENCE_CAUSE (fenceMarked p cause s) = cause ∧
      fget p Reg.FENCE_COUNT (fenceMarked p cause s) = min (fget p Reg.FENCE_COUNT s + 1) 255 := by
  refine ⟨?_, ?_, ?_⟩
  · exact (raise_keeps _ _ _ _ _ rfl).trans ((fget_satInc_apart _ _ _ _ _ rfl).trans
      ((fset_keeps _ _ _ _ _ rfl).trans (fset_reads _ _ _ _ rfl)))
  · exact (raise_keeps _ _ _ _ _ rfl).trans ((fget_satInc_apart _ _ _ _ _ rfl).trans
      ((fset_reads _ _ _ _ rfl).trans (Nat.mod_eq_of_lt hc)))
  · refine (raise_keeps _ _ _ _ _ rfl).trans ((fget_satInc_same _ _ _ _ rfl).trans ?_)
    rw [fset_keeps _ _ _ _ _ rfl, fset_keeps _ _ _ _ _ rfl, fget_setCauses]
    rfl

theorem fencePage_page (p : Page) (cause : Nat) (s : State) :
    Only [.causes, .mail, .heldOut, .out] [span p 0x014 0x014, span p 0x018 0x018, span p 0x028 0x028] s
      (fencePage p cause s) := by
  have hm := (fenceMarked_page p cause s).mono (n := [.causes, .mail, .heldOut, .out])
    (q := [span p 0x014 0x014, span p 0x018 0x018, span p 0x028 0x028])
    (by simp [within, Fld.inside, RegSpan.inside, span])
  cases hp : fixedPage p with
  | true =>
    rw [fencePage, if_pos hp]
    exact Only.refl _ _ _
  | false =>
    cases hf : fenced p s with
    | true =>
      rw [fencePage_again cause hp hf]
      exact (setCauses_any p _ s).mono rfl
    | false =>
      rw [fencePage_first cause hp hf]
      split
      · exact hm.trans ((setBlk_page p .stopping _).mono (by simp [within, Fld.inside, RegSpan.inside, span]))
      · exact hm

/-- What the first fence of a page writes: FENCED, CAUSE, COUNT, the block's state, the event. -/
theorem fencePage_fields {p : Page} {s : State} (cause : Nat) (hp : fixedPage p = false) (hc : cause < 16)
    (h : fenced p s = false) :
    fenced p (fencePage p cause s) = true ∧ fget p Reg.FENCE_CAUSE (fencePage p cause s) = cause ∧
      fget p Reg.FENCE_COUNT (fencePage p cause s) = min (fget p Reg.FENCE_COUNT s + 1) 255 ∧
      blk p (fencePage p cause s) = (if blk p s = .on then .stopping else blk p s) ∧
      (notMbx p = true → eventSet p 1 (fencePage p cause s) = true) := by
  obtain ⟨h1, h2, h3⟩ := fenceMarked_fields p cause s hc
  have hb : blk p (fenceMarked p cause s) = blk p s :=
    blk_congr ((fenceMarked_page p cause s).fget p Reg.BLK_STATE_STATE rfl rfl rfl)
  have hk : ∀ f, fieldOk f = true → f.off = 0x028 →
      fget p f (fencePage p cause s) = fget p f (fenceMarked p cause s) := fun f hf ho => by
    rw [fencePage_first cause hp h]
    split
    · exact setBlk_fget p p .stopping f _ hf (by rw [ho]; rfl) (by rw [ho]; rfl)
    · rfl
  refine ⟨?_, ?_, ?_, ?_, fun hm => ?_⟩
  · rw [fenced, hk _ (by decide) rfl, h1]
    rfl
  · rw [hk _ (by decide) rfl, h2]
  · rw [hk _ (by decide) rfl, h3]
  · rw [fencePage_first cause hp h, hb]
    split
    · exact blk_setBlk _ _ _
    · exact hb
  · have he := fenceMarked_event p cause s hm
    rw [fencePage_first cause hp h]
    split
    · exact setBlk_event_of _ _ _ _ _ he
    · exact he

/-- The fence of one page leaves the registers of the others. -/
theorem fencePage_other {p q : Page} (h : p ≠ q) (cause : Nat) (f : Field) (s : State)
    (hf : Nat.blt f.off 0x1000 = true) : fget p f (fencePage q cause s) = fget p f s :=
  (fencePage_page q cause s).fget p f rfl hf (by
    rw [clear_cons, clear_otherPage h, clear_cons, clear_otherPage h, clear_otherPage h]; rfl)

/-! ## The half of a control complex (R366, R367) -/

/-- Registers of no page of type `n`. -/
def offType (n : Nat) (r : List RegSpan) : Bool :=
  r.all fun x => decide (x.1 ≠ 0 ∧ x.1 ≠ n ∧ x.1 < 0x20000)

theorem clear_offType {n : Nat} {r : List RegSpan} (p : Page) (o : Nat) (hp : pageType p = n) (hr : offType n r = true) :
    clear r p o = true := by
  refine List.all_eq_true.mpr fun x hx => ?_
  have hx := List.all_eq_true.mp hr x hx
  simp only [decide_eq_true_eq] at hx
  obtain ⟨h0, h1, h2⟩ := hx
  have h3 : x.1 ≠ pageType p := hp ▸ h1
  have h4 : x.1 ≠ 0x20000 + pageNum p := by omega
  simp only [h0, h3, h4, decide_false, Bool.or_self, Bool.and_false, Bool.not_false]

/-- What writes pages of other types leaves a control complex's page. -/
theorem Only.onCc {m : List Fld} {r : List RegSpan} {s t : State} (h : Only m r s t) (k : Half) (f : Field)
    (hf : Nat.blt f.off 0x1000 = true) (hm : Fld.inside m .regs = false) (hr : offType 0x10 r = true) :
    Machine.fget (.cc k) f t = Machine.fget (.cc k) f s :=
  h.fget (.cc k) f hm hf (clear_offType _ _ rfl hr)

theorem fget_setReqs (p : Page) (f : Field) (l : List Req) (s : State) : fget p f { s with reqs := l } = fget p f s := rfl

theorem foldl_fget {α : Type} {f : State → α → State} {p : Page} {g : Field} (l : List α) (s : State)
    (h : ∀ t, ∀ a ∈ l, fget p g (f t a) = fget p g t) : fget p g (l.foldl f s) = fget p g s := by
  induction l generalizing s with
  | nil => rfl
  | cons a l ih => exact (ih (f s a) fun t b hb => h t b (List.mem_cons_of_mem a hb)).trans (h s a List.mem_cons_self)

theorem halfUnits_ne_cc (h k : Half) : ∀ q ∈ halfUnits h, Page.cc k ≠ q := by
  intro q hq e
  subst e
  simp only [halfUnits, List.mem_append, List.mem_cons, List.mem_map, List.not_mem_nil, or_false, reduceCtorEq, and_false,
    exists_false] at hq

/-- The state in which a fenced half's units are fenced and its work has moved, before its complex gives up its role. -/
def halfUnitsDown (h : Half) (s : State) : State :=
  let s := (halfTiles h).foldl (fun s p => if present s (tilePage p) then fenceTile p 3 s else s) s
  let s := (halfUnits h).foldl (fun s p => if present s p then fencePage p 3 s else s) s
  let s := stopZip h (fenceRange h s)
  let s := wsKick (moveCredits h s)
  let s := { s with reqs := s.reqs.map fun r => if r.cch = h then { r with cch := Half.other h } else r }
  let s := giveLease h 2 s
  setComplex h { complex h s with closed := true, buffer := [] } s

theorem halfDown_eq (h : Half) (s : State) :
    halfDown h s = setRole h 3 (fset (.cc h) Reg.CC_CC_ROLE_SHADOW_OK 0 (halfUnitsDown h s)) := rfl

/-- Fencing the units of a half writes no control complex's page. -/
theorem halfUnitsDown_cc (h k : Half) (g : Field) (s : State) (hg : Nat.blt g.off 0x1000 = true) :
    fget (.cc k) g (halfUnitsDown h s) = fget (.cc k) g s := by
  unfold halfUnitsDown
  extract_lets s1 s2 s3 s4 s5 s6
  have h1 : fget (.cc k) g s1 = fget (.cc k) g s := foldl_fget _ _ fun t p _ => by
    split
    · exact (fenceTile_only p 3 t).onCc k g hg rfl rfl
    · rfl
  have h2 : fget (.cc k) g s2 = fget (.cc k) g s1 := foldl_fget _ _ fun t q hq => by
    split
    · exact fencePage_other (halfUnits_ne_cc h k q hq) 3 g t hg
    · rfl
  have h3 : fget (.cc k) g s3 = fget (.cc k) g s2 :=
    ((stopZip_only h _).onCc k g hg rfl rfl).trans ((fenceRange_only h s2).onCc k g hg rfl rfl)
  have h4 : fget (.cc k) g s4 = fget (.cc k) g s3 :=
    ((wsKick_only _).onCc k g hg rfl rfl).trans ((moveCredits_only h s3).onCc k g hg rfl rfl)
  have h5 : fget (.cc k) g s5 = fget (.cc k) g s4 := fget_setReqs _ _ _ s4
  have h6 : fget (.cc k) g s6 = fget (.cc k) g s5 := (giveLease_only h 2 s5).onCc k g hg rfl rfl
  rw [(setComplex_only h _ s6).onCc k g hg rfl rfl, h6, h5, h4, h3, h2, h1]

theorem setRole_event (h : Half) (r : Nat) (p : Page) (i : Nat) (s : State) (he : eventSet p i s = true) :
    eventSet p i (setRole h r s) = true := by
  have hf : eventSet p i (fset (.cc h) Reg.CC_CC_ROLE_ROLE r s) = true := by
    rw [(fset_any 0x880 (.cc h) Reg.CC_CC_ROLE_ROLE r s rfl rfl).event p i rfl rfl, he]
  unfold setRole
  extract_lets was t
  split
  · exact eventSet_raise_of _ _ _ _ _ hf
  · exact hf

/-- A half that goes down leaves the common registers of its complex's page, besides events that it adds. -/
theorem halfDown_ctrl (h k : Half) (s : State) {g : Field} (hg : ctrlField g = true) :
    fget (.cc k) g (halfDown h s) = fget (.cc k) g s := by
  rw [halfDown_eq, (setRole_only h 3 _).ctrl (.cc k) hg rfl rfl,
    (fset_any 0x880 (.cc h) Reg.CC_CC_ROLE_SHADOW_OK 0 _ rfl rfl).ctrl (.cc k) hg rfl rfl,
    halfUnitsDown_cc h k g s (ctrlField_lt hg)]

theorem halfDown_event (h k : Half) (i : Nat) (s : State) (he : eventSet (.cc k) i s = true) :
    eventSet (.cc k) i (halfDown h s) = true := by
  rw [halfDown_eq]
  refine setRole_event _ _ _ _ _ ?_
  rw [(fset_any 0x880 (.cc h) Reg.CC_CC_ROLE_SHADOW_OK 0 _ rfl rfl).event (.cc k) i rfl rfl]
  unfold eventSet at he ⊢
  rwa [halfUnitsDown_cc h k _ s rfl]

theorem raiseCcs_event (p : Page) (i j : Nat) (s : State) (he : eventSet p i s = true) :
    eventSet p i (raiseCcs j s) = true := by
  unfold raiseCcs
  extract_lets one
  have h1 : ∀ h t, eventSet p i t = true → eventSet p i (one h t) = true := by
    intro h t ht
    simp only [one]
    split
    · exact eventSet_raise_of _ _ _ _ _ ht
    · exact ht
  exact h1 _ _ (h1 _ _ he)

/-- A half's first fence, as its complex's page shows it. -/
theorem fenceHalf_first {h : Half} {s : State} (cause : Nat) (hp : present s (.cc h) = true)
    (hf : fenced (.cc h) s = false) :
    fenceHalf h cause s = withPeers (fun s => raiseCcs 22 (halfDown h (fencePage (.cc h) cause s))) s := by
  rw [fenceHalf, hp, if_neg (by decide), hf, if_neg (by decide)]

theorem fenceHalf_again {h : Half} {s : State} (cause : Nat) (hp : present s (.cc h) = true)
    (hf : fenced (.cc h) s = true) : fenceHalf h cause s = fencePage (.cc h) cause s := by
  rw [fenceHalf, hp, if_neg (by decide), hf, if_pos rfl]

/-! ## The fence of a unit (R129, R313, R366 to R370) -/

/-- A further fence of a unit does no more than its page's. -/
theorem fenceUnit_again {p : Page} {s : State} (hb : isBridge p = false) (hs : storePage p = false)
    (hp : present s p = true) (h : fenced p s = true) : fenceUnit p s = fencePage p 2 s := by
  cases p with
  | d2d k => cases hb
  | wsc k => cases hs
  | die n => cases hs
  | cc k => exact fenceHalf_again 2 hp h
  | tile t =>
    have ht : tilePage t.val = .tile t := congrArg Page.tile (Fin.ext (Nat.mod_eq_of_lt t.isLt))
    simp only [fenceUnit, fenceTile, ht, h, if_true]
  | mig k => exact if_pos h
  | chan c => exact if_pos h
  | cap | rf | hp | rg | eth | pmu | thm | sec | dbg | fus | aon | bm | mbx => rfl

theorem fenceUnit_store {p : Page} (s : State) (hs : storePage p = true) : fenceUnit p s = wsKick (fencePage p 2 s) := by
  cases p with
  | wsc | die => rfl
  | cap | cc | mig | d2d | rf | hp | rg | eth | pmu | thm | sec | dbg | fus | aon | bm | mbx | chan | tile => cases hs

theorem fenceUnit_plain {p : Page} (s : State) (hp : plainFence p = true) : fenceUnit p s = fencePage p 2 s := by
  cases p with
  | rf | hp | rg | eth | pmu | thm | sec | dbg | aon | bm | mbx => rfl
  | cap | cc | wsc | mig | d2d | fus | die | chan | tile => cases hp

/-- The tile behind a fenced page: past the fence only its work and block-specific registers change. -/
theorem fenceTile_page (t : Fin 1056) (cause : Nat) (s : State) :
    ∃ u, Only [.tiles] [] (fencePage (.tile t) cause s) u ∧
      Only [.mesh] [(0x20, 0x104, 0x104), (0x20, 0x204, 0x204)] u (fenceTile t.val cause s) := by
  have ht : tilePage t.val = .tile t := congrArg Page.tile (Fin.ext (Nat.mod_eq_of_lt t.isLt))
  unfold fenceTile
  rw [ht]
  extract_lets was s1 paired bank s2 s3
  split
  · exact ⟨_, Only.refl _ _ _, Only.refl _ _ _⟩
  · refine ⟨s2, modTile_only _ _ _, ?_⟩
    have h3 := (noteRunning_only t.val s2).mono (n := [.mesh]) (q := [(0x20, 0x104, 0x104), (0x20, 0x204, 0x204)]) rfl
    split
    · exact h3.trans ((send_only _ _).mono rfl)
    · exact h3

/-- A unit's fence shows on its page as the fence of the page alone, and its event stays latched. -/
theorem fenceUnit_ctrl {p : Page} {s : State} (hb : isBridge p = false) (hp : present s p = true) {g : Field}
    (hg : ctrlField g = true) : fget p g (fenceUnit p s) = fget p g (fencePage p 2 s) := by
  cases p with
  | d2d k => cases hb
  | wsc | die => exact (wsKick_only _).ctrl _ hg rfl rfl
  | cc k =>
    cases hf : fenced (.cc k) s with
    | true => exact congrArg (fget (.cc k) g) (fenceHalf_again 2 hp hf)
    | false =>
      simp only [fenceUnit, fenceHalf_first 2 hp hf, withPeers_fget]
      rw [(raiseCcs_only 22 _).ctrl _ hg rfl rfl, halfDown_ctrl k k _ hg]
  | tile t =>
    obtain ⟨u, h1, h2⟩ := fenceTile_page t 2 s
    exact (h2.ctrl _ hg rfl rfl).trans (h1.ctrl _ hg rfl rfl)
  | mig k =>
    simp only [fenceUnit]
    split
    · rfl
    · rw [(stopZip_only k _).ctrl _ hg rfl rfl, (fenceRange_only k _).ctrl _ hg rfl rfl]
  | chan c =>
    simp only [fenceUnit]
    split
    · rfl
    · exact (cancelAll_only c.val _).ctrl _ hg rfl rfl
  | cap | rf | hp | rg | eth | pmu | thm | sec | dbg | fus | aon | bm | mbx => rfl

/-- FENCED stays raised on the page of a unit behind which no work ends. -/
theorem fenceUnit_event {p : Page} {s : State} (hb : isBridge p = false) (hw : workPage p = false)
    (hp : present s p = true) (he : eventSet p 1 (fencePage p 2 s) = true) : eventSet p 1 (fenceUnit p s) = true := by
  cases p with
  | d2d k => cases hb
  | wsc | mig | chan => cases hw
  | die n =>
    have hk := (wsKick_only (fencePage (.die n) 2 s)).event (.die n) 1 rfl (clear_offType (n := 0x31) _ _ rfl rfl)
    exact hk.trans he
  | cc k =>
    cases hf : fenced (.cc k) s with
    | true => rwa [fenceUnit, fenceHalf_again 2 hp hf]
    | false =>
      simp only [fenceUnit, fenceHalf_first 2 hp hf]
      rw [(withPeers_mail _ s).event (.cc k) 1 rfl rfl]
      exact raiseCcs_event _ _ _ _ (halfDown_event k k 1 _ he)
  | tile t =>
    obtain ⟨u, h1, h2⟩ := fenceTile_page t 2 s
    exact (h2.event (.tile t) 1 rfl rfl).trans ((h1.event (.tile t) 1 rfl rfl).trans he)
  | cap | rf | hp | rg | eth | pmu | thm | sec | dbg | fus | aon | bm | mbx => exact he

/-! ## FENCE.REQ (R26, R31, R438) -/

theorem present_congr {s t : State} (p : Page) (h : t.fuses = s.fuses) : present t p = present s p := by
  unfold present
  rw [h]

theorem present_opened (w : Wr) (p q : Page) (s : State) : present (opened w p s) q = present s q :=
  present_congr q ((opened_at w p s).parts .fuses (by decide) (by decide))

theorem admitted_present {w : Wr} {p : Page} {off : Nat} {s : State} (h : Admitted w p off s) : present s p = true := by
  obtain ⟨-, -, hpr, -, -⟩ := h
  exact hpr

theorem causesOf_opened (w : Wr) (p q : Page) (s : State) : causesOf q (opened w p s) = causesOf q s :=
  causesOf_congr q ((opened_at w p s).parts .causes (by decide) (by decide))

theorem blk_opened (w : Wr) (p q : Page) (s : State) : blk q (opened w p s) = blk q s :=
  blk_congr (opened_keeps w p q _ s rfl)

theorem fenced_opened (w : Wr) (p q : Page) (s : State) : fenced q (opened w p s) = fenced q s :=
  fenced_congr (opened_keeps w p q _ s rfl)

theorem reqAdmitted_opened (mid : W16) (w : Wr) (p q : Page) (s : State) :
    reqAdmitted mid q (opened w p s) = reqAdmitted mid q s := by
  cases q with
  | chan c =>
    unfold reqAdmitted
    simp only [opened_keeps w p (.chan c) Reg.CHAN_CHAN_ASSIGN_VALID s rfl,
      opened_keeps w p (.chan c) Reg.CHAN_CHAN_ASSIGN_MID s rfl]
  | cap | cc | wsc | mig | d2d | rf | hp | rg | eth | pmu | thm | sec | dbg | fus | aon | die | bm | mbx | tile => rfl

theorem fenceReq_admitted {w : Wr} {p : Page} {s : State} (hp : fixedPage p = false) (ha : Admitted w p 0x028 s)
    (hr : reqAdmitted w.mid p s = true) :
    exec (.fenceReq w p) s = .next (withPeers (fenceUnit p) (opened w p s)) := by
  refine congrArg Host.Outcome.next ((guarded_opened ha).trans ?_)
  rw [hp, if_neg (by decide), reqAdmitted_opened, if_pos hr]

/-- A further FENCE.REQ keeps its cause and leaves the page. -/
theorem fenceReq_again {w : Wr} {p : Page} {s : State} (hp : fixedPage p = false) (hb : isBridge p = false)
    (hs : storePage p = false) (ha : present s p = true) (h : fenced p s = true) :
    fenceUnit p (opened w p s) = setCauses p (causesOf p s ++ [(2, false)]) (opened w p s) := by
  have hf : fenced p (opened w p s) = true := (fenced_opened w p p s).trans h
  rw [fenceUnit_again hb hs ((present_opened w p p s).trans ha) hf, fencePage_again 2 hp hf, causesOf_opened]

/-- A unit already fenced keeps one more cause. -/
theorem fenceUnit_causes {p : Page} {s : State} (hp : fixedPage p = false) (hb : isBridge p = false)
    (ha : present s p = true) (h : fenced p s = true) :
    causesOf p (fenceUnit p s) = causesOf p s ++ [(2, false)] := by
  have hc : causesOf p (fencePage p 2 s) = causesOf p s ++ [(2, false)] := by
    rw [fencePage_again 2 hp h, causesOf_setCauses]
  cases hs : storePage p with
  | true =>
    rw [fenceUnit_store s hs, causesOf_congr p ((wsKick_only _).parts .causes (by decide) (by decide)), hc]
  | false => rw [fenceUnit_again hb hs ha h, hc]

/-- An admitted FENCE.REQ. -/
theorem fenceReq_effect (w : Wr) (p : Page) (s : State) (hp : fixedPage p = false) (hb : isBridge p = false)
    (ha : Admitted w p 0x028 s) (hr : reqAdmitted w.mid p s = true) :
    ∃ t, exec (.fenceReq w p) s = .next t ∧ fenced p t = true ∧ fget p Reg.BLK_CTRL_EN t = fget p Reg.BLK_CTRL_EN s ∧
      fget p Reg.EPOCH_TOKEN t = tokenAfter w p s ∧
      (fenced p s = true → fget p Reg.FENCE_CAUSE t = fget p Reg.FENCE_CAUSE s ∧
        fget p Reg.FENCE_COUNT t = fget p Reg.FENCE_COUNT s ∧ blk p t = blk p s ∧
        causesOf p t = causesOf p s ++ [(2, false)] ∧
        (storePage p = false → Only [.causes, .mail] [span p 0x02C 0x02C] s t)) ∧
      (fenced p s = false → fget p Reg.FENCE_CAUSE t = 2 ∧ fget p Reg.FENCE_COUNT t = min (fget p Reg.FENCE_COUNT s + 1) 255 ∧
        blk p t = (if blk p s = .on then .stopping else blk p s) ∧
        (notMbx p = true → workPage p = false → eventSet p 1 t = true)) ∧
      (plainFence p = true → Only [.causes, .mail, .heldOut, .out]
        [span p 0x014 0x014, span p 0x018 0x018, span p 0x028 0x028, span p 0x02C 0x02C] s t) := by
  have hpr := admitted_present ha
  have hop := opened_at w p s
  have hpo : present (opened w p s) p = true := (present_opened w p p s).trans hpr
  have hpg := fencePage_page p 2 (opened w p s)
  have hpe := withPeers_mail (fenceUnit p) (opened w p s)
  have hk : ∀ g, ctrlField g = true →
      fget p g (withPeers (fenceUnit p) (opened w p s)) = fget p g (fencePage p 2 (opened w p s)) := fun g hg => by
    rw [withPeers_fget, fenceUnit_ctrl hb hpo hg]
  have hrest : ∀ g, ctrlField g = true → clear [span p 0x014 0x014, span p 0x018 0x018, span p 0x028 0x028] p g.off = true →
      fget p g (withPeers (fenceUnit p) (opened w p s)) = fget p g (opened w p s) := fun g hg hr => by
    rw [hk g hg, hpg.fget p g rfl (ctrlField_lt hg) hr]
  have hsame : fenced p s = true → ∀ g, ctrlField g = true → Nat.beq g.off 0x02C = false →
      fget p g (withPeers (fenceUnit p) (opened w p s)) = fget p g s := fun h g hg hn => by
    rw [hk g hg, fencePage_again 2 hp ((fenced_opened w p p s).trans h), fget_setCauses,
      opened_fget w p p g s (ctrlField_lt hg) hn]
  have hnew := fun h => fencePage_fields 2 hp (by decide) ((fenced_opened w p p s).trans h)
  refine ⟨_, fenceReq_admitted hp ha hr, ?_, ?_, ?_, fun h => ⟨?_, ?_, ?_, ?_, fun hs => ?_⟩, fun h => ?_, fun hpl => ?_⟩
  · cases h : fenced p s with
    | true => exact (fenced_congr (hsame h _ rfl rfl)).trans h
    | false => exact (fenced_congr (hk _ rfl)).trans (hnew h).1
  · rw [hrest _ rfl rfl, opened_keeps w p p _ s rfl]
  · rw [hrest _ rfl rfl, opened_token]
  · exact hsame h _ rfl rfl
  · exact hsame h _ rfl rfl
  · exact blk_congr (hsame h _ rfl rfl)
  · rw [causesOf_congr p (hpe.parts .causes (by decide) (by decide)),
      fenceUnit_causes hp hb hpo ((fenced_opened w p p s).trans h), causesOf_opened]
  · rw [fenceReq_again hp hb hs hpr h] at hpe
    exact (hop.mono (by simp [within, RegSpan.inside, span])).trans
      (((setCauses_any p _ _).mono rfl).trans (hpe.mono rfl))
  · obtain ⟨-, hcause, hcount, hblk, hev⟩ := hnew h
    refine ⟨?_, ?_, ?_, fun hm hw => ?_⟩
    · rw [hk _ rfl, hcause]
    · rw [hk _ rfl, hcount, opened_keeps w p p _ s rfl]
    · rw [blk_congr (hk _ rfl), hblk, blk_opened]
    · rw [hpe.event p 1 rfl rfl]
      exact fenceUnit_event hb hw hpo (hev hm)
  · rw [fenceUnit_plain _ hpl] at hpe
    exact ((hop.mono (by simp [within, RegSpan.inside, span])).trans
      (hpg.mono (by simp [within, Fld.inside, RegSpan.inside, span]))).trans (hpe.mono rfl)

/-! ## The end of a page's fence (R26, R31) -/

/-- The state in which a page's FENCED and CAUSE, and the causes kept, are clear. -/
def fenceCleared (p : Page) (s : State) : State :=
  setCauses p [] s |> fset p Reg.FENCE_FENCED 0 |> fset p Reg.FENCE_CAUSE 0

theorem fset_span (p : Page) (f : Field) (v : Nat) (s : State) (o : Nat) (hf : f.off = o)
    (ho : Nat.blt f.off 0x1000 = true) : Only [] [span p o o] s (fset p f v s) :=
  hf ▸ fset_at p f v s ho

theorem fenceCleared_page (p : Page) (s : State) : Only [.causes] [span p 0x028 0x028] s (fenceCleared p s) :=
  (((setCauses_any p [] s).mono rfl).trans ((fset_span p Reg.FENCE_FENCED 0 _ 0x028 rfl rfl).mono
    (by simp [within, RegSpan.inside, span]))).trans ((fset_span p Reg.FENCE_CAUSE 0 _ 0x028 rfl rfl).mono
    (by simp [within, RegSpan.inside, span]))

theorem unfence_eq (p : Page) (s : State) :
    unfence p s = if blk p s = .off ∧ fget p Reg.BLK_CTRL_EN s = 1 then setBlk p .starting (fenceCleared p s)
      else fenceCleared p s := by
  have h := fenceCleared_page p s
  have hb : blk p (fenceCleared p s) = blk p s := blk_congr (h.fget p _ rfl rfl rfl)
  have he : fget p Reg.BLK_CTRL_EN (fenceCleared p s) = fget p Reg.BLK_CTRL_EN s := h.fget p _ rfl rfl rfl
  rw [← hb, ← he]
  rfl

theorem unfence_page (p : Page) (s : State) :
    Only [.causes] [span p 0x014 0x014, span p 0x028 0x028] s (unfence p s) := by
  have h := (fenceCleared_page p s).mono (n := [.causes]) (q := [span p 0x014 0x014, span p 0x028 0x028])
    (by simp [within, Fld.inside, RegSpan.inside, span])
  rw [unfence_eq]
  split
  · exact h.trans ((setBlk_quiet p .starting _ (by decide) (by decide)).mono (by simp [within, RegSpan.inside, span]))
  · exact h

theorem unfence_fields (p : Page) (s : State) :
    fenced p (unfence p s) = false ∧ fget p Reg.FENCE_CAUSE (unfence p s) = 0 ∧ causesOf p (unfence p s) = [] ∧
      fget p Reg.FENCE_COUNT (unfence p s) = fget p Reg.FENCE_COUNT s ∧
      blk p (unfence p s) = (if blk p s = .off ∧ fget p Reg.BLK_CTRL_EN s = 1 then .starting else blk p s) := by
  have hq := fun t => setBlk_quiet p .starting t (by decide) (by decide)
  have hk : ∀ f, fieldOk f = true → f.off = 0x028 → fget p f (unfence p s) = fget p f (fenceCleared p s) :=
    fun f hf ho => by
      rw [unfence_eq]
      split
      · exact setBlk_fget p p .starting f _ hf (by rw [ho]; rfl) (by rw [ho]; rfl)
      · rfl
  refine ⟨?_, ?_, ?_, ?_, ?_⟩
  · rw [fenced, hk _ (by decide) rfl]
    exact decide_eq_false (by
      rw [show fget p Reg.FENCE_FENCED (fenceCleared p s) = 0 from
        (fset_keeps _ _ _ _ _ rfl).trans (fset_reads _ _ _ _ rfl)]
      decide)
  · exact (hk _ (by decide) rfl).trans (fset_reads _ _ _ _ rfl)
  · have hc : causesOf p (fenceCleared p s) = [] := causesOf_setCauses p [] s
    rw [unfence_eq]
    split
    · rw [causesOf_congr p ((hq _).parts .causes (by decide) (by decide)), hc]
    · exact hc
  · exact (hk _ (by decide) rfl).trans ((fset_keeps _ _ _ _ _ rfl).trans (fset_keeps _ _ _ _ _ rfl))
  · rw [unfence_eq]
    split
    · exact blk_setBlk _ _ _
    · exact blk_congr ((fenceCleared_page p s).fget p _ rfl rfl rfl)

/-! ## The bridge's groups (R17, R371) -/

/-- One end of the bridge with both its groups fenced. -/
def GroupsFenced (k : Half) (t : State) : Prop :=
  fenced (.d2d k) t = true ∧ fget (.d2d k) Reg.FENCE_CAUSE t = 7 ∧
    fget (.d2d k) Reg.D2D_D2D_STAT_GROUP_FENCED t = 3 ∧ fget (.d2d k) Reg.D2D_D2D_STAT_GROUP_UP t = 0

/-- One end of the bridge with both its groups up. -/
def GroupsUp (k : Half) (t : State) : Prop :=
  fenced (.d2d k) t = false ∧ fget (.d2d k) Reg.D2D_D2D_STAT_GROUP_FENCED t = 0 ∧
    fget (.d2d k) Reg.D2D_D2D_STAT_GROUP_UP t = 3

/-- The registers of an end but its events. -/
def sameEnd (k : Half) (s t : State) : Prop :=
  ∀ g : Field, Nat.blt g.off 0x1000 = true → g.off ≠ 0x018 → fget (.d2d k) g t = fget (.d2d k) g s

theorem GroupsFenced.congr {k : Half} {s t : State} (h : GroupsFenced k s) (e : sameEnd k s t) : GroupsFenced k t := by
  obtain ⟨h1, h2, h3, h4⟩ := h
  exact ⟨(fenced_congr (e _ rfl (by decide))).trans h1, (e _ rfl (by decide)).trans h2, (e _ rfl (by decide)).trans h3,
    (e _ rfl (by decide)).trans h4⟩

theorem GroupsUp.congr {k : Half} {s t : State} (h : GroupsUp k s) (e : sameEnd k s t) : GroupsUp k t := by
  obtain ⟨h1, h2, h3⟩ := h
  exact ⟨(fenced_congr (e _ rfl (by decide))).trans h1, (e _ rfl (by decide)).trans h2, (e _ rfl (by decide)).trans h3⟩

/-- D2D_STAT as the fenced groups say. -/
def groupsShown (n : Nat) (h : Half) (s : State) : State :=
  fset (.d2d h) Reg.D2D_D2D_STAT_GROUP_FENCED n s |> fset (.d2d h) Reg.D2D_D2D_STAT_GROUP_UP (3 - n)
    |> fset (.d2d h) Reg.D2D_D2D_STAT_HALF_RATE (if decide (n = 1 ∨ n = 2) then 1 else 0)

theorem groupsShown_page (n : Nat) (h : Half) (s : State) : Only [] [span (.d2d h) 0x100 0x100] s (groupsShown n h s) :=
  ((fset_span _ Reg.D2D_D2D_STAT_GROUP_FENCED _ _ 0x100 rfl rfl).trans
    (fset_span _ Reg.D2D_D2D_STAT_GROUP_UP _ _ 0x100 rfl rfl)).trans (fset_span _ Reg.D2D_D2D_STAT_HALF_RATE _ _ 0x100 rfl rfl)

theorem groupsShown_fields (n : Nat) (h : Half) (s : State) (hn : n ≤ 3) :
    fget (.d2d h) Reg.D2D_D2D_STAT_GROUP_FENCED (groupsShown n h s) = n ∧
      fget (.d2d h) Reg.D2D_D2D_STAT_GROUP_UP (groupsShown n h s) = 3 - n :=
  ⟨(fset_keeps _ _ _ _ _ rfl).trans ((fset_keeps _ _ _ _ _ rfl).trans
      ((fset_reads _ _ _ _ rfl).trans (Nat.mod_eq_of_lt (by decide +revert)))),
    (fset_keeps _ _ _ _ _ rfl).trans ((fset_reads _ _ _ _ rfl).trans (Nat.mod_eq_of_lt (by decide +revert)))⟩

theorem setGroups_zero (h : Half) (s : State) :
    setGroups 0 h s = if fenced (.d2d h) (groupsShown 0 h s) then unfence (.d2d h) (groupsShown 0 h s)
      else groupsShown 0 h s := rfl

/-- An end's page once it shows a fence of both its groups. -/
def groupsPage (h : Half) (s : State) : State :=
  if fenced (.d2d h) (groupsShown 3 h s) then groupsShown 3 h s else fencePage (.d2d h) 6 (groupsShown 3 h s)

theorem setGroups_three (h : Half) (s : State) :
    setGroups 3 h s = setCauses (.d2d h) [(7, false)] (fset (.d2d h) Reg.FENCE_CAUSE 7 (groupsPage h s)) := rfl

/-- The groups of one end show on its page alone. -/
theorem setGroups_page (n : Nat) (h : Half) (s : State) : Only [.causes, .mail, .heldOut, .out]
    [span (.d2d h) 0x014 0x014, span (.d2d h) 0x018 0x018, span (.d2d h) 0x028 0x028, span (.d2d h) 0x100 0x100] s
    (setGroups n h s) := by
  have h0 := (groupsShown_page n h s).mono (n := [.causes, .mail, .heldOut, .out])
    (q := [span (.d2d h) 0x014 0x014, span (.d2d h) 0x018 0x018, span (.d2d h) 0x028 0x028, span (.d2d h) 0x100 0x100])
    (by simp [within, RegSpan.inside, span])
  show Only _ _ s (if n = 0 then (if fenced (.d2d h) (groupsShown n h s) then unfence (.d2d h) (groupsShown n h s)
    else groupsShown n h s) else setCauses (.d2d h) _ (fset (.d2d h) Reg.FENCE_CAUSE _
      (if fenced (.d2d h) (groupsShown n h s) then groupsShown n h s else fencePage (.d2d h) 6 (groupsShown n h s))))
  split
  · split
    · exact h0.trans ((unfence_page _ _).mono (by simp [within, Fld.inside, RegSpan.inside, span]))
    · exact h0
  · refine (Only.trans ?_ ((fset_span _ Reg.FENCE_CAUSE _ _ 0x028 rfl rfl).mono (by simp [within, RegSpan.inside, span]))).trans
      ((setCauses_any _ _ _).mono (by simp [within, Fld.inside]))
    split
    · exact h0
    · exact h0.trans ((fencePage_page _ _ _).mono (by simp [within, Fld.inside, RegSpan.inside, span]))

theorem setGroups_other {h k : Half} (hk : k ≠ h) (n : Nat) (s : State) : sameEnd k s (setGroups n h s) := by
  have hp : Page.d2d k ≠ .d2d h := fun e => hk (Page.d2d.inj e)
  intro g hg _
  refine (setGroups_page n h s).fget _ g rfl hg ?_
  rw [clear_cons, clear_otherPage hp, clear_cons, clear_otherPage hp, clear_cons, clear_otherPage hp, clear_otherPage hp]
  rfl

theorem setGroups_up (h : Half) (s : State) : GroupsUp h (setGroups 0 h s) := by
  obtain ⟨hf, hu⟩ := groupsShown_fields 0 h s (by decide)
  rw [setGroups_zero]
  split
  · have hk := unfence_page (.d2d h) (groupsShown 0 h s)
    exact ⟨(unfence_fields _ _).1, (hk.fget _ _ rfl rfl rfl).trans hf, (hk.fget _ _ rfl rfl rfl).trans hu⟩
  · exact ⟨Bool.eq_false_iff.mpr ‹_›, hf, hu⟩

theorem setGroups_fenced (h : Half) (s : State) : GroupsFenced h (setGroups 3 h s) := by
  obtain ⟨hf, hu⟩ := groupsShown_fields 3 h s (by decide)
  have hg : fenced (.d2d h) (groupsPage h s) = true ∧
      fget (.d2d h) Reg.D2D_D2D_STAT_GROUP_FENCED (groupsPage h s) = 3 ∧
      fget (.d2d h) Reg.D2D_D2D_STAT_GROUP_UP (groupsPage h s) = 0 := by
    unfold groupsPage
    split
    · exact ⟨‹_›, hf, hu⟩
    · have hk := fencePage_page (.d2d h) 6 (groupsShown 3 h s)
      exact ⟨(fencePage_fields 6 rfl (by decide) (Bool.eq_false_iff.mpr ‹_›)).1, (hk.fget _ _ rfl rfl rfl).trans hf,
        (hk.fget _ _ rfl rfl rfl).trans hu⟩
  obtain ⟨h1, h2, h3⟩ := hg
  have hc : GroupsFenced h (fset (.d2d h) Reg.FENCE_CAUSE 7 (groupsPage h s)) :=
    ⟨(fenced_congr (fset_keeps _ _ _ _ _ rfl)).trans h1, fset_reads _ _ _ _ rfl, (fset_keeps _ _ _ _ _ rfl).trans h2,
      (fset_keeps _ _ _ _ _ rfl).trans h3⟩
  rw [setGroups_three]
  exact hc.congr fun g _ _ => fget_setCauses _ _ _ _ _

theorem onBridge_ends {P : Half → State → Prop} {f : Half → State → State} (hown : ∀ k t, P k (f k t))
    (hother : ∀ t, P .north t → P .north (f .south t)) (s : State) : ∀ k, P k (onBridge f s)
  | .north => hother _ (hown _ _)
  | .south => hown _ _

theorem bridge_fenced (s : State) : ∀ k, GroupsFenced k (onBridge (setGroups 3) s) :=
  onBridge_ends setGroups_fenced (fun _ h => h.congr (setGroups_other (by decide) 3 _)) s

theorem bridge_up (s : State) : ∀ k, GroupsUp k (onBridge (setGroups 0) s) :=
  onBridge_ends setGroups_up (fun _ h => h.congr (setGroups_other (by decide) 0 _)) s

theorem bridgeDown_sameEnd (k : Half) (s : State) : sameEnd k s (bridgeDown s) := fun g hg h18 => by
  refine (bridgeDown_only s).fget _ g rfl hg ?_
  simp only [clear, List.all_cons, List.all_nil, Bool.and_true]
  rw [decide_eq_false (by omega)]
  rfl

theorem oneHalf_of_d2d {h : Half} {s : State} (hp : present s (.d2d h) = true) : oneHalf s = false := by
  simp only [present, decide_eq_true_eq] at hp
  exact decide_eq_false (by omega)

theorem fenceBridge_fenced {h : Half} {s : State} (hp : present s (.d2d h) = true) : ∀ k, GroupsFenced k (fenceBridge s) := by
  intro k
  rw [fenceBridge, oneHalf_of_d2d hp, if_neg (by decide)]
  extract_lets was u
  split
  · exact bridge_fenced s k
  · exact (bridge_fenced s k).congr (bridgeDown_sameEnd k _)

/-- An admitted FENCE.REQ of either end fences the bridge. -/
theorem fenceReq_bridge (w : Wr) (h : Half) (s : State) (ha : Admitted w (.d2d h) 0x028 s) :
    ∃ t, exec (.fenceReq w (.d2d h)) s = .next t ∧ ∀ k : Half, GroupsFenced k t := by
  refine ⟨_, fenceReq_admitted rfl ha rfl, fun k => ?_⟩
  have hf := fenceBridge_fenced ((present_opened w (.d2d h) (.d2d h) s).trans (admitted_present ha)) k
  exact hf.congr fun g _ _ => withPeers_fget _ _ _ _

/-- Settles O12: the fence of the page, which no work of the unit behind it writes again. -/
theorem fenceRequest : Obligations.FenceRequest :=
  ⟨fun w p s hp hb ha hr => fenceReq_effect w p s hp hb ha hr, fenceReq_bridge⟩

/-- A request that FenceRequest speaks of, of HP0 at reset. -/
theorem hp0_fenced : ∃ t, exec (.fenceReq ⟨0, 0⟩ (.hp 0)) State.reset = .next t ∧ fenced (.hp 0) t = true ∧
    fget (.hp 0) Reg.FENCE_CAUSE t = 2 ∧ blk (.hp 0) t = .off := by
  obtain ⟨hr, -⟩ := fenceRequest
  obtain ⟨t, ht, hf, -, -, -, hn, -⟩ := hr ⟨0, 0⟩ (.hp 0) State.reset rfl rfl (admitted_hp0_at_reset rfl) rfl
  obtain ⟨hc, -, hb, -⟩ := hn (by decide)
  exact ⟨t, ht, hf, hc, hb.trans (by decide)⟩

end Sys2Proof.Machine
end

section
/-! SUPPORT. The release of a fence (O13). -/

namespace Sys2Proof.Machine

/-- The repair path of a unit, and of every cause kept, has completed. -/
def Repaired (failed : List Page) (p : Page) (s : State) : Prop :=
  repairClean failed p s = true ∧ ∀ c ∈ causesOf p s, c.1 = 3 → c.2 = true

theorem not_repaired {failed : List Page} {p : Page} {s : State} :
    ¬ Repaired failed p s ↔ repairClean failed p s = false ∨ ∃ c ∈ causesOf p s, c.1 = 3 ∧ c.2 = false := by
  simp only [Repaired, not_and_or, not_forall, Bool.not_eq_true, exists_prop]

theorem repairClean_opened (failed : List Page) (w : Wr) (p q : Page) (s : State) :
    repairClean failed q (opened w p s) = repairClean failed q s := by
  have ht : (opened w p s).tiles = s.tiles := (opened_at w p s).parts .tiles (by decide) (by decide)
  have hr : (opened w p s).reqs = s.reqs := (opened_at w p s).parts .reqs (by decide) (by decide)
  unfold repairClean tileOf
  rw [ht, hr]

theorem repaired_opened (failed : List Page) (w : Wr) (p q : Page) (s : State) :
    Repaired failed q (opened w p s) ↔ Repaired failed q s := by
  rw [Repaired, Repaired, repairClean_opened, causesOf_opened]

theorem releaseAdmitted_opened (mid : W16) (w : Wr) (p q : Page) (s : State) :
    releaseAdmitted mid q (opened w p s) = releaseAdmitted mid q s := by
  cases q with
  | chan c =>
    unfold releaseAdmitted
    simp only [opened_keeps w p (.chan c) Reg.CHAN_CHAN_ASSIGN_VALID s rfl]
  | cap | cc | wsc | mig | d2d | rf | hp | rg | eth | pmu | thm | sec | dbg | fus | aon | die | bm | mbx | tile => rfl

theorem fenceRelease_admitted {w : Wr} {p : Page} {s : State} (fails : List (Page × Fin 6)) (ha : Admitted w p 0x028 s)
    (hr : releaseAdmitted w.mid p s = true) :
    exec (.fenceRelease w p fails) s = .next (withPeers (releaseUnit (fails.map fun x => x.1) p) (opened w p s)) := by
  refine congrArg Host.Outcome.next ((guarded_opened ha).trans ?_)
  rw [releaseAdmitted_opened, if_pos hr]

/-- With its own causes repaired, a page waits for a half fence alone. -/
theorem allRepaired_ownRepairs (p : Page) (s : State) :
    allRepaired p (ownRepairs p s) = true ↔ ∀ c ∈ causesOf p s, c.1 = 3 → c.2 = true := by
  rw [allRepaired, ownRepairs, causesOf_setCauses, List.all_map, List.all_eq_true]
  refine forall₂_congr fun c _ => ?_
  by_cases h : c.1 = 3
  · simp only [Function.comp_apply, h, if_true, forall_const]
  · simp only [Function.comp_apply, h, if_false, false_imp_iff]

/-- The end of a fence shows on the page as the page's own. -/
theorem endFence_ctrl {p : Page} {s : State} (h : allRepaired p s = true) {g : Field} (hg : ctrlField g = true) :
    fget p g (endFence p s) = fget p g (unfence p s) := by
  rw [endFence, if_pos h]
  cases p with
  | tile t => exact (joinBench_only t.val _).ctrl _ hg rfl rfl
  | wsc | die => exact (wsKick_only _).ctrl _ hg rfl rfl
  | cap | cc | mig | d2d | rf | hp | rg | eth | pmu | thm | sec | dbg | fus | aon | bm | mbx | chan => rfl

theorem endFence_causes {p : Page} {s : State} (h : allRepaired p s = true) :
    causesOf p (endFence p s) = causesOf p (unfence p s) := by
  rw [endFence, if_pos h]
  cases p with
  | tile t => exact causesOf_congr _ ((joinBench_only t.val _).parts .causes (by decide) (by decide))
  | wsc | die => exact causesOf_congr _ ((wsKick_only _).parts .causes (by decide) (by decide))
  | cap | cc | mig | d2d | rf | hp | rg | eth | pmu | thm | sec | dbg | fus | aon | bm | mbx | chan => rfl

theorem endFence_plain {p : Page} {s : State} (h : allRepaired p s = true) (hp : plainFence p = true) :
    endFence p s = unfence p s := by
  rw [endFence, if_pos h]
  cases p with
  | rf | hp | rg | eth | pmu | thm | sec | dbg | aon | bm | mbx => rfl
  | cap | cc | wsc | mig | d2d | fus | die | chan | tile => cases hp

theorem releaseUnit_fenced {failed : List Page} {p : Page} {s : State} (hb : isBridge p = false) (hc : isComplex p = false)
    (hf : fenced p s = true) :
    releaseUnit failed p s = if repairClean failed p s then endFence p (ownRepairs p s) else s := by
  unfold releaseUnit
  rw [hf, if_neg (by decide)]
  cases p with
  | cc k => cases hc
  | d2d k => cases hb
  | cap | wsc | mig | rf | hp | rg | eth | pmu | thm | sec | dbg | fus | aon | die | bm | mbx | chan | tile => rfl

theorem releaseUnit_repaired {failed : List Page} {p : Page} {s : State} (hb : isBridge p = false)
    (hc : isComplex p = false) (hf : fenced p s = true) (h : Repaired failed p s) :
    releaseUnit failed p s = endFence p (ownRepairs p s) := by
  rw [releaseUnit_fenced hb hc hf, if_pos h.1]

/-- A fence whose repair path has not completed stays, and the page with it. -/
theorem releaseUnit_kept {failed : List Page} {p : Page} {s : State} (hb : isBridge p = false)
    (hc : isComplex p = false) (hf : fenced p s = true) (h : ¬ Repaired failed p s) :
    Only [.causes] [] s (releaseUnit failed p s) := by
  rw [releaseUnit_fenced hb hc hf]
  split
  · have ha : ¬ allRepaired p (ownRepairs p s) = true := fun ha => h ⟨‹_›, (allRepaired_ownRepairs p s).mp ha⟩
    rw [endFence, if_neg ha]
    exact setCauses_any p _ s
  · exact Only.refl _ _ _

theorem releaseUnit_plain (failed : List Page) {p : Page} {s : State} (hp : plainFence p = true)
    (hf : fenced p s = true) : Only [.causes] [span p 0x014 0x014, span p 0x028 0x028] s (releaseUnit failed p s) := by
  have hb : isBridge p = false := by
    cases p with
    | d2d k => cases hp
    | cap | cc | wsc | mig | rf | hp | rg | eth | pmu | thm | sec | dbg | fus | aon | die | bm | mbx | chan | tile => rfl
  have hc : isComplex p = false := by
    cases p with
    | cc k => cases hp
    | cap | wsc | mig | d2d | rf | hp | rg | eth | pmu | thm | sec | dbg | fus | aon | die | bm | mbx | chan | tile => rfl
  by_cases h : Repaired failed p s
  · rw [releaseUnit_repaired hb hc hf h, endFence_plain ((allRepaired_ownRepairs p s).mpr h.2) hp]
    exact ((setCauses_any p _ s).mono rfl).trans (unfence_page p _)
  · exact (releaseUnit_kept hb hc hf h).mono rfl

/-- An admitted FENCE.RELEASE of a unit that is no half and no bridge. -/
theorem fenceRelease_effect (w : Wr) (p : Page) (fails : List (Page × Fin 6)) (s : State) (hb : isBridge p = false)
    (hc : isComplex p = false) (ha : Admitted w p 0x028 s) (hr : releaseAdmitted w.mid p s = true)
    (hf : fenced p s = true) :
    ∃ t, exec (.fenceRelease w p fails) s = .next t ∧ fget p Reg.FENCE_COUNT t = fget p Reg.FENCE_COUNT s ∧
      fget p Reg.EPOCH_TOKEN t = tokenAfter w p s ∧
      (Repaired (fails.map fun x => x.1) p s →
        fenced p t = false ∧ fget p Reg.FENCE_CAUSE t = 0 ∧ causesOf p t = [] ∧
        blk p t = (if blk p s = .off ∧ fget p Reg.BLK_CTRL_EN s = 1 then .starting else blk p s)) ∧
      (¬ Repaired (fails.map fun x => x.1) p s →
        fenced p t = true ∧ fget p Reg.FENCE_CAUSE t = fget p Reg.FENCE_CAUSE s ∧ blk p t = blk p s) ∧
      (plainFence p = true → Only [.causes, .mail, .heldOut, .out]
        [span p 0x014 0x014, span p 0x018 0x018, span p 0x028 0x028, span p 0x02C 0x02C] s t) := by
  have hop := opened_at w p s
  have hfo : fenced p (opened w p s) = true := (fenced_opened w p p s).trans hf
  have hpe := withPeers_mail (releaseUnit (fails.map fun x => x.1) p) (opened w p s)
  have hown : Only [.causes] [] (opened w p s) (ownRepairs p (opened w p s)) := setCauses_any p _ _
  have hyes : Repaired (fails.map fun x => x.1) p s → ∀ g, ctrlField g = true →
      fget p g (withPeers (releaseUnit (fails.map fun x => x.1) p) (opened w p s)) =
        fget p g (unfence p (ownRepairs p (opened w p s))) := fun h g hg => by
    rw [withPeers_fget, releaseUnit_repaired hb hc hfo ((repaired_opened _ w p p s).mpr h),
      endFence_ctrl ((allRepaired_ownRepairs p _).mpr ((repaired_opened _ w p p s).mpr h).2) hg]
  have hno : ¬ Repaired (fails.map fun x => x.1) p s → ∀ g, ctrlField g = true →
      fget p g (withPeers (releaseUnit (fails.map fun x => x.1) p) (opened w p s)) = fget p g (opened w p s) :=
    fun h g hg => by
      rw [withPeers_fget, (releaseUnit_kept hb hc hfo fun k => h ((repaired_opened _ w p p s).mp k)).ctrl p hg rfl rfl]
  have hun := unfence_fields p (ownRepairs p (opened w p s))
  obtain ⟨hu1, hu2, hu3, hu4, hu5⟩ := hun
  refine ⟨_, fenceRelease_admitted fails ha hr, ?_, ?_, fun h => ⟨?_, ?_, ?_, ?_⟩, fun h => ⟨?_, ?_, ?_⟩, fun hpl => ?_⟩
  · by_cases h : Repaired (fails.map fun x => x.1) p s
    · rw [hyes h _ rfl, hu4, hown.ctrl p rfl rfl rfl, opened_keeps w p p _ s rfl]
    · rw [hno h _ rfl, opened_keeps w p p _ s rfl]
  · by_cases h : Repaired (fails.map fun x => x.1) p s
    · rw [hyes h _ rfl, (unfence_page p _).fget p _ rfl rfl rfl, hown.ctrl p rfl rfl rfl, opened_token]
    · rw [hno h _ rfl, opened_token]
  · exact (fenced_congr (hyes h _ rfl)).trans hu1
  · exact (hyes h _ rfl).trans hu2
  · have hro := (repaired_opened _ w p p s).mpr h
    rw [causesOf_congr p (hpe.parts .causes (by decide) (by decide)), releaseUnit_repaired hb hc hfo hro,
      endFence_causes ((allRepaired_ownRepairs p _).mpr hro.2), hu3]
  · rw [blk_congr (hyes h _ rfl), hu5, blk_congr (hown.ctrl p rfl rfl rfl), hown.ctrl p rfl rfl rfl, blk_opened,
      opened_keeps w p p _ s rfl]
  · exact (fenced_congr (hno h _ rfl)).trans hfo
  · rw [hno h _ rfl, opened_keeps w p p _ s rfl]
  · rw [blk_congr (hno h _ rfl), blk_opened]
  · exact ((hop.mono (by simp [within, RegSpan.inside, span])).trans ((releaseUnit_plain _ hpl hfo).mono
      (by simp [within, Fld.inside, RegSpan.inside, span]))).trans (hpe.mono rfl)

theorem complex_congr (h : Half) {s t : State} (hn : t.complexN = s.complexN) (hs : t.complexS = s.complexS) :
    complex h t = complex h s := by
  cases h with
  | north => exact hn
  | south => exact hs

theorem complex_setComplex (h : Half) (c : Complex) (s : State) : complex h (setComplex h c s) = c := by
  cases h with
  | north => rfl
  | south => rfl

/-- The complex of a fenced half starts the half's return. -/
theorem fenceRelease_complex (w : Wr) (h : Half) (fails : List (Page × Fin 6)) (s : State)
    (ha : Admitted w (.cc h) 0x028 s) (hf : fenced (.cc h) s = true) :
    ∃ t, exec (.fenceRelease w (.cc h) fails) s = .next t ∧ (complex h t).returning = true ∧ fenced (.cc h) t = true ∧
      Only [.complexN, .complexS, .mail] [span (.cc h) 0x02C 0x02C] s t := by
  have hfo : fenced (.cc h) (opened w (.cc h) s) = true := (fenced_opened w _ _ s).trans hf
  have hun : releaseUnit (fails.map fun x => x.1) (.cc h) (opened w (.cc h) s) =
      setComplex h { complex h (opened w (.cc h) s) with returning := true } (opened w (.cc h) s) := by
    rw [releaseUnit, hfo, if_neg (by decide)]
  have hpe := withPeers_mail (releaseUnit (fails.map fun x => x.1) (.cc h)) (opened w (.cc h) s)
  rw [hun] at hpe
  have hse := setComplex_only h { complex h (opened w (.cc h) s) with returning := true } (opened w (.cc h) s)
  refine ⟨_, fenceRelease_admitted fails ha rfl, ?_, ?_, ?_⟩
  · rw [complex_congr h (hpe.parts .complexN (by decide) (by decide)) (hpe.parts .complexS (by decide) (by decide)),
      complex_setComplex]
  · exact (fenced_congr ((hpe.ctrl _ rfl rfl rfl).trans (hse.ctrl _ rfl rfl rfl))).trans hfo
  · exact (((opened_at w _ s).mono (by simp [within, RegSpan.inside, span])).trans (hse.mono rfl)).trans (hpe.mono rfl)

/-- A clean release of either end retrains both groups. -/
theorem fenceRelease_bridge (w : Wr) (h : Half) (fails : List (Page × Fin 6)) (s : State)
    (ha : Admitted w (.d2d h) 0x028 s) (hf : fenced (.d2d h) s = true)
    (hc : ∀ k, (fails.map fun x => x.1).contains (.d2d k) = false) :
    ∃ t, exec (.fenceRelease w (.d2d h) fails) s = .next t ∧ ∀ k : Half, GroupsUp k t := by
  have hfo : fenced (.d2d h) (opened w (.d2d h) s) = true := (fenced_opened w _ _ s).trans hf
  have hun : releaseUnit (fails.map fun x => x.1) (.d2d h) (opened w (.d2d h) s) =
      onBridge (setGroups 0) (opened w (.d2d h) s) := by
    rw [releaseUnit, hfo, if_neg (by decide)]
    exact if_neg (by rw [hc, hc]; decide)
  refine ⟨_, fenceRelease_admitted fails ha rfl, fun k => ?_⟩
  refine (bridge_up (opened w (.d2d h) s) k).congr fun g _ _ => ?_
  rw [withPeers_fget, hun]

/-- Settles O13: a release clears the page once nothing is left to repair, and otherwise changes only the causes kept. -/
theorem fenceReleased : Obligations.FenceReleased := by
  refine ⟨fun w p fails s hb hc ha hr hf => ?_, fenceRelease_complex, fenceRelease_bridge⟩
  obtain ⟨t, ht, hcount, htok, hyes, hno, hpl⟩ := fenceRelease_effect w p fails s hb hc ha hr hf
  exact ⟨t, ht, hcount, htok, fun h1 h2 => hyes ⟨h1, h2⟩, fun h => hno (not_repaired.mpr h), hpl⟩

/-- A release that FenceReleased speaks of, of HP0 fenced at reset: its own test is clean. -/
theorem hp0_released : ∃ t, exec (.fenceRelease ⟨0, 0⟩ (.hp 0) []) (fencePage (.hp 0) 2 State.reset) = .next t ∧
    fenced (.hp 0) t = false := by
  obtain ⟨hr, -⟩ := fenceReleased
  obtain ⟨t, ht, -, -, hyes, -⟩ := hr ⟨0, 0⟩ (.hp 0) [] (fencePage (.hp 0) 2 State.reset) rfl rfl
    ⟨by decide, by decide, by decide, by decide, by decide⟩ rfl rfl
  obtain ⟨hf, -⟩ := hyes rfl (by decide)
  exact ⟨t, ht, hf⟩

end Sys2Proof.Machine
end

section
/-! SUPPORT. Posts of tasks (O29): what work on a deque adds to the mesh and to the events, the bank sweep, and the end of a
task that a post cannot take. -/

namespace Sys2Proof.Machine

/-! ## Messages and events that stay -/

/-- Between two states no message has left the mesh and no event was cleared. -/
def Grows (s t : State) : Prop :=
  (∀ m ∈ s.mesh, m ∈ t.mesh) ∧ ∀ p i, eventSet p i s = true → eventSet p i t = true

theorem Grows.refl (s : State) : Grows s s := ⟨fun _ h => h, fun _ _ h => h⟩

theorem Grows.trans {s t u : State} (h : Grows s t) (k : Grows t u) : Grows s u := by
  obtain ⟨hm, he⟩ := h
  obtain ⟨km, ke⟩ := k
  exact ⟨fun m hx => km m (hm m hx), fun p i hx => ke p i (he p i hx)⟩

theorem Grows.foldl {α : Type} {f : State → α → State} (h : ∀ s a, Grows s (f s a)) (l : List α) (s : State) :
    Grows s (l.foldl f s) := by
  induction l generalizing s with
  | nil => exact Grows.refl s
  | cons a l ih => exact (h s a).trans (ih (f s a))

/-- Registers without an EVT_RAW. -/
def noEvents (r : List RegSpan) : Bool := r.all fun x => decide (x.2.2 < 0x018 ∨ 0x018 < x.2.1)

theorem clear_noEvents {r : List RegSpan} (p : Page) (h : noEvents r = true) : clear r p 0x018 = true := by
  refine List.all_eq_true.mpr fun x hx => ?_
  have hx := List.all_eq_true.mp h x hx
  simp only [decide_eq_true_eq] at hx
  rw [decide_eq_false (show ¬ (x.2.1 ≤ 0x018 ∧ 0x018 ≤ x.2.2) by omega)]
  rfl

theorem Grows.of_only {m : List Fld} {r : List RegSpan} {s t : State} (h : Only m r s t) (hm : Fld.inside m .mesh = false)
    (hk : Fld.inside m .regs = false) (hr : noEvents r = true) : Grows s t := by
  have he : t.mesh = s.mesh := h.parts .mesh (Fld.notMem_of_inside hm) (by decide)
  exact ⟨fun x hx => he ▸ hx, fun p i hx => (h.event p i hk (clear_noEvents p hr)).trans hx⟩

theorem grows_send (m : Msg) (s : State) : Grows s (send m s) :=
  ⟨fun _ h => List.mem_append_left _ h, fun p i h => ((send_only m s).event p i rfl rfl).trans h⟩

theorem grows_raise (p : Page) (i : Nat) (s : State) : Grows s (raise p i s) :=
  ⟨fun m h => by rwa [raise_mesh], fun _ _ h => eventSet_raise_of _ _ _ _ _ h⟩

theorem grows_satInc (p : Page) (f : Field) (n : Nat) (s : State) (hf : Nat.blt f.off 0x1000 = true)
    (he : noEvents [(0, f.off, f.off)] = true) : Grows s (satInc p f n s) :=
  Grows.of_only (satInc_any f.off p f n s rfl hf) rfl rfl he

theorem grows_fset (p : Page) (f : Field) (v : Nat) (s : State) (hf : Nat.blt f.off 0x1000 = true)
    (he : noEvents [(0, f.off, f.off)] = true) : Grows s (fset p f v s) :=
  Grows.of_only (fset_any f.off p f v s rfl hf) rfl rfl he

theorem grows_modTile (p : Nat) (f : Tile → Tile) (s : State) : Grows s (modTile p f s) :=
  Grows.of_only (modTile_only p f s) rfl rfl rfl

theorem grows_setTile (p : Nat) (t : Tile) (s : State) : Grows s (setTile p t s) :=
  Grows.of_only (setTile_only p t s) rfl rfl rfl

/-! ## Where a TASK_END goes (R139, R142) -/

theorem ccFor_congr (h : Half) {s t : State} (e : fenced (.cc h) t = fenced (.cc h) s) : ccFor h t = ccFor h s := by
  rw [ccFor, e, ← ccFor]

/-- Work that writes no control complex's page sends a TASK_END where it went before. -/
theorem Only.ccFor {m : List Fld} {r : List RegSpan} {s t : State} (h : Only m r s t) (k : Half)
    (hm : Fld.inside m .regs = false) (hr : offType 0x10 r = true) : Machine.ccFor k t = Machine.ccFor k s :=
  ccFor_congr k (fenced_congr (h.onCc k _ rfl hm hr))

theorem TaskEnded.grows {d : Desc} {status : W16} {poison : Bool} {s t u : State} (h : TaskEnded d status poison s t)
    (g : Grows t u) : TaskEnded d status poison s u := g.1 _ h

theorem TaskEnded.of_ccFor {d : Desc} {status : W16} {poison : Bool} {s s' t : State} (h : TaskEnded d status poison s' t)
    (e : ccFor d.cch s' = ccFor d.cch s) : TaskEnded d status poison s t := by
  rwa [TaskEnded, e] at h

/-! ## Task ends and the deque (R141 to R143) -/

theorem grows_recordFail (p : Nat) (d : Desc) (status : W16) (s : State) : Grows s (recordFail p d status s) := by
  unfold recordFail
  extract_lets g s1 s2
  refine Grows.trans (t := s1) (grows_satInc _ _ _ _ rfl rfl) (Grows.trans (t := s2) ?_ (grows_raise _ _ _))
  simp only [s2]
  split
  · exact ((((grows_fset _ _ _ _ rfl rfl).trans (grows_fset _ _ _ _ rfl rfl)).trans (grows_fset _ _ _ _ rfl rfl)).trans
      (grows_fset _ _ _ _ rfl rfl)).trans (grows_fset _ _ _ _ rfl rfl)
  · exact Grows.refl _

theorem grows_sendSignal (sig : Signal) (s : State) : Grows s (sendSignal sig s) := by
  unfold sendSignal
  split
  · exact grows_send _ _
  · exact grows_send _ _

theorem grows_returnCredit (p : Nat) (e : Entry) (s : State) : Grows s (returnCredit p e s) := by
  unfold returnCredit
  split
  · exact grows_send _ _
  · exact Grows.refl _

/-- A failed task's record and the poison over its extent. -/
def failRecorded (p : Nat) (e : Entry) (status : W16) (s : State) : State :=
  if status = 0 then s else poisonExtent e.d.outRef.toNat e.d.outGran.toNat (recordFail p e.d status s)

theorem grows_failRecorded (p : Nat) (e : Entry) (status : W16) (s : State) : Grows s (failRecorded p e status s) := by
  unfold failRecorded
  split
  · exact Grows.refl _
  · exact (grows_recordFail _ _ _ _).trans (Grows.of_only (poisonExtent_only _ _ _) rfl rfl rfl)

theorem failRecorded_ccFor (p : Nat) (e : Entry) (status : W16) (s : State) (k : Half) :
    ccFor k (failRecorded p e status s) = ccFor k s := by
  unfold failRecorded
  split
  · rfl
  · rw [(poisonExtent_only _ _ _).ccFor k rfl rfl, (recordFail_only _ _ _ _).ccFor k rfl rfl]

/-- The state in which an ending task's counters and signals are done, and its TASK_END is next. -/
def endTaskSignalled (p : Nat) (e : Entry) (status : W16) (s : State) : State :=
  (successors p e.d (failRecorded p e status
      (wideInc (tilePage p) Reg.TILE_TASK_CNT_LO_COUNT Reg.TILE_TASK_CNT_HI_COUNT 1 s))).foldl
    (fun s g => sendSignal g s) (failRecorded p e status
      (wideInc (tilePage p) Reg.TILE_TASK_CNT_LO_COUNT Reg.TILE_TASK_CNT_HI_COUNT 1 s))

theorem grows_endTaskSignalled (p : Nat) (e : Entry) (status : W16) (s : State) :
    Grows s (endTaskSignalled p e status s) :=
  ((Grows.of_only (wideInc_any 0x410 0x414 _ _ _ 1 s rfl rfl rfl rfl) rfl rfl rfl).trans
    (grows_failRecorded p e status _)).trans (Grows.foldl (fun s g => grows_sendSignal g s) _ _)

theorem endTaskSignalled_ccFor (p : Nat) (e : Entry) (status : W16) (s : State) (k : Half) :
    ccFor k (endTaskSignalled p e status s) = ccFor k s := by
  have hf : ∀ (l : List Signal) (t : State), Only [.mesh] [] t (l.foldl (fun s g => sendSignal g s) t) := fun l t =>
    Only.foldl (fun s g => sendSignal_only g s) (Only.refl _ _ _)
  rw [endTaskSignalled, (hf _ _).ccFor k rfl rfl, failRecorded_ccFor,
    (wideInc_only 0x20 0x410 0x414 (tilePage p) _ _ 1 s rfl rfl rfl rfl rfl rfl).ccFor k rfl rfl]

/-- What is left of the end once its TASK_END is sent: the slot, the credit, the mirror's shadow. -/
theorem endTaskCore_rest (p : Nat) (e : Entry) (status : W16) (poison : Bool) (s : State) :
    Grows (send (.taskEnd (ccFor e.d.cch (endTaskSignalled p e status s))
      ⟨e.d.channel, e.d.seq, e.d.tmpl, e.d.cch, status, poison, none⟩) (endTaskSignalled p e status s))
      (endTaskCore p e status poison s) :=
  ((grows_modTile p _ _).trans (grows_returnCredit p e _)).trans
    (Grows.of_only (dropShadow_only p e.d _) rfl rfl rfl)

theorem grows_endTaskCore (p : Nat) (e : Entry) (status : W16) (poison : Bool) (s : State) :
    Grows s (endTaskCore p e status poison s) :=
  ((grows_endTaskSignalled p e status s).trans (grows_send _ _)).trans (endTaskCore_rest p e status poison s)

theorem endTaskCore_ends (p : Nat) (e : Entry) (status : W16) (poison : Bool) (s : State) :
    TaskEnded e.d status poison s (endTaskCore p e status poison s) := by
  have h := (endTaskCore_rest p e status poison s).1 _ (List.mem_append_right _ (List.mem_singleton.mpr rfl))
  rwa [endTaskSignalled_ccFor] at h

theorem failUnbuilt_ends (p : Nat) (d : Desc) (status : W16) (s : State) :
    TaskEnded d status false s (failUnbuilt p d status s) :=
  (endTaskCore_ends p ⟨d, .ready, .spawn, .north, (tileOf p s).ages, 0, none⟩ status false _).of_ccFor
    ((modTile_only p _ s).ccFor d.cch rfl rfl)

theorem grows_failUnbuilt (p : Nat) (d : Desc) (status : W16) (s : State) : Grows s (failUnbuilt p d status s) :=
  (grows_modTile p _ s).trans (grows_endTaskCore p _ status false _)

theorem grows_noteUse (p : Nat) (part : Part) (s : State) : Grows s (noteUse p part s) := by
  have hset : ∀ f : Field, f.off = 0x43C → ∀ v t, Grows t (fset (tilePage p) f v t) := fun f hf v t =>
    grows_fset _ f v t (by rw [hf]; rfl) (by rw [hf]; rfl)
  unfold noteUse
  extract_lets u f s1
  have hf : f.off = 0x43C := by
    cases part with
    | posted | stolen | spawn => rfl
  have h1 : Grows s s1 := by
    simp only [s1]
    split
    · exact hset f hf _ _
    · exact Grows.refl _
  split
  · exact h1.trans (grows_raise _ _ _)
  · exact h1

theorem grows_pushEntry (p : Nat) (d : Desc) (st : TaskSt) (part : Part) (poster : Half) (victim : Option Nat) (s : State) :
    Grows s (pushEntry p d st part poster victim s) :=
  (grows_setTile p _ s).trans (grows_noteUse p part _)

theorem tileOf_noteUse (q p : Nat) (part : Part) (s : State) : tileOf q (noteUse p part s) = tileOf q s := by
  rw [tileOf, tileOf, (noteUse_only p part s).parts .tiles (by decide) (by decide)]

/-- An entry takes a slot with the next age. -/
theorem tileOf_pushEntry (p : Nat) (d : Desc) (st : TaskSt) (part : Part) (poster : Half) (victim : Option Nat)
    (s : State) : tileOf p (pushEntry p d st part poster victim s) = { tileOf p s with
      deque := (tileOf p s).deque ++ [⟨d, st, part, poster, (tileOf p s).ages, 0, victim⟩],
      ages := (tileOf p s).ages + 1 } := by
  rw [pushEntry, tileOf_noteUse, tileOf_setTile]

/-! ## The banks' sweep over a deque (R65, R115) -/

/-- One bank's part of the sweep: a WRITE_HELD bank that no context uses any more starts WRITING. -/
def releaseBank (t : Tile) (b : Bool) : Tile :=
  if (t.bank b).st = .writeHeld ∧ t.ctxs.all (fun c => decide (c.bank ≠ b)) then
    t.setBank b { t.bank b with st := .writing }
  else t

theorem releaseHeld_eq (t : Tile) : releaseHeld t = releaseBank (releaseBank t false) true := rfl

/-- The sweep of a bank does not look at the deque. -/
theorem releaseBank_setDeque (t : Tile) (b : Bool) (q : List Entry) (n : Nat) :
    releaseBank { t with deque := q, ages := n } b = { releaseBank t b with deque := q, ages := n } := by
  have hb : ({ t with deque := q, ages := n } : Tile).bank b = t.bank b := rfl
  unfold releaseBank
  rw [hb]
  split
  · cases b with
    | false => rfl
    | true => rfl
  · rfl

theorem releaseHeld_setDeque (t : Tile) (q : List Entry) (n : Nat) :
    releaseHeld { t with deque := q, ages := n } = { releaseHeld t with deque := q, ages := n } := by
  rw [releaseHeld_eq, releaseHeld_eq, releaseBank_setDeque t, releaseBank_setDeque (releaseBank t false)]

/-- The sweep of a bank leaves the deque and the backoff. -/
theorem releaseBank_leaves (t : Tile) (b : Bool) : (releaseBank t b).deque = t.deque ∧
    (releaseBank t b).denies = t.denies ∧ (releaseBank t b).backoffUntil = t.backoffUntil := by
  unfold releaseBank
  split
  · cases b with
    | false => exact ⟨rfl, rfl, rfl⟩
    | true => exact ⟨rfl, rfl, rfl⟩
  · exact ⟨rfl, rfl, rfl⟩

theorem releaseHeld_leaves (t : Tile) : (releaseHeld t).deque = t.deque ∧
    (releaseHeld t).denies = t.denies ∧ (releaseHeld t).backoffUntil = t.backoffUntil := by
  obtain ⟨h1, h2, h3⟩ := releaseBank_leaves t false
  obtain ⟨k1, k2, k3⟩ := releaseBank_leaves (releaseBank t false) true
  exact ⟨k1.trans h1, k2.trans h2, k3.trans h3⟩

/-- What the sweep makes of an entry that does not miss. -/
def sweepEntry (t : Tile) (e : Entry) : Entry :=
  if e.d.kind = 0 ∧ (e.st = .ready ∨ e.st = .held) then
    match standing t e.d with
    | .runs _ => { e with st := .ready }
    | .waits => { e with st := .held }
    | .misses => e
  else e

/-- The entries whose tag no bank holds. -/
def missedEntries (t : Tile) : List Entry :=
  t.deque.filter fun e =>
    decide (e.d.kind = 0 ∧ (e.st = .ready ∨ e.st = .held)) && decide (standing t e.d = .misses)

/-- A missed entry counts, raises BANK_MISS and ends. -/
def missEnds (p : Nat) (s : State) (e : Entry) : State :=
  endTaskCore p e 0x0021 false (raise (tilePage p) 9 (satInc (tilePage p) Reg.TILE_BANK_MISS_CNT_COUNT 1 s))

theorem settle_eq (p : Nat) (s : State) : settle p s = (missedEntries (releaseHeld (tileOf p s))).foldl (missEnds p)
    (setTile p { releaseHeld (tileOf p s) with
      deque := (releaseHeld (tileOf p s)).deque.map (sweepEntry (releaseHeld (tileOf p s))) } (modTile p releaseHeld s)) := by
  rw [← tileOf_modTile p releaseHeld s]
  rfl

theorem grows_missEnds (p : Nat) (s : State) (e : Entry) : Grows s (missEnds p s e) :=
  ((grows_satInc _ _ _ _ rfl rfl).trans (grows_raise _ _ _)).trans (grows_endTaskCore _ _ _ _ _)

theorem missEnds_event (p : Nat) (s : State) (e : Entry) : eventSet (tilePage p) 9 (missEnds p s e) = true :=
  (grows_endTaskCore p e 0x0021 false _).2 _ _ (eventSet_raise (tilePage p) 9 _ rfl (by decide))

theorem grows_settle (p : Nat) (s : State) : Grows s (settle p s) := by
  rw [settle_eq]
  exact ((grows_modTile p _ s).trans (grows_setTile p _ _)).trans (Grows.foldl (grows_missEnds p) _ _)

theorem foldl_missEnds_event (p : Nat) {l : List Entry} {e : Entry} (h : e ∈ l) (s : State) :
    eventSet (tilePage p) 9 (l.foldl (missEnds p) s) = true := by
  induction l generalizing s with
  | nil => cases h
  | cons a l ih =>
    rcases List.mem_cons.mp h with rfl | h
    · exact (Grows.foldl (grows_missEnds p) l _).2 _ _ (missEnds_event p s e)
    · exact ih h _

/-- A CIM entry that no bank holds raises BANK_MISS. -/
theorem settle_misses {p : Nat} {s : State} {e : Entry} (h : e ∈ (tileOf p s).deque) (hk : e.d.kind = 0)
    (hs : e.st = .ready) (hm : standing (releaseHeld (tileOf p s)) e.d = .misses) :
    eventSet (tilePage p) 9 (settle p s) = true := by
  obtain ⟨hq, -, -⟩ := releaseHeld_leaves (tileOf p s)
  rw [settle_eq]
  refine foldl_missEnds_event p (e := e) (List.mem_filter.mpr ⟨hq.symm ▸ h, ?_⟩) _
  rw [decide_eq_true ⟨hk, Or.inl hs⟩, decide_eq_true hm]
  rfl

/-- A deque without a CIM entry to look at is left as it is. -/
theorem settle_quiet {p : Nat} {s : State} (h : ∀ e ∈ (tileOf p s).deque, e.d.kind ≠ 0 ∨ (e.st ≠ .ready ∧ e.st ≠ .held)) :
    tileOf p (settle p s) = releaseHeld (tileOf p s) := by
  obtain ⟨hq, -, -⟩ := releaseHeld_leaves (tileOf p s)
  have hn : ∀ e ∈ (tileOf p s).deque, ¬ (e.d.kind = 0 ∧ (e.st = .ready ∨ e.st = .held)) := fun e he => by
    rcases h e he with hk | ⟨hr, hh⟩
    · exact fun k => hk k.1
    · exact fun k => k.2.elim hr hh
  have hmap : (tileOf p s).deque.map (sweepEntry (releaseHeld (tileOf p s))) = (tileOf p s).deque :=
    (List.map_congr_left fun e he => if_neg (hn e he)).trans (List.map_id _)
  have hmiss : missedEntries (releaseHeld (tileOf p s)) = [] := by
    rw [missedEntries, hq]
    exact List.filter_eq_nil_iff.mpr fun e he => by rw [decide_eq_false (hn e he), Bool.false_and]; decide
  rw [settle_eq, hmiss, hq, hmap, ← hq]
  exact tileOf_setTile p _ _

/-! ## The spill queue (R140, R149) -/

theorem grows_ownVectorReady (p : Nat) (d : Desc) (s : State) : Grows s (ownVectorReady p d s) :=
  Grows.of_only (ownVectorReady_only p d s) rfl rfl rfl

theorem grows_modEntry (p age : Nat) (f : Entry → Entry) (s : State) : Grows s (modEntry p age f s) :=
  grows_modTile p _ s

theorem grows_takeSignal (p : Nat) (sig : Signal) (s : State) : Grows s (takeSignal p sig s) := by
  unfold takeSignal
  extract_lets t
  split
  · split
    · exact ((grows_modEntry _ _ _ _).trans (grows_ownVectorReady _ _ _)).trans (grows_settle _ _)
    · exact grows_modEntry _ _ _ _
  · split
    · exact grows_failUnbuilt _ _ _ _
    · extract_lets d base
      split
      · exact grows_failUnbuilt _ _ _ _
      split
      · exact grows_failUnbuilt _ _ _ _
      split
      · exact grows_failUnbuilt _ _ _ _
      split
      · exact ((grows_pushEntry _ _ _ _ _ _ _).trans (grows_ownVectorReady _ _ _)).trans (grows_settle _ _)
      · exact grows_pushEntry _ _ _ _ _ _ _

theorem grows_drainSpill (n p : Nat) (s : State) : Grows s (drainSpill n p s) := by
  induction n generalizing s with
  | zero => exact Grows.refl s
  | succ n ih =>
    rw [drainSpill]
    split
    · split
      · exact grows_modTile _ _ _
      · exact Grows.refl _
    · split
      · exact Grows.refl _
      · extract_lets s1
        have h1 : Grows s s1 := (grows_setTile _ _ _).trans (grows_takeSignal _ _ _)
        refine h1.trans (Grows.trans ?_ (ih _))
        split
        · exact grows_modTile _ _ _
        · exact Grows.refl _

theorem endTask_ends (p : Nat) (e : Entry) (status : W16) (poison : Bool) (s : State) :
    TaskEnded e.d status poison s (endTask p e status poison s) :=
  (endTaskCore_ends p e status poison s).grows ((grows_settle p _).trans (grows_drainSpill _ p _))

/-! ## TASK_POST (R32, R65, R136, R138, R143) -/

theorem tilePage_val (t : Fin 1056) : tilePage t.val = .tile t := congrArg Page.tile (Fin.ext (Nat.mod_eq_of_lt t.isLt))

/-- A tile that serves: not fenced, with a logical number. -/
def serves (p : Nat) (s : State) : Prop := fenced (tilePage p) s = false ∧ logicalOf p s ≠ 0x7FF

theorem serves_not_refused {p : Nat} {s : State} (h : serves p s) :
    ¬ (fenced (tilePage p) s = true ∨ logicalOf p s = 0x7FF) := by
  obtain ⟨hf, hl⟩ := h
  rw [hf]
  exact fun k => k.elim (by decide) hl

theorem taskPost_refused {p : Nat} {s : State} (d : Desc) (shadow : Bool) (poster : Half)
    (h : fenced (tilePage p) s = true ∨ logicalOf p s = 0x7FF) :
    taskPost p d shadow poster s = if shadow then send (.credit p (ccFor poster s)) s
      else failUnbuilt p d 0x0011 (send (.credit p (ccFor poster s)) s) := by
  rw [taskPost, if_pos h]

theorem taskPost_full {p : Nat} {s : State} (d : Desc) (shadow : Bool) (poster : Half) (h : serves p s)
    (hu : 176 ≤ partUse (tileOf p s) .posted) : taskPost p d shadow poster s = s := by
  rw [taskPost, if_neg (serves_not_refused h), if_pos hu]

theorem taskPost_shadow {p : Nat} {s : State} (d : Desc) (poster : Half) (h : serves p s)
    (hu : partUse (tileOf p s) .posted < 176) :
    taskPost p d true poster s = pushEntry p d .shadow .posted poster none s := by
  rw [taskPost, if_neg (serves_not_refused h), if_neg (by omega), if_pos rfl]

theorem taskPost_taken {p : Nat} {s : State} {d : Desc} (poster : Half) (h : serves p s)
    (hu : partUse (tileOf p s) .posted < 176) (hd : descValid d false = true) (hs : d.stolen = false) (hz : d.deps = 0) :
    taskPost p d false poster s = settle p (ownVectorReady p d (pushEntry p d .ready .posted poster none s)) := by
  rw [taskPost, if_neg (serves_not_refused h), if_neg (by omega), if_neg (by decide),
    if_neg (by simp [hd, hs, hz])]

/-- The first entry of an age that no entry had before. -/
theorem entryOf_push {q : List Entry} {e : Entry} (t : Tile) (h : ∀ x ∈ q, x.age ≠ e.age) :
    entryOf { t with deque := q ++ [e] } e.age = some e := by
  have hq : q.filter (fun x => decide (x.age = e.age)) = [] :=
    List.filter_eq_nil_iff.mpr fun x hx => by simpa using h x hx
  simp only [entryOf, List.filter_append, hq, List.nil_append, List.filter_cons, decide_true, if_true, List.filter_nil,
    List.getElem?_cons_zero]

theorem taskPost_invalid {p : Nat} {s : State} {d : Desc} (poster : Half) (h : serves p s)
    (hu : partUse (tileOf p s) .posted < 176) (hd : descValid d false = false ∨ d.stolen = true ∨ d.deps ≠ 0)
    (ha : ∀ e ∈ (tileOf p s).deque, e.age ≠ (tileOf p s).ages) :
    taskPost p d false poster s = endTask p ⟨d, .ready, .posted, poster, (tileOf p s).ages, 0, none⟩ 0x0026 false
      (pushEntry p d .ready .posted poster none s) := by
  have he : entryOf (tileOf p (pushEntry p d .ready .posted poster none s)) (tileOf p s).ages =
      some ⟨d, .ready, .posted, poster, (tileOf p s).ages, 0, none⟩ := by
    rw [tileOf_pushEntry]
    exact entryOf_push { tileOf p s with ages := (tileOf p s).ages + 1 }
      (e := ⟨d, .ready, .posted, poster, (tileOf p s).ages, 0, none⟩) ha
  rw [taskPost, if_neg (serves_not_refused h), if_neg (by omega), if_neg (by decide)]
  simp only [if_pos hd, he]

/-- The state in which a post has arrived. -/
def posted (tile : Fin 1056) (d : Desc) (shadow : Bool) (poster : Half) (s : State) : State :=
  arrive (.post tile.val d shadow poster) s

theorem exec_taskPost (tile : Fin 1056) (d : Desc) (shadow : Bool) (poster : Half) (s : State) :
    exec (.taskPost tile d shadow poster) s = .next (taskPost tile.val d shadow poster (posted tile d shadow poster s)) := rfl

theorem tileOf_posted (tile : Fin 1056) (d : Desc) (shadow : Bool) (poster : Half) (q : Nat) (s : State) :
    tileOf q (posted tile d shadow poster s) = tileOf q s := tileOf_arrive _ _ _

theorem ccFor_posted (tile : Fin 1056) (d : Desc) (shadow : Bool) (poster : Half) (k : Half) (s : State) :
    ccFor k (posted tile d shadow poster s) = ccFor k s := ccFor_congr k (fenced_congr (fget_arrive _ _ _ _))

theorem serves_posted {tile : Fin 1056} {s : State} (d : Desc) (shadow : Bool) (poster : Half)
    (hf : fenced (.tile tile) s = false) (hl : logicalOf tile.val s ≠ 0x7FF) :
    serves tile.val (posted tile d shadow poster s) := by
  rw [← tilePage_val] at hf
  exact ⟨(fenced_congr (fget_arrive _ _ _ _)).trans hf, hl⟩

/-- Settles O29: each way a post can end is one equation of `taskPost`; the sweep and the spill queue only add messages and
events. -/
theorem taskPosts : Obligations.TaskPosts := by
  refine ⟨fun tile d poster s hf hl hu => ?_, fun tile d poster s hf hl hu hd hs hz hk hq => ?_,
    fun tile d poster s hf hl hu hd hs hz hk hm => ?_, fun tile d poster s hf hl hu hd ha => ?_,
    fun tile d shadow poster s hf hl hu => ?_, fun tile d shadow poster s h => ?_⟩
  · refine ⟨_, exec_taskPost tile d true poster s, ?_⟩
    have hsv := serves_posted d true poster hf hl
    rw [taskPost_shadow d poster hsv (by rwa [tileOf_posted]), tileOf_pushEntry, tileOf_posted]
  · refine ⟨_, exec_taskPost tile d false poster s, ?_⟩
    have hsv := serves_posted d false poster hf hl
    rw [taskPost_taken poster hsv (by rwa [tileOf_posted]) hd hs hz]
    have ht : tileOf tile.val (ownVectorReady tile.val d (pushEntry tile.val d .ready .posted poster none
        (posted tile d false poster s))) = { tileOf tile.val s with
          deque := (tileOf tile.val s).deque ++ [⟨d, .ready, .posted, poster, (tileOf tile.val s).ages, 0, none⟩],
          ages := (tileOf tile.val s).ages + 1, denies := 0, backoffUntil := 0 } := by
      rw [ownVectorReady, if_neg hk, tileOf_modTile, tileOf_pushEntry, tileOf_posted]
    have hquiet := settle_quiet (p := tile.val) (s := ownVectorReady tile.val d (pushEntry tile.val d .ready .posted poster
      none (posted tile d false poster s))) (by
        rw [ht]
        exact fun e he => (List.mem_append.mp he).elim (hq e) fun h => .inl (List.mem_singleton.mp h ▸ hk))
    rw [hquiet, ht]
    exact releaseHeld_leaves _
  · refine ⟨_, exec_taskPost tile d false poster s, ?_⟩
    have hsv := serves_posted d false poster hf hl
    have ht := tileOf_pushEntry tile.val d .ready .posted poster none (posted tile d false poster s)
    rw [tileOf_posted] at ht
    rw [taskPost_taken poster hsv (by rwa [tileOf_posted]) hd hs hz, ownVectorReady, if_pos hk, ← tilePage_val]
    refine settle_misses (e := ⟨d, .ready, .posted, poster, (tileOf tile.val s).ages, 0, none⟩) ?_ hk rfl ?_
    · rw [ht]
      exact List.mem_append_right _ (List.mem_singleton.mpr rfl)
    · rw [ht, releaseHeld_setDeque]
      exact hm
  · refine ⟨_, exec_taskPost tile d false poster s, ?_⟩
    have hsv := serves_posted d false poster hf hl
    rw [taskPost_invalid poster hsv (by rwa [tileOf_posted]) hd (by rwa [tileOf_posted])]
    refine (endTask_ends _ _ _ _ _).of_ccFor ?_
    rw [(pushEntry_only _ _ _ _ _ _ _).ccFor d.cch rfl rfl, ccFor_posted]
  · refine ⟨_, exec_taskPost tile d shadow poster s, ?_⟩
    rw [taskPost_full d shadow poster (serves_posted d shadow poster hf hl) (by rwa [tileOf_posted])]
    exact arrive_only _ s
  · refine ⟨_, exec_taskPost tile d shadow poster s, ?_⟩
    have hr : fenced (tilePage tile.val) (posted tile d shadow poster s) = true ∨
        logicalOf tile.val (posted tile d shadow poster s) = 0x7FF := by
      rw [tilePage_val]
      exact h
    rw [taskPost_refused d shadow poster hr, ccFor_posted]
    have hc : .credit tile.val (ccFor poster s) ∈
        (send (.credit tile.val (ccFor poster s)) (posted tile d shadow poster s)).mesh :=
      List.mem_append_right _ (List.mem_singleton.mpr rfl)
    cases shadow with
    | true => exact ⟨hc, fun k => by cases k⟩
    | false =>
      refine ⟨(grows_failUnbuilt _ _ _ _).1 _ hc, fun _ => (failUnbuilt_ends _ _ _ _).of_ccFor ?_⟩
      rw [(send_only _ _).ccFor d.cch rfl rfl, ccFor_posted]

/-- Tile 0 at reset, serving number 3, with `n` POSTED slots in use. -/
def postState (n : Nat) : State :=
  setTile 0 { deque := List.replicate n ⟨descOf fun _ => 0, .running, .posted, .north, 0, 0, none⟩, ages := n }
    (fset (.tile 0) Reg.TILE_BENCH_MAP_LOGICAL 3 State.reset)

theorem postState_partUse (n : Nat) : partUse (tileOf 0 (postState n)) .posted = n := by
  rw [postState, tileOf_setTile]
  simp [partUse]

theorem postState_logical (n : Nat) : logicalOf 0 (postState n) ≠ 0x7FF := by
  have h : logicalOf 0 (postState n) = 3 := by
    rw [logicalOf, postState, fget_setTile]
    exact fset_reads (.tile 0) Reg.TILE_BENCH_MAP_LOGICAL 3 State.reset rfl
  rw [h]
  decide

/-- Posts that TaskPosts speaks of: the 176th POSTED slot is taken, a further post is not. -/
theorem posts_at_the_last_slot :
    (∃ t, exec (.taskPost 0 (descOf fun _ => 0) true .north) (postState 175) = .next t ∧ (tileOf 0 t).ages = 176) ∧
      ∃ t, exec (.taskPost 0 (descOf fun _ => 0) true .north) (postState 176) = .next t ∧ Only [.mesh] [] (postState 176) t := by
  obtain ⟨hs, -, -, -, hf, -⟩ := taskPosts
  obtain ⟨t, ht, hd⟩ := hs 0 (descOf fun _ => 0) .north (postState 175) rfl (postState_logical 175)
    (by rw [show (0 : Fin 1056).val = 0 from rfl, postState_partUse]; decide)
  refine ⟨⟨t, ht, (congrArg Tile.ages hd).trans ?_⟩, hf 0 _ true .north (postState 176) rfl (postState_logical 176)
    (by rw [show (0 : Fin 1056).val = 0 from rfl, postState_partUse])⟩
  rfl

end Sys2Proof.Machine
end

section
/-! SUPPORT. Tiles and 64-bit counters after shared operations, for the proofs about the tile
array. -/

namespace Sys2Proof.Machine

/-! ## Tiles that an operation leaves -/

theorem tileOf_congr {s t : State} (h : t.tiles = s.tiles) (q : Nat) : tileOf q t = tileOf q s := by
  rw [tileOf, tileOf, h]

/-- Work that does not touch the tiles. -/
theorem Only.sameTile {m : List Fld} {r : List RegSpan} {s t : State} (h : Only m r s t) (hm : Fld.inside m .tiles = false)
    (q : Nat) : tileOf q t = tileOf q s := tileOf_congr (h.parts .tiles (Fld.notMem_of_inside hm) (by decide)) q

/-! ## Counters in two registers (R75) -/

/-- A 64-bit counter counts modulo 2^64, its two words apart. -/
theorem wideGet_wideInc (p : Page) (lo hi : Field) (n : Nat) (s : State)
    (h : (fieldOk lo && fieldOk hi && fieldsApart lo hi) = true) (hl : lo.width = 32) (hh : hi.width = 32) :
    wideGet p lo hi (wideInc p lo hi n s) = (wideGet p lo hi s + n) % 2 ^ 64 := by
  have hk := h
  simp only [Bool.and_eq_true] at hk
  obtain ⟨⟨hlo, hhi⟩, -⟩ := hk
  unfold wideGet wideInc
  rw [fset_keeps p lo hi _ _ h, fset_reads p lo _ _ hlo, fset_reads p hi _ _ hhi, hl, hh]
  omega

theorem wideInc_at (p : Page) {lo hi : Field} (n : Nat) (s : State) {a b : Nat} (hl : lo.off = a) (hh : hi.off = b)
    (hab : a ≤ b) (hb : b < 0x1000) : Only [] [span p a b] s (wideInc p lo hi n s) := by
  have hset : ∀ (f : Field) (v : Nat) (t : State), a ≤ f.off → f.off ≤ b → Only [] [span p a b] t (fset p f v t) :=
    fun f v t h1 h2 => (fset_at p f v t (Nat.blt_eq.mpr (by omega))).mono
      (by simp [within, Fld.inside, RegSpan.inside, span, h1, h2])
  exact (hset lo _ _ (by omega) (by omega)).trans (hset hi _ _ (by omega) (by omega))

end Sys2Proof.Machine
end

section
/-! SUPPORT. Reads of a 64-bit counter (O14): the low word latches the high one, whose next read ends the latch (R75). -/

namespace Sys2Proof.Machine

/-! ## What the two reads of a pair latch and remove -/

theorem latchPair_offset {p : Page} {o : Nat} (h : latchPair p o = true) :
    notMbx p = true ∧ o + 4 < 0x1000 ∧ o % 4 = 0 := by
  cases p with
  | tile t => rcases of_decide_eq_true h with rfl | rfl | rfl <;> exact ⟨rfl, by decide, rfl⟩
  | chan c | rf k | aon => cases of_decide_eq_true h; exact ⟨rfl, by decide, rfl⟩
  | cap | cc | wsc | mig | d2d | hp | rg | eth | pmu | thm | sec | dbg | fus | die | bm | mbx => cases h

/-- Of the two reads the first alone latches, and neither draws a free value or removes an entry. -/
theorem latchPair_reads {p : Page} {o : Nat} (h : latchPair p o = true) :
    latchedBy p o = [o + 4] ∧ latchedBy p (o + 4) = [] ∧ (openReg p o = false ∧ openReg p (o + 4) = false) ∧
      ∀ mid s, removed mid p o s = s ∧ removed mid p (o + 4) s = s := by
  cases p with
  | tile t => rcases of_decide_eq_true h with rfl | rfl | rfl <;> exact ⟨rfl, rfl, ⟨rfl, rfl⟩, fun _ _ => ⟨rfl, rfl⟩⟩
  | chan c | rf k | aon => cases of_decide_eq_true h; exact ⟨rfl, rfl, ⟨rfl, rfl⟩, fun _ _ => ⟨rfl, rfl⟩⟩
  | cap | cc | wsc | mig | d2d | hp | rg | eth | pmu | thm | sec | dbg | fus | die | bm | mbx => cases h

/-- The state with its latched words replaced. -/
def withLatched (l : Store (Option W32)) (s : State) : State := { s with latched := l }

theorem withLatched_only (l : Store (Option W32)) (s : State) : Only [.latched] [] s (withLatched l s) :=
  Only.set_latched (by rfl) (Only.refl _ _ _)

/-- The low word's read returns it and latches the high word. -/
theorem readServed_low (mid : W16) {p : Page} {o : Nat} (s : State) (h : latchPair p o = true) :
    readServed mid p o s = ((sget none (regAddr p o) s.latched).getD (readValue mid p o s),
      withLatched (sset none (regAddr p (o + 4)) (some (readValue mid p (o + 4) s))
        (sset none (regAddr p o) none s.latched)) s) := by
  obtain ⟨hl, -, ⟨ho, -⟩, hr⟩ := latchPair_reads h
  obtain ⟨hr, -⟩ := hr mid (withLatched (sset none (regAddr p (o + 4)) (some (readValue mid p (o + 4) s))
    (sset none (regAddr p o) none s.latched)) s)
  simp only [readServed, ho, hl, Bool.false_eq_true, if_false, List.foldl_cons, List.foldl_nil]
  exact Prod.ext rfl hr

/-- The high word's read returns the latched word and ends the latch. -/
theorem readServed_high (mid : W16) {p : Page} {o : Nat} {s : State} {v : W32} (h : latchPair p o = true)
    (hv : sget none (regAddr p (o + 4)) s.latched = some v) :
    readServed mid p (o + 4) s = (v, withLatched (sset none (regAddr p (o + 4)) none s.latched) s) := by
  obtain ⟨-, hl, ⟨-, ho⟩, hr⟩ := latchPair_reads h
  obtain ⟨-, hr⟩ := hr mid (withLatched (sset none (regAddr p (o + 4)) none s.latched) s)
  simp only [readServed, hv, ho, hl, Bool.false_eq_true, if_false, List.foldl_nil, Option.getD_some]
  exact Prod.ext rfl hr

/-! ## The commands -/

/-- A read of an aligned register of a page that is served and seen, and no mailbox's. -/
theorem readReg_served {mid : W16} {p : Page} {o : Nat} {s : State} (ho : o < 0x1000) (h4 : o % 4 = 0)
    (hm : notMbx p = true) (hs : served s p = true) (hv : sees s mid p = true) :
    readReg mid (regAddr p o) s = readServed mid p o s := by
  have hd : regAddr p o / 0x1000 = pageNum p := by unfold regAddr; omega
  have hr : regAddr p o % 0x1000 = o := by unfold regAddr; omega
  have ha : regAddr p o % 4 = 0 := by unfold regAddr; omega
  simp only [readReg, hd, hr, ha, pageAt_pageNum, hs, hv, Bool.true_eq_false, or_self, if_false, ne_eq, not_true_eq_false]
  cases p with
  | mbx m => cases hm
  | cap | cc | wsc | mig | d2d | rf | hp | rg | eth | pmu | thm | sec | dbg | fus | aon | die | bm | chan | tile => rfl

theorem exec_counterLatchRead {mid : W16} {off : BitVec 26} {p : Page} {o : Nat} {s t : State} {v : W32}
    (ha : off.toNat = regAddr p o) (ho : o < 0x1000) (h4 : o % 4 = 0) (hm : notMbx p = true) (hs : served s p = true)
    (hv : sees s mid p = true) (hr : readServed mid p o s = (v, t)) :
    exec (.counterLatchRead mid off) s = .next (push (.readData mid off.toNat v) t) := by
  show execCounterLatchRead mid off s = _
  rw [execCounterLatchRead, ha, readReg_served ho h4 hm hs hv, hr]
  rfl

theorem read_only (o : Out) (l : Store (Option W32)) (s : State) :
    Only [.latched, .out] [] s (push o (withLatched l s)) :=
  ((withLatched_only l s).mono rfl).trans ((push_only o _).mono rfl)

/-- Settles O14: the two reads of a pair are `readServed_low` and `readServed_high`; latched words and what has left decide
nothing about who may read. -/
theorem counterLatch : Obligations.CounterLatch := by
  intro mid p o lo hi s h hlo hhi hs hv
  obtain ⟨hm, ho, h4⟩ := latchPair_offset h
  have hlow := readServed_low mid s h
  have hkept : sget (none : Option W32) hi.toNat (sset none (regAddr p (o + 4)) (some (readValue mid p (o + 4) s))
      (sset none (regAddr p o) none s.latched)) = some (readValue mid p (o + 4) s) := by
    rw [hhi]
    exact sget_sset_same _ _ _ _
  refine ⟨_, _, exec_counterLatchRead hlo (by omega) h4 hm hs hv hlow,
    exec_counterLatchRead hhi ho (by omega) hm hs hv (readServed_high mid h (hhi ▸ hkept)), ?_, rfl, hkept, ?_,
    read_only _ _ s, read_only _ _ _⟩
  · rw [hlo]
    rfl
  · rw [hhi]
    exact sget_sset_same (none : Option W32) _ none _

/-- Reads that CounterLatch speaks of: the always-on domain's pair at reset. -/
theorem aon_pair_read_at_reset :
    ∃ t, exec (.counterLatchRead 0 0x16104) State.reset = .next t ∧
      sget (none : Option W32) 0x16108 t.latched = some 0 := by
  obtain ⟨t, -, ht, -, -, -, hl, -⟩ := counterLatch 0 .aon 0x104 0x16104 0x16108 State.reset rfl rfl rfl rfl rfl
  exact ⟨t, ht, hl.trans rfl⟩

end Sys2Proof.Machine
end

section
/-! SUPPORT. Starts of passes (O21): the thermal hold before a pass (R69), a pass issued (R52, R54) or skipped (R58). -/

namespace Sys2Proof.Machine

/-! ## The thermal hold (R69) -/

/-- What the tile does as its sensor is found above the hold temperature. -/
def holdRaised (p : Nat) (s : State) : State :=
  raise (tilePage p) 13 (satInc (tilePage p) Reg.TILE_THERM_HOLD_CNT_COUNT 1
    (fset (tilePage p) Reg.TILE_ARRAY_STAT_THERM_HOLD 1 (setTile p { tileOf p s with thermHold := true } s)))

theorem thermalHold_hot {p : Nat} {s : State} (h : (tileOf p s).thermHold = false)
    (ht : 840 < (sensorOf (regionOf p) s).temp) : thermalHold p s = holdRaised p s := by
  simp only [thermalHold, if_pos (And.intro h ht)]
  rfl

theorem thermalHold_cool {p : Nat} {s : State} (h : (tileOf p s).thermHold = false)
    (ht : (sensorOf (regionOf p) s).temp ≤ 840) : thermalHold p s = s := by
  simp only [thermalHold]
  rw [if_neg fun k => absurd k.2 (by omega), if_neg fun k => by rw [h] at k; cases k.1]

theorem tileOf_holdRaised (p : Nat) (s : State) :
    tileOf p (holdRaised p s) = { tileOf p s with thermHold := true } := by
  simp only [holdRaised, tileOf_raise, tileOf_satInc, tileOf_fset, tileOf_setTile]

theorem holdRaised_event (p : Nat) (s : State) : eventSet (tilePage p) 13 (holdRaised p s) = true :=
  eventSet_raise (tilePage p) 13 _ rfl (by decide)

theorem holdRaised_flag (p : Nat) (s : State) :
    fget (tilePage p) Reg.TILE_ARRAY_STAT_THERM_HOLD (holdRaised p s) = 1 := by
  rw [holdRaised, raise_keeps _ _ _ _ _ rfl, fget_satInc_apart _ _ _ _ _ rfl, fset_reads _ _ _ _ rfl]
  rfl

theorem holdRaised_count (p : Nat) (s : State) : fget (tilePage p) Reg.TILE_THERM_HOLD_CNT_COUNT (holdRaised p s) =
    min (fget (tilePage p) Reg.TILE_THERM_HOLD_CNT_COUNT s + 1) 65535 := by
  rw [holdRaised, raise_keeps _ _ _ _ _ rfl, fget_satInc_same _ _ _ _ rfl, fset_keeps _ _ _ _ _ rfl, fget_setTile]
  rfl

/-! ## The next pass of the running task (R52, R54, R58) -/

/-- A tile under its thermal hold issues no pass. -/
theorem passStart_held {p sub : Nat} {s : State} (h : (tileOf p (thermalHold p s)).thermHold = true) :
    passStart p sub s = thermalHold p s := by
  simp only [passStart]
  split
  · rfl
  · exact if_pos (.inl h)

/-- Row group of the next pass of a context on a subarray, by the pass order (R54). -/
def nextGroup (c : Ctx) (sub : Nat) : Nat := nth 0 c.pos sub / max 1 c.vin.planes

/-- Its input plane. -/
def nextPlane (c : Ctx) (sub : Nat) : Nat := nth 0 c.pos sub % max 1 c.vin.planes

/-- The input plane of the next pass is zero on every enabled row, and zero planes are skipped (R58). -/
def passSkips (p sub : Nat) (c : Ctx) (s : State) : Bool :=
  planeZero ((tileOf p s).bank c.bank) c.vin sub (nextGroup c sub) (nextPlane c sub) &&
    decide (fget (tilePage p) Reg.TILE_ARRAY_CFG_SKIP_EN s = 1)

theorem passSkips_iff (p sub : Nat) (c : Ctx) (s : State) : passSkips p sub c s = true ↔
    driven ((tileOf p s).bank c.bank) c.vin sub (nextGroup c sub) (nextPlane c sub) = [] ∧
      fget (tilePage p) Reg.TILE_ARRAY_CFG_SKIP_EN s = 1 := by
  rw [passSkips, planeZero, Bool.and_eq_true, List.isEmpty_iff, decide_eq_true_eq]

/-- The running task `c` of a tile that is not held has a pass to issue on a subarray: one free of a pass in flight and of
calibration, with passes left, whose block of the input is not poisoned. -/
structure PassReady (p sub : Nat) (c : Ctx) (s : State) : Prop where
  cool : (tileOf p s).thermHold = false ∧ (sensorOf (regionOf p) s).temp ≤ 840
  runs : ((tileOf p s).cur.bind fun a => ctxOf (tileOf p s) a) = some c
  free : ((tileOf p s).sub (8 * bankNum c.bank + sub)).pass = none
  left : c.finished = false ∧ c.held = none ∧ nth 0 c.pos sub < 4 * c.vin.planes
  trimmed : ((tileOf p s).sub (8 * bankNum c.bank + sub)).calRun = none ∧
    (((tileOf p s).sub (8 * bankNum c.bank + sub)).calDue = true →
      ((tileOf p s).sub (8 * bankNum c.bank + sub)).calHard = false)
  clean : c.vin.poisonGroups.contains (sub % foldSubs ((tileOf p s).bank c.bank).fold * 4 + nextGroup c sub) = false

/-- The tile with the context's next pass in flight on a subarray. -/
def withPass (t : Tile) (c : Ctx) (sub : Nat) : Tile :=
  t.setSub (8 * bankNum c.bank + sub)
    { t.sub (8 * bankNum c.bank + sub) with pass := some ⟨c.age, nextGroup c sub, nextPlane c sub, false⟩ }

/-- The pass issued: it no longer waits for a calibration. -/
def passIssued (p sub : Nat) (c : Ctx) (s : State) : State :=
  fset (tilePage p) Reg.TILE_ARRAY_STAT_CAL_WAIT 0 (setTile p (withPass (tileOf p s) c sub) s)

/-- The pass counted as skipped, its subarray moved on. -/
def passSkipped (p sub : Nat) (c : Ctx) (s : State) : State :=
  wideInc (tilePage p) Reg.TILE_SKIP_CNT_LO_COUNT Reg.TILE_SKIP_CNT_HI_COUNT 1 (setCtx p (advance c sub) s)

/-- Past its checks a pass is skipped or issued. -/
theorem passStart_ready {p sub : Nat} {c : Ctx} {s : State} (h : PassReady p sub c s) :
    passStart p sub s = if passSkips p sub c s = true then passSkipped p sub c s else passIssued p sub c s := by
  obtain ⟨⟨hh, ht⟩, hc, hf, ⟨hfin, hheld, hleft⟩, ⟨hrun, hdue⟩, hclean⟩ := h
  have hgo : ¬ ((tileOf p s).thermHold = true ∨ ((tileOf p s).sub (8 * bankNum c.bank + sub)).pass ≠ none ∨
      c.finished = true ∨ c.held ≠ none ∨ 4 * c.vin.planes ≤ nth 0 c.pos sub) := by
    simp [hh, hf, hfin, hheld, Nat.not_le.mpr hleft]
  have hcal : ¬ (((tileOf p s).sub (8 * bankNum c.bank + sub)).calRun ≠ none ∨
      (((tileOf p s).sub (8 * bankNum c.bank + sub)).calDue = true ∧
        ((tileOf p s).sub (8 * bankNum c.bank + sub)).calHard = true)) := by
    rintro (k | ⟨k1, k2⟩)
    · exact k hrun
    · rw [hdue k1] at k2
      cases k2
  simp only [passStart, thermalHold_cool hh ht, hc, if_neg hgo, if_neg hcal]
  have hblock : ¬ c.vin.poisonGroups.contains (sub % foldSubs ((tileOf p s).bank c.bank).fold * 4 +
      nth 0 c.pos sub / max 1 c.vin.planes) = true := fun k => absurd (hclean.symm.trans k) (by decide)
  simp only [if_neg hblock, passSkips, Bool.and_eq_true, decide_eq_true_eq]
  rfl

theorem tileOf_passIssued (p sub : Nat) (c : Ctx) (s : State) :
    tileOf p (passIssued p sub c s) = withPass (tileOf p s) c sub := by
  rw [passIssued, tileOf_fset, tileOf_setTile]

theorem passIssued_only (p sub : Nat) (c : Ctx) (s : State) :
    Only [.tiles] [span (tilePage p) 0x104 0x104] s (passIssued p sub c s) :=
  ((setTile_only _ _ _).mono rfl).trans ((fset_at _ Reg.TILE_ARRAY_STAT_CAL_WAIT _ _ rfl).mono
    (by simp [within, Fld.inside, RegSpan.inside, span, Reg.TILE_ARRAY_STAT_CAL_WAIT]))

theorem passSkipped_only (p sub : Nat) (c : Ctx) (s : State) :
    Only [.tiles] [span (tilePage p) 0x148 0x14C] s (passSkipped p sub c s) :=
  ((setCtx_only _ _ _).mono rfl).trans ((wideInc_at _ 1 _ (a := 0x148) (b := 0x14C) rfl rfl (by decide) (by decide)).mono
    (by simp [within, Fld.inside, RegSpan.inside, span]))

theorem exec_passStart (tile : Fin 1056) (sub : Fin 8) (s : State) :
    exec (.passStart tile sub) s = .next (passStart tile.val sub.val s) := rfl

/-- Settles O21: above the hold temperature the hold is raised and is all that happens; below it the running task's next
pass is skipped or issued. -/
theorem passStarts : Obligations.PassStarts := by
  refine ⟨fun tile sub s hh ht => ?_, fun tile sub s a c u hh ht hcur hctx hu hp hrun hdue hfin hheld hleft hclean => ?_⟩
  · have htile := tileOf_holdRaised tile.val s
    have hstart : passStart tile.val sub.val s = holdRaised tile.val s := by
      rw [passStart_held (by rw [thermalHold_hot hh ht, htile]), thermalHold_hot hh ht]
    rw [exec_passStart, hstart, ← tilePage_val]
    exact ⟨_, rfl, holdRaised_event _ _, holdRaised_flag _ _, holdRaised_count _ _, by rw [htile], by rw [htile],
      by rw [htile]⟩
  · subst hu
    have hready : PassReady tile.val sub.val c s :=
      ⟨⟨hh, ht⟩, by rw [hcur]; exact hctx, hp, ⟨hfin, hheld, hleft⟩, ⟨hrun, hdue⟩, hclean⟩
    have hstart := passStart_ready hready
    rw [exec_passStart, ← tilePage_val]
    refine ⟨fun h => ?_, fun hd hs => ?_⟩
    · have hgo : ¬ passSkips tile.val sub.val c s = true := fun k => by
        obtain ⟨hd, hs⟩ := (passSkips_iff _ _ _ _).mp k
        exact h.elim (fun k => k hd) fun k => absurd (hs.symm.trans k) (by decide)
      rw [hstart, if_neg hgo]
      have htile := tileOf_passIssued tile.val sub.val c s
      refine ⟨_, rfl, ?_, fun i hi => ?_, passIssued_only _ _ _ _⟩
      · rw [htile, withPass, sub_setSub]
        rfl
      · rw [htile, withPass, sub_setSub_ne hi]
    · rw [hstart, if_pos ((passSkips_iff _ _ _ _).mpr ⟨hd, hs⟩)]
      refine ⟨_, rfl, ?_, ?_, passSkipped_only _ _ _ _⟩
      · rw [passSkipped, tileOf_wideInc, setCtx, tileOf_modTile]
      · rw [passSkipped, wideGet_wideInc _ _ _ _ _ rfl rfl rfl]
        rfl

/-- Tile 0 running a task of age 0 on bank A, whose row 0 is enabled, with these inputs of one plane, its sensor at `temp`
(0.125 °C units). -/
def passState (temp : Int) (elems : List Nat) : State :=
  setTile 0 { bankA := { rows := 1 }, cur := some 0, ctxs := [{
      age := 0, bank := false, ppr := [], act := [], vec := 0,
      vin := { elems := elems, planes := 1, signed := true, scale := 0, zp := 0, poisonGroups := [], bad := false },
      outOff := 0, inNext := 0, recNext := 0, pos := [], wrongs := [], rest := false, tot := {}, held := none, status := 0,
      finished := false, poison := false }] }
    { State.reset with sensors := [(0, { temp := temp })] }

/-- Slots that PassStarts speaks of, at the hold temperature and just above it: a pass issued, a zero plane skipped, the
hold raised. -/
theorem passes_at_the_hold_temperature :
    (∃ t, exec (.passStart 0 0) (passState 840 [1]) = .next t ∧ ((tileOf 0 t).sub 0).pass = some ⟨0, 0, 0, false⟩) ∧
    (∃ t, exec (.passStart 0 0) (passState 840 [0]) = .next t ∧
      wideGet (.tile 0) Reg.TILE_SKIP_CNT_LO_COUNT Reg.TILE_SKIP_CNT_HI_COUNT t = 1) ∧
    ∃ t, exec (.passStart 0 0) (passState 841 [1]) = .next t ∧ (tileOf 0 t).thermHold = true := by
  obtain ⟨hot, cool⟩ := passStarts
  have hc : ∀ elems, _ := fun elems => cool 0 0 (passState 840 elems) 0 _ {} rfl (Int.le_refl _) rfl rfl rfl rfl rfl
    (fun h => by cases h) rfl rfl (Nat.zero_lt_succ _) rfl
  obtain ⟨t, ht, hp, -⟩ := (hc [1]).1 (.inl (by decide))
  obtain ⟨u, hu, -, hk, -⟩ := (hc [0]).2 (by decide) rfl
  obtain ⟨v, hv, -, -, -, hh, -⟩ := hot 0 0 (passState 841 [1]) rfl (by decide)
  exact ⟨⟨t, ht, (congrArg Sub.pass hp).trans rfl⟩, ⟨u, hu, hk.trans rfl⟩, v, hv, hh⟩

end Sys2Proof.Machine
end

section
/-! SUPPORT. Bank writes (O18): the reasons to refuse a GO (R62), a refused write, and an accepted one (R61), whose bank the
sweep after it leaves as it is. -/

namespace Sys2Proof.Machine

/-! ## Work that leaves the banks of every tile -/

/-- Between two states no tile's bank has changed. -/
def SameBanks (s t : State) : Prop := ∀ q b, (tileOf q t).bank b = (tileOf q s).bank b

theorem SameBanks.trans {s t u : State} (h : SameBanks s t) (k : SameBanks t u) : SameBanks s u :=
  fun q b => (k q b).trans (h q b)

theorem Only.sameBanks {m : List Fld} {r : List RegSpan} {s t : State} (h : Only m r s t)
    (hm : Fld.inside m .tiles = false) : SameBanks s t := fun q _ => by rw [h.sameTile hm q]

theorem SameBanks.refl (s : State) : SameBanks s s := fun _ _ => rfl

theorem sameBanks_modTile (p : Nat) (f : Tile → Tile) (s : State)
    (h : ∀ b, (f (tileOf p s)).bank b = (tileOf p s).bank b) : SameBanks s (modTile p f s) := by
  intro q b
  by_cases hq : q = p
  · subst hq
    rw [tileOf_modTile, h]
  · rw [tileOf_modTile_ne hq]

theorem SameBanks.foldl {α : Type} {f : State → α → State} (h : ∀ s a, SameBanks s (f s a)) (l : List α) (s : State) :
    SameBanks s (l.foldl f s) :=
  fun q b => foldl_keeps (fun t => (tileOf q t).bank b) (fun t a => h t a q b) l s

theorem sameBanks_dropShadow (p : Nat) (d : Desc) (s : State) : SameBanks s (dropShadow p d s) := by
  unfold dropShadow
  split
  · exact sameBanks_modTile _ _ _ fun _ => rfl
  · exact SameBanks.refl s

theorem sameBanks_endTaskSignalled (p : Nat) (e : Entry) (status : W16) (s : State) :
    SameBanks s (endTaskSignalled p e status s) := by
  have hrec : ∀ t, SameBanks t (failRecorded p e status t) := fun t => by
    unfold failRecorded
    split
    · exact SameBanks.refl t
    · exact ((recordFail_only _ _ _ _).sameBanks rfl).trans ((poisonExtent_only _ _ _).sameBanks rfl)
  exact (((wideInc_any 0x410 0x414 _ _ _ 1 s rfl rfl rfl rfl).sameBanks rfl).trans (hrec _)).trans
    (SameBanks.foldl (fun t g => (sendSignal_only g t).sameBanks rfl) _ _)

/-- The end of a task touches the deque, the contexts and what runs, and no bank. -/
theorem sameBanks_endTaskCore (p : Nat) (e : Entry) (status : W16) (poison : Bool) (s : State) :
    SameBanks s (endTaskCore p e status poison s) :=
  (((((sameBanks_endTaskSignalled p e status s).trans ((send_only _ _).sameBanks rfl)).trans
    (sameBanks_modTile p _ _ fun _ => rfl)).trans ((returnCredit_only p e _).sameBanks rfl))).trans
    (sameBanks_dropShadow p e.d _)

theorem sameBanks_missEnds (p : Nat) (s : State) (e : Entry) : SameBanks s (missEnds p s e) :=
  (((satInc_any 0x15C _ _ 1 s rfl rfl).sameBanks rfl).trans ((raise_any _ 9 _).sameBanks rfl)).trans
    (sameBanks_endTaskCore p e _ _ _)

/-! ## The sweep's effect on a bank (R61) -/

/-- A WRITE_HELD bank that no context uses starts WRITING. -/
def releasedBank (t : Tile) (b : Bool) : Bank :=
  if (t.bank b).st = .writeHeld ∧ t.ctxs.all (fun c => decide (c.bank ≠ b)) then { t.bank b with st := .writing }
  else t.bank b

theorem releaseBank_same (t : Tile) (b : Bool) : (releaseBank t b).bank b = releasedBank t b := by
  unfold releaseBank releasedBank
  split
  · rw [bank_setBank]
  · rfl

theorem releaseBank_not (t : Tile) (b : Bool) : (releaseBank t b).bank (!b) = t.bank (!b) := by
  unfold releaseBank
  split
  · rw [bank_setBank_not]
  · rfl

theorem releaseBank_ctxs (t : Tile) (b : Bool) : (releaseBank t b).ctxs = t.ctxs := by
  unfold releaseBank
  split
  · cases b <;> rfl
  · rfl

theorem releaseHeld_bank (t : Tile) (b : Bool) : (releaseHeld t).bank b = releasedBank t b := by
  rw [releaseHeld_eq]
  cases b with
  | false => rw [show false = !true from rfl, releaseBank_not, show (!true) = false from rfl, releaseBank_same]
  | true =>
    rw [releaseBank_same, releasedBank, releasedBank, releaseBank_ctxs, show true = !false from rfl, releaseBank_not]

theorem settle_bank (p : Nat) (b : Bool) (s : State) : (tileOf p (settle p s)).bank b = releasedBank (tileOf p s) b := by
  rw [settle_eq, SameBanks.foldl (sameBanks_missEnds p), tileOf_setTile, ← releaseHeld_bank]
  cases b <;> rfl

theorem releasedBank_mem (t : Tile) (b : Bool) : (releasedBank t b).mem = (t.bank b).mem := by
  unfold releasedBank
  split <;> rfl

/-! ## A write of BANK_WR_CMD -/

/-- The command's fields are stored. -/
def cmdStored (p : Nat) (data : W32) (s : State) : State :=
  let g := tilePage p
  s |> fset g Reg.TILE_BANK_WR_CMD_BANK data.toNat |> fset g Reg.TILE_BANK_WR_CMD_WFMT (bitsOf data.toNat 1 2)
    |> fset g Reg.TILE_BANK_WR_CMD_FOLD (bitsOf data.toNat 3 2) |> fset g Reg.TILE_BANK_WR_CMD_ROWS (bitsOf data.toNat 8 8)

theorem cmdStored_at (p : Nat) (data : W32) (s : State) :
    Only [] [span (tilePage p) 0x134 0x134] s (cmdStored p data s) :=
  (((fset_at (tilePage p) Reg.TILE_BANK_WR_CMD_BANK _ s rfl).trans (fset_at _ Reg.TILE_BANK_WR_CMD_WFMT _ _ rfl)).trans
    (fset_at _ Reg.TILE_BANK_WR_CMD_FOLD _ _ rfl)).trans (fset_at _ Reg.TILE_BANK_WR_CMD_ROWS _ _ rfl)

theorem bit0 (data : W32) : decide (bitsOf data.toNat 0 1 = 1) = data.getLsbD 0 := by
  rw [BitVec.getLsbD, Nat.testBit_eq_decide_div_mod_eq]
  rfl

/-- What a GO does once the command's fields are stored: refused, or the bank starts its write under the tag written
before it. -/
def bankGo (w : Wr) (p : Nat) (data : W32) (s : State) : State :=
  let wset := fget (tilePage p) Reg.TILE_BANK_WR_TAG_WSET s
  let mep := fget (tilePage p) Reg.TILE_BANK_WR_TAG_MEPOCH s
  let r := bankWriteReason p (data.getLsbD 0) wset mep (bitsOf data.toNat 8 8) s
  if r ≠ 0 then writeReject p r w.mid s
  else startBankWrite p (data.getLsbD 0) (BitVec.ofNat 16 wset) (BitVec.ofNat 16 mep)
    (BitVec.ofNat 2 (bitsOf data.toNat 1 2)) (BitVec.ofNat 2 (bitsOf data.toNat 3 2)) (bitsOf data.toNat 8 8)
    (BitVec.ofNat 8 (fget (tilePage p) Reg.TILE_TBL_WR_BASE_BASE s)) s

theorem bankWriteCmd_go (w : Wr) (p : Nat) {data : W32} (s : State) (h : data.getLsbD 31 = true) :
    bankWriteCmd w p data s = bankGo w p data (cmdStored p data s) := by
  have hgo : ¬ bitsOf data.toNat 31 1 = 0 := fun k => by rw [(getLsbD_31 data).mp k] at h; cases h
  rw [bankGo, ← bit0]
  exact if_neg hgo

/-! ## The reasons to refuse (R62) -/

theorem bankWriteReason_le (p : Nat) (bank : Bool) (wset mepoch rows : Nat) (s : State) :
    bankWriteReason p bank wset mepoch rows s ≤ 4 := by
  simp only [bankWriteReason]
  split_ifs <;> decide

/-- The reason is the first of the table's conditions that holds, 0 for none. -/
theorem bankWriteReason_eq (p : Nat) (bank : Bool) (wset mepoch rows : Nat) (s : State) :
    bankWriteReason p bank wset mepoch rows s =
      (((bankRefusals p bank wset mepoch rows s).findIdx? id).map (· + 1)).getD 0 := by
  simp only [bankWriteReason, bankRefusals]
  split_ifs with h1 h2 h3 h4
  · rw [decide_eq_true h1]
    rfl
  · rw [decide_eq_false h1, decide_eq_true (and_rotate.mpr h2)]
    rfl
  · have h3' := (Bool.or_eq_true _ _).mpr (h3.imp_left decide_eq_true)
    rw [decide_eq_false h1, decide_eq_false (mt and_rotate.mp h2), h3']
    rfl
  · have h3' := Bool.or_eq_false_iff.mpr ((not_or.mp h3).imp decide_eq_false Bool.eq_false_iff.mpr)
    rw [decide_eq_false h1, decide_eq_false (mt and_rotate.mp h2), h3', decide_eq_true h4.symm]
    rfl
  · have h3' := Bool.or_eq_false_iff.mpr ((not_or.mp h3).imp decide_eq_false Bool.eq_false_iff.mpr)
    rw [decide_eq_false h1, decide_eq_false (mt and_rotate.mp h2), h3', decide_eq_false (mt Or.symm h4)]
    rfl

theorem bankRefusals_congr {p : Nat} {s t : State} (bank : Bool) (wset mepoch rows : Nat)
    (ht : tileOf p t = tileOf p s) (hf : fenced (tilePage p) t = fenced (tilePage p) s) :
    bankRefusals p bank wset mepoch rows t = bankRefusals p bank wset mepoch rows s := by
  simp only [bankRefusals, ht, hf]

theorem bankGo_refused {w : Wr} {p : Nat} {data : W32} {s : State} {i : Nat}
    (h : (bankRefusals p (data.getLsbD 0) (fget (tilePage p) Reg.TILE_BANK_WR_TAG_WSET s)
      (fget (tilePage p) Reg.TILE_BANK_WR_TAG_MEPOCH s) (bitsOf data.toNat 8 8) s).findIdx? id = some i) :
    bankGo w p data s = writeReject p (i + 1) w.mid s ∧ i + 1 ≤ 4 := by
  have hr := bankWriteReason_eq p (data.getLsbD 0) (fget (tilePage p) Reg.TILE_BANK_WR_TAG_WSET s)
    (fget (tilePage p) Reg.TILE_BANK_WR_TAG_MEPOCH s) (bitsOf data.toNat 8 8) s
  rw [h] at hr
  have hr : bankWriteReason p (data.getLsbD 0) (fget (tilePage p) Reg.TILE_BANK_WR_TAG_WSET s)
    (fget (tilePage p) Reg.TILE_BANK_WR_TAG_MEPOCH s) (bitsOf data.toNat 8 8) s = i + 1 := hr
  exact ⟨by simp only [bankGo, hr]; exact if_pos (Nat.succ_ne_zero i), hr ▸ bankWriteReason_le _ _ _ _ _ _⟩

/-- A refused GO leaves its reason and its sender. -/
theorem writeReject_rejected (p : Nat) {reason : Nat} (mid : W16) (s : State) (h : reason < 16) :
    WriteRejected p reason mid s (writeReject p reason mid s) := by
  refine ⟨?_, ?_, eventSet_raise (tilePage p) 10 _ rfl (by decide),
    (writeReject_only _ _ _ _).parts .tiles (by decide) (by decide)⟩
  · rw [writeReject, raise_keeps _ _ _ _ _ rfl, fset_keeps _ _ _ _ _ rfl, fset_reads _ _ _ _ rfl]
    exact Nat.mod_eq_of_lt h
  · rw [writeReject, raise_keeps _ _ _ _ _ rfl, fset_reads _ _ _ _ rfl]
    exact Nat.mod_eq_of_lt mid.isLt

theorem writeReject_page (p reason : Nat) (mid : W16) (s : State) :
    Only [.heldOut, .out] [span (tilePage p) 0x018 0x018, span (tilePage p) 0x138 0x138] s
      (writeReject p reason mid s) :=
  ((((fset_at (tilePage p) Reg.TILE_WR_REJECT_REASON _ s rfl).trans (fset_at _ Reg.TILE_WR_REJECT_MID _ _ rfl))).mono
    (by simp [within, Fld.inside, RegSpan.inside, span, Reg.TILE_WR_REJECT_REASON])).trans ((raise_at _ 10 _ rfl).mono
    (by simp [within, Fld.inside, RegSpan.inside, span]))

/-! ## An accepted GO (R61) -/

/-- The bank after an accepted GO, whose configuration is `k`: the sweep leaves it, since a bank that a task uses is held and
any other one is WRITING already. -/
theorem startBankWrite_bank (p : Nat) (b : Bool) (wset mepoch : W16) (wfmt fold : BitVec 2) (rows : Nat) (tbl : Byte)
    (s : State) : (tileOf p (startBankWrite p b wset mepoch wfmt fold rows tbl s)).bank b =
      { st := if ((tileOf p s).ctxs.any fun c => decide (c.bank = b)) = true then .writeHeld else .writing, wset := wset,
        mepoch := mepoch, wfmt := wfmt, fold := fold, rows := rows, tbl := tbl } := by
  have hctx : ∀ k, ((tileOf p s).setBank b k).ctxs = (tileOf p s).ctxs := fun k => by cases b <;> rfl
  rw [startBankWrite, settle_bank, tileOf_setTile, releasedBank, hctx, bank_setBank]
  refine if_neg fun h => ?_
  obtain ⟨hst, hall⟩ := h
  have hbusy : ((tileOf p s).ctxs.any fun c => decide (c.bank = b)) = false :=
    List.any_eq_false.mpr fun c hc => by simpa using List.all_eq_true.mp hall c hc
  simp [hbusy] at hst

/-- The tile's other bank keeps its rows. -/
theorem startBankWrite_other_mem (p : Nat) (b : Bool) (wset mepoch : W16) (wfmt fold : BitVec 2) (rows : Nat) (tbl : Byte)
    (s : State) : ((tileOf p (startBankWrite p b wset mepoch wfmt fold rows tbl s)).bank (!b)).mem =
      ((tileOf p s).bank (!b)).mem := by
  rw [startBankWrite, settle_bank, releasedBank_mem, tileOf_setTile, bank_setBank_not]

/-! ## The command -/

/-- The state in which an admitted command is judged. -/
def goState (w : Wr) (tile : Fin 1056) (data : W32) (s : State) : State :=
  cmdStored tile.val data (opened w (tilePage tile.val) s)

theorem exec_bankWriteCommand {w : Wr} {tile : Fin 1056} {data : W32} {s : State} (ha : Admitted w (.tile tile) 0x134 s)
    (hg : data.getLsbD 31 = true) :
    exec (.bankWriteCommand w tile data) s = .next (bankGo w tile.val data (goState w tile data s)) := by
  show Host.Outcome.next (guarded w (.tile tile) 0x134 (bankWriteCmd w tile.val data) s) = _
  rw [guarded_opened ha, bankWriteCmd_go _ _ _ hg, ← tilePage_val]
  rfl

theorem goState_at (w : Wr) (tile : Fin 1056) (data : W32) (s : State) :
    Only [] [span (tilePage tile.val) 0x02C 0x02C, span (tilePage tile.val) 0x134 0x134] s (goState w tile data s) :=
  ((opened_at w _ s).mono (by simp [within, RegSpan.inside, span])).trans
    ((cmdStored_at _ data _).mono (by simp [within, RegSpan.inside, span]))

theorem tileOf_goState (w : Wr) (tile : Fin 1056) (data : W32) (q : Nat) (s : State) :
    tileOf q (goState w tile data s) = tileOf q s := (goState_at w tile data s).sameTile rfl q

/-- The tag and the table base are those of registers the command does not write. -/
theorem goState_tag (w : Wr) (tile : Fin 1056) (data : W32) (s : State) :
    fget (tilePage tile.val) Reg.TILE_BANK_WR_TAG_WSET (goState w tile data s) =
        fget (.tile tile) Reg.TILE_BANK_WR_TAG_WSET s ∧
      fget (tilePage tile.val) Reg.TILE_BANK_WR_TAG_MEPOCH (goState w tile data s) =
        fget (.tile tile) Reg.TILE_BANK_WR_TAG_MEPOCH s ∧
      fget (tilePage tile.val) Reg.TILE_TBL_WR_BASE_BASE (goState w tile data s) =
        fget (.tile tile) Reg.TILE_TBL_WR_BASE_BASE s := by
  have h := goState_at w tile data s
  rw [← tilePage_val]
  exact ⟨h.fget _ _ rfl rfl rfl, h.fget _ _ rfl rfl rfl, h.fget _ _ rfl rfl rfl⟩

theorem goState_refusals (w : Wr) (tile : Fin 1056) (data : W32) (s : State) :
    bankRefusals tile.val (data.getLsbD 0)
        (fget (tilePage tile.val) Reg.TILE_BANK_WR_TAG_WSET (goState w tile data s))
        (fget (tilePage tile.val) Reg.TILE_BANK_WR_TAG_MEPOCH (goState w tile data s)) (bitsOf data.toNat 8 8)
        (goState w tile data s) =
      bankRefusals tile.val (data.getLsbD 0) (fget (.tile tile) Reg.TILE_BANK_WR_TAG_WSET s)
        (fget (.tile tile) Reg.TILE_BANK_WR_TAG_MEPOCH s) (bitsOf data.toNat 8 8) s := by
  obtain ⟨hw, hm, -⟩ := goState_tag w tile data s
  rw [hw, hm]
  exact bankRefusals_congr _ _ _ _ (tileOf_goState w tile data _ s)
    (fenced_congr ((goState_at w tile data s).fget _ _ rfl rfl rfl))

/-- Settles O18: a GO is refused by the table's first reason, or starts the write of its bank. -/
theorem bankWrites : Obligations.BankWrites := by
  refine ⟨fun w tile data s i ha hg hi => ?_, fun w tile data s ha hg hn => ?_⟩
  · rw [← goState_refusals w tile data s] at hi
    obtain ⟨hgo, hle⟩ := bankGo_refused (w := w) hi
    have hat := goState_at w tile data s
    obtain ⟨hr, hm, he, ht⟩ := writeReject_rejected tile.val w.mid (goState w tile data s) (show i + 1 < 16 by omega)
    refine ⟨_, (exec_bankWriteCommand ha hg).trans (congrArg _ hgo), ⟨hr, hm, he, ht.trans ?_⟩, ?_⟩
    · exact hat.parts .tiles (by decide) (by decide)
    · rw [← tilePage_val]
      exact (hat.mono (by simp [within, RegSpan.inside, span])).trans ((writeReject_page _ _ _ _).mono
        (by simp [within, Fld.inside, RegSpan.inside, span]))
  · rw [← goState_refusals w tile data s] at hn
    have hzero := bankWriteReason_eq tile.val (data.getLsbD 0)
      (fget (tilePage tile.val) Reg.TILE_BANK_WR_TAG_WSET (goState w tile data s))
      (fget (tilePage tile.val) Reg.TILE_BANK_WR_TAG_MEPOCH (goState w tile data s)) (bitsOf data.toNat 8 8)
      (goState w tile data s)
    rw [List.findIdx?_eq_none_iff.mpr fun x hx => by simpa using List.all_eq_true.mp hn x hx, Option.map_none,
      Option.getD_none] at hzero
    obtain ⟨hw, hm, hb⟩ := goState_tag w tile data s
    refine ⟨_, exec_bankWriteCommand ha hg, ?_⟩
    rw [bankGo, if_neg (not_not.mpr hzero), startBankWrite_bank, startBankWrite_other_mem, tileOf_goState, hw, hm, hb]
    exact ⟨rfl, rfl⟩

/-- Commands that BankWrites speaks of, at the largest ROWS and one beyond: from control complex north with the device
ready and bank A of tile 0 empty. -/
theorem bank_writes_at_the_last_row :
    (∃ t, exec (.bankWriteCommand ccWr 0 0x80008000) { State.reset with phase := .ready } = .next t ∧
      ((tileOf 0 t).bank false).st = .writing ∧ ((tileOf 0 t).bank false).rows = 128) ∧
    ∃ t, exec (.bankWriteCommand ccWr 0 0x80008100) { State.reset with phase := .ready } = .next t ∧
      fget (.tile 0) Reg.TILE_WR_REJECT_REASON t = 1 := by
  obtain ⟨hrefused, haccepted⟩ := bankWrites
  have ha : Admitted ccWr (.tile 0) 0x134 { State.reset with phase := .ready } :=
    ⟨rfl, rfl, rfl, rfl, fun _ _ => by decide⟩
  obtain ⟨t, ht, hb, -⟩ := haccepted ccWr 0 0x80008000 _ ha rfl rfl
  obtain ⟨u, hu, ⟨hr, -⟩, -⟩ := hrefused ccWr 0 0x80008100 _ 0 ha rfl rfl
  exact ⟨⟨t, ht, (congrArg Bank.st hb).trans rfl, (congrArg Bank.rows hb).trans rfl⟩, u, hu, hr⟩

end Sys2Proof.Machine
end

section
/-! SUPPORT. Selection and ends of tasks (O32): the end of a task and its events, a CIM task's start on its bank (R66, R145),
the vector unit's choice and ends (R104, R141, R147), statistics (R97). -/

namespace Sys2Proof.Machine

/-! ## Ends of tasks -/

theorem grows_endTask (p : Nat) (e : Entry) (status : W16) (poison : Bool) (s : State) :
    Grows s (endTask p e status poison s) :=
  ((grows_endTaskCore p e status poison s).trans (grows_settle p _)).trans (grows_drainSpill _ p _)

/-- A task that ends after work which wrote no control complex's page. -/
theorem endTask_after {m : List Fld} {r : List RegSpan} {s t : State} (h : Only m r s t) (hm : Fld.inside m .regs = false)
    (hr : offType 0x10 r = true) (p : Nat) (e : Entry) (status : W16) (poison : Bool) :
    TaskEnded e.d status poison s (endTask p e status poison t) :=
  (endTask_ends p e status poison t).of_ccFor (h.ccFor e.d.cch hm hr)

/-- An event raised before a task ends stays. -/
theorem endTask_raised (p : Nat) (e : Entry) (status : W16) (poison : Bool) (i : Nat) (s : State) (hi : i < 32) :
    eventSet (tilePage p) i (endTask p e status poison (raise (tilePage p) i s)) = true :=
  (grows_endTask p e status poison _).2 _ _ (eventSet_raise (tilePage p) i s rfl hi)

/-! ## The vector unit's choice (R104, R147) -/

/-- The best-ranked READY vector task of an idle unit is denied, failed or run. -/
theorem selectVector_best {p : Nat} {s : State} {e : Entry} (hv : (tileOf p s).vec = none)
    (hb : bestOf s (candidates (tileOf p s) .vector) = some e) :
    selectVector p s =
      if e.d.kind = 2 ∧ e.d.cls = 0 then endTask p e 0x0024 false s
      else if rangePoison e.d.auxRef.toNat 64 s = true then endTask p e 0x0063 false s
      else modTile p (fun t => { t with vec := some (e.age, s.timer) })
        (modEntry p e.age (fun x => { x with st := .running }) s) := by
  simp only [selectVector, hv, hb, ne_eq, not_true_eq_false, if_false]

theorem exec_taskSelect_vector {tile : Fin 1056} {s : State} (h : selects tile.val s = true) :
    exec (.taskSelect tile .vector) s = .next (selectVector tile.val s) := if_pos h

theorem exec_taskSelect_array {tile : Fin 1056} {s : State} (h : selects tile.val s = true) :
    exec (.taskSelect tile .array) s = .next (selectArray tile.val s) := if_pos h

/-! ## A CIM task starts (R66, R99, R145) -/

/-- The array's task, its selected bank and its banks are the same. -/
def SameArray (t u : Tile) : Prop := u.cur = t.cur ∧ u.selBank = t.selBank ∧ ∀ b, u.bank b = t.bank b

/-- As a vector begins, what changes of the tile is its context alone. -/
theorem beginVector_sameArray (p : Nat) (d : Desc) (c : Ctx) (s : State) :
    SameArray (tileOf p s) (tileOf p (beginVector p d c s)) := by
  have hctx : ∀ c' t, tileOf p t = tileOf p s → SameArray (tileOf p s) (tileOf p (setCtx p c' t)) := by
    intro c' t ht
    rw [setCtx, tileOf_modTile, ht]
    exact ⟨rfl, rfl, fun _ => rfl⟩
  unfold beginVector
  extract_lets g b blocks addr vin0 c1 st c2 s1 s2
  have h1 : tileOf p s1 = tileOf p s := by
    simp only [s1]
    split
    · exact (recordSkew_only _ _ _ _ _ _).sameTile rfl p
    · rfl
  have h2 : tileOf p s2 = tileOf p s := by
    simp only [s2]
    split
    · exact (tileOf_raise _ _ _ _).trans h1
    · exact h1
  split
  · exact hctx _ _ rfl
  split
  · exact hctx _ _ (((rangeDenied_only _ _ _).sameTile rfl p).trans h2)
  split
  · exact hctx _ _ h2
  split
  · exact hctx _ _ h2
  · exact hctx _ _ h2

/-- The context of a task that starts: nothing of it is staged yet. -/
def freshCtx (e : Entry) (bank : Bool) (r : List W32 × List Byte) : Ctx :=
  { age := e.age, bank := bank, ppr := r.1, act := r.2, vec := 0,
    vin := { elems := [], planes := 0, signed := true, scale := 0, zp := 0, poisonGroups := [], bad := true }, outOff := 0,
    inNext := 0, recNext := 0, pos := [], wrongs := [], rest := false, tot := {}, held := none, status := 0,
    finished := false, poison := false }

/-- The array on the bank of a task that starts, before its first vector. -/
def bankTaken (p : Nat) (e : Entry) (bank : Bool) (r : List W32 × List Byte) (s : State) : State :=
  let t := tileOf p s
  let s := if t.ranBefore = true ∧ t.selBank ≠ bank then wrapInc (tilePage p) Reg.TILE_FLIP_CNT_COUNT 1 s else s
  let s := setTile p
    { t with ctxs := t.ctxs ++ [freshCtx e bank r], cur := some e.age, selBank := bank, ranBefore := true } s
  let s := modTile p (fun t => t.setBank bank { t.bank bank with ran := true }) s
  fset (tilePage p) Reg.TILE_ARRAY_STAT_SEL_BANK (bankNum bank) (modEntry p e.age (fun x => { x with st := .running }) s)

theorem startArray_runs {p : Nat} {e : Entry} {s : State} {r : List W32 × List Byte} (bank : Bool)
    (hr : readRecord p e.d s = .ok r) :
    startArray p e bank s = noteRunning p (beginVector p e.d (freshCtx e bank r) (bankTaken p e bank r s)) := by
  simp only [startArray, hr]
  rfl

theorem bankTaken_tile (p : Nat) (e : Entry) (bank : Bool) (r : List W32 × List Byte) (s : State) :
    (tileOf p (bankTaken p e bank r s)).cur = some e.age ∧ (tileOf p (bankTaken p e bank r s)).selBank = bank ∧
      ((tileOf p (bankTaken p e bank r s)).bank bank).ran = true := by
  simp only [bankTaken, tileOf_fset, modEntry, tileOf_modTile, tileOf_setTile]
  cases bank <;> exact ⟨rfl, rfl, rfl⟩

theorem bankTaken_flips (p : Nat) (e : Entry) (bank : Bool) (r : List W32 × List Byte) (s : State) :
    fget (tilePage p) Reg.TILE_FLIP_CNT_COUNT (bankTaken p e bank r s) =
      if (tileOf p s).ranBefore = true ∧ (tileOf p s).selBank ≠ bank
      then (fget (tilePage p) Reg.TILE_FLIP_CNT_COUNT s + 1) % 2 ^ 32 else fget (tilePage p) Reg.TILE_FLIP_CNT_COUNT s := by
  simp only [bankTaken]
  rw [fset_keeps _ _ _ _ _ rfl, fget_modEntry, fget_modTile, fget_setTile]
  split
  · exact fset_reads _ _ _ _ rfl
  · rfl

theorem bankTaken_selBank (p : Nat) (e : Entry) (bank : Bool) (r : List W32 × List Byte) (s : State) :
    fget (tilePage p) Reg.TILE_ARRAY_STAT_SEL_BANK (bankTaken p e bank r s) = bankNum bank := by
  simp only [bankTaken]
  rw [fset_reads _ _ _ _ rfl]
  cases bank <;> rfl

/-- RUNNING shows that the array has a task. -/
theorem noteRunning_running {p : Nat} {s : State} {a : Nat} (h : (tileOf p s).cur = some a) :
    fget (tilePage p) Reg.TILE_ARRAY_STAT_RUNNING (noteRunning p s) = 1 := by
  simp only [noteRunning, h]
  rw [fset_keeps _ _ _ _ _ rfl, fset_reads _ _ _ _ rfl]
  rfl

theorem noteRunning_keeps (p : Nat) (f : Field) (s : State)
    (h1 : (fieldOk f && fieldOk Reg.TILE_ARRAY_STAT_RUNNING && fieldsApart f Reg.TILE_ARRAY_STAT_RUNNING) = true)
    (h2 : (fieldOk f && fieldOk Reg.TILE_PP_STAT_RUNNING && fieldsApart f Reg.TILE_PP_STAT_RUNNING) = true) :
    fget (tilePage p) f (noteRunning p s) = fget (tilePage p) f s := by
  rw [noteRunning, fset_keeps _ _ _ _ _ h2, fset_keeps _ _ _ _ _ h1]

/-- The array takes a task whose bank is ready for it, when it runs none and none is suspended. -/
theorem selectArray_takes {p : Nat} {s : State} {e : Entry} {b : Bool} (hsweep : (tileOf p s).sweep = none)
    (hcur : (tileOf p s).cur = none) (hb : bestOf s (candidates (tileOf p s) .array) = some e)
    (hsusp : bestOf s ((tileOf p s).deque.filter fun x => decide (x.st = .suspended)) = none)
    (hst : standing (tileOf p s) e.d = .runs b) (howed : sweepOwed p ((tileOf p s).bank b) s = false) :
    selectArray p s = startArray p e b s := by
  simp only [selectArray, hsweep, hcur, arrayTake, hb, hsusp, hst, howed, ne_eq, not_true_eq_false, Bool.false_eq_true,
    if_false]

/-- What the tile and its registers show of a task that has started on a bank. -/
theorem startArray_effect {p : Nat} {e : Entry} {s : State} {r : List W32 × List Byte} (b : Bool)
    (hr : readRecord p e.d s = .ok r) :
    (tileOf p (startArray p e b s)).cur = some e.age ∧ (tileOf p (startArray p e b s)).selBank = b ∧
      ((tileOf p (startArray p e b s)).bank b).ran = true ∧
      fget (tilePage p) Reg.TILE_ARRAY_STAT_SEL_BANK (startArray p e b s) = bankNum b ∧
      fget (tilePage p) Reg.TILE_ARRAY_STAT_RUNNING (startArray p e b s) = 1 ∧
      fget (tilePage p) Reg.TILE_FLIP_CNT_COUNT (startArray p e b s) =
        (if (tileOf p s).ranBefore = true ∧ (tileOf p s).selBank ≠ b
          then (fget (tilePage p) Reg.TILE_FLIP_CNT_COUNT s + 1) % 2 ^ 32
          else fget (tilePage p) Reg.TILE_FLIP_CNT_COUNT s) := by
  obtain ⟨hcur, hsel, hran⟩ := bankTaken_tile p e b r s
  obtain ⟨kcur, ksel, kbank⟩ := beginVector_sameArray p e.d (freshCtx e b r) (bankTaken p e b r s)
  have hbegin := beginVector_only p e.d (freshCtx e b r) (bankTaken p e b r s)
  rw [startArray_runs b hr, (noteRunning_only p _).sameTile rfl p, kbank]
  refine ⟨kcur.trans hcur, ksel.trans hsel, hran, ?_, noteRunning_running (kcur.trans hcur), ?_⟩
  · rw [noteRunning_keeps _ _ _ rfl rfl, hbegin.fget _ _ rfl rfl rfl, bankTaken_selBank]
  · rw [noteRunning_keeps _ _ _ rfl rfl, hbegin.fget _ _ rfl rfl rfl, bankTaken_flips]

/-! ## Ends on the vector unit (R141, R147) -/

theorem exec_taskEnd_vector {tile : Fin 1056} {s : State} {v : Nat × Nat} {e : Entry} (r : KernelResult)
    (hv : (tileOf tile.val s).vec = some v) (he : entryOf (tileOf tile.val s) v.1 = some e) :
    exec (.taskEnd tile .vector r) s = .next (endVector tile.val e r s) := by
  show execTaskEnd tile .vector r s = _
  simp only [execTaskEnd, hv, he]

/-- A kernel's exceptions counted and raised. -/
def excCounted (p : Nat) (r : KernelResult) (s : State) : State :=
  if 0 < r.nans + r.ovfs then
    raise (tilePage p) 19 (satInc (tilePage p) Reg.TILE_VEC_EXC_CNT_OVF r.ovfs
      (satInc (tilePage p) Reg.TILE_VEC_EXC_CNT_NAN r.nans s))
  else s

theorem excCounted_only (p : Nat) (r : KernelResult) (s : State) :
    Only [.heldOut, .out] [(0x20, 0x18, 0x18), (0x20, 0x244, 0x244)] s (excCounted p r s) := by
  unfold excCounted
  split
  · exact (((satInc_only 0x20 0x244 _ _ _ _ rfl rfl rfl rfl).mono rfl).trans
      ((satInc_only 0x20 0x244 _ _ _ _ rfl rfl rfl rfl).mono rfl)).trans ((raise_only 0x20 _ _ _ rfl rfl).mono rfl)
  · exact Only.refl _ _ _

theorem excCounted_event (p : Nat) (r : KernelResult) (s : State) (h : 0 < r.nans + r.ovfs) :
    eventSet (tilePage p) 19 (excCounted p r s) = true := by
  rw [excCounted, if_pos h]
  exact eventSet_raise (tilePage p) 19 _ rfl (by decide)

theorem endVector_failed {p : Nat} {r : KernelResult} (e : Entry) (s : State) (h : r.status ≠ 0) :
    endVector p e r s = endTask p e r.status false (excCounted p r s) := if_pos h

/-- A kernel without output writes and tuning steps ends with status 0. -/
theorem endVector_plain {p : Nat} {r : KernelResult} {e : Entry} (s : State) (h : r.status = 0) (hw : r.writes = [])
    (hk : e.d.kind ≠ 2) : endVector p e r s = endTask p e 0 false (excCounted p r s) := by
  simp only [endVector, h, hw, List.foldl_nil, ne_eq, not_true_eq_false, if_false]
  exact if_pos (.inl hk)

theorem exec_timeLimit {tile : Fin 1056} {s : State} {v : Nat × Nat} {e : Entry} (hv : (tileOf tile.val s).vec = some v)
    (he : entryOf (tileOf tile.val s) v.1 = some e) :
    exec (.timeLimit tile) s = .next (endTask tile.val e 0x0027 false (raise (tilePage tile.val) 31 s)) := by
  show execTimeLimit tile s = _
  simp only [execTimeLimit, hv, he, tilePage_val]

/-! ## The end on the array (R97, R141) -/

/-- A CIM task's statistics, left where its output was requantised. -/
def statsLeft (p : Nat) (c : Ctx) (s : State) : State :=
  if c.status = 0 ∧ pprMode c.ppr ∈ [1, 2, 3] then storeStats p c s else s

theorem arrayEnd_finished {p : Nat} {s : State} {a : Nat} {c : Ctx} {e : Entry} (ha : (tileOf p s).cur = some a)
    (hc : ctxOf (tileOf p s) a = some c) (he : entryOf (tileOf p s) c.age = some e) (hf : c.finished = true) :
    arrayEnd p s = noteRunning p (endTask p e c.status c.poison (statsLeft p c s)) := by
  simp only [arrayEnd, ha, Option.bind_some, hc, he, hf, Bool.true_eq_false, if_false]
  rfl

theorem statsLeft_only (p : Nat) (c : Ctx) (s : State) :
    Only [.sram, .sramPoison] [(0x20, 0x220, 0x22C)] s
      (statsLeft p c s) := by
  unfold statsLeft
  split
  · exact (storeStats_only p c s).mono rfl
  · exact Only.refl _ _ _

theorem statsLeft_count (p : Nat) {c : Ctx} (s : State) (h : c.status = 0) (hm : pprMode c.ppr ∈ [1, 2, 3]) :
    fget (tilePage p) Reg.TILE_LAST_STATS_COUNT_COUNT (statsLeft p c s) = c.tot.count % 2 ^ 32 := by
  rw [statsLeft, if_pos ⟨h, hm⟩]
  unfold storeStats
  extract_lets g t s1
  have h1 : fget (tilePage p) Reg.TILE_LAST_STATS_COUNT_COUNT s1 = c.tot.count % 2 ^ 32 := by
    simp only [s1, g, t]
    rw [fset_keeps _ _ _ _ _ rfl, fset_keeps _ _ _ _ _ rfl, fset_keeps _ _ _ _ _ rfl, fset_reads _ _ _ _ rfl]
    rfl
  split
  · exact ((sramWrite_only _ _ _ _).fget _ _ rfl rfl rfl).trans h1
  · exact h1

/-- Neither the end of a task nor RUNNING writes LAST_STATS. -/
theorem ended_lastCount (p : Nat) (e : Entry) (status : W16) (poison : Bool) (s : State) :
    fget (tilePage p) Reg.TILE_LAST_STATS_COUNT_COUNT (noteRunning p (endTask p e status poison s)) =
      fget (tilePage p) Reg.TILE_LAST_STATS_COUNT_COUNT s :=
  (noteRunning_keeps p _ _ rfl rfl).trans ((endTask_only _ _ _ _ _).fget _ _ rfl rfl rfl)

theorem grows_noteRunning (p : Nat) (s : State) : Grows s (noteRunning p s) :=
  Grows.of_only (noteRunning_only p s) rfl rfl rfl

/-- Settles O32: each clause is one branch of the selection or of the end, and every end sends its TASK_END through
`endTask`. -/
theorem taskSelection : Obligations.TaskSelection := by
  refine ⟨fun tile unit s h => ?_, fun tile s e hs hv hb hk hp => ?_, fun tile s e hs hv hb hk hc => ?_,
    fun tile s e b r hs hsweep hcur hb hsusp hst howed hr => ?_, fun tile r s v e hv he hst => ?_,
    fun tile r s v e hv he hst hw hk => ?_, fun tile r s a c e ha hc he hf => ?_, fun tile s v e hv he => ?_,
    fun tile s hv => ?_⟩
  · exact if_neg (by rw [h]; decide)
  · have hsel := selectVector_best hv hb
    rw [if_neg hk, if_neg (by rw [hp]; decide)] at hsel
    refine ⟨_, exec_taskSelect_vector hs, ?_⟩
    rw [hsel, tileOf_modTile, modEntry, tileOf_modTile]
    exact ⟨rfl, rfl, (modTile_only _ _ _).trans (modTile_only _ _ _)⟩
  · have hsel := selectVector_best hv hb
    rw [if_pos ⟨hk, hc⟩] at hsel
    exact ⟨_, exec_taskSelect_vector hs, hsel ▸ endTask_ends _ _ _ _ _⟩
  · refine ⟨_, exec_taskSelect_array hs, ?_⟩
    rw [selectArray_takes hsweep hcur hb hsusp hst howed, ← tilePage_val]
    exact startArray_effect b hr
  · refine ⟨_, exec_taskEnd_vector r hv he, ?_⟩
    rw [endVector_failed e s hst, ← tilePage_val]
    exact ⟨endTask_after (excCounted_only _ r s) rfl rfl _ _ _ _,
      fun hx => (grows_endTask _ _ _ _ _).2 _ _ (excCounted_event _ r s hx)⟩
  · refine ⟨_, exec_taskEnd_vector r hv he, ?_⟩
    rw [endVector_plain s hst hw hk]
    exact endTask_after (excCounted_only _ r s) rfl rfl _ _ _ _
  · refine ⟨_, congrArg Host.Outcome.next (arrayEnd_finished ha hc he hf), ?_, fun h hm => ?_⟩
    · exact (endTask_after (statsLeft_only _ c s) rfl rfl _ _ _ _).grows (grows_noteRunning _ _)
    · rw [← tilePage_val, ended_lastCount, statsLeft_count _ s h hm]
  · refine ⟨_, exec_timeLimit hv he, endTask_after (raise_only 0x20 _ _ _ rfl rfl) rfl rfl _ _ _ _, ?_⟩
    rw [← tilePage_val]
    exact endTask_raised _ _ _ _ _ _ (by decide)
  · show execTimeLimit tile s = _
    simp only [execTimeLimit, hv]

/-- A task of an age, READY, of a kind and CLASS 0. -/
def readyTask (kind age : Nat) : Entry :=
  ⟨descOf fun i => if i = 0 then kind else 0, .ready, .posted, .north, age, 0, none⟩

/-- Tile 0, ON, with a READY bank A, a post-processing record at 0 that takes its scales from the stream and answers floats,
a CIM task of age 0 and a tuning task of a Sustained channel of age 1; what its units run, and its array contexts. -/
def workState (cur : Option Nat) (vec : Option (Nat × Nat)) (ctxs : List Ctx) : State :=
  setTile 0
    { bankA := { st := .ready, rows := 1, codes := 16384, swept := true }
      cur := cur
      vec := vec
      ctxs := ctxs
      tblFrames := 1
      ages := 2
      deque := [readyTask 0 0, readyTask 2 1] }
    (fset (.tile 0) Reg.BLK_STATE_STATE 2 { State.reset with sram := [(0, 1), (1, 6)] })

/-- The context of that CIM task, finished, with 5 outputs requantised under a fixed scale. -/
def finishedCtx : Ctx := { freshCtx (readyTask 0 0) false ([0x20], []) with finished := true, tot := { count := 5 } }

/-- Commands that TaskSelection speaks of: the CIM task starts, the tuning task is denied or runs into its limit, a finished
CIM task leaves its count. -/
theorem selection_at_work :
    (∃ t, exec (.taskSelect 0 .array) (workState none none []) = .next t ∧ (tileOf 0 t).cur = some 0) ∧
    (∃ t, exec (.taskSelect 0 .vector) (workState none none []) = .next t ∧
      TaskEnded (readyTask 2 1).d 0x0024 false (workState none none []) t) ∧
    (∃ t, exec (.timeLimit 0) (workState none (some (1, 0)) []) = .next t ∧ eventSet (.tile 0) 31 t = true) ∧
    ∃ t, exec (.taskEnd 0 .array ⟨0, [], 0, 0, []⟩) (workState (some 0) none [finishedCtx]) = .next t ∧
      fget (.tile 0) Reg.TILE_LAST_STATS_COUNT_COUNT t = 5 := by
  obtain ⟨-, -, hdenied, hcim, -, -, hended, hlimit, -⟩ := taskSelection
  have hr : readRecord 0 (readyTask 0 0).d (workState none none []) = .ok ([0x601, 0, 0, 0, 0, 0, 0, 0], []) := by
    decide +kernel
  obtain ⟨t, ht, hc, -⟩ := hcim 0 (workState none none []) (readyTask 0 0) false _ rfl rfl rfl rfl rfl rfl rfl hr
  obtain ⟨u, hu, hd⟩ := hdenied 0 (workState none none []) (readyTask 2 1) rfl rfl rfl rfl rfl
  obtain ⟨v, hv, -, he⟩ := hlimit 0 (workState none (some (1, 0)) []) (1, 0) (readyTask 2 1) rfl rfl
  obtain ⟨w, hw, -, hn⟩ := hended 0 ⟨0, [], 0, 0, []⟩ (workState (some 0) none [finishedCtx]) 0 finishedCtx
    (readyTask 0 0) rfl rfl rfl rfl
  exact ⟨⟨t, ht, hc⟩, ⟨u, hu, hd⟩, ⟨v, hv, he⟩, w, hw, (hn rfl (by decide)).trans rfl⟩

end Sys2Proof.Machine
end

section
/-! SUPPORT. Column-sum sweeps and held vectors (O26): the start and the ends of a sweep (R89, R90), a vector that waits for
adapter values and the values added to it (R84, R103). -/

namespace Sys2Proof.Machine

/-! ## Fences take no message and no event away -/

theorem grows_setBlk (p : Page) (b : Blk) (s : State) : Grows s (setBlk p b s) :=
  ⟨fun m h => by rwa [setBlk_mesh], fun _ _ h => setBlk_event_of _ _ _ _ _ h⟩

theorem grows_fencePage (p : Page) (cause : Nat) (s : State) : Grows s (fencePage p cause s) := by
  have hcauses : ∀ c, Grows s (setCauses p c s) := fun c => Grows.of_only (setCauses_any p c s) rfl rfl rfl
  have hmarked : Grows s (fenceMarked p cause s) :=
    ((((hcauses _).trans (grows_fset _ _ _ _ rfl rfl)).trans (grows_fset _ _ _ _ rfl rfl)).trans
      (grows_satInc _ _ _ _ rfl rfl)).trans (grows_raise _ _ _)
  cases hp : fixedPage p with
  | true =>
    rw [fencePage, if_pos hp]
    exact Grows.refl _
  | false =>
    cases hf : fenced p s with
    | true =>
      rw [fencePage_again cause hp hf]
      exact hcauses _
    | false =>
      rw [fencePage_first cause hp hf]
      split
      · exact hmarked.trans (grows_setBlk _ _ _)
      · exact hmarked

theorem grows_fenceTile (p cause : Nat) (s : State) : Grows s (fenceTile p cause s) := by
  have hpage := grows_fencePage (tilePage p) cause s
  unfold fenceTile
  extract_lets was s1 paired bank s2 s3
  have hnoted : Grows s s3 := (hpage.trans (grows_modTile p _ _)).trans (grows_noteRunning p _)
  split
  · exact hpage
  split
  · exact hnoted.trans (grows_send _ _)
  · exact hnoted

/-! ## The fence of a bank (R114) -/

/-- The bank that a persistent mismatch has fenced: FENCED with REPAIR_HOLD, its subarray marked. -/
def fencedBank (k : Bank) (sub now : Nat) : Bank :=
  { k with st := .fenced, hold := true, holdAt := now, subFenced := k.subFenced ||| BitVec.ofNat 8 (2 ^ sub) }

/-- A tile whose bank is fenced, the tasks of the bank back in the deque. -/
def withFencedBank (t : Tile) (bank : Bool) (sub now : Nat) : Tile :=
  (requeue t fun c => decide (c.bank = bank)).setBank bank (fencedBank (t.bank bank) sub now)

/-- INTEG_STAT of a fenced bank: its hold and its subarrays. -/
def fenceShown (p : Nat) (bank : Bool) (sub : Nat) (s : State) : State :=
  let s := fset (tilePage p) (if bank then Reg.TILE_INTEG_STAT_HOLD_B else Reg.TILE_INTEG_STAT_HOLD_A) 1 s
  let f := if bank then Reg.TILE_INTEG_STAT_SUBF_B else Reg.TILE_INTEG_STAT_SUBF_A
  fset (tilePage p) f (fget (tilePage p) f s ||| 2 ^ sub) s

/-- The fence of a bank of a tile that is no primary of a pair. -/
theorem fenceBank_alone {p : Nat} {s : State} (bank : Bool) (sub : Nat) (h : isPrimary p s = false) :
    fenceBank p bank sub s = settle p (noteRunning p (fenceShown p bank sub
      (modTile p (fun t => withFencedBank t bank sub s.timer) s))) :=
  if_neg fun k => absurd (h.symm.trans k) (by decide)

theorem grows_fenceShown (p : Nat) (bank : Bool) (sub : Nat) (s : State) : Grows s (fenceShown p bank sub s) := by
  cases bank with
  | false | true => exact (grows_fset _ _ _ _ rfl rfl).trans (grows_fset _ _ _ _ rfl rfl)

theorem grows_fenceBank (p : Nat) (bank : Bool) (sub : Nat) (s : State) : Grows s (fenceBank p bank sub s) := by
  cases h : isPrimary p s with
  | true =>
    rw [fenceBank, if_pos h]
    exact grows_fenceTile p 1 s
  | false =>
    rw [fenceBank_alone bank sub h]
    exact (((grows_modTile p _ s).trans (grows_fenceShown p bank sub _)).trans (grows_noteRunning p _)).trans
      (grows_settle p _)

/-- The bank sweep after the fence leaves the fenced bank, which is not WRITE_HELD. -/
theorem fenceBank_bank {p : Nat} {s : State} (bank : Bool) (sub : Nat) (h : isPrimary p s = false) :
    (tileOf p (fenceBank p bank sub s)).bank bank = fencedBank ((tileOf p s).bank bank) sub s.timer := by
  have hshown : ∀ t, tileOf p (fenceShown p bank sub t) = tileOf p t := fun _ => rfl
  rw [fenceBank_alone bank sub h, settle_bank, (noteRunning_only p _).sameTile rfl p, hshown, tileOf_modTile,
    withFencedBank, releasedBank, bank_setBank]
  exact if_neg fun k => by cases k.1

/-! ## The column-sum sweep (R89, R90) -/

theorem exec_sweepStart {tile : Fin 1056} {bank : Bool} {s : State}
    (h : sweepOwed tile.val ((tileOf tile.val s).bank bank) s = true ∧ (tileOf tile.val s).cur = none ∧
      (tileOf tile.val s).sweep = none ∧ fenced (.tile tile) s = false) :
    exec (.colsumSweepStart tile bank) s = .next (fset (.tile tile) Reg.TILE_PP_STAT_SWEEP 1
      (setTile tile.val { tileOf tile.val s with sweep := some bank } s)) := if_pos h

/-- The sweep is over and its 32 passes are counted. -/
def sweepOver (tile : Fin 1056) (s : State) : State :=
  wideInc (.tile tile) Reg.TILE_PASS_CNT_LO_COUNT Reg.TILE_PASS_CNT_HI_COUNT 32
    (fset (.tile tile) Reg.TILE_PP_STAT_SWEEP 0 (setTile tile.val { tileOf tile.val s with sweep := none } s))

theorem tileOf_sweepOver (tile : Fin 1056) (s : State) :
    tileOf tile.val (sweepOver tile s) = { tileOf tile.val s with sweep := none } := by
  rw [sweepOver, tileOf_wideInc, tileOf_fset, tileOf_setTile]

theorem sweepOver_bank (tile : Fin 1056) (bank : Bool) (s : State) :
    (tileOf tile.val (sweepOver tile s)).bank bank = (tileOf tile.val s).bank bank := by
  rw [tileOf_sweepOver]
  rfl

theorem sweepOver_sram (tile : Fin 1056) (s : State) : (sweepOver tile s).sram = s.sram := by
  rw [sweepOver, wideInc_sram, fset_sram, setTile_sram]

theorem sweepOver_only (tile : Fin 1056) (s : State) :
    Only [.tiles] [(0x20, 0x140, 0x144), (0x20, 0x204, 0x204)] s (sweepOver tile s) :=
  (((setTile_only _ _ _).mono rfl).trans ((fset_only 0x20 0x204 _ _ _ _ rfl rfl rfl).mono rfl)).trans
    ((wideInc_only 0x20 0x140 0x144 _ _ _ _ _ rfl rfl rfl rfl rfl rfl).mono rfl)

theorem sweepOver_passes (tile : Fin 1056) (s : State) :
    wideGet (.tile tile) Reg.TILE_PASS_CNT_LO_COUNT Reg.TILE_PASS_CNT_HI_COUNT (sweepOver tile s) =
      (wideGet (.tile tile) Reg.TILE_PASS_CNT_LO_COUNT Reg.TILE_PASS_CNT_HI_COUNT s + 32) % 2 ^ 64 := by
  rw [sweepOver, wideGet_wideInc _ _ _ _ _ rfl rfl rfl, wideGet, fset_keeps _ _ _ _ _ rfl, fset_keeps _ _ _ _ _ rfl]
  rfl

/-- A sweep whose totals agree stores the bank's ZPC entries. -/
theorem exec_sweepEnd_agrees {tile : Fin 1056} {bank : Bool} {errs : List (Fin 8 × Fin 4 × Nat × Nat)} {s : State}
    (h : (tileOf tile.val s).sweep = some bank) (hc : sweepCsumBad ((tileOf tile.val s).bank bank) errs = false)
    (hn : colsumBadAt ((tileOf tile.val s).bank bank) errs = none) :
    exec (.colsumSweepEnd tile bank errs) s = .next (modTile tile.val
      (fun t => t.setBank bank { t.bank bank with swept := true, zpcValid := true })
      (sweepStore tile.val bank errs (sweepOver tile s))) := by
  show execColsumSweepEnd tile bank errs s = _
  simp only [execColsumSweepEnd, h, hc, hn, ne_eq, not_true_eq_false, Bool.false_eq_true, if_false]
  rfl

/-- A ZPC entry depends on the bank and on its table alone. -/
theorem zpcEntry_congr {p : Nat} {s t : State} (b : Bank) (errs : List (Fin 8 × Fin 4 × Nat × Nat)) (j : Nat)
    (hs : t.sram = s.sram) : zpcEntry p b errs j t = zpcEntry p b errs j s := by
  have hcodes : scaleCodes p b j t = scaleCodes p b j s := by simp only [scaleCodes, sramBytes, hs]
  unfold zpcEntry
  rw [hcodes]

theorem sweepStore_sram_congr {p : Nat} {bank : Bool} {s t : State} (errs : List (Fin 8 × Fin 4 × Nat × Nat))
    (hb : (tileOf p t).bank bank = (tileOf p s).bank bank) (hs : t.sram = s.sram) :
    (sweepStore p bank errs t).sram = (sweepStore p bank errs s).sram := by
  simp only [sweepStore, sramWrite, hb, hs, zpcEntry_congr _ errs _ hs]

/-- COLSUM_REC holds the first column that disagreed. -/
def columnRecorded (tile : Fin 1056) (bank : Bool) (x : Nat × Nat) (s : State) : State :=
  if fget (.tile tile) Reg.TILE_COLSUM_REC_VALID s = 0 then
    fset (.tile tile) Reg.TILE_COLSUM_REC_VALID 1 (fset (.tile tile) Reg.TILE_COLSUM_REC_COLUMN x.2
      (fset (.tile tile) Reg.TILE_COLSUM_REC_SUBARRAY x.1 (fset (.tile tile) Reg.TILE_COLSUM_REC_BANK (bankNum bank) s)))
  else s

/-- The state in which a bank whose column disagreed is marked, and its fence is next. -/
def sweepFailed (tile : Fin 1056) (bank : Bool) (x : Nat × Nat) (s : State) : State :=
  raise (.tile tile) 17 (modTile tile.val (fun t => t.setBank bank { t.bank bank with swept := true, colsumBad := true })
    (columnRecorded tile bank x (sweepOver tile s)))

/-- A sweep with a column that disagrees fences the bank. -/
theorem exec_sweepEnd_disagrees {tile : Fin 1056} {bank : Bool} {errs : List (Fin 8 × Fin 4 × Nat × Nat)}
    {x : Nat × Nat} {s : State} (h : (tileOf tile.val s).sweep = some bank)
    (hc : sweepCsumBad ((tileOf tile.val s).bank bank) errs = false)
    (hx : colsumBadAt ((tileOf tile.val s).bank bank) errs = some x) :
    exec (.colsumSweepEnd tile bank errs) s = .next (fenceBank tile.val bank x.1 (sweepFailed tile bank x s)) := by
  show execColsumSweepEnd tile bank errs s = _
  simp only [execColsumSweepEnd, h, hc, hx, ne_eq, not_true_eq_false, Bool.false_eq_true, if_false]
  rfl

theorem columnRecorded_only (tile : Fin 1056) (bank : Bool) (x : Nat × Nat) (s : State) :
    Only [] [(0x20, 0x240, 0x240)] s (columnRecorded tile bank x s) := by
  have hset : ∀ (f : Field) v t, f.off = 0x240 → Only [] [(0x20, 0x240, 0x240)] t (fset (.tile tile) f v t) :=
    fun f v t hf => fset_only 0x20 0x240 _ f v t rfl hf rfl
  unfold columnRecorded
  split
  · exact (((hset _ _ _ rfl).trans (hset _ _ _ rfl)).trans (hset _ _ _ rfl)).trans (hset _ _ _ rfl)
  · exact Only.refl _ _ _

theorem sweepFailed_only (tile : Fin 1056) (bank : Bool) (x : Nat × Nat) (s : State) : Only [.tiles, .heldOut, .out]
    [(0x20, 0x18, 0x18), (0x20, 0x140, 0x144), (0x20, 0x204, 0x204), (0x20, 0x240, 0x240)] s
    (sweepFailed tile bank x s) :=
  ((((sweepOver_only tile s).mono rfl).trans ((columnRecorded_only tile bank x _).mono rfl)).trans
    ((modTile_only _ _ _).mono rfl)).trans ((raise_only 0x20 _ _ _ rfl rfl).mono rfl)

theorem sweepFailed_marked (tile : Fin 1056) (bank : Bool) (x : Nat × Nat) (s : State) :
    ((tileOf tile.val (sweepFailed tile bank x s)).bank bank).colsumBad = true := by
  rw [sweepFailed, tileOf_raise, tileOf_modTile, bank_setBank]

theorem sweepFailed_event (tile : Fin 1056) (bank : Bool) (x : Nat × Nat) (s : State) :
    eventSet (.tile tile) 17 (sweepFailed tile bank x s) = true := eventSet_raise (.tile tile) 17 _ rfl (by decide)

/-- Work that leaves MIRROR_MAP leaves what the tile is in its pair. -/
theorem Only.primary {m : List Fld} {r : List RegSpan} {s t : State} (h : Only m r s t) (p : Nat)
    (hm : Fld.inside m .regs = false) (hr : clear r (tilePage p) 0x358 = true) : isPrimary p t = isPrimary p s := by
  simp only [isPrimary, h.fget _ Reg.TILE_MIRROR_MAP_VALID hm rfl hr, h.fget _ Reg.TILE_MIRROR_MAP_ROLE hm rfl hr,
    h.fget _ Reg.TILE_MIRROR_MAP_LOST hm rfl hr]

/-! ## A vector held for adapter values (R84, R103) -/

theorem exec_cimVectorEnd {tile : Fin 1056} {s : State} {a : Nat} {c : Ctx} {e : Entry}
    (ha : (tileOf tile.val s).cur = some a) (hc : ctxOf (tileOf tile.val s) a = some c)
    (he : entryOf (tileOf tile.val s) a = some e) (hd : vectorDone (tileOf tile.val s) c = true)
    (hf : c.finished = false) (hh : c.held = none) :
    exec (.cimVectorEnd tile) s = .next (vectorEnd tile.val e.d c s) := by
  show execCimVectorEnd tile s = _
  simp only [execCimVectorEnd, ha, hc, he, hd, hf, hh, and_self, if_true]

/-- Between two states only counts and events of tiles and tile SRAM have changed, as in stages 1 to 8. -/
abbrev OnlyStages (s t : State) : Prop :=
  Only [.sram, .sramPoison, .heldOut, .out] [(0x20, 0x18, 0x18), (0x20, 0x234, 0x234), (0x20, 0x248, 0x248)] s t

/-- Where the record asks for adapter values, stages 1 to 8 end in a hold. -/
theorem vectorEnd_holds {p : Nat} {c : Ctx} (d : Desc) (s : State) (hm : pprMode c.ppr ≠ 4) (ha : pprAdapter c.ppr = true) :
    ∃ vals u, OnlyStages s u ∧
      vectorEnd p d c s = setCtx p { c with held := some vals } (fset (tilePage p) Reg.TILE_PP_STAT_HOLDING 1 u) := by
  unfold vectorEnd
  extract_lets g b o groups raw sats bad s1 s2 s3 bytes addr poison c1 pairs vals s4 hold s5
  have h1 : OnlyStages s s1 :=
    Only.ite ((satInc_only 0x20 0x234 _ _ _ _ rfl rfl rfl rfl).mono rfl) (Only.refl _ _ _)
  have h2 : OnlyStages s s2 := Only.ite (h1.trans ((satInc_only 0x20 0x248 _ _ _ _ rfl rfl rfl rfl).mono rfl)) h1
  have h3 : OnlyStages s s3 := Only.ite (h2.trans ((raise_only 0x20 _ _ _ rfl rfl).mono rfl)) h2
  have h4 : OnlyStages s s4 := Only.ite (h3.trans ((raise_only 0x20 _ _ _ rfl rfl).mono rfl)) h3
  rw [if_neg hm, if_pos ha]
  exact ⟨⟨vals⟩, _, h4.trans ((sramWrite_only p (pprHoldAddr c.ppr) hold _).mono rfl), rfl⟩

/-- A context put in the place of those of its age. -/
theorem mem_ctxs_setCtx {p : Nat} {c y : Ctx} {s : State} (hy : y ∈ (tileOf p (setCtx p c s)).ctxs)
    (ha : y.age = c.age) : y = c := by
  rw [setCtx, tileOf_modTile] at hy
  obtain ⟨x, -, hx⟩ := List.mem_map.mp hy
  split at hx
  · exact hx.symm
  · rename_i hne
    exact absurd (hx ▸ ha) hne

/-! ## Values for a held vector (R103) -/

theorem exec_adapterValues_unheld {tile : Fin 1056} {s : State} (tag : Byte) (vals : List W32) (poison : Bool)
    (h : ∀ c ∈ (tileOf tile.val s).ctxs, c.held = none) : exec (.adapterValues tile tag vals poison) s = .next s := by
  have hnone : ((tileOf tile.val s).ctxs.filter fun c => decide (c.held ≠ none)) = [] :=
    List.filter_eq_nil_iff.mpr fun c hc => by simp [h c hc]
  show execAdapterValues tile tag vals poison s = _
  simp only [execAdapterValues, hnone, List.getElem?_nil]

/-- The held values with the adapter's added (stage 9). -/
def adapted (h : Held) (vals : List W32) (poison : Bool) : List (W32 × Bool) :=
  (h.vals.zip (List.range h.vals.length)).map fun x => (fadd x.1.1 (nth 0 vals x.2), x.1.2 || poison)

/-- A poisoned stream of values raises NUMERIC. -/
def poisonNoted (tile : Fin 1056) (poison : Bool) (s : State) : State := if poison then raise (.tile tile) 19 s else s

theorem poisonNoted_at (tile : Fin 1056) (poison : Bool) (s : State) :
    Only [.heldOut, .out] [span (.tile tile) 0x018 0x018] s (poisonNoted tile poison s) :=
  Only.ite (raise_at _ 19 s rfl) (Only.refl _ _ _)

/-- Values of another TAG leave the held ones, all of them poisoned from here on. -/
def tagMissed (tile : Fin 1056) (tag : Byte) (c : Ctx) (s : State) : State :=
  setCtx tile.val { c with rest := true } (recordSkew tile.val (c.vec % 256) tag.toNat 2 false s)

/-- Values for a tile's one context, which holds a vector: those of its TAG are added, others poison it. -/
theorem exec_adapterValues_held {tile : Fin 1056} {s : State} {c : Ctx} {h : Held} {e : Entry} (tag : Byte)
    (vals : List W32) (poison : Bool) (hc : (tileOf tile.val s).ctxs = [c]) (hh : c.held = some h)
    (he : entryOf (tileOf tile.val s) c.age = some e) :
    exec (.adapterValues tile tag vals poison) s = .next (if tag.toNat ≠ c.vec % 256 then
      emitVector tile.val e.d { c with rest := true } (h.vals.map fun v => (v.1, true)) (tagMissed tile tag c s)
      else emitVector tile.val e.d c (adapted h vals poison) (poisonNoted tile poison s)) := by
  have hone : ((tileOf tile.val s).ctxs.filter fun c => decide (c.held ≠ none)) = [c] := by
    rw [hc, List.filter_singleton, hh]
    rfl
  show execAdapterValues tile tag vals poison s = _
  simp only [execAdapterValues, hone, List.getElem?_cons_zero, hh, he, tagMissed, adapted, poisonNoted]
  split
  · rfl
  · rfl

/-- A vector that goes on is held no longer: nothing after stage 9 writes HOLDING. -/
theorem emitVector_holding (p : Nat) (d : Desc) (c : Ctx) (vals : List (W32 × Bool)) (s : State) :
    fget (tilePage p) Reg.TILE_PP_STAT_HOLDING (emitVector p d c vals s) = 0 := by
  have hstore : ∀ {addr bytes bits hdr poison} {t u : State} {st} (stop go : Ctx),
      taskStore p d addr bytes bits hdr poison t = (st, u) → fget (tilePage p) Reg.TILE_PP_STAT_HOLDING t = 0 →
      fget (tilePage p) Reg.TILE_PP_STAT_HOLDING (if st ≠ 0 then setCtx p stop u else nextVector p d go u) = 0 := by
    intro addr bytes bits hdr poison t u st stop go hu ht
    have hu := ((taskStore_only_eq _ _ _ _ _ _ _ _ _ _ hu).fget (tilePage p) Reg.TILE_PP_STAT_HOLDING rfl rfl rfl).trans ht
    split
    · exact hu
    · exact ((nextVector_only p d go u).fget _ _ rfl rfl rfl).trans hu
  unfold emitVector
  extract_lets g vals1 poison addr c1 s1 bytes sy s2 zp first rerun fmt s12 q s3 blocks pad rec' bytes1
  have h1 : fget (tilePage p) Reg.TILE_PP_STAT_HOLDING s1 = 0 := fset_reads _ _ _ _ rfl
  have h2 : fget (tilePage p) Reg.TILE_PP_STAT_HOLDING s2 = 0 := by
    simp only [s2]
    split
    · exact (raise_keeps _ _ _ _ _ rfl).trans h1
    · exact h1
  have h3 : fget (tilePage p) Reg.TILE_PP_STAT_HOLDING s3 = 0 := by
    simp only [s3]
    split
    · exact (raise_keeps _ _ _ _ _ rfl).trans ((fset_keeps _ _ _ _ _ rfl).trans h2)
    · exact h2
  split
  · split
    exact hstore _ _ ‹_› h1
  · split
    exact hstore _ _ ‹_› h3

/-! ## The clauses -/

theorem sweep_starts {tile : Fin 1056} {bank : Bool} {s : State}
    (h : sweepOwed tile.val ((tileOf tile.val s).bank bank) s = true ∧ (tileOf tile.val s).cur = none ∧
      (tileOf tile.val s).sweep = none ∧ fenced (.tile tile) s = false) :
    ∃ t, exec (.colsumSweepStart tile bank) s = .next t ∧ (tileOf tile.val t).sweep = some bank ∧
      fget (.tile tile) Reg.TILE_PP_STAT_SWEEP t = 1 ∧ Only [.tiles] [span (.tile tile) 0x204 0x204] s t := by
  refine ⟨_, exec_sweepStart h, ?_, fset_reads _ _ _ _ rfl, ?_⟩
  · rw [tileOf_fset, tileOf_setTile]
  · exact ((setTile_only _ _ _).mono rfl).trans ((fset_at _ Reg.TILE_PP_STAT_SWEEP _ _ rfl).mono
      (by simp [within, Fld.inside, RegSpan.inside, span, Reg.TILE_PP_STAT_SWEEP]))

theorem sweep_ends {tile : Fin 1056} {bank : Bool} {s : State} (hs : (tileOf tile.val s).sweep = some bank) :
    ∃ t, exec (.colsumSweepEnd tile bank []) s = .next t ∧ (tileOf tile.val t).sweep = none ∧
      (tileOf tile.val t).bank bank = { (tileOf tile.val s).bank bank with swept := true, zpcValid := true } ∧
      t.sram = (sweepStore tile.val bank [] s).sram ∧
      wideGet (.tile tile) Reg.TILE_PASS_CNT_LO_COUNT Reg.TILE_PASS_CNT_HI_COUNT t =
        (wideGet (.tile tile) Reg.TILE_PASS_CNT_LO_COUNT Reg.TILE_PASS_CNT_HI_COUNT s + 32) % 2 ^ 64 := by
  have htile := (sweepStore_only tile.val bank [] (sweepOver tile s)).sameTile rfl tile.val
  refine ⟨_, exec_sweepEnd_agrees hs rfl rfl, ?_, ?_, ?_, ?_⟩
  · rw [tileOf_modTile, htile, tileOf_sweepOver]
    cases bank <;> rfl
  · rw [tileOf_modTile, bank_setBank, htile, sweepOver_bank]
  · rw [modTile_sram]
    exact sweepStore_sram_congr [] (sweepOver_bank tile bank s) (sweepOver_sram tile s)
  · have hreg : ∀ f, Nat.blt f.off 0x1000 = true → fget (.tile tile) f (sweepStore tile.val bank [] (sweepOver tile s)) =
        fget (.tile tile) f (sweepOver tile s) := fun f hf => (sweepStore_only _ _ _ _).fget _ f rfl hf rfl
    rw [wideGet, fget_modTile, fget_modTile, hreg _ rfl, hreg _ rfl]
    exact sweepOver_passes tile s

theorem sweep_fails {tile : Fin 1056} {bank : Bool} {errs : List (Fin 8 × Fin 4 × Nat × Nat)} {x : Nat × Nat} {s : State}
    (hs : (tileOf tile.val s).sweep = some bank) (hc : sweepCsumBad ((tileOf tile.val s).bank bank) errs = false)
    (hx : colsumBadAt ((tileOf tile.val s).bank bank) errs = some x) :
    ∃ t, exec (.colsumSweepEnd tile bank errs) s = .next t ∧ eventSet (.tile tile) 17 t = true ∧
      (isPrimary tile.val s = false → ((tileOf tile.val t).bank bank).st = .fenced ∧
        ((tileOf tile.val t).bank bank).colsumBad = true) := by
  refine ⟨_, exec_sweepEnd_disagrees hs hc hx, ?_, fun hp => ?_⟩
  · exact (grows_fenceBank _ _ _ _).2 _ _ (sweepFailed_event tile bank x s)
  · rw [fenceBank_bank bank x.1 (((sweepFailed_only tile bank x s).primary tile.val rfl rfl).trans hp)]
    exact ⟨rfl, sweepFailed_marked tile bank x s⟩

theorem vector_waits {tile : Fin 1056} {s : State} {a : Nat} {c : Ctx} {e : Entry}
    (ha : (tileOf tile.val s).cur = some a) (hc : ctxOf (tileOf tile.val s) a = some c)
    (he : entryOf (tileOf tile.val s) a = some e) (hd : vectorDone (tileOf tile.val s) c = true)
    (hf : c.finished = false) (hh : c.held = none) (hm : pprMode c.ppr ≠ 4) (hp : pprAdapter c.ppr = true) :
    ∃ t, exec (.cimVectorEnd tile) s = .next t ∧ fget (.tile tile) Reg.TILE_PP_STAT_HOLDING t = 1 ∧
      t.range = s.range ∧ t.mesh = s.mesh ∧ (∀ y ∈ (tileOf tile.val t).ctxs, y.age = c.age → y.held ≠ none) := by
  obtain ⟨vals, u, hu, hv⟩ := vectorEnd_holds (p := tile.val) e.d s hm hp
  rw [exec_cimVectorEnd ha hc he hd hf hh, hv, ← tilePage_val]
  refine ⟨_, rfl, ?_, ?_, ?_, fun y hy hage => ?_⟩
  · rw [fget_setCtx, fset_reads _ _ _ _ rfl]
    rfl
  · rw [setCtx_range, fset_range, hu.parts .range (by decide) (by decide)]
  · rw [setCtx_mesh, fset_mesh, hu.parts .mesh (by decide) (by decide)]
  · rw [mem_ctxs_setCtx hy hage]
    exact Option.some_ne_none vals

theorem vector_goesOn {tile : Fin 1056} (tag : Byte) (vals : List W32) (poison : Bool) {s : State} {c : Ctx} {e : Entry}
    (hc : (tileOf tile.val s).ctxs = [c]) (hh : c.held ≠ none) (he : entryOf (tileOf tile.val s) c.age = some e) :
    ∃ t, exec (.adapterValues tile tag vals poison) s = .next t ∧ fget (.tile tile) Reg.TILE_PP_STAT_HOLDING t = 0 ∧
      (tag.toNat = c.vec % 256 → ∃ x, t = emitVector tile.val e.d c (adapted (c.held.getD ⟨[]⟩) vals poison) x ∧
        Only [.heldOut, .out] [span (.tile tile) 0x018 0x018] s x) := by
  obtain ⟨h, hheld⟩ := Option.ne_none_iff_exists'.mp hh
  rw [exec_adapterValues_held tag vals poison hc hheld he, ← tilePage_val]
  refine ⟨_, rfl, ?_, fun htag => ⟨poisonNoted tile poison s, ?_, ?_⟩⟩
  · split
    · exact emitVector_holding _ _ _ _ _
    · exact emitVector_holding _ _ _ _ _
  · rw [if_neg (not_not.mpr htag), hheld, Option.getD_some]
  · rw [tilePage_val]
    exact poisonNoted_at tile poison s

/-- Settles O26: a sweep starts and ends by its checks, and a vector is held for the adapter's values until they come. -/
theorem sweepsAndVectors : Obligations.SweepsAndVectors :=
  ⟨fun _ _ _ ho hc hs hf => sweep_starts ⟨ho, hc, hs, hf⟩, fun _ _ _ hs => sweep_ends hs,
    fun _ _ _ _ _ hs hc hx => sweep_fails hs hc hx,
    fun _ _ _ _ _ ha hc he hd hf hh hm hp => vector_waits ha hc he hd hf hh hm hp,
    fun _ tag vals poison _ h => exec_adapterValues_unheld tag vals poison h,
    fun _ tag vals poison _ _ _ hc hh he => vector_goesOn tag vals poison hc hh he⟩

/-- Tile 0 with READY bank A of one enabled row, all its scale codes there, and the sweep that runs on it. -/
def sweepState (sweep : Option Bool) : State :=
  setTile 0 { bankA := { st := .ready, rows := 1, codes := 16384 }, sweep := sweep } State.reset

/-- The context of a task whose record asks for adapter values, with no pass left of its vector, and what it holds. -/
def adapterCtx (held : Option Held) : Ctx := { freshCtx (readyTask 0 0) false ([0x4], []) with held := held }

/-- Commands that SweepsAndVectors speaks of: the owed sweep starts; it ends clean, or with one count too many in column 0
that a checksum column hides; a vector is held, and values that come before and after. -/
theorem sweeps_and_vectors_at_work :
    (∃ t, exec (.colsumSweepStart 0 false) (sweepState none) = .next t ∧ (tileOf 0 t).sweep = some false) ∧
    (∃ t, exec (.colsumSweepEnd 0 false []) (sweepState (some false)) = .next t ∧
      ((tileOf 0 t).bank false).zpcValid = true) ∧
    (∃ t, exec (.colsumSweepEnd 0 false [(0, 0, 0, 1), (0, 0, 1024, 1)]) (sweepState (some false)) = .next t ∧
      ((tileOf 0 t).bank false).st = .fenced) ∧
    (∃ t, exec (.cimVectorEnd 0) (workState (some 0) none [adapterCtx none]) = .next t ∧
      fget (.tile 0) Reg.TILE_PP_STAT_HOLDING t = 1) ∧
    exec (.adapterValues 0 0 [] false) (workState (some 0) none [adapterCtx none]) =
      .next (workState (some 0) none [adapterCtx none]) ∧
    ∃ t, exec (.adapterValues 0 0 [0x3F800000] false)
      (workState (some 0) none [adapterCtx (some ⟨[(0x3F800000, false)]⟩)]) = .next t ∧
      fget (.tile 0) Reg.TILE_PP_STAT_HOLDING t = 0 := by
  obtain ⟨hstarts, hends, hfails, hwaits, hunheld, hheld⟩ := sweepsAndVectors
  obtain ⟨t, ht, hsweep, -⟩ := hstarts 0 false (sweepState none) (by decide) rfl rfl rfl
  obtain ⟨u, hu, -, hbank, -⟩ := hends 0 false (sweepState (some false)) rfl
  obtain ⟨v, hv, -, hfence⟩ := hfails 0 false [(0, 0, 0, 1), (0, 0, 1024, 1)] (0, 0) (sweepState (some false)) rfl
    (by decide) (by decide)
  obtain ⟨w, hw, hhold, -⟩ := hwaits 0 (workState (some 0) none [adapterCtx none]) 0 (adapterCtx none) (readyTask 0 0)
    rfl rfl rfl (by decide) rfl rfl (by decide) rfl
  obtain ⟨x, hx, hfree, -⟩ := hheld 0 0 [0x3F800000] false
    (workState (some 0) none [adapterCtx (some ⟨[(0x3F800000, false)]⟩)]) (adapterCtx (some ⟨[(0x3F800000, false)]⟩))
    (readyTask 0 0) rfl (by decide) rfl
  refine ⟨⟨t, ht, hsweep⟩, ⟨u, hu, congrArg Bank.zpcValid hbank⟩, ⟨v, hv, (hfence (by decide)).1⟩, ⟨w, hw, hhold⟩,
    hunheld 0 0 [] false _ fun c hc => ?_, x, hx, hfree⟩
  cases List.mem_singleton.mp hc
  rfl

end Sys2Proof.Machine
end

section
/-! SUPPORT. Mirrored pairs (O28): heartbeats of a pair and their loss (R130), TAKE, and the pair formed anew (R131). -/

namespace Sys2Proof.Machine

/-! ## The fence of a tile (R129)

Stated for any number, as the peer of a pair is what a register holds. -/

/-- Past the fence of its page, the fence of a tile touches its work, what runs on it, and the message to its mirror. -/
theorem fenceTile_past (p cause : Nat) (s : State) : Only [.tiles, .mesh] [(0x20, 0x104, 0x104), (0x20, 0x204, 0x204)]
    (fencePage (tilePage p) cause s) (fenceTile p cause s) := by
  unfold fenceTile
  extract_lets was s1 paired bank s2 s3
  have h3 : Only [.tiles, .mesh] [(0x20, 0x104, 0x104), (0x20, 0x204, 0x204)] s1 s3 :=
    ((modTile_only p _ s1).mono rfl).trans ((noteRunning_only p s2).mono rfl)
  split
  · exact Only.refl _ _ _
  split
  · exact h3.trans ((send_only _ _).mono rfl)
  · exact h3

theorem fenceTile_fenced {cause : Nat} (p : Nat) (s : State) (hc : cause < 16) :
    fenced (tilePage p) (fenceTile p cause s) = true := by
  rw [fenced_congr ((fenceTile_past p cause s).fget _ _ rfl rfl rfl)]
  cases h : fenced (tilePage p) s with
  | true => rw [fencePage_again cause rfl h, fenced_congr (fget_setCauses _ _ _ _ _), h]
  | false => exact (fencePage_fields cause rfl hc h).1

/-- CAUSE is the cause of the first fence. -/
theorem fenceTile_cause {p cause : Nat} {s : State} (hc : cause < 16) (h : fenced (tilePage p) s = false) :
    fget (tilePage p) Reg.FENCE_CAUSE (fenceTile p cause s) = cause := by
  obtain ⟨-, hcause, -⟩ := fencePage_fields cause (p := tilePage p) rfl hc h
  exact ((fenceTile_past p cause s).fget _ _ rfl rfl rfl).trans hcause

/-! ## Heartbeats (R130, R131) -/

/-- A heartbeat on its way to a peer, whose count of missed ones is over. -/
def heartbeatSent (q : Nat) (s : State) : State := send (.heartbeat q) (modTile q (fun t => { t with missed := 0 }) s)

theorem exec_pairHeartbeat {tile : Fin 1056} {s : State} (h : inPair tile.val s = true ∧ fenced (.tile tile) s = false) :
    exec (.pairHeartbeat tile) s = .next (heartbeatSent (mirrorPeer tile.val s) s) := if_pos h

theorem exec_pairHeartbeat_silent {tile : Fin 1056} {s : State}
    (h : inPair tile.val s = false ∨ fenced (.tile tile) s = true) : exec (.pairHeartbeat tile) s = .next s := by
  refine if_neg fun ⟨hp, hf⟩ => ?_
  rcases h with h | h
  · exact absurd (h.symm.trans hp) (by decide)
  · exact absurd (hf.symm.trans h) (by decide)

theorem heartbeatSent_missed (q : Nat) (s : State) : (tileOf q (heartbeatSent q s)).missed = 0 := by
  rw [heartbeatSent, tileOf_send, tileOf_modTile]

theorem heartbeatSent_only (q : Nat) (s : State) : Only [.tiles, .mesh] [] s (heartbeatSent q s) :=
  ((modTile_only _ _ _).mono rfl).trans ((send_only _ _).mono rfl)

/-- The mirror has missed three heartbeats. -/
def beatsMissed (mirror : Fin 1056) (s : State) : State := modTile mirror.val (fun t => { t with missed := 3 }) s

theorem exec_pairHeartbeatLost {mirror : Fin 1056} {s : State}
    (h : inPair mirror.val s = true ∧ fget (.tile mirror) Reg.TILE_MIRROR_MAP_ROLE s = 1) :
    exec (.pairHeartbeatLost mirror) s = .next (if fenced (tilePage (mirrorPeer mirror.val s)) s = true
      then send (.take mirror.val) (beatsMissed mirror s)
      else fenceTile (mirrorPeer mirror.val s) 1 (beatsMissed mirror s)) := if_pos h

/-! ## TAKE (R131) -/

/-- MIRROR_MAP and BENCH_MAP of the pair after TAKE, with the event on both tiles. -/
def rolesSwitched (mirror : Fin 1056) (q : Nat) (s : State) : State :=
  let lm := logicalOf mirror.val s
  let lq := logicalOf q s
  s |> fset (.tile mirror) Reg.TILE_BENCH_MAP_LOGICAL lq |> fset (tilePage q) Reg.TILE_BENCH_MAP_LOGICAL lm
    |> fset (.tile mirror) Reg.TILE_MIRROR_MAP_ROLE 0 |> fset (.tile mirror) Reg.TILE_MIRROR_MAP_LOST 1
    |> fset (tilePage q) Reg.TILE_MIRROR_MAP_VALID 0 |> raise (.tile mirror) 26 |> raise (tilePage q) 26

/-- The shadow entries of a mirror become runnable. -/
def shadowsReleased (t : Tile) : Tile :=
  { t with missed := 0, deque := t.deque.map fun e =>
      if e.st = .shadow then { e with st := if e.d.deps = 0 then .ready else .waiting } else e }

/-- The mirror after TAKE. -/
def takenOver (mirror : Fin 1056) (s : State) : State :=
  settle mirror.val (modTile mirror.val shadowsReleased
    (rolesSwitched mirror (mirrorPeer mirror.val s) (arrive (.take mirror.val) s)))

theorem exec_take {mirror : Fin 1056} {s : State} (h : inPair mirror.val s = true ∧
    fget (.tile mirror) Reg.TILE_MIRROR_MAP_ROLE s = 1 ∧ fenced (.tile mirror) s = false) :
    exec (.take mirror) s = .next (takenOver mirror s) := if_pos h

/-- The bank sweep after TAKE leaves the maps of both tiles. -/
theorem takenOver_fget (mirror : Fin 1056) (p : Page) (f : Field) (s : State) (hf : f.off = 0x350 ∨ f.off = 0x358) :
    fget p f (takenOver mirror s) = fget p f (rolesSwitched mirror (mirrorPeer mirror.val s) (arrive (.take mirror.val) s)) := by
  have hsettle := settle_only mirror.val (modTile mirror.val shadowsReleased
    (rolesSwitched mirror (mirrorPeer mirror.val s) (arrive (.take mirror.val) s)))
  rcases hf with hf | hf
  · exact hsettle.fget p f rfl (by rw [hf]; rfl) (by rw [hf]; rfl)
  · exact hsettle.fget p f rfl (by rw [hf]; rfl) (by rw [hf]; rfl)

theorem takenOver_grows (mirror : Fin 1056) (s : State) :
    Grows (rolesSwitched mirror (mirrorPeer mirror.val s) (arrive (.take mirror.val) s)) (takenOver mirror s) :=
  (grows_modTile _ _ _).trans (grows_settle _ _)

theorem rolesSwitched_role {mirror : Fin 1056} {q : Nat} (s : State) (h : tilePage q ≠ .tile mirror) :
    fget (.tile mirror) Reg.TILE_MIRROR_MAP_ROLE (rolesSwitched mirror q s) = 0 := by
  rw [rolesSwitched, raise_keeps _ _ _ _ _ rfl, raise_keeps _ _ _ _ _ rfl, fget_fset_page _ _ _ _ _ _ h.symm,
    fset_keeps _ _ _ _ _ rfl, fset_reads _ _ _ _ rfl]
  rfl

theorem rolesSwitched_lost {mirror : Fin 1056} {q : Nat} (s : State) (h : tilePage q ≠ .tile mirror) :
    fget (.tile mirror) Reg.TILE_MIRROR_MAP_LOST (rolesSwitched mirror q s) = 1 := by
  rw [rolesSwitched, raise_keeps _ _ _ _ _ rfl, raise_keeps _ _ _ _ _ rfl, fget_fset_page _ _ _ _ _ _ h.symm,
    fset_reads _ _ _ _ rfl]
  rfl

/-- Past the two writes of BENCH_MAP nothing of TAKE touches it. -/
theorem rolesSwitched_logical (mirror : Fin 1056) (q : Nat) (p : Page) (s : State) :
    fget p Reg.TILE_BENCH_MAP_LOGICAL (rolesSwitched mirror q s) =
      fget p Reg.TILE_BENCH_MAP_LOGICAL (fset (tilePage q) Reg.TILE_BENCH_MAP_LOGICAL (logicalOf mirror.val s)
        (fset (.tile mirror) Reg.TILE_BENCH_MAP_LOGICAL (logicalOf q s) s)) := by
  have hmap : ∀ (g : Page) (f : Field) v t, f.off = 0x358 →
      fget p Reg.TILE_BENCH_MAP_LOGICAL (fset g f v t) = fget p Reg.TILE_BENCH_MAP_LOGICAL t := fun g f v t h =>
    (fset_any 0x358 g f v t h rfl).fget p _ rfl rfl rfl
  rw [rolesSwitched, raise_keeps _ _ _ _ _ rfl, raise_keeps _ _ _ _ _ rfl, hmap _ _ _ _ rfl, hmap _ _ _ _ rfl,
    hmap _ _ _ _ rfl]

theorem rolesSwitched_numbers {mirror : Fin 1056} {q : Nat} (s : State) (h : tilePage q ≠ .tile mirror) :
    logicalOf mirror.val (rolesSwitched mirror q s) = logicalOf q s ∧
      logicalOf q (rolesSwitched mirror q s) = logicalOf mirror.val s := by
  have hlt : ∀ p, logicalOf p s < 2 ^ 11 := fun p => fget_lt (tilePage p) Reg.TILE_BENCH_MAP_LOGICAL s
  constructor
  · rw [logicalOf, rolesSwitched_logical, tilePage_val, fget_fset_page _ _ _ _ _ _ h.symm, fset_reads _ _ _ _ rfl]
    exact Nat.mod_eq_of_lt (hlt q)
  · rw [logicalOf, rolesSwitched_logical, fset_reads _ _ _ _ rfl]
    exact Nat.mod_eq_of_lt (hlt mirror.val)

theorem rolesSwitched_events (mirror : Fin 1056) (q : Nat) (s : State) :
    eventSet (.tile mirror) 26 (rolesSwitched mirror q s) = true ∧ eventSet (tilePage q) 26 (rolesSwitched mirror q s) = true :=
  ⟨eventSet_raise_of _ _ _ _ _ (eventSet_raise (.tile mirror) 26 _ rfl (by decide)),
    eventSet_raise (tilePage q) 26 _ rfl (by decide)⟩

/-! ## The pair formed anew (R131) -/

/-- MIRROR_MAP of a tile that becomes a survivor's mirror. -/
def mirrorMapped (survivor fresh : Fin 1056) (s : State) : State :=
  s |> fset (.tile fresh) Reg.TILE_MIRROR_MAP_PEER survivor.val |> fset (.tile fresh) Reg.TILE_MIRROR_MAP_VALID 1
    |> fset (.tile fresh) Reg.TILE_MIRROR_MAP_ROLE 1 |> fset (.tile fresh) Reg.TILE_MIRROR_MAP_LOST 0

/-- The pair, with MIRROR_MAP of both tiles written. -/
def pairFormed (survivor fresh : Fin 1056) (s : State) : State :=
  mirrorMapped survivor fresh s |> fset (.tile survivor) Reg.TILE_MIRROR_MAP_PEER fresh.val
    |> fset (.tile survivor) Reg.TILE_MIRROR_MAP_LOST 0

theorem exec_mirrorReform {survivor fresh : Fin 1056} {s : State} (h : inPair survivor.val s = true ∧
    fget (.tile survivor) Reg.TILE_MIRROR_MAP_LOST s = 1 ∧ fenced (.tile fresh) s = false ∧
    tileHalf fresh.val ≠ tileHalf survivor.val ∧ (benchFree fresh.val s = true ∨ fresh.val = mirrorPeer survivor.val s)) :
    exec (.mirrorReform survivor fresh) s = .next (pairFormed survivor fresh (inherit fresh.val survivor.val s)) := if_pos h

theorem mirrorMapped_fields (survivor fresh : Fin 1056) (s : State) :
    fget (.tile fresh) Reg.TILE_MIRROR_MAP_PEER (mirrorMapped survivor fresh s) = survivor.val ∧
      fget (.tile fresh) Reg.TILE_MIRROR_MAP_VALID (mirrorMapped survivor fresh s) = 1 ∧
      fget (.tile fresh) Reg.TILE_MIRROR_MAP_ROLE (mirrorMapped survivor fresh s) = 1 ∧
      fget (.tile fresh) Reg.TILE_MIRROR_MAP_LOST (mirrorMapped survivor fresh s) = 0 := by
  refine ⟨?_, ?_, ?_, fset_reads _ _ _ _ rfl⟩
  · rw [mirrorMapped, fset_keeps _ _ _ _ _ rfl, fset_keeps _ _ _ _ _ rfl, fset_keeps _ _ _ _ _ rfl, fset_reads _ _ _ _ rfl]
    exact Nat.mod_eq_of_lt (survivor.isLt.trans (by decide))
  · rw [mirrorMapped, fset_keeps _ _ _ _ _ rfl, fset_keeps _ _ _ _ _ rfl, fset_reads _ _ _ _ rfl]
    rfl
  · rw [mirrorMapped, fset_keeps _ _ _ _ _ rfl, fset_reads _ _ _ _ rfl]
    rfl

/-- What the survivor's own MIRROR_MAP takes leaves the new mirror's. -/
theorem pairFormed_fresh {survivor fresh : Fin 1056} (f : Field) (s : State) (h : fresh ≠ survivor)
    (hf : fieldOk f = true) :
    fget (.tile fresh) f (pairFormed survivor fresh s) = fget (.tile fresh) f (mirrorMapped survivor fresh s) := by
  have hpage : Page.tile fresh ≠ .tile survivor := fun e => h (Page.tile.inj e)
  rw [pairFormed, fget_fset_page _ _ _ _ _ _ hpage hf, fget_fset_page _ _ _ _ _ _ hpage hf]

theorem pairFormed_survivor (survivor fresh : Fin 1056) (s : State) :
    fget (.tile survivor) Reg.TILE_MIRROR_MAP_PEER (pairFormed survivor fresh s) = fresh.val ∧
      fget (.tile survivor) Reg.TILE_MIRROR_MAP_LOST (pairFormed survivor fresh s) = 0 := by
  constructor
  · rw [pairFormed, fset_keeps _ _ _ _ _ rfl, fset_reads _ _ _ _ rfl]
    exact Nat.mod_eq_of_lt (fresh.isLt.trans (by decide))
  · rw [pairFormed, fset_reads _ _ _ _ rfl]
    rfl

/-! ## The clauses -/

/-- Three missed heartbeats: the peer is fenced from then on, and TAKE is sent where it was. -/
theorem heartbeats_lost {mirror : Fin 1056} {s : State}
    (h : inPair mirror.val s = true ∧ fget (.tile mirror) Reg.TILE_MIRROR_MAP_ROLE s = 1) :
    ∃ t, exec (.pairHeartbeatLost mirror) s = .next t ∧ fenced (tilePage (mirrorPeer mirror.val s)) t = true ∧
      (fenced (tilePage (mirrorPeer mirror.val s)) s = true → t.mesh = s.mesh ++ [.take mirror.val]) := by
  refine ⟨_, exec_pairHeartbeatLost h, ?_, fun hf => ?_⟩
  · split
    · rename_i hf
      exact hf
    · exact fenceTile_fenced _ _ (by decide)
  · rw [if_pos hf]
    rfl

theorem take_switches {mirror : Fin 1056} {q : Nat} {s : State} (hq : q = mirrorPeer mirror.val s)
    (hne : tilePage q ≠ .tile mirror) (h : inPair mirror.val s = true ∧
      fget (.tile mirror) Reg.TILE_MIRROR_MAP_ROLE s = 1 ∧ fenced (.tile mirror) s = false) :
    ∃ t, exec (.take mirror) s = .next t ∧ fget (.tile mirror) Reg.TILE_MIRROR_MAP_ROLE t = 0 ∧
      fget (.tile mirror) Reg.TILE_MIRROR_MAP_LOST t = 1 ∧ logicalOf mirror.val t = logicalOf q s ∧
      logicalOf q t = logicalOf mirror.val s ∧ eventSet (.tile mirror) 26 t = true ∧ eventSet (tilePage q) 26 t = true := by
  subst hq
  obtain ⟨hm, hp⟩ := rolesSwitched_numbers (arrive (.take mirror.val) s) hne
  obtain ⟨he, ke⟩ := rolesSwitched_events mirror (mirrorPeer mirror.val s) (arrive (.take mirror.val) s)
  obtain ⟨-, hkeep⟩ := takenOver_grows mirror s
  exact ⟨_, exec_take h, (takenOver_fget _ _ _ _ (.inr rfl)).trans (rolesSwitched_role _ hne),
    (takenOver_fget _ _ _ _ (.inr rfl)).trans (rolesSwitched_lost _ hne), (takenOver_fget _ _ _ _ (.inl rfl)).trans hm,
    (takenOver_fget _ _ _ _ (.inl rfl)).trans hp, hkeep _ _ he, hkeep _ _ ke⟩

/-- Settles O28: each clause is the effect of one command of the pair; TAKE's is that of its register writes, which the bank
sweep after it leaves. -/
theorem mirroredPairs : Obligations.MirroredPairs := by
  refine ⟨fun tile s hp hf => ?_, fun tile s h => exec_pairHeartbeat_silent h,
    fun mirror s hp hr => heartbeats_lost ⟨hp, hr⟩,
    fun mirror q s hp hq hne hr hf => take_switches hq hne ⟨hp, hr, hf⟩,
    fun survivor fresh s hp hl hf hh hb => ?_⟩
  · exact ⟨_, exec_pairHeartbeat ⟨hp, hf⟩, rfl, heartbeatSent_missed _ _, heartbeatSent_only _ _⟩
  · have hne : fresh ≠ survivor := fun e => hh (by rw [e])
    obtain ⟨hpeer, hvalid, hrole, hlost⟩ := mirrorMapped_fields survivor fresh (inherit fresh.val survivor.val s)
    exact ⟨_, exec_mirrorReform ⟨hp, hl, hf, hh, hb⟩, (pairFormed_fresh _ _ hne rfl).trans hpeer,
      (pairFormed_fresh _ _ hne rfl).trans hvalid, (pairFormed_fresh _ _ hne rfl).trans hrole,
      (pairFormed_fresh _ _ hne rfl).trans hlost, pairFormed_survivor _ _ _⟩

/-- Tile 528 of the south in a pair with tile 0 of the north, which serves number 5; the ROLE and LOST of tile 528. -/
def pairState (role lost : Nat) : State :=
  State.reset |> fset (.tile 528) Reg.TILE_MIRROR_MAP_PEER 0 |> fset (.tile 528) Reg.TILE_MIRROR_MAP_VALID 1
    |> fset (.tile 528) Reg.TILE_MIRROR_MAP_ROLE role |> fset (.tile 528) Reg.TILE_MIRROR_MAP_LOST lost
    |> fset (.tile 0) Reg.TILE_BENCH_MAP_LOGICAL 5

/-- Commands that MirroredPairs speaks of: the mirror's heartbeat, the loss of the primary's, TAKE, and the pair formed again
with tile 0. -/
theorem pair_at_work :
    (∃ t, exec (.pairHeartbeat 528) (pairState 1 0) = .next t ∧ t.mesh = [.heartbeat 0]) ∧
    (∃ t, exec (.pairHeartbeatLost 528) (pairState 1 0) = .next t ∧ fenced (.tile 0) t = true) ∧
    (∃ t, exec (.take 528) (pairState 1 0) = .next t ∧ logicalOf 528 t = 5) ∧
    ∃ t, exec (.mirrorReform 528 0) (pairState 0 1) = .next t ∧ fget (.tile 0) Reg.TILE_MIRROR_MAP_PEER t = 528 := by
  obtain ⟨hbeat, -, hlost, htake, hreform⟩ := mirroredPairs
  obtain ⟨t, ht, hm, -⟩ := hbeat 528 (pairState 1 0) rfl rfl
  obtain ⟨u, hu, hf, -⟩ := hlost 528 (pairState 1 0) rfl rfl
  obtain ⟨v, hv, -, -, hl, -⟩ := htake 528 0 (pairState 1 0) rfl rfl (by decide) rfl rfl
  obtain ⟨w, hw, hp, -⟩ := hreform 528 0 (pairState 0 1) rfl rfl rfl (by decide) (.inr rfl)
  exact ⟨⟨t, ht, hm⟩, ⟨u, hu, hf⟩, ⟨v, hv, hl⟩, w, hw, hp⟩

end Sys2Proof.Machine
end

section
/-! SUPPORT. Calibrations (O24): one that falls due (R124), one that starts and one that ends (R123), and a converter that
fails (R126). -/

namespace Sys2Proof.Machine

/-! ## A calibration that falls due (R124) -/

/-- The time at which a subarray's calibration reaches a limit: at once where its temperature has changed that much
(0.125 °C units), and at an age in µs otherwise. -/
def dueReached (p i change age : Nat) (s : State) : State :=
  if change ≤ ((sensorOf (regionOf p) s).temp - ((tileOf p s).sub i).calTemp).natAbs then s
  else reach (((tileOf p s).sub i).calAt + ticks age) s

theorem dueReached_only (p i change age : Nat) (s : State) : Only [.timer] [] s (dueReached p i change age s) :=
  Only.ite (Only.refl _ _ _) (reach_only _ _)

theorem dueReached_timer (p i change age : Nat) (s : State) : (dueReached p i change age s).timer =
    if change ≤ ((sensorOf (regionOf p) s).temp - ((tileOf p s).sub i).calTemp).natAbs then s.timer
    else max s.timer (((tileOf p s).sub i).calAt + ticks age) := by
  rw [dueReached]
  split
  · rfl
  · rfl

theorem exec_calibrationDue (tile : Fin 1056) (i : Fin 16) (s : State) : exec (.calibrationDue tile i) s =
    .next (modTile tile.val (fun t => t.setSub i.val { (tileOf tile.val s).sub i.val with calDue := true })
      (dueReached tile.val i.val 32 9600 s)) := by
  show execCalibrationDue tile i s = _
  simp only [execCalibrationDue, dueReached, decide_eq_true_eq]

theorem exec_calDueLate {tile : Fin 1056} {i : Fin 16} {s : State} (hd : ((tileOf tile.val s).sub i.val).calDue = true)
    (hr : ((tileOf tile.val s).sub i.val).calRun = none) : exec (.calDueLate tile i) s =
    .next (raise (.tile tile) 27 (modTile tile.val
      (fun t => t.setSub i.val { (tileOf tile.val s).sub i.val with calHard := true })
      (dueReached tile.val i.val 36 9900 s))) := by
  show execCalDueLate tile i s = _
  simp only [execCalDueLate, hd, hr, dueReached, decide_eq_true_eq, Bool.true_eq_false, ne_eq, not_true_eq_false, or_self,
    if_false]

/-! ## The start (R123, R124) -/

/-- A calibration of a subarray that begins now. -/
def calStarted (tile : Fin 1056) (i : Fin 16) (s : State) : State :=
  setTile tile.val ((tileOf tile.val s).setSub i.val { (tileOf tile.val s).sub i.val with calRun := some s.timer }) s
    |> fset (.tile tile) Reg.TILE_INTEG_STAT_CAL_BUSY 1 |> fset (.tile tile) Reg.TILE_INTEG_STAT_CAL_SUB i.val

/-- The bank of a subarray calibrates one at a time: none of it runs, this one neither. -/
theorem exec_calibrationStart {tile : Fin 1056} {i : Fin 16} {s : State}
    (hd : ((tileOf tile.val s).sub i.val).calDue = true)
    (hn : ∀ j, j < 8 → ((tileOf tile.val s).sub (i.val / 8 * 8 + j)).calRun = none)
    (hp : ((tileOf tile.val s).sub i.val).pass = none) (hk : arraysKept (tileOf tile.val s) = true)
    (hi : subIdle (tileOf tile.val s) i.val = true ∨ ((tileOf tile.val s).sub i.val).calHard = true) :
    exec (.calibrationStart tile i) s = .next (calStarted tile i s) := by
  have hother : ((List.range 8).any fun j =>
      decide (((tileOf tile.val s).sub (i.val / 8 * 8 + j)).calRun ≠ none)) = false :=
    List.any_eq_false.mpr fun j hj => by simp [hn j (List.mem_range.mp hj)]
  have hown : ((tileOf tile.val s).sub i.val).calRun = none := by
    have h := hn (i.val % 8) (Nat.mod_lt _ (by decide))
    rwa [Nat.div_add_mod'] at h
  exact if_pos ⟨hd, hown, hp, hother, hk, hi⟩

theorem calStarted_only (tile : Fin 1056) (i : Fin 16) (s : State) :
    Only [.tiles] [span (.tile tile) 0x300 0x300] s (calStarted tile i s) :=
  (((setTile_only _ _ s).mono rfl).trans ((fset_at _ Reg.TILE_INTEG_STAT_CAL_BUSY _ _ rfl).mono
    (by simp [within, RegSpan.inside, span, Reg.TILE_INTEG_STAT_CAL_BUSY]))).trans
    ((fset_at _ Reg.TILE_INTEG_STAT_CAL_SUB _ _ rfl).mono
      (by simp [within, RegSpan.inside, span, Reg.TILE_INTEG_STAT_CAL_SUB]))

/-! ## The end (R123) -/

/-- The fenced subarrays of the bank of a subarray, in INTEG_STAT. -/
def subsField (i : Nat) : Field := if 8 ≤ i then Reg.TILE_INTEG_STAT_SUBF_B else Reg.TILE_INTEG_STAT_SUBF_A

/-- Either field of INTEG_STAT has the bits of its bank's eight subarrays. -/
theorem subsField_shape (i : Nat) : fieldOk (subsField i) = true ∧ (subsField i).off = 0x300 ∧ (subsField i).width = 8 := by
  unfold subsField
  split
  · exact ⟨rfl, rfl, rfl⟩
  · exact ⟨rfl, rfl, rfl⟩

/-- A calibration that began at `a` is over, and the tile shows what still runs. -/
def calOver (p i a : Nat) (s : State) : State :=
  let s := calibrated p i (reach (a + 125) s)
  let run := calRunning (tileOf p s)
  s |> fset (tilePage p) Reg.TILE_INTEG_STAT_CAL_BUSY (if run = none then 0 else 1)
    |> fset (tilePage p) Reg.TILE_INTEG_STAT_CAL_SUB (run.getD 0) |> fset (tilePage p) Reg.TILE_ARRAY_STAT_CAL_WAIT 0

theorem calOver_only (p i a : Nat) (s : State) :
    Only [.timer, .tiles] [(0x20, 0x104, 0x104), (0x20, 0x300, 0x300)] s (calOver p i a s) :=
  (((((reach_only _ s).mono rfl).trans ((calibrated_only p i _).mono rfl)).trans
    ((fset_only 0x20 0x300 _ _ _ _ rfl rfl rfl).mono rfl)).trans ((fset_only 0x20 0x300 _ _ _ _ rfl rfl rfl).mono rfl)).trans
    ((fset_only 0x20 0x104 _ _ _ _ rfl rfl rfl).mono rfl)

/-- A calibration's end leaves the fenced subarrays, which lie beside CAL_BUSY and CAL_SUB. -/
theorem calOver_subs (p i a : Nat) (s : State) :
    fget (tilePage p) (subsField i) (calOver p i a s) = fget (tilePage p) (subsField i) s := by
  have hapart : ∀ v w t, fget (tilePage p) (subsField i) (fset (tilePage p) Reg.TILE_ARRAY_STAT_CAL_WAIT 0
      (fset (tilePage p) Reg.TILE_INTEG_STAT_CAL_SUB w (fset (tilePage p) Reg.TILE_INTEG_STAT_CAL_BUSY v t))) =
      fget (tilePage p) (subsField i) t := fun v w t => by
    unfold subsField
    split
    · rw [fset_keeps _ _ _ _ _ rfl, fset_keeps _ _ _ _ _ rfl, fset_keeps _ _ _ _ _ rfl]
    · rw [fset_keeps _ _ _ _ _ rfl, fset_keeps _ _ _ _ _ rfl, fset_keeps _ _ _ _ _ rfl]
  exact (hapart _ _ _).trans (fget_modTile _ _ _ _ _)

theorem calOver_sub (p i a : Nat) (s : State) : (tileOf p (calOver p i a s)).sub i =
    { (tileOf p s).sub i with calAt := max s.timer (a + 125), calTemp := (sensorOf (regionOf p) s).temp,
                              calDue := false, calHard := false, calRun := none } := by
  rw [calOver, tileOf_fset, tileOf_fset, tileOf_fset, calibrated, tileOf_modTile, sub_setSub, tileOf_reach]
  rfl

/-- The trims of a calibration that ended well are counted and taken. -/
def trimsTaken (p : Nat) (r : CalResult) (s : State) : State :=
  s |> wrapInc (tilePage p) Reg.TILE_CAL_CNT_COUNT 1 |> fset (tilePage p) Reg.TILE_CAL_TRIM_OFFSET_MAX r.offMax.toNat
    |> fset (tilePage p) Reg.TILE_CAL_TRIM_GAIN_MAX r.gainMax.toNat

theorem exec_calibrationEnd_clean {tile : Fin 1056} {i : Fin 16} {r : CalResult} {s : State} {a : Nat}
    (ha : ((tileOf tile.val s).sub i.val).calRun = some a) (hr : r.fail = none) :
    exec (.calibrationEnd tile i r) s = .next (trimsTaken tile.val r (calOver tile.val i.val a s)) := by
  show execCalibrationEnd tile i r s = _
  simp only [execCalibrationEnd, ha, hr, ← tilePage_val]
  rfl

theorem tileOf_trimsTaken (p : Nat) (r : CalResult) (q : Nat) (s : State) : tileOf q (trimsTaken p r s) = tileOf q s := by
  rw [trimsTaken, tileOf_fset, tileOf_fset, tileOf_wrapInc]

theorem trimsTaken_count (p : Nat) (r : CalResult) (s : State) : fget (tilePage p) Reg.TILE_CAL_CNT_COUNT (trimsTaken p r s) =
    (fget (tilePage p) Reg.TILE_CAL_CNT_COUNT s + 1) % 2 ^ 32 := by
  rw [trimsTaken, fset_keeps _ _ _ _ _ rfl, fset_keeps _ _ _ _ _ rfl]
  exact fset_reads _ _ _ _ rfl

theorem trimsTaken_trims (p : Nat) (r : CalResult) (s : State) :
    fget (tilePage p) Reg.TILE_CAL_TRIM_OFFSET_MAX (trimsTaken p r s) = r.offMax.toNat ∧
      fget (tilePage p) Reg.TILE_CAL_TRIM_GAIN_MAX (trimsTaken p r s) = r.gainMax.toNat := by
  constructor
  · rw [trimsTaken, fset_keeps _ _ _ _ _ rfl, fset_reads _ _ _ _ rfl]
    exact Nat.mod_eq_of_lt r.offMax.isLt
  · rw [trimsTaken, fset_reads _ _ _ _ rfl]
    exact Nat.mod_eq_of_lt r.gainMax.isLt

/-! ## A converter that fails (R126) -/

/-- CAL_FAIL_REC of a converter of a subarray. -/
def converterNamed (p i : Nat) (c : Fin 260 × Fin 3) (s : State) : State :=
  s |> fset (tilePage p) Reg.TILE_CAL_FAIL_REC_BANK (i / 8) |> fset (tilePage p) Reg.TILE_CAL_FAIL_REC_SUBARRAY (i % 8)
    |> fset (tilePage p) Reg.TILE_CAL_FAIL_REC_CONVERTER c.1.val |> fset (tilePage p) Reg.TILE_CAL_FAIL_REC_KIND c.2.val
    |> fset (tilePage p) Reg.TILE_CAL_FAIL_REC_VALID 1

/-- CAL_FAIL_REC holds the first converter that failed. -/
def converterRecorded (p i : Nat) (c : Fin 260 × Fin 3) (s : State) : State :=
  if fget (tilePage p) Reg.TILE_CAL_FAIL_REC_VALID s = 0 then converterNamed p i c s else s

/-- The subarray of a converter that failed is marked, its event raised, and the tile's fence is next. -/
def converterFailed (p i : Nat) (c : Fin 260 × Fin 3) (s : State) : State :=
  let s := raise (tilePage p) 23 (converterRecorded p i c s)
  fset (tilePage p) (subsField i) (fget (tilePage p) (subsField i) s ||| 2 ^ (i % 8)) s

theorem exec_calibrationEnd_failed {tile : Fin 1056} {i : Fin 16} {r : CalResult} {s : State} {a : Nat}
    {c : Fin 260 × Fin 3} (ha : ((tileOf tile.val s).sub i.val).calRun = some a) (hr : r.fail = some c) :
    exec (.calibrationEnd tile i r) s =
      .next (fenceTile tile.val 6 (converterFailed tile.val i.val c (calOver tile.val i.val a s))) := by
  show execCalibrationEnd tile i r s = _
  simp only [execCalibrationEnd, ha, hr, ← tilePage_val]
  rfl

theorem converterRecorded_only (p i : Nat) (c : Fin 260 × Fin 3) (s : State) :
    Only [] [(0x20, 0x340, 0x340)] s (converterRecorded p i c s) := by
  have hset : ∀ (f : Field) v t, f.off = 0x340 → Only [] [(0x20, 0x340, 0x340)] t (fset (tilePage p) f v t) :=
    fun f v t hf => fset_only 0x20 0x340 _ f v t rfl hf rfl
  unfold converterRecorded
  split
  · exact ((((hset _ _ _ rfl).trans (hset _ _ _ rfl)).trans (hset _ _ _ rfl)).trans (hset _ _ _ rfl)).trans (hset _ _ _ rfl)
  · exact Only.refl _ _ _

theorem subsField_only (p i v : Nat) (s : State) :
    Only [] [(0x20, 0x300, 0x300)] s (fset (tilePage p) (subsField i) v s) := by
  obtain ⟨-, hoff, -⟩ := subsField_shape i
  exact fset_only 0x20 0x300 _ _ _ _ rfl hoff rfl

theorem converterFailed_only (p i : Nat) (c : Fin 260 × Fin 3) (s : State) : Only [.heldOut, .out]
    [(0x20, 0x18, 0x18), (0x20, 0x300, 0x300), (0x20, 0x340, 0x340)] s (converterFailed p i c s) :=
  (((converterRecorded_only p i c s).mono rfl).trans ((raise_only 0x20 _ _ _ rfl rfl).mono rfl)).trans
    ((subsField_only p i _ _).mono rfl)

theorem converterFailed_event (p i : Nat) (c : Fin 260 × Fin 3) (s : State) :
    eventSet (tilePage p) 23 (converterFailed p i c s) = true :=
  ((subsField_only p i _ _).event _ _ rfl rfl).trans (eventSet_raise (tilePage p) 23 _ rfl (by decide))

/-- The first converter that failed is named. -/
theorem converterRecorded_names {p : Nat} {s : State} (i : Nat) (c : Fin 260 × Fin 3)
    (h : fget (tilePage p) Reg.TILE_CAL_FAIL_REC_VALID s = 0) :
    fget (tilePage p) Reg.TILE_CAL_FAIL_REC_VALID (converterRecorded p i c s) = 1 ∧
      fget (tilePage p) Reg.TILE_CAL_FAIL_REC_CONVERTER (converterRecorded p i c s) = c.1.val ∧
      fget (tilePage p) Reg.TILE_CAL_FAIL_REC_KIND (converterRecorded p i c s) = c.2.val := by
  rw [converterRecorded, if_pos h, converterNamed]
  refine ⟨fset_reads _ _ _ _ rfl, ?_, ?_⟩
  · rw [fset_keeps _ _ _ _ _ rfl, fset_keeps _ _ _ _ _ rfl, fset_reads _ _ _ _ rfl]
    exact Nat.mod_eq_of_lt (c.1.isLt.trans (by decide))
  · rw [fset_keeps _ _ _ _ _ rfl, fset_reads _ _ _ _ rfl]
    exact Nat.mod_eq_of_lt (c.2.isLt.trans (by decide))

/-- The event and the mark leave CAL_FAIL_REC. -/
theorem converterFailed_record (p i : Nat) (c : Fin 260 × Fin 3) {f : Field} (s : State) (hf : f.off = 0x340) :
    fget (tilePage p) f (converterFailed p i c s) = fget (tilePage p) f (converterRecorded p i c s) :=
  ((subsField_only p i _ _).fget _ _ rfl (by rw [hf]; rfl) (by rw [hf]; rfl)).trans
    (raise_keeps _ _ _ _ _ (by rw [hf]; rfl))

/-- The subarray is marked besides those already fenced. -/
theorem converterFailed_subs (p i : Nat) (c : Fin 260 × Fin 3) (s : State) :
    fget (tilePage p) (subsField i) (converterFailed p i c s) = fget (tilePage p) (subsField i) s ||| 2 ^ (i % 8) := by
  obtain ⟨hok, hoff, hwidth⟩ := subsField_shape i
  have hkept : fget (tilePage p) (subsField i) (raise (tilePage p) 23 (converterRecorded p i c s)) =
      fget (tilePage p) (subsField i) s :=
    (raise_keeps _ _ _ _ _ (by rw [hoff]; rfl)).trans
      ((converterRecorded_only p i c s).fget _ _ rfl (by rw [hoff]; rfl) (by rw [hoff]; rfl))
  have hlt : fget (tilePage p) (subsField i) s < 2 ^ 8 := hwidth ▸ fget_lt (tilePage p) (subsField i) s
  have hbit : 2 ^ (i % 8) < 2 ^ 8 := Nat.pow_lt_pow_right (by decide) (Nat.mod_lt _ (by decide))
  rw [converterFailed, fset_reads _ _ _ _ hok, hwidth, hkept]
  exact Nat.mod_eq_of_lt (Nat.or_lt_two_pow hlt hbit)

/-! ## The clauses -/

theorem calibration_falls_due (tile : Fin 1056) (i : Fin 16) (s : State) :
    ∃ t, exec (.calibrationDue tile i) s = .next t ∧
      (tileOf tile.val t).sub i.val = { (tileOf tile.val s).sub i.val with calDue := true } ∧
      t.timer = (if 32 ≤ ((sensorOf (regionOf tile.val) s).temp - ((tileOf tile.val s).sub i.val).calTemp).natAbs then s.timer
        else max s.timer (((tileOf tile.val s).sub i.val).calAt + ticks 9600)) ∧ Only [.tiles, .timer] [] s t := by
  refine ⟨_, exec_calibrationDue tile i s, ?_, ?_, ?_⟩
  · rw [tileOf_modTile, sub_setSub]
  · rw [modTile_timer, dueReached_timer]
  · exact ((dueReached_only _ _ _ _ _).mono rfl).trans ((modTile_only _ _ _).mono rfl)

theorem calibration_overdue {tile : Fin 1056} {i : Fin 16} {s : State}
    (hd : ((tileOf tile.val s).sub i.val).calDue = true) (hr : ((tileOf tile.val s).sub i.val).calRun = none) :
    ∃ t, exec (.calDueLate tile i) s = .next t ∧ eventSet (.tile tile) 27 t = true ∧
      (tileOf tile.val t).sub i.val = { (tileOf tile.val s).sub i.val with calHard := true } ∧
      Only [.tiles, .timer, .heldOut, .out] [span (.tile tile) 0x018 0x018] s t := by
  refine ⟨_, exec_calDueLate hd hr, eventSet_raise (.tile tile) 27 _ rfl (by decide), ?_, ?_⟩
  · rw [tileOf_raise, tileOf_modTile, sub_setSub]
  · exact (((dueReached_only _ _ _ _ _).mono rfl).trans ((modTile_only _ _ _).mono rfl)).trans
      ((raise_at _ 27 _ rfl).mono (by simp [within, Fld.inside, RegSpan.inside, span]))

theorem calStarted_effect (tile : Fin 1056) (i : Fin 16) (s : State) :
    ((tileOf tile.val (calStarted tile i s)).sub i.val).calRun = some s.timer ∧
      fget (.tile tile) Reg.TILE_INTEG_STAT_CAL_BUSY (calStarted tile i s) = 1 ∧
      fget (.tile tile) Reg.TILE_INTEG_STAT_CAL_SUB (calStarted tile i s) = i.val := by
  refine ⟨?_, ?_, ?_⟩
  · rw [calStarted, tileOf_fset, tileOf_fset, tileOf_setTile, sub_setSub]
  · rw [calStarted, fset_keeps _ _ _ _ _ rfl, fset_reads _ _ _ _ rfl]
    rfl
  · rw [calStarted, fset_reads _ _ _ _ rfl]
    exact Nat.mod_eq_of_lt i.isLt

theorem calibration_ends {tile : Fin 1056} {i : Fin 16} {r : CalResult} {s : State} {a : Nat}
    (ha : ((tileOf tile.val s).sub i.val).calRun = some a) (hr : r.fail = none) :
    ∃ t, exec (.calibrationEnd tile i r) s = .next t ∧
      (tileOf tile.val t).sub i.val = { (tileOf tile.val s).sub i.val with calAt := max s.timer (a + 125),
                                                                             calTemp := (sensorOf (regionOf tile.val) s).temp,
                                                                             calDue := false, calHard := false, calRun := none } ∧
      fget (.tile tile) Reg.TILE_CAL_CNT_COUNT t = (fget (.tile tile) Reg.TILE_CAL_CNT_COUNT s + 1) % 2 ^ 32 ∧
      fget (.tile tile) Reg.TILE_CAL_TRIM_OFFSET_MAX t = r.offMax.toNat ∧
      fget (.tile tile) Reg.TILE_CAL_TRIM_GAIN_MAX t = r.gainMax.toNat := by
  rw [exec_calibrationEnd_clean ha hr, ← tilePage_val]
  refine ⟨_, rfl, ?_, ?_, trimsTaken_trims _ _ _⟩
  · rw [tileOf_trimsTaken, calOver_sub]
  · rw [trimsTaken_count, (calOver_only _ _ _ _).fget _ _ rfl rfl rfl]

/-- The fence that follows a failed converter leaves what the tile has recorded of it, and it is the tile's first cause where
no fence stood before. -/
theorem converter_fails {tile : Fin 1056} {i : Fin 16} {r : CalResult} {s : State} {a : Nat} {c : Fin 260 × Fin 3}
    (ha : ((tileOf tile.val s).sub i.val).calRun = some a) (hr : r.fail = some c) :
    ∃ t, exec (.calibrationEnd tile i r) s = .next t ∧ fenced (.tile tile) t = true ∧
      (fenced (.tile tile) s = false → fget (.tile tile) Reg.FENCE_CAUSE t = 6) ∧ eventSet (.tile tile) 23 t = true ∧
      fget (.tile tile) (subsField i.val) t = (fget (.tile tile) (subsField i.val) s ||| 2 ^ (i.val % 8)) ∧
      (fget (.tile tile) Reg.TILE_CAL_FAIL_REC_VALID s = 0 → fget (.tile tile) Reg.TILE_CAL_FAIL_REC_VALID t = 1 ∧
        fget (.tile tile) Reg.TILE_CAL_FAIL_REC_CONVERTER t = c.1.val ∧
        fget (.tile tile) Reg.TILE_CAL_FAIL_REC_KIND t = c.2.val) := by
  rw [exec_calibrationEnd_failed ha hr, ← tilePage_val]
  have hover := calOver_only tile.val i.val a s
  have hfailed := converterFailed_only tile.val i.val c (calOver tile.val i.val a s)
  have hfence := fenceTile_only tile.val 6 (converterFailed tile.val i.val c (calOver tile.val i.val a s))
  obtain ⟨-, hevents⟩ := grows_fenceTile tile.val 6 (converterFailed tile.val i.val c (calOver tile.val i.val a s))
  refine ⟨_, rfl, fenceTile_fenced _ _ (by decide), fun hf => fenceTile_cause (by decide) ?_,
    hevents _ _ (converterFailed_event _ _ _ _), ?_, fun hv => ?_⟩
  · exact (fenced_congr ((hfailed.fget _ _ rfl rfl rfl).trans (hover.fget _ _ rfl rfl rfl))).trans hf
  · obtain ⟨-, hoff, -⟩ := subsField_shape i.val
    rw [hfence.fget _ _ rfl (by rw [hoff]; rfl) (by rw [hoff]; rfl), converterFailed_subs, calOver_subs]
  · have hkept : ∀ f : Field, f.off = 0x340 → fget (tilePage tile.val) f
        (fenceTile tile.val 6 (converterFailed tile.val i.val c (calOver tile.val i.val a s))) =
        fget (tilePage tile.val) f (converterRecorded tile.val i.val c (calOver tile.val i.val a s)) := fun f hf =>
      (hfence.fget _ _ rfl (by rw [hf]; rfl) (by rw [hf]; rfl)).trans (converterFailed_record _ _ _ _ hf)
    obtain ⟨hvalid, hconv, hkind⟩ := converterRecorded_names i.val c ((hover.fget _ _ rfl rfl rfl).trans hv)
    exact ⟨(hkept _ rfl).trans hvalid, (hkept _ rfl).trans hconv, (hkept _ rfl).trans hkind⟩

/-- Settles O24: each clause is one command of a calibration; a failed converter's is the tile's fence after its records. -/
theorem calibrations : Obligations.Calibrations := by
  refine ⟨calibration_falls_due, fun tile i s hd hr => calibration_overdue hd hr, fun tile i s hd hn hp hk hi => ?_,
    fun tile i r s a ha => ⟨fun hr => calibration_ends ha hr, fun c hr => ?_⟩⟩
  · obtain ⟨hrun, hbusy, hsub⟩ := calStarted_effect tile i s
    exact ⟨_, exec_calibrationStart hd hn hp hk hi, hrun, hbusy, hsub, calStarted_only _ _ _⟩
  · exact converter_fails ha hr

/-- Tile 0 with subarray 9, the second of bank B, as given, the timer at 1,250,000 ticks. -/
def calState (u : Sub) : State := setTile 0 (Tile.setSub {} 9 u) { State.reset with timer := 1250000 }

/-- Commands that Calibrations speaks of, on subarray 9: due, overdue, started, ended well, and ended with converter 259
failed. -/
theorem calibrations_at_work :
    (∃ t, exec (.calibrationDue 0 9) (calState {}) = .next t ∧ ((tileOf 0 t).sub 9).calDue = true) ∧
    (∃ t, exec (.calDueLate 0 9) (calState { calDue := true }) = .next t ∧ eventSet (.tile 0) 27 t = true) ∧
    (∃ t, exec (.calibrationStart 0 9) (calState { calDue := true }) = .next t ∧
      ((tileOf 0 t).sub 9).calRun = some 1250000) ∧
    (∃ t, exec (.calibrationEnd 0 9 ⟨127, 3, none⟩) (calState { calRun := some 1250000 }) = .next t ∧
      fget (.tile 0) Reg.TILE_CAL_TRIM_OFFSET_MAX t = 127) ∧
    ∃ t, exec (.calibrationEnd 0 9 ⟨0, 0, some (259, 2)⟩) (calState { calRun := some 1250000 }) = .next t ∧
      fget (.tile 0) Reg.FENCE_CAUSE t = 6 ∧ fget (.tile 0) Reg.TILE_INTEG_STAT_SUBF_B t = 2 := by
  obtain ⟨hdue, hlate, hstart, hend⟩ := calibrations
  obtain ⟨t, ht, hd, -⟩ := hdue 0 9 (calState {})
  obtain ⟨u, hu, he, -⟩ := hlate 0 9 (calState { calDue := true }) rfl rfl
  obtain ⟨v, hv, hr, -⟩ := hstart 0 9 (calState { calDue := true }) rfl (by decide) rfl rfl (.inl rfl)
  obtain ⟨w, hw, -, -, hm, -⟩ := (hend 0 9 ⟨127, 3, none⟩ (calState { calRun := some 1250000 }) 1250000 rfl).1 rfl
  obtain ⟨x, hx, -, hc, -, hs, -⟩ :=
    (hend 0 9 ⟨0, 0, some (259, 2)⟩ (calState { calRun := some 1250000 }) 1250000 rfl).2 (259, 2) rfl
  exact ⟨⟨t, ht, congrArg Sub.calDue hd⟩, ⟨u, hu, he⟩, ⟨v, hv, hr⟩, ⟨w, hw, hm⟩, x, hx, hc rfl, hs⟩

end Sys2Proof.Machine
end

section
/-! SUPPORT. Ends of passes (O22): a pass that agrees, one issued again (R113), and a persistent mismatch (R114, R118). -/

namespace Sys2Proof.Machine

/-! ## The pass that ends -/

/-- The pass in flight on a subarray of one bank, with its context. -/
def passIn (t : Tile) (sub : Nat) (bank : Bool) : Option (Bool × Pass × Ctx) :=
  (t.sub (8 * bankNum bank + sub)).pass.bind fun q => (ctxOf t q.age).map fun c => (bank, q, c)

theorem passIn_none {t : Tile} {sub : Nat} {bank : Bool} (h : (t.sub (8 * bankNum bank + sub)).pass = none) :
    passIn t sub bank = none := by rw [passIn, h, Option.bind_none]

theorem passIn_some {t : Tile} {sub : Nat} {bank : Bool} {q : Pass} {c : Ctx}
    (h : (t.sub (8 * bankNum bank + sub)).pass = some q) (hc : ctxOf t q.age = some c) :
    passIn t sub bank = some (bank, q, c) := by rw [passIn, h, Option.bind_some, hc, Option.map_some]

/-- Bank A's pass comes first. -/
theorem exec_passEnd (tile : Fin 1056) (sub : Fin 8) (errs : List (Nat × Nat)) (s : State) :
    exec (.passEnd tile sub errs) s =
      match passIn (tileOf tile.val s) sub.val false, passIn (tileOf tile.val s) sub.val true with
      | some x, _ => .next (passEnd tile.val sub.val x.1 x.2.1 x.2.2 errs s)
      | none, some x => .next (passEnd tile.val sub.val x.1 x.2.1 x.2.2 errs s)
      | none, none => .next s := rfl

/-- The index of a subarray of bank A; that of bank B is 8 more. -/
theorem bankA_index (n : Nat) : 8 * bankNum false + n = n := Nat.zero_add n

theorem exec_passEnd_idle {tile : Fin 1056} {sub : Fin 8} (errs : List (Nat × Nat)) {s : State}
    (ha : ((tileOf tile.val s).sub sub.val).pass = none) (hb : ((tileOf tile.val s).sub (8 + sub.val)).pass = none) :
    exec (.passEnd tile sub errs) s = .next s := by
  rw [exec_passEnd, passIn_none (bank := false) (by rwa [bankA_index]), passIn_none (bank := true) hb]

theorem exec_passEnd_of {tile : Fin 1056} {sub : Fin 8} (errs : List (Nat × Nat)) {s : State} {bank : Bool} {q : Pass}
    {c : Ctx} (hq : ((tileOf tile.val s).sub (8 * bankNum bank + sub.val)).pass = some q)
    (ha : bank = true → ((tileOf tile.val s).sub sub.val).pass = none) (hc : ctxOf (tileOf tile.val s) q.age = some c) :
    exec (.passEnd tile sub errs) s = .next (passEnd tile.val sub.val bank q c errs s) := by
  rw [exec_passEnd]
  cases bank with
  | false => rw [passIn_some hq hc]
  | true => rw [passIn_none (bank := false) (by rw [bankA_index]; exact ha rfl), passIn_some hq hc]

/-! ## Counts of a pass -/

/-- The pass is counted, and so are its codes out of range (R70). -/
def passCounted (p : Nat) (errs : List (Nat × Nat)) (s : State) : State :=
  let s := wideInc (tilePage p) Reg.TILE_PASS_CNT_LO_COUNT Reg.TILE_PASS_CNT_HI_COUNT 1 s
  if 0 < outOfRange errs then raise (tilePage p) 8 (satInc (tilePage p) Reg.TILE_OVERRANGE_CNT_COUNT (outOfRange errs) s)
  else s

theorem passCounted_only (p : Nat) (errs : List (Nat × Nat)) (s : State) : Only [.heldOut, .out]
    [(0x20, 0x18, 0x18), (0x20, 0x140, 0x144), (0x20, 0x158, 0x158)] s (passCounted p errs s) := by
  have hw : Only [.heldOut, .out] [(0x20, 0x18, 0x18), (0x20, 0x140, 0x144), (0x20, 0x158, 0x158)] s
      (wideInc (tilePage p) Reg.TILE_PASS_CNT_LO_COUNT Reg.TILE_PASS_CNT_HI_COUNT 1 s) :=
    (wideInc_only 0x20 0x140 0x144 _ _ _ _ _ rfl rfl rfl rfl rfl rfl).mono rfl
  unfold passCounted
  extract_lets s1
  split
  · exact (hw.trans ((satInc_only 0x20 0x158 _ _ _ _ rfl rfl rfl rfl).mono rfl)).trans
      ((raise_only 0x20 _ _ _ rfl rfl).mono rfl)
  · exact hw

theorem passCounted_inRange (p : Nat) {errs : List (Nat × Nat)} (s : State) (h : outOfRange errs = 0) :
    passCounted p errs s = wideInc (tilePage p) Reg.TILE_PASS_CNT_LO_COUNT Reg.TILE_PASS_CNT_HI_COUNT 1 s :=
  if_neg (by omega)

/-- The subarray with another pass in flight, or none. -/
def withFlight (i : Nat) (x : Option Pass) (u : Sub) (t : Tile) : Tile := t.setSub i { u with pass := x }

/-! ## A pass that agrees (R111) -/

/-- The wrong data counts that stand in a pass that agrees. -/
def wrongCounts (b : Bank) (sub : Nat) (q : Pass) (rows : List Nat) (errs : List (Nat × Nat)) : List Over :=
  (errs.filter fun e => decide (e.1 < 1024)).filterMap fun e =>
    let n := trueCount b sub q.group rows e.1
    if e.2 = n then none else some { sub := sub, group := q.group, plane := q.plane, col := e.1, diff := (e.2 : Int) - n }

/-- A pass over a poisoned row raises its event (R67). -/
def poisonConsumed (p : Nat) (b : Bank) (sub : Nat) (q : Pass) (rows : List Nat) (s : State) : State :=
  if consumesPoison b sub q.group rows = true then raise (tilePage p) 12 s else s

theorem poisonConsumed_only (p : Nat) (b : Bank) (sub : Nat) (q : Pass) (rows : List Nat) (s : State) :
    Only [.heldOut, .out] [(0x20, 0x18, 0x18)] s (poisonConsumed p b sub q rows s) :=
  Only.ite (raise_only 0x20 _ _ _ rfl rfl) (Only.refl _ _ _)

/-- A pass that agrees when issued again was a transient mismatch: counted, noted in the record that names it, its event
raised (R113). -/
def retryAgreed (p : Nat) (bank : Bool) (sub : Nat) (q : Pass) (s : State) : State :=
  if q.retry then
    let s := wrapInc (tilePage p) Reg.TILE_CSUM_TRANS_CNT_COUNT 1 s
    raise (tilePage p) 20 (if recordNames p bank sub q s = true then fset (tilePage p) Reg.TILE_CSUM_REC_RETRY_OK 1 s else s)
  else s

theorem retryAgreed_first (p : Nat) (bank : Bool) (sub : Nat) {q : Pass} (s : State) (h : q.retry = false) :
    retryAgreed p bank sub q s = s := if_neg (by rw [h]; decide)

/-- The subarray moves on. -/
def passAgreed (p sub : Nat) (bank : Bool) (q : Pass) (c : Ctx) (rows : List Nat) (errs : List (Nat × Nat)) (s : State) :
    State :=
  let b := (tileOf p s).bank bank
  let i := 8 * bankNum bank + sub
  setCtx p (advance { c with wrongs := c.wrongs ++ wrongCounts b sub q rows errs } sub)
    (modTile p (withFlight i none ((tileOf p s).sub i))
      (poisonConsumed p b sub q rows (retryAgreed p bank sub q (passCounted p errs s))))

/-! ## A mismatch (R113, R114) -/

/-- The pass is counted, the first mismatch recorded, and `x` is in flight on the subarray. -/
def mismatchNoted (p sub : Nat) (bank : Bool) (q : Pass) (rows : List Nat) (errs : List (Nat × Nat)) (x : Option Pass)
    (s : State) : State :=
  let b := (tileOf p s).bank bank
  let i := 8 * bankNum bank + sub
  modTile p (withFlight i x ((tileOf p s).sub i)) (recordMismatch p bank sub q (decide (0 < outOfRange errs))
    (refMismatch b sub q.group rows errs) (passDelta b sub q.group rows errs) (passCounted p errs s))

/-- A mismatch is retried once, and persistent the second time. -/
def passMissed (p sub : Nat) (bank : Bool) (q : Pass) (rows : List Nat) (errs : List (Nat × Nat)) (s : State) : State :=
  if q.retry then persistent p bank sub (mismatchNoted p sub bank q rows errs none s)
  else mismatchNoted p sub bank q rows errs (some { q with retry := true }) s

/-- The checks of a pass (R70, R111, R112): its counts and checksums, its reference columns, its codes. -/
theorem passEnd_eq (p sub : Nat) (bank : Bool) (q : Pass) (c : Ctx) (errs : List (Nat × Nat)) (s : State) :
    passEnd p sub bank q c errs s =
      let b := (tileOf p s).bank bank
      let rows := driven b c.vin sub q.group q.plane
      if passDelta b sub q.group rows errs ≠ 0 ∨ refMismatch b sub q.group rows errs = true ∨ 0 < outOfRange errs then
        passMissed p sub bank q rows errs s
      else passAgreed p sub bank q c rows errs s := rfl

theorem passEnd_agrees {p sub : Nat} {bank : Bool} {q : Pass} {c : Ctx} {errs : List (Nat × Nat)} {s : State}
    {rows : List Nat} (hrows : rows = driven ((tileOf p s).bank bank) c.vin sub q.group q.plane)
    (hd : passDelta ((tileOf p s).bank bank) sub q.group rows errs = 0)
    (hr : refMismatch ((tileOf p s).bank bank) sub q.group rows errs = false) (ho : outOfRange errs = 0) :
    passEnd p sub bank q c errs s = passAgreed p sub bank q c rows errs s := by
  subst hrows
  refine (passEnd_eq p sub bank q c errs s).trans (if_neg ?_)
  rintro (k | k | k)
  · exact k hd
  · exact absurd (hr.symm.trans k) (by decide)
  · exact absurd ho (Nat.ne_of_gt k)

theorem passEnd_misses {p sub : Nat} {bank : Bool} {q : Pass} {c : Ctx} {errs : List (Nat × Nat)} {s : State}
    {rows : List Nat} (hrows : rows = driven ((tileOf p s).bank bank) c.vin sub q.group q.plane)
    (h : passDelta ((tileOf p s).bank bank) sub q.group rows errs ≠ 0 ∨
      refMismatch ((tileOf p s).bank bank) sub q.group rows errs = true) :
    passEnd p sub bank q c errs s = passMissed p sub bank q rows errs s := by
  subst hrows
  exact (passEnd_eq p sub bank q c errs s).trans (if_pos (or_assoc.mp (.inl h)))

/-- CSUM_REC holds a mismatch, this one or an earlier one. -/
theorem recordMismatch_valid (p : Nat) (bank : Bool) (sub : Nat) (q : Pass) (ovr ref : Bool) (delta : Int) (s : State) :
    fget (tilePage p) Reg.TILE_CSUM_REC_VALID (recordMismatch p bank sub q ovr ref delta s) = 1 := by
  unfold recordMismatch
  extract_lets g
  split
  · rename_i h
    exact h
  · exact fset_reads _ _ _ _ rfl

section
variable (p sub : Nat) (bank : Bool) (q : Pass) (rows : List Nat) (errs : List (Nat × Nat)) (x : Option Pass) (s : State)

theorem mismatchNoted_only : Only [.tiles, .heldOut, .out]
    [(0x20, 0x18, 0x18), (0x20, 0x140, 0x144), (0x20, 0x158, 0x158), (0x20, 0x304, 0x308)] s
    (mismatchNoted p sub bank q rows errs x s) :=
  (((passCounted_only p errs s).mono rfl).trans ((recordMismatch_only _ _ _ _ _ _ _ _).mono rfl)).trans
    ((modTile_only _ _ _).mono rfl)

theorem tileOf_mismatchNoted : tileOf p (mismatchNoted p sub bank q rows errs x s) =
    withFlight (8 * bankNum bank + sub) x ((tileOf p s).sub (8 * bankNum bank + sub)) (tileOf p s) := by
  rw [mismatchNoted, tileOf_modTile, (recordMismatch_only _ _ _ _ _ _ _ _).sameTile rfl p,
    (passCounted_only p errs s).sameTile rfl p]

theorem mismatchNoted_valid : fget (tilePage p) Reg.TILE_CSUM_REC_VALID (mismatchNoted p sub bank q rows errs x s) = 1 :=
  recordMismatch_valid _ _ _ _ _ _ _ _

/-- The repairs of the last second are those of before. -/
theorem mismatchNoted_recent :
    recentRepairs (tileOf p (mismatchNoted p sub bank q rows errs x s)) (mismatchNoted p sub bank q rows errs x s) =
      recentRepairs (tileOf p s) s := by
  have htimer := (mismatchNoted_only p sub bank q rows errs x s).parts .timer (by decide) (by decide)
  rw [tileOf_mismatchNoted, recentRepairs, htimer]
  rfl

end

/-! ## A persistent mismatch (R114, R118) -/

/-- The mismatch is counted and its event raised. -/
def persistCounted (p : Nat) (s : State) : State :=
  raise (tilePage p) 21 (satInc (tilePage p) Reg.TILE_CSUM_PERSIST_CNT_COUNT 1 s)

/-- With fewer than two repairs in the last second, a persistent mismatch fences the bank and no more. -/
theorem persistent_fences {p : Nat} (bank : Bool) (sub : Nat) {s : State} (h : recentRepairs (tileOf p s) s < 2) :
    persistent p bank sub s = fenceBank p bank sub (persistCounted p s) := by
  have hrecent : recentRepairs (tileOf p (persistCounted p s)) (persistCounted p s) = recentRepairs (tileOf p s) s := by
    rw [persistCounted, recentRepairs, tileOf_raise, tileOf_satInc, raise_timer, satInc_timer, ← recentRepairs]
  exact if_neg (by rw [decide_eq_true_eq]; exact Nat.not_le.mpr (hrecent ▸ h))

theorem persistCounted_only (p : Nat) (s : State) :
    Only [.heldOut, .out] [(0x20, 0x18, 0x18), (0x20, 0x310, 0x310)] s (persistCounted p s) :=
  ((satInc_only 0x20 0x310 _ _ _ _ rfl rfl rfl rfl).mono rfl).trans ((raise_only 0x20 _ _ _ rfl rfl).mono rfl)

theorem persistCounted_count (p : Nat) (s : State) :
    fget (tilePage p) Reg.TILE_CSUM_PERSIST_CNT_COUNT (persistCounted p s) =
      min (fget (tilePage p) Reg.TILE_CSUM_PERSIST_CNT_COUNT s + 1) 65535 :=
  (raise_keeps _ _ _ _ _ rfl).trans (fget_satInc_same _ _ _ _ rfl)

/-- What a persistent mismatch shows, in a tile that is no primary and has had no two repairs in the last second. -/
theorem persistent_effect {p : Nat} (bank : Bool) (sub : Nat) {s : State} (hp : isPrimary p s = false)
    (h : recentRepairs (tileOf p s) s < 2) :
    eventSet (tilePage p) 21 (persistent p bank sub s) = true ∧
      fget (tilePage p) Reg.TILE_CSUM_PERSIST_CNT_COUNT (persistent p bank sub s) =
        min (fget (tilePage p) Reg.TILE_CSUM_PERSIST_CNT_COUNT s + 1) 65535 ∧
      ((tileOf p (persistent p bank sub s)).bank bank).st = .fenced ∧
      ((tileOf p (persistent p bank sub s)).bank bank).hold = true := by
  have hbank := fenceBank_bank (s := persistCounted p s) bank sub (((persistCounted_only p s).primary p rfl rfl).trans hp)
  obtain ⟨-, hevents⟩ := grows_fenceBank p bank sub (persistCounted p s)
  rw [persistent_fences bank sub h, hbank]
  exact ⟨hevents _ _ (eventSet_raise (tilePage p) 21 _ rfl (by decide)),
    ((fenceBank_only p bank sub _).fget _ _ rfl rfl rfl).trans (persistCounted_count p s), rfl, rfl⟩

/-! ## The clauses -/

theorem passAgreed_effect {p sub : Nat} {bank : Bool} {q : Pass} (c : Ctx) (rows : List Nat) {errs : List (Nat × Nat)}
    (s : State) (ho : outOfRange errs = 0) (hq : q.retry = false) :
    ((tileOf p (passAgreed p sub bank q c rows errs s)).sub (8 * bankNum bank + sub)).pass = none ∧
      wideGet (tilePage p) Reg.TILE_PASS_CNT_LO_COUNT Reg.TILE_PASS_CNT_HI_COUNT (passAgreed p sub bank q c rows errs s) =
        (wideGet (tilePage p) Reg.TILE_PASS_CNT_LO_COUNT Reg.TILE_PASS_CNT_HI_COUNT s + 1) % 2 ^ 64 ∧
      (consumesPoison ((tileOf p s).bank bank) sub q.group rows = true →
        eventSet (tilePage p) 12 (passAgreed p sub bank q c rows errs s) = true) ∧
      (tileOf p (passAgreed p sub bank q c rows errs s)).ctxs.length = (tileOf p s).ctxs.length := by
  have hpoison := poisonConsumed_only p ((tileOf p s).bank bank) sub q rows (passCounted p errs s)
  have htile := (hpoison.sameTile rfl p).trans ((passCounted_only p errs s).sameTile rfl p)
  rw [passAgreed, retryAgreed_first _ _ _ _ hq]
  refine ⟨?_, ?_, fun hc => ?_, ?_⟩
  · rw [setCtx, tileOf_modTile, tileOf_modTile]
    exact congrArg Sub.pass (sub_setSub _ _ _)
  · rw [wideGet, fget_setCtx, fget_setCtx, fget_modTile, fget_modTile, hpoison.fget _ _ rfl rfl rfl,
      hpoison.fget _ _ rfl rfl rfl, passCounted_inRange p s ho]
    exact wideGet_wideInc _ _ _ _ _ rfl rfl rfl
  · rw [poisonConsumed, if_pos hc]
    exact eventSet_raise (tilePage p) 12 _ rfl (by decide)
  · rw [setCtx, tileOf_modTile, tileOf_modTile, List.length_map, htile]
    rfl

/-- The first mismatch issues the pass again. -/
theorem passMissed_first {p sub : Nat} {bank : Bool} {q : Pass} (rows : List Nat) (errs : List (Nat × Nat)) (s : State)
    (hq : q.retry = false) :
    ((tileOf p (passMissed p sub bank q rows errs s)).sub (8 * bankNum bank + sub)).pass = some { q with retry := true } ∧
      fget (tilePage p) Reg.TILE_CSUM_REC_VALID (passMissed p sub bank q rows errs s) = 1 ∧
      (tileOf p (passMissed p sub bank q rows errs s)).ctxs = (tileOf p s).ctxs := by
  rw [passMissed, if_neg (by rw [hq]; decide), tileOf_mismatchNoted]
  exact ⟨congrArg Sub.pass (sub_setSub _ _ _), mismatchNoted_valid _ _ _ _ _ _ _ _, rfl⟩

/-- The second mismatch is persistent. -/
theorem passMissed_persists {p sub : Nat} {bank : Bool} {q : Pass} (rows : List Nat) (errs : List (Nat × Nat)) {s : State}
    (hq : q.retry = true) (hp : isPrimary p s = false) (h : recentRepairs (tileOf p s) s < 2) :
    eventSet (tilePage p) 21 (passMissed p sub bank q rows errs s) = true ∧
      fget (tilePage p) Reg.TILE_CSUM_PERSIST_CNT_COUNT (passMissed p sub bank q rows errs s) =
        min (fget (tilePage p) Reg.TILE_CSUM_PERSIST_CNT_COUNT s + 1) 65535 ∧
      ((tileOf p (passMissed p sub bank q rows errs s)).bank bank).st = .fenced ∧
      ((tileOf p (passMissed p sub bank q rows errs s)).bank bank).hold = true := by
  have hnoted := mismatchNoted_only p sub bank q rows errs none s
  rw [passMissed, if_pos hq, ← hnoted.fget (tilePage p) Reg.TILE_CSUM_PERSIST_CNT_COUNT rfl rfl rfl]
  exact persistent_effect bank sub ((hnoted.primary p rfl rfl).trans hp) (by rwa [mismatchNoted_recent])

/-- Settles O22: the checks decide, and a pass that fails them is issued again or, the second time, fences its bank. -/
theorem passEnds : Obligations.PassEnds := by
  refine ⟨fun tile sub errs s ha hb => exec_passEnd_idle errs ha hb,
    fun tile sub errs s bank q c b rows hb hpass ha hc hrows => ?_⟩
  subst hb
  rw [exec_passEnd_of errs hpass ha hc, ← tilePage_val]
  refine ⟨fun hd hr ho hq => ⟨_, rfl, ?_⟩, fun h hq => ⟨_, rfl, ?_⟩, fun h hq hp hrep => ⟨_, rfl, ?_⟩⟩
  · rw [passEnd_agrees hrows hd hr ho]
    exact passAgreed_effect c rows s ho hq
  · rw [passEnd_misses hrows h]
    exact passMissed_first rows errs s hq
  · rw [passEnd_misses hrows h]
    exact passMissed_persists rows errs hq hp hrep

/-- The tile of `passState` with the pass of its task's first plane and row group in flight on subarray 0, or that pass
issued again. -/
def flightState (retry : Bool) : State :=
  modTile 0 (fun t => withFlight 0 (some ⟨0, 0, 0, retry⟩) (t.sub 0) t) (passState 0 [1])

/-- Passes that PassEnds speaks of: none in flight on subarray 1; on subarray 0 one that agrees, and column 0 one count too
high on the first and on the second try. -/
theorem passes_end_at_work :
    exec (.passEnd 0 1 []) (flightState false) = .next (flightState false) ∧
    (∃ t, exec (.passEnd 0 0 []) (flightState false) = .next t ∧
      wideGet (.tile 0) Reg.TILE_PASS_CNT_LO_COUNT Reg.TILE_PASS_CNT_HI_COUNT t = 1) ∧
    (∃ t, exec (.passEnd 0 0 [(0, 1)]) (flightState false) = .next t ∧
      ((tileOf 0 t).sub 0).pass = some ⟨0, 0, 0, true⟩) ∧
    ∃ t, exec (.passEnd 0 0 [(0, 1)]) (flightState true) = .next t ∧
      fget (.tile 0) Reg.TILE_CSUM_PERSIST_CNT_COUNT t = 1 ∧ ((tileOf 0 t).bank false).st = .fenced := by
  obtain ⟨hidle, hends⟩ := passEnds
  obtain ⟨hagrees, -, -⟩ := hends 0 0 [] (flightState false) false _ _ _ _ rfl rfl (fun h => by cases h) rfl rfl
  obtain ⟨-, hagain, -⟩ := hends 0 0 [(0, 1)] (flightState false) false _ _ _ _ rfl rfl (fun h => by cases h) rfl rfl
  obtain ⟨-, -, hpersists⟩ := hends 0 0 [(0, 1)] (flightState true) false _ _ _ _ rfl rfl (fun h => by cases h) rfl rfl
  obtain ⟨t, ht, -, hn, -⟩ := hagrees (by decide) (by decide) (by decide) rfl
  obtain ⟨u, hu, hp, -⟩ := hagain (.inl (by decide)) rfl
  obtain ⟨v, hv, -, hc, hf, -⟩ := hpersists (.inl (by decide)) rfl rfl (by decide)
  exact ⟨hidle 0 1 [] (flightState false) rfl rfl, ⟨t, ht, hn⟩, ⟨u, hu, hp⟩, v, hv, hc, hf⟩

end Sys2Proof.Machine
end

section
/-! SUPPORT. Steals (O33): a thief's probe (R151, R152), a victim's answer (R153), the slot of a granted task (R154, R155), a
denial and its wait (R154). -/

namespace Sys2Proof.Machine

/-! ## The probe (R151, R152) -/

/-- A probe has left for a victim. -/
def probeSent (thief : Fin 1056) (v : Nat) (s : State) : State :=
  send (.probe v thief.val) (wrapInc (.tile thief) Reg.TILE_STEAL_PROBE_CNT_COUNT 1
    (modTile thief.val (fun t => { t with probe := true }) s))

theorem exec_stealProbeSend_idle {thief : Fin 1056} {s : State} (h : mayProbe thief.val s = false) :
    exec (.stealProbeSend thief) s = .next s := if_pos h

theorem exec_stealProbeSend {thief : Fin 1056} {s : State} {v : Nat} (h : mayProbe thief.val s = true)
    (hv : (drawVictim thief.val (radiusOf thief.val s) 4 s).1 = some v) : exec (.stealProbeSend thief) s =
      .next (probeSent thief v (drawVictim thief.val (radiusOf thief.val s) 4 s).2) := by
  show execStealProbeSend thief s = _
  simp only [execStealProbeSend, h, hv, Bool.true_eq_false, if_false]
  rfl

/-- After draws, a probe adds one message and one count, and is outstanding. -/
theorem probeSent_effect (thief : Fin 1056) (v : Nat) {s t : State} (h : Only [.free] [] s t) :
    (tileOf thief.val (probeSent thief v t)).probe = true ∧
      (probeSent thief v t).mesh = s.mesh ++ [.probe v thief.val] ∧
      fget (.tile thief) Reg.TILE_STEAL_PROBE_CNT_COUNT (probeSent thief v t) =
        (fget (.tile thief) Reg.TILE_STEAL_PROBE_CNT_COUNT s + 1) % 2 ^ 32 := by
  have hmesh : t.mesh = s.mesh := h.parts .mesh (by decide) (by decide)
  refine ⟨?_, ?_, ?_⟩
  · rw [probeSent, tileOf_send, tileOf_wrapInc, tileOf_modTile]
  · rw [probeSent, send, wrapInc_mesh, modTile_mesh, hmesh]
  · rw [probeSent, fget_send, ← h.fget _ _ rfl rfl rfl]
    exact fset_reads _ _ _ _ rfl

/-! ## The victim's answer (R152, R153) -/

/-- A tile gives tasks away: it serves, GIVE_EN is set, it is not fenced and does not sleep. -/
def canGive (victim : Fin 1056) (s : State) : Bool :=
  decide (logicalOf victim.val s ≠ 0x7FF) && decide (fget (.tile victim) Reg.TILE_DQ_CFG_GIVE_EN s = 1) &&
    !fenced (.tile victim) s && decide ((tileOf victim.val s).level = .run ∨ (tileOf victim.val s).level = .idle)

/-- The task that a probe gets from a tile, if any. -/
def offered (victim : Fin 1056) (s : State) : Option Entry :=
  if canGive victim s then stealable (tileOf victim.val s) else none

/-- A probe has arrived. -/
def probed (victim thief : Fin 1056) (s : State) : State := arrive (.probe victim.val thief.val) s

/-- A task has left the deque of a victim, is counted, and its slot's credit is on its way. -/
def taskTaken (victim : Fin 1056) (e : Entry) (s : State) : State :=
  returnCredit victim.val e (wrapInc (.tile victim) Reg.TILE_STEAL_GIVEN_CNT_COUNT 1
    (modTile victim.val (fun t => { t with deque := t.deque.filter fun x => decide (x.age ≠ e.age) }) s))

/-- The victim after a task has left: its spill queue has moved on (R149). -/
def taskGone (victim : Fin 1056) (e : Entry) (s : State) : State :=
  drainSpill ((tileOf victim.val (taskTaken victim e s)).spill.length + 1) victim.val (taskTaken victim e s)

theorem exec_stealProbe_denied {victim : Fin 1056} (thief : Fin 1056) {s : State} (h : offered victim s = none) :
    exec (.stealProbe victim thief) s = .next (send (.deny thief.val) (probed victim thief s)) := by
  show execStealProbe victim thief s = _
  unfold execStealProbe
  extract_lets v s1 t gives
  split
  · rfl
  · rename_i e he
    cases h.symm.trans he

theorem exec_stealProbe_given {victim : Fin 1056} (thief : Fin 1056) {s : State} {e : Entry} (h : offered victim s = some e) :
    exec (.stealProbe victim thief) s = .next (send (.grant victim.val
      (BitVec.ofNat 10 (logicalOf thief.val (taskGone victim e (probed victim thief s)))) e.d e.age)
        (taskGone victim e (probed victim thief s))) := by
  show execStealProbe victim thief s = _
  unfold execStealProbe
  extract_lets v s1 t gives
  split
  · rename_i he
    cases h.symm.trans he
  · rename_i x hx
    cases h.symm.trans hx
    rfl

theorem offered_none {victim : Fin 1056} {s : State} (h : fenced (.tile victim) s = true ∨ logicalOf victim.val s = 0x7FF ∨
    fget (.tile victim) Reg.TILE_DQ_CFG_GIVE_EN s = 0 ∨ stealable (tileOf victim.val s) = none) :
    offered victim s = none := by
  unfold offered
  rcases h with h | h | h | h
  · exact if_neg (by simp [canGive, h])
  · exact if_neg (by simp [canGive, h])
  · exact if_neg (by simp [canGive, h])
  · rw [h, ite_self]

theorem offered_some {victim : Fin 1056} {s : State} {e : Entry} (hf : fenced (.tile victim) s = false)
    (hl : logicalOf victim.val s ≠ 0x7FF) (hg : fget (.tile victim) Reg.TILE_DQ_CFG_GIVE_EN s = 1)
    (hw : (tileOf victim.val s).level = .run ∨ (tileOf victim.val s).level = .idle)
    (he : stealable (tileOf victim.val s) = some e) : offered victim s = some e :=
  (if_pos (by simp [canGive, hf, hl, hg, hw])).trans he

/-- Without a spilled signal the deque is left as it is. -/
theorem drainSpill_empty (n : Nat) {p : Nat} {s : State} (h : (tileOf p s).spill = []) :
    (tileOf p (drainSpill n p s)).deque = (tileOf p s).deque := by
  cases n with
  | zero => rfl
  | succ n =>
    rw [drainSpill, h]
    dsimp only
    split
    · rw [tileOf_modTile]
    · rfl

section
variable (victim : Fin 1056) (e : Entry) (s : State)

theorem tileOf_taskTaken : tileOf victim.val (taskTaken victim e s) = { tileOf victim.val s with
    deque := (tileOf victim.val s).deque.filter fun x => decide (x.age ≠ e.age) } := by
  rw [taskTaken, (returnCredit_only _ _ _).sameTile rfl, tileOf_wrapInc, tileOf_modTile]

theorem taskTaken_count : fget (.tile victim) Reg.TILE_STEAL_GIVEN_CNT_COUNT (taskTaken victim e s) =
    (fget (.tile victim) Reg.TILE_STEAL_GIVEN_CNT_COUNT s + 1) % 2 ^ 32 :=
  ((returnCredit_only _ _ _).fget _ _ rfl rfl rfl).trans (fset_reads _ _ _ _ rfl)

theorem taskGone_count : fget (.tile victim) Reg.TILE_STEAL_GIVEN_CNT_COUNT (taskGone victim e s) =
    (fget (.tile victim) Reg.TILE_STEAL_GIVEN_CNT_COUNT s + 1) % 2 ^ 32 :=
  ((drainSpill_only _ _ _).fget _ _ rfl rfl rfl).trans (taskTaken_count victim e s)

/-- Giving a task moves no tile's logical number. -/
theorem taskGone_logical (p : Nat) : logicalOf p (taskGone victim e s) = logicalOf p s :=
  ((drainSpill_only _ _ _).fget _ _ rfl rfl rfl).trans (((returnCredit_only _ _ _).fget _ _ rfl rfl rfl).trans
    ((wrapInc_only 0x20 0x430 _ _ _ _ rfl rfl rfl rfl).fget _ _ rfl rfl rfl))

end

theorem taskGone_deque {victim : Fin 1056} (e : Entry) {s : State} (h : (tileOf victim.val s).spill = []) :
    ∀ x ∈ (tileOf victim.val (taskGone victim e s)).deque, x.age ≠ e.age := by
  have hspill : (tileOf victim.val (taskTaken victim e s)).spill = [] := by rw [tileOf_taskTaken]; exact h
  rw [taskGone, drainSpill_empty _ hspill, tileOf_taskTaken]
  exact fun x hx => of_decide_eq_true (List.mem_filter.mp hx).2

theorem task_is_given {victim : Fin 1056} (thief : Fin 1056) {s : State} {e : Entry} (h : offered victim s = some e)
    (hs : (tileOf victim.val s).spill = []) :
    ∃ t g, exec (.stealProbe victim thief) s = .next t ∧ .grant victim.val g e.d e.age ∈ t.mesh ∧
      g.toNat = logicalOf thief.val s % 1024 ∧ (∀ x ∈ (tileOf victim.val t).deque, x.age ≠ e.age) ∧
      fget (.tile victim) Reg.TILE_STEAL_GIVEN_CNT_COUNT t =
        (fget (.tile victim) Reg.TILE_STEAL_GIVEN_CNT_COUNT s + 1) % 2 ^ 32 := by
  refine ⟨_, _, exec_stealProbe_given thief h, List.mem_append_right _ (List.mem_singleton.mpr rfl), ?_, ?_, ?_⟩
  · rw [taskGone_logical]
    exact BitVec.toNat_ofNat _ _
  · rw [tileOf_send]
    exact taskGone_deque e hs
  · rw [fget_send, taskGone_count]
    rfl

/-! ## The grant (R154, R155) -/

/-- A thief whose probe is answered waits no more, and the grant is counted. -/
def grantCounted (p : Nat) (s : State) : State :=
  wrapInc (tilePage p) Reg.TILE_STEAL_GRANT_CNT_COUNT 1
    (modTile p (fun t => { t with probe := false, denies := 0, backoffUntil := 0 }) s)

/-- The entry of a task back at its victim, with its original age. -/
def returnedEntry (d : Desc) (age : Nat) : Entry :=
  { d := { d with stolen := false }, st := .ready, part := .spawn, poster := .north, age := age, vec := 0, victim := none }

/-- A message's arrival moves no logical number. -/
theorem findTile_arrive (l : Nat) (m : Msg) (s : State) (ps : List Nat) : findTile l (arrive m s) ps = findTile l s ps := by
  induction ps with
  | nil => rfl
  | cons p ps ih => rw [findTile, findTile, ih]; rfl

theorem serving_arrive (l : Nat) (m : Msg) (s : State) : serving l (arrive m s) = serving l s :=
  findTile_arrive l m s (mappedTiles s)

theorem exec_stealGrant_served {victim : Fin 1056} {l : BitVec 10} (d : Desc) (age : Nat) {s : State} {p : Nat}
    (h : serving l.toNat s = some p) : exec (.stealGrant victim l d age) s =
      .next (pushEntry p { d with stolen := true } .ready .stolen .north (some victim.val)
        (grantCounted p (arrive (.grant victim.val l d age) s))) := by
  show execStealGrant victim l d age s = _
  simp only [execStealGrant, serving_arrive, h]
  rfl

theorem exec_stealGrant_unserved {victim : Fin 1056} {l : BitVec 10} (d : Desc) (age : Nat) {s : State}
    (h : serving l.toNat s = none) : exec (.stealGrant victim l d age) s =
      .next (modTile victim.val (fun t => { t with deque := t.deque ++ [returnedEntry d age] })
        (arrive (.grant victim.val l d age) s)) := by
  show execStealGrant victim l d age s = _
  simp only [execStealGrant, serving_arrive, h]
  rfl

theorem tileOf_grantCounted (p : Nat) (s : State) : tileOf p (grantCounted p s) =
    { tileOf p s with probe := false, denies := 0, backoffUntil := 0 } := by
  rw [grantCounted, tileOf_wrapInc, tileOf_modTile]

theorem grant_takes_slot {victim : Fin 1056} {l : BitVec 10} (d : Desc) (age : Nat) {s : State} {p : Nat}
    (h : serving l.toNat s = some p) :
    ∃ t, exec (.stealGrant victim l d age) s = .next t ∧ (tileOf p t).deque = (tileOf p s).deque ++
      [⟨{ d with stolen := true }, .ready, .stolen, .north, (tileOf p s).ages, 0, some victim.val⟩] ∧
      (tileOf p t).probe = false ∧ (tileOf p t).denies = 0 ∧ (tileOf p t).backoffUntil = 0 ∧
      fget (tilePage p) Reg.TILE_STEAL_GRANT_CNT_COUNT t =
        (fget (tilePage p) Reg.TILE_STEAL_GRANT_CNT_COUNT s + 1) % 2 ^ 32 := by
  refine ⟨_, exec_stealGrant_served d age h, ?_⟩
  rw [tileOf_pushEntry, tileOf_grantCounted, tileOf_arrive, (pushEntry_only _ _ _ _ _ _ _).fget _ _ rfl rfl rfl]
  exact ⟨rfl, rfl, rfl, rfl, fset_reads _ _ _ _ rfl⟩

theorem grant_returns {victim : Fin 1056} {l : BitVec 10} (d : Desc) (age : Nat) {s : State} (h : serving l.toNat s = none) :
    ∃ t, exec (.stealGrant victim l d age) s = .next t ∧ ∃ x, (tileOf victim.val t).deque = (tileOf victim.val s).deque ++ [x] ∧
      x.d = { d with stolen := false } ∧ x.age = age ∧ x.st = .ready := by
  refine ⟨_, exec_stealGrant_unserved d age h, returnedEntry d age, ?_, rfl, rfl, rfl⟩
  rw [tileOf_modTile, tileOf_arrive]

/-! ## The denial (R154) -/

/-- A denial has arrived and is counted. -/
def denialCounted (thief : Fin 1056) (s : State) : State :=
  wrapInc (.tile thief) Reg.TILE_STEAL_DENY_CNT_COUNT 1 (arrive (.deny thief.val) s)

/-- The thief after a denial: no probe is outstanding, and the wait that begins has one doubling more than the last. -/
def denied (thief : Fin 1056) (s : State) : State :=
  modTile thief.val (fun t => { t with
    probe := false, denies := t.denies + 1,
    backoffUntil := (denialCounted thief s).timer + 2 ^ backoffExp thief.val t.denies (denialCounted thief s) })
    (denialCounted thief s)

theorem exec_stealDeny (thief : Fin 1056) (s : State) : exec (.stealDeny thief) s = .next (denied thief s) := rfl

/-- A denial's count leaves DQ_CFG, and so the wait. -/
theorem backoffExp_denialCounted (thief : Fin 1056) (n : Nat) (s : State) :
    backoffExp thief.val n (denialCounted thief s) = min (fget (.tile thief) Reg.TILE_DQ_CFG_BO_MIN s + n)
      (max (fget (.tile thief) Reg.TILE_DQ_CFG_BO_MIN s) (fget (.tile thief) Reg.TILE_DQ_CFG_BO_MAX s)) := by
  have hcfg : ∀ f : Field, f.off = 0x400 → fget (.tile thief) f (denialCounted thief s) = fget (.tile thief) f s :=
    fun f hf => ((wrapInc_only 0x20 0x42c _ _ _ _ rfl rfl rfl rfl).fget _ _ rfl (by rw [hf]; rfl) (by rw [hf]; rfl)).trans
      (fget_arrive _ _ _ _)
  rw [backoffExp, tilePage_val, hcfg _ rfl, hcfg _ rfl]

theorem tileOf_denied (thief : Fin 1056) (s : State) : tileOf thief.val (denied thief s) = { tileOf thief.val s with
    probe := false, denies := (tileOf thief.val s).denies + 1,
    backoffUntil := s.timer + 2 ^ min (fget (.tile thief) Reg.TILE_DQ_CFG_BO_MIN s + (tileOf thief.val s).denies)
      (max (fget (.tile thief) Reg.TILE_DQ_CFG_BO_MIN s) (fget (.tile thief) Reg.TILE_DQ_CFG_BO_MAX s)) } := by
  rw [denied, tileOf_modTile, backoffExp_denialCounted, denialCounted, wrapInc_timer, arrive_timer, tileOf_wrapInc, tileOf_arrive]

theorem denied_count (thief : Fin 1056) (s : State) : fget (.tile thief) Reg.TILE_STEAL_DENY_CNT_COUNT (denied thief s) =
    (fget (.tile thief) Reg.TILE_STEAL_DENY_CNT_COUNT s + 1) % 2 ^ 32 :=
  (fget_modTile _ _ _ _ _).trans (fset_reads _ _ _ _ rfl)

/-! ## The clauses -/

/-- Settles O33: each clause is the effect of one command of a steal; the victim's is that of its deque without the task, which
an empty spill queue leaves. -/
theorem steals : Obligations.Steals := by
  refine ⟨fun thief s h => exec_stealProbeSend_idle h, fun thief s v h hv =>
      ⟨_, exec_stealProbeSend h hv, probeSent_effect thief v (drawVictim_only _ _ 4 s)⟩,
    fun victim thief s h => ⟨_, exec_stealProbe_denied thief (offered_none h), rfl, ?_⟩,
    fun victim thief s e hf hl hg hw he hs => task_is_given thief (offered_some hf hl hg hw he) hs,
    fun victim l d age s p h => grant_takes_slot d age h, fun victim l d age s h => grant_returns d age h,
    fun thief s => ⟨_, exec_stealDeny thief s, ?_⟩, fun thief s => ⟨_, rfl, rfl, reach_only _ s⟩⟩
  · exact (arrive_only _ s).trans (send_only _ _)
  · rw [tileOf_denied]
    exact ⟨rfl, rfl, rfl, denied_count thief s⟩

/-! ## Steals at work -/

/-- Tile 280, which lies four and more tiles from every edge of its half's mesh, finds a tile at every offset of RADIUS 4. -/
theorem atOffset_middle : ∀ o ∈ offsets 4, (atOffset 280 o).isSome = true := by decide

theorem offsets_length_pos : 0 < (offsets 4).length := by decide

/-- The first draw of tile 280 finds a victim, whatever it gives. -/
theorem drawVictim_middle (n : Nat) (s : State) : ∃ v, (drawVictim 280 4 (n + 1) s).1 = some v := by
  have hi : Config.freeNat s.free % max 1 (offsets 4).length < (offsets 4).length := by
    rw [Nat.max_eq_right offsets_length_pos]
    exact Nat.mod_lt _ offsets_length_pos
  have hmem : nth (0, 0) (offsets 4) (Config.freeNat s.free % max 1 (offsets 4).length) ∈ offsets 4 := by
    rw [nth, List.getElem?_eq_getElem hi]
    exact List.getElem_mem hi
  obtain ⟨v, hv⟩ := Option.isSome_iff_exists.mp (atOffset_middle _ hmem)
  refine ⟨v, ?_⟩
  simp only [drawVictim, hv]

/-- A Bulk vector task that may be stolen. -/
def stealTask : Desc := { descOf (fun _ => 0) with kind := 1, cls := 2, steal := true }

/-- Tile 280, ON and serving number 3, idle beside tile 281, which serves number 4 and has `stealTask` READY. -/
def stealState : State :=
  setTile 281 { deque := [⟨stealTask, .ready, .posted, .north, 0, 0, none⟩], ages := 1 }
    (State.reset |> fset (.tile 280) Reg.BLK_STATE_STATE 2 |> fset (.tile 280) Reg.TILE_BENCH_MAP_LOGICAL 3
      |> fset (.tile 281) Reg.TILE_BENCH_MAP_LOGICAL 4)

/-- Commands that Steals speaks of: tile 280 probes and tile 281, which is not ON, does not; tile 281 gives its task and tile 280
denies; the task takes a slot of tile 280, or returns where no tile serves the thief's number; the denial is counted. -/
theorem steals_at_work :
    exec (.stealProbeSend 281) stealState = .next stealState ∧
    (∃ t, exec (.stealProbeSend 280) stealState = .next t ∧ fget (.tile 280) Reg.TILE_STEAL_PROBE_CNT_COUNT t = 1) ∧
    (∃ t, exec (.stealProbe 280 281) stealState = .next t ∧ t.mesh = [.deny 281]) ∧
    (∃ t, exec (.stealProbe 281 280) stealState = .next t ∧ fget (.tile 281) Reg.TILE_STEAL_GIVEN_CNT_COUNT t = 1) ∧
    (∃ t, exec (.stealGrant 281 3 stealTask 0) stealState = .next t ∧ (tileOf 280 t).deque =
      [⟨{ stealTask with stolen := true }, .ready, .stolen, .north, 0, 0, some 281⟩]) ∧
    (∃ t, exec (.stealGrant 281 9 stealTask 0) stealState = .next t ∧ (tileOf 281 t).deque.length = 2) ∧
    ∃ t, exec (.stealDeny 280) stealState = .next t ∧ (tileOf 280 t).backoffUntil = 1 := by
  obtain ⟨hidle, hprobe, hdenied, hgiven, hserved, hreturned, hdeny, -⟩ := steals
  obtain ⟨v, hv⟩ := drawVictim_middle 3 stealState
  obtain ⟨a, ha, -, -, hcount⟩ := hprobe 280 stealState v rfl hv
  obtain ⟨b, hb, hmesh, -⟩ := hdenied 280 281 stealState (.inr (.inr (.inr rfl)))
  obtain ⟨c, g, hc, -, -, -, hgave⟩ := hgiven 281 280 stealState ⟨stealTask, .ready, .posted, .north, 0, 0, none⟩ rfl
    (by decide) rfl (.inl rfl) rfl rfl
  obtain ⟨d, hd, hslot, -⟩ := hserved 281 3 stealTask 0 stealState 280 rfl
  obtain ⟨e, he, x, hback, -⟩ := hreturned 281 9 stealTask 0 stealState rfl
  obtain ⟨f, hf, -, -, hwait, -⟩ := hdeny 280 stealState
  exact ⟨hidle 281 stealState rfl, ⟨a, ha, hcount⟩, ⟨b, hb, hmesh⟩, ⟨c, hc, hgave⟩, ⟨d, hd, hslot⟩,
    ⟨e, he, by rw [show (281 : Nat) = (281 : Fin 1056).val from rfl, hback]; rfl⟩, f, hf, hwait⟩

end Sys2Proof.Machine
end

section
/-! SUPPORT. The idle step (O2): what a tick adds to the device timer, at OFF and in every other phase. -/

namespace Sys2Proof.Machine

/-! ## The tick (R314, R399) -/

/-- A step on an empty queue is a tick (log entry 3). -/
theorem step_of_pending_nil {s : State} (h : s.pending = []) : step s = .next (tick s) := by
  simp only [step, h]

theorem tick_of_not_off {s : State} (h : s.phase ≠ .off) : tick s = { s with timer := s.timer + 1 } := if_neg h

theorem tick_of_off {s : State} (h : s.phase = .off) :
    tick s = { s with timer := s.timer + (s.timerFrac + 62500000) / 32768,
                      timerFrac := (s.timerFrac + 62500000) % 32768 } := if_pos h

/-- At OFF the timer and its accumulator are one count of 1/32,768 of a tick: what the division by 32,768 drops stays in the
accumulator, so no cycle of the slow clock loses time (R399). -/
theorem tick_count_of_off {s : State} (h : s.phase = .off) :
    32768 * (tick s).timer + (tick s).timerFrac = 32768 * s.timer + s.timerFrac + 62500000 := by
  have hdiv := Nat.div_add_mod (s.timerFrac + 62500000) 32768
  rw [tick_of_off h]
  dsimp only
  omega

theorem tick_timerFrac_lt_of_off {s : State} (h : s.phase = .off) : (tick s).timerFrac < 32768 := by
  rw [tick_of_off h]
  exact Nat.mod_lt _ (by decide)

/-- Settles O2: an idle step is a tick, whose frame is `tick_only`; at OFF it adds a slow cycle's share, else one. -/
theorem idleStepTicksTimer : Obligations.IdleStepTicksTimer := by
  intro s hq
  refine ⟨tick s, step_of_pending_nil hq, tick_only s, fun hon => ?_, fun hoff => ?_⟩
  · rw [tick_of_not_off hon]
    exact ⟨rfl, rfl⟩
  · exact ⟨tick_count_of_off hoff, tick_timerFrac_lt_of_off hoff⟩

/-! ## Idle steps at work -/

/-- Idle steps that IdleStepTicksTimer speaks of: one tick after reset; at OFF, with the accumulator at its largest value, the
1,907 whole ticks of a slow cycle and one that the accumulator carries. -/
theorem idle_steps_at_work :
    (∃ t, step State.reset = .next t ∧ t.timer = 1) ∧
    ∃ t, step { State.reset with phase := .off, timerFrac := 32767 } = .next t ∧ t.timer = 1908 ∧ t.timerFrac = 11423 := by
  obtain ⟨a, ha, -, hon, -⟩ := idleStepTicksTimer State.reset rfl
  obtain ⟨b, hb, -, -, hoff⟩ := idleStepTicksTimer { State.reset with phase := .off, timerFrac := 32767 } rfl
  obtain ⟨htimer, -⟩ := hon (by decide)
  obtain ⟨hcount, hlt⟩ := hoff rfl
  have hstart : State.reset.timer = 0 := rfl
  simp only [hstart] at htimer hcount
  exact ⟨⟨a, ha, htimer⟩, b, hb, by omega, by omega⟩

end Sys2Proof.Machine
end
